-- ==== Sys2Proof/Word.lean ====
section
/-! DEFINITION. The words of the machine: a byte, a 32-bit word, a 64-bit register word (R8, R9, R11), and the numbers of
the module's units (the name table of 00_scope.md). -/

namespace Sys2Proof

/-- One byte. -/
abbrev Byte := BitVec 8

/-- A 32-bit word of an image or a lane store. -/
abbrev Word32 := BitVec 32

/-- A 64-bit register word. -/
abbrev Word64 := BitVec 64

/-- A station, ST00 to ST63. -/
abbrev StationId := Fin 64

/-- A lane row within a station, LR00 to LR32. -/
abbrev LaneRowId := Fin 33

/-- A DRAM stack, S00 to S31. -/
abbrev StackId := Fin 32

/-- A flash channel, FC000 to FC191. -/
abbrev ChannelId := Fin 192

/-- A stripe group of NAND dies, G00 to G95. -/
abbrev GroupId := Fin 96

/-- A branch line, BL00 to BL23. -/
abbrev LineId := Fin 24

/-- A timetable slot, TS00 to TS63. -/
abbrev SlotId := Fin 64

/-- A job, J000 to J255. -/
abbrev JobId := Fin 256

/-- A queue, Q0000 (admin) to Q1023. -/
abbrev QueueId := Fin 1024

/-- A compute die, D0 to D3. -/
abbrev DieId := Fin 4

/-- A configuration-store device, CS0 or CS1. -/
abbrev CfsId := Fin 2

/-- A clock island, 0 to 140 (R202). -/
abbrev IslandId := Fin 141

/-- A capacitor string of the hold-up bank (R28). -/
abbrev StringId := Fin 6

/-- A write of JOB.CTL with a CMD of 2 to 4: its JOB, and the fields that the command does not use, which it writes too (R12, R655). -/
structure JobCtlWrite where
  job : JobId
  slot : SlotId
  mask : Nat
deriving DecidableEq, Repr

/-- A write of STN.CTR_CTL with SNAP or CLEAR: its station, and whether the other of the two bits is 1 as well (R98). -/
structure CtrCtlWrite where
  station : StationId
  both : Bool
deriving DecidableEq, Repr

/-- The dies that a failure names: one, or with `far` the two at the ends of a bridge (R36). -/
structure FailedDies where
  die : DieId
  far : Option DieId
deriving DecidableEq, Repr

end Sys2Proof
end

