-- ==== Sys2Proof/Syntax.lean ====
section
/-! DEFINITION. The commands of the module: one constructor for each row of the opcode table, with the operands the
command carries. A command on a queue carries its queue only: its fields stand in the SQ entry at the queue's head
(R428). Where a row is the outcome of work outside the model's reach (a sensing, a training, a measurement, an answer
of the host), the outcome is an operand. -/

namespace Sys2Proof

/-- A command. -/
inductive Instr where
  /-- READ (R444). Host command that reads LBAs through the tier and writes them to host memory, then posts its CQ
  entry. -/
  | read (q : QueueId)
  /-- WRITE (R445). Host command that reads data from the host and writes the pages as content writes, completing when
  every page generation is even. -/
  | write (q : QueueId)
  /-- FLUSH (R449). Host command that starts write-back and unit programs for a range and completes when its dirty
  LBAs are programmed and committed. -/
  | flush (q : QueueId)
  /-- RELEASE (R450). Host command that unmaps a range of LBAs as a content write at each page it touches. -/
  | release (q : QueueId)
  /-- SCAN (R373). Host command that runs a predicate program over a stored extent and writes answer packets and a
  summary. -/
  | scan (q : QueueId)
  /-- SEARCH (R328). Host command that walks an index graph and the siding for the K best results and writes a result
  packet. -/
  | search (q : QueueId)
  /-- EMBED (R376). Host command that runs an encoder job over stored items in batches and copies each item's output.
  -/
  | embed (q : QueueId)
  /-- INGEST (R381). Host command that writes items, embeds them and appends their vectors to an index siding in one
  counter-line write. -/
  | ingest (q : QueueId)
  /-- INDEX_PUT (R338). Host command that assigns ids, writes vectors, codes and states, and appends siding entries.
  -/
  | indexPut (q : QueueId)
  /-- INDEX_DEL (R340). Host command that tombstones the LIVE ids it names and writes their losing siding entries. -/
  | indexDel (q : QueueId)
  /-- RUN (R451). Host command that requests a run of a job, or places rows into the job's batcher. -/
  | run (q : QueueId)
  /-- JOB_SIGNAL_HOLD (R291). JOB_SIGNAL that sets HOLD so that no run of the job starts. -/
  | jobSignalHold (q : QueueId)
  /-- JOB_SIGNAL_UNHOLD (R291). JOB_SIGNAL that clears HOLD. -/
  | jobSignalUnhold (q : QueueId)
  /-- JOB_SIGNAL_END (R291). JOB_SIGNAL that ends the job as UNBIND does. -/
  | jobSignalEnd (q : QueueId)
  /-- JOB_SIGNAL_WEIGHT (R291). JOB_SIGNAL that sets the job's share weight. -/
  | jobSignalWeight (q : QueueId)
  /-- IDENTIFY_MODULE (R455). IDENTIFY with CNS 0, which writes the module structure to host memory. -/
  | identifyModule (q : QueueId)
  /-- IDENTIFY_QUEUE_LIST (R455). IDENTIFY with CNS 1, which writes the bitmap of queues that are not DELETED. -/
  | identifyQueueList (q : QueueId)
  /-- QUEUE_CREATE (R438). Admin command that creates a queue and creates or joins its CQ. -/
  | queueCreate (q : QueueId)
  /-- QUEUE_RESET (R457). Admin command that aborts a queue's outstanding commands with 0x3002 and returns the queue
  to CREATED. -/
  | queueReset (q : QueueId)
  /-- QUEUE_DELETE (R459). Admin command that resets a queue and then deletes it. -/
  | queueDelete (q : QueueId)
  /-- STITCH (R187). Admin command that assigns a slot, or a replacement of one, and starts reading a timetable
  container. -/
  | stitch (q : QueueId)
  /-- UNSTITCH (R187). Admin command that frees a STITCHED slot with no bound jobs. -/
  | unstitch (q : QueueId)
  /-- FW_STAGE_IMAGE (R588). FW_STAGE of KIND 0, which writes and verifies a firmware image in the region that is not
  running. -/
  | fwStageImage (q : QueueId)
  /-- FW_STAGE_LIBRARY_ADD (R530). FW_STAGE of KIND 1, which writes a container to the library, checks it and commits
  its directory entry. -/
  | fwStageLibraryAdd (q : QueueId)
  /-- FW_STAGE_LIBRARY_REMOVE (R588). FW_STAGE of KIND 2, which commits a record that removes a library entry. -/
  | fwStageLibraryRemove (q : QueueId)
  /-- FW_ACTIVATE (R590). Admin command that activates the staged firmware by handing each die over to its standby
  core. -/
  | fwActivate (q : QueueId)
  /-- FW_ACTIVATE_NEXT_BOOT (R589). FW_ACTIVATE with NEXT_BOOT, which commits FW_BOOT to the staged region and
  completes at once. -/
  | fwActivateNextBoot (q : QueueId)
  /-- SANITISE_BLOCK_ERASE (R582). SANITISE with ACTION 0, which drops media frames and erases every block in
  resumable rounds. -/
  | sanitiseBlockErase (q : QueueId)
  /-- SANITISE_OVERWRITE (R582). SANITISE with ACTION 1, which programs zeros into every block before erasing it. -/
  | sanitiseOverwrite (q : QueueId)
  /-- FORMAT (R585). Admin command that unmaps every logical section in one journal commit and then erases in the
  background. -/
  | format (q : QueueId)
  /-- LOG_GET (R456). Admin command that writes event log records from START into a host buffer. -/
  | logGet (q : QueueId)
  /-- SETTING_SET (R527). Admin command that commits a settings record. -/
  | settingSet (q : QueueId)
  /-- SETTING_GET (R527). Admin command that writes a setting's value in force and its value pending to the host. -/
  | settingGet (q : QueueId)
  /-- SPARE_ACT_DRAM_ROW_REPAIR (R556). SPARE_ACT action 0, which starts a DRAM row repair onto a spare row. -/
  | spareActDramRowRepair (q : QueueId)
  /-- SPARE_ACT_LANE_ROW_RETIRE (R558). SPARE_ACT action 1, which retires a lane row to LR32. -/
  | spareActLaneRowRetire (q : QueueId)
  /-- SPARE_ACT_STATION_RETURN (R559). SPARE_ACT action 2, which self-tests a fenced station and returns it to service
  with its TS00 image. -/
  | spareActStationReturn (q : QueueId)
  /-- SPARE_ACT_ERROR_INJECTION (R559). SPARE_ACT action 3, which alters one stored word so that its next read reports
  the error. -/
  | spareActErrorInjection (q : QueueId)
  /-- FABRIC_SET_INSTALL (R405). FABRIC_SET INSTALL, which checks a fabric table and applies it between steps. -/
  | fabricSetInstall (q : QueueId)
  /-- FABRIC_SET_PULL (R411). FABRIC_SET PULL, which copies a peer's depot range by COPY_REQs on branch lines. -/
  | fabricSetPull (q : QueueId)
  /-- FABRIC_SET_CLEAR (R405). FABRIC_SET CLEAR, which removes the fabric table and moves UP lines to UNASSIGNED. -/
  | fabricSetClear (q : QueueId)
  /-- SHUNT (R343). Admin command that merges siding entries into the graph, repairs lists and frees deleted ids. -/
  | shunt (q : QueueId)
  /-- UNKNOWN_OPCODE (R441). An entry whose opcode is not listed, which completes with 0x1002. -/
  | unknownOpcode (q : QueueId)
  /-- SQ_ENTRY_UNCORRECTABLE (R426). An entry taken from the queue window with an uncorrectable word completes with
  0x2001 and CID 0xFFFF. -/
  | sqEntryUncorrectable (q : QueueId)
  /-- SQ_TAIL_DOORBELL (R429). A write of an SQ tail doorbell is checked and, if accepted, makes new entries available
  to be taken. -/
  | sqTailDoorbell (q : QueueId) (tail : Nat)
  /-- CQ_HEAD_DOORBELL (R429). A write of a CQ head doorbell is checked and, if accepted, frees CQ room. -/
  | cqHeadDoorbell (q : QueueId) (head : Nat)
  /-- COMPLETION_ARRIVAL (R225). The command tracker accepts the last completion message of a command and decides its
  completion. -/
  | completionArrival (place : Nat) (late : Bool)
  /-- COMMAND_TIMEOUT (R226). A command's timer expires before its arrival, and it completes with 0x3001 and its units
  are told to stop. -/
  | commandTimeout (place : Nat)
  /-- HELD_COMPLETION_POST (R435). A completion held for CQ room is posted once room appears. -/
  | heldCompletionPost (cq : QueueId)
  /-- CQ_AGGREGATION_TIMEOUT (R436). AGG_US passes after the first unsignalled CQ entry and the CQ's MSI-X vector is
  raised. -/
  | cqAggregationTimeout (cq : QueueId)
  /-- ADMIN_QUEUE_ENABLE (R439). A write of ENABLE = 1 to QUE.ADMIN_CTL creates Q0000 from the admin registers. -/
  | adminQueueEnable
  /-- ADMIN_QUEUE_DISABLE (R439). A write of ENABLE = 0 to QUE.ADMIN_CTL deletes Q0000. -/
  | adminQueueDisable
  /-- ADMIN_QUEUE_RESET (R439). A write of RESET = 1 to QUE.ADMIN_CTL resets Q0000 as QUEUE_RESET would. -/
  | adminQueueReset
  /-- JOB_BIND (R285). JOB.CTL CMD BIND, which checks the staged buffers and binds the job to a slot. -/
  | jobBind (j : JobId) (slot : SlotId) (mask : Nat)
  /-- JOB_UNBIND (R655). JOB.CTL CMD UNBIND, which ends the job or sets END_PENDING. -/
  | jobUnbind (w : JobCtlWrite)
  /-- JOB_EXPRESS_ON (R302). JOB.CTL CMD EXPRESS_ON, which admits the job as express if the response tests hold. -/
  | jobExpressOn (w : JobCtlWrite)
  /-- JOB_EXPRESS_OFF (R655). JOB.CTL CMD EXPRESS_OFF, which clears the job's EXPRESS. -/
  | jobExpressOff (w : JobCtlWrite)
  /-- JOB_CTL_RESERVED_CMD (R655). A JOB.CTL write with a reserved CMD posts 0x1001 and does nothing else. -/
  | jobCtlReservedCmd (value : Word64)
  /-- EXPRESS_SHARE_WRITE (R306). A write of JOB.SCHED.EXPRESS_SHARE sets the share and re-runs the express admission
  tests. -/
  | expressShareWrite (share : Fin 128)
  /-- COUNTER_SNAPSHOT (R98). STN.CTR_CTL SNAP copies every counter of the station into STN.LR_SNAP in one cycle. -/
  | counterSnapshot (w : CtrCtlWrite)
  /-- COUNTER_CLEAR (R98). STN.CTR_CTL CLEAR sets every counter of the station to 0 in one cycle. -/
  | counterClear (w : CtrCtlWrite)
  /-- PRIV_LOCK_SET (R607). A write of 1 to GLB.PRIV_LOCK.LOCK freezes every rwl field. -/
  | privLockSet
  /-- UNLOCK_NEW_CHALLENGE (R610). GLB.UNLOCK_CTL NEW_CHAL asks the security engine for a new 32-byte challenge. -/
  | unlockNewChallenge (signer : Fin 8)
  /-- UNLOCK_CHALLENGE_READY (R610). The security engine fills GLB.UNLOCK_CHAL and sets CHAL_VALID. -/
  | unlockChallengeReady
  /-- UNLOCK_VERIFY (R610). GLB.UNLOCK_CTL VERIFY starts verification of the staged signature over the challenge. -/
  | unlockVerify (signer : Fin 8)
  /-- UNLOCK_VERIFY_DONE (R610). Verification ends, posts RESULT, and clears the lock on success. -/
  | unlockVerifyDone
  /-- UNLOCK_CHALLENGE_LAPSE (R611). A challenge lapses 60 s after it was made. -/
  | unlockChallengeLapse
  /-- UNLOCK_BACKOFF_END (R611). The 10 s back-off after repeated failed verifications ends. -/
  | unlockBackoffEnd
  /-- SIGNER_KEY_INSTALL (R614). SEC.KEY_CTL CMD install checks a staged key and commits it for signer n. -/
  | signerKeyInstall (signer : Fin 8)
  /-- SIGNER_KEY_REMOVE (R614). SEC.KEY_CTL CMD remove commits an all-zero key for signer n. -/
  | signerKeyRemove (signer : Fin 8)
  /-- RAW_READ_START (R510). FLS.RAW_CTL START starts a raw read of one physical sub-block. -/
  | rawReadStart
  /-- RAW_READ_DONE (R510). A raw read ends and places its data and status in FLS.RAW_DATA and FLS.RAW_CTL. -/
  | rawReadDone (ok : Bool) (data : List Byte)
  /-- STACK_CE_LOG_CLEAR (R563). MEM.ECC_CFG CLEAR_LOG empties the stack's correctable-error log. -/
  | stackCeLogClear (n : StackId)
  /-- STATION_CE_LOG_CLEAR (R564). STN.ECC_CFG CLEAR_LOG empties the station's correctable-error log. -/
  | stationCeLogClear (s : StationId)
  /-- LINE_ENABLE (R397). Setting BRL.LINE_CTL.ENABLE moves a DISABLED line to DOWN. -/
  | lineEnable (b : LineId)
  /-- LINE_DISABLE (R397). Clearing BRL.LINE_CTL.ENABLE turns the line's lanes off and moves it to DISABLED. -/
  | lineDisable (b : LineId)
  /-- LINE_RETRAIN_REQUEST (R397). BRL.LINE_CTL RETRAIN moves a FAILED line to DOWN and clears its retrain history. -/
  | lineRetrainRequest (b : LineId)
  /-- EVENT_CFG_WRITE (R624). A write of GLB.EVENT_CFG that may raise the event vector when a MASK bit is set over a
  pending status bit. -/
  | eventCfgWrite (value : Word64)
  /-- REGISTER_WRITE (R12). A write to a register with no row of its own, applied by its access codes. -/
  | registerWrite (bar : Fin 3) (offset : Nat) (size : Nat) (value : Word64)
  /-- COUNTER_LOW_HALF_READ (R97). A 32-bit read of a counter's low half latches its high half for the next read. -/
  | counterLowHalfRead (offset : Nat)
  /-- CLEAR_ON_READ (R15). A read of an rc field returns its value and clears it. -/
  | clearOnRead (offset : Nat)
  /-- MIRROR_READ (R606). A read of a user-view mirror word returns it with UNDERRUN and consumes the push. -/
  | mirrorRead (offset : Nat) (size : Nat)
  /-- TMX_SAMPLE_READ (R208). A read of TMX.SAMPLE returns the pushed pin values with UNDERRUN from a sampling reader.
  -/
  | tmxSampleRead (pushed : List (Fin 32))
  /-- MIRROR_PUSH_STATION (R606). Every 1,024 station cyc a station pushes its lane-row counters to the mirror memory.
  -/
  | mirrorPushStation (s : StationId)
  /-- MIRROR_PUSH_JOB (R606). Every 1,024 signal-box cyc a home signal box pushes its jobs' mirror words. -/
  | mirrorPushJob (d : DieId)
  /-- CONFIG_REQUEST (R424). A PCIe configuration request is answered with retry status before 60 ms and in full
  after. -/
  | configRequest (ms : Nat) (offset : Nat)
  /-- HDM_DECODER_COMMIT (R425). The host programs and commits the HDM decoder base over the queue window and host
  window. -/
  | hdmDecoderCommit (base : Nat)
  /-- CXL_MEM_LOAD (R278). A CXL.mem load of a host-window page returns 64 B or poison. -/
  | cxlMemLoad (addr : Nat)
  /-- CXL_MEM_STORE (R278). A CXL.mem store writes 64 B to a host-window page as a content write. -/
  | cxlMemStore (addr : Nat) (data : List Byte)
  /-- QUEUE_WINDOW_STORE (R426). A CXL.mem store into the queue window lands at once or is merged. -/
  | queueWindowStore (addr : Nat) (data : List Byte)
  /-- QUEUE_WINDOW_LOAD (R426). A CXL.mem load of the queue window returns the stored bytes or poison. -/
  | queueWindowLoad (addr : Nat)
  /-- GLOBAL_PERSISTENT_FLUSH (R423). A Global Persistent Flush is acknowledged with nothing to flush. -/
  | globalPersistentFlush
  /-- LINK_TRAINED (R422). The CXL port finishes training at x16 or x8 and 128, 64 or 32 GT/s. -/
  | linkTrained (width : Nat) (rate : Nat)
  /-- LINK_DOWN (R460). The link goes down: commands are aborted undelivered and the queues are deleted. -/
  | linkDown
  /-- HOT_RESET (R460). A hot reset acts as a link loss on commands and queues. -/
  | hotReset
  /-- PERST_ASSERT (R634). PERST# driven low is link down for the CXL port only. -/
  | perstAssert
  /-- PERST_DEASSERT (R635). PERST# rising sets the clocking mode and starts port training. -/
  | perstDeassert (refclk : Bool)
  /-- DOE_DISCOVERY (R619). A DOE Discovery request is answered from the mailbox. -/
  | doeDiscovery (index : Nat)
  /-- CDAT_READ (R423). A CXL Table Access request returns the CDAT with its DSMAS entry. -/
  | cdatRead (handle : Nat)
  /-- GET_VERSION (R620). SPDM GET_VERSION request over DOE. -/
  | getVersion (request : List Byte)
  /-- GET_CAPABILITIES (R620). SPDM GET_CAPABILITIES request over DOE. -/
  | getCapabilities (request : List Byte)
  /-- NEGOTIATE_ALGORITHMS (R620). SPDM NEGOTIATE_ALGORITHMS request over DOE. -/
  | negotiateAlgorithms (request : List Byte)
  /-- GET_DIGESTS (R620). SPDM GET_DIGESTS request over DOE. -/
  | getDigests (request : List Byte)
  /-- GET_CERTIFICATE (R613). SPDM GET_CERTIFICATE request returning the slot 0 chain. -/
  | getCertificate (request : List Byte)
  /-- CHALLENGE (R620). SPDM CHALLENGE request signed with the device identity key. -/
  | challenge (request : List Byte)
  /-- GET_MEASUREMENTS (R622). SPDM GET_MEASUREMENTS request reporting measurements as of its decode cycle. -/
  | getMeasurements (request : List Byte)
  /-- CHUNK_GET (R620). SPDM CHUNK_GET request returning the next chunk of a large response. -/
  | chunkGet (request : List Byte)
  /-- DOE_OVERSIZE_REQUEST (R619). A DOE request longer than 64 KiB sets DOE Error and is discarded. -/
  | doeOversizeRequest (length : Nat)
  /-- SMBUS_OFFSET_WRITE (R637). A one-byte SMBus write sets the read offset of the identity record. -/
  | smbusOffsetWrite (ms : Nat) (offset : Nat)
  /-- SMBUS_READ (R637). An SMBus read returns consecutive bytes of the identity and health record. -/
  | smbusRead (ms : Nat) (n : Nat)
  /-- EXTEST (R648). Boundary-scan EXTEST instruction, active only with SCAN_EN high. -/
  | extest (d : DieId) (pins : List Bool) (tdi : List Bool)
  /-- IDCODE (R648). Boundary-scan IDCODE instruction returning the die's identity code. -/
  | idcode (d : DieId) (pins : List Bool) (tdi : List Bool)
  /-- SAMPLE_PRELOAD (R648). Boundary-scan SAMPLE/PRELOAD instruction. -/
  | samplePreload (d : DieId) (pins : List Bool) (tdi : List Bool)
  /-- CLAMP (R648). Boundary-scan CLAMP instruction, active only with SCAN_EN high. -/
  | clamp (d : DieId) (pins : List Bool) (tdi : List Bool)
  /-- HIGHZ (R648). Boundary-scan HIGHZ instruction, active only with SCAN_EN high. -/
  | highz (d : DieId) (pins : List Bool) (tdi : List Bool)
  /-- BYPASS (R648). Boundary-scan BYPASS instruction and every other code. -/
  | bypass (d : DieId) (code : Nat) (tdi : List Bool)
  /-- PRES_MATE (R640). PRES# mates with V_IN present and starts the 50 ms wait before the input stage closes. -/
  | presMate (millivolts : Nat)
  /-- INPUT_STAGE_CLOSE (R640). After 50 ms of PRES# mated, the input stage closes and charges under the inrush limit.
  -/
  | inputStageClose
  /-- SUPPLIES_VALID (R565). The input holds 43 V for 10 ms with every regulator in regulation, and power-up starts.
  -/
  | suppliesValid (scanEn : Bool)
  /-- ISLAND_CLOCK_START (R203). An island's clock starts and its cycle counter begins at 0. -/
  | islandClockStart (i : IslandId)
  /-- CHECKER_SELF_TEST (R552). A checker's self-test completes and a failing checker fences its unit. -/
  | checkerSelfTest (i : IslandId) (checker : Nat) (failed : Option (Fin 7))
  /-- FIRMWARE_BOOT_VERIFY (R567). The boot ROM finishes digesting and verifying the firmware images, and the cores
  start the one that passed. -/
  | firmwareBootVerify
  /-- MAP_REBUILD (R490). The flash map is rebuilt from the newest checkpoint and the journal, and flush sections are
  replayed. -/
  | mapRebuild
  /-- SANITISE_RESUME (R571). An unfinished sanitise resumes from its last committed unit after power-up step 6. -/
  | sanitiseResume
  /-- BASE_TIMETABLE_STITCH (R196). The base container is stitched into TS00 from CS0 or CS1 at power-up. -/
  | baseTimetableStitch
  /-- SERVICE_ENTRY (R567). Memory_Active is set and the module enters service. -/
  | serviceEntry (ms : Nat)
  /-- INPUT_DIP (R574). An input dip below 42 V ends within 20 µs and is only counted. -/
  | inputDip
  /-- POWER_LOSS (R575). The input stays below 42 V for 20 µs, work stops and the hold-up flush begins. -/
  | powerLoss
  /-- PRES_BREAK (R641). PRES# breaks for 20 µs, the input stage opens and the power-loss sequence runs. -/
  | presBreak
  /-- HOLD_UP_FLUSH_DONE (R575). FLUSH_DONE is committed and the flash channels and stacks are idle. -/
  | holdUpFlushDone
  /-- POWER_RETURN (R579). Input returns after a loss is detected, and the module waits for supplies valid for a cold
  power-up. -/
  | powerReturn
  /-- HOLDUP_ENERGY_MEASURE (R572). Every 1 ms the usable bank energy is measured and the dirty limit is set. -/
  | holdupEnergyMeasure (millijoules : List Nat)
  /-- STRING_TEST (R573). Every 24 hours each capacitor string is discharge-tested. -/
  | stringTest (string : StringId) (millijoules : Nat) (ok : Bool)
  /-- SENSOR_UPDATE (R626). Every 1 ms the PWR sensor registers are updated. -/
  | sensorUpdate (temps : List Int) (inlet : Int) (outlet : Int) (millivolts : Nat) (deciwatts : Nat)
  /-- SERVICE_END (R595). A failure of a compute die, the host port or the input stage ends service with event 0x0907.
  -/
  | serviceEnd (cause : Fin 16) (d : FailedDies)
  /-- MANAGEMENT_CORE_FAILURE (R32). An active management core fails and the standby core of its die takes over. -/
  | managementCoreFailure (d : DieId)
  /-- STANDBY_CORE_RESTART (R590). A standby core finishes restarting on the staged image and self-testing during
  activation. -/
  | standbyCoreRestart (d : DieId) (ok : Bool)
  /-- DIE_HANDOVER (R590). A die's active core stops at a task boundary and its standby core takes the die's duties.
  -/
  | dieHandover (d : DieId)
  /-- STITCH_CONTAINER_LOADED (R187). A STITCH's container is read in full and the checks run, reserving resources or
  freeing the slot. -/
  | stitchContainerLoaded
  /-- STITCH_IMAGE_PLACED (R187). The image is written on every station and the slot becomes STITCHED or enters
  HANDOVER. -/
  | stitchImagePlaced
  /-- BATCH_WAIT_EXPIRY (R118). An open batch's wait timer reaches WAIT_US and the batch closes. -/
  | batchWaitExpiry (j : JobId)
  /-- BATCH_PLACE_FREE (R119). A closed-batch place frees and a batch held open by R119 closes. -/
  | batchPlaceFree (j : JobId)
  /-- DISPATCHER_VISIT (R292). A station's dispatcher visits the next job in its circle and switches to it if it has
  work. -/
  | dispatcherVisit (s : StationId)
  /-- BALANCE_EXHAUSTED (R292). A job's balance on a station falls to 0 or below and the station orders it out. -/
  | balanceExhausted (s : StationId)
  /-- SWITCH_PART_END (R296). A lane row ends its part of the outgoing job, by last slot, cut pass or nothing in
  flight. -/
  | switchPartEnd (s : StationId) (n : LaneRowId)
  /-- SWAP_END (R297). The 40-cyc swap ends and the incoming job's first pass may issue. -/
  | swapEnd (s : StationId)
  /-- STATION_END_MESSAGE (R288). The home signal box receives a station's end message and, with the last, ends the
  run. -/
  | stationEndMessage (s : StationId) (j : JobId)
  /-- ABANDON_REPORT (R289). A station reports its stopped part of an abandoned run, and with the last report the
  commands complete. -/
  | abandonReport (s : StationId) (j : JobId)
  /-- PASS_ISSUE (R48). A lane row issues its next pass once its waits and fronts allow. -/
  | passIssue (s : StationId) (n : LaneRowId)
  /-- PASS_VERDICT (R141). At cycle V the clip total is compared with the budget and outputs are released, or a wide
  re-run called. -/
  | passVerdict (s : StationId) (n : LaneRowId)
  /-- WIDE_PASS_ISSUE (R148). A wide re-run pass issues after its lead, reading BF16 rows through the re-run port. -/
  | widePassIssue (s : StationId) (n : LaneRowId)
  /-- PASS_SPAN_END (R51). A pass's last accumulator write ends its span and adds a pass-end token. -/
  | passSpanEnd (s : StationId) (n : LaneRowId)
  /-- LANE_TAIL_ROW (R88). The lane tail accepts a converted row from its queue and performs its operation. -/
  | laneTailRow (s : StationId)
  /-- LANE_ROW_RETIRE_START (R558). At a pass boundary a faulty lane row and LR32 are held and the lane store copy
  starts. -/
  | laneRowRetireStart (s : StationId) (n : LaneRowId)
  /-- LANE_ROW_RETIRE_DONE (R558). The lane store copy ends, STN.LR_SPARE is set and the FUSE record committed. -/
  | laneRowRetireDone (s : StationId) (n : LaneRowId)
  /-- COPY_ISSUE (R253). A copy issues in program order once its tokens are present. -/
  | copyIssue (s : StationId) (n : LaneRowId)
  /-- COPY_REQUEST_SEND (R254). A copy request of up to 256 B is sent when a copy slot is free. -/
  | copyRequestSend (s : StationId) (n : LaneRowId) (seq : Nat)
  /-- COPY_REQUEST_DATA (R254). A copy request's data arrives and is written at its destination, freeing the slot. -/
  | copyRequestData (s : StationId) (n : LaneRowId) (seq : Nat) (offset : Nat)
  /-- COPY_COMPLETE (R256). A copy completes when every request has written and every source page has confirmed. -/
  | copyComplete (s : StationId) (n : LaneRowId) (seq : Nat)
  /-- GENERATION_CONFIRM (R267). A home stack compares a recorded generation with the current one for a copy or fetch.
  -/
  | generationConfirm (s : StationId) (n : LaneRowId) (seq : Nat) (page : Nat)
  /-- STREAM_FETCH (R262). A prefetcher issues the next page fetch of its stream, or skips it. -/
  | streamFetch (s : StationId) (place : Fin 8) (stream : Fin 8)
  /-- STREAM_FETCH_DATA (R263). A stream fetch's data lands in its ring slot. -/
  | streamFetchData (s : StationId) (place : Fin 8) (stream : Fin 8) (k : Nat)
  /-- TIER_ENTRY_LOOKUP (R250). A request looks up its page's tier entry in the home die's depot cache. -/
  | tierEntryLookup (d : DieId) (page : Nat)
  /-- PROMOTION_COMPLETE (R242). A promotion's flash reads complete and the page becomes resident. -/
  | promotionComplete (page : Nat)
  /-- STACK_READ (R241). A stack controller accepts a read and returns its first data within its class bound. -/
  | stackRead (addr : Nat) (fold : Nat) (errs : List (Nat × Nat × Byte))
  /-- CONTENT_WRITE_TURN (R265). A content write takes its turn at the home stack, bumping the generation around its
  bytes. -/
  | contentWriteTurn (page : Nat)
  /-- WRITE_BACK_TIMER (R244). 1 ms after the last write to a dirty frame its write-back begins. -/
  | writeBackTimer (page : Nat)
  /-- DIRTY_LIMIT_RELEASE (R245). A write waiting on the dirty limit proceeds once write-back brings dirty data down.
  -/
  | dirtyLimitRelease (page : Nat)
  /-- DRAM_ADDRESS_CLASS_REREAD (R545). The stack controller rereads a word reported address class. -/
  | dramAddressClassReread (n : StackId) (word : Nat) (again : Bool)
  /-- MIRROR_TAKEOVER (R246). The mirror stack takes the fenced stack's reserve share. -/
  | mirrorTakeover (n : StackId)
  /-- RESERVE_REBUILD_DONE (R247). After both copies of a reserve share are lost, the rebuild ends. -/
  | reserveRebuildDone (n : StackId)
  /-- WINDOW_LAYER_LOAD_START (R272). A weight window starts loading the next layer once the previous load ends and
  its place is free. -/
  | windowLayerLoadStart (j : JobId)
  /-- WINDOW_LAYER_LOADED (R272). A layer finishes loading into its place. -/
  | windowLayerLoaded (j : JobId)
  /-- WINDOW_LAYER_RELEASE (R273). A layer is released and its place's frames freed once no copy needs it. -/
  | windowLayerRelease (j : JobId)
  /-- WALKER_CONTEXT_ASSIGN (R325). A SEARCH gets a walker context and starts its query, joining a siding batch. -/
  | walkerContextAssign (place : Nat)
  /-- SIDING_BATCH_TIMEOUT (R324). A siding batch closes 20 µs after it opened and runs as a job run. -/
  | sidingBatchTimeout (root : Nat)
  /-- LIST_ARRIVAL (R329). A requested neighbour list arrives and the walker expands the best candidates. -/
  | listArrival (s : StationId) (ctx : Fin 16) (id : Nat)
  /-- RERANK_VECTOR_ARRIVAL (R336). A re-rank vector arrives and its exact distance is computed, leading to the merge
  and results. -/
  | rerankVectorArrival (s : StationId) (ctx : Fin 16) (id : Nat)
  /-- INDEX_PUT_RESUME (R339). A waiting INDEX_PUT continues once held ids or positions are freed. -/
  | indexPutResume (place : Nat)
  /-- SHUNT_PREPARE (R343). Once earlier commands complete, SHUNT writes the free ring and commits its epoch. -/
  | shuntPrepare (place : Nat)
  /-- SCAN_CONTEXT_ASSIGN (R354). A SCAN gets a scan context on each of its stations. -/
  | scanContextAssign (place : Nat)
  /-- SCAN_WORK_UNIT (R354). A station takes the next work unit and evaluates its records. -/
  | scanWorkUnit (place : Nat) (s : StationId)
  /-- LINE_SIGNAL_DETECT (R397). A DOWN line detects signal and starts training. -/
  | lineSignalDetect (b : LineId)
  /-- LINE_RETRY_TIMER (R397). 1 s after the last attempt a DOWN line starts training again. -/
  | lineRetryTimer (b : LineId)
  /-- LINE_TRAINING_LOCK (R397). Training or retraining locks lanes, FEC and alignment, and the line enters SERIAL. -/
  | lineTrainingLock (b : LineId)
  /-- LINE_TRAINING_TIMEOUT (R397). 250 ms without lock returns the line to DOWN. -/
  | lineTrainingTimeout (b : LineId)
  /-- IDENT_SEND_TIMER (R395). Every 1 µs in SERIAL a line sends an IDENT. -/
  | identSendTimer (b : LineId)
  /-- IDENT_RECEIVE (R395). A peer's IDENT is received and the line goes UP or UNASSIGNED. -/
  | identReceive (b : LineId) (body : List Byte)
  /-- LINE_LOSS_OF_LOCK (R397). Loss of lock sends the line to RETRAIN, or to FAILED on a third entry in 10 s. -/
  | lineLossOfLock (b : LineId)
  /-- CODEWORD_ERROR_BURST (R397). More than 64 uncorrectable codewords in 1 ms send the line to RETRAIN. -/
  | codewordErrorBurst (b : LineId)
  /-- FLIT_TRANSMIT (R390). A line sends a PAYLOAD, CONTROL or IDLE flit in a branch-line cyc. -/
  | flitTransmit (b : LineId)
  /-- FLIT_RECEIVE (R391). A flit is received and accepted or discarded, updating ACK, NAK and credits. -/
  | flitReceive (b : LineId) (flit : List Byte) (spoiled : Bool) (corrected : Nat) (uncorrectable : Nat)
  /-- REPLAY_TIMEOUT (R391). The oldest unacknowledged flit waits REPLAY_TMO and replay starts. -/
  | replayTimeout (b : LineId)
  /-- LINK_STATE_TIMER (R402). Every LINK_STATE_US a module sends LINK_STATE on its lines. -/
  | linkStateTimer
  /-- LINK_STATE (R402). A received LINK_STATE updates the peer's reported line states. -/
  | linkState (b : LineId)
  /-- DISPATCH (R404). A received DISPATCH packet's entries go to their expert regions, or it is discarded. -/
  | dispatch (b : LineId)
  /-- RETURN (R404). A received RETURN packet's outputs go to their returned slots. -/
  | return_ (b : LineId)
  /-- COPY_REQ (R411). A received COPY_REQ is answered from the tier, or with ERROR. -/
  | copyReq (b : LineId)
  /-- COPY_DATA (R411). A received COPY_DATA is written locally for a PULL. -/
  | copyData (b : LineId)
  /-- STEP_ABORT (R419). A received STEP_ABORT ends the step with 0x3004. -/
  | stepAbort (b : LineId)
  /-- DETOUR_FAIL (R417). A received DETOUR_FAIL resends the packet by another intermediate or aborts the step. -/
  | detourFail (b : LineId)
  /-- PACKET_FORWARD (R417). A first-hop packet at an intermediate is forwarded on a second-hop VC. -/
  | packetForward (b : LineId)
  /-- STEP_WAIT_EXPIRY (R415). STEP_WAIT_US after a peer's first packet the module starts the step without a batch. -/
  | stepWaitExpiry (n : Fin 4)
  /-- STEP_TIMEOUT (R419). STEP_TIMEOUT_US passes before the step ends and it is aborted with 0x3003. -/
  | stepTimeout (n : Fin 4)
  /-- CABLE_MATE (R644). A cable mates and its identity memory sets equalisation before training. -/
  | cableMate (b : LineId) (memory : Option (List Byte))
  /-- CABLE_REMOVE (R644). A cable is removed and the line loses lock. -/
  | cableRemove (b : LineId)
  /-- CABLE_POWER_FAULT (R644). An active cable drawing more than 1.5 W has CBL_3V3 removed. -/
  | cablePowerFault (b : LineId)
  /-- CABLE_REFRESH (R644). Every 1 s BRL.CABLE is refreshed. -/
  | cableRefresh (b : LineId) (memory : Option (List Byte))
  /-- FLASH_READ_ISSUE (R491). A flash read is issued to its channel controller, suspending an erase where needed. -/
  | flashReadIssue (id : Nat)
  /-- FLASH_READ_DONE (R491). A flash read's sensing completes and it is decoded, retried or rebuilt. -/
  | flashReadDone (id : Nat) (step : Nat) (ok : Bool) (answer : Fin 3) (us : Nat) (ifErrors : Nat)
  /-- READ_AROUND_THRESHOLD (R492). A read outstanding RA_US starts a read-around if credit allows. -/
  | readAroundThreshold (id : Nat)
  /-- READ_AROUND_DONE (R492). A read-around's rebuild completes and wins or is discarded. -/
  | readAroundDone (id : Nat) (ok : Bool) (us : Nat)
  /-- ERASE_RESUME (R496). A suspended erase resumes when no read is queued or 1 ms after suspension. -/
  | eraseResume (sec : Nat)
  /-- ERASE_DONE (R475). A section's erase completes and it becomes FREE, retiring blocks that failed. -/
  | eraseDone (sec : Nat) (failed : List Nat)
  /-- UNIT_STAGE_TIMEOUT (R476). 2 ms after its first sub-block a staged unit is programmed. -/
  | unitStageTimeout (unit : Nat)
  /-- UNIT_PROGRAM_DONE (R476). A unit program completes and its journal record is committed. -/
  | unitProgramDone (unit : Nat) (failed : List Nat)
  /-- MERGE_VERIFY_DONE (R483). A merge target verifies and MAP_SET is committed. -/
  | mergeVerifyDone (lsec : Nat)
  /-- SECTION_ERASE_START (R484). A queued section enters ERASING once its old-mapping reads have completed. -/
  | sectionEraseStart (sec : Nat)
  /-- CHECKPOINT_TIMER (R489). Every 10 minutes a map checkpoint is written. -/
  | checkpointTimer
  /-- PATROL_READ_TIMER (R505). The flash patrol reads each programmed wordline unit every 14 days. -/
  | patrolReadTimer (sec : Nat) (unit : Nat)
  /-- CFS_PROGRAM_DONE (R525). A configuration-store program completes, committing a record. -/
  | cfsProgramDone (bad0 : Option Nat) (bad1 : Option Nat)
  /-- CFS_ERASE_DONE (R512). A configuration-store sector erase completes. -/
  | cfsEraseDone (dev : CfsId) (sector : Nat) (ok : Bool)
  /-- CFS_READ (R521). A configuration-store read completes, falling back and repairing from the mirror on CRC
  failure. -/
  | cfsRead (island : IslandId) (sector : Nat) (fetch : Bool) (ok0 : Bool) (ok1 : Bool)
  /-- ECC_WRITE_BACK (R543). A corrected word is written back unless a newer write intervened. -/
  | eccWriteBack (island : IslandId) (word : Nat)
  /-- PATROL_SCRUB_STEP (R549). Every SCRUB_US a stack controller scrubs one chunk. -/
  | patrolScrubStep (n : StackId) (addr : Option Nat) (fold : Nat) (errs : List (Nat × Nat × Byte))
  /-- SRAM_SCRUB_STEP (R550). Every 4,096 island cyc an SRAM memory scrubs one line. -/
  | sramScrubStep (i : IslandId) (mem : Nat) (line : Nat) (errs : List (Nat × Nat))
  /-- DRAM_ROW_REPAIR_DONE (R556). A DRAM row copy ends and the remap takes effect. -/
  | dramRowRepairDone (n : StackId)
  /-- SRAM_REPAIR (R557). An SRAM row or column repair copies lines into the spare once the port is held. -/
  | sramRepair (i : IslandId) (array : Nat) (column : Bool) (target : Nat)
  /-- HOST_READ_COMPLETION (R446). A CXL.io memory read of host memory ends with data, poisoned data, Unsupported
  Request, Completer Abort or completion timeout. -/
  | hostReadCompletion (place : Nat) (outcome : Fin 5) (data : List Byte)
  /-- STORE_COMPARED (R522). Power-up step 6 ends: the configuration-store comparison is done, the stacks are trained
  and host-window frames are allocated, and PWR.BOOT.PHASE reads 2. -/
  | storeCompared (differs : Nat)
  /-- MEASUREMENT_RECOMPUTE_DONE (R623). The digest engine finishes recomputing a measurement, for example 134 ms for
  a firmware image, and the new value takes effect in SEC.MEAS and SPDM responses. -/
  | measurementRecomputeDone (index : Nat)
deriving DecidableEq, Repr

end Sys2Proof
end

