-- ==== Sys2Proof/Decode.lean ====
section
/-! DEFINITION. The words that spell a command. The opcode table of this block gives no row any bits: its commands are
register accesses, queue entries, bus transfers, pins and the module's own events, so no word spells one. -/

namespace Sys2Proof

/-- The command a word spells by the table's bits: none (log entry 1). -/
def decodeTableWord (_nbits _w : Nat) : Option Instr := none

end Sys2Proof
end

