-- ==== Sys2Proof/Config.lean ====
section
/-! DEFINITION. What an AZX-6420 fixes at manufacture and the manual leaves open: constants of one module and free values.
No constant has a body, so nothing can be proved of one but what its type says (log entry 2). -/

namespace Sys2Proof.Config

/-! ## Constants of one module -/

/-- The module serial of the fuse map (BRL.SERIAL). -/
opaque serial : Nat
/-- The die stepping of the fuse map (GLB.ID.STEPPING). -/
opaque stepping : Nat
/-- The fused security version at manufacture (R618). -/
opaque fusedSvn : Nat
/-- The 57-byte device identity public key (R612). -/
opaque identityKey : List Byte
/-- The 57-byte public key of signer 0, Norler's (R614). -/
opaque norlerKey : List Byte
/-- The SPDM slot 0 certificate chain of the factory record (R613). -/
opaque certChain : List Byte
/-- The 64-byte SHAKE256 digest of D0's boot ROM (R621, index 1). -/
opaque romDigest : List Byte
/-- The eFuse arrays of D0 to D3 at a fused SVN, without the sealed key (R621, index 4). -/
opaque efuseImage : Nat → List Byte
/-- An SPDM signature with the device identity key over a message (R612, R620). -/
opaque identitySign : List Byte → List Byte
/-- The manufacturer code in bits [11:1] of the IDCODE (R648): Norler's JEDEC code, which the manual does not print. -/
opaque jedecCode : Nat
/-- The firmware images in regions A (0) and B (1) at manufacture (R519, R616). -/
opaque shippedImage : Nat → List Byte
/-- Of the base container that ships: a byte of its header that the manual does not give, its records before SEARCHK, and its
signature (R158, R195). -/
opaque shippedFigure : Nat → Byte
opaque shippedRecords : List Byte
opaque shippedSign : List Byte
/-- The bad sectors above sector 15 that the factory record of each configuration device lists, rising (R515). -/
opaque badSectors : Nat → List Nat
/-- The offset of the CXL device DVSEC in configuration space, which the port's maker places (R276). -/
opaque dvsecAt : Nat

/-! ## The base container that ships (R195, R348, R374; log entry 43) -/

/-- Its SEARCHK body: BEAM 64, EFFORT 120, WIDEN_MAX 4 (R348). -/
def shippedSearchk : List Byte := List.replicate 6 0 ++ [64, 0, 120, 0, 0, 0, 4] ++ List.replicate 51 0

/-- Its SCANPROG body: FORMAT 0, RECORD_BYTES 64, and LDI V0, 0; PNOT P0, P1; SKIPF P0; EMIT with mask 0 and B[0] = 1; END (R374). -/
def shippedScan : List Byte :=
  [0, 0, 5, 0, 64, 0, 0, 0, 0, 0, 0, 0, 0, 0, 0, 0] ++ [0x03, 0, 0, 0, 0, 0, 0, 0] ++ [0x26, 0, 1, 0, 0, 0, 0, 0] ++
    [0x38, 0, 0, 0, 0, 0, 0, 0] ++ [0x3C, 0, 0, 1, 0, 0, 0, 0] ++ [0x3F, 0, 0, 0, 0, 0, 0, 0] ++ List.replicate 8 0

/-- A group-wide record of one byte's length (R161). -/
def groupRecord (typ len : Byte) (body : List Byte) : List Byte :=
  [typ, 0, 0, 0, len, 0, 0, 0, 0xFF, 0xFF, 0xFF, 0, 0, 0, 0, 0] ++ body

/-- Its body: the records the manual does not give, SEARCHK and SCANPROG. -/
def shippedBody : List Byte := shippedRecords ++ groupRecord 0x0A 64 shippedSearchk ++ groupRecord 0x0B 64 shippedScan

/-- Its header (R158): BASE and GROUP_SIZE 1 (R195), signed by signer 0; the other figures and the digest are not given. -/
def shippedHead : List Byte :=
  [0x41, 0x5A, 0x54, 0x54, 0, 1, 128, 0, 0x20, 0x64, shippedFigure 10, 0, 1, 0, 1 + 2 * (shippedFigure 14 % 8), 0] ++
    (List.range 4).map (fun i => BitVec.ofNat 8 (shippedBody.length / 256 ^ i)) ++ (List.range 16).map (fun i => shippedFigure (20 + i)) ++
    List.replicate 4 0 ++ (List.range 72).map (fun i => shippedFigure (40 + i)) ++ List.replicate 16 0

/-- The container (R157). -/
def shippedBase : List Byte := shippedHead ++ shippedBody ++ shippedSign

/-! ## Free values -/

/-- A free byte, bit, or number, by the count of free values drawn so far. -/
opaque freeByte : Nat → Byte
opaque freeBool : Nat → Bool
opaque freeNat : Nat → Nat

/-! ## Functions the manual bounds but does not fix to the bit -/

/-- Candidates for SiLU, GELU and e^x in FP32: each counts where it keeps the bounds of R89 (R88, `Machine/FixedPoint.lean`). -/
opaque silu : Nat → Nat
opaque gelu : Nat → Nat
opaque expf : Nat → Nat
/-- Candidates for the running sum of SOFTMAX_STATS, from the old maximum, the old sum and a row's values, and for that of SUMSQ: the
manual fixes no order or rounding of the sums; a candidate counts where it lies near the exact sum (R88, log entry 50). -/
opaque softmaxSum : Nat → Nat → List Nat → Nat
opaque sumSquares : Nat → List Nat → Nat

/-- The two hashes of the visited filter (R330): which of the two, and the id. -/
opaque filterHash : Nat → Nat → Nat
/-- The beam width and the prefetch of a link walk, which R344 does not state. -/
opaque linkWidth : Nat
opaque linkPrefetch : Nat
/-- The largest loss R386 allows a passive cable of 2.0 m, in 0.1 dB; the manual prints no figure (R644). -/
opaque worstCableLoss : Nat
/-- Parity symbol `i` of a codeword: the RS(544,514) code is that of IEEE Std 802.3dj, whose polynomials the manual does not repeat (R385). -/
opaque fecParity : List Nat → Nat → Nat

end Sys2Proof.Config
end

