-- ==== Sys2Proof/Machine/State.lean ====
section
/-! DEFINITION. The state of the module: everything the spec gives the AZX-6420, as plain data, and its value after reset.
Registers stand in one register file (`regs`), read and written through Machine/Regs.lean and Machine/Ops.lean; a
register word that nothing has written is unlisted and reads as its reset word (`resetWord`). Every other table is sparse
in the same way: an unlisted entry is the structure's default. -/

namespace Sys2Proof.Machine

/-- A sparse table: (key, entry) pairs, keys strictly rising, no entry equal to the default of its table. -/
abbrev Tbl (α : Type) := List (Nat × α)

/-- Bytes by address, in the same canonical form; an unlisted byte reads 0. -/
abbrev Memory := List Host.Cell

/-! ## The host port (12_host_queues.md, 06_junctions.md) -/

/-- What the module sends to the host, in the order sent (R216, R434, R436). -/
inductive HostMsg where
  /-- A CXL.io posted write of at most 256 B; `ep` is the poison bit of R446. -/
  | data (addr : Nat) (bytes : List Byte) (ep : Bool)
  /-- A 16 B CQ entry, one posted write (R433, R434). -/
  | cqEntry (addr : Nat) (bytes : List Byte)
  /-- An MSI-X message of a vector, with the address and data of its table entry (R436, R624). -/
  | msix (vector addr data : Nat)
  /-- The 64 B answer of a CXL.mem load, or poison (R278, R426). -/
  | loadAnswer (bytes : List Byte) (poison : Bool)
  /-- The completion of a CXL.mem store (R427). -/
  | storeDone
  /-- The value a register read returns (R97, R601, R606). -/
  | regAnswer (value : Nat)
  /-- A configuration request is answered in full, with the double word read (R424). -/
  | configAnswer (value : Nat)
  /-- A configuration request is answered with retry status (R424). -/
  | configRetry
  /-- The acknowledgement of a Global Persistent Flush (R423). -/
  | gpfAck
  /-- A DOE response object (R619 to R623). -/
  | doe (bytes : List Byte)
  /-- DOE Error is set (R619). -/
  | doeError
  /-- Bytes an SMBus read returns (R637). -/
  | smbus (bytes : List Byte)
  /-- An SMBus access is not acknowledged (R637). -/
  | smbusNack
  /-- Bits shifted out of the boundary-scan chain's data register (R648). -/
  | scanOut (bits : List Bool)
deriving DecidableEq, Repr

/-- The settings of a queue and of the CQ it owns that QUEUE_CREATE or QUE.ADMIN_CFG gives and no register shows (R438). -/
structure QueueCfg where
  /-- Entries of the SQ. -/
  sqSize : Nat := 0
  /-- DEFAULT_TIMEOUT_US, 0 for none. -/
  defaultTimeout : Nat := 0
  /-- Host address of the owned CQ. -/
  cqAddr : Nat := 0
  /-- Entries of the owned CQ. -/
  cqSize : Nat := 0
  irqEn : Bool := false
  aggCount : Nat := 0
  aggUs : Nat := 0
  /-- Entries written to the owned CQ since its last interrupt (R436). -/
  sinceIrq : Nat := 0
  /-- RESETTING ends in DELETED (R437). -/
  deleting : Bool := false
  /-- The place of the QUEUE_RESET or QUEUE_DELETE that waits for the reset's end; none for a reset by QUE.ADMIN_CTL. -/
  resetBy : Option Nat := none
  /-- Entries the reset in progress discarded untaken (R457). -/
  discarded : Nat := 0
  /-- The entry at HEAD waits for a class-0 place and has been counted (R432). -/
  waited : Bool := false
deriving DecidableEq, Repr

/-- One place of the command tracker (R432, R224 to R230). -/
structure Cmd where
  /-- The place holds a command. -/
  live : Bool := false
  queue : Nat := 0
  cls : Nat := 0
  /-- The 64 bytes of the SQ entry. -/
  entry : List Byte := []
  /-- The timeout in force, in µs (R224, R428). -/
  timeout : Option Nat := none
  /-- D0's signal-box counter when the entry was decoded, t0 (R224). -/
  t0 : Nat := 0
  /-- The units have sent their last completion message, so an arrival can be accepted (R225). -/
  ready : Bool := false
  /-- The completion has been decided and is held for CQ room (R435). -/
  decided : Bool := false
  status : Nat := 0
  result : Nat := 0
  /-- The module still reads the command's host list (R442). -/
  listing : Bool := false
  /-- Host address ranges of the command's data, in order (R442). -/
  ranges : List (Nat × Nat) := []
  /-- Bytes read from the host so far. -/
  got : List Byte := []
  /-- Bytes to be read from the host in all. -/
  want : Nat := 0
  /-- Pages, places or rows the command still waits for; what they are depends on the command. -/
  waits : List Nat := []
  /-- The index of the first failing LBA of a READ (R446). -/
  failed : Option Nat := none
  /-- The step the command has reached; what it counts depends on the command. -/
  phase : Nat := 0
  /-- A write made for it met an uncorrectable word that it covered only in part (R547). -/
  spoiled : Bool := false
deriving DecidableEq, Repr

/-- A completion held for CQ room (R435). -/
structure Held where
  cq : Nat
  place : Nat
deriving DecidableEq, Repr

/-- The weighted rounds of the signal box (R431): what is left of the round for classes 1 to 3, and the queue each class
served last. -/
structure Arb where
  left1 : Nat := 16
  left2 : Nat := 4
  left3 : Nat := 1
  last : List Nat := [0, 0, 0, 0]
deriving DecidableEq, Repr

/-- The CXL port and the queue machinery of D0's signal box. -/
structure HostSide where
  /-- The trained link: width and rate in GT/s (R422); none while the link is down. -/
  link : Option (Nat × Nat) := none
  /-- PERST# is high (R634). -/
  perst : Bool := false
  /-- Common-clock mode, else SRIS (R635). -/
  commonClock : Bool := false
  /-- The base the host committed into the HDM decoder (R425). -/
  hdmBase : Option Nat := none
  /-- Memory_Active (R567). -/
  memoryActive : Bool := false
  /-- The queue window, byte by byte (R425). -/
  window : Memory := []
  /-- The 8-byte words of the window that are uncorrectable (R426). -/
  windowBad : List Nat := []
  queues : Tbl QueueCfg := []
  cmds : Tbl Cmd := []
  held : List Held := []
  arb : Arb := {}
  /-- Completion messages still to come from commands that ended early, counted as late when they arrive (R228). -/
  late : Nat := 0
  /-- The MSI-X table (R424): the 16 bytes of each entry as a number, exclusive-or-ed with the mask bit it starts with. -/
  msixTable : Tbl Nat := []
  /-- MSI-X vectors pending while masked (R436). -/
  msixPending : List Nat := []
  /-- The high halves latched by 32-bit reads of low halves (R97), by the register word's BAR0 offset, or 2^32 more than its BAR2
  offset. -/
  latches : Tbl (Option Nat) := []
  /-- The levels of TMO0 to TMO31, the cycles for which each still holds its 1, and the levels of OBSCLK0 and OBSCLK1 (R627). -/
  tmo : List Bool := List.replicate 32 false
  tmoLeft : List Nat := List.replicate 32 0
  obs : List Bool := [false, false]
  /-- The held low half of a 64-bit register: BAR0 offset of the register, value (R602). -/
  heldLow : Option (Nat × Nat) := none
  /-- The value of D0's signal-box counter at the last logged lock refusal (R608). -/
  lastRefusal : Option Nat := none
  /-- Everything sent to the host, in order. -/
  outbox : List HostMsg := []
deriving DecidableEq, Repr

/-! ## Junctions and die bridges (06_junctions.md, 01_module.md) -/

/-- A copy's request on its way: the copying station, its lane row, the copy's sequence number and the source offset. -/
structure ReqId where
  station : Nat
  lane : Nat
  seq : Nat
  off : Nat
deriving DecidableEq, Repr

/-- An entry of a junction FIFO (R204): the 8-bit tag's route number, packet-start and packet-end bits, and 64 B of data. What a
request's entry holds is not laid down; the model keeps beside the data what it is and where it goes on to (log entry 49). -/
structure JEntry where
  route : Nat
  start : Bool := false
  fin : Bool := false
  data : List Byte := []
  /-- It goes before the others: the module's own traffic for class 0, or a route with EXPRESS set (R212). -/
  first : Bool := false
  /-- The entries its route reserves in the FIFO (R210, R211). -/
  credits : Nat := 8
  /-- The island it comes from, the request it is or answers, and the islands it goes on to after the reader's (R218). -/
  origin : Nat := 0
  req : Option ReqId := none
  path : List Nat := []
deriving DecidableEq, Repr

/-- One direction of a junction (R204 to R215). The pointers count modulo 128 and cross in Gray code. -/
structure Junction where
  /-- Entries and whole packets that wait to be written, oldest first. -/
  ready : List (List JEntry) := []
  /-- Entries written and not yet read, oldest first. -/
  fifo : List JEntry := []
  /-- The published write pointer, and the read pointer. -/
  wptr : Nat := 0
  rptr : Nat := 0
  /-- The write pointer as the reader's side has it, and the read pointer as the writer's side has it (R206). -/
  wSeen : Nat := 0
  rSeen : Nat := 0
  /-- Routes of the entries written and not yet seen freed, oldest first (R211). -/
  tags : List Nat := []
  /-- The route served last (R212). -/
  lastRoute : Nat := 63
  /-- The open packet: its entries still to come (R215). -/
  rest : List JEntry := []
  /-- The last entry read (R208). -/
  last : List Byte := []
deriving DecidableEq, Repr

/-- A packet of at most 256 B for a die bridge: its sending island, whether it carries a class-0 command or its data, its bytes,
and the entries it carries on (R35). -/
structure BPacket where
  sender : Nat
  class0 : Bool
  bytes : Nat
  entries : List JEntry := []
deriving DecidableEq, Repr

/-- One direction of a die bridge (R33 to R35). -/
structure Bridge where
  /-- Packets that wait, oldest first. -/
  queue : List BPacket := []
  /-- The packet that has begun. -/
  begun : Option BPacket := none
  /-- The island that sent last. -/
  last : Nat := 0
deriving DecidableEq, Repr


/-! ## The depot range and its tiers (07_depot.md) -/

/-- A tier page (R235 to R246, R265 to R268). -/
structure Page where
  /-- The content generation, modulo 2^32, even between writes. -/
  gen : Nat := 0
  /-- Bit i: LBA 16p + i is mapped (R233). -/
  mapped : Nat := 0
  /-- The page has a frame on its home stack. -/
  resident : Bool := false
  /-- A promotion of the page is reading flash (R242). -/
  promoting : Bool := false
  /-- The promotion has no frame yet: none was free outside the set-aside (R243, R271). -/
  owed : Bool := false
  /-- Bit i: sub-block i of the frame is dirty. -/
  dirty : Nat := 0
  /-- Bit i: sub-block i has been handed to write-back as it now stands (R244). -/
  writing : Nat := 0
  /-- Bit i: LBA i was lost with a fenced stack (R246). -/
  lost : Nat := 0
  /-- Bit i: LBA i is media-uncorrectable (R491, R500). -/
  bad : Nat := 0
  /-- Pins on the frame: window places and the host window (R271, R275). -/
  pins : Nat := 0
  /-- A scratch page that is allocated (R234). -/
  alloc : Bool := false
  /-- A host-window or scratch page whose frame was lost and that has not been stored since (R246). -/
  gone : Bool := false
  /-- New writes are held after 8 reissues: the identities of the copies that hold them (R268). -/
  holds : List Nat := []
  /-- A copy's write is in progress on the page, so that its generation is odd: the identity of the copy (R265). -/
  writer : Option Nat := none
  /-- Its window place has been released and its frame is freed as soon as it is clean (R273). -/
  leaving : Bool := false
deriving DecidableEq, Repr

/-- Bytes laid over the depot by a write whose outcome is still open (R230, R447); none once settled. -/
structure Layer where
  owner : Option Nat
  addr : Nat
  bytes : List Byte
deriving DecidableEq, Repr

/-- A content write waiting for its turn at a page's home stack (R265, R450): the command's place, the page, the bytes
(address and data), and whether it releases the LBAs of the mask instead. -/
structure Turn where
  place : Option Nat
  page : Nat
  addr : Nat
  bytes : List Byte
  release : Nat
  /-- The turn has been counted as waiting on the dirty limit (R245). -/
  waited : Bool := false
  /-- An engine's write: its command does nothing more at the turn, and only completes after it; or a CXL.mem store, which is
  answered then (R245, R268). -/
  engine : Bool := false
  reply : Bool := false
deriving DecidableEq, Repr

/-- The depot range, its tier and the depot caches. -/
structure Depot where
  /-- Added to the generation of every media page: the content writes of FORMAT and SANITISE, which touch all of them
  (R265, R585). -/
  epoch : Nat := 0
  /-- The settled bytes of the media part and of scratch; an unlisted byte is 0 (R233, R234). -/
  base : Memory := []
  /-- What outstanding writes have laid over it, oldest first. -/
  layers : List Layer := []
  pages : Tbl Page := []
  /-- Resident media pages, least recently used first (R243). -/
  lru : List Nat := []
  /-- Content writes waiting for their turns, in order. -/
  turns : List Turn := []
  /-- Stacks that evict until 16,384 frames are free (R243). -/
  evicting : List Nat := []
  /-- Completed atomic WRITEs whose sub-blocks have not been written back: first LBA and count (R480). -/
  atomics : List (Nat × Nat) := []
  /-- Frames set aside for weight windows and not yet taken (R271). -/
  setAside : Nat := 0
  /-- The pages whose tier entries each die's depot cache holds, oldest first (R248, R250). -/
  tierCached : Tbl (List Nat) := []
  /-- The 256 B data lines each die's depot cache holds, oldest first (R248, R249). -/
  lines : Tbl (List Nat) := []
  /-- Those of them that the search kernel has pinned (R248, R312). -/
  pinnedLines : Tbl (List Nat) := []
  /-- Bytes of the table region in use on each die (R248, R131). -/
  tableBytes : Tbl Nat := []
  /-- Shares of the reserve that no in-service stack serves yet, by stack (R246, R247). -/
  reserveDown : List Nat := []
  /-- Shares lost with both copies, to be rebuilt (R247). -/
  reserveLost : List Nat := []
  /-- Stacks that have been fenced, oldest first. -/
  fencedStacks : List Nat := []
deriving DecidableEq, Repr

/-! ## The flash store (13_flash_store.md) -/

/-- The states of a physical section (R475). -/
inductive SecSt where
  | free | log | merging | data | journal | flush | erasing | suspended | retired
deriving DecidableEq, Repr

/-- A physical section (R469 to R475). -/
structure Sec where
  st : SecSt := .free
  /-- The logical section it serves, for LOG, MERGING and DATA. -/
  lsec : Nat := 0
  /-- An in-order log, else a scatter log (R477, R478). -/
  inOrder : Bool := false
  /-- Units committed (LOG, MERGING). -/
  units : Nat := 0
  erases : Nat := 0
  /-- Suspensions of the erase in progress, and its island's counter at the last of them (R496). -/
  suspends : Nat := 0
  suspendedAt : Nat := 0
  /-- Slots remapped to a spare block: (slot, block) (R473). -/
  remaps : List (Nat × Nat) := []
  /-- Slots whose block failed and that remap at the next allocation. -/
  badSlots : List Nat := []
  /-- A relocation merge of the section is scheduled (R491). -/
  relocate : Bool := false
deriving DecidableEq, Repr

/-- The map of a logical section (R471, R477 to R479). -/
structure LSec where
  data : Option Nat := none
  inOrd : Option Nat := none
  scatter : Option Nat := none
  /-- The page-level map of the scatter logs: (offset within L, section, place in it), newest first. -/
  smap : List (Nat × Nat × Nat) := []
  /-- The target of a merge in progress (R483). -/
  target : Option Nat := none
  /-- Logs and data to erase when the merge commits. -/
  folding : List Nat := []
  /-- The merge was asked for by a relocation (R491, R498, R505). -/
  relocating : Bool := false
  /-- Write-back of L waits until a log is free (R482). -/
  waiting : Bool := false
deriving DecidableEq, Repr

/-- A program unit in staging or in program (R476). -/
structure PUnit where
  live : Bool := false
  sec : Nat := 0
  lsec : Nat := 0
  unit : Nat := 0
  inOrder : Bool := false
  /-- The LBAs in it, in place order. -/
  lbas : List Nat := []
  /-- Its program has begun. -/
  programming : Bool := false
  /-- A unit of a merge target. -/
  merge : Bool := false
deriving DecidableEq, Repr

/-- A map journal record (R488): type, SEQ, key and body. -/
structure JRec where
  type : Nat
  seq : Nat
  key : Nat
  body : List Byte
deriving DecidableEq, Repr

/-- Why a flash read is made. -/
inductive ReadWhy where
  | promote | stream | window | patrol | walker | scan
  /-- Nobody waits for it any more. -/
  | dropped
deriving DecidableEq, Repr

/-- A flash read of one sub-block or row (R491 to R497). -/
structure FRead where
  live : Bool := false
  lba : Nat := 0
  why : ReadWhy := .promote
  sec : Nat := 0
  slot : Nat := 0
  issued : Bool := false
  /-- The counter of the group's island at the issue, and whether RA_US has passed since (R492, R221). -/
  issuedAt : Nat := 0
  crossed : Bool := false
  /-- A read-around is in progress (R492). -/
  around : Bool := false
  /-- The data is there, or has failed with 0x2001, for the reader that waits for it. -/
  done : Bool := false
  failed : Bool := false
  /-- The page's generation when the read was served (R267). -/
  gen : Nat := 0
deriving DecidableEq, Repr

/-- The flash translation layer. -/
structure Flash where
  secs : Tbl Sec := []
  lsecs : Tbl LSec := []
  units : Tbl PUnit := []
  reads : Tbl FRead := []
  /-- Sections queued for erase (R484). -/
  eraseQ : List Nat := []
  /-- Sections whose erase the FORMAT in progress counts (R585). -/
  formatSecs : List Nat := []
  /-- Committed journal records since the newest checkpoint, oldest first. -/
  journal : List JRec := []
  /-- SEQ of the newest record. -/
  seq : Nat := 0
  /-- The journal pair (R487); the first pair and the flush sections are fixed by `Sec` defaults (log entry 3). -/
  pair : List Nat := [1366, 34198]
  /-- The pair a rollover leaves, until the checkpoint is committed (R489). -/
  oldPair : List Nat := []
  /-- Bytes committed to the current pair (R489). -/
  pairBytes : Nat := 0
  /-- Bytes held in the journal buffers and not yet programmed (R487). -/
  bufBytes : Nat := 0
  /-- The number of the newest map checkpoint. -/
  ckptNo : Nat := 0
  /-- SEQ covered by the newest checkpoint, with the state it holds (R489, R490). -/
  ckptSeq : Nat := 0
  /-- A checkpoint is due and waits until the open scatter logs fit its maps part (R533). -/
  ckptDue : Bool := false
  /-- Die blocks with failed reads in the last 24 hours, as (die unit, block, island counter at the failure) (R498). -/
  blockFails : List (Nat × Nat × Nat) := []
  /-- LBAs the hold-up flush wrote, to be loaded as dirty frames (R503); none when no FLUSH_DONE is committed. -/
  flushed : Option (List Nat) := none
  /-- Logical sections whose write-back found the staging buffers full and waits for room (R476). -/
  crowded : List Nat := []
  /-- A raw read is in progress (R510): its address word. -/
  raw : Option Nat := none
deriving DecidableEq, Repr

/-! ## The configuration store (14_config_store.md) -/

/-- An event log entry (R528). -/
structure LogEntry where
  island : Nat
  severity : Nat
  event : Nat
  status : Nat
  islandCyc : Nat
  sbCyc : Nat
  arg0 : Nat
  arg1 : Nat
deriving DecidableEq, Repr

/-- A library entry (R530): its container as stored, its BASE mark and its first logical sector. -/
structure LibEntry where
  live : Bool := false
  base : Bool := false
  sector : Nat := 0
  bytes : List Byte := []
deriving DecidableEq, Repr

/-- A firmware region (R588): the bytes written and whether the region is marked valid. -/
structure FwRegion where
  bytes : List Byte := []
  valid : Bool := false
deriving DecidableEq, Repr

/-- A record on its way into the store (R521, R524 to R526); it counts once its program completes. -/
inductive CfsWrite where
  /-- TYPE 0x20: a setting's ID and value. -/
  | setting (id value : Nat) (place : Option Nat)
  /-- TYPE 0x21: a signer's key; zeros remove it. -/
  | key (signer : Nat) (bytes : List Byte)
  /-- TYPE 0x40: the two words of a repair (R555). -/
  | fuse (w2 w3 : Nat)
  /-- TYPE 0x50: operation, phase, units completed, units in all. -/
  | progress (op phase done total : Nat)
  /-- TYPE 0x10: an event entry. -/
  | event (e : LogEntry)
  /-- TYPE 0x30: a library entry, once its container is written and checked. -/
  | libAdd (entry : Nat) (e : LibEntry) (place : Option Nat)
  /-- TYPE 0x31: the removal of a library entry. -/
  | libRemove (entry : Nat) (place : Option Nat)
  /-- A firmware image written into region A (0) or B (1) and verified (R588). -/
  | image (region : Nat) (bytes : List Byte) (place : Option Nat)
  /-- TYPE 0x61: a map checkpoint's commit, with its number and the SEQ it covers (R532). -/
  | checkpoint (no seq : Nat)
deriving DecidableEq, Repr

/-- A read that waits in a bank of a device (R513): the island, the logical sector and whether it is an instruction fetch. -/
structure CfsRead where
  island : Nat
  sector : Nat
  fetch : Bool
deriving DecidableEq, Repr

/-- The configuration store: both devices hold the same contents (R521). -/
structure Cfs where
  /-- Records whose programs have not completed, oldest first. -/
  writes : List CfsWrite := []
  /-- The newest committed value of each setting (R527). -/
  settings : Tbl Nat := []
  /-- The values in force: those of the last power-up, and SIGNER_REVOKED at once. -/
  inForce : Tbl Nat := []
  /-- Committed keys of signers 1 to 7 (R614). -/
  keys : Tbl (List Byte) := []
  /-- FUSE records of the current half, in SEQ order: SEQ and the two words of a repair (R526, R555). -/
  fuses : List (Nat × Nat × Nat) := []
  /-- SEQ of the newest record of each record log: SETTINGS, FUSE, PROGRESS, LIB (R524). -/
  seqs : Tbl Nat := [(3, 1)]
  /-- The last committed PROGRESS record: operation, phase, units completed, units in all (R526). -/
  progress : Nat × Nat × Nat × Nat := (0, 0, 0, 0)
  /-- Committed event entries still held, oldest first, and the index of the oldest (R528). -/
  log : List LogEntry := []
  logFirst : Nat := 0
  /-- The library, by entry; as shipped the base container, in entry 0 (R195, R530; log entry 43). -/
  lib : Tbl LibEntry := [(0, { live := true, base := true, sector := 278784, bytes := Config.shippedBase })]
  /-- Sectors of removed and replaced containers, freed at power-up: first sector and number (R530). -/
  libHeld : List (Nat × Nat) := []
  fwA : FwRegion := { bytes := Config.shippedImage 0, valid := true }
  fwB : FwRegion := { bytes := Config.shippedImage 1, valid := true }
  /-- The checkpoint slots: number and SEQ covered; 0 for an invalid slot (R532). -/
  ckpt0 : Nat × Nat := (0, 0)
  ckpt1 : Nat × Nat := (0, 0)
  /-- Words used in the current half of SETTINGS, FUSE, PROGRESS and the LIB directory (R526). -/
  halfWords : Tbl Nat := [(3, 7)]
  /-- The half in use of each record-log region. -/
  half : Tbl Nat := []
  /-- Sector erases under way or queued on each device (R512). -/
  erasesDue : Tbl Nat := []
  /-- Reads queued by device × 16 + bank, in the order they are served; while there are any, the erase of that bank is suspended
  (R513). -/
  bankReads : Tbl (List CfsRead) := []
  /-- Devices whose gap has been copied and whose window record waits for reads of the moved sector (R517). -/
  gapDue : List Nat := []
  /-- Ring erases since the gap last moved, on each device (R517). -/
  sinceGap : Tbl Nat := []
  /-- The grown-retired table of each device: retired sector, spare (R518). -/
  retiredTab : Tbl (List (Nat × Nat)) := []
  /-- A trailing record was torn by a power loss (R525). -/
  torn : Bool := false
  /-- The word that the last data read of an execute-only region returned (R520). -/
  readBack : Option Nat := none
  /-- An execute-only data read has been logged since power-up (R520). -/
  xoLogged : Bool := false
  /-- Service has ended for good (R595): cause and die. -/
  ended : Option (Nat × Nat) := none
  /-- Blocks not erasable, and neither erasable nor programmable, in the sanitise in progress (R583). -/
  notErasable : Nat := 0
  notProgrammable : Nat := 0
  /-- ACTION of the sanitise in progress (R580). -/
  sanitiseAction : Nat := 0
deriving DecidableEq, Repr

/-! ## Stored-word protection (15_stored_word_protection.md) -/

/-- A DRAM row repair in progress (R556). -/
structure RowRepair where
  stack : Nat
  channel : Nat
  /-- bank [5:0], row [21:6], as FUSE TARGET. -/
  target : Nat
  cause : Nat
  place : Option Nat
deriving DecidableEq, Repr

/-- A word altered by SPARE_ACT error injection and not yet read (R559): the word's address in the memory (for DRAM its folded
address), the kind of error and the symbol or bit altered. -/
structure Injected where
  island : Nat
  unit : Nat
  word : Nat
  kind : Nat
  place : Nat
deriving DecidableEq, Repr

/-- A lane row's retirement to LR32 (R558): station, lane row, cause, the banks to be written as poison marks, and whether
its copy has begun. -/
structure Retire where
  station : Nat
  lane : Nat
  cause : Nat
  banks : List Nat
  place : Option Nat
  begun : Bool := false
deriving DecidableEq, Repr

/-- Repairs, fences and injections. -/
structure Ecc where
  /-- 32-byte words of the depot range, by address ÷ 32, that decode as uncorrectable (R542, R547). -/
  badWords : List Nat := []
  repairs : List RowRepair := []
  /-- Spare rows used, by stack × 32 + channel (R554). -/
  rowsUsed : Tbl Nat := []
  /-- Spare rows used by an SRAM macro, by island × 64 + MACRO code (R554). -/
  sramRows : Tbl Nat := []
  /-- Spare columns used by an SRAM macro. -/
  sramCols : Tbl Nat := []
  injected : List Injected := []
  /-- Fenced banks of each die's depot cache (R545, R553). -/
  cacheBanks : Tbl (List Nat) := []
  /-- Failed decoders of the queue window (R553). -/
  windowDecoders : Nat := 0
  /-- Corrected words waiting to be written back: island, word address, and whether a scrub found them (R543, R549). -/
  writeBacks : List (Nat × Nat × Bool) := []
  /-- The counter of each stack's controller at its last scrub read (R549, R221). -/
  scrubAt : Tbl Nat := []
  /-- Words reported address class and not yet reread: stack, word (R545). -/
  rereads : List (Nat × Nat) := []
  /-- The last uncorrectable entry a junction FIFO of an island met: island, island counter (R544). -/
  junctionUe : List (Nat × Nat) := []
  /-- Lane rows to be retired, in order. -/
  retiring : List Retire := []
  /-- SRAM row repairs that are due: island, MACRO code, row, cause (R548, R557). -/
  sramDue : List (Nat × Nat × Nat × Nat) := []
deriving DecidableEq, Repr

/-! ## Power (16_life_cycle.md, 18_connectors.md) -/

/-- The life of the supplies (R565, R575, R579, R640). -/
inductive Supply where
  /-- No PRES#, or the input stage open. -/
  | off
  /-- PRES# mated, the 50 ms wait runs. -/
  | mated
  /-- The input stage has closed; supplies not yet valid. -/
  | closed
  /-- Supplies valid: power-up or service. -/
  | valid
  /-- A loss was detected; the hold-up flush runs. -/
  | flushing
  /-- The flush is done and every regulator is off. -/
  | down
deriving DecidableEq, Repr

/-- The input stage, the power-up and the hand-over of the management cores. -/
structure Power where
  supply : Supply := .off
  /-- Input returned while the flush ran (R579). -/
  returned : Bool := false
  /-- The input stage has opened on a break of PRES# (R641). -/
  opened : Bool := false
  /-- Usable energy of each string as last measured, in mJ (R572). -/
  bank : List Nat := []
  /-- SCAN_EN was high at supplies valid (R649). -/
  scanEn : Bool := false
  /-- FAULT# is pulled low; else it floats (R636). -/
  faultLow : Bool := false
  /-- Islands whose clocks have started (R203). -/
  started : List Nat := []
  /-- Checkers that failed their self-tests, as (island, checker) (R553). -/
  failedCheckers : List (Nat × Nat) := []
  /-- Dies whose standby core has restarted on the staged image (R590). -/
  restarted : List Nat := []
  /-- Dies handed over in the activation in progress, newest first (R590, R592). -/
  handed : List Nat := []
  /-- The place of the FW_ACTIVATE in progress. -/
  activateBy : Option Nat := none
  /-- Places of commands that wait until the operation in progress has ended, in order (R590). -/
  behind : List Nat := []
  /-- Failed management cores of each die (R32, R47). -/
  coresDown : Tbl Nat := []
  /-- The D0 signal-box counter at the last loss, for event 0x0901 (R577). -/
  lossCyc : Nat := 0
  /-- A loss whose flush left no FLUSH_DONE (R577). -/
  lossOpen : Bool := false
deriving DecidableEq, Repr

/-! ## Timetables (05_timetables.md) -/

/-- Where an image lies on one station (R183, R184): the station, its image place, the offset of each bank, the platform
base in 64 B units and its configuration RAM pages. -/
structure StnImage where
  station : Nat
  place : Nat
  offs : List Nat
  platform : Nat
  cfgPages : Nat
deriving DecidableEq, Repr

/-- A stitched image: the container as received (R185) and its places. -/
structure Image where
  bytes : List Byte
  places : List StnImage
  /-- Scratch address of the retained container (R185). -/
  keep : Nat := 0
deriving DecidableEq, Repr

/-- What a slot holds beyond its registers (R187, R191). -/
structure SlotHold where
  /-- The image on which runs begin. -/
  img : Option Image := none
  /-- In HANDOVER, the old image. -/
  old : Option Image := none
  /-- In HANDOVER, the bound jobs that have begun a run on the new image. -/
  begun : List Nat := []
deriving DecidableEq, Repr

/-- Who asked for a stitch. -/
inductive StitchBy where
  /-- A command, by its tracker place. -/
  | command (place : Nat)
  /-- The module, for a slot with a fenced station (R310). -/
  | module
  /-- Entry n of the power-up stitch list (R197). -/
  | list (n : Nat)
deriving DecidableEq, Repr

/-- A STITCH or UNSTITCH, waiting or in progress (R187, R188). -/
structure Stitch where
  by_ : StitchBy
  unstitch : Bool := false
  /-- SLOT and REPLACE as asked; 255 for none. -/
  slot : Nat
  replace : Nat := 255
  mask : Nat := 0
  checkOnly : Bool := false
  /-- The library entry it reads, else the host or the retained container. -/
  lib : Option Nat := none
  addr : Nat := 0
  len : Nat := 0
  /-- The slot it took when it began (R187). -/
  took : Option Nat := none
  begun : Bool := false
  /-- Bytes of the container read so far. -/
  got : List Byte := []
  /-- The image reserved under check 13, once PLACING. -/
  image : Option Image := none
deriving DecidableEq, Repr

/-- Slots and stitching. -/
structure Timetables where
  slots : Tbl SlotHold := []
  /-- STITCH and UNSTITCH in the order taken; the first is in progress (R188). -/
  queue : List Stitch := []
deriving DecidableEq, Repr

/-! ## Jobs, batches and runs (08_scheduling.md, 03_fronts_batching.md) -/

/-- A row of a RUN in a batch: the RUN's tracker place (none once the RUN has ended early), the row's index in it (R116),
and the home signal-box counter when it joined. -/
structure BatchRow where
  place : Option Nat
  row : Nat
  class0 : Bool
  joined : Nat := 0
deriving DecidableEq, Repr

/-- Why a batch closes (R117). -/
inductive CloseCause where | fill | timer | class0
deriving DecidableEq, Repr

/-- A batch: its rows in order, the values it opened with (R123), its staging area of the four (R453), and a close cause it
keeps while no place is free (R119), with the home signal-box counter at that moment. -/
structure Batch where
  rows : List BatchRow
  target : Nat
  waitUs : Nat
  area : Nat := 0
  cause : Option CloseCause := none
  dueAt : Nat := 0
  /-- Home signal-box counter when its first row opened it and started its wait timer (R116, R118). -/
  openedAt : Nat := 0
deriving DecidableEq, Repr

/-- A job's batcher (R115 to R122). Its closed batches stand in the job's queue. -/
structure Batcher where
  openB : Option Batch := none
  /-- Rows that wait in arrival order for the next batch (R119). -/
  waiting : List BatchRow := []
  /-- The row sizes the first RUN after the BIND fixed (R452, R453). -/
  sizes : Option (Nat × Nat) := none
  /-- Depot addresses of the input and output staging, once allocated (R453). -/
  staging : Option (Nat × Nat) := none
deriving DecidableEq, Repr

/-- What a run serves. -/
inductive RunFor where
  /-- A RUN without batching, by its tracker place. -/
  | command (place : Nat)
  /-- A closed batch. -/
  | batch (b : Batch)
  /-- A siding batch of searches (R324): its root, SIDING_FIRST and SIDING_COUNT as read when it closed, and the searches'
  tracker places. -/
  | siding (root first count : Nat) (places : List Nat)
  /-- A batch of an EMBED or INGEST: its tracker place and first item (R376). -/
  | embed (place first count : Nat)
  /-- A home chunk of a fabric binding: the binding, and the place of the chunk in the step's list (R410). -/
  | mesh (binding chunk : Nat)
  /-- The origin run A(ℓ) of a fabric binding's step (R410). -/
  | origin (binding : Nat)
deriving DecidableEq, Repr

/-- The run in progress of a job (R288, R289). -/
structure Run where
  what : RunFor
  /-- The image it runs on, and its stations (R286). -/
  image : Image
  started : List Nat := []
  /-- Stations whose end message has been received, oldest first. -/
  ended : List Nat := []
  /-- The status of an abandoned run, and the stations that have reported. -/
  abandoned : Option Nat := none
  reports : List Nat := []
  /-- Home signal-box counter when the run could first start (R307). -/
  startCyc : Nat := 0
  /-- Statuses recorded for rows (R122, R154): an entry below 64 is that of pass row r, an entry 64 + k that of row k of the batch. -/
  rowStatus : List (Nat × Nat) := []
  /-- Of a siding run, the list of each of its searches: (score, position), best first (R323). -/
  lists : List (List (Nat × Nat)) := []
deriving DecidableEq, Repr

/-- What a bound job holds beyond its registers (R282 to R291). -/
structure JobHold where
  /-- Base and length of each buffer. -/
  bufs : List (Nat × Nat) := []
  scalars : List Nat := []
  /-- Scratch allocated at the binding: base address and bytes (R285). -/
  scratch : Nat × Nat := (0, 0)
  /-- Frames set aside for its window places (R271). -/
  window : Nat := 0
  /-- Requests, in order, with the home signal-box counter when each was queued (R287). -/
  queue : List (RunFor × Nat) := []
  /-- Home signal-box counter since when the first request could have started (R307). -/
  readyAt : Nat := 0
  run : Option Run := none
  batcher : Batcher := {}
  /-- Places of the JOB_SIGNAL HOLD and END commands that wait (R291). -/
  holdWait : List Nat := []
  endWait : List Nat := []
  /-- A run has ended since the binding (R307). -/
  ran : Bool := false
  /-- PERIOD_US as the last EXPRESS_ON that succeeded found it (R302). -/
  period : Nat := 0
  /-- Layers of its window that hold a place: (layer, done loading), and the next to load in the run (R272, R273). -/
  layers : List (Nat × Bool) := []
  nextLayer : Nat := 0
  /-- Pages the window holds pinned: (layer, page). -/
  pinned : List (Nat × Nat) := []
deriving DecidableEq, Repr

/-! ## Stations (02_lane_rows.md, 04_narrow_weights.md, 07_depot.md, 08_scheduling.md) -/

/-- An accumulator entry (R59): the word A, the exponent X, and whether a block has entered it since ACC_IN. In the
floating-point modes A holds the bits of the value. -/
structure AccEntry where
  a : Int := 0
  x : Nat := 0
  full : Bool := false
deriving DecidableEq, Repr

/-- A converted row in the lane tail's input queue (R87): its descriptor, its row, its 32 values in FP32, and the lane row
and job it came from. -/
structure TailRow where
  lane : Nat
  job : Nat
  desc : List Byte
  row : Nat
  vals : List Nat
  /-- Of a siding pass, its column block (R323). -/
  block : Option Nat := none
deriving DecidableEq, Repr

/-- A pass issued on a lane row (R48 to R51): the job it runs for, its descriptor as issued, and the wide rows it covers
(first row, count) if it is a wide pass of a re-run. -/
structure PassRun where
  job : Nat
  desc : List Byte
  /-- Where the descriptor stands in the list, to issue it again after a cut or a cancel (R143, R296). -/
  idx : Nat
  iters : List Nat
  wide : Option (Nat × Nat) := none
  /-- Of a siding pass, its column block (R323). -/
  block : Option Nat := none
  /-- CEIL_ADJ as the station held it at issue (R139). -/
  ceilAdj : Int := 0
  /-- Lane 0 has accepted its last operand, and the verdict has been taken (R140). -/
  verdict : Bool := false
  /-- Cycles of its turnover and its operand slots that have been counted (R92). -/
  used : Nat := 0
  /-- Converted rows that have found no room in the lane tail's queue yet (R87). -/
  rows : List TailRow := []
deriving DecidableEq, Repr

/-- A source page of a copy (R267): page number, the generation recorded at its first read, whether it came from a stream
ring, and the reissues so far (R268). -/
structure CopyPage where
  page : Nat
  /-- The generation; none until the page is read again after a failed confirm. -/
  gen : Option Nat
  ring : Bool
  /-- The ring slot was older than 1 s when it was consumed (R269). -/
  old : Bool := false
  confirmed : Bool := false
  reissues : Nat := 0
deriving DecidableEq, Repr

/-- A copy a lane row's copy engine has issued (R251 to R257). -/
structure CopyRun where
  seq : Nat
  job : Nat
  desc : List Byte
  /-- Its source lies in the depot or in a stream ring, outside the tables. -/
  depot : Bool := false
  /-- Source and destination byte addresses, resolved at issue (R252). -/
  src : Nat
  dst : Nat
  len : Nat
  /-- Source bytes for which a request has been sent. -/
  sent : Nat := 0
  /-- Requests in flight: (offset, bytes) (R254). -/
  open_ : List (Nat × Nat) := []
  /-- Requests whose data has been written: (offset, bytes). -/
  done : List (Nat × Nat) := []
  pages : List CopyPage := []
  ceil : Nat := 255
  /-- Requests to be sent again: a page whose confirm failed (R268), or a slot given up at a switch (R298). -/
  again : List (Nat × Nat) := []
  /-- A write of it has been counted as waiting on the dirty limit (R245). -/
  limited : Bool := false
deriving DecidableEq, Repr

/-- What a lane row keeps of a job's run across switches (R153, R253, R298). -/
structure LaneCtx where
  passIdx : Nat := 0
  passIters : List Nat := []
  /-- END has been reached. -/
  passDone : Bool := false
  /-- Re-runs in this run, and the limit that applies to it (R153). -/
  reruns : Nat := 0
  limit : Nat := 0
  /-- Wide passes still to issue: descriptor, first row, rows (R144, R151). -/
  wides : List (List Byte × Nat × Nat) := []
  copyIdx : Nat := 0
  copyIters : List Nat := []
  copyDone : Bool := false
  tokens : Nat := 0
  /-- A copy of the run has faulted; the copy program has stopped (R257). -/
  faulted : Bool := false
  /-- Column blocks of the siding that the lane row still has to scan in a siding run (R323). -/
  blocks : List Nat := []
  /-- 1 + the latest layer of the weight window its copies have reached; 0 before the first (R273). -/
  layer : Nat := 0
deriving DecidableEq, Repr

/-- The weight chain of a lane row (R100 to R107): the active and the shadow column register of each lane, the 32 B that stand at
each stage of the chain, lane 0 first, and the plane buffer of 512 B. -/
structure Front where
  active : List (List Byte) := []
  shadow : List (List Byte) := []
  chain : List (List Byte) := []
  plane : List Byte := []
deriving DecidableEq, Repr

/-- A lane row. -/
structure Lane where
  /-- The lane store, 256 KiB in bytes (R53). -/
  store : Memory := []
  /-- 8-byte words of the lane store that are poison marks (R542, R558). -/
  poison : List Nat := []
  /-- The job whose image pointer it carries (R290). -/
  job : Option Nat := none
  /-- The contexts of jobs with a run in progress, by job. -/
  ctxs : Tbl LaneCtx := []
  passes : List PassRun := []
  copies : List CopyRun := []
  /-- Sequence number of the next copy. -/
  seq : Nat := 0
  /-- Copy slots held, of 48 (R254). -/
  slots : Nat := 0
  /-- Its part of the outgoing job has ended, and it waits for the swap's end (R296, R297). -/
  partEnded : Bool := false
  /-- It has swapped in the switch in progress. -/
  swapped : Bool := false
  /-- Held for a retirement (R558). -/
  held : Bool := false
  front : Front := {}
  /-- The accumulator file, row by row, while a pass holds it (R59, R60). -/
  acc : List (List AccEntry) := []
  /-- The shadow registers hold the first sub-tile of the next pass (R110, R111). -/
  fed : Bool := false
  /-- The last sub-tile of a pass that a switch order drains has waited (R299). -/
  stalled : Bool := false
  /-- Cycles its counters have counted ahead of the station's counter; below 0, cycles passed and not yet counted (R92). -/
  lag : Int := 0
deriving DecidableEq, Repr

/-- A ring slot of a stream: page k, the generation it was fetched at, and its age mark (R260 to R269). -/
structure RingSlot where
  k : Nat
  page : Nat := 0
  gen : Nat
  /-- Fetched; else in flight. -/
  full : Bool
  /-- Skipped: the slot is marked empty (R262). -/
  empty : Bool
  /-- Fetched more than 700,000,000 station cyc ago (R269). -/
  fetchedAt : Nat
deriving DecidableEq, Repr

/-- A prefetcher's context for an image place (R259 to R264). -/
structure Stream where
  job : Nat := 0
  live : Bool := false
  head : Nat := 0
  /-- The next k to fetch. -/
  next : Nat := 0
  slots : List RingSlot := []
deriving DecidableEq, Repr

/-- Why a station switches a lane row out (R296). -/
inductive SwitchCause where | balance | express | abandon | fence
deriving DecidableEq, Repr

/-- A request for an id's list or vector (R331): the generation of its page when it was served, none until then, and how often a
confirm has failed (R267, R268). -/
structure WalkReq where
  id : Nat
  gen : Option Nat := none
  reissues : Nat := 0
deriving DecidableEq, Repr

/-- A query in one of the 16 walker contexts (R319, R325 to R337). -/
structure Walker where
  live : Bool := false
  /-- The command's tracker place, and the depot address of the root. -/
  place : Nat := 0
  root : Nat := 0
  /-- The counter line as read at the start (R327): ID_HIGH, SIDING_FIRST, SIDING_COUNT and GRAPH_COUNT. -/
  idHigh : Nat := 0
  sFirst : Nat := 0
  sCount : Nat := 0
  graph : Nat := 0
  /-- E and B of the search (R326). -/
  effort : Nat := 0
  width0 : Nat := 0
  /-- The query's bytes, and whether it has been read. -/
  query : List Byte := []
  started : Bool := false
  /-- The lookup table: 256 BF16 entries for each subspace (R320). -/
  lut : List Nat := []
  /-- The level being walked, its width and budget, and its expansions so far. -/
  level : Nat := 0
  width : Nat := 0
  budget : Nat := 0
  expansions : Nat := 0
  /-- The beam: (distance, id, expanded), best first. -/
  beam : List (Nat × Nat × Bool) := []
  /-- Bits set in the visited filter (R330). -/
  visited : List Nat := []
  /-- Lists requested at this level and not arrived; those that have arrived, with their ids, none for one that could not be read; and
  the ids whose lists have been expanded. -/
  asked : List WalkReq := []
  here : List (Nat × Option (List Nat)) := []
  used : List Nat := []
  /-- Pages that the walk waits for: their promotions are under way (R242, R335). -/
  need : List Nat := []
  /-- The allowed list: (distance, id), best first. -/
  allowed : List (Nat × Nat) := []
  widened : Bool := false
  /-- The level-0 walk is over and the re-rank has begun. -/
  walked : Bool := false
  /-- Re-rank candidates whose vectors are outstanding, and what has been scored: (exact distance, id, from the siding). -/
  rerank : List WalkReq := []
  scored : List (Nat × Nat × Bool) := []
  /-- The search waits for its siding batch; the siding list that came: (score, position). -/
  sidingDue : Bool := false
  siding : List (Nat × Nat) := []
  /-- Sub-blocks read from flash, and whether an index fault has been logged (R333). -/
  flash : Nat := 0
  faulted : Bool := false
deriving DecidableEq, Repr

/-- A scan context of a station (R353, R354). -/
structure ScanCtx where
  live : Bool := false
  place : Nat := 0
  /-- The open chunk of the answer buffer (R366), the entries of its packet, and their number. -/
  chunk : Option Nat := none
  body : List Byte := []
  entries : Nat := 0
deriving DecidableEq, Repr

/-- What a station holds beyond its registers. -/
structure Station where
  lanes : Tbl Lane := []
  /-- The platform, 16 MiB in bytes (R29). -/
  platform : Memory := []
  /-- 8-byte words of the platform that are poison marks (R542). -/
  platPoison : List Nat := []
  /-- Balances by job, in lane-row cycles: 32 for each station cyc (R292, R293). -/
  balance : Tbl Int := []
  /-- The job last visited in the circle (R292). -/
  visited : Nat := 0
  /-- The switch order in force (R296). -/
  order : Option SwitchCause := none
  /-- The job the order in force takes out, and the job the station switches to. -/
  outgoing : Option Nat := none
  incoming : Option Nat := none
  /-- The jobs of the express runs that are ready, in the order they became ready, once for each run (R305). -/
  ready : List Nat := []
  streams : Tbl Stream := []
  tail : List TailRow := []
  /-- The lane row the lane tail served last (R87), and the one whose copy request was sent last (R254). -/
  tailLane : Nat := 31
  copyLane : Nat := 31
  walkers : Tbl Walker := []
  scans : Tbl ScanCtx := []
  /-- Cycles of the switch in progress that were stalled, so that it counts as a long drain (R299). -/
  longDrain : Bool := false
  /-- Signals of R628 that were 1 for a cycle since the station's last cycles were counted. -/
  pulses : List Nat := []
deriving DecidableEq, Repr

/-! ## Vector search (09_vector_search.md) -/

/-- A siding batch that is open (R324): its root, the job of the search that opened it, and the places of its searches in order. -/
structure SidingBatch where
  root : Nat
  job : Nat
  places : List Nat
deriving DecidableEq, Repr

/-- What the last commit on a root holds back (R339): the ids it freed and the siding positions it released, and the
places of the SEARCH commands that began before it and are still outstanding. -/
structure Commit where
  root : Nat
  ids : List Nat
  positions : List Nat
  searches : List Nat
deriving DecidableEq, Repr

/-- A SHUNT in progress (R343). -/
structure Shunt where
  root : Nat
  place : Nat
  /-- The number of siding entries it takes. -/
  n : Nat
  /-- T and F. -/
  tset : List Nat
  fset : List Nat
  links : Nat
  repaired : Nat
  /-- The budget of its link walks, the siding positions still to merge, and the next list to repair: its level and its id. -/
  budget : Nat
  left : List Nat
  level : Nat := 0
  nextId : Nat := 0
  /-- An index fault has been logged for it (R333). -/
  faulted : Bool := false
  /-- Its counter line is written; the writes of R342 are still to come. -/
  committed : Bool := false
deriving DecidableEq, Repr

/-- A walker's codebook store (R319): 1 + the root it was loaded for, 0 for none, and the codebook's bytes. -/
structure Codebook where
  root : Nat := 0
  bytes : List Byte := []
deriving DecidableEq, Repr

/-- The search machinery of D0's signal box. -/
structure Search where
  /-- SEARCH commands that found every context busy: class-0 first, then in the order taken (R325). -/
  waiting : List Nat := []
  batches : List SidingBatch := []
  /-- INDEX_PUT, INDEX_DEL and SHUNT by root, in the order taken (R341): (root, place). -/
  mutators : List (Nat × Nat) := []
  shunts : List Shunt := []
  commits : List Commit := []
  /-- The codebook store of each station's walker (R319). -/
  codebooks : Tbl Codebook := []
  /-- Mutating commands whose writes wait on the dirty limit and have been counted (R245). -/
  limited : List Nat := []
deriving DecidableEq, Repr

/-! ## Scans and encoders (10_scan_embed.md) -/

/-- A page that a scan reader reads (R355): its generation when it was served, none until then, the station's counter at that time,
and how often a confirm has failed. -/
structure ScanPage where
  page : Nat
  gen : Option Nat := none
  servedAt : Nat := 0
  reissues : Nat := 0
  /-- The status that the page meets, where it cannot be read. -/
  status : Nat := 0
deriving DecidableEq, Repr

/-- A unit of a SCAN that a station has taken: the station, the tier page's index in the extent, and the pages its records lie in. -/
structure UnitOut where
  station : Nat
  unit : Nat
  pages : List ScanPage := []
deriving DecidableEq, Repr

/-- A SCAN that has its contexts (R354 to R372). -/
structure ScanCmd where
  place : Nat
  /-- Stations on which it holds a context. -/
  stations : List Nat
  /-- FORMAT and RECORD_BYTES of the SCANPROG, and its instructions, 8 bytes each. -/
  format : Nat
  recordBytes : Nat
  prog : List (List Byte)
  /-- S0 to S31, BITMAP_BITS and the query area. -/
  scalars : List Nat
  bitmapBits : Nat
  query : List Byte
  /-- The next unit to hand out, and those handed out and not finished. -/
  next : Nat := 0
  out : List UnitOut := []
  /-- The next unused chunk of the answer buffer. -/
  chunk : Nat := 1
  stopped : Bool := false
  /-- The status of the first gap's cause (R372). -/
  gapStatus : Nat := 0
  records : Nat := 0
  emitted : Nat := 0
  gaps : Nat := 0
  oversize : Nat := 0
  /-- Extent bytes read, and pages read again (R371). -/
  bytes : Nat := 0
  rereads : Nat := 0
  /-- Top-k entries offered and kept: FP64 pattern and position, best first. -/
  kept : List (Nat × Nat) := []
deriving DecidableEq, Repr

/-- An EMBED, or the embedding part of an INGEST (R375 to R383). -/
structure EmbedCmd where
  place : Nat
  job : Nat
  src : Nat
  items : Nat
  itemBytes : Nat
  outBytes : Nat
  /-- Items of a batch: ROW_CAP. -/
  cap : Nat
  /-- Destination, and whether it is a depot address. -/
  dst : Nat
  inDepot : Bool
  /-- Depot addresses of the two staging areas. -/
  staging : Nat × Nat
  /-- The first item of the next batch. -/
  next : Nat := 0
  /-- Batches whose runs are pending. -/
  pending : Nat := 0
  /-- Items whose outputs were copied. -/
  copied : Nat := 0
  /-- The most severe status that a pass of its runs recorded (R122). -/
  status : Nat := 0
  /-- The root, for an INGEST. -/
  root : Option Nat := none
deriving DecidableEq, Repr

/-- SCANs, EMBEDs and INGESTs outstanding. -/
structure Scans where
  /-- SCANs that wait for a context, by tracker place: class-0 first, then in the order taken (R354). -/
  waiting : List Nat := []
  active : List ScanCmd := []
  embeds : List EmbedCmd := []
deriving DecidableEq, Repr

/-! ## Branch lines and the expert mesh (11_branch_lines.md, 18_connectors.md) -/

/-- A packet on a branch line: its virtual channel and its bytes, header first (R400). -/
structure Packet where
  vc : Nat
  bytes : List Byte
  /-- Of a received packet, the flits that ended in it: credits to return once it is taken in (R392). -/
  flits : Nat := 0
deriving DecidableEq, Repr

/-- A branch line's link layer (R388 to R399) and its cable (R643, R644). -/
structure Line where
  /-- SEQ of the next PAYLOAD flit. -/
  nextSeq : Nat := 0
  /-- The last SEQ received in order and intact; flits start at 0, so it starts at 4,095. -/
  ackOut : Nat := 4095
  /-- NAK is to be set in the next flit sent. -/
  nak : Bool := false
  /-- The last PAYLOAD flit was discarded (R391). -/
  discarding : Bool := false
  /-- Unacknowledged PAYLOAD flits, oldest first. -/
  replay : List (List Byte) := []
  /-- Flits of the replay buffer still to be sent again. -/
  again : Nat := 0
  /-- Replays in a row with no advance of ACK. -/
  stuck : Nat := 0
  /-- Branch-line counter at each replay of the last ms, and at each entry to RETRAIN of the last 10 s. -/
  replays : List Nat := []
  retrains : List Nat := []
  /-- Credits held, by VC: the receiver's buffers when the line starts from 0. -/
  credits : List Nat := [0, 0, 0, 0, 0, 0, 0, 0]
  /-- Credits to return, by VC. -/
  owed : List Nat := [0, 0, 0, 0, 0, 0, 0, 0]
  /-- Closed packets queued, oldest first, and the bytes of each VC's first packet already sent. -/
  queue : List Packet := []
  sent : List Nat := [0, 0, 0, 0, 0, 0, 0, 0]
  /-- The VC that sent last, for the round-robin of R393. -/
  lastVc : Nat := 0
  /-- Bytes received on each VC and not yet a whole packet. -/
  partials : List (List Byte) := [[], [], [], [], [], [], [], []]
  /-- Flits received on each VC whose credits wait for the packet in part. -/
  partFlits : List Nat := [0, 0, 0, 0, 0, 0, 0, 0]
  /-- Packets sent whole, not all acknowledged: the SEQ of the last flit, and the header. -/
  flying : List (Nat × List Byte) := []
  /-- Whole packets received and not yet taken in. -/
  received : List Packet := []
  /-- The flit sent last. -/
  wire : List Byte := []
  /-- The transmitter: flit bytes that wait for their codeword to fill, the counter of the next codeword, and the symbols of the last
  one as its four lanes carry them (R387). -/
  txFill : List Byte := []
  txCount : Nat := 0
  txLanes : List (List Nat) := []
  /-- The receiver: the counter of the codeword it now aligns by, and its flit bytes already received (R387). -/
  rxCount : Nat := 0
  rxFill : Nat := 0
  /-- An IDENT is due. -/
  identDue : Bool := false
  /-- SERIAL and LINE of the peer before the last RETRAIN, when the line came through one (R398). -/
  before : Option (Nat × Nat) := none
  /-- Training attempts that ended without lock. -/
  attempts : Nat := 0
  /-- The peer's last LINK_STATE: (PEER, UP, DEPTH_KIB) of each of its lines. -/
  report : List (Nat × Bool × Nat) := []
deriving DecidableEq, Repr

/-- A home chunk: local expert, first entry, rows, and the home job it went to (R410). -/
structure Chunk where
  expert : Nat
  first : Nat
  rows : Nat
  job : Nat
deriving DecidableEq, Repr

/-- A binding's step in this module (R410 to R419). -/
structure Step where
  /-- A step is in progress. -/
  running : Bool := false
  /-- The batch it serves; none where it started without one (R415). -/
  batch : Option Batch := none
  /-- STEP_WAIT runs for the next step: a peer's packet of it has arrived. -/
  waiting : Bool := false
  /-- Totals received for the layer the home collects: (module, entries). -/
  totals : List (Nat × Nat) := []
  /-- Entries received for that layer, by module, this one included. -/
  entries : Tbl Nat := []
  /-- The layer the home collects, and the rows in each local expert's region. -/
  homeLayer : Nat := 0
  rows : Tbl Nat := []
  /-- The home runs of the layer: chunks in order; job 0 while a chunk waits for one, and those done. -/
  chunks : List Chunk := []
  doneChunks : List Nat := []
  /-- The layer's entries are all there and its chunks are cut. -/
  collected : Bool := false
  /-- The layer of the origin's run, and the used list entries that have not returned: (row, slot). -/
  originLayer : Nat := 0
  due : List (Nat × Nat) := []
  /-- The origin run is requested or in progress; the origin's part of the step is over. -/
  inRun : Bool := false
  originDone : Bool := false
  /-- Packets of a later layer or step, kept until it begins. -/
  early : List (List Byte) := []
  /-- The most severe status of each row of the batch: (row, status) (R122). -/
  rowStatus : List (Nat × Nat) := []
  /-- The status of an abort that waits for runs already running. -/
  aborted : Option Nat := none
deriving DecidableEq, Repr

/-- A first-hop packet this module has sent: TAG, bytes, and the intermediates that failed it (R417). -/
structure Hop where
  tag : Nat
  bytes : List Byte
  failed : List Nat
deriving DecidableEq, Repr

/-- A PULL in progress (R411). -/
structure Pull where
  place : Nat
  peer : Nat
  addr : Nat
  dst : Nat
  len : Nat
  /-- Bytes asked for, and the requests outstanding: TAG and offset. -/
  asked : Nat := 0
  open_ : List (Nat × Nat) := []
  status : Nat := 0
deriving DecidableEq, Repr

/-- The fabric table in force, the bindings' steps, and pulls. Packets in forward staging stand in their second line's queue. -/
structure Mesh where
  /-- The image in force (R405). -/
  table : Option (List Byte) := none
  /-- INSTALLs and CLEARs that wait between steps: place, and image (R405). -/
  changes : List (Nat × Option (List Byte)) := []
  steps : Tbl Step := []
  lines : Tbl Line := []
  hops : List Hop := []
  pulls : List Pull := []
  /-- TAG of the next packet. -/
  tag : Nat := 0
  /-- Round-robin pointers: the line last used towards each module. -/
  lastLine : Tbl Nat := []
  /-- STEP_ABORTs received for steps already ended (R419). -/
  lateAborts : Nat := 0
deriving DecidableEq, Repr

/-! ## Views, identity, attestation and the sideband (17_views_security.md, 18_connectors.md) -/

/-- A measurement whose recomputation is in progress: index and the new value's 64 bytes (R621 to R623). -/
structure Recompute where
  index : Nat
  value : List Byte
deriving DecidableEq, Repr

/-- What the SPDM responder holds between requests (R620; log entry 48). -/
structure Spdm where
  /-- GET_VERSION, GET_CAPABILITIES and NEGOTIATE_ALGORITHMS passed, 0 to 3. -/
  stage : Nat := 0
  /-- The version of the connection: 0x12 or 0x13. -/
  version : Nat := 0
  /-- The requester's DataTransferSize. -/
  transfer : Nat := 4096
  /-- The messages of the connection's setup, those about certificates since, and those about measurements since the last signature. -/
  vca : List Byte := []
  certLog : List Byte := []
  measLog : List Byte := []
  /-- A large response being sent in chunks: its bytes, its handle, the bytes sent, and the next sequence number. -/
  large : Option (List Byte × Nat × Nat × Nat) := none
  /-- The handle of the next large response. -/
  handle : Nat := 0
deriving DecidableEq, Repr

/-- A die's boundary-scan TAP (R648). -/
structure Tap where
  /-- The instruction register; IDCODE after Test-Logic-Reset. -/
  ir : Nat := 1
  /-- The update latches of the scan cells. -/
  cells : List Bool := []
  /-- The pins are driven from the latches (EXTEST, CLAMP), or float (HIGHZ). -/
  driving : Bool := false
  floating : Bool := false
deriving DecidableEq, Repr

/-- The security engine, the mirrors, the mailbox and the sideband pins. -/
structure Security where
  /-- A challenge is being made; a verification runs. -/
  making : Bool := false
  verifying : Bool := false
  /-- The 10 s back-off of R611 is in force. -/
  backOff : Bool := false
  /-- Mirror words by BAR2 offset as last pushed, and the words pushed since they were last read (R606). -/
  mirrors : Tbl Nat := []
  fresh : List Nat := []
  recompute : List Recompute := []
  spdm : Spdm := {}
  /-- DOE Error (R619). -/
  doeError : Bool := false
  /-- The read offset of the SMBus record (R637). -/
  smbus : Nat := 0
  taps : Tbl Tap := []
deriving DecidableEq, Repr

/-! ## The machine -/

/-- The module's state. -/
structure State where
  /-- The commands that are waiting, first in, first out. -/
  pending : List Instr := []
  /-- The model's own counter of free values drawn (log entry 2); no statement rests on its value. -/
  freeCtr : Nat := 0
  /-- Register words, by register code and index (Machine/Regs.lean). -/
  regs : Tbl (Tbl Word64) := []
  host : HostSide := {}
  depot : Depot := {}
  flash : Flash := {}
  cfs : Cfs := {}
  ecc : Ecc := {}
  power : Power := {}
  tt : Timetables := {}
  jobs : Tbl JobHold := []
  stations : Tbl Station := []
  search : Search := {}
  scan : Scans := {}
  mesh : Mesh := {}
  /-- One direction of each junction, by 256 × writing island + reading island (R204, R218). -/
  junctions : Tbl Junction := []
  /-- One direction of each die bridge, by 4 × sending die + receiving die (R33). -/
  bridges : Tbl Bridge := []
  security : Security := {}
deriving DecidableEq, Repr

/-- Why the module stops. -/
inductive Fault where
  /-- A CXL.mem access outside the range of the HDM decoder, which the module never receives (R425). Raised by
  CXL_MEM_LOAD, CXL_MEM_STORE, QUEUE_WINDOW_STORE and QUEUE_WINDOW_LOAD. Safe: the spec gives the module no such address. -/
  | outsideHdm
deriving DecidableEq, Repr

/-- Why a command has no meaning. -/
inductive Refusal where
  /-- The command is not modelled. Raised by no command of this model. Safe: nothing can be proved of its effect. -/
  | notModelled (mnemonic : String)
deriving DecidableEq, Repr

/-- The machine after reset: no power, every register at its reset word, flash and configuration store as shipped. -/
def State.reset : State := {}

end Sys2Proof.Machine
end

