-- ==== Sys2Proof/Machine/Bits.lean ====
section
/-! DEFINITION. Sparse tables in one canonical form, little-endian byte fields (R9) and bit fields (R8): the plain data
operations every later file uses. -/

namespace Sys2Proof.Machine

/-! ## Tables -/

/-- The entry of key `k`, or `d` where the table lists none. -/
def Tbl.look {α : Type} (d : α) : Tbl α → Nat → α
  | [], _ => d
  | (k', v) :: t, k => if k' = k then v else Tbl.look d t k

/-- Insert an entry at its place in the key order. -/
def Tbl.ins {α : Type} (k : Nat) (v : α) : Tbl α → Tbl α
  | [] => [(k, v)]
  | (k', v') :: t => if k < k' then (k, v) :: (k', v') :: t else (k', v') :: Tbl.ins k v t

/-- Remove the entries of key `k`. -/
def Tbl.drop {α : Type} (k : Nat) : Tbl α → Tbl α
  | [] => []
  | (k', v') :: t => if k' = k then Tbl.drop k t else (k', v') :: Tbl.drop k t

/-- Write `v` at key `k`; writing the value an unlisted key reads as removes the entry. -/
def Tbl.put {α : Type} [DecidableEq α] (d : α) (t : Tbl α) (k : Nat) (v : α) : Tbl α :=
  if v = d then Tbl.drop k t else Tbl.ins k v (Tbl.drop k t)

/-- Change the entry of key `k`. -/
def Tbl.alter {α : Type} [DecidableEq α] (d : α) (t : Tbl α) (k : Nat) (f : α → α) : Tbl α :=
  t.put d k (f (t.look d k))

/-- The canonical form: keys strictly rising, no entry equal to what an unlisted key reads as. -/
def Tbl.wf {α : Type} [DecidableEq α] (d : α) : Tbl α → Bool
  | [] => true
  | (k, v) :: t => !(v = d : Bool) && t.all (fun e => k < e.1) && Tbl.wf d t

/-- The first key at or above `k`, within `n` keys, whose entry passes `p`. -/
def Tbl.firstFrom {α : Type} (d : α) (p : α → Bool) (t : Tbl α) : Nat → Nat → Option Nat
  | _, 0 => none
  | k, n + 1 => if p (t.look d k) then some k else Tbl.firstFrom d p t (k + 1) n

/-! ## Bytes and bits -/

/-- The number a little-endian byte string stands for (R9). -/
def leNat : List Byte → Nat
  | [] => 0
  | b :: bs => b.toNat + 256 * leNat bs

/-- The `n` little-endian bytes of a number. -/
def leBytes : Nat → Nat → List Byte
  | 0, _ => []
  | n + 1, v => BitVec.ofNat 8 v :: leBytes n (v / 256)

/-- The number in bytes `off` to `off + len - 1` of a structure. -/
def byteField (bs : List Byte) (off len : Nat) : Nat := leNat ((bs.drop off).take len)

/-- Bits `lsb + width - 1` to `lsb` of a number (R8). -/
def bitsOf (n lsb width : Nat) : Nat := n / 2 ^ lsb % 2 ^ width

/-- Bit `i` of a number. -/
def bitOf (n i : Nat) : Bool := n.testBit i

/-- A number with bits `lsb + width - 1` to `lsb` replaced by `v`. -/
def withBits (n lsb width v : Nat) : Nat :=
  n / 2 ^ (lsb + width) * 2 ^ (lsb + width) + v % 2 ^ width * 2 ^ lsb + n % 2 ^ lsb

/-- A number read as two's complement in `w` bits. -/
def signed (w n : Nat) : Int := if n % 2 ^ w < 2 ^ (w - 1) then (n % 2 ^ w : Nat) else (n % 2 ^ w : Nat) - (2 ^ w : Nat)

/-- The two's complement of an integer in `w` bits. -/
def unsigned (w : Nat) (i : Int) : Nat := (i % (2 ^ w : Nat)).toNat

/-- 1 for true, 0 for false. -/
def bit (b : Bool) : Nat := if b then 1 else 0

/-- The number of bits set among the low `w` bits. -/
def popcount : Nat → Nat → Nat
  | 0, _ => 0
  | w + 1, n => n % 2 + popcount w (n / 2)

/-- The lowest bit set among `w` bits from bit `i` on. -/
def lowestSet : Nat → Nat → Nat → Option Nat
  | 0, _, _ => none
  | w + 1, i, n => if n.testBit i then some i else lowestSet w (i + 1) n

/-- The numbers of the bits set among the low `w` bits, rising. -/
def bitsSet (w n : Nat) : List Nat := (List.range w).filter (fun i => n.testBit i)

/-- `a` divided by `b`, rounded up. -/
def ceilDiv (a b : Nat) : Nat := (a + b - 1) / b

/-- `n` zero bytes. -/
def zeros (n : Nat) : List Byte := List.replicate n 0

/-- A byte string cut or filled with zeros to `n` bytes. -/
def padTo (n : Nat) (bs : List Byte) : List Byte := bs.take n ++ zeros (n - bs.length)

/-- A structure of `n` bytes from its non-zero fields, given as (offset, bytes) in any order. -/
def layBytes (n : Nat) (fields : List (Nat × List Byte)) : List Byte :=
  fields.foldl (fun acc f => acc.take f.1 ++ f.2 ++ acc.drop (f.1 + f.2.length)) (zeros n)

/-- A byte string cut into pieces of at most `n` bytes; the fuel is its length. -/
def chunksOf (n : Nat) : Nat → List Byte → List (List Byte)
  | 0, _ => []
  | _ + 1, [] => []
  | fuel + 1, bs => bs.take n :: chunksOf n fuel (bs.drop n)

end Sys2Proof.Machine
end

