-- ==== Sys2Proof/Machine/Arith.lean ====
section
/-! DEFINITION. The arithmetic of a lane row: rounding, the integer accumulators (R65 to R70), the floating-point formats
and their one rounding (R71 to R73), the aligner (R74 to R78) and output conversion (R129 to R136). -/

namespace Sys2Proof.Machine

/-! ## Rounding and the integer modes -/

/-- `v / 2^d`, rounded to nearest, ties to even (R67). -/
def rne (v : Int) (d : Nat) : Int :=
  let q := v / (2 ^ d : Nat)
  let r := v % (2 ^ d : Nat)
  if 2 * r > (2 ^ d : Nat) then q + 1
  else if 2 * r = (2 ^ d : Nat) ∧ d ≠ 0 then (if q % 2 = 0 then q else q + 1)
  else q

/-- The right shift of R67: 0 from 40 places on, rounded half to even below. -/
def shr (v : Int) (d : Nat) : Int := if d ≥ 40 then 0 else rne v d

/-- Clamp to a signed word of `w` bits, and whether it clamped (R68, R69). -/
def sat (w : Nat) (v : Int) : Int × Bool :=
  if v > (2 ^ (w - 1) : Nat) - 1 then ((2 ^ (w - 1) : Nat) - 1, true)
  else if v < -(2 ^ (w - 1) : Nat) then (-(2 ^ (w - 1) : Nat), true)
  else (v, false)

/-- Fold a dot product P at exponent E into an entry (R67); the Bool says that it clamped. -/
def accumulate (p : Int) (e : Nat) (t : AccEntry) : AccEntry × Bool :=
  if e = 0 then (t, false)
  else if !t.full then
    let (a, c) := sat 32 p
    ({ a := a, x := e, full := true }, c)
  else
    let a := if e > t.x then shr t.a (e - t.x) else t.a
    let q := if e < t.x then shr p (t.x - e) else p
    let (r, c) := sat 32 (a + q)
    ({ a := r, x := max e t.x, full := true }, c)

/-- Fold a dot product into a 64-bit entry of a wide pass (R69). -/
def accumulateWide (p : Int) (e : Nat) (t : AccEntry) : AccEntry × Bool :=
  if e = 0 then (t, false)
  else if !t.full then
    let (a, c) := sat 64 (p * 2048)
    ({ a := a, x := e, full := true }, c)
  else
    let a := if e > t.x then shr t.a (e - t.x) else t.a
    let x := max e t.x
    let add := if e + 11 ≥ x then p * (2 ^ (e + 11 - x) : Nat) else shr p (x - (e + 11))
    let (r, c) := sat 64 (a + add)
    ({ a := r, x := x, full := true }, c)

/-- The narrow record of a wide entry at shift `d` (R147); an exponent above 255 is stored as 255 with A saturated. -/
def narrowAt (d : Nat) (t : AccEntry) : AccEntry × Bool :=
  if t.x + d - 11 > 255 then
    ({ a := (sat 32 (shr t.a (266 - t.x))).1, x := 255, full := t.full }, true)
  else
    let (a, c) := sat 32 (shr t.a d)
    ({ a := a, x := t.x + d - 11, full := t.full }, c)

/-- The narrow record of a wide entry (R147): the smallest shift from `d` on that brings A within 32 bits; the first
argument is the shifts left to try. -/
def narrowOf : Nat → Nat → AccEntry → AccEntry × Bool
  | 0, d, t => narrowAt d t
  | n + 1, d, t => if (sat 32 (shr t.a d)).2 then narrowOf n (d + 1) t else narrowAt d t

/-! ## Floating point -/

/-- A value of a floating-point format: `fin n m e` is (−1)^n · m · 2^e. -/
inductive Fp where
  | nan
  | inf (neg : Bool)
  | fin (neg : Bool) (m : Nat) (e : Int)
deriving DecidableEq, Repr

/-- A format: exponent bits and fraction bits. -/
structure FpFmt where
  eb : Nat
  mb : Nat
deriving DecidableEq, Repr

def bf16 : FpFmt := ⟨8, 7⟩
def fp32 : FpFmt := ⟨8, 23⟩
def fp64 : FpFmt := ⟨11, 52⟩

/-- The exponent bias of a format. -/
def FpFmt.bias (f : FpFmt) : Int := (2 ^ (f.eb - 1) : Nat) - 1

/-- The value of a bit pattern; subnormals are kept. -/
def fpOf (f : FpFmt) (b : Nat) : Fp :=
  let neg := b.testBit (f.eb + f.mb)
  let ex := bitsOf b f.mb f.eb
  let fr := b % 2 ^ f.mb
  if ex = 2 ^ f.eb - 1 then (if fr = 0 then .inf neg else .nan)
  else if ex = 0 then .fin neg fr (1 - f.bias - f.mb)
  else .fin neg (2 ^ f.mb + fr) (ex - f.bias - f.mb)

/-- The value of a bit pattern with subnormals read as zero of the same sign (R71, R75). -/
def fpOfFlush (f : FpFmt) (b : Nat) : Fp :=
  if bitsOf b f.mb f.eb = 0 then .fin (b.testBit (f.eb + f.mb)) 0 0 else fpOf f b

/-- One rounding to nearest, ties to even, into a format; `flush` turns a subnormal result into zero of its sign. A NaN
becomes the quiet NaN of R73. -/
def fpRound (f : FpFmt) (flush : Bool) : Fp → Nat
  | .nan => (2 ^ f.eb - 1) * 2 ^ f.mb + 2 ^ (f.mb - 1)
  | .inf neg => bit neg * 2 ^ (f.eb + f.mb) + (2 ^ f.eb - 1) * 2 ^ f.mb
  | .fin neg m e =>
    let s := bit neg * 2 ^ (f.eb + f.mb)
    if m = 0 then s
    else
      let q := max (e + Nat.log2 m - f.mb) (1 - f.bias - f.mb)
      let r := if e ≥ q then m * 2 ^ (e - q).toNat else (rne m (q - e).toNat).toNat
      let bits := (q + f.mb + f.bias - 1).toNat * 2 ^ f.mb + r
      if bits ≥ (2 ^ f.eb - 1) * 2 ^ f.mb then s + (2 ^ f.eb - 1) * 2 ^ f.mb
      else if flush ∧ bits < 2 ^ f.mb then s
      else s + bits

/-- The exact product. -/
def fpMul : Fp → Fp → Fp
  | .nan, _ => .nan
  | _, .nan => .nan
  | .inf n, .inf k => .inf (xor n k)
  | .inf n, .fin k m _ => if m = 0 then .nan else .inf (xor n k)
  | .fin k m _, .inf n => if m = 0 then .nan else .inf (xor n k)
  | .fin n m e, .fin k l d => .fin (xor n k) (m * l) (e + d)

/-- The exact sum; an exact zero sum of values of both signs is +0. -/
def fpAdd : Fp → Fp → Fp
  | .nan, _ => .nan
  | _, .nan => .nan
  | .inf n, .inf k => if n = k then .inf n else .nan
  | .inf n, _ => .inf n
  | _, .inf k => .inf k
  | .fin n m e, .fin k l d =>
    let lo := min e d
    let a : Int := (m * 2 ^ (e - lo).toNat : Nat)
    let b : Int := (l * 2 ^ (d - lo).toNat : Nat)
    let v := (if n then -a else a) + (if k then -b else b)
    if v = 0 then .fin (n && k) 0 0 else .fin (v < 0) v.natAbs lo

/-- The negation. -/
def fpNeg : Fp → Fp
  | .nan => .nan
  | .inf n => .inf (!n)
  | .fin n m e => .fin (!n) m e

/-- `a < b`, false on NaN. -/
def fpLt (a b : Fp) : Bool :=
  match fpAdd a (fpNeg b) with
  | .nan => match a, b with
    | .inf n, .inf k => n && !k
    | _, _ => false
  | .inf n => n
  | .fin n m _ => n && m ≠ 0

/-- A bit pattern that stands for a NaN. -/
def isNan (f : FpFmt) (b : Nat) : Bool := fpOf f b = .nan

/-- A BF16 pattern widened to FP32. -/
def bf16ToFp32 (b : Nat) : Nat := fpRound fp32 false (fpOf bf16 b)

/-! ## The aligner -/

/-- The exponent of an A12 block under ceiling `c` (R75, R77). -/
def a12Exp (c : Nat) (xs : List Nat) : Nat :=
  let exps := (xs.map (fun b => bitsOf b 7 8)).filter (fun e => 0 < e ∧ e < 255)
  let anyInf := xs.any (fun b => bitsOf b 7 8 = 255 && b % 128 = 0)
  match exps with
  | [] => if anyInf then min 254 c else 0
  | _ => min (exps.foldl max 0) c

/-- The rounded mantissa of one BF16 value at block exponent `e`, and whether it clips (R75 to R77). -/
def a12Mant (e b : Nat) : Int × Bool :=
  let neg := b.testBit 15
  let ex := bitsOf b 7 8
  let fr := b % 128
  if e = 0 ∨ ex = 0 then (0, false)
  else if ex = 255 then (if fr = 0 then (if neg then -2047 else 2047, true) else (0, false))
  else
    let v : Int := ((128 + fr) * 2 ^ (ex + 3) : Nat)
    let r := rne (if neg then -v else v) e
    if r > 2047 then (2047, true) else if r < -2047 then (-2047, true) else (r, false)

/-- The 64 bytes of an A12 block from its mantissas, exponent and clips (R74). -/
def a12Bytes (ms : List Int) (e clips : Nat) : List Byte :=
  leBytes 48 ((ms.zipIdx.map (fun p => unsigned 12 p.1 * 2 ^ (12 * p.2))).sum) ++
    leBytes 1 e ++ leBytes 1 clips ++ zeros 14

/-- The A12 block of 32 BF16 values under an effective ceiling, and the NaNs met (R75 to R77). -/
def alignA12 (c : Nat) (xs : List Nat) : List Byte × Nat :=
  let e := a12Exp c xs
  let ms := xs.map (a12Mant e)
  (a12Bytes (ms.map (·.1)) e ((ms.filter (·.2)).length), (xs.filter (isNan bf16)).length)

/-- The mantissa of the low block of an A24 pair (R78). -/
def a24Low (e el b : Nat) : Int :=
  let ex := bitsOf b 7 8
  if e = 0 ∨ ex = 0 ∨ ex = 255 then 0
  else
    let v : Int := ((128 + b % 128) * 2 ^ (ex + 3) : Nat)
    rne ((if b.testBit 15 then -v else v) - (a12Mant e b).1 * (2 ^ e : Nat)) el

/-- The A24 pair of 32 BF16 values: high block, then low block, and the NaNs met (R78). -/
def alignA24 (xs : List Nat) : List Byte × Nat :=
  let e := a12Exp 255 xs
  let el := if e = 0 then 0 else max 1 (e - 11)
  let hi := alignA12 255 xs
  (hi.1 ++ a12Bytes (xs.map (a24Low e el)) el 0, hi.2)

/-- The effective ceiling (R138): 255 is no ceiling; else the ceiling and the signed adjustment, within 1 to 255. -/
def ceilEff (c : Nat) (adj : Int) : Nat :=
  if c = 255 then 255 else (min 255 (max 1 ((c : Int) + adj))).toNat

/-- The BF16 values of a byte row. -/
def bf16Row (bs : List Byte) : List Nat := (List.range (bs.length / 2)).map (fun i => byteField bs (2 * i) 2)

/-- Mantissa `i` of an A12 block. -/
def blockMant (blk : List Byte) (i : Nat) : Int := signed 12 (bitsOf (byteField blk 0 48) (12 * i) 12)

/-- The exponent and the clips of an A12 block. -/
def blockExp (blk : List Byte) : Nat := byteField blk 48 1
def blockClips (blk : List Byte) : Nat := byteField blk 49 1

/-! ## Dot products -/

/-- Code `e` of a lane's column, `w` bits each, two's complement (R64, R126). -/
def weightCode (w : Nat) (col : List Byte) (e : Nat) : Int := signed w (bitsOf (leNat col) (w * e) w)

/-- The exact dot product of a column of `w`-bit codes with an A12 block (R65, R66). -/
def dotInt (w : Nat) (col blk : List Byte) : Int :=
  ((List.range 32).map (fun e => weightCode w col e * blockMant blk e)).sum

/-- The dot product of a column of unsigned 4-bit codes, a low nibble plane, with an A12 block (R66). -/
def dotLow (col blk : List Byte) : Int :=
  ((List.range 32).map (fun e => (bitsOf (leNat col) (4 * e) 4 : Nat) * blockMant blk e)).sum

/-- One FP32 sum of BF16 mode: rounded, subnormal results flushed (R71); the count of NaNs produced rises with it. -/
def addFp32 (x y : Nat × Nat) : Nat × Nat :=
  let r := fpRound fp32 true (fpAdd (fpOf fp32 x.1) (fpOf fp32 y.1))
  (r, x.2 + y.2 + bit (isNan fp32 r))

/-- A BF16 product, exact (R71): its value as a pair with no NaN counted yet. -/
def mulBf16 (w x : Nat) : Fp := fpMul (fpOfFlush bf16 w) (fpOfFlush bf16 x)

/-- The sum of two exact products, rounded to FP32 (R71). -/
def addProducts (p q : Fp) : Nat × Nat :=
  let r := fpRound fp32 true (fpAdd p q)
  (r, bit (isNan fp32 r))

/-- One BF16 operand folded into an FP32 accumulator in the fixed order of R71; the second part counts NaNs. -/
def bf16Step (col op : List Byte) (a : Nat) : Nat × Nat :=
  let p := fun i => mulBf16 (byteField col (2 * i) 2) (byteField op (2 * i) 2)
  let e := addFp32 (addProducts (p 0) (p 1)) (addProducts (p 2) (p 3))
  let g := addFp32 (addProducts (p 4) (p 5)) (addProducts (p 6) (p 7))
  addFp32 (a, 0) (addFp32 e g)

/-- One fma, rounded once, subnormals kept (R72). -/
def fmaStep (f : FpFmt) (w x a : Nat) : Nat := fpRound f false (fpAdd (fpMul (fpOf f w) (fpOf f x)) (fpOf f a))

/-- One FP32 operand of two elements (R72). -/
def fp32Step (col op : List Byte) (a : Nat) : Nat × Nat :=
  let r0 := fmaStep fp32 (byteField col 0 4) (byteField op 0 4) a
  let r1 := fmaStep fp32 (byteField col 4 4) (byteField op 4 4) r0
  (r1, bit (isNan fp32 r0) + bit (isNan fp32 r1))

/-- One FP64 operand of a lane pair (R72). -/
def fp64Step (col op : List Byte) (a : Nat) : Nat × Nat :=
  let r := fmaStep fp64 (byteField col 0 8) (byteField op 0 8) a
  (r, bit (isNan fp64 r))

/-! ## Conversion -/

/-- The exact value of an integer entry (R133): `sub` is 137, or 148 in a wide pass. -/
def intValue (sub : Nat) (t : AccEntry) : Fp :=
  if t.a = 0 then .fin false 0 0 else .fin (t.a < 0) t.a.natAbs ((t.x : Int) - sub)

/-- `v × S + B` with one rounding into `f` (R133 to R135); S and B are BF16 patterns of a rescale entry. -/
def convert (f : FpFmt) (v : Fp) (entry : Nat) : Nat :=
  fpRound f (f = bf16) (fpAdd (fpMul v (fpOf bf16 (entry % 65536))) (fpOf bf16 (entry / 65536)))

end Sys2Proof.Machine
end

