-- ==== Sys2Proof/Machine/FixedPoint.lean ====
section
/-! DEFINITION. The transcendental functions of the lane tail (R88, R89): the exact function in a binary fixed point of 160
places, and the choice of a result that the manual bounds and does not fix to the bit. A free value stands where it keeps the
bound, and the rounded function elsewhere (log entry 50). -/

namespace Sys2Proof.Machine

/-- The fixed point: an integer v stands for v ÷ 2^160. -/
def fxOne : Int := (2 ^ 160 : Nat)

/-- A finite value in the fixed point. -/
def fxOf (neg : Bool) (m : Nat) (e : Int) : Int :=
  let a : Int := if e + 160 ≥ 0 then (m * 2 ^ (e + 160).toNat : Nat) else (m / 2 ^ (-(e + 160)).toNat : Nat)
  if neg then -a else a

/-- The FP32 pattern nearest to a fixed-point value, ties to even. -/
def fxRound (v : Int) : Nat := fpRound fp32 false (.fin (v < 0) v.natAbs (-160))

/-- The terms of the exponential series still to add: the number of the next term, its value, and the sum so far. -/
def fxSeries : Nat → Int → Nat → Int → Int → Int
  | 0, _, _, _, sum => sum
  | n + 1, r, k, t, sum =>
    let t' := t * r / (fxOne * (k + 1 : Nat))
    fxSeries n r (k + 1) t' (sum + t')

/-- Square a fixed-point value `n` times. -/
def fxSquares : Nat → Int → Int
  | 0, v => v
  | n + 1, v => fxSquares n (v * v / fxOne)

/-- e^x, by the series at x ÷ 1,024; above 100 it is as at 100, past the range of FP32, and below −110 it is 0 at this precision. -/
def fxExp (x : Int) : Int :=
  if x < -110 * fxOne then 0 else fxSquares 10 (fxSeries 40 (min x (100 * fxOne) / 1024) 0 fxOne fxOne)

/-- `c` lies within 2^-rel of `v`, relative; or, with `small`, within 2^-30 where `v` is below 2^-12 in magnitude (R89). -/
def fxNear (rel : Nat) (small : Bool) (v c : Int) : Bool :=
  (c - v).natAbs * 2 ^ rel ≤ v.natAbs || (small && v.natAbs * 2 ^ 12 < 2 ^ 160 && (c - v).natAbs * 2 ^ 30 ≤ 2 ^ 160)

/-- The free candidate where it keeps the bound about `v`, else `v` rounded. -/
def fxWithin (rel : Nat) (small : Bool) (v : Int) (cand : Nat) : Nat :=
  match fpOf fp32 cand with
  | .fin n m e => if fxNear rel small v (fxOf n m e) then cand else fxRound v
  | _ => fxRound v

/-- The quiet NaN and the infinity of FP32. -/
def nan32 : Nat := 0x7FC00000
def inf32 : Nat := 0x7F800000

/-- e^x of an FP32 value (R88, R89). -/
def expOf (x : Nat) : Nat :=
  match fpOf fp32 x with
  | .nan => nan32
  | .inf neg => if neg then 0 else inf32
  | .fin n m e => fxWithin 18 true (fxExp (fxOf n m e)) (Config.expf x)

/-- x ÷ (1 + e^−z) in the fixed point. -/
def fxLogistic (x z : Int) : Int := x * fxOne / (fxOne + fxExp (-z))

/-- SiLU of an FP32 value; of −∞ the formula gives no number, and the value is free. -/
def siluOf (x : Nat) : Nat :=
  match fpOf fp32 x with
  | .nan => nan32
  | .inf neg => if neg then Config.silu x % 2 ^ 32 else inf32
  | .fin n m e =>
    let v := fxOf n m e
    fxWithin 18 true (fxLogistic v v) (Config.silu x)

/-- GELU in its tanh form (R88), x · ½ · (1 + tanh u) = x ÷ (1 + e^(−2u)) with u = √(2 ÷ π) · (x + 0.044715 · x³); its two
constants are PRESUMED (log entry 50). Beyond ±64 the cube does not matter, and x is taken there. -/
def geluOf (x : Nat) : Nat :=
  match fpOf fp32 x with
  | .nan => nan32
  | .inf neg => if neg then Config.gelu x % 2 ^ 32 else inf32
  | .fin n m e =>
    let v := fxOf n m e
    let y := max (-64 * fxOne) (min (64 * fxOne) v)
    let cube := y * y / fxOne * y / fxOne
    let u := (y + 44715 * cube / 1000000) * 797884560802865355879892119868763736951717 / (10 ^ 42 : Nat)
    fxWithin 18 true (fxLogistic v (2 * u)) (Config.gelu x)

/-- The fixed-point value of a finite FP32 pattern; none of a NaN or an infinity. -/
def fxFin (x : Nat) : Option Int :=
  match fpOf fp32 x with
  | .fin n m e => some (fxOf n m e)
  | _ => none

/-- The running sum of SOFTMAX_STATS (R88): the old sum, of the old maximum, brought to the new one, and e^(x − max) of each value.
The manual fixes no order and no rounding of the sums; any of them stays within 2^-17 of the exact sum. A row with a NaN or an
infinity has a free sum. -/
def softmaxOf (m0 s0 m : Nat) (fresh : Bool) (vals : List Nat) : Nat :=
  let cand := Config.softmaxSum m0 s0 vals % 2 ^ 32
  match fxFin m, vals.mapM fxFin, fxFin m0, fxFin s0 with
  | some top, some xs, some o, some so =>
    let old := if fresh then 0 else so * fxExp (o - top) / fxOne
    fxWithin 17 false (old + (xs.map (fun v => fxExp (v - top))).sum) cand
  | _, _, _, _ => cand

/-- The running sum of squares of SUMSQ (R88), within 2^-18 of the exact sum: no order or rounding of the FP32 sums leaves it by
more. A row with a NaN or an infinity has a free sum. -/
def sumsqOf (old : Nat) (vals : List Nat) : Nat :=
  let cand := Config.sumSquares old vals % 2 ^ 32
  match vals.mapM fxFin, fxFin old with
  | some xs, some o => fxWithin 18 false (o + (xs.map (fun v => v * v / fxOne)).sum) cand
  | _, _ => cand

end Sys2Proof.Machine
end

