-- ==== Sys2Proof/Machine/Regs.lean ====
section
/-! DEFINITION. The registers of the privileged view: their names, words, fields, access codes, offsets and reset
words, from the register tables of spec/ (R11 to R17, R598). One register word is 64 bits; a register of two words has a
second constructor ending in 1. The unit numbers of a register make its index (`RegRow`). -/

namespace Sys2Proof.Machine

/-- A register word of the spec. `stnLrCtr` is STN.LR_CTR, and so on; a final 1 is the second word of a two-word register. -/
inductive Reg where
  | stnLrCtr | stnLrSnap | stnCtrCtl | stnLrSpare | jobBatchCfg | jobBatchCtr | jobRerunCfg | jobClipCtr | ttbSlotState 
  | ttbSlotMask | ttbSlotTtid | ttbSlotOldMask | ttbStnPlace | ttbStnFree | ttbLastFail | ttbSigners | ttbBaseStatus 
  | glbIslandCtr | glbIslandInfo | depTierCtr | depTierLevel | depHostwin | depCacheCtr | memStackState | stnStreamStat 
  | stnStreamStat1 | stnCopyCtr | jobState | jobCfg | jobWcet | jobXbound | jobSlow | jobAcct | jobBindBuf | jobBindBuf1 
  | jobBindScalar | jobCtl | jobCtlStatus | jobSched | jobSlowAlerts | stnState | depSrchCtr | stnWalk | depScanCtr 
  | brlLineState | brlPeerSerial | brlLineCtl | brlLineCtr | brlFabric | brlSerial | brlMeshCfg | brlBind | brlBind1 
  | brlMeshCtr | queAdminCqAddr | queAdminCfg | queAdminCtl | queArb | queQState | queQState1 | queCqState | queCqState1 
  | queCtr | queClass0 | flsHealth | flsCfg | flsCtr | flsRetryCtr | flsLatHist | flsGroup | flsGroup1 | flsDie 
  | flsChan | flsRawAddr | flsRawCtl | flsRawData | cfsDevState | cfsDevState1 | cfsCtr | glbEccCtr | glbEccCtr1 
  | memEccCfg | memScrubStat | memCeLog | memCeLog1 | stnEccCfg | stnCeLog | stnCeLog1 | pwrBoot | pwrHoldup | pwrString 
  | pwrCtr | glbMaint | glbMaint1 | glbFw | glbId | glbPrivLock | glbLockStat | glbUnlockChal | glbUnlockSig | glbUnlockCtl 
  | glbEventCfg | glbEventStatus | secIdentity | secSignerKey | secKeyStage | secKeyCtl | secSvn | secMeas | pwrTemp 
  | pwrCoolant | pwrInput | tmxStnSel | tmxPin | tmxObs | tmxSample | brlCable 
deriving DecidableEq, Repr

/-- The access codes of R12. -/
inductive Acc where | ro | rw | wo | w1c | rwl | rc
deriving DecidableEq, Repr

/-- A field of a register word: its register, its lowest bit and its width. -/
structure Fld where
  reg : Reg
  lsb : Nat
  width : Nat
deriving DecidableEq, Repr

/-- A row of the offset map: the register, the BAR0 offset of its first word, up to three (stride, count) pairs of its
unit numbers, the width of the register in bits, and its fields as (lowest bit, width, access). -/
structure RegRow where
  reg : Reg
  base : Nat
  dims : List (Nat × Nat)
  bits : Nat
  fields : List (Nat × Nat × Acc)
deriving DecidableEq, Repr

/-- The registers of block STN (R598). -/
def rowsStn : List RegRow := [
  ⟨.stnLrCtr, 0x801000, [(0x10000, 64), (0x100, 33), (0x8, 16)], 64, [(0, 48, .ro)]⟩,
  ⟨.stnLrSnap, 0x805000, [(0x10000, 64), (0x100, 33), (0x8, 16)], 64, [(0, 48, .ro)]⟩,
  ⟨.stnCtrCtl, 0x800f00, [(0x10000, 64)], 32, [(0, 1, .wo), (1, 1, .wo)]⟩,
  ⟨.stnLrSpare, 0x800f08, [(0x10000, 64)], 32, [(0, 5, .ro), (5, 1, .ro), (6, 1, .ro)]⟩,
  ⟨.stnStreamStat, 0x808000, [(0x10000, 64), (0x100, 8), (0x10, 8)], 64, [(0, 32, .ro), (32, 7, .ro), (39, 1, .ro)]⟩,
  ⟨.stnStreamStat1, 0x808008, [(0x10000, 64), (0x100, 8), (0x10, 8)], 64, [(0, 48, .ro)]⟩,
  ⟨.stnCopyCtr, 0x809000, [(0x10000, 64), (0x8, 5)], 64, [(0, 48, .ro)]⟩,
  ⟨.stnState, 0x800f10, [(0x10000, 64)], 32, [(0, 1, .ro), (1, 1, .ro), (2, 3, .ro), (5, 9, .ro)]⟩,
  ⟨.stnWalk, 0x80a000, [(0x10000, 64)], 64, [(0, 5, .ro), (16, 48, .ro)]⟩,
  ⟨.stnEccCfg, 0x800f18, [(0x10000, 64)], 32, [(0, 8, .rwl), (8, 1, .wo)]⟩,
  ⟨.stnCeLog, 0x80b000, [(0x10000, 64), (0x10, 16)], 64, [(0, 24, .ro), (24, 6, .ro), (32, 7, .ro), (48, 16, .ro)]⟩,
  ⟨.stnCeLog1, 0x80b008, [(0x10000, 64), (0x10, 16)], 64, [(0, 64, .ro)]⟩]

/-- The registers of block JOB (R598). -/
def rowsJob : List RegRow := [
  ⟨.jobBatchCfg, 0x208000, [(0x40, 256)], 64, [(0, 13, .rw), (16, 16, .rw), (32, 13, .ro), (45, 1, .ro)]⟩,
  ⟨.jobBatchCtr, 0x208008, [(0x40, 256), (0x8, 7)], 64, [(0, 48, .ro)]⟩,
  ⟨.jobRerunCfg, 0x20c000, [(0x40, 256)], 32, [(0, 4, .rw), (4, 4, .ro), (8, 4, .rw)]⟩,
  ⟨.jobClipCtr, 0x20c008, [(0x40, 256), (0x8, 6)], 64, [(0, 48, .ro)]⟩,
  ⟨.jobState, 0x200000, [(0x40, 256)], 64, [(0, 3, .ro), (3, 1, .ro), (4, 1, .ro), (5, 1, .ro), (8, 6, .ro), (14, 2, .ro), (16, 12, .ro), (32, 16, .ro)]⟩,
  ⟨.jobCfg, 0x200008, [(0x40, 256)], 64, [(0, 10, .rwl), (16, 16, .rwl), (32, 16, .rwl), (48, 1, .rwl)]⟩,
  ⟨.jobWcet, 0x200010, [(0x40, 256)], 64, [(0, 48, .ro)]⟩,
  ⟨.jobXbound, 0x200018, [(0x40, 256)], 64, [(0, 32, .ro)]⟩,
  ⟨.jobSlow, 0x200020, [(0x40, 256)], 64, [(0, 16, .ro), (16, 16, .ro), (32, 6, .ro), (63, 1, .w1c)]⟩,
  ⟨.jobAcct, 0x204000, [(0x40, 256), (0x8, 8)], 64, [(0, 48, .ro)]⟩,
  ⟨.jobBindBuf, 0x210000, [(0x10, 16)], 64, [(0, 64, .rwl)]⟩,
  ⟨.jobBindBuf1, 0x210008, [(0x10, 16)], 64, [(0, 64, .rwl)]⟩,
  ⟨.jobBindScalar, 0x210100, [(0x8, 32)], 64, [(0, 64, .rwl)]⟩,
  ⟨.jobCtl, 0x210200, [], 64, [(0, 4, .rwl), (4, 8, .rwl), (12, 6, .rwl), (32, 32, .rwl)]⟩,
  ⟨.jobCtlStatus, 0x210208, [], 32, [(0, 1, .ro), (1, 1, .w1c), (16, 16, .ro)]⟩,
  ⟨.jobSched, 0x210210, [], 32, [(0, 7, .rwl)]⟩,
  ⟨.jobSlowAlerts, 0x210220, [(0x8, 4)], 64, [(0, 64, .ro)]⟩]

/-- The registers of block TTB (R598). -/
def rowsTtb : List RegRow := [
  ⟨.ttbSlotState, 0x400000, [(0x20, 64)], 64, [(0, 3, .ro), (3, 1, .ro), (4, 1, .ro), (5, 1, .ro), (8, 7, .ro), (16, 3, .ro), (24, 9, .ro), (40, 10, .ro)]⟩,
  ⟨.ttbSlotMask, 0x400008, [(0x20, 64)], 64, [(0, 64, .ro)]⟩,
  ⟨.ttbSlotTtid, 0x400010, [(0x20, 64)], 64, [(0, 64, .ro)]⟩,
  ⟨.ttbSlotOldMask, 0x400018, [(0x20, 64)], 64, [(0, 64, .ro)]⟩,
  ⟨.ttbStnPlace, 0x401000, [(0x8, 64)], 64, [(0, 64, .ro)]⟩,
  ⟨.ttbStnFree, 0x401400, [(0x8, 64)], 64, [(0, 10, .ro), (10, 9, .ro)]⟩,
  ⟨.ttbLastFail, 0x402000, [], 64, [(0, 16, .ro), (16, 8, .ro), (32, 16, .ro), (48, 16, .ro)]⟩,
  ⟨.ttbSigners, 0x402008, [], 32, [(0, 8, .ro), (8, 8, .ro)]⟩,
  ⟨.ttbBaseStatus, 0x402010, [], 32, [(0, 2, .ro), (2, 1, .ro), (16, 16, .ro)]⟩]

/-- The registers of block GLB (R598). -/
def rowsGlb : List RegRow := [
  ⟨.glbIslandCtr, 0x2000, [(0x8, 141)], 64, [(0, 64, .ro)]⟩,
  ⟨.glbIslandInfo, 0x2800, [(0x8, 141)], 64, [(0, 3, .ro), (8, 20, .ro), (32, 32, .ro)]⟩,
  ⟨.glbEccCtr, 0x3000, [(0x10, 141)], 64, [(0, 32, .ro), (32, 32, .ro)]⟩,
  ⟨.glbEccCtr1, 0x3008, [(0x10, 141)], 64, [(0, 32, .ro), (32, 32, .ro)]⟩,
  ⟨.glbMaint, 0x4000, [], 64, [(0, 8, .ro), (8, 8, .ro), (16, 16, .ro), (32, 8, .ro)]⟩,
  ⟨.glbMaint1, 0x4008, [], 64, [(0, 32, .ro), (32, 32, .ro)]⟩,
  ⟨.glbFw, 0x4100, [], 64, [(0, 1, .ro), (1, 1, .ro), (2, 1, .ro), (3, 1, .ro), (4, 4, .ro), (32, 32, .ro)]⟩,
  ⟨.glbId, 0x0, [], 64, [(0, 16, .ro), (16, 8, .ro), (32, 16, .ro)]⟩,
  ⟨.glbPrivLock, 0x100, [], 32, [(0, 1, .rw)]⟩,
  ⟨.glbLockStat, 0x108, [], 64, [(0, 16, .ro), (16, 16, .ro), (32, 8, .ro), (40, 24, .ro)]⟩,
  ⟨.glbUnlockChal, 0x200, [(0x8, 4)], 64, [(0, 64, .ro)]⟩,
  ⟨.glbUnlockSig, 0x240, [(0x8, 15)], 64, [(0, 64, .rw)]⟩,
  ⟨.glbUnlockCtl, 0x300, [], 32, [(0, 1, .wo), (1, 1, .wo), (2, 1, .ro), (3, 1, .ro), (8, 3, .rw), (16, 3, .ro), (24, 4, .ro)]⟩,
  ⟨.glbEventCfg, 0x400, [], 64, [(0, 11, .rwl), (11, 1, .rwl), (32, 16, .rwl)]⟩,
  ⟨.glbEventStatus, 0x408, [], 32, [(0, 1, .w1c), (1, 1, .w1c), (2, 1, .w1c), (3, 1, .w1c), (4, 1, .w1c), (5, 1, .w1c), (6, 1, .w1c), (7, 1, .w1c), (8, 1, .w1c), (9, 1, .w1c), (10, 1, .w1c)]⟩]

/-- The registers of block DEP (R598). -/
def rowsDep : List RegRow := [
  ⟨.depTierCtr, 0xc00000, [(0x8, 11)], 64, [(0, 48, .ro)]⟩,
  ⟨.depTierLevel, 0xc00100, [], 64, [(0, 26, .ro), (32, 21, .ro)]⟩,
  ⟨.depHostwin, 0xc00108, [], 32, [(0, 11, .ro), (16, 11, .ro)]⟩,
  ⟨.depCacheCtr, 0xc01000, [(0x100, 4), (0x8, 5)], 64, [(0, 48, .ro)]⟩,
  ⟨.depSrchCtr, 0xc02000, [(0x8, 15)], 64, [(0, 48, .ro)]⟩,
  ⟨.depScanCtr, 0xc03000, [(0x8, 8)], 64, [(0, 48, .ro)]⟩]

/-- The registers of block MEM (R598). -/
def rowsMem : List RegRow := [
  ⟨.memStackState, 0x1000000, [(0x10000, 32)], 32, [(0, 1, .ro), (1, 1, .ro), (2, 1, .ro), (8, 21, .ro)]⟩,
  ⟨.memEccCfg, 0x1000100, [(0x10000, 32)], 32, [(0, 16, .rwl), (16, 1, .rwl), (17, 8, .rwl), (25, 1, .wo)]⟩,
  ⟨.memScrubStat, 0x1000108, [(0x10000, 32)], 64, [(0, 29, .ro), (32, 16, .ro), (48, 10, .ro)]⟩,
  ⟨.memCeLog, 0x1001000, [(0x10000, 32), (0x10, 32)], 64, [(0, 40, .ro), (40, 6, .ro), (48, 16, .ro)]⟩,
  ⟨.memCeLog1, 0x1001008, [(0x10000, 32), (0x10, 32)], 64, [(0, 64, .ro)]⟩]

/-- The registers of block BRL (R598). -/
def rowsBrl : List RegRow := [
  ⟨.brlLineState, 0x1800000, [(0x10000, 24)], 64, [(0, 3, .ro), (3, 1, .ro), (8, 8, .ro), (16, 5, .ro), (24, 2, .ro), (32, 16, .ro)]⟩,
  ⟨.brlPeerSerial, 0x1800008, [(0x10000, 24)], 64, [(0, 64, .ro)]⟩,
  ⟨.brlLineCtl, 0x1800010, [(0x10000, 24)], 32, [(0, 1, .rwl), (1, 1, .wo), (16, 8, .rwl)]⟩,
  ⟨.brlLineCtr, 0x1800100, [(0x10000, 24), (0x8, 13)], 64, [(0, 48, .ro)]⟩,
  ⟨.brlFabric, 0x1980000, [], 64, [(0, 32, .ro), (32, 8, .ro), (40, 1, .ro)]⟩,
  ⟨.brlSerial, 0x1980008, [], 64, [(0, 64, .ro)]⟩,
  ⟨.brlMeshCfg, 0x1980010, [], 32, [(0, 16, .rwl), (16, 16, .rwl)]⟩,
  ⟨.brlBind, 0x1980100, [(0x20, 4)], 64, [(0, 32, .ro), (32, 16, .ro), (48, 3, .ro), (51, 1, .ro)]⟩,
  ⟨.brlBind1, 0x1980108, [(0x20, 4)], 64, [(0, 16, .ro)]⟩,
  ⟨.brlMeshCtr, 0x1981000, [(0x8, 9)], 64, [(0, 48, .ro)]⟩,
  ⟨.brlCable, 0x1800018, [(0x10000, 24)], 64, [(0, 1, .ro), (1, 2, .ro), (3, 1, .ro), (4, 1, .ro), (8, 8, .ro), (16, 16, .ro)]⟩]

/-- The registers of block QUE (R598). -/
def rowsQue : List RegRow := [
  ⟨.queAdminCqAddr, 0x100000, [], 64, [(0, 64, .rwl)]⟩,
  ⟨.queAdminCfg, 0x100008, [], 64, [(0, 13, .rwl), (16, 17, .rwl), (33, 11, .rwl), (44, 1, .rwl)]⟩,
  ⟨.queAdminCtl, 0x100010, [], 32, [(0, 1, .rwl), (1, 1, .wo), (2, 1, .ro), (3, 1, .ro)]⟩,
  ⟨.queArb, 0x100028, [], 32, [(0, 8, .rwl), (8, 8, .rwl), (16, 8, .rwl)]⟩,
  ⟨.queQState, 0x101000, [(0x10, 1024)], 64, [(0, 3, .ro), (3, 2, .ro), (16, 10, .ro), (32, 12, .ro), (48, 12, .ro)]⟩,
  ⟨.queQState1, 0x101008, [(0x10, 1024)], 64, [(0, 17, .ro), (32, 16, .ro)]⟩,
  ⟨.queCqState, 0x106000, [(0x10, 1024)], 64, [(0, 17, .ro), (32, 17, .ro)]⟩,
  ⟨.queCqState1, 0x106008, [(0x10, 1024)], 64, [(0, 1, .ro), (1, 1, .ro), (2, 11, .ro), (32, 17, .ro)]⟩,
  ⟨.queCtr, 0x10a000, [(0x8, 12)], 64, [(0, 48, .ro)]⟩,
  ⟨.queClass0, 0x10a100, [], 32, [(0, 7, .ro), (16, 7, .rc)]⟩]

/-- The registers of block FLS (R598). -/
def rowsFls : List RegRow := [
  ⟨.flsHealth, 0x1400000, [], 64, [(0, 8, .ro), (8, 1, .ro), (9, 1, .ro), (16, 16, .ro), (32, 18, .ro)]⟩,
  ⟨.flsCfg, 0x1400008, [], 32, [(0, 14, .rwl), (14, 10, .rwl), (24, 1, .rwl)]⟩,
  ⟨.flsCtr, 0x1400100, [(0x8, 18)], 64, [(0, 48, .ro)]⟩,
  ⟨.flsRetryCtr, 0x1400200, [(0x8, 8)], 64, [(0, 48, .ro)]⟩,
  ⟨.flsLatHist, 0x1400300, [(0x8, 16)], 64, [(0, 48, .ro)]⟩,
  ⟨.flsGroup, 0x1401000, [(0x10, 96)], 64, [(0, 12, .ro), (12, 1, .ro), (16, 16, .ro), (32, 16, .ro)]⟩,
  ⟨.flsGroup1, 0x1401008, [(0x10, 96)], 64, [(0, 11, .ro), (16, 11, .ro)]⟩,
  ⟨.flsDie, 0x1402000, [(0x8, 1536)], 64, [(0, 1, .ro), (2, 11, .ro), (13, 11, .ro), (24, 12, .ro)]⟩,
  ⟨.flsChan, 0x1406000, [(0x8, 192)], 64, [(0, 1, .ro), (16, 32, .ro)]⟩,
  ⟨.flsRawAddr, 0x1408000, [], 64, [(0, 8, .rwl), (8, 3, .rwl), (11, 11, .rwl), (22, 12, .rwl), (34, 2, .rwl), (36, 2, .rwl), (40, 4, .rwl)]⟩,
  ⟨.flsRawCtl, 0x1408008, [], 32, [(0, 1, .wo), (1, 1, .ro), (16, 16, .ro)]⟩,
  ⟨.flsRawData, 0x1409000, [(0x8, 512)], 64, [(0, 64, .ro)]⟩]

/-- The registers of block CFS (R598). -/
def rowsCfs : List RegRow := [
  ⟨.cfsDevState, 0x1c00000, [(0x10, 2)], 64, [(0, 1, .ro), (1, 1, .ro), (16, 16, .ro), (32, 20, .ro)]⟩,
  ⟨.cfsDevState1, 0x1c00008, [(0x10, 2)], 64, [(0, 20, .ro), (32, 16, .ro)]⟩,
  ⟨.cfsCtr, 0x1c00100, [(0x8, 8)], 64, [(0, 48, .ro)]⟩]

/-- The registers of block PWR (R598). -/
def rowsPwr : List RegRow := [
  ⟨.pwrBoot, 0x2800000, [], 64, [(0, 4, .ro), (4, 1, .ro), (5, 1, .ro), (6, 1, .ro), (16, 3, .ro), (19, 2, .ro), (32, 32, .ro)]⟩,
  ⟨.pwrHoldup, 0x2800008, [], 64, [(0, 16, .ro), (16, 6, .ro), (32, 21, .ro)]⟩,
  ⟨.pwrString, 0x2800010, [(0x8, 6)], 64, [(0, 16, .ro), (16, 1, .ro), (32, 32, .ro)]⟩,
  ⟨.pwrCtr, 0x2800100, [(0x8, 3)], 64, [(0, 48, .ro)]⟩,
  ⟨.pwrTemp, 0x2800200, [(0x8, 4)], 64, [(0, 16, .ro), (16, 16, .ro)]⟩,
  ⟨.pwrCoolant, 0x2800220, [], 64, [(0, 16, .ro), (16, 16, .ro)]⟩,
  ⟨.pwrInput, 0x2800300, [], 64, [(0, 16, .ro), (16, 16, .ro), (32, 16, .ro)]⟩]

/-- The registers of block SEC (R598). -/
def rowsSec : List RegRow := [
  ⟨.secIdentity, 0x2000000, [(0x8, 8)], 64, [(0, 64, .ro)]⟩,
  ⟨.secSignerKey, 0x2000100, [(0x40, 8), (0x8, 8)], 64, [(0, 64, .ro)]⟩,
  ⟨.secKeyStage, 0x2000400, [(0x8, 8)], 64, [(0, 64, .rwl)]⟩,
  ⟨.secKeyCtl, 0x2000440, [], 32, [(0, 2, .rwl), (2, 1, .ro), (8, 3, .rwl), (16, 16, .ro)]⟩,
  ⟨.secSvn, 0x2000448, [], 32, [(0, 6, .ro)]⟩,
  ⟨.secMeas, 0x2001000, [(0x40, 128), (0x8, 8)], 64, [(0, 64, .ro)]⟩]

/-- The registers of block TMX (R598). -/
def rowsTmx : List RegRow := [
  ⟨.tmxStnSel, 0x2400000, [(0x8, 64)], 32, [(0, 6, .rwl), (8, 6, .rwl), (16, 6, .rwl), (24, 6, .rwl)]⟩,
  ⟨.tmxPin, 0x2401000, [(0x8, 32)], 32, [(0, 8, .rwl), (8, 1, .rwl), (9, 1, .rwl), (10, 1, .rwl)]⟩,
  ⟨.tmxObs, 0x2402000, [(0x8, 2)], 32, [(0, 8, .rwl), (8, 2, .rwl), (10, 1, .rwl)]⟩,
  ⟨.tmxSample, 0x2403000, [], 64, [(0, 32, .ro), (63, 1, .ro)]⟩]

/-- Every register of the privileged view that has a word of its own (the doorbells show fields of QUE.Q_STATE and
QUE.CQ_STATE). -/
def regRows : List RegRow :=
  rowsStn ++ rowsJob ++ rowsTtb ++ rowsGlb ++ rowsDep ++ rowsMem ++ rowsBrl ++ rowsQue ++ rowsFls ++ rowsCfs ++ rowsPwr ++ rowsSec ++ rowsTmx

/-- The index of a register in the register file. -/
def Reg.code : Reg → Nat
  | .stnLrCtr => 0
  | .stnLrSnap => 1
  | .stnCtrCtl => 2
  | .stnLrSpare => 3
  | .jobBatchCfg => 4
  | .jobBatchCtr => 5
  | .jobRerunCfg => 6
  | .jobClipCtr => 7
  | .ttbSlotState => 8
  | .ttbSlotMask => 9
  | .ttbSlotTtid => 10
  | .ttbSlotOldMask => 11
  | .ttbStnPlace => 12
  | .ttbStnFree => 13
  | .ttbLastFail => 14
  | .ttbSigners => 15
  | .ttbBaseStatus => 16
  | .glbIslandCtr => 17
  | .glbIslandInfo => 18
  | .depTierCtr => 19
  | .depTierLevel => 20
  | .depHostwin => 21
  | .depCacheCtr => 22
  | .memStackState => 23
  | .stnStreamStat => 24
  | .stnStreamStat1 => 25
  | .stnCopyCtr => 26
  | .jobState => 27
  | .jobCfg => 28
  | .jobWcet => 29
  | .jobXbound => 30
  | .jobSlow => 31
  | .jobAcct => 32
  | .jobBindBuf => 33
  | .jobBindBuf1 => 34
  | .jobBindScalar => 35
  | .jobCtl => 36
  | .jobCtlStatus => 37
  | .jobSched => 38
  | .jobSlowAlerts => 39
  | .stnState => 40
  | .depSrchCtr => 41
  | .stnWalk => 42
  | .depScanCtr => 43
  | .brlLineState => 44
  | .brlPeerSerial => 45
  | .brlLineCtl => 46
  | .brlLineCtr => 47
  | .brlFabric => 48
  | .brlSerial => 49
  | .brlMeshCfg => 50
  | .brlBind => 51
  | .brlBind1 => 52
  | .brlMeshCtr => 53
  | .queAdminCqAddr => 54
  | .queAdminCfg => 55
  | .queAdminCtl => 56
  | .queArb => 57
  | .queQState => 58
  | .queQState1 => 59
  | .queCqState => 60
  | .queCqState1 => 61
  | .queCtr => 62
  | .queClass0 => 63
  | .flsHealth => 64
  | .flsCfg => 65
  | .flsCtr => 66
  | .flsRetryCtr => 67
  | .flsLatHist => 68
  | .flsGroup => 69
  | .flsGroup1 => 70
  | .flsDie => 71
  | .flsChan => 72
  | .flsRawAddr => 73
  | .flsRawCtl => 74
  | .flsRawData => 75
  | .cfsDevState => 76
  | .cfsDevState1 => 77
  | .cfsCtr => 78
  | .glbEccCtr => 79
  | .glbEccCtr1 => 80
  | .memEccCfg => 81
  | .memScrubStat => 82
  | .memCeLog => 83
  | .memCeLog1 => 84
  | .stnEccCfg => 85
  | .stnCeLog => 86
  | .stnCeLog1 => 87
  | .pwrBoot => 88
  | .pwrHoldup => 89
  | .pwrString => 90
  | .pwrCtr => 91
  | .glbMaint => 92
  | .glbMaint1 => 93
  | .glbFw => 94
  | .glbId => 95
  | .glbPrivLock => 96
  | .glbLockStat => 97
  | .glbUnlockChal => 98
  | .glbUnlockSig => 99
  | .glbUnlockCtl => 100
  | .glbEventCfg => 101
  | .glbEventStatus => 102
  | .secIdentity => 103
  | .secSignerKey => 104
  | .secKeyStage => 105
  | .secKeyCtl => 106
  | .secSvn => 107
  | .secMeas => 108
  | .pwrTemp => 109
  | .pwrCoolant => 110
  | .pwrInput => 111
  | .tmxStnSel => 112
  | .tmxPin => 113
  | .tmxObs => 114
  | .tmxSample => 115
  | .brlCable => 116

/-- STN.LR_CTR.COUNT, bits [47:0], ro. -/
def F.stnLrCtrCount : Fld := ⟨.stnLrCtr, 0, 48⟩
/-- STN.LR_SNAP.COUNT, bits [47:0], ro. -/
def F.stnLrSnapCount : Fld := ⟨.stnLrSnap, 0, 48⟩
/-- STN.CTR_CTL.SNAP, bits [0:0], wo. -/
def F.stnCtrCtlSnap : Fld := ⟨.stnCtrCtl, 0, 1⟩
/-- STN.CTR_CTL.CLEAR, bits [1:1], wo. -/
def F.stnCtrCtlClear : Fld := ⟨.stnCtrCtl, 1, 1⟩
/-- STN.LR_SPARE.REPLACED, bits [4:0], ro. -/
def F.stnLrSpareReplaced : Fld := ⟨.stnLrSpare, 0, 5⟩
/-- STN.LR_SPARE.USED, bits [5:5], ro. -/
def F.stnLrSpareUsed : Fld := ⟨.stnLrSpare, 5, 1⟩
/-- STN.LR_SPARE.FAILED2, bits [6:6], ro. -/
def F.stnLrSpareFailed2 : Fld := ⟨.stnLrSpare, 6, 1⟩
/-- JOB.BATCH_CFG.TARGET_M, bits [12:0], rw. -/
def F.jobBatchCfgTargetM : Fld := ⟨.jobBatchCfg, 0, 13⟩
/-- JOB.BATCH_CFG.WAIT_US, bits [31:16], rw. -/
def F.jobBatchCfgWaitUs : Fld := ⟨.jobBatchCfg, 16, 16⟩
/-- JOB.BATCH_CFG.ROW_CAP, bits [44:32], ro. -/
def F.jobBatchCfgRowCap : Fld := ⟨.jobBatchCfg, 32, 13⟩
/-- JOB.BATCH_CFG.ENABLED, bits [45:45], ro. -/
def F.jobBatchCfgEnabled : Fld := ⟨.jobBatchCfg, 45, 1⟩
/-- JOB.BATCH_CTR.COUNT, bits [47:0], ro. -/
def F.jobBatchCtrCount : Fld := ⟨.jobBatchCtr, 0, 48⟩
/-- JOB.RERUN_CFG.LIMIT, bits [3:0], rw. -/
def F.jobRerunCfgLimit : Fld := ⟨.jobRerunCfg, 0, 4⟩
/-- JOB.RERUN_CFG.ALLOW, bits [7:4], ro. -/
def F.jobRerunCfgAllow : Fld := ⟨.jobRerunCfg, 4, 4⟩
/-- JOB.RERUN_CFG.CEIL_ADJ, bits [11:8], rw. -/
def F.jobRerunCfgCeilAdj : Fld := ⟨.jobRerunCfg, 8, 4⟩
/-- JOB.CLIP_CTR.COUNT, bits [47:0], ro. -/
def F.jobClipCtrCount : Fld := ⟨.jobClipCtr, 0, 48⟩
/-- TTB.SLOT_STATE.STATE, bits [2:0], ro. -/
def F.ttbSlotStateState : Fld := ⟨.ttbSlotState, 0, 3⟩
/-- TTB.SLOT_STATE.BASE, bits [3:3], ro. -/
def F.ttbSlotStateBase : Fld := ⟨.ttbSlotState, 3, 1⟩
/-- TTB.SLOT_STATE.FENCED, bits [4:4], ro. -/
def F.ttbSlotStateFenced : Fld := ⟨.ttbSlotState, 4, 1⟩
/-- TTB.SLOT_STATE.REPL_BUSY, bits [5:5], ro. -/
def F.ttbSlotStateReplBusy : Fld := ⟨.ttbSlotState, 5, 1⟩
/-- TTB.SLOT_STATE.GROUP_SIZE, bits [14:8], ro. -/
def F.ttbSlotStateGroupSize : Fld := ⟨.ttbSlotState, 8, 7⟩
/-- TTB.SLOT_STATE.SIGNER, bits [18:16], ro. -/
def F.ttbSlotStateSigner : Fld := ⟨.ttbSlotState, 16, 3⟩
/-- TTB.SLOT_STATE.JOBS, bits [32:24], ro. -/
def F.ttbSlotStateJobs : Fld := ⟨.ttbSlotState, 24, 9⟩
/-- TTB.SLOT_STATE.CFG_PAGES, bits [49:40], ro. -/
def F.ttbSlotStateCfgPages : Fld := ⟨.ttbSlotState, 40, 10⟩
/-- TTB.SLOT_MASK.MASK, bits [63:0], ro. -/
def F.ttbSlotMaskMask : Fld := ⟨.ttbSlotMask, 0, 64⟩
/-- TTB.SLOT_TTID.TIMETABLE_ID, bits [63:0], ro. -/
def F.ttbSlotTtidTimetableId : Fld := ⟨.ttbSlotTtid, 0, 64⟩
/-- TTB.SLOT_OLD_MASK.OLD_MASK, bits [63:0], ro. -/
def F.ttbSlotOldMaskOldMask : Fld := ⟨.ttbSlotOldMask, 0, 64⟩
/-- TTB.STN_PLACE.PLACES, bits [63:0], ro. -/
def F.ttbStnPlacePlaces : Fld := ⟨.ttbStnPlace, 0, 64⟩
/-- TTB.STN_FREE.CFG_PAGES_FREE, bits [9:0], ro. -/
def F.ttbStnFreeCfgPagesFree : Fld := ⟨.ttbStnFree, 0, 10⟩
/-- TTB.STN_FREE.PLATFORM_FREE, bits [18:10], ro. -/
def F.ttbStnFreePlatformFree : Fld := ⟨.ttbStnFree, 10, 9⟩
/-- TTB.LAST_FAIL.STATUS, bits [15:0], ro. -/
def F.ttbLastFailStatus : Fld := ⟨.ttbLastFail, 0, 16⟩
/-- TTB.LAST_FAIL.CHECK, bits [23:16], ro. -/
def F.ttbLastFailCheck : Fld := ⟨.ttbLastFail, 16, 8⟩
/-- TTB.LAST_FAIL.RECORD, bits [47:32], ro. -/
def F.ttbLastFailRecord : Fld := ⟨.ttbLastFail, 32, 16⟩
/-- TTB.LAST_FAIL.OFFSET, bits [63:48], ro. -/
def F.ttbLastFailOffset : Fld := ⟨.ttbLastFail, 48, 16⟩
/-- TTB.SIGNERS.VALID, bits [7:0], ro. -/
def F.ttbSignersValid : Fld := ⟨.ttbSigners, 0, 8⟩
/-- TTB.SIGNERS.REVOKED, bits [15:8], ro. -/
def F.ttbSignersRevoked : Fld := ⟨.ttbSigners, 8, 8⟩
/-- TTB.BASE_STATUS.SOURCE, bits [1:0], ro. -/
def F.ttbBaseStatusSource : Fld := ⟨.ttbBaseStatus, 0, 2⟩
/-- TTB.BASE_STATUS.ABSENT, bits [2:2], ro. -/
def F.ttbBaseStatusAbsent : Fld := ⟨.ttbBaseStatus, 2, 1⟩
/-- TTB.BASE_STATUS.FAIL_STATUS, bits [31:16], ro. -/
def F.ttbBaseStatusFailStatus : Fld := ⟨.ttbBaseStatus, 16, 16⟩
/-- GLB.ISLAND_CTR.COUNT, bits [63:0], ro. -/
def F.glbIslandCtrCount : Fld := ⟨.glbIslandCtr, 0, 64⟩
/-- GLB.ISLAND_INFO.CLASS, bits [2:0], ro. -/
def F.glbIslandInfoClass : Fld := ⟨.glbIslandInfo, 0, 3⟩
/-- GLB.ISLAND_INFO.NOMINAL_KHZ, bits [27:8], ro. -/
def F.glbIslandInfoNominalKhz : Fld := ⟨.glbIslandInfo, 8, 20⟩
/-- GLB.ISLAND_INFO.UNDERRUNS, bits [63:32], ro. -/
def F.glbIslandInfoUnderruns : Fld := ⟨.glbIslandInfo, 32, 32⟩
/-- DEP.TIER_CTR.COUNT, bits [47:0], ro. -/
def F.depTierCtrCount : Fld := ⟨.depTierCtr, 0, 48⟩
/-- DEP.TIER_LEVEL.FRAMES_FREE, bits [25:0], ro. -/
def F.depTierLevelFramesFree : Fld := ⟨.depTierLevel, 0, 26⟩
/-- DEP.TIER_LEVEL.DIRTY_4K, bits [52:32], ro. -/
def F.depTierLevelDirty4k : Fld := ⟨.depTierLevel, 32, 21⟩
/-- DEP.HOSTWIN.SIZE_GIB, bits [10:0], ro. -/
def F.depHostwinSizeGib : Fld := ⟨.depHostwin, 0, 11⟩
/-- DEP.HOSTWIN.PENDING_GIB, bits [26:16], ro. -/
def F.depHostwinPendingGib : Fld := ⟨.depHostwin, 16, 11⟩
/-- DEP.CACHE_CTR.COUNT, bits [47:0], ro. -/
def F.depCacheCtrCount : Fld := ⟨.depCacheCtr, 0, 48⟩
/-- MEM.STACK_STATE.IN_SERVICE, bits [0:0], ro. -/
def F.memStackStateInService : Fld := ⟨.memStackState, 0, 1⟩
/-- MEM.STACK_STATE.FENCED, bits [1:1], ro. -/
def F.memStackStateFenced : Fld := ⟨.memStackState, 1, 1⟩
/-- MEM.STACK_STATE.MIRROR_ACTIVE, bits [2:2], ro. -/
def F.memStackStateMirrorActive : Fld := ⟨.memStackState, 2, 1⟩
/-- MEM.STACK_STATE.FRAMES_FREE, bits [28:8], ro. -/
def F.memStackStateFramesFree : Fld := ⟨.memStackState, 8, 21⟩
/-- STN.STREAM_STAT.HEAD, bits [31:0], ro. -/
def F.stnStreamStatHead : Fld := ⟨.stnStreamStat, 0, 32⟩
/-- STN.STREAM_STAT.AHEAD, bits [38:32], ro. -/
def F.stnStreamStatAhead : Fld := ⟨.stnStreamStat, 32, 7⟩
/-- STN.STREAM_STAT.ENDED, bits [39:39], ro. -/
def F.stnStreamStatEnded : Fld := ⟨.stnStreamStat, 39, 1⟩
/-- STN.STREAM_STAT.DROPPED, bits [47:0] of word 1, ro. -/
def F.stnStreamStatDropped : Fld := ⟨.stnStreamStat1, 0, 48⟩
/-- STN.COPY_CTR.COUNT, bits [47:0], ro. -/
def F.stnCopyCtrCount : Fld := ⟨.stnCopyCtr, 0, 48⟩
/-- JOB.STATE.STATE, bits [2:0], ro. -/
def F.jobStateState : Fld := ⟨.jobState, 0, 3⟩
/-- JOB.STATE.END_PENDING, bits [3:3], ro. -/
def F.jobStateEndPending : Fld := ⟨.jobState, 3, 1⟩
/-- JOB.STATE.HOLD, bits [4:4], ro. -/
def F.jobStateHold : Fld := ⟨.jobState, 4, 1⟩
/-- JOB.STATE.EXPRESS, bits [5:5], ro. -/
def F.jobStateExpress : Fld := ⟨.jobState, 5, 1⟩
/-- JOB.STATE.SLOT, bits [13:8], ro. -/
def F.jobStateSlot : Fld := ⟨.jobState, 8, 6⟩
/-- JOB.STATE.HOME_DIE, bits [15:14], ro. -/
def F.jobStateHomeDie : Fld := ⟨.jobState, 14, 2⟩
/-- JOB.STATE.PENDING, bits [27:16], ro. -/
def F.jobStatePending : Fld := ⟨.jobState, 16, 12⟩
/-- JOB.STATE.LAST_FAULT, bits [47:32], ro. -/
def F.jobStateLastFault : Fld := ⟨.jobState, 32, 16⟩
/-- JOB.CFG.WEIGHT, bits [9:0], rwl. -/
def F.jobCfgWeight : Fld := ⟨.jobCfg, 0, 10⟩
/-- JOB.CFG.PERIOD_US, bits [31:16], rwl. -/
def F.jobCfgPeriodUs : Fld := ⟨.jobCfg, 16, 16⟩
/-- JOB.CFG.SLOW_THRESH, bits [47:32], rwl. -/
def F.jobCfgSlowThresh : Fld := ⟨.jobCfg, 32, 16⟩
/-- JOB.CFG.SLOW_IRQ_EN, bits [48:48], rwl. -/
def F.jobCfgSlowIrqEn : Fld := ⟨.jobCfg, 48, 1⟩
/-- JOB.WCET.W, bits [47:0], ro. -/
def F.jobWcetW : Fld := ⟨.jobWcet, 0, 48⟩
/-- JOB.XBOUND.RESP_CYC, bits [31:0], ro. -/
def F.jobXboundRespCyc : Fld := ⟨.jobXbound, 0, 32⟩
/-- JOB.SLOW.LAST, bits [15:0], ro. -/
def F.jobSlowLast : Fld := ⟨.jobSlow, 0, 16⟩
/-- JOB.SLOW.AVG, bits [31:16], ro. -/
def F.jobSlowAvg : Fld := ⟨.jobSlow, 16, 16⟩
/-- JOB.SLOW.SLOWEST_STN, bits [37:32], ro. -/
def F.jobSlowSlowestStn : Fld := ⟨.jobSlow, 32, 6⟩
/-- JOB.SLOW.ALERT, bits [63:63], w1c. -/
def F.jobSlowAlert : Fld := ⟨.jobSlow, 63, 1⟩
/-- JOB.ACCT.COUNT, bits [47:0], ro. -/
def F.jobAcctCount : Fld := ⟨.jobAcct, 0, 48⟩
/-- JOB.BIND_BUF.BASE, bits [63:0], rwl. -/
def F.jobBindBufBase : Fld := ⟨.jobBindBuf, 0, 64⟩
/-- JOB.BIND_BUF.LENGTH, bits [63:0] of word 1, rwl. -/
def F.jobBindBufLength : Fld := ⟨.jobBindBuf1, 0, 64⟩
/-- JOB.BIND_SCALAR.VALUE, bits [63:0], rwl. -/
def F.jobBindScalarValue : Fld := ⟨.jobBindScalar, 0, 64⟩
/-- JOB.CTL.CMD, bits [3:0], rwl. -/
def F.jobCtlCmd : Fld := ⟨.jobCtl, 0, 4⟩
/-- JOB.CTL.JOB, bits [11:4], rwl. -/
def F.jobCtlJob : Fld := ⟨.jobCtl, 4, 8⟩
/-- JOB.CTL.SLOT, bits [17:12], rwl. -/
def F.jobCtlSlot : Fld := ⟨.jobCtl, 12, 6⟩
/-- JOB.CTL.SCALAR_MASK, bits [63:32], rwl. -/
def F.jobCtlScalarMask : Fld := ⟨.jobCtl, 32, 32⟩
/-- JOB.CTL_STATUS.BUSY, bits [0:0], ro. -/
def F.jobCtlStatusBusy : Fld := ⟨.jobCtlStatus, 0, 1⟩
/-- JOB.CTL_STATUS.REFUSED, bits [1:1], w1c. -/
def F.jobCtlStatusRefused : Fld := ⟨.jobCtlStatus, 1, 1⟩
/-- JOB.CTL_STATUS.STATUS, bits [31:16], ro. -/
def F.jobCtlStatusStatus : Fld := ⟨.jobCtlStatus, 16, 16⟩
/-- JOB.SCHED.EXPRESS_SHARE, bits [6:0], rwl. -/
def F.jobSchedExpressShare : Fld := ⟨.jobSched, 0, 7⟩
/-- JOB.SLOW_ALERTS.ALERT, bits [63:0], ro. -/
def F.jobSlowAlertsAlert : Fld := ⟨.jobSlowAlerts, 0, 64⟩
/-- STN.STATE.IN_SERVICE, bits [0:0], ro. -/
def F.stnStateInService : Fld := ⟨.stnState, 0, 1⟩
/-- STN.STATE.FENCED, bits [1:1], ro. -/
def F.stnStateFenced : Fld := ⟨.stnState, 1, 1⟩
/-- STN.STATE.CAUSE, bits [4:2], ro. -/
def F.stnStateCause : Fld := ⟨.stnState, 2, 3⟩
/-- STN.STATE.ACTIVE_JOB, bits [13:5], ro. -/
def F.stnStateActiveJob : Fld := ⟨.stnState, 5, 9⟩
/-- DEP.SRCH_CTR.COUNT, bits [47:0], ro. -/
def F.depSrchCtrCount : Fld := ⟨.depSrchCtr, 0, 48⟩
/-- STN.WALK.BUSY, bits [4:0], ro. -/
def F.stnWalkBusy : Fld := ⟨.stnWalk, 0, 5⟩
/-- STN.WALK.STARTED, bits [63:16], ro. -/
def F.stnWalkStarted : Fld := ⟨.stnWalk, 16, 48⟩
/-- DEP.SCAN_CTR.COUNT, bits [47:0], ro. -/
def F.depScanCtrCount : Fld := ⟨.depScanCtr, 0, 48⟩
/-- BRL.LINE_STATE.STATE, bits [2:0], ro. -/
def F.brlLineStateState : Fld := ⟨.brlLineState, 0, 3⟩
/-- BRL.LINE_STATE.DETOURING, bits [3:3], ro. -/
def F.brlLineStateDetouring : Fld := ⟨.brlLineState, 3, 1⟩
/-- BRL.LINE_STATE.PEER_MOD, bits [15:8], ro. -/
def F.brlLineStatePeerMod : Fld := ⟨.brlLineState, 8, 8⟩
/-- BRL.LINE_STATE.PEER_LINE, bits [20:16], ro. -/
def F.brlLineStatePeerLine : Fld := ⟨.brlLineState, 16, 5⟩
/-- BRL.LINE_STATE.RETRAINS_10S, bits [25:24], ro. -/
def F.brlLineStateRetrains10s : Fld := ⟨.brlLineState, 24, 2⟩
/-- BRL.LINE_STATE.DEPTH_KIB, bits [47:32], ro. -/
def F.brlLineStateDepthKib : Fld := ⟨.brlLineState, 32, 16⟩
/-- BRL.PEER_SERIAL.SERIAL, bits [63:0], ro. -/
def F.brlPeerSerialSerial : Fld := ⟨.brlPeerSerial, 0, 64⟩
/-- BRL.LINE_CTL.ENABLE, bits [0:0], rwl. -/
def F.brlLineCtlEnable : Fld := ⟨.brlLineCtl, 0, 1⟩
/-- BRL.LINE_CTL.RETRAIN, bits [1:1], wo. -/
def F.brlLineCtlRetrain : Fld := ⟨.brlLineCtl, 1, 1⟩
/-- BRL.LINE_CTL.REPLAY_THRESH, bits [23:16], rwl. -/
def F.brlLineCtlReplayThresh : Fld := ⟨.brlLineCtl, 16, 8⟩
/-- BRL.LINE_CTR.COUNT, bits [47:0], ro. -/
def F.brlLineCtrCount : Fld := ⟨.brlLineCtr, 0, 48⟩
/-- BRL.FABRIC.EPOCH, bits [31:0], ro. -/
def F.brlFabricEpoch : Fld := ⟨.brlFabric, 0, 32⟩
/-- BRL.FABRIC.SELF, bits [39:32], ro. -/
def F.brlFabricSelf : Fld := ⟨.brlFabric, 32, 8⟩
/-- BRL.FABRIC.INSTALLED, bits [40:40], ro. -/
def F.brlFabricInstalled : Fld := ⟨.brlFabric, 40, 1⟩
/-- BRL.SERIAL.SERIAL, bits [63:0], ro. -/
def F.brlSerialSerial : Fld := ⟨.brlSerial, 0, 64⟩
/-- BRL.MESH_CFG.DETOUR_DEPTH_KIB, bits [15:0], rwl. -/
def F.brlMeshCfgDetourDepthKib : Fld := ⟨.brlMeshCfg, 0, 16⟩
/-- BRL.MESH_CFG.LINK_STATE_US, bits [31:16], rwl. -/
def F.brlMeshCfgLinkStateUs : Fld := ⟨.brlMeshCfg, 16, 16⟩
/-- BRL.BIND.STEP, bits [31:0], ro. -/
def F.brlBindStep : Fld := ⟨.brlBind, 0, 32⟩
/-- BRL.BIND.LAYER, bits [47:32], ro. -/
def F.brlBindLayer : Fld := ⟨.brlBind, 32, 16⟩
/-- BRL.BIND.PHASE, bits [50:48], ro. -/
def F.brlBindPhase : Fld := ⟨.brlBind, 48, 3⟩
/-- BRL.BIND.INSTALLED, bits [51:51], ro. -/
def F.brlBindInstalled : Fld := ⟨.brlBind, 51, 1⟩
/-- BRL.BIND.LAST_STATUS, bits [15:0] of word 1, ro. -/
def F.brlBindLastStatus : Fld := ⟨.brlBind1, 0, 16⟩
/-- BRL.MESH_CTR.COUNT, bits [47:0], ro. -/
def F.brlMeshCtrCount : Fld := ⟨.brlMeshCtr, 0, 48⟩
/-- QUE.ADMIN_CQ_ADDR.ADDR, bits [63:0], rwl. -/
def F.queAdminCqAddrAddr : Fld := ⟨.queAdminCqAddr, 0, 64⟩
/-- QUE.ADMIN_CFG.SQ_SIZE, bits [12:0], rwl. -/
def F.queAdminCfgSqSize : Fld := ⟨.queAdminCfg, 0, 13⟩
/-- QUE.ADMIN_CFG.CQ_SIZE, bits [32:16], rwl. -/
def F.queAdminCfgCqSize : Fld := ⟨.queAdminCfg, 16, 17⟩
/-- QUE.ADMIN_CFG.VECTOR, bits [43:33], rwl. -/
def F.queAdminCfgVector : Fld := ⟨.queAdminCfg, 33, 11⟩
/-- QUE.ADMIN_CFG.IRQ_EN, bits [44:44], rwl. -/
def F.queAdminCfgIrqEn : Fld := ⟨.queAdminCfg, 44, 1⟩
/-- QUE.ADMIN_CTL.ENABLE, bits [0:0], rwl. -/
def F.queAdminCtlEnable : Fld := ⟨.queAdminCtl, 0, 1⟩
/-- QUE.ADMIN_CTL.RESET, bits [1:1], wo. -/
def F.queAdminCtlReset : Fld := ⟨.queAdminCtl, 1, 1⟩
/-- QUE.ADMIN_CTL.READY, bits [2:2], ro. -/
def F.queAdminCtlReady : Fld := ⟨.queAdminCtl, 2, 1⟩
/-- QUE.ADMIN_CTL.CFG_BAD, bits [3:3], ro. -/
def F.queAdminCtlCfgBad : Fld := ⟨.queAdminCtl, 3, 1⟩
/-- QUE.ARB.W1, bits [7:0], rwl. -/
def F.queArbW1 : Fld := ⟨.queArb, 0, 8⟩
/-- QUE.ARB.W2, bits [15:8], rwl. -/
def F.queArbW2 : Fld := ⟨.queArb, 8, 8⟩
/-- QUE.ARB.W3, bits [23:16], rwl. -/
def F.queArbW3 : Fld := ⟨.queArb, 16, 8⟩
/-- QUE.Q_STATE.STATE, bits [2:0], ro. -/
def F.queQStateState : Fld := ⟨.queQState, 0, 3⟩
/-- QUE.Q_STATE.CLASS, bits [4:3], ro. -/
def F.queQStateClass : Fld := ⟨.queQState, 3, 2⟩
/-- QUE.Q_STATE.CQ_ID, bits [25:16], ro. -/
def F.queQStateCqId : Fld := ⟨.queQState, 16, 10⟩
/-- QUE.Q_STATE.HEAD, bits [43:32], ro. -/
def F.queQStateHead : Fld := ⟨.queQState, 32, 12⟩
/-- QUE.Q_STATE.TAIL, bits [59:48], ro. -/
def F.queQStateTail : Fld := ⟨.queQState, 48, 12⟩
/-- QUE.Q_STATE.OUTSTANDING, bits [16:0] of word 1, ro. -/
def F.queQStateOutstanding : Fld := ⟨.queQState1, 0, 17⟩
/-- QUE.Q_STATE.DB_ERRORS, bits [47:32] of word 1, ro. -/
def F.queQStateDbErrors : Fld := ⟨.queQState1, 32, 16⟩
/-- QUE.CQ_STATE.CQ_TAIL, bits [16:0], ro. -/
def F.queCqStateCqTail : Fld := ⟨.queCqState, 0, 17⟩
/-- QUE.CQ_STATE.CQ_HEAD, bits [48:32], ro. -/
def F.queCqStateCqHead : Fld := ⟨.queCqState, 32, 17⟩
/-- QUE.CQ_STATE.OWNED, bits [0:0] of word 1, ro. -/
def F.queCqStateOwned : Fld := ⟨.queCqState1, 0, 1⟩
/-- QUE.CQ_STATE.PHASE, bits [1:1] of word 1, ro. -/
def F.queCqStatePhase : Fld := ⟨.queCqState1, 1, 1⟩
/-- QUE.CQ_STATE.VECTOR, bits [12:2] of word 1, ro. -/
def F.queCqStateVector : Fld := ⟨.queCqState1, 2, 11⟩
/-- QUE.CQ_STATE.HELD, bits [48:32] of word 1, ro. -/
def F.queCqStateHeld : Fld := ⟨.queCqState1, 32, 17⟩
/-- QUE.CTR.COUNT, bits [47:0], ro. -/
def F.queCtrCount : Fld := ⟨.queCtr, 0, 48⟩
/-- QUE.CLASS0.OUTSTANDING, bits [6:0], ro. -/
def F.queClass0Outstanding : Fld := ⟨.queClass0, 0, 7⟩
/-- QUE.CLASS0.PEAK, bits [22:16], rc. -/
def F.queClass0Peak : Fld := ⟨.queClass0, 16, 7⟩
/-- FLS.HEALTH.LIFE, bits [7:0], ro. -/
def F.flsHealthLife : Fld := ⟨.flsHealth, 0, 8⟩
/-- FLS.HEALTH.EXHAUSTED, bits [8:8], ro. -/
def F.flsHealthExhausted : Fld := ⟨.flsHealth, 8, 1⟩
/-- FLS.HEALTH.DEGRADED, bits [9:9], ro. -/
def F.flsHealthDegraded : Fld := ⟨.flsHealth, 9, 1⟩
/-- FLS.HEALTH.RESERVE, bits [31:16], ro. -/
def F.flsHealthReserve : Fld := ⟨.flsHealth, 16, 16⟩
/-- FLS.HEALTH.RETIRED, bits [49:32], ro. -/
def F.flsHealthRetired : Fld := ⟨.flsHealth, 32, 18⟩
/-- FLS.CFG.RA_US, bits [13:0], rwl. -/
def F.flsCfgRaUs : Fld := ⟨.flsCfg, 0, 14⟩
/-- FLS.CFG.RA_RATE, bits [23:14], rwl. -/
def F.flsCfgRaRate : Fld := ⟨.flsCfg, 14, 10⟩
/-- FLS.CFG.RA_EN, bits [24:24], rwl. -/
def F.flsCfgRaEn : Fld := ⟨.flsCfg, 24, 1⟩
/-- FLS.CTR.COUNT, bits [47:0], ro. -/
def F.flsCtrCount : Fld := ⟨.flsCtr, 0, 48⟩
/-- FLS.RETRY_CTR.COUNT, bits [47:0], ro. -/
def F.flsRetryCtrCount : Fld := ⟨.flsRetryCtr, 0, 48⟩
/-- FLS.LAT_HIST.COUNT, bits [47:0], ro. -/
def F.flsLatHistCount : Fld := ⟨.flsLatHist, 0, 48⟩
/-- FLS.GROUP.MEAN_ERASE, bits [11:0], ro. -/
def F.flsGroupMeanErase : Fld := ⟨.flsGroup, 0, 12⟩
/-- FLS.GROUP.DEGRADED, bits [12:12], ro. -/
def F.flsGroupDegraded : Fld := ⟨.flsGroup, 12, 1⟩
/-- FLS.GROUP.FREE, bits [31:16], ro. -/
def F.flsGroupFree : Fld := ⟨.flsGroup, 16, 16⟩
/-- FLS.GROUP.RA_CREDIT, bits [47:32], ro. -/
def F.flsGroupRaCredit : Fld := ⟨.flsGroup, 32, 16⟩
/-- FLS.GROUP.RETIRED, bits [10:0] of word 1, ro. -/
def F.flsGroupRetired : Fld := ⟨.flsGroup1, 0, 11⟩
/-- FLS.GROUP.DATA, bits [26:16] of word 1, ro. -/
def F.flsGroupData : Fld := ⟨.flsGroup1, 16, 11⟩
/-- FLS.DIE.FAILED, bits [0:0], ro. -/
def F.flsDieFailed : Fld := ⟨.flsDie, 0, 1⟩
/-- FLS.DIE.GROWN_BAD, bits [12:2], ro. -/
def F.flsDieGrownBad : Fld := ⟨.flsDie, 2, 11⟩
/-- FLS.DIE.SPARES, bits [23:13], ro. -/
def F.flsDieSpares : Fld := ⟨.flsDie, 13, 11⟩
/-- FLS.DIE.MAX_ERASE, bits [35:24], ro. -/
def F.flsDieMaxErase : Fld := ⟨.flsDie, 24, 12⟩
/-- FLS.CHAN.FAILED, bits [0:0], ro. -/
def F.flsChanFailed : Fld := ⟨.flsChan, 0, 1⟩
/-- FLS.CHAN.IF_ERRORS, bits [47:16], ro. -/
def F.flsChanIfErrors : Fld := ⟨.flsChan, 16, 32⟩
/-- FLS.RAW_ADDR.CHANNEL, bits [7:0], rwl. -/
def F.flsRawAddrChannel : Fld := ⟨.flsRawAddr, 0, 8⟩
/-- FLS.RAW_ADDR.POSITION, bits [10:8], rwl. -/
def F.flsRawAddrPosition : Fld := ⟨.flsRawAddr, 8, 3⟩
/-- FLS.RAW_ADDR.BLOCK, bits [21:11], rwl. -/
def F.flsRawAddrBlock : Fld := ⟨.flsRawAddr, 11, 11⟩
/-- FLS.RAW_ADDR.PAGE, bits [33:22], rwl. -/
def F.flsRawAddrPage : Fld := ⟨.flsRawAddr, 22, 12⟩
/-- FLS.RAW_ADDR.PLANE, bits [35:34], rwl. -/
def F.flsRawAddrPlane : Fld := ⟨.flsRawAddr, 34, 2⟩
/-- FLS.RAW_ADDR.SUB, bits [37:36], rwl. -/
def F.flsRawAddrSub : Fld := ⟨.flsRawAddr, 36, 2⟩
/-- FLS.RAW_ADDR.RETRY, bits [43:40], rwl. -/
def F.flsRawAddrRetry : Fld := ⟨.flsRawAddr, 40, 4⟩
/-- FLS.RAW_CTL.START, bits [0:0], wo. -/
def F.flsRawCtlStart : Fld := ⟨.flsRawCtl, 0, 1⟩
/-- FLS.RAW_CTL.BUSY, bits [1:1], ro. -/
def F.flsRawCtlBusy : Fld := ⟨.flsRawCtl, 1, 1⟩
/-- FLS.RAW_CTL.STATUS, bits [31:16], ro. -/
def F.flsRawCtlStatus : Fld := ⟨.flsRawCtl, 16, 16⟩
/-- FLS.RAW_DATA.DATA, bits [63:0], ro. -/
def F.flsRawDataData : Fld := ⟨.flsRawData, 0, 64⟩
/-- CFS.DEV_STATE.PRESENT, bits [0:0], ro. -/
def F.cfsDevStatePresent : Fld := ⟨.cfsDevState, 0, 1⟩
/-- CFS.DEV_STATE.FAILED, bits [1:1], ro. -/
def F.cfsDevStateFailed : Fld := ⟨.cfsDevState, 1, 1⟩
/-- CFS.DEV_STATE.SPARES, bits [31:16], ro. -/
def F.cfsDevStateSpares : Fld := ⟨.cfsDevState, 16, 16⟩
/-- CFS.DEV_STATE.START, bits [51:32], ro. -/
def F.cfsDevStateStart : Fld := ⟨.cfsDevState, 32, 20⟩
/-- CFS.DEV_STATE.GAP, bits [19:0] of word 1, ro. -/
def F.cfsDevStateGap : Fld := ⟨.cfsDevState1, 0, 20⟩
/-- CFS.DEV_STATE.RETIRED, bits [47:32] of word 1, ro. -/
def F.cfsDevStateRetired : Fld := ⟨.cfsDevState1, 32, 16⟩
/-- CFS.CTR.COUNT, bits [47:0], ro. -/
def F.cfsCtrCount : Fld := ⟨.cfsCtr, 0, 48⟩
/-- GLB.ECC_CTR.CE, bits [31:0], ro. -/
def F.glbEccCtrCe : Fld := ⟨.glbEccCtr, 0, 32⟩
/-- GLB.ECC_CTR.UE, bits [63:32], ro. -/
def F.glbEccCtrUe : Fld := ⟨.glbEccCtr, 32, 32⟩
/-- GLB.ECC_CTR.ADDR_CLASS, bits [31:0] of word 1, ro. -/
def F.glbEccCtrAddrClass : Fld := ⟨.glbEccCtr1, 0, 32⟩
/-- GLB.ECC_CTR.SCRUB_FIXED, bits [63:32] of word 1, ro. -/
def F.glbEccCtrScrubFixed : Fld := ⟨.glbEccCtr1, 32, 32⟩
/-- MEM.ECC_CFG.SCRUB_US, bits [15:0], rwl. -/
def F.memEccCfgScrubUs : Fld := ⟨.memEccCfg, 0, 16⟩
/-- MEM.ECC_CFG.SCRUB_EN, bits [16:16], rwl. -/
def F.memEccCfgScrubEn : Fld := ⟨.memEccCfg, 16, 1⟩
/-- MEM.ECC_CFG.ROW_THRESH, bits [24:17], rwl. -/
def F.memEccCfgRowThresh : Fld := ⟨.memEccCfg, 17, 8⟩
/-- MEM.ECC_CFG.CLEAR_LOG, bits [25:25], wo. -/
def F.memEccCfgClearLog : Fld := ⟨.memEccCfg, 25, 1⟩
/-- MEM.SCRUB_STAT.CHUNK, bits [28:0], ro. -/
def F.memScrubStatChunk : Fld := ⟨.memScrubStat, 0, 29⟩
/-- MEM.SCRUB_STAT.PASSES, bits [47:32], ro. -/
def F.memScrubStatPasses : Fld := ⟨.memScrubStat, 32, 16⟩
/-- MEM.SCRUB_STAT.REMAPS, bits [57:48], ro. -/
def F.memScrubStatRemaps : Fld := ⟨.memScrubStat, 48, 10⟩
/-- MEM.CE_LOG.ADDRESS, bits [39:0], ro. -/
def F.memCeLogAddress : Fld := ⟨.memCeLog, 0, 40⟩
/-- MEM.CE_LOG.SYMBOL, bits [45:40], ro. -/
def F.memCeLogSymbol : Fld := ⟨.memCeLog, 40, 6⟩
/-- MEM.CE_LOG.COUNT, bits [63:48], ro. -/
def F.memCeLogCount : Fld := ⟨.memCeLog, 48, 16⟩
/-- MEM.CE_LOG.LAST_CYC, bits [63:0] of word 1, ro. -/
def F.memCeLogLastCyc : Fld := ⟨.memCeLog1, 0, 64⟩
/-- STN.ECC_CFG.ROW_THRESH, bits [7:0], rwl. -/
def F.stnEccCfgRowThresh : Fld := ⟨.stnEccCfg, 0, 8⟩
/-- STN.ECC_CFG.CLEAR_LOG, bits [8:8], wo. -/
def F.stnEccCfgClearLog : Fld := ⟨.stnEccCfg, 8, 1⟩
/-- STN.CE_LOG.WORD, bits [23:0], ro. -/
def F.stnCeLogWord : Fld := ⟨.stnCeLog, 0, 24⟩
/-- STN.CE_LOG.MACRO, bits [29:24], ro. -/
def F.stnCeLogMacro : Fld := ⟨.stnCeLog, 24, 6⟩
/-- STN.CE_LOG.BIT, bits [38:32], ro. -/
def F.stnCeLogBit : Fld := ⟨.stnCeLog, 32, 7⟩
/-- STN.CE_LOG.COUNT, bits [63:48], ro. -/
def F.stnCeLogCount : Fld := ⟨.stnCeLog, 48, 16⟩
/-- STN.CE_LOG.LAST_CYC, bits [63:0] of word 1, ro. -/
def F.stnCeLogLastCyc : Fld := ⟨.stnCeLog1, 0, 64⟩
/-- PWR.BOOT.PHASE, bits [3:0], ro. -/
def F.pwrBootPhase : Fld := ⟨.pwrBoot, 0, 4⟩
/-- PWR.BOOT.FW_FALLBACK, bits [4:4], ro. -/
def F.pwrBootFwFallback : Fld := ⟨.pwrBoot, 4, 1⟩
/-- PWR.BOOT.FLUSH_REPLAYED, bits [5:5], ro. -/
def F.pwrBootFlushReplayed : Fld := ⟨.pwrBoot, 5, 1⟩
/-- PWR.BOOT.SANITISE_RESUMED, bits [6:6], ro. -/
def F.pwrBootSanitiseResumed : Fld := ⟨.pwrBoot, 6, 1⟩
/-- PWR.BOOT.END_CAUSE, bits [18:16], ro. -/
def F.pwrBootEndCause : Fld := ⟨.pwrBoot, 16, 3⟩
/-- PWR.BOOT.END_DIE, bits [20:19], ro. -/
def F.pwrBootEndDie : Fld := ⟨.pwrBoot, 19, 2⟩
/-- PWR.BOOT.SERVICE_MS, bits [63:32], ro. -/
def F.pwrBootServiceMs : Fld := ⟨.pwrBoot, 32, 32⟩
/-- PWR.HOLDUP.USABLE_MJ, bits [15:0], ro. -/
def F.pwrHoldupUsableMj : Fld := ⟨.pwrHoldup, 0, 16⟩
/-- PWR.HOLDUP.STRINGS_OK, bits [21:16], ro. -/
def F.pwrHoldupStringsOk : Fld := ⟨.pwrHoldup, 16, 6⟩
/-- PWR.HOLDUP.DIRTY_LIMIT_4K, bits [52:32], ro. -/
def F.pwrHoldupDirtyLimit4k : Fld := ⟨.pwrHoldup, 32, 21⟩
/-- PWR.STRING.USABLE_MJ, bits [15:0], ro. -/
def F.pwrStringUsableMj : Fld := ⟨.pwrString, 0, 16⟩
/-- PWR.STRING.FAILED, bits [16:16], ro. -/
def F.pwrStringFailed : Fld := ⟨.pwrString, 16, 1⟩
/-- PWR.STRING.TESTS, bits [63:32], ro. -/
def F.pwrStringTests : Fld := ⟨.pwrString, 32, 32⟩
/-- PWR.CTR.COUNT, bits [47:0], ro. -/
def F.pwrCtrCount : Fld := ⟨.pwrCtr, 0, 48⟩
/-- GLB.MAINT.OP, bits [7:0], ro. -/
def F.glbMaintOp : Fld := ⟨.glbMaint, 0, 8⟩
/-- GLB.MAINT.PHASE, bits [15:8], ro. -/
def F.glbMaintPhase : Fld := ⟨.glbMaint, 8, 8⟩
/-- GLB.MAINT.LAST_STATUS, bits [31:16], ro. -/
def F.glbMaintLastStatus : Fld := ⟨.glbMaint, 16, 16⟩
/-- GLB.MAINT.LAST_OP, bits [39:32], ro. -/
def F.glbMaintLastOp : Fld := ⟨.glbMaint, 32, 8⟩
/-- GLB.MAINT.DONE, bits [31:0] of word 1, ro. -/
def F.glbMaintDone : Fld := ⟨.glbMaint1, 0, 32⟩
/-- GLB.MAINT.TOTAL, bits [63:32] of word 1, ro. -/
def F.glbMaintTotal : Fld := ⟨.glbMaint1, 32, 32⟩
/-- GLB.FW.RUNNING, bits [0:0], ro. -/
def F.glbFwRunning : Fld := ⟨.glbFw, 0, 1⟩
/-- GLB.FW.BOOT, bits [1:1], ro. -/
def F.glbFwBoot : Fld := ⟨.glbFw, 1, 1⟩
/-- GLB.FW.A_VALID, bits [2:2], ro. -/
def F.glbFwAValid : Fld := ⟨.glbFw, 2, 1⟩
/-- GLB.FW.B_VALID, bits [3:3], ro. -/
def F.glbFwBValid : Fld := ⟨.glbFw, 3, 1⟩
/-- GLB.FW.PAIRS_OK, bits [7:4], ro. -/
def F.glbFwPairsOk : Fld := ⟨.glbFw, 4, 4⟩
/-- GLB.FW.HANDOVERS, bits [63:32], ro. -/
def F.glbFwHandovers : Fld := ⟨.glbFw, 32, 32⟩
/-- GLB.ID.PART, bits [15:0], ro. -/
def F.glbIdPart : Fld := ⟨.glbId, 0, 16⟩
/-- GLB.ID.STEPPING, bits [23:16], ro. -/
def F.glbIdStepping : Fld := ⟨.glbId, 16, 8⟩
/-- GLB.ID.VIEW_VERSION, bits [47:32], ro. -/
def F.glbIdViewVersion : Fld := ⟨.glbId, 32, 16⟩
/-- GLB.PRIV_LOCK.LOCK, bits [0:0], rw. -/
def F.glbPrivLockLock : Fld := ⟨.glbPrivLock, 0, 1⟩
/-- GLB.LOCK_STAT.REFUSED, bits [15:0], ro. -/
def F.glbLockStatRefused : Fld := ⟨.glbLockStat, 0, 16⟩
/-- GLB.LOCK_STAT.USER_WRITES, bits [31:16], ro. -/
def F.glbLockStatUserWrites : Fld := ⟨.glbLockStat, 16, 16⟩
/-- GLB.LOCK_STAT.BAD_SIZE, bits [39:32], ro. -/
def F.glbLockStatBadSize : Fld := ⟨.glbLockStat, 32, 8⟩
/-- GLB.LOCK_STAT.LAST_OFFSET, bits [63:40], ro. -/
def F.glbLockStatLastOffset : Fld := ⟨.glbLockStat, 40, 24⟩
/-- GLB.UNLOCK_CHAL.CHAL, bits [63:0], ro. -/
def F.glbUnlockChalChal : Fld := ⟨.glbUnlockChal, 0, 64⟩
/-- GLB.UNLOCK_SIG.SIG, bits [63:0], rw. -/
def F.glbUnlockSigSig : Fld := ⟨.glbUnlockSig, 0, 64⟩
/-- GLB.UNLOCK_CTL.NEW_CHAL, bits [0:0], wo. -/
def F.glbUnlockCtlNewChal : Fld := ⟨.glbUnlockCtl, 0, 1⟩
/-- GLB.UNLOCK_CTL.VERIFY, bits [1:1], wo. -/
def F.glbUnlockCtlVerify : Fld := ⟨.glbUnlockCtl, 1, 1⟩
/-- GLB.UNLOCK_CTL.BUSY, bits [2:2], ro. -/
def F.glbUnlockCtlBusy : Fld := ⟨.glbUnlockCtl, 2, 1⟩
/-- GLB.UNLOCK_CTL.CHAL_VALID, bits [3:3], ro. -/
def F.glbUnlockCtlChalValid : Fld := ⟨.glbUnlockCtl, 3, 1⟩
/-- GLB.UNLOCK_CTL.SIGNER, bits [10:8], rw. -/
def F.glbUnlockCtlSigner : Fld := ⟨.glbUnlockCtl, 8, 3⟩
/-- GLB.UNLOCK_CTL.RESULT, bits [18:16], ro. -/
def F.glbUnlockCtlResult : Fld := ⟨.glbUnlockCtl, 16, 3⟩
/-- GLB.UNLOCK_CTL.FAILS, bits [27:24], ro. -/
def F.glbUnlockCtlFails : Fld := ⟨.glbUnlockCtl, 24, 4⟩
/-- GLB.EVENT_CFG.VECTOR, bits [10:0], rwl. -/
def F.glbEventCfgVector : Fld := ⟨.glbEventCfg, 0, 11⟩
/-- GLB.EVENT_CFG.ENABLE, bits [11:11], rwl. -/
def F.glbEventCfgEnable : Fld := ⟨.glbEventCfg, 11, 1⟩
/-- GLB.EVENT_CFG.MASK, bits [47:32], rwl. -/
def F.glbEventCfgMask : Fld := ⟨.glbEventCfg, 32, 16⟩
/-- GLB.EVENT_STATUS.SLOW_ALERT, bits [0:0], w1c. -/
def F.glbEventStatusSlowAlert : Fld := ⟨.glbEventStatus, 0, 1⟩
/-- GLB.EVENT_STATUS.LOG_ERROR, bits [1:1], w1c. -/
def F.glbEventStatusLogError : Fld := ⟨.glbEventStatus, 1, 1⟩
/-- GLB.EVENT_STATUS.EXPRESS_CLEARED, bits [2:2], w1c. -/
def F.glbEventStatusExpressCleared : Fld := ⟨.glbEventStatus, 2, 1⟩
/-- GLB.EVENT_STATUS.STATION_FENCED, bits [3:3], w1c. -/
def F.glbEventStatusStationFenced : Fld := ⟨.glbEventStatus, 3, 1⟩
/-- GLB.EVENT_STATUS.STACK_FENCED, bits [4:4], w1c. -/
def F.glbEventStatusStackFenced : Fld := ⟨.glbEventStatus, 4, 1⟩
/-- GLB.EVENT_STATUS.MEDIA, bits [5:5], w1c. -/
def F.glbEventStatusMedia : Fld := ⟨.glbEventStatus, 5, 1⟩
/-- GLB.EVENT_STATUS.STRING_FAILED, bits [6:6], w1c. -/
def F.glbEventStatusStringFailed : Fld := ⟨.glbEventStatus, 6, 1⟩
/-- GLB.EVENT_STATUS.SERVICE_ENDED, bits [7:7], w1c. -/
def F.glbEventStatusServiceEnded : Fld := ⟨.glbEventStatus, 7, 1⟩
/-- GLB.EVENT_STATUS.MAINT_ENDED, bits [8:8], w1c. -/
def F.glbEventStatusMaintEnded : Fld := ⟨.glbEventStatus, 8, 1⟩
/-- GLB.EVENT_STATUS.UNLOCK_FAILED, bits [9:9], w1c. -/
def F.glbEventStatusUnlockFailed : Fld := ⟨.glbEventStatus, 9, 1⟩
/-- GLB.EVENT_STATUS.LINE_FAILED, bits [10:10], w1c. -/
def F.glbEventStatusLineFailed : Fld := ⟨.glbEventStatus, 10, 1⟩
/-- SEC.IDENTITY.KEY, bits [63:0], ro. -/
def F.secIdentityKey : Fld := ⟨.secIdentity, 0, 64⟩
/-- SEC.SIGNER_KEY.KEY, bits [63:0], ro. -/
def F.secSignerKeyKey : Fld := ⟨.secSignerKey, 0, 64⟩
/-- SEC.KEY_STAGE.KEY, bits [63:0], rwl. -/
def F.secKeyStageKey : Fld := ⟨.secKeyStage, 0, 64⟩
/-- SEC.KEY_CTL.CMD, bits [1:0], rwl. -/
def F.secKeyCtlCmd : Fld := ⟨.secKeyCtl, 0, 2⟩
/-- SEC.KEY_CTL.BUSY, bits [2:2], ro. -/
def F.secKeyCtlBusy : Fld := ⟨.secKeyCtl, 2, 1⟩
/-- SEC.KEY_CTL.SIGNER, bits [10:8], rwl. -/
def F.secKeyCtlSigner : Fld := ⟨.secKeyCtl, 8, 3⟩
/-- SEC.KEY_CTL.STATUS, bits [31:16], ro. -/
def F.secKeyCtlStatus : Fld := ⟨.secKeyCtl, 16, 16⟩
/-- SEC.SVN.SVN, bits [5:0], ro. -/
def F.secSvnSvn : Fld := ⟨.secSvn, 0, 6⟩
/-- SEC.MEAS.VALUE, bits [63:0], ro. -/
def F.secMeasValue : Fld := ⟨.secMeas, 0, 64⟩
/-- PWR.TEMP.NOW, bits [15:0], ro. -/
def F.pwrTempNow : Fld := ⟨.pwrTemp, 0, 16⟩
/-- PWR.TEMP.PEAK, bits [31:16], ro. -/
def F.pwrTempPeak : Fld := ⟨.pwrTemp, 16, 16⟩
/-- PWR.COOLANT.INLET, bits [15:0], ro. -/
def F.pwrCoolantInlet : Fld := ⟨.pwrCoolant, 0, 16⟩
/-- PWR.COOLANT.OUTLET, bits [31:16], ro. -/
def F.pwrCoolantOutlet : Fld := ⟨.pwrCoolant, 16, 16⟩
/-- PWR.INPUT.INPUT_MV, bits [15:0], ro. -/
def F.pwrInputInputMv : Fld := ⟨.pwrInput, 0, 16⟩
/-- PWR.INPUT.INPUT_DW, bits [31:16], ro. -/
def F.pwrInputInputDw : Fld := ⟨.pwrInput, 16, 16⟩
/-- PWR.INPUT.PEAK_DW, bits [47:32], ro. -/
def F.pwrInputPeakDw : Fld := ⟨.pwrInput, 32, 16⟩
/-- TMX.STN_SEL.SEL0, bits [5:0], rwl. -/
def F.tmxStnSelSel0 : Fld := ⟨.tmxStnSel, 0, 6⟩
/-- TMX.STN_SEL.SEL1, bits [13:8], rwl. -/
def F.tmxStnSelSel1 : Fld := ⟨.tmxStnSel, 8, 6⟩
/-- TMX.STN_SEL.SEL2, bits [21:16], rwl. -/
def F.tmxStnSelSel2 : Fld := ⟨.tmxStnSel, 16, 6⟩
/-- TMX.STN_SEL.SEL3, bits [29:24], rwl. -/
def F.tmxStnSelSel3 : Fld := ⟨.tmxStnSel, 24, 6⟩
/-- TMX.PIN.SRC, bits [7:0], rwl. -/
def F.tmxPinSrc : Fld := ⟨.tmxPin, 0, 8⟩
/-- TMX.PIN.EN, bits [8:8], rwl. -/
def F.tmxPinEn : Fld := ⟨.tmxPin, 8, 1⟩
/-- TMX.PIN.INVERT, bits [9:9], rwl. -/
def F.tmxPinInvert : Fld := ⟨.tmxPin, 9, 1⟩
/-- TMX.PIN.STRETCH, bits [10:10], rwl. -/
def F.tmxPinStretch : Fld := ⟨.tmxPin, 10, 1⟩
/-- TMX.OBS.ISLAND, bits [7:0], rwl. -/
def F.tmxObsIsland : Fld := ⟨.tmxObs, 0, 8⟩
/-- TMX.OBS.DIV, bits [9:8], rwl. -/
def F.tmxObsDiv : Fld := ⟨.tmxObs, 8, 2⟩
/-- TMX.OBS.EN, bits [10:10], rwl. -/
def F.tmxObsEn : Fld := ⟨.tmxObs, 10, 1⟩
/-- TMX.SAMPLE.PINS, bits [31:0], ro. -/
def F.tmxSamplePins : Fld := ⟨.tmxSample, 0, 32⟩
/-- TMX.SAMPLE.UNDERRUN, bits [63:63], ro. -/
def F.tmxSampleUnderrun : Fld := ⟨.tmxSample, 63, 1⟩
/-- BRL.CABLE.PRESENT, bits [0:0], ro. -/
def F.brlCablePresent : Fld := ⟨.brlCable, 0, 1⟩
/-- BRL.CABLE.TYPE, bits [2:1], ro. -/
def F.brlCableType : Fld := ⟨.brlCable, 1, 2⟩
/-- BRL.CABLE.ID_BAD, bits [3:3], ro. -/
def F.brlCableIdBad : Fld := ⟨.brlCable, 3, 1⟩
/-- BRL.CABLE.PWR_FAULT, bits [4:4], ro. -/
def F.brlCablePwrFault : Fld := ⟨.brlCable, 4, 1⟩
/-- BRL.CABLE.LENGTH_DM, bits [15:8], ro. -/
def F.brlCableLengthDm : Fld := ⟨.brlCable, 8, 8⟩
/-- BRL.CABLE.LOSS, bits [31:16], ro. -/
def F.brlCableLoss : Fld := ⟨.brlCable, 16, 16⟩

end Sys2Proof.Machine
end

