-- ==== Sys2Proof/Machine/Ops.lean ====
section
/-! DEFINITION. The named operations over registers, tables, memories and the host's posted writes. Every meaning reads and
writes the state through them. -/

namespace Sys2Proof.Machine

/-! ## Islands (R200, R202) -/

/-- The class of an island: 0 station, 1 depot cache, 2 signal box, 3 stack, 4 flash group, 5 branch line, 6 CXL port. -/
def islandClass (i : Nat) : Nat :=
  if i = 140 then 6
  else
    let k := i % 35
    if k < 16 then 0 else if k = 16 then 1 else if k = 17 then 2 else if k < 26 then 3 else if k < 29 then 4 else 5

/-- The nominal frequency of an island class in kHz. -/
def classKhz (c : Nat) : Nat :=
  if c = 3 ∨ c = 6 then 1000000 else if c = 4 then 600000 else if c = 5 then 390625 else 700000

/-- The islands of a station, a die's depot cache, a die's signal box, a stack, a flash channel group and a line. -/
def islandOfStation (s : Nat) : Nat := 35 * (s / 16) + s % 16
def islandOfCache (d : Nat) : Nat := 35 * d + 16
def islandOfBox (d : Nat) : Nat := 35 * d + 17
def islandOfStack (n : Nat) : Nat := 35 * (n / 8) + 18 + n % 8
def islandOfFlash (f : Nat) : Nat := 35 * (f / 3) + 26 + f % 3
def islandOfLine (b : Nat) : Nat := 35 * (b / 6) + 29 + b % 6

/-! ## The register file -/

/-- The flash group's FREE count as shipped: 1,368 less the flush section and, in two groups, a journal section (log entry
3). -/
def shippedFree (g : Nat) : Nat := if g = 0 ∨ g = 24 then 1366 else 1367

/-- The reset word of a register: the Reset columns of the register tables; fields the manual sets "at power-up" or from the
fuse map as log entries 2 and 3 say. -/
def resetWord : Reg → Nat → Word64
  | .glbIslandInfo, i => BitVec.ofNat 64 (islandClass i + classKhz (islandClass i) * 2 ^ 8)
  | .ttbStnPlace, _ => BitVec.ofNat 64 (2 ^ 64 - 1)
  | .ttbStnFree, _ => BitVec.ofNat 64 (512 + 256 * 2 ^ 10)
  | .ttbSigners, _ => BitVec.ofNat 64 1
  | .memStackState, _ => BitVec.ofNat 64 (1 + 1523712 * 2 ^ 8)
  | .stnState, _ => BitVec.ofNat 64 (1 + 511 * 2 ^ 5)
  | .jobSched, _ => BitVec.ofNat 64 50
  | .brlLineCtl, _ => BitVec.ofNat 64 0x100001
  | .brlFabric, _ => BitVec.ofNat 64 (255 * 2 ^ 32)
  | .brlSerial, _ => BitVec.ofNat 64 Config.serial
  | .brlMeshCfg, _ => BitVec.ofNat 64 0x640400
  | .queArb, _ => BitVec.ofNat 64 0x10410
  | .flsHealth, _ => BitVec.ofNat 64 (24242 * 2 ^ 16)
  | .flsCfg, _ => BitVec.ofNat 64 (180 + 20 * 2 ^ 14 + 2 ^ 24)
  | .flsGroup, g => BitVec.ofNat 64 (shippedFree g * 2 ^ 16 + 64000 * 2 ^ 32)
  | .cfsDevState, _ => BitVec.ofNat 64 (1 + 32751 * 2 ^ 16)
  | .cfsDevState1, _ => BitVec.ofNat 64 1015808
  | .memEccCfg, _ => BitVec.ofNat 64 (200 + 2 ^ 16 + 8 * 2 ^ 17)
  | .stnEccCfg, _ => BitVec.ofNat 64 8
  | .glbFw, _ => BitVec.ofNat 64 (15 * 2 ^ 4)
  | .glbId, _ => BitVec.ofNat 64 (0x6420 + Config.stepping % 256 * 2 ^ 16 + 0x0100 * 2 ^ 32)
  | .secIdentity, w => BitVec.ofNat 64 (byteField (padTo 64 (Config.identityKey.take 57)) (8 * w) 8)
  | .secSignerKey, i =>
    if i < 8 then BitVec.ofNat 64 (byteField (padTo 64 (Config.norlerKey.take 57)) (8 * i) 8) else 0
  | .secSvn, _ => BitVec.ofNat 64 (Config.fusedSvn % 64)
  | _, _ => 0

/-- Read a register word. -/
def State.rget (s : State) (r : Reg) (i : Nat) : Word64 := Tbl.look (resetWord r i) (Tbl.look [] s.regs r.code) i

/-- Write a register word. -/
def State.rset (s : State) (r : Reg) (i : Nat) (w : Word64) : State :=
  { s with regs := Tbl.put [] s.regs r.code (Tbl.put (resetWord r i) (Tbl.look [] s.regs r.code) i w) }

/-- Read a field. -/
def State.fget (s : State) (f : Fld) (i : Nat) : Nat := bitsOf (s.rget f.reg i).toNat f.lsb f.width

/-- Write a field; the value is taken modulo its width, so a counter wraps. -/
def State.fset (s : State) (f : Fld) (i v : Nat) : State :=
  s.rset f.reg i (BitVec.ofNat 64 (withBits (s.rget f.reg i).toNat f.lsb f.width v))

/-- A one-bit field as a Bool. -/
def State.fbit (s : State) (f : Fld) (i : Nat) : Bool := s.fget f i = 1

/-- Add to a field that wraps. -/
def State.bump (s : State) (f : Fld) (i n : Nat) : State := s.fset f i (s.fget f i + n)

/-- Take from a field, not below 0. -/
def State.dip (s : State) (f : Fld) (i n : Nat) : State := s.fset f i (s.fget f i - n)

/-- Add to a field that saturates at its width. -/
def State.bumpSat (s : State) (f : Fld) (i n : Nat) : State := s.fset f i (min (2 ^ f.width - 1) (s.fget f i + n))

/-- Write several words of one register from a byte string, 8 bytes a word. -/
def State.rsetBytes (s : State) (r : Reg) (base : Nat) (bs : List Byte) : State :=
  (List.range (ceilDiv bs.length 8)).foldl (fun s w => s.rset r (base + w) (BitVec.ofNat 64 (byteField bs (8 * w) 8))) s

/-- Read `n` words of one register as bytes. -/
def State.rgetBytes (s : State) (r : Reg) (base n : Nat) : List Byte :=
  (List.range n).flatMap (fun w => leBytes 8 (s.rget r (base + w)).toNat)

/-- The cycle counter of an island (R203). -/
def State.cyc (s : State) (i : Nat) : Nat := s.fget F.glbIslandCtrCount i

/-- The index of a lane-row counter's register word. -/
def lrIdx (st n i : Nat) : Nat := (st * 33 + n) * 16 + i

/-! ## Free values (log entry 2) -/

/-- Set the counter of free values drawn. -/
def State.setFreeCtr (s : State) (n : Nat) : State := { s with freeCtr := n }

/-- A free bit, and the state with the draw counted. -/
def State.drawBool (s : State) : Bool × State := (Config.freeBool s.freeCtr, s.setFreeCtr (s.freeCtr + 1))

/-- A free number. -/
def State.drawNat (s : State) : Nat × State := (Config.freeNat s.freeCtr, s.setFreeCtr (s.freeCtr + 1))

/-- Free bytes. -/
def State.drawBytes (s : State) : Nat → List Byte × State
  | 0 => ([], s)
  | n + 1 =>
    let r := State.drawBytes (s.setFreeCtr (s.freeCtr + 1)) n
    (Config.freeByte s.freeCtr :: r.1, r.2)

/-! ## Memories of bytes -/

/-- The byte at an address. -/
def Memory.get (m : Memory) (a : Nat) : Byte := Tbl.look 0 m a

/-- Write a byte. -/
def Memory.set (m : Memory) (a : Nat) (b : Byte) : Memory := Tbl.put 0 m a b

/-- `n` bytes from an address. -/
def Memory.read (m : Memory) (a n : Nat) : List Byte := (List.range n).map (fun i => Memory.get m (a + i))

/-- Write bytes at an address. -/
def Memory.write (m : Memory) (a : Nat) : List Byte → Memory
  | [] => m
  | b :: bs => Memory.write (Memory.set m a b) (a + 1) bs

/-- The canonical form of a memory: addresses strictly rising, no byte listed that reads as an unlisted one. -/
def Memory.wf (m : Memory) : Bool := Tbl.wf 0 m

/-! ## Tables of the state -/

def State.job (s : State) (j : Nat) : JobHold := Tbl.look {} s.jobs j
def State.setJob (s : State) (j : Nat) (x : JobHold) : State := { s with jobs := Tbl.put {} s.jobs j x }
def State.stn (s : State) (n : Nat) : Station := Tbl.look {} s.stations n
def State.setStn (s : State) (n : Nat) (x : Station) : State := { s with stations := Tbl.put {} s.stations n x }
def State.lane (s : State) (st n : Nat) : Lane := Tbl.look {} (s.stn st).lanes n
def State.setLane (s : State) (st n : Nat) (x : Lane) : State :=
  s.setStn st { s.stn st with lanes := Tbl.put {} (s.stn st).lanes n x }
def State.cmd (s : State) (p : Nat) : Cmd := Tbl.look {} s.host.cmds p
def State.setHost (s : State) (h : HostSide) : State := { s with host := h }
def State.setCmd (s : State) (p : Nat) (c : Cmd) : State := s.setHost { s.host with cmds := Tbl.put {} s.host.cmds p c }
def State.qcfg (s : State) (q : Nat) : QueueCfg := Tbl.look {} s.host.queues q
def State.setQcfg (s : State) (q : Nat) (c : QueueCfg) : State :=
  s.setHost { s.host with queues := Tbl.put {} s.host.queues q c }
def State.setDepot (s : State) (d : Depot) : State := { s with depot := d }
def State.setJobs (s : State) (js : Tbl JobHold) : State := { s with jobs := js }
def State.setFlash (s : State) (f : Flash) : State := { s with flash := f }
def State.setCfs (s : State) (c : Cfs) : State := { s with cfs := c }
def State.setEcc (s : State) (e : Ecc) : State := { s with ecc := e }
def State.setPower (s : State) (x : Power) : State := { s with power := x }
def State.setTt (s : State) (x : Timetables) : State := { s with tt := x }
def State.setSearch (s : State) (x : Search) : State := { s with search := x }
def State.setScans (s : State) (x : Scans) : State := { s with scan := x }
def State.setSecurity (s : State) (x : Security) : State := { s with security := x }
def State.page (s : State) (p : Nat) : Page := Tbl.look {} s.depot.pages p
def State.setPage (s : State) (p : Nat) (x : Page) : State := s.setDepot { s.depot with pages := Tbl.put {} s.depot.pages p x }
def State.slot (s : State) (k : Nat) : SlotHold := Tbl.look {} s.tt.slots k
def State.setSlot (s : State) (k : Nat) (x : SlotHold) : State :=
  s.setTt { s.tt with slots := Tbl.put {} s.tt.slots k x }
def State.line (s : State) (b : Nat) : Line := Tbl.look {} s.mesh.lines b
def State.setMesh (s : State) (m : Mesh) : State := { s with mesh := m }
def State.setLine (s : State) (b : Nat) (x : Line) : State := s.setMesh { s.mesh with lines := Tbl.put {} s.mesh.lines b x }
def State.mstep (s : State) (n : Nat) : Step := Tbl.look {} s.mesh.steps n
def State.setMstep (s : State) (n : Nat) (x : Step) : State :=
  s.setMesh { s.mesh with steps := Tbl.put {} s.mesh.steps n x }
def State.walker (s : State) (st c : Nat) : Walker := Tbl.look {} (s.stn st).walkers c
def State.setWalker (s : State) (st c : Nat) (x : Walker) : State :=
  s.setStn st { s.stn st with walkers := Tbl.put {} (s.stn st).walkers c x }

/-- The phase of power-up and of the life after it; the module pulls FAULT# low while it is 6 or 7 (R636). -/
def State.setPhase (s : State) (ph : Nat) : State :=
  let s1 := s.fset F.pwrBootPhase 0 ph
  s1.setPower { s1.power with faultLow := ph = 6 || ph = 7 }

/-! ## Messages to the host -/

/-- Append a message to the host. -/
def State.send (s : State) (m : HostMsg) : State := s.setHost { s.host with outbox := s.host.outbox ++ [m] }

/-- The posted writes of a byte string: at most 256 B each, none crossing a 4 KiB boundary (R444). The fuel is the number
of bytes. -/
def postedWrites (ep : Bool) : Nat → Nat → List Byte → List HostMsg
  | 0, _, _ => []
  | _ + 1, _, [] => []
  | fuel + 1, a, bs =>
    let n := min 256 (4096 - a % 4096)
    .data a (bs.take n) ep :: postedWrites ep fuel (a + n) (bs.drop n)

/-- Send a byte string to host memory. -/
def State.sendData (s : State) (a : Nat) (bs : List Byte) (ep : Bool) : State :=
  s.setHost { s.host with outbox := s.host.outbox ++ postedWrites ep bs.length a bs }

end Sys2Proof.Machine
end

