-- ==== Sys2Proof/Machine/Operands.lean ====
section
/-! DEFINITION. The operand forms: the fields of a submission-queue entry (R428 and each opcode's table), of a pass
descriptor (R82), a copy descriptor (R251) and the other byte structures a command reads. -/

namespace Sys2Proof.Machine

/-! ## Submission entries (R428) -/

/-- OPCODE. -/
def sqOpcode (e : List Byte) : Nat := byteField e 0 1
/-- FLAGS. -/
def sqFlags (e : List Byte) : Nat := byteField e 1 1
/-- CID. -/
def sqCid (e : List Byte) : Nat := byteField e 2 2
/-- TIMEOUT_US. -/
def sqTimeout (e : List Byte) : Nat := byteField e 4 4

/-- The bytes `off` to `off + len - 1` are all zero. -/
def zeroAt (e : List Byte) (off len : Nat) : Bool := ((e.drop off).take len).all (· = 0)

/-- The opcodes of R440. -/
def knownOpcodes : List Nat :=
  [0x01, 0x02, 0x03, 0x04, 0x08, 0x09, 0x0A, 0x0B, 0x0C, 0x0D, 0x10, 0x11, 0x20, 0x21, 0x22, 0x23, 0x24, 0x25, 0x26, 0x27,
   0x28, 0x29, 0x2A, 0x2B, 0x2C, 0x2D, 0x2E, 0x2F]

/-- LBA of a block command, all 64 bits (R442, R449, R450). -/
def sqLba (e : List Byte) : Nat := byteField e 8 8
/-- COUNT of READ and WRITE. -/
def sqCount (e : List Byte) : Nat := byteField e 16 4
/-- COUNT of FLUSH and RELEASE. -/
def sqCount64 (e : List Byte) : Nat := byteField e 16 8
/-- LIST is set. -/
def sqList (e : List Byte) : Bool := sqFlags e % 2 = 1

/-- Numbers of the user space (R5, R447): its LBAs, and the LBAs of a section. -/
def userLbas : Nat := 78125000000
def sectionLbas : Nat := 737280

/-! ## List entries (R442) -/

/-- The list of a READ or WRITE as (address, length) pairs, with the length word's reserved half, from its bytes. -/
def listEntries (bs : List Byte) : List (Nat × Nat × Nat) :=
  (List.range (bs.length / 16)).map (fun i => (byteField bs (16 * i) 8, byteField bs (16 * i + 8) 4, byteField bs (16 * i + 12) 4))

/-- Every entry of a list passes the checks of R442 for `n` bytes of data. -/
def listOk (n : Nat) (es : List (Nat × Nat × Nat)) : Bool :=
  es.all (fun e => e.1 % 64 = 0 && e.2.1 % 64 = 0 && e.2.2 = 0) && (es.map (·.2.1)).sum = n

/-- The host address of byte `o` of a command's data, through its ranges; 0 beyond them. -/
def hostAddrOf : List (Nat × Nat) → Nat → Nat
  | [], _ => 0
  | (a, n) :: rs, o => if o < n then a + o else hostAddrOf rs (o - n)

/-- The pieces of host memory that `n` bytes from byte `o` of a command's data occupy. -/
def hostPieces : List (Nat × Nat) → Nat → Nat → List (Nat × Nat)
  | [], _, _ => []
  | (a, len) :: rs, o, n =>
    if n = 0 then []
    else if len ≤ o then hostPieces rs (o - len) n
    else
      let k := min n (len - o)
      (a + o, k) :: hostPieces rs 0 (n - k)

end Sys2Proof.Machine
end

