-- ==== Sys2Proof/Machine/Flags.lean ====
section
/-! DEFINITION. The status and interrupt flags: the event log's entries and their severities (R528, R529), the bits of
GLB.EVENT_STATUS and the MSI-X vectors they raise (R436, R624). -/

namespace Sys2Proof.Machine

/-- The word of an MSI-X table entry. Its mask bit, bit 96, starts set (PRESUMED, PCIe; log entry 5). -/
def State.msixEntry (s : State) (v : Nat) : Nat := Tbl.look (2 ^ 96) s.host.msixTable v

/-- The vector's mask bit. -/
def State.msixMasked (s : State) (v : Nat) : Bool := (s.msixEntry v).testBit 96

/-- Raise an MSI-X vector: sent if it is unmasked, else pending (R436: masking and pending bits follow PCIe). With the link
down nothing can be sent, and the vector stays pending. -/
def State.raiseMsix (s : State) (v : Nat) : State :=
  if s.msixMasked v ∨ s.host.link = none then
    if v ∈ s.host.msixPending then s else s.setHost { s.host with msixPending := s.host.msixPending ++ [v] }
  else s.send (.msix v (bitsOf (s.msixEntry v) 0 64) (bitsOf (s.msixEntry v) 64 32))

/-- Set a bit of GLB.EVENT_STATUS, raising the event vector on a change from 0 to 1 under MASK and ENABLE (R624). -/
def State.flag (s : State) (f : Fld) : State :=
  if s.fbit f 0 then s
  else
    let s1 := s.fset f 0 1
    if s1.fbit F.glbEventCfgEnable 0 ∧ bitOf (s1.fget F.glbEventCfgMask 0) f.lsb then
      s1.raiseMsix (s1.fget F.glbEventCfgVector 0)
    else s1

/-- The severity of an event code (R529). -/
def eventSeverity (code : Nat) : Nat :=
  if code = 0x0907 then 3
  else if code ∈ [0x0203, 0x0402, 0x0501, 0x0801, 0x0803, 0x0804, 0x0906] then 2
  else if code ∈ [0x0602, 0x0604, 0x0802, 0x0901, 0x0902, 0x0903, 0x0904] then 0
  else 1

/-- Hand an event entry to the configuration store (R222, R528); it counts once its record is committed. -/
def State.event (s : State) (island code status arg0 arg1 : Nat) : State :=
  let e : LogEntry := ⟨island, eventSeverity code, code, status, s.cyc island, s.cyc 17, arg0, arg1⟩
  s.setCfs { s.cfs with writes := s.cfs.writes ++ [.event e] }

end Sys2Proof.Machine
end

