-- ==== Sys2Proof/Machine/Queue.lean ====
section
/-! DEFINITION. The signal box's queue machine: which entry is taken next (R430 to R432), the command tracker (R224), how a
completion is decided, posted or held (R433 to R436), and the end of a queue's reset (R437, R457). -/

namespace Sys2Proof.Machine

/-! ## Taking an entry -/

/-- A queue has an entry that may be taken: it is CREATED or RUNNING and HEAD is not TAIL (R437). -/
def State.entryReady (s : State) (q : Nat) : Bool :=
  (s.fget F.queQStateState q = 1 || s.fget F.queQStateState q = 2) && s.fget F.queQStateHead q != s.fget F.queQStateTail q

/-- The next queue of a class with an entry, in ascending number after the one served last (R431). -/
def State.nextOf (s : State) (c : Nat) : Option Nat :=
  ((List.range 1024).map (fun i => (s.host.arb.last.getD c 0 + 1 + i) % 1024)).find?
    (fun q => s.fget F.queQStateClass q = c && s.entryReady q)

/-- The lowest free tracker place for a class: 64 are kept for class 0 (R432). -/
def State.freePlace (s : State) (c : Nat) : Option Nat :=
  if c = 0 then Tbl.firstFrom {} (fun x : Cmd => !x.live) s.host.cmds 0 64
  else Tbl.firstFrom {} (fun x : Cmd => !x.live) s.host.cmds 64 65472

/-- Take from the round as it stands: class 1, else 2, else 3; a class passed over takes no more in this round (R431). -/
def State.pickInRound (s : State) (a : Arb) : Option (Nat × Arb) :=
  match if a.left1 = 0 then none else s.nextOf 1 with
  | some q => some (q, { a with left1 := a.left1 - 1, last := a.last.set 1 q })
  | none =>
    match if a.left2 = 0 then none else s.nextOf 2 with
    | some q => some (q, { a with left1 := 0, left2 := a.left2 - 1, last := a.last.set 2 q })
    | none =>
      match if a.left3 = 0 then none else s.nextOf 3 with
      | some q => some (q, { a with left1 := 0, left2 := 0, left3 := a.left3 - 1, last := a.last.set 3 q })
      | none => none

/-- The queue whose entry the signal box takes next, and the rounds after it (R431, R432). -/
def State.arbPick (s : State) : Option (Nat × Arb) :=
  match if (s.freePlace 0).isNone then none else s.nextOf 0 with
  | some q => some (q, { s.host.arb with last := s.host.arb.last.set 0 q })
  | none =>
    if (s.freePlace 1).isNone then none
    else
      match s.pickInRound s.host.arb with
      | some r => some r
      | none => s.pickInRound { s.host.arb with
          left1 := s.fget F.queArbW1 0, left2 := s.fget F.queArbW2 0, left3 := s.fget F.queArbW3 0 }

/-- Count one class-0 entry that waits for a place, once (R432). -/
def State.countWait (s : State) (q : Nat) : State :=
  if s.fget F.queQStateClass q = 0 ∧ s.entryReady q ∧ !(s.qcfg q).waited then
    (s.bump F.queCtrCount 4 1).setQcfg q { s.qcfg q with waited := true }
  else s

/-- Count the class-0 entries that wait while every class-0 place is taken. -/
def State.countWaits (s : State) : State :=
  if (s.freePlace 0).isSome then s else (s.host.queues.map (·.1)).foldl State.countWait s

/-- The window offset of the entry at a queue's HEAD (R425). -/
def State.headOffset (s : State) (q : Nat) : Nat := 262144 * q + 64 * s.fget F.queQStateHead q

/-- The 64 bytes of the entry at a queue's HEAD. -/
def State.headEntry (s : State) (q : Nat) : List Byte := s.host.window.read (s.headOffset q) 64

/-- The entry at HEAD holds an uncorrectable word (R426). -/
def State.headBad (s : State) (q : Nat) : Bool :=
  s.host.windowBad.any (fun w => s.headOffset q / 8 ≤ w && w < s.headOffset q / 8 + 8)

/-- The timeout in force for an entry (R224, R428). -/
def timeoutOf (field default : Nat) : Option Nat :=
  if field = 0xFFFFFFFF then none
  else if field = 0 then (if default = 0 then none else some default)
  else some field

/-- Record that a class-0 command is outstanding: the count and its peak (QUE.CLASS0). -/
def State.class0In (s : State) : State :=
  let s1 := s.bump F.queClass0Outstanding 0 1
  s1.fset F.queClass0Peak 0 (max (s1.fget F.queClass0Peak 0) (s1.fget F.queClass0Outstanding 0))

/-- Take the entry at a queue's HEAD into a tracker place (R430, R432): HEAD advances, the command counts as outstanding and
its timer starts. -/
def State.takeInto (s : State) (q p : Nat) (a : Arb) : State :=
  let e := s.headEntry q
  let c := s.fget F.queQStateClass q
  let t := if s.headBad q then none else timeoutOf (sqTimeout e) (s.qcfg q).defaultTimeout
  let s1 := s.fset F.queQStateHead q ((s.fget F.queQStateHead q + 1) % max 1 (s.qcfg q).sqSize)
  let s2 := (s1.bump F.queQStateOutstanding q 1).bump F.queCtrCount c 1
  let s3 := if c = 0 then s2.class0In else s2
  let s4 := (s3.setHost { s3.host with arb := a }).setQcfg q { s3.qcfg q with waited := false }
  s4.setCmd p { live := true, queue := q, cls := c, entry := e, timeout := t, t0 := s4.cyc 17 }

/-- The module takes SQ entries: in service, or with no bootable firmware a FW_STAGE alone (R569, R570, R575, R595). -/
def State.takes (s : State) (op : Nat) : Bool :=
  s.power.supply = .valid && (s.fget F.pwrBootPhase 0 = 5 || (s.fget F.pwrBootPhase 0 = 7 && op = 0x26))

/-- A row of the table that takes an SQ entry: it applies when the signal box takes queue `q` next and the entry there is
the row's; then `run` is the command's effect at its tracker place. Otherwise nothing happens (R21). -/
def State.onEntry (s : State) (q : Nat) (own : List Byte → Bool) (run : Nat → List Byte → State → State) : State :=
  match s.arbPick with
  | none => s
  | some (q', a) =>
    if q' = q ∧ !s.headBad q ∧ s.takes (sqOpcode (s.headEntry q)) ∧ own (s.headEntry q) then
      match s.freePlace (s.fget F.queQStateClass q) with
      | none => s
      | some p => run p (s.headEntry q) (s.takeInto q p a).countWaits
    else s

/-! ## Completions -/

/-- The 16 bytes of a CQ entry (R433). -/
def cqBytes (result head q cid status phase : Nat) : List Byte :=
  leBytes 4 result ++ leBytes 2 head ++ leBytes 2 q ++ leBytes 2 cid ++ leBytes 2 status ++ leBytes 4 phase

/-- Account for an entry written to a CQ and raise its vector where R436 says so. -/
def State.cqInterrupt (s : State) (cq cls : Nat) : State :=
  let c := s.qcfg cq
  if !c.irqEn then s
  else if cls = 0 ∨ c.sinceIrq + 1 ≥ max 1 c.aggCount ∨ c.aggUs = 0 then
    (s.setQcfg cq { c with sinceIrq := 0 }).raiseMsix (s.fget F.queCqStateVector cq)
  else s.setQcfg cq { c with sinceIrq := c.sinceIrq + 1 }

/-- A CQ is full (R435). -/
def State.cqFull (s : State) (cq : Nat) : Bool :=
  (s.fget F.queCqStateCqTail cq + 1) % max 1 (s.qcfg cq).cqSize = s.fget F.queCqStateCqHead cq

/-- Advance CQ_TAIL past an entry; PHASE inverts at each pass's end (R434). -/
def State.cqAdvance (s : State) (cq : Nat) : State :=
  let t := (s.fget F.queCqStateCqTail cq + 1) % max 1 (s.qcfg cq).cqSize
  let s1 := s.fset F.queCqStateCqTail cq t
  if t = 0 then s1.fset F.queCqStatePhase cq (1 - s1.fget F.queCqStatePhase cq) else s1

/-! ### A place is free for another command -/

/-- A number that no place of the tracker has. -/
def noPlace : Nat := 65536

/-- A place that is free again is forgotten. -/
def forget (p : Nat) (x : Option Nat) : Option Nat := if x = some p then none else x
def forgetNat (p x : Nat) : Nat := if x = p then noPlace else x

/-- A batch whose command has ended: its rows still run, for nobody (R458). -/
def Batch.without (p : Nat) (b : Batch) : Batch := { b with rows := b.rows.map (fun r => { r with place := forget p r.place }) }

/-- What a run serves, without a command that has ended; an EMBED's runs go on under another key. -/
def RunFor.without (p key : Nat) : RunFor → RunFor
  | .siding r f c ps => .siding r f c (ps.map (forgetNat p))
  | .command q => .command (forgetNat p q)
  | .batch b => .batch (b.without p)
  | .embed q f c => .embed (if q = p then key else q) f c
  | w => w

/-- A job without a command that has ended: rows in no closed batch are withdrawn (R458). -/
def JobHold.without (p key : Nat) (h : JobHold) : JobHold :=
  let kept := fun rs : List BatchRow => rs.filter (fun r => r.place != some p)
  { h with
    queue := h.queue.map (fun x => (x.1.without p key, x.2))
    run := h.run.map (fun r => { r with what := r.what.without p key })
    batcher := { h.batcher with
      openB := h.batcher.openB.map (fun b => { b with rows := kept b.rows })
      waiting := kept h.batcher.waiting }
    holdWait := h.holdWait.filter (· != p)
    endWait := h.endWait.filter (· != p) }

/-- A record on its way into the configuration store. -/
def CfsWrite.without (p : Nat) : CfsWrite → CfsWrite
  | .setting i v x => .setting i v (forget p x)
  | .libAdd n e x => .libAdd n e (forget p x)
  | .libRemove n x => .libRemove n (forget p x)
  | .image r b x => .image r b (forget p x)
  | w => w

/-- A stitch or unstitch. -/
def Stitch.without (p : Nat) (x : Stitch) : Stitch :=
  match x.by_ with
  | .command q => { x with by_ := .command (forgetNat p q) }
  | _ => x

/-- The mesh: a change, a pull and a step's batch go on without their command. -/
def Mesh.without (p : Nat) (m : Mesh) : Mesh :=
  { m with
    changes := m.changes.map (fun c => (forgetNat p c.1, c.2))
    pulls := m.pulls.map (fun x => { x with place := forgetNat p x.place })
    steps := m.steps.map (fun e => (e.1, { e.2 with batch := e.2.batch.map (Batch.without p) })) }

/-- Every part of the module forgets a place whose command has ended. -/
def State.forgetPlace (s : State) (p : Nat) : State :=
  let key := (s.scan.embeds.map (·.place)).foldl max noPlace + 1
  let s1 := s.setScans { s.scan with embeds := s.scan.embeds.map (fun x => if x.place = p then { x with place := key } else x) }
  let s2 := s1.setSearch { s1.search with
    mutators := s1.search.mutators.filter (fun m => m.2 != p)
    limited := s1.search.limited.filter (· != p)
    shunts := s1.search.shunts.map (fun x => { x with place := forgetNat p x.place }) }
  let s3 := s2.setEcc { s2.ecc with
    repairs := s2.ecc.repairs.map (fun x => { x with place := forget p x.place })
    retiring := s2.ecc.retiring.map (fun x => { x with place := forget p x.place }) }
  let s4 := s3.setPower { s3.power with activateBy := forget p s3.power.activateBy, behind := s3.power.behind.filter (· != p) }
  let s5 := s4.setTt { s4.tt with queue := s4.tt.queue.map (Stitch.without p) }
  let s6 := s5.setCfs { s5.cfs with writes := s5.cfs.writes.map (CfsWrite.without p) }
  let s7 := s6.setDepot { s6.depot with turns := s6.depot.turns.map (fun t => if t.engine then { t with place := forget p t.place } else t) }
  (s7.setMesh (s7.mesh.without p)).setJobs (s7.jobs.map (fun h => (h.1, h.2.without p key)))

/-- The answer buffer and the chunk size of a SCAN (R373), and where a chunk begins. -/
def scAnswer (e : List Byte) : Nat := byteField e 24 8
def scShift (e : List Byte) : Nat := byteField e 36 1
def chunkAt (e : List Byte) (n : Nat) : Nat := scAnswer e + n * 2 ^ scShift e

/-- A packet's header after the length word (R367). -/
def answerHead (kind flags station entries chunk : Nat) : List Byte :=
  leBytes 1 kind ++ leBytes 1 flags ++ leBytes 2 station ++ leBytes 4 entries ++ leBytes 4 chunk ++ zeros 16

/-- Close a station's open answer packet: its header and entries, then its length word (R216, R217, R366). -/
def State.closeChunk (s : State) (e : List Byte) (st : Nat) (x : ScanCtx) (stopped : Bool) : State :=
  match x.chunk with
  | none => s
  | some n =>
    (s.sendData (chunkAt e n + 4) (answerHead 1 (bit stopped) st x.entries n ++ x.body) false).sendData (chunkAt e n)
      (leBytes 4 (32 + x.body.length)) false

/-- The packets that a SCAN's contexts on a station hold open are closed with STOPPED: those of one command, or of every command on a
station that stops (R217, R370). -/
def State.closeScans (st : Nat) (mine : ScanCtx → Bool) (s : State) : State :=
  (((s.stn st).scans.map (·.2)).filter (fun x => x.live && mine x)).foldl (fun (s : State) x =>
    s.closeChunk (s.cmd x.place).entry st x true) s

/-- One step of a page's generation, modulo 2^32. -/
def State.genStep (s : State) (p : Nat) : State := s.setPage p { s.page p with gen := ((s.page p).gen + 1) % 2 ^ 32 }

/-- The identity of a copy at a home stack (R268), and the station of one. A walker's context c reads as row 64 + c, a scan context c as row
96 + c (R331, R355). -/
def copyIdent (st n seq : Nat) : Nat := (64 * n + st) * 2 ^ 32 + seq % 2 ^ 32
def identStation (ident : Nat) : Nat := ident / 2 ^ 32 % 64

/-- A copy's hold on new writes to a page ends (R268). -/
def State.endHold (s : State) (ident p : Nat) : State :=
  if (s.page p).holds.contains ident then s.setPage p { s.page p with holds := (s.page p).holds.filter (· != ident) } else s

/-- New writes to a page are held until a confirm of the identity passes (R268). -/
def State.holdWrites (s : State) (ident p : Nat) : State :=
  if (s.page p).holds.contains ident then s
  else (s.setPage p { s.page p with holds := (s.page p).holds ++ [ident] }).bump F.depTierCtrCount 9 1

/-- A copy's write of a page is over, with its last byte or because the copy is dropped: the generation is even again (R265). -/
def State.endWrite (s : State) (ident p : Nat) : State :=
  if (s.page p).writer = some ident then (s.setPage p { s.page p with writer := none }).genStep p else s

/-- Holds of some identities end on every page. -/
def State.endHolds (s : State) (mine : Nat → Bool) : State :=
  (s.depot.pages.map (·.1)).foldl (fun (s : State) p => ((s.page p).holds.filter mine).foldl (fun (s : State) i => s.endHold i p) s) s

/-- The search and scan contexts of a command are free again, and no commit waits for it, once its CQ entry is posted (R325,
R339, R354); a packet that one still holds open is closed first, as long as the host can be reached (R217, R370). -/
def State.freeContexts (s : State) (p : Nat) : State :=
  let mine := fun x : Walker => x.live && x.place = p
  let s0 := if s.host.link.isNone then s
    else (s.stations.map (·.1)).foldl (fun (s : State) st => s.closeScans st (fun x => x.place = p)) s
  let rows := s0.stations.flatMap (fun e =>
    (e.2.walkers.filter (fun w => mine w.2)).map (fun w => 64 * (64 + w.1) + e.1) ++
      (e.2.scans.filter (fun c => c.2.live && c.2.place = p)).map (fun c => 64 * (96 + c.1) + e.1))
  let s1 := (s.stations.map (·.1)).foldl (fun (s : State) st =>
    let x := s.stn st
    let n := (x.walkers.filter (fun w => mine w.2)).length
    let m := (x.scans.filter (fun c => c.2.live && c.2.place = p)).length
    if n = 0 ∧ m = 0 then s
    else (s.setStn st { x with walkers := x.walkers.filter (fun w => !mine w.2)
                               scans := x.scans.filter (fun c => !(c.2.live && c.2.place = p)) }).dip F.stnWalkBusy st n) (s0.endHolds (fun i => rows.contains (i / 2 ^ 32)))
  let cs := s1.search.commits.map (fun c => { c with searches := c.searches.filter (· != p) })
  let bs := (s1.search.batches.map (fun b => { b with places := b.places.filter (· != p) })).filter (fun b => !b.places.isEmpty)
  let s2 := s1.setSearch { s1.search with
    batches := bs, waiting := s1.search.waiting.filter (· != p), commits := cs.filter (fun c => !c.searches.isEmpty) }
  (s2.setScans { s2.scan with
    waiting := s2.scan.waiting.filter (· != p), active := s2.scan.active.filter (fun c => c.place != p) }).forgetPlace p

/-- Post the CQ entry of a decided command and free its place (R430, R432 to R434, R436). -/
def State.postEntry (s0 : State) (p : Nat) : State :=
  let s := s0.freeContexts p
  let c := s.cmd p
  let cq := s.fget F.queQStateCqId c.queue
  let bytes := cqBytes c.result (s.fget F.queQStateHead c.queue) c.queue (sqCid c.entry) c.status (s.fget F.queCqStatePhase cq)
  let s1 := s.send (.cqEntry ((s.qcfg cq).cqAddr + 16 * s.fget F.queCqStateCqTail cq) bytes)
  let s2 := (s1.cqAdvance cq).dip F.queQStateOutstanding c.queue 1
  let s3 := if c.cls = 0 then s2.dip F.queClass0Outstanding 0 1 else s2
  let s4 := if c.status = 0x3001 then s3.bump F.queCtrCount 6 1
    else if c.status = 0x3002 then s3.bump F.queCtrCount 7 1 else s3
  (s4.setCmd p {}).cqInterrupt cq c.cls

/-- A queue whose reset ends no more in this place: a QUEUE_RESET or QUEUE_DELETE that has been decided waits no longer. -/
def State.unwaitReset (s : State) (p : Nat) : State :=
  if sqOpcode (s.cmd p).entry = 0x22 ∨ sqOpcode (s.cmd p).entry = 0x23 then
    let q := byteField (s.cmd p).entry 8 2
    if (s.qcfg q).resetBy = some p then s.setQcfg q { s.qcfg q with resetBy := none } else s
  else s

/-- Decide a command's completion: posted if its CQ has room and none is held before it, else held (R435). -/
def State.decideOnly (s : State) (p status result : Nat) : State :=
  let s0 := s.unwaitReset p
  let s1 := s0.setCmd p { s0.cmd p with decided := true, ready := false, status := status, result := result }
  let cq := s1.fget F.queQStateCqId (s1.cmd p).queue
  if s1.cqFull cq ∨ s1.fget F.queCqStateHeld cq ≠ 0 then
    let s2 := (s1.bump F.queCqStateHeld cq 1).bump F.queCtrCount 8 1
    s2.setHost { s2.host with held := s2.host.held ++ [⟨cq, p⟩] }
  else s1.postEntry p

/-- Remove a queue and, where it owns one, its CQ (R437, R459, R460). -/
def State.deleteQueue (s : State) (q : Nat) : State :=
  let s1 := (s.rset .queQState q 0).fset F.queQStateOutstanding q 0
  let s2 := (s1.rset .queCqState q 0).rset .queCqState1 q 0
  s2.setQcfg q {}

/-- A resetting queue whose last command's entry has been posted returns to CREATED with HEAD = TAIL = 0, or is deleted, and
the command that reset it completes (R437, R457, R459). -/
def State.finishReset (s : State) (q : Nat) : State :=
  if s.fget F.queQStateState q = 3 ∧ s.fget F.queQStateOutstanding q = 0 then
    let c := s.qcfg q
    let s1 := if c.deleting then s.deleteQueue q
      else (((s.fset F.queQStateState q 1).fset F.queQStateHead q 0).fset F.queQStateTail q 0).setQcfg q
        { c with resetBy := none, discarded := 0 }
    match c.resetBy with
    | some p => if (s1.cmd p).live ∧ !(s1.cmd p).decided then s1.decideOnly p 0 c.discarded else s1
    | none => s1
  else s

/-- READY of the admin queue: Q0000 is CREATED or RUNNING (R439). -/
def State.adminReady (s : State) : State :=
  s.fset F.queAdminCtlReady 0 (bit (s.fget F.queQStateState 0 = 1 ∨ s.fget F.queQStateState 0 = 2))

/-- Decide a command's completion, and end a reset that waited for it. -/
def State.decide (s : State) (p status result : Nat) : State :=
  let q := (s.cmd p).queue
  ((s.decideOnly p status result).finishReset q).adminReady

/-- Fail a command at a check: it does nothing else (R441). -/
def State.fail (s : State) (p status : Nat) : State := if (s.cmd p).live then s.decide p status 0 else s

/-- A command is live and not yet decided. -/
def State.open (s : State) (p : Nat) : Bool := (s.cmd p).live && !(s.cmd p).decided

/-- A command's units have sent their last completion message, with a status and a result; its arrival follows (R225). A
command that has ended has no outcome any more. -/
def State.finish (s : State) (p status result : Nat) : State :=
  if s.open p then s.setCmd p { s.cmd p with ready := true, status := status, result := result } else s

/-- Checks 1 and 2 of R441 for an opcode of 0x20 to 0x3F, then the command's own part. -/
def State.adminOnly (run : Nat → List Byte → State → State) (p : Nat) (e : List Byte) (s : State) : State :=
  if (s.cmd p).queue = 0 then run p e s else s.fail p 0x1003

/-- A command that waits behind a firmware activation in progress, else its own part (R590). -/
def State.behind (run : Nat → List Byte → State → State) (p : Nat) (e : List Byte) (s : State) : State :=
  if s.fget F.glbMaintOp 0 = 3 then s.setPower { s.power with behind := s.power.behind ++ [p] } else run p e s

end Sys2Proof.Machine
end

