-- ==== Sys2Proof/Machine/Lock.lean ====
section
/-! DEFINITION. A write of the privileged view that has a command of its own: the lock (R16, R607 to R609), the refusal it
makes (R608), and the held low half that any such write discards (R602). -/

namespace Sys2Proof.Machine

/-- The privileged lock is set. -/
def State.locked (s : State) : Bool := s.fbit F.glbPrivLockLock 0

/-- The host reaches the registers: the link is up. -/
def State.hears (s : State) : Bool := s.host.link.isSome

/-- A refusal was logged less than 1 ms ago by D0's signal box (R608). -/
def State.refusedLately (s : State) : Bool :=
  match s.host.lastRefusal with
  | some t => s.cyc 17 < t + 700000
  | none => false

/-- The lock refuses a write at a BAR0 offset (R608). -/
def State.refuseWrite (s : State) (off : Nat) : State :=
  let s1 := (s.bump F.glbLockStatRefused 0 1).fset F.glbLockStatLastOffset 0 (off / 4)
  if s1.refusedLately then s1
  else (s1.setHost { s1.host with lastRefusal := some (s1.cyc 17) }).event 17 0x0601 0 off 0

/-- A write accepted at a BAR0 offset discards the held low half of any other register (R602). -/
def State.dropHeld (s : State) (off : Nat) : State :=
  match s.host.heldLow with
  | some (o, _) => if o = off / 8 * 8 then s else s.setHost { s.host with heldLow := none }
  | none => s

/-- A write at an offset whose fields the lock does not govern. -/
def State.openWrite (s : State) (off : Nat) (run : State → State) : State := if s.hears then run (s.dropHeld off) else s

/-- A write at an offset whose fields the lock governs (R16, R607). -/
def State.lockWrite (s : State) (off : Nat) (run : State → State) : State :=
  s.openWrite off (fun s => if s.locked then s.refuseWrite off else run s)

/-- A write of a register's wo field; the write touches rwl fields as well, so that the lock counts a refusal (R607, R608). -/
def State.woWrite (s : State) (off : Nat) (run : State → State) : State :=
  s.openWrite off (fun s => run (if s.locked then s.refuseWrite off else s))

end Sys2Proof.Machine
end

