-- ==== Sys2Proof/Machine/Fabric.lean ====
section
/-! DEFINITION. The fields of a fabric table (R405): header, peers, bindings and expert map. -/

namespace Sys2Proof.Machine

/-! ## Header and peers -/

def ftSelf (t : List Byte) : Nat := byteField t 6 1
def ftBindings (t : List Byte) : Nat := byteField t 7 1
def ftEpoch (t : List Byte) : Nat := byteField t 8 4
def ftPeer (t : List Byte) (b : Nat) : Nat := byteField t (64 + 16 * b) 1
def ftAllowPull (t : List Byte) (b : Nat) : Bool := bitOf (byteField t (65 + 16 * b) 1) 0
def ftNoVia (t : List Byte) (b : Nat) : Bool := bitOf (byteField t (65 + 16 * b) 1) 1
def ftSerial (t : List Byte) (b : Nat) : Nat := byteField t (72 + 16 * b) 8

/-! ## Bindings -/

/-- Where binding `n` begins. -/
def fbAt (n : Nat) : Nat := 448 + 128 * n
def fbOrigin (t : List Byte) (n : Nat) : Nat := byteField t (fbAt n) 1
def fbHome (t : List Byte) (n h : Nat) : Nat := byteField t (fbAt n + 1 + h) 1
/-- The home jobs of a binding, in order. -/
def fbHomes (t : List Byte) (n : Nat) : List Nat := ((List.range 4).map (fbHome t n)).filter (· != 0)
def fbTopK (t : List Byte) (n : Nat) : Nat := byteField t (fbAt n + 5) 1
def fbLayers (t : List Byte) (n : Nat) : Nat := byteField t (fbAt n + 6) 2
def fbExperts (t : List Byte) (n : Nat) : Nat := byteField t (fbAt n + 8) 2
def fbHomeCap (t : List Byte) (n : Nat) : Nat := byteField t (fbAt n + 10) 2
def fbRowBytes (t : List Byte) (n : Nat) : Nat := byteField t (fbAt n + 12) 4
def fbRows (t : List Byte) (n : Nat) : Nat := byteField t (fbAt n + 16) 4
def fbTimeout (t : List Byte) (n : Nat) : Nat := byteField t (fbAt n + 20) 4
def fbWait (t : List Byte) (n : Nat) : Nat := byteField t (fbAt n + 24) 4
def fbMap (t : List Byte) (n : Nat) : Nat := byteField t (fbAt n + 28) 4
def fbXOrigin (t : List Byte) (n : Nat) : Nat := byteField t (fbAt n + 32) 8
def fbXHome (t : List Byte) (n : Nat) : Nat := byteField t (fbAt n + 40) 8
def fbWBase (t : List Byte) (n : Nat) : Nat := byteField t (fbAt n + 48) 8
def fbExpertBytes (t : List Byte) (n : Nat) : Nat := byteField t (fbAt n + 56) 4
def fbRebaseBuf (t : List Byte) (n k : Nat) : Nat := byteField t (fbAt n + 64 + 8 * k) 1
def fbRebaseStride (t : List Byte) (n k : Nat) : Nat := byteField t (fbAt n + 65 + 8 * k) 7
def fbWStride (t : List Byte) (n : Nat) : Nat := byteField t (fbAt n + 80) 8
def fbTakesPart (t : List Byte) (n m : Nat) : Bool := bitOf (byteField t (fbAt n + 96) 32) m
/-- The participants of a binding, rising. -/
def fbParts (t : List Byte) (n : Nat) : List Nat := bitsSet 255 (byteField t (fbAt n + 96) 32)
/-- The home module of an expert of a layer. -/
def fbHomeOf (t : List Byte) (n l e : Nat) : Nat := byteField t (fbMap t n + l * fbExperts t n + e) 1
/-- The local number of an expert of a layer at its home (R406). -/
def fbLocal (t : List Byte) (n l e : Nat) : Nat :=
  ((List.range e).filter (fun x => fbHomeOf t n l x = fbHomeOf t n l e)).length
/-- The experts of a layer that module `m` homes. -/
def fbExpertsAt (t : List Byte) (n l m : Nat) : Nat := ((List.range (fbExperts t n)).filter (fun x => fbHomeOf t n l x = m)).length

/-! ## Jobs of bindings in force -/

/-- The bindings of the table in force. -/
def State.bindings (s : State) : List Nat := List.range ((s.mesh.table.map ftBindings).getD 0)

/-- The binding whose ORIGIN_JOB a job is; the binding one of whose home jobs it is. -/
def State.originOf (s : State) (j : Nat) : Option Nat :=
  s.bindings.find? (fun n => (s.mesh.table.map (fun t => fbOrigin t n)) = some j)
def State.homeOf (s : State) (j : Nat) : Option Nat :=
  s.bindings.find? (fun n => ((s.mesh.table.map (fun t => (fbHomes t n).contains j)).getD false))

end Sys2Proof.Machine
end

