-- ==== Sys2Proof/Machine/Crypto.lean ====
section
/-! DEFINITION. The published functions the manual names and does not print: SHAKE256 and SHA3-512 (FIPS 202), Ed448
verification (RFC 8032) and CRC-32 (R389). PRESUMED from those standards (log entry 6). -/

namespace Sys2Proof.Machine

/-! ## Keccak -/

/-- A 64-bit lane turned left by `n`. -/
def laneTurn (n x : Nat) : Nat := x * 2 ^ n % 2 ^ 64 + x % 2 ^ 64 / 2 ^ (64 - n)

/-- Exclusive-or of some lanes. -/
def xorLanes (xs : List Nat) : Nat := xs.foldl (· ^^^ ·) 0

/-- Lane `i` of a state of 25 lanes, and the parity of its column `x` (FIPS 202, 3.2.1). -/
def laneOf (a : List Nat) (i : Nat) : Nat := a.getD i 0
def columnParity (a : List Nat) (x : Nat) : Nat := xorLanes ((List.range 5).map (fun y => laneOf a (x % 5 + 5 * y)))

/-- The first step map: each lane takes in the column before and the one behind, turned by one. -/
def mixColumns (a : List Nat) : List Nat :=
  let ps := (List.range 5).map (fun x => columnParity a (x + 4) ^^^ laneTurn 1 (columnParity a (x + 1)))
  a.zipIdx.map (fun v => v.1 ^^^ laneOf ps (v.2 % 5))

/-- The second and third step maps in one walk over the 24 lanes but the first (FIPS 202, 3.2.2 and 3.2.3): the lane at step `t` is turned
by (t + 1)(t + 2) / 2 and lands where the walk goes next. `x` and `y` say where the walk stands; the fuel counts its steps. -/
def walkLanes (a : List Nat) : Nat → Nat → Nat → List Nat → List Nat
  | 0, _, _, b => b
  | fuel + 1, x, y, b =>
    let t := 23 - fuel
    let y' := (2 * x + 3 * y) % 5
    walkLanes a fuel y y' (b.set (y + 5 * y') (laneTurn ((t + 1) * (t + 2) / 2 % 64) (laneOf a (x + 5 * y))))

/-- The fourth step map: a lane, and the two behind it in its row. -/
def mixRows (a : List Nat) : List Nat :=
  a.zipIdx.map (fun v =>
    let row := v.2 / 5 * 5
    v.1 ^^^ ((2 ^ 64 - 1 - laneOf a (row + (v.2 + 1) % 5)) &&& laneOf a (row + (v.2 + 2) % 5)))

/-- The shift register behind the round constants after `t` steps (FIPS 202, 3.2.5). -/
def rcRegister : Nat → Nat
  | 0 => 1
  | t + 1 => let r := 2 * rcRegister t
    if r < 256 then r else r ^^^ 0x171

/-- The constant of round `i`. -/
def roundConstant (i : Nat) : Nat := ((List.range 7).map (fun j => rcRegister ((7 * i + j) % 255) % 2 * 2 ^ (2 ^ j - 1))).sum

/-- One round. -/
def keccakRound (a : List Nat) (i : Nat) : List Nat :=
  let m := mixColumns a
  let b := mixRows (walkLanes m 24 1 0 m)
  b.set 0 (laneOf b 0 ^^^ roundConstant i)

/-- The permutation. -/
def keccakF (a : List Nat) : List Nat := (List.range 24).foldl keccakRound a

/-- The bytes of a state in the sponge's outer part. -/
def outerBytes (rate : Nat) (a : List Nat) : List Byte := (a.flatMap (leBytes 8)).take rate

/-- A block of a message goes into a state. -/
def takeBlock (a : List Nat) (blk : List Byte) : List Nat :=
  keccakF (a.zipIdx.map (fun v => v.1 ^^^ byteField blk (8 * v.2) 8))

/-- A message with its suffix, and zeros up to the last bit of a block, which is set. -/
def padBlock (rate suffix : Nat) (msg : List Byte) : List Byte :=
  let n := ceilDiv (msg.length + 1) rate * rate
  let body := padTo n (msg ++ [BitVec.ofNat 8 suffix])
  body.set (n - 1) (body.getD (n - 1) 0 ||| 0x80)

/-- Bytes out of a state, one permutation between blocks; the fuel counts the blocks. -/
def drawBlocks (rate : Nat) : Nat → List Nat → List Byte
  | 0, _ => []
  | n + 1, a => outerBytes rate a ++ drawBlocks rate n (keccakF a)

/-- The sponge: a message with a domain suffix, to `out` bytes. -/
def keccak (rate suffix out : Nat) (msg : List Byte) : List Byte :=
  let blocks := padBlock rate suffix msg
  let full := (chunksOf rate (blocks.length / rate) blocks).foldl takeBlock (List.replicate 25 0)
  (drawBlocks rate (ceilDiv out rate) full).take out

/-- SHAKE256 to `out` bytes (the module's digests are 64 bytes). -/
def shake256 (out : Nat) (msg : List Byte) : List Byte := keccak 136 0x1F out msg

/-- SHA3-512. -/
def sha3_512 (msg : List Byte) : List Byte := keccak 72 0x06 64 msg

/-! ## Ed448 (RFC 8032) -/

/-- The field prime, the group order and d. -/
def edP : Nat := 2 ^ 448 - 2 ^ 224 - 1
def edL : Nat := 2 ^ 446 - 13818066809895115352007386748515426880336692474882178609894547503885
def edD : Nat := edP - 39081

/-- `b ^ e mod p` over the low `n` bits of the exponent, top first. -/
def powMod (b e p : Nat) : Nat → Nat
  | 0 => 1 % p
  | n + 1 =>
    let h := powMod b (e / 2) p n
    let sq := h * h % p
    if e % 2 = 1 then sq * b % p else sq

/-- A point in projective coordinates. -/
structure EdPoint where
  x : Nat
  y : Nat
  z : Nat
deriving DecidableEq, Repr

/-- The neutral element. -/
def edZero : EdPoint := ⟨0, 1, 1⟩

/-- The base point. -/
def edBase : EdPoint :=
  ⟨224580040295924300187604334099896036246789641632564134246125461686950415467406032909029192869357953282578032075146446173674602635247710,
   298819210078481492676017930443930673437544040154080242095928241372331506189835876003536878655418784733982303233503462500531545062832660, 1⟩

/-- The unified addition of untwisted Edwards curves. -/
def edAdd (a b : EdPoint) : EdPoint :=
  let zz := a.z * b.z % edP
  let bb := zz * zz % edP
  let xx := a.x * b.x % edP
  let yy := a.y * b.y % edP
  let e := edD * (xx * yy % edP) % edP
  let f := (bb + edP - e) % edP
  let g := (bb + e) % edP
  let h := (a.x + a.y) * (b.x + b.y) % edP
  let m := (h + 2 * edP - xx - yy) % edP
  let w := (yy + edP - xx) % edP
  ⟨zz * (f * m % edP) % edP, zz * (g * w % edP) % edP, f * g % edP⟩

/-- A multiple of a point, over the low `n` bits of the scalar. -/
def edMul (k : Nat) (a : EdPoint) : Nat → EdPoint
  | 0 => edZero
  | n + 1 =>
    let h := edMul (k / 2) a n
    let d := edAdd h h
    if k % 2 = 1 then edAdd d a else d

/-- Two projective points are the same. -/
def edSame (a b : EdPoint) : Bool := a.x * b.z % edP = b.x * a.z % edP && a.y * b.z % edP = b.y * a.z % edP

/-- Decode a 57-byte point (RFC 8032, 5.2.3). -/
def edDecode (bs : List Byte) : Option EdPoint :=
  let n := leNat bs
  let y := n % 2 ^ 455
  let sign := n / 2 ^ 455 % 2
  if bs.length ≠ 57 ∨ y ≥ edP then none
  else
    let u := (y * y + edP - 1) % edP
    let v := (edD * (y * y % edP) + edP - 1) % edP
    let u3v := u * u % edP * u % edP * v % edP
    let u5v3 := u3v * (u * u % edP) % edP * (v * v % edP) % edP
    let x := u3v * powMod u5v3 ((edP - 3) / 4) edP 448 % edP
    if v * (x * x % edP) % edP ≠ u then none
    else if x = 0 ∧ sign = 1 then none
    else some ⟨if x % 2 = sign then x else edP - x, y, 1⟩

/-- A byte string decodes as a point (R614). -/
def edPointOk (bs : List Byte) : Bool := (edDecode bs).isSome

/-- Verify an Ed448 signature with a context (RFC 8032, 5.2.7). -/
def edVerify (key ctx msg sig : List Byte) : Bool :=
  let r := sig.take 57
  let s := leNat ((sig.drop 57).take 57)
  let dom : List Byte := [0x53, 0x69, 0x67, 0x45, 0x64, 0x34, 0x34, 0x38, 0, BitVec.ofNat 8 ctx.length] ++ ctx
  match edDecode key, edDecode r with
  | some a, some rp =>
    if sig.length ≠ 114 ∨ s ≥ edL then false
    else
      let k := leNat (shake256 114 (dom ++ r ++ key ++ msg)) % edL
      edSame (edMul (4 * s) edBase 449) (edAdd (edMul 4 rp 3) (edMul (4 * k) a 449))
  | _, _ => false

/-! ## CRC-32 -/

/-- One bit of a reflected CRC of polynomial `poly`. -/
def crcBits (poly c : Nat) : Nat → Nat
  | 0 => c
  | n + 1 => crcBits poly (if c % 2 = 1 then (c / 2) ^^^ poly else c / 2) n

/-- CRC-32: polynomial 0x04C11DB7 reflected, initial value and final exclusive-or of ones (R389). -/
def crc32 (bs : List Byte) : Nat :=
  (bs.foldl (fun c b => crcBits 0xEDB88320 (c ^^^ b.toNat) 8) 0xFFFFFFFF) ^^^ 0xFFFFFFFF

/-- The text of an ASCII context. -/
def ctxAzul : List Byte := [0x41, 0x5A, 0x55, 0x4C]
def ctxAzfw : List Byte := [0x41, 0x5A, 0x46, 0x57]

end Sys2Proof.Machine
end

