-- ==== Sys2Proof/Machine/Desc.lean ====
section
/-! DEFINITION. The fields of a timetable container (R157 to R178), of its pass and copy descriptors (R82, R251), the order
in which a list runs (R167 to R169) and the geometry of a pass (R51, R61, R64, R80). -/

namespace Sys2Proof.Machine

/-! ## The container (R157 to R159) -/

/-- Header fields. -/
def ttMinStep (bs : List Byte) : Nat := byteField bs 10 1
def ttGroup (bs : List Byte) : Nat := byteField bs 12 2
def ttBase (bs : List Byte) : Bool := bitOf (byteField bs 14 2) 0
def ttExpress (bs : List Byte) : Bool := bitOf (byteField bs 14 2) 1
def ttDies (bs : List Byte) : Nat := bitsOf (byteField bs 14 2) 2 2 + 1
def ttBodyLen (bs : List Byte) : Nat := byteField bs 16 4
def ttCount (bs : List Byte) : Nat := byteField bs 20 4
def ttRunCyc (bs : List Byte) : Nat := byteField bs 24 8
def ttSigner (bs : List Byte) : Nat := byteField bs 36 2
def ttId (bs : List Byte) : Nat := byteField bs 40 8
/-- The body. -/
def ttBody (bs : List Byte) : List Byte := (bs.drop 128).take (ttBodyLen bs)

/-- A record (R161): its header fields, the bytes 11 to 15 of the header, and its body. -/
structure TRec where
  typ : Nat
  flags : Nat
  station : Nat
  row : Nat
  spare : List Byte
  body : List Byte
deriving DecidableEq, Repr

/-- The records from a byte on, as far as they fit; the fuel bounds their number. -/
def ttWalk : Nat → List Byte → List TRec
  | 0, _ => []
  | fuel + 1, bs =>
    let len := byteField bs 4 4
    if bs.length < 16 + len ∨ len % 16 ≠ 0 ∨ bs = [] then []
    else ⟨byteField bs 0 2, byteField bs 2 2, byteField bs 8 2, byteField bs 10 1, (bs.drop 11).take 5,
        (bs.drop 16).take len⟩ :: ttWalk fuel (bs.drop (16 + len))

/-- The records of a container. -/
def ttRecs (bs : List Byte) : List TRec := ttWalk (ttCount bs) (ttBody bs)

/-- The body of the record of a type, target station and target row; empty where there is none. -/
def recBody (rs : List TRec) (typ station row : Nat) : List Byte :=
  match rs.find? (fun r => r.typ = typ && r.station = station && r.row = row) with
  | some r => r.body
  | none => []

/-- A group-wide record's body (R162). -/
def groupBody (rs : List TRec) (typ : Nat) : List Byte := recBody rs typ 0xFFFF 0xFF

/-! ## STATION and ROUTE (R163 to R166) -/

def stRole (b : List Byte) (k : Nat) : Nat := byteField b (4 * k) 1 % 4
def stPages (b : List Byte) (k : Nat) : Nat := byteField b (4 * k + 1) 1
def stPlatform (b : List Byte) : Nat := byteField b 32 2
def stRowMask (b : List Byte) : Nat := byteField b 36 4

/-- A route: number, EXPRESS, source, destination, credits. -/
structure Route where
  no : Nat
  express : Bool
  src : Nat
  dst : Nat
  credits : Nat
deriving DecidableEq, Repr

/-- The routes of a ROUTE body. -/
def routesOf (b : List Byte) : List Route :=
  (List.range (byteField b 0 2)).map (fun i =>
    let o := 16 + 8 * i
    ⟨byteField b o 1 % 64, bitOf (byteField b (o + 1) 1) 0, byteField b (o + 2) 2, byteField b (o + 4) 2, byteField b (o + 6) 1⟩)

/-- The endpoint of a route that is not this station (R166). -/
def Route.far (r : Route) : Nat := if r.src / 4096 = 0 then r.dst else r.src
def Route.cls (r : Route) : Nat := r.far / 4096
def Route.idx (r : Route) : Nat := r.far % 4096

/-! ## Lists and loops (R167 to R169) -/

def listDescs (b : List Byte) : Nat := byteField b 0 2
def listLoops (b : List Byte) : Nat := byteField b 2 2

/-- A loop: its range, its count, its step of the depot offset (0 in a PASSLIST) and its step of the ceiling index. -/
structure LoopE where
  first : Nat
  last : Nat
  count : Nat
  step : Int
  cstep : Int
deriving DecidableEq, Repr

/-- The loops of a PASSLIST or COPYPROG body. -/
def loopsOf (isPass : Bool) (b : List Byte) : List LoopE :=
  (List.range (listLoops b)).map (fun i =>
    let o := 16 + 16 * i
    { first := byteField b o 2, last := byteField b (o + 2) 2, count := byteField b (o + 4) 4,
      step := if isPass then 0 else signed 48 (byteField b (o + 8) 6),
      cstep := if isPass then signed 64 (byteField b (o + 8) 8) else signed 16 (byteField b (o + 14) 2) })

/-- Descriptor `i` of a list body, `n` bytes each. -/
def descAt (n : Nat) (b : List Byte) (i : Nat) : List Byte := (b.drop (16 + 16 * listLoops b + n * i)).take n

/-- A loop covers a descriptor. -/
def LoopE.has (l : LoopE) (i : Nat) : Bool := l.first ≤ i && i ≤ l.last

/-- Where the walk goes from the loops that end at a descriptor, innermost first; the counts of those that are done start
again (R169). -/
def turnLoops (ls : List LoopE) : List Nat → List Nat → Option Nat × List Nat
  | [], iters => (none, iters)
  | k :: ks, iters =>
    let n := iters.getD k 0 + 1
    let l := ls.getD k ⟨0, 0, 0, 0, 0⟩
    if n < l.count then (some l.first, iters.set k n) else turnLoops ls ks (iters.set k 0)

/-- The descriptor after `i`, with the loops' iterations; none at the end of the list (R169). -/
def nextDesc (ls : List LoopE) (n i : Nat) (iters : List Nat) : Option (Nat × List Nat) :=
  let ending := ((List.range ls.length).filter (fun k => (ls.getD k ⟨0, 0, 0, 0, 0⟩).last = i)).reverse
  match turnLoops ls ending iters with
  | (some j, it) => some (j, it)
  | (none, it) => if i + 1 < n then some (i + 1, it) else none

/-- The sum of a step over the loops around a descriptor, at given iterations (R169). -/
def steppedBy (f : LoopE → Int) (ls : List LoopE) (i : Nat) (iters : List Nat) : Int :=
  ((ls.zip iters).map (fun p => if p.1.has i then (p.2 : Int) * f p.1 else 0)).sum

/-- The lowest and the highest sum of a step over all iterations. -/
def stepLow (f : LoopE → Int) (ls : List LoopE) (i : Nat) : Int :=
  (ls.map (fun l => if l.has i then min 0 (((l.count - 1 : Nat) : Int) * f l) else 0)).sum
def stepHigh (f : LoopE → Int) (ls : List LoopE) (i : Nat) : Int :=
  (ls.map (fun l => if l.has i then max 0 (((l.count - 1 : Nat) : Int) * f l) else 0)).sum

/-- How often a descriptor issues in a run. -/
def issuesOf (ls : List LoopE) (i : Nat) : Nat := ls.foldl (fun n l => if l.has i then n * l.count else n) 1

/-- The issues of a whole run of a list. -/
def issuesAll (ls : List LoopE) (n : Nat) : Nat := ((List.range n).map (issuesOf ls)).sum

/-- The descriptors in the order they issue, with their iterations; the fuel is their number. -/
def runOrder (ls : List LoopE) (n : Nat) : Nat → Nat × List Nat → List (Nat × List Nat)
  | 0, _ => []
  | fuel + 1, (i, it) =>
    (i, it) :: (match nextDesc ls n i it with
      | some x => runOrder ls n fuel x
      | none => [])

/-- The whole order of a list body. -/
def fullOrder (isPass : Bool) (b : List Byte) : List (Nat × List Nat) :=
  if listDescs b = 0 then []
  else runOrder (loopsOf isPass b) (listDescs b) (issuesAll (loopsOf isPass b) (listDescs b))
    (0, (loopsOf isPass b).map (fun _ => 0))

/-! ## Pass descriptors (R82) -/

def pdMode (d : List Byte) : Nat := byteField d 0 1 % 16
def pdWide (d : List Byte) : Bool := bitOf (byteField d 0 1) 4
def pdAccIn (d : List Byte) : Nat := bitsOf (byteField d 0 1) 5 2
def pdEnd (d : List Byte) : Bool := bitOf (byteField d 0 1) 7
def pdAccOut (d : List Byte) : Nat := byteField d 1 1 % 4
def pdFmt (d : List Byte) : Nat := bitsOf (byteField d 1 1) 2 2
def pdTailOp (d : List Byte) : Nat := byteField d 2 1 % 64
def pdTailLargest (d : List Byte) : Bool := bitOf (byteField d 2 1) 6
def pdTailInit (d : List Byte) : Bool := bitOf (byteField d 2 1) 7
def pdM (d : List Byte) : Nat := byteField d 3 1 % 128
def pdT (d : List Byte) : Nat := byteField d 4 2 % 1024
def pdBudget (d : List Byte) : Nat := byteField d 6 2
/-- A lane-store field: bytes `o` and `o + 1`, bits [14:0]. -/
def pdUnit (d : List Byte) (o : Nat) : Nat := byteField d o 2 % 32768
def pdOpBase (d : List Byte) : Nat := pdUnit d 8
def pdOpRow (d : List Byte) : Nat := pdUnit d 10
def pdOpTile (d : List Byte) : Nat := pdUnit d 12
def pdWtBase (d : List Byte) : Nat := pdUnit d 14
def pdWtTile (d : List Byte) : Nat := pdUnit d 16
def pdLoad (d : List Byte) : Nat := pdUnit d 18
def pdStore (d : List Byte) : Nat := pdUnit d 20
def pdOut (d : List Byte) : Nat := pdUnit d 22
def pdOutRow (d : List Byte) : Nat := pdUnit d 24
def pdRescale (d : List Byte) : Nat := pdUnit d 26
def pdCeil (d : List Byte) : Nat := byteField d 28 1
def pdTailK (d : List Byte) : Nat := byteField d 29 1
def pdGroups (d : List Byte) : Nat := byteField d 30 2
def pdRerunSrc (d : List Byte) : Nat := byteField d 32 4 % 2 ^ 18
def pdRerun (d : List Byte) : Bool := bitOf (byteField d 32 4) 31
def pdArg0 (d : List Byte) : Nat := byteField d 36 4
def pdArg1 (d : List Byte) : Nat := byteField d 40 4
def pdDest (d : List Byte) : Nat := byteField d 44 4 % 2 ^ 18
def pdBound (d : List Byte) : Nat := byteField d 48 2 % 2048
def pdPassId (d : List Byte) : Nat := byteField d 50 2

/-! ## Pass geometry -/

/-- Front feed cycles (R64). -/
def feedOf (mode : Nat) : Nat := [16, 12, 16, 16, 8, 4].getD mode 16
/-- Tile size in 8 B units (R64). -/
def tileUnits (mode : Nat) : Nat := [64, 48, 128, 64, 32, 16].getD mode 64
/-- Operand block in 8 B units (R81). -/
def blockUnits (mode : Nat) : Nat := [8, 8, 8, 2, 1, 1].getD mode 8

/-- Operand rows of a sub-tile (R80). -/
def rowsC (wide : Bool) (m : Nat) : Nat := if wide then 2 * m else m
/-- Sub-tiles of a pass: two for each W8 tile (R66, R80). -/
def subTiles (d : List Byte) : Nat := if pdMode d = 2 then 2 * pdT d else pdT d
/-- The operand slots L of a pass run with `m` rows, wide or not (R80). -/
def slotsOf (d : List Byte) (wide : Bool) (m : Nat) : Nat := subTiles d * max (rowsC wide m) (feedOf (pdMode d))
/-- The accumulator turnover (R61). -/
def turnover (m : Nat) : Nat := 7 - m
/-- The span (R51). -/
def spanOf (d : List Byte) (wide : Bool) (m : Nat) : Nat := slotsOf d wide m + turnover m + 38
/-- The row ranges of a wide re-run: first row and rows (R144). -/
def wideParts (m : Nat) : List (Nat × Nat) := if m > 32 then [(0, 32), (32, m - 32)] else [(0, m)]

/-- Bytes of one converted row in the lane store (R86); 16 channels of 8 B in FP64 mode. -/
def outRowUnits (d : List Byte) : Nat := if pdFmt d = 2 then 16 else 8

/-- The whole platform extents a pass with ACC_OUT = 2 writes from TAIL_DEST and reads: (64 B unit, bytes) (R653). -/
def tailExtents (d : List Byte) : (Nat × Nat) × List (Nat × Nat) :=
  let m := pdM d
  let k := pdTailK d + 1
  let a0 := pdArg0 d
  let a1 := pdArg1 d
  let op := pdTailOp d
  if op = 1 ∨ op = 2 then ((pdDest d, 64 * m), [(a0, 64 * m)])
  else if op = 3 ∨ op = 4 then ((pdDest d, 64 * m), [])
  else if op = 5 then ((pdDest d, 64 * m), [(a0, 4 * m)])
  else if op = 6 then ((pdDest d, 8 * m), [])
  else if op = 7 then ((pdDest d, 4 * m), [])
  else if op = 8 then ((pdDest d, 64 * m), [(a0, 4 * m), (a1, 64)])
  else if op = 0x11 then ((pdDest d, 256 * k), [(a0, 4 * m)])
  else if op = 0x13 then ((pdDest d, 16384 + 4096 * 2 ^ pdTailK d * 4 + 4 + 8 * a1), [(a0, 8 * a1)])
  else if op = 0x14 then ((pdDest d, 8 * m * k), [])
  else ((pdDest d, 256 * k), [])

/-! ## Copy descriptors (R251) -/

def cdSrc (d : List Byte) : Nat := byteField d 0 1 % 8
def cdDst (d : List Byte) : Nat := bitsOf (byteField d 0 1) 3 3
def cdAlign (d : List Byte) : Bool := bitOf (byteField d 1 1) 0
def cdWide (d : List Byte) : Bool := bitOf (byteField d 1 1) 1
def cdAdvance (d : List Byte) : Bool := bitOf (byteField d 1 1) 2
def cdCache (d : List Byte) : Bool := bitOf (byteField d 1 1) 3
def cdRemote (d : List Byte) : Bool := bitOf (byteField d 1 1) 4
def cdGroup (d : List Byte) : Nat := byteField d 2 1 % 16
def cdTake (d : List Byte) : Nat := bitsOf (byteField d 2 1) 4 4
def cdCeil (d : List Byte) : Nat := byteField d 3 1
def cdLen (d : List Byte) : Nat := byteField d 4 4
def cdSrcOff (d : List Byte) : Nat := byteField d 8 8
def cdDstOff (d : List Byte) : Nat := byteField d 16 8
def cdSrcBuf (d : List Byte) : Nat := byteField d 24 1 % 16
def cdDstBuf (d : List Byte) : Nat := bitsOf (byteField d 24 1) 4 4
def cdRoute (d : List Byte) : Nat := byteField d 25 1 % 64
def cdPref (d : List Byte) : Nat := byteField d 26 1 % 8

/-- The source, or the destination, of a copy with REMOTE is the platform of the station at its route's far endpoint (R252): the one
platform side it has; of two, the side at the endpoint that the route comes from or goes to (DEDUCED, log entry 33). -/
def cdFarSrc (d : List Byte) (r : Option Route) : Bool :=
  cdRemote d && cdSrc d = 1 && (cdDst d != 1 || r.any (fun r => r.src / 4096 = 1))
def cdFarDst (d : List Byte) (r : Option Route) : Bool :=
  cdRemote d && cdDst d = 1 && (cdSrc d != 1 || !r.any (fun r => r.src / 4096 = 1))

/-- Bytes written at the destination (R255). -/
def cdDstLen (d : List Byte) : Nat := if cdWide d then 2 * cdLen d else cdLen d

/-! ## STREAM (R170) -/

/-- A stream entry. -/
structure StreamE where
  pref : Nat
  buf : Nat
  depth : Nat
  route : Nat
  base : Nat
  limit : Nat
  stride : Int
deriving DecidableEq, Repr

/-- The entries of a STREAM body. -/
def streamsOf (b : List Byte) : List StreamE :=
  (List.range (byteField b 0 1)).map (fun i =>
    let o := 16 + 32 * i
    { pref := byteField b o 1 % 8, buf := byteField b (o + 1) 1 % 16, depth := byteField b (o + 2) 1 % 128,
      route := byteField b (o + 3) 1 % 64, base := byteField b (o + 8) 8, limit := byteField b (o + 16) 8,
      stride := signed 32 (byteField b (o + 24) 4) })

/-- Platform units of 64 B below the stream rings (R260). -/
def ringFloor (station stream : List Byte) : Nat :=
  1024 * (stPlatform station - ((streamsOf stream).map (·.depth)).sum)

/-! ## TABLE, WINDOW, BOUND, PARAM, SEARCHK (R171 to R177) -/

def tbLayers (b : List Byte) : Nat := byteField b 0 2
def tbTables (b : List Byte) : Nat := byteField b 2 2
def tbData (b : List Byte) : Nat := byteField b 4 4
def tbCeil (b : List Byte) (n : Nat) : Nat := byteField b (16 + n) 1
/-- Where the directory begins: the ceiling list is padded to 16 bytes. -/
def tbDir (b : List Byte) : Nat := 16 + 16 * ceilDiv (tbLayers b) 16
def tbChannels (b : List Byte) (i : Nat) : Nat := byteField b (tbDir b + 16 * i) 4
def tbHome (b : List Byte) (i : Nat) : Nat := byteField b (tbDir b + 16 * i + 4) 1
def tbBuf (b : List Byte) (i : Nat) : Nat := byteField b (tbDir b + 16 * i + 5) 1
def tbLoc (b : List Byte) (i : Nat) : Nat := byteField b (tbDir b + 16 * i + 8) 8
/-- The data area. -/
def tbArea (b : List Byte) : List Byte := b.drop (tbData b)

def wnLayers (b : List Byte) : Nat := byteField b 0 2
def wnPlace (b : List Byte) : Nat := byteField b 4 4
def wnBuf (b : List Byte) : Nat := byteField b 8 1 % 16
def wnOff (b : List Byte) (n : Nat) : Nat := byteField b (32 + 16 * n) 8
def wnPages (b : List Byte) (n : Nat) : Nat := byteField b (32 + 16 * n + 8) 4

def bdRun (b : List Byte) : Nat := byteField b 0 8
def bdSolo (b : List Byte) : Nat := byteField b 8 8
def bdPass (b : List Byte) : Nat := byteField b 16 8
def bdRerun (b : List Byte) : Nat := byteField b 24 8
def bdXings (b : List Byte) : Nat := byteField b 32 4
def bdBridges (b : List Byte) : Nat := byteField b 36 4
def bdDram (b : List Byte) : Nat := byteField b 40 4
def bdFlash (b : List Byte) : Nat := byteField b 44 4
def bdAllow (b : List Byte) : Nat := byteField b 48 1 % 16
def bdSpan (b : List Byte) : Nat := byteField b 50 2

def paBatching (b : List Byte) : Bool := bitOf (byteField b 0 1) 0
def paBuffers (b : List Byte) : Nat := byteField b 1 1
def paScalars (b : List Byte) : Nat := byteField b 2 1
def paRowCap (b : List Byte) : Nat := byteField b 4 2
def paTarget (b : List Byte) : Nat := byteField b 6 2
def paWait (b : List Byte) : Nat := byteField b 8 2
def paWeight (b : List Byte) : Nat := byteField b 10 2
def paScratch (b : List Byte) : Nat := byteField b 16 8
def paKind (b : List Byte) (i : Nat) : Nat := byteField b (32 + 16 * i) 1 % 4
def paWritable (b : List Byte) (i : Nat) : Bool := bitOf (byteField b (32 + 16 * i + 1) 1) 0
def paMin (b : List Byte) (i : Nat) : Nat := byteField b (32 + 16 * i + 8) 8
def paScalar (b : List Byte) (i : Nat) : Nat := byteField b (32 + 16 * paBuffers b + 8 * i) 8

def skMetric (b : List Byte) : Nat := byteField b 0 1
def skFmt (b : List Byte) : Nat := byteField b 1 1
def skDims (b : List Byte) : Nat := byteField b 2 2
def skCode (b : List Byte) : Nat := byteField b 4 1
def skDegree (b : List Byte) : Nat := byteField b 5 1
def skBeam (b : List Byte) : Nat := byteField b 6 2
def skEffort (b : List Byte) : Nat := byteField b 8 4
def skWiden (b : List Byte) : Nat := byteField b 12 1

/-! ## SCANPROG (R178, R360) -/

def spFormat (b : List Byte) : Nat := byteField b 0 1
def spCount (b : List Byte) : Nat := byteField b 2 2
def spRecord (b : List Byte) : Nat := byteField b 4 4
def spInstrs (b : List Byte) : List (List Byte) := (List.range (spCount b)).map (fun i => (b.drop (16 + 8 * i)).take 8)

/-! ## Images -/

/-- An image's records. -/
def Image.recs (im : Image) : List TRec := ttRecs im.bytes

/-- The group-relative number of a station (R182, R195); every station of a base image is 0. -/
def Image.rel (im : Image) (st : Nat) : Nat :=
  if ttBase im.bytes then 0 else (im.places.map (·.station)).idxOf st

/-- The stations of an image, and their mask. -/
def Image.stations (im : Image) : List Nat := im.places.map (·.station)
def maskOf (sts : List Nat) : Nat := (sts.map (fun s => 2 ^ s)).sum

/-- A per-station record's body for a physical station. -/
def Image.stnRec (im : Image) (st typ row : Nat) : List Byte := recBody im.recs typ (im.rel st) row

/-- A group-wide record's body. -/
def Image.group (im : Image) (typ : Nat) : List Byte := groupBody im.recs typ

/-- The place of an image on a station. -/
def Image.at_ (im : Image) (st : Nat) : StnImage :=
  (im.places.find? (fun p => p.station = st)).getD ⟨st, 0, [], 0, 0⟩

/-- A lane-store unit as the image lies on a station (R183). -/
def StnImage.unit (p : StnImage) (u : Nat) : Nat := u + p.offs.getD (u / 4096) 0

end Sys2Proof.Machine
end

