-- ==== Sys2Proof/Machine/ScanProg.lean ====
section
/-! DEFINITION. A scan's predicate program as words: the instruction fields and the validity rules of R360 to R364. -/

namespace Sys2Proof.Machine

def siOpc (i : List Byte) : Nat := byteField i 0 1
def siD (i : List Byte) : Nat := byteField i 1 1
def siA (i : List Byte) : Nat := byteField i 2 1
def siB (i : List Byte) : Nat := byteField i 3 1
def siImm (i : List Byte) : Nat := byteField i 4 4

/-- One instruction is well formed: known opcode, indices in range, reserved fields and codes 0 (R362, R364). In TRED and
TCNT byte B names the register of the count, and its low four bits are the type code (log entry 20). -/
def siOk (i : List Byte) : Bool :=
  let d := siD i
  let a := siA i
  let b := siB i
  let imm := siImm i
  let o := siOpc i
  if o = 0x01 then d < 32 && a = 0 && b ≤ 10
  else if o = 0x02 then d < 32 && a = 0 && b = 0 && imm < 32
  else if o = 0x03 then d < 32 && a = 0 && b = 0
  else if o = 0x04 ∨ o = 0x05 then d < 32 && a = 0 && b = 0 && imm = 0
  else if (0x08 ≤ o ∧ o ≤ 0x0D) ∨ (0x10 ≤ o ∧ o ≤ 0x14) then d < 32 && a < 32 && b < 32 && imm = 0
  else if o = 0x15 ∨ o = 0x16 then d < 32 && a < 32 && b = 0 && imm = 0
  else if 0x20 ≤ o ∧ o ≤ 0x22 then d < 8 && a < 32 && b < 32 && imm < 6
  else if o = 0x24 ∨ o = 0x25 then d < 8 && a < 8 && b < 8 && imm = 0
  else if o = 0x26 then d < 8 && a < 8 && b = 0 && imm = 0
  else if o = 0x28 then d < 8 && a < 32 && 1 ≤ b && b ≤ 8
  else if o = 0x29 then d < 8 && a < 32 && b = 0 && imm = 0
  else if o = 0x30 then d < 32 && a < 32 && b < 32 && b % 16 ≤ 10 && imm < 2 ^ 18
  else if o = 0x31 then d < 32 && a < 32 && b < 32 && b % 16 ≤ 10 && imm < 2 ^ 16
  else if o = 0x34 then d < 32 && a < 32 && b < 32 && (b % 16 = 4 || b % 16 = 8)
  else if o = 0x38 ∨ o = 0x39 then d = 0 && a < 8 && b = 0 && imm = 0
  else if o = 0x3C then d = 0 && a = 0 && b < 2
  else if o = 0x3D then d = 0 && a < 32 && b < 2 && imm < 256
  else o = 0x3F && d = 0 && a = 0 && b = 0 && imm = 0

/-- The KEEPs of a program, as (k, order). -/
def siKeeps (is : List (List Byte)) : List (Nat × Nat) :=
  (is.filter (fun i => siOpc i = 0x3D)).map (fun i => (siImm i + 1, siB i))

/-- The register V[A] of a DIST holds a constant loaded by an LDI when the program runs straight through; its value. -/
def siConst (a : Nat) : List (List Byte) → Option Nat
  | [] => some 0
  | i :: before =>
    if siD i = a ∧ (siOpc i < 0x20 ∨ siOpc i = 0x30 ∨ siOpc i = 0x31 ∨ siOpc i = 0x34) then
      (if siOpc i = 0x03 then some (siImm i) else none)
    else siConst a before

/-- Every DIST whose count the program fixes reads at most 8,192 query bytes (R364); the argument is the instructions before,
last first. A count that comes from the data cannot be told here (log entry 20). -/
def siDistOk : List (List Byte) → List (List Byte) → Bool
  | _, [] => true
  | before, i :: rest =>
    (siOpc i != 0x34 || (match siConst (siA i) before with
      | some n => n * (if siB i % 16 = 4 then 1 else 2) ≤ 8192
      | none => true)) && siDistOk (i :: before) rest

/-- The first instruction that breaks a rule of R364, by index. -/
def scanProgBad (is : List (List Byte)) : Option Nat :=
  match is.findIdx? (fun i => !siOk i) with
  | some k => some k
  | none =>
    if is.length < 1 ∨ is.length > 1024 ∨ siOpc (is.getLastD []) ≠ 0x3F then some (is.length - 1)
    else if !(siKeeps is).all (fun k => k = (siKeeps is).headD (0, 0)) then is.findIdx? (fun i => siOpc i = 0x3D)
    else if siDistOk [] is then none else is.findIdx? (fun i => siOpc i = 0x34)

/-- The head of a program: its format and record length lie in their ranges (R178, R356). -/
def scanHeadOk (b : List Byte) : Bool :=
  let n := spRecord b
  b.length ≥ 16 + 8 * spCount b && zeroAt b 1 1 && zeroAt b 8 8 && 1 ≤ spCount b && spCount b ≤ 1024 &&
    (if spFormat b = 0 then 8 ≤ n && n ≤ 16777216 && n % 8 = 0
     else if spFormat b = 1 then n = 0
     else spFormat b = 2 && 64 ≤ n && n ≤ 16777216 && n % 64 = 0)

end Sys2Proof.Machine
end

