-- ==== Sys2Proof/Machine/Checks.lean ====
section
/-! DEFINITION. The stitch checker's checks that need only the container: 1 and 4 to 10 of R179 (R157 to R178, R84, R152,
R258, R653, R57). The order in which a check meets the fields is the container's (log entry 21). -/

namespace Sys2Proof.Machine

/-- A failed check (R179, R180): status, check, record index (0xFFFF for the header or trailer), byte offset in the record
body (0xFFFF if none). -/
structure CheckFail where
  status : Nat
  check : Nat
  record : Nat
  offset : Nat
deriving DecidableEq, Repr

/-- The first condition that does not hold, by the offset it stands at. -/
def firstWrong : List (Bool × Nat) → Option Nat
  | [] => none
  | (ok, o) :: cs => if ok then firstWrong cs else some o

/-- Conditions with their offsets. -/
def conds (cs : List (Bool × Nat)) : List (Bool × Nat) := cs

/-- The first record that a test finds wrong. -/
def firstRecord (status check : Nat) (test : TRec → Option Nat) : Nat → List TRec → Option CheckFail
  | _, [] => none
  | n, r :: rs =>
    match test r with
    | some o => some ⟨status, check, n, o⟩
    | none => firstRecord status check test (n + 1) rs

/-- The first failure of a list of checks. -/
def firstFail : List (Option CheckFail) → Option CheckFail
  | [] => none
  | some f :: _ => some f
  | none :: fs => firstFail fs

/-! ## Checks 1, 4 and 5 -/

/-- Check 1: the container fits (R157, R158); `n` is SRC_LEN. -/
def checkFits (bs : List Byte) (n : Nat) : Bool :=
  242 ≤ n && n ≤ 64 * 2 ^ 20 && bs.length = n && byteField bs 0 4 = 0x54545A41 && byteField bs 4 2 = 0x0100 &&
    byteField bs 6 2 = 128 && 242 + ttBodyLen bs = n && ttBodyLen bs % 16 = 0 && zeroAt bs 11 1 &&
    bitsOf (byteField bs 14 2) 4 12 = 0 && zeroAt bs 38 2 && zeroAt bs 112 16

/-- Check 3: the trailer is an Ed448 signature over the header under the context "AZTT" (R159). -/
def checkSigned (key bs : List Byte) : Bool :=
  edVerify key [0x41, 0x5A, 0x54, 0x54] (bs.take 128) ((bs.drop (128 + ttBodyLen bs)).take 114)

/-- Check 4: the digest of the body (R159). -/
def checkDigest (bs : List Byte) : Bool := shake256 64 (ttBody bs) = (bs.drop 48).take 64

/-! ## Check 6 -/

/-- The sort key of a record (R162). -/
def TRec.key (r : TRec) : Nat := (r.typ * 65536 + r.station) * 256 + r.row

/-- Keys rise from record to record; the first that does not, by index. -/
def orderBad : Nat → List TRec → Option Nat
  | n, a :: b :: rs => if a.key < b.key then orderBad (n + 1) (b :: rs) else some n
  | _, _ => none

/-- Check 6: the record walk holds (R161, R162); a RECORD_COUNT that does not match is the header's. -/
def checkWalk (bs : List Byte) : Option CheckFail :=
  let rs := ttRecs bs
  let used := (rs.map (fun r => 16 + r.body.length)).sum
  if used ≠ ttBodyLen bs then some ⟨0x4004, 6, rs.length, 0xFFFF⟩
  else if rs.length ≠ ttCount bs then some ⟨0x4004, 6, 0xFFFF, 0xFFFF⟩
  else
    match rs.findIdx? (fun r => r.typ = 0 || r.typ > 0x000B) with
    | some n => some ⟨0x4004, 6, n, 0xFFFF⟩
    | none => (orderBad 1 rs).map (fun n => ⟨0x4004, 6, n, 0xFFFF⟩)

/-! ## Check 7 -/

/-- Some bytes are 0 each, or the first that is not is wrong. -/
def bytesZero (b : List Byte) (n len : Nat) : List (Bool × Nat) :=
  [(zeroAt b n len, n + ((b.drop n).takeWhile (· = 0)).length)]

/-- Every byte from `n` on is a pad byte and 0, and the contents fit (R161). -/
def padOk (b : List Byte) (n : Nat) : List (Bool × Nat) := (n ≤ b.length, 0xFFFF) :: bytesZero b n b.length

/-- The record's target follows R162. -/
def targetOk (group : Nat) (r : TRec) : Bool :=
  if r.typ = 3 ∨ r.typ = 4 then r.station < group && r.row < 32
  else if r.typ ≤ 5 then r.station < group && r.row = 0xFF
  else r.station = 0xFFFF && r.row = 0xFF

/-- The rows that have a PASSLIST on a station, as a mask. -/
def passRows (rs : List TRec) (st : Nat) : Nat := ((rs.filter (fun r => r.typ = 3 && r.station = st)).map (fun r => 2 ^ r.row)).sum

/-- STATION (R163, R164). -/
def badStation (rs : List TRec) (r : TRec) : Option Nat :=
  let b := r.body
  let banks := (List.range 8).flatMap (fun k =>
    conds [(byteField b (4 * k) 1 < 4, 4 * k), (decide (stPages b k ≤ 8 ∧ (stPages b k = 0 ↔ stRole b k = 0)), 4 * k + 1),
     (zeroAt b (4 * k + 2) 2, 4 * k + 2)])
  firstWrong (padOk b 64 ++ banks ++ conds
    [((1 :: 2 :: 3 :: []).all (fun x => (List.range 8).any (fun k => stRole b k = x)), 0),
     (stPlatform b ≤ 256, 32), (zeroAt b 34 2, 34), (stRowMask b = passRows rs r.station, 36), (zeroAt b 40 24, 40)])

/-- An endpoint of a station's route (R166). -/
def endpointOk (group own ep : Nat) : Bool :=
  let c := ep / 4096
  let i := ep % 4096
  if c = 0 ∨ c = 3 ∨ c = 4 then i = 0
  else if c = 1 then i < group && i != own
  else if c = 2 ∨ c = 6 then i < group
  else c = 5 && i < 24

/-- ROUTE (R165, R166). -/
def badRoute (group : Nat) (r : TRec) : Option Nat :=
  let b := r.body
  let n := byteField b 0 2
  let es := routesOf b
  let entry := fun i =>
    let o := 16 + 8 * i
    let e := es.getD i ⟨0, false, 0, 0, 0⟩
    let again : Bool := ((es.take i).map (·.no)).contains e.no
    conds [(byteField b o 1 < 64 && !again, o), (byteField b (o + 1) 1 < 2, o + 1),
     (endpointOk group r.station e.src, o + 2),
     (endpointOk group r.station e.dst && ((e.src / 4096 = 0) != (e.dst / 4096 = 0)), o + 4),
     (1 ≤ e.credits && e.credits ≤ 32, o + 6), (zeroAt b (o + 7) 1, o + 7)]
  firstWrong (conds [(1 ≤ n && n ≤ 64, 0), (zeroAt b 2 14, 2)] ++ padOk b (16 + 8 * n) ++ (List.range n).flatMap entry)

/-- One loop lies inside another, which stands before it in the list (R168). -/
def loopIn (inner outer : LoopE) : Bool := outer.first ≤ inner.first && inner.last ≤ outer.last

/-- The loops around loop `k` among those before it. -/
def loopDepth (ls : List LoopE) (k : Nat) : Nat :=
  ((ls.take k).filter (fun o => loopIn (ls.getD k ⟨0, 0, 0, 0, 0⟩) o)).length

/-- Loop `k` follows R168 against the loops before it. -/
def loopOk (ls : List LoopE) (k : Nat) : Bool :=
  let l := ls.getD k ⟨0, 0, 0, 0, 0⟩
  (ls.take k).all (fun o =>
    (o.first < l.first || (o.first = l.first && l.last ≤ o.last)) && (loopIn l o || o.last < l.first)) && loopDepth ls k < 4

/-- PASSLIST and COPYPROG: the head, the loops and END (R167, R168). -/
def badList (isPass : Bool) (r : TRec) : Option Nat :=
  let b := r.body
  let n := listDescs b
  let ls := loopsOf isPass b
  let size := if isPass then 64 else 32
  let loop := fun k =>
    let o := 16 + 16 * k
    let l := ls.getD k ⟨0, 0, 0, 0, 0⟩
    conds [(decide (l.first ≤ l.last ∧ l.last < n), o), (decide (1 ≤ l.count), o + 4),
     (decide (-255 ≤ l.cstep ∧ l.cstep ≤ 255), if isPass then o + 8 else o + 14), (loopOk ls k, o)]
  let ends := if isPass then
      (List.range n).map (fun i => (pdEnd (descAt 64 b i) == (i + 1 == n), 16 + 16 * listLoops b + 64 * i))
    else []
  firstWrong (conds [(decide (1 ≤ n ∧ n ≤ if isPass then 2048 else 4096), 0), (decide (listLoops b ≤ 64), 2), (zeroAt b 4 12, 4)] ++
    padOk b (16 + 16 * listLoops b + size * n) ++ (List.range ls.length).flatMap loop ++ ends)

/-- STREAM (R170). -/
def badStream (r : TRec) : Option Nat :=
  let b := r.body
  let n := byteField b 0 1
  let es := streamsOf b
  let entry := fun i =>
    let o := 16 + 32 * i
    let e := es.getD i ⟨0, 0, 0, 0, 0, 0, 0⟩
    conds [(byteField b o 1 < 8 && !(((es.take i).map (·.pref)).contains e.pref), o), (byteField b (o + 1) 1 < 16, o + 1),
     (1 ≤ byteField b (o + 2) 1 && byteField b (o + 2) 1 ≤ 64, o + 2), (byteField b (o + 3) 1 < 64, o + 3),
     (zeroAt b (o + 4) 4, o + 4), (e.base % 65536 = 0, o + 8), (e.limit % 65536 = 0, o + 16), (decide (e.stride ≠ 0), o + 24),
     (zeroAt b (o + 28) 4, o + 28)]
  firstWrong (conds [(1 ≤ n && n ≤ 8, 0), (zeroAt b 1 15, 1)] ++ padOk b (16 + 32 * n) ++ (List.range n).flatMap entry)

/-- Where a TABLE record's contents end: after its last HOME 0 table, or where its data area begins (R161, R171). -/
def tableEnd (b : List Byte) : Nat :=
  ((List.range (tbTables b)).map (fun i => if tbHome b i = 0 then tbData b + tbLoc b i + 4 * tbChannels b i else 0)).foldl max (tbData b)

/-- TABLE (R171). -/
def badTable (r : TRec) : Option Nat :=
  let b := r.body
  let n := tbLayers b
  let t := tbTables b
  let dirEnd := tbDir b + 16 * t
  let entry := fun i =>
    let o := tbDir b + 16 * i
    let home := tbHome b i
    conds [(tbChannels b i % 32 = 0 && 32 ≤ tbChannels b i, o), (home ≤ 1, o + 4),
     (if home = 1 then tbBuf b i < 16 else tbBuf b i = 0, o + 5), (zeroAt b (o + 6) 2, o + 6),
     (if home = 1 then tbLoc b i % 64 = 0
      else tbLoc b i % 128 = 0 && tbLoc b i + 4 * tbChannels b i ≤ b.length - tbData b, o + 8)]
  firstWrong (conds [(1 ≤ n && n ≤ 256, 0), (t ≤ 4096, 2),
      (tbData b % 16 = 0 && dirEnd ≤ tbData b && tbData b ≤ b.length, 4), (zeroAt b 8 8, 8)] ++
    conds ((List.range n).map (fun i => (decide (1 ≤ tbCeil b i), 16 + i))) ++ conds [(zeroAt b (16 + n) (tbDir b - 16 - n), 16 + n)] ++
    (List.range t).flatMap entry ++ conds [(zeroAt b dirEnd (tbData b - dirEnd), dirEnd)] ++
    padOk b (tableEnd b))

/-- WINDOW (R173). -/
def badWindow (r : TRec) : Option Nat :=
  let b := r.body
  let n := wnLayers b
  firstWrong (conds [(1 ≤ n && n ≤ 4096, 0), (zeroAt b 2 2, 2), (byteField b 8 1 < 16, 8), (zeroAt b 9 23, 9)] ++
    padOk b (32 + 16 * n) ++ (List.range n).flatMap (fun i =>
      conds [(wnOff b i % 65536 = 0, 32 + 16 * i), (1 ≤ wnPages b i && wnPages b i ≤ wnPlace b, 40 + 16 * i),
       (zeroAt b (44 + 16 * i) 4, 44 + 16 * i)]))

/-- BOUND (R174). -/
def badBound (runCyc : Nat) (r : TRec) : Option Nat :=
  let b := r.body
  firstWrong (padOk b 64 ++ conds [(bdRun b = runCyc, 0), (1 ≤ bdSolo b && bdSolo b ≤ bdRun b, 8), (byteField b 48 1 < 16, 48),
    (zeroAt b 49 1, 49), (zeroAt b 52 12, 52)])

/-- PARAM (R175). -/
def badParam (r : TRec) : Option Nat :=
  let b := r.body
  let batching := paBatching b
  let decl := fun i =>
    let o := 32 + 16 * i
    conds [(byteField b o 1 ≤ 2, o), (byteField b (o + 1) 1 ≤ 1, o + 1), (zeroAt b (o + 2) 6, o + 2)]
  firstWrong (conds [(byteField b 0 1 ≤ 1, 0), (paBuffers b ≤ 16, 1), (paScalars b ≤ 32, 2), (zeroAt b 3 1, 3),
      (paRowCap b ≤ 4096 && (!batching || 1 ≤ paRowCap b), 4),
      (if batching then 1 ≤ paTarget b && paTarget b ≤ paRowCap b else paTarget b = 0, 6),
      (1 ≤ paWeight b && paWeight b ≤ 1023, 10), (zeroAt b 12 4, 12), (paScratch b % 65536 = 0, 16), (zeroAt b 24 8, 24)] ++
    padOk b (32 + 16 * paBuffers b + 8 * paScalars b) ++ (List.range (paBuffers b)).flatMap decl)

/-- SEARCHK (R177). -/
def badSearchk (base : Bool) (r : TRec) : Option Nat :=
  let b := r.body
  let own := if base then bytesZero b 0 6 ++ bytesZero b 13 4
    else conds [(skMetric b ≤ 1, 0), (skFmt b ≤ 1, 1), (32 ≤ skDims b && skDims b ≤ 4096 && skDims b % 32 = 0, 2),
      (8 ≤ skCode b && skCode b ≤ 248 && skCode b % 8 = 0, 4), (8 ≤ skDegree b && skDegree b ≤ 64, 5)]
  firstWrong (padOk b 64 ++ own ++ conds [(16 ≤ skBeam b && skBeam b ≤ 1024, 6), (1 ≤ skEffort b, 8),
    (1 ≤ skWiden b && skWiden b ≤ 4, 12), (zeroAt b 17 47, 17)])

/-- SCANPROG's head (R178). -/
def badScanHead (r : TRec) : Option Nat :=
  let b := r.body
  let n := spRecord b
  firstWrong (conds [(spFormat b ≤ 2, 0), (zeroAt b 1 1, 1), (1 ≤ spCount b && spCount b ≤ 1024, 2),
      ((if spFormat b = 0 then 8 ≤ n && n ≤ 16777216 && n % 8 = 0 else if spFormat b = 1 then n = 0
        else 64 ≤ n && n ≤ 16777216 && n % 64 = 0), 4), (zeroAt b 8 8, 8)] ++ padOk b (16 + 8 * spCount b))

/-- One record's contents. -/
def badRecord (bs : List Byte) (rs : List TRec) (r : TRec) : Option Nat :=
  if r.flags ≠ 0 ∨ !zeroAt r.spare 0 5 ∨ !targetOk (ttGroup bs) r then some 0xFFFF
  else if r.typ = 1 then badStation rs r
  else if r.typ = 2 then badRoute (ttGroup bs) r
  else if r.typ = 3 then badList true r
  else if r.typ = 4 then badList false r
  else if r.typ = 5 then badStream r
  else if r.typ = 6 then badTable r
  else if r.typ = 7 then badWindow r
  else if r.typ = 8 then badBound (ttRunCyc bs) r
  else if r.typ = 9 then badParam r
  else if r.typ = 10 then badSearchk (ttBase bs) r
  else badScanHead r

/-- The counts of R162: one STATION and one ROUTE for each station, one BOUND and one PARAM. -/
def countsOk (bs : List Byte) (rs : List TRec) : Bool :=
  let n := fun t => (rs.filter (fun r => r.typ = t)).length
  n 1 = ttGroup bs && n 2 = ttGroup bs && n 8 = 1 && n 9 = 1

/-- Check 7: record contents hold. -/
def checkContents (bs : List Byte) : Option CheckFail :=
  let rs := ttRecs bs
  let g := ttGroup bs
  if !(1 ≤ g && g ≤ 64 && g ≤ 16 * ttDies bs && (!ttBase bs || g = 1)) then some ⟨0x4006, 7, 0xFFFF, 0xFFFF⟩
  else
    match firstRecord 0x4006 7 (badRecord bs rs) 0 rs with
    | some f => some f
    | none => if countsOk bs rs then none else some ⟨0x4006, 7, 0xFFFF, 0xFFFF⟩

/-! ## Check 8: pass descriptors (R84, R152, R164, R653) -/

/-- Units `u` to `u + n - 1` of the lane store lie in bank ranges of the STATION body whose roles pass the test (R164). -/
def inBanks (st : List Byte) (role : Nat → Bool) (u n : Nat) : Bool :=
  u + n ≤ 32768 && (List.range 8).all (fun k =>
    let lo := max u (4096 * k)
    let hi := min (u + n) (4096 * (k + 1))
    hi ≤ lo || (role (stRole st k) && hi ≤ 4096 * k + 512 * stPages st k))

def isWeight (r : Nat) : Bool := r = 1
def isOperand (r : Nat) : Bool := r = 2
def isResult (r : Nat) : Bool := r = 3
def isUsed (r : Nat) : Bool := r != 0

/-- The operand units a pass reads: (unit, units) for each tile and row (R81). -/
def operandWords (d : List Byte) : List (Nat × Nat) :=
  let n := if pdWide d then 16 else blockUnits (pdMode d)
  (List.range (pdT d)).flatMap (fun t => (List.range (pdM d)).map (fun r => (pdOpBase d + t * pdOpTile d + r * pdOpRow d, n)))

/-- The weight tiles a pass reads. -/
def weightWords (d : List Byte) : List (Nat × Nat) :=
  (List.range (pdT d)).map (fun t => (pdWtBase d + t * pdWtTile d, tileUnits (pdMode d)))

/-- The accumulator records at a base (R62, R69). -/
def recordWords (d : List Byte) (base : Nat) : List (Nat × Nat) :=
  (base, 17 * pdM d) :: (if pdWide d then [(base + 17 * 32, 17 * pdM d)] else [])

/-- The output rows a pass writes to the lane store. -/
def outWords (d : List Byte) : List (Nat × Nat) :=
  (List.range (pdM d)).map (fun r => (pdOut d + r * pdOutRow d, outRowUnits d))

/-- A list of word ranges lies in banks of a role. -/
def allIn (st : List Byte) (role : Nat → Bool) (ws : List (Nat × Nat)) : Bool := ws.all (fun w => inBanks st role w.1 w.2)

/-- A platform range of `n` bytes from unit `u` lies below a floor in units. -/
def belowFloor (floor u n : Nat) : Bool := 64 * u + n ≤ 64 * floor

/-- A pass descriptor (R84 but for BOUND_CYC, R152 but for spans, R172): the offset of the first field found wrong. -/
def badPass (st stream : List Byte) (layers : Nat) (ls : List LoopE) (i : Nat) (d : List Byte) : Option Nat :=
  let m := pdMode d
  let ao := pdAccOut d
  let op := pdTailOp d
  let floor := ringFloor st stream
  let ext := tailExtents d
  let arg := fun k => match ext.2[k]? with
    | some e => belowFloor floor e.1 e.2
    | none => true
  firstWrong [
    (m ≤ 5 && pdAccIn d ≤ 1 && (!pdWide d || m ≤ 2), 0),
    (ao ≤ 2 && pdFmt d ≤ 2 && byteField d 1 1 < 16 && !(pdFmt d = 1 && 3 ≤ m), 1),
    ((if ao = 2 then (1 ≤ op && op ≤ 8) || (0x10 ≤ op && op ≤ 0x14) else op = 0), 2),
    (1 ≤ pdM d && pdM d ≤ (if pdWide d then 32 else 64) && byteField d 3 1 < 128, 3),
    (1 ≤ pdT d && byteField d 4 2 < 1024, 4),
    (byteField d 8 2 < 32768 && byteField d 10 2 < 32768 && byteField d 12 2 < 32768 && allIn st isOperand (operandWords d), 8),
    (byteField d 14 2 < 32768 && byteField d 16 2 < 32768 && allIn st isWeight (weightWords d), 14),
    (byteField d 18 2 < 32768 && (pdAccIn d = 0 || allIn st isResult (recordWords d (pdLoad d))), 18),
    (byteField d 20 2 < 32768 && (ao != 0 || allIn st isResult (recordWords d (pdStore d))), 20),
    (byteField d 22 2 < 32768 && byteField d 24 2 < 32768 &&
      (ao != 1 || allIn st (if pdFmt d = 1 then isOperand else isResult) (outWords d)), 22),
    (byteField d 26 2 < 32768 && (ao = 0 || inBanks st isResult (pdRescale d) 16), 26),
    (decide (pdFmt d ≠ 1 ∨ (0 ≤ (pdCeil d : Int) + stepLow (·.cstep) ls i ∧ (pdCeil d : Int) + stepHigh (·.cstep) ls i < layers)), 28),
    (bitsOf (byteField d 32 4) 18 13 = 0 && (if pdRerun d then m ≤ 2 && !pdWide d && belowFloor floor (pdRerunSrc d) (64 * (pdT d * pdM d))
      else pdRerunSrc d = 0), 32),
    (ao != 2 || arg 0, 36), (ao != 2 || arg 1, 40),
    (byteField d 44 4 < 2 ^ 18 && (ao != 2 || belowFloor floor ext.1.1 ext.1.2), 44),
    (byteField d 48 2 < 2048, 48), (zeroAt d 52 12, 52)]

/-! ## Check 8: copy descriptors (R258) -/

/-- What a copy descriptor is checked against: the records, the station and its relative number. -/
structure CopyCtx where
  rs : List TRec
  own : Nat
deriving DecidableEq, Repr

def CopyCtx.station (c : CopyCtx) (i : Nat) : List Byte := recBody c.rs 1 i 0xFF
def CopyCtx.stream (c : CopyCtx) (i : Nat) : List Byte := recBody c.rs 5 i 0xFF
def CopyCtx.param (c : CopyCtx) : List Byte := groupBody c.rs 9
def CopyCtx.table (c : CopyCtx) : List Byte := groupBody c.rs 6
/-- The route a number names on the station. -/
def CopyCtx.route (c : CopyCtx) (no : Nat) : Option Route := (routesOf (recBody c.rs 2 c.own 0xFF)).find? (fun r => r.no = no)

/-- One side of a copy lies where R252 and R258 let it, over all iterations; `n` is its bytes. A stream's side counts 0 to 1,023 within
the head page. -/
def sideOk (c : CopyCtx) (ls : List LoopE) (i : Nat) (d : List Byte) (dst : Bool) : Bool :=
  let kind := if dst then cdDst d else cdSrc d
  let off := if dst then cdDstOff d else cdSrcOff d
  let buf := if dst then cdDstBuf d else cdSrcBuf d
  let n := if dst then cdDstLen d else cdLen d
  let rt := c.route (cdRoute d)
  let lo : Int := off + stepLow (·.step) ls i
  let hi : Int := off + stepHigh (·.step) ls i
  if kind = 0 then inBanks (c.station c.own) (if dst && cdAlign d then isOperand else isUsed) off (n / 8)
  else if kind = 1 then
    let st := if (if dst then cdFarDst d rt else cdFarSrc d rt) then ((rt.map (·.idx)).getD 0) else c.own
    belowFloor (ringFloor (c.station st) (c.stream st)) off n
  else if kind = 3 then decide (off ≤ 1023)
  else if (rt.map (·.cls)) = some 2 then
    decide (0 ≤ lo ∧ 64 * hi + n ≤ ((tbArea c.table).length : Int))
  else decide (0 ≤ lo ∧ 64 * hi + n ≤ (paMin c.param buf : Int))

/-- A copy descriptor (R258): the offset of the first field found wrong. -/
def badCopy (c : CopyCtx) (ls : List LoopE) (i : Nat) (d : List Byte) : Option Nat :=
  let sk := cdSrc d
  let dk := cdDst d
  let depot : Bool := sk = 2 || dk = 2
  let rt := c.route (cdRoute d)
  let layers := tbLayers c.table
  firstWrong [
    (sk ≤ 3 && dk ≤ 2 && byteField d 0 1 < 64 && !(sk = 0 && dk = 0), 0),
    (byteField d 1 1 < 32 && (!cdAlign d || dk = 0) && (!cdWide d || cdAlign d) && (!cdAdvance d || sk = 3) &&
      (!cdRemote d || ((sk = 1 || dk = 1) && rt.map (·.cls) = some 1)), 1),
    (decide (if cdAlign d then 0 ≤ (cdCeil d : Int) + stepLow (·.cstep) ls i ∧ (cdCeil d : Int) + stepHigh (·.cstep) ls i < layers
      else cdCeil d = 0), 3),
    (cdLen d % 64 = 0 && 64 ≤ cdLen d && cdLen d ≤ 16777216, 4),
    (byteField d 25 1 < 64 && (if depot || cdRemote d then rt.isSome else cdRoute d = 0) &&
      (!depot || rt.map (·.cls) = some 3 || (rt.map (·.cls) = some 2 && !cdCache d && dk != 2)), 25),
    (byteField d 26 1 < 8 && (if sk = 3 then ((streamsOf (c.stream c.own)).map (·.pref)).contains (cdPref d) else cdPref d = 0), 26),
    (zeroAt d 27 5, 27),
    ((sk != 2 || (if rt.map (·.cls) = some 2 then cdSrcBuf d = 0 else cdSrcBuf d < paBuffers c.param)) &&
      (dk != 2 || (cdDstBuf d < paBuffers c.param && paWritable c.param (cdDstBuf d))), 24),
    (sideOk c ls i d false, 8), (sideOk c ls i d true, 16)]

/-- The window layers that a copy's source range meets at given iterations: (first, last). -/
def layersMet (w : List Byte) (ls : List LoopE) (d : List Byte) (x : Nat × List Nat) : Option (Nat × Nat) :=
  let lo := 64 * ((cdSrcOff d : Int) + steppedBy (·.step) ls x.1 x.2).toNat
  let hit := (List.range (wnLayers w)).filter (fun n => lo < wnOff w n + 65536 * wnPages w n && wnOff w n < lo + cdLen d)
  match hit with
  | [] => none
  | n :: _ => some (n, hit.getLastD n)

/-- Layers are visited in non-decreasing order (R273): the first descriptor that goes back. A copy of the tables of a TABLE record, by
a route to a depot cache, reads no buffer. -/
def layerBack (c : CopyCtx) (w : List Byte) (ls : List LoopE) (b : List Byte) : Nat → List (Nat × List Nat) → Option Nat
  | _, [] => none
  | at_, x :: xs =>
    let d := descAt 32 b x.1
    if cdSrc d = 2 ∧ cdSrcBuf d = wnBuf w ∧ (c.route (cdRoute d)).map (·.cls) ≠ some 2 then
      match layersMet w ls d x with
      | none => layerBack c w ls b at_ xs
      | some (n, m) => if n < at_ then some x.1 else layerBack c w ls b m xs
    else layerBack c w ls b at_ xs

/-- The first descriptor of a list that a test finds wrong, as an offset in the record body. -/
def firstDesc (size : Nat) (b : List Byte) (test : Nat → List Byte → Option Nat) : Option Nat :=
  ((List.range (listDescs b)).filterMap (fun i =>
    (test i (descAt size b i)).map (fun o => 16 + 16 * listLoops b + size * i + o))).head?

/-- Check 8 on one record. -/
def badDescs (bs : List Byte) (rs : List TRec) (r : TRec) : Option Nat :=
  let c : CopyCtx := ⟨rs, r.station⟩
  let b := r.body
  let w := groupBody rs 7
  if r.typ = 3 then
    firstDesc 64 b (badPass (c.station r.station) (c.stream r.station) (tbLayers c.table) (loopsOf true b))
  else if r.typ = 4 then
    match firstDesc 32 b (badCopy c (loopsOf false b)) with
    | some o => some o
    | none => if w = [] then none
      else (layerBack c w (loopsOf false b) b 0 (fullOrder false b)).map (fun i => 16 + 16 * listLoops b + 32 * i + 8)
  else if r.typ = 5 then
    firstWrong ((streamsOf b).zipIdx.flatMap (fun e =>
      conds [(e.1.buf < paBuffers c.param, 16 + 32 * e.2 + 1), ((c.route e.1.route).isSome, 16 + 32 * e.2 + 3)]))
  else if r.typ = 6 then
    firstWrong ((List.range (tbTables b)).map (fun i =>
      (decide (tbHome b i = 0 ∨ tbBuf b i < paBuffers c.param), tbDir b + 16 * i + 5)))
  else if r.typ = 7 then firstWrong [(wnBuf b < paBuffers c.param, 8)]
  else if r.typ = 10 ∧ !ttBase bs then
    firstWrong ([13, 14, 15, 16].map (fun o => (decide (byteField b o 1 < paBuffers c.param), o)))
  else if r.typ = 11 then (scanProgBad (spInstrs b)).map (fun i => 16 + 8 * i)
  else none

/-- Check 8: descriptors hold. -/
def checkDescs (bs : List Byte) : Option CheckFail := firstRecord 0x4007 8 (badDescs bs (ttRecs bs)) 0 (ttRecs bs)

/-! ## Check 9 -/

/-- The spans of the wide passes of a re-run (R144). -/
def wideSpans (d : List Byte) : List Nat :=
  if pdRerun d then (wideParts (pdM d)).map (fun p => spanOf d true p.2) else []

/-- Spans of one PASSLIST (R52, R84, R152). -/
def badSpans (r : TRec) : Option Nat :=
  if r.typ = 3 then
    firstDesc 64 r.body (fun _ d =>
      let s := spanOf d (pdWide d) (pdM d)
      firstWrong [(s ≤ 1024, 0), (pdBound d = s, 48), ((wideSpans d).all (· ≤ 1024), 32)])
  else none

/-- The largest span of an image (R174). -/
def maxSpan (rs : List TRec) : Nat :=
  ((rs.filter (fun r => r.typ = 3)).flatMap (fun r => (List.range (listDescs r.body)).flatMap (fun i =>
    let d := descAt 64 r.body i
    spanOf d (pdWide d) (pdM d) :: wideSpans d))).foldl max 0

/-- The pass cycles of a PASSLIST's run, loops expanded (R174). -/
def passCyc (b : List Byte) : Nat :=
  ((List.range (listDescs b)).map (fun i => issuesOf (loopsOf true b) i * pdBound (descAt 64 b i))).sum

/-- Check 9: spans hold. -/
def checkSpans (bs : List Byte) : Option CheckFail :=
  let rs := ttRecs bs
  match firstRecord 0x4002 9 badSpans 0 rs with
  | some f => some f
  | none =>
    firstRecord 0x4002 9 (fun r => if r.typ = 8 then
        firstWrong [(bdSpan r.body = maxSpan rs, 50),
          (bdPass r.body = ((rs.filter (fun x => x.typ = 3)).map (fun x => passCyc x.body)).foldl max 0, 16),
          (bdPass r.body + bdRerun r.body ≤ bdRun r.body, 0)]
      else none) 0 rs

/-! ## Check 10 (R57) -/

/-- Two ranges meet. -/
def meet (a b : Nat × Nat) : Bool := a.1 < b.1 + b.2 && b.1 < a.1 + a.2

/-- The platform bytes a pass reads: its re-run's source and its lane-tail inputs (R152, R653). -/
def platReads (p : List Byte) : List (Nat × Nat) :=
  (if pdRerun p then [(64 * pdRerunSrc p, 64 * (pdT p * pdM p))] else []) ++
    (if pdAccOut p = 2 then (tailExtents p).2.map (fun e => (64 * e.1, e.2)) else [])

/-- A copy's writes meet what a pass of its own lane row reads: operands, weights and rescale entries, the records that a pass which may
re-run loads, or on the platform its re-run source and its lane-tail inputs (R57, R152, R653). -/
def copyHits (far : List Byte → Bool) (c p : List Byte) : Bool :=
  if cdDst c = 0 then
    let w := (cdDstOff c, cdDstLen c / 8)
    (operandWords p).any (meet w) || (weightWords p).any (meet w) || (pdAccOut p != 0 && meet w (pdRescale p, 16)) ||
      (pdRerun p && pdAccIn p = 1 && (recordWords p (pdLoad p)).any (meet w))
  else cdDst c = 1 && !far c && (platReads p).any (meet (64 * cdDstOff c, cdLen c))

/-- The cycles from a pass's issue to the earliest issue of the next one (R51). -/
def nextIssue (p : List Byte) : Nat := slotsOf p (pdWide p) (pdM p) + turnover (pdM p)

/-- A copy meets a pass that can run beside it: from the first pass that it does not wait for (R253) up to the first that waits for it.
A pass waits only for copies issued before it (R83), and passes overlap by 38 cyc (R51): a pass that can issue within 38 cyc of the
first one's issue, `at_` cycles after it, may have issued before the copy. -/
def copyClash (far : List Byte → Bool) (c : List Byte) : Nat → List (List Byte) → Bool
  | _, [] => false
  | at_, p :: ps => if bitOf (pdGroups p) (cdGroup c) ∧ 38 < at_ then false else copyHits far c p || copyClash far c (at_ + nextIssue p) ps

/-- The copies in issue order against the passes in issue order; `n` tokens have been taken. A copy that needs no token issues as the
run starts, before the feed of the first pass ends (R111). -/
def clashAt (far : List Byte → Bool) (passes : List (List Byte)) (b : List Byte) : Nat → List (Nat × List Nat) → Option Nat
  | _, [] => none
  | n, x :: xs =>
    let d := descAt 32 b x.1
    if copyClash far d (if n + cdTake d = 0 then 39 else 0) (passes.drop (n + cdTake d)) then some x.1
    else clashAt far passes b (n + cdTake d) xs

/-- The platform bytes that the passes of the group's station `st` read, those of one lane row left out. -/
def stationReads (rs : List TRec) (st row : Nat) : List (Nat × Nat) :=
  (rs.filter (fun r => r.typ = 3 && r.station = st && r.row != row)).flatMap (fun r =>
    (List.range (listDescs r.body)).flatMap (fun i => platReads (descAt 64 r.body i)))

/-- A copy of lane row `row` of station `own` writes platform bytes that passes of other lane rows read, or by REMOTE those of another
station: nothing orders it against them (R57, R152, R653). -/
def farClash (rs : List TRec) (own row : Nat) (d : List Byte) : Bool :=
  let c : CopyCtx := ⟨rs, own⟩
  let w := (64 * cdDstOff d, cdLen d)
  cdDst d = 1 && (if cdFarDst d (c.route (cdRoute d)) then (c.route (cdRoute d)).any (fun r => (stationReads rs r.idx 32).any (meet w))
    else (stationReads rs own row).any (meet w))

/-- Check 10: no copy can write what a concurrent pass reads. -/
def checkConflict (bs : List Byte) : Option CheckFail :=
  let rs := ttRecs bs
  firstRecord 0x4009 10 (fun r =>
    if r.typ = 4 then
      let pl := recBody rs 3 r.station r.row
      let passes := if pl = [] then [] else (fullOrder true pl).map (fun x => descAt 64 pl x.1)
      let c : CopyCtx := ⟨rs, r.station⟩
      let near := clashAt (fun d => cdFarDst d (c.route (cdRoute d))) passes r.body 0 (fullOrder false r.body)
      let far := (List.range (listDescs r.body)).find? (fun i => farClash rs r.station r.row (descAt 32 r.body i))
      (near.toList ++ far.toList).min?.map (fun i => 16 + 16 * listLoops r.body + 32 * i)
    else none) 0 rs

end Sys2Proof.Machine
end

