-- ==== Sys2Proof/Machine/Junctions.lean ====
section
/-! DEFINITION. Junction FIFOs (R204 to R215) and die bridges (R33 to R35): what one cycle of each does, and the way of an entry
through them. A cycle is one in which the writer writes or publishes at most one entry and the reader reads at most one; how the
cycles of two islands fall together is open (R201), and every order the model shows is one that R205 allows (log entry 49). -/

namespace Sys2Proof.Machine

/-! ## Pointers (R204) -/

/-- A 7-bit pointer in Gray code, and back. -/
def grayOf (n : Nat) : Nat := n ^^^ (n / 2)
def ofGray (g : Nat) : Nat := (List.range 7).foldl (fun a i => a ^^^ (g / 2 ^ i)) 0 % 128

/-- A pointer as it crosses to the other side: one bit of its Gray code changes at a step, so a synchroniser sees it old or new. -/
def crossed (p : Nat) : Nat := ofGray (grayOf p)

/-- Entries written, counted modulo 128 as the pointers are; the published pointer stands behind them while a packet is open. -/
def Junction.writePos (j : Junction) : Nat := (j.rptr + j.fifo.length) % 128

/-- The flags (R206): the writer's from its own pointer and the read pointer it sees, the reader's from its own and the write
pointer it sees. -/
def Junction.isFull (j : Junction) : Bool := (j.writePos + 128 - j.rSeen) % 128 ≥ 64
def Junction.isEmpty (j : Junction) : Bool := j.wSeen = j.rptr

/-! ## One cycle -/

/-- A route may write an entry: it has a free credit, and the FIFO room (R211). -/
def Junction.mayWrite (j : Junction) (e : JEntry) : Bool := !j.isFull && j.tags.count e.route < e.credits

/-- The entry goes into the FIFO behind the others. -/
def Junction.put (j : Junction) (e : JEntry) : Junction :=
  { j with fifo := j.fifo ++ [e], tags := j.tags ++ [e.route], lastRoute := e.route }

/-- What the writer takes next (R212): class-0 traffic and express routes first, the rest round-robin by route number; of one route
the oldest. -/
def Junction.pick (j : Junction) : Option (List JEntry) :=
  let can := j.ready.filter (fun p => (p.head?.map j.mayWrite).getD false)
  match can.find? (fun p => (p.head?.map (·.first)).getD false) with
  | some p => some p
  | none => ((List.range 64).map (fun i => (j.lastRoute + 1 + i) % 64)).findSome? (fun r =>
      can.find? (fun p => (p.head?.map (·.route)) = some r))

/-- The writer's cycle: it goes on with an open packet, else publishes one more entry of a closed one, else begins the next entry or
packet (R212, R215). -/
def Junction.writeCycle (j : Junction) : Junction :=
  match j.rest with
  | e :: es => if j.mayWrite e then { j.put e with rest := es } else j
  | [] =>
    if j.wptr ≠ j.writePos then { j with wptr := (j.wptr + 1) % 128 }
    else
      match j.pick with
      | some (e :: es) =>
        let k := { j.put e with ready := j.ready.erase (e :: es), rest := es }
        if es = [] then { k with wptr := (k.wptr + 1) % 128 } else k
      | _ => j

/-- The reader's cycle: a gated reader takes the oldest entry unless EMPTY reads 1 (R208, R209). -/
def Junction.readCycle (j : Junction) : Junction × Option JEntry :=
  match j.fifo with
  | e :: es => if j.isEmpty then (j, none) else ({ j with fifo := es, rptr := (j.rptr + 1) % 128, last := e.data }, some e)
  | [] => (j, none)

/-- The pointers reach the other sides; an entry seen freed gives its route's credit back (R211). -/
def Junction.sync (j : Junction) : Junction :=
  { j with wSeen := crossed j.wptr, rSeen := crossed j.rptr, tags := j.tags.drop ((j.rptr + 128 - j.rSeen) % 128) }

/-- A cycle of both sides, and the entry read. -/
def Junction.cycle (j : Junction) : Junction × Option JEntry :=
  let r := j.writeCycle.readCycle
  (r.1.sync, r.2)

/-- What a bridge sends next: a packet of class 0 first, else round-robin among the sending islands (R35). -/
def Bridge.pick (b : Bridge) : Option BPacket :=
  match b.queue.find? (·.class0) with
  | some p => some p
  | none => ((List.range 141).map (fun i => (b.last + 1 + i) % 141)).findSome? (fun n => b.queue.find? (fun p => p.sender = n))

/-- A turn of a bridge: the packet that has begun arrives, and the next one begins. -/
def Bridge.turn (b : Bridge) : Bridge × Option BPacket :=
  match b.pick with
  | some p => ({ queue := b.queue.erase p, begun := some p, last := p.sender }, b.begun)
  | none => ({ b with begun := none }, b.begun)

/-! ## The way through them -/

/-- The die of an island. -/
def islandDie (i : Nat) : Nat := if i = 140 then 0 else i / 35

def State.setJunctions (s : State) (x : Tbl Junction) : State := { s with junctions := x }
def State.setBridges (s : State) (x : Tbl Bridge) : State := { s with bridges := x }

/-- The junction FIFO from an island to another, and the bridge from a die to another. -/
def State.junction (s : State) (a b : Nat) : Junction := Tbl.look {} s.junctions (256 * a + b)
def State.setJunction (s : State) (a b : Nat) (x : Junction) : State := s.setJunctions (Tbl.put {} s.junctions (256 * a + b) x)
def State.bridge (s : State) (d e : Nat) : Bridge := Tbl.look {} s.bridges (4 * d + e)
def State.setBridge (s : State) (d e : Nat) (x : Bridge) : State := s.setBridges (Tbl.put {} s.bridges (4 * d + e) x)

/-- An entry or a packet is ready to be written at the writer side of a junction. -/
def State.offer (s : State) (a b : Nat) (es : List JEntry) : State :=
  s.setJunction a b { s.junction a b with ready := (s.junction a b).ready ++ [es] }

/-- A packet for the bridge between two dies (R34). -/
def State.bridgeOffer (s : State) (d e : Nat) (p : BPacket) : State :=
  s.setBridge d e { s.bridge d e with queue := (s.bridge d e).queue ++ [p] }

/-- An entry at an island goes on along its path: over a junction, or between depot caches over the bridge. -/
def State.goOn (at_ : Nat) (s : State) (e : JEntry) : State :=
  match e.path with
  | [] => s
  | c :: rest =>
    let next := { e with path := rest }
    if islandDie at_ = islandDie c then s.offer at_ c [next]
    else s.bridgeOffer (islandDie at_) (islandDie c) { sender := e.origin, class0 := e.first, bytes := 64, entries := [next] }

/-- Bytes between D0 and another die for a host command, in packets of 256 B; those of a class-0 command go first (R35). -/
def State.bridgeData (s : State) (d e sender : Nat) (class0 : Bool) (bytes : Nat) : State :=
  if d = e then s
  else (List.range (ceilDiv bytes 256)).foldl (fun (s : State) i =>
    s.bridgeOffer d e { sender := sender, class0 := class0, bytes := min 256 (bytes - 256 * i) }) s

/-- A cycle of one junction: an entry that is read goes on. -/
def State.junctionTurn (s : State) (key : Nat) : State :=
  let r := (Tbl.look {} s.junctions key).cycle
  let s1 := s.setJunctions (Tbl.put {} s.junctions key r.1)
  match r.2 with
  | some e => s1.goOn (key % 256) e
  | none => s1

/-- A turn of one bridge: what has arrived goes on from the far depot cache. -/
def State.bridgeTurn (s : State) (key : Nat) : State :=
  let r := (Tbl.look {} s.bridges key).turn
  let s1 := s.setBridges (Tbl.put {} s.bridges key r.1)
  match r.2 with
  | some p => p.entries.foldl (State.goOn (islandOfCache (key % 4))) s1
  | none => s1

/-- A cycle of every junction and a turn of every bridge that carries anything. -/
def State.traffic (s : State) : State :=
  let s1 := (s.junctions.map (·.1)).foldl State.junctionTurn s
  (s1.bridges.map (·.1)).foldl State.bridgeTurn s1

/-- Everything on its way. -/
def State.onTheWay (s : State) : List JEntry :=
  s.junctions.flatMap (fun j => j.2.ready.flatten ++ j.2.fifo ++ j.2.rest) ++
    s.bridges.flatMap (fun b => (b.2.queue ++ b.2.begun.toList).flatMap (·.entries))

/-- Cycles until nothing is on its way that `mine` names; the fuel bounds them. -/
def State.deliver (mine : JEntry → Bool) : Nat → State → State
  | 0, s => s
  | n + 1, s => if s.onTheWay.any mine then State.deliver mine n s.traffic else s

/-- What `mine` names has arrived: the time this takes has passed. -/
def State.arrived (s : State) (mine : JEntry → Bool) : State := State.deliver mine (24 * (s.onTheWay.length + 4)) s

/-- The 64 B entries that carry a byte string over a route. -/
def entriesOf (route credits : Nat) (bs : List Byte) : List JEntry :=
  (chunksOf 64 bs.length bs).map (fun b => { route := route, data := b, credits := credits })

/-- A packet of the module's memory-to-island traffic, as its entries (R215): its start and its end are marked. -/
def packetEntries (route credits : Nat) (bs : List Byte) : List JEntry :=
  let es := entriesOf route credits bs
  es.zipIdx.map (fun x => { x.1 with start := x.2 = 0, fin := x.2 + 1 = es.length })

/-- A packet crosses a junction: whole where it has at most 16 entries, else entry by entry, as it is assembled in memory at the
far side (R215, R216). -/
def State.crossPacket (s : State) (a b route credits : Nat) (bs : List Byte) : State :=
  let es := packetEntries route credits bs
  let s1 := if es.length ≤ 16 then s.offer a b es
    else es.foldl (fun (s : State) e => s.offer a b [{ e with start := false, fin := false }]) s
  let n := 24 * (es.length + 4)
  (List.range n).foldl (fun (s : State) _ => if (s.junction a b) = { (s.junction a b) with ready := [], fifo := [], rest := [] } then s
    else s.junctionTurn (256 * a + b)) s1

end Sys2Proof.Machine
end

