-- ==== Sys2Proof/Machine/FlashMap.lean ====
section
/-! DEFINITION. The flash translation layer's map: sections and their states (R469 to R475), spare blocks (R473, R474), the
map journal (R487 to R489), staging into logs (R476 to R480) and the start of a merge (R482, R483). -/

namespace Sys2Proof.Machine

/-! ## What write-back may take (R244, R480) -/

/-- Bits of the sub-blocks of page `p` that `n` bytes at `a` touch. -/
def subMask (p a n : Nat) : Nat :=
  ((List.range 16).filter (fun i => a < 65536 * p + 4096 * (i + 1) && 65536 * p + 4096 * i < a + n)).foldl
    (fun m i => m + 2 ^ i) 0

/-- Clear bits. -/
def clearBits (w n m : Nat) : Nat := (bitsSet w n).foldl (fun a i => if m.testBit i then a else a + 2 ^ i) 0

/-- Bits of a page's sub-blocks that an outstanding WRITE has written (R480). -/
def State.openMask (s : State) (p : Nat) : Nat :=
  ((List.range 16).filter (fun i => s.depot.layers.any (fun l => l.owner.isSome &&
    l.addr < 65536 * p + 4096 * (i + 1) && 65536 * p + 4096 * i < l.addr + l.bytes.length))).foldl (fun m i => m + 2 ^ i) 0

/-- LBAs of a page that write-back may take now: dirty, not handed over as they stand, and of no outstanding WRITE. -/
def State.takeable (s : State) (p : Nat) : List Nat :=
  (bitsSet 16 (clearBits 16 (clearBits 16 (s.page p).dirty (s.page p).writing) (s.openMask p))).map (fun i => 16 * p + i)

/-- Mark LBAs as handed to write-back. -/
def State.markWriting (s : State) (lbas : List Nat) : State :=
  lbas.foldl (fun s b =>
    let x := s.page (b / 16)
    s.setPage (b / 16) { x with writing := x.writing ||| 2 ^ (b % 16) }) s

/-! ## Sections -/

/-- A section as shipped: the last section of each group is its flush section, two sections are the journal pair, every
other is FREE (DESIGN CHOICE, log entry 3). -/
def secShipped (p : Nat) : Sec :=
  if p % 1368 = 1367 then { st := .flush } else if p = 1366 ∨ p = 34198 then { st := .journal } else {}

def State.sec (s : State) (p : Nat) : Sec := Tbl.look (secShipped p) s.flash.secs p
def State.putSec (s : State) (p : Nat) (x : Sec) : State :=
  s.setFlash { s.flash with secs := Tbl.put (secShipped p) s.flash.secs p x }
def State.lsec (s : State) (l : Nat) : LSec := Tbl.look {} s.flash.lsecs l
def State.setLsec (s : State) (l : Nat) (x : LSec) : State :=
  s.setFlash { s.flash with lsecs := Tbl.put {} s.flash.lsecs l x }
def State.punit (s : State) (u : Nat) : PUnit := Tbl.look {} s.flash.units u
def State.setPunit (s : State) (u : Nat) (x : PUnit) : State :=
  s.setFlash { s.flash with units := Tbl.put {} s.flash.units u x }
def State.fread (s : State) (i : Nat) : FRead := Tbl.look {} s.flash.reads i
def State.setFread (s : State) (i : Nat) (x : FRead) : State :=
  s.setFlash { s.flash with reads := Tbl.put {} s.flash.reads i x }

/-- The stripe group of a section, and the die unit 8c + p of slot k of a group (R469, R37). -/
def groupOf (p : Nat) : Nat := p / 1368
def dieOfSlot (g k : Nat) : Nat := 8 * (16 * (g / 8) + k) + g % 8

/-- The change a state makes to a count: 1 when `st` is the counted state. -/
def isSt (st t : SecSt) : Nat := bit (st = t)

/-- Put a section into a state, with the counts of FLS.GROUP (R475). -/
def State.setSecSt (s : State) (p : Nat) (st : SecSt) : State :=
  let old := (s.sec p).st
  let g := groupOf p
  let s1 := s.putSec p { s.sec p with st := st }
  let s2 := (s1.dip F.flsGroupFree g (isSt old .free)).bump F.flsGroupFree g (isSt st .free)
  let s3 := (s2.dip F.flsGroupData g (isSt old .data)).bump F.flsGroupData g (isSt st .data)
  s3.bump F.flsGroupRetired g (isSt st .retired)

/-! ## The journal (R487 to R489) -/

/-- Append a record: committed once both buffers hold it, which is at once (R487). -/
def State.journalRaw (s : State) (type key : Nat) (body : List Byte) : State :=
  let f := s.flash
  s.setFlash { f with
    seq := f.seq + 1
    journal := f.journal ++ [⟨type, f.seq + 1, key, body⟩]
    bufBytes := f.bufBytes + 28 + 4 * ceilDiv body.length 4 }

/-- The section state as a SECTION_STATE record holds it (R488; DESIGN CHOICE, log entry 15: the order of R475's table). -/
def secStCode : SecSt → Nat
  | .free => 0
  | .log => 1
  | .merging => 2
  | .data => 3
  | .journal => 4
  | .flush => 5
  | .erasing => 6
  | .suspended => 7
  | .retired => 8

/-- The lowest free unit id. -/
def State.freeUnit (s : State) : Nat := (Tbl.firstFrom {} (fun u : PUnit => !u.live) s.flash.units 0 (s.flash.units.length + 1)).getD 0

/-- Begin the program of a journal buffer's unit in a section. -/
def State.journalUnit (s : State) (p : Nat) : State :=
  s.setPunit s.freeUnit { live := true, sec := p, unit := (s.sec p).units, programming := true }

/-- FREE sections by (erase count, number) among those that pass `ok`, the best one (R482). -/
@[irreducible] def State.bestFree (s : State) (cands : List Nat) : Option Nat :=
  (cands.filter (fun p => (s.sec p).st = .free && !s.fbit F.flsGroupDegraded (groupOf p))).foldl
    (fun best p => match best with
      | none => some p
      | some b => if (s.sec p).erases < (s.sec b).erases then some p else some b) none

/-- The sections of a compute die, rising. -/
def secsOfDie (d : Nat) : List Nat := (List.range (24 * 1368)).map (fun i => 24 * 1368 * d + i)

/-- Places that the open scatter logs hold: the offsets of a checkpoint's maps part (R532, R533). -/
def State.scatterPlaces (s : State) : Nat :=
  (s.flash.lsecs.map (fun e => match e.2.scatter with
    | none => 0
    | some p => (e.2.smap.filter (fun m => m.2.1 = p)).length)).sum

/-- The maps part holds them (R533). -/
def State.mapsFit (s : State) : Bool := s.scatterPlaces ≤ 100663296

/-- Queue sector erases on both devices of the configuration store (R512, R521). -/
def State.eraseSectors (s : State) (n : Nat) : State :=
  let due := fun d => Tbl.look 0 s.cfs.erasesDue d + n
  s.setCfs { s.cfs with erasesDue := Tbl.put 0 (Tbl.put 0 s.cfs.erasesDue 0 (due 0)) 1 (due 1) }

/-- Sectors of a checkpoint slot (R519), and those a checkpoint needs (R532): its parts, whose scatter-log maps hold three offsets to a
word, and a sector each for the head and the commit record (DESIGN CHOICE, log entry 15). -/
def ckptSectors : Nat := 67584
def State.ckptNeeds (s : State) : Nat := ceilDiv (5299376 + 8 * ceilDiv s.scatterPlaces 3) 4096 + 2

/-- A checkpoint is written to the store at once where the maps fit, its sectors erased first, and else is due (R489, R532, R533). -/
def State.askCheckpoint (s : State) : State :=
  if s.mapsFit then ((s.setCfs { s.cfs with writes := s.cfs.writes ++ [.checkpoint (s.flash.ckptNo + 1) s.flash.seq] }).setFlash
    { s.flash with ckptDue := false }).eraseSectors s.ckptNeeds
  else s.setFlash { s.flash with ckptDue := true }

/-! ## Retirement and spares (R473, R474) -/

/-- Retire a section: its good blocks become spares and the reserve falls by 1 (R474, R508). -/
def State.retireRaw (s : State) (p cause : Nat) : State :=
  if (s.sec p).st = .retired then s
  else
    let g := groupOf p
    let good := (List.range 16).filter (fun k => !(s.sec p).badSlots.contains k)
    let s1 := (s.setSecSt p .retired).journalRaw 6 p (leBytes 1 255 ++ leBytes 1 cause)
    let s2 := good.foldl (fun s k => s.bump F.flsDieSpares (dieOfSlot g k) 1) s1
    let s3 := (s2.bump F.flsHealthRetired 0 1).dip F.flsHealthReserve 0 1
    if s3.fget F.flsHealthReserve 0 < 256 ∧ !s3.fbit F.flsHealthExhausted 0 then
      (s3.fset F.flsHealthExhausted 0 1).flag F.glbEventStatusMedia
    else s3

/-- The sections of a stripe group. -/
def secsOfGroup (g : Nat) : List Nat := (List.range 1368).map (fun i => 1368 * g + i)

/-- The lowest spare block of slot k in a group: a good block of a RETIRED section that no remap uses (R473). -/
def State.spareBlock (s : State) (g k : Nat) : Option Nat :=
  let used := (secsOfGroup g).flatMap (fun p => ((s.sec p).remaps.filter (fun r => r.1 = k)).map (·.2))
  ((secsOfGroup g).find? (fun p => (s.sec p).st = .retired && !(s.sec p).badSlots.contains k &&
    !used.contains (p % 1368))).map (· % 1368)

/-- The FREE section of a group with the highest erase count, other than `p` (R474). -/
def State.mostWorn (s : State) (g p : Nat) : Option Nat :=
  ((secsOfGroup g).filter (fun x => (s.sec x).st = .free && x != p)).foldl
    (fun best x => match best with
      | none => some x
      | some b => if (s.sec x).erases > (s.sec b).erases then some x else some b) none

/-- Remap slot k of a section being allocated; none when the group has no spare and no FREE section (R473, R474). -/
@[irreducible] def State.remapSlot (s : State) (p k : Nat) : Option State :=
  let g := groupOf p
  let s1 := match s.spareBlock g k with
    | some _ => s
    | none => match s.mostWorn g p with
      | some x => s.retireRaw x 3
      | none => s
  match s1.spareBlock g k with
  | none => none
  | some b =>
    let s2 := s1.putSec p { s1.sec p with
      remaps := (s1.sec p).remaps.filter (fun r => r.1 != k) ++ [(k, b)]
      badSlots := (s1.sec p).badSlots.filter (· != k) }
    some ((s2.dip F.flsDieSpares (dieOfSlot g k) 1).journalRaw 5 p (leBytes 1 k ++ leBytes 2 b))

/-- Remap every bad slot of a section, or say that one has no spare. -/
def State.remapAll (s : State) (p : Nat) : List Nat → Option State
  | [] => some s
  | k :: ks => match s.remapSlot p k with
    | none => none
    | some s1 => s1.remapAll p ks

/-- Allocate the best FREE section among some into a state, with its remaps; a section that cannot be remapped is retired and another is
tried (R473, R474). The fuel bounds the tries. -/
def State.allocAmong (s : State) (cands : State → List Nat) (st : SecSt) : Nat → Option (Nat × State)
  | 0 => none
  | fuel + 1 =>
    match s.bestFree (cands s) with
    | none => none
    | some p =>
      match s.remapAll p (s.sec p).badSlots with
      | none => (s.retireRaw p 3).allocAmong cands st fuel
      | some s1 => some (p, s1.setSecSt p st)

/-! ## Rolling over -/

/-- Roll the journal over to a new pair on two dies and ask for a checkpoint (R489). The pair is the best FREE section of
die 0 and of die 1 (DESIGN CHOICE, log entry 15). -/
def State.rollover (s : State) : State :=
  match s.allocAmong (fun _ => secsOfDie 0) .journal 64 with
  | none => s
  | some (a, s0) =>
    match s0.allocAmong (fun _ => secsOfDie 1) .journal 64 with
    | none => s
    | some (b, s1) =>
      let s2 := (s1.journalRaw 7 a (leBytes 1 4)).journalRaw 7 b (leBytes 1 4)
      let s3 := s2.setFlash { s2.flash with oldPair := s2.flash.oldPair ++ s2.flash.pair, pair := [a, b], pairBytes := 0 }
      s3.askCheckpoint

/-- Program the journal buffers once they hold a unit, and roll over a section that is 90% full (R487, R489). -/
def State.journalDrain (s : State) : State :=
  if s.flash.bufBytes < 2949120 then s
  else
    let s1 := s.setFlash { s.flash with bufBytes := s.flash.bufBytes - 2949120, pairBytes := s.flash.pairBytes + 2949120 }
    let s2 := s1.flash.pair.foldl State.journalUnit s1
    if s2.flash.pairBytes ≥ 2717908992 then s2.rollover else s2

/-- Commit a journal record (R487, R488). -/
def State.journal (s : State) (type key : Nat) (body : List Byte) : State := (s.journalRaw type key body).journalDrain

/-- Retire a section, and program the journal buffers where they are full. -/
def State.retireSec (s : State) (p cause : Nat) : State := (s.retireRaw p cause).journalDrain

/-- Enter a die block into the grown bad-block table (R485, R486). -/
def State.growBad (s : State) (p k cause : Nat) : State :=
  if (s.sec p).badSlots.contains k then s
  else
    let s1 := s.putSec p { s.sec p with badSlots := (s.sec p).badSlots ++ [k] }
    ((s1.bump F.flsDieGrownBad (dieOfSlot (groupOf p) k) 1).bump F.flsCtrCount 15 1).journal 6 p (leBytes 1 k ++ leBytes 1 cause)

/-- The FREE count of a channel group FG: its eight stripe groups. -/
def State.fgFree (s : State) (f : Nat) : Nat :=
  ((List.range 8).map (fun i => if s.fbit F.flsGroupDegraded (8 * f + i) then 0 else s.fget F.flsGroupFree (8 * f + i))).sum

/-- The channel group a new log or target of L is placed in (R482). -/
def State.placeGroup (s : State) (l : Nat) : Nat :=
  if s.fgFree (l % 12) ≥ 16 then l % 12
  else (List.range 12).foldl (fun best f => if s.fgFree f > s.fgFree best then f else best) 0

/-- The sections of a channel group. -/
def secsOfFg (f : Nat) : List Nat := (List.range (8 * 1368)).map (fun i => 8 * 1368 * f + i)

/-- Allocate a section for logical section L into a state, with its remaps; a section that cannot be remapped is retired
and another is tried (R473, R474, R482). The fuel bounds the tries. -/
def State.allocSec (s : State) (l : Nat) (st : SecSt) (fuel : Nat) : Option (Nat × State) :=
  match s.allocAmong (fun s => secsOfFg (s.placeGroup l)) st fuel with
  | none => none
  | some (p, s1) => some (p, (s1.putSec p { s1.sec p with lsec := l, inOrder := false, units := 0, relocate := false }).journalDrain)

/-! ## Merges (R482, R483) -/

/-- A merge of a logical section into a target begins: the data section and the logs are folded into it, its first unit is programmed,
and newer write-back goes to a new scatter log. -/
def State.mergeInto (s : State) (l p : Nat) (relocating : Bool) : State :=
  let x := s.lsec l
  let s1 := s.setLsec l { x with
    target := some p, scatter := none, relocating := relocating,
    folding := x.data.toList ++ x.inOrd.toList ++ x.scatter.toList }
  s1.setPunit s1.freeUnit { live := true, sec := p, lsec := l, unit := 0, merge := true, programming := true }

/-- Start a merge of a logical section, where a target is to be had. -/
def State.startMerge (s : State) (l : Nat) (relocating : Bool) : State :=
  if (s.lsec l).target.isSome then s
  else
    match s.allocSec l .merging 64 with
    | none => s
    | some (p, s1) => s1.mergeInto l p relocating

/-- The scatter log that holds the most LBAs, by its logical section (R482). -/
def State.fullestScatter (s : State) : Option Nat :=
  (s.flash.lsecs.filter (fun e => e.2.scatter.isSome && e.2.target.isNone)).foldl
    (fun best e => match best with
      | none => some e.1
      | some b => if (s.lsec b).smap.length < e.2.smap.length then some e.1 else some b) none

/-- A checkpoint that is due: it is written once the maps fit, and until then the fullest scatter log is merged first (R533). -/
def State.checkpointOn (s : State) : State :=
  if s.mapsFit then s.askCheckpoint
  else
    match s.fullestScatter with
    | some l => (s.setFlash { s.flash with ckptDue := true }).startMerge l false
    | none => s.setFlash { s.flash with ckptDue := true }

/-- The logical section whose in-order log has the highest committed unit (R482). -/
def State.furthestInOrder (s : State) : Option Nat :=
  (s.flash.lsecs.filter (fun e => e.2.inOrd.isSome && e.2.target.isNone)).foldl
    (fun best e => match best with
      | none => some e.1
      | some b => if (s.sec ((s.lsec b).inOrd.getD 0)).units < (s.sec (e.2.inOrd.getD 0)).units then some e.1 else some b)
    none

/-- Units of a section that are staged or in program. -/
def State.unitsOf (s : State) (p : Nat) : List (Nat × PUnit) := s.flash.units.filter (fun e => e.2.sec = p)

/-- The unit a log fills: those committed and those in program come before it. -/
def State.fillUnit (s : State) (p : Nat) : Nat :=
  (s.sec p).units + ((s.unitsOf p).filter (fun e => e.2.programming)).length

/-- Dirty LBAs of an in-order unit that its program takes from their frames (R477). -/
def State.unitDirty (s : State) (l u : Nat) : List Nat :=
  (List.range 45).flatMap (fun i => s.takeable (46080 * l + 45 * u + i))

/-- Begin the program of an in-order log's units up to `u`: those not staged are built from the current data, and every unit
takes the dirty sub-blocks of its frames (R477). The fuel counts the units. -/
def State.beginInOrder (s : State) (p l u : Nat) : Nat → State
  | 0 => s
  | fuel + 1 =>
    let v := s.fillUnit p
    if v > u ∨ v ≥ 1024 then s
    else
      let more := s.unitDirty l v
      let s0 := s.markWriting more
      let s1 := match (s0.unitsOf p).find? (fun e => e.2.unit = v) with
        | some (i, x) => s0.setPunit i { x with lbas := x.lbas ++ more.filter (fun b => !x.lbas.contains b), programming := true }
        | none => s0.setPunit s0.freeUnit
          { live := true, sec := p, lsec := l, unit := v, inOrder := true, lbas := more, programming := true }
      s1.beginInOrder p l u fuel

/-- Begin the program of a staged unit (R476). -/
def State.beginUnit (s : State) (i : Nat) : State :=
  let x := s.punit i
  if !x.live ∨ x.programming then s
  else if x.inOrder then s.beginInOrder x.sec x.lsec x.unit 1024
  else s.setPunit i { x with programming := true }

/-- Make room in the log pool: merge the fullest scatter log, or else complete the furthest in-order log (R482). -/
def State.reclaimLog (s : State) : State :=
  match s.fullestScatter with
  | some l => s.startMerge l false
  | none => match s.furthestInOrder with
    | some l => s.beginInOrder ((s.lsec l).inOrd.getD 0) l 1023 1024
    | none => s

/-- Log sections in use. -/
def State.logsInUse (s : State) : Nat := (s.flash.secs.filter (fun e => e.2.st = .log)).length

/-- Open a log for L (R475, R477, R478); where the pool of 1,024 is empty, room is made and L waits (R482). -/
def State.openLog (s : State) (l : Nat) (inOrder : Bool) : State :=
  if s.logsInUse ≥ 1024 then
    let s1 := s.reclaimLog
    s1.setLsec l { s1.lsec l with waiting := true }
  else
    match s.allocSec l .log 64 with
    | none => s.setLsec l { s.lsec l with waiting := true }
    | some (p, s1) =>
      let s2 := s1.putSec p { s1.sec p with inOrder := inOrder }
      let x := s2.lsec l
      let s3 := s2.setLsec l (if inOrder then { x with inOrd := some p } else { x with scatter := some p })
      s3.journal 2 p (leBytes 4 l ++ leBytes 1 (bit inOrder))

/-! ## Staging (R476 to R480) -/

/-- Stage LBAs together in a scatter log's unit (R478, R480); a full log starts a merge and a new log takes them. -/
def State.stageScatter (s : State) (l : Nat) (lbas : List Nat) : State :=
  if lbas = [] then s
  else
    let s0 := match (s.lsec l).scatter with
      | some p => if s.fillUnit p ≥ 1024 then (s.startMerge l false).openLog l false else s
      | none => s.openLog l false
    match (s0.lsec l).scatter with
    | none => s0
    | some p =>
      match (s0.unitsOf p).find? (fun e => !e.2.programming && e.2.lbas.length + lbas.length ≤ 720) with
      | some (i, x) =>
        let y := { x with lbas := x.lbas ++ lbas }
        s0.setPunit i { y with programming := y.lbas.length ≥ 720 }
      | none =>
        let s1 := ((s0.unitsOf p).filter (fun e => !e.2.programming)).foldl (fun s e => s.beginUnit e.1) s0
        let u : PUnit := { live := true, sec := p, lsec := l, unit := s1.fillUnit p, lbas := lbas }
        s1.setPunit s1.freeUnit { u with programming := lbas.length ≥ 720 }

/-- Stage one LBA in its in-order unit; the unit is programmed when it is full (R477). -/
def State.stageInOrder (s : State) (l p lba : Nat) : State :=
  let u := lba % sectionLbas / 720
  match (s.unitsOf p).find? (fun e => e.2.unit = u && !e.2.programming) with
  | some (i, x) =>
    let y := { x with lbas := if x.lbas.contains lba then x.lbas else x.lbas ++ [lba] }
    let s1 := s.setPunit i y
    if y.lbas.length ≥ 720 then s1.beginUnit i else s1
  | none =>
    s.setPunit s.freeUnit { live := true, sec := p, lsec := l, unit := u, inOrder := true, lbas := [lba] }

/-- The in-order log that a group of LBAs of L may go to: all belong to the unit it fills or one later unit, and no merge
runs (R478, R480, R483). -/
def State.inOrderFor (s : State) (l : Nat) (lbas : List Nat) : Option Nat :=
  match (s.lsec l).inOrd with
  | none => none
  | some p =>
    let us := lbas.map (fun b => b % sectionLbas / 720)
    if (s.lsec l).target.isNone && us.all (fun u => u ≥ s.fillUnit p) && us.all (fun u => u = us.headD 0) then some p else none

/-- The staging buffers have room for some more sub-blocks: units whose program has not begun hold at most 128 MiB (R476, R501). -/
def State.stagingRoom (s : State) (n : Nat) : Bool :=
  (((s.flash.units.filter (fun e => !e.2.merge && !e.2.programming)).map (fun e => e.2.lbas.length)).sum + n) * 4096 ≤ 134217728

/-- Stage a group of LBAs of one logical section that go together. -/
def State.stageGroup (s : State) (lbas : List Nat) : State :=
  let l := lbas.headD 0 / sectionLbas
  match s.inOrderFor l lbas with
  | some p => lbas.foldl (fun s b => s.stageInOrder l p b) s
  | none => s.stageScatter l lbas

/-- Where the newest programmed copy of an LBA lies: its section (R479, without frames). -/
def State.sectionOf (s : State) (lba : Nat) : Option Nat :=
  let l := lba / sectionLbas
  let o := lba % sectionLbas
  let x := s.lsec l
  match x.smap.find? (fun e => e.1 = o) with
  | some (_, p, _) => some p
  | none => match x.inOrd with
    | some p => if o / 720 < (s.sec p).units then some p else x.data
    | none => x.data

/-- The slot of the die an LBA's copy in a section lies on (R470, R471). -/
def State.slotOf (s : State) (lba p : Nat) : Nat :=
  let o := match (s.lsec (lba / sectionLbas)).smap.find? (fun e => e.1 = lba % sectionLbas && e.2.1 = p) with
    | some (_, _, place) => place
    | none => lba % sectionLbas
  let pos := o / 16
  let r := pos / 15
  let j := pos % 15
  if j < r % 16 then j else j + 1

/-- An LBA's newest copy is in a staged unit (R479). -/
def State.staged (s : State) (lba : Nat) : Bool := s.flash.units.any (fun e => !e.2.merge && e.2.lbas.contains lba)

/-- Queue flash reads of LBAs for a purpose. -/
def State.queueReads (s : State) (why : ReadWhy) (lbas : List Nat) : State :=
  lbas.foldl (fun s b =>
    let p := (s.sectionOf b).getD 0
    let i := (Tbl.firstFrom {} (fun x : FRead => !x.live) s.flash.reads 0 (s.flash.reads.length + 1)).getD 0
    s.setFread i { live := true, lba := b, why := why, sec := p, slot := s.slotOf b p }) s

/-- Queue sections for erase (R484). -/
def State.queueErase (s : State) (ps : List Nat) : State := s.setFlash { s.flash with eraseQ := s.flash.eraseQ ++ ps }

end Sys2Proof.Machine
end

