-- ==== Sys2Proof/Machine/Tier.lean ====
section
/-! DEFINITION. The depot range and its tier pages (07_depot.md): home stacks, frames, tier-entry lookups, promotion,
eviction, write-back, content writes and generations, scratch allocation and the fence of a stack. -/

namespace Sys2Proof.Machine

/-! ## Addresses and home stacks (R231, R235 to R237) -/

/-- The first byte past user space, and the bounds of scratch. -/
def userEnd : Nat := 320000000000000
def scratchBase : Nat := 2 ^ 50
def scratchEnd : Nat := 2 ^ 50 + 3 * 2 ^ 40

/-- The page of a depot address. -/
def pageOf (a : Nat) : Nat := a / 65536

/-- A page of user space; a page of scratch. -/
def isMediaPage (p : Nat) : Bool := p < 4882812500
def isScratchPage (p : Nat) : Bool := pageOf scratchBase ≤ p && p < pageOf scratchEnd

/-- `n` bytes at a depot address lie wholly in user space or wholly in scratch (R231). -/
def inDepot (a n : Nat) : Bool := a + n ≤ userEnd || (scratchBase ≤ a && a + n ≤ scratchEnd)

/-- The stack a page hashes to (R236). -/
def hashStack (p : Nat) : Nat :=
  (p ^^^ (p / 2 ^ 5) ^^^ (p / 2 ^ 10) ^^^ (p / 2 ^ 15) ^^^ (p / 2 ^ 20) ^^^ (p / 2 ^ 25) ^^^ (p / 2 ^ 30)) % 32

/-- The stacks in service, rising. -/
def State.stacksUp (s : State) : List Nat := (List.range 32).filter (fun n => s.fbit F.memStackStateInService n)

/-- A page's home among some stacks in service, rising (R236, R237). -/
def homeAmong (up : List Nat) (p : Nat) : Nat :=
  let h := hashStack p
  if up.contains h ∨ up = [] then h else up.getD (p % up.length) h

/-- A page's home stack. -/
def State.homeStack (s : State) (p : Nat) : Nat := homeAmong s.stacksUp p

/-- The die whose depot cache holds a page's tier entry. -/
def State.homeDie (s : State) (p : Nat) : Nat := s.homeStack p / 8

/-- Pages of the host window: H GiB from the start of scratch (R275). -/
def State.inHostWindow (s : State) (p : Nat) : Bool :=
  pageOf scratchBase ≤ p && p < pageOf scratchBase + 16384 * s.fget F.depHostwinSizeGib 0

/-! ## Contents -/

/-- A layer's byte at an address, over what lies below it. -/
def Layer.over (a : Nat) (below : Byte) (l : Layer) : Byte :=
  if l.addr ≤ a ∧ a < l.addr + l.bytes.length then l.bytes.getD (a - l.addr) 0 else below

/-- The byte of the depot at an address, as the home stack holds it. -/
def Depot.byte (d : Depot) (a : Nat) : Byte := d.layers.foldl (Layer.over a) (d.base.get a)

/-- `n` bytes of the depot from an address. -/
def State.depotRead (s : State) (a n : Nat) : List Byte := (List.range n).map (fun i => s.depot.byte (a + i))

/-- A depot number of `n` bytes. -/
def State.depotNat (s : State) (a n : Nat) : Nat := leNat (s.depotRead a n)

/-- Fold the settled layers at the bottom into the base. -/
def foldLayers (base : Memory) : List Layer → Memory × List Layer
  | [] => (base, [])
  | l :: ls => if l.owner = none then foldLayers (base.write l.addr l.bytes) ls else (base, l :: ls)

/-- Fold what is settled. -/
def State.foldDepot (s : State) : State :=
  let r := foldLayers s.depot.base s.depot.layers
  s.setDepot { s.depot with base := r.1, layers := r.2 }

/-- The sub-blocks a write covers are written again: readable where they were lost or bad (R246, R500). -/
def State.writtenAgain (s : State) (p m : Nat) : State :=
  if isMediaPage p then
    s.setPage p { s.page p with lost := clearBits 16 (s.page p).lost m, bad := clearBits 16 (s.page p).bad m }
  else s

/-- A write's outcome is settled as new: its layers stand (R230). -/
def State.settle (s : State) (place : Nat) : State :=
  let mine := s.depot.layers.filter (fun l => l.owner = some place)
  let s1 := mine.foldl (fun s l => s.writtenAgain (pageOf l.addr) (subMask (pageOf l.addr) l.addr l.bytes.length)) s
  (s1.setDepot { s1.depot with
    layers := s1.depot.layers.map (fun l => if l.owner = some place then { l with owner := none } else l) }).foldDepot

/-- Lay bytes over the depot for an owner. -/
def State.layOver (s : State) (owner : Option Nat) (a : Nat) (bs : List Byte) : State :=
  (s.setDepot { s.depot with layers := s.depot.layers ++ [⟨owner, a, bs⟩] }).foldDepot

/-- A memory without the bytes of a range: they read 0. -/
def Memory.clear (m : Memory) (a n : Nat) : Memory := m.filter (fun c => !(a ≤ c.1 && c.1 < a + n))

/-- Words of the depot in a range that are uncorrectable (R544). -/
def State.badIn (s : State) (a n : Nat) : Bool := s.ecc.badWords.any (fun w => a < 32 * w + 32 && 32 * w < a + n)

/-! ## Depot caches (R248 to R250) -/

/-- The stacks that were in service before fence `k` of the stacks fenced in service, rising. -/
def State.upBefore (s : State) (k : Nat) : List Nat :=
  (List.range 32).filter (fun n => s.fbit F.memStackStateInService n || (s.depot.fencedStacks.drop k).contains n)

/-- A page's tier entry lies in a share of the reserve that no stack serves yet, and its home die's depot cache does not hold it:
requests for the page wait (R246, R247). The share is that of the stack the page was at home on. -/
def State.shareWaits (s : State) (p : Nat) : Bool :=
  s.depot.reserveDown != [] && !s.inHostWindow p && !(Tbl.look [] s.depot.tierCached (s.homeDie p)).contains p &&
    s.depot.fencedStacks.zipIdx.any (fun f => s.depot.reserveDown.contains f.1 && homeAmong (s.upBefore f.2) p = f.1)

/-- A request's lookup of a page's tier entry in its home die's depot cache (R250); frames of the host window need none. A miss
reads the entry from the reserve, once a stack serves its share. -/
def State.tierLookup (s : State) (p : Nat) : State :=
  if s.inHostWindow p then s
  else
    let d := s.homeDie p
    let xs := Tbl.look [] s.depot.tierCached d
    if xs.contains p then s.bump F.depCacheCtrCount (5 * d) 1
    else if s.shareWaits p then s.bump F.depCacheCtrCount (5 * d + 1) 1
    else
      let ys := xs ++ [p]
      let zs := if ys.length > 4194304 then ys.drop 1 else ys
      (s.setDepot { s.depot with tierCached := Tbl.put [] s.depot.tierCached d zs }).bump F.depCacheCtrCount (5 * d + 1) 1

/-- Drop the lines of a page from one die's depot cache, counting them. -/
def State.dropLines (p : Nat) (s : State) (d : Nat) : State :=
  let xs := Tbl.look [] s.depot.lines d
  let keep := xs.filter (fun l => l / 256 != p)
  (s.setDepot { s.depot with
    lines := Tbl.put [] s.depot.lines d keep
    pinnedLines := Tbl.put [] s.depot.pinnedLines d ((Tbl.look [] s.depot.pinnedLines d).filter (fun l => l / 256 != p)) }).bump
      F.depCacheCtrCount (5 * d + 4) (xs.length - keep.length)

/-- A content write invalidates the page's lines in all four caches (R249). -/
def State.invalidateLines (s : State) (p : Nat) : State := [0, 1, 2, 3].foldl (State.dropLines p) s

/-! ## Frames (R239 to R243) -/

/-- Take a frame of a stack. -/
def State.takeFrame (s : State) (n : Nat) : State := (s.dip F.memStackStateFramesFree n 1).dip F.depTierLevelFramesFree 0 1

/-- Free a frame of a stack. -/
def State.freeFrame (s : State) (n : Nat) : State := (s.bump F.memStackStateFramesFree n 1).bump F.depTierLevelFramesFree 0 1

/-- A page was used: it becomes the most recently used. -/
def State.touch (s : State) (p : Nat) : State := s.setDepot { s.depot with lru := s.depot.lru.filter (· != p) ++ [p] }

/-- The page has a frame, in use or filling. -/
def Page.framed (x : Page) : Bool := (x.resident || x.promoting) && !x.owed

/-- Free a clean page's frame. -/
def State.dropFrame (s : State) (p : Nat) : State :=
  let x := s.page p
  let s1 := s.setPage p { x with resident := false, dirty := 0, writing := 0, owed := false, leaving := false }
  let s2 := s1.setDepot { s1.depot with lru := s1.depot.lru.filter (· != p) }
  if x.framed then s2.freeFrame (s.homeStack p) else s2

/-- A copy's request or a stream's fetch is reading the page now (R243). -/
def State.inUse (s : State) (p : Nat) : Bool :=
  s.stations.any (fun e =>
    e.2.lanes.any (fun l => l.2.copies.any (fun c => c.depot && c.open_.any (fun q => pageOf (c.src + q.1) = p))) ||
      e.2.streams.any (fun x => x.2.slots.any (fun r => r.page = p && !r.full && !r.empty)))

/-- Every LBA of L's unit 0 is dirty (R477). -/
def State.unit0Dirty (s : State) (l : Nat) : Bool :=
  (List.range 45).all (fun i => (s.page (46080 * l + i)).dirty = 65535)

/-- Stage LBAs that go together, unless L waits for a log or the staging buffers are full, for which it then waits. -/
def State.handOver (s : State) (lbas : List Nat) : State :=
  let l := lbas.headD 0 / sectionLbas
  if !s.stagingRoom lbas.length then
    (if s.flash.crowded.contains l then s else s.setFlash { s.flash with crowded := s.flash.crowded ++ [l] })
  else
    let s1 := s.stageGroup lbas
    if (s1.lsec l).waiting then s1 else s1.markWriting lbas

/-- The sub-blocks of a completed atomic WRITE that write-back may take now (R480). -/
def State.atomicLbas (s : State) (g : Nat × Nat) : List Nat :=
  ((List.range g.2).map (g.1 + ·)).filter (fun b => (s.takeable (b / 16)).contains b)

/-- Hand one LBA to write-back, with the rest of its atomic WRITE. -/
def State.handOverLba (s : State) (b : Nat) : State :=
  if !(s.takeable (b / 16)).contains b then s
  else
    match s.depot.atomics.find? (fun g => g.1 ≤ b && b < g.1 + g.2) with
    | some g =>
      let s1 := s.handOver (s.atomicLbas g)
      if (s1.takeable (b / 16)).contains b then s1 else s1.setDepot { s1.depot with atomics := s1.depot.atomics.filter (· != g) }
    | none => s.handOver [b]

/-- Write-back of a dirty frame begins (R244). -/
def State.startWriteBack (s : State) (p : Nat) : State :=
  let bs := s.takeable p
  if bs = [] then s
  else
    let l := p / 46080
    let s1 := if s.unit0Dirty l ∧ (s.lsec l).inOrd = none ∧ (s.lsec l).target = none then s.openLog l true else s
    bs.foldl State.handOverLba (s1.bump F.depTierCtrCount 3 1)

/-- A stack has reached the free frames its eviction aims for. -/
def State.evictDone (s : State) (n : Nat) : Bool := s.fget F.memStackStateFramesFree n ≥ 16384

/-- A page of a stack may lose its frame: neither pinned nor in use by a request (R243). -/
def State.evictable (s : State) (n p : Nat) : Bool :=
  let x := s.page p
  s.homeStack p = n && x.pins = 0 && !x.promoting && x.writer.isNone && !s.depot.turns.any (fun t => t.page = p) && !s.inUse p

/-- Evict one page if its stack is short: a clean frame is freed, a dirty one is written back first (R243). -/
def State.evictPage (n : Nat) (s : State) (p : Nat) : State :=
  if s.evictDone n ∨ !s.evictable n p then s
  else if (s.page p).dirty = 0 then (s.dropFrame p).bump F.depTierCtrCount 2 1
  else s.startWriteBack p

/-- Evict the least recently used frames of a stack that is evicting, until 16,384 are free (R243). -/
def State.evict (s : State) (n : Nat) : State :=
  let s1 := if s.fget F.memStackStateFramesFree n < 8192 ∧ !s.depot.evicting.contains n then
    s.setDepot { s.depot with evicting := s.depot.evicting ++ [n] } else s
  if !s1.depot.evicting.contains n then s1
  else
    let s2 := s1.depot.lru.foldl (State.evictPage n) s1
    if s2.evictDone n then s2.setDepot { s2.depot with evicting := s2.depot.evicting.filter (· != n) } else s2

/-- A stack has a free frame, and the module one outside the frames set aside for weight windows (R271). -/
def State.frameRoom (s : State) (n : Nat) : Bool :=
  s.fget F.memStackStateFramesFree n != 0 && s.depot.setAside < s.fget F.depTierLevelFramesFree 0

/-- A stack without such a frame gives up its least recently used clean one, or begins to write a dirty one back (R243). -/
def State.makeRoom (s : State) (n : Nat) : State :=
  if s.frameRoom n then s
  else
    let ps := s.depot.lru.filter (s.evictable n)
    match ps.find? (fun p => (s.page p).dirty = 0), ps with
    | some p, _ => (s.dropFrame p).bump F.depTierCtrCount 2 1
    | none, p :: _ => s.startWriteBack p
    | none, [] => s

/-- Give a page its frame, or leave it owed where none is free. -/
def State.frameFor (s : State) (p : Nat) : State :=
  let n := s.homeStack p
  let s1 := s.makeRoom n
  if s1.frameRoom n then ((s1.takeFrame n).evict n).setPage p { s1.page p with owed := false }
  else s1.setPage p { s1.page p with owed := true }

/-- The mapped LBAs of a page that flash can give: not lost, not bad, not in staging (R242, R479). -/
def State.flashLbas (s : State) (p : Nat) : List Nat :=
  let x := s.page p
  ((bitsSet 16 (clearBits 16 (clearBits 16 x.mapped x.lost) x.bad)).map (fun i => 16 * p + i)).filter (fun b => !s.staged b)

/-- Promote a page: a frame is taken and its mapped sub-blocks are read from flash, those in staging excepted (R242, R479). -/
def State.promote (s : State) (p : Nat) : State :=
  let x := s.page p
  if x.resident ∨ x.promoting ∨ x.mapped = 0 ∨ !isMediaPage p ∨ s.shareWaits p then s
  else
    let s1 := (s.frameFor p).bump F.depTierCtrCount 0 1
    let s2 := s1.setPage p { s1.page p with promoting := true }
    s2.queueReads .promote (s2.flashLbas p)

/-- A promotion of a page, or the window's read of it, still waits for flash. -/
def State.promoteOpen (s : State) (p : Nat) : Bool :=
  s.flash.reads.any (fun e => e.2.live && (e.2.why = .promote || e.2.why = .window) && e.2.lba / 16 = p)

/-- Give a page a frame for a write: a mapped page is promoted and the write lands in the frame, an unmapped one starts as
zeros (R242, R233). -/
def State.ensureFrame (s : State) (p : Nat) : State :=
  let x := s.page p
  if x.resident ∨ x.promoting then s
  else if isMediaPage p ∧ x.mapped ≠ 0 then s.promote p
  else
    let s1 := s.frameFor p
    let y := s1.page p
    s1.setPage p (if y.owed then { y with promoting := true } else { y with resident := true })

/-! ## Content writes (R265) -/

/-- The generation a page shows: its own, and for media the content writes that touch every media page (R265, R585). -/
def State.genOf (s : State) (p : Nat) : Nat := ((s.page p).gen + if isMediaPage p then s.depot.epoch else 0) % 2 ^ 32

/-- The holds and the writes of copies of a station that stops end. -/
def State.endIdents (s : State) (st : Nat) : State :=
  (s.depot.pages.map (·.1)).foldl (fun (s : State) p =>
    (((s.page p).holds ++ (s.page p).writer.toList).filter (fun i => identStation i = st)).foldl
      (fun (s : State) i => (s.endHold i p).endWrite i p) s) s

/-- Mark the sub-blocks of a media page that a write touched: mapped and dirty (R245). -/
def State.markDirty (s : State) (p m : Nat) : State :=
  let x := s.page p
  let new := popcount 16 (clearBits 16 m x.dirty)
  (s.setPage p { x with
    mapped := x.mapped ||| m
    dirty := x.dirty ||| m
    writing := clearBits 16 x.writing m }).bump F.depTierLevelDirty4k 0 new

/-- Every dirty frame's write-back begins. -/
def State.writeBackAll (s : State) : State :=
  ((s.depot.pages.filter (fun e => e.2.dirty != 0)).map (·.1)).foldl State.startWriteBack s

/-- The sub-blocks dirty in the module pass 2 GiB: every dirty frame's write-back begins at once (R244). -/
def State.dirtyPressure (s : State) : State :=
  if s.fget F.depTierLevelDirty4k 0 > 524288 then s.writeBackAll else s

/-- A write of a range: the words it covers whole are readable again (R547), and the write-back of any word it touches is
dropped (R543). -/
def State.clearBad (s : State) (a n : Nat) : State :=
  s.setEcc { s.ecc with
    badWords := s.ecc.badWords.filter (fun w => !(a ≤ 32 * w && 32 * w + 32 ≤ a + n))
    writeBacks := s.ecc.writeBacks.filter (fun x => !(islandClass x.1 = 3 && a < 32 * x.2.1 + 32 && 32 * x.2.1 < a + n)) }

/-- Flash reads of some sub-blocks of a page that a promotion or a window waits for are wanted no longer (R242). -/
def State.dropReads (s : State) (p m : Nat) : State :=
  s.setFlash { s.flash with reads := s.flash.reads.map (fun e =>
    if e.2.live && (e.2.why = .promote || e.2.why = .window) && e.2.lba / 16 = p && m.testBit (e.2.lba % 16)
    then (e.1, { e.2 with why := .dropped }) else e) }

/-- The sub-blocks of page `p` that a range covers whole. -/
def fullMask (p a n : Nat) : Nat :=
  ((List.range 16).filter (fun i => a ≤ 65536 * p + 4096 * i && 65536 * p + 4096 * (i + 1) ≤ a + n)).foldl (fun m i => m + 2 ^ i) 0

/-- The bytes of a content write land in the page's frame: a promotion in progress leaves out the sub-blocks they cover (R242). -/
def State.landBytes (s : State) (owner : Option Nat) (p a : Nat) (bs : List Byte) : State :=
  let s0 := s.ensureFrame p
  let s1 := if (s0.page p).promoting then s0.dropReads p (fullMask p a bs.length) else s0
  let s2 := (s1.layOver owner a bs).clearBad a bs.length
  let m := subMask p a bs.length
  if isMediaPage p then
    let s4 := (s2.markDirty p m).touch p
    if owner = none then s4.writtenAgain p m else s4
  else s2.setPage p { s2.page p with gone := false, resident := true }

/-- The first step of a content write: the generation becomes odd and the page's cache lines are invalidated (R265). -/
def State.beginWrite (s : State) (p : Nat) : State := (s.genStep p).invalidateLines p

/-- A content write of bytes within one page, in its turn (R265): the generation steps to odd, the page's cache lines are
invalidated, the bytes land, and the generation steps to even. -/
def State.contentWrite (s : State) (owner : Option Nat) (p a : Nat) (bs : List Byte) : State :=
  (((s.beginWrite p).landBytes owner p a bs).genStep p).dirtyPressure

/-- Content writes of a byte string, page by page. The fuel is its length. -/
def State.writeDepot (s : State) (owner : Option Nat) : Nat → Nat → List Byte → State
  | 0, _, _ => s
  | _ + 1, _, [] => s
  | fuel + 1, a, bs =>
    let n := 65536 - a % 65536
    (s.contentWrite owner (pageOf a) a (bs.take n)).writeDepot owner fuel (a + n) (bs.drop n)

/-- Sub-blocks that a range of a page would newly make dirty raise dirty data above the limit in force (R245, R572). -/
def State.overBy (s : State) (p a n : Nat) : Bool :=
  let new := popcount 16 (clearBits 16 (subMask p a n) (s.page p).dirty)
  isMediaPage p && new != 0 && s.fget F.depTierLevelDirty4k 0 + new > s.fget F.pwrHoldupDirtyLimit4k 0

/-- The home stack cannot run a write to a page now: another is in progress or comes before it, the page is held for a copy
(R265, R268), or its tier entry's share is not served (R246). -/
def State.pageBusy (s : State) (p : Nat) : Bool :=
  (s.page p).writer.isSome || (s.page p).holds != [] || s.depot.turns.any (fun t => t.page = p) || s.shareWaits p

/-- A word that a write of a range covers only in part is uncorrectable: the merge does not write it, and the writer receives 0x2001
(R547). -/
def State.mergeBad (s : State) (a n : Nat) : Bool :=
  s.ecc.badWords.any (fun w => a < 32 * w + 32 && 32 * w < a + n && !(a ≤ 32 * w && 32 * w + 32 ≤ a + n))
def State.noteMerge (s : State) (place : Option Nat) (a n : Nat) : State :=
  match place with
  | some p => if s.open p ∧ s.mergeBad a n then s.setCmd p { s.cmd p with spoiled := true } else s
  | none => s

/-- An engine's write to one page: at once, or queued for its turn where the home stack cannot run it or the dirty limit is reached
(R245, R265). -/
def State.pageStore (s : State) (place : Option Nat) (reply : Bool) (p a : Nat) (bs : List Byte) : State :=
  let s1 := s.tierLookup p
  let past := s1.overBy p a bs.length
  if s1.pageBusy p ∨ past then
    let s2 := s1.setDepot { s1.depot with
      turns := s1.depot.turns ++ [{ place := place, page := p, addr := a, bytes := bs, release := 0, waited := past, engine := true, reply := reply }] }
    if past then (s2.bump F.depTierCtrCount 5 1).bump F.pwrCtrCount 2 (bit (s.fget F.pwrHoldupDirtyLimit4k 0 < 1048576)) else s2
  else (s1.noteMerge place a bs.length).contentWrite none p a bs

/-- An engine's writes of a byte string, page by page, for a command. The fuel is its length. -/
def State.storeN (place : Option Nat) : Nat → State → Nat → List Byte → State
  | 0, s, _, _ => s
  | _ + 1, s, _, [] => s
  | fuel + 1, s, a, bs =>
    let n := 65536 - a % 65536
    State.storeN place fuel (s.pageStore place false (pageOf a) a (bs.take n)) (a + n) (bs.drop n)

/-- An engine's content writes for a command. -/
def State.storeFor (s : State) (place : Option Nat) (a : Nat) (bs : List Byte) : State := State.storeN place bs.length s a bs

/-- An engine's content writes for no command that waits for them. -/
def State.store (s : State) (a : Nat) (bs : List Byte) : State := s.storeFor none a bs

/-- A number stored as `n` little-endian bytes. -/
def State.storeNat (s : State) (a n v : Nat) : State := s.store a (leBytes n v)

/-- Release LBAs of a page in its turn (R450, R481): they are unmapped and read zeros, and their dirty and staged sub-blocks
are dropped. -/
def State.releasePage (s : State) (p m : Nat) : State :=
  let s1 := (s.genStep p).invalidateLines p
  let x := s1.page p
  let dropped := popcount 16 (clearBits 16 x.dirty (clearBits 16 x.dirty m))
  let s2 := (s1.setPage p { x with
    mapped := clearBits 16 x.mapped m, dirty := clearBits 16 x.dirty m, writing := clearBits 16 x.writing m,
    lost := clearBits 16 x.lost m, bad := clearBits 16 x.bad m }).dip F.depTierLevelDirty4k 0 dropped
  let s3 := (bitsSet 16 m).foldl (fun s i =>
    (s.layOver none (65536 * p + 4096 * i) (zeros 4096)).clearBad (65536 * p + 4096 * i) 4096) s2
  let s4 := s3.setFlash { s3.flash with units := s3.flash.units.map (fun e =>
    if e.2.programming then e else (e.1, { e.2 with lbas := e.2.lbas.filter (fun b => !(b / 16 = p && m.testBit (b % 16))) })) }
  let s5 := (bitsSet 16 m).foldl (fun s i =>
    s.journal 4 (p / 46080) (leBytes 4 ((16 * p + i) % sectionLbas) ++ leBytes 4 1)) s4
  s5.genStep p

/-- Unmap logical sections released whole: their data section and logs go to erase (R481, R475). -/
def State.unmapSection (s : State) (l : Nat) : State :=
  let x := s.lsec l
  let olds := x.data.toList ++ x.inOrd.toList ++ x.scatter.toList
  let s1 := s.setLsec l { x with data := none, inOrd := none, scatter := none, smap := [] }
  let s2 := s1.setFlash { s1.flash with units := s1.flash.units.filter (fun e => !olds.contains e.2.sec) }
  s2.queueErase olds

/-! ## Scratch (R234, R240, R285) -/

/-- Frames of stacks in service that are pinned or kept from media: scratch, pinned media pages, and the set-aside (R240,
R271). -/
def State.framesPinned (s : State) : Nat :=
  (s.depot.pages.filter (fun e => (e.2.alloc && e.2.resident) || (isMediaPage e.1 && e.2.pins != 0))).length + s.depot.setAside

/-- At least 524,288 frames stay for media frames that are not pinned after `n` more are taken (R240). -/
def State.frameFloor (s : State) (n : Nat) : Bool := s.framesPinned + n + 524288 ≤ 1523712 * s.stacksUp.length

/-- A scratch page reads zeros again: no byte of it is left, settled or not (R234). -/
def State.clearPage (s : State) (p : Nat) : State :=
  s.setDepot { s.depot with
    base := s.depot.base.clear (65536 * p) 65536
    layers := s.depot.layers.filter (fun l => pageOf l.addr != p) }

/-- Allocate one scratch page: a frame on its home stack; it reads zeros (R234). -/
def State.allocPage (s : State) (p : Nat) : State :=
  let s1 := (s.frameFor p).clearPage p
  s1.setPage p { s1.page p with alloc := true, resident := true, gone := false }

/-- Free one scratch page. -/
def State.freePage (s : State) (p : Nat) : State :=
  let x := s.page p
  if !x.alloc then s
  else
    ((if x.framed then s.freeFrame (s.homeStack p) else s).clearPage p).setPage p { gen := x.gen }

/-- Scratch pages in use. -/
def State.scratchUsed (s : State) : List Nat := (s.depot.pages.filter (fun e => e.2.alloc)).map (·.1)

/-- The lowest run of `n` free scratch pages above the host window (DESIGN CHOICE, log entry 16). -/
def State.scratchRun (s : State) (n : Nat) : Option Nat :=
  let lo := pageOf scratchBase + 16384 * s.fget F.depHostwinSizeGib 0
  let used := s.scratchUsed
  ((lo :: used.map (· + 1)).filter (fun st => lo ≤ st && st + n ≤ pageOf scratchEnd &&
    used.all (fun p => p < st || st + n ≤ p))).foldl
    (fun best st => match best with
      | none => some st
      | some b => some (min b st)) none

/-- Allocate scratch for a number of bytes; none where no run is free or the floor of R240 would break. -/
def State.allocScratch (s : State) (bytes : Nat) : Option (Nat × State) :=
  let n := ceilDiv bytes 65536
  if n = 0 then some (scratchBase, s)
  else if !s.frameFloor n then none
  else (s.scratchRun n).map (fun st => (65536 * st, (List.range n).foldl (fun s i => s.allocPage (st + i)) s))

/-- Free scratch. -/
def State.freeScratch (s : State) (a bytes : Nat) : State :=
  (List.range (ceilDiv bytes 65536)).foldl (fun s i => s.freePage (pageOf a + i)) s

/-! ## What a read of the depot meets -/

/-- The status a read of one LBA of the media part meets: lost (R246), uncorrectable on the media (R500) or in DRAM (R544). -/
def State.lbaStatus (s : State) (b : Nat) : Nat :=
  let x := s.page (b / 16)
  if !x.mapped.testBit (b % 16) then 0
  else if x.lost.testBit (b % 16) then 0x2002
  else if x.bad.testBit (b % 16) then 0x2001
  else if x.resident ∧ s.badIn (4096 * b) 4096 then 0x2001
  else 0

/-- The status a read of bytes within one page meets. -/
def State.readStatus (s : State) (a n : Nat) : Nat :=
  let p := pageOf a
  if isMediaPage p then
    let sts := ((List.range 16).filter (fun i => (subMask p a n).testBit i)).map (fun i => s.lbaStatus (16 * p + i))
    (sts.find? (· != 0)).getD 0
  else if (s.page p).gone then 0x2002
  else if s.badIn a n then 0x2001
  else 0

/-- The status a read of a range meets, page by page. -/
def State.rangeStatus (s : State) (a n : Nat) : Nat :=
  (((List.range (pageOf (a + n - 1) - pageOf a + 1)).map (fun i =>
    let lo := max a (65536 * (pageOf a + i))
    s.readStatus lo (min (a + n) (65536 * (pageOf a + i + 1)) - lo))).find? (· != 0)).getD 0

/-- A media page can be read: it has a frame, or nothing of it is mapped. -/
def State.pageReady (s : State) (p : Nat) : Bool :=
  let x := s.page p
  !s.shareWaits p && (!isMediaPage p || x.resident || (!x.promoting && clearBits 16 (clearBits 16 x.mapped x.lost) x.bad = 0))

/-- A ring of the station holds a page, fetched (R260). -/
def State.ringHas (s : State) (st p : Nat) : Bool := (s.stn st).streams.any (fun e => e.2.slots.any (fun r => r.full && r.page = p))

/-! ## The fence of a stack (R246, R247) -/

/-- What the loss of a page's frame leaves (R246). -/
def State.loseFrame (s : State) (p : Nat) : State :=
  let x := s.page p
  if isMediaPage p then
    let s1 := (s.dropReads p 0xFFFF).setPage p { x with resident := false, promoting := false, owed := false, dirty := 0, writing := 0,
                                                        lost := x.lost ||| x.dirty, bad := clearBits 16 x.bad x.dirty }
    s1.dip F.depTierLevelDirty4k 0 (popcount 16 x.dirty)
  else (s.clearPage p).setPage p { x with gone := true, resident := false, owed := false }

/-- A frame lost with a fenced stack that a window place holds is promoted again from flash on the page's new home (R246). -/
def State.replan (s : State) (p : Nat) : State :=
  if (s.page p).pins = 0 ∨ !isMediaPage p then s
  else
    let n := s.homeStack p
    let s1 := (s.takeFrame n).evict n
    let s2 := s1.setPage p { s1.page p with promoting := true }
    s2.queueReads .window (s2.flashLbas p)

/-- The stack that holds the other copy of stack n's reserve share: the one whose second half mirrors it, S((n + 24) mod 32), or
where that is fenced the next in service in ascending order from S((n + 8) mod 32) (R239, R247). -/
def State.mirrorOf (s : State) (n : Nat) : Nat :=
  let up := fun m => m != n && s.fbit F.memStackStateInService m
  let m := (n + 24) % 32
  if up m then m else (((List.range 32).map (fun i => (n + 8 + i) % 32)).find? up).getD n

/-- The shares of the reserve that lose their second copy as stack n is fenced: its own where its mirror is fenced, and the share
it mirrors where that stack is (R247). -/
def State.sharesLost (s : State) (n : Nat) : List Nat :=
  (if s.fbit F.memStackStateFenced ((n + 24) % 32) then [n] else []) ++
    (if s.fbit F.memStackStateFenced ((n + 8) % 32) then [(n + 8) % 32] else [])

/-- A resident page whose home moves with a fence takes its frame along (R237, R266): the counts of the two stacks follow. -/
def State.rehome (from_ : State) (s : State) (p : Nat) : State :=
  let a := from_.homeStack p
  let b := s.homeStack p
  if a = b then s else (s.bump F.memStackStateFramesFree a 1).dip F.memStackStateFramesFree b 1

/-- Fence a stack: its frames are lost, pages home elsewhere, and its reserve share waits for the mirror, or to be rebuilt (R246,
R247). -/
def State.fenceStack (s : State) (n : Nat) : State :=
  if s.fbit F.memStackStateFenced n then s
  else
    let framed := (s.depot.pages.filter (fun e => e.2.resident || e.2.promoting)).map (·.1)
    let lost := framed.filter (fun p => s.homeStack p = n)
    let kept := framed.filter (fun p => s.homeStack p != n && (s.page p).framed)
    let s1 := lost.foldl State.loseFrame s
    let s2 := s1.dip F.depTierLevelFramesFree 0 (s1.fget F.memStackStateFramesFree n)
    let s3 := ((s2.fset F.memStackStateInService n 0).fset F.memStackStateFenced n 1).fset F.memStackStateFramesFree n 0
    let gone := s.sharesLost n
    let s4 := s3.setDepot { s3.depot with
      lru := s3.depot.lru.filter (fun p => !lost.contains p)
      fencedStacks := s3.depot.fencedStacks ++ [n]
      reserveDown := (s3.depot.reserveDown ++ n :: gone).dedup
      reserveLost := (s3.depot.reserveLost ++ gone).dedup }
    let s5 := lost.foldl State.replan (kept.foldl (State.rehome s) s4)
    (s5.fset F.memStackStateMirrorActive n 0).flag F.glbEventStatusStackFenced

end Sys2Proof.Machine
end

