-- ==== Sys2Proof/Machine/Block.lean ====
section
/-! DEFINITION. The block commands READ, WRITE, FLUSH and RELEASE (R442 to R450), the turns of content writes at a page's home
stack (R245, R265), the tier's own events (R242, R244, R250), and what a WRITE or RELEASE that ends early leaves (R230,
R447, R458). -/

namespace Sys2Proof.Machine

/-! ## Checks -/

/-- The status of a command that touches the media part while a sanitise or a format is in progress; 0 where none is (R581,
R585: a format refuses commands in its first phase only). -/
def State.mediaBusy (s : State) : Nat :=
  if s.fget F.glbMaintOp 0 = 1 then 0x5001
  else if s.fget F.glbMaintOp 0 = 2 ∧ s.fget F.glbMaintPhase 0 = 1 then 0x5002
  else 0

/-- The fields of READ and WRITE are in range (R442, R18). -/
def transferFields (e : List Byte) : Bool :=
  sqFlags e ≤ 1 && sqLba e < 2 ^ 37 && 1 ≤ sqCount e && sqCount e ≤ 65536 && zeroAt e 20 4 &&
  byteField e 24 8 % 64 = 0 && zeroAt e 36 28 &&
  (if sqList e then 1 ≤ byteField e 32 4 && byteField e 32 4 ≤ 4096 else byteField e 32 4 = 0)

/-- The fields of FLUSH and RELEASE are in range (R449, R450). -/
def rangeFields (e : List Byte) : Bool :=
  sqFlags e = 0 && zeroAt e 24 40 &&
  (if sqOpcode e = 0x03 then sqCount64 e != 0 || sqLba e = 0 else sqCount64 e != 0)

/-- Checks 3 and 4 of R441 for a block command whose range ends at `last`, then its own part (R443). -/
def State.blockChecks (s : State) (p : Nat) (fields : Bool) (last : Nat) (go : State → State) : State :=
  if !fields then s.fail p 0x1001
  else if last > userLbas then s.fail p 0x1006
  else if s.mediaBusy ≠ 0 then s.fail p s.mediaBusy
  else go s

/-- The tier pages of `n` LBAs from `lba`. -/
def lbaPages (lba n : Nat) : List Nat :=
  if n = 0 then [] else (List.range ((lba + n - 1) / 16 + 1 - lba / 16)).map (lba / 16 + ·)

/-- Bits of page `p` that lie in `n` LBAs from `lba`. -/
def lbaMask (lba n p : Nat) : Nat :=
  ((List.range 16).filter (fun i => lba ≤ 16 * p + i && 16 * p + i < lba + n)).foldl (fun m i => m + 2 ^ i) 0

/-- The address ranges of a command's host data without a list. -/
def flatRanges (e : List Byte) : List (Nat × Nat) := [(byteField e 24 8, 4096 * sqCount e)]

/-! ## READ (R444, R446) -/

/-- Send one LBA of a READ to the host: its data, or TLPs with EP set and undefined bytes (R446). -/
def State.sendLba (p : Nat) (s : State) (i : Nat) : State :=
  let c := s.cmd p
  let b := sqLba c.entry + i
  let st := s.lbaStatus b
  let pieces := hostPieces c.ranges (4096 * i) 4096
  if st = 0 then
    (pieces.foldl (fun acc r => (acc.1.sendData r.1 (acc.1.depotRead acc.2 r.2) false, acc.2 + r.2)) (s, 4096 * b)).1
  else
    let s1 := (s.bump F.queCtrCount 11 1).bump F.depTierCtrCount 10 (bit (st = 0x2002))
    let s2 := match c.failed with
      | some _ => s1
      | none => s1.setCmd p { s1.cmd p with failed := some i, status := st }
    pieces.foldl (fun s r => (s.drawBytes r.2).2.sendData r.1 (s.drawBytes r.2).1 true) s2

/-- A READ's LBAs leave the dies of their home stacks over the bridges to D0 (R35, R39). -/
def State.bridgeRead (p : Nat) (s : State) (i : Nat) : State :=
  let c := s.cmd p
  let g := (sqLba c.entry + i) / 16
  s.bridgeData (s.homeDie g) 0 (islandOfStack (s.homeStack g)) (c.cls = 0) 4096

/-- Send the data of a READ whose pages are all there; its completion message follows (R444, R225). -/
def State.readOut (s : State) (p : Nat) : State :=
  let n := sqCount (s.cmd p).entry
  let s1 := (List.range n).foldl (State.sendLba p) s
  let c := s1.cmd p
  ((List.range n).foldl (State.bridgeRead p) s1).finish p c.status (c.failed.getD n)

/-- A READ reads one page through the tier: its entry is looked up, and a page that is not resident and has a mapped LBA is
promoted, once its entry's share of the reserve is served (R242, R246, R250). -/
def State.readPage (s : State) (g : Nat) : State :=
  let s1 := s.tierLookup g
  if (s1.page g).resident then s1.touch g else s1.promote g

/-- A READ waits for a page: for its promotion, or for its tier entry's share of the reserve. -/
def State.awaitsPage (s : State) (g : Nat) : Bool := (s.page g).promoting || s.shareWaits g

/-- Start the transfer of a READ. -/
def State.readGo (s : State) (p : Nat) : State :=
  let e := (s.cmd p).entry
  let pages := lbaPages (sqLba e) (sqCount e)
  let s1 := pages.foldl State.readPage s
  let open_ := pages.filter s1.awaitsPage
  if open_ = [] then s1.readOut p else s1.setCmd p { s1.cmd p with waits := open_ }

/-! ## WRITE (R445, R447) -/

/-- The first LBA a WRITE's data goes to, and their number; an INGEST writes its items as one (R381). -/
def wrLba (e : List Byte) : Nat := if sqOpcode e = 0x0B then byteField e 24 8 / 4096 else sqLba e
def wrCount (e : List Byte) : Nat := if sqOpcode e = 0x0B then byteField e 32 4 * byteField e 36 4 / 4096 else sqCount e

/-- A WRITE is atomic: at most 64 LBAs within one section (R447). -/
def atomicRange (lba n : Nat) : Bool := n ≤ 64 && lba / sectionLbas = (lba + n - 1) / sectionLbas

/-- Start the transfer of a WRITE: its data is read from the host (R445). A WRITE taken after the spare reserve fell below
256 sections is refused (R508). -/
def State.writeGo (s : State) (p : Nat) : State :=
  let c := s.cmd p
  s.setCmd p { c with
    listing := false
    got := []
    want := 4096 * wrCount c.entry
    waits := lbaPages (wrLba c.entry) (wrCount c.entry) }

/-- The part of a WRITE's data on page `g` that has arrived, as a content write that waits for its turn: none where nothing of
the page has arrived. -/
def Cmd.turnOn (c : Cmd) (p g : Nat) : Option Turn :=
  let a := 4096 * wrLba c.entry
  let lo := max a (65536 * g)
  let hi := min (a + c.got.length) (65536 * (g + 1))
  if lo < hi then some { place := some p, page := g, addr := lo, bytes := (c.got.drop (lo - a)).take (hi - lo), release := 0 }
  else none

/-- Data of a WRITE arrives from the host: each page whose bytes are all there takes its place in the page's order (R265,
R448). -/
def State.writeData (s : State) (p : Nat) (data : List Byte) : State :=
  let c := s.cmd p
  let c1 := { c with got := c.got ++ data }
  let a := 4096 * wrLba c.entry
  let full := (lbaPages (wrLba c.entry) (wrCount c.entry)).filter (fun g =>
    let e := min (65536 * (g + 1)) (a + c.want) - a
    c.got.length < e && e ≤ c1.got.length)
  let s1 := s.setCmd p c1
  s1.setDepot { s1.depot with turns := s1.depot.turns ++ full.filterMap (fun g => c1.turnOn p g) }

/-- Check 3's list part and the start of the transfer once a READ's or WRITE's list is there (R442). -/
def State.listDone (s : State) (p : Nat) : State :=
  let c := s.cmd p
  let es := listEntries c.got
  if !listOk (4096 * sqCount c.entry) es then s.fail p 0x1001
  else
    let s1 := s.setCmd p { c with listing := false, got := [], want := 0, ranges := es.map (fun x => (x.1, x.2.1)) }
    if sqOpcode c.entry = 0x01 then s1.readGo p else s1.writeGo p

/-- Begin a READ or WRITE: its list is read first, if it has one (R442). -/
def State.transferGo (s : State) (p : Nat) : State :=
  let c := s.cmd p
  if sqList c.entry then s.setCmd p { c with listing := true, want := 16 * byteField c.entry 32 4 }
  else
    let s1 := s.setCmd p { c with ranges := flatRanges c.entry }
    if sqOpcode c.entry = 0x01 then s1.readGo p else s1.writeGo p

/-! ## Turns of content writes (R245, R265, R268) -/

/-- A turn's writer goes on: a page of its command is done, and with the last the completion message follows (R225). A CXL.mem
store is answered; another engine's write sends nothing. -/
def State.turnDone (s : State) (t : Turn) : State :=
  if t.engine then (if t.reply then s.send .storeDone else s) else
  match t.place with
  | none => s
  | some p =>
    let c := s.cmd p
    if !s.open p then s
    else
      let c1 := { c with waits := c.waits.filter (· != t.page) }
      let s1 := s.setCmd p c1
      if c1.waits != [] then s1
      else if sqOpcode c.entry = 0x0B then s1.setCmd p { c1 with phase := 1 }
      else s1.finish p 0 (if sqOpcode c.entry = 0x02 then sqCount c.entry else 0)

/-- Take a turn off the list. -/
def State.dropTurn (s : State) (t : Turn) : State := s.setDepot { s.depot with turns := s.depot.turns.erase t }

/-- LBAs have been committed or released: FLUSH commands wait for them no longer (R449). -/
def State.flushed (s : State) (lbas : List Nat) : State :=
  (s.host.cmds.map (·.1)).foldl (fun s p =>
    let c := s.cmd p
    if sqOpcode c.entry = 0x03 ∧ s.open p ∧ !c.ready then
      let w := c.waits.filter (fun b => !lbas.contains b)
      let s1 := s.setCmd p { c with waits := w }
      if w = [] then s1.finish p 0 0 else s1
    else s) s

/-- The home stack releases LBAs of a page; a FLUSH waits for them no longer. -/
def State.releaseTurn (s : State) (g m : Nat) : State :=
  (s.releasePage g m).flushed ((bitsSet 16 m).map (16 * g + ·))

/-- The home stack runs a turn: the page's tier entry is looked up (R250), and the bytes land for the command that sent them, an
engine's for good. -/
def State.runTurn (s : State) (t : Turn) : State :=
  let s1 := if t.engine then s else s.tierLookup t.page
  if t.release ≠ 0 then s1.releaseTurn t.page t.release
  else if !t.engine ∧ t.place.isSome then
    (s1.bridgeData 0 (s1.homeDie t.page) (islandOfBox 0) ((s1.cmd (t.place.getD 0)).cls = 0) t.bytes.length).contentWrite t.place t.page
      t.addr t.bytes
  else (s1.noteMerge t.place t.addr t.bytes.length).contentWrite (if t.engine then none else t.place) t.page t.addr t.bytes

/-- A turn that would raise dirty data above the limit in force (R245, R572). -/
def State.overLimit (s : State) (t : Turn) : Bool := t.release = 0 && s.overBy t.page t.addr t.bytes.length

/-- Nothing but the dirty limit keeps a page's first turn waiting: no copy holds the page or is writing it (R265, R268), and its tier
entry's share is served (R246). -/
def State.mayTurn (s : State) (g : Nat) : Bool := (s.page g).holds = [] && (s.page g).writer.isNone && !s.shareWaits g

/-- A turn waits on the dirty limit; it is counted once (DEP.TIER_CTR 5, PWR.CTR 2). -/
def State.waitTurn (s : State) (t : Turn) : State :=
  let s1 := s.setDepot { s.depot with turns := s.depot.turns.map (fun u => if u = t then { u with waited := true } else u) }
  (s1.bump F.depTierCtrCount 5 1).bump F.pwrCtrCount 2 (bit (s.fget F.pwrHoldupDirtyLimit4k 0 < 1048576))

/-- The first turn of a page. -/
def State.firstTurn (s : State) (g : Nat) : Option Turn := s.depot.turns.find? (fun t => t.page = g)

/-- A content write's turn at page `g` (R265): held writes wait (R268), and so does one that meets the dirty limit (R245). -/
def State.turn (s : State) (g : Nat) : State :=
  match s.firstTurn g with
  | none => s
  | some t =>
    if !s.mayTurn g ∨ t.waited then s
    else if s.overLimit t then s.waitTurn t
    else ((s.dropTurn t).runTurn t).turnDone t

/-- A write that waits on the dirty limit proceeds once write-back has brought dirty data down (R245). -/
def State.releaseLimit (s : State) (g : Nat) : State :=
  match s.firstTurn g with
  | none => s
  | some t =>
    if !s.mayTurn g ∨ !t.waited ∨ s.overLimit t then s
    else ((s.dropTurn t).runTurn t).turnDone t

/-! ## What a WRITE that ends early leaves (R230, R447, R458) -/

/-- The turns of a WRITE that have not run, the partial one among them. -/
def State.unrunTurns (s : State) (p : Nat) : List Turn := ((s.cmd p).waits.filterMap (fun g => (s.cmd p).turnOn p g))

/-- Drop a command's turns; what an engine has sent on its behalf still lands. -/
def State.dropTurns (s : State) (p : Nat) : State :=
  s.setDepot { s.depot with turns := s.depot.turns.filter (fun t => t.engine || t.place != some p) }

/-- Drop a command's layers: its bytes are old. -/
def State.dropLayers (s : State) (p : Nat) : State :=
  (s.setDepot { s.depot with layers := s.depot.layers.filter (fun l => l.owner != some p) }).foldDepot

/-- The bytes of a layer for which the free bit says new, each settled. -/
def thinLayer (ctr : Nat) (l : Layer) : List Layer :=
  l.bytes.zipIdx.filterMap (fun x =>
    if Config.freeBool (ctr + x.2) then some ⟨none, l.addr + x.2, [x.1]⟩ else none)

/-- Each byte of a command's layers is old or new, free (R230). -/
def State.thinLayers (s : State) (p : Nat) : State :=
  let r := s.depot.layers.foldl (fun (acc : List Layer × Nat) l =>
    if l.owner = some p then (acc.1 ++ thinLayer acc.2 l, acc.2 + l.bytes.length) else (acc.1 ++ [l], acc.2)) ([], s.freeCtr)
  ((s.setFreeCtr r.2).setDepot { s.depot with layers := r.1 }).foldDepot

/-- A turn that has not run may have run or not, free, where nothing keeps it waiting. -/
def State.maybeRun (s : State) (t : Turn) : State :=
  let b := s.drawBool
  if b.1 ∧ s.mayTurn t.page ∧ !s.overLimit t then b.2.runTurn t else b.2

/-- A WRITE is done: its data is new, and an atomic one is one for write-back too (R230, R447, R480). -/
def State.wrote (s : State) (p : Nat) : State :=
  let e := (s.cmd p).entry
  let s1 := s.settle p
  if atomicRange (wrLba e) (wrCount e) then
    s1.setDepot { s1.depot with atomics := s1.depot.atomics ++ [(wrLba e, wrCount e)] }
  else s1

/-- Settle a WRITE that ended early: an atomic one is all old or all new, free (new needs all its data); of any other each
byte is old or new, free (R230, R447). -/
def State.settleWrite (s : State) (p : Nat) : State :=
  let c := s.cmd p
  let turns := s.unrunTurns p
  let s0 := s.dropTurns p
  if c.listing ∨ c.want = 0 then s0
  else if atomicRange (wrLba c.entry) (wrCount c.entry) then
    let b := s0.drawBool
    if b.1 ∧ c.got.length ≥ c.want ∧ turns.all (fun t => s.mayTurn t.page && !s.overLimit t) then
      (turns.foldl State.runTurn b.2).settle p
    else b.2.dropLayers p
  else (turns.foldl State.maybeRun s0).thinLayers p

/-- Settle a RELEASE that ended early: each LBA not yet released is released or untouched, free (R458). -/
def State.settleRelease (s : State) (p : Nat) : State :=
  let mine := s.depot.turns.filter (fun t => !t.engine && t.place = some p)
  mine.foldl (fun s t =>
    (bitsSet 16 t.release).foldl (fun s i =>
      let b := s.drawBool
      if b.1 ∧ s.mayTurn t.page then b.2.releaseTurn t.page (2 ^ i) else b.2) s) (s.dropTurns p)

/-! ## FLUSH and RELEASE -/

/-- Pages with a dirty LBA in a range. -/
def State.dirtyPages (s : State) (lba n : Nat) : List Nat :=
  (s.depot.pages.filter (fun e => e.2.dirty &&& lbaMask lba n e.1 != 0)).map (·.1)

/-- The dirty LBAs of a range. -/
def State.dirtyLbas (s : State) (lba n : Nat) : List Nat :=
  (s.dirtyPages lba n).flatMap (fun g => (bitsSet 16 ((s.page g).dirty &&& lbaMask lba n g)).map (16 * g + ·))

/-- Program every staged unit that holds an LBA of a range at once (R449, R476). -/
def State.programRange (s : State) (lba n : Nat) : State :=
  ((s.flash.units.filter (fun e => e.2.lbas.any (fun b => lba ≤ b && b < lba + n))).map (·.1)).foldl State.beginUnit s

/-- A FLUSH begins: write-back and unit programs start, and it waits for the LBAs dirty now (R449). -/
def State.flushGo (s : State) (p : Nat) : State :=
  let e := (s.cmd p).entry
  let n := if sqCount64 e = 0 then userLbas else sqCount64 e
  let dirty := s.dirtyLbas (sqLba e) n
  let s1 := (s.dirtyPages (sqLba e) n).foldl State.startWriteBack s
  let s2 := s1.programRange (sqLba e) n
  if dirty = [] then s2.finish p 0 0 else s2.setCmd p { s2.cmd p with waits := dirty }

/-- A RELEASE begins: each page of its range waits its turn (R450). -/
def State.releaseGo (s : State) (p : Nat) : State :=
  let e := (s.cmd p).entry
  let pages := lbaPages (sqLba e) (sqCount64 e)
  let s1 := s.setCmd p { s.cmd p with waits := pages }
  s1.setDepot { s1.depot with
    turns := s1.depot.turns ++ pages.map (fun g =>
      { place := some p, page := g, addr := 65536 * g, bytes := [], release := lbaMask (sqLba e) (sqCount64 e) g }) }

/-- The logical sections a RELEASE covers whole. -/
def wholeSections (lba n : Nat) : List Nat :=
  (List.range ((lba + n) / sectionLbas + 1)).filter (fun l => lba ≤ sectionLbas * l && sectionLbas * (l + 1) ≤ lba + n)

/-! ## The tier's events -/

/-- READs that waited for a page go on (R242). -/
def State.readsResume (s : State) (g : Nat) : State :=
  (s.host.cmds.map (·.1)).foldl (fun s p =>
    let c := s.cmd p
    if sqOpcode c.entry = 0x01 ∧ s.open p ∧ c.waits.contains g then
      let w := c.waits.filter (· != g)
      let s1 := s.setCmd p { c with waits := w }
      if w = [] then s1.readOut p else s1
    else s) s

/-- A promotion's flash reads are complete and the page becomes resident, once a frame is free for it (R242, R243). -/
def State.promoted (s : State) (g : Nat) : State :=
  if !(s.page g).promoting ∨ s.promoteOpen g then s
  else
    let s1 := if (s.page g).owed then s.frameFor g else s
    if (s1.page g).owed then s1
    else ((s1.setPage g { s1.page g with promoting := false, resident := true }).touch g).readsResume g

/-- A stack serves shares of the reserve again: READs that waited for them go on (R246, R247). -/
def State.sharesBack (s : State) (waited : List Nat) : State :=
  waited.foldl (fun (s : State) g =>
    let s1 := s.readPage g
    if s1.awaitsPage g then s1 else s1.readsResume g) s

/-- The pages that READs wait for because of a share. -/
def State.sharePages (s : State) : List Nat :=
  ((s.host.cmds.filter (fun e => sqOpcode e.2.entry = 0x01 && s.open e.1)).flatMap (fun e => e.2.waits.filter s.shareWaits)).dedup

/-! ## The rows -/

/-- READ (R444). -/
def execRead (q : QueueId) (s : State) : Host.Outcome State Fault Refusal :=
  .next (s.onEntry q (fun e => sqOpcode e = 0x01) fun p e s =>
    s.blockChecks p (transferFields e) (sqLba e + sqCount e) fun s => s.transferGo p)

/-- WRITE (R445); refused with 0x2003 once the spare reserve is exhausted (R508). -/
def execWrite (q : QueueId) (s : State) : Host.Outcome State Fault Refusal :=
  .next (s.onEntry q (fun e => sqOpcode e = 0x02) fun p e s =>
    s.blockChecks p (transferFields e) (sqLba e + sqCount e) fun s =>
      if s.fbit F.flsHealthExhausted 0 then s.fail p 0x2003 else s.transferGo p)

/-- FLUSH (R449). -/
def execFlush (q : QueueId) (s : State) : Host.Outcome State Fault Refusal :=
  .next (s.onEntry q (fun e => sqOpcode e = 0x03) fun p e s =>
    s.blockChecks p (rangeFields e) (sqLba e + sqCount64 e) fun s => s.flushGo p)

/-- RELEASE (R450). -/
def execRelease (q : QueueId) (s : State) : Host.Outcome State Fault Refusal :=
  .next (s.onEntry q (fun e => sqOpcode e = 0x04) fun p e s =>
    s.blockChecks p (rangeFields e) (sqLba e + sqCount64 e) fun s => s.releaseGo p)

/-- WRITE_BACK_TIMER (R244). -/
def execWriteBackTimer (page : Nat) (s : State) : Host.Outcome State Fault Refusal := .next (s.startWriteBack page)

/-- TIER_ENTRY_LOOKUP (R250): a request looks up the tier entry of a media or scratch page in its home die's depot cache. -/
def execTierEntryLookup (d : DieId) (page : Nat) (s : State) : Host.Outcome State Fault Refusal :=
  .next (if s.homeDie page = d.val ∧ (isMediaPage page ∨ isScratchPage page) then s.tierLookup page else s)

end Sys2Proof.Machine
end

