-- ==== Sys2Proof/Machine/Maint.lean ====
section
/-! DEFINITION. What outlives a power cycle: measurements (R621 to R623), GLB.MAINT and PROGRESS (R526), the phases of SANITISE
and FORMAT (R582 to R585) and the end of an activation (R590). -/

namespace Sys2Proof.Machine

/-! ## Measurements (R621) -/

/-- The firmware region 0 (A) or 1 (B). -/
def State.fwRegion (s : State) (r : Nat) : FwRegion := if r = 0 then s.cfs.fwA else s.cfs.fwB

/-- The module settings other than the signers', in ascending ID (R527). -/
def settingIds : List Nat := [0x0001, 0x0002, 0x0003] ++ (List.range 126).map (0x1000 + ·)

/-- A setting's value in force; 0 where it was never set. -/
def State.setting (s : State) (id : Nat) : Nat := Tbl.look 0 s.cfs.inForce id

/-- The key of a signer 1 to 7 as committed. -/
def State.signerKey (s : State) (n : Nat) : List Byte :=
  if n = 0 then Config.norlerKey.take 57 else Tbl.look (zeros 57) s.cfs.keys n

/-- A FUSE record as stored (R524, R555): head, the two words, and the CRC. -/
def fuseBytes (r : Nat × Nat × Nat) : List Byte :=
  let body := leBytes 2 0xC5F0 ++ leBytes 1 0x40 ++ leBytes 1 0 ++ leBytes 2 5 ++ leBytes 2 0 ++ leBytes 8 r.1 ++
    leBytes 8 r.2.1 ++ leBytes 8 r.2.2
  body ++ leBytes 8 (crc32 body)

/-- The value of a measurement index over the state as it is (R621); zeros for something absent or an index with no block. -/
def State.measure (s : State) (i : Nat) : List Byte :=
  let other := s.fwRegion (1 - s.fget F.glbFwRunning 0)
  if i = 1 then padTo 64 Config.romDigest
  else if i = 2 then shake256 64 (s.fwRegion (s.fget F.glbFwRunning 0)).bytes
  else if i = 3 then (if other.valid then shake256 64 other.bytes else zeros 64)
  else if i = 4 then shake256 64 (Config.efuseImage (s.fget F.secSvnSvn 0))
  else if i = 5 then shake256 64 (s.cfs.fuses.flatMap fuseBytes)
  else if i = 6 then
    let valid := s.fget F.ttbSignersValid 0
    shake256 64 (leBytes 1 valid ++ leBytes 1 (s.fget F.ttbSignersRevoked 0) ++
      [1, 2, 3, 4, 5, 6, 7].flatMap (fun n => if valid.testBit n then padTo 57 (s.signerKey n) else zeros 57))
  else if i = 7 then shake256 64 (settingIds.flatMap (fun id => leBytes 4 id ++ leBytes 8 (s.setting id)))
  else if i = 8 then (match s.mesh.table with
    | some t => shake256 64 t
    | none => zeros 64)
  else if 16 ≤ i ∧ i < 80 then (match (s.slot (i - 16)).img with
    | some im => shake256 64 (im.bytes.take 128)
    | none => zeros 64)
  else zeros 64

/-- Begin to recompute a measurement (R621, R622): SEC.MEAS keeps the old value until the digest engine is done. -/
def State.remeasure (s : State) (i : Nat) : State :=
  s.setSecurity { s.security with recompute := s.security.recompute ++ [⟨i, s.measure i⟩] }

/-- Write a measurement into SEC.MEAS. -/
def State.putMeasure (s : State) (i : Nat) (v : List Byte) : State := s.rsetBytes .secMeas (8 * i) v

/-- MEASUREMENT_RECOMPUTE_DONE (R623): the oldest recomputation of an index ends. -/
def execMeasurementRecomputeDone (index : Nat) (s : State) : Host.Outcome State Fault Refusal :=
  .next (match s.security.recompute.find? (fun r => r.index = index) with
    | none => s
    | some r =>
      (s.setSecurity { s.security with recompute := s.security.recompute.erase r }).putMeasure index r.value)

/-! ## GLB.MAINT and PROGRESS -/

/-- Hand a record to the configuration store. -/
def State.cfsWrite (s : State) (w : CfsWrite) : State := s.setCfs { s.cfs with writes := s.cfs.writes ++ [w] }

/-- Show an operation's phase and units in GLB.MAINT. -/
def State.maintSet (s : State) (op phase done total : Nat) : State :=
  (((s.fset F.glbMaintOp 0 op).fset F.glbMaintPhase 0 phase).fset F.glbMaintDone 0 done).fset F.glbMaintTotal 0 total

/-- An operation reaches a phase and a count of units: shown in GLB.MAINT and committed in PROGRESS (R526). -/
def State.progress (s : State) (op phase done total : Nat) : State :=
  (s.maintSet op phase done total).cfsWrite (.progress op phase done total)

/-- An operation ends with a status (GLB.MAINT.LAST_STATUS, R624). -/
def State.maintEnd (s : State) (op status : Nat) : State :=
  (((s.fset F.glbMaintOp 0 0).fset F.glbMaintLastOp 0 op).fset F.glbMaintLastStatus 0 status).flag F.glbEventStatusMaintEnded

/-- The outstanding command of an opcode, if one is there. -/
def State.openOf (s : State) (op : Nat) : Option Nat :=
  ((s.host.cmds.filter (fun e => e.2.live && !e.2.decided && sqOpcode e.2.entry = op)).map (·.1)).head?

/-- The outstanding command of an opcode ends, if one is there. -/
def State.finishOf (s : State) (op status result : Nat) : State :=
  match s.openOf op with
  | some p => s.finish p status result
  | none => s

/-! ## Dropping the media part (R582, R585) -/

/-- A media page after a FORMAT or a sanitise: unmapped, no frame; its own generation stays. -/
def Page.emptied (x : Page) : Page := { gen := x.gen, holds := x.holds, writer := x.writer }

/-- Every LBA is unmapped: frames, staging and content of the media part are dropped, and the generation of every media page
rises by the two steps of R265. -/
def State.dropMedia (s : State) : State :=
  let framed := (s.depot.pages.filter (fun e => isMediaPage e.1 && e.2.framed)).map (·.1)
  let s1 := framed.foldl (fun s p => s.freeFrame (s.homeStack p)) s
  let d := s1.depot
  let pages := (d.pages.map (fun e => if isMediaPage e.1 then (e.1, e.2.emptied) else e)).filter (fun e => e.2 != {})
  let s2 := s1.setDepot { d with
    pages := pages
    lru := []
    atomics := []
    turns := d.turns.filter (fun t => !isMediaPage t.page)
    layers := d.layers.filter (fun l => !(l.addr < userEnd))
    base := d.base.clear 0 userEnd
    epoch := (d.epoch + 2) % 2 ^ 32 }
  let s3 := [0, 1, 2, 3].foldl (fun s k =>
    let xs := Tbl.look [] s.depot.lines k
    let keep := xs.filter (fun l => !isMediaPage (l / 256))
    (s.setDepot { s.depot with
      lines := Tbl.put [] s.depot.lines k keep
      pinnedLines := Tbl.put [] s.depot.pinnedLines k ((Tbl.look [] s.depot.pinnedLines k).filter (fun l => !isMediaPage (l / 256))) }).bump F.depCacheCtrCount (5 * k + 4)
      (xs.length - keep.length)) (s2.clearBad 0 userEnd)
  (s3.fset F.depTierLevelDirty4k 0 0).setFlash { s3.flash with
    reads := s3.flash.reads.filter (fun e => e.2.why = .patrol)
    crowded := []
    units := s3.flash.units.filter (fun e => e.2.lbas = [] && !e.2.merge && !e.2.inOrder) }

/-! ## SANITISE (R582, R583) -/

/-- Phase 1 of a sanitise: media frames, staging and journal buffers are dropped and the map is cleared. -/
def State.sanClear (s : State) : State :=
  let s1 := s.dropMedia
  s1.setFlash { s1.flash with
    lsecs := [], units := [], reads := [], eraseQ := [], journal := [], bufBytes := 0, formatSecs := [], flushed := none }

/-- Phase 4 of a sanitise: both checkpoint slots are erased, every good section is FREE but for the flush sections and a new
journal pair, and a new checkpoint is written (R582). -/
def State.sanFree (s : State) : State :=
  let roles := (s.flash.secs.map (·.1)).filter (fun p => (s.sec p).st != .retired && (s.sec p).st != .flush)
  let s1 := roles.foldl (fun s p => s.setSecSt p .free) (s.flash.pair.foldl (fun s p => s.setSecSt p .free) s)
  let s2 := s1.setFlash { s1.flash with
    secs := (s1.flash.secs.map (fun e => (e.1, { e.2 with
      units := 0, lsec := 0, inOrder := false, suspends := 0, relocate := false }))).filter (fun e => e.2 != secShipped e.1)
    pair := [] }
  let s3 := s2.rollover
  (s3.setCfs { s3.cfs with ckpt0 := (0, 0), ckpt1 := (0, 0) }).eraseSectors (2 * ckptSectors)

/-- Begin phase 4. -/
def State.sanPhase4 (s : State) : State := (s.progress 1 4 0 1).sanFree

/-- The sanitise is done (R582, R583): event 0x0902, and the command completes with the count of blocks that did not erase. -/
def State.sanDone (s : State) : State :=
  let s1 := (s.progress 1 0xFF 1 1).event 17 0x0902 0 s.cfs.notErasable s.cfs.notProgrammable
  (s1.maintEnd 1 0).finishOf 0x28 0 s.cfs.notErasable

/-- An overwrite round is done (phase 2). -/
def State.sanOverwritten (s : State) (b failed : Nat) : State :=
  if s.fget F.glbMaintPhase 0 = 2 ∧ s.fget F.glbMaintDone 0 = b then
    let s1 := (s.bump F.flsCtrCount 9 failed)
    if b + 1 = 1368 then (s1.progress 1 2 1368 1368).progress 1 3 0 1368 else s1.progress 1 2 (b + 1) 1368
  else s

/-- The slot of a die unit, and its stripe group (R37, R469). -/
def slotOfDie (u : Nat) : Nat := u / 8 % 16
def groupOfDie (u : Nat) : Nat := 8 * (u / 128) + u % 8

/-- Retire a block that did not erase in a sanitise round; an entry of 1,536 or more names a die whose block neither erases
nor programs (R583). -/
def State.sanFail (b : Nat) (s : State) (x : Nat) : State :=
  let u := x % 1536
  let s1 := (s.bump F.flsCtrCount 10 1).growBad (1368 * groupOfDie u + b) (slotOfDie u) 1
  (s1.setCfs { s1.cfs with
    notErasable := s1.cfs.notErasable + 1
    notProgrammable := s1.cfs.notProgrammable + bit (x ≥ 1536) })

/-- Raise the erase count of a section, with the counts that follow from it (FLS.DIE, FLS.GROUP, FLS.HEALTH; R506). -/
def State.countErase (s : State) (p : Nat) : State :=
  let g := groupOf p
  let n := (s.sec p).erases + 1
  let s1 := s.putSec p { s.sec p with erases := n }
  let s2 := (List.range 16).foldl (fun s k =>
    s.fset F.flsDieMaxErase (dieOfSlot g k) (min 4095 (max n (s.fget F.flsDieMaxErase (dieOfSlot g k))))) s1
  let sum := fun h => ((s2.flash.secs.filter (fun e => groupOf e.1 = h)).map (fun e => e.2.erases)).sum
  let s3 := s2.fset F.flsGroupMeanErase g (min 4095 (sum g / 1368))
  s3.fset F.flsHealthLife 0 (min 255 (((List.range 96).map (fun h => sum h * 100 / (1368 * 3000))).foldl max 0))

/-- An erase round is done (phase 3): block b of every die, but for those that failed (R582, R583). -/
def State.sanErased (s : State) (b : Nat) (failed : List Nat) : State :=
  if s.fget F.glbMaintPhase 0 = 3 ∧ s.fget F.glbMaintDone 0 = b then
    let s1 := (List.range 96).foldl (fun s g => s.countErase (1368 * g + b)) s
    let s2 := failed.foldl (State.sanFail b) s1
    if b + 1 = 1368 then (s2.progress 1 3 1368 1368).sanPhase4 else s2.progress 1 3 (b + 1) 1368
  else s

/-! ## FORMAT (R585) -/

/-- Phase 2 of a format: a section of it has been erased. -/
def State.formatErased (s : State) (p : Nat) : State :=
  if s.flash.formatSecs.contains p then
    let rest := s.flash.formatSecs.filter (· != p)
    let s1 := s.setFlash { s.flash with formatSecs := rest }
    let total := s1.fget F.glbMaintTotal 0
    let s2 := s1.progress 2 2 (total - rest.length) total
    if rest = [] then (s2.event 17 0x0903 0 total 0).maintEnd 2 0 else s2
  else s

/-! ## Activation (R590) -/

/-- REVISION and SVN of a firmware image (R616). -/
def fwRevision (im : List Byte) : Nat := byteField im 16 8
def fwSvn (im : List Byte) : Nat := byteField im 28 1 % 64
def fwCommitSvn (im : List Byte) : Bool := byteField im 11 1 % 2 = 1
def fwProtoRev (im : List Byte) : Nat := byteField im 12 4

/-- The FW_ACTIVATE that an activation was begun by completes with the region's number. -/
def State.activationBy (s : State) (region : Nat) : Option Nat → State
  | some p => if s.open p ∧ sqOpcode (s.cmd p).entry = 0x27 then s.finish p 0 region else s
  | none => s

/-- FW_BOOT is committed in step 5: the new region runs, and the command completes with its number (R590). -/
def State.activated (s : State) (region : Nat) : State :=
  let s1 := ((s.fset F.glbFwRunning 0 region).bump F.glbFwHandovers 0 1).progress 3 5 1 1
  let s2 := (s1.event 17 0x0904 0 region (fwRevision (s1.fwRegion region).bytes)).maintEnd 3 0
  let s3 := ((s2.remeasure 2).remeasure 3).remeasure 4
  let s4 := s3.setPower { s3.power with restarted := [], handed := [], activateBy := none }
  s4.activationBy region s3.power.activateBy

end Sys2Proof.Machine
end

