-- ==== Sys2Proof/Machine/Slots.lean ====
section
/-! DEFINITION. Slots and the resources of stations: where images lie (R182 to R186), junction credits (R210, R218), what
check 13 asks, and the taking and releasing of an image's places (R187). -/

namespace Sys2Proof.Machine

/-! ## Images and stations -/

/-- A station takes jobs. -/
def State.stnUp (s : State) (st : Nat) : Bool := s.fbit F.stnStateInService st

/-- Stations in service, rising. -/
def State.stationsUp (s : State) : List Nat := (List.range 64).filter (fun st => s.stnUp st)

/-- Images placed or reserved: slot and image (R187). -/
def State.imagesAll (s : State) : List (Nat × Image) :=
  s.tt.slots.flatMap (fun e => (e.2.img.toList ++ e.2.old.toList).map (fun im => (e.1, im))) ++
    s.tt.queue.flatMap (fun x => x.image.toList.map (fun im => (x.took.getD x.replace, im)))

/-- Images with a place on a station. -/
def State.imagesOn (s : State) (st : Nat) : List Image :=
  (s.imagesAll.map (·.2)).filter (fun im => im.stations.contains st)

/-- The ranges taken in bank `k` of a station, in lane-store units within the bank. -/
def State.bankTaken (s : State) (st k : Nat) : List (Nat × Nat) :=
  (s.imagesOn st).map (fun im => ((im.at_ st).offs.getD k 0, 512 * stPages (im.stnRec st 1 0xFF) k))

/-- The platform runs taken on a station, in units of 64 KiB. -/
def State.platformTaken (s : State) (st : Nat) : List (Nat × Nat) :=
  (s.imagesOn st).map (fun im => ((im.at_ st).platform / 1024, stPlatform (im.stnRec st 1 0xFF)))

/-- The lowest multiple of `step` from which `n` units are free below `top` (R184). -/
def lowestFit (step top n : Nat) (taken : List (Nat × Nat)) : Option Nat :=
  if n = 0 then some 0
  else ((List.range (top / step)).map (step * ·)).find? (fun o => o + n ≤ top && taken.all (fun t => !meet (o, n) t))

/-- Configuration RAM pages of a station's share (R184): its records with their headers, and the ceiling list (log entry
22). -/
def cfgPages (rs : List TRec) (rel : Nat) : Nat :=
  ceilDiv (((rs.filter (fun r => r.station = rel)).map (fun r => 16 + r.body.length)).sum + tbLayers (groupBody rs 6)) 4096

/-- Where a container's station `rel` would lie on station `st`, at the lowest offsets that fit (R182 to R184). -/
def State.placeOn (s : State) (bs : List Byte) (rel st : Nat) : Option StnImage :=
  let rs := ttRecs bs
  let b := recBody rs 1 rel 0xFF
  let places := (s.imagesOn st).map (fun im => (im.at_ st).place)
  let pages := cfgPages rs rel
  let offs := (List.range 8).map (fun k => lowestFit 512 4096 (512 * stPages b k) (s.bankTaken st k))
  match (List.range 8).find? (fun p => !places.contains p), lowestFit 1 256 (stPlatform b) (s.platformTaken st) with
  | some p, some f =>
    if offs.all (·.isSome) ∧ pages ≤ 512 - ((s.imagesOn st).map (fun im => (im.at_ st).cfgPages)).sum then
      some ⟨st, p, offs.map (·.getD 0), 1024 * f, pages⟩
    else none
  | _, _ => none

/-! ## Stations and dies -/

/-- The stations of a mask, rising. -/
def maskStations (m : Nat) : List Nat := bitsSet 64 m

/-- The dies of some stations. -/
def diesOf (sts : List Nat) : List Nat := (sts.map (· / 16)).dedup

/-! ## Junction credits (R210, R218) -/

/-- The kind of an island within its die: 0 station, 1 depot cache, 2 signal box, 3 stack, 4 flash group, 5 branch line. -/
def islandKind (i : Nat) : Nat := if i = 140 then 6 else islandClass i

/-- Two islands of one die share a junction (R218). -/
def joined (a b : Nat) : Bool :=
  let j := fun x y : Nat =>
    (x = 0 && y ≤ 5) || (x = 1 && (y ≤ 5 || y = 6)) || (x = 2 && (y = 0 || y = 1 || y = 6)) ||
    (x = 3 && (y = 0 || y = 1 || y = 4 || y = 6)) || (x = 4 && (y = 0 || y = 1 || y = 3)) || (x = 5 && (y = 0 || y = 1)) ||
    (x = 6 && (y = 1 || y = 2 || y = 3))
  a != b && j (islandKind a) (islandKind b)

/-- The junction FIFOs from one island to another (R218): the two islands of each; a die bridge is none (log entry 22). -/
def pathFifos (a b : Nat) : List (Nat × Nat) :=
  if a = b then []
  else if islandDie a = islandDie b ∧ joined a b then [(a, b)]
  else
    let ca := islandOfCache (islandDie a)
    let cb := islandOfCache (islandDie b)
    (if a = ca then [] else [(a, ca)]) ++ (if b = cb then [] else [(cb, b)])

/-- The islands that traffic from one island enters on its way to another (R34, R218). -/
def islandPath (a b : Nat) : List Nat :=
  let ca := islandOfCache (islandDie a)
  let cb := islandOfCache (islandDie b)
  if a = b then []
  else if islandDie a = islandDie b ∧ joined a b then [b]
  else (if a = ca then [] else [ca]) ++ (if ca = cb then [] else [cb]) ++ (if b = cb then [] else [b])

/-- The islands an endpoint of a station's route may stand for (R166): a DRAM or flash route reaches every stack or group. -/
def State.endIslands (s : State) (sts : List Nat) (own ep : Nat) : List Nat :=
  let c := ep / 4096
  let st := sts.getD (ep % 4096) own
  if c = 0 then [islandOfStation own]
  else if c = 1 then [islandOfStation st]
  else if c = 2 then [islandOfCache (st / 16)]
  else if c = 3 then s.stacksUp.map islandOfStack
  else if c = 4 then (List.range 12).map islandOfFlash
  else if c = 5 then [islandOfLine (ep % 4096)]
  else [islandOfBox (st / 16)]

/-- The junction FIFOs of a route. -/
def State.routeFifos (s : State) (sts : List Nat) (own : Nat) (r : Route) : List (Nat × Nat) :=
  ((s.endIslands sts own r.src).flatMap (fun a => (s.endIslands sts own r.dst).flatMap (fun b => pathFifos a b))).dedup

/-- The credits an image reserves: (FIFO, credits) for every route on every station. -/
def State.imageCredits (s : State) (im : Image) : List ((Nat × Nat) × Nat) :=
  im.places.flatMap (fun p =>
    let sts := if ttBase im.bytes then [p.station] else im.stations
    (routesOf (im.stnRec p.station 2 0xFF)).flatMap (fun r => (s.routeFifos sts p.station r).map (fun f => (f, r.credits))))

/-- The junction FIFOs between the lines and their dies' depot caches: 24 entries of each are the fabric's while a table is in
force (R405). -/
def lineFifos : List (Nat × Nat) :=
  (List.range 24).flatMap (fun b => (let c := islandOfCache (b / 6); [(islandOfLine b, c), (c, islandOfLine b)] : List (Nat × Nat)))

/-- The credits that the fabric table in force holds. -/
def State.fabricCredits (s : State) : List ((Nat × Nat) × Nat) := if s.mesh.table.isSome then lineFifos.map (fun f => (f, 24)) else []

/-- With an image added, no junction FIFO's credits pass 56 (R210). -/
def State.creditsOk (s : State) (im : Image) : Bool :=
  let mine := s.imageCredits im
  let all := mine ++ s.fabricCredits ++ (s.imagesAll.map (·.2)).flatMap s.imageCredits
  ((mine.map (·.1)).dedup).all (fun f => ((all.filter (fun x => x.1 = f)).map (·.2)).sum ≤ 56)

/-! ## Taking and releasing -/

/-- Bytes of HOME 0 tables an image holds in the table region of each of its dies (R131, R248). -/
def tableRoom (bs : List Byte) : Nat :=
  let t := groupBody (ttRecs bs) 6
  if (List.range (tbTables t)).any (fun i => tbHome t i = 0) then (tbArea t).length else 0

/-- The depot caches of the dies have room for an image's tables. -/
def State.tablesFit (s : State) (bs : List Byte) (sts : List Nat) : Bool :=
  (diesOf sts).all (fun d => Tbl.look 0 s.depot.tableBytes d + tableRoom bs ≤ 16777216)

/-- Add to the table bytes of a die, or take from them. -/
def State.moveTables (s : State) (d add sub : Nat) : State :=
  s.setDepot { s.depot with tableBytes := Tbl.alter 0 s.depot.tableBytes d (fun n => n + add - sub) }

/-- The field of TTB.STN_PLACE for a place. -/
def placeFld (p : Nat) : Fld := ⟨.ttbStnPlace, 8 * p, 8⟩

/-- Show an image's place on a station taken by a slot, or empty again (TTB.STN_PLACE, TTB.STN_FREE). -/
def State.takePlace (slot : Nat) (s : State) (p : StnImage) : State :=
  (s.fset (placeFld p.place) p.station slot).dip F.ttbStnFreeCfgPagesFree p.station p.cfgPages

def State.dropPlace (s : State) (p : StnImage) : State :=
  (s.fset (placeFld p.place) p.station 0xFF).bump F.ttbStnFreeCfgPagesFree p.station p.cfgPages

/-- Set PLATFORM_FREE of a station from the images on it. -/
def State.platformFree (s : State) (st : Nat) : State :=
  s.fset F.ttbStnFreePlatformFree st (256 - ((s.platformTaken st).map (·.2)).sum)

/-- Check 13's places and shared resources (R179, R182 to R185, R210, R260): the image as it would lie. -/
def State.fitImage (s : State) (bs : List Byte) (sts : List Nat) : Option Image :=
  let rs := ttRecs bs
  let places := sts.zipIdx.map (fun x => s.placeOn bs (if ttBase bs then 0 else x.2) x.1)
  let ringsOk := (rs.filter (fun r => r.typ = 5)).all (fun r =>
    ((streamsOf r.body).map (·.depth)).sum ≤ stPlatform (recBody rs 1 r.station 0xFF))
  let im : Image := ⟨bs, places.map (·.getD ⟨0, 0, [], 0, 0⟩), 0⟩
  if places.all (·.isSome) ∧ ringsOk ∧ s.tablesFit bs sts ∧ s.creditsOk im then some im else none

/-! ## Choosing stations (R182) -/

/-- Sets of dies, fewest first, then the lowest-numbered. -/
def dieSets : List (List Nat) :=
  [[0], [1], [2], [3], [0, 1], [0, 2], [0, 3], [1, 2], [1, 3], [2, 3], [0, 1, 2], [0, 1, 3], [0, 2, 3], [1, 2, 3],
   [0, 1, 2, 3]]

/-- The lowest-numbered of some stations that take group stations `rel`, `rel + 1`, …, `g - 1` in turn, such that the whole group has
room for what its stations share. -/
def pickStations (fits : Nat → Nat → Bool) (whole : List Nat → Bool) (g : Nat) : List Nat → List Nat → Option (List Nat)
  | chosen, [] => if chosen.length = g ∧ whole chosen then some chosen else none
  | chosen, st :: sts =>
    if chosen.length = g then (if whole chosen then some chosen else none)
    else
      match if fits chosen.length st then pickStations fits whole g (chosen ++ [st]) sts else none with
      | some r => some r
      | none => pickStations fits whole g chosen sts

/-- The stations R182 chooses under tests of room; none where no set passes. -/
def chooseBy (fits : Nat → Nat → Bool) (whole : List Nat → Bool) (g : Nat) (up : List Nat) : Option (List Nat) :=
  (dieSets.filterMap (fun ds => pickStations fits whole g [] (up.filter (fun st => ds.contains (st / 16))))).head?

/-- The stations a container would take (R182, R195), and whether room was found: a given mask, the replaced image's mask, the
module's choice, or the choice as if every station had room (R181). A set passes check 13 with its stations' own room and with the
tables and junction credits they share. -/
def State.chooseStations (s : State) (bs : List Byte) (mask : Nat) (replaced : Option Image) : List Nat × Bool :=
  let g := ttGroup bs
  let fits := fun rel st => (s.placeOn bs rel st).isSome
  let whole := fun sts : List Nat => (s.fitImage bs sts).isSome
  if ttBase bs then (s.stationsUp, s.stationsUp.all (fits 0))
  else if mask ≠ 0 then (maskStations mask, whole (maskStations mask))
  else
    match replaced.bind (fun im => if im.stations.length = g ∧ im.stations.all (fun st => s.stnUp st) ∧ whole im.stations then some im.stations else none) with
    | some sts => (sts, true)
    | none =>
      match chooseBy fits whole g s.stationsUp with
      | some sts => (sts, true)
      | none => ((chooseBy (fun _ _ => true) (fun _ => true) g s.stationsUp).getD (s.stationsUp.take g), false)

/-- A depot range holds part of a retained container: neither jobs nor the host can address it (R185). -/
def State.namesKept (s : State) (a n : Nat) : Bool :=
  s.imagesAll.any (fun e => e.2.keep != 0 && meet (a, n) (e.2.keep, 65536 * ceilDiv e.2.bytes.length 65536))

/-- Reserve an image for a slot: its places, configuration RAM, platform, tables and retained container (R185, R187). -/
def State.reserveImage (s : State) (slot : Nat) (im : Image) : Option (Image × State) :=
  match s.allocScratch im.bytes.length with
  | none => none
  | some (a, s1) =>
    let s2 := s1.layOver none a im.bytes
    let s3 := im.places.foldl (State.takePlace slot) s2
    let s4 := (diesOf im.stations).foldl (fun s d => s.moveTables d (tableRoom im.bytes) 0) s3
    some ({ im with keep := a }, s4)

/-- Release an image's places, configuration RAM, tables and retained container (R187). -/
def State.releaseImage (s : State) (im : Image) : State :=
  let s1 := im.places.foldl State.dropPlace s
  let s2 := (diesOf im.stations).foldl (fun s d => s.moveTables d 0 (tableRoom im.bytes)) s1
  s2.freeScratch im.keep im.bytes.length

/-- Bring PLATFORM_FREE up to date on some stations. -/
def State.platformsFree (s : State) (sts : List Nat) : State := sts.foldl State.platformFree s

/-! ## Slot states -/

/-- STATE of a slot: 0 FREE, 1 LOADING, 2 CHECKING, 3 PLACING, 4 STITCHED, 5 HANDOVER. -/
def State.slotState (s : State) (k : Nat) : Nat := s.fget F.ttbSlotStateState k

/-- The lowest-numbered FREE slot of TS01 to TS63 (R187). -/
def State.freeSlot (s : State) : Option Nat := ((List.range 63).map (· + 1)).find? (fun k => s.slotState k = 0)

/-- Show the image on which runs begin in a slot's registers, and recompute its measurement (R621). FENCED that a slot in HANDOVER shows
stays until that ends (R187). -/
def State.showImage (s : State) (k : Nat) (im : Image) : State :=
  let bs := im.bytes
  let s1 := (s.fset F.ttbSlotStateBase k (bit (ttBase bs))).fset F.ttbSlotStateGroupSize k (ttGroup bs)
  let s2 := (s1.fset F.ttbSlotStateSigner k (ttSigner bs)).fset F.ttbSlotStateCfgPages k
    ((im.places.map (·.cfgPages)).foldl max 0)
  let s3 := (s2.fset F.ttbSlotMaskMask k (maskOf im.stations)).fset F.ttbSlotTtidTimetableId k (ttId bs)
  (s3.fset F.ttbSlotStateFenced k (bit (im.stations.any (fun st => !s.stnUp st) || (s.slotState k = 5 && s.fbit F.ttbSlotStateFenced k)))).remeasure (16 + k)

/-- A slot becomes FREE. -/
def State.clearSlot (s : State) (k : Nat) : State :=
  let s1 := ((s.rset .ttbSlotState k 0).rset .ttbSlotMask k 0).rset .ttbSlotTtid k 0
  ((s1.rset .ttbSlotOldMask k 0).setSlot k {}).remeasure (16 + k)

/-- The slots whose image has a fenced station and that no stitch replaces yet have their replacement issued again (R310). -/
def State.reissue (s : State) : State :=
  let waiting := (List.range 63).map (· + 1) |>.filter (fun k =>
    s.slotState k = 4 && s.fbit F.ttbSlotStateFenced k && !s.tt.queue.any (fun x => x.by_ = .module && x.replace = k))
  s.setTt { s.tt with queue := s.tt.queue ++ waiting.map (fun k => { by_ := .module, slot := 255, replace := k }) }

/-- The image on which runs begin has a fenced station. -/
def State.slotFenced (s : State) (k : Nat) : Bool := (s.slot k).img.any (fun im => im.stations.any (fun st => !s.stnUp st))

/-- HANDOVER ends: the old image's places are released, and FENCED is cleared if the new mask holds no fenced station; where it
holds one the replacement is issued again (R187, R191, R310). -/
def State.endHandover (s : State) (k : Nat) : State :=
  match (s.slot k).old with
  | none => s
  | some im =>
    let s1 := (s.releaseImage im).setSlot k { s.slot k with old := none, begun := [] }
    let s2 := ((s1.platformsFree im.stations).fset F.ttbSlotStateState k 4).fset F.ttbSlotOldMaskOldMask k 0
    (s2.fset F.ttbSlotStateFenced k (bit (s2.slotFenced k))).reissue

/-- Jobs bound to a slot. -/
def State.jobsOf (s : State) (k : Nat) : List Nat :=
  (List.range 256).filter (fun j =>
    s.fget F.jobStateState j != 0 && s.fget F.jobStateState j != 6 && s.fget F.jobStateSlot j = k)

/-- End HANDOVER once every bound job has begun a run on the new image. -/
def State.handoverCheck (s : State) (k : Nat) : State :=
  if s.slotState k = 5 ∧ (s.jobsOf k).all (fun j => (s.slot k).begun.contains j) then s.endHandover k else s

end Sys2Proof.Machine
end

