-- ==== Sys2Proof/Machine/JobsCore.lean ====
section
/-! DEFINITION. The job table (R282 to R291): binding and ending, the request queue, a job's state, how a station is given to
a job (R292 to R298), the start of a run, the worst-case time (R300) and express admission (R302 to R306). -/

namespace Sys2Proof.Machine

/-! ## Reading the table -/

/-- STATE of a job: 0 FREE, 1 STITCHED, 2 ADMITTED, 3 RUNNING, 4 DRAINING, 5 PARKED, 6 ENDED. -/
def State.jobSt (s : State) (j : Nat) : Nat := s.fget F.jobStateState j

/-- A job is bound: neither FREE nor ENDED. -/
def State.jobBound (s : State) (j : Nat) : Bool := s.jobSt j != 0 && s.jobSt j != 6

/-- The slot a job is bound to. -/
def State.jobSlot (s : State) (j : Nat) : Nat := s.fget F.jobStateSlot j

/-- The image on which the job's next run begins (R191). -/
def State.jobImage (s : State) (j : Nat) : Option Image := (s.slot (s.jobSlot j)).img

/-- The island of the job's home signal box (R286), and its counter. -/
def State.homeBox (s : State) (j : Nat) : Nat := islandOfBox (s.fget F.jobStateHomeDie j)
def State.homeCyc (s : State) (j : Nat) : Nat := s.cyc (s.homeBox j)

/-- Cycles of a 64-bit counter between a stamp and now. -/
def cycSince (now stamp : Nat) : Nat := (now + 2 ^ 64 - stamp % 2 ^ 64) % 2 ^ 64

/-- The later of two stamps, seen from now. -/
def laterOf (now a b : Nat) : Nat := if cycSince now a ≤ cycSince now b then a else b

/-- The image of the run in progress, else the one the next run begins on. -/
def State.runImage (s : State) (j : Nat) : Option Image :=
  match (s.job j).run with
  | some r => some r.image
  | none => s.jobImage j

/-- Express. -/
def State.isExpress (s : State) (j : Nat) : Bool := s.fbit F.jobStateExpress j

/-! ## A run's buffers and scalars -/

/-- Bytes rounded up to whole tier pages. -/
def pageBytes (n : Nat) : Nat := 65536 * ceilDiv n 65536

/-- The staging of a batch: depot addresses of its input and output areas (R453). -/
def stagingOf (h : JobHold) (cap : Nat) (b : Batch) : Nat × Nat :=
  let st := h.batcher.staging.getD (0, 0)
  let sz := h.batcher.sizes.getD (0, 0)
  (st.1 + b.area * pageBytes (cap * sz.1), st.2 + b.area * pageBytes (cap * sz.2))

/-- Where the outgoing rows and the returned rows of a binding's origin exchange area begin (R407). -/
def outgoingAt (t : List Byte) (n : Nat) : Nat := fbXOrigin t n + pageBytes (64 * fbRows t n)
def returnedAt (t : List Byte) (n : Nat) : Nat := outgoingAt t n + pageBytes (fbRows t n * fbRowBytes t n)

/-- The bytes of a region of a home exchange area, and where region `u` begins (R408). -/
def homeC (t : List Byte) (n : Nat) : Nat := fbHomeCap t n + 64
def homeQ (t : List Byte) (n : Nat) : Nat :=
  pageBytes (16 * homeC t n) + pageBytes (4 * homeC t n) + 2 * pageBytes (homeC t n * fbRowBytes t n)
def regionAt (t : List Byte) (n u : Nat) : Nat := fbXHome t n + 65536 + u * homeQ t n
/-- The gates, the input rows and the output rows of region `u`. -/
def gatesAt (t : List Byte) (n u : Nat) : Nat := regionAt t n u + pageBytes (16 * homeC t n)
def inRowsAt (t : List Byte) (n u : Nat) : Nat := gatesAt t n u + pageBytes (4 * homeC t n)
def outRowsAt (t : List Byte) (n u : Nat) : Nat := inRowsAt t n u + pageBytes (homeC t n * fbRowBytes t n)

/-- ROW_CAP of a job's image (R410). -/
def State.rowCapOf (s : State) (j : Nat) : Nat := ((s.jobImage j).map (fun im => paRowCap (im.group 9))).getD 0

/-- Buffer `k` of a home run (R409). -/
def State.chunkBuf (s : State) (n c k : Nat) : Option (Nat × Nat) :=
  match s.mesh.table, (s.mstep n).chunks[c]? with
  | some t, some ch =>
    let cap := s.rowCapOf ch.job
    if k = 0 then some (fbWBase t n + (s.mstep n).homeLayer * fbWStride t n + ch.expert * fbExpertBytes t n, fbExpertBytes t n)
    else if k = 1 then some (inRowsAt t n ch.expert + ch.first * fbRowBytes t n, cap * fbRowBytes t n)
    else if k = 2 then some (gatesAt t n ch.expert + 4 * ch.first, 4 * cap)
    else if k = 3 then some (outRowsAt t n ch.expert + ch.first * fbRowBytes t n, cap * fbRowBytes t n)
    else none
  | _, _ => none

/-- Buffer `k` of an origin run: rebased by its layer, the outgoing rows, or the batch's output staging (R409, R453). -/
def State.originBuf (s : State) (j n k : Nat) (own : Nat × Nat) : Nat × Nat :=
  match s.mesh.table, (s.mstep n).batch with
  | some t, some b =>
    match (List.range 2).find? (fun i => fbRebaseBuf t n i = k) with
    | some i => (own.1 + (s.mstep n).originLayer * fbRebaseStride t n i, own.2)
    | none =>
      if k = 0 then (outgoingAt t n, fbRows t n * fbRowBytes t n)
      else if k = 1 then ((stagingOf (s.job j) (fbRows t n) b).2, fbRows t n * (((s.job j).batcher.sizes).getD (0, 0)).2)
      else own
  | _, _ => own

/-- The siding region that a root names: its base, and its length by the root's fields (R312, R315, R321). -/
def State.sidingRange (s : State) (root : Nat) : Nat × Nat :=
  let f := fun o n => s.depotNat (root + o) n
  let vec := if f 7 1 = 0 then f 8 2 else 2 * f 8 2
  (f 184 8, f 24 4 * (12 + vec))

/-- Buffer `k` of a job in its run in progress: base and length; a batch's run has buffers 0 and 1 at its staging (R453), an
EMBED's at its items and its staging area (R376), a binding's as R409 gives, and a siding run has the siding of the root that its
searches name (R282, R323). -/
def State.runBuf (s : State) (j k : Nat) : Nat × Nat :=
  let h := s.job j
  let own := h.bufs.getD k (0, 0)
  match h.run.map Run.what with
  | some (.batch b) =>
    let cap := s.fget F.jobBatchCfgRowCap j
    let st := stagingOf h cap b
    let sz := h.batcher.sizes.getD (0, 0)
    if k = 0 then (st.1, cap * sz.1) else if k = 1 then (st.2, cap * sz.2) else own
  | some (.embed p first _) =>
    match s.scan.embeds.find? (fun e => e.place = p) with
    | some e =>
      if k = 0 then (e.src + first * e.itemBytes, e.cap * e.itemBytes)
      else if k = 1 then (if first / max 1 e.cap % 2 = 0 then e.staging.1 else e.staging.2, e.cap * e.outBytes)
      else own
    | none => own
  | some (.mesh n c) => (s.chunkBuf n c k).getD own
  | some (.origin n) => s.originBuf j n k own
  | some (.siding root _ _ _) => if k = 0 then s.sidingRange root else (0, 0)
  | _ => own

/-- Scalar `n` in the run in progress: scalar 0 holds the real rows or items of a batch (R453, R376). -/
def State.runScalar (s : State) (j n : Nat) : Nat :=
  let h := s.job j
  let own := h.scalars.getD n 0
  if n ≠ 0 then own
  else
    match h.run.map Run.what with
    | some (.batch b) => b.rows.length
    | some (.embed _ _ count) => count
    | some (.origin k) => ((s.mstep k).batch.map (fun b => b.rows.length)).getD own
    | _ => own

/-! ## States (R290) -/

/-- A lane row of a station carries the job's image pointer. -/
def State.carries (s : State) (st j : Nat) : Bool := (s.stn st).lanes.any (fun e => e.2.job = some j)

/-- The station runs the job: its lane rows carry it, or the station has been given to it, and no order takes it out (R288, R290). -/
def State.runsOn (s : State) (j st : Nat) : Bool :=
  (s.carries st j || (s.stn st).incoming = some j) && (s.stn st).outgoing != some j

/-- STATE by R290. -/
def State.stateNow (s : State) (j : Nat) : Nat :=
  let sts := s.stations.map (·.1)
  let draining := sts.any (fun st => (s.stn st).outgoing = some j)
  if (s.job j).run.isSome then
    (if sts.any (s.runsOn j) then 3 else if draining then 4 else 5)
  else if draining then 4
  else if (s.job j).queue ≠ [] then 2
  else 1

/-- End the commands that wait for a job: HOLD once no run is in progress, END once the job is ENDED (R291). -/
def State.settleSignals (s : State) (j : Nat) : State :=
  let h := s.job j
  let s1 := if h.run.isNone then
      (h.holdWait.foldl (fun s p => if s.open p then s.finish p 0 0 else s) s).setJob j { h with holdWait := [] }
    else s
  let h1 := s1.job j
  if s1.jobSt j = 6 then (h1.endWait.foldl (fun s p => if s.open p then s.finish p 0 0 else s) s1).setJob j { h1 with endWait := [] }
  else s1

/-! ## Worst-case time (R300, R301) -/

/-- W of an image; 0 where FLASH_READS is above 0. -/
def wcetOf (im : Image) : Nat :=
  let b := im.group 8
  if bdFlash b ≠ 0 then 0
  else max (bdRun b) (bdPass b + bdRerun b + 6 * bdXings b + 10 * bdBridges b + 1055 * bdDram b)

/-! ## Express admission (R302 to R306) -/

/-- The masks of a job's slot: its stations. -/
def State.jobStations (s : State) (j : Nat) : List Nat := maskStations (s.fget F.ttbSlotMaskMask (s.jobSlot j))

/-- Express jobs on the module. -/
def State.expressJobs (s : State) : List Nat := (List.range 256).filter (fun j => s.jobBound j && s.isExpress j)

/-- The sum of R303 over some jobs as a fraction with a common denominator: numerator and denominator. -/
def shareSum (ws : List (Nat × Nat)) : Nat × Nat :=
  ws.foldl (fun (acc : Nat × Nat) (w : Nat × Nat) => (acc.1 * (700 * w.2) + (w.1 + 1068) * acc.2, acc.2 * (700 * w.2))) (0, 1)

/-- R303 on one station for a set of express jobs. -/
def State.shareOk (s : State) (es : List Nat) (st : Nat) : Bool :=
  let r := shareSum ((es.filter (fun e => (s.jobStations e).contains st)).map (fun e =>
    (s.fget F.jobWcetW e, (s.job e).period)))
  100 * r.1 ≤ s.fget F.jobSchedExpressShare 0 * r.2

/-- The response bound of R304. -/
def State.responseOf (s : State) (es : List Nat) (e : Nat) : Nat :=
  let sums := (s.jobStations e).map (fun st =>
    ((es.filter (fun f => f != e && (s.jobStations f).contains st)).map (fun f => s.fget F.jobWcetW f + 40)).sum)
  32 + 1028 + sums.foldl max 0 + s.fget F.jobWcetW e

/-- R304's condition on one express job: within its own PERIOD_US and that of every job it shares a station with. -/
def State.responseOk (s : State) (es : List Nat) (e : Nat) : Bool :=
  let r := s.responseOf es e
  let near := es.filter (fun f => f = e || (s.jobStations e).any (fun st => (s.jobStations f).contains st))
  near.all (fun f => 10 * r ≤ 6986 * (s.job f).period)

/-- An express job's own conditions (R302). -/
def State.expressFit (s : State) (j : Nat) : Bool :=
  match s.jobImage j with
  | some im => s.jobBound j && ttExpress im.bytes && im.group 7 = [] && bdFlash (im.group 8) = 0 &&
      1 ≤ (s.job j).period
  | none => false

/-- The tests of R303 and R304 for a set of express jobs. -/
def State.expressTests (s : State) (es : List Nat) : Bool :=
  es.all (fun e => s.expressFit e && s.responseOk es e) && (List.range 64).all (s.shareOk es)

/-- Show R_e of every express job, and 0 of the others (JOB.XBOUND). -/
def State.showBounds (s : State) : State :=
  let es := s.expressJobs
  (List.range 256).foldl (fun s j => s.fset F.jobXboundRespCyc j (if es.contains j then s.responseOf es j else 0)) s

/-- A job is no longer express: its runs wait for their share (R305, R306). -/
def State.unexpress (s : State) (j : Nat) : State :=
  (List.range 64).foldl (fun (s : State) st =>
    if (s.stn st).ready.contains j then s.setStn st { s.stn st with ready := (s.stn st).ready.filter (· != j) } else s)
    (s.fset F.jobStateExpress j 0)

/-- One express job that no longer passes loses EXPRESS, with an event (R306). -/
def State.expressDrop (s : State) (j : Nat) : State :=
  let es := s.expressJobs
  let ok : Bool := s.responseOk es j && (s.jobStations j).all (s.shareOk es)
  if ok then s else ((s.unexpress j).event 17 0x0202 0 j 0).flag F.glbEventStatusExpressCleared

/-- Run the admission tests again (R306). -/
def State.expressAgain (s : State) : State := (s.expressJobs.foldl State.expressDrop s).showBounds

/-! ## Ending a job -/

/-- Scratch of a job's batching staging: four areas each way (R453). -/
def State.freeStaging (s : State) (j : Nat) : State :=
  let h := s.job j
  match h.batcher.staging, h.batcher.sizes with
  | some (a, b), some (x, y) =>
    let cap := s.fget F.jobBatchCfgRowCap j
    (s.freeScratch a (4 * pageBytes (cap * x))).freeScratch b (4 * pageBytes (cap * y))
  | _, _ => s

/-- The RUN commands that own rows of some rows. -/
def placesOf (rows : List BatchRow) : List Nat := (rows.filterMap (fun r : BatchRow => r.place)).dedup

/-- Rows of RUNs that have joined the job's batcher and that no closed batch holds. -/
def Batcher.holdsRows (b : Batcher) : Bool := b.openB.any (fun x => x.rows != []) || b.waiting != []

/-- Release a page of a weight window (R273): its pin goes, and its frame is freed where nothing else pins it: at once if it holds
no dirty sub-block, else as soon as its write-back, which starts now, is done. -/
def State.unpinPage (s : State) (p : Nat) : State :=
  let x := s.page p
  let s1 := s.setPage p { x with pins := x.pins - 1 }
  let s2 := s1.setDepot { s1.depot with setAside := s1.depot.setAside + 1 }
  if x.pins ≠ 1 ∨ !x.resident ∨ !isMediaPage p then s2
  else if x.dirty = 0 then s2.dropFrame p
  else (s2.setPage p { s2.page p with leaving := true }).startWriteBack p

/-- Release some layers of a job's window. -/
def State.releaseLayers (s : State) (j : Nat) (gone : Nat → Bool) : State :=
  let h := s.job j
  let s1 := (h.pinned.filter (fun e : Nat × Nat => gone e.1)).foldl (fun (s : State) (e : Nat × Nat) => s.unpinPage e.2) s
  s1.setJob j { h with layers := h.layers.filter (fun e => !gone e.1), pinned := h.pinned.filter (fun e => !gone e.1) }

/-- The job becomes ENDED: scratch freed, places unpinned, JOBS reduced (R290). -/
def State.endJob (s : State) (j : Nat) : State :=
  let h := s.job j
  let k := s.jobSlot j
  let s1 := ((s.releaseLayers j (fun _ => true)).freeStaging j).freeScratch h.scratch.1 h.scratch.2
  let s2 := s1.setDepot { s1.depot with setAside := s1.depot.setAside - h.window }
  let s3 := (s2.setJob j { endWait := h.endWait, holdWait := h.holdWait }).fset F.jobStateState j 6
  let s4 := ((s3.fset F.jobStateEndPending j 0).fset F.jobStateHold j 0).fset F.jobStatePending j 0
  (((((s4.unexpress j).dip F.ttbSlotStateJobs k 1).handoverCheck k).expressAgain).settleSignals j)

/-- Bring a job's STATE up to date (R290), ending it where END_PENDING and nothing is left; rows in its batcher are run first (R20,
R119; DESIGN CHOICE, log entry 28). -/
def State.refresh (s : State) (j : Nat) : State :=
  if !s.jobBound j then s
  else
    let s1 := s.fset F.jobStateState j (s.stateNow j)
    let s2 := s1.settleSignals j
    let done : Bool := s2.fbit F.jobStateEndPending j && (s2.job j).run.isNone && (s2.job j).queue = [] && s2.stateNow j = 1 &&
      !(s2.job j).batcher.holdsRows
    if done then s2.endJob j else s2

/-! ## Binding (R282 to R285) -/

/-- JOB.BATCH_CFG and JOB.RERUN_CFG from an image (R115, R153, R191). -/
def State.loadConfig (s : State) (j : Nat) (im : Image) : State :=
  let p := im.group 9
  let allow := bdAllow (im.group 8)
  let s1 := ((s.fset F.jobBatchCfgTargetM j (paTarget p)).fset F.jobBatchCfgWaitUs j (paWait p)).fset F.jobBatchCfgRowCap j (paRowCap p)
  let s2 := (s1.fset F.jobBatchCfgEnabled j (bit (paBatching p))).fset F.jobRerunCfgLimit j allow
  ((s2.fset F.jobRerunCfgAllow j allow).fset F.jobRerunCfgCeilAdj j 0).fset F.jobWcetW j (wcetOf im)

/-- Clear a job's counters (R285). -/
def State.clearJobCounters (s : State) (j : Nat) : State :=
  let s1 := (List.range 7).foldl (fun s i => s.rset .jobBatchCtr (7 * j + i) 0) s
  let s2 := (List.range 6).foldl (fun s i => s.rset .jobClipCtr (6 * j + i) 0) s1
  let s3 := (List.range 8).foldl (fun s i => s.rset .jobAcct (8 * j + i) 0) s2
  (s3.rset .jobSlow j 0).fset ⟨.jobSlowAlerts, j % 64, 1⟩ (j / 64) 0

/-- The home die of a mask: the die of its lowest bit (R286). -/
def homeDieOf (im : Image) : Nat := (im.stations.foldl min 63) / 16

/-- Bind a job to a slot with its scratch allocated (R285). -/
def State.bindTo (s : State) (j k : Nat) (im : Image) (h : JobHold) : State :=
  let s1 := ((s.setJob j h).loadConfig j im).clearJobCounters j
  let s2 := (s1.fset F.jobCfgWeight j (paWeight (im.group 9))).fset F.jobCfgSlowThresh j 0x0200
  let s3 := (((s2.fset F.jobStateSlot j k).fset F.jobStateHomeDie j (homeDieOf im)).fset F.jobStateState j 1).fset F.jobStateEndPending j 0
  let s4 := (((s3.fset F.jobStateHold j 0).fset F.jobStateExpress j 0).fset F.jobStatePending j 0).bump F.ttbSlotStateJobs k 1
  s4.expressAgain

/-- A buffer lies in the part its KIND names, aligned and long enough (R284, checks 3 and 4), and not in a retained container, which
no job addresses (R185). -/
def State.bufferOk (s : State) (p : List Byte) (n : Nat) (b : Nat × Nat) : Bool :=
  let host := scratchBase + 2 ^ 30 * s.fget F.depHostwinSizeGib 0
  if n < paBuffers p then
    b.1 % 65536 = 0 && paMin p n ≤ b.2 &&
      (if paKind p n = 0 then b.1 + b.2 ≤ userEnd
       else if paKind p n = 1 then host ≤ b.1 && b.1 + b.2 ≤ scratchEnd && !s.namesKept b.1 b.2
       else scratchBase ≤ b.1 && b.1 + b.2 ≤ host)
  else b = (0, 0)

/-- The scalars of a binding: staged where the mask says, else the PARAM default (R285). -/
def State.boundScalars (s : State) (p : List Byte) (mask : Nat) : List Nat :=
  (List.range (paScalars p)).map (fun n =>
    if bitOf mask n then s.fget F.jobBindScalarValue n else paScalar p n)

/-- An image declares a buffer in the media part: its jobs touch it (R581). -/
def touchesMedia (im : Image) : Bool :=
  let p := im.group 9
  (List.range (paBuffers p)).any (fun n => paKind p n = 0)

/-- BIND (R284, R285, R581): the status, and the state after it. -/
def State.bind (s : State) (j k mask : Nat) : Nat × State :=
  let bufs := (List.range 16).map (fun n => (s.fget F.jobBindBufBase n, s.fget F.jobBindBufLength n))
  match (s.slot k).img with
  | none => (0x1001, s)
  | some im =>
    let p := im.group 9
    let slotOk : Bool := 1 ≤ k && k ≤ 63 && (s.slotState k = 4 || s.slotState k = 5)
    if j = 0 ∨ s.jobBound j ∨ !slotOk ∨ !(List.range 16).all (fun n => s.bufferOk p n (bufs.getD n (0, 0))) then (0x1001, s)
    else if touchesMedia im ∧ s.mediaBusy ≠ 0 then (s.mediaBusy, s)
    else
      match s.allocScratch (paScratch p) with
      | none => (0x4008, s)
      | some (a, s1) =>
        let frames := if im.group 7 = [] then 0 else 3 * wnPlace (im.group 7)
        if frames ≠ 0 ∧ !s1.frameFloor frames then (0x4008, s)
        else
          let s2 := s1.setDepot { s1.depot with setAside := s1.depot.setAside + frames }
          (0, s2.bindTo j k im { bufs := bufs.take (paBuffers p), scalars := s.boundScalars p mask,
                                 scratch := (a, paScratch p), window := frames })

/-- Bind J000 to TS00 (R282); its scalars are the PARAM defaults. -/
def State.bindBase (s : State) : State :=
  match (s.slot 0).img with
  | none => s
  | some im =>
    let p := im.group 9
    let r := (s.allocScratch (paScratch p)).getD (0, s)
    r.2.bindTo 0 0 im { scalars := s.boundScalars p 0, scratch := (r.1, if r.1 = 0 then 0 else paScratch p) }

/-! ## Giving a station to a job -/

/-- A row's input is there: its host data has come, or the pages of its depot range are not being promoted (R453). -/
def State.rowReady (s : State) (size : Nat) (r : BatchRow) : Bool :=
  match r.place with
  | none => true
  | some p =>
    let c := s.cmd p
    let a := byteField c.entry 16 8 + r.row * size
    if bitOf (byteField c.entry 9 1) 0 then
      (List.range ((a + size - 1) / 65536 - a / 65536 + 1)).all (fun i => !(s.page (a / 65536 + i)).promoting)
    else c.want ≤ c.got.length

/-- Every row of a batch of a job has its data (R453). -/
def State.batchReady (s : State) (j : Nat) (b : Batch) : Bool :=
  b.rows.all (s.rowReady (((s.job j).batcher.sizes).getD (0, 0)).1)

/-- The job's first request may start: no run in progress, HOLD clear, every station of its image in service (R287, R288,
R291, R310). A batch of a binding's origin job is taken by a step instead (R415). -/
def State.canStart (s : State) (j : Nat) : Bool :=
  match (s.job j).run, (s.job j).queue, s.jobImage j with
  | none, (w, _) :: _, some im =>
    !s.fbit F.jobStateHold j && im.stations.all (fun st => s.stnUp st) &&
      (match w with
       | .batch b => s.batchReady j b && (s.originOf j).isNone
       | _ => true)
  | _, _, _ => false

/-- Another job of the same image has a run begun on this station (R294). -/
def State.slotBusy (s : State) (st j : Nat) : Bool :=
  (s.jobsOf (s.jobSlot j)).any (fun i => i != j && (match (s.job i).run with
    | some r => r.started.contains st && some r.image = s.runImage j
    | none => false))

/-- The job has work on a station (R292). -/
def State.hasWork (s : State) (st j : Nat) : Bool :=
  s.jobBound j && !s.slotBusy st j &&
  (match (s.job j).run with
   | some r => r.image.stations.contains st && r.abandoned.isNone && !r.ended.contains st
   | none => s.canStart j && (match s.jobImage j with
      | some im => im.stations.contains st
      | none => false))

/-- Jobs of a station: those bound to slots with an image place on it (R292), rising. -/
def State.jobsOn (s : State) (st : Nat) : List Nat :=
  (List.range 256).filter (fun j => s.jobBound j &&
    ((s.slot (s.jobSlot j)).img.toList ++ (s.slot (s.jobSlot j)).old.toList).any (fun im => im.stations.contains st))

/-- A job's balance on a station, in lane-row cycles: 32 to a station cyc (R292, R293). -/
def State.balance (s : State) (st j : Nat) : Int := Tbl.look 0 (s.stn st).balance j
def State.setBalance (s : State) (st j : Nat) (b : Int) : State :=
  s.setStn st { s.stn st with balance := Tbl.put 0 (s.stn st).balance j b }

/-- Charge lane-row cycles to a job on a station (R293): JOB.ACCT and its balance. -/
def State.charge (s : State) (st j n : Nat) : State :=
  (s.bump F.jobAcctCount (8 * j) n).setBalance st j (s.balance st j - n)

/-- A lane row's context of a job, with one iteration for each loop of its lists. -/
def State.ctx (s : State) (st n j : Nat) : LaneCtx := Tbl.look {} (s.lane st n).ctxs j
def State.setCtx (s : State) (st n j : Nat) (c : LaneCtx) : State :=
  s.setLane st n { s.lane st n with ctxs := Tbl.put {} (s.lane st n).ctxs j c }

/-- Iterations for a list's loops: those kept, or zeros at a start. -/
def itersFor (ls : List LoopE) (it : List Nat) : List Nat := if it.length = ls.length then it else ls.map (fun _ => 0)

/-- The key of a prefetcher's context for an image place (R261). -/
def streamKey (place pref : Nat) : Nat := 8 * place + pref

/-- The index of STN.STREAM_STAT for a station, prefetcher and place. -/
def streamIdx (st pref place : Nat) : Nat := (st * 8 + place) * 8 + pref

/-- Start one stream of a run again at k = 0 with an empty ring (R261). -/
def State.startStream (st place j : Nat) (s : State) (e : StreamE) : State :=
  let i := streamIdx st e.pref place
  let s1 := s.setStn st { s.stn st with
    streams := Tbl.put {} (s.stn st).streams (streamKey place e.pref) { job := j, live := true } }
  ((s1.fset F.stnStreamStatHead i 0).fset F.stnStreamStatAhead i 0).fset F.stnStreamStatEnded i 0

/-- The column blocks of a root's siding that hold a live position of a counter line (R321, R324). -/
def State.sidingBlocks (s : State) (root first count : Nat) : List Nat :=
  let cap := max 1 (s.depotNat (root + 24) 4)
  (List.range (cap / 32)).filter (fun b => (List.range 32).any (fun i => (32 * b + i + cap - first % cap) % cap < count))

/-- The column blocks that a lane row scans in a siding run: they go round the lane rows of each station in turn (DESIGN CHOICE, log
entry 34). -/
def State.sidingShare (s : State) (st n j : Nat) (im : Image) : Option (List Nat) :=
  match (s.job j).run.map Run.what with
  | some (.siding root first count _) =>
    let mine := fun i => i % 32 = n && i / 32 % max 1 im.stations.length = im.stations.idxOf st
    some (((s.sidingBlocks root first count).zipIdx.filter (fun b => mine b.2)).map (·.1))
  | _ => none

/-- The run begins on one station: its lane rows start their lists, with no tokens (R153, R253, R261, R288); in a siding run their lists
are the passes of R323. -/
def State.beginOn (s : State) (st j : Nat) (im : Image) : State :=
  let limit := s.fget F.jobRerunCfgLimit j
  let siding := (s.sidingShare st 0 j im).isSome
  let ctx := fun (s : State) n => (match s.sidingShare st n j im with
    | some bs => { limit := limit, blocks := bs, passDone := bs = [], copyDone := true }
    | none => { limit := limit, passDone := im.stnRec st 3 n = [], copyDone := im.stnRec st 4 n = [] } : LaneCtx)
  let s1 := (List.range 32).foldl (fun (s : State) n => s.setCtx st n j (ctx s n)) s
  if siding then s1 else (streamsOf (im.stnRec st 5 0xFF)).foldl (State.startStream st (im.at_ st).place j) s1

/-! ## The fields of RUN (R451) -/

def ruJob (e : List Byte) : Nat := byteField e 8 1
def ruInDepot (e : List Byte) : Bool := bitOf (byteField e 9 1) 0
def ruOutDepot (e : List Byte) : Bool := bitOf (byteField e 9 1) 1
def ruRows (e : List Byte) : Nat := byteField e 10 2
def ruIn (e : List Byte) : Nat := byteField e 12 4
def ruInAddr (e : List Byte) : Nat := byteField e 16 8
def ruOutAddr (e : List Byte) : Nat := byteField e 24 8
def ruOut (e : List Byte) : Nat := byteField e 32 4

/-! ## Inputs (R453) -/

/-- A row's input and the status its read meets; a row whose RUN has ended is zeros. -/
def State.inputRow (s : State) (size : Nat) (r : BatchRow) : List Byte × Nat :=
  match r.place with
  | none => (zeros size, 0)
  | some p =>
    let c := s.cmd p
    if ruInDepot c.entry then
      (let a := ruInAddr c.entry + r.row * size; (s.depotRead a size, s.rangeStatus a size))
    else ((c.got.drop (r.row * size)).take size, 0)

/-- Stage a batch's inputs at an address, its padding rows as zeros (R121); the status each row's input met. -/
def State.stageInputs (s : State) (rows : List BatchRow) (size cap at_ : Nat) : State × List (Nat × Nat) :=
  let ins := rows.map (s.inputRow size)
  let s1 := s.store at_ ((ins.flatMap (·.1)) ++ zeros ((cap - rows.length) * size))
  (s1, (ins.zipIdx.map (fun (x : (List Byte × Nat) × Nat) => (64 + x.2, x.1.2))).filter (fun x => x.2 != 0))

/-- The run in progress of a batch finds its inputs staged, and keeps the status each row's input met (R453, log entry 29). -/
def State.stageRun (s : State) (j : Nat) : State :=
  match (s.job j).run with
  | some r =>
    match r.what with
    | .batch b =>
      let cap := s.fget F.jobBatchCfgRowCap j
      let x := s.stageInputs b.rows (((s.job j).batcher.sizes).getD (0, 0)).1 cap (stagingOf (s.job j) cap b).1
      x.1.setJob j { x.1.job j with run := some { r with rowStatus := x.2 } }
    | _ => s
  | none => s

/-- A job's home die moves: the stamps that its counter gave are carried over to the new die's (R191, R286, R307). -/
def State.moveHome (s : State) (j die : Nat) : State :=
  let old := s.homeCyc j
  let s1 := s.fset F.jobStateHomeDie j die
  let new := s1.homeCyc j
  let f := fun t => (new + 2 ^ 64 - cycSince old t) % 2 ^ 64
  let row := fun (r : BatchRow) => { r with joined := f r.joined }
  let bat := fun (b : Batch) => { b with rows := b.rows.map row, dueAt := f b.dueAt, openedAt := f b.openedAt }
  let h := s1.job j
  let req := fun (x : RunFor × Nat) => ((match x.1 with
    | .batch b => .batch (bat b)
    | w => w : RunFor), f x.2)
  s1.setJob j { h with
    queue := h.queue.map req
    readyAt := f h.readyAt
    run := h.run.map (fun r => { r with startCyc := f r.startCyc })
    batcher := { h.batcher with openB := h.batcher.openB.map bat } }

/-- Take the first request as the run in progress (R288), on the image runs begin on; at a job's first run on a new image its
configuration is loaded and its home die moves (R191). E of R307 runs from the later of its request and of the moment from which
the job could start one. -/
def State.beginRun (s : State) (j : Nat) : State :=
  match s.jobImage j, (s.job j).queue with
  | some im, (w, asked) :: rest =>
    let now := s.homeCyc j
    let h := s.job j
    let s1 := s.setJob j { h with queue := rest, run := some { what := w, image := im, startCyc := laterOf now asked h.readyAt }, nextLayer := 0 }
    let s2 := (s1.fset F.jobStatePending j rest.length).bump F.jobAcctCount (8 * j + 7) (cycSince now asked / 700)
    let s3 := match w with
      | .batch b => (s2.bump F.jobBatchCtrCount (7 * j + 3) b.rows.length).bump F.jobBatchCtrCount (7 * j + 4)
          (s2.fget F.jobBatchCfgRowCap j - b.rows.length)
      | _ => s2
    let k := s3.jobSlot j
    if s3.slotState k = 5 ∧ !(s3.slot k).begun.contains j then
      let s4 := ((s3.loadConfig j im).moveHome j (homeDieOf im)).showBounds
      (s4.setSlot k { s4.slot k with begun := (s4.slot k).begun ++ [j] }).handoverCheck k
    else s3
  | _, _ => s

/-- Give a station to a job: its run begins there if it has not (R288), and the station switches to it. An express run is no visit of
the circle (R292, R305). -/
def State.giveStation (s : State) (st j : Nat) : State :=
  let s1 := if (s.job j).run.isNone then (s.beginRun j).stageRun j else s
  let s2 := match (s1.job j).run with
    | some r =>
      if r.started.contains st then s1
      else (s1.setJob j { s1.job j with run := some { r with started := r.started ++ [st] } }).beginOn st j r.image
    | none => s1
  (s2.setStn st { s2.stn st with incoming := some j, visited := if s2.isExpress j then (s2.stn st).visited else j }).refresh j

/-- The job whose image pointer the lane rows of a station carry: that of the lowest lane row with one. -/
def State.carried (s : State) (st : Nat) : Option Nat := ((s.stn st).lanes.filterMap (fun e => e.2.job)).head?

/-- A switch order takes the station's job out (R296); it is counted once. -/
def State.orderOut (s : State) (st : Nat) (c : SwitchCause) : State :=
  match s.carried st, (s.stn st).order with
  | some j, none =>
    ((s.setStn st { s.stn st with order := some c, outgoing := some j }).bump F.jobAcctCount (8 * j + 3) 1).refresh j
  | _, _ => s

/-! ## Requests (R287, R305) -/

/-- Express runs ready on a station take it from jobs that are not express (R305). -/
def State.expressTake (s : State) (st : Nat) : State :=
  match (s.stn st).ready.find? (fun j => s.hasWork st j) with
  | none => s
  | some e =>
    let busy : Bool := ((s.stn st).incoming.map s.isExpress).getD false ||
      ((s.stn st).incoming = none && ((s.carried st).map (fun j => s.isExpress j && s.hasWork st j)).getD false)
    if busy ∨ !s.stnUp st then s
    else (s.orderOut st .express).giveStation st e

/-- A run of an express job becomes ready on every station of its mask (R305). -/
def State.expressReady (s : State) (j : Nat) : State :=
  if !s.isExpress j then s
  else
    (s.jobStations j).foldl (fun (s : State) st =>
      (s.setStn st { s.stn st with ready := (s.stn st).ready ++ [j] }).expressTake st) s

/-- The host queues of a batch's rows. -/
def State.rowQueues (s : State) (b : Batch) : List Nat := (b.rows.filterMap (fun r => r.place.map (fun p => (s.cmd p).queue))).dedup

/-- A batch closed by a class-0 row goes to the head of its job's queue, but behind those that went there before it and behind a
batch with rows of one of its queues, which are not reordered (R119, R120, R287; DESIGN CHOICE, log entry 26). -/
def State.stays (s : State) (b : Batch) : RunFor → Bool
  | .batch c => c.cause = some .class0 || (s.rowQueues c).any (fun q => (s.rowQueues b).contains q)
  | _ => false

/-- Where a request goes in the queue: the number of requests before it. -/
def State.placeOf (s : State) (q : List (RunFor × Nat)) (front : Bool) : RunFor → Nat
  | .batch b =>
    if front then ((List.range q.length).filter (fun i => (q[i]?.map (fun x => s.stays b x.1)).getD false)).foldl (fun _ i => i + 1) 0
    else q.length
  | _ => q.length

/-- Queue a request, at the tail or ahead (R287). -/
def State.requestRun (s : State) (j : Nat) (w : RunFor) (front : Bool) : State :=
  let h := s.job j
  let n := s.placeOf h.queue front w
  let q := h.queue.take n ++ (w, s.homeCyc j) :: h.queue.drop n
  let s1 := s.setJob j { h with queue := q }
  ((s1.fset F.jobStatePending j q.length).expressReady j).refresh j

/-- A request could start from now on (R307). -/
def State.readyNow (s : State) (j : Nat) : State := s.setJob j { s.job j with readyAt := s.homeCyc j }

/-- What kept some jobs from starting a run is over. -/
def State.readyJobs (s : State) (js : List Nat) : State :=
  js.foldl (fun (s : State) j => if (s.job j).run.isNone then s.readyNow j else s) s

/-- The job takes no further request: its queue is full, it is FREE, ENDED or has END_PENDING (R287). -/
def State.refusesRun (s : State) (j : Nat) : Bool :=
  !s.jobBound j || s.fbit F.jobStateEndPending j || (s.job j).queue.length ≥ 4095

/-! ## Abandoning a run (R289) -/

/-- A run that cannot be finished: every station stops it as for a switch; each reports when its last stopped pass has
written. -/
def State.abandonRun (s : State) (j status : Nat) : State :=
  match (s.job j).run with
  | none => s
  | some r =>
    if r.abandoned.isSome then s
    else
      let s1 := s.setJob j { s.job j with run := some { r with abandoned := some status } }
      let s2 := (s1.fset F.jobStateLastFault j status).bump F.jobAcctCount (8 * j + 2) 1
      let s3 := r.image.stations.foldl (fun (s : State) st =>
        let t := s.setStn st { s.stn st with
          incoming := if (s.stn st).incoming = some j then none else (s.stn st).incoming }
        if t.carried st = some j then t.orderOut st .abandon else t) s2
      s3.refresh j

end Sys2Proof.Machine
end

