-- ==== Sys2Proof/Machine/Stitch.lean ====
section
/-! DEFINITION. Stitching (R179 to R198): the queue of STITCH and UNSTITCH, the refusals of R190, the checks in order, the
placing of an image, the hand-over to a replacement, and the base timetable at power-up. -/

namespace Sys2Proof.Machine

/-! ## Failures and completions -/

/-- Record a failed STITCH or UNSTITCH in TTB.LAST_FAIL and the event log (R180). -/
def State.lastFail (s : State) (f : CheckFail) (ttid : Nat) : State :=
  let s1 := ((s.fset F.ttbLastFailStatus 0 f.status).fset F.ttbLastFailCheck 0 f.check).fset F.ttbLastFailRecord 0 f.record
  (s1.fset F.ttbLastFailOffset 0 f.offset).event 17 0x0101 f.status ttid (f.check + f.record * 2 ^ 8 + f.offset * 2 ^ 24)

/-- A failure outside a record. -/
def plainFail (status check : Nat) : CheckFail := ⟨status, check, 0xFFFF, 0xFFFF⟩

/-- Answer whoever asked for a stitch. -/
def State.answerStitch (s : State) (x : Stitch) (status result : Nat) : State :=
  match x.by_ with
  | .command p => if s.open p then s.finish p status result else s
  | .module => s
  | .list n => if status = 0 then s else s.event 17 0x0102 status n status

/-- Replace the stitch in progress. -/
def State.setStitch (s : State) (x : Stitch) : State := s.setTt { s.tt with queue := x :: s.tt.queue.drop 1 }

/-- The stitch in progress leaves the queue. -/
def State.popStitch (s : State) : State := s.setTt { s.tt with queue := s.tt.queue.drop 1 }

/-- A slot that was loading becomes FREE again, or a replacement is no longer under way (R187). -/
def State.unload (s : State) (x : Stitch) : State :=
  let s1 := match x.took with
    | some k => s.fset F.ttbSlotStateState k 0
    | none => s
  if x.replace < 64 ∧ x.begun then s1.fset F.ttbSlotStateReplBusy x.replace 0 else s1

/-- A stitch fails: nothing is left behind (R179). -/
def State.stitchFails (s : State) (x : Stitch) (f : CheckFail) : State :=
  let id := if 242 ≤ x.got.length ∧ f.check ≠ 1 then ttId x.got else 0
  (((s.popStitch).unload x).lastFail f id).answerStitch x f.status 0

/-! ## Beginning (R187, R188, R190) -/

/-- UNSTITCH (R187, R190). -/
def State.beginUnstitch (s : State) (x : Stitch) : State :=
  let k := x.slot
  let st := s.slotState k
  if k = 0 ∨ st = 0 then s.stitchFails x (plainFail 0x1001 0)
  else if st ≠ 4 ∨ s.fget F.ttbSlotStateJobs k ≠ 0 ∨ s.fbit F.ttbSlotStateReplBusy k then s.stitchFails x (plainFail 0x400C 0)
  else
    let s1 := match (s.slot k).img with
      | some im => ((s.releaseImage im).clearSlot k).platformsFree im.stations
      | none => s.clearSlot k
    ((s1.popStitch).reissue).answerStitch x 0 0

/-- The container a module's own replacement reads back from scratch (R185). -/
def State.retained (s : State) (im : Image) : Option (List Byte) :=
  let n := im.bytes.length
  let pages := (List.range (ceilDiv n 65536)).map (fun i => pageOf im.keep + i)
  if pages.any (fun p => (s.page p).gone) then none else some (s.depotRead im.keep n)

/-- STITCH begins: the entry's own refusals, then the slot it takes, then its source (R187, R190, R531). -/
def State.beginStitch (s : State) (x : Stitch) : State :=
  if (x.slot < 64 ∧ s.slotState x.slot ≠ 0) ∨ (x.replace ≠ 255 ∧ x.slot ≠ 255) then s.stitchFails x (plainFail 0x1001 0)
  else
    let s1 := if x.replace < 64 ∧ s.slotState x.replace = 4 then s.fset F.ttbSlotStateReplBusy x.replace 1 else s
    let took := if x.replace ≠ 255 then none else if x.slot < 64 then some x.slot else s.freeSlot
    let s2 := match took with
      | some k => s1.fset F.ttbSlotStateState k 1
      | none => s1
    let y : Stitch := { x with begun := true, took := took }
    match x.by_, x.lib with
    | .module, _ =>
      match (s.slot x.replace).img.bind s.retained with
      | some bs => s2.setStitch { y with got := bs, len := bs.length }
      | none => s2.stitchFails y (plainFail 0x2002 0)
    | _, some n =>
      let e := Tbl.look {} s.cfs.lib n
      if e.live then s2.setStitch { y with got := e.bytes, len := e.bytes.length } else s2.stitchFails y (plainFail 0x1001 0)
    | .command p, none =>
      let n := if 242 ≤ x.len ∧ x.len ≤ 64 * 2 ^ 20 then x.len else 0
      (s2.setCmd p { s2.cmd p with ranges := [(x.addr, n)], want := n, got := [] }).setStitch y
    | .list _, none => s2.stitchFails y (plainFail 0x1001 0)

/-- Begin the stitch at the front, and those behind it that end as they begin; none begins while an activation runs (R188,
R590). The fuel is the queue's length. -/
def State.beginNext (s : State) : Nat → State
  | 0 => s
  | fuel + 1 =>
    match s.tt.queue with
    | [] => s
    | x :: _ =>
      if x.begun ∨ s.fget F.glbMaintOp 0 = 3 then s
      else ((if x.unstitch then s.beginUnstitch x else s.beginStitch x)).beginNext fuel

/-- Begin what can begin. -/
def State.stitchKick (s : State) : State := s.beginNext (s.tt.queue.length + 64)

/-- Queue a stitch and begin it if it is the first (R188). -/
def State.queueStitch (s : State) (x : Stitch) : State :=
  (s.setTt { s.tt with queue := s.tt.queue ++ [x] }).stitchKick

/-! ## The checks in order (R179, R181, R190) -/

/-- The refusals that need the header, after check 1 (R190). -/
def headerRefused (x : Stitch) (bs : List Byte) : Bool :=
  if ttBase bs then x.mask != 0 || !((x.replace = 0 && x.slot = 255) || (x.slot = 0 && x.replace = 255))
  else x.slot = 0 || x.replace = 0 || (x.mask != 0 && popcount 64 x.mask != ttGroup bs)

/-- Check 2: the signer is accepted. -/
def State.signerOk (s : State) (n : Nat) : Bool :=
  n < 8 && (s.fget F.ttbSignersValid 0).testBit n && !(s.fget F.ttbSignersRevoked 0).testBit n

/-- An endpoint of a route exists among the stations chosen and is in service (R166, R179): a station's is that of the group, and a
DRAM endpoint needs a stack in service. -/
def State.endpointUp (s : State) (sts : List Nat) (ep : Nat) : Bool :=
  if ep / 4096 = 1 then (sts[ep % 4096]?).any (fun st => s.stnUp st) else ep / 4096 != 3 || s.stacksUp != []

/-- The first endpoint of a ROUTE record that check 11 finds wrong. -/
def State.badEndpoint (s : State) (sts : List Nat) (r : TRec) : Option Nat :=
  if r.typ ≠ 2 then none
  else firstWrong ((routesOf r.body).zipIdx.flatMap (fun e =>
    conds [(s.endpointUp sts e.1.src, 16 + 8 * e.2 + 2), (s.endpointUp sts e.1.dst, 16 + 8 * e.2 + 4)]))

/-- Check 11 on the stations chosen (R166, R179): every endpoint, then that they are in service and within DIE_LIMIT. -/
def State.routesBad (s : State) (bs : List Byte) (sts : List Nat) : Option CheckFail :=
  match firstRecord 0x400A 11 (s.badEndpoint sts) 0 (ttRecs bs) with
  | some f => some f
  | none =>
    if sts.length ≥ ttGroup bs ∧ sts.all (fun st => s.stnUp st) ∧ (diesOf sts).length ≤ ttDies bs then none
    else some (plainFail 0x400A 11)

/-- The first field of a PARAM record that does not fit the image it replaces: counts, KIND, WRITABLE, and MIN_BYTES against every
buffer already bound (R179). -/
def State.badReplacement (s : State) (q : List Byte) (slot : Nat) (r : TRec) : Option Nat :=
  let p := r.body
  let bound := fun n => (s.jobsOf slot).all (fun j => j = 0 || paMin p n ≤ ((s.job j).bufs.getD n (0, 0)).2)
  if r.typ ≠ 9 then none
  else firstWrong (conds [(paBuffers p = paBuffers q, 1), (paScalars p = paScalars q, 2)] ++
    (List.range (paBuffers p)).flatMap (fun n => conds [(paKind p n = paKind q n, 32 + 16 * n),
      (paWritable p n = paWritable q n, 33 + 16 * n), (bound n, 40 + 16 * n)]))

/-- Check 12: a replacement fits (R179). -/
def State.replaceBad (s : State) (x : Stitch) (bs : List Byte) : Option CheckFail :=
  if x.replace = 255 then none
  else
    match s.slotState x.replace, (s.slot x.replace).img with
    | 4, some old => firstRecord 0x400D 12 (s.badReplacement (old.group 9) x.replace) 0 (ttRecs bs)
    | _, _ => some (plainFail 0x400C 12)

/-- Checks 2 to 5: signer, signature, digest and part. -/
def State.signedChecks (s : State) (bs : List Byte) : Option CheckFail :=
  if !s.signerOk (ttSigner bs) then some (plainFail 0x400B 2)
  else if !checkSigned (s.signerKey (ttSigner bs)) bs then some (plainFail 0x4001 3)
  else if !checkDigest bs then some (plainFail 0x4001 4)
  else if byteField bs 8 2 ≠ 0x6420 ∨ ttMinStep bs > s.fget F.glbIdStepping 0 then some (plainFail 0x4005 5)
  else none

/-- Checks 1 to 10, with the refusals of R190 after check 1. -/
def State.earlyChecks (s : State) (x : Stitch) : Option CheckFail :=
  let bs := x.got
  if !checkFits bs x.len then some (plainFail 0x4004 1)
  else if headerRefused x bs then some (plainFail 0x1001 0)
  else if (s.signedChecks bs).isSome then s.signedChecks bs
  else firstFail [checkWalk bs, checkContents bs, checkDescs bs, checkSpans bs, checkConflict bs]

/-- The image a replacement would replace. -/
def State.replaced (s : State) (x : Stitch) : Option Image := if x.replace < 64 then (s.slot x.replace).img else none

/-- Checks 11 to 13 and their outcome: the image is reserved and the slot enters PLACING, or a CHECK_ONLY completes. -/
def State.lateChecks (s : State) (x : Stitch) : State :=
  let bs := x.got
  let c := s.chooseStations bs x.mask (s.replaced x)
  match s.routesBad bs c.1 with
  | some f => s.stitchFails x f
  | none =>
    match s.replaceBad x bs with
    | some f => s.stitchFails x f
    | none =>
      if x.checkOnly then ((s.popStitch).unload x).answerStitch x 0 0
      else
        let k := if x.replace < 64 then some x.replace else match x.took with
          | some k => some k
          | none => s.freeSlot
        match k, s.fitImage bs c.1 with
        | some k, some im =>
          match s.reserveImage k im with
          | some (im, s1) =>
            let s2 := s1.setStitch { x with took := if x.replace < 64 then none else some k, image := some im }
            let s3 := s2.platformsFree im.stations
            if x.replace < 64 then s3 else s3.fset F.ttbSlotStateState k 3
          | none => s.stitchFails x (plainFail 0x4008 13)
        | _, _ => s.stitchFails x (plainFail 0x4008 13)

/-! ## The rows -/

/-- The fields of STITCH (R189). -/
def stitchFields (e : List Byte) : Bool :=
  let kind := byteField e 20 1
  let slot := byteField e 21 1
  let rep := byteField e 22 1
  sqFlags e ≤ 1 && kind ≤ 1 && (slot < 64 || slot = 255) && (rep < 64 || rep = 255) && zeroAt e 23 1 && zeroAt e 32 32 &&
    (if kind = 0 then byteField e 8 8 % 64 = 0 else byteField e 8 8 < 4096 && byteField e 16 4 = 0)

/-- STITCH (R187 to R190): the entry is checked and the command takes its place in the order. -/
def execStitch (q : QueueId) (s : State) : Host.Outcome State Fault Refusal :=
  .next (s.onEntry q (fun e => sqOpcode e = 0x24) (State.adminOnly (fun p e s =>
    if !stitchFields e then (s.lastFail (plainFail 0x1001 0) 0).fail p 0x1001
    else
      s.queueStitch { by_ := .command p, slot := byteField e 21 1, replace := byteField e 22 1, mask := byteField e 24 8,
                      checkOnly := sqFlags e = 1, lib := if byteField e 20 1 = 1 then some (byteField e 8 2) else none,
                      addr := byteField e 8 8, len := byteField e 16 4 })))

/-- UNSTITCH (R187, R189, R190). -/
def execUnstitch (q : QueueId) (s : State) : Host.Outcome State Fault Refusal :=
  .next (s.onEntry q (fun e => sqOpcode e = 0x25) (State.adminOnly (fun p e s =>
    if sqFlags e ≠ 0 ∨ byteField e 8 1 > 63 ∨ !zeroAt e 9 55 then (s.lastFail (plainFail 0x1001 0) 0).fail p 0x1001
    else s.queueStitch { by_ := .command p, unstitch := true, slot := byteField e 8 1 })))

/-- The container of the stitch in progress has been read in full. -/
def State.stitchRead (s : State) (x : Stitch) : Option (List Byte) :=
  match x.by_, x.lib with
  | .command p, none => if (s.cmd p).want ≤ (s.cmd p).got.length then some (s.cmd p).got else none
  | _, _ => some x.got

/-- STITCH_CONTAINER_LOADED (R179, R187): the checks run; resources are reserved or the slot is free again. -/
def State.stitchLoaded (s : State) : State :=
  match s.tt.queue with
  | [] => s
  | x :: _ =>
    if !x.begun ∨ x.image.isSome then s
    else
      match s.stitchRead x with
      | none => s
      | some bs =>
        let y := { x with got := bs }
        match s.earlyChecks y with
        | some f => (s.stitchFails y f).stitchKick
        | none => (s.lateChecks y).stitchKick

def execStitchContainerLoaded (s : State) : Host.Outcome State Fault Refusal := .next (s.stitchKick.stitchLoaded)

/-- The host's memory read for a STITCH ends with poison or an error: 0x6001 (R187, log entry 23). -/
def State.stitchReadFails (s : State) (p : Nat) : State :=
  match s.tt.queue with
  | x :: _ => if x.by_ = .command p ∧ x.image.isNone then (s.stitchFails x (plainFail 0x6001 0)).stitchKick else s
  | [] => s

/-- TS00 holds a base image: its status and J000's binding (R196, R282). -/
def State.baseStitched (s : State) (source : Nat) : State :=
  (((s.fset F.ttbBaseStatusSource 0 source).fset F.ttbBaseStatusAbsent 0 0)).bindBase

/-- An image is written on every station: a new slot becomes STITCHED, a replacement's enters HANDOVER (R187, R191). -/
def State.imagePlaced (s : State) (x : Stitch) (im : Image) : State :=
  match x.took with
  | some k =>
    let s1 := ((s.popStitch).setSlot k { img := some im }).fset F.ttbSlotStateState k 4
    let s2 := s1.showImage k im
    let s3 := if k = 0 then s2.baseStitched 3 else s2
    (s3.expressAgain).answerStitch x 0 k
  | none =>
    let k := x.replace
    let old := (s.slot k).img
    let s1 := ((s.popStitch).setSlot k { img := some im, old := old }).fset F.ttbSlotStateState k 5
    let s2 := (s1.fset F.ttbSlotStateReplBusy k 0).fset F.ttbSlotOldMaskOldMask k (maskOf ((old.map (·.stations)).getD []))
    let s3 := if k = 0 then s2.fset F.ttbBaseStatusSource 0 3 else s2
    let s4 := if s.fbit F.ttbSlotStateFenced k then s3.readyJobs (s3.jobsOf k) else s3
    (((s4.showImage k im).handoverCheck k).expressAgain).answerStitch x 0 k

/-- STITCH_IMAGE_PLACED (R187). -/
def execStitchImagePlaced (s : State) : Host.Outcome State Fault Refusal :=
  .next (match s.tt.queue with
    | x :: _ => (match x.image with
      | some im => (s.imagePlaced x im).stitchKick
      | none => s)
    | [] => s)

/-- A station chosen by the stitch in progress is fenced before its image is placed (R187). -/
def State.stitchFenced (s : State) (st : Nat) : State :=
  match s.tt.queue with
  | x :: _ => (match x.image with
    | some im =>
      if im.stations.contains st then
        let s1 := (s.setStitch { x with image := none }).releaseImage im
        (((s1.platformsFree im.stations).stitchFails x (plainFail 0x400A 0))).stitchKick
      else s
    | none => s)
  | [] => s

/-! ## Power-up (R196, R197) -/

/-- The power-up stitch list as stitches, in list order (R197). -/
def State.stitchList (s : State) : List Stitch :=
  (List.range 63).filterMap (fun n =>
    let v := s.setting (0x1000 + 2 * n)
    if bitOf v 63 then some { by_ := .list n, slot := bitsOf v 16 8, mask := s.setting (0x1001 + 2 * n), lib := some (v % 65536) }
    else none)

/-- The configuration-store device the base container is read from: CS0, else CS1; both hold the same bytes (R521). -/
def State.baseDevices (s : State) : List Nat :=
  (List.range 2).filter (fun d => !s.fbit F.cfsDevStateFailed d)

/-- Try one copy of the base container (R196): its status, and the state with TS00 stitched if it passed. -/
def State.tryBase (s : State) (source : Nat) (bs : List Byte) : Nat × State :=
  let x : Stitch := { by_ := .module, slot := 0, len := bs.length, got := bs }
  match s.earlyChecks x with
  | some f => (f.status, s.lastFail f (if f.check = 1 then 0 else ttId bs))
  | none =>
    let sts := s.stationsUp
    match s.routesBad bs sts with
    | some f => (f.status, s.lastFail f (ttId bs))
    | none =>
      match (s.fitImage bs sts).bind (s.reserveImage 0) with
      | none => (0x4008, s.lastFail (plainFail 0x4008 13) (ttId bs))
      | some (im, s1) =>
        let s2 := ((s1.setSlot 0 { img := some im }).fset F.ttbSlotStateState 0 4).showImage 0 im
        (0, (s2.platformsFree im.stations).baseStitched source)

/-- TS00 stays FREE (R196). -/
def State.baseAbsent (s : State) (status : Nat) : State :=
  ((s.fset F.ttbBaseStatusSource 0 0).fset F.ttbBaseStatusAbsent 0 1).fset F.ttbBaseStatusFailStatus 0 status

/-- The base container is tried from each device in turn; the first that passes is stitched (R196). -/
def State.stitchBase (bs : List Byte) : List Nat → Nat → State → State
  | [], status, s => s.baseAbsent status
  | d :: ds, _, s =>
    let r := s.tryBase (d + 1) bs
    if r.1 = 0 then r.2 else State.stitchBase bs ds r.1 (r.2.fset F.ttbBaseStatusFailStatus 0 r.1)

/-- Step 8 of power-up (R567): the base timetable, then the stitch list joins the queue. -/
def State.powerUpStitch (s : State) : State :=
  let e := Tbl.look {} s.cfs.lib (s.setting 0x0003)
  let s1 := if e.live then State.stitchBase e.bytes s.baseDevices 0 s else s.baseAbsent 0
  let s2 := s1.setPhase 4
  (s2.setTt { s2.tt with queue := s2.tt.queue ++ s2.stitchList }).stitchKick

end Sys2Proof.Machine
end

