-- ==== Sys2Proof/Machine/JobRows.lean ====
section
/-! DEFINITION. The commands of the job table: JOB.CTL (R283, R655), EXPRESS_SHARE (R306) and JOB_SIGNAL (R291, R454). -/

namespace Sys2Proof.Machine

/-! ## JOB.CTL -/

/-- A write of JOB.CTL (R283, R655). Its acceptance and the posting of its status are one step, so BUSY reads 0 again after it
(DESIGN CHOICE, log entry 28). -/
def State.jobCtlTake (s : State) (value : Nat) (run : State → Nat × State) : State :=
  if s.fbit F.jobCtlStatusBusy 0 then s.fset F.jobCtlStatusRefused 0 1
  else
    let s1 := s.rset .jobCtl 0 (BitVec.ofNat 64 (value % 2 ^ 18 + value / 2 ^ 32 % 2 ^ 32 * 2 ^ 32))
    let r := run s1
    r.2.fset F.jobCtlStatusStatus 0 r.1

/-- A write of JOB.CTL, which the lock governs. -/
def State.jobCtl (s : State) (value : Nat) (run : State → Nat × State) : State :=
  s.lockWrite 0x210200 fun s => s.jobCtlTake value run

/-- The word of a JOB.CTL write. -/
def ctlWord (cmd job slot mask : Nat) : Nat := cmd + 16 * job + 4096 * slot + mask % 2 ^ 32 * 2 ^ 32

/-- UNBIND's and JOB_SIGNAL END's effect on a bound job: it ends at once, or once its requests have run (R290). -/
def State.endOrPend (s : State) (j : Nat) : State := (s.fset F.jobStateEndPending j 1).refresh j

/-- UNBIND (R655). -/
def State.unbind (s : State) (j : Nat) : Nat × State :=
  if j = 0 ∨ !s.jobBound j then (0x1001, s)
  else if s.fbit F.jobStateEndPending j then (0, s)
  else (0, s.endOrPend j)

/-- The run in progress and the requests of a job that becomes express become ready, if it was not express before (R305; DESIGN
CHOICE, log entry 28: they do so at the admission, after the runs that were ready before). -/
def State.enlist (s : State) (j : Nat) (was : Bool) : State :=
  if was then s
  else (List.range ((s.job j).queue.length + bit (s.job j).run.isSome)).foldl (fun (s : State) _ => s.expressReady j) s

/-- EXPRESS_ON (R302, R655): the tests run with the job's PERIOD_US of this moment. -/
def State.expressOn (s : State) (j : Nat) : Nat × State :=
  let s1 := s.setJob j { s.job j with period := s.fget F.jobCfgPeriodUs j }
  let es := if s.expressJobs.contains j then s.expressJobs else s.expressJobs ++ [j]
  if s1.expressTests es then (0, ((s1.fset F.jobStateExpress j 1).showBounds).enlist j (s.isExpress j)) else (0x4010, s)

/-- EXPRESS_OFF (R302, R655). -/
def State.expressOff (s : State) (j : Nat) : Nat × State :=
  if j = 0 ∨ !s.jobBound j then (0x1001, s) else (0, (s.unexpress j).expressAgain)

/-- The command that a written word of JOB.CTL names, by its CMD (R655). -/
def State.ctlRun (value : Nat) (s : State) : Nat × State :=
  let j := bitsOf value 4 8
  match bitsOf value 0 4 with
  | 1 => s.bind j (bitsOf value 12 6) (bitsOf value 32 32)
  | 2 => s.unbind j
  | 3 => s.expressOn j
  | 4 => s.expressOff j
  | _ => (0x1001, s)

/-- JOB_BIND (R283 to R285). -/
def execJobBind (j : JobId) (slot : SlotId) (mask : Nat) (s : State) : Host.Outcome State Fault Refusal :=
  .next (s.jobCtl (ctlWord 1 j.val slot.val mask) fun s => s.bind j.val slot.val (mask % 2 ^ 32))

/-- JOB_UNBIND (R655). The other fields of the write are kept as written (R12). -/
def execJobUnbind (w : JobCtlWrite) (s : State) : Host.Outcome State Fault Refusal :=
  .next (s.jobCtl (ctlWord 2 w.job.val w.slot.val w.mask) fun s => s.unbind w.job.val)

/-- JOB_EXPRESS_ON (R302). -/
def execJobExpressOn (w : JobCtlWrite) (s : State) : Host.Outcome State Fault Refusal :=
  .next (s.jobCtl (ctlWord 3 w.job.val w.slot.val w.mask) fun s => s.expressOn w.job.val)

/-- JOB_EXPRESS_OFF (R655). -/
def execJobExpressOff (w : JobCtlWrite) (s : State) : Host.Outcome State Fault Refusal :=
  .next (s.jobCtl (ctlWord 4 w.job.val w.slot.val w.mask) fun s => s.expressOff w.job.val)

/-- JOB_CTL_RESERVED_CMD (R655): a CMD of 0 or 5 to 15. A value with another CMD is not this command. -/
def execJobCtlReservedCmd (value : Word64) (s : State) : Host.Outcome State Fault Refusal :=
  .next (
    let c := value.toNat % 16
    if 1 ≤ c ∧ c ≤ 4 then s else s.jobCtl value.toNat fun s => (0x1001, s))

/-- A write of EXPRESS_SHARE: a share outside 1 to 75 leaves the field unchanged (R306). -/
def State.shareWrite (s : State) (share : Nat) : State :=
  (if 1 ≤ share ∧ share ≤ 75 then s.fset F.jobSchedExpressShare 0 share else s).expressAgain

/-- EXPRESS_SHARE_WRITE (R306). -/
def execExpressShareWrite (share : Fin 128) (s : State) : Host.Outcome State Fault Refusal :=
  .next (s.lockWrite 0x210210 fun s => s.shareWrite share.val)

/-! ## JOB_SIGNAL -/

/-- The fields of JOB_SIGNAL (R454). -/
def signalFields (e : List Byte) : Bool :=
  sqFlags e = 0 && byteField e 9 1 ≤ 3 && zeroAt e 10 2 && zeroAt e 16 48 &&
    (byteField e 9 1 != 3 || (1 ≤ byteField e 12 4 && byteField e 12 4 ≤ 1023))

/-- A JOB_SIGNAL's checks, then its effect on its job (R291). -/
def State.signalled (run : Nat → Nat → List Byte → State → State) (p : Nat) (e : List Byte) (s : State) : State :=
  let j := byteField e 8 1
  if !signalFields e ∨ j = 0 ∨ !s.jobBound j then s.fail p 0x1001 else run j p e s

/-- HOLD: no run starts; the command ends when no run is in progress. -/
def State.signalHold (j p : Nat) (_ : List Byte) (s : State) : State :=
  ((s.fset F.jobStateHold j 1).setJob j { s.job j with holdWait := (s.job j).holdWait ++ [p] }).settleSignals j

/-- UNHOLD. -/
def State.signalUnhold (j p : Nat) (_ : List Byte) (s : State) : State :=
  let s1 := (s.fset F.jobStateHold j 0).finish p 0 0
  if (s.job j).run.isNone ∧ s.fbit F.jobStateHold j then (s.jobStations j).foldl (fun (s : State) st => s.expressTake st) (s1.readyNow j) else s1

/-- END: as UNBIND; the command ends when the job is ENDED. -/
def State.signalEnd (j p : Nat) (_ : List Byte) (s : State) : State :=
  (s.setJob j { s.job j with endWait := (s.job j).endWait ++ [p] }).endOrPend j

/-- WEIGHT. -/
def State.signalWeight (j p : Nat) (e : List Byte) (s : State) : State :=
  (s.fset F.jobCfgWeight j (byteField e 12 4)).finish p 0 0

/-- JOB_SIGNAL_HOLD (R291); an entry with a SIGNAL that R291 does not list is refused here. -/
def execJobSignalHold (q : QueueId) (s : State) : Host.Outcome State Fault Refusal :=
  .next (s.onEntry q (fun e => sqOpcode e = 0x11 && (byteField e 9 1 = 0 || byteField e 9 1 > 3))
    (State.signalled State.signalHold))

/-- JOB_SIGNAL_UNHOLD (R291). -/
def execJobSignalUnhold (q : QueueId) (s : State) : Host.Outcome State Fault Refusal :=
  .next (s.onEntry q (fun e => sqOpcode e = 0x11 && byteField e 9 1 = 1) (State.signalled State.signalUnhold))

/-- JOB_SIGNAL_END (R291). -/
def execJobSignalEnd (q : QueueId) (s : State) : Host.Outcome State Fault Refusal :=
  .next (s.onEntry q (fun e => sqOpcode e = 0x11 && byteField e 9 1 = 2) (State.signalled State.signalEnd))

/-- JOB_SIGNAL_WEIGHT (R291). -/
def execJobSignalWeight (q : QueueId) (s : State) : Host.Outcome State Fault Refusal :=
  .next (s.onEntry q (fun e => sqOpcode e = 0x11 && byteField e 9 1 = 3) (State.signalled State.signalWeight))

end Sys2Proof.Machine
end

