-- ==== Sys2Proof/Machine/EccCore.lean ====
section
/-! DEFINITION. Protection of stored words (R535 to R558): the outcome of a DRAM and of an SRAM word, the counts and logs of
errors, repairs and retirements, and the fence of a station (R309, R310). -/

namespace Sys2Proof.Machine

/-! ## The DRAM code (R536, R537) -/

/-- The product in GF(2^8) with the polynomial x^8 + x^4 + x^3 + x^2 + 1; the fuel is the bits left of the second factor. -/
def gfMulN : Nat → Nat → Nat → Nat
  | 0, _, _ => 0
  | n + 1, a, b =>
    let a2 := if 2 * a ≥ 256 then (2 * a) ^^^ 0x11D else 2 * a
    (if b % 2 = 1 then a else 0) ^^^ gfMulN n a2 (b / 2)
def gfMul (a b : Nat) : Nat := gfMulN 8 a b

/-- A power of α = 2. -/
def gfPow : Nat → Nat
  | 0 => 1
  | n + 1 => gfMul 2 (gfPow n)

/-- S_j of an error pattern: (position, symbol) pairs. -/
def syndrome (errs : List (Nat × Nat)) (j : Nat) : Nat := errs.foldl (fun s e => s ^^^ gfMul e.2 (gfPow (j * e.1))) 0

/-- The outcomes of a word (R537, R541). -/
inductive WordIs where
  | good
  /-- Correctable at a symbol or bit. -/
  | fixed (at_ : Nat)
  | dataClass
  | addrClass
deriving DecidableEq, Repr

/-- The sets of three of the positions 36 to 40. -/
def addrTriples : List (Nat × Nat × Nat) :=
  [(36, 37, 38), (36, 37, 39), (36, 37, 40), (36, 38, 39), (36, 38, 40), (36, 39, 40), (37, 38, 39), (37, 38, 40),
   (37, 39, 40), (38, 39, 40)]

/-- Syndromes explained exactly by errors at three positions: their locator annihilates the syndromes. -/
def explains (s0 s1 s2 s3 : Nat) (t : Nat × Nat × Nat) : Bool :=
  let a := gfPow t.1
  let b := gfPow t.2.1
  let c := gfPow t.2.2
  s3 = gfMul (a ^^^ b ^^^ c) s2 ^^^ gfMul (gfMul a b ^^^ gfMul a c ^^^ gfMul b c) s1 ^^^ gfMul (gfMul a (gfMul b c)) s0

/-- What a DRAM word decodes as (R537). -/
def dramWord (errs : List (Nat × Nat)) : WordIs :=
  let s0 := syndrome errs 0
  let s1 := syndrome errs 1
  let s2 := syndrome errs 2
  let s3 := syndrome errs 3
  if s0 = 0 ∧ s1 = 0 ∧ s2 = 0 ∧ s3 = 0 then .good
  else
    match (List.range 36).find? (fun p => s0 != 0 && s1 = gfMul s0 (gfPow p) && s2 = gfMul s1 (gfPow p) &&
        s3 = gfMul s2 (gfPow p)) with
    | some p => .fixed p
    | none => if addrTriples.any (explains s0 s1 s2 s3) then .addrClass else .dataClass

/-! ## The SRAM code (R540, R541) -/

/-- The 8-bit values of a weight, rising. -/
def weighted (w : Nat) : List Nat := (List.range 256).filter (fun v => popcount 8 v = w)

/-- The columns of the 64 data bits, the 8 check bits (64 to 71) and the 24 address bits (72 to 95). -/
def sramColumns : List Nat :=
  weighted 3 ++ (weighted 5).take 8 ++ (List.range 8).map (2 ^ ·) ++ (weighted 4).take 24

/-- The syndrome of a word with some bits altered. -/
def sramSyndrome (bits : List Nat) : Nat := bits.foldl (fun s b => s ^^^ sramColumns.getD b 0) 0

/-- What the words of a 64 B line decode as, from the syndromes of its eight words (R541). -/
def sramLine (syns : List Nat) : List WordIs :=
  syns.map (fun y =>
    if y = 0 then .good
    else
      match (List.range 72).find? (fun b => sramColumns.getD b 0 = y) with
      | some b => .fixed b
      | none =>
        if popcount 8 y % 2 = 1 then .dataClass
        else if y ≠ 3 ∧ 2 ≤ (syns.filter (· = y)).length then .addrClass else .dataClass)

/-- The eight words of a line from altered bits: (word of the line, bit). -/
def lineErrors (errs : List (Nat × Nat)) : List WordIs :=
  sramLine ((List.range 8).map (fun w => sramSyndrome ((errs.filter (fun e => e.1 = w)).map (·.2))))

/-! ## Encoding and poison marks (R536, R540, R542) -/

/-- The check byte of 64 data bits at a folded address (R540). -/
def sramCheck (data addr : Nat) : Nat :=
  (bitsSet 24 addr).foldl (fun c i => c ^^^ sramColumns.getD (72 + i) 0)
    ((bitsSet 64 data).foldl (fun c i => c ^^^ sramColumns.getD i 0) 0)

/-- One step of the division by the generator, whose coefficients below x^4 are 64, 120, 54 and 15: the next symbol enters the
remainder. -/
def rsStep (r : List Nat) (sym : Nat) : List Nat :=
  let f := r.getD 3 0 ^^^ sym
  [gfMul f 64, r.getD 0 0 ^^^ gfMul f 120, r.getD 1 0 ^^^ gfMul f 54, r.getD 2 0 ^^^ gfMul f 15]

/-- The check symbols of the 32 bytes of a word at a folded address, whose bytes are the virtual symbols (R536, R538). -/
def dramChecks (word : List Nat) (fold : Nat) : List Nat :=
  (word ++ (List.range 5).map (fun k => bitsOf fold (8 * k) 8)).reverse.foldl rsStep [0, 0, 0, 0]

/-- What a poison mark differs in from a valid encoding: check symbols 0 and 1 of a DRAM word, check bits 0 and 1 of an SRAM word
(R542). -/
def dramPoison : List (Nat × Nat) := [(0, 0xFF), (1, 0xFF)]
def sramPoison : List Nat := [64, 65]

/-! ## Counts and logs (R548, R560, R561) -/

/-- Count an uncorrectable report and log it (R544, R560); an address-class one counts in both UE and ADDR_CLASS (DEDUCED, log
entry 31). -/
def State.countUe (s : State) (island word : Nat) (addr : Bool) : State :=
  let s1 := s.bump F.glbEccCtrUe island 1
  let s2 := if addr then s1.bump F.glbEccCtrAddrClass island 1 else s1
  s2.event island 0x0801 0 (island + bit addr * 256) word

/-- The place in a log for a word (R548): the entry that has it, else a free one, else the one with the lowest COUNT and the
oldest LAST_CYC; `count` and `last` read an entry, `mine` says that it has the word. -/
def logPlace (n : Nat) (mine : Nat → Bool) (count last : Nat → Nat) : Nat :=
  match (List.range n).find? (fun e => count e != 0 && mine e) with
  | some e => e
  | none =>
    match (List.range n).find? (fun e => count e = 0) with
    | some e => e
    | none => (List.range n).foldl (fun b e => if count e < count b ∨ (count e = count b ∧ last e < last b) then e else b) 0

/-- FUSE record words of a repair made in service (R555); D0_SB_CYC is filled at the commit. -/
def fuseWord2 (kind island unit spare target : Nat) : Nat := kind + island * 2 ^ 8 + unit * 2 ^ 16 + spare * 2 ^ 24 + target * 2 ^ 32
def fuseWord3 (cause : Nat) : Nat := 1 + cause * 2 ^ 8

/-- Start the repair of a DRAM row (R549, R556): a channel with no spare row logs the failure. -/
def State.startRowRepair (s : State) (stack channel target cause : Nat) (place : Option Nat) : State :=
  let due := (s.ecc.repairs.filter (fun r => r.stack = stack && r.channel = channel)).length
  if s.ecc.repairs.any (fun r => r.stack = stack && r.channel = channel && r.target = target) ∧ place = none then s
  else if Tbl.look 0 s.ecc.rowsUsed (32 * stack + channel) + due ≥ 16 then
    let s1 := s.event (islandOfStack stack) 0x0804 0 (islandOfStack stack) target
    match place with
    | some p => s1.finish p 0x2006 0
    | none => s1
  else s.setEcc { s.ecc with repairs := s.ecc.repairs ++ [⟨stack, channel, target, cause, place⟩] }

/-- The parts of a folded address (R538): row, bank, column word, channel. -/
def foldRow (a : Nat) : Nat := bitsOf a 0 16
def foldBank (a : Nat) : Nat := bitsOf a 16 6
def foldChannel (a : Nat) : Nat := bitsOf a 27 5
/-- The TARGET of a folded address (R555), and the address of the word `i` columns on. -/
def foldTarget (a : Nat) : Nat := foldBank a + 64 * foldRow a
def foldPlus (a i : Nat) : Nat := withBits a 22 5 (bitsOf a 22 5 + i)

/-- A correctable read of a stack: counted and logged; a COUNT that reaches ROW_THRESH starts a row repair (R548). -/
def State.stackCe (s : State) (n fold symbol : Nat) : State :=
  let i := islandOfStack n
  let s1 := s.bump F.glbEccCtrCe i 1
  let e := 32 * n + logPlace 32 (fun e => s1.fget F.memCeLogAddress (32 * n + e) = fold)
    (fun e => s1.fget F.memCeLogCount (32 * n + e)) (fun e => s1.fget F.memCeLogLastCyc (32 * n + e))
  let old : Bool := s1.fget F.memCeLogCount e != 0 && s1.fget F.memCeLogAddress e = fold
  let s2 := if old then s1.bumpSat F.memCeLogCount e 1
    else ((s1.fset F.memCeLogAddress e fold).fset F.memCeLogSymbol e symbol).fset F.memCeLogCount e 1
  let s3 := s2.fset F.memCeLogLastCyc e (s2.cyc i)
  if s3.fget F.memCeLogCount e = max 1 (s3.fget F.memEccCfgRowThresh n) then
    s3.startRowRepair n (foldChannel fold) (foldTarget fold) 1 none
  else s3

/-! ## The fence of a station (R309, R310) -/

/-- The commands whose search or scan holds a context on a station. -/
def State.contextPlaces (s : State) (st : Nat) : List Nat :=
  (((s.stn st).walkers.filter (fun e => e.2.live)).map (fun e => e.2.place) ++
    ((s.stn st).scans.filter (fun e => e.2.live)).map (fun e => e.2.place)).dedup

/-- A fenced station stops at once: no pass, copy, stream or lane-tail row of it goes on, and it carries no job. What its column
registers, its accumulator file and its counters hold stands (R92, R100). -/
def Station.stopped (x : Station) : Station :=
  { x with
    lanes := (x.lanes.map (fun e => (e.1, { e.2 with
      job := none, ctxs := [], passes := [], copies := [], slots := 0, partEnded := false, swapped := false, held := false,
      fed := false, stalled := false }))).filter
        (fun e => e.2 != {})
    balance := [], order := none, outgoing := none, incoming := none, ready := [], streams := [], tail := [], walkers := [],
    scans := [] }

/-- A station's part of an abandoned run is over (R289): its report is held. -/
def State.report (s : State) (j st : Nat) : State :=
  match (s.job j).run with
  | some r => if r.reports.contains st then s else s.setJob j { s.job j with run := some { r with reports := r.reports ++ [st] } }
  | none => s

/-- The runs in progress with a part on a station are abandoned; its report counts as received (R289, R310). -/
def State.abandonOn (s : State) (st : Nat) : State :=
  (List.range 256).foldl (fun (s : State) j =>
    match (s.job j).run with
    | some r => if r.image.stations.contains st then ((s.abandonRun j 0x400F).report j st) else s
    | none => s) s

/-- Every slot with an image on the station shows FENCED, in HANDOVER the old image too; TS00 loses its image there (R187, R198,
R310). -/
def State.markFenced (s : State) (st : Nat) : State :=
  (List.range 64).foldl (fun (s : State) k =>
    match (s.slot k).img with
    | some im =>
      let old : Bool := (s.slot k).old.any (fun o => o.stations.contains st)
      if !im.stations.contains st then (if old then s.fset F.ttbSlotStateFenced k 1 else s)
      else if k = 0 then
        let gone := im.places.filter (fun p => p.station = st)
        let left : Image := { im with places := im.places.filter (fun p => p.station != st) }
        ((gone.foldl State.dropPlace s).setSlot 0 { s.slot 0 with img := some left }).fset F.ttbSlotMaskMask 0 (maskOf left.stations)
      else s.fset F.ttbSlotStateFenced k 1
    | none => s) s

/-- Commands with a search or scan context on a fenced station end with 0x400F (DESIGN CHOICE, log entry 30). -/
def State.endContexts (s : State) (st : Nat) : State :=
  (s.contextPlaces st).foldl (fun (s : State) p => if s.open p then s.finish p 0x400F 0 else s) s

/-- Fence a station (R309, R310). -/
def State.fenceStation (s : State) (st cause : Nat) : State :=
  if s.fbit F.stnStateFenced st then s
  else
    let s1 := ((s.fset F.stnStateInService st 0).fset F.stnStateFenced st 1).fset F.stnStateCause st cause
    let s2 := (s1.event (islandOfStation st) 0x0203 0 st cause).flag F.glbEventStatusStationFenced
    let s3 := ((State.closeScans st (fun _ => true) s2).endContexts st).abandonOn st
    let s4 := ((s3.endIdents st).setStn st (s3.endIdents st |>.stn st).stopped).fset F.stnStateActiveJob st 0x1FF
    let s5 := (((s4.markFenced st).platformFree st).stitchFenced st).expressAgain
    ((List.range 256).foldl (fun (s : State) j => s.refresh j) s5.reissue).stitchKick

/-! ## Retiring a lane row (R31, R558) -/

/-- A lane row of a station fails (R31): LR32 takes its place, or the station is fenced. LR32 itself may fail: while it stands in for
a row it is the second failing row; unused it is no replacement any more. -/
def State.retireLane (s : State) (st n cause : Nat) (banks : List Nat) (place : Option Nat) : State :=
  let spare : Bool := !s.fbit F.stnLrSpareUsed st && !s.power.failedCheckers.contains (islandOfStation st, 32) &&
    !s.ecc.retiring.any (fun r => r.station = st)
  if s.ecc.retiring.any (fun r => r.station = st && r.lane = n) ∧ place = none then s
  else if n = 32 ∧ !s.fbit F.stnLrSpareUsed st then
    (if s.power.failedCheckers.contains (islandOfStation st, 32) then s
    else s.setPower { s.power with failedCheckers := s.power.failedCheckers ++ [(islandOfStation st, 32)] })
  else if spare ∧ n ≠ 32 then s.setEcc { s.ecc with retiring := s.ecc.retiring ++ [{ station := st, lane := n, cause := cause, banks := banks, place := place }] }
  else
    match place with
    | some p => s.finish p 0x2006 0
    | none => (s.fset F.stnLrSpareFailed2 st 1).fenceStation st 2

/-! ## Correctable reads of station memories (R548, R557) -/

/-- What an address-class fault of a station memory leads to (R545). -/
def State.stationAddr (s : State) (st unit cause bank : Nat) : State :=
  if unit < 33 then s.retireLane st unit cause [bank] none else if unit = 34 then s.fenceStation st 3 else s.fenceStation st 4

/-- An SRAM row repair falls due; a macro with no spare row left has the fault handled as one of address class (R557). -/
def State.sramRepairDue (s : State) (i unit row cause : Nat) : State :=
  if s.ecc.sramDue.any (fun d => d.1 = i && d.2.1 = unit && d.2.2.1 = row) then s
  else if Tbl.look 0 s.ecc.sramRows (64 * i + unit) ≥ 4 then
    let s1 := s.event i 0x0804 0 i row
    if islandClass i = 0 then s1.stationAddr (i / 35 * 16 + i % 35) unit cause (row / 512) else s1
  else s.setEcc { s.ecc with sramDue := s.ecc.sramDue ++ [(i, unit, row, cause)] }

/-- The SRAM row of a word: its 64 B line (PRESUMED, log entry 31). -/
def sramRow (word : Nat) : Nat := word / 8 % 65536

/-- A signal of R628 was 1 for a cycle of the station. -/
def State.pulse (s : State) (st i : Nat) : State :=
  if (s.stn st).pulses.contains i then s else s.setStn st { s.stn st with pulses := (s.stn st).pulses ++ [i] }

/-- A correctable read of a station memory (R548, R564). -/
def State.stationCe (s : State) (st unit word bit_ : Nat) : State :=
  let i := islandOfStation st
  let s1 := (s.bump F.glbEccCtrCe i 1).pulse st 50
  let e := 16 * st + logPlace 16
    (fun e => s1.fget F.stnCeLogWord (16 * st + e) = word && s1.fget F.stnCeLogMacro (16 * st + e) = unit)
    (fun e => s1.fget F.stnCeLogCount (16 * st + e)) (fun e => s1.fget F.stnCeLogLastCyc (16 * st + e))
  let old : Bool := s1.fget F.stnCeLogCount e != 0 && s1.fget F.stnCeLogWord e = word && s1.fget F.stnCeLogMacro e = unit
  let s2 := if old then s1.bumpSat F.stnCeLogCount e 1
    else (((s1.fset F.stnCeLogWord e word).fset F.stnCeLogMacro e unit).fset F.stnCeLogBit e bit_).fset F.stnCeLogCount e 1
  let s3 := s2.fset F.stnCeLogLastCyc e (s2.cyc i)
  if s3.fget F.stnCeLogCount e = max 1 (s3.fget F.stnEccCfgRowThresh st) then s3.sramRepairDue i unit (sramRow word) 1 else s3

/-! ## Reads of station memories (R544, R545) -/

/-- The poison marks of a station memory: a lane store's or the platform's. -/
def State.poisonOf (s : State) (st unit : Nat) : List Nat :=
  if unit < 33 then (s.lane st unit).poison else if unit = 33 then (s.stn st).platPoison else []

/-- Words of a station memory that an injection has altered (R559), and the state with them read. -/
def State.takeInjected (s : State) (i unit : Nat) (has : Nat → Bool) : List Injected × State :=
  let mine := s.ecc.injected.filter (fun x => x.island = i && x.unit = unit && has x.word)
  (mine, s.setEcc { s.ecc with injected := s.ecc.injected.filter (fun x => !mine.contains x) })

/-- What an uncorrectable report of a station memory leads to besides its reader's answer (R544, R545). -/
def State.stationUe (s : State) (st unit word : Nat) (addr : Bool) : State :=
  let s1 := (s.countUe (islandOfStation st) word addr).pulse st 51
  if addr ∨ unit = 34 then s1.stationAddr st unit 3 (word / 4096) else s1

/-- An injected word is read: corrected and logged, or reported. -/
def State.readInjected (st : Nat) (s : State) (x : Injected) : State :=
  if x.kind = 0 then s.stationCe st x.unit x.word x.place else s.stationUe st x.unit x.word (x.kind = 2)

/-- A unit of a station reads words of a station memory: whether one is uncorrectable, and the state after the reports. -/
def State.stationRead (s : State) (st unit : Nat) (words : List (Nat × Nat)) : Bool × State :=
  let has := fun w : Nat => (words.any (fun r => r.1 ≤ w && w < r.1 + r.2) : Bool)
  let bad := (s.poisonOf st unit).filter has
  let t := s.takeInjected (islandOfStation st) unit has
  let s1 := bad.foldl (fun (s : State) w => s.stationUe st unit w false) t.2
  (!bad.isEmpty || t.1.any (fun x => x.kind != 0), t.1.foldl (State.readInjected st) s1)

end Sys2Proof.Machine
end

