-- ==== Sys2Proof/Machine/PassArith.lean ====
section
/-! DEFINITION. The arithmetic of one pass over bytes already read (R61 to R81, R129 to R147): the operands of a row in slot
order, the accumulator rows they leave, the records and the converted rows made of them. -/

namespace Sys2Proof.Machine

/-- The slots of one sub-tile, and the slot of a pass's last operand (R80, R81). -/
def subSlots (d : List Byte) (wide : Bool) (m : Nat) : Nat := max (rowsC wide m) (feedOf (pdMode d))
def lastSlot (d : List Byte) (wide : Bool) (m : Nat) : Nat := (subTiles d - 1) * subSlots d wide m + rowsC wide m - 1

/-! ## The weight front (R100 to R107) -/

/-- The tile a sub-tile belongs to, and whether it is a high nibble plane (W8). -/
def tileOf (mode t : Nat) : Nat := if mode = 2 then t / 2 else t
def highPlane (t : Nat) : Bool := t % 2 = 0

/-- One nibble of each 8-bit code of a tile, two to a byte: the high nibbles, or the low ones (R66, R107). -/
def nibbles (high : Bool) (tile : List Byte) : List Byte :=
  (List.range (tile.length / 2)).map (fun i =>
    let n := fun k => (if high then byteField tile k 1 / 16 else byteField tile k 1 % 16)
    BitVec.ofNat 8 (n (2 * i) + 16 * n (2 * i + 1)))

/-- What the feed of a sub-tile sends down the chain: the tile's bytes; in W8 the high nibbles of its codes, and for the low plane
the plane buffer (R101, R107). -/
def Front.sends (f : Front) (mode t : Nat) (tile : List Byte) : List Byte :=
  if mode = 2 then (if highPlane t then nibbles true tile else f.plane) else tile

/-- The bytes of the chain that are lane `j`'s column: from, to. In FP64 mode pair p takes its column at lane 2p (R64, R101). -/
def columnSpan (mode j : Nat) : Nat × Nat :=
  if mode = 5 then (if j % 2 = 0 then (8 * (j / 2), 8 * (j / 2) + 8) else (0, 0))
  else
    let n := [16, 12, 16, 16, 8].getD mode 16
    (n * j, n * j + n)

/-- A lane takes the bytes of its own column from the 32 B of each feed cycle as they pass it (R100). -/
def takeColumn (mode : Nat) (cycles : List (List Byte)) (j : Nat) : List Byte :=
  let c := columnSpan mode j
  (cycles.zipIdx.map (fun x => (x.1.take (c.2 - 32 * x.2)).drop (c.1 - 32 * x.2))).flatten

/-- The feed of a sub-tile (R100, R101, R107): each feed cycle enters the chain at lane 0 and moves one lane on in each cycle,
the lanes fill their shadow registers, and a high plane leaves its low nibbles in the plane buffer. -/
def Front.feed (f : Front) (mode t : Nat) (tile : List Byte) : Front :=
  let cycles := chunksOf 32 512 (f.sends mode t tile)
  { f with
    shadow := (List.range 32).map (takeColumn mode cycles)
    chain := cycles.foldl (fun ch c => (c :: ch).take 32) f.chain
    plane := if mode = 2 ∧ highPlane t then nibbles false tile else f.plane }

/-- The front passes (R103): behind the marked operand every lane's shadow column becomes its active one. -/
def Front.move (f : Front) : Front := { f with active := f.shadow }

/-- The active column that channel `j` multiplies: lane j's, or in FP64 mode that of lane 2j. -/
def Front.column (f : Front) (mode j : Nat) : List Byte := f.active.getD (if mode = 5 then 2 * j else j) []

/-! ## A row over the sub-tiles of a pass -/

/-- What a lane has after some operands: the entry, its saturations up to V, all its saturations, and its NaNs. -/
structure LaneAcc where
  e : AccEntry
  early : Nat := 0
  sats : Nat := 0
  nans : Nat := 0
deriving DecidableEq, Repr

/-- A dot product of a sub-tile's active column with an A12 block (R65, R66): the nibble planes of W8 are 4-bit codes, signed
in the high plane, which counts 16 times, and unsigned in the low one. -/
def subDot (mode t : Nat) (col blk : List Byte) : Int :=
  if mode = 2 then (if highPlane t then 16 * dotInt 4 col blk else dotLow col blk)
  else dotInt (if mode = 1 then 3 else 4) col blk

/-- One operand in the integer modes (R65 to R69); a saturation counts for the verdict if lane `j` records it by V (R140). -/
def intOp (mode : Nat) (wide : Bool) (last slot t j : Nat) (col : List Byte) (x : LaneAcc) (blk : List Byte) : LaneAcc :=
  let p := subDot mode t col blk
  let r := if wide then accumulateWide p (blockExp blk) x.e else accumulate p (blockExp blk) x.e
  let c := bit r.2
  { e := r.1, early := x.early + (if slot + j + 4 ≤ last then c else 0), sats := x.sats + c, nans := 0 }

/-- One operand in the floating-point modes (R71, R72). -/
def floatOp (mode : Nat) (col : List Byte) (x : LaneAcc) (op : List Byte) : LaneAcc :=
  let a := x.e.a.toNat
  let r := if mode = 3 then bf16Step col op a else if mode = 4 then fp32Step col op a else fp64Step col op a
  { e := { a := r.1, x := 0, full := true }, nans := x.nans + r.2 }

/-- Lanes that hold a channel: 32, or 16 pairs in FP64 mode (R63). -/
def channelsOf (mode : Nat) : Nat := if mode = 5 then 16 else 32

/-- A row in the course of a pass: its lanes, and the CLIPS of the operands accepted (R85). -/
structure RowRun where
  lanes : List LaneAcc
  clips : Nat := 0
deriving DecidableEq, Repr

/-- One operand of row `r` in sub-tile `t`, in slot `k` of the row's own slots there. -/
def rowOp (d : List Byte) (wide : Bool) (m t r : Nat) (f : Front) (x : RowRun) (o : List Byte × Nat) : RowRun :=
  let mode := pdMode d
  let slot := t * subSlots d wide m + (if wide then 2 * r else r) + o.2
  { lanes := x.lanes.zipIdx.map (fun a =>
      if mode < 3 then intOp mode wide (lastSlot d wide m) slot t a.2 (f.column mode a.2) a.1 o.1
      else floatOp mode (f.column mode a.2) a.1 o.1)
    clips := x.clips + (if mode < 3 then blockClips o.1 else 0) }

/-- One sub-tile (R80, R103, R105): its column registers are fed, the front moves, and every row streams its operands. `tile` gives a
tile's bytes, `blk` the blocks of a tile and row: one, or the high and low block of a pair. -/
def subTile (d : List Byte) (wide : Bool) (m : Nat) (tile : Nat → List Byte) (blk : Nat → Nat → List (List Byte))
    (x : Front × List RowRun) (t : Nat) : Front × List RowRun :=
  let mode := pdMode d
  let f := (x.1.feed mode t (tile (tileOf mode t))).move
  (f, x.2.zipIdx.map (fun r => (blk (tileOf mode t) r.2).zipIdx.foldl (rowOp d wide m t r.2 f) r.1))

/-- A row of the accumulator file at the end of a pass. -/
structure RowAcc where
  acc : List AccEntry
  clips : Nat
  early : Nat
  sats : Nat
  nans : Nat
deriving DecidableEq, Repr

/-- The totals of a row. -/
def RowRun.total (x : RowRun) : RowAcc :=
  { acc := x.lanes.map (·.e), clips := x.clips, early := (x.lanes.map (·.early)).sum, sats := (x.lanes.map (·.sats)).sum,
    nans := (x.lanes.map (·.nans)).sum }

/-- A row's lanes as ACC_IN leaves them: clear, or loaded (R60). -/
def startRow (mode : Nat) (xs : List AccEntry) : RowRun :=
  { lanes := (List.range (channelsOf mode)).map (fun j => { e := xs.getD j {} }) }

/-- A pass from the weight front it finds and its rows at the start: the front it leaves, and its rows (R59 to R81). -/
def passRun (d : List Byte) (wide : Bool) (m : Nat) (front : Front) (tile : Nat → List Byte) (blk : Nat → Nat → List (List Byte))
    (start : Nat → List AccEntry) : Front × List RowAcc :=
  let r := (List.range (subTiles d)).foldl (subTile d wide m tile blk)
    (front, (List.range m).map (fun r => startRow (pdMode d) (start r)))
  (r.1, r.2.map RowRun.total)

/-! ## The accumulator file (R59, R69, R72) -/

/-- The file's rows for a pass's rows: in wide form rows r and r + 32 hold the low and the high word, and in FP64 mode lanes 2p
and 2p + 1 hold pair p's words. -/
def accFile (mode : Nat) (wide : Bool) (rs : List RowAcc) : List (List AccEntry) :=
  let word := fun (hi : Bool) (t : AccEntry) =>
    let n := unsigned 64 t.a
    ({ t with a := if hi then (n / 2 ^ 32 : Nat) else (n % 2 ^ 32 : Nat) } : AccEntry)
  if wide then
    rs.map (fun r => r.acc.map (word false)) ++ List.replicate (32 - rs.length) [] ++ rs.map (fun r => r.acc.map (word true))
  else if mode = 5 then rs.map (fun r => r.acc.flatMap (fun t => [word false t, word true t]))
  else rs.map (·.acc)

/-! ## Records (R62, R69, R147) -/

/-- The lanes' words of a record. -/
def recordLanes (mode : Nat) (bs : List Byte) : List AccEntry :=
  if mode = 5 then (List.range 16).map (fun p => { a := byteField bs (8 * p) 8, x := 0, full := true })
  else
    (List.range 32).map (fun j =>
      if mode < 3 then { a := signed 32 (byteField bs (4 * j) 4), x := byteField bs 128 1, full := true }
      else { a := byteField bs (4 * j) 4, x := 0, full := true })

/-- The wide entries of a pair of records: low row, high row (R69). -/
def recordPair (lo hi : List Byte) : List AccEntry :=
  (List.range 32).map (fun j =>
    { a := byteField lo (4 * j) 4 + signed 32 (byteField hi (4 * j) 4) * 2 ^ 32, x := byteField lo 128 1, full := true })

/-- A narrow record's entries as a wide re-run loads them (R147). -/
def widened (xs : List AccEntry) : List AccEntry := xs.map (fun t => { t with a := t.a * 2048 })

/-- A record's 136 bytes from its words, exponent and flags. -/
def recordBytes (words : List Nat) (x flags : Nat) : List Byte :=
  words.flatMap (leBytes 4) ++ leBytes 1 x ++ leBytes 1 flags ++ zeros 6

/-- The exponent a row came to rest at: all its lanes hold the same (R62). -/
def rowExp (xs : List AccEntry) : Nat := (xs.map (·.x)).foldl max 0

/-- The narrow record of a row. Flag bit 0 says that the storing pass clamped a lane of the row: a clamp that only a loaded record
carries does not set it again, and in the floating-point modes, which have no exponent, byte 128 is 0 (DESIGN CHOICE, log entry
27). -/
def narrowRecord (mode : Nat) (r : RowAcc) : List Byte :=
  if mode = 5 then recordBytes (r.acc.flatMap (fun t => [t.a.toNat % 2 ^ 32, t.a.toNat / 2 ^ 32 % 2 ^ 32])) 0 0
  else if mode < 3 then recordBytes (r.acc.map (fun t => unsigned 32 t.a)) (rowExp r.acc) (bit (r.sats ≠ 0))
  else recordBytes (r.acc.map (fun t => t.a.toNat)) 0 0

/-- The low and the high record of a wide row. -/
def wideRecords (r : RowAcc) : List Byte × List Byte :=
  (recordBytes (r.acc.map (fun t => unsigned 64 t.a % 2 ^ 32)) (rowExp r.acc) (bit (r.sats ≠ 0)),
   recordBytes (r.acc.map (fun t => unsigned 64 t.a / 2 ^ 32)) (rowExp r.acc) (2 + bit (r.sats ≠ 0)))

/-- The shift that brings every lane of a wide row within 32 bits: one for the row, since a record holds one exponent (R62,
R147; DEDUCED, log entry 27). The fuel is the shifts left to try. -/
def rowShift : Nat → Nat → List AccEntry → Nat
  | 0, d, _ => d
  | n + 1, d, xs => if xs.any (fun t => (sat 32 (shr t.a d)).2) then rowShift n (d + 1) xs else d

/-- The narrow record of a wide re-run's row, and the saturations it adds (R147). -/
def rerunRecord (r : RowAcc) : List Byte × Nat :=
  let d := rowShift 53 11 r.acc
  let ys := r.acc.map (narrowAt d)
  let n := (ys.filter (·.2)).length
  (recordBytes (ys.map (fun y => unsigned 32 y.1.a)) (rowExp (ys.map (·.1))) (bit (r.sats + n ≠ 0)), n)

/-! ## Conversion of a row (R86, R133 to R136) -/

/-- The value of an entry. -/
def entryValue (mode : Nat) (wide : Bool) (t : AccEntry) : Fp :=
  if mode < 3 then intValue (if wide then 148 else 137) t else if mode = 5 then fpOf fp64 t.a.toNat else fpOf fp32 t.a.toNat

/-- The rescale entry of a channel: that of lane j, or of lane 2p for pair p (R130). -/
def rescaleOf (mode : Nat) (tab : List Byte) (j : Nat) : Nat := byteField tab (if mode = 5 then 8 * j else 4 * j) 4

/-- The converted values of a row in a format, as bit patterns, and the NaNs among them; in FP64 mode the conversion rounds to
FP64, and a narrower format is rounded from that (R134). -/
def rowValues (f : FpFmt) (mode : Nat) (wide : Bool) (tab : List Byte) (xs : List AccEntry) : List Nat × Nat :=
  let g := if mode = 5 then fp64 else f
  let vs := xs.zipIdx.map (fun t => convert g (entryValue mode wide t.1) (rescaleOf mode tab t.2))
  let ys := if g = f then vs else vs.map (fun v => fpRound f (f = bf16) (fpOf g v))
  (ys, (ys.filter (isNan f)).length)

/-- The bytes of a converted row, and its NaNs; `ceil` is the effective ceiling of an A12 row. An FP64 pass with OUT_FMT = BF16 has 16
channels: it writes 32 B, and the rest of the 64 B row stays as it was (DESIGN CHOICE, log entry 27). -/
def rowBytes (d : List Byte) (wide : Bool) (tab : List Byte) (ceil : Nat) (xs : List AccEntry) : List Byte × Nat :=
  let mode := pdMode d
  if pdFmt d = 2 then
    if mode = 5 then (let r := rowValues fp64 mode wide tab xs; (r.1.flatMap (leBytes 8), r.2))
    else (let r := rowValues fp32 mode wide tab xs; (r.1.flatMap (leBytes 4), r.2))
  else
    let r := rowValues bf16 mode wide tab xs
    if pdFmt d = 1 then (let b := alignA12 ceil r.1; (b.1, r.2 + b.2)) else (r.1.flatMap (leBytes 2), r.2)

/-- A converted row as the lane tail takes it, in FP32, and its NaNs. With OUT_FMT = A12 the tail takes the BF16 values that R136
forms, without the aligner; a row of an FP64 pass has its 16 values, in the format of OUT_FMT (DESIGN CHOICE, log entry 27). -/
def rowTail (d : List Byte) (wide : Bool) (tab : List Byte) (xs : List AccEntry) : List Nat × Nat :=
  if pdFmt d = 2 then rowValues fp32 (pdMode d) wide tab xs
  else (let r := rowValues bf16 (pdMode d) wide tab xs; (r.1.map bf16ToFp32, r.2))

end Sys2Proof.Machine
end

