-- ==== Sys2Proof/Machine/Roots.lean ====
section
/-! DEFINITION. Index roots and their regions (R312 to R318, R321), the walker contexts that hold queries, and the passes of a siding
scan (R323, R324). -/

namespace Sys2Proof.Machine

/-! ## The root (R312) -/

/-- An index root as read. -/
structure Root where
  at_ : Nat
  magic : Nat
  version : Nat
  metric : Nat
  fmt : Nat
  dims : Nat
  code : Nat
  degree : Nat
  pin : Nat
  idCap : Nat
  sCap : Nat
  fCap : Nat
  idHigh : Nat
  sFirst : Nat
  sCount : Nat
  fFirst : Nat
  fCount : Nat
  epoch : Nat
  pending : Nat
  liveN : Nat
  tomb : Nat
  graph : Nat
  bases : List Nat
deriving DecidableEq, Repr

/-- The root's fields from its first 192 bytes. -/
def rootOf (a : Nat) (b : List Byte) : Root :=
  { at_ := a
    magic := byteField b 0 4
    version := byteField b 4 2
    metric := byteField b 6 1
    fmt := byteField b 7 1
    dims := byteField b 8 2
    code := byteField b 10 1
    degree := byteField b 11 1
    pin := byteField b 12 1
    idCap := byteField b 16 8
    sCap := byteField b 24 4
    fCap := byteField b 32 8
    idHigh := byteField b 64 8
    sFirst := byteField b 72 4
    sCount := byteField b 76 4
    fFirst := byteField b 80 8
    fCount := byteField b 88 8
    epoch := byteField b 96 4
    pending := byteField b 100 4
    liveN := byteField b 104 8
    tomb := byteField b 112 8
    graph := byteField b 120 8
    bases := (List.range 8).map (fun i => byteField b (128 + 8 * i) 8) }

/-- The 64 bytes of a root's counter line. -/
def Root.line (r : Root) : List Byte :=
  leBytes 8 r.idHigh ++ leBytes 4 r.sFirst ++ leBytes 4 r.sCount ++ leBytes 8 r.fFirst ++ leBytes 8 r.fCount ++
    leBytes 4 r.epoch ++ leBytes 4 r.pending ++ leBytes 8 r.liveN ++ leBytes 8 r.tomb ++ leBytes 8 r.graph

def State.readRoot (s : State) (a : Nat) : Root := rootOf a (s.depotRead a 192)

/-- Write the counter line, as one 64 B write. -/
def State.writeLine (s : State) (r : Root) : State := s.store (r.at_ + 64) r.line

/-- The region bases. -/
def Root.base (r : Root) (n : Nat) : Nat := r.bases.getD n 0
/-- A vector's bytes V; a list's bytes, and the lists of a 4 KiB sub-block (R315). -/
def Root.vec (r : Root) : Nat := if r.fmt = 0 then r.dims else 2 * r.dims
def Root.listBytes (r : Root) : Nat := 32 * ceilDiv (5 * r.degree) 32
def Root.perBlock (r : Root) : Nat := 4096 / max 1 r.listBytes

/-- UOFF of a level (R315). -/
def Root.uoff (r : Root) : Nat → Nat
  | 0 => 0
  | 1 => 0
  | n + 1 => r.uoff n + ceilDiv (ceilDiv r.idCap (32 ^ n)) r.perBlock * 4096

/-- Where the list of an id at a level stands. -/
def Root.listAt (r : Root) (level i : Nat) : Nat :=
  let u := if level = 0 then i else i / 32 ^ level
  (if level = 0 then r.base 2 else r.base 3 + r.uoff level) + u / r.perBlock * 4096 + u % r.perBlock * r.listBytes

def Root.codeAt (r : Root) (i : Nat) : Nat := r.base 0 + i * r.code
/-- Where an id's vector stands. -/
def Root.vecAt (r : Root) (i : Nat) : Nat :=
  let v := r.vec
  if v ≤ 4096 then r.base 4 + i / (4096 / max 1 v) * 4096 + i % (4096 / max 1 v) * v else r.base 4 + i * 4096 * ceilDiv v 4096
def Root.stateAt (r : Root) (i : Nat) : Nat := r.base 5 + i / 4
def Root.freeAt (r : Root) (n : Nat) : Nat := r.base 6 + 8 * (n % max 1 r.fCap)
/-- Siding positions: id, rescale entry, and the column block of the matrix (R321). -/
def Root.sidAt (r : Root) (p : Nat) : Nat := r.base 7 + 8 * p
def Root.scaleAt (r : Root) (p : Nat) : Nat := r.base 7 + 8 * r.sCap + 4 * p
def Root.matrix (r : Root) : Nat := r.base 7 + 12 * r.sCap
def Root.tileBytes (r : Root) : Nat := if r.fmt = 0 then 1024 else 512
def Root.tiles (r : Root) : Nat := if r.fmt = 0 then r.dims / 32 else r.dims / 8
/-- The 32 or 16 bytes of position p's column in tile t. -/
def Root.colAt (r : Root) (p t : Nat) : Nat :=
  let n := r.tileBytes / 32
  r.matrix + (p / 32 * r.tiles + t) * r.tileBytes + n * (p % 32)

/-- The sizes of the regions (R315). -/
def Root.sizes (r : Root) : List Nat :=
  [r.idCap * r.code, 512 * r.dims, ceilDiv r.idCap r.perBlock * 4096, r.uoff 7, r.vecAt (r.idCap - 1) + r.vec - r.base 4,
   ceilDiv r.idCap 4, 8 * r.fCap, 12 * r.sCap + r.sCap * r.vec]

/-- The regions as ranges. -/
def Root.regions (r : Root) : List (Nat × Nat) := r.bases.zip r.sizes

/-- The ranges of a list have no two that meet. -/
def apart : List (Nat × Nat) → Bool
  | [] => true
  | a :: rs => rs.all (fun b => a.2 = 0 || b.2 = 0 || !meet a b) && apart rs

/-- A root passes R314. -/
def Root.ok (r : Root) : Bool :=
  r.magic = 0x58495A41 && r.version = 0x0100 && r.metric ≤ 1 && r.fmt ≤ 1 && 32 ≤ r.dims && r.dims ≤ 4096 && r.dims % 32 = 0 &&
    8 ≤ r.code && r.code ≤ 248 && r.code % 8 = 0 && r.dims % r.code = 0 && 8 ≤ r.degree && r.degree ≤ 64 &&
    1 ≤ r.pin && r.pin ≤ 7 && 1 ≤ r.idCap && r.idCap < 2 ^ 40 && 32 ≤ r.sCap && r.sCap ≤ 4194304 && r.sCap % 32 = 0 && 1 ≤ r.fCap &&
    r.bases.all (fun b => b % 65536 = 0) && r.regions.all (fun x => inDepot x.1 x.2) && apart ((r.at_, 65536) :: r.regions)

/-- A root or one of its regions lies in the media part. -/
def Root.inMedia (r : Root) : Bool := (r.at_ :: r.bases).any (fun b => b < userEnd)

/-- The page of an address is used by a search or index command: looked up, and promoted if it is not resident (R242, R250). -/
def State.usePage (s : State) (a : Nat) : State := (s.tierLookup (pageOf a)).promote (pageOf a)
def State.usePages (s : State) (ps : List Nat) : State := ps.foldl (fun (s : State) p => s.usePage (65536 * p)) s

/-! ## Elements and distances (R320) -/

/-- An integer as an exact value. -/
def fpOfInt (i : Int) : Fp := .fin (i < 0) i.natAbs 0

/-- Element `i` of a vector. -/
def elemOf (fmt : Nat) (v : List Byte) (i : Nat) : Fp :=
  if fmt = 0 then fpOfInt (signed 8 (byteField v i 1)) else fpOf bf16 (byteField v (2 * i) 2)

/-! ## The siding scan (R323, R324) -/

/-- The live positions, oldest first. -/
def Root.livePositions (r : Root) : List Nat := (List.range r.sCount).map (fun n => (r.sFirst + n) % max 1 r.sCap)

/-- The descriptor of a siding pass over `m` queries: W8 or BF16, its tiles, ACC_OUT 2 with FP32 conversion, TAIL_OP TOPK_ROW with
the largest values for METRIC 1, and RERUN_EN 0 (R323; DEDUCED, log entry 34). -/
def sidingDesc (r : Root) (m : Nat) : List Byte :=
  leBytes 1 (if r.fmt = 0 then 2 else 3) ++ leBytes 1 (2 + 2 * 4) ++ leBytes 1 (0x14 + 64 * bit (r.metric = 1)) ++ leBytes 1 m ++
    leBytes 2 r.tiles ++ zeros 58

/-- The operand blocks of a query: A12 under ceiling 255 for int8, BF16 values for BF16 (R323). -/
def queryBlock (r : Root) (q : List Byte) (t : Nat) : List Byte :=
  if r.fmt = 0 then (alignA12 255 ((List.range 32).map (fun i => fpRound bf16 false (elemOf 0 q (32 * t + i))))).1
  else (q.drop (16 * t)).take 16

/-- Where a command's query runs: station and context. -/
def State.walkerOf (s : State) (p : Nat) : Option (Nat × Nat) :=
  (s.stations.flatMap (fun e => (e.2.walkers.filter (fun w => w.2.live && w.2.place = p)).map (fun w => (e.1, w.1)))).head?

/-- The query of a SEARCH that a walker holds. -/
def State.queryOf (s : State) (p : Nat) : List Byte := ((s.walkerOf p).map (fun w => (s.walker w.1 w.2).query)).getD []

/-- The siding run of a job in progress: its root with the counter line read at the close, and the places of its searches. -/
def State.sidingRun (s : State) (j : Nat) : Option (Root × List Nat) :=
  match (s.job j).run.map Run.what with
  | some (.siding root first count places) => some ({ s.readRoot root with sFirst := first, sCount := count }, places)
  | _ => none

/-- The depot ranges that a column block's pass reads: its tiles and its rescale table. -/
def Root.blockRanges (r : Root) (b : Nat) : List (Nat × Nat) :=
  [(r.matrix + b * r.tiles * r.tileBytes, r.tiles * r.tileBytes), (r.scaleAt (32 * b), 128)]

/-- The depot pages of some ranges. -/
def rangePages (rs : List (Nat × Nat)) : List Nat :=
  rs.flatMap (fun x => if x.2 = 0 then [] else (List.range (pageOf (x.1 + x.2 - 1) - pageOf x.1 + 1)).map (pageOf x.1 + ·))

/-- The tile and operand bytes of a siding pass (R321, R323). -/
def State.sidingTile (s : State) (r : Root) (b t : Nat) : List Byte := s.depotRead (r.matrix + (b * r.tiles + t) * r.tileBytes) r.tileBytes
def State.sidingBlk (s : State) (r : Root) (places : List Nat) (t row : Nat) : List (List Byte) :=
  [queryBlock r (s.queryOf (places.getD row 0)) t]

/-- L_S (R323). -/
def sidingKeeps (k : Nat) : Nat := min 256 (max 32 (4 * k))

end Sys2Proof.Machine
end

