-- ==== Sys2Proof/Machine/Lanes.lean ====
section
/-! DEFINITION. Passes on a lane row (R48 to R61, R83 to R87, R140 to R154): their issue, the verdict, the wide re-run, the end
of a span, and the lane-row counters (R92 to R99). A lane row is the timetable's row: where LR32 stands in for one, the state
of the row is LR32's (R31, R99). -/

namespace Sys2Proof.Machine

/-! ## Lane stores and platforms -/

/-- `n` words of a lane store from a unit of the image. -/
def laneBytes (m : Memory) (at_ : StnImage) (u n : Nat) : List Byte := (List.range n).flatMap (fun w => m.read (8 * at_.unit (u + w)) 8)

/-- Write bytes at a byte address of a lane store: whole words written lose their poison mark. -/
def Lane.put (l : Lane) (a : Nat) (bs : List Byte) : Lane :=
  { l with store := l.store.write a bs, poison := l.poison.filter (fun w => !(a ≤ 8 * w && 8 * w + 8 ≤ a + bs.length)) }

/-- A newer write of words of a station memory drops their write-backs (R543). -/
def State.dropBacks (s : State) (st unit w n : Nat) : State :=
  if s.ecc.writeBacks = [] then s
  else s.setEcc { s.ecc with writeBacks := s.ecc.writeBacks.filter (fun x =>
    !(x.1 = islandOfStation st && 2 ^ 24 * unit + w ≤ x.2.1 && x.2.1 < 2 ^ 24 * unit + w + n)) }

/-- Write words of a lane store from a unit of the image. -/
def State.laneStore (s : State) (st n : Nat) (at_ : StnImage) (u : Nat) (bs : List Byte) : State :=
  let s1 := (List.range (bs.length / 8)).foldl (fun (s : State) i => s.dropBacks st n (at_.unit (u + i)) 1) s
  s1.setLane st n ((chunksOf 8 bs.length bs).zipIdx.foldl (fun (l : Lane) w => l.put (8 * at_.unit (u + w.2)) w.1) (s1.lane st n))

/-- Write bytes of a platform. -/
def State.platStore (s : State) (st a : Nat) (bs : List Byte) : State :=
  let s1 := s.dropBacks st 33 (a / 8) (bs.length / 8)
  s1.setStn st { s1.stn st with
    platform := (s1.stn st).platform.write a bs
    platPoison := (s1.stn st).platPoison.filter (fun w => !(a ≤ 8 * w && 8 * w + 8 ≤ a + bs.length)) }

/-- Bytes of a platform. -/
def State.platRead (s : State) (st a n : Nat) : List Byte := (s.stn st).platform.read a n

/-- Physical word ranges of some units of the image. -/
def physWords (at_ : StnImage) (ws : List (Nat × Nat)) : List (Nat × Nat) :=
  ws.flatMap (fun w => (List.range w.2).map (fun i => (at_.unit (w.1 + i), 1)))

/-! ## Counters (R92 to R96) -/

/-- Add to counter `i` of a lane row. -/
def State.lrAdd (s : State) (st n i k : Nat) : State := s.bump F.stnLrCtrCount (lrIdx st n i) k

/-- Add to counter `i` of JOB.CLIP_CTR. -/
def State.clipAdd (s : State) (j i k : Nat) : State := s.bump F.jobClipCtrCount (6 * j + i) k

/-- Count what a pass's rows clipped, saturated and produced (R68, R73, R85). -/
def State.countRows (s : State) (st n j : Nat) (rs : List RowAcc) : State :=
  let clips := (rs.map (·.clips)).sum
  let sats := (rs.map (·.sats)).sum
  (((s.lrAdd st n 12 clips).lrAdd st n 13 sats).lrAdd st n 14 (rs.map (·.nans)).sum).clipAdd j 0 (clips + sats)

/-! ## The lane row's job -/

/-- The image of the run in progress of the job a lane row carries: job, run and image place. -/
def State.laneRun (s : State) (st n : Nat) : Option (Nat × Run) :=
  match (s.lane st n).job with
  | none => none
  | some j =>
    match (s.job j).run with
    | some r => if r.started.contains st then some (j, r) else none
    | none => none

/-- The lane row may issue for its job: the station is up, the row is not held, no order takes the job out, the run goes on. -/
def State.mayIssue (s : State) (st n : Nat) (j : Nat) (r : Run) : Bool :=
  n < 32 && s.stnUp st && !(s.lane st n).held && r.abandoned.isNone &&
    !((s.stn st).order.isSome && !((s.lane st n).swapped && (s.stn st).incoming = some j))

/-- The lane row's pass list, its loops and its next descriptor, stepped to its ceiling (R172). -/
def passAt (im : Image) (st n i : Nat) (iters : List Nat) : List Byte :=
  let body := im.stnRec st 3 n
  let d := descAt 64 body i
  if pdFmt d = 1 then
    let k := (pdCeil d : Int) + steppedBy LoopE.cstep (loopsOf true body) i iters
    d.take 28 ++ leBytes 1 (tbCeil (im.group 6) k.toNat) ++ d.drop 29
  else d

/-- Change one pass of a lane row. -/
def State.setPass (s : State) (st n i : Nat) (p : PassRun) : State :=
  s.setLane st n { s.lane st n with passes := (s.lane st n).passes.set i p }

/-- The words a pass reads in the lane store, in image units (R81, R64, R62, R130). -/
def passReads (d : List Byte) : List (Nat × Nat) :=
  operandWords d ++ weightWords d ++ (if pdAccIn d = 1 then recordWords d (pdLoad d) else []) ++
    (if pdAccOut d ≠ 0 then [(pdRescale d, 16)] else [])

/-- The first copy of job `j` on the lane row that still writes some words of the image. -/
def State.copyInto (s : State) (st n j : Nat) (ws : List (Nat × Nat)) : Option CopyRun :=
  (s.lane st n).copies.find? (fun c =>
    c.job = j && cdDst c.desc = 0 && ws.any (fun w => meet (8 * w.1, 8 * w.2) (c.dst, cdDstLen c.desc)))

/-- The copy that a pass's weight tiles wait for, and the one that its rescale entries wait for (R83, R108, R132). -/
def State.tileCopy (s : State) (st n j : Nat) (d : List Byte) : Option CopyRun := s.copyInto st n j (weightWords d)
def State.tableCopy (s : State) (st n j : Nat) (d : List Byte) : Option CopyRun :=
  if pdAccOut d ≠ 0 then s.copyInto st n j [(pdRescale d, 16)] else none

/-- The copy that the first tile of a pass waits for (R111). -/
def State.firstTileCopy (s : State) (st n j : Nat) (d : List Byte) : Option CopyRun :=
  s.copyInto st n j [(pdWtBase d, tileUnits (pdMode d))]

/-- A copy of the lane row still writes words that a pass waits for. -/
def State.awaitsCopy (s : State) (st n j : Nat) (d : List Byte) : Bool :=
  (s.tileCopy st n j d).isSome || (s.tableCopy st n j d).isSome

/-! ## The work of one pass -/

/-- The number of a pass's row 0 within its descriptor, and whether its accumulator is wide. -/
def PassRun.first (p : PassRun) : Nat := (p.wide.map (·.1)).getD 0
def PassRun.isWide (p : PassRun) : Bool := p.wide.isSome || pdWide p.desc

/-- The rows a pass streams, the slots of one of its sub-tiles, and the cycles of its turnover and its slots (R61, R80). -/
def PassRun.rowsOf (p : PassRun) : Nat := (p.wide.map (·.2)).getD (pdM p.desc)
def PassRun.subSlots (p : PassRun) : Nat := Sys2Proof.Machine.subSlots p.desc p.isWide p.rowsOf
def PassRun.total (p : PassRun) : Nat := slotsOf p.desc p.isWide p.rowsOf + turnover p.rowsOf

/-- The weight front and the rows that a pass leaves: an ordinary pass reads its operands in the lane store, a wide pass of a re-run
in the platform (R81, R145, R147); a siding pass has its tiles in the depot range and its operands in the walkers (R323). -/
def State.passRows (s : State) (st n : Nat) (at_ : StnImage) (p : PassRun) : Front × List RowAcc :=
  let d := p.desc
  let l := (s.lane st n).store
  let front := (s.lane st n).front
  let mode := pdMode d
  let tile := fun t => laneBytes l at_ (pdWtBase d + t * pdWtTile d) (tileUnits mode)
  let rec1 := fun i => recordLanes mode (laneBytes l at_ (pdLoad d + 17 * i) 17)
  match p.block, s.sidingRun p.job with
  | some b, some (r, places) =>
    passRun d false (pdM d) front (s.sidingTile r b) (s.sidingBlk r places) (fun _ => [])
  | _, _ =>
  match p.wide with
  | none =>
    let blk := fun t r =>
      let u := pdOpBase d + t * pdOpTile d + r * pdOpRow d
      if pdWide d then [laneBytes l at_ u 8, laneBytes l at_ (u + 8) 8] else [laneBytes l at_ u (blockUnits mode)]
    let start := fun r =>
      if pdAccIn d ≠ 1 then []
      else if pdWide d then recordPair (laneBytes l at_ (pdLoad d + 17 * r) 17) (laneBytes l at_ (pdLoad d + 17 * (r + 32)) 17)
      else rec1 r
    passRun d (pdWide d) (pdM d) front tile blk start
  | some (first, m) =>
    let src := fun t r => s.platRead st (64 * (at_.platform + pdRerunSrc d + t * pdM d + first + r)) 64
    let pair := fun t r => alignA24 (bf16Row (src t r))
    let blk := fun t r => chunksOf 64 128 (pair t r).1
    let start := fun r => if pdAccIn d ≠ 1 then [] else widened (rec1 (first + r))
    let q := passRun d true m front tile blk start
    (q.1, q.2.zipIdx.map (fun x => { x.1 with nans := x.1.nans + ((List.range (pdT d)).map (fun t => (pair t x.2).2)).sum }))

/-- The lane row keeps what a pass leaves in its column registers and its accumulator file (R59, R100). -/
def State.keepFront (s : State) (st n : Nat) (p : PassRun) (r : Front × List RowAcc) : State :=
  s.setLane st n { s.lane st n with front := r.1, acc := accFile (pdMode p.desc) p.isWide r.2 }

/-- A pass reads its words: whether one is uncorrectable, and the state after the reports (R544). -/
def State.passReadsOk (s : State) (st n : Nat) (at_ : StnImage) (p : PassRun) : Bool × State :=
  let d := p.desc
  match p.block, s.sidingRun p.job with
  | some b, some (r, _) => ((r.blockRanges b).all (fun x => s.rangeStatus x.1 x.2 = 0), s)
  | _, _ =>
  match p.wide with
  | none =>
    let r := s.stationRead st n (physWords at_ (passReads d))
    (!r.1, r.2)
  | some (first, m) =>
    let lane := physWords at_ (weightWords d ++ (if pdAccIn d = 1 then [(pdLoad d + 17 * first, 17 * m)] else []) ++
      (if pdAccOut d ≠ 0 then [(pdRescale d, 16)] else []))
    let r := s.stationRead st n lane
    let q := r.2.stationRead st 33 ((List.range (pdT d)).map (fun t => (8 * (at_.platform + pdRerunSrc d + t * pdM d + first), 8 * m)))
    (!r.1 && !q.1, q.2)

/-- Store the records of a pass with ACC_OUT = 0 (R62, R69, R147); the saturations of R147 count in SAT. -/
def State.storeRecords (s : State) (st n : Nat) (at_ : StnImage) (p : PassRun) (rs : List RowAcc) : State :=
  let base := pdStore p.desc
  rs.zipIdx.foldl (fun (s : State) x =>
    let r := p.first + x.2
    if p.wide.isSome then
      let w := rerunRecord x.1
      ((s.laneStore st n at_ (base + 17 * r) w.1).lrAdd st n 13 w.2).clipAdd p.job 0 w.2
    else if pdWide p.desc then
      let w := wideRecords x.1
      (s.laneStore st n at_ (base + 17 * r) w.1).laneStore st n at_ (base + 17 * (r + 32)) w.2
    else s.laneStore st n at_ (base + 17 * r) (narrowRecord (pdMode p.desc) x.1)) s

/-- Write the converted rows of a pass with ACC_OUT = 1 (R86, R133 to R136). -/
def State.storeOutputs (s : State) (st n : Nat) (at_ : StnImage) (p : PassRun) (rs : List RowAcc) : State :=
  let d := p.desc
  let tab := laneBytes (s.lane st n).store at_ (pdRescale d) 16
  rs.zipIdx.foldl (fun (s : State) x =>
    let b := rowBytes d p.isWide tab (ceilEff (pdCeil d) p.ceilAdj) x.1.acc
    (s.laneStore st n at_ (pdOut d + (p.first + x.2) * pdOutRow d) b.1).lrAdd st n 14 b.2) s

/-- The rescale table of a pass: in the lane store, or of a siding pass its column block's (R130, R321). -/
def State.passTable (s : State) (st n : Nat) (at_ : StnImage) (p : PassRun) : List Byte :=
  match p.block, s.sidingRun p.job with
  | some b, some (r, _) => s.depotRead (r.scaleAt (32 * b)) 128
  | _, _ => laneBytes (s.lane st n).store at_ (pdRescale p.desc) 16

/-- The rows of a pass with ACC_OUT = 2 on their way to the lane tail, and the NaNs of their conversion (R87). -/
def State.tailRows (s : State) (st n : Nat) (at_ : StnImage) (p : PassRun) (rs : List RowAcc) : List TailRow × Nat :=
  let tab := s.passTable st n at_ p
  let xs := rs.map (fun r => rowTail p.desc p.isWide tab r.acc)
  (xs.zipIdx.map (fun x => { lane := n, job := p.job, desc := p.desc, row := p.first + x.2, vals := x.1.1, block := p.block }), (xs.map (·.2)).sum)

/-- Rows held by a lane row's passes enter the lane tail's queue of 64 as far as there is room (R87). -/
def State.feedTail (s : State) (st n : Nat) : State :=
  let l := s.lane st n
  let room := 64 - (s.stn st).tail.length
  let all := l.passes.flatMap (·.rows)
  let now := all.take room
  let left := l.passes.foldl (fun (acc : List PassRun × Nat) p =>
    (acc.1 ++ [{ p with rows := p.rows.drop acc.2 }], acc.2 - p.rows.length)) ([], room)
  (s.setLane st n { l with passes := left.1 }).setStn st
    { (s.setLane st n { l with passes := left.1 }).stn st with tail := (s.stn st).tail ++ now }

/-- Release what pass `i` of a lane row produced (R86, R142). -/
def State.release (s : State) (st n i : Nat) (at_ : StnImage) (p : PassRun) (rs : List RowAcc) : State :=
  let q := { p with verdict := true }
  if pdAccOut p.desc = 0 then (s.storeRecords st n at_ p rs).setPass st n i q
  else if pdAccOut p.desc = 1 then (s.storeOutputs st n at_ p rs).setPass st n i q
  else
    let t := s.tailRows st n at_ p rs
    ((s.lrAdd st n 14 t.2).setPass st n i { q with rows := t.1 }).feedTail st n

/-! ## Cycles (R92 to R95, R293) -/

/-- Of the first `i` cycles of a pass with turnover `a`, in sub-tiles of `w` slots of which `c` take an operand: those of the turnover,
the slots that take an operand, and the bubbles. -/
def cyclesTo (a w c i : Nat) : Nat × Nat × Nat :=
  let k := i - a
  let busy := k / w * c + min c (k % w)
  (min i a, busy, k - busy)

/-- The lane row has counted `k` cycles that the station's counter has still to reach. -/
def State.ahead (s : State) (st n k : Nat) : State := s.setLane st n { s.lane st n with lag := (s.lane st n).lag + k }

/-- Count the next `k` cycles of a pass and charge them to its job: turnover as accumulator spill, its slots as BUSY or front wait,
those of a wide re-run as STALL6 (R92, R93, R95, R293). -/
def State.countPass (s : State) (st n : Nat) (p : PassRun) (k : Nat) : State :=
  let upTo := cyclesTo (turnover p.rowsOf) p.subSlots (rowsC p.isWide p.rowsOf)
  let x := upTo p.used
  let y := upTo (p.used + k)
  let s1 := (s.lrAdd st n 4 (y.1 - x.1)).charge st p.job k
  if p.wide.isSome then
    let slots := (y.2.1 + y.2.2) - (x.2.1 + x.2.2)
    (s1.lrAdd st n 6 slots).clipAdd p.job 5 slots
  else (s1.lrAdd st n 10 (y.2.1 - x.2.1)).lrAdd st n 1 (y.2.2 - x.2.2)

/-- Lane 0 has accepted a pass's last operand: the cycles of it that time has not brought yet are counted. -/
def State.chargePass (s : State) (st n : Nat) (p : PassRun) : State :=
  (s.countPass st n p (p.total - p.used)).ahead st n (p.total - p.used)

/-- Cycles of front wait of a job that an event implies (R110, R111, R148). -/
def State.frontWait (s : State) (st n j k : Nat) : State := ((s.lrAdd st n 1 k).charge st j k).ahead st n k

/-- The stage a copy is held in (R94): 2 where a page it reads is not in DRAM, 9 where a request of it waits for a die bridge, 3
where one waits at a junction. No write of the lane store is narrower than 8 B, so none waits on a read-modify-write. -/
def State.copyStage (s : State) (st n : Nat) (c : CopyRun) : Option Nat :=
  let mine := fun (q : Option ReqId) => (match q with
    | some x => x.station = st && x.lane = n && x.seq = c.seq
    | none => false)
  if c.depot && c.open_.any (fun q => !s.ringHas st (pageOf (c.src + q.1)) && !s.pageReady (pageOf (c.src + q.1))) then some 2
  else if s.bridges.any (fun b => b.2.queue.any (fun x => x.entries.any (fun e => mine e.req))) then some 9
  else if s.junctions.any (fun x => x.2.ready.any (fun w => w.any (fun e => mine e.req))) then some 3
  else none

/-- The counter of a wait on a copy: the stage that holds the copy, else the cause (R94). -/
def State.waitOn (s : State) (st n : Nat) (c : CopyRun) (cause : Nat) : Nat := (s.copyStage st n c).getD cause

/-! ## Issue -/

/-- A copy of a group the pass waits for has not completed (R83). -/
def State.groupsOpen (s : State) (st n j : Nat) (d : List Byte) : Bool :=
  (s.lane st n).copies.any (fun c => c.job = j && bitOf (pdGroups d) (cdGroup c.desc))

/-- The index of the oldest pass whose verdict has not been taken. -/
def Lane.undecided (l : Lane) : Option Nat := (List.range l.passes.length).find? (fun i => !((l.passes[i]?.map (·.verdict)).getD true))

/-- The descriptor of the lane row's next pass. -/
def State.nextPass (s : State) (st n j : Nat) (r : Run) : List Byte :=
  let c := s.ctx st n j
  match s.sidingRun j with
  | some (x, places) => sidingDesc x (max 1 places.length)
  | none => passAt r.image st n c.passIdx (itersFor (loopsOf true (r.image.stnRec st 3 n)) c.passIters)

/-- The lane row's context once its next pass has issued. -/
def State.ctxAfter (s : State) (st n j : Nat) (r : Run) : LaneCtx :=
  let c := s.ctx st n j
  let body := r.image.stnRec st 3 n
  let ls := loopsOf true body
  match s.sidingRun j, nextDesc ls (listDescs body) c.passIdx (itersFor ls c.passIters) with
  | some _, _ => { c with blocks := c.blocks.drop 1, passDone := c.blocks.length ≤ 1 }
  | none, some (i, it) => { c with passIdx := i, passIters := it }
  | none, none => { c with passDone := true }

/-- A siding pass asks for the pages of its column block (R242), and waits for them. -/
def State.askBlock (s : State) (j : Nat) (b : Option Nat) : State :=
  match b, s.sidingRun j with
  | some b, some (x, _) => s.usePages (rangePages (x.blockRanges b))
  | _, _ => s
def State.awaitsDepot (s : State) (j : Nat) (b : Option Nat) : Bool :=
  match b, s.sidingRun j with
  | some b, some (x, _) => !(rangePages (x.blockRanges b)).all s.pageReady
  | _, _ => false

/-- The first sub-tile of the lane row's next pass can be fed now: the pass list goes on and the tile is complete. -/
def State.mayFeed (s : State) (st n : Nat) : Bool :=
  match s.laneRun st n with
  | some (j, r) => !(s.ctx st n j).passDone && (s.firstTileCopy st n j (s.nextPass st n j r)).isNone
  | none => false

/-- The lane row's next pass is fed during the last sub-tile of the one before it, where its tile is complete (R108, R110). -/
def State.feedNext (s : State) (st n : Nat) : State := s.setLane st n { s.lane st n with fed := s.mayFeed st n }

/-- The front wait of a pass as it issues: after a sub-tile of fewer slots than its own first feed, the difference (R110); where
no sub-tile is in progress and its first was not fed before, the whole feed (R111). -/
def Lane.feedWait (l : Lane) (d : List Byte) : Nat :=
  let f := feedOf (pdMode d)
  if l.undecided.isSome ∨ l.fed then ((l.passes.getLast?.map (fun p => f - p.subSlots)).getD 0) else f

/-- A wide pass of a re-run has accepted its operands: its rows leave under R147, with no verdict (R150). -/
def State.widePassDone (s : State) (st n i : Nat) : State :=
  match (s.lane st n).passes[i]?, s.laneRun st n with
  | some p, some (j, r) =>
    if p.verdict ∨ p.wide.isNone ∨ p.job ≠ j then s
    else
      let at_ := r.image.at_ st
      let ok := s.passReadsOk st n at_ p
      let s1 := ok.2.chargePass st n p
      if !ok.1 then (s1.setPass st n i { p with verdict := true }).abandonRun p.job 0x2001
      else
        let rs := s.passRows st n at_ p
        (((s1.keepFront st n p rs).countRows st n p.job rs.2).release st n i at_ p rs.2).feedNext st n
  | _, _ => s

/-- The wide passes of a lane row that have accepted their operands are done. -/
def State.widesDone (s : State) (st n : Nat) : State :=
  (List.range (s.lane st n).passes.length).foldl (fun (s : State) i => s.widePassDone st n i) s

/-- Issue the lane row's next pass (R48, R51, R83): every earlier pass has accepted its operands but one, no re-run waits, its
copies are complete, and so is its first tile (R110, R111). -/
def State.issuePass (s : State) (st n : Nat) : State :=
  match s.laneRun st n with
  | none => s
  | some (j, r) =>
    let c := s.ctx st n j
    let iters := itersFor (loopsOf true (r.image.stnRec st 3 n)) c.passIters
    let d := s.nextPass st n j r
    let s0 := s.widesDone st n
    let open_ := ((s0.lane st n).passes.filter (fun p => !p.verdict)).length
    if !s.mayIssue st n j r ∨ c.passDone ∨ c.wides ≠ [] ∨ open_ > 1 ∨ s.groupsOpen st n j d ∨ (s.firstTileCopy st n j d).isSome then s
    else
      let p : PassRun := { job := j, desc := d, idx := c.passIdx, iters := iters, block := c.blocks.head?
                           ceilAdj := signed 4 (s.fget F.jobRerunCfgCeilAdj j) }
      let s1 := (s0.frontWait st n j ((s0.lane st n).feedWait d)).askBlock j p.block
      let l := s1.lane st n
      (s1.setLane st n { l with passes := l.passes ++ [p], fed := false }).setCtx st n j (s.ctxAfter st n j r)

/-! ## The verdict (R85, R140 to R143) -/

/-- Rows of a run whose pass records a status (R154): pass row r stands for the rows r, r + 64, … of the run (DESIGN CHOICE, log
entry 27). -/
def State.recordStatus (s : State) (j m status : Nat) : State :=
  match (s.job j).run with
  | some r => s.setJob j { s.job j with run := some { r with rowStatus := r.rowStatus ++ (List.range m).map (fun i => (i, status)) } }
  | none => s

/-- A pass issued after a pass that is to run again has not reached lane 0: it is cancelled and issues again later (R143). -/
def State.cancelLater (s : State) (st n i j : Nat) : State :=
  match (s.lane st n).passes[i + 1]? with
  | none => s
  | some q =>
    let l := s.lane st n
    (s.setLane st n { l with passes := l.passes.take (i + 1) }).setCtx st n j
      { s.ctx st n j with passIdx := q.idx, passIters := q.iters, passDone := false }

/-- The pass's outputs are discarded and its wide passes are to run (R143, R144). -/
def State.callRerun (s : State) (st n i j : Nat) (p : PassRun) : State :=
  let s1 := s.cancelLater st n i j
  let l := s1.lane st n
  let c := s1.ctx st n j
  let s2 := (s1.setLane st n { l with passes := l.passes.take i }).setCtx st n j
    { c with reruns := c.reruns + 1, wides := (wideParts (pdM p.desc)).map (fun w => (p.desc, w.1, w.2)) }
  s2.clipAdd j 2 1

/-- The event of a refused re-run (R154). -/
def State.rerunRefused (s : State) (st n j : Nat) (p : PassRun) (total : Nat) : State :=
  s.event (islandOfStation st) 0x0201 0x4003 (j + st * 2 ^ 8 + n * 2 ^ 14 + pdPassId p.desc * 2 ^ 32) total

/-- The verdict on a pass whose rows are known (R141). -/
def State.judge (s : State) (st n i j : Nat) (at_ : StnImage) (p : PassRun) (rs : List RowAcc) : State :=
  let total := (rs.map (fun r => r.clips + r.early)).sum
  let d := p.desc
  let c := s.ctx st n j
  if total ≤ pdBudget d then s.release st n i at_ p rs
  else
    let s1 := (s.clipAdd j 1 1).pulse st 48
    if !pdRerun d then (s1.clipAdd j 3 1).release st n i at_ p rs
    else if c.reruns < c.limit then s1.callRerun st n i j p
    else (((s1.clipAdd j 4 1).release st n i at_ p rs).recordStatus j (pdM d) 0x4003).rerunRefused st n j p total

/-- The pass that a switch order drains has ended: a switch whose last sub-tile stalled is a long drain (R299). -/
def State.drained (s : State) (st n : Nat) : State :=
  if !(s.lane st n).stalled then s
  else
    let s1 := s.setLane st n { s.lane st n with stalled := false }
    if (s.stn st).order.isSome then s1.setStn st { s1.stn st with longDrain := true } else s1

/-- Cycle V of the lane row's oldest undecided pass (R140). -/
def State.takeVerdict (s : State) (st n : Nat) : State :=
  match (s.lane st n).undecided, s.laneRun st n with
  | some i, some (j, r) =>
    match (s.lane st n).passes[i]? with
    | none => s
    | some p =>
      let at_ := r.image.at_ st
      if p.wide.isSome ∨ p.job ≠ j ∨ !s.stnUp st ∨ s.awaitsCopy st n j p.desc ∨ s.awaitsDepot j p.block then s
      else
        let ok := s.passReadsOk st n at_ p
        let s1 := (ok.2.chargePass st n p).drained st n
        if !ok.1 then (s1.setPass st n i { p with verdict := true }).abandonRun j 0x2001
        else
          let rs := s.passRows st n at_ p
          (((s1.keepFront st n p rs).countRows st n j rs.2).judge st n i j at_ p rs.2).feedNext st n
  | _, _ => s

/-! ## Wide passes (R144 to R148) -/

/-- The lead of a re-run that counts as front wait: V + max(f, 11) − (L + a) (R148, R149), not below 0. -/
def rerunLead (d : List Byte) : Nat :=
  (3 + lastSlot d false (pdM d) + max (feedOf (pdMode d)) 11) - (slotsOf d false (pdM d) + turnover (pdM d))

/-- Issue the next wide pass of a re-run. -/
def State.issueWide (s : State) (st n : Nat) : State :=
  match s.laneRun st n with
  | none => s
  | some (j, r) =>
    match (s.ctx st n j).wides with
    | [] => s
    | (d, first, m) :: rest =>
      let s0 := s.widesDone st n
      if !s.mayIssue st n j r ∨ (s0.lane st n).undecided.isSome then s
      else
        let p : PassRun := { job := j, desc := d, idx := 0, iters := [], wide := some (first, m)
                             ceilAdj := signed 4 (s.fget F.jobRerunCfgCeilAdj j) }
        let s1 := s0.frontWait st n j (if first = 0 then rerunLead d else 0)
        let l := s1.lane st n
        (s1.setLane st n { l with passes := l.passes ++ [p] }).setCtx st n j { s1.ctx st n j with wides := rest }

/-! ## The end of a span (R51, R253) -/

/-- The pass that adds the token of its descriptor: every pass but a re-run's wide pass that another follows (log entry 27). -/
def PassRun.lastPart (p : PassRun) : Bool :=
  match p.wide with
  | none => true
  | some (first, m) => first + m = pdM p.desc

/-- The lane row's oldest pass ends its span: PASSES and a pass-end token. A pass and its re-run's wide passes count as one pass
completed (DESIGN CHOICE, log entry 27). -/
def State.spanEnd (s : State) (st n : Nat) : State :=
  let s0 := if ((s.lane st n).passes.head?.map (fun p => p.wide.isSome && !p.verdict)).getD false then s.widePassDone st n 0 else s
  match (s0.lane st n).passes with
  | [] => s
  | p :: rest =>
    if !p.verdict ∨ p.rows ≠ [] ∨ !s.stnUp st then s
    else
      let s1 := s0.setLane st n { s0.lane st n with passes := rest, acc := if rest = [] then [] else (s0.lane st n).acc }
      let live : Bool := ((s1.job p.job).run.map (fun r => r.started.contains st)).getD false
      let c := s1.ctx st n p.job
      let s2 := if live ∧ p.lastPart then s1.setCtx st n p.job { c with tokens := c.tokens + 1 } else s1
      if p.lastPart then s2.lrAdd st n 15 1 else s2

/-! ## Time on a lane row (R92 to R95) -/

/-- The counter of a cycle in which a lane row runs no slot of a pass, in the order of R93; none for a cycle that an event still to
come counts: the feed before a pass issues (R111, R148), a pass's end, a retirement (R558). -/
def State.laneCause (s : State) (st n : Nat) : Option Nat :=
  let x := s.stn st
  let l := s.lane st n
  if l.held then none
  else if x.order.isSome ∧ l.job.isSome ∧ !(l.swapped && x.incoming = l.job) then some 7
  else
    match s.laneRun st n with
    | none => some 11
    | some (j, r) =>
      let c := s.ctx st n j
      match l.undecided.bind (fun i => l.passes[i]?) with
      | some p =>
        if s.awaitsDepot j p.block then some 2 else
        match s.tableCopy st n j p.desc, s.tileCopy st n j p.desc with
        | none, some k => some (s.waitOn st n k 1)
        | some _, _ => some 5
        | none, none => none
      | none =>
        if l.passes.any (fun p => p.rows != []) then some 4
        else if r.abandoned.isSome ∨ (c.passDone ∧ c.wides = []) then some 11
        else if c.wides ≠ [] then none
        else
          let d := s.nextPass st n j r
          match s.firstTileCopy st n j d, l.copies.find? (fun k => k.job = j && bitOf (pdGroups d) (cdGroup k.desc)) with
          | some k, _ => some (s.waitOn st n k 1)
          | none, some k => some (s.waitOn st n k 0)
          | none, none => none

/-- `k` cycles in which a lane row runs no slot: all go to one cause, and to the job it carries (R92, R293). -/
def State.tickWait (s : State) (st n k : Nat) : State :=
  if k = 0 then s
  else
    match s.laneCause st n with
    | none => s.setLane st n { s.lane st n with lag := (s.lane st n).lag - k }
    | some i =>
      match (s.lane st n).job with
      | some j => (s.lrAdd st n i k).charge st j k
      | none => s.lrAdd st n i k

/-- A pass's `k`-th cycle accepts an operand into lane 0. -/
def PassRun.accepts (p : PassRun) (k : Nat) : Bool :=
  let busy := fun i => (cyclesTo (turnover p.rowsOf) p.subSlots (rowsC p.isWide p.rowsOf) i).2.1
  busy (k - 1) < busy k

/-- The signals of a lane row whose last cycle was the pass's `k`-th: it accepts an operand, and a wide re-run pass runs (R628). -/
def State.lanePulse (s : State) (st n : Nat) (p : PassRun) (k : Nat) : State :=
  let s1 := if p.accepts k then s.pulse st n else s
  if p.wide.isSome then s1.pulse st 49 else s1

/-- `k` cycles pass on a lane row: first those its counters have counted already, then the slots of the pass in progress, then
waits. LR32 counts IDLE while it is unused and is frozen while it stands in (R99). -/
def State.tickLane (st k : Nat) (s : State) (n : Nat) : State :=
  if n = 32 then (if s.fbit F.stnLrSpareUsed st then s else s.lrAdd st 32 11 k)
  else
    let l := s.lane st n
    let due := ((k : Int) - l.lag).toNat
    let s0 := s.setLane st n { l with lag := max 0 (l.lag - k) }
    match l.undecided.bind (fun i => (l.passes[i]?).map (fun p => (i, p))) with
    | some (i, p) =>
      let run := min due (p.total - p.used)
      let s1 := (s0.countPass st n p run).setPass st n i { p with used := p.used + run }
      let s2 := if run < due ∧ (s.stn st).order.isSome ∧ (s.awaitsCopy st n p.job p.desc ∨ s.awaitsDepot p.job p.block) then
        s1.setLane st n { s1.lane st n with stalled := true } else s1
      (if 0 < run ∧ run = due then s2.lanePulse st n p (p.used + run) else s2).tickWait st n (due - run)
    | none => s0.tickWait st n due

/-- A lane row of the station holds all its 48 copy slots. -/
def State.slotsFull (s : State) (st : Nat) : Bool := (s.stn st).lanes.any (fun l => l.2.slots ≥ 48)

/-- `k` station cycles pass on all lane rows of a station (R92), and on its copy engine (STN.COPY_CTR 2). -/
def State.tickStation (s : State) (st k : Nat) : State :=
  (List.range 33).foldl (State.tickLane st k) (if s.slotsFull st then s.bump F.stnCopyCtrCount (5 * st + 2) k else s)

/-- An event implies that `k` station cycles have passed on lane rows 0 to 31: they are counted, ahead of the station's counter. -/
def State.passTime (s : State) (st k : Nat) : State :=
  (List.range 32).foldl (fun (s : State) n => (State.tickLane st k s n).ahead st n k) s

/-! ## The rows -/

/-- PASS_ISSUE (R48). -/
def execPassIssue (s : StationId) (n : LaneRowId) (m : State) : Host.Outcome State Fault Refusal := .next (m.issuePass s.val n.val)

/-- PASS_VERDICT (R141). -/
def execPassVerdict (s : StationId) (n : LaneRowId) (m : State) : Host.Outcome State Fault Refusal := .next (m.takeVerdict s.val n.val)

/-- WIDE_PASS_ISSUE (R148). -/
def execWidePassIssue (s : StationId) (n : LaneRowId) (m : State) : Host.Outcome State Fault Refusal := .next (m.issueWide s.val n.val)

/-- PASS_SPAN_END (R51). -/
def execPassSpanEnd (s : StationId) (n : LaneRowId) (m : State) : Host.Outcome State Fault Refusal := .next (m.spanEnd s.val n.val)

/-- The retirement of a lane row that is first in line (R558). -/
def State.retireOf (s : State) (st n : Nat) : Option Retire := s.ecc.retiring.find? (fun r => r.station = st && r.lane = n)

/-- LANE_ROW_RETIRE_START (R558): with no pass in flight the row and LR32 are held. -/
def execLaneRowRetireStart (s : StationId) (n : LaneRowId) (m : State) : Host.Outcome State Fault Refusal :=
  .next (match m.retireOf s.val n.val with
    | none => m
    | some r =>
      if r.begun ∨ (m.lane s.val n.val).passes ≠ [] then m
      else
        (m.setEcc { m.ecc with retiring := m.ecc.retiring.map (fun x => if x = r then { x with begun := true } else x) }).setLane
          s.val n.val { m.lane s.val n.val with held := true })

/-- A lane store as the copy to LR32 leaves it: a bank with a fault or an uncorrectable word is all poison marks (R558). -/
def Lane.moved (l : Lane) (banks : List Nat) : Lane :=
  let bad := (List.range 8).filter (fun b => banks.contains b || l.poison.any (fun w => w / 4096 = b))
  { l with held := false, poison := bad.flatMap (fun b => (List.range 4096).map (4096 * b + ·)) }

/-- The held cycles of a retirement count as stall cause 8, and as the job's (R293, R558). -/
def State.heldOver (s : State) (st n : Nat) : State :=
  let s1 := (s.lrAdd st n 8 512).ahead st n 512
  match (s.lane st n).job with
  | some j => s1.charge st j 512
  | none => s1

/-- LANE_ROW_RETIRE_DONE (R558): 512 held cycles count as stall cause 8. -/
def execLaneRowRetireDone (s : StationId) (n : LaneRowId) (m : State) : Host.Outcome State Fault Refusal :=
  .next (match m.retireOf s.val n.val with
    | none => m
    | some r =>
      if !r.begun then m
      else
        let m1 := m.setLane s.val n.val ((m.lane s.val n.val).moved r.banks)
        let m2 := ((m1.fset F.stnLrSpareReplaced s.val n.val).fset F.stnLrSpareUsed s.val 1).heldOver s.val n.val
        let m3 := m2.setEcc { m2.ecc with retiring := m2.ecc.retiring.filter (· != r) }
        let m4 := m3.cfsWrite (.fuse (fuseWord2 4 (islandOfStation s.val) 0 0 n.val) (fuseWord3 r.cause))
        match r.place with
        | some p => if m4.open p then m4.finish p 0 0 else m4
        | none => m4)

end Sys2Proof.Machine
end

