-- ==== Sys2Proof/Machine/LaneTail.lean ====
section
/-! DEFINITION. The lane-tail unit (R87 to R91): one converted row at a time, from the station's lane rows in turn. -/

namespace Sys2Proof.Machine

/-! ## Arithmetic in FP32 -/

def addF (a b : Nat) : Nat := fpRound fp32 false (fpAdd (fpOf fp32 a) (fpOf fp32 b))
def subF (a b : Nat) : Nat := fpRound fp32 false (fpAdd (fpOf fp32 a) (fpNeg (fpOf fp32 b)))
def mulF (a b : Nat) : Nat := fpRound fp32 false (fpMul (fpOf fp32 a) (fpOf fp32 b))
/-- `n − 2x`, rounded once. -/
def distL2 (n x : Nat) : Nat := fpRound fp32 false (fpAdd (fpOf fp32 n) (fpNeg (fpMul (.fin false 1 1) (fpOf fp32 x))))
/-- An FP32 result rounded to BF16 (R89), as 2 bytes. -/
def bf16Out (x : Nat) : List Byte := leBytes 2 (fpRound bf16 false (fpOf fp32 x))
/-- The larger of two FP32 values; a NaN never wins. -/
def maxF (a b : Nat) : Nat := if isNan fp32 a ∨ fpLt (fpOf fp32 a) (fpOf fp32 b) then b else a

/-! ## Top-k lists (R90) -/

/-- The entries of a list in use: (value, id), best first. -/
def topkOf (bs : List Byte) : List (Nat × Nat) :=
  ((List.range (bs.length / 8)).map (fun i => (byteField bs (8 * i) 4, byteField bs (8 * i + 4) 4))).filter
    (fun e => !(e.1 = 0x7FC00000 && e.2 = 0xFFFFFFFF))

/-- `a` comes before `b`: better, or equal with the smaller id. -/
def topkBefore (largest : Bool) (a b : Nat × Nat) : Bool :=
  let x := fpOf fp32 a.1
  let y := fpOf fp32 b.1
  let better := if largest then fpLt y x else fpLt x y
  let worse := if largest then fpLt x y else fpLt y x
  better || (!worse && a.2 < b.2)

/-- Put an entry at its place. -/
def topkIns (largest : Bool) (e : Nat × Nat) : List (Nat × Nat) → List (Nat × Nat)
  | [] => [e]
  | x :: xs => if topkBefore largest e x then e :: x :: xs else x :: topkIns largest e xs

/-- A list of k with candidates offered; NaN values never enter. -/
def topkOffer (largest : Bool) (k : Nat) (l : List (Nat × Nat)) (es : List (Nat × Nat)) : List (Nat × Nat) :=
  ((es.filter (fun e => !isNan fp32 e.1)).foldl (fun l e => topkIns largest e l) l).take k

/-- The bytes of a list, its unused entries marked. -/
def topkBytes (k : Nat) (l : List (Nat × Nat)) : List Byte :=
  l.flatMap (fun e => leBytes 4 e.1 ++ leBytes 4 e.2) ++
    (List.replicate (k - l.length) (leBytes 4 0x7FC00000 ++ leBytes 4 0xFFFFFFFF)).flatten

/-! ## REGROUP (R91) -/

/-- Counts, buckets and the overflow list: byte offsets from TAIL_DEST. -/
def bucketAt (cap b : Nat) : Nat := 16384 + 4 * b * 2 ^ cap
def overflowAt (cap : Nat) : Nat := 16384 + 4 * 4096 * 2 ^ cap

/-- Append one pair (G, key); the second part counts overflows. A key of 4,096 or more, which R91 excludes, is taken modulo 4,096, and
an overflow list that TAIL_INIT = 0 carries on may grow past the pairs of one REGROUP (DESIGN CHOICE, log entry 27). -/
def regroupPair (d : Nat) (cap : Nat) (x : Memory × Nat) (pair : Nat × Nat) : Memory × Nat :=
  let key := pair.2 % 4096
  let c := leNat (x.1.read (d + 4 * key) 4)
  if c < 2 ^ cap then
    ((x.1.write (d + bucketAt cap key + 4 * c) (leBytes 4 pair.1)).write (d + 4 * key) (leBytes 4 (c + 1)), x.2)
  else
    let o := d + overflowAt cap
    let n := leNat (x.1.read o 4)
    ((x.1.write (o + 4 + 8 * n) (leBytes 4 pair.1 ++ leBytes 4 pair.2)).write o (leBytes 4 (n + 1)), x.2 + 1)

/-- Every pair of a REGROUP, from a platform; with TAIL_INIT the counts begin at 0. -/
def regroupAll (m : Memory) (dest src : Nat) (d : List Byte) : Memory × Nat :=
  let m1 := if pdTailInit d then (m.write dest (zeros 16384)).write (dest + overflowAt (pdTailK d)) (zeros 4) else m
  let pairs := (List.range (pdArg1 d)).map (fun i => (leNat (m.read (src + 8 * i) 4), leNat (m.read (src + 8 * i + 4) 4)))
  pairs.foldl (regroupPair dest (pdTailK d)) (m1, 0)

/-! ## One row -/

/-- The platform bytes a row's operation reads beyond its list: (unit offset in bytes from the image's platform, bytes). -/
def tailInputs (d : List Byte) (r : Nat) : List (Nat × Nat) :=
  let op := pdTailOp d
  let a0 := 64 * pdArg0 d
  if op = 1 ∨ op = 2 then [(a0 + 64 * r, 64)]
  else if op = 5 ∨ op = 0x11 then [(a0 + 4 * r, 4)]
  else if op = 8 then [(a0 + 4 * r, 4), (64 * pdArg1 d, 64)]
  else if op = 0x13 ∧ r = 0 then [(a0, 8 * pdArg1 d)]
  else []

/-- Candidates of a channel for the top-k operations: value and id (R88). -/
def tailCandidate (d : List Byte) (r norm x : Nat) : Nat × Nat :=
  ((if pdTailOp d = 0x11 then distL2 norm x else x), (pdArg1 d + r) % 2 ^ 32)

/-- The bytes a row writes: offsets from the image's platform; REGROUP stands apart. `rd` reads the image's platform. SCALE multiplies by
the row's factor, rounds to FP32 and then multiplies by the channel's; EXP rounds x less its offset to FP32 before the
exponential (DESIGN CHOICE, log entry 50). -/
def tailWrites (rd : Nat → Nat → List Byte) (t : TailRow) : List (Nat × List Byte) :=
  let d := t.desc
  let r := t.row
  let op := pdTailOp d
  let k := pdTailK d + 1
  let dest := 64 * pdDest d
  let a0 := 64 * pdArg0 d
  let f0 := leNat (rd (a0 + 4 * r) 4)
  let bf := fun (a i : Nat) => bf16ToFp32 (leNat (rd (a + 2 * i) 2))
  let row := fun (f : Nat → Nat → Nat) => [(dest + 64 * r, t.vals.zipIdx.flatMap (fun x => bf16Out (f x.1 x.2)))]
  let lists := fun (largest : Bool) (fresh : Bool) => t.vals.zipIdx.map (fun x =>
    let a := dest + 8 * k * x.2
    let old := if fresh then [] else topkOf (rd a (8 * k))
    (a, topkBytes k (topkOffer largest k old [tailCandidate d r f0 x.1])))
  if op = 1 then row (fun x i => addF x (bf (a0 + 64 * r) i))
  else if op = 2 then row (fun x i => mulF x (bf (a0 + 64 * r) i))
  else if op = 3 then row (fun x _ => siluOf x)
  else if op = 4 then row (fun x _ => geluOf x)
  else if op = 5 then row (fun x _ => expOf (subF x f0))
  else if op = 6 then
    let o := leNat (rd (dest + 8 * r) 4)
    let m0 := if pdTailInit d then t.vals.headD 0 else o
    let m := t.vals.foldl maxF m0
    let sum := softmaxOf m0 (if pdTailInit d then 0 else leNat (rd (dest + 8 * r + 4) 4)) m (pdTailInit d) t.vals
    [(dest + 8 * r, leBytes 4 m ++ leBytes 4 sum)]
  else if op = 7 then
    let old := if pdTailInit d then 0 else leNat (rd (dest + 4 * r) 4)
    [(dest + 4 * r, leBytes 4 (sumsqOf old t.vals))]
  else if op = 8 then row (fun x i => mulF (mulF x f0) (bf (64 * pdArg1 d) i))
  else if op = 0x10 then lists (pdTailLargest d) (pdTailInit d && r = 0)
  else if op = 0x11 then lists false (pdTailInit d && r = 0)
  else if op = 0x12 then lists true (pdTailInit d && r = 0)
  else if op = 0x14 then
    let a := dest + 8 * k * r
    let old := if pdTailInit d then [] else topkOf (rd a (8 * k))
    [(a, topkBytes k (topkOffer (pdTailLargest d) k old (t.vals.zipIdx.map (fun x => (x.1, (x.2 + 32 * pdArg0 d) % 2 ^ 32)))))]
  else []

/-- NaN values a row offers to a list (R90). -/
def tailNans (rd : Nat → Nat → List Byte) (t : TailRow) : Nat :=
  let f0 := leNat (rd (64 * pdArg0 t.desc + 4 * t.row) 4)
  if pdTailOp t.desc = 0x13 ∨ pdTailOp t.desc < 0x10 then 0
  else (t.vals.filter (fun x => isNan fp32 (tailCandidate t.desc t.row f0 x).1)).length

/-- The lane tail performs a row for a job whose image begins at byte `base` of the platform. -/
def State.tailRow (s : State) (st base : Nat) (t : TailRow) : State :=
  let rd := fun a n => s.platRead st (base + a) n
  if pdTailOp t.desc = 0x13 then
    if t.row ≠ 0 then s
    else
      let r := regroupAll (s.stn st).platform (base + 64 * pdDest t.desc) (base + 64 * pdArg0 t.desc) t.desc
      (s.setStn st { s.stn st with platform := r.1 }).bump F.jobAcctCount (8 * t.job + 5) r.2
  else
    ((tailWrites rd t).foldl (fun (s : State) w => s.platStore st (base + w.1) w.2) s).lrAdd st t.lane 14 (tailNans rd t)

/-- A row of a siding pass: its query's list is offered the 32 scores, by position (R323). -/
def State.sidingRow (s : State) (t : TailRow) (b : Nat) : State :=
  match (s.job t.job).run, s.sidingRun t.job with
  | some r, some (x, places) =>
    let k := sidingKeeps (byteField (s.cmd (places.getD t.row 0)).entry 52 2)
    let old := r.lists.getD t.row []
    let new := topkOffer (x.metric = 1) k old (t.vals.zipIdx.map (fun v => (v.1, 32 * b + v.2)))
    let all := r.lists ++ List.replicate (t.row + 1 - r.lists.length) []
    s.setJob t.job { s.job t.job with run := some { r with lists := all.set t.row new } }
  | _, _ => s

/-- The row the lane tail accepts next: of the first lane row after the one served last that has one (R87). -/
def Station.nextTail (x : Station) : Option TailRow :=
  ((List.range 32).map (fun i => (x.tailLane + 1 + i) % 32)).findSome? (fun n => x.tail.find? (fun t => t.lane = n))

/-- The lane rows in turn after one place more rows as the queue has room. -/
def State.feedAll (s : State) (st n : Nat) : State :=
  ((List.range 32).map (fun i => (n + 1 + i) % 32)).foldl (fun (s : State) k =>
    if (s.lane st k).passes.any (fun p => p.rows != []) then s.feedTail st k else s) s

/-- The lane tail accepts a row. -/
def State.laneTail (s : State) (st : Nat) : State :=
  match (s.stn st).nextTail with
  | none => s
  | some t =>
    let s1 := (s.setStn st { s.stn st with tail := (s.stn st).tail.erase t, tailLane := t.lane }).pulse st 44
    let s2 := match (s1.job t.job).run, t.block with
      | none, _ => s1
      | some _, some b => (s1.sidingRow t b).lrAdd st t.lane 14 (t.vals.filter (isNan fp32)).length
      | some r, none =>
        let base := 64 * (r.image.at_ st).platform
        let ok := s1.stationRead st 33 ((tailInputs t.desc t.row).map (fun (a : Nat × Nat) => ((base + a.1) / 8, ceilDiv a.2 8)))
        if ok.1 then ok.2.abandonRun t.job 0x2001 else ok.2.tailRow st base t
    s2.feedAll st t.lane

/-- LANE_TAIL_ROW (R88). -/
def execLaneTailRow (s : StationId) (m : State) : Host.Outcome State Fault Refusal := .next (m.laneTail s.val)

end Sys2Proof.Machine
end

