-- ==== Sys2Proof/Machine/Copies.lean ====
section
/-! DEFINITION. Copies (R251 to R257), content generations and their confirms (R265 to R269), stream prefetchers (R259 to R264)
and weight windows (R271 to R273). -/

namespace Sys2Proof.Machine

/-! ## Where a copy reads and writes (R252) -/

/-- The route a copy names on its station. -/
def copyRoute (im : Image) (st no : Nat) : Option Route := (routesOf (im.stnRec st 2 0xFF)).find? (fun r => r.no = no)

/-- The station at the far endpoint of the route a copy names. -/
def farStation (im : Image) (st : Nat) (d : List Byte) : Nat :=
  match copyRoute im st (cdRoute d) with
  | some r => (im.places.map (·.station)).getD r.idx st
  | none => st

/-- The stations whose platform a copy's platform sides are (R252). -/
def srcStation (im : Image) (st : Nat) (d : List Byte) : Nat :=
  if cdFarSrc d (copyRoute im st (cdRoute d)) then farStation im st d else st
def dstStation (im : Image) (st : Nat) (d : List Byte) : Nat :=
  if cdFarDst d (copyRoute im st (cdRoute d)) then farStation im st d else st

/-- The copy's depot side reads the rescale tables that a depot cache holds. -/
def readsTable (im : Image) (st : Nat) (d : List Byte) : Bool :=
  cdSrc d = 2 && ((copyRoute im st (cdRoute d)).map Route.cls) = some 2

/-- The offset of a depot side, stepped by the loops around the descriptor. -/
def steppedOff (off : Nat) (ls : List LoopE) (i : Nat) (iters : List Nat) : Nat :=
  ((off : Int) + steppedBy LoopE.step ls i iters).toNat

/-- The stream entry of a prefetcher, with its number in the record. -/
def streamOf (im : Image) (st pref : Nat) : Option (StreamE × Nat) :=
  (streamsOf (im.stnRec st 5 0xFF)).zipIdx.find? (fun e => e.1.pref = pref)

/-- The offset in its buffer of page k of a stream (R259). -/
def streamOff (e : StreamE) (k : Nat) : Int :=
  if e.stride > 0 then e.base + k * e.stride * 65536 else (e.base + e.limit : Int) - 65536 + k * e.stride * 65536

/-- Page k lies in the extent. -/
def inExtent (e : StreamE) (k : Nat) : Bool := (e.base : Int) ≤ streamOff e k && streamOff e k < e.base + e.limit

/-- A stream as a run has it: for a batch of an EMBED, a stream of buffer 0 is narrowed to the rebased buffer (R259, R376). -/
def State.narrow (s : State) (j : Nat) (e : StreamE) : StreamE :=
  match (s.job j).run.map Run.what with
  | some (.embed _ _ _) => if e.buf = 0 then { e with limit := min e.limit ((s.runBuf j 0).2 - e.base) } else e
  | _ => e

/-- The depot address of page k of a stream. -/
def State.streamAddr (s : State) (j : Nat) (e : StreamE) (k : Nat) : Nat :=
  (((s.runBuf j e.buf).1 : Int) + streamOff (s.narrow j e) k).toNat

/-- The platform byte address of page k's ring slot (R260). -/
def ringAt (im : Image) (st : Nat) (x : StreamE × Nat) (k : Nat) : Nat :=
  let es := streamsOf (im.stnRec st 5 0xFF)
  let below := ((es.take (x.2 + 1)).map (·.depth)).sum
  64 * (im.at_ st).platform + 65536 * (stPlatform (im.stnRec st 1 0xFF) - below + k % max 1 x.1.depth)

/-- A prefetcher's context for an image place. -/
def State.stream (s : State) (st place pref : Nat) : Stream := Tbl.look {} (s.stn st).streams (streamKey place pref)
def State.setStream (s : State) (st place pref : Nat) (x : Stream) : State :=
  s.setStn st { s.stn st with streams := Tbl.put {} (s.stn st).streams (streamKey place pref) x }

/-- The byte address of one side of a copy as it issues: in a lane store that of the image, in a table that in its data area. -/
def State.copyAt (s : State) (st j : Nat) (im : Image) (d : List Byte) (i : Nat) (ls : List LoopE) (iters : List Nat)
    (dst : Bool) : Nat :=
  let kind := if dst then cdDst d else cdSrc d
  let off := if dst then cdDstOff d else cdSrcOff d
  if kind = 0 then 8 * off
  else if kind = 1 then 64 * ((im.at_ (if dst then dstStation im st d else srcStation im st d)).platform + off)
  else if kind = 2 then
    let o := 64 * steppedOff off ls i iters
    if !dst && readsTable im st d then o else (s.runBuf j (if dst then cdDstBuf d else cdSrcBuf d)).1 + o
  else
    match streamOf im st (cdPref d) with
    | some e => s.streamAddr j e.1 (s.stream st (im.at_ st).place (cdPref d)).head + 64 * off
    | none => 64 * off

/-! ## Windows: which layer a page belongs to -/

/-- The pages of layer `n` of a job's window. -/
def State.layerPages (s : State) (j : Nat) (w : List Byte) (n : Nat) : List Nat :=
  let p := pageOf ((s.runBuf j (wnBuf w)).1 + wnOff w n)
  (List.range (wnPages w n)).map (p + ·)

/-- The last layer of a window that some bytes of the model buffer meet. -/
def State.layerAt (s : State) (j : Nat) (w : List Byte) (a n : Nat) : Option Nat :=
  (List.range (wnLayers w)).reverse.find? (fun l =>
    meet (a, n) ((s.runBuf j (wnBuf w)).1 + wnOff w l, 65536 * wnPages w l))

/-- A copy reads the window's model buffer. -/
def readsWindow (im : Image) (st : Nat) (d : List Byte) : Bool :=
  im.group 7 != [] && cdSrc d = 2 && !readsTable im st d && cdSrcBuf d = wnBuf (im.group 7)

/-! ## Issue (R253) -/

/-- COPY_ISSUE: the next copy of the program issues once its tokens are present, and spends TAKE of them. -/
def State.issueCopy (s : State) (st n : Nat) : State :=
  match s.laneRun st n with
  | none => s
  | some (j, r) =>
    let c := s.ctx st n j
    let im := r.image
    let body := im.stnRec st 4 n
    let ls := loopsOf false body
    let iters := itersFor ls c.copyIters
    let d := descAt 32 body c.copyIdx
    if !s.mayIssue st n j r ∨ c.copyDone ∨ c.faulted ∨ c.tokens < cdTake d then s
    else
      let k := (cdCeil d : Int) + steppedBy LoopE.cstep ls c.copyIdx iters
      let src := s.copyAt st j im d c.copyIdx ls iters false
      let x : CopyRun :=
        { seq := (s.lane st n).seq, job := j, desc := d, len := cdLen d
          src := src
          depot := (cdSrc d = 2 && !readsTable im st d) || cdSrc d = 3
          dst := s.copyAt st j im d c.copyIdx ls iters true
          ceil := ceilEff (tbCeil (im.group 6) k.toNat) (signed 4 (s.fget F.jobRerunCfgCeilAdj j)) }
      let layer := if readsWindow im st d then ((s.layerAt j (im.group 7) src (cdLen d)).map (· + 1)).getD c.layer else c.layer
      let c1 := { c with tokens := c.tokens - cdTake d, layer := max c.layer layer }
      let c2 := match nextDesc ls (listDescs body) c.copyIdx iters with
        | some (i, it) => { c1 with copyIdx := i, copyIters := it }
        | none => { c1 with copyDone := true }
      let l := s.lane st n
      (s.setLane st n { l with copies := l.copies ++ [x], seq := l.seq + 1 }).setCtx st n j c2

/-! ## Requests (R254) -/

def Lane.copy (l : Lane) (seq : Nat) : Option CopyRun := l.copies.find? (fun c => c.seq = seq)

/-- Replace a copy of a lane row by its next state, and the slots the lane row holds. -/
def State.putCopy (s : State) (st n : Nat) (c : CopyRun) (slots : Nat) : State :=
  let l := s.lane st n
  s.setLane st n { l with copies := l.copies.map (fun x => if x.seq = c.seq then c else x), slots := slots }

/-- The next request of a copy: one to be sent again, else the next bytes of the source up to a 256 B boundary. -/
def CopyRun.nextReq (c : CopyRun) : Option (Nat × Nat) :=
  match c.again with
  | x :: _ => some x
  | [] => if c.sent < c.len then some (c.sent, min (256 - (c.src + c.sent) % 256) (c.len - c.sent)) else none

/-- A copy with its next request sent. -/
def CopyRun.sendReq (c : CopyRun) (q : Nat × Nat) : CopyRun :=
  if c.again = [] then { c with sent := c.sent + q.2, open_ := c.open_ ++ [q] }
  else { c with again := c.again.drop 1, open_ := c.open_ ++ [q] }

/-- The route of a copy's requests: its own, or for demand reads of a stream's page that route (R251); none for a copy within the
station. -/
def State.requestRoute (s : State) (st : Nat) (c : CopyRun) : Option Route :=
  match s.runImage c.job with
  | some im =>
    let no := if cdSrc c.desc = 3 && cdDst c.desc != 2 then ((streamOf im st (cdPref c.desc)).map (fun e => e.1.route)).getD 0
      else cdRoute c.desc
    if cdSrc c.desc ≥ 2 ∨ cdDst c.desc = 2 ∨ cdRemote c.desc then copyRoute im st no else none
  | none => none

/-- The copy's requests take a route with EXPRESS set. -/
def State.copyExpress (s : State) (st : Nat) (c : CopyRun) : Bool := ((s.requestRoute st c).map Route.express).getD false

/-- A lane row has a free slot and an issued copy with a request to send, for the job it carries. -/
def State.maySend (s : State) (st n : Nat) (express : Bool) : Bool :=
  let l := s.lane st n
  l.slots < 48 && l.copies.any (fun c => c.nextReq.isSome && l.job = some c.job && s.copyExpress st c = express)

/-- The lane row that sends next: express routes first, the others round-robin over lane rows (R254). -/
def State.sendTurn (s : State) (st n : Nat) (express : Bool) : Bool :=
  express ||
    (!(List.range 32).any (fun m => s.maySend st m true) &&
      (((List.range 32).map (fun i => ((s.stn st).copyLane + 1 + i) % 32)).find? (fun m => s.maySend st m false)) = some n)

/-- The depot page a request reads: none for a source in a lane store, a platform, or a table. -/
def CopyRun.reqPage (c : CopyRun) (off : Nat) : Option Nat := if c.depot then some (pageOf (c.src + off)) else none

/-- A page of a layer whose load has begun and not ended: a copy waits for the plan's read and starts none (R273). -/
def State.planReads (s : State) (j p : Nat) : Bool :=
  (s.job j).layers.any (fun e => !e.2 && (s.job j).pinned.contains (e.1, p))

/-- The ring slot that holds page `p` for a copy with SRC_KIND 3. -/
def State.ringSlot (s : State) (st : Nat) (c : CopyRun) (p : Nat) : Option (RingSlot × Nat) :=
  match s.runImage c.job with
  | some im =>
    match streamOf im st (cdPref c.desc) with
    | some e =>
      let x := s.stream st (im.at_ st).place (cdPref c.desc)
      if x.job = c.job ∧ cdSrc c.desc = 3 then
        (x.slots.find? (fun r => r.full && r.page = p)).map (fun r => (r, ringAt im st e r.k))
      else none
    | none => none
  | none => none

/-- A copy with CACHE reads the 256 B line of an address in its die's depot cache: a hit is counted, a miss allocates the line, in the
place of the oldest that the search kernel has not pinned (R248, R249). -/
def State.cacheLine (s : State) (d a : Nat) : Bool × State :=
  let xs := Tbl.look [] s.depot.lines d
  let pinned := Tbl.look [] s.depot.pinnedLines d
  if xs.contains (a / 256) then (true, s.bump F.depCacheCtrCount (5 * d + 2) 1)
  else
    let s1 := s.bump F.depCacheCtrCount (5 * d + 3) 1
    if xs.length < 196608 then (false, s1.setDepot { s1.depot with lines := Tbl.put [] s.depot.lines d (xs ++ [a / 256]) })
    else
      match xs.find? (fun l => !pinned.contains l) with
      | some l => (false, s1.setDepot { s1.depot with lines := Tbl.put [] s.depot.lines d (xs.erase l ++ [a / 256]) })
      | none => (false, s1)

/-- A request reaches its source page: the line of a copying die's cache, or a tier-entry lookup and, for a page that is not
resident and that no plan reads, a promotion (R242, R250). -/
def State.reachPage (s : State) (st j : Nat) (d : List Byte) (a : Nat) : State :=
  let p := pageOf a
  let r := if cdCache d then s.cacheLine (st / 16) a else (false, s)
  if r.1 then r.2
  else
    let s1 := r.2.tierLookup p
    if s1.planReads j p then s1 else s1.promote p

/-- The islands from a station to a page: its die's depot cache, that of the page's home die, and the home stack (R220, R250). -/
def State.pagePath (s : State) (st p : Nat) : List Nat :=
  let own := islandOfCache (st / 16)
  let home := islandOfCache (s.homeDie p)
  own :: (if own = home then [] else [home]) ++ [islandOfStack (s.homeStack p)]

/-- The islands a request passes to its source (R218, R252): none within the station. -/
def State.srcPath (s : State) (st : Nat) (c : CopyRun) (off : Nat) : List Nat :=
  match s.runImage c.job, c.reqPage off with
  | some _, some p =>
    if (s.ringSlot st c p).isSome then []
    else if cdCache c.desc && (Tbl.look [] s.depot.lines (st / 16)).contains ((c.src + off) / 256) then [islandOfCache (st / 16)]
    else s.pagePath st p
  | some im, none =>
    if readsTable im st c.desc then islandPath (islandOfStation st) (islandOfCache (farStation im st c.desc / 16))
    else islandPath (islandOfStation st) (islandOfStation (srcStation im st c.desc))
  | none, _ => []

/-- The islands a request's data passes to its destination. -/
def State.dstPath (s : State) (st : Nat) (c : CopyRun) (off : Nat) : List Nat :=
  if cdDst c.desc = 2 then s.pagePath st (pageOf (c.dst + off))
  else
    match s.runImage c.job with
    | some im => islandPath (islandOfStation st) (islandOfStation (dstStation im st c.desc))
    | none => []

/-- The entry of a copy's route from an island (R204, R210). -/
def State.routeEntry (s : State) (st : Nat) (c : CopyRun) (from_ : Nat) (id : ReqId) (path : List Nat) (bs : List Byte) : JEntry :=
  let r := s.requestRoute st c
  { route := (r.map Route.no).getD 63, data := bs, first := (r.map Route.express).getD false
    credits := (r.map Route.credits).getD 8, origin := from_, req := some id, path := path }

/-- COPY_REQUEST_SEND. -/
def State.sendCopy (s : State) (st n seq : Nat) : State :=
  let l := s.lane st n
  match l.copy seq with
  | none => s
  | some c =>
    match c.nextReq with
    | none => s
    | some q =>
      let x := s.copyExpress st c
      if l.slots ≥ 48 ∨ l.job ≠ some c.job ∨ !s.stnUp st ∨ !s.sendTurn st n x then s
      else
        let s1 := ((s.putCopy st n (c.sendReq q) (l.slots + 1)).bump F.stnCopyCtrCount (5 * st + 1) 1).pulse st 33
        let s2 := if x then s1 else s1.setStn st { s1.stn st with copyLane := n }
        let s3 := match c.reqPage q.1 with
          | some p => if (s2.ringSlot st c p).isSome then s2 else s2.reachPage st c.job c.desc (c.src + q.1)
          | none => s2
        State.goOn (islandOfStation st) s3
          (s.routeEntry st c (islandOfStation st) ⟨st, n, seq, q.1⟩ (s.srcPath st c q.1) [])

/-! ## Data (R254 to R257, R267) -/

/-- The bytes of a depot range for a copy; bytes outside the range are free values (R259 gives no answer there). -/
def State.depotOrFree (s : State) (a n : Nat) : List Byte × State :=
  if inDepot a n then (s.depotRead a n, s) else s.drawBytes n

/-- What a request reads: its bytes, the status its source meets, and the state after. -/
def State.copyBytes (s : State) (st n : Nat) (c : CopyRun) (q : Nat × Nat) : List Byte × Nat × State :=
  match s.runImage c.job with
  | none => ([], 0x2001, s)
  | some im =>
    let a := c.src + q.1
    if cdSrc c.desc = 0 then
      let ws := (List.range (q.2 / 8)).map (fun i => ((im.at_ st).unit (a / 8 + i), 1))
      let r := s.stationRead st n ws
      (laneBytes (s.lane st n).store (im.at_ st) (a / 8) (q.2 / 8), if r.1 then 0x2001 else 0, r.2)
    else if cdSrc c.desc = 1 then
      let from_ := srcStation im st c.desc
      let r := s.stationRead from_ 33 [(a / 8, q.2 / 8)]
      (s.platRead from_ a q.2, if r.1 then 0x2001 else 0, r.2)
    else if readsTable im st c.desc then (((tbArea (im.group 6)).drop a).take q.2, 0, s)
    else
      match s.ringSlot st c (pageOf a) with
      | some (_, at_) =>
        let r := s.stationRead st 33 [((at_ + a % 65536) / 8, q.2 / 8)]
        (s.platRead st (at_ + a % 65536) q.2, if r.1 then 0x2001 else 0, r.2)
      | none =>
        let r := s.depotOrFree a q.2
        (r.1, s.readStatus a q.2, r.2)

/-- Rows of 64 B as the aligner writes them: A12 blocks, or A24 pairs; with the NaNs it met (R75, R78). -/
def alignRows (wide : Bool) (ceil : Nat) (bs : List Byte) : List Byte × Nat :=
  let rows := (chunksOf 64 bs.length bs).map (fun b => if wide then alignA24 (bf16Row b) else alignA12 ceil (bf16Row b))
  (rows.flatMap (·.1), (rows.map (·.2)).sum)

/-- The bytes of a copy's destination that lie in a page, of some ranges of it. -/
def CopyRun.bytesIn (c : CopyRun) (p : Nat) (qs : List (Nat × Nat)) : Nat :=
  (qs.map (fun q => min (c.dst + q.1 + q.2) (65536 * (p + 1)) - max (c.dst + q.1) (65536 * p))).sum

/-- The identity of a lane row's copy (R268). -/
def CopyRun.ident (c : CopyRun) (st n : Nat) : Nat := copyIdent st n c.seq

/-- A copy's write of a page cannot go on: another write is in progress or comes before it, the page is held, or its tier entry's
share is not served (R246, R265, R268). -/
def State.writeHeld (s : State) (ident p : Nat) : Bool := (s.page p).writer != some ident && s.pageBusy p

/-- Bytes of a copy land on one page of the depot range: the first of them begins the copy's write of the page, the last of the page's
bytes ends it (R256, R265). -/
def State.landPage (st n : Nat) (c : CopyRun) (s : State) (x : Nat × List Byte) : State :=
  let p := pageOf x.1
  let id := c.ident st n
  let s1 := if (s.page p).writer = some id then s
    else
      let t := (s.tierLookup p).beginWrite p
      t.setPage p { t.page p with writer := some id }
  let s2 := (s1.landBytes none p x.1 x.2).dirtyPressure
  if c.bytesIn p c.done + x.2.length ≥ c.bytesIn p [(0, cdDstLen c.desc)] then s2.endWrite id p else s2

/-- Bytes at a depot address, page by page: at most two pages. -/
def pageParts (a : Nat) (bs : List Byte) : List (Nat × List Byte) :=
  let n := 65536 - a % 65536
  (if bs.length ≤ n then [(a, bs)] else [(a, bs.take n), (a + n, bs.drop n)])

/-- Write a request's bytes at the copy's destination. -/
def State.landCopy (s : State) (st n : Nat) (im : Image) (c : CopyRun) (off : Nat) (bs : List Byte) : State :=
  if cdDst c.desc = 0 then
    let out := if cdAlign c.desc then alignRows (cdWide c.desc) c.ceil bs else (bs, 0)
    let at_ := if cdAlign c.desc && cdWide c.desc then 2 * off else off
    (s.laneStore st n (im.at_ st) ((c.dst + at_) / 8) out.1).lrAdd st n 14 out.2
  else if cdDst c.desc = 1 then s.platStore (dstStation im st c.desc) (c.dst + off) bs
  else (pageParts (c.dst + off) bs).foldl (State.landPage st n c) s

/-- The generation of a source page, recorded when its first read is served, with the age of a ring slot as it is consumed (R267,
R269). -/
def CopyRun.record (c : CopyRun) (p gen : Nat) (ring old : Bool) : CopyRun :=
  match c.pages.find? (fun x => x.page = p) with
  | none => { c with pages := c.pages ++ [{ page := p, gen := some gen, ring := ring, old := old }] }
  | some x =>
    { c with pages := c.pages.map (fun y => if y.page != p then y
        else if x.gen.isSome then { y with old := y.old || old }
        else { y with gen := some gen, ring := ring, old := old, confirmed := false }) }

/-- A copy ends without its confirms: its holds and its writes end, and its slots are freed (R265, R268). -/
def State.dropCopy (s : State) (st n : Nat) (c : CopyRun) : State :=
  let id := c.ident st n
  let s1 := c.pages.foldl (fun (s : State) p => s.endHold id p.page) s
  let ws := ((s1.depot.pages.filter (fun e => e.2.writer = some id)).map (·.1))
  let s2 := ws.foldl (fun (s : State) p => s.endWrite id p) s1
  let l := s2.lane st n
  s2.setLane st n { l with copies := l.copies.filter (fun x => x.seq != c.seq), slots := l.slots - c.open_.length }

/-- A copy faults (R257): the lane row's copy program stops for the run and the run is abandoned (R289). -/
def State.faultCopy (s : State) (st n : Nat) (c : CopyRun) (status : Nat) : State :=
  let s1 := ((s.dropCopy st n c).bump F.stnCopyCtrCount (5 * st + 4) 1).bump F.depTierCtrCount 10 (bit (status = 0x2002))
  let live : Bool := ((s1.job c.job).run.map (fun r => r.started.contains st)).getD false
  if live then (s1.setCtx st n c.job { s1.ctx st n c.job with faulted := true }).abandonRun c.job status else s1

/-- A slot of a ring is more than 1 s old (R269). -/
def State.aged (s : State) (st : Nat) (r : RingSlot) : Bool := s.cyc (islandOfStation st) > r.fetchedAt + 700000000

/-- A request's data crosses from its source to the copying station, and on to its destination (R218). -/
def State.carry (s : State) (st n : Nat) (c : CopyRun) (q : Nat × Nat) (bs : List Byte) : State :=
  let id : ReqId := ⟨st, n, c.seq, q.1⟩
  let here := islandOfStation st
  let out := s.srcPath st c q.1
  let from_ := out.getLast?.getD here
  let s1 := (chunksOf 64 bs.length bs).foldl (fun (s : State) b =>
    State.goOn from_ s (s.routeEntry st c from_ id (islandPath from_ here ++ s.dstPath st c q.1) b)) s
  s1.arrived (fun e => e.req = some id)

/-- The request's data is written and its slot freed. -/
def State.takeCopyData (s : State) (st n : Nat) (im : Image) (c : CopyRun) (q : Nat × Nat) : State :=
  let page := c.reqPage q.1
  let slot := page.bind (fun p => s.ringSlot st c p)
  let d := s.copyBytes st n c q
  if d.2.1 ≠ 0 then d.2.2.faultCopy st n c d.2.1
  else
    let c1 := match page with
      | some p => c.record p ((slot.map (fun x : RingSlot × Nat => x.1.gen)).getD (s.genOf p)) slot.isSome
          ((slot.map (fun x : RingSlot × Nat => s.aged st x.1)).getD false)
      | none => c
    let s1 := (d.2.2.carry st n c q d.1).landCopy st n im c1 q.1 d.1
    s1.putCopy st n { c1 with open_ := c1.open_.erase q, done := c1.done ++ [q], limited := false } ((s1.lane st n).slots - 1)

/-- A depot page of a copy is not there to be read: it is not resident, or its generation is odd as the copy's first read of it is to
be served (R242, R267). -/
def State.pageAway (s : State) (c : CopyRun) (p : Nat) : Bool :=
  !s.pageReady p || (s.genOf p % 2 = 1 && !c.pages.any (fun x => x.page = p && x.gen.isSome))

/-- COPY_REQUEST_DATA: the data of a request in flight arrives; the request has gone its way by then. A page that is not there yet, a
held page and the dirty limit keep it waiting. -/
def State.copyData (s0 : State) (st n seq off : Nat) : State :=
  match (s0.lane st n).copy seq, ((s0.lane st n).copy seq).bind (fun c => s0.runImage c.job) with
  | some c, some im =>
    match c.open_.find? (fun q => q.1 = off) with
    | none => s0
    | some q =>
      let s := s0.arrived (fun e => e.req = some ⟨st, n, seq, off⟩)
      let page := c.reqPage off
      let ring : Bool := (page.bind (fun p => s.ringSlot st c p)).isSome
      let parts := pageParts (c.dst + off) (zeros q.2)
      let depot : Bool := cdDst c.desc = 2
      if !s.stnUp st then s
      else if depot ∧ isMediaPage (pageOf (c.dst + off)) ∧ s.fbit F.flsHealthExhausted 0 then s.faultCopy st n c 0x2003
      else if !ring ∧ (page.any (fun p => !s.pageReady p)) then
        (if s.planReads c.job (page.getD 0) then s else s.promote (page.getD 0))
      else if !ring ∧ page.any (s.pageAway c) then s
      else if depot ∧ parts.any (fun x => s.writeHeld (c.ident st n) (pageOf x.1)) then s
      else if depot ∧ parts.any (fun x => s.overBy (pageOf x.1) x.1 x.2.length) then
        (if c.limited then s else (s.putCopy st n { c with limited := true } (s.lane st n).slots).bump F.depTierCtrCount 5 1)
      else s.takeCopyData st n im c q
  | _, _ => s0

/-! ## Confirms and completion (R256, R267 to R269) -/

/-- Every request of the copy has written its data. -/
def CopyRun.written (c : CopyRun) : Bool := c.sent = c.len && c.open_ = [] && c.again = []

/-- The ring slot of a page is dropped: later reads of the page are demand reads. -/
def State.emptySlot (s : State) (st : Nat) (c : CopyRun) (p : Nat) : State :=
  match s.runImage c.job, s.ringSlot st c p with
  | some im, some (r, _) =>
    let place := (im.at_ st).place
    let x := s.stream st place (cdPref c.desc)
    s.setStream st place (cdPref c.desc) { x with slots := x.slots.map (fun y => if y.k = r.k then { y with full := false, empty := true } else y) }
  | _, _ => s

/-- A confirm fails (R268): the page's part is read again; after 8 reissues new writes to the page are held. -/
def State.confirmFails (s : State) (st n : Nat) (c : CopyRun) (x : CopyPage) : State :=
  let mine := c.done.filter (fun q => pageOf (c.src + q.1) = x.page)
  let c1 := { c with
    done := c.done.filter (fun q => pageOf (c.src + q.1) != x.page)
    again := c.again ++ mine
    pages := c.pages.map (fun y => if y.page = x.page then
      { y with gen := none, ring := false, old := false, confirmed := false, reissues := y.reissues + 1 } else y) }
  let s1 := (s.putCopy st n c1 (s.lane st n).slots).bump F.depTierCtrCount (if x.ring then 6 else 8) 1
  let s2 := (if x.old then s1.bump F.depTierCtrCount 7 1 else s1).bump F.stnCopyCtrCount (5 * st + 3) 1
  let s3 := if x.ring then s2.emptySlot st c x.page else s2
  if x.reissues + 1 ≥ 8 then s3.holdWrites (c.ident st n) x.page else s3

/-- GENERATION_CONFIRM: the home stack compares the generation recorded with the current one. -/
def State.confirm (s : State) (st n seq p : Nat) : State :=
  match (s.lane st n).copy seq with
  | none => s
  | some c =>
    match c.pages.find? (fun x => x.page = p && !x.confirmed) with
    | none => s
    | some x =>
      if !c.written then s
      else
        if x.gen = some (s.genOf p) ∧ !x.old then
          (s.putCopy st n { c with pages := c.pages.map (fun y => if y.page = p then { y with confirmed := true } else y) }
            (s.lane st n).slots).endHold (c.ident st n) p
        else s.confirmFails st n c x

/-- The stream's place shown in STN.STREAM_STAT. -/
def State.showStream (s : State) (st place pref : Nat) : State :=
  let x := s.stream st place pref
  let i := streamIdx st pref place
  (s.fset F.stnStreamStatHead i x.head).fset F.stnStreamStatAhead i (x.slots.filter (fun r => !r.empty)).length

/-- A copy with ADVANCE releases the stream's head page (R264). -/
def State.advance (s : State) (st : Nat) (c : CopyRun) : State :=
  match s.runImage c.job with
  | none => s
  | some im =>
    let place := (im.at_ st).place
    let x := s.stream st place (cdPref c.desc)
    if !cdAdvance c.desc ∨ !x.live ∨ x.job ≠ c.job then s
    else
      (s.setStream st place (cdPref c.desc)
        { x with head := x.head + 1, next := max x.next (x.head + 1), slots := x.slots.filter (fun r => r.k != x.head) }).showStream
          st place (cdPref c.desc)

/-- COPY_COMPLETE. -/
def State.completeCopy (s : State) (st n seq : Nat) : State :=
  match (s.lane st n).copy seq with
  | none => s
  | some c =>
    if !c.written ∨ !c.pages.all (·.confirmed) ∨ !s.stnUp st ∨ s.depot.pages.any (fun e => e.2.writer = some (c.ident st n)) then s
    else ((s.dropCopy st n c).bump F.stnCopyCtrCount (5 * st) 1).advance st c

/-! ## Streams (R259 to R264) -/

/-- A stream has a page to fetch or to skip. -/
def Stream.wants (x : Stream) (e : StreamE) : Bool := x.live && x.next < x.head + e.depth && inExtent e x.next

/-- The image at an image place of a station whose job has a run in progress there, and the job. -/
def State.streamOwner (s : State) (st place pref : Nat) : Option (Image × Nat × (StreamE × Nat)) :=
  let j := (s.stream st place pref).job
  match (s.job j).run with
  | some r =>
    if r.started.contains st ∧ (r.image.at_ st).place = place then
      (streamOf r.image st pref).map (fun e => (r.image, j, (s.narrow j e.1, e.2)))
    else none
  | none => none

/-- The prefetcher's context of the active image has a page to fetch; it goes before the others (R261). -/
def State.activeWants (s : State) (st place pref : Nat) : Bool :=
  (List.range 8).any (fun q => q != place &&
    (match s.streamOwner st q pref with
     | some (_, j, e) => s.carried st = some j && (s.stream st q pref).wants e.1
     | none => false))

/-- Skip page k (R262): its slot is marked empty and DROPPED counts. -/
def State.skipPage (s : State) (st place pref k : Nat) : State :=
  let x := s.stream st place pref
  let slot : RingSlot := { k := k, gen := 0, full := false, empty := true, fetchedAt := 0 }
  ((s.setStream st place pref { x with slots := x.slots.filter (fun r => r.k != k) ++ [slot] }).bump F.stnStreamStatDropped
    (streamIdx st pref place) 1).showStream st place pref

/-- A read of a page fails or a write to it is in progress (R262). -/
def State.skips (s : State) (p : Nat) : Bool :=
  let x := s.page p
  (isMediaPage p && x.mapped = 0) || (x.resident && s.readStatus (65536 * p) 65536 != 0) || x.lost != 0 || x.bad != 0 || x.gone ||
    s.genOf p % 2 = 1

/-- The request of a stream's fetch on its way: the prefetcher's context stands for the lane row (log entry 49). -/
def fetchId (st place pref k : Nat) : ReqId := ⟨st, 33 + streamKey place pref, k, 0⟩

/-- A fetch's request leaves for the page's home stack. -/
def State.sendFetch (s : State) (im : Image) (st place k p : Nat) (e : StreamE) : State :=
  let r := copyRoute im st e.route
  State.goOn (islandOfStation st) s
    { route := e.route, first := (r.map Route.express).getD false, credits := (r.map Route.credits).getD 8
      origin := islandOfStation st, req := some (fetchId st place e.pref k), path := s.pagePath st p }

/-- STREAM_FETCH: the prefetcher issues the fetch of its next page, or skips it. -/
def State.fetchStream (s : State) (st place pref : Nat) : State :=
  match s.streamOwner st place pref with
  | none => s
  | some (im, j, e) =>
    let x := s.stream st place pref
    let k := x.next
    if !x.live ∨ !s.stnUp st ∨ k ≥ x.head + e.1.depth ∨ (s.carried st ≠ some j ∧ s.activeWants st place pref) then s
    else if !inExtent e.1 k then s.fset F.stnStreamStatEnded (streamIdx st pref place) 1
    else
      let buf := s.runBuf j e.1.buf
      let off := streamOff e.1 k
      let s1 := s.setStream st place pref { x with next := k + 1 }
      if off < 0 ∨ (buf.2 : Int) < off + 65536 then s1.skipPage st place pref k
      else
        let p := pageOf (s.streamAddr j e.1 k)
        let s2 := s1.tierLookup p
        if s2.skips p then s2.skipPage st place pref k
        else
          let slot : RingSlot := { k := k, page := p, gen := 0, full := false, empty := false, fetchedAt := 0 }
          let y := s2.stream st place pref
          let s3 := ((s2.setStream st place pref { y with slots := y.slots ++ [slot] }).showStream st place pref).sendFetch im st place k p e.1
          if (s3.page p).resident ∨ !isMediaPage p then s3
          else
            let lbas := (bitsSet 16 (s3.page p).mapped).map (fun i => 16 * p + i)
            (s3.queueReads .stream (lbas.filter (fun b => !s3.staged b))).bump F.depTierCtrCount 4 1

/-- The flash reads a stream made for a page. -/
def State.streamReads (s : State) (p : Nat) : List (Nat × FRead) :=
  s.flash.reads.filter (fun e => e.2.live && e.2.why = .stream && e.2.lba / 16 = p)

/-- The generation a fetch records: that of the first of its flash reads as it was served, or as the frame is read; while it is odd the
read waits (R267). -/
def State.fetchGen (s : State) (p : Nat) (rs : List (Nat × FRead)) : Nat :=
  match rs.head? with
  | some r => if r.2.gen % 2 = 1 then s.genOf p else r.2.gen
  | none => s.genOf p

/-- STREAM_FETCH_DATA: the data of page k lands in its ring slot, once its flash reads have ended; a failed read skips it. -/
def State.streamData (s0 : State) (st place pref k : Nat) : State :=
  match s0.streamOwner st place pref with
  | none => s0
  | some (im, j, e) =>
    let s := s0.arrived (fun x => x.req = some (fetchId st place pref k))
    let x := s.stream st place pref
    let p := pageOf (s.streamAddr j e.1 k)
    let rs := s.streamReads p
    if !x.slots.any (fun r => r.k = k && !r.full && !r.empty) ∨ !rs.all (fun r => r.2.done) ∨ !s.stnUp st ∨ s.shareWaits p ∨
        s.fetchGen p rs % 2 = 1 then s
    else
      let s1 := s.setFlash { s.flash with reads := s.flash.reads.filter (fun r => !rs.contains r) }
      if rs.any (fun r => r.2.failed) ∨ s1.readStatus (65536 * p) 65536 ≠ 0 then
        s1.skipPage st place pref k
      else
        let now := s1.cyc (islandOfStation st)
        let s2 := s1.setStream st place pref { x with slots := x.slots.map (fun r =>
          if r.k = k then { r with full := true, gen := s.fetchGen p rs, fetchedAt := now } else r) }
        (s2.platStore st (ringAt im st e k) (s2.depotRead (65536 * p) 65536)).showStream st place pref

/-! ## Weight windows (R271 to R273) -/

/-- The plan loads one page into its place: a resident page is pinned where it lies, a mapped one is read from flash into a
frame of the set-aside, taken on its home stack (R271, R272). -/
def State.loadPage (j layer : Nat) (s : State) (p : Nat) : State :=
  let s0 := s.tierLookup p
  let s1 := s0.setDepot { s0.depot with setAside := s0.depot.setAside - 1 }
  let h := s1.job j
  let s2 := s1.setJob j { h with pinned := h.pinned ++ [(layer, p)] }
  let x := s2.page p
  if x.resident ∨ x.promoting then s2.setPage p { x with pins := x.pins + 1, leaving := false }
  else
    let s3 := s2.frameFor p
    let y := s3.page p
    if x.mapped = 0 then s3.setPage p { y with pins := y.pins + 1, resident := !y.owed, promoting := y.owed }
    else
      let s4 := s3.setPage p { y with pins := y.pins + 1, promoting := true }
      (s4.queueReads .window (s4.flashLbas p)).bump F.depTierCtrCount 1 1

/-- WINDOW_LAYER_LOAD_START: the next layer begins to load once the last has loaded and place n mod 3 is free. -/
def State.startLayer (s : State) (j : Nat) : State :=
  match (s.job j).run with
  | none => s
  | some r =>
    let w := r.image.group 7
    let h := s.job j
    let n := h.nextLayer
    if w = [] ∨ n ≥ wnLayers w ∨ r.abandoned.isSome ∨ h.layers.any (fun e => !e.2 || e.1 % 3 = n % 3) then s
    else
      let s1 := s.setJob j { h with nextLayer := n + 1, layers := h.layers ++ [(n, false)] }
      (s1.layerPages j w n).foldl (State.loadPage j n) s1

/-- WINDOW_LAYER_LOADED: every page of the layer is there. -/
def State.layerLoaded (s : State) (j : Nat) : State :=
  let h := s.job j
  match h.layers.find? (fun e => !e.2) with
  | none => s
  | some (n, _) =>
    let ps := (h.pinned.filter (fun e => e.1 = n)).map (·.2)
    if ps.any (fun p => s.promoteOpen p) then s
    else
      let s1 := ps.foldl (fun (s : State) p => s.promoted p) s
      s1.setJob j { s1.job j with layers := (s1.job j).layers.map (fun e => if e.1 = n then (n, true) else e) }

/-- No copy that reads layer `n` is outstanding, and every copy engine of the group has issued a copy from a later layer or has
ended its run (R273). -/
def State.layerPast (s : State) (j n : Nat) (r : Run) : Bool :=
  let w := r.image.group 7
  let at_ := (s.runBuf j (wnBuf w)).1 + wnOff w n
  r.image.stations.all (fun st => r.ended.contains st || (r.started.contains st && (List.range 32).all (fun k =>
    let c := s.ctx st k j
    (c.copyDone || c.layer > n + 1) &&
      !(s.lane st k).copies.any (fun x => x.job = j && readsWindow r.image st x.desc && meet (x.src, x.len) (at_, 65536 * wnPages w n)))))

/-- WINDOW_LAYER_RELEASE: every loaded layer that no copy needs leaves its place. -/
def State.releaseLayer (s : State) (j : Nat) : State :=
  match (s.job j).run with
  | some r =>
    let gone := (((s.job j).layers.filter (fun e => e.2)).map (·.1)).filter (fun n => s.layerPast j n r)
    if gone = [] then s else s.releaseLayers j (fun l => gone.contains l)
  | none => s

/-! ## The rows -/

/-- COPY_ISSUE (R253). -/
def execCopyIssue (s : StationId) (n : LaneRowId) (m : State) : Host.Outcome State Fault Refusal := .next (m.issueCopy s.val n.val)

/-- COPY_REQUEST_SEND (R254). -/
def execCopyRequestSend (s : StationId) (n : LaneRowId) (seq : Nat) (m : State) : Host.Outcome State Fault Refusal :=
  .next (m.sendCopy s.val n.val seq)

/-- COPY_REQUEST_DATA (R254). -/
def execCopyRequestData (s : StationId) (n : LaneRowId) (seq offset : Nat) (m : State) : Host.Outcome State Fault Refusal :=
  .next (m.copyData s.val n.val seq offset)

/-- COPY_COMPLETE (R256). -/
def execCopyComplete (s : StationId) (n : LaneRowId) (seq : Nat) (m : State) : Host.Outcome State Fault Refusal :=
  .next (m.completeCopy s.val n.val seq)

/-- GENERATION_CONFIRM (R267). -/
def execGenerationConfirm (s : StationId) (n : LaneRowId) (seq page : Nat) (m : State) : Host.Outcome State Fault Refusal :=
  .next (m.confirm s.val n.val seq page)

/-- STREAM_FETCH (R262). -/
def execStreamFetch (s : StationId) (place stream : Fin 8) (m : State) : Host.Outcome State Fault Refusal :=
  .next (m.fetchStream s.val place.val stream.val)

/-- STREAM_FETCH_DATA (R263). -/
def execStreamFetchData (s : StationId) (place stream : Fin 8) (k : Nat) (m : State) : Host.Outcome State Fault Refusal :=
  .next (m.streamData s.val place.val stream.val k)

/-- WINDOW_LAYER_LOAD_START (R272). -/
def execWindowLayerLoadStart (j : JobId) (s : State) : Host.Outcome State Fault Refusal := .next (s.startLayer j.val)

/-- WINDOW_LAYER_LOADED (R272). -/
def execWindowLayerLoaded (j : JobId) (s : State) : Host.Outcome State Fault Refusal := .next (s.layerLoaded j.val)

/-- WINDOW_LAYER_RELEASE (R273). -/
def execWindowLayerRelease (j : JobId) (s : State) : Host.Outcome State Fault Refusal := .next (s.releaseLayer j.val)

end Sys2Proof.Machine
end

