-- ==== Sys2Proof/Machine/Ecc.lean ====
section
/-! DEFINITION. Stored-word protection at work (R541 to R559): reads and scrubs of DRAM and SRAM words, write-backs, repairs, the
mirror of a fenced stack's reserve share, the error logs' clears, and SPARE_ACT. -/

namespace Sys2Proof.Machine

/-! ## DRAM words -/

/-- The altered symbols of word `i` of a chunk, as an error pattern. -/
def wordErrs (errs : List (Nat × Nat × Byte)) (i : Nat) : List (Nat × Nat) :=
  (errs.filter (fun e => e.1 = i)).map (fun e => (e.2.1, e.2.2.toNat))

/-- What word `i` of a chunk decodes as: a word that was uncorrectable before stays so, an injected word shows its injection. -/
def State.wordIs (s : State) (n fold : Nat) (addr : Option Nat) (errs : List (Nat × Nat × Byte)) (i : Nat) : WordIs :=
  let bad : Bool := (addr.map (fun a => s.ecc.badWords.contains (a / 32 + i))).getD false
  match s.ecc.injected.find? (fun x => x.island = islandOfStack n && x.word = foldPlus fold i) with
  | some x => if x.kind = 0 then .fixed x.place else if x.kind = 1 then .dataClass else .addrClass
  | none => if bad then .dataClass else dramWord (wordErrs errs i)

/-- One word of a chunk is read (R543 to R545, R548): corrected and logged, or reported. -/
def State.readWord (n fold : Nat) (addr : Option Nat) (scrub : Bool) (errs : List (Nat × Nat × Byte)) (s : State) (i : Nat) : State :=
  let f := foldPlus fold i
  let out := s.wordIs n fold addr errs i
  let s0 := s.setEcc { s.ecc with injected := s.ecc.injected.filter (fun x => !(x.island = islandOfStack n && x.word = f)) }
  let w := (addr.map (· / 32)).getD 0 + i
  let mark := fun s : State => if addr.isSome ∧ !s.ecc.badWords.contains w then s.setEcc { s.ecc with badWords := s.ecc.badWords ++ [w] } else s
  let repair := fun s : State => if scrub then s.startRowRepair n (foldChannel f) (foldTarget f) 2 none else s
  match out with
  | .good => s0
  | .fixed p =>
    let s1 := s0.stackCe n f p
    if addr.isSome then s1.setEcc { s1.ecc with writeBacks := s1.ecc.writeBacks ++ [(islandOfStack n, w, scrub)] } else s1
  | .dataClass => repair (mark (s0.countUe (islandOfStack n) f false))
  | .addrClass =>
    let s1 := repair (mark (s0.countUe (islandOfStack n) f true))
    s1.setEcc { s1.ecc with rereads := s1.ecc.rereads ++ [(n, w)] }

/-- The eight words of a 256 B chunk are read. -/
def State.readChunk (s : State) (n fold : Nat) (addr : Option Nat) (scrub : Bool) (errs : List (Nat × Nat × Byte)) : State :=
  (List.range 8).foldl (State.readWord n fold addr scrub errs) s

/-- The channel of the chunk at a depot address within its page's home stack: (k + p) mod 32 (R238). -/
def channelOf (a : Nat) : Nat := (a / 256 % 256 + pageOf a) % 32

/-- STACK_READ (R238, R241, R537): the home stack of a resident page serves a read of the 256 B chunk at an address. `fold` gives the
bank, row and column words of the folded address of the chunk's first word, `errs` the symbols read wrong: (word, position,
difference). -/
def execStackRead (addr fold : Nat) (errs : List (Nat × Nat × Byte)) (s : State) : Host.Outcome State Fault Refusal :=
  .next (
    let a := addr / 256 * 256
    let n := s.homeStack (pageOf a)
    if !inDepot a 256 ∨ !(s.page (pageOf a)).resident ∨ !s.fbit F.memStackStateInService n then s
    else s.readChunk n (withBits (withBits fold 27 5 (channelOf a)) 32 8 n) (some a) false errs)

/-- DRAM_ADDRESS_CLASS_REREAD (R545): the word reads good, or the report repeats and the stack is fenced. -/
def execDramAddressClassReread (n : StackId) (word : Nat) (again : Bool) (s : State) : Host.Outcome State Fault Refusal :=
  .next (
    if !s.ecc.rereads.contains (n.val, word) then s
    else
      let s1 := s.setEcc { s.ecc with rereads := s.ecc.rereads.erase (n.val, word) }
      if again then (s1.countUe (islandOfStack n.val) word true).fenceStack n.val
      else s1.setEcc { s1.ecc with badWords := s1.ecc.badWords.filter (· != word) })

/-- ECC_WRITE_BACK (R543): the corrected word is written back; one that a scrub found counts in SCRUB_FIXED. -/
def execEccWriteBack (island : IslandId) (word : Nat) (s : State) : Host.Outcome State Fault Refusal :=
  .next (match s.ecc.writeBacks.find? (fun x => x.1 = island.val && x.2.1 = word) with
    | none => s
    | some x =>
      let s1 := s.setEcc { s.ecc with writeBacks := s.ecc.writeBacks.erase x }
      if x.2.2 then s1.bump F.glbEccCtrScrubFixed island.val 1 else s1)

/-- PATROL_SCRUB_STEP (R549): SCRUB_US µs of its controller's time after the last, the next chunk of a stack is read, at channel
k mod 32; `addr` is the depot address whose bytes it holds, if it holds any (R238). -/
def execPatrolScrubStep (n : StackId) (addr : Option Nat) (fold : Nat) (errs : List (Nat × Nat × Byte)) (s : State) :
    Host.Outcome State Fault Refusal :=
  .next (
    let k := s.fget F.memScrubStatChunk n.val
    let here : Bool := (addr.map (fun a => inDepot a 256 && a % 256 = 0 && s.homeStack (pageOf a) = n.val &&
      channelOf a = k % 32 && (s.page (pageOf a)).resident)).getD true
    let now := s.cyc (islandOfStack n.val)
    let due : Bool := now ≥ Tbl.look 0 s.ecc.scrubAt n.val + 1000 * s.fget F.memEccCfgScrubUs n.val
    if !s.fbit F.memEccCfgScrubEn n.val ∨ !s.fbit F.memStackStateInService n.val ∨ !here ∨ !due then s
    else
      let s1 := (s.setEcc { s.ecc with scrubAt := Tbl.put 0 s.ecc.scrubAt n.val now }).readChunk n.val (withBits (withBits fold 27 5 (k % 32)) 32 8 n.val) addr true errs
      let s2 := s1.fset F.memScrubStatChunk n.val ((k + 1) % 402653184)
      if k + 1 = 402653184 then s2.bump F.memScrubStatPasses n.val 1 else s2)

/-- DRAM_ROW_REPAIR_DONE (R556): the remap takes effect and the FUSE record is on its way. -/
def execDramRowRepairDone (n : StackId) (s : State) : Host.Outcome State Fault Refusal :=
  .next (match s.ecc.repairs.find? (fun r => r.stack = n.val) with
    | none => s
    | some r =>
      let k := 32 * r.stack + r.channel
      let used := Tbl.look 0 s.ecc.rowsUsed k
      let s1 := s.setEcc { s.ecc with repairs := s.ecc.repairs.erase r, rowsUsed := Tbl.put 0 s.ecc.rowsUsed k (used + 1) }
      let s2 := (s1.bump F.memScrubStatRemaps n.val 1).cfsWrite
        (.fuse (fuseWord2 1 (islandOfStack n.val) r.channel used r.target) (fuseWord3 r.cause))
      match r.place with
      | some p => if s2.open p then s2.finish p 0 (15 - used) else s2
      | none => s2)

/-- MIRROR_TAKEOVER (R246): the mirror serves the fenced stack's reserve share. -/
def execMirrorTakeover (n : StackId) (s : State) : Host.Outcome State Fault Refusal :=
  .next (
    if !s.depot.reserveDown.contains n.val ∨ s.depot.reserveLost.contains n.val then s
    else ((s.setDepot { s.depot with reserveDown := s.depot.reserveDown.filter (· != n.val) }).fset F.memStackStateMirrorActive
      (s.mirrorOf n.val) 1).sharesBack s.sharePages)

/-- RESERVE_REBUILD_DONE (R247): the lost share has been rebuilt on stacks in service. -/
def execReserveRebuildDone (n : StackId) (s : State) : Host.Outcome State Fault Refusal :=
  .next (
    if !s.depot.reserveLost.contains n.val then s
    else (s.setDepot { s.depot with
      reserveLost := s.depot.reserveLost.filter (· != n.val)
      reserveDown := s.depot.reserveDown.filter (· != n.val) }).sharesBack s.sharePages)

/-! ## SRAM words -/

/-- The station of a station's island. -/
def stationOf (i : Nat) : Nat := i / 35 * 16 + i % 35

/-- A word of a station memory keeps its uncorrectable content. -/
def State.keepBad (s : State) (st unit word : Nat) : State :=
  if unit < 33 then
    let l := s.lane st unit
    if l.poison.contains word then s else s.setLane st unit { l with poison := l.poison ++ [word] }
  else if unit = 33 then
    let x := s.stn st
    if x.platPoison.contains word then s else s.setStn st { x with platPoison := x.platPoison ++ [word] }
  else s

/-- An uncorrectable junction FIFO entry: the second within 1 ms fails the junction's pointer check (R544, R309). -/
def State.junctionUe (s : State) (i : Nat) : State :=
  let now := s.cyc i
  let again := s.ecc.junctionUe.any (fun e => e.1 = i && now ≤ e.2 + classKhz (islandClass i))
  let s1 := s.setEcc { s.ecc with junctionUe := s.ecc.junctionUe.filter (fun e => e.1 != i) ++ [(i, now)] }
  if again ∧ islandClass i = 0 then s1.fenceStation (stationOf i) 5 else s1

/-- The bank of a depot cache is fenced (R545). -/
def State.fenceBank (s : State) (d bank : Nat) : State :=
  let xs := Tbl.look [] s.ecc.cacheBanks d
  if xs.contains bank then s else s.setEcc { s.ecc with cacheBanks := Tbl.put [] s.ecc.cacheBanks d (xs ++ [bank]) }

/-- An uncorrectable word of a station's walker and scan memory: the command whose context holds it completes with 0x2001; whose it
is, if anybody's, is free (R544). -/
def State.contextUe (s : State) (st : Nat) : State :=
  let r := s.drawNat
  match (s.contextPlaces st)[r.1 % ((s.contextPlaces st).length + 1)]? with
  | some p => if r.2.open p then r.2.finish p 0x2001 0 else r.2
  | none => r.2

/-- An uncorrectable word of a depot-cache bank: the data line or tier entry that holds it is dropped, and read again when it is next
asked for; which it is, if any, is free (R544). -/
def State.cacheUe (s : State) (d : Nat) : State :=
  let r := s.drawNat
  let xs := Tbl.look [] s.depot.lines d
  let ps := Tbl.look [] s.depot.tierCached d
  let k := r.1 % (xs.length + ps.length + 1)
  match xs[k]? with
  | some l => r.2.setDepot { r.2.depot with
      lines := Tbl.put [] s.depot.lines d (xs.erase l)
      pinnedLines := Tbl.put [] s.depot.pinnedLines d ((Tbl.look [] s.depot.pinnedLines d).erase l) }
  | none => match ps[k - xs.length]? with
    | some p => r.2.setDepot { r.2.depot with tierCached := Tbl.put [] s.depot.tierCached d (ps.erase p) }
    | none => r.2

/-- An uncorrectable SRAM word of an island (R544, R545). A station's memories are its MACRO codes, and 36 its junction FIFOs; a
depot cache's its banks, and 16 its junction FIFOs; the queue window is memory 0 of island 140. -/
def State.sramUe (s : State) (i mem word : Nat) (addr : Bool) : State :=
  if islandClass i = 0 then
    if mem ≥ 36 then (s.countUe i word addr).junctionUe i
    else
      let s1 := (s.stationUe (stationOf i) mem word addr).keepBad (stationOf i) mem word
      if mem = 35 then s1.contextUe (stationOf i) else s1
  else
    let s1 := s.countUe i word addr
    if islandClass i = 1 ∧ mem < 16 then (if addr then s1.fenceBank (i / 35) mem else s1.cacheUe (i / 35))
    else if i = 140 ∧ mem = 0 then
      (if s1.host.windowBad.contains word then s1 else s1.setHost { s1.host with windowBad := s1.host.windowBad ++ [word] })
    else if mem ≥ 36 ∨ (islandClass i = 1 ∧ mem ≥ 16) then s1.junctionUe i
    else s1

/-- A correctable SRAM word: logged in a station, counted elsewhere; its write-back is due (R543, R548). -/
def State.sramCe (s : State) (i mem word bit_ : Nat) : State :=
  let s1 := if islandClass i = 0 ∧ mem < 36 then s.stationCe (stationOf i) mem word bit_ else s.bump F.glbEccCtrCe i 1
  s1.setEcc { s1.ecc with writeBacks := s1.ecc.writeBacks ++ [(i, 2 ^ 24 * mem + word, true)] }

/-- What a word of a scrubbed line decodes as, with what it held before. -/
def State.sramIs (s : State) (i mem word : Nat) (read : WordIs) : WordIs :=
  let bad : Bool := if islandClass i = 0 then (s.poisonOf (stationOf i) mem).contains word
    else i = 140 && mem = 0 && s.host.windowBad.contains word
  match s.ecc.injected.find? (fun x => x.island = i && x.unit = mem && x.word = word) with
  | some x => if x.kind = 0 then .fixed x.place else if x.kind = 1 then .dataClass else .addrClass
  | none => if bad then .dataClass else read

/-- One word of a scrubbed line. -/
def State.scrubWord (i mem line : Nat) (s : State) (r : WordIs × Nat) : State :=
  let word := 8 * line + r.2
  let out := s.sramIs i mem word r.1
  let s0 := s.setEcc { s.ecc with injected := s.ecc.injected.filter (fun x => !(x.island = i && x.unit = mem && x.word = word)) }
  match out with
  | .good => s0
  | .fixed b => s0.sramCe i mem word b
  | .dataClass => s0.sramUe i mem word false
  | .addrClass => s0.sramUe i mem word true

/-- SRAM_SCRUB_STEP (R550): a memory of an island scrubs one 64 B line; `errs` are the bits read wrong: (word of the line, bit,
with address bit a at 72 + a). -/
def execSramScrubStep (i : IslandId) (mem line : Nat) (errs : List (Nat × Nat)) (s : State) : Host.Outcome State Fault Refusal :=
  .next (if !s.power.started.contains i.val then s else (lineErrors errs).zipIdx.foldl (State.scrubWord i.val mem line) s)

/-- The cycles a repair holds a station memory count as stall cause 8, on every lane row that reads it: at most 512, a free
number (R557). -/
def State.heldCycles (s : State) (st mem : Nat) : State :=
  let k := s.drawNat
  let n := k.1 % 513
  if mem < 32 then k.2.lrAdd st mem 8 n
  else if mem = 33 then (List.range 32).foldl (fun (s : State) l => s.lrAdd st l 8 n) k.2
  else k.2

/-- No lane row that reads a station memory has a pass in flight. -/
def State.memFree (s : State) (i mem : Nat) : Bool :=
  islandClass i != 0 || (if mem < 33 then (s.lane (stationOf i) mem).passes = []
    else (List.range 32).all (fun l => (s.lane (stationOf i) l).passes = []))

/-- SRAM_REPAIR (R557): a row repair that is due, or a column repair, once the memory's port is held. -/
def execSramRepair (i : IslandId) (array : Nat) (column : Bool) (target : Nat) (s : State) : Host.Outcome State Fault Refusal :=
  .next (
    let key := 64 * i.val + array
    let rows := Tbl.look 0 s.ecc.sramRows key
    let cols := Tbl.look 0 s.ecc.sramCols key
    if !s.memFree i.val array then s
    else
      let hold := fun s : State => if islandClass i.val = 0 then s.heldCycles (stationOf i.val) array else s
      if column then
        (if cols ≥ 2 ∨ target ≥ 2 ^ 16 then s
        else (hold (s.setEcc { s.ecc with sramCols := Tbl.put 0 s.ecc.sramCols key (cols + 1) })).cfsWrite
          (.fuse (fuseWord2 3 i.val array cols target) (fuseWord3 1)))
      else
        match s.ecc.sramDue.find? (fun d => d.1 = i.val && d.2.1 = array && d.2.2.1 = target) with
        | none => s
        | some d =>
          if rows ≥ 4 then s
          else (hold (s.setEcc { s.ecc with sramRows := Tbl.put 0 s.ecc.sramRows key (rows + 1), sramDue := s.ecc.sramDue.erase d })).cfsWrite
            (.fuse (fuseWord2 2 i.val array rows target) (fuseWord3 d.2.2.2)))

/-! ## The logs' clears (R563) -/

/-- A stack's correctable-error log is emptied. -/
def State.clearStackLog (s : State) (n : Nat) : State :=
  (List.range 32).foldl (fun (s : State) e => (s.rset .memCeLog (32 * n + e) 0).rset .memCeLog1 (32 * n + e) 0) s

/-- A station's correctable-error log is emptied. -/
def State.clearStationLog (s : State) (st : Nat) : State :=
  (List.range 16).foldl (fun (s : State) e => (s.rset .stnCeLog (16 * st + e) 0).rset .stnCeLog1 (16 * st + e) 0) s

/-- STACK_CE_LOG_CLEAR (R563); writes to a fenced stack are ignored (R603). -/
def execStackCeLogClear (n : StackId) (s : State) : Host.Outcome State Fault Refusal :=
  .next (if s.fbit F.memStackStateFenced n.val then s.openWrite (0x1000100 + 0x10000 * n.val) fun s => s
    else s.woWrite (0x1000100 + 0x10000 * n.val) fun s => s.clearStackLog n.val)

/-- STATION_CE_LOG_CLEAR (R563, R564); writes to a fenced station are ignored (R603). -/
def execStationCeLogClear (st : StationId) (s : State) : Host.Outcome State Fault Refusal :=
  .next (if s.fbit F.stnStateFenced st.val then s.openWrite (0x800F18 + 0x10000 * st.val) fun s => s
    else s.woWrite (0x800F18 + 0x10000 * st.val) fun s => s.clearStationLog st.val)

/-! ## SPARE_ACT (R559) -/

def saAction (e : List Byte) : Nat := byteField e 8 1
def saIsland (e : List Byte) : Nat := byteField e 9 1
def saUnit (e : List Byte) : Nat := byteField e 10 1
def saTarget (e : List Byte) : Nat := byteField e 12 4

/-- Reserved bytes are 0 and the island exists. Fields that an ACTION does not use may hold anything: the table calls only bytes 11 and
26 to 63 reserved (DESIGN CHOICE, log entry 51). -/
def spareFields (e : List Byte) : Bool :=
  sqFlags e = 0 && zeroAt e 11 1 && zeroAt e 26 38 && saAction e ≤ 3 && saIsland e ≤ 140

/-- The opcode and action of a SPARE_ACT entry. -/
def isSpareAct (a : Nat) (e : List Byte) : Bool := sqOpcode e = 0x2D && (saAction e = a || (a = 0 && saAction e > 3))

/-- Action 0: a DRAM row repair. -/
def State.actRepair (p : Nat) (e : List Byte) (s : State) : State :=
  let i := saIsland e
  if !spareFields e ∨ islandClass i ≠ 3 ∨ saUnit e ≥ 32 ∨ saTarget e ≥ 2 ^ 22 then s.fail p 0x1001
  else s.startRowRepair (i / 35 * 8 + (i % 35 - 18)) (saUnit e) (saTarget e) 5 (some p)

/-- Action 1: a lane row's retirement. -/
def State.actRetire (p : Nat) (e : List Byte) (s : State) : State :=
  let i := saIsland e
  if !spareFields e ∨ islandClass i ≠ 0 ∨ saUnit e ≥ 32 then s.fail p 0x1001
  else s.retireLane (stationOf i) (saUnit e) 5 [] (some p)

/-- TS00's image is placed on a station again (R198). -/
def State.restoreBase (s : State) (st : Nat) : State :=
  match (s.slot 0).img with
  | none => s
  | some im =>
    match s.retained im with
    | none => s
    | some bs =>
      match s.placeOn bs 0 st with
      | none => s
      | some pl =>
        let left : Image := { im with places := im.places ++ [pl] }
        ((((State.takePlace 0 s pl).setSlot 0 { s.slot 0 with img := some left }).platformFree st).fset F.ttbSlotMaskMask 0
          (maskOf left.stations)).expressAgain

/-- A station returns to service (R559). -/
def State.returnStation (s : State) (st : Nat) : State :=
  let s1 := ((s.fset F.stnStateFenced st 0).fset F.stnStateInService st 1).fset F.stnStateCause st 0
  (((s1.restoreBase st).readyJobs (List.range 256)).reissue).stitchKick

/-- Action 2: a station's return. Whether its self-test passes is a free value. -/
def State.actReturn (p : Nat) (e : List Byte) (s : State) : State :=
  let st := stationOf (saIsland e)
  if !spareFields e ∨ islandClass (saIsland e) ≠ 0 ∨ !s.fbit F.stnStateFenced st then s.fail p 0x1001
  else if !(([1, 3, 4, 5] : List Nat).contains (s.fget F.stnStateCause st)) then s.finish p 0x2006 0
  else
    let pass := s.drawBool
    if pass.1 then (pass.2.returnStation st).finish p 0 0 else pass.2.finish p 0x2006 0

/-- The memories of an island an injection can name. -/
def injectable (i unit place : Nat) : Bool :=
  if islandClass i = 3 then unit < 32 && place < 36
  else (if islandClass i = 0 then unit < 36 else if islandClass i = 1 then unit < 16 else unit = 0) && place < 72

/-- Action 3: an error injection. -/
def State.actInject (p : Nat) (e : List Byte) (s : State) : State :=
  let kind := byteField e 24 1
  let place := byteField e 25 1
  if !spareFields e ∨ kind > 2 ∨ !injectable (saIsland e) (saUnit e) place then s.fail p 0x1001
  else
    let x : Injected := { island := saIsland e, unit := saUnit e, word := byteField e 16 8, kind := kind, place := place }
    (s.setEcc { s.ecc with injected := s.ecc.injected ++ [x] }).finish p 0 0

/-- SPARE_ACT_DRAM_ROW_REPAIR (R556, R559); an entry with a reserved ACTION is refused here. -/
def execSpareActDramRowRepair (q : QueueId) (s : State) : Host.Outcome State Fault Refusal :=
  .next (s.onEntry q (isSpareAct 0) (State.adminOnly State.actRepair))

/-- SPARE_ACT_LANE_ROW_RETIRE (R558, R559). -/
def execSpareActLaneRowRetire (q : QueueId) (s : State) : Host.Outcome State Fault Refusal :=
  .next (s.onEntry q (isSpareAct 1) (State.adminOnly State.actRetire))

/-- SPARE_ACT_STATION_RETURN (R559). -/
def execSpareActStationReturn (q : QueueId) (s : State) : Host.Outcome State Fault Refusal :=
  .next (s.onEntry q (isSpareAct 2) (State.adminOnly State.actReturn))

/-- SPARE_ACT_ERROR_INJECTION (R559). -/
def execSpareActErrorInjection (q : QueueId) (s : State) : Host.Outcome State Fault Refusal :=
  .next (s.onEntry q (isSpareAct 3) (State.adminOnly State.actInject))

end Sys2Proof.Machine
end

