-- ==== Sys2Proof/Machine/SearchCore.lean ====
section
/-! DEFINITION. Vector indexes (09_vector_search.md): the walker's arithmetic (R320), ids, lists and states (R315 to R317), and the
siding's entries (R321, R322). -/

namespace Sys2Proof.Machine

/-- One step of a distance: the squared difference, or the product. -/
def distTerm (metric : Nat) (x y : Fp) : Fp :=
  if metric = 0 then (let d := fpAdd x (fpNeg y); fpMul d d) else fpMul x y

/-- A distance accumulated in a format in ascending order, each operation rounded (R320). -/
def distIn (f : FpFmt) (metric : Nat) (xs ys : List Fp) : Nat :=
  (xs.zip ys).foldl (fun acc p => fpRound f false (fpAdd (fpOf f acc) (fpOf f (fpRound f false (distTerm metric p.1 p.2))))) 0

/-- The exact distance: FP64, rounded once to FP32. -/
def exactDist (metric fmt : Nat) (q v : List Byte) (dims : Nat) : Nat :=
  fpRound fp32 false (fpOf fp64 (distIn fp64 metric ((List.range dims).map (elemOf fmt q)) ((List.range dims).map (elemOf fmt v))))

/-- `a` is better than `b`. -/
def betterThan (metric a b : Nat) : Bool :=
  if metric = 0 then fpLt (fpOf fp32 a) (fpOf fp32 b) else fpLt (fpOf fp32 b) (fpOf fp32 a)

/-- `a` ranks before `b`: better, or equal with the smaller id. -/
def ranksBefore (metric : Nat) (a b : Nat × Nat) : Bool :=
  betterThan metric a.1 b.1 || (!betterThan metric b.1 a.1 && a.2 < b.2)

/-- Insert into a ranked list. -/
def rankIns {α : Type} (before : α → α → Bool) (e : α) : List α → List α
  | [] => [e]
  | x :: xs => if before e x then e :: x :: xs else x :: rankIns before e xs

/-- The codebook of a root, and centroid `c` of subspace `k` in one, as D values. -/
def State.bookOf (s : State) (r : Root) : List Byte := s.depotRead (r.base 1) (512 * r.dims)
def centroidIn (r : Root) (book : List Byte) (k c : Nat) : List Fp :=
  let d := r.dims / max 1 r.code
  (List.range d).map (fun i => fpOf bf16 (byteField book ((256 * k + c) * d * 2 + 2 * i) 2))

/-- A query's values of subspace `k`. -/
def subspace (r : Root) (q : List Fp) (k : Nat) : List Fp := (q.drop (k * (r.dims / max 1 r.code))).take (r.dims / max 1 r.code)

/-- An entry of the lookup table: FP32, rounded to BF16; and the table, 256 entries for each subspace (R320). -/
def lutEntry (r : Root) (book : List Byte) (q : List Fp) (k c : Nat) : Nat :=
  fpRound bf16 false (fpOf fp32 (distIn fp32 r.metric (subspace r q k) (centroidIn r book k c)))
def lutOf (r : Root) (book : List Byte) (q : List Fp) : List Nat :=
  (List.range (256 * r.code)).map (fun i => lutEntry r book q (i / 256) (i % 256))

/-- The code distance of a code: the sum of its entries in ascending order of subspaces, each addition in FP32. -/
def codeDistBy (entry : Nat → Nat → Nat) (code : List Byte) : Nat :=
  code.zipIdx.foldl (fun acc x => fpRound fp32 false (fpAdd (fpOf fp32 acc) (fpOf bf16 (entry x.2 x.1.toNat)))) 0
def codeDist (lut : List Nat) (code : List Byte) : Nat := codeDistBy (fun k c => lut.getD (256 * k + c) 0) code

/-- A code's centroids as the values of a vector (R344). -/
def codeValues (r : Root) (book : List Byte) (code : List Byte) : List Fp :=
  code.zipIdx.flatMap (fun x => centroidIn r book x.2 x.1.toNat)

/-- The values of a vector's bytes. -/
def vecValues (r : Root) (v : List Byte) : List Fp := (List.range r.dims).map (elemOf r.fmt v)

/-- The code of a vector: each subspace's nearest centroid by squared L2, the lower number on a tie (R338). -/
def State.encode (s : State) (r : Root) (v : List Byte) : List Byte :=
  let q := vecValues r v
  let book := s.bookOf r
  (List.range r.code).map (fun k =>
    let ds := (List.range 256).map (fun c => distIn fp32 0 (subspace r q k) (centroidIn r book k c))
    BitVec.ofNat 8 ((List.range 256).foldl (fun b c => if betterThan 0 (ds.getD c 0) (ds.getD b 0) then c else b) 0))

/-! ## Ids, lists and states (R315 to R317) -/

/-- The state of an id: 3 reads as FREE. -/
def State.idState (s : State) (r : Root) (i : Nat) : Nat :=
  let v := bitsOf (s.depotNat (r.stateAt i) 1) (2 * (i % 4)) 2
  if v = 3 then 0 else v

/-- An id is LIVE: its state says so and it has been assigned (R317). -/
def State.liveId (s : State) (r : Root) (i : Nat) : Bool := i < r.idHigh && s.idState r i = 1

def State.setIdState (s : State) (r : Root) (i v : Nat) : State :=
  s.storeNat (r.stateAt i) 1 (withBits (s.depotNat (r.stateAt i) 1) (2 * (i % 4)) 2 v)

/-- The ids of a list, unused entries left out. -/
def listIds (r : Root) (b : List Byte) : List Nat :=
  ((List.range r.degree).map (fun i => byteField b (5 * i) 5)).filter (· != 0xFFFFFFFFFF)

def State.readList (s : State) (r : Root) (level i : Nat) : List Nat := listIds r (s.depotRead (r.listAt level i) (5 * r.degree))

/-- Write a list: its ids, then unused entries. -/
def State.writeList (s : State) (r : Root) (level i : Nat) (ids : List Nat) : State :=
  s.store (r.listAt level i) ((List.range r.degree).flatMap (fun k => leBytes 5 (ids.getD k 0xFFFFFFFFFF)))

/-- The code of an id. -/
def State.codeOf (s : State) (r : Root) (i : Nat) : List Byte := s.depotRead (r.codeAt i) r.code

/-- An id belongs to a level (R316). -/
def ofLevel (level i : Nat) : Bool := i % 32 ^ level = 0

/-! ## The siding (R321 to R323) -/

def State.sidingId (s : State) (r : Root) (p : Nat) : Nat := s.depotNat (r.sidAt p) 8

/-- The losing rescale entry (R322). -/
def losing (metric : Nat) : Nat := if metric = 0 then 0x7F80 * 65536 else 0xFF80 * 65536

/-- A live entry's rescale entry (R322): |v|² is exact and rounded once to BF16. -/
def scaleOf (r : Root) (v : List Byte) : Nat :=
  if r.metric = 0 then
    0xC000 + fpRound bf16 false ((vecValues r v).foldl (fun acc x => fpAdd acc (fpMul x x)) (.fin false 0 0)) * 65536
  else 0x3F80

/-- The vector at a position, from its column. -/
def State.sidingVec (s : State) (r : Root) (p : Nat) : List Byte :=
  (List.range r.tiles).flatMap (fun t => s.depotRead (r.colAt p t) (r.tileBytes / 32))

/-- Write a vector's column. -/
def State.putColumn (s : State) (r : Root) (p : Nat) (v : List Byte) : State :=
  (List.range r.tiles).foldl (fun (s : State) t =>
    let n := r.tileBytes / 32
    s.store (r.colAt p t) ((v.drop (n * t)).take n)) s

end Sys2Proof.Machine
end

