-- ==== Sys2Proof/Machine/Search.lean ====
section
/-! DEFINITION. SEARCH (R325 to R337, R347 to R349): contexts, the walk, widening, the re-rank, the siding batches and the result
packet. -/

namespace Sys2Proof.Machine

/-! ## The command (R347, R348) -/

def seRoot (e : List Byte) : Nat := byteField e 8 8
def seQuery (e : List Byte) : Nat := byteField e 16 8
def seResult (e : List Byte) : Nat := byteField e 24 8
def seFilter (e : List Byte) : Nat := byteField e 32 8
def seBits (e : List Byte) : Nat := byteField e 40 8
def seK (e : List Byte) : Nat := byteField e 52 2
def seBeam (e : List Byte) : Nat := byteField e 54 2
def seRerank (e : List Byte) : Nat := byteField e 56 2
def seWiden (e : List Byte) : Nat := byteField e 58 1
def sePrefetch (e : List Byte) : Nat := byteField e 59 1
def seJob (e : List Byte) : Nat := byteField e 60 1
def seDepot (e : List Byte) : Bool := bitOf (byteField e 61 1) 0
def seNoSiding (e : List Byte) : Bool := bitOf (byteField e 61 1) 1
def seFiltered (e : List Byte) : Bool := bitOf (byteField e 61 1) 2

/-- P and RR (R326). -/
def seP (e : List Byte) : Nat := if sePrefetch e = 0 then 4 else sePrefetch e
def seRR (e : List Byte) : Nat := if seRerank e = 0 then min 256 (max (2 * seK e) 32) else seRerank e

/-- The SEARCHK record of the job a search names. -/
def State.searchk (s : State) (j : Nat) : List Byte := ((s.jobImage j).map (fun im => im.group 10)).getD []

/-- A root's address: a multiple of 65,536 in the depot range. -/
def rootAddrOk (a : Nat) : Bool := a % 65536 = 0 && inDepot a 4096

/-- The fields of a SEARCH are in range; WIDEN against WIDEN_MAX is tested apart. -/
def searchFields (e : List Byte) : Bool :=
  sqFlags e = 0 && byteField e 61 1 < 8 && zeroAt e 62 2 && rootAddrOk (seRoot e) && (seDepot e || seQuery e % 64 = 0) &&
    (!seDepot e || inDepot (seQuery e) 1) && seResult e % 64 = 0 && 1 ≤ seK e && seK e ≤ 256 &&
    (seBeam e = 0 || (16 ≤ seBeam e && seBeam e ≤ 1024)) && (seRerank e = 0 || (seK e ≤ seRerank e && seRerank e ≤ 256)) &&
    sePrefetch e ≤ 16 &&
    (if seFiltered e then 1 ≤ seBits e && seBits e < 2 ^ 40 && seFilter e % 64 = 0 && inDepot (seFilter e) (ceilDiv (seBits e) 8)
     else seBits e = 0)

/-- The job of a search is J000, or bound to a slot whose image has a SEARCHK record. -/
def State.searchJobOk (s : State) (j : Nat) : Bool := j = 0 || (s.jobBound j && s.searchk j != [])

/-- A SEARCH names a media address. -/
def searchNamesMedia (e : List Byte) : Bool :=
  seRoot e < userEnd || (seDepot e && seQuery e < userEnd) || (seFiltered e && seFilter e < userEnd)

/-- Join a queue of waiting commands: class-0 commands first, then in the order taken (R325, R354). -/
def State.joinWait (s : State) (p : Nat) (ws : List Nat) : List Nat :=
  if (s.cmd p).cls = 0 then ws.filter (fun w => (s.cmd w).cls = 0) ++ [p] ++ ws.filter (fun w => (s.cmd w).cls != 0) else ws ++ [p]

/-- A SEARCH taken: its checks, then it waits for a context. -/
def State.searchTaken (p : Nat) (e : List Byte) (s : State) : State :=
  let j := seJob e
  if !searchFields e ∨ !s.searchJobOk j then s.fail p 0x1001
  else if s.namesKept (seRoot e) 4096 ∨ (seDepot e ∧ s.namesKept (seQuery e) 2048) ∨ (seFiltered e ∧ s.namesKept (seFilter e) (ceilDiv (seBits e) 8)) then
    s.fail p 0x1001
  else if j = 0 ∧ !s.jobBound 0 then s.fail p 0x400E
  else if 2 ≤ seWiden e ∧ skWiden (s.searchk j) < seWiden e then s.fail p 0x1001
  else if searchNamesMedia e ∧ s.mediaBusy ≠ 0 then s.fail p s.mediaBusy
  else s.setSearch { s.search with waiting := s.joinWait p s.search.waiting }

/-! ## Contexts (R325, R327) -/

/-- The stations whose walkers a job's searches use. -/
def State.searchStations (s : State) (j : Nat) : List Nat :=
  if j = 0 then s.stationsUp else (s.jobStations j).filter (fun st => s.stnUp st)

/-- Busy contexts of a station, and its lowest free one. -/
def State.busyWalkers (s : State) (st : Nat) : Nat := ((s.stn st).walkers.filter (fun e => e.2.live)).length
def State.freeWalker (s : State) (st : Nat) : Option Nat := (List.range 16).find? (fun c => !(s.walker st c).live)

/-- The station with the fewest busy contexts, the lowest-numbered on a tie; none where all are busy. -/
def State.searchStation (s : State) (j : Nat) : Option Nat :=
  (s.searchStations j).foldl (fun (b : Option Nat) st =>
    if s.busyWalkers st ≥ 16 then b
    else match b with
      | none => some st
      | some x => if s.busyWalkers st < s.busyWalkers x then some st else some x) none

/-- What the root, its regions and the job refuse (R314, R335, R348, R581); 0 for nothing. -/
def State.rootStatus (s : State) (j : Nat) (r : Root) : Nat :=
  let k := s.searchk j
  let st := s.readStatus r.at_ 192
  let inBuf := fun (b : Nat) (n : Nat) => (let x := (s.job j).bufs.getD b (0, 0); let a := r.base n
    x.1 ≤ a && a + r.sizes.getD n 0 ≤ x.1 + x.2 : Bool)
  if st ≠ 0 then st
  else if !r.ok then 0x1004
  else if r.inMedia ∧ s.mediaBusy ≠ 0 then s.mediaBusy
  else if j = 0 then 0
  else if skMetric k ≠ r.metric ∨ skFmt k ≠ r.fmt ∨ skDims k ≠ r.dims ∨ skCode k ≠ r.code ∨ skDegree k ≠ r.degree then 0x1004
  else if inBuf (byteField k 13 1) 0 ∧ inBuf (byteField k 13 1) 1 ∧ inBuf (byteField k 14 1) 2 ∧ inBuf (byteField k 14 1) 3 ∧
      inBuf (byteField k 14 1) 5 ∧ inBuf (byteField k 14 1) 6 ∧ inBuf (byteField k 15 1) 4 ∧ inBuf (byteField k 16 1) 7 then 0
  else 0x1001

/-! ## Reads from flash on behalf of a walker (R331) -/

def State.walkerReads (s : State) (lba : Nat) : List (Nat × FRead) :=
  s.flash.reads.filter (fun e => e.2.live && e.2.why = .walker && e.2.lba = lba)

/-- The sub-blocks that some bytes lie in. -/
def lbasOf (a n : Nat) : List Nat := (List.range ((a + n - 1) / 4096 - a / 4096 + 1)).map (a / 4096 + ·)

/-- Request bytes: a page that is not resident is read from flash, sub-block by sub-block, with no promotion. -/
def State.askBytes (s : State) (a n : Nat) : State :=
  let s1 := s.tierLookup (pageOf a)
  let x := s1.page (pageOf a)
  if x.resident ∨ !isMediaPage (pageOf a) then s1
  else s1.queueReads .walker ((lbasOf a n).filter (fun b => x.mapped.testBit (b % 16) && !s1.staged b))

/-- Bytes asked for have come: every sub-block is there, or its flash read has ended. -/
def State.cameBytes (s : State) (a n : Nat) : Bool :=
  !s.shareWaits (pageOf a) && ((s.page (pageOf a)).resident ||
    (lbasOf a n).all (fun b => (s.walkerReads b).isEmpty || (s.walkerReads b).any (fun r => r.2.done)))

/-- The generation that a read of bytes records when it is asked for: a frame is read at once, unless a write is in progress
(R267; DESIGN CHOICE, log entry 34); flash answers later. -/
def State.askGen (s : State) (a : Nat) : Option Nat :=
  let g := s.genOf (pageOf a)
  if ((s.page (pageOf a)).resident ∨ !isMediaPage (pageOf a)) ∧ g % 2 = 0 then some g else none

/-- The generation that a read which has come was served at; none while it is odd. -/
def State.servedGen (s : State) (x : WalkReq) (a n : Nat) : Option Nat :=
  match x.gen, ((lbasOf a n).filterMap (fun b => (s.walkerReads b).head?)).head? with
  | some g, _ => some g
  | none, some r => if r.2.gen % 2 = 0 then some r.2.gen else if s.genOf (pageOf a) % 2 = 0 then some (s.genOf (pageOf a)) else none
  | none, none => if s.genOf (pageOf a) % 2 = 0 then some (s.genOf (pageOf a)) else none

/-- Take the bytes: the state without their flash reads, the number of reads, and whether they can be used. -/
def State.takeBytes (s : State) (a n : Nat) : State × Nat × Bool :=
  let rs := (lbasOf a n).filterMap (fun b => (s.walkerReads b).head?)
  let s1 := s.setFlash { s.flash with reads := s.flash.reads.filter (fun r => !rs.contains r) }
  (s1, (rs.filter (fun r => r.2.done)).length, !rs.any (fun r => r.2.failed) && s1.readStatus a n = 0)

/-- The confirm of a read of a context failed: it is read again; after 8 reissues new writes to its page are held (R268, R331). -/
def State.readAgain (s : State) (st c : Nat) (x : WalkReq) (a n : Nat) : State × WalkReq :=
  let s1 := ((s.takeBytes a n).1.bump F.depTierCtrCount 8 1).askBytes a n
  let s2 := if x.reissues + 1 ≥ 8 then s1.holdWrites (copyIdent st (64 + c) x.id) (pageOf a) else s1
  (s2, { x with gen := s2.askGen a, reissues := x.reissues + 1 })

/-! ## The walk (R329 to R334) -/

/-- Count on DEP.SRCH_CTR. -/
def State.srch (s : State) (i n : Nat) : State := s.bump F.depSrchCtrCount i n

/-- An id is allowed (R332): its bit is read through the die's depot cache; none where the page of a line that missed is not there
yet. -/
def State.allowedId (s : State) (st : Nat) (e : List Byte) (n : Nat) : Option Bool × State :=
  if !seFiltered e then (some true, s)
  else if n ≥ seBits e then (some false, s)
  else
    let a := seFilter e + n / 8
    let r := s.cacheLine (st / 16) a
    let s1 := if r.1 then r.2 else r.2.usePage a
    if !r.1 ∧ !s1.pageReady (pageOf a) then (none, s1)
    else if s1.readStatus a 1 ≠ 0 then (some false, s1.srch 8 1)
    else (some ((s1.depotNat a 1).testBit (n % 8)), s1)

/-- An index fault: counted, and logged once for a command (R333). -/
def State.indexFault (s : State) (r : Root) (w : Walker) (list_ n : Nat) : State × Walker :=
  let s1 := s.srch 7 1
  if w.faulted then (s1, w)
  else (s1.event 17 0x0301 0 (r.at_ / 65536 % 2 ^ 36 + w.level * 2 ^ 36 + list_ % 2 ^ 25 * 2 ^ 39)
    (n % 2 ^ 40 + list_ / 2 ^ 25 % 2 ^ 15 * 2 ^ 40), { w with faulted := true })

/-- The two filter bits of an id. -/
def filterBits (n : Nat) : List Nat := [Config.filterHash 0 n % 1048576, Config.filterHash 1 n % 1048576]

/-- A candidate before another in a beam. -/
def beamBefore (metric : Nat) (a b : Nat × Nat × Bool) : Bool := ranksBefore metric (a.1, a.2.1) (b.1, b.2.1)

/-- A walk that meets a page which is not there waits for it: what it does meanwhile is not kept. -/
def Walker.lacks (w : Walker) (a : Nat) : Walker := { w with need := w.need ++ [pageOf a] }

/-- A neighbour at distance `d` enters the beam, and at level 0 a LIVE one that the filter allows is kept for the answer; `w` is the
walker to go back to where the filter's page is not there. -/
def letIn (st : Nat) (e : List Byte) (r : Root) (s : State) (w w1 : Walker) (d n : Nat) : State × Walker :=
  let w2 := { w1 with beam := (rankIns (beamBefore r.metric) (d, n, false) w1.beam).take w1.width }
  if w2.level ≠ 0 ∨ s.idState r n ≠ 1 then (s, w2)
  else
    match s.allowedId st e n with
    | (none, s3) => (s3, w.lacks (seFilter e + n / 8))
    | (some true, s3) => (s3, { w2 with allowed := (rankIns (ranksBefore r.metric) (d, n) w2.allowed).take (seRR e) })
    | (some false, s3) => (s3, w2)

/-- One entry of a list that is being expanded. A walk that can `wait` does so for pages that are not there (R242). -/
def visit (wait : Bool) (st : Nat) (e : List Byte) (r : Root) (list_ : Nat) (x : State × Walker) (n : Nat) : State × Walker :=
  let s := x.1
  let w := x.2
  if (filterBits n).all (w.visited.contains ·) then x
  else
    let w1 := { w with visited := (filterBits n ++ w.visited).dedup }
    let s1 := s.usePage (r.codeAt n)
    if wait ∧ !s1.pageReady (pageOf (r.codeAt n)) then (s1, w.lacks (r.codeAt n))
    else if inDepot (r.codeAt n) r.code ∧ s1.readStatus (r.codeAt n) r.code ≠ 0 then (s1.srch 8 1, w1)
    else
      let code := s1.depotOrFree (r.codeAt n) r.code
      let d := codeDist w.lut code.1
      let worst := (w1.beam.getD (w1.width - 1) (0, 0, false)).1
      if w1.width ≤ w1.beam.length ∧ !betterThan r.metric d worst then (code.2, w1)
      else if n ≥ w1.idHigh then code.2.indexFault r w1 list_ n
      else
        let s2 := code.2.usePage (r.stateAt n)
        if wait ∧ !s2.pageReady (pageOf (r.stateAt n)) then (s2, w.lacks (r.stateAt n))
        else if s2.readStatus (r.stateAt n) 1 ≠ 0 then (s2.srch 8 1, w1)
        else if s2.idState r n = 0 then s2.indexFault r w1 list_ n
        else letIn st e r s2 w w1 d n

/-- Expand a candidate whose list has come: a list that could not be read has no neighbours (R335). -/
def expand (wait : Bool) (st : Nat) (e : List Byte) (r : Root) (x : State × Walker) (c : Nat) : State × Walker :=
  let w := x.2
  let ids := ((w.here.find? (fun h => h.1 = c)).bind (·.2)).getD []
  let w1 := { w with
    expansions := w.expansions + 1, used := (c :: w.used).dedup
    beam := w.beam.map (fun b => if b.2.1 = c then (b.1, c, true) else b) }
  ids.foldl (visit wait st e r c) (if w.level = 0 then x.1.srch 3 1 else x.1, w1)

/-- The best unexpanded candidates. -/
def Walker.best (w : Walker) (p : Nat) : List Nat := (((w.beam.filter (fun b => !b.2.2)).map (·.2.1)).dedup).take p

/-- The 256 B lines of a list. -/
def Root.listLines (r : Root) (level i : Nat) : List Nat :=
  let a := r.listAt level i
  (List.range ((a + r.listBytes - 1) / 256 - a / 256 + 1)).map (fun k => 256 * (a / 256 + k))

/-- A list of a pinned level is read through the die's depot cache, line by line, and its lines are pinned there: whether every line
was held (R248, R312). -/
def State.pinnedList (s : State) (d : Nat) (r : Root) (level i : Nat) : Bool × State :=
  let x := (r.listLines level i).foldl (fun (x : Bool × State) a =>
    let y := x.2.cacheLine d a
    (x.1 && y.1, y.2)) (true, s)
  let held := (r.listLines level i).filter (fun a => (Tbl.look [] x.2.depot.lines d).contains (a / 256))
  let pins := (Tbl.look [] x.2.depot.pinnedLines d ++ held.map (· / 256)).dedup
  (x.1, x.2.setDepot { x.2.depot with pinnedLines := Tbl.put [] x.2.depot.pinnedLines d pins })

/-- Request the list of a candidate: one of a pinned level whose lines the die's depot cache holds is there at once (R312, R331). -/
def askList (st : Nat) (r : Root) (x : State × Walker) (i : Nat) : State × Walker :=
  let w := x.2
  let a := r.listAt w.level i
  let c := if r.pin ≤ w.level ∧ w.level < 7 then x.1.pinnedList (st / 16) r w.level i else (false, x.1)
  if c.1 then (c.2, { w with here := w.here ++ [(i, if c.2.readStatus a r.listBytes = 0 then some (c.2.readList r w.level i) else none)] })
  else
    let s1 := c.2.askBytes a r.listBytes
    (s1, { w with asked := w.asked ++ [{ id := i, gen := s1.askGen a }] })

/-- Request the lists of some candidates not yet requested. -/
def State.askLists (s : State) (st : Nat) (r : Root) (w : Walker) (ids : List Nat) : State × Walker :=
  (ids.filter (fun i => !w.asked.any (fun q => q.id = i) && !w.here.any (fun h => h.1 = i))).foldl (askList st r) (s, w)

/-- Start the walk of a level from its candidates. -/
def Walker.enter (w : Walker) (level width budget : Nat) (beam : List (Nat × Nat × Bool)) : Walker :=
  { w with level := level, width := width, budget := budget, expansions := 0, visited := [], asked := [], here := [], used := []
           beam := beam.map (fun b => (b.1, b.2.1, false)) }

/-- The end of a level: lists read and never expanded are prefetches unused, and reads still in flight are let go (R331). -/
def State.leaveLevel (s : State) (r : Root) (w : Walker) : State :=
  let s1 := s.srch 5 ((w.here.filter (fun h => !w.used.contains h.1)).length + w.asked.length)
  w.asked.foldl (fun (s : State) x => (s.takeBytes (r.listAt w.level x.id) r.listBytes).1) s1

/-- The best RR of the allowed list go to re-rank: their vectors are requested. -/
def State.beginRerank (s : State) (r : Root) (w : Walker) : State × Walker :=
  w.allowed.foldl (fun (x : State × Walker) y =>
    let s1 := x.1.askBytes (r.vecAt y.2) r.vec
    (s1, { x.2 with rerank := x.2.rerank ++ [{ id := y.2, gen := s1.askGen (r.vecAt y.2) }] })) (s, { w with walked := true })

/-- Pages are promoted for a walk that waits for them. -/
def State.fetchPages (s : State) (ps : List Nat) : State := ps.foldl (fun (s : State) p => s.promote p) s

/-- Walk on as far as the lists that have come allow (R328, R329, R337): candidates whose expansion would meet a page that is not there
wait for it (R242). The fuel bounds the rounds. -/
def State.walkOn (s : State) (st c : Nat) (e : List Byte) (r : Root) : Nat → State
  | 0 => s
  | fuel + 1 =>
    let w := { s.walker st c with need := [] }
    let p := if w.level = 0 then seP e else 4
    let best := w.best p
    if w.walked then s
    else if w.expansions < w.budget ∧ best ≠ [] then
      let a := s.askLists st r w best
      let ready := best.filter (fun i => a.2.here.any (fun h => h.1 = i))
      if ready = [] then a.1.setWalker st c a.2
      else
        let x := ready.foldl (expand true st e r) a
        if x.2.need = [] then (x.1.setWalker st c x.2).walkOn st c e r fuel
        else (a.1.fetchPages x.2.need).setWalker st c { a.2 with need := x.2.need.dedup }
    else if w.level = 1 then
      ((s.leaveLevel r w).setWalker st c (w.enter 0 w.width0 w.effort (w.beam.take 8))).walkOn st c e r fuel
    else if w.level ≠ 0 then
      ((s.leaveLevel r w).setWalker st c (w.enter (w.level - 1) 8 64 (w.beam.take 8))).walkOn st c e r fuel
    else if w.allowed.length < seK e ∧ 2 ≤ seWiden e ∧ !w.widened then
      ((s.srch 2 1).setWalker st c { w with widened := true, width := min 1024 (w.width0 * seWiden e)
                                            budget := min 4096 (w.effort * seWiden e) }).walkOn st c e r fuel
    else
      let b := (s.leaveLevel r w).beginRerank r w
      b.1.setWalker st c b.2

/-! ## The merge and the packet (R336, R349) -/

/-- The result packet's body and its length word. -/
def searchPacket (status expansions flash siding widened : Nat) (rs : List (Nat × Nat × Bool)) : List Byte × List Byte :=
  (leBytes 2 rs.length ++ leBytes 2 status ++ leBytes 4 expansions ++ leBytes 2 (min 0xFFFF flash) ++ leBytes 1 siding ++
    leBytes 1 widened ++ rs.flatMap (fun x => leBytes 4 x.1 ++ leBytes 4 (bit x.2.2) ++ leBytes 8 x.2.1),
   leBytes 4 (16 + 16 * rs.length))

/-- The depot pages that the siding entries of a search's list are scored from: their ids, their states and their columns. -/
def State.sidingPages (s : State) (r : Root) (w : Walker) : List Nat :=
  w.siding.flatMap (fun y =>
    pageOf (r.sidAt y.2) :: pageOf (r.stateAt (s.sidingId r y.2)) ::
      rangePages ((List.range r.tiles).map (fun t => (r.colAt y.2 t, r.tileBytes / 32))))

/-- Siding entries that can become results, with their exact distances (R336); the pages that it meets and that are not there. -/
def State.sidingScored (s : State) (st : Nat) (e : List Byte) (r0 : Root) (w : Walker) :
    State × List (Nat × Nat × Bool) × List Nat :=
  let r := { r0 with sFirst := w.sFirst, sCount := w.sCount, idHigh := w.idHigh }
  let liveP := r.livePositions
  w.siding.foldl (fun (x : State × List (Nat × Nat × Bool) × List Nat) (y : Nat × Nat) =>
    let p := y.2
    let id := x.1.sidingId r p
    let inf : Bool := match fpOf fp32 y.1 with
      | .inf _ => true
      | _ => false
    if inf ∨ !liveP.contains p ∨ !x.1.liveId r id then x
    else
      match x.1.allowedId st e id with
      | (none, s1) => (s1, x.2.1, x.2.2 ++ [pageOf (seFilter e + id / 8)])
      | (some false, s1) => (s1, x.2)
      | (some true, s1) =>
        if (List.range r.tiles).any (fun t => s1.readStatus (r.colAt p t) (r.tileBytes / 32) != 0) then (s1.srch 8 1, x.2)
        else (s1, x.2.1 ++ [(exactDist r.metric r.fmt w.query (s1.sidingVec r p) r.dims, id, true)], x.2.2)) (s, [], [])

/-- The best K of what was scored, each id once. -/
def bestOf (metric k : Nat) (xs : List (Nat × Nat × Bool)) : List (Nat × Nat × Bool) :=
  let sorted := xs.foldl (fun l x => rankIns (fun a b => ranksBefore metric (a.1, a.2.1) (b.1, b.2.1)) x l) []
  (sorted.foldl (fun (l : List (Nat × Nat × Bool)) x => if l.any (fun y => y.2.1 = x.2.1) then l else l ++ [x]) []).take k

/-- Once the re-rank is over and the siding list has come, the search merges, writes its packet and ends; it waits for the pages of its
siding entries (R242). -/
def State.searchEnds (s : State) (st c : Nat) : State :=
  let w := s.walker st c
  let e := (s.cmd w.place).entry
  if !w.live ∨ !w.walked ∨ w.rerank ≠ [] ∨ w.sidingDue ∨ (s.cmd w.place).ready then s
  else
    let r := s.readRoot w.root
    let away := (s.sidingPages r w).filter (fun p => !s.pageReady p)
    let sid := s.sidingScored st e r w
    let need := (away ++ sid.2.2).dedup
    if need ≠ [] then (s.fetchPages need).setWalker st c { w with need := need }
    else
      let rs := bestOf r.metric (seK e) (w.scored ++ sid.2.1)
      let status := if rs.length < seK e then 1 else 0
      let x := searchPacket status w.expansions w.flash (rs.filter (·.2.2)).length (if w.widened then seWiden e else 1) rs
      let s1 := (((sid.1.srch 0 1).srch 1 status).sendData (seResult e) (zeros 4) false).sendData (seResult e + 4) x.1 false
      (s1.sendData (seResult e) x.2 false).finish w.place status rs.length

/-! ## Siding batches (R324) -/

/-- A batch closes: it becomes a run of the search's job. -/
def State.closeSiding (s : State) (b : SidingBatch) : State :=
  let s1 := s.setSearch { s.search with batches := s.search.batches.filter (· != b) }
  let r := s1.readRoot b.root
  if s1.refusesRun b.job then b.places.foldl (fun (s : State) p => if s.open p then s.finish p 0x1001 0 else s) s1
  else s1.requestRun b.job (.siding b.root r.sFirst r.sCount b.places) false

/-- A search joins its root's siding batch; the 64th closes it. The batch is a run of the job of the search that opened it (DEDUCED, log
entry 34). -/
def State.joinSiding (s : State) (root j p : Nat) : State :=
  match s.search.batches.find? (fun b => b.root = root) with
  | none => s.setSearch { s.search with batches := s.search.batches ++ [{ root := root, job := j, places := [p] }] }
  | some b =>
    let b1 := { b with places := b.places ++ [p] }
    let s1 := s.setSearch { s.search with batches := s.search.batches.map (fun x => if x = b then b1 else x) }
    if b1.places.length ≥ 64 then s1.closeSiding b1 else s1

/-- The siding run has ended: each search has its list. -/
def State.sidingDone (s : State) (places : List Nat) (lists : List (List (Nat × Nat))) : State :=
  places.zipIdx.foldl (fun (s : State) x =>
    match s.walkerOf x.1 with
    | none => s
    | some (st, c) =>
      let w := s.walker st c
      (s.setWalker st c { w with sidingDue := false, siding := lists.getD x.2 [] }).searchEnds st c)
    (s.srch 9 1)

/-! ## The start of a query (R319, R328) -/

/-- The codebook store of a station's walker. -/
def State.codebook (s : State) (st : Nat) : Codebook := Tbl.look {} s.search.codebooks st

/-- The pages a query needs before it starts: those of its bytes in the depot, of the codebook where the station holds another, and of
the code of id 0. -/
def State.startPages (s : State) (st : Nat) (w : Walker) (e : List Byte) (r : Root) : List Nat :=
  rangePages ((if seDepot e then [(seQuery e, r.vec)] else []) ++
    (if (s.codebook st).root = w.root + 1 then [] else [(r.base 1, 512 * r.dims)]) ++
    (if w.graph = 0 then [] else [(r.codeAt 0, r.code)]))

/-- The query has been read: the codebook is loaded if the station holds another, the lookup table is built, the search joins a siding
batch, and the descent begins at id 0 (R319, R328). -/
def State.startQuery (s : State) (st c : Nat) (query : List Byte) : State :=
  let w := s.walker st c
  let p := w.place
  let e := (s.cmd p).entry
  let r := s.readRoot w.root
  let held : Bool := (s.codebook st).root = w.root + 1
  let bad := if held then 0 else s.rangeStatus (r.base 1) (512 * r.dims)
  if bad ≠ 0 then s.finish p bad 0
  else
    let s1 := if held then s else s.setSearch { s.search with
      codebooks := Tbl.put {} s.search.codebooks st { root := w.root + 1, bytes := s.bookOf r } }
    let side : Bool := !seNoSiding e && w.sCount != 0
    let lut := lutOf r (s1.codebook st).bytes (vecValues r query)
    let w1 := { w with query := query, lut := lut, started := true, sidingDue := side, need := [] }
    let s2 := s1.bump F.stnWalkStarted st 1
    let readable : Bool := s2.readStatus (r.codeAt 0) r.code = 0
    let beam := if readable then [(codeDist lut (s2.codeOf r 0), 0, false)] else []
    let s3 := if w.graph = 0 ∨ readable then s2 else s2.srch 8 1
    let s4 := s3.setWalker st c (if w.graph = 0 then { w1 with walked := true } else w1.enter 6 8 64 beam)
    let s5 := if side then s4.joinSiding w.root (seJob e) p else s4
    (s5.walkOn st c e r 16384).searchEnds st c

/-- A query that has not started does so once its bytes and the pages it needs are there (R335). -/
def State.startWhenReady (s : State) (st c : Nat) : State :=
  let w := s.walker st c
  let e := (s.cmd w.place).entry
  let r := s.readRoot w.root
  let ps := s.startPages st w e r
  if !w.live ∨ w.started ∨ !s.open w.place ∨ (s.cmd w.place).ready ∨ (s.cmd w.place).got.length < (s.cmd w.place).want then s
  else if ps.any (fun p => !s.pageReady p) then
    (ps.foldl (fun (s : State) p => s.usePage (65536 * p)) s).setWalker st c { w with need := ps }
  else if seDepot e then
    let bad := s.rangeStatus (seQuery e) r.vec
    if bad ≠ 0 then s.finish w.place bad 0 else s.startQuery st c (s.depotRead (seQuery e) r.vec)
  else s.startQuery st c (s.cmd w.place).got

/-- A context is given to a waiting SEARCH (R325), once its root's page is there: the counter line is read, and the query from the depot
or the host. -/
def State.assignWalker (s : State) (p : Nat) : State :=
  let e := (s.cmd p).entry
  let j := seJob e
  match s.searchStation j with
  | none => s
  | some st =>
    match s.freeWalker st with
    | none => s
    | some c =>
      let t := s.usePage (seRoot e)
      if !t.pageReady (pageOf (seRoot e)) then t
      else
      let s0 := t.setSearch { t.search with waiting := t.search.waiting.filter (· != p) }
      let r := s0.readRoot (seRoot e)
      let bad := s0.rootStatus j r
      let k := s0.searchk j
      if bad ≠ 0 then s0.finish p bad 0
      else if seDepot e ∧ !inDepot (seQuery e) r.vec then s0.finish p 0x1001 0
      else
        let w : Walker :=
          { live := true, place := p, root := r.at_, idHigh := r.idHigh, sFirst := r.sFirst, sCount := r.sCount, graph := r.graph
            effort := min 4096 (if byteField e 48 4 = 0 then skEffort k else byteField e 48 4)
            width0 := if seBeam e = 0 then skBeam k else seBeam e }
        let s1 := (s0.setWalker st c w).bump F.stnWalkBusy st 1
        if !seDepot e then s1.setCmd p { s1.cmd p with ranges := [(seQuery e, r.vec)], want := r.vec, got := [] }
        else s1.startWhenReady st c

/-- The first waiting SEARCH for which a context is free. -/
def State.nextSearch (s : State) : Option Nat := s.search.waiting.find? (fun p => (s.searchStation (seJob (s.cmd p).entry)).isSome)

/-- The host's query has come. -/
def State.searchData (s : State) (p : Nat) : State :=
  match s.walkerOf p with
  | some (st, c) => s.startWhenReady st c
  | none => s

/-- A context goes on where pages it waits for may have come. -/
def State.resumeWalker (s : State) (st c : Nat) : State :=
  let w := s.walker st c
  if !w.live ∨ !s.open w.place ∨ !s.stnUp st then s
  else if !w.started then s.startWhenReady st c
  else (s.walkOn st c (s.cmd w.place).entry (s.readRoot w.root) 16384).searchEnds st c

/-! ## The rows -/

/-- SEARCH (R328, R347). -/
def execSearch (q : QueueId) (s : State) : Host.Outcome State Fault Refusal :=
  .next (s.onEntry q (fun e => sqOpcode e = 0x09) State.searchTaken)

/-- WALKER_CONTEXT_ASSIGN (R325); a search that has its context and waits for pages starts once they are there. -/
def execWalkerContextAssign (place : Nat) (s : State) : Host.Outcome State Fault Refusal :=
  .next (if s.nextSearch = some place then s.assignWalker place else s.searchData place)

/-- SIDING_BATCH_TIMEOUT (R324): 20 µs after it opened, a root's batch closes. -/
def execSidingBatchTimeout (root : Nat) (s : State) : Host.Outcome State Fault Refusal :=
  .next (match s.search.batches.find? (fun b => b.root = root) with
    | some b => s.closeSiding b
    | none => s)

/-- A neighbour list has come, and its page's generation confirms it (R331); else it is read again. -/
def State.listArrives (s : State) (st c i : Nat) : State :=
  let w := s.walker st c
  let r := s.readRoot w.root
  let a := r.listAt w.level i
  if !w.live ∨ !s.open w.place ∨ !s.stnUp st then s
  else
    match w.asked.find? (fun x => x.id = i) with
    | none => s.resumeWalker st c
    | some x =>
      if !s.cameBytes a r.listBytes then s
      else
        match s.servedGen x a r.listBytes with
        | none => s
        | some g =>
          if g ≠ s.genOf (pageOf a) then
            let y := s.readAgain st c x a r.listBytes
            y.1.setWalker st c { w with asked := w.asked.map (fun z => if z.id = i then y.2 else z) }
          else
            let t := (s.endHold (copyIdent st (64 + c) i) (pageOf a)).takeBytes a r.listBytes
            let s1 := (t.1.srch 4 t.2.1).srch 8 (bit (!t.2.2))
            let ids := if t.2.2 then some (s1.readList r w.level i) else none
            let w1 := { w with asked := w.asked.filter (fun z => z.id != i), here := w.here ++ [(i, ids)], flash := w.flash + t.2.1 }
            (s1.setWalker st c w1).resumeWalker st c

/-- LIST_ARRIVAL (R329). -/
def execListArrival (st : StationId) (ctx : Fin 16) (id : Nat) (s : State) : Host.Outcome State Fault Refusal :=
  .next (s.listArrives st.val ctx.val id)

/-- A vector for the re-rank has come and is confirmed: its exact distance is computed; one that cannot be read removes its candidate
(R331, R335). -/
def State.vectorArrives (s : State) (st c i : Nat) : State :=
  let w := s.walker st c
  let r := s.readRoot w.root
  let a := r.vecAt i
  if !w.live ∨ !s.open w.place ∨ !s.stnUp st then s
  else
    match w.rerank.find? (fun x => x.id = i) with
    | none => s.resumeWalker st c
    | some x =>
      if !s.cameBytes a r.vec then s
      else
        match s.servedGen x a r.vec with
        | none => s
        | some g =>
          if g ≠ s.genOf (pageOf a) then
            let y := s.readAgain st c x a r.vec
            y.1.setWalker st c { w with rerank := w.rerank.map (fun z => if z.id = i then y.2 else z) }
          else
            let t := (s.endHold (copyIdent st (64 + c) i) (pageOf a)).takeBytes a r.vec
            let s1 := if t.2.2 then t.1.srch 6 1 else t.1.srch 8 1
            let d := exactDist r.metric r.fmt w.query (s1.depotRead a r.vec) r.dims
            (s1.setWalker st c { w with
              rerank := w.rerank.filter (fun z => z.id != i), flash := w.flash + t.2.1
              scored := if t.2.2 then w.scored ++ [(d, i, false)] else w.scored }).searchEnds st c

/-- RERANK_VECTOR_ARRIVAL (R336). -/
def execRerankVectorArrival (st : StationId) (ctx : Fin 16) (id : Nat) (s : State) : Host.Outcome State Fault Refusal :=
  .next (s.vectorArrives st.val ctx.val id)

end Sys2Proof.Machine
end

