-- ==== Sys2Proof/Machine/Index.lean ====
section
/-! DEFINITION. Changing an index (R338 to R346, R350): INDEX_PUT, INDEX_DEL and SHUNT, one at a time on a root in the order taken. -/

namespace Sys2Proof.Machine

/-! ## The queue of a root (R341) -/

/-- The first INDEX_PUT, INDEX_DEL or SHUNT of a root. -/
def State.firstMutator (s : State) (root : Nat) : Option Nat := ((s.search.mutators.find? (fun m => m.1 = root)).map (·.2))

/-- A mutating command leaves its root's queue. -/
def State.leaveMutators (s : State) (p : Nat) : State :=
  s.setSearch { s.search with mutators := s.search.mutators.filter (fun m => m.2 != p), limited := s.search.limited.filter (· != p) }

/-- A command's data from the host is all there. -/
def State.dataHere (s : State) (p : Nat) : Bool := (s.cmd p).want ≤ (s.cmd p).got.length

/-! ## Steps of an engine's writes (R245, R265) -/

/-- A mutating command's writes wait on the dirty limit; it is counted once (R245). -/
def State.noteLimit (s : State) (p : Nat) (queued : List Turn) : State :=
  if queued.any (·.waited) ∧ !s.search.limited.contains p then
    ((s.setSearch { s.search with limited := s.search.limited ++ [p] }).bump F.depTierCtrCount 5 1).bump F.pwrCtrCount 2
      (bit (s.fget F.pwrHoldupDirtyLimit4k 0 < 1048576))
  else s

/-- A step of a mutating command: its writes all land now, or, where one of them has to wait, none of the step happens yet (log entry
35). -/
def State.attempt {α : Type} (s : State) (p : Nat) (f : State → State × α) : State × Option α :=
  let t := f s
  if t.1.depot.turns.length = s.depot.turns.length then (t.1, some t.2)
  else (s.noteLimit p (t.1.depot.turns.drop s.depot.turns.length), none)

/-- Steps one after another until one waits; whether all are done. -/
def State.steps (p : Nat) : List (State → State) → State → State × Bool
  | [], s => (s, true)
  | f :: fs, s =>
    match s.attempt p (fun s => (f s, ())) with
    | (s1, some _) => State.steps p fs s1
    | (s1, none) => (s1, false)

/-! ## Outstanding writes of the last commit (R342) -/

/-- The ids of the last commit whose state writes are outstanding: the last PENDING_FREE of the free ring. -/
def State.pendingIds (s : State) (r : Root) : List Nat :=
  (List.range r.pending).map (fun i => s.depotNat (r.freeAt (r.fFirst + (r.fCount - r.pending) + i)) 5)

/-- The losing entry of a siding position. -/
def State.lose (r : Root) (p : Nat) (s : State) : State := s.storeNat (r.scaleAt p) 4 (losing r.metric)

/-- Positions that hold no live entry. -/
def Root.deadPositions (r : Root) : List Nat := (List.range r.sCap).filter (fun p => !r.livePositions.contains p)

/-- Of some positions, those whose rescale entry is not the losing one yet. -/
def State.unlost (s : State) (r : Root) (ps : List Nat) : List Nat := ps.filter (fun p => s.depotNat (r.scaleAt p) 4 != losing r.metric)

/-- Finish the last commit: its ids become FREE, the released positions lose, and PENDING_FREE is 0 (R342); whether it is done. -/
def State.finishPending (s : State) (p : Nat) (r : Root) : State × Root × Bool :=
  if r.pending = 0 then (s, r, true)
  else
    let r1 := { r with pending := 0 }
    let x := State.steps p
      (((s.pendingIds r).filter (fun i => s.idState r i != 0)).map (fun i s => s.setIdState r i 0) ++
        (s.unlost r r.deadPositions).map (fun q => State.lose r q) ++ [fun s => s.writeLine r1]) s
    (x.1, r1, x.2)

/-! ## INDEX_PUT (R338, R339) -/

/-- Ids and positions that a commit holds back while a SEARCH that began before it is outstanding (R339). -/
def State.heldIds (s : State) (root : Nat) : List Nat := (s.search.commits.filter (fun c => c.root = root)).flatMap (·.ids)
def State.heldPositions (s : State) (root : Nat) : List Nat := (s.search.commits.filter (fun c => c.root = root)).flatMap (·.positions)

/-- What one vector's put finds. -/
inductive PutIs where
  /-- The id it takes, and whether it comes from the free ring. -/
  | takes (id : Nat) (ring : Bool)
  | waits
  | full
deriving DecidableEq, Repr

/-- The id and position of the next vector (R338 step 1, R339). -/
def State.putNext (s : State) (r : Root) : PutIs :=
  let head := s.depotNat (r.freeAt r.fFirst) 5
  let ringHeld : Bool := (s.heldIds r.at_).contains head
  if r.sCount ≥ r.sCap then .full
  else if r.fCount = 0 ∧ r.idHigh ≥ r.idCap then .full
  else if (s.heldPositions r.at_).contains ((r.sFirst + r.sCount) % max 1 r.sCap) then .waits
  else if r.fCount ≠ 0 ∧ !ringHeld then .takes head true
  else if r.idHigh < r.idCap then .takes r.idHigh false
  else .waits

/-- Put one vector under an id (R338 steps 2 to 5); the root's line as it will be written. -/
def State.putVector (s : State) (r : Root) (id : Nat) (ring : Bool) (v : List Byte) : State × Root :=
  let p := (r.sFirst + r.sCount) % max 1 r.sCap
  let s1 := ((s.store (r.vecAt id) v).store (r.codeAt id) (s.encode r v)).setIdState r id 1
  let s2 := ((s1.putColumn r p v).storeNat (r.sidAt p) 8 id).storeNat (r.scaleAt p) 4 (scaleOf r v)
  (s2, { r with
    sCount := r.sCount + 1, liveN := r.liveN + 1
    fFirst := if ring then (r.fFirst + 1) % 2 ^ 64 else r.fFirst
    fCount := if ring then r.fCount - 1 else r.fCount
    idHigh := if ring then r.idHigh else r.idHigh + 1 })

/-- Put vectors in order until they are done, one waits, or the index is full: the state, the root, the ids put, and what stopped it
(R338). -/
def State.putSome (s : State) (r : Root) : List (List Byte) → State × Root × List Nat × PutIs
  | [] => (s, r, [], .takes 0 false)
  | v :: vs =>
    match s.putNext r with
    | .takes id ring =>
      let x := s.putVector r id ring v
      let y := x.1.putSome x.2 vs
      (y.1, y.2.1, id :: y.2.2.1, y.2.2.2)
    | stop => (s, r, [], stop)

/-- A run of vectors and the counter line that covers it, written once (R338). -/
def State.putRun (r : Root) (vs : List (List Byte)) (s : State) : State × Root × List Nat × PutIs :=
  let x := s.putSome r vs
  (if x.2.2.1 = [] then x.1 else x.1.writeLine x.2.1, x.2)

/-- The longest run that does not have to wait: of at most `n` vectors. -/
def State.putLongest (s : State) (p : Nat) (r : Root) (vs : List (List Byte)) : Nat → State × Option (Root × List Nat × PutIs)
  | 0 => (s, none)
  | n + 1 =>
    match s.attempt p (State.putRun r (vs.take (n + 1))) with
    | (s1, some x) => (s1, some x)
    | (s1, none) => s1.putLongest p r vs n

def ipRoot (e : List Byte) : Nat := byteField e 8 8
def ipSrc (e : List Byte) : Nat := byteField e 16 8
def ipIds (e : List Byte) : Nat := byteField e 24 8
def ipCount (e : List Byte) : Nat := byteField e 32 4
def ipDepot (e : List Byte) : Bool := bitOf (byteField e 36 1) 0

/-- Run INDEX_PUT from the vector it has reached, in runs of up to 64 (R338, R339). The fuel bounds the runs. -/
def State.runPut (s : State) (p : Nat) (r : Root) : Nat → State
  | 0 => s
  | fuel + 1 =>
    let c := s.cmd p
    let e := c.entry
    let v := r.vec
    let data := if ipDepot e then s.depotRead (ipSrc e) (ipCount e * v) else c.got
    let vs := (List.range (min 64 (ipCount e - c.phase))).map (fun i => (data.drop ((c.phase + i) * v)).take v)
    if vs = [] then (s.leaveMutators p).finish p 0 c.phase
    else
      match s.putLongest p r vs vs.length with
      | (s1, none) => s1
      | (s1, some (r1, ids, stop)) =>
        let s2 := ((s1.srch 10 ids.length).sendData (ipIds e + 8 * c.phase) (ids.flatMap (leBytes 8)) false).setCmd p
          { (s1.cmd p) with phase := c.phase + ids.length }
        match stop with
        | .takes _ _ => s2.runPut p r1 fuel
        | .waits => s2
        | .full => (s2.leaveMutators p).finish p 0x2005 (c.phase + ids.length)

/-! ## The vectors of an INGEST (R381 steps 4 to 6, R382) -/

/-- The ids that `n` vectors would take, in order, and what stops them; nothing is written. -/
def State.planPut (s : State) (r : Root) : Nat → List (Nat × Bool) × PutIs
  | 0 => ([], .takes 0 false)
  | n + 1 =>
    match s.putNext r with
    | .takes id ring =>
      let x := s.planPut { r with
        sCount := r.sCount + 1
        fFirst := if ring then (r.fFirst + 1) % 2 ^ 64 else r.fFirst
        fCount := if ring then r.fCount - 1 else r.fCount
        idHigh := if ring then r.idHigh else r.idHigh + 1 } n
      ((id, ring) :: x.1, x.2)
    | stop => ([], stop)

/-- An INGEST's place in the list of embeddings. -/
def State.embedOf (s : State) (p : Nat) : Option EmbedCmd := s.scan.embeds.find? (fun e => e.place = p)

/-- The bytes of the vector staging of an INGEST. -/
def EmbedCmd.vectorBytes (e : EmbedCmd) : Nat := if e.root.isSome then e.items * e.outBytes else 0

/-- An EMBED or INGEST lets go of its staging. -/
def State.dropEmbed (s : State) (p : Nat) : State :=
  match s.embedOf p with
  | none => s
  | some e =>
    let s1 := (s.freeScratch e.staging.1 (e.cap * e.outBytes)).freeScratch e.staging.2 (e.cap * e.outBytes)
    let s2 := if e.root.isSome then s1.freeScratch e.dst e.vectorBytes else s1
    s2.setScans { s2.scan with embeds := s2.scan.embeds.filter (fun x => x.place != p) }

/-- Put an INGEST's vectors, all of them or none, under one counter-line write. -/
def State.runIngest (s : State) (p : Nat) (r : Root) : State :=
  match s.embedOf p with
  | none => s
  | some e =>
    let plan := s.planPut r e.items
    let bad := s.rangeStatus e.dst e.vectorBytes
    if bad ≠ 0 then ((s.leaveMutators p).dropEmbed p).finish p bad 0
    else match plan.2 with
      | .waits => s
      | .full => ((s.leaveMutators p).dropEmbed p).finish p 0x2005 0
      | .takes _ _ =>
        let put := fun s : State => (let x := plan.1.zipIdx.foldl (fun (x : State × Root) (y : (Nat × Bool) × Nat) =>
          x.1.putVector x.2 y.1.1 y.1.2 (s.depotRead (e.dst + y.2 * e.outBytes) e.outBytes)) (s, r)
          (x.1.writeLine x.2, ()) : State × Unit)
        match s.attempt p put with
        | (s0, none) => s0
        | (s0, some _) =>
          let s1 := (s0.bump F.depScanCtrCount 7 e.items).bump F.depSrchCtrCount 10 e.items
          let s2 := s1.sendData (byteField (s.cmd p).entry 40 8) (plan.1.flatMap (fun y => leBytes 8 y.1)) false
          ((s2.leaveMutators p).dropEmbed p).finish p 0 e.items

/-! ## INDEX_DEL (R340) -/

/-- The live siding position of an id. -/
def State.positionOf (s : State) (r : Root) (id : Nat) : Option Nat := r.livePositions.find? (fun p => s.sidingId r p = id)

/-- Tombstone one LIVE id, and the entry it has in the siding. -/
def State.delOne (r : Root) (id : Nat) (s : State) : State :=
  let s1 := s.setIdState r id 2
  match s1.positionOf r id with
  | some q => State.lose r q s1
  | none => s1

/-- Run INDEX_DEL from the id it has reached: `phase` counts the ids handled, `result` those changed; then the counter line. The fuel
bounds the ids. -/
def State.runDel (s : State) (p : Nat) (r : Root) : Nat → State
  | 0 => s
  | fuel + 1 =>
    let c := s.cmd p
    if c.phase < byteField c.entry 24 4 then
      let id := byteField c.got (8 * c.phase) 8
      if !s.liveId r id then (s.setCmd p { c with phase := c.phase + 1 }).runDel p r fuel
      else
        match s.attempt p (fun s => (State.delOne r id s, ())) with
        | (s1, none) => s1
        | (s1, some _) => (s1.setCmd p { s1.cmd p with phase := c.phase + 1, result := c.result + 1 }).runDel p r fuel
    else
      match s.attempt p (fun s => (s.writeLine { r with liveN := r.liveN - c.result, tomb := r.tomb + c.result }, ())) with
      | (s1, none) => s1
      | (s1, some _) => ((s1.srch 11 c.result).leaveMutators p).finish p 0 c.result

/-! ## SHUNT (R343 to R345) -/

/-- One round of a link walk, whose lists are read as they are asked for (R344): expand the best unexpanded candidates. -/
def State.linkWalk (s : State) (r : Root) (w : Walker) : Nat → State × Walker
  | 0 => (s, w)
  | fuel + 1 =>
    let best := w.best (max 1 Config.linkPrefetch)
    if w.expansions ≥ w.budget ∨ best = [] then (s, w)
    else
      let w1 := { w with here := w.here ++ best.map (fun i =>
        (i, if s.rangeStatus (r.listAt w.level i) r.listBytes = 0 then some (s.readList r w.level i) else none)) }
      let x := best.foldl (expand false 0 (zeros 64) r) (s, w1)
      x.1.linkWalk r x.2 fuel

/-- The distance between two stored ids: the first id's centroids against the second's code (R344). -/
def State.idDist (s : State) (r : Root) (book : List Byte) (a b : Nat) : Nat :=
  codeDistBy (lutEntry r book (codeValues r book (s.codeOf r a))) (s.codeOf r b)

/-- Choose up to `room` neighbours from ranked candidates: one to which an id already chosen is nearer than `x` is skipped, and
the places left go to the nearest skipped (R344). -/
def State.choose (s : State) (r : Root) (x : Nat) (cs : List Nat) (room : Nat) : List Nat :=
  let book := s.bookOf r
  let picked := cs.foldl (fun (l : List Nat) c =>
    if l.length ≥ room ∨ l.any (fun y => betterThan r.metric (s.idDist r book c y) (s.idDist r book c x)) then l else l ++ [c]) []
  picked ++ ((cs.filter (fun c => !picked.contains c)).take (room - picked.length))

/-- Candidates ranked by their distance from an id. -/
def State.ranked (s : State) (r : Root) (x : Nat) (cs : List Nat) : List Nat :=
  let book := s.bookOf r
  (cs.foldl (fun l c => rankIns (ranksBefore r.metric) (s.idDist r book x c, c) l) []).map (·.2)

/-- Neighbour `c` gets `x` in its list; a full list is chosen again. -/
def State.linkBack (s : State) (r : Root) (level x c : Nat) : State :=
  let l := s.readList r level c
  if l.contains x then s
  else if l.length < r.degree then s.writeList r level c (l ++ [x])
  else s.writeList r level c (s.choose r c (s.ranked r c ((l ++ [x]).filter (fun i => s.liveId r i))) r.degree)

/-- Link id `x` at one level (R344), the budget at level 0 capped as R326 caps it; whether an index fault has been logged for the
command (R333). -/
def linkAt (budget x : Nat) (r : Root) (y : State × Bool) (level : Nat) : State × Bool :=
  let s := y.1
  let lut := lutOf r (s.bookOf r) (vecValues r (s.depotRead (r.vecAt x) r.vec))
  let n := if level = 0 then min 4096 budget else budget
  let w : Walker := { level := level, width := Config.linkWidth, budget := n, idHigh := r.idHigh, faulted := y.2, lut := lut
                      beam := if r.graph = 0 then [] else [(codeDist lut (s.codeOf r 0), 0, false)] }
  let z := s.linkWalk r w n
  let cs := ((z.2.beam.map (·.2.1)).filter (fun i => i != x && z.1.liveId r i)).dedup
  let ns := z.1.choose r x cs r.degree
  (ns.foldl (fun (s : State) c => s.linkBack r level x c) (z.1.writeList r level x ns), z.2.faulted)

/-- Link an id into every level it belongs to, highest first. -/
def State.link (s : State) (r : Root) (budget x : Nat) (faulted : Bool) : State × Bool :=
  ((List.range 7).filter (fun l => ofLevel l x)).reverse.foldl (linkAt budget x r) (s, faulted)

/-- Repair one list (R345): the places that its lost ids leave are filled from their neighbours. -/
def State.repairList (t : List Nat) (r : Root) (level u : Nat) (s : State) : State :=
  let l := s.readList r level u
  let lost := l.filter t.contains
  let keep := l.filter (fun i => !t.contains i)
  let near := ((lost.flatMap (fun i => s.readList r level i)).filter (fun i =>
    s.liveId r i && !t.contains i && !keep.contains i && i != u)).dedup
  s.writeList r level u (keep ++ s.choose r u (s.ranked r u near) lost.length)

def shLimit (e : List Byte) : Nat := byteField e 16 4
def shEffort (e : List Byte) : Nat := byteField e 20 4
def shNoRepair (e : List Byte) : Bool := bitOf (byteField e 24 1) 0

/-- T: tombstoned ids that are no live siding entries, id 0 left out (R343 step 1). -/
def State.tombstones (s : State) (r : Root) : List Nat :=
  let sid := r.livePositions.map (s.sidingId r)
  (List.range r.idHigh).filter (fun i => i != 0 && s.idState r i = 2 && !sid.contains i)

/-- The SHUNT of a root in progress. -/
def State.shuntOf (s : State) (root : Nat) : Option Shunt := s.search.shunts.find? (fun x => x.root = root)
def State.setShunt (s : State) (x : Shunt) : State :=
  s.setSearch { s.search with shunts := s.search.shunts.map (fun y => if y.root = x.root then x else y) }

/-- One siding entry is merged (R343 step 2): linked, or added to F; none where its writes wait. -/
def State.mergeOne (s : State) (x : Shunt) (q : Nat) : State × Option Shunt :=
  let r := s.readRoot x.root
  let id := s.sidingId r q
  if s.liveId r id ∨ id = 0 then
    match s.attempt x.place (fun s => s.link { r with graph := r.graph + x.links } x.budget id x.faulted) with
    | (s1, some f) => (s1.srch 12 1, some { x with left := x.left.drop 1, links := x.links + 1, faulted := f })
    | (s1, none) => (s1, none)
  else (s, some { x with left := x.left.drop 1, fset := x.fset ++ [id] })

/-- One list is scanned and, if it holds an id of T, repaired (R343 step 3). -/
def State.repairOne (s : State) (x : Shunt) : State × Option Shunt :=
  let r := s.readRoot x.root
  let next := { x with nextId := x.nextId + 32 ^ x.level }
  if x.nextId ≥ r.idHigh then (s, some { x with level := x.level + 1, nextId := 0 })
  else if (s.readList r x.level x.nextId).all (fun i => !x.tset.contains i) then (s, some next)
  else
    match s.attempt x.place (fun s => (State.repairList x.tset r x.level x.nextId s, ())) with
    | (s1, some _) => (s1.srch 13 1, some { next with repaired := x.repaired + 1 })
    | (s1, none) => (s1, none)

/-- The merge and the repair go on until they are over or wait. The fuel bounds their steps. -/
def State.shuntOn (root : Nat) : Nat → State → State
  | 0, s => s
  | fuel + 1, s =>
    match s.shuntOf root with
    | none => s
    | some x =>
      let y := match x.left with
        | q :: _ => s.mergeOne x q
        | [] => if x.tset = [] ∨ 7 ≤ x.level then (s, none) else s.repairOne x
      match y with
      | (s1, some z) => State.shuntOn root fuel (s1.setShunt z)
      | (s1, none) => s1

/-- Merge and repair as far as they go. -/
def State.shuntGo (s : State) (root : Nat) : State :=
  match s.shuntOf root with
  | some x => State.shuntOn root (x.left.length + 7 * ((s.readRoot root).idHigh + 2)) s
  | none => s

/-- The merge and the repair of a SHUNT are over. -/
def Shunt.merged (x : Shunt) : Bool := x.left = [] && (x.tset = [] || 7 ≤ x.level)

/-- A SHUNT whose turn has come takes its snapshot and begins to merge (R343); a running SHUNT of the root refuses it (R341). -/
def State.runShunt (s : State) (p : Nat) (r : Root) : State :=
  let e := (s.cmd p).entry
  if (s.shuntOf r.at_).isSome then (s.leaveMutators p).finish p 0x5003 0
  else
    let n := if shLimit e = 0 then r.sCount else min r.sCount (shLimit e)
    let x : Shunt := { root := r.at_, place := p, n := n, tset := if shNoRepair e then [] else s.tombstones r, fset := [], links := 0
                       repaired := 0, left := r.livePositions.take n
                       budget := if shEffort e = 0 then 2 * skEffort (s.searchk 0) else shEffort e }
    let s1 := s.leaveMutators p
    (s1.setSearch { s1.search with shunts := s1.search.shunts ++ [x] }).shuntGo r.at_

/-- SEARCH commands outstanding. -/
def State.searchesOpen (s : State) : List Nat :=
  (s.host.cmds.filter (fun e => e.2.live && sqOpcode e.2.entry = 0x09)).map (·.1)

/-- Steps 4 and 5: the free ring and the commit's counter line. -/
def State.commitLine (x : Shunt) (r : Root) (freed : List Nat) (s : State) : State :=
  let s1 := freed.zipIdx.foldl (fun (s : State) f => s.storeNat (r.freeAt (r.fFirst + r.fCount + f.2)) 8 f.1) s
  s1.writeLine { r with
    sFirst := (r.sFirst + x.n) % max 1 r.sCap, sCount := r.sCount - x.n, fCount := r.fCount + freed.length
    epoch := (r.epoch + 1) % 2 ^ 32, graph := r.graph + x.links - x.tset.length, tomb := r.tomb - freed.length
    pending := freed.length }

/-- The commit: what it frees and releases is held back while a SEARCH that began before it is outstanding (R339). -/
def State.commitShunt (s : State) (x : Shunt) : State :=
  let z := s.finishPending x.place (s.readRoot x.root)
  if !z.2.2 then z.1
  else
    let r := z.2.1
    let freed := (x.tset ++ x.fset).dedup
    match z.1.attempt x.place (fun s => (s.commitLine x r freed, ())) with
    | (s1, none) => s1
    | (s1, some _) =>
      let open_ := s1.searchesOpen
      let s2 := if open_ = [] then s1 else s1.setSearch { s1.search with
        commits := s1.search.commits ++ [{ root := x.root, ids := freed, positions := r.livePositions.take x.n, searches := open_ }] }
      (s2.srch 14 freed.length).setShunt { x with committed := true }

/-- Step 6: the writes of R342 are made, and the command completes with the count of entries linked. -/
def State.endShunt (s : State) (x : Shunt) : State :=
  let r := s.readRoot x.root
  let y := State.steps x.place ((s.unlost r r.deadPositions).map (fun q => State.lose r q)) s
  let z := if y.2 then y.1.finishPending x.place (y.1.readRoot x.root) else (y.1, r, false)
  if !z.2.2 then z.1
  else (z.1.setSearch { z.1.search with shunts := z.1.search.shunts.filter (fun u => u.root != x.root)
                                        limited := z.1.search.limited.filter (· != x.place) }).finish x.place 0 x.links

/-- A SHUNT goes on: it merges and repairs, and, once every command taken on its root has completed, commits and ends (R341, R343). -/
def State.shuntStep (s : State) (root : Nat) : State :=
  let s1 := match s.shuntOf root with
    | some x => if x.committed then s else s.shuntGo root
    | none => s
  match s1.shuntOf root with
  | none => s1
  | some x =>
    let s2 := if x.merged ∧ !x.committed ∧ (s1.firstMutator root).isNone then s1.commitShunt x else s1
    match s2.shuntOf root with
    | some y => if y.committed then s2.endShunt y else s2
    | none => s2

/-! ## Turns -/

/-- Run the mutating command at the front of a root's queue, if its data is there: the last commit's writes are finished first
(R342). -/
def State.runMutator (s : State) (root p : Nat) : State :=
  let r0 := s.readRoot root
  let bad := if s.readStatus root 192 ≠ 0 then s.readStatus root 192 else if r0.ok then 0 else 0x1004
  if bad ≠ 0 then ((s.leaveMutators p).dropEmbed p).finish p bad 0
  else
    let z := s.finishPending p r0
    let c := s.cmd p
    let o := sqOpcode c.entry
    if !z.2.2 then z.1
    else if o = 0x0C then
      let src := if ipDepot c.entry then s.rangeStatus (ipSrc c.entry) (ipCount c.entry * r0.vec) else 0
      if src ≠ 0 then (z.1.leaveMutators p).finish p src 0 else z.1.runPut p z.2.1 4097
    else if o = 0x0B then z.1.runIngest p z.2.1
    else if o = 0x0D then z.1.runDel p z.2.1 65537
    else z.1.runShunt p z.2.1

/-- The pages a mutating command reads before it begins: its root's, and those of an INDEX_PUT's vectors in the depot. -/
def State.mutatorPages (s : State) (root p : Nat) : List Nat :=
  let e := (s.cmd p).entry
  pageOf root :: (if sqOpcode e = 0x0C ∧ ipDepot e then rangePages [(ipSrc e, ipCount e * (s.readRoot root).vec)] else [])

/-- Run a root's mutating commands as far as they go. The fuel bounds their number. -/
def State.mutate (s : State) (root : Nat) : Nat → State
  | 0 => s
  | fuel + 1 =>
    match s.firstMutator root with
    | none => s
    | some p =>
      let away := (s.mutatorPages root p).filter (fun q => !s.pageReady q)
      if !s.dataHere p then s
      else if away ≠ [] then away.foldl (fun (s : State) q => s.usePage (65536 * q)) s
      else
        let s1 := s.runMutator root p
        if s1.firstMutator root = some p then s1 else s1.mutate root fuel

/-- Everything that waits for writes, pages or commands of an index goes on. -/
def State.mutateAll (s : State) : State :=
  let roots := (s.search.mutators.map (·.1)).dedup
  let s1 := roots.foldl (fun (s : State) r => s.mutate r (s.search.mutators.length + 1)) s
  (s1.search.shunts.map (·.root)).foldl State.shuntStep s1

/-- A mutating command whose root passes R314 joins the root's queue. -/
def State.joinMutators (s : State) (root p want src : Nat) : State :=
  let s1 := if want = 0 then s else s.setCmd p { s.cmd p with ranges := [(src, want)], want := want, got := [] }
  let s2 := s1.setSearch { s1.search with mutators := s1.search.mutators ++ [(root, p)] }
  s2.mutate root s2.search.mutators.length

/-- The root's checks when a mutating command is taken; the root's fields go to the rest. A root whose page is not there is checked again
once it is (R335). -/
def State.withRoot (s : State) (root p : Nat) (media : Bool) (run : Root → State → State) : State :=
  let s1 := s.usePage root
  let r := s1.readRoot root
  let bad := s1.readStatus root 192
  if s.namesKept root 4096 then s.fail p 0x1001
  else if media ∧ s.mediaBusy ≠ 0 then s.fail p s.mediaBusy
  else if bad ≠ 0 then s1.finish p bad 0
  else if !r.ok then s1.fail p 0x1004
  else if r.inMedia ∧ s1.mediaBusy ≠ 0 then s1.fail p s1.mediaBusy
  else run r s1

/-- INDEX_PUT taken (R350). -/
def State.putTaken (p : Nat) (e : List Byte) (s : State) : State :=
  let fields : Bool := sqFlags e = 0 && byteField e 36 1 < 2 && zeroAt e 37 27 && rootAddrOk (ipRoot e) && ipIds e % 64 = 0 &&
    1 ≤ ipCount e && ipCount e ≤ 4096 && (ipDepot e || ipSrc e % 64 = 0) && (!ipDepot e || inDepot (ipSrc e) 1)
  if !fields then s.fail p 0x1001
  else s.withRoot (ipRoot e) p (ipRoot e < userEnd || (ipDepot e && ipSrc e < userEnd)) fun r s =>
    if ipDepot e then
      (if !inDepot (ipSrc e) (ipCount e * r.vec) ∨ s.namesKept (ipSrc e) (ipCount e * r.vec) then s.fail p 0x1001
      else s.joinMutators r.at_ p 0 0)
    else s.joinMutators r.at_ p (ipCount e * r.vec) (ipSrc e)

/-- INDEX_DEL taken (R350). -/
def State.delTaken (p : Nat) (e : List Byte) (s : State) : State :=
  let n := byteField e 24 4
  let fields : Bool := sqFlags e = 0 && zeroAt e 28 36 && rootAddrOk (ipRoot e) && byteField e 16 8 % 64 = 0 && 1 ≤ n && n ≤ 65536
  if !fields then s.fail p 0x1001
  else s.withRoot (ipRoot e) p (ipRoot e < userEnd) fun r s => s.joinMutators r.at_ p (8 * n) (byteField e 16 8)

/-- SHUNT taken (R350): the default budget needs the base image (log entry 35). -/
def State.shuntTaken (p : Nat) (e : List Byte) (s : State) : State :=
  let fields : Bool := sqFlags e = 0 && byteField e 24 1 < 2 && zeroAt e 25 39 && rootAddrOk (ipRoot e)
  if !fields then s.fail p 0x1001
  else if shEffort e = 0 ∧ !s.jobBound 0 then s.fail p 0x400E
  else s.withRoot (ipRoot e) p (ipRoot e < userEnd) fun r s =>
    if (s.shuntOf r.at_).isSome then s.fail p 0x5003 else s.joinMutators r.at_ p 0 0

/-- The root a waiting mutating command belongs to. -/
def State.mutatorRoot (s : State) (p : Nat) : Option Nat := (s.search.mutators.find? (fun m => m.2 = p)).map (·.1)

/-- A mutating command's data from the host has come. -/
def State.mutatorData (s : State) (p : Nat) : State :=
  match s.mutatorRoot p with
  | some root => if s.firstMutator root = some p then s.mutate root s.search.mutators.length else s
  | none => s

/-! ## The rows -/

/-- INDEX_PUT (R338). -/
def execIndexPut (q : QueueId) (s : State) : Host.Outcome State Fault Refusal :=
  .next (s.onEntry q (fun e => sqOpcode e = 0x0C) State.putTaken)

/-- INDEX_DEL (R340). -/
def execIndexDel (q : QueueId) (s : State) : Host.Outcome State Fault Refusal :=
  .next (s.onEntry q (fun e => sqOpcode e = 0x0D) State.delTaken)

/-- SHUNT (R343), on the admin queue only. -/
def execShunt (q : QueueId) (s : State) : Host.Outcome State Fault Refusal :=
  .next (s.onEntry q (fun e => sqOpcode e = 0x2F) (State.adminOnly (State.behind State.shuntTaken)))

/-- INDEX_PUT_RESUME (R339): a waiting INDEX_PUT, or INGEST, goes on. -/
def execIndexPutResume (place : Nat) (s : State) : Host.Outcome State Fault Refusal :=
  .next (if (sqOpcode (s.cmd place).entry = 0x0C ∨ sqOpcode (s.cmd place).entry = 0x0B) ∧ s.open place then s.mutatorData place else s)

/-- SHUNT_PREPARE (R343): once every command taken on its root has completed, the free ring is written and the epoch
committed. -/
def execShuntPrepare (place : Nat) (s : State) : Host.Outcome State Fault Refusal :=
  .next (match s.search.shunts.find? (fun x => x.place = place) with
    | none => s
    | some x => s.shuntStep x.root)

end Sys2Proof.Machine
end

