-- ==== Sys2Proof/Machine/ScanVm.lean ====
section
/-! DEFINITION. Predicate programs at work (R359 to R363): the values of fields, and one record's evaluation. -/

namespace Sys2Proof.Machine

/-! ## Fields (R361) -/

/-- Bytes of a type. -/
def typeSize (t : Nat) : Nat := ([1, 2, 4, 8, 1, 2, 4, 8, 2, 4, 8] : List Nat).getD t 1

/-- The value of an integer field; the value of a floating-point field. -/
def typeInt (t raw : Nat) : Int := if t < 4 then raw else signed (8 * typeSize t) raw
def typeFp (t raw : Nat) : Fp := if t = 8 then fpOf bf16 raw else if t = 9 then fpOf fp32 raw else fpOf fp64 raw

/-- The format of FP64 registers. -/
def fp64Of (b : Nat) : Fp := fpOf fp64 b
def fp64To (v : Fp) : Nat := fpRound fp64 false v

/-- A floating-point pattern with an exponent of `ew` bits and a fraction of `fw`, widened exactly: a NaN keeps its sign and its
fraction's bits. -/
def widenTo64 (ew fw raw : Nat) : Nat :=
  let frac := raw % 2 ^ fw
  if raw / 2 ^ fw % 2 ^ ew = 2 ^ ew - 1 ∧ frac ≠ 0 then raw / 2 ^ (fw + ew) % 2 * 2 ^ 63 + 2047 * 2 ^ 52 + frac * 2 ^ (52 - fw)
  else fp64To (fpOf (if fw = 7 then bf16 else fp32) raw)

/-- A field as a register holds it: int64, or FP64 widened exactly. -/
def typeReg (t raw : Nat) : Nat :=
  if t < 8 then unsigned 64 (typeInt t raw)
  else if t = 8 then widenTo64 8 7 raw
  else if t = 9 then widenTo64 8 23 raw
  else raw

/-- The value of an element as a real. -/
def typeReal (t raw : Nat) : Fp := if t < 8 then fpOfInt (typeInt t raw) else typeFp t raw

/-- Truncation toward zero into int64, saturating; a NaN gives 0 (R362). -/
def fpTrunc (v : Fp) : Int :=
  match v with
  | .nan => 0
  | .inf neg => if neg then -(2 ^ 63) else 2 ^ 63 - 1
  | .fin neg m e =>
    let n : Int := if e ≥ 0 then m * 2 ^ e.toNat else m / 2 ^ (-e).toNat
    max (-(2 ^ 63)) (min (2 ^ 63 - 1) (if neg then -n else n))

/-- A condition on an order: less and equal. -/
def condOf (c : Nat) (lt eq : Bool) : Bool :=
  if c = 0 then eq else if c = 1 then !eq else if c = 2 then lt else if c = 3 then lt || eq else if c = 4 then !lt && !eq else !lt

/-- FMIN and FMAX: the other operand where one is NaN. -/
def fpPick (big : Bool) (a b : Nat) : Nat :=
  if isNan fp64 a then b else if isNan fp64 b then a
  else if big then (if fpLt (fp64Of a) (fp64Of b) then b else a) else if fpLt (fp64Of b) (fp64Of a) then b else a

/-! ## Reductions (R363) -/

/-- The elements of a reduction, as raw fields. -/
def elements (rec_ : List Byte) (t at_ first n : Nat) : List Nat :=
  (List.range n).map (fun i => byteField rec_ (at_ + (first + i) * typeSize t) (typeSize t))

/-- TRED: SUM, MIN, MAX or SUMSQ; none where MIN or MAX has no element, which the manual gives no value. -/
def reduce (op t : Nat) (xs : List Nat) : Option Nat :=
  if t < 8 then
    let vs := xs.map (typeInt t)
    let w := vs.map (fun v => signed 64 (unsigned 64 v))
    if op = 0 then some (unsigned 64 vs.sum)
    else if op = 3 then some (unsigned 64 ((vs.map (fun v => v * v)).sum))
    else match w with
      | [] => none
      | v :: rest => some (unsigned 64 (rest.foldl (fun a b => if op = 1 then min a b else max a b) v))
  else
    let vs := xs.map (typeFp t)
    if op = 0 then some (vs.foldl (fun a v => fp64To (fpAdd (fp64Of a) v)) 0)
    else if op = 3 then some (vs.foldl (fun a v => fp64To (fpAdd (fp64Of a) (fpMul v v))) 0)
    else match vs with
      | [] => none
      | v :: rest => some (rest.foldl (fun a b => fpPick (op = 2) a (fp64To b)) (fp64To v))

/-! ## The machine of one record (R359, R362) -/

/-- What a program runs against: the record's bytes, its LEN, its position, the scalars, the bitmap and the query. -/
structure VmEnv where
  rec_ : List Byte
  len : Nat
  pos : Nat
  scalars : List Nat
  bitmap : Nat
  bitmapBits : Nat
  query : List Byte
  die : Nat
deriving DecidableEq, Repr

/-- The state of a record's evaluation: registers, predicates, the end, the entries and offers so far, and the module. -/
structure Vm where
  v : List Nat := List.replicate 32 0
  p : List Bool := List.replicate 8 false
  done : Bool := false
  out : List (List Byte) := []
  keeps : List (Nat × Nat) := []
  s : State
deriving DecidableEq, Repr

def Vm.reg (m : Vm) (i : Nat) : Nat := m.v.getD i 0
def Vm.pred (m : Vm) (i : Nat) : Bool := m.p.getD i false
def Vm.put (m : Vm) (i x : Nat) : Vm := { m with v := m.v.set i (x % 2 ^ 64) }
def Vm.putP (m : Vm) (i : Nat) (b : Bool) : Vm := { m with p := m.p.set i b }

/-- An EMIT's entry: head, masked registers, and the record's bytes padded to a multiple of 8 (R368). -/
def emitEntry (env : VmEnv) (m : Vm) (mask : Nat) (body : Bool) : List Byte :=
  let regs := (bitsSet 32 mask).flatMap (fun i => leBytes 8 (m.reg i))
  let rb := if body then padTo (8 * ceilDiv env.rec_.length 8) env.rec_ else []
  leBytes 8 env.pos ++ leBytes 4 (16 + regs.length + rb.length) ++ leBytes 4 mask ++ regs ++ rb

/-- Some bytes occur within others. -/
def occurs (pat : List Byte) : List Byte → Bool
  | [] => pat = []
  | b :: bs => pat.isPrefixOf (b :: bs) || occurs pat bs

/-- Integer and floating-point operations of two registers. -/
def vmArith (o a b : Nat) : Nat :=
  if o = 0x08 then a + b
  else if o = 0x09 then a + 2 ^ 64 - b % 2 ^ 64
  else if o = 0x0A then a * b
  else if o = 0x0B then a &&& b
  else if o = 0x0C then a ||| b
  else if o = 0x0D then a / 2 ^ (b % 64)
  else if o = 0x10 then fp64To (fpAdd (fp64Of a) (fp64Of b))
  else if o = 0x11 then fp64To (fpAdd (fp64Of a) (fpNeg (fp64Of b)))
  else if o = 0x12 then fp64To (fpMul (fp64Of a) (fp64Of b))
  else fpPick (o = 0x14) a b

/-- Comparisons: ICMP, UCMP, FCMP. -/
def vmCompare (o c a b : Nat) : Bool :=
  if o = 0x20 then condOf c (signed 64 a < signed 64 b) (a = b)
  else if o = 0x21 then condOf c (a < b) (a = b)
  else if isNan fp64 a ∨ isNan fp64 b then c = 1
  else condOf c (fpLt (fp64Of a) (fp64Of b)) (!fpLt (fp64Of a) (fp64Of b) && !fpLt (fp64Of b) (fp64Of a))

/-- INSET reads the bitmap's line through the depot cache; a bit that cannot be read is a free value. -/
def Vm.inset (env : VmEnv) (m : Vm) (n : Nat) : Bool × State :=
  if n ≥ env.bitmapBits then (false, m.s)
  else
    let a := env.bitmap + n / 8
    let r := m.s.cacheLine env.die a
    let s1 := if r.1 then r.2 else r.2.usePage a
    if inDepot a 1 ∧ s1.readStatus a 1 = 0 then ((s1.depotNat a 1).testBit (n % 8), s1) else s1.drawBool

/-- One instruction. -/
def vmStep (env : VmEnv) (m : Vm) (i : List Byte) : Vm :=
  if m.done then m
  else
    let o := siOpc i
    let d := siD i
    let a := siA i
    let b := siB i
    let imm := siImm i
    let t := b % 16
    if o = 0x01 then m.put d (typeReg t (byteField env.rec_ imm (typeSize t)))
    else if o = 0x02 then m.put d (env.scalars.getD imm 0)
    else if o = 0x03 then m.put d (unsigned 64 (signed 32 imm))
    else if o = 0x04 then m.put d env.len
    else if o = 0x05 then m.put d env.pos
    else if o < 0x15 then m.put d (vmArith o (m.reg a) (m.reg b))
    else if o = 0x15 then m.put d (fp64To (fpOfInt (signed 64 (m.reg a))))
    else if o = 0x16 then m.put d (unsigned 64 (fpTrunc (fp64Of (m.reg a))))
    else if o ≤ 0x22 then m.putP d (vmCompare o (imm % 8) (m.reg a) (m.reg b))
    else if o = 0x24 then m.putP d (m.pred a && m.pred b)
    else if o = 0x25 then m.putP d (m.pred a || m.pred b)
    else if o = 0x26 then m.putP d (!m.pred a)
    else if o = 0x28 then
      let from_ := imm % 2 ^ 16
      let n := imm / 2 ^ 16
      let range := if n = 0 then env.rec_.drop from_ else (env.rec_.drop from_).take n
      m.putP d (occurs (leBytes t (m.reg a)) range)
    else if o = 0x29 then
      let r := m.inset env (m.reg a)
      { m with s := r.2 }.putP d r.1
    else if o = 0x30 then
      match reduce (bitsOf imm 16 2) t (elements env.rec_ t (imm % 2 ^ 16) (m.reg a) (m.reg b)) with
      | some x => m.put d x
      | none => { m with s := m.s.drawNat.2 }.put d m.s.drawNat.1
    else if o = 0x31 then
      m.put d ((elements env.rec_ t (imm % 2 ^ 16) (m.reg a) (m.reg b)).filter (fun x => fpLt (fp64Of (m.reg d)) (typeReal t x))).length
    else if o = 0x34 then
      let n := m.reg a
      let fmt := if t = 4 then 0 else 1
      m.put d (fp64To (fpOf fp32 (exactDist (b / 16 % 2) fmt env.query (env.rec_.drop imm) n)))
    else if o = 0x38 then { m with done := !m.pred a }
    else if o = 0x39 then { m with done := m.pred a }
    else if o = 0x3C then { m with out := m.out ++ [emitEntry env m imm (b % 2 = 1)] }
    else if o = 0x3D then { m with keeps := m.keeps ++ [(m.reg a, env.pos)] }
    else { m with done := true }

/-- A program on one record. -/
def runRecord (prog : List (List Byte)) (env : VmEnv) (s : State) : Vm := prog.foldl (vmStep env) { s := s }

/-! ## The top-k list of a scan (R90, R371) -/

/-- An offer before another: better, or equal with the smaller position. -/
def keepBefore (largest : Bool) (a b : Nat × Nat) : Bool :=
  let x := fp64Of a.1
  let y := fp64Of b.1
  let better := if largest then fpLt y x else fpLt x y
  let worse := if largest then fpLt x y else fpLt y x
  better || (!worse && a.2 < b.2)

/-- A list of k with offers added; a NaN never enters (R90). -/
def keepOffers (largest : Bool) (k : Nat) (l os : List (Nat × Nat)) : List (Nat × Nat) :=
  ((os.filter (fun o => !isNan fp64 o.1)).foldl (fun l o => rankIns (keepBefore largest) o l) l).take k

end Sys2Proof.Machine
end

