-- ==== Sys2Proof/Machine/Scan.lean ====
section
/-! DEFINITION. SCAN (R353 to R374): the command's checks and loads, its contexts and work units, and its answers. -/

namespace Sys2Proof.Machine

/-! ## The command (R373) -/

def scExtent (e : List Byte) : Nat := byteField e 8 8
def scBytes (e : List Byte) : Nat := byteField e 16 8
def scChunks (e : List Byte) : Nat := byteField e 32 4
def scJob (e : List Byte) : Nat := byteField e 37 1
def scProgDepot (e : List Byte) : Bool := bitOf (byteField e 38 1) 0
def scArgDepot (e : List Byte) : Bool := bitOf (byteField e 38 1) 1
def scProg (e : List Byte) : Nat := byteField e 40 8
def scArg (e : List Byte) : Nat := byteField e 48 8
def scBitmap (e : List Byte) : Nat := byteField e 56 8

/-- The fields that need neither the program nor the job. -/
def scanFields (e : List Byte) : Bool :=
  sqFlags e = 0 && byteField e 38 1 < 4 && zeroAt e 39 1 && scExtent e % 64 = 0 && 1 ≤ scBytes e && inDepot (scExtent e) (scBytes e) &&
    scAnswer e % 4096 = 0 && 2 ≤ scChunks e && scChunks e ≤ 2 ^ 24 && 12 ≤ scShift e && scShift e ≤ 24 && scProg e % 64 = 0 &&
    scArg e % 64 = 0 && scBitmap e % 64 = 0 && (scJob e = 0 || scProg e = 0) &&
    (scProg e = 0 || !scProgDepot e || inDepot (scProg e) 16) && (scArg e = 0 || !scArgDepot e || inDepot (scArg e) 320)

/-- The SCANPROG record of a job's image. -/
def State.scanRecord (s : State) (j : Nat) : List Byte := ((s.jobImage j).map (fun im => im.group 11)).getD []

/-- The job runs scans, and the extent lies in one of its buffers (R357, R374). -/
def State.scanJobOk (s : State) (e : List Byte) : Bool :=
  let j := scJob e
  if j = 0 then scProg e != 0 || s.scanRecord 0 != []
  else s.jobBound j && s.scanRecord j != [] &&
    (s.job j).bufs.any (fun b => b.1 ≤ scExtent e && scExtent e + scBytes e ≤ b.1 + b.2)

/-- A SCAN names a retained container (R185). -/
def State.scanKept (s : State) (e : List Byte) : Bool :=
  s.namesKept (scExtent e) (scBytes e) || (scProg e != 0 && scProgDepot e && s.namesKept (scProg e) 8208) ||
    (scArg e != 0 && ((scArgDepot e && s.namesKept (scArg e) 8512) || s.namesKept (scBitmap e) 1))

/-- A SCAN names a media address. -/
def scanNamesMedia (e : List Byte) : Bool :=
  scExtent e < userEnd || (scProg e != 0 && scProgDepot e && scProg e < userEnd) ||
    (scArg e != 0 && ((scArgDepot e && scArg e < userEnd) || scBitmap e < userEnd))

/-- The extent fits the format (R357). -/
def extentOk (e prog : List Byte) : Bool :=
  if spFormat prog = 1 then scExtent e % 65536 = 0 && scBytes e % 65536 = 0
  else scBytes e % max 1 (spRecord prog) = 0

/-! ## Loading the program and its arguments -/

/-- The program: from PROG_ADDR, else from the image (R373). -/
def State.scanProgram (s : State) (p : Nat) : List Byte :=
  let c := s.cmd p
  if scProg c.entry = 0 then s.scanRecord (scJob c.entry) else c.got.take (16 + 8 * spCount c.got)

/-- Query bytes that a program's DISTs can read; all 8,192 where the program does not fix a count. -/
def queryBytes : List (List Byte) → List (List Byte) → Nat
  | _, [] => 0
  | before, i :: rest =>
    max (if siOpc i ≠ 0x34 then 0
      else match siConst (siA i) before with
        | some n => n * (if siB i % 16 = 4 then 1 else 2)
        | none => 8192) (queryBytes (i :: before) rest)

/-- The bytes of the argument block that a program needs. -/
def argBytes (prog : List Byte) : Nat := 320 + min 8192 (queryBytes [] (spInstrs prog))

/-- Scalars S0 to S31 without an argument block: the job's, or zeros (R359). -/
def State.scanScalars (s : State) (j : Nat) : List Nat :=
  if j = 0 then List.replicate 32 0 else (List.range 32).map (fun i => (s.job j).scalars.getD i 0)

/-- Everything is loaded: the SCAN waits for its contexts (R354). -/
def State.scanReady (s : State) (p : Nat) : State :=
  let c := s.cmd p
  let e := c.entry
  let prog := s.scanProgram p
  let n := if scProg e = 0 then 0 else prog.length
  let arg := if scArg e = 0 then [] else c.got.drop n
  let bits := byteField arg 256 8
  if (spInstrs prog).any (fun i => siOpc i = 0x29) ∧ bits ≠ 0 ∧ !inDepot (scBitmap e) (ceilDiv bits 8) then s.fail p 0x1001
  else
    let x : ScanCmd :=
      { place := p, stations := [], format := spFormat prog, recordBytes := spRecord prog, prog := spInstrs prog
        scalars := if scArg e = 0 then s.scanScalars (scJob e) else (List.range 32).map (fun i => byteField arg (8 * i) 8)
        bitmapBits := bits, query := arg.drop 320 }
    s.setScans { s.scan with active := s.scan.active ++ [x], waiting := s.joinWait p s.scan.waiting }

/-- The program is there: it is checked, and the argument block is read (R364, R374). -/
def State.scanArgs (s : State) (p : Nat) : State :=
  let c := s.cmd p
  let e := c.entry
  let prog := s.scanProgram p
  if scProg e ≠ 0 ∧ (!scanHeadOk prog ∨ (scanProgBad (spInstrs prog)).isSome) then s.fail p 0x1005
  else if !extentOk e prog then s.fail p 0x1001
  else if siKeeps (spInstrs prog) ≠ [] ∧ scShift e < 13 then s.fail p 0x1001
  else if scArg e = 0 then s.scanReady p
  else
    let n := argBytes prog
    if !scArgDepot e then s.setCmd p { c with ranges := c.ranges ++ [(scArg e, n)], want := c.got.length + n, phase := 2 }
    else if !inDepot (scArg e) n then s.fail p 0x1001
    else
      let s1 := s.usePages (rangePages [(scArg e, n)])
      let bad := s1.rangeStatus (scArg e) n
      if !(rangePages [(scArg e, n)]).all s1.pageReady then s1.setCmd p { c with phase := 4 }
      else if bad ≠ 0 then s1.finish p bad 0
      else (s1.setCmd p { c with got := c.got ++ s1.depotRead (scArg e) n, want := c.got.length + n, phase := 2 }).scanReady p

/-- A program in the depot range is read once its pages are there. -/
def State.scanProgHere (s : State) (p : Nat) : State :=
  let c := s.cmd p
  let a := scProg c.entry
  let s0 := s.usePage a
  let head := s0.depotRead a 16
  let n := 16 + 8 * spCount head
  if !s0.pageReady (pageOf a) then s0.setCmd p { c with phase := 3 }
  else if s0.readStatus a 16 ≠ 0 then s0.finish p (s0.readStatus a 16) 0
  else if spCount head = 0 ∨ 1024 < spCount head then s0.fail p 0x1005
  else if !inDepot a n then s0.fail p 0x1001
  else
    let s1 := s0.usePages (rangePages [(a, n)])
    let bad := s1.rangeStatus a n
    if !(rangePages [(a, n)]).all s1.pageReady then s1.setCmd p { c with phase := 3 }
    else if bad ≠ 0 then s1.finish p bad 0
    else (s1.setCmd p { c with got := s1.depotRead a n, want := n, phase := 1 }).scanArgs p

/-- A SCAN that waits for the pages of its program or of its argument block goes on once they are there. -/
def State.scanLoads (s : State) (p : Nat) : State :=
  if sqOpcode (s.cmd p).entry ≠ 0x08 ∨ !s.open p then s
  else if (s.cmd p).phase = 3 then s.scanProgHere p
  else if (s.cmd p).phase = 4 then s.scanArgs p
  else s

/-- A SCAN taken: its checks, then its program and arguments are loaded. -/
def State.scanTaken (p : Nat) (e : List Byte) (s : State) : State :=
  if !scanFields e ∨ s.scanKept e then s.fail p 0x1001
  else if scJob e = 0 ∧ !s.jobBound 0 then s.fail p 0x400E
  else if !s.scanJobOk e then s.fail p 0x1001
  else if scanNamesMedia e ∧ s.mediaBusy ≠ 0 then s.fail p s.mediaBusy
  else if scProg e = 0 then s.scanArgs p
  else if scProgDepot e then s.scanProgHere p
  else s.setCmd p { s.cmd p with ranges := [(scProg e, 16)], want := 16, got := [] }

/-- What a SCAN asked the host for has come: the program's head, the rest of the program, or the argument block. -/
def State.scanData (s : State) (p : Nat) : State :=
  let c := s.cmd p
  if c.phase = 2 then s.scanReady p
  else if c.phase = 1 then s.scanArgs p
  else if spCount c.got = 0 ∨ 1024 < spCount c.got then s.fail p 0x1005
  else s.setCmd p { c with ranges := [(scProg c.entry, 16 + 8 * spCount c.got)], want := 16 + 8 * spCount c.got, phase := 1 }

/-! ## Contexts (R354) -/

def State.scanOf (s : State) (p : Nat) : Option ScanCmd := s.scan.active.find? (fun c => c.place = p)

def State.setScan (s : State) (c : ScanCmd) : State :=
  s.setScans { s.scan with active := s.scan.active.map (fun x => if x.place = c.place then c else x) }

/-- The stations a SCAN runs on. -/
def State.scanStations (s : State) (j : Nat) : List Nat :=
  if j = 0 then s.stationsUp else (s.jobStations j).filter (fun st => s.stnUp st)

/-- A free scan context of a station: there are 4 (R353). -/
def State.freeScanCtx (s : State) (st : Nat) : Option Nat := Tbl.firstFrom {} (fun x : ScanCtx => !x.live) (s.stn st).scans 0 4

/-- A SCAN finds a free context on every station it runs on. -/
def State.scanFits (s : State) (p : Nat) : Bool :=
  let sts := s.scanStations (scJob (s.cmd p).entry)
  sts != [] && sts.all (fun st => (s.freeScanCtx st).isSome)

/-- The first waiting SCAN that finds its contexts. -/
def State.nextScan (s : State) : Option Nat := s.scan.waiting.find? s.scanFits

/-- A station's context of a SCAN. -/
def State.scanCtx (s : State) (st p : Nat) : ScanCtx :=
  (((s.stn st).scans.find? (fun e => e.2.live && e.2.place = p)).map (·.2)).getD {}

def State.setScanCtx (s : State) (st : Nat) (x : ScanCtx) : State :=
  s.setStn st { s.stn st with scans := (s.stn st).scans.map (fun e => if e.2.live ∧ e.2.place = x.place then (e.1, x) else e) }

/-- Give a station's free context to a SCAN. -/
def State.openScanCtx (p : Nat) (s : State) (st : Nat) : State :=
  match s.freeScanCtx st with
  | none => s
  | some c => s.setStn st { s.stn st with scans := Tbl.put {} (s.stn st).scans c { live := true, place := p } }

def State.assignScan (s : State) (p : Nat) : State :=
  match s.scanOf p with
  | none => s
  | some c =>
    let sts := s.scanStations (scJob (s.cmd p).entry)
    let s1 := (sts.foldl (State.openScanCtx p) s).setScan { c with stations := sts }
    s1.setScans { s1.scan with waiting := s1.scan.waiting.filter (· != p) }

/-! ## Work units and records (R354 to R356) -/

/-- The units of an extent: one for each tier page it touches. -/
def scanUnits (e : List Byte) : Nat := pageOf (scExtent e + scBytes e - 1) - pageOf (scExtent e) + 1

/-- The end position of an extent (R371). -/
def ScanCmd.endPos (c : ScanCmd) (e : List Byte) : Nat := if c.format = 1 then scBytes e else scBytes e / max 1 c.recordBytes

/-- The first position of unit `u`; that of the unit after the last is the extent's end. -/
def ScanCmd.firstPos (c : ScanCmd) (e : List Byte) (u : Nat) : Nat :=
  if c.format = 1 then min (c.endPos e) (65536 * u)
  else min (c.endPos e) (ceilDiv (65536 * (pageOf (scExtent e) + u) - scExtent e) (max 1 c.recordBytes))

/-- The bytes of a unit's records: first and last past. -/
def ScanCmd.unitSpan (c : ScanCmd) (e : List Byte) (u : Nat) : Nat × Nat :=
  let w := if c.format = 1 then 1 else c.recordBytes
  (scExtent e + w * c.firstPos e u, scExtent e + w * c.firstPos e (u + 1))

/-- The pages that a unit's records lie in. -/
def ScanCmd.unitPages (c : ScanCmd) (e : List Byte) (u : Nat) : List Nat :=
  let r := c.unitSpan e u
  if r.1 = r.2 then [] else (List.range (pageOf (r.2 - 1) - pageOf r.1 + 1)).map (pageOf r.1 + ·)

/-- The extent's bytes on a unit's own page. -/
def unitBytes (e : List Byte) (u : Nat) : Nat :=
  let p := pageOf (scExtent e) + u
  min (scExtent e + scBytes e) (65536 * (p + 1)) - max (scExtent e) (65536 * p)

/-- The records of a page of FORMAT 1: offset and length word. The fuel is the page's length. -/
def prefixed (page : List Byte) : Nat → Nat → List (Nat × Nat)
  | 0, _ => []
  | fuel + 1, off =>
    let h := byteField page off 4
    let n := 8 * ceilDiv (4 + h) 8
    if h = 0 ∨ 65536 < off + n ∨ 65536 ≤ off then [] else (off, h) :: prefixed page fuel (off + n)

/-- The records of a unit: position, LEN and bytes. -/
def State.unitRecords (s : State) (c : ScanCmd) (e : List Byte) (u : Nat) : List (Nat × Nat × List Byte) :=
  if c.format = 1 then
    let page := s.depotRead (scExtent e + 65536 * u) 65536
    (prefixed page 8193 0).map (fun x => (65536 * u + x.1, x.2, (page.drop x.1).take (4 + x.2)))
  else
    (List.range (c.firstPos e (u + 1) - c.firstPos e u)).map (fun i =>
      let n := c.firstPos e u + i
      (n, c.recordBytes, s.depotRead (scExtent e + n * c.recordBytes) c.recordBytes))

/-! ## The scan reader (R355) -/

/-- Flash reads of the scan readers for a sub-block. -/
def State.scanReads (s : State) (lba : Nat) : List (Nat × FRead) :=
  s.flash.reads.filter (fun e => e.2.live && e.2.why = .scan && e.2.lba = lba)

/-- Sub-blocks of a page that the reader needs from flash. -/
def State.scanNeeds (s : State) (p : Nat) : List Nat :=
  let x := s.page p
  if !isMediaPage p ∨ x.resident ∨ x.promoting then []
  else ((bitsSet 16 (clearBits 16 (clearBits 16 x.mapped x.lost) x.bad)).map (16 * p + ·)).filter (fun b => !s.staged b)

/-- Look a page up and ask for what is not there; pages are read without promotion (R263). -/
def State.scanFetch (s : State) (p : Nat) : State :=
  s.queueReads .scan ((s.scanNeeds p).filter (fun b => (s.scanReads b).isEmpty))

/-- What the reader asked for of a page has come. -/
def State.scanHere (s : State) (p : Nat) : Bool :=
  !s.shareWaits p && (!isMediaPage p || !(s.page p).promoting) && (s.scanNeeds p).all (fun b => (s.scanReads b).any (fun r => r.2.done))

/-- The flash reads of a page that have ended. -/
def State.scanCame (s : State) (p : Nat) : List (Nat × FRead) :=
  (List.range 16).filterMap (fun i => (s.scanReads (16 * p + i)).find? (fun r => r.2.done))

/-- The generation to record for a page whose reads are served: an older one where a read was served before a write, else the
page's own; none while it is odd (R267). -/
def State.scanGen (s : State) (p : Nat) : Option Nat :=
  let now := s.genOf p
  match ((s.scanCame p).map (fun r => r.2.gen)).find? (fun g => g % 2 = 0 && g != now) with
  | some g => some g
  | none => if now % 2 = 0 then some now else none

/-- The reader goes on with a page of a station: once its reads are served their generation is recorded and what they met. -/
def State.scanServe (s : State) (st : Nat) (x : ScanPage) : State × ScanPage :=
  if x.gen.isSome then (s, x)
  else if !s.scanHere x.page then (s.scanFetch x.page, x)
  else
    match s.scanGen x.page with
    | none => (s, x)
    | some g =>
      let rs := s.scanCame x.page
      let s1 := s.setFlash { s.flash with reads := s.flash.reads.filter (fun r => !rs.contains r) }
      let bad := if rs.any (fun r => r.2.failed) then 0x2001 else s1.readStatus (65536 * x.page) 65536
      (s1, { x with gen := some g, servedAt := s.cyc (islandOfStation st), status := bad })

/-- The reader goes on with every page of a unit. -/
def State.scanServeAll (s : State) (st : Nat) (xs : List ScanPage) : State × List ScanPage :=
  xs.foldl (fun (r : State × List ScanPage) x =>
    let y := r.1.scanServe st x
    (y.1, r.2 ++ [y.2])) (s, [])

/-- A page was served more than 700,000,000 cycles ago (R269). -/
def State.scanAged (s : State) (st : Nat) (x : ScanPage) : Bool := cycSince (s.cyc (islandOfStation st)) x.servedAt > 700000000

/-- The confirm of a page passes (R267). -/
def State.scanConfirmed (s : State) (st : Nat) (x : ScanPage) : Bool := x.gen = some (s.genOf x.page) && !s.scanAged st x

/-- A confirm of a page failed: it is read again, and after 8 reissues new writes to it are held (R268). -/
def State.scanReread (s : State) (st ident : Nat) (x : ScanPage) : State × ScanPage :=
  let s1 := s.bump F.depTierCtrCount (if s.scanAged st x then 7 else 8) 1
  let s2 := if x.reissues + 1 ≥ 8 then s1.holdWrites ident x.page else s1
  s2.scanServe st { page := x.page, reissues := x.reissues + 1 }

/-- The confirms of a unit's pages: those that pass end their hold, those that fail are read again. A page that could not be read has
none. -/
def State.scanConfirms (s : State) (st ident : Nat) (xs : List ScanPage) : State × List ScanPage × Nat :=
  xs.foldl (fun (r : State × List ScanPage × Nat) x =>
    if x.status ≠ 0 then (r.1, r.2.1 ++ [x], r.2.2)
    else if r.1.scanConfirmed st x then (r.1.endHold ident x.page, r.2.1 ++ [x], r.2.2)
    else
      let y := r.1.scanReread st ident x
      (y.1, r.2.1 ++ [y.2], r.2.2 + 1)) (s, [], 0)

/-! ## Answer packets (R366 to R370) -/

/-- Close a station's open packet. -/
def State.closePacket (s : State) (e : List Byte) (st p : Nat) (stopped : Bool) : State :=
  let x := s.scanCtx st p
  if x.chunk.isNone then s
  else (s.closeChunk e st x stopped).setScanCtx st { x with chunk := none, body := [], entries := 0 }

/-- The SCAN stops: every station closes its packet (R370). -/
def State.stopScan (s : State) (c : ScanCmd) : State :=
  let e := (s.cmd c.place).entry
  let s1 := (s.setScan { c with stopped := true }).bump F.depScanCtrCount 4 1
  c.stations.foldl (fun (s : State) st => s.closePacket e st c.place true) s1

/-- An entry goes into a station's packet; none where it needs a chunk and none is left. -/
def State.putEntry (s : State) (c : ScanCmd) (e : List Byte) (st : Nat) (entry : List Byte) : Option (State × ScanCmd) :=
  let x := s.scanCtx st c.place
  if x.chunk.isSome ∧ 32 + x.body.length + entry.length ≤ 2 ^ scShift e then
    some (s.setScanCtx st { x with body := x.body ++ entry, entries := x.entries + 1 }, c)
  else if c.chunk ≥ scChunks e then none
  else
    let s1 := (s.closePacket e st c.place false).sendData (chunkAt e c.chunk) (zeros 4) false
    some (s1.setScanCtx st { s1.scanCtx st c.place with chunk := some c.chunk, body := entry, entries := 1 }, { c with chunk := c.chunk + 1 })

/-- A unit being evaluated: the module, the command, whether it has stopped, and the station's packet without this unit's
entries. -/
structure UnitRun where
  s : State
  c : ScanCmd
  stopped : Bool := false
  /-- The station's packet as it was before the unit's first entry in it, and the entries of the unit in it. -/
  before : ScanCtx
  mine : Nat := 0
deriving DecidableEq, Repr

/-- Write one entry of a unit. A gap entry is not counted as emitted. -/
def UnitRun.write (e : List Byte) (st : Nat) (gap : Bool) (u : UnitRun) (entry : List Byte) : UnitRun :=
  if u.stopped then u
  else if 2 ^ scShift e - 32 < entry.length then { u with c := { u.c with oversize := min 0xFFFF (u.c.oversize + 1) } }
  else
    match u.s.putEntry u.c e st entry with
    | none => { u with stopped := true }
    | some (s, c) =>
      let same : Bool := (s.scanCtx st c.place).chunk = u.before.chunk
      let b := if same then u.before else { s.scanCtx st c.place with body := [], entries := 0 }
      { u with s := s, c := { c with emitted := c.emitted + bit (!gap) }, before := b, mine := (if same then u.mine else 0) + bit (!gap) }

/-- Evaluate one record (R359, R365): its EMITs in order, its KEEPs. -/
def UnitRun.record (e : List Byte) (st : Nat) (u : UnitRun) (r : Nat × Nat × List Byte) : UnitRun :=
  if u.stopped then u
  else
    let c := u.c
    let env : VmEnv := { rec_ := r.2.2, len := r.2.1, pos := r.1, scalars := c.scalars, bitmap := scBitmap e, bitmapBits := c.bitmapBits
                         query := c.query, die := st / 16 }
    let vm := runRecord c.prog env u.s
    let k := (siKeeps c.prog).headD (0, 0)
    let c1 := { c with records := c.records + 1, kept := keepOffers (k.2 = 1) k.1 c.kept vm.keeps }
    vm.out.foldl (UnitRun.write e st false) { u with s := vm.s, c := c1 }

/-- The gap entry of a unit (R368, R369). -/
def gapEntry (first past : Nat) : List Byte := leBytes 8 first ++ leBytes 4 (24 + 2 ^ 31) ++ leBytes 4 0 ++ leBytes 8 past

/-- The end of a unit: counted, or the SCAN stops with it unfinished and its entries withdrawn from the open packet. -/
def State.endUnit (u : UnitRun) (e : List Byte) (st unit : Nat) (old : ScanCmd) : State :=
  let s1 := (u.s.bump F.depScanCtrCount 1 (u.c.records - old.records)).bump F.depScanCtrCount 3 (u.c.gaps - old.gaps)
  if u.stopped then
    let c := { u.c with emitted := u.c.emitted - u.mine }
    ((s1.setScanCtx st u.before).bump F.depScanCtrCount 2 (c.emitted - old.emitted)).stopScan c
  else
    let c := { u.c with out := u.c.out.filter (fun x => !(x.station = st && x.unit = unit)), bytes := u.c.bytes + unitBytes e unit }
    ((s1.bump F.depScanCtrCount 2 (c.emitted - old.emitted)).bump F.depScanCtrCount 5 1).setScan c

/-- Finish a unit whose pages are served and confirmed (R369). -/
def State.finishUnit (s : State) (c : ScanCmd) (st : Nat) (x : UnitOut) : State :=
  let e := (s.cmd c.place).entry
  let u0 : UnitRun := { s := s, c := c, before := s.scanCtx st c.place }
  match (x.pages.map (·.status)).find? (· != 0) with
  | some bad =>
    let g := { u0 with c := { c with gaps := c.gaps + 1, gapStatus := if c.gapStatus = 0 then bad else c.gapStatus } }
    State.endUnit (g.write e st true (gapEntry (c.firstPos e x.unit) (c.firstPos e (x.unit + 1)))) e st x.unit c
  | none => State.endUnit ((s.unitRecords c e x.unit).foldl (UnitRun.record e st) u0) e st x.unit c

/-! ## The summary and the end (R371, R372) -/

/-- The first position of the lowest unit that is not finished. -/
def ScanCmd.resume (c : ScanCmd) (e : List Byte) : Nat :=
  if c.stopped then c.firstPos e ((c.out.map (·.unit)).foldl min c.next) else c.endPos e

def ScanCmd.status (c : ScanCmd) : Nat := if c.stopped then 2 else c.gapStatus

/-- The summary after its length word, and the length word. -/
def ScanCmd.summary (c : ScanCmd) (e : List Byte) : List Byte × List Byte :=
  let valid : Bool := !c.stopped && siKeeps c.prog != []
  let top := if valid then c.kept else []
  (leBytes 1 0 ++ leBytes 1 (2 * bit valid) ++ leBytes 2 c.status ++ leBytes 4 c.chunk ++ leBytes 2 top.length ++ leBytes 2 c.oversize ++
    leBytes 8 c.records ++ leBytes 8 c.emitted ++ leBytes 8 (c.resume e) ++ leBytes 8 c.bytes ++ leBytes 4 c.gaps ++ leBytes 4 c.rereads ++
    zeros 8 ++ top.flatMap (fun k => leBytes 8 k.1 ++ leBytes 8 k.2), leBytes 4 (64 + 16 * top.length))

/-- No unit is left to hand out or in hand, and no packet is open. -/
def State.scanOver (s : State) (c : ScanCmd) : Bool :=
  (c.stopped || (c.next ≥ scanUnits (s.cmd c.place).entry && c.out = [])) &&
    c.stations.all (fun st => (s.scanCtx st c.place).chunk.isNone)

/-- Once the SCAN is over the summary is written and it completes. -/
def State.scanEnds (s : State) (p : Nat) : State :=
  match s.scanOf p with
  | none => s
  | some c =>
    if !s.scanOver c then s
    else
      let e := (s.cmd p).entry
      let x := c.summary e
      let s1 := ((s.sendData (scAnswer e) (zeros 4) false).sendData (scAnswer e + 4) x.1 false).sendData (scAnswer e) x.2 false
      (s1.bump F.depScanCtrCount 0 1).finish p c.status c.chunk

/-- A station takes the next unit: its pages are looked up and read. -/
def State.takeUnit (s : State) (c : ScanCmd) (st : Nat) : State :=
  let e := (s.cmd c.place).entry
  let ps := c.unitPages e c.next
  let r := (ps.foldl State.tierLookup s).scanServeAll st (ps.map (fun p => { page := p }))
  r.1.setScan { c with next := c.next + 1, out := c.out ++ [⟨st, c.next, r.2⟩] }

/-- Units in hand at a station that still belong to a SCAN, with their pages served as far as they have come. -/
def State.serveUnits (s : State) (c : ScanCmd) (st : Nat) : State × ScanCmd :=
  let r := c.out.foldl (fun (r : State × List UnitOut) u =>
    if u.station ≠ st then (r.1, r.2 ++ [u])
    else
      let y := r.1.scanServeAll st u.pages
      (y.1, r.2 ++ [{ u with pages := y.2 }])) (s, [])
  (r.1, { c with out := r.2 })

/-- The number of a SCAN's context on a station. -/
def State.scanCtxNo (s : State) (st p : Nat) : Nat :=
  (((s.stn st).scans.find? (fun e => e.2.live && e.2.place = p)).map (·.1)).getD 0

/-- The pages that a station has in hand for a SCAN: its reader runs 8 ahead (R355). -/
def ScanCmd.inHand (c : ScanCmd) (st : Nat) : Nat := ((c.out.filter (fun u => u.station = st)).map (fun u => max 1 u.pages.length)).sum

/-- A station's oldest unit in hand, all served: its confirms, then its records. -/
def State.tryUnit (s : State) (c : ScanCmd) (st : Nat) (u : UnitOut) : State :=
  let r := s.scanConfirms st (copyIdent st (96 + s.scanCtxNo st c.place) u.unit) u.pages
  let c1 := { c with
    rereads := c.rereads + r.2.2
    out := c.out.map (fun v => if v.station = st ∧ v.unit = u.unit then { v with pages := r.2.1 } else v) }
  if r.2.2 = 0 then r.1.finishUnit c1 st { u with pages := r.2.1 } else r.1.setScan c1

/-- A station of a SCAN goes on: it finishes its oldest unit in hand once the pages are there, else takes the next one while its
reader has room; with none left it closes its packet. -/
def State.scanGoes (s : State) (p st : Nat) : State :=
  match s.scanOf p with
  | none => s
  | some c0 =>
    let e := (s.cmd p).entry
    if !c0.stations.contains st ∨ !s.stnUp st ∨ !s.open p ∨ (s.cmd p).ready then s
    else
      let x := s.serveUnits c0 st
      let c := x.2
      let more : Bool := c.next < scanUnits e && c.inHand st < 8
      match c.out.find? (fun u => u.station = st) with
      | some u =>
        if u.pages.all (fun y => y.gen.isSome) then (x.1.tryUnit c st u).scanEnds p
        else if more then x.1.takeUnit c st
        else x.1.setScan c
      | none => if more then x.1.takeUnit c st else (x.1.closePacket e st p false).scanEnds p

/-! ## The rows -/

/-- SCAN (R354, R373). -/
def execScan (q : QueueId) (s : State) : Host.Outcome State Fault Refusal :=
  .next (s.onEntry q (fun e => sqOpcode e = 0x08) State.scanTaken)

/-- SCAN_CONTEXT_ASSIGN (R354); a SCAN that waits for the pages of its program or arguments goes on once they are there. -/
def execScanContextAssign (place : Nat) (s : State) : Host.Outcome State Fault Refusal :=
  .next (if s.nextScan = some place then s.assignScan place else s.scanLoads place)

/-- Searches, scans and mutating commands that waited for a page, or for a write, go on. -/
def State.tierOn (s : State) : State :=
  let walks := s.stations.flatMap (fun x => (x.2.walkers.filter (fun w => w.2.live && (w.2.need != [] || !w.2.started))).map (fun w => (x.1, w.1)))
  let s1 := walks.foldl (fun (s : State) x => s.resumeWalker x.1 x.2) s
  ((s1.host.cmds.map (·.1)).foldl State.scanLoads s1).mutateAll

/-- SCAN_WORK_UNIT (R354): a station takes the next unit, or finishes the one in hand. -/
def execScanWorkUnit (place : Nat) (st : StationId) (s : State) : Host.Outcome State Fault Refusal := .next (s.scanGoes place st.val)

end Sys2Proof.Machine
end

