-- ==== Sys2Proof/Machine/Embed.lean ====
section
/-! DEFINITION. EMBED and INGEST (R375 to R383), and the turns of content writes, after which an INGEST's items are embedded. -/

namespace Sys2Proof.Machine

/-! ## The commands (R379, R380) -/

def emSrc (e : List Byte) : Nat := byteField e 8 8
def emItems (e : List Byte) : Nat := byteField e 16 4
def emBytes (e : List Byte) : Nat := byteField e 20 4
def emDst (e : List Byte) : Nat := byteField e 24 8
def emOut (e : List Byte) : Nat := byteField e 32 4
def emJob (e : List Byte) : Nat := byteField e 36 1
def emDepot (e : List Byte) : Bool := bitOf (byteField e 37 1) 0
def inRoot (e : List Byte) : Nat := byteField e 8 8
def inSrc (e : List Byte) : Nat := byteField e 16 8
def inDst (e : List Byte) : Nat := byteField e 24 8
def inItems (e : List Byte) : Nat := byteField e 32 4
def inBytes (e : List Byte) : Nat := byteField e 36 4
def inIds (e : List Byte) : Nat := byteField e 40 8
def inJob (e : List Byte) : Nat := byteField e 48 1

/-- The fields of an EMBED are in range. -/
def embedFields (e : List Byte) : Bool :=
  let n := emItems e * emBytes e
  let o := emItems e * emOut e
  sqFlags e = 0 && byteField e 37 1 < 2 && zeroAt e 38 26 && emSrc e % 65536 = 0 && 1 ≤ emItems e && emItems e ≤ 1048576 &&
    emBytes e % 64 = 0 && 64 ≤ emBytes e && emBytes e ≤ 16777216 && emOut e % 32 = 0 && 32 ≤ emOut e && emOut e ≤ 65536 &&
    1 ≤ emJob e && inDepot (emSrc e) n && (if emDepot e then inDepot (emDst e) o else emDst e % 64 = 0)

/-- An EMBED names a retained container (R185). -/
def State.embedKept (s : State) (e : List Byte) : Bool :=
  s.namesKept (emSrc e) (emItems e * emBytes e) || (emDepot e && s.namesKept (emDst e) (emItems e * emOut e))

/-- The fields of an INGEST are in range. -/
def ingestFields (e : List Byte) : Bool :=
  let n := inItems e * inBytes e
  sqFlags e = 0 && zeroAt e 49 15 && rootAddrOk (inRoot e) && inSrc e % 4096 = 0 && inDst e % 65536 = 0 && inDst e + n ≤ userEnd &&
    1 ≤ inItems e && inItems e ≤ 4096 && inBytes e % 64 = 0 && n % 4096 = 0 && 1 ≤ n && n ≤ 2 ^ 28 && inIds e % 64 = 0 && 1 ≤ inJob e

/-- R375: the job is an encoder for items and outputs of these sizes. A binding's job takes no EMBED (R409). -/
def State.encoderOk (s : State) (j item out : Nat) : Bool :=
  match s.jobImage j with
  | none => false
  | some im =>
    let p := im.group 9
    let cap := paRowCap p
    s.jobBound j && (s.homeOf j).isNone && (s.originOf j).isNone && paBatching p && 2 ≤ paBuffers p && paWritable p 1 && 1 ≤ paScalars p &&
      cap * item % 65536 = 0 && paMin p 0 ≤ cap * item && paMin p 1 ≤ cap * out

/-- The job's image declares a media buffer (R581). -/
def State.jobTouchesMedia (s : State) (j : Nat) : Bool := ((s.jobImage j).map touchesMedia).getD false

/-! ## Batches (R376, R377) -/

def State.putEmbed (s : State) (x : EmbedCmd) : State :=
  s.setScans { s.scan with embeds := s.scan.embeds.map (fun y => if y.place = x.place then x else y) }

/-- A request for a batch of one EMBED or INGEST. -/
def RunFor.embedOf (p : Nat) : RunFor → Bool
  | .embed q _ _ => q = p
  | _ => false

/-- Requests of an EMBED that have not begun are withdrawn. -/
def State.dropRequests (s : State) (j p : Nat) : State :=
  let h := s.job j
  let q := h.queue.filter (fun x => !x.1.embedOf p)
  if q = h.queue then s else (s.setJob j { h with queue := q }).fset F.jobStatePending j q.length

/-- An EMBED or INGEST ends. -/
def State.endEmbed (s : State) (p status result : Nat) : State :=
  match s.embedOf p with
  | none => s.finish p status result
  | some x => ((s.dropRequests x.job p).dropEmbed p).finish p status result

/-- Request the next batch's run. -/
def State.requestBatch (s : State) (p : Nat) : State :=
  match s.embedOf p with
  | none => s
  | some x =>
    if x.items ≤ x.next ∨ 2 ≤ x.pending then s
    else if s.refusesRun x.job then (if x.pending = 0 then s.endEmbed p 0x1001 x.copied else s)
    else
      let n := min x.cap (x.items - x.next)
      (s.putEmbed { x with next := x.next + n, pending := x.pending + 1 }).requestRun x.job (.embed p x.next n) false

/-- At most two runs are pending at a time. -/
def State.feedEmbed (s : State) (p : Nat) : State := (s.requestBatch p).requestBatch p

/-- Begin embedding with two staging areas, and a vector staging for an INGEST; 0x4008 where they cannot be allocated. -/
def State.startEmbed (s : State) (x : EmbedCmd) (go : State → State) : State :=
  let n := x.cap * x.outBytes
  match s.allocScratch n with
  | none => s.fail x.place 0x4008
  | some (a, s1) =>
    match s1.allocScratch n with
    | none => s.fail x.place 0x4008
    | some (b, s2) =>
      match (if x.root.isNone then some (x.dst, s2) else s2.allocScratch (x.items * x.outBytes)) with
      | none => s.fail x.place 0x4008
      | some (d, s3) =>
        go (s3.setScans { s3.scan with embeds := s3.scan.embeds ++ [{ x with staging := (a, b), dst := d }] })

/-- Copy one item's output from staging. -/
def State.copyItem (x : EmbedCmd) (from_ first : Nat) (s : State) (i : Nat) : State :=
  let bs := s.depotRead (from_ + i * x.outBytes) x.outBytes
  let at_ := x.dst + (first + i) * x.outBytes
  if x.inDepot then s.storeFor (some x.place) at_ bs else s.sendData at_ bs false

/-- What stops the outputs of a batch: its staging cannot be read, or the media part takes no more writes (R508). -/
def State.copyOutBad (s : State) (x : EmbedCmd) (from_ n : Nat) : Nat :=
  let bad := s.rangeStatus from_ (n * x.outBytes)
  if bad ≠ 0 then bad else if x.inDepot ∧ x.dst < userEnd ∧ s.fbit F.flsHealthExhausted 0 then 0x2003 else 0

/-- Every item's output has been copied: an EMBED completes, an INGEST's vectors go to the index (R381 step 4). -/
def State.embedded (s : State) (x : EmbedCmd) : State :=
  match x.root with
  | none => s.endEmbed x.place x.status x.copied
  | some root => if x.status = 0 then s.joinMutators root x.place 0 0 else s.endEmbed x.place x.status 0

/-- A run of a command that has ended early is over: its staging goes with the last (R458). -/
def State.leftRun (s : State) (x : EmbedCmd) : State :=
  let y := { x with pending := x.pending - 1 }
  if y.pending = 0 then s.dropEmbed x.place else s.putEmbed y

/-- A batch's run has ended: the outputs of its real items are copied, in order, and the next batch is requested. An abandoned
run ends the command with its status. -/
def State.embedRan (s : State) (p first n status : Nat) (abandoned : Bool) : State :=
  match s.embedOf p with
  | none => s
  | some x =>
    if noPlace ≤ p then s.leftRun x
    else
    let shown := if x.root.isSome then 0 else x.copied
    let from_ := if first / max 1 x.cap % 2 = 0 then x.staging.1 else x.staging.2
    let bad := if abandoned then status else s.copyOutBad x from_ n
    if bad ≠ 0 then s.endEmbed p bad shown
    else
      let y := { x with pending := x.pending - 1, copied := x.copied + n, status := if x.status = 0 then status else x.status }
      let s1 := (((List.range n).foldl (State.copyItem x from_ first) s).putEmbed y).bump F.depScanCtrCount 6 n
      if y.copied < y.items then s1.feedEmbed p else s1.embedded y

/-! ## EMBED -/

def State.embedTaken (p : Nat) (e : List Byte) (s : State) : State :=
  let j := emJob e
  if !embedFields e ∨ s.embedKept e ∨ !s.encoderOk j (emBytes e) (emOut e) ∨ s.refusesRun j then s.fail p 0x1001
  else if (emSrc e < userEnd ∨ (emDepot e ∧ emDst e < userEnd) ∨ s.jobTouchesMedia j) ∧ s.mediaBusy ≠ 0 then s.fail p s.mediaBusy
  else
    let x : EmbedCmd :=
      { place := p, job := j, src := emSrc e, items := emItems e, itemBytes := emBytes e, outBytes := emOut e, cap := s.rowCapOf j
        dst := emDst e, inDepot := emDepot e, staging := (0, 0) }
    s.startEmbed x fun s => s.feedEmbed p

/-! ## INGEST (R381) -/

/-- INGEST taken: step 1, and the items' data is asked for. -/
def State.ingestTaken (p : Nat) (e : List Byte) (s : State) : State :=
  let j := inJob e
  if !ingestFields e then s.fail p 0x1001
  else s.withRoot (inRoot e) p true fun r s =>
    if !s.encoderOk j (inBytes e) r.vec ∨ s.refusesRun j then s.fail p 0x1001
    else if s.fbit F.flsHealthExhausted 0 then s.fail p 0x2003
    else
      let x : EmbedCmd :=
        { place := p, job := j, src := inDst e, items := inItems e, itemBytes := inBytes e, outBytes := r.vec, cap := s.rowCapOf j
          dst := 0, inDepot := true, staging := (0, 0), root := some r.at_ }
      s.startEmbed x fun s => (s.setCmd p { s.cmd p with ranges := [(inSrc e, inItems e * inBytes e)] }).writeGo p

/-- Step 3: every page of the items has an even generation again. -/
def State.ingestGoes (s : State) (p : Nat) : State :=
  let c := s.cmd p
  if sqOpcode c.entry = 0x0B ∧ s.open p ∧ !c.ready ∧ c.phase = 1 then ((s.wrote p).setCmd p { c with phase := 2 }).feedEmbed p else s

/-- INGESTs whose items have been written go on. -/
def State.ingestsGo (s : State) : State := (s.host.cmds.map (·.1)).foldl State.ingestGoes s

/-! ## The rows -/

/-- EMBED (R376). -/
def execEmbed (q : QueueId) (s : State) : Host.Outcome State Fault Refusal :=
  .next (s.onEntry q (fun e => sqOpcode e = 0x0A) State.embedTaken)

/-- INGEST (R381). -/
def execIngest (q : QueueId) (s : State) : Host.Outcome State Fault Refusal :=
  .next (s.onEntry q (fun e => sqOpcode e = 0x0B) State.ingestTaken)

/-- CONTENT_WRITE_TURN (R265). -/
def execContentWriteTurn (page : Nat) (s : State) : Host.Outcome State Fault Refusal := .next (s.turn page).tierOn.ingestsGo

/-- DIRTY_LIMIT_RELEASE (R245). -/
def execDirtyLimitRelease (page : Nat) (s : State) : Host.Outcome State Fault Refusal := .next (s.releaseLimit page).tierOn.ingestsGo

end Sys2Proof.Machine
end

