-- ==== Sys2Proof/Machine/Batch.lean ====
section
/-! DEFINITION. The rows of RUN commands (R115 to R122, R451 to R453): writing a batch's outputs, and the
completion of the RUNs that own its rows. -/

namespace Sys2Proof.Machine

/-! ## Outputs (R122, R453) -/

/-- What is recorded for row k of a batch: an entry 64 + k is the row's own, and an entry r below 64 is that of pass row r, which
serves the rows that are r modulo 64 (log entry 27). -/
def statusOfRow (recorded : List (Nat × Nat)) (k : Nat) : Nat :=
  ((recorded.find? (fun x => x.1 = k % 64 || x.1 = 64 + k)).map (·.2)).getD 0

/-- A RUN has one row fewer to wait for; with the last it completes. -/
def State.rowDone (s : State) (p status : Nat) (written : Bool) : State :=
  let c := s.cmd p
  let c1 := { c with phase := c.phase + 1, result := c.result + bit written, status := if c.status = 0 then status else c.status }
  let s1 := s.setCmd p c1
  if c1.phase ≥ ruRows c.entry then s1.finish p c1.status c1.result else s1

/-- Write one row's output from staging, and account for it. -/
def State.outputRow (recorded : List (Nat × Nat)) (size from_ : Nat) (s : State) (x : BatchRow × Nat) : State :=
  match x.1.place with
  | none => s
  | some p =>
    if !s.open p then s
    else
      let e := (s.cmd p).entry
      let a := from_ + x.2 * size
      let at_ := ruOutAddr e + x.1.row * size
      let bad := s.rangeStatus a size
      let st := if bad ≠ 0 then bad else if ruOutDepot e ∧ at_ < userEnd ∧ s.fbit F.flsHealthExhausted 0 then 0x2003 else 0
      if st ≠ 0 then s.rowDone p st false
      else
        let bs := s.depotRead a size
        (if ruOutDepot e then s.storeFor (some p) at_ bs else s.sendData at_ bs false).rowDone p (statusOfRow recorded x.2) true

/-- A batch's run has ended: the outputs of its real rows are written. -/
def State.outputRows (s : State) (rows : List BatchRow) (recorded : List (Nat × Nat)) (size from_ : Nat) : State :=
  rows.zipIdx.foldl (State.outputRow recorded size from_) s

/-- What a RUN's depot outputs hold when it ends without them: undefined contents (R229, R419). -/
def State.spoilOutputs (s : State) (p : Nat) : State :=
  let e := (s.cmd p).entry
  if !ruOutDepot e then s
  else
    let n := ruRows e * ruOut e
    let b := s.drawBytes n
    b.2.store (ruOutAddr e) b.1

/-- The RUNs that own rows of a batch that cannot be finished complete with the cause's status (R289). -/
def State.failRows (s : State) (rows : List BatchRow) (status : Nat) : State :=
  (placesOf rows).foldl (fun (s : State) p => s.finish p status (s.cmd p).result) s

end Sys2Proof.Machine
end

