-- ==== Sys2Proof/Machine/Lines.lean ====
section
/-! DEFINITION. Branch lines: the flit layer (R388 to R393), packets on it (R400, R402), and the choice of a path (R416). -/

namespace Sys2Proof.Machine

/-! ## A line's registers -/

/-- STATE of a line: 0 DISABLED, 1 DOWN, 2 TRAINING, 3 SERIAL, 4 UNASSIGNED, 5 UP, 6 RETRAIN, 7 FAILED. -/
def State.lineSt (s : State) (b : Nat) : Nat := s.fget F.brlLineStateState b

/-- Count on BRL.LINE_CTR of a line. -/
def State.lineCtr (s : State) (b i n : Nat) : State := s.bump F.brlLineCtrCount (13 * b + i) n

/-- A line's branch-line counter. -/
def State.lineCyc (s : State) (b : Nat) : Nat := s.cyc (islandOfLine b)

/-- This module's number; 0xFF with no table. -/
def State.self (s : State) : Nat := s.fget F.brlFabricSelf 0
def State.meshEpoch (s : State) : Nat := s.fget F.brlFabricEpoch 0

/-- The module the table names on a line; 0xFF for none. -/
def State.peerOn (s : State) (b : Nat) : Nat := (s.mesh.table.map (fun t => ftPeer t b)).getD 0xFF

/-- Bytes queued for a line. -/
def Line.depth (l : Line) : Nat := (l.queue.map (fun p => p.bytes.length)).sum - l.sent.sum

/-- Replays of the last ms: 390,625 branch-line cyc. -/
def State.replaysLately (s : State) (b : Nat) : Nat := ((s.line b).replays.filter (fun t => s.lineCyc b < t + 390625)).length

/-- The three tests of R416. -/
def State.lineGood (s : State) (b : Nat) : Bool :=
  s.lineSt b = 5 && (s.line b).depth / 1024 ≤ s.fget F.brlMeshCfgDetourDepthKib 0 && s.replaysLately b ≤ s.fget F.brlLineCtlReplayThresh b

/-- Bring DEPTH_KIB and DETOURING of a line up to date. -/
def State.showLine (s : State) (b : Nat) : State :=
  (s.fset F.brlLineStateDepthKib b (min 0xFFFF ((s.line b).depth / 1024))).fset F.brlLineStateDetouring b
    (bit (s.peerOn b != 0xFF && !s.lineGood b))

/-! ## Codewords (R387) -/

/-- The message of a codeword as 514 symbols of 10 bits: 640 bytes of flit data, the counter and four zero bits. -/
def messageSymbols (data : List Byte) (count : Nat) : List Nat :=
  let m := leNat (padTo 640 data) + count % 65536 * 2 ^ 5120
  (List.range 514).map (fun i => bitsOf m (10 * i) 10)

/-- A codeword: its message and 30 parity symbols (R385). -/
def codewordSymbols (data : List Byte) (count : Nat) : List Nat :=
  let m := messageSymbols data count
  m ++ (List.range 30).map (fun i => Config.fecParity m i % 1024)

/-- Consecutive symbols go to lanes 0, 1, 2 and 3 in turn; and the symbols of a codeword from its lanes. -/
def lanesOf (syms : List Nat) : List (List Nat) :=
  (List.range 4).map (fun l => (List.range 136).map (fun i => syms.getD (4 * i + l) 0))
def symbolsOf (lanes : List (List Nat)) : List Nat := (List.range 544).map (fun i => (lanes.getD (i % 4) []).getD (i / 4) 0)

/-- The flit data and the counter that the message symbols of a codeword carry. -/
def messageNat (syms : List Nat) : Nat := (syms.take 514).foldr (fun x n => x % 1024 + 1024 * n) 0
def codewordData (syms : List Nat) : List Byte := leBytes 640 (messageNat syms % 2 ^ 5120)
def codewordCount (syms : List Nat) : Nat := bitsOf (messageNat syms) 5120 16

/-- Flit bytes go out: flits continue across codewords without gaps, and a codeword leaves once 640 bytes of them are there. -/
def Line.transmit (l : Line) (f : List Byte) : Line :=
  let bs := l.txFill ++ f
  if bs.length < 640 then { l with wire := f, txFill := bs }
  else
    { l with wire := f, txFill := bs.drop 640, txLanes := lanesOf (codewordSymbols (bs.take 640) l.txCount)
             txCount := (l.txCount + 1) % 65536 }

/-- The flit bytes of the codewords received: the receiver is aligned by the counter of the codeword they come from. -/
def Line.aligned (l : Line) (n : Nat) : Line :=
  { l with rxFill := (l.rxFill + n) % 640, rxCount := (l.rxCount + (l.rxFill + n) / 640) % 65536 }

/-- Lock: the receiver is aligned by the counter that arrives, and both sides begin a codeword. -/
def Line.locked (l : Line) (count : Nat) : Line := { l with txFill := [], rxFill := 0, rxCount := count % 65536 }

/-! ## Flits (R388, R389) -/

def flVc (f : List Byte) : Nat := bitsOf (byteField f 0 2) 12 3
def flSeq (f : List Byte) : Nat := bitsOf (byteField f 0 2) 0 12
def flAck (f : List Byte) : Nat := bitsOf (byteField f 2 2) 0 12
def flKind (f : List Byte) : Nat := bitsOf (byteField f 2 2) 12 2
def flNak (f : List Byte) : Bool := bitOf (byteField f 2 2) 14
/-- A credit return: VC and count. -/
def flCredit (f : List Byte) (off : Nat) : Nat × Nat := (bitsOf (byteField f off 2) 0 3, bitsOf (byteField f off 2) 3 10)
def flBody (f : List Byte) : List Byte := (f.drop 8).take 244

/-- A flit's CRC is right. -/
def flitGood (f : List Byte) : Bool := f.length = 256 && byteField f 252 4 = crc32 (f.take 252)

/-- The VCs whose credits a flit returns: the first two that owe any. -/
def Line.returns (l : Line) : List (Nat × Nat) :=
  (((List.range 8).map (fun v => (v, min 1023 (l.owed.getD v 0)))).filter (fun x => x.2 != 0)).take 2

/-- A flit with the line's current ACK, NAK and credit returns. -/
def Line.flit (l : Line) (seq vc kind : Nat) (body : List Byte) : List Byte :=
  let cr := fun i => (let x := l.returns.getD i (0, 0); leBytes 2 (x.1 + 8 * x.2) : List Byte)
  let b := leBytes 2 (seq + 2 ^ 12 * vc) ++ leBytes 2 (l.ackOut + 2 ^ 12 * kind + 2 ^ 14 * bit l.nak) ++ cr 0 ++ cr 1 ++ padTo 244 body
  b ++ leBytes 4 (crc32 b)

/-- After a flit, its credits are returned and NAK has been given. -/
def Line.gave (l : Line) (f : List Byte) : Line :=
  { l.transmit f with nak := false, owed := l.returns.foldl (fun o x => o.set x.1 (o.getD x.1 0 - x.2)) l.owed }

/-! ## Sending (R390 to R393) -/

/-- The body of the next flit of a VC: bytes of its packets one after another; how many packets it ends, and the bytes of the
next one that are then sent. The fuel is the room. -/
def flitBody : List Packet → Nat → Nat → List Byte × Nat × Nat
  | [], _, _ => ([], 0, 0)
  | p :: ps, off, room =>
    let rest := p.bytes.drop off
    if room < rest.length then (rest.take room, 0, off + room)
    else (let x := flitBody ps 0 (room - rest.length); (rest ++ x.1, x.2.1 + 1, x.2.2))

/-- A VC has a packet to send. -/
def Line.wants (l : Line) (v : Nat) : Bool := l.queue.any (fun p => p.vc = v)

/-- The next VC: 0, then 2 and 5, then the rest round-robin; only VC 0 on a line that is not UP. -/
def Line.pickVc (l : Line) (up : Bool) : Option Nat :=
  let rest := ([1, 3, 4, 6].filter (fun v => l.lastVc < v)) ++ ([1, 3, 4, 6].filter (fun v => v ≤ l.lastVc))
  (if up then 0 :: 2 :: 5 :: rest else [0]).find? (fun v => l.wants v && l.credits.getD v 0 != 0)

/-- Drop the first `n` packets of a VC from a queue. -/
def dropOf (v : Nat) : Nat → List Packet → List Packet
  | 0, ps => ps
  | _, [] => []
  | n + 1, p :: ps => if p.vc = v then dropOf v n ps else p :: dropOf v (n + 1) ps

/-- Send a PAYLOAD flit of a VC. -/
def State.sendPayload (s : State) (b v : Nat) : State :=
  let l := s.line b
  let ps := l.queue.filter (fun p => p.vc = v)
  let x := flitBody ps (l.sent.getD v 0) 244
  let f := l.flit l.nextSeq v 1 x.1
  let l1 := { l.gave f with
    nextSeq := (l.nextSeq + 1) % 4096
    replay := l.replay ++ [f]
    credits := l.credits.set v (l.credits.getD v 0 - 1)
    queue := dropOf v x.2.1 l.queue
    sent := l.sent.set v x.2.2
    flying := l.flying ++ (ps.take x.2.1).map (fun p => (l.nextSeq, p.bytes.take 32))
    lastVc := if v ∈ [1, 3, 4, 6] then v else l.lastVc }
  (((s.setLine b l1).lineCtr b 0 1).lineCtr b 7 x.2.1).showLine b

/-- The IDENT this side sends (R395). -/
def State.identBody (s : State) (b : Nat) : List Byte :=
  leBytes 1 1 ++ leBytes 1 b ++ leBytes 2 0x6420 ++ leBytes 8 (s.fget F.brlSerialSerial 0) ++ leBytes 1 s.self ++ zeros 3 ++
    leBytes 4 s.meshEpoch

/-- The line sends a flit: one being sent again, an IDENT that is due, a PAYLOAD flit, else IDLE. -/
def State.sendFlit (s : State) (b : Nat) : State :=
  let l := s.line b
  let st := s.lineSt b
  if st < 3 ∨ 5 < st then s
  else
    let held : Bool := (List.range 8).any (fun v => l.wants v && l.credits.getD v 0 = 0)
    let s1 := s.lineCtr b 12 (bit held)
    if l.again ≠ 0 ∧ 4 ≤ st then
      let old := l.replay.getD (l.replay.length - l.again) []
      let f := l.flit (flSeq old) (flVc old) 1 (flBody old)
      s1.setLine b { l.gave f with again := l.again - 1 }
    else if l.identDue then s1.setLine b { l.gave (l.flit l.nextSeq 0 2 (s.identBody b)) with identDue := false }
    else
      match if st = 3 ∨ 1024 ≤ l.replay.length then none else l.pickVc (st = 5) with
      | some v => s1.sendPayload b v
      | none => s1.setLine b (l.gave (l.flit l.nextSeq 0 0 []))

/-! ## Receiving (R391, R392) -/

/-- Cut a VC's bytes into packets: those that end, and what is left of one that does not. A length word that no packet can have
is the padding of the flit's end. The fuel is the number of bytes. -/
def cutPackets (v : Nat) : Nat → List Byte → List Packet × List Byte
  | 0, _ => ([], [])
  | fuel + 1, bs =>
    let n := byteField bs 0 4
    if bs.length < 4 ∨ n < 32 then ([], [])
    else if bs.length < n then ([], bs)
    else (let x := cutPackets v fuel (bs.drop n); (⟨v, bs.take n, 0⟩ :: x.1, x.2))

/-- Give the flits that ended to the packets they ended in. -/
def creditFlits (waiting : Nat) (whole : Bool) : List Packet → List Packet
  | [] => []
  | [p] => [{ p with flits := waiting + bit whole }]
  | p :: ps => { p with flits := waiting } :: creditFlits 0 whole ps

/-- Take the body of an accepted flit into its VC's stream. -/
def Line.takeBody (l : Line) (v : Nat) (body : List Byte) : Line :=
  let x := cutPackets v 256 (l.partials.getD v [] ++ body)
  let whole : Bool := x.2 = []
  let w := l.partFlits.getD v 0
  { l with
    partials := l.partials.set v x.2
    received := l.received ++ creditFlits w whole x.1
    partFlits := l.partFlits.set v ((if x.1 = [] then w else 0) + bit (!whole))
    owed := if x.1 = [] ∧ whole then l.owed.set v (l.owed.getD v 0 + w + 1) else l.owed }

/-- Credits returned by the peer, up to its receive buffers (R392). -/
def vcBuffers : List Nat := [32, 640, 640, 288, 192, 160, 96, 0]
def Line.credited (l : Line) (x : Nat × Nat) : Line :=
  { l with credits := l.credits.set x.1 (min (vcBuffers.getD x.1 0) (l.credits.getD x.1 0 + x.2)) }

/-- An ACK: the flits up to it leave the replay buffer; an advance ends a row of replays. -/
def Line.acked (l : Line) (a : Nat) : Line :=
  match l.replay.findIdx? (fun f => flSeq f = a) with
  | none => l
  | some i =>
    let seqs := (l.replay.take (i + 1)).map flSeq
    let left := l.replay.drop (i + 1)
    { l with replay := left, again := min l.again left.length, stuck := 0, flying := l.flying.filter (fun x => !seqs.contains x.1) }

/-- A PAYLOAD flit, or a bad one, is discarded: the first one asks for a replay. -/
def Line.discard (l : Line) : Line := if l.discarding then l else { l with discarding := true, nak := true }

/-- A replay starts: the unacknowledged flits are to be sent again. -/
def State.startReplay (s : State) (b : Nat) : State :=
  let l := s.line b
  if l.replay = [] then s
  else
    (((s.setLine b { l with again := l.replay.length, stuck := l.stuck + 1
                            replays := (l.replays.filter (fun t => s.lineCyc b < t + 390625)) ++ [s.lineCyc b] }).lineCtr b 5 1).showLine b)

/-- A good flit's ACK, credits and body. -/
def State.takeFlit (s : State) (b : Nat) (f : List Byte) : State :=
  let l := (((s.line b).acked (flAck f)).credited (flCredit f 4)).credited (flCredit f 6)
  let s1 := if flKind f ≠ 1 then s.setLine b l
    else if flSeq f = (l.ackOut + 1) % 4096 then
      let l1 := { l.takeBody (flVc f) (flBody f) with ackOut := flSeq f, discarding := false }
      ((s.setLine b l1).lineCtr b 1 1).lineCtr b 8 (l1.received.length - l.received.length)
    else s.setLine b l.discard
  if flNak f then s1.startReplay b else s1

/-! ## Packets (R400 to R402) -/

def pkLen (p : List Byte) : Nat := byteField p 0 4
def pkType (p : List Byte) : Nat := byteField p 4 1
def pkSecond (p : List Byte) : Bool := bitOf (byteField p 5 1) 0
def pkAbandoned (p : List Byte) : Bool := bitOf (byteField p 5 1) 1
def pkTotal (p : List Byte) : Bool := bitOf (byteField p 5 1) 2
def pkError (p : List Byte) : Bool := bitOf (byteField p 5 1) 3
def pkSrc (p : List Byte) : Nat := byteField p 6 1
def pkDst (p : List Byte) : Nat := byteField p 7 1
def pkVia (p : List Byte) : Nat := byteField p 8 1
def pkBinding (p : List Byte) : Nat := byteField p 9 1
def pkEpoch (p : List Byte) : Nat := byteField p 12 4
def pkStep (p : List Byte) : Nat := byteField p 16 4
def pkLayer (p : List Byte) : Nat := byteField p 20 2
def pkCount (p : List Byte) : Nat := byteField p 24 4
def pkTag (p : List Byte) : Nat := byteField p 28 4
def pkAddr (p : List Byte) : Nat := byteField p 16 8
def pkOp (p : List Byte) : Nat := byteField p 16 1
/-- The step a STEP_ABORT names. -/
def pkAbortStep (p : List Byte) : Nat := byteField p 24 4

/-- A direct packet from this module: TYPE, FLAGS, DST, BINDING, bytes 16 to 31 and its body. -/
def State.packet (s : State) (type flags dst binding : Nat) (tail body : List Byte) : List Byte :=
  leBytes 4 (32 + body.length) ++ leBytes 1 type ++ leBytes 1 flags ++ leBytes 1 s.self ++ leBytes 1 dst ++ leBytes 1 0xFF ++
    leBytes 1 binding ++ zeros 2 ++ leBytes 4 s.meshEpoch ++ padTo 16 tail ++ body

/-- The VC of a packet (R392). -/
def vcOf (p : List Byte) : Nat :=
  let t := pkType p
  if t = 5 then 0 else if t = 1 then (if pkSecond p then 4 else 1) else if t = 3 then (if pkSecond p then 6 else 3)
  else if pkSecond p then 5 else 2

/-- Queue a closed packet on a line: it crosses from the die's depot cache into the line's island (R210, R215, R400). -/
def State.queueOn (s0 : State) (b : Nat) (p : List Byte) : State :=
  let s := s0.crossPacket (islandOfCache (b / 6)) (islandOfLine b) 0 24 p
  let l := s.line b
  (s.setLine b { l with queue := l.queue ++ [⟨vcOf p, p, 0⟩] }).showLine b

/-- The LINK_STATE body: every line's peer, whether it is UP, and its depth. -/
def State.linkBody (s : State) : List Byte :=
  (List.range 24).flatMap (fun b =>
    leBytes 1 (s.peerOn b) ++ leBytes 1 (bit (s.lineSt b = 5)) ++ leBytes 2 (s.fget F.brlLineStateDepthKib b))

/-- Send LINK_STATE on every line in UP or UNASSIGNED. -/
def State.sendLinkStates (s : State) : State :=
  ((List.range 24).filter (fun b => s.lineSt b = 4 || s.lineSt b = 5)).foldl (fun (s : State) b =>
    s.queueOn b (s.packet 5 0 (s.fget F.brlLineStatePeerMod b) 0xFF (leBytes 1 1) s.linkBody)) s

/-- A line changes state; LINK_STATE is sent at once. -/
def State.lineTo (s : State) (b st : Nat) : State :=
  if s.lineSt b = st then s else ((s.fset F.brlLineStateState b st).showLine b).sendLinkStates

/-! ## Paths (R406, R416) -/

/-- The lines to a module. -/
def State.linesTo (s : State) (m : Nat) : List Nat := (List.range 24).filter (fun b => s.peerOn b = m)

/-- The next line of some, after the one used last towards a module. -/
def State.nextLine (s : State) (m : Nat) (bs : List Nat) : Option Nat :=
  let last := Tbl.look 0 s.mesh.lastLine m
  match bs.find? (fun b => last ≤ b) with
  | some b => some b
  | none => bs.head?

/-- A line has been used towards a module. -/
def State.usedLine (s : State) (m b : Nat) : State := s.setMesh { s.mesh with lastLine := Tbl.put 0 s.mesh.lastLine m (b + 1) }

/-- The smallest of some numbers with what they belong to; the first on a tie. -/
def leastOf {α : Type} : List (Nat × α) → Option (Nat × α)
  | [] => none
  | x :: xs => match leastOf xs with
    | none => some x
    | some y => if y.1 < x.1 then some y else some x

/-- The good line towards an intermediate with the least queued. -/
def State.lineVia (s : State) (v : Nat) : Option (Nat × Nat) :=
  leastOf (((s.linesTo v).filter s.lineGood).map (fun b => (s.fget F.brlLineStateDepthKib b, b)))

/-- What the peer on a line last reported of its own lines to a module: the least depth of those UP. -/
def State.reported (s : State) (b m : Nat) : Option Nat :=
  (leastOf (((s.line b).report.filter (fun r => r.1 = m && r.2.1)).map (fun r => (r.2.2, ())))).map (·.1)

/-- The intermediate for a module, with the line to it (R416). -/
def State.intermediate (s : State) (n m : Nat) (without : List Nat) : Option (Nat × Nat) :=
  match s.mesh.table with
  | none => none
  | some t =>
    let vs := if n ≥ ftBindings t then [] else (fbParts t n).filter (fun v => v != s.self && v != m && !without.contains v && (s.linesTo v).all (fun b => !ftNoVia t b))
    (leastOf (vs.filterMap (fun v => (s.lineVia v).bind (fun x => (s.reported x.2 m).map (fun d => (x.1 + d, v, x.2)))))).map (·.2)

/-- Send a closed packet to a module by R416; none where the module cannot be reached. -/
def State.sendTo (s : State) (n m : Nat) (p : List Byte) (without : List Nat) : Option State :=
  match s.nextLine m ((s.linesTo m).filter s.lineGood) with
  | some b => some ((s.usedLine m b).queueOn b p)
  | none =>
    match s.intermediate n m without with
    | some (v, b) =>
      let q := p.set 8 (BitVec.ofNat 8 v)
      let old := s.mesh.hops.filter (fun h => h.tag != pkTag p)
      some (((s.setMesh { s.mesh with hops := old ++ [⟨pkTag p, p, without⟩] }).queueOn b q).lineCtr b 10 1)
    | none =>
      match s.nextLine m ((s.linesTo m).filter (fun b => s.lineSt b = 5)) with
      | some b => some ((s.usedLine m b).queueOn b p)
      | none => none

/-- The TAG of the next packet. -/
def State.newTag (s : State) : Nat × State := (s.mesh.tag, s.setMesh { s.mesh with tag := (s.mesh.tag + 1) % 2 ^ 32 })

/-! ## Packets received -/

/-- The first packet received on a line that passes a test. -/
def State.packetOn (s : State) (b : Nat) (ok : List Byte → Bool) : Option Packet := (s.line b).received.find? (fun p => ok p.bytes)

/-- A received packet is taken in: its credits are returned (R392). -/
def State.takeIn (s : State) (b : Nat) (p : Packet) : State :=
  let l := s.line b
  s.setLine b { l with received := l.received.erase p, owed := l.owed.set p.vc (l.owed.getD p.vc 0 + p.flits) }

/-- A received packet is taken in and counted as discarded (R403, R404). -/
def State.discardIn (s : State) (b : Nat) (p : Packet) : State := (s.takeIn b p).lineCtr b 9 1

/-- The packet is for this module. -/
def State.isMine (s : State) (p : List Byte) : Bool := pkDst p = s.self

end Sys2Proof.Machine
end

