-- ==== Sys2Proof/Machine/Mesh.lean ====
section
/-! DEFINITION. The expert mesh (R400 to R420): a binding's steps, their packets, and what ends them early. -/

namespace Sys2Proof.Machine

/-! ## A binding -/

/-- Count on BRL.MESH_CTR. -/
def State.meshCtr (s : State) (i n : Nat) : State := s.bump F.brlMeshCtrCount i n

/-- STEP of a binding: the current or next step. -/
def State.stepNo (s : State) (n : Nat) : Nat := s.fget F.brlBindStep n

/-- The home jobs' ROW_CAPs: the largest, and the job with the smallest that holds some rows. -/
def State.chunkCap (s : State) (t : List Byte) (n : Nat) : Nat := ((fbHomes t n).map s.rowCapOf).foldl max 0
def State.chunkJobs (s : State) (t : List Byte) (n rows : Nat) : List Nat :=
  let fit := (fbHomes t n).filter (fun j => rows ≤ s.rowCapOf j)
  let least := (fit.map s.rowCapOf).foldl min (s.chunkCap t n)
  fit.filter (fun j => s.rowCapOf j = least)

/-- Show a binding's layer and phase (BRL.BIND). -/
def State.showBind (s : State) (n : Nat) : State :=
  let x := s.mstep n
  let layers := (s.mesh.table.map (fun t => fbLayers t n)).getD 0
  let phase := if !x.running then 0 else if x.inRun then 1 else if x.collected then 4
    else if x.homeLayer < layers ∧ (x.batch.isNone ∨ x.homeLayer ≤ x.originLayer) then 3 else if x.due ≠ [] then 5 else 3
  (s.fset F.brlBindLayer n (if x.batch.isSome then x.originLayer else x.homeLayer)).fset F.brlBindPhase n phase

/-- Change a binding's step. -/
def State.putStep (s : State) (n : Nat) (x : Step) : State := (s.setMstep n x).showBind n

/-! ## The end of a step -/

/-- A step is over: the next one is S + 1, or a later step that a packet has named (R404); its packets are kept. -/
def State.closeStep (s : State) (n status : Nat) : State :=
  let now := s.stepNo n
  let early := (s.mstep n).early.filter (fun p => now < pkStep p)
  let next := (early.map pkStep).foldl max (now + 1)
  let keep := early.filter (fun p => pkStep p = next)
  let s1 := (s.fset F.brlBindStep n next).fset F.brlBindLastStatus n status
  let s2 := (s1.setMesh { s1.mesh with hops := s1.mesh.hops.filter (fun h => pkBinding h.bytes != n) }).meshCtr 3 (next - (now + 1))
  s2.putStep n { early := keep, waiting := keep != [] }

/-- A run serves a binding's step. -/
def RunFor.ofStep (n : Nat) : RunFor → Bool
  | .mesh m _ => m = n
  | .origin m => m = n
  | _ => false

/-- A run of a binding's step is in progress. -/
def State.stepRuns (s : State) (n : Nat) : Bool :=
  s.jobs.any (fun h => (h.2.run.map (fun r => r.what.ofStep n)).getD false)

/-- Requests of a binding's step that have not begun are withdrawn. -/
def State.dropStepRequests (s : State) (n : Nat) : State :=
  (s.jobs.map (·.1)).foldl (fun (s : State) j =>
    let h := s.job j
    let q := h.queue.filter (fun x => !x.1.ofStep n)
    if q = h.queue then s else (s.setJob j { h with queue := q }).fset F.jobStatePending j q.length) s

/-- An aborted step ends once the runs already running have ended: the batch's RUNs complete with its status, their output
buffers undefined (R419). -/
def State.settleAbort (s : State) (n : Nat) : State :=
  let x := s.mstep n
  match x.aborted with
  | none => s
  | some status =>
    if s.stepRuns n then s
    else
      let rows := (x.batch.map Batch.rows).getD []
      let s1 := ((placesOf rows).foldl State.spoilOutputs s).failRows rows status
      (s1.meshCtr (if status = 0x3003 then 2 else 1) 1).closeStep n status

/-- A STEP_ABORT for a participant. -/
def State.abortPacket (s : State) (n m status : Nat) : List Byte :=
  s.packet 5 0 m 0xFF (leBytes 1 2 ++ zeros 3 ++ leBytes 1 n ++ zeros 3 ++ leBytes 4 (s.stepNo n) ++ leBytes 2 status) []

/-- Abort a binding's step (R419): this module tells the others where the cause is its own. -/
def State.abortStep (s : State) (n status : Nat) (tell : Bool) : State :=
  let x := s.mstep n
  if !x.running ∨ x.aborted.isSome then s
  else
    let s1 := match s.mesh.table with
      | some t => if tell then ((fbParts t n).filter (· != s.self)).foldl (fun (s : State) m =>
          (s.sendTo n m (s.abortPacket n m status) []).getD s) s else s
      | none => s
    let s2 := (s1.setMstep n { x with aborted := some status, chunks := x.chunks, due := [], totals := [], entries := [], rows := []
                                      collected := false, inRun := false }).dropStepRequests n
    (s2.showBind n).settleAbort n

/-- The step ends as it should: A(LAYERS) is over, or there was no batch, and the home has served every layer. -/
def State.endStep (s : State) (n : Nat) : State :=
  match s.mesh.table with
  | none => s
  | some t =>
    let x := s.mstep n
    if !x.running ∨ x.aborted.isSome ∨ x.homeLayer < fbLayers t n ∨ (x.batch.isSome ∧ !x.originDone) then s
    else
      let h := s.job (fbOrigin t n)
      let size := (h.batcher.sizes.getD (0, 0)).2
      let s1 := match x.batch with
        | some b => s.outputRows b.rows x.rowStatus size (stagingOf h (fbRows t n) b).2
        | none => s
      (s1.meshCtr 0 1).closeStep n 0

/-! ## The home's part (R408 to R410, R413) -/

/-- Send a closed packet of a binding; a module that cannot be reached aborts the step with 0x3004 (R416). -/
def State.sendPart (s : State) (n m : Nat) (p : List Byte) : State :=
  match s.sendTo n m p [] with
  | some s1 => s1
  | none => s.abortStep n 0x3004 true

/-- Send RETURN entries of a layer to an origin, as many to a packet as fit (R400). The fuel is their number. -/
def State.sendReturns (s : State) (t : List Byte) (n m layer : Nat) (abandoned : Bool) : Nat → List (List Byte) → State
  | 0, _ => s
  | _ + 1, [] => s
  | fuel + 1, es =>
    let k := max 1 (65504 / (16 + fbRowBytes t n))
    let tag := s.newTag
    let last : Bool := es.length ≤ k
    let p := tag.2.packet 2 (2 * bit (abandoned && last)) m n
      (leBytes 4 (s.stepNo n) ++ leBytes 4 layer ++ leBytes 4 (min k es.length) ++ leBytes 4 tag.1) ((es.take k).flatten)
    (tag.2.sendPart n m p).sendReturns t n m layer abandoned fuel (es.drop k)

/-- The slot of the returned rows that an output goes to (R407). -/
def slotAt (t : List Byte) (n row slot : Nat) : Nat := returnedAt t n + (8 * row + slot) * fbRowBytes t n

/-- A row's output has returned to its slot. -/
def State.returnRow (s : State) (t : List Byte) (n row slot : Nat) (bs : List Byte) : State :=
  let x := s.mstep n
  if !x.due.contains (row, slot) then s
  else (s.store (slotAt t n row slot) bs).setMstep n { x with due := x.due.erase (row, slot) }

/-- The heads of a chunk's rows: ORIGIN, SLOT, ROW and the address of the output row. -/
def State.chunkRows (s : State) (t : List Byte) (n : Nat) (c : Chunk) : List (Nat × Nat × Nat × Nat) :=
  (List.range c.rows).map (fun i =>
    let a := regionAt t n c.expert + 16 * (c.first + i)
    (s.depotNat a 1, s.depotNat (a + 1) 1, s.depotNat (a + 4) 4, outRowsAt t n c.expert + (c.first + i) * fbRowBytes t n))

/-- A home run's outputs return: to this module's own slots, or in RETURN packets; an output that cannot be read ends its packet
and aborts the step (R403). -/
def State.returnChunk (s : State) (t : List Byte) (n : Nat) (c : Chunk) : State :=
  let rb := fbRowBytes t n
  let rows := s.chunkRows t n c
  let bad := ((rows.map (fun r => s.rangeStatus r.2.2.2 rb)).find? (· != 0)).getD 0
  let good := rows.takeWhile (fun r => s.rangeStatus r.2.2.2 rb = 0)
  let s1 := (good.filter (fun r => r.1 = s.self)).foldl (fun (s : State) r => s.returnRow t n r.2.2.1 r.2.1 (s.depotRead r.2.2.2 rb)) s
  let s2 := (((rows.map (·.1)).dedup).filter (· != s.self)).foldl (fun (s : State) m =>
    let es := (good.filter (fun r => r.1 = m)).map (fun r =>
      leBytes 4 r.2.2.1 ++ leBytes 1 r.2.1 ++ zeros 11 ++ s.depotRead r.2.2.2 rb)
    s.sendReturns t n m (s.mstep n).homeLayer (bad != 0) (es.length + 1) es) s1
  if bad ≠ 0 then s2.abortStep n bad true else s2

/-- Give waiting chunks, in order, to home jobs that are free (R410). -/
def State.giveChunk (t : List Byte) (n : Nat) (s : State) (i : Nat) : State :=
  let x := s.mstep n
  match x.chunks[i]? with
  | none => s
  | some c =>
    if c.job ≠ 0 ∨ x.aborted.isSome then s
    else
      match (s.chunkJobs t n c.rows).find? (fun j => (s.job j).run.isNone && (s.job j).queue = []) with
      | none => s
      | some j =>
        if s.refusesRun j then s.abortStep n 0x1001 true
        else ((s.setMstep n { x with chunks := x.chunks.set i { c with job := j } }).meshCtr 6 1).requestRun j (.mesh n i) false

def State.giveChunks (s : State) (t : List Byte) (n : Nat) : State :=
  (List.range (s.mstep n).chunks.length).foldl (State.giveChunk t n) s

/-- The chunks of a region's rows (R410). -/
def cutRows (cap u : Nat) : Nat → Nat → Nat → List Chunk
  | 0, _, _ => []
  | fuel + 1, first, rows =>
    if rows = 0 then []
    else { expert := u, first := first, rows := min cap rows, job := 0 } :: cutRows cap u fuel (first + cap) (rows - min cap rows)

/-- Write a local expert's row count (R408). -/
def State.writeCount (s : State) (t : List Byte) (n u c : Nat) : State := s.storeNat (fbXHome t n + 4 * u) 4 c

/-- Store one expert's part of an entry in its region. -/
def State.storePart (t : List Byte) (n src row : Nat) (head hidden : List Byte) (s : State) (i : Nat) : State :=
  let x := s.mstep n
  let u := byteField head (8 + i) 1
  let c := Tbl.look 0 x.rows u
  if x.aborted.isSome then s
  else if c ≥ fbHomeCap t n then
    let e := ((List.range (fbExperts t n)).find? (fun e =>
      fbHomeOf t n x.homeLayer e = s.self && fbLocal t n x.homeLayer e = u)).getD 0
    (s.event 17 0x0402 0 x.homeLayer e).abortStep n 0x3004 true
  else
    let s1 := s.store (regionAt t n u + 16 * c) (leBytes 1 src ++ leBytes 1 (byteField head (16 + i) 1) ++ zeros 2 ++ leBytes 4 row ++ zeros 8)
    let s2 := (s1.storeNat (gatesAt t n u + 4 * c) 4 (byteField head (24 + 4 * i) 4)).store (inRowsAt t n u + c * fbRowBytes t n) hidden
    (s2.writeCount t n u (c + 1)).setMstep n { x with rows := Tbl.put 0 x.rows u (c + 1) }

/-- Take one DISPATCH entry into the regions. -/
def State.storeEntry (t : List Byte) (n src : Nat) (body : List Byte) (s : State) (k : Nat) : State :=
  let e := (body.drop (k * (64 + fbRowBytes t n))).take (64 + fbRowBytes t n)
  (List.range (byteField e 4 1)).foldl (State.storePart t n src (byteField e 0 4) (e.take 64) (e.drop 64)) s

/-- Take a DISPATCH of the layer that is collected: its entries, or a total. -/
def State.takeLayerPart (t : List Byte) (n : Nat) (s : State) (p : List Byte) : State :=
  let x := s.mstep n
  if pkTotal p then
    if x.totals.any (fun y => y.1 = pkSrc p) then s else s.setMstep n { x with totals := x.totals ++ [(pkSrc p, pkCount p)] }
  else
    let s1 := s.setMstep n { x with entries := Tbl.put 0 x.entries (pkSrc p) (Tbl.look 0 x.entries (pkSrc p) + pkCount p) }
    (List.range (pkCount p)).foldl (State.storeEntry t n (pkSrc p) (p.drop 32)) s1

/-- Every participant's total has come, with as many entries. -/
def State.layerHere (s : State) (t : List Byte) (n : Nat) : Bool :=
  let x := s.mstep n
  (fbParts t n).all (fun m => x.totals.any (fun y => y.1 = m && Tbl.look 0 x.entries m = y.2))

/-- Begin a layer at the home: the counts are 0, and what has come for it is taken. -/
def State.beginLayer (s : State) (t : List Byte) (n : Nat) : State :=
  let x := s.mstep n
  let mine := fun p : List Byte => (pkType p = 1 && pkStep p = s.stepNo n && pkLayer p = x.homeLayer : Bool)
  let s1 := s.store (fbXHome t n) (zeros (4 * fbExpertsAt t n x.homeLayer s.self))
  let y := { x with early := x.early.filter (fun p => !mine p), rows := [], totals := [], entries := [], chunks := [], doneChunks := [], collected := false }
  (x.early.filter mine).foldl (State.takeLayerPart t n) (s1.setMstep n y)

/-- Go on at the home as far as possible: a layer that is all there is cut into chunks; one without rows, or whose chunks are
done, gives way to the next. The fuel bounds the layers. -/
def State.homeGoes (s : State) (t : List Byte) (n : Nat) : Nat → State
  | 0 => s
  | fuel + 1 =>
    let x := s.mstep n
    if !x.running ∨ x.aborted.isSome ∨ x.homeLayer ≥ fbLayers t n then s
    else if !x.collected then
      if !s.layerHere t n then s.showBind n
      else
        let cs := (List.range 256).flatMap (fun u => cutRows (max 1 (s.chunkCap t n)) u 65536 0 (Tbl.look 0 x.rows u))
        ((s.putStep n { x with collected := true, chunks := cs }).giveChunks t n).homeGoes t n fuel
    else if x.doneChunks.length < x.chunks.length then s
    else ((s.setMstep n { x with homeLayer := x.homeLayer + 1 }).beginLayer t n).homeGoes t n fuel

/-- The home goes on, and the step ends with its last layer. -/
def State.homeOn (s : State) (n : Nat) : State :=
  match s.mesh.table with
  | none => s
  | some t => ((s.homeGoes t n (2 * fbLayers t n + 2)).showBind n).endStep n

/-- A home run has ended (R410 step 4). -/
def State.homeRan (s : State) (n i status : Nat) (abandoned : Bool) : State :=
  let x := s.mstep n
  match s.mesh.table, x.chunks[i]? with
  | some t, some c =>
    if x.aborted.isSome then s.settleAbort n
    else if abandoned then s.abortStep n status true
    else
      let s1 := s.returnChunk t n c
      let y := s1.mstep n
      if y.aborted.isSome then s1 else ((s1.setMstep n { y with doneChunks := y.doneChunks ++ [i] }).giveChunks t n).homeOn n
  | _, _ => s

/-! ## The origin's part (R407, R410) -/

/-- Request the origin run A(ℓ). -/
def State.requestOrigin (s : State) (t : List Byte) (n : Nat) : State :=
  let j := fbOrigin t n
  if s.refusesRun j then s.abortStep n 0x1001 true
  else (s.putStep n { s.mstep n with inRun := true }).requestRun j (.origin n) true

/-- The list entry of a row: gate and expert (R407). An entry that names no expert of the layer is unused (log entry 37). -/
def State.listEntry (s : State) (t : List Byte) (n row i : Nat) : Nat × Nat :=
  (s.depotNat (fbXOrigin t n + 64 * row + 8 * i) 4, s.depotNat (fbXOrigin t n + 64 * row + 8 * i + 4) 4)

/-- The used list entries of the real rows: (row, slot). -/
def State.usedEntries (s : State) (t : List Byte) (n rows : Nat) : List (Nat × Nat) :=
  (List.range rows).flatMap (fun r => ((List.range (fbTopK t n)).filter (fun i => (s.listEntry t n r i).2 < fbExperts t n)).map (fun i => (r, i)))

/-- One row's entry for a home: its experts there. -/
def State.dispatchEntry (s : State) (t : List Byte) (n layer row : Nat) (slots : List Nat) : List Byte :=
  let x := slots.map (fun i => (i, s.listEntry t n row i))
  let pad := List.replicate (8 - slots.length) (0xFF : Byte)
  leBytes 4 row ++ leBytes 1 slots.length ++ zeros 3 ++ x.flatMap (fun y => leBytes 1 (fbLocal t n layer y.2.2)) ++ pad ++
    slots.flatMap (leBytes 1) ++ pad ++ padTo 32 (x.flatMap (fun y => leBytes 4 y.2.1)) ++ zeros 8 ++
    s.depotRead (outgoingAt t n + row * fbRowBytes t n) (fbRowBytes t n)

/-- Take a DISPATCH at this module: now, or kept for a later layer. -/
def State.deliverStep (s : State) (t : List Byte) (n : Nat) (p : List Byte) : State :=
  let x := s.mstep n
  if pkLayer p = x.homeLayer ∧ !x.collected then State.takeLayerPart t n s p else s.setMstep n { x with early := x.early ++ [p] }

/-- Send a home its entries of a layer, as many to a packet as fit, the last closed as ABANDONED where a row after it could not be read
(R403); this module's own are taken at once. The fuel is their number. -/
def State.sendEntries (s : State) (t : List Byte) (n m layer : Nat) (abandoned : Bool) : Nat → List (List Byte) → State
  | 0, _ => s
  | _ + 1, [] => s
  | fuel + 1, es =>
    let k := if m = s.self then es.length else max 1 (65504 / (64 + fbRowBytes t n))
    let tag := s.newTag
    let p := tag.2.packet 1 (2 * bit (abandoned && es.length ≤ k)) m n (leBytes 4 (s.stepNo n) ++ leBytes 4 layer ++ leBytes 4 (min k es.length) ++ leBytes 4 tag.1) ((es.take k).flatten)
    if m = s.self then tag.2.deliverStep t n p
    else ((tag.2.sendPart n m p).meshCtr 4 (min k es.length)).sendEntries t n m layer abandoned fuel (es.drop k)

/-- Tell a home how many entries it was sent for a layer. -/
def State.sendTotal (s : State) (t : List Byte) (n m layer count : Nat) : State :=
  let tag := s.newTag
  let p := tag.2.packet 1 4 m n (leBytes 4 (s.stepNo n) ++ leBytes 4 layer ++ leBytes 4 count ++ leBytes 4 tag.1) []
  if m = s.self then tag.2.deliverStep t n p else tag.2.sendPart n m p

/-- The status that the route lists of some rows meet, and that of an outgoing row. -/
def State.listsBad (s : State) (t : List Byte) (n rows : Nat) : Nat := if rows = 0 then 0 else s.rangeStatus (fbXOrigin t n) (64 * rows)
def State.rowBad (s : State) (t : List Byte) (n r : Nat) : Nat :=
  s.rangeStatus (outgoingAt t n + r * fbRowBytes t n) (fbRowBytes t n)

/-- A(ℓ) has ended: its rows go to their experts' homes (R410 step 2). At an outgoing row that cannot be read the packets being written
are abandoned and the step is aborted with the read's status (R403). -/
def State.dispatchLayer (s : State) (t : List Byte) (n : Nat) : State :=
  let x := s.mstep n
  let rows := ((x.batch.map Batch.rows).getD []).length
  let l := x.originLayer
  if s.listsBad t n rows ≠ 0 then s.abortStep n (s.listsBad t n rows) true
  else
    let bad := (((List.range rows).map (s.rowBad t n)).find? (· != 0)).getD 0
    let good := (List.range rows).takeWhile (fun r => s.rowBad t n r = 0)
    let used := s.usedEntries t n rows
    let home := fun y : Nat × Nat => fbHomeOf t n l (s.listEntry t n y.1 y.2).2
    let s1 := s.putStep n { x with due := used, inRun := false }
    let order := s.self :: (fbParts t n).filter (· != s.self)
    let entriesFor := fun m : Nat =>
      (good.filter (fun r => used.any (fun y => y.1 = r && home y = m))).map (fun r =>
        s.dispatchEntry t n l r ((used.filter (fun y => y.1 = r && home y = m)).map (·.2)))
    if bad ≠ 0 then
      ((order.filter (· != s.self)).foldl (fun (s : State) m =>
        s.sendEntries t n m l true ((entriesFor m).length + 1) (entriesFor m)) s1).abortStep n bad true
    else
      order.foldl (fun (s : State) m =>
        let es := entriesFor m
        (s.sendEntries t n m l false (es.length + 1) es).sendTotal t n m l es.length) s1

/-- Every used entry has returned: the unused slots are zeroed and the next origin run is requested (R410 step 5). -/
def State.originOn (s : State) (n : Nat) : State :=
  let x := s.mstep n
  match s.mesh.table, x.batch with
  | some t, some b =>
    if !x.running ∨ x.aborted.isSome ∨ x.inRun ∨ x.originDone ∨ x.due ≠ [] then s
    else
      let used := s.usedEntries t n b.rows.length
      let idle := (List.range b.rows.length).flatMap (fun r => ((List.range 8).map (fun i => (r, i))).filter (fun y => !used.contains y))
      let s1 := idle.foldl (fun (s : State) y => s.store (slotAt t n y.1 y.2) (zeros (fbRowBytes t n))) s
      (s1.setMstep n { s1.mstep n with originLayer := x.originLayer + 1 }).requestOrigin t n
  | _, _ => s

/-- Both parts go on. -/
def State.stepOn (s : State) (n : Nat) : State := (s.homeOn n).originOn n

/-- An origin run has ended. -/
def State.originRan (s : State) (n status : Nat) (recorded : List (Nat × Nat)) (abandoned : Bool) : State :=
  let x := s.mstep n
  match s.mesh.table with
  | none => s
  | some t =>
    if x.aborted.isSome then s.settleAbort n
    else if abandoned then s.abortStep n status true
    else
      let s1 := s.setMstep n { x with inRun := false, rowStatus := x.rowStatus ++ recorded }
      if x.originLayer ≥ fbLayers t n then (s1.putStep n { s1.mstep n with originDone := true }).endStep n
      else (s1.dispatchLayer t n).stepOn n

/-! ## The start of a step (R410 step 1, R415) -/

/-- Start a step with a batch. -/
def State.startWith (s : State) (t : List Byte) (n : Nat) (b : Batch) : State :=
  let j := fbOrigin t n
  let cap := fbRows t n
  let ins := s.stageInputs b.rows (fbRowBytes t n) cap (outgoingAt t n)
  let s1 := ins.1.store (returnedAt t n) (zeros (8 * cap * fbRowBytes t n))
  let s2 := (s1.bump F.jobBatchCtrCount (7 * j + 3) b.rows.length).bump F.jobBatchCtrCount (7 * j + 4) (cap - b.rows.length)
  let s3 := s2.setMstep n { running := true, batch := some b, early := (s2.mstep n).early, rowStatus := ins.2 }
  ((s3.beginLayer t n).requestOrigin t n).homeOn n

/-- Start a step with no rows: it sends a total of 0 for every layer at once, and serves as a home. -/
def State.startWithout (s : State) (t : List Byte) (n : Nat) : State :=
  let s1 := (s.setMstep n { running := true, early := (s.mstep n).early }).beginLayer t n
  let s2 := (fbParts t n).foldl (fun (s : State) m =>
    (List.range (fbLayers t n)).foldl (fun (s : State) l => s.sendTotal t n m l 0) s) s1
  s2.homeOn n

/-- A binding's next step starts with the first batch that is closed and has its data, where nothing holds steps (R405, R415). -/
def State.stepGo (s : State) (n : Nat) : State :=
  match s.mesh.table with
  | none => s
  | some t =>
    let j := fbOrigin t n
    let h := s.job j
    if (s.mstep n).running ∨ s.mesh.changes ≠ [] ∨ h.run.isSome then s
    else match h.queue with
      | (.batch b, _) :: rest =>
        if !s.batchReady j b then s
        else (((s.setJob j { h with queue := rest }).fset F.jobStatePending j rest.length).startWith t n b).refresh j
      | _ => s

/-- Every binding's step that may start does. -/
def State.stepsGo (s : State) : State := s.bindings.foldl State.stepGo s

/-! ## Packets of a step (R404) -/

/-- A DISPATCH or RETURN that the receiver discards: another epoch, a step that has ended, or a binding not installed. -/
def State.stale (s : State) (p : List Byte) : Bool :=
  match s.mesh.table with
  | none => true
  | some t => pkEpoch p != ftEpoch t || pkBinding p ≥ ftBindings t || pkStep p < s.stepNo (pkBinding p)

/-- A packet of a binding comes while its step is not the one in progress: a later step becomes the next, and those it passes over are
skipped (R404). -/
def State.takeEarly (s : State) (n : Nat) (p : List Byte) : State :=
  let x := s.mstep n
  if x.running then s.setMstep n { x with early := if pkStep p = s.stepNo n then x.early else x.early ++ [p] }
  else
    let skip := pkStep p - s.stepNo n
    let s1 := (s.fset F.brlBindStep n (pkStep p)).meshCtr 3 skip
    s1.putStep n { x with early := (x.early.filter (fun q => pkStep q = pkStep p)) ++ [p], waiting := true }

/-- A DISPATCH comes for a step. -/
def State.takeDispatch (s : State) (p : List Byte) : State :=
  match s.mesh.table with
  | none => s
  | some t =>
    let n := pkBinding p
    let x := s.mstep n
    if x.running ∧ x.aborted.isNone ∧ pkStep p = s.stepNo n then (s.deliverStep t n p).stepOn n
    else s.takeEarly n p

/-- A RETURN comes for the layer the origin awaits; one of a later step names the next step (R404). -/
def State.takeReturn (s : State) (p : List Byte) : State :=
  match s.mesh.table with
  | none => s
  | some t =>
    let n := pkBinding p
    let x := s.mstep n
    if s.stepNo n < pkStep p then s.takeEarly n p
    else if !x.running ∨ x.aborted.isSome ∨ pkLayer p ≠ x.originLayer then s
    else
      let w := 16 + fbRowBytes t n
      let s1 := (List.range (pkCount p)).foldl (fun (s : State) k =>
        let e := (p.drop (32 + k * w)).take w
        s.returnRow t n (byteField e 0 4) (byteField e 4 1) (e.drop 16)) (s.meshCtr 5 (pkCount p))
      (s1.showBind n).originOn n

/-- A line leaves UP, or starts again from 0 (R398, R399): packets not wholly acknowledged are lost with their steps, packets not
begun go by other paths, and what was taken in part is dropped. A line that only becomes UNASSIGNED keeps its flits in sequence:
a packet begun goes to its end there, and one taken in part is discarded at its end (log entry 38). -/
def State.leaveUp (s : State) (b : Nat) (fresh : Bool) : State :=
  let l := s.line b
  let begun := (List.range 8).filterMap (fun v => if l.sent.getD v 0 = 0 then none else l.queue.find? (fun p => p.vc = v))
  let left := l.queue.filter (fun p => !begun.contains p)
  let lost := l.flying.map (·.2) ++ begun.map (·.bytes) ++ l.partials.filter (· != [])
  let hit := ((lost.filter (fun p => pkType p = 1 || pkType p = 2)).map pkBinding).dedup
  let s1 := if !fresh then s.setLine b { l with queue := l.queue.filter (fun p => begun.contains p) } else s.setLine b { l with
    replay := [], again := 0, stuck := 0, queue := [], sent := [0, 0, 0, 0, 0, 0, 0, 0], flying := []
    partials := [[], [], [], [], [], [], [], []], partFlits := [0, 0, 0, 0, 0, 0, 0, 0] }
  let s2 := left.foldl (fun (s : State) p =>
    let q := p.bytes.set 8 0xFF
    if pkType q = 5 ∧ pkOp q = 1 then s
    else if pkSrc q ≠ s.self then (match s.nextLine (pkDst q) ((s.linesTo (pkDst q)).filter (fun c => c != b && s.lineSt c = 5)) with
      | some c => (s.usedLine (pkDst q) c).queueOn c p.bytes
      | none => s)
    else match s.sendTo (pkBinding q) (pkDst q) q [] with
      | some s' => s'
      | none => if pkType q = 1 ∨ pkType q = 2 then s.abortStep (pkBinding q) 0x3004 true else s) s1
  (hit.filter (s2.bindings.contains ·)).foldl (fun (s : State) n => s.abortStep n 0x3004 true) s2

end Sys2Proof.Machine
end

