-- ==== Sys2Proof/Machine/FabricSet.lean ====
section
/-! DEFINITION. FABRIC_SET (R405, R411), PULLs, the packets that lines receive (R402 to R404, R411, R417, R419) and the mesh's timers. -/

namespace Sys2Proof.Machine

/-! ## The checks of a table (R405) -/

/-- A range lies in one of a job's bound buffers of KIND scratch. -/
def State.inScratchBuf (s : State) (j a n : Nat) : Bool :=
  match s.jobImage j with
  | none => false
  | some im =>
    ((s.job j).bufs.zipIdx).any (fun (x : (Nat × Nat) × Nat) => paKind (im.group 9) x.2 != 0 && x.1.1 ≤ a && a + n ≤ x.1.1 + x.1.2)

/-- A home job: bound, without batching, with a ROW_CAP. -/
def State.homeJobOk (s : State) (j : Nat) : Bool := s.jobBound j && !s.fbit F.jobBatchCfgEnabled j && 1 ≤ s.rowCapOf j

/-- The largest number of experts of one layer that a module homes. -/
def mostExperts (t : List Byte) (n m : Nat) : Nat := ((List.range (fbLayers t n)).map (fun l => fbExpertsAt t n l m)).foldl max 0

/-- The size of an origin exchange area and of a home exchange area (R407, R408). -/
def originSize (t : List Byte) (n : Nat) : Nat := returnedAt t n - fbXOrigin t n + 8 * fbRows t n * fbRowBytes t n
def homeSize (t : List Byte) (n u : Nat) : Nat := 65536 + u * homeQ t n

/-- The checks of one binding, each with the offset of its field. -/
def State.bindingChecks (s : State) (t : List Byte) (len n : Nat) : List (Bool × Nat) :=
  let at_ := fbAt n
  let o := fbOrigin t n
  let homes := fbHomes t n
  let map := fbMap t n
  let peers := (List.range 24).map (ftPeer t)
  let homed := fun i : Nat => byteField t (map + i) 1
  let cells := fbLayers t n * fbExperts t n
  let badCell := (List.range cells).find? (fun i => !fbTakesPart t n (homed i))
  let full := (List.range (fbLayers t n)).find? (fun l => (List.range 255).any (fun m => 255 < fbExpertsAt t n l m))
  ([(s.jobBound o && s.fbit F.jobBatchCfgEnabled o && s.rowCapOf o = fbRows t n, at_)] : List (Bool × Nat)) ++
    (List.range 4).map (fun h => ((fbHome t n h = 0 || s.homeJobOk (fbHome t n h), at_ + 1 + h) : Bool × Nat)) ++
    ([(homes != [], at_ + 1), (1 ≤ fbTopK t n && fbTopK t n ≤ 8, at_ + 5), (1 ≤ fbLayers t n && fbLayers t n ≤ 4096, at_ + 6),
     (1 ≤ fbExperts t n && fbExperts t n ≤ 4096, at_ + 8), (16 ≤ fbHomeCap t n, at_ + 10),
     (fbRowBytes t n % 64 = 0 && 64 ≤ fbRowBytes t n && fbRowBytes t n ≤ 65408, at_ + 12), (1 ≤ fbRows t n && fbRows t n ≤ 4096, at_ + 16),
     (1 ≤ fbTimeout t n, at_ + 20), (448 + 128 * ftBindings t ≤ map && map + cells ≤ len, at_ + 28),
     (s.inScratchBuf o (fbXOrigin t n) (originSize t n), at_ + 32),
     (homes.all (fun j => s.inScratchBuf j (fbXHome t n) (homeSize t n (mostExperts t n (ftSelf t)))), at_ + 40),
     (fbExpertBytes t n % 65536 = 0, at_ + 56), (zeroAt t (at_ + 60) 4, at_ + 60)] : List (Bool × Nat)) ++
    (List.range 2).flatMap (fun k => ([(fbRebaseBuf t n k = 0xFF || fbRebaseBuf t n k < (s.job o).bufs.length, at_ + 64 + 8 * k),
      (fbRebaseStride t n k % 65536 = 0, at_ + 65 + 8 * k)] : List (Bool × Nat))) ++
    ([(fbWStride t n % 65536 = 0, at_ + 80), (zeroAt t (at_ + 88) 8, at_ + 88),
     (fbTakesPart t n (ftSelf t) && byteField t (at_ + 127) 1 < 128 &&
      (fbParts t n).all (fun m => m = ftSelf t || peers.contains m), at_ + 96)] : List (Bool × Nat)) ++
    [(badCell.isNone, map + badCell.getD 0), (full.isNone, map + full.getD 0 * fbExperts t n)]

/-- The offset of a table's first wrong field. -/
def State.tableWrong (s : State) (t : List Byte) (len : Nat) : Option Nat :=
  let head : List (Bool × Nat) := [(448 ≤ len, 12), (byteField t 0 4 = 0x54465A41, 0), (byteField t 4 2 = 0x0100, 4), (ftSelf t ≤ 254, 6), (ftBindings t ≤ 4, 7),
    (s.meshEpoch < ftEpoch t, 8), (byteField t 12 4 = len, 12), (zeroAt t 16 48, 16)]
  let peers := (List.range 24).flatMap (fun b =>
    ([(ftPeer t b != ftSelf t, 64 + 16 * b), (byteField t (65 + 16 * b) 1 < 4, 65 + 16 * b), (zeroAt t (66 + 16 * b) 6, 66 + 16 * b)] : List (Bool × Nat)))
  match firstWrong (head ++ peers) with
  | some o => some o
  | none => firstWrong ((List.range (ftBindings t)).flatMap (s.bindingChecks t len))

/-- 24 entries of every FIFO between a line and its die's depot cache are free beside what images hold (R405, R210). -/
def State.fabricRoom (s : State) : Bool :=
  let all := (s.imagesAll.map (·.2)).flatMap s.imageCredits
  lineFifos.all (fun f => ((all.filter (fun x => x.1 = f)).map (·.2)).sum + 24 ≤ 56)

/-! ## Installing and clearing -/

/-- A line has a matching entry: the peer it names has the serial its IDENT gave (R397). -/
def State.lineMatches (s : State) (b : Nat) : Bool :=
  match s.mesh.table with
  | none => false
  | some t => ftPeer t b != 0xFF && ftSerial t b = s.fget F.brlPeerSerialSerial b

/-- A line moves between UP and UNASSIGNED as the table has it. -/
def State.lineAgain (s : State) (b : Nat) : State :=
  if s.lineSt b = 5 ∧ !s.lineMatches b then (s.lineTo b 4).leaveUp b false
  else if s.lineSt b = 4 ∧ s.lineMatches b then s.lineTo b 5
  else s.showLine b

/-- Put a table, or none, in force: peers and bindings together, then the lines. -/
def State.applyTable (s : State) (t : Option (List Byte)) : State :=
  let n := (t.map ftBindings).getD 0
  let s1 := s.setMesh { s.mesh with table := t, steps := [], hops := [] }
  let s2 := ((s1.fset F.brlFabricEpoch 0 ((t.map ftEpoch).getD 0)).fset F.brlFabricSelf 0 ((t.map ftSelf).getD 0xFF)).fset F.brlFabricInstalled 0
    (bit t.isSome)
  let s3 := (List.range 4).foldl (fun (s : State) i => ((s.rset .brlBind i 0).rset .brlBind1 i 0).fset F.brlBindInstalled i (bit (i < n))) s2
  (List.range 24).foldl State.lineAgain s3

/-- The changes that wait are made, one after another, once no step is in progress (R405). The fuel is their number. -/
def State.changesGo (s : State) : Nat → State
  | 0 => s
  | fuel + 1 =>
    match s.mesh.changes with
    | [] => s
    | (p, t) :: rest =>
      let s1 := s.setMesh { s.mesh with changes := rest }
      match t.bind (fun t => s.tableWrong t t.length) with
      | some o => (s1.event 17 0x0401 0x1001 o 0 |>.finish p 0x1001 0).changesGo fuel
      | none =>
        if t.isSome ∧ !s.fabricRoom then (s1.finish p 0x4008 0).changesGo fuel
        else if s.bindings.any (fun n => (s.mstep n).running) then s
        else ((s1.applyTable t).finish p 0 0).changesGo fuel

/-- Changes that may be made are, then steps that may start do. -/
def State.meshNext (s : State) : State := (s.changesGo s.mesh.changes.length).stepsGo

/-- A change joins those that wait. -/
def State.askChange (s : State) (p : Nat) (t : Option (List Byte)) : State :=
  (s.setMesh { s.mesh with changes := s.mesh.changes ++ [(p, t)] }).meshNext

/-- FABRIC_SET INSTALL taken: its image is read from the host. An OP that is none ends here. Bytes that the OP does not use are held to be
reserved, here and in CLEAR: not zero, they end the command with 0x1001 (R18; DESIGN CHOICE, log entry 51). -/
def State.installTaken (p : Nat) (e : List Byte) (s : State) : State :=
  let n := byteField e 24 4
  let fields : Bool := sqFlags e = 0 && byteField e 8 1 = 0 && zeroAt e 9 7 && byteField e 16 8 % 64 = 0 && zeroAt e 28 36 && 64 ≤ n
  if !fields then s.fail p 0x1001
  else s.setCmd p { s.cmd p with ranges := [(byteField e 16 8, n)], want := n, got := [] }

/-- The image has come. -/
def State.installData (s : State) (p : Nat) : State := s.askChange p (some (s.cmd p).got)

/-- FABRIC_SET CLEAR taken; what it does not use is held to be reserved (DESIGN CHOICE, log entry 51). -/
def State.clearTaken (p : Nat) (e : List Byte) (s : State) : State :=
  if sqFlags e ≠ 0 ∨ !zeroAt e 9 55 then s.fail p 0x1001 else s.askChange p none

/-! ## PULL (R411) -/

def State.putPull (s : State) (x : Pull) : State :=
  s.setMesh { s.mesh with pulls := s.mesh.pulls.map (fun y => if y.place = x.place ∧ y.dst = x.dst then x else y) }

/-- Ask for the next 65,536 bytes, while at most 64 requests are outstanding and a line to the peer is UP. The fuel is 64. -/
def State.pullAsk (s : State) (x : Pull) : Nat → State × Pull
  | 0 => (s, x)
  | fuel + 1 =>
    if x.status ≠ 0 ∨ x.len ≤ x.asked ∨ 64 ≤ x.open_.length then (s, x)
    else
      match s.nextLine x.peer ((s.linesTo x.peer).filter (fun b => s.lineSt b = 5)) with
      | none => (s, x)
      | some b =>
        let tag := s.newTag
        let p := tag.2.packet 3 0 x.peer 0xFF (leBytes 8 (x.addr + x.asked) ++ leBytes 4 65536 ++ leBytes 4 tag.1) []
        ((tag.2.usedLine x.peer b).queueOn b p).pullAsk { x with asked := x.asked + 65536, open_ := x.open_ ++ [(tag.1, x.asked)] } fuel

/-- A PULL goes on, or completes with the first error met. -/
def State.pullOn (s : State) (x : Pull) : State :=
  if x.open_ = [] ∧ (x.status ≠ 0 ∨ x.len ≤ x.asked) then
    (s.setMesh { s.mesh with pulls := s.mesh.pulls.filter (fun y => !(y.place = x.place && y.dst = x.dst)) }).finish x.place x.status 0
  else (let r := s.pullAsk x 64; r.1.putPull r.2)

/-- Every PULL goes on. -/
def State.pullsGo (s : State) : State := s.mesh.pulls.foldl State.pullOn s

def State.pullTaken (p : Nat) (e : List Byte) (s : State) : State :=
  let dst := byteField e 24 8
  let len := byteField e 32 8
  let fields : Bool := sqFlags e = 0 && zeroAt e 10 6 && zeroAt e 40 24 && byteField e 16 8 % 65536 = 0 && dst % 65536 = 0 && len % 65536 = 0 &&
    1 ≤ len && len ≤ 2 ^ 42 && inDepot dst len && byteField e 9 1 ≤ 254 && s.linesTo (byteField e 9 1) != []
  if !fields ∨ s.namesKept dst len then s.fail p 0x1001
  else if dst < userEnd ∧ s.mediaBusy ≠ 0 then s.fail p s.mediaBusy
  else if dst < userEnd ∧ s.fbit F.flsHealthExhausted 0 then s.fail p 0x2003
  else
    let x : Pull := { place := p, peer := byteField e 9 1, addr := byteField e 16 8, dst := dst, len := len }
    (s.setMesh { s.mesh with pulls := s.mesh.pulls ++ [x] }).pullOn x

/-- The status with which a COPY_REQ is refused: the requester may not read here, or the range leaves user space or scratch. -/
def State.reqBad (s : State) (p : List Byte) : Nat :=
  let n := byteField p 24 4
  let ok : Bool := match s.mesh.table with
    | some t => (List.range 24).any (fun b => ftPeer t b = pkSrc p && ftAllowPull t b)
    | none => false
  if !ok ∨ n < 64 ∨ 65536 < n ∨ !inDepot (pkAddr p) n ∨ s.namesKept (pkAddr p) n then 0x1001 else 0

/-- A COPY_REQ is answered on its line, from the tier or with ERROR; a page that is not resident is promoted first. -/
def State.answerReq (s : State) (b : Nat) (k : Packet) : State :=
  let p := k.bytes
  let a := pkAddr p
  let n := byteField p 24 4
  let ps := (List.range (pageOf (a + n - 1) - pageOf a + 1)).map (pageOf a + ·)
  let refuse := s.reqBad p
  if refuse = 0 ∧ !ps.all s.pageReady then ps.foldl (fun (s : State) g => (s.tierLookup g).promote g) s
  else
    let st := if refuse ≠ 0 then refuse else s.rangeStatus a n
    let s1 := s.takeIn b k
    let tail := leBytes 8 a ++ leBytes 4 n ++ leBytes 4 (pkTag p)
    if st ≠ 0 then s1.queueOn b (s1.packet 4 8 (pkSrc p) 0xFF tail (leBytes 2 st ++ zeros 6))
    else s1.queueOn b (s1.packet 4 0 (pkSrc p) 0xFF tail (s1.depotRead a n))

/-- A COPY_DATA is written for the PULL that asked for it. -/
def State.takeCopyPacket (s : State) (p : List Byte) : State :=
  match s.mesh.pulls.find? (fun x => x.open_.any (fun o => o.1 = pkTag p)) with
  | none => s
  | some x =>
    let off := ((x.open_.find? (fun o => o.1 = pkTag p)).map (·.2)).getD 0
    let y := { x with open_ := x.open_.filter (fun o => o.1 != pkTag p) }
    if pkError p then (let st := byteField p 32 2; (s.putPull { y with status := if y.status = 0 then st else y.status }).pullOn
      { y with status := if y.status = 0 then st else y.status })
    else
      let bs := (p.drop 32).take 65536
      (((s.storeFor (some x.place) (x.dst + off) bs).meshCtr 8 1).putPull y).pullOn y

/-! ## Detours (R417) -/

/-- A first-hop packet at this module, the intermediate, goes on by its second-hop VC; where no line to its module is UP it is
discarded and its origin told, by the paths of R416. -/
def State.forward (s : State) (b : Nat) (k : Packet) : State :=
  let p := k.bytes
  let m := pkDst p
  let s1 := s.takeIn b k
  match s1.nextLine m ((s1.linesTo m).filter (fun c => s1.lineSt c = 5)) with
  | some c => (((s1.usedLine m c).queueOn c (p.set 5 (BitVec.ofNat 8 (byteField p 5 1 ||| 1)))).lineCtr c 11 1)
  | none =>
    let fail := s1.packet 5 0 (pkSrc p) 0xFF (leBytes 1 3 ++ zeros 7 ++ leBytes 4 (pkTag p)) []
    match s1.sendTo (pkBinding p) (pkSrc p) fail [] with
    | some t => t
    | none => s1

/-- A DETOUR_FAIL: the packet is sent again without that intermediate, and after three failures its step is aborted. -/
def State.detourFailed (s : State) (p : List Byte) : State :=
  let s1 := s.meshCtr 7 1
  match s1.mesh.hops.find? (fun h => h.tag = pkAbortStep p) with
  | none => s1
  | some h =>
    let n := pkBinding h.bytes
    let failed := h.failed ++ [pkSrc p]
    let s2 := s1.setMesh { s1.mesh with hops := s1.mesh.hops.filter (· != h) }
    if 3 ≤ failed.length then s2.abortStep n 0x3004 true
    else match s2.sendTo n (pkDst h.bytes) h.bytes failed with
      | some s3 => s3
      | none => s2.abortStep n 0x3004 true

/-! ## The rows -/

/-- FABRIC_SET_INSTALL (R405); it takes also the OPs that are none. -/
def execFabricSetInstall (q : QueueId) (s : State) : Host.Outcome State Fault Refusal :=
  .next (s.onEntry q (fun e => sqOpcode e = 0x2E && byteField e 8 1 != 1 && byteField e 8 1 != 2) (State.adminOnly (State.behind State.installTaken)))

/-- FABRIC_SET_PULL (R411). -/
def execFabricSetPull (q : QueueId) (s : State) : Host.Outcome State Fault Refusal :=
  .next (s.onEntry q (fun e => sqOpcode e = 0x2E && byteField e 8 1 = 1) (State.adminOnly (State.behind State.pullTaken)))

/-- FABRIC_SET_CLEAR (R405). -/
def execFabricSetClear (q : QueueId) (s : State) : Host.Outcome State Fault Refusal :=
  .next (s.onEntry q (fun e => sqOpcode e = 0x2E && byteField e 8 1 = 2) (State.adminOnly (State.behind State.clearTaken)))

/-- Take the first packet of a kind that a line has received: on a line that is not UP it is discarded. -/
def State.onPacket (s : State) (b : Nat) (ok : List Byte → Bool) (run : Packet → State → State) : State :=
  match s.packetOn b ok with
  | none => s
  | some k => if s.lineSt b = 5 then run k s else s.discardIn b k

/-- A packet of a TYPE that ends at this module, or that is for no module it knows. -/
def State.endsHere (s : State) (type : Nat) (p : List Byte) : Bool :=
  pkType p = type && (s.isMine p || pkSecond p || pkVia p != s.self)

/-- DISPATCH (R404): abandoned, stale and misdirected packets are discarded (R403). -/
def execDispatch (b : LineId) (s : State) : Host.Outcome State Fault Refusal :=
  .next (s.onPacket b.val (s.endsHere 1) fun k s =>
    if pkAbandoned k.bytes ∨ !s.isMine k.bytes ∨ s.stale k.bytes then s.discardIn b.val k
    else ((s.takeIn b.val k).takeDispatch k.bytes).meshNext)

/-- RETURN (R404). -/
def execReturn (b : LineId) (s : State) : Host.Outcome State Fault Refusal :=
  .next (s.onPacket b.val (s.endsHere 2) fun k s =>
    if pkAbandoned k.bytes ∨ !s.isMine k.bytes ∨ s.stale k.bytes then s.discardIn b.val k
    else ((s.takeIn b.val k).takeReturn k.bytes).meshNext)

/-- COPY_REQ (R411). -/
def execCopyReq (b : LineId) (s : State) : Host.Outcome State Fault Refusal :=
  .next (s.onPacket b.val (s.endsHere 3) fun k s => if !s.isMine k.bytes then s.discardIn b.val k else s.answerReq b.val k)

/-- COPY_DATA (R411). -/
def execCopyData (b : LineId) (s : State) : Host.Outcome State Fault Refusal :=
  .next (s.onPacket b.val (s.endsHere 4) fun k s =>
    if !s.isMine k.bytes then s.discardIn b.val k else (s.takeIn b.val k).takeCopyPacket k.bytes)

/-- A FABRIC_CTL packet with an OP. -/
def ctlOp (op : Nat) (p : List Byte) : Bool := pkType p = 5 && pkOp p = op

/-- LINK_STATE (R402). -/
def execLinkState (b : LineId) (s : State) : Host.Outcome State Fault Refusal :=
  .next (match s.packetOn b.val (ctlOp 1) with
    | none => s
    | some k =>
      let s1 := s.takeIn b.val k
      s1.setLine b.val { s1.line b.val with report := (List.range 24).map (fun i =>
        (byteField k.bytes (32 + 4 * i) 1, bitOf (byteField k.bytes (33 + 4 * i) 1) 0, byteField k.bytes (34 + 4 * i) 2)) })

/-- STEP_ABORT (R419): of a step in progress; for one that has ended it is counted and ignored. -/
def execStepAbort (b : LineId) (s : State) : Host.Outcome State Fault Refusal :=
  .next (match s.packetOn b.val (ctlOp 2) with
    | none => s
    | some k =>
      let p := k.bytes
      if !s.isMine p ∧ pkVia p = s.self then s.forward b.val k
      else
        let s1 := s.takeIn b.val k
        let n := byteField p 20 1
        if pkEpoch p ≠ s.meshEpoch ∨ !s.bindings.contains n then s1
        else if pkAbortStep p < s.stepNo n then s1.setMesh { s1.mesh with lateAborts := s1.mesh.lateAborts + 1 }
        else if pkAbortStep p = s.stepNo n then (s1.abortStep n 0x3004 false).meshNext
        else s1)

/-- DETOUR_FAIL (R417). -/
def execDetourFail (b : LineId) (s : State) : Host.Outcome State Fault Refusal :=
  .next (match s.packetOn b.val (ctlOp 3) with
    | none => s
    | some k => ((s.takeIn b.val k).detourFailed k.bytes).meshNext)

/-- PACKET_FORWARD (R417). -/
def execPacketForward (b : LineId) (s : State) : Host.Outcome State Fault Refusal :=
  .next (s.onPacket b.val (fun p => pkType p != 5 && !s.isMine p && !pkSecond p && pkVia p = s.self) fun k s => s.forward b.val k)

/-- LINK_STATE_TIMER (R402). -/
def execLinkStateTimer (s : State) : Host.Outcome State Fault Refusal := .next s.sendLinkStates

/-- STEP_WAIT_EXPIRY (R415). -/
def execStepWaitExpiry (n : Fin 4) (s : State) : Host.Outcome State Fault Refusal :=
  .next (match s.mesh.table with
    | none => s
    | some t =>
      if (s.mstep n.val).running ∨ !(s.mstep n.val).waiting ∨ s.mesh.changes ≠ [] then s else (s.startWithout t n.val).meshNext)

/-- STEP_TIMEOUT (R419). -/
def execStepTimeout (n : Fin 4) (s : State) : Host.Outcome State Fault Refusal := .next (s.abortStep n.val 0x3003 true).meshNext

/-- Batches whose inputs have come may run: a step takes one, and an express run that was ready takes its stations (R305, R415, R453). -/
def State.wake (s : State) : State := (s.stepsGo.stations.map (·.1)).foldl State.expressTake s.stepsGo

/-- PROMOTION_COMPLETE (R242): READs that waited go on, and so do batches whose inputs were promoted (R453). -/
def execPromotionComplete (page : Nat) (s : State) : Host.Outcome State Fault Refusal := .next (s.promoted page).tierOn.wake

end Sys2Proof.Machine
end

