-- ==== Sys2Proof/Machine/LineRows.lean ====
section
/-! DEFINITION. The states of a branch line (R395 to R399), its flits' events and its cable (R642 to R645). -/

namespace Sys2Proof.Machine

/-! ## States -/

/-- The BAR0 offset of a line's control register. -/
def lineCtlAt (b : Nat) : Nat := 0x01800010 + 0x10000 * b

/-- An UP or UNASSIGNED line enters RETRAIN, keeping its replay buffer and sequence; the third entry within 10 s fails it. -/
def State.toRetrain (s : State) (b : Nat) : State :=
  if s.lineSt b < 4 ∨ 5 < s.lineSt b then s
  else
    let l := s.line b
    let rs := (l.retrains.filter (fun t => s.lineCyc b < t + 3906250000)) ++ [s.lineCyc b]
    let s1 := ((s.setLine b { l with retrains := rs, before := some (s.fget F.brlPeerSerialSerial b, s.fget F.brlLineStatePeerLine b) }).lineCtr b 6 1).fset
      F.brlLineStateRetrains10s b (min 3 rs.length)
    if 3 ≤ rs.length then (((s1.lineTo b 7).leaveUp b true).flag F.glbEventStatusLineFailed).meshNext else s1.lineTo b 6

/-- Four replays in a row without an advance of ACK (R391). -/
def State.replayCheck (s : State) (b : Nat) : State := if 4 ≤ (s.line b).stuck then s.toRetrain b else s

/-- A line in DOWN with a cable that works may train (R644). -/
def State.mayTrain (s : State) (b : Nat) : Bool := s.lineSt b = 1 && s.fbit F.brlCablePresent b && !s.fbit F.brlCablePwrFault b

/-- A line that starts from 0: its sequence, its credits and what it held (R398). -/
def Line.fresh (l : Line) : Line :=
  { l with
    nextSeq := 0
    ackOut := 4095
    nak := false
    discarding := false
    replay := []
    again := 0
    stuck := 0
    credits := vcBuffers
    owed := [0, 0, 0, 0, 0, 0, 0, 0]
    flying := [] }

/-- A peer's IDENT is received (R395 to R398). -/
def State.takeIdent (s : State) (b : Nat) (body : List Byte) : State :=
  let st := s.lineSt b
  if st < 3 ∨ 5 < st ∨ byteField body 0 1 ≠ 1 then s
  else
    let serial := byteField body 4 8
    let line := byteField body 1 1
    let s1 := ((s.fset F.brlPeerSerialSerial b serial).fset F.brlLineStatePeerLine b line).fset F.brlLineStatePeerMod b (byteField body 12 1)
    if st ≠ 3 then s1
    else
      let l := s1.line b
      let same : Bool := l.before = some (serial, line % 32)
      let s2 := if same then s1.setLine b { l with before := none, again := l.replay.length, stuck := 0 }
        else (let s3 := s1.leaveUp b true; s3.setLine b { (s3.line b).fresh with before := none })
      ((s2.lineTo b (if s2.lineMatches b then 5 else 4)).pullsGo).meshNext

/-! ## Cables (R643, R644) -/

/-- An identity memory that answers and holds. -/
def cableOk (m : List Byte) : Bool :=
  m.length = 64 && (byteField m 0 1 = 1 || byteField m 0 1 = 2) && byteField m 63 1 = (((m.take 63).map BitVec.toNat).sum) % 256

/-- Show a cable as its memory has it, or as R644 takes one that cannot be read. -/
def State.showCable (s : State) (b : Nat) (m : Option (List Byte)) : State :=
  let ok : Bool := (m.map cableOk).getD false
  let bs := m.getD []
  let s1 := ((s.fset F.brlCablePresent b 1).fset F.brlCableType b (if ok then byteField bs 0 1 else 1)).fset F.brlCableIdBad b (bit (!ok))
  (s1.fset F.brlCableLengthDm b (if ok then byteField bs 1 1 else 20)).fset F.brlCableLoss b (if ok then byteField bs 2 2 else Config.worstCableLoss)

/-! ## The rows -/

/-- ENABLE is set. -/
def State.enableLine (s : State) (b : Nat) : State :=
  let s1 := s.fset F.brlLineCtlEnable b 1
  if s1.lineSt b = 0 then s1.lineTo b 1 else s1

/-- ENABLE is cleared. -/
def State.disableLine (s : State) (b : Nat) : State :=
  let s1 := s.fset F.brlLineCtlEnable b 0
  if s1.lineSt b = 0 then s1 else ((s1.lineTo b 0).leaveUp b true).meshNext

/-- RETRAIN is written 1: a FAILED line tries again, with its retrain history cleared. -/
def State.retrainLine (s : State) (b : Nat) : State :=
  if s.lineSt b ≠ 7 then s
  else ((s.setLine b { s.line b with retrains := [] }).fset F.brlLineStateRetrains10s b 0).lineTo b 1

/-- LINE_ENABLE (R397). -/
def execLineEnable (b : LineId) (s : State) : Host.Outcome State Fault Refusal :=
  .next (s.lockWrite (lineCtlAt b.val) fun s => s.enableLine b.val)

/-- LINE_DISABLE (R397). -/
def execLineDisable (b : LineId) (s : State) : Host.Outcome State Fault Refusal :=
  .next (s.lockWrite (lineCtlAt b.val) fun s => s.disableLine b.val)

/-- LINE_RETRAIN_REQUEST (R397). -/
def execLineRetrainRequest (b : LineId) (s : State) : Host.Outcome State Fault Refusal :=
  .next (s.woWrite (lineCtlAt b.val) fun s => s.retrainLine b.val)

/-- LINE_SIGNAL_DETECT (R397, R644). -/
def execLineSignalDetect (b : LineId) (s : State) : Host.Outcome State Fault Refusal :=
  .next (if s.mayTrain b.val then s.lineTo b.val 2 else s)

/-- LINE_RETRY_TIMER (R397, R644). -/
def execLineRetryTimer (b : LineId) (s : State) : Host.Outcome State Fault Refusal :=
  .next (if s.mayTrain b.val then s.lineTo b.val 2 else s)

/-- The lanes are trained and the codewords aligned: the counter by which the receiver aligns is the peer's (R387). -/
def State.lockLine (s : State) (b : Nat) (before : Option (Nat × Nat)) : State :=
  let n := s.drawNat
  (n.2.setLine b { (n.2.line b).locked n.1 with before := before, identDue := true }).lineTo b 3

/-- LINE_TRAINING_LOCK (R397). -/
def execLineTrainingLock (b : LineId) (s : State) : Host.Outcome State Fault Refusal :=
  .next (if s.lineSt b.val = 2 then s.lockLine b.val none
    else if s.lineSt b.val = 6 then s.lockLine b.val (s.line b.val).before
    else s)

/-- LINE_TRAINING_TIMEOUT (R397). -/
def execLineTrainingTimeout (b : LineId) (s : State) : Host.Outcome State Fault Refusal :=
  .next (if s.lineSt b.val = 2 then (s.setLine b.val { s.line b.val with attempts := (s.line b.val).attempts + 1 }).lineTo b.val 1
    else if s.lineSt b.val = 6 then ((s.lineTo b.val 1).leaveUp b.val true).meshNext
    else s)

/-- IDENT_SEND_TIMER (R395). -/
def execIdentSendTimer (b : LineId) (s : State) : Host.Outcome State Fault Refusal :=
  .next (if s.lineSt b.val = 3 then s.setLine b.val { s.line b.val with identDue := true } else s)

/-- IDENT_RECEIVE (R395). -/
def execIdentReceive (b : LineId) (body : List Byte) (s : State) : Host.Outcome State Fault Refusal := .next (s.takeIdent b.val body)

/-- LINE_LOSS_OF_LOCK (R397). -/
def execLineLossOfLock (b : LineId) (s : State) : Host.Outcome State Fault Refusal := .next (s.toRetrain b.val)

/-- CODEWORD_ERROR_BURST (R397). -/
def execCodewordErrorBurst (b : LineId) (s : State) : Host.Outcome State Fault Refusal := .next (s.toRetrain b.val)

/-- FLIT_TRANSMIT (R390). -/
def execFlitTransmit (b : LineId) (s : State) : Host.Outcome State Fault Refusal := .next (s.sendFlit b.val)

/-- A flit arrives: bad ones are counted and, like those out of order, discarded (R389, R391). -/
def State.flitArrives (s : State) (b : Nat) (f : List Byte) (spoiled : Bool) (corrected uncorrectable : Nat) : State :=
  let st := s.lineSt b
  if st < 3 ∨ 5 < st then s
  else
    let s1 := ((s.setLine b ((s.line b).aligned 256)).lineCtr b 3 corrected).lineCtr b 4 uncorrectable
    if spoiled ∨ !flitGood f then
      let s2 := s1.lineCtr b 2 1
      if st = 3 then s2 else s2.setLine b (s2.line b).discard
    else if st = 3 then s1
    else (s1.takeFlit b f).replayCheck b

/-- FLIT_RECEIVE (R391). -/
def execFlitReceive (b : LineId) (flit : List Byte) (spoiled : Bool) (corrected uncorrectable : Nat) (s : State) :
    Host.Outcome State Fault Refusal := .next (s.flitArrives b.val flit spoiled corrected uncorrectable)

/-- REPLAY_TIMEOUT (R391). -/
def execReplayTimeout (b : LineId) (s : State) : Host.Outcome State Fault Refusal :=
  .next (if s.lineSt b.val = 4 ∨ s.lineSt b.val = 5 then (s.startReplay b.val).replayCheck b.val else s)

/-- CABLE_MATE (R644). -/
def execCableMate (b : LineId) (memory : Option (List Byte)) (s : State) : Host.Outcome State Fault Refusal :=
  .next (let s1 := s.showCable b.val memory
    if s1.mayTrain b.val then s1.lineTo b.val 2 else s1)

/-- CABLE_REMOVE (R644). -/
def execCableRemove (b : LineId) (s : State) : Host.Outcome State Fault Refusal :=
  .next ((s.rset .brlCable b.val 0).toRetrain b.val)

/-- CABLE_POWER_FAULT (R644): an active cable's supply is removed, and the line cannot hold. -/
def execCablePowerFault (b : LineId) (s : State) : Host.Outcome State Fault Refusal :=
  .next (if s.fbit F.brlCablePresent b.val ∧ s.fget F.brlCableType b.val = 2 then (s.fset F.brlCablePwrFault b.val 1).toRetrain b.val else s)

/-- CABLE_REFRESH (R644). -/
def execCableRefresh (b : LineId) (memory : Option (List Byte)) (s : State) : Host.Outcome State Fault Refusal :=
  .next (if s.fbit F.brlCablePresent b.val then s.showCable b.val memory else s)

end Sys2Proof.Machine
end

