-- ==== Sys2Proof/Machine/Mirrors.lean ====
section
/-! DEFINITION. The user view's mirrors (R605, R606): the word that each offset copies, and the pushes. -/

namespace Sys2Proof.Machine

/-- BAR2 offsets of a job's and of a lane row's mirror words. -/
def jobMirror (j i : Nat) : Nat := 0x100000 + 0x100 * j + 8 * i
def laneMirror (st n i : Nat) : Nat := 0x200000 + 0x2000 * st + 0x80 * n + 8 * i

/-- The register word that a BAR2 offset copies, and the bit that UNDERRUN takes there; none where no mirror lies. -/
def mirrorSource (off : Nat) : Option (Reg × Nat × Nat) :=
  if off % 8 ≠ 0 then none
  else if 0x100000 ≤ off ∧ off < 0x110000 then
    let j := (off - 0x100000) / 0x100
    let i := off % 0x100 / 8
    if i = 0 then some (.jobState, j, 63)
    else if i = 1 then some (.jobSlow, j, 62)
    else if i < 10 then some (.jobAcct, 8 * j + (i - 2), 63)
    else none
  else if 0x200000 ≤ off ∧ off < 0x280000 then
    let st := (off - 0x200000) / 0x2000
    let n := off % 0x2000 / 0x80
    if n < 33 then some (.stnLrCtr, lrIdx st n (off % 0x80 / 8), 63) else none
  else none

/-- A mirror word is pushed: it takes the register's value, and it is fresh. -/
def State.pushWord (s : State) (off : Nat) : State :=
  match mirrorSource off with
  | none => s
  | some (r, i, _) =>
    s.setSecurity { s.security with
      mirrors := Tbl.put 0 s.security.mirrors off (s.rget r i).toNat
      fresh := if s.security.fresh.contains off then s.security.fresh else s.security.fresh ++ [off] }

/-- A home signal box pushes the ten words of a job. -/
def State.pushJob (s : State) (j : Nat) : State := (List.range 10).foldl (fun (s : State) i => s.pushWord (jobMirror j i)) s

/-- A station pushes the counters of its lane rows. -/
def State.pushStation (s : State) (st : Nat) : State :=
  (List.range 33).foldl (fun (s : State) n =>
    (List.range 16).foldl (fun (s : State) i => s.pushWord (laneMirror st n i)) s) s

end Sys2Proof.Machine
end

