-- ==== Sys2Proof/Machine/Runs.lean ====
section
/-! DEFINITION. Runs: the RUN command and the batcher (R115 to R123, R451 to R453), the end of a run (R288, R289, R307, R308)
and the dispatcher of a station (R292 to R299). -/

namespace Sys2Proof.Machine

/-! ## The batcher (R116 to R120) -/

def State.batcher (s : State) (j : Nat) : Batcher := (s.job j).batcher
def State.setBatcher (s : State) (j : Nat) (b : Batcher) : State := s.setJob j { s.job j with batcher := b }

/-- The batch that a request or a run serves. -/
def RunFor.batch? : RunFor → Option Batch
  | .batch b => some b
  | _ => none

/-- Closed batches that wait to run. -/
def State.closedBatches (s : State) (j : Nat) : List Batch := (s.job j).queue.filterMap (fun x => x.1.batch?)

/-- Staging areas in use: of the open batch, the closed ones, the running one, and a step's (R453). -/
def State.areasTaken (s : State) (j : Nat) : List Nat :=
  (((s.batcher j).openB.toList ++ s.closedBatches j ++ ((s.job j).run.bind (fun r => r.what.batch?)).toList ++
    ((s.originOf j).bind (fun n => (s.mstep n).batch)).toList).map Batch.area)

/-- A batch opens with a first row, with the values then in force (R116, R123). -/
def State.openBatch (s : State) (j : Nat) (r : BatchRow) : State :=
  let area := ((List.range 4).find? (fun a => !(s.areasTaken j).contains a)).getD 0
  s.setBatcher j { s.batcher j with
    openB := some { rows := [{ r with joined := s.homeCyc j }], openedAt := s.homeCyc j, target := max 1 (s.fget F.jobBatchCfgTargetM j), waitUs := s.fget F.jobBatchCfgWaitUs j, area := area } }

/-- The close event of a batch: one it keeps comes first (R119); where one row's joining brings several, the class-0 row comes before the
fill, and the fill before the timer (R118; DESIGN CHOICE, log entry 26). -/
def Batch.due (b : Batch) : Option CloseCause :=
  match b.cause with
  | some c => some c
  | none =>
    if b.rows.any (fun r => r.class0) then some .class0
    else if b.rows.length ≥ b.target then some .fill
    else if b.waitUs = 0 ∧ b.rows ≠ [] then some .timer
    else none

/-- The counter of a cause in JOB.BATCH_CTR. -/
def CloseCause.counter : CloseCause → Nat
  | .fill => 0
  | .timer => 1
  | .class0 => 2

/-- Microseconds of a die's signal-box cycles at 700 MHz (R118). -/
def boxUs (cyc : Nat) : Nat := cyc / 700

/-- The open batch closes: counted, and requested; one closed by a class-0 row goes ahead (R117, R120). A batch none of whose
rows is left closes without a run. -/
def State.closeOpen (s : State) (j : Nat) (b : Batch) (c : CloseCause) : State :=
  let s1 := s.setBatcher j { s.batcher j with openB := none }
  if b.rows = [] then s1
  else
    let now := s.homeCyc j
    let s2 := s1.bump F.jobBatchCtrCount (7 * j + c.counter) 1
    let s3 := s2.bump F.jobBatchCtrCount (7 * j + 5) ((b.rows.map (fun r => boxUs (cycSince now r.joined))).sum)
    let s4 := if b.cause.isSome then s3.bump F.jobBatchCtrCount (7 * j + 6) (boxUs (cycSince now b.dueAt)) else s3
    s4.requestRun j (.batch { b with cause := some c }) (c = .class0)

/-- A waiting row joins the open batch. -/
def State.joinOpen (s : State) (j : Nat) (b : Batch) (r : BatchRow) (rest : List BatchRow) : State :=
  s.setBatcher j { s.batcher j with openB := some { b with rows := b.rows ++ [{ r with joined := s.homeCyc j }] }, waiting := rest }

/-- The batcher goes on: a waiting row opens a batch or joins the open one while that has room; a batch at a close event closes
if one of the two closed places is free, else it keeps its cause and takes further rows (R116 to R119). The fuel bounds its moves. -/
def State.batchGo (s : State) (j : Nat) : Nat → State
  | 0 => s
  | fuel + 1 =>
    match (s.batcher j).openB, (s.batcher j).waiting with
    | none, [] => s
    | none, r :: rest => ((s.setBatcher j { s.batcher j with waiting := rest }).openBatch j r).batchGo j fuel
    | some b, rows =>
      if b.due.isSome ∧ (s.closedBatches j).length < 2 then (s.closeOpen j b (b.due.getD .fill)).batchGo j fuel
      else if b.due.isSome ∧ b.cause.isNone then
        (s.setBatcher j { s.batcher j with openB := some { b with cause := b.due, dueAt := s.homeCyc j } }).batchGo j fuel
      else
        match rows with
        | [] => s
        | r :: rest =>
          if b.target ≤ b.rows.length then s
          else (s.joinOpen j b r rest).batchGo j fuel

/-- Every move the batcher can make now; a step of a fabric binding may start with a batch it closes (R415). -/
def State.batches (s : State) (j : Nat) : State :=
  (s.batchGo j (4 * (s.batcher j).waiting.length + 4)).meshNext

/-- The open batch's wait timer reaches WAIT_US (R117, R118). -/
def State.waitOver (s : State) (j : Nat) : State :=
  match (s.batcher j).openB with
  | some b =>
    if b.cause.isSome ∨ b.waitUs = 0 ∨ cycSince (s.homeCyc j) b.openedAt < 700 * b.waitUs then s
    else if (s.closedBatches j).length < 2 then (s.closeOpen j b .timer).batches j
    else s.setBatcher j { s.batcher j with openB := some { b with cause := some .timer, dueAt := s.homeCyc j } }
  | none => s

/-- A closed place frees: a batch that R119 held open closes. -/
def State.placeFree (s : State) (j : Nat) : State :=
  match (s.batcher j).openB with
  | some b => if b.cause.isSome ∧ (s.closedBatches j).length < 2 then s.batches j else s
  | none => s

/-! ## RUN (R451 to R453) -/

/-- The fields of RUN that hold for every job. -/
def runFields (e : List Byte) : Bool := sqFlags e = 0 && byteField e 9 1 < 4 && zeroAt e 36 28 && 1 ≤ ruJob e

/-- The fields of a RUN that places no rows. -/
def runPlain (e : List Byte) : Bool := byteField e 9 1 = 0 && zeroAt e 10 26

/-- A size of a row. -/
def rowSizeOk (n : Nat) : Bool := 64 ≤ n && n ≤ 65536 && n % 64 = 0

/-- An address of rows: in the depot if the option says so, and aligned. -/
def rowsAddrOk (depot : Bool) (a n : Nat) : Bool := a % 64 = 0 && (!depot || inDepot a n)

/-- The fields of a RUN that places rows. -/
def runRowsOk (e : List Byte) : Bool :=
  1 ≤ ruRows e && ruRows e ≤ 4096 && rowSizeOk (ruIn e) && rowSizeOk (ruOut e) &&
    rowsAddrOk (ruInDepot e) (ruInAddr e) (ruRows e * ruIn e) && rowsAddrOk (ruOutDepot e) (ruOutAddr e) (ruRows e * ruOut e)

/-- The row sizes suit the job: those its first RUN fixed, or for the first, those its image allows; an ORIGIN_JOB's rows are
the binding's (R452, R453). -/
def State.sizesOk (s : State) (j : Nat) (e : List Byte) : Bool :=
  match (s.batcher j).sizes with
  | some x => x = (ruIn e, ruOut e)
  | none =>
    let p := ((s.jobImage j).map (fun im => im.group 9)).getD []
    let cap := s.fget F.jobBatchCfgRowCap j
    let origin : Bool := match s.originOf j, s.mesh.table with
      | some n, some t => ruIn e = fbRowBytes t n
      | _, _ => true
    origin && paMin p 0 ≤ cap * ruIn e && paMin p 1 ≤ cap * ruOut e && 2 ≤ paBuffers p && paWritable p 1

/-- Give a job its staging areas at its first RUN: four each way (R453). -/
def State.giveStaging (s : State) (j : Nat) (e : List Byte) : Option State :=
  if (s.batcher j).sizes.isSome then some s
  else
    let cap := s.fget F.jobBatchCfgRowCap j
    match s.allocScratch (4 * pageBytes (cap * ruIn e)) with
    | none => none
    | some (a, s1) =>
      match s1.allocScratch (4 * pageBytes (cap * ruOut e)) with
      | none => none
      | some (b, s2) => some (s2.setBatcher j { s2.batcher j with sizes := some (ruIn e, ruOut e), staging := some (a, b) })

/-- Rows of a RUN lie in a retained container (R185). -/
def State.runKept (s : State) (e : List Byte) : Bool :=
  (ruInDepot e && s.namesKept (ruInAddr e) (ruRows e * ruIn e)) || (ruOutDepot e && s.namesKept (ruOutAddr e) (ruRows e * ruOut e))

/-- A RUN touches the media part (R581). -/
def State.runMedia (s : State) (j : Nat) (e : List Byte) : Bool :=
  s.jobTouchesMedia j || (ruInDepot e && ruInAddr e < userEnd) || (ruOutDepot e && ruOutAddr e < userEnd)

/-- The rows of a RUN are asked for: from the host, or the depot pages they lie in are used. -/
def State.askRows (s : State) (p : Nat) (e : List Byte) : State :=
  let n := ruRows e * ruIn e
  if ruInDepot e then
    (List.range (pageOf (ruInAddr e + n - 1) - pageOf (ruInAddr e) + 1)).foldl (fun (s : State) i =>
      s.usePage (65536 * (pageOf (ruInAddr e) + i))) s
  else s.setCmd p { s.cmd p with ranges := [(ruInAddr e, n)], want := n, got := [] }

/-- The rows of a RUN join the batcher (R116). -/
def State.joinRows (s : State) (p j : Nat) (e : List Byte) : State :=
  let now := s.homeCyc j
  let c0 : Bool := (s.cmd p).cls = 0
  let rows := (List.range (ruRows e)).map (fun r => ({ place := some p, row := r, class0 := c0, joined := now } : BatchRow))
  (s.setBatcher j { s.batcher j with waiting := (s.batcher j).waiting ++ rows }).batches j

/-- RUN taken: its checks, then a request, or rows for the batcher. -/
def State.runTaken (p : Nat) (e : List Byte) (s : State) : State :=
  let j := ruJob e
  if !runFields e ∨ s.refusesRun j ∨ (s.homeOf j).isSome then s.fail p 0x1001
  else if !s.fbit F.jobBatchCfgEnabled j then
    if !runPlain e then s.fail p 0x1001
    else if s.jobTouchesMedia j ∧ s.mediaBusy ≠ 0 then s.fail p s.mediaBusy
    else s.requestRun j (.command p) false
  else if !runRowsOk e ∨ s.runKept e ∨ !s.sizesOk j e then s.fail p 0x1001
  else if s.runMedia j e ∧ s.mediaBusy ≠ 0 then s.fail p s.mediaBusy
  else
    match s.giveStaging j e with
    | none => s.fail p 0x4008
    | some s1 => (s1.askRows p e).joinRows p j e

/-- The first request of a job is a batch that holds rows of a RUN. -/
def State.firstHolds (s : State) (j p : Nat) : Bool :=
  (((s.job j).queue.head?.bind (fun x => x.1.batch?)).map (fun b => b.rows.any (fun r => r.place = some p))).getD false

/-- The rows of a RUN have come from the host: a batch that waited for them may run from now on (R307, R453). -/
def State.runData (s : State) (p : Nat) : State :=
  (((s.jobs.map (·.1)).filter (fun j => s.firstHolds j p && (s.job j).run.isNone)).foldl State.readyNow s).wake

/-- Rows of a RUN in no batch are withdrawn, and those in one belong to nobody. -/
def State.withdrawRows (s : State) (p : Nat) : State :=
  s.setJobs (s.jobs.map (fun h => (h.1, h.2.without p noPlace)))

/-! ## The end of a run (R288, R289, R307, R308) -/

/-- What a station keeps of a job's run goes, its place in the order in which express runs became ready among it (R305). -/
def Station.runOver (j : Nat) (x : Station) : Station :=
  { x with
    ready := x.ready.erase j
    streams := (x.streams.map (fun e => (e.1, if e.2.job = j then { e.2 with live := false } else e.2))).filter (fun e => e.2 != {})
    lanes := (x.lanes.map (fun e => (e.1, { e.2 with ctxs := Tbl.put {} e.2.ctxs j {} }))).filter (fun e => e.2 != {}) }

/-- AVG as it moves to a new LAST, rounded to nearest (R307). -/
def nextAvg (first : Bool) (avg last : Nat) : Nat := if first then last else (15 * avg + last + 8) / 16

/-- The slow-down report of a run that ends (R307). -/
def State.slowDown (s : State) (j : Nat) (r : Run) : State :=
  let solo := bdSolo (r.image.group 8)
  let last := if solo = 0 then 0xFFFF else min 0xFFFF (cycSince (s.homeCyc j) r.startCyc * 256 / solo)
  let s1 := (s.fset F.jobSlowAvg j (nextAvg (!(s.job j).ran) (s.fget F.jobSlowAvg j) last)).fset F.jobSlowLast j last
  s1.fset F.jobSlowSlowestStn j (r.image.rel (r.ended.getLastD 0))

/-- The alert at a run's end (R308). -/
def State.slowAlert (s : State) (j : Nat) : State :=
  if s.fget F.jobSlowAvg j ≤ s.fget F.jobCfgSlowThresh j ∨ !s.fbit F.jobCfgSlowIrqEn j then s
  else
    let was : Bool := s.fbit F.jobSlowAlert j
    let s1 := (s.fset F.jobSlowAlert j 1).fset ⟨.jobSlowAlerts, j % 64, 1⟩ (j / 64) 1
    if was then s1 else s1.flag F.glbEventStatusSlowAlert

/-- The status a run without rows gives its command: the first that a pass recorded (R154). -/
def Run.status (r : Run) : Nat := (r.rowStatus.head?.map (·.2)).getD 0

/-- What the run served is told of its end, or of its being abandoned (R289). -/
def State.served (s : State) (j : Nat) (r : Run) : State :=
  match r.what, r.abandoned with
  | .command p, none => s.finish p r.status 0
  | .command p, some st => s.finish p st 0
  | .batch b, none =>
    s.outputRows b.rows r.rowStatus (((s.batcher j).sizes).getD (0, 0)).2 (stagingOf (s.job j) (s.fget F.jobBatchCfgRowCap j) b).2
  | .batch b, some st => s.failRows b.rows st
  | .siding _ _ _ places, none => s.sidingDone places r.lists
  | .siding _ _ _ places, some st => places.foldl (fun (s : State) p => s.finish p st 0) s
  | .embed p first n, none => s.embedRan p first n r.status false
  | .embed p first n, some st => s.embedRan p first n st true
  | .mesh n c, none => s.homeRan n c r.status false
  | .mesh n c, some st => s.homeRan n c st true
  | .origin n, none => s.originRan n 0 r.rowStatus false
  | .origin n, some st => s.originRan n st [] true

/-- A run ends, or its last report is in. -/
def State.endRun (s : State) (j : Nat) (r : Run) : State :=
  let h := s.job j
  let s1 := s.setJob j { h with run := none, ran := true, readyAt := s.homeCyc j, nextLayer := 0 }
  let s2 := (s1.stations.map (·.1)).foldl (fun (s : State) st => s.setStn st ((s.stn st).runOver j)) s1
  let s3 := s2.releaseLayers j (fun _ => true)
  let s4 := if r.abandoned.isSome then s3
    else (((s3.setJob j { s3.job j with ran := h.ran }).slowDown j r).bump F.jobAcctCount (8 * j + 1) 1).slowAlert j
  let s5 := (s4.setJob j { s4.job j with ran := h.ran || r.abandoned.isNone }).served j r
  let s6 := (s5.jobStations j).foldl State.expressTake s5
  (((s6.handoverCheck (s6.jobSlot j)).refresh j).pushJob j).meshNext

/-- A lane row has no more of a job's run to do: END, its copies complete, nothing in flight (R288). -/
def State.laneOver (s : State) (st j n : Nat) : Bool :=
  let l := s.lane st n
  let c := s.ctx st n j
  c.passDone && c.copyDone && c.wides = [] && l.passes.all (fun p => p.job != j) && l.copies.all (fun x => x.job != j)

/-- A station's end message reaches the home signal box. -/
def State.endMessage (s : State) (st j : Nat) : State :=
  match (s.job j).run with
  | none => s
  | some r =>
    let done : Bool := r.started.contains st && !r.ended.contains st && r.abandoned.isNone && s.stnUp st &&
      (List.range 32).all (s.laneOver st j) && (s.stn st).tail.all (fun t => t.job != j)
    if !done then s
    else
      let r1 := { r with ended := r.ended ++ [st] }
      let s1 := s.setJob j { s.job j with run := some r1 }
      if r.image.stations.all (fun x => r1.ended.contains x) then s1.endRun j r1 else s1

/-- The copies of an abandoned run that are still in flight on a station are dropped (log entry 32). -/
def State.dropCopies (s : State) (st j : Nat) : State :=
  (List.range 33).foldl (fun (s : State) n =>
    ((s.lane st n).copies.filter (fun c => c.job = j)).foldl (fun (s : State) c => s.dropCopy st n c) s) s

/-- A station's report on an abandoned run reaches the home signal box; a fenced station's is there already (R289). -/
def State.abandonReport (s : State) (st j : Nat) : State :=
  match (s.job j).run with
  | none => s
  | some r =>
    let quiet : Bool := (List.range 33).all (fun n => (s.lane st n).passes.all (fun p => p.job != j)) &&
      (s.stn st).tail.all (fun t => t.job != j)
    if r.abandoned.isNone ∨ !r.image.stations.contains st ∨ !quiet then s
    else
      let s1 := (s.dropCopies st j).report j st
      match (s1.job j).run with
      | some r1 => if r1.image.stations.all (fun x => r1.reports.contains x) then s1.endRun j r1 else s1
      | none => s1

/-! ## The dispatcher (R292, R305) -/

/-- The job a station runs still has work there. -/
def State.busyWith (s : State) (st : Nat) : Bool := ((s.carried st).map (fun j => s.hasWork st j)).getD false

/-- The job after `v` in a station's circle (R292). -/
def nextInCircle (js : List Nat) (v : Nat) : Option Nat := ((js.find? (fun j => v < j)) <|> js.head?)

/-- A visit of one job: without work its balance is 0; with work it gains 64 station cyc for each of its weight, and the
station switches to it (R292). -/
def State.visit (s : State) (st j : Nat) : State :=
  if !s.hasWork st j then
    let s1 := s.setBalance st j 0
    s1.setStn st { s1.stn st with visited := j }
  else (s.setBalance st j (s.balance st j + 32 * 64 * s.fget F.jobCfgWeight j)).giveStation st j

/-- DISPATCHER_VISIT: an express run that is ready is taken first; else the next job of the circle is visited. -/
def State.dispatch (s : State) (st : Nat) : State :=
  if !s.stnUp st ∨ (s.stn st).incoming.isSome ∨ ((s.stn st).order.isNone ∧ s.busyWith st) then s
  else
    match (s.stn st).ready.find? (fun j => s.hasWork st j) with
    | some e => s.giveStation st e
    | none =>
      match nextInCircle (s.jobsOn st) (s.stn st).visited with
      | some j => s.visit st j
      | none => s

/-- BALANCE_EXHAUSTED: the time this takes passes on the station, 32 lane-row cycles to a station cyc, and the station orders the job
out (R292, R293, R296). -/
def State.balanceSpent (s : State) (st : Nat) : State :=
  match s.carried st with
  | none => s
  | some j =>
    if s.isExpress j ∨ (s.stn st).order.isSome ∨ (s.stn st).incoming.isSome ∨ !s.hasWork st j then s
    else (s.passTime st (ceilDiv (s.balance st j).toNat 32)).orderOut st .balance

/-! ## A switch (R296 to R299) -/

/-- The latest pass of a lane row is cut: it issues again from its start (R296). -/
def State.cutPass (s : State) (st n i : Nat) : State :=
  let l := s.lane st n
  match l.passes[i]? with
  | none => s
  | some p =>
    let c := s.ctx st n p.job
    let c1 := match p.wide with
      | some (first, m) => { c with wides := (p.desc, first, m) :: c.wides }
      | none => { c with passIdx := p.idx, passIters := p.iters, passDone := false, blocks := p.block.toList ++ c.blocks }
    ((s.setLane st n { l with passes := l.passes.take i, stalled := false }).setCtx st n p.job c1).bump F.jobAcctCount (8 * p.job + 4) 1

/-- The requests of a job's copies that wait on a tier miss give up their slots and are sent again when the job resumes (R298). -/
def State.giveUpMisses (s : State) (st n : Nat) (c : CopyRun) : State :=
  let misses := c.open_.filter (fun q => match c.reqPage q.1 with
    | some p => !s.ringHas st p && !s.pageReady p
    | none => false)
  if misses = [] then s
  else s.putCopy st n { c with open_ := c.open_.filter (fun q => !misses.contains q), again := c.again ++ misses }
    ((s.lane st n).slots - misses.length)

/-- A wide pass of a re-run that the part's end finds undecided has accepted its last slot, or is cut: a free choice. -/
def State.endWide (s : State) (st n i : Nat) : State :=
  let b := s.drawBool
  if b.1 then b.2.widePassDone st n i else b.2.cutPass st n i

/-- SWITCH_PART_END: a lane row ends its part of the job that an order takes out. -/
def State.partEnd (s : State) (st n : Nat) : State :=
  let x := s.stn st
  let l := s.lane st n
  match l.job with
  | none => s
  | some j =>
    if x.order.isNone ∨ l.partEnded ∨ (l.swapped ∧ x.incoming = some j) ∨ 1 < (l.passes.filter (fun p => !p.verdict)).length then s
    else
      let s1 := match l.undecided with
        | none => s
        | some i => if (l.passes[i]?.map (fun (p : PassRun) => p.wide.isSome)).getD false then s.endWide st n i else s.cutPass st n i
      let s2 := ((s1.lane st n).copies.filter (fun (c : CopyRun) => c.job = j)).foldl (fun (s : State) (c : CopyRun) => s.giveUpMisses st n c) s1
      s2.setLane st n { s2.lane st n with partEnded := true }

/-- A lane row may swap: its part has ended, it has no job, or no order is in force and nothing of its own is under way. -/
def State.maySwap (s : State) (st n : Nat) : Bool :=
  let x := s.stn st
  let l := s.lane st n
  !(l.swapped && l.job = x.incoming) && (l.partEnded || l.job.isNone || (x.order.isNone && l.undecided.isNone))

/-- One lane row swaps: 40 cyc, of stall cause 7, charged to the incoming job, whose first sub-tile is fed where its tile is complete
(R112, R293, R297); ACTIVE_JOB is the job whose pointer LR00 carries (R655). -/
def State.swapLane (st : Nat) (s : State) (n : Nat) : State :=
  if !s.maySwap st n then s
  else
    let i := (s.stn st).incoming
    let s1 := s.setLane st n { s.lane st n with job := i, partEnded := false, swapped := true }
    let s2 := ((s1.feedNext st n).lrAdd st n 7 40).ahead st n 40
    let s3 := if n = 0 then s2.fset F.stnStateActiveJob st (i.getD 0x1FF) else s2
    match i with
    | some j => s3.charge st j 40
    | none => s3

/-- Every lane row has swapped: the switch is over, and one whose last sub-tile stalled is counted as a long drain (R299). -/
def State.switchOver (s : State) (st : Nat) (was : List Nat) : State :=
  let x := s.stn st
  if !(List.range 32).all (fun n => (s.lane st n).swapped && (s.lane st n).job = x.incoming) then s
  else
    let lanes := (x.lanes.map (fun e => (e.1, { e.2 with swapped := false }))).filter (fun e => e.2 != {})
    let s1 := s.setStn st { x with lanes := lanes, order := none, outgoing := none, incoming := none, longDrain := false }
    let s2 := match x.outgoing with
      | some j => if x.longDrain then s1.bump F.jobAcctCount (8 * j + 6) 1 else s1
      | none => s1
    (was ++ x.incoming.toList).foldl (fun (s : State) j => s.refresh j) s2

/-- SWAP_END: lane rows whose part has ended swap; with the last the switch is over. A station with no job to switch to swaps
only where an order is in force and no job has work there (log entry 25). -/
def State.swapEnd (s : State) (st : Nat) : State :=
  let x := s.stn st
  let idle : Bool := x.incoming.isNone && (x.order.isNone || (s.jobsOn st).any (fun j => s.hasWork st j))
  if !s.stnUp st ∨ idle then s
  else
    let was := ((List.range 32).filterMap (fun n => (s.lane st n).job)).dedup
    ((List.range 32).foldl (State.swapLane st) s).switchOver st was

/-! ## The rows -/

/-- RUN (R451 to R453). -/
def execRun (q : QueueId) (s : State) : Host.Outcome State Fault Refusal :=
  .next (s.onEntry q (fun e => sqOpcode e = 0x10) State.runTaken)

/-- BATCH_WAIT_EXPIRY (R118). -/
def execBatchWaitExpiry (j : JobId) (s : State) : Host.Outcome State Fault Refusal := .next (s.waitOver j.val)

/-- BATCH_PLACE_FREE (R119). -/
def execBatchPlaceFree (j : JobId) (s : State) : Host.Outcome State Fault Refusal := .next (s.placeFree j.val)

/-- DISPATCHER_VISIT (R292). -/
def execDispatcherVisit (st : StationId) (s : State) : Host.Outcome State Fault Refusal := .next (s.dispatch st.val)

/-- BALANCE_EXHAUSTED (R292). -/
def execBalanceExhausted (st : StationId) (s : State) : Host.Outcome State Fault Refusal := .next (s.balanceSpent st.val)

/-- SWITCH_PART_END (R296). -/
def execSwitchPartEnd (st : StationId) (n : LaneRowId) (s : State) : Host.Outcome State Fault Refusal :=
  .next (s.partEnd st.val n.val)

/-- SWAP_END (R297). -/
def execSwapEnd (st : StationId) (s : State) : Host.Outcome State Fault Refusal := .next (s.swapEnd st.val)

/-- STATION_END_MESSAGE (R288). -/
def execStationEndMessage (st : StationId) (j : JobId) (s : State) : Host.Outcome State Fault Refusal :=
  .next (s.endMessage st.val j.val)

/-- ABANDON_REPORT (R289). -/
def execAbandonReport (st : StationId) (j : JobId) (s : State) : Host.Outcome State Fault Refusal :=
  .next (s.abandonReport st.val j.val)

end Sys2Proof.Machine
end

