-- ==== Sys2Proof/Machine/Abort.lean ====
section
/-! DEFINITION. How a command ends early (R226 to R230, R457, R458, R460, R581): what it leaves, the abort of a queue, and the
loss of the link. -/

namespace Sys2Proof.Machine

/-! ## What a command leaves (R458) -/

/-- A list without the occurrence of `j` that has `n` before it. -/
def dropNth (j : Nat) : Nat → List Nat → List Nat
  | _, [] => []
  | n, x :: xs => if x = j then (match n with
      | 0 => xs
      | k + 1 => x :: dropNth j k xs) else x :: dropNth j n xs

/-- A RUN's request that has not started is withdrawn, and with it its place among the express runs that are ready (R305). -/
def State.withdrawRequest (s : State) (p : Nat) (j : Nat) : State :=
  let h := s.job j
  let mine := fun x : RunFor × Nat => x.1 = .command p
  if !h.queue.any mine then s
  else
    let q := h.queue.filter (fun x => !mine x)
    let n := (h.queue.findIdx? mine).getD 0 + bit h.run.isSome
    let s1 := (s.stations.map (·.1)).foldl (fun (s : State) st => s.setStn st { s.stn st with ready := dropNth j n (s.stn st).ready }) s
    ((s1.setJob j { h with queue := q }).fset F.jobStatePending j q.length).refresh j

/-- An EMBED, or the embedding of an INGEST: no further batch; its staging goes when no run of it is left. What an EMBED has not
copied of its depot destination is undefined. -/
def State.leaveEmbed (s : State) (p : Nat) : State :=
  match s.embedOf p with
  | none => s
  | some x =>
    let left := (x.items - x.copied) * x.outBytes
    let s1 := if x.root.isNone ∧ x.inDepot then (let b := s.drawBytes left; b.2.store (x.dst + x.copied * x.outBytes) b.1) else s
    if x.pending = 0 then s1.dropEmbed p else s1

/-- A STITCH that has not begun, or is in LOADING or CHECKING, is abandoned and its slot FREE; one in PLACING completes. -/
def State.leaveStitch (s : State) (p : Nat) : State :=
  match s.tt.queue.find? (fun x => x.by_ = .command p) with
  | none => s
  | some x =>
    if x.unstitch ∨ x.image.isSome then s
    else if x.begun then ((s.popStitch).unload x).stitchKick
    else s.setTt { s.tt with queue := s.tt.queue.filter (fun y => y.by_ != .command p) }

/-- The effect of a command's early end, by its opcode. -/
def State.leaves (s : State) (p : Nat) : State :=
  let o := sqOpcode (s.cmd p).entry
  if o = 0x02 then s.settleWrite p
  else if o = 0x04 then s.settleRelease p
  else if o = 0x0A then s.leaveEmbed p
  else if o = 0x0B then (if (s.cmd p).phase < 2 then s.settleWrite p else s).leaveEmbed p
  else if o = 0x10 then s.withdrawRequest p (ruJob (s.cmd p).entry)
  else if o = 0x24 then s.leaveStitch p
  else s

/-- A command is forgotten by every unit; the next mutating command of its root goes on. -/
def State.stopped (s : State) (p : Nat) : State :=
  let roots := (s.search.mutators.filter (fun m => m.2 = p)).map (·.1)
  let s1 := (s.leaves p).freeContexts p
  roots.foldl (fun (s : State) r => s.mutate r s.search.mutators.length) s1

/-- End a command before its own outcome, with a status; its later completion messages count as late (R228). -/
def State.abort (s : State) (p status : Nat) : State :=
  if !s.open p then s
  else
    let s1 := s.stopped p
    ((s1.setHost { s1.host with late := s1.host.late + 1 }).decide p status 0).wake

/-! ## Arrival and expiry (R224 to R227) -/

/-- What a command's arrival settles: a WRITE's data is new (R230), and a RELEASE's whole sections are unmapped. -/
def State.arrive (s : State) (p : Nat) : State :=
  let c := s.cmd p
  if c.status ≠ 0 then s
  else if sqOpcode c.entry = 0x02 then s.wrote p
  else if sqOpcode c.entry = 0x04 then (wholeSections (sqLba c.entry) (sqCount64 c.entry)).foldl (fun s l => s.unmapSection l) s
  else s

/-- A command's completion is there to be accepted: its last message has been sent, and none of its writes waits for its turn (R225). -/
def State.mayArrive (s : State) (p : Nat) : Bool :=
  s.open p && (s.cmd p).ready && !s.depot.turns.any (fun t => t.engine && t.place = some p)

/-- The status a command arrives with: that of its units, and 0x2001 where a write made for it met an uncorrectable word that it covered
only in part (R547). -/
def Cmd.outcome (c : Cmd) : Nat := if c.status = 0 ∧ c.spoiled then 0x2001 else c.status

/-- A command arrives (R226). -/
def State.arrival (s : State) (p : Nat) : State := (s.arrive p).decide p (s.cmd p).outcome (s.cmd p).result

/-- A command's timeout has come (R224): SANITISE and FORMAT ignore theirs (R586). -/
def State.expired (s : State) (p : Nat) : Bool :=
  let c := s.cmd p
  match c.timeout with
  | some t => sqOpcode c.entry != 0x28 && sqOpcode c.entry != 0x29 && 700 * t ≤ cycSince (s.cyc 17) c.t0
  | none => false

/-- A reset ends a command: with its own status where it arrives, with 0x3001 where its timeout comes, else with 0x3002 (R227; that an
arrival or an expiry which is due falls in the reset's cycle is a DESIGN CHOICE, log entry 39). -/
def State.endByReset (s : State) (p : Nat) : State :=
  if s.mayArrive p then s.arrival p else if s.expired p then s.abort p 0x3001 else s.abort p 0x3002

/-! ## A queue's reset (R457) -/

/-- The places of a queue's outstanding commands that have no outcome. -/
def State.openOn (s : State) (q : Nat) : List Nat := (s.host.cmds.filter (fun e => e.2.live && !e.2.decided && e.2.queue = q)).map (·.1)

/-- Entries of a queue not taken. -/
def State.untaken (s : State) (q : Nat) : Nat :=
  let n := max 1 (s.qcfg q).sqSize
  (s.fget F.queQStateTail q + n - s.fget F.queQStateHead q) % n

/-- Reset a queue, to delete it at the end or not: RESETTING, its commands ended (R227), and with the last CQ entry the
reset is over. -/
def State.resetQueue (s : State) (q : Nat) (by_ : Option Nat) (deleting : Bool) : State :=
  let n := s.untaken q
  let s1 := (s.fset F.queQStateState q 3).setQcfg q { s.qcfg q with resetBy := by_, deleting := deleting, discarded := n }
  (((s1.openOn q).foldl State.endByReset s1).finishReset q).adminReady

/-! ## The loss of the link (R460) -/

/-- A command is aborted with no CQ entry: it counts as undeliverable. -/
def State.undeliver (s : State) (p : Nat) : State :=
  let s1 := if s.open p then (let t := s.stopped p; t.setHost { t.host with late := t.host.late + 1 }) else s
  (s1.bump F.queCtrCount 10 1).setCmd p {}

/-- Every outstanding command is aborted undelivered, Q0001 to Q1023 are deleted and Q0000 is disabled. -/
def State.linkLost (s0 : State) : State :=
  let s := s0.setHost { s0.host with link := none }
  let s1 := ((s.host.cmds.filter (fun e => e.2.live)).map (·.1)).foldl State.undeliver s
  let s2 := (s1.setHost { s1.host with held := [] }).fset F.queClass0Outstanding 0 0
  let s3 := (List.range 1024).foldl (fun (s : State) q => s.deleteQueue q) s2
  (((s3.fset F.queAdminCtlEnable 0 0).adminReady).setHost { s3.host with queues := [], cmds := [] }).wake

/-! ## Commands that touch the media part (R581) -/

/-- A command touches the media part. -/
def State.touches (s : State) (p : Nat) : Bool :=
  let e := (s.cmd p).entry
  let o := sqOpcode e
  let root := fun a : Nat => a < userEnd || (s.readRoot a).inMedia
  if 0x01 ≤ o ∧ o ≤ 0x04 then true
  else if o = 0x08 then scanNamesMedia e
  else if o = 0x09 then searchNamesMedia e || root (seRoot e)
  else if o = 0x0A then emSrc e < userEnd || (emDepot e && emDst e < userEnd) || s.jobTouchesMedia (emJob e)
  else if o = 0x0B then inDst e < userEnd || root (inRoot e) || s.jobTouchesMedia (inJob e)
  else if o = 0x0C then root (ipRoot e) || (ipDepot e && ipSrc e < userEnd)
  else if o = 0x0D ∨ o = 0x2F then root (ipRoot e)
  else if o = 0x10 then s.runMedia (ruJob e) e
  else if o = 0x2E then byteField e 8 1 = 1 && byteField e 24 8 < userEnd
  else false

/-- The runs of jobs with a media buffer are abandoned. -/
def State.abandonMedia (s : State) (status : Nat) : State :=
  (s.jobs.map (·.1)).foldl (fun (s : State) j =>
    if (s.runImage j).any touchesMedia then s.abandonRun j status else s) s

/-- At the start of a sanitise or format: commands and runs that touch the media part end with its status. -/
def State.clearMediaWork (s : State) (status : Nat) : State :=
  let ps := (s.host.cmds.filter (fun e => e.2.live && !e.2.decided && s.touches e.1)).map (·.1)
  (ps.foldl (fun (s : State) p => s.abort p status) s).abandonMedia status

end Sys2Proof.Machine
end

