-- ==== Sys2Proof/Machine/QueueRows.lean ====
section
/-! DEFINITION. The queues' own commands (R426 to R439, R457, R459): creation, reset and deletion, doorbells, the admin queue's
control, completions and their timers, and what a read of host memory brings (R446). -/

namespace Sys2Proof.Machine

/-! ## QUEUE_CREATE, QUEUE_RESET and QUEUE_DELETE -/

def qcQid (e : List Byte) : Nat := byteField e 8 2
def qcSqSize (e : List Byte) : Nat := byteField e 10 2
def qcCq (e : List Byte) : Nat := byteField e 12 2
def qcClass (e : List Byte) : Nat := byteField e 14 1
def qcFlags (e : List Byte) : Nat := byteField e 15 1
def qcAddr (e : List Byte) : Nat := byteField e 16 8
def qcCqSize (e : List Byte) : Nat := byteField e 24 4
def qcVector (e : List Byte) : Nat := byteField e 28 2

/-- A CQ's own settings are in range, or all 0 where the queue shares one (R438). -/
def ownCqOk (e : List Byte) : Bool :=
  if qcCq e = qcQid e then
    qcFlags e < 2 && qcAddr e % 4096 = 0 && 2 ≤ qcCqSize e && qcCqSize e ≤ 65536 && qcVector e < 2048
  else qcFlags e = 0 && zeroAt e 16 16

/-- The fields of QUEUE_CREATE are in range. -/
def createFields (e : List Byte) : Bool :=
  sqFlags e = 0 && 1 ≤ qcQid e && qcQid e < 1024 && 2 ≤ qcSqSize e && qcSqSize e ≤ 4096 && 1 ≤ qcCq e && qcCq e < 1024 &&
    qcClass e < 4 && ownCqOk e && zeroAt e 36 28

/-- A queue owns its CQ. -/
def State.ownsCq (s : State) (q : Nat) : Bool := s.fbit F.queCqStateOwned q

/-- Set up the CQ that a queue owns: empty, its first pass writing PHASE 1 (R434). -/
def State.setCq (s : State) (q vector : Nat) : State :=
  let s1 := (s.rset .queCqState q 0).rset .queCqState1 q 0
  ((s1.fset F.queCqStateOwned q 1).fset F.queCqStatePhase q 1).fset F.queCqStateVector q vector

/-- Set up a queue, CREATED and empty. -/
def State.setQueue (s : State) (q cls cq : Nat) : State :=
  let s1 := s.rset .queQState q 0
  (((s1.fset F.queQStateState q 1).fset F.queQStateClass q cls).fset F.queQStateCqId q cq).fset F.queQStateOutstanding q 0

/-- QUEUE_CREATE taken. -/
def State.createTaken (p : Nat) (e : List Byte) (s : State) : State :=
  let q := qcQid e
  let own : Bool := qcCq e = q
  if !createFields e then s.fail p 0x1001
  else if s.fget F.queQStateState q ≠ 0 ∨ (!own ∧ (s.fget F.queQStateState (qcCq e) = 0 ∨ !s.ownsCq (qcCq e))) then s.fail p 0x1007
  else
    let c : QueueCfg :=
      { sqSize := qcSqSize e, defaultTimeout := byteField e 32 4, cqAddr := qcAddr e, cqSize := qcCqSize e
        irqEn := own && qcFlags e = 1, aggCount := byteField e 30 1, aggUs := byteField e 31 1 }
    let s1 := (s.setQueue q (qcClass e) (qcCq e)).setQcfg q c
    (if own then s1.setCq q (qcVector e) else s1).finish p 0 0

/-- The fields of QUEUE_RESET and QUEUE_DELETE. -/
def qidFields (e : List Byte) : Bool := sqFlags e = 0 && 1 ≤ qcQid e && qcQid e < 1024 && zeroAt e 10 54

/-- A queue can be reset: it is CREATED or RUNNING. -/
def State.canReset (s : State) (q : Nat) : Bool := s.fget F.queQStateState q = 1 || s.fget F.queQStateState q = 2

/-- Another queue shares the CQ that a queue owns. -/
def State.shared (s : State) (q : Nat) : Bool :=
  s.ownsCq q && (List.range 1024).any (fun x => x != q && s.fget F.queQStateState x != 0 && s.fget F.queQStateCqId x = q)

/-- QUEUE_RESET taken. -/
def State.resetTaken (p : Nat) (e : List Byte) (s : State) : State :=
  if !qidFields e then s.fail p 0x1001
  else if !s.canReset (qcQid e) then s.fail p 0x1007
  else s.resetQueue (qcQid e) (some p) false

/-- QUEUE_DELETE taken. -/
def State.deleteTaken (p : Nat) (e : List Byte) (s : State) : State :=
  if !qidFields e then s.fail p 0x1001
  else if !s.canReset (qcQid e) ∨ s.shared (qcQid e) then s.fail p 0x1007
  else s.resetQueue (qcQid e) (some p) true

/-- QUEUE_CREATE (R438). -/
def execQueueCreate (q : QueueId) (s : State) : Host.Outcome State Fault Refusal :=
  .next (s.onEntry q (fun e => sqOpcode e = 0x21) (State.adminOnly State.createTaken))

/-- QUEUE_RESET (R457). -/
def execQueueReset (q : QueueId) (s : State) : Host.Outcome State Fault Refusal :=
  .next (s.onEntry q (fun e => sqOpcode e = 0x22) (State.adminOnly State.resetTaken))

/-- QUEUE_DELETE (R459). -/
def execQueueDelete (q : QueueId) (s : State) : Host.Outcome State Fault Refusal :=
  .next (s.onEntry q (fun e => sqOpcode e = 0x23) (State.adminOnly State.deleteTaken))

/-! ## Entries that are no command -/

/-- UNKNOWN_OPCODE (R441, check 1). -/
def execUnknownOpcode (q : QueueId) (s : State) : Host.Outcome State Fault Refusal :=
  .next (s.onEntry q (fun e => !knownOpcodes.contains (sqOpcode e)) (fun p _ s => s.fail p 0x1002))

/-- An entry with CID 0xFFFF, whatever it held. -/
def unknownCid (e : List Byte) : List Byte := (e.set 2 0xFF).set 3 0xFF

/-- SQ_ENTRY_UNCORRECTABLE (R426). -/
def State.takeBad (s : State) (q : Nat) : State :=
  match s.arbPick with
  | none => s
  | some (q', a) =>
    if q' = q ∧ s.headBad q ∧ s.takes 0 then
      match s.freePlace (s.fget F.queQStateClass q) with
      | none => s
      | some p =>
        let s1 := ((s.takeInto q p a).countWaits).bump F.queCtrCount 9 1
        (s1.setCmd p { s1.cmd p with entry := unknownCid (s1.cmd p).entry }).fail p 0x2001
    else s
def execSqEntryUncorrectable (q : QueueId) (s : State) : Host.Outcome State Fault Refusal := .next (s.takeBad q.val)

/-! ## Doorbells (R428, R429) -/

/-- A doorbell write that is ignored. -/
def State.doorbellBad (s : State) (q value : Nat) : State := (s.bump F.queQStateDbErrors q 1).event 17 0x0302 0 q value

/-- An SQ tail is accepted: it lies in the SQ and does not go back over entries (R429). -/
def State.tailOk (s : State) (q tail : Nat) : Bool :=
  let n := (s.qcfg q).sqSize
  let head := s.fget F.queQStateHead q
  s.canReset q && tail < n && (s.fget F.queQStateTail q + n - head) % n ≤ (tail + n - head) % n

/-- A write of an SQ tail. -/
def State.ringSq (s : State) (q tail : Nat) : State :=
  if !s.tailOk q tail then s.doorbellBad q tail
  else (s.fset F.queQStateTail q tail).fset F.queQStateState q 2

/-- A CQ head is accepted: the queue owns the CQ, and the head does not pass what has been written (R429). -/
def State.headOk (s : State) (q head : Nat) : Bool :=
  let n := (s.qcfg q).cqSize
  let old := s.fget F.queCqStateCqHead q
  s.ownsCq q && s.fget F.queQStateState q != 0 && head < n &&
    (head + n - old) % n ≤ (s.fget F.queCqStateCqTail q + n - old) % n

/-- A write of a CQ head. -/
def State.ringCq (s : State) (q head : Nat) : State :=
  if !s.headOk q head then s.doorbellBad q head else s.fset F.queCqStateCqHead q head

/-- SQ_TAIL_DOORBELL (R429): of Q0000 it is QUE.ADMIN_SQ_DB. -/
def execSqTailDoorbell (q : QueueId) (tail : Nat) (s : State) : Host.Outcome State Fault Refusal :=
  .next (if !s.hears then s else if q.val = 0 then s.openWrite 0x100018 (fun s => s.ringSq 0 (tail % 4096)) else s.ringSq q.val (tail % 4096))

/-- CQ_HEAD_DOORBELL (R429): of Q0000 it is QUE.ADMIN_CQ_DB. -/
def execCqHeadDoorbell (q : QueueId) (head : Nat) (s : State) : Host.Outcome State Fault Refusal :=
  .next (if !s.hears then s else if q.val = 0 then s.openWrite 0x100020 (fun s => s.ringCq 0 (head % 131072)) else s.ringCq q.val (head % 131072))

/-! ## Completions -/

/-- COMPLETION_ARRIVAL (R225, R226, R228). -/
def execCompletionArrival (place : Nat) (late : Bool) (s : State) : Host.Outcome State Fault Refusal :=
  .next (
    if late then (if s.host.late > 0 then s.bump F.queCtrCount 5 1 else s)
    else if s.mayArrive place then s.arrival place
    else s)

/-- COMMAND_TIMEOUT (R224, R226). -/
def execCommandTimeout (place : Nat) (s : State) : Host.Outcome State Fault Refusal :=
  .next (if s.expired place then s.abort place 0x3001 else s)

/-- HELD_COMPLETION_POST (R435). -/
def execHeldCompletionPost (cq : QueueId) (s : State) : Host.Outcome State Fault Refusal :=
  .next (match s.host.held.find? (fun h => h.cq = cq.val) with
    | none => s
    | some h =>
      if s.cqFull cq.val then s
      else
        let q := (s.cmd h.place).queue
        let s1 := (s.setHost { s.host with held := s.host.held.erase h }).dip F.queCqStateHeld cq.val 1
        (((s1.postEntry h.place).finishReset q).adminReady))

/-- CQ_AGGREGATION_TIMEOUT (R436). -/
def execCqAggregationTimeout (cq : QueueId) (s : State) : Host.Outcome State Fault Refusal :=
  .next (
    let c := s.qcfg cq.val
    if !c.irqEn ∨ c.sinceIrq = 0 ∨ c.aggUs = 0 then s
    else (s.setQcfg cq.val { c with sinceIrq := 0 }).raiseMsix (s.fget F.queCqStateVector cq.val))

/-! ## The admin queue (R439) -/

/-- ENABLE is served: in service, or by the boot ROM where no image boots (R569, R570). -/
def State.adminServed (s : State) : Bool := s.fget F.pwrBootPhase 0 = 5 || s.fget F.pwrBootPhase 0 = 7

/-- QUE.ADMIN_CFG is in range. -/
def State.adminCfgOk (s : State) : Bool :=
  2 ≤ s.fget F.queAdminCfgSqSize 0 && s.fget F.queAdminCfgSqSize 0 ≤ 4096 &&
    2 ≤ s.fget F.queAdminCfgCqSize 0 && s.fget F.queAdminCfgCqSize 0 ≤ 65536

/-- Create Q0000 from the admin registers: class 1, its own CQ, AGG_COUNT 1, no default timeout. -/
def State.createAdmin (s : State) : State :=
  let c : QueueCfg :=
    { sqSize := s.fget F.queAdminCfgSqSize 0, cqAddr := s.fget F.queAdminCqAddrAddr 0, cqSize := s.fget F.queAdminCfgCqSize 0
      irqEn := s.fbit F.queAdminCfgIrqEn 0, aggCount := 1 }
  (((s.setQueue 0 1 0).setQcfg 0 c).setCq 0 (s.fget F.queAdminCfgVector 0)).adminReady

/-- ENABLE = 1. -/
def State.adminEnable (s : State) : State :=
  if !s.adminServed then s
  else
    let s1 := s.fset F.queAdminCtlEnable 0 1
    if s.fget F.queQStateState 0 ≠ 0 then s1
    else if s.adminCfgOk then (s1.fset F.queAdminCtlCfgBad 0 0).createAdmin
    else s1.fset F.queAdminCtlCfgBad 0 1

/-- ENABLE = 0: Q0000 is deleted as QUEUE_DELETE would. -/
def State.adminDisable (s : State) : State :=
  let s1 := if s.adminServed then s.fset F.queAdminCtlEnable 0 0 else s
  if s.adminServed ∧ s.canReset 0 then s1.resetQueue 0 none true else s1

/-- RESET = 1: Q0000 is reset as QUEUE_RESET would. -/
def State.adminReset (s : State) : State := if s.canReset 0 then s.resetQueue 0 none false else s

/-- ADMIN_QUEUE_ENABLE (R439). -/
def execAdminQueueEnable (s : State) : Host.Outcome State Fault Refusal := .next (s.lockWrite 0x100010 State.adminEnable)

/-- ADMIN_QUEUE_DISABLE (R439). -/
def execAdminQueueDisable (s : State) : Host.Outcome State Fault Refusal := .next (s.lockWrite 0x100010 State.adminDisable)

/-- ADMIN_QUEUE_RESET (R439): RESET is wo, which the lock does not refuse; the rwl ENABLE of the write keeps its value. -/
def execAdminQueueReset (s : State) : Host.Outcome State Fault Refusal := .next (s.woWrite 0x100010 State.adminReset)

end Sys2Proof.Machine
end

