-- ==== Sys2Proof/Machine/Admin.lean ====
section
/-! DEFINITION. The admin commands that report and set: IDENTIFY (R455), LOG_GET, SETTING_SET and SETTING_GET (R456, R527,
R528). -/

namespace Sys2Proof.Machine

/-! ## IDENTIFY (R455) -/

/-- The revision of a firmware region: of its image as it stands there, 0 where the region is invalid (log entry 40). -/
def FwRegion.revision (r : FwRegion) : Nat := if r.valid then fwRevision r.bytes else 0

/-- Bytes of one DRAM stack (the table of parts of 01_module.md). -/
def stackBytes : Nat := 96 * 2 ^ 30

/-- The module structure of CNS 0. -/
def State.identifyModule (s : State) : List Byte :=
  let up := s.stacksUp.length
  layBytes 4096 [
    (0, leBytes 2 0x6420), (2, leBytes 1 (s.fget F.glbIdStepping 0)), (4, leBytes 2 0x2A5E),
    (8, leBytes 8 (s.rget .brlSerial 0).toNat), (16, leBytes 8 s.cfs.fwA.revision), (24, leBytes 8 s.cfs.fwB.revision),
    (32, leBytes 1 (s.fget F.glbFwRunning 0)), (48, leBytes 8 userLbas), (56, leBytes 8 (stackBytes * up)),
    (64, leBytes 8 (s.fget F.depHostwinSizeGib 0 * 2 ^ 30)), (72, leBytes 2 1024), (74, leBytes 2 4096), (76, leBytes 4 65536),
    (80, leBytes 4 262144), (84, leBytes 4 sectionLbas), (88, leBytes 4 65536), (92, leBytes 2 64), (94, leBytes 2 2048),
    (96, leBytes 2 s.stationsUp.length), (98, leBytes 2 up), (100, leBytes 2 0x0100),
    (102, leBytes 1 ((s.host.link.map (·.1)).getD 0)), (103, leBytes 1 ((s.host.link.map (·.2)).getD 0))]

/-- Byte `i` of the queue list: bit k is set when queue 8i + k is not DELETED. -/
def State.queueByte (s : State) (i : Nat) : Byte :=
  BitVec.ofNat 8 (((List.range 8).map (fun k => bit (s.fget F.queQStateState (8 * i + k) ≠ 0) * 2 ^ k)).sum)

/-- The queue list of CNS 1. -/
def State.identifyQueues (s : State) : List Byte := (List.range 128).map s.queueByte ++ zeros 3968

/-- IDENTIFY with a known CNS: the structure goes to the host, and then the completion. -/
def State.identify (bytes : State → List Byte) (p : Nat) (e : List Byte) (s : State) : State :=
  let a := byteField e 16 8
  if sqFlags e ≠ 0 ∨ 1 < byteField e 8 1 ∨ !zeroAt e 9 7 ∨ !zeroAt e 24 40 ∨ a % 4096 ≠ 0 then s.fail p 0x1001
  else (s.sendData a (bytes s) false).finish p 0 4096

/-- IDENTIFY_MODULE (R455); it takes also the CNS values that are none. -/
def execIdentifyModule (q : QueueId) (s : State) : Host.Outcome State Fault Refusal :=
  .next (s.onEntry q (fun e => sqOpcode e = 0x20 && byteField e 8 1 != 1) (State.adminOnly (State.identify State.identifyModule)))

/-- IDENTIFY_QUEUE_LIST (R455). -/
def execIdentifyQueueList (q : QueueId) (s : State) : Host.Outcome State Fault Refusal :=
  .next (s.onEntry q (fun e => sqOpcode e = 0x20 && byteField e 8 1 = 1) (State.adminOnly (State.identify State.identifyQueues)))

/-! ## LOG_GET (R456, R528) -/

/-- An event entry as its record (R524, R528): 8 words, SEQ the entry's index. -/
def LogEntry.bytes (e : LogEntry) (i : Nat) : List Byte :=
  let body := leBytes 2 0xC5F0 ++ leBytes 1 0x10 ++ leBytes 1 0 ++ leBytes 2 8 ++ leBytes 2 0 ++ leBytes 8 i ++
    leBytes 1 e.island ++ leBytes 1 e.severity ++ leBytes 2 e.event ++ leBytes 2 e.status ++ leBytes 2 0 ++
    leBytes 8 e.islandCyc ++ leBytes 8 e.sbCyc ++ leBytes 8 e.arg0 ++ leBytes 8 e.arg1
  body ++ leBytes 8 (crc32 body)

/-- The records of at most `n` entries from index `start`, or from the oldest held where that is newer. -/
def Cfs.records (c : Cfs) (start n : Nat) : List Byte :=
  let first := max start c.logFirst
  ((c.log.drop (first - c.logFirst)).take n).zipIdx.flatMap (fun x => x.1.bytes (first + x.2))

/-- LOG_GET's fields are in range. -/
def logFields (e : List Byte) : Bool :=
  sqFlags e = 0 && zeroAt e 8 8 && byteField e 16 8 % 4096 = 0 && 4096 ≤ byteField e 24 4 && byteField e 24 4 % 4096 = 0 &&
    zeroAt e 28 4 && zeroAt e 40 24

/-- LOG_GET taken. -/
def State.logTaken (p : Nat) (e : List Byte) (s : State) : State :=
  let n := byteField e 24 4
  let rs := s.cfs.records (byteField e 32 8) (n / 64)
  if !logFields e then s.fail p 0x1001
  else (s.sendData (byteField e 16 8) (padTo n rs) false).finish p 0 rs.length

/-- LOG_GET (R456). -/
def execLogGet (q : QueueId) (s : State) : Host.Outcome State Fault Refusal :=
  .next (s.onEntry q (fun e => sqOpcode e = 0x2A) (State.adminOnly State.logTaken))

/-! ## Settings (R527) -/

/-- A setting ID of R527. -/
def knownSetting (id : Nat) : Bool := id = 0x0010 || settingIds.contains id

/-- SETTING_SET takes this value for this setting. -/
def settingOk (id v : Nat) : Bool :=
  if id = 0x0001 then v ≤ 1024
  else if id = 0x0002 then false
  else if id = 0x0003 then v ≤ 4095
  else if id = 0x0010 then v % 2 = 0 && v < 256
  else if id % 2 = 0 then
    let slot := bitsOf v 16 8
    v % 65536 ≤ 4095 && ((1 ≤ slot && slot ≤ 63) || slot = 255) && bitsOf v 24 39 = 0
  else true

/-- SETTING_SET taken: its record is handed to the configuration store, and with it the command completes. -/
def State.settingSetTaken (p : Nat) (e : List Byte) (s : State) : State :=
  let id := byteField e 8 4
  let v := byteField e 16 8
  if sqFlags e ≠ 0 ∨ !zeroAt e 12 4 ∨ !zeroAt e 24 40 ∨ !knownSetting id ∨ !settingOk id v then s.fail p 0x1001
  else s.cfsWrite (.setting id v (some p))

/-- SETTING_SET (R527). -/
def execSettingSet (q : QueueId) (s : State) : Host.Outcome State Fault Refusal :=
  .next (s.onEntry q (fun e => sqOpcode e = 0x2B) (State.adminOnly State.settingSetTaken))

/-- The 64 bytes of SETTING_GET. -/
def State.settingBytes (s : State) (id : Nat) : List Byte :=
  leBytes 8 (s.setting id) ++ leBytes 8 (Tbl.look 0 s.cfs.settings id) ++ leBytes 4 id ++ zeros 44

/-- SETTING_GET taken. -/
def State.settingGetTaken (p : Nat) (e : List Byte) (s : State) : State :=
  let id := byteField e 8 4
  let a := byteField e 16 8
  if sqFlags e ≠ 0 ∨ !zeroAt e 12 4 ∨ !zeroAt e 24 40 ∨ !knownSetting id ∨ a % 64 ≠ 0 then s.fail p 0x1001
  else (s.sendData a (s.settingBytes id) false).finish p 0 64

/-- SETTING_GET (R527). -/
def execSettingGet (q : QueueId) (s : State) : Host.Outcome State Fault Refusal :=
  .next (s.onEntry q (fun e => sqOpcode e = 0x2C) (State.adminOnly State.settingGetTaken))

end Sys2Proof.Machine
end

