-- ==== Sys2Proof/Machine/CfsRows.lean ====
section
/-! DEFINITION. The configuration store's own events (14_config_store.md): a record or image is committed once programmed on
both devices (R521, R525), sectors are erased, retired and rotated (R516 to R518), and reads are served (R520, R521). -/

namespace Sys2Proof.Machine

/-! ## Record logs (R524 to R526) -/

/-- The record log a write goes to (0 SETTINGS, 1 FUSE, 2 PROGRESS, 3 the LIB directory) and its length in words. -/
def CfsWrite.record : CfsWrite → Option (Nat × Nat)
  | .setting _ _ _ => some (0, 5)
  | .key _ _ => some (0, 12)
  | .fuse _ _ => some (1, 5)
  | .progress _ _ _ _ => some (2, 6)
  | .libAdd _ _ _ => some (3, 7)
  | .libRemove _ _ => some (3, 4)
  | .event _ => none
  | .image _ _ _ => none
  | .checkpoint _ _ => none

/-- Words of one half of a record log (R519, R530). -/
def halfSize (region : Nat) : Nat := if region = 3 then 65536 else 1048576

/-- The words used after a record that may not cross a sector (R524). -/
def placeRecord (used w : Nat) : Nat := if used % 512 + w > 512 then (used / 512 + 1) * 512 + w else used + w

/-- The latest records of every key of a record log: how many, and their words (R526). -/
def State.latestRecords (s : State) (region : Nat) : List Nat :=
  if region = 0 then s.cfs.settings.map (fun _ => 5) ++ s.cfs.keys.map (fun _ => 12)
  else if region = 1 then s.cfs.fuses.map (fun _ => 5)
  else if region = 2 then [6]
  else (s.cfs.lib.filter (fun e => e.2.live)).map (fun _ => 7)

/-- Move a full record log to its other half (R526): the latest record of every key and a SWITCH record. -/
def State.switchHalf (s : State) (region : Nat) : State :=
  let recs := s.latestRecords region
  let used := placeRecord (recs.foldl placeRecord 0) 3
  let s1 := s.setCfs { s.cfs with
    half := Tbl.put 0 s.cfs.half region (1 - Tbl.look 0 s.cfs.half region)
    halfWords := Tbl.put 0 s.cfs.halfWords region used
    seqs := Tbl.put 0 s.cfs.seqs region (Tbl.look 0 s.cfs.seqs region + recs.length + 1)
    fuses := if region = 1 then s.cfs.fuses.zipIdx.map (fun (f : (Nat × Nat × Nat) × Nat) => (Tbl.look 0 s.cfs.seqs 1 + 1 + f.2, f.1.2)) else s.cfs.fuses }
  (s1.bump F.cfsCtrCount 0 (recs.length + 1)).eraseSectors (halfSize region / 512)

/-- Append a record to its log: one more SEQ, counted as committed. -/
def State.appendRecord (s : State) (region words : Nat) : State :=
  let s0 := if placeRecord (Tbl.look 0 s.cfs.halfWords region) words > halfSize region then s.switchHalf region else s
  let s1 := s0.setCfs { s0.cfs with
    halfWords := Tbl.put 0 s0.cfs.halfWords region (placeRecord (Tbl.look 0 s0.cfs.halfWords region) words)
    seqs := Tbl.put 0 s0.cfs.seqs region (Tbl.look 0 s0.cfs.seqs region + 1) }
  s1.bump F.cfsCtrCount 0 1

/-! ## What each commit does -/

/-- A command that waited for a commit ends. -/
def State.finishPlace (s : State) (place : Option Nat) (status result : Nat) : State :=
  match place with
  | some p => if s.open p then s.finish p status result else s
  | none => s

/-- The value a committed SIGNER_REVOKED takes: a bit once set stays (R615). -/
def State.settingValue (s : State) (id value : Nat) : Nat := if id = 0x10 then value ||| s.setting 0x10 else value

/-- A setting's record is committed (R527). -/
def State.commitSetting (s : State) (id value : Nat) (place : Option Nat) : State :=
  let v := s.settingValue id value
  let s1 := s.setCfs { s.cfs with
    settings := Tbl.put 0 s.cfs.settings id v
    inForce := if id = 0x10 then Tbl.put 0 s.cfs.inForce id v else s.cfs.inForce }
  if id = 0x10 then ((s1.fset F.ttbSignersRevoked 0 v).remeasure 6).finishPlace place 0 0
  else if id = 0x02 then
    let s2 := s1.fset F.glbFwBoot 0 v
    if s2.fget F.glbMaintOp 0 = 3 ∧ s2.fget F.glbMaintPhase 0 = 5 ∧ place = none then s2.activated v
    else
      let r := s2.drawNat
      r.2.finishPlace place 0 r.1
  else
    let s2 := if id = 0x01 then s1.fset F.depHostwinPendingGib 0 v else s1
    (s2.remeasure 7).finishPlace place 0 0

/-- A signer's key is committed (R614): an install clears the signer's REVOKED bit by a setting of its own. -/
def State.commitKey (s : State) (n : Nat) (key : List Byte) : State :=
  let removed := key.all (· = 0)
  let s1 := s.setCfs { s.cfs with keys := Tbl.put (zeros 57) s.cfs.keys n key }
  let s2 := s1.rsetBytes .secSignerKey (8 * n) (padTo 64 key)
  let valid := clearBits 8 (s2.fget F.ttbSignersValid 0) (2 ^ n)
  let s3 := s2.fset F.ttbSignersValid 0 (if removed then valid else valid + 2 ^ n)
  let s4 := if removed then s3 else
    let v := clearBits 8 (s3.setting 0x10) (2 ^ n)
    ((s3.setCfs { s3.cfs with
      settings := Tbl.put 0 s3.cfs.settings 0x10 v
      inForce := Tbl.put 0 s3.cfs.inForce 0x10 v }).appendRecord 0 5).fset F.ttbSignersRevoked 0 v
  let s5 := (s4.fset F.secKeyCtlBusy 0 0).fset F.secKeyCtlStatus 0 0
  (s5.event 17 0x0604 0 n (bit (!removed))).remeasure 6

/-- Entries the event ring holds, and those of one sector (R519, R528). -/
def logCapacity : Nat := 4194304
def logPerSector : Nat := 64

/-- An event entry is committed (R222, R528): it takes D0's signal-box counter, and an error sets LOG_ERROR (R529). -/
def State.commitEvent (s : State) (e : LogEntry) : State :=
  let full : Bool := s.cfs.log.length ≥ logCapacity
  let s0 := if full then s.eraseSectors 1 else s
  let old := if full then s0.cfs.log.drop logPerSector else s0.cfs.log
  let s1 := s0.setCfs { s0.cfs with
    log := old ++ [{ e with sbCyc := s0.cyc 17 }]
    logFirst := if full then s0.cfs.logFirst + logPerSector else s0.cfs.logFirst }
  let s2 := s1.bump F.cfsCtrCount 0 1
  if e.severity ≥ 2 then s2.flag F.glbEventStatusLogError else s2

/-- A firmware image stands verified in its region (R588); with no bootable firmware it is booted at once (R570). -/
def State.commitImage (s : State) (r : Nat) (bytes : List Byte) (place : Option Nat) : State :=
  let reg : FwRegion := { bytes := bytes, valid := true }
  let s1 := s.setCfs (if r = 0 then { s.cfs with fwA := reg } else { s.cfs with fwB := reg })
  let s2 := (s1.fset (if r = 0 then F.glbFwAValid else F.glbFwBValid) 0 1).remeasure 3
  let s3 := if s2.fget F.pwrBootPhase 0 = 7 ∧ s2.fget F.pwrBootEndCause 0 = 4 then
      ((s2.setPhase 1).fset F.pwrBootEndCause 0 0).fset F.glbFwRunning 0 r
    else s2
  s3.finishPlace place 0 r

/-- A map checkpoint is committed, and then the journal's CHECKPOINT record; a pair that was rolled over goes to ERASING
(R489, R532). With it the last phase of a sanitise ends (R582). -/
def State.commitCheckpoint (s : State) (no seq : Nat) : State :=
  let c := s.cfs
  let s1 : State := s.setCfs (if c.ckpt0.1 ≤ c.ckpt1.1 then { c with ckpt0 := (no, seq) } else { c with ckpt1 := (no, seq) })
  let s2 := s1.bump F.cfsCtrCount 0 2
  let s3 := s2.setFlash { s2.flash with
    ckptNo := no, ckptSeq := seq, journal := s2.flash.journal.filter (fun r => seq < r.seq) }
  let s4 := s3.journal 9 (s3.flash.pair.headD 0) (leBytes 8 seq ++ leBytes 4 no)
  let s5 : State := s4.flash.oldPair.foldl (fun s p => s.setSecSt p .erasing) s4
  let s6 := s5.setFlash { s5.flash with oldPair := [] }
  if s6.fget F.glbMaintOp 0 = 1 ∧ s6.fget F.glbMaintPhase 0 = 4 then s6.sanDone else s6

/-- A command that wrote the library ends; its RESULT is not stated (R440, R588) and free. -/
def State.finishFree (s : State) (place : Option Nat) : State :=
  let r := s.drawNat
  r.2.finishPlace place 0 r.1

/-- The sectors of an entry that is replaced or removed stay taken until power-up (R530). -/
def State.holdLib (s : State) (n : Nat) : State :=
  let e := Tbl.look {} s.cfs.lib n
  if e.live then s.setCfs { s.cfs with libHeld := s.cfs.libHeld ++ [(e.sector, ceilDiv e.bytes.length 4096)] } else s

/-- A write's own effect once it is committed. -/
def State.commitWrite (s : State) : CfsWrite → State
  | .setting id v place => s.commitSetting id v place
  | .key n k => s.commitKey n k
  | .fuse w2 w3 =>
    let w := withBits w3 16 48 (s.cyc 17)
    ((s.setCfs { s.cfs with fuses := s.cfs.fuses ++ [(Tbl.look 0 s.cfs.seqs 1, w2, w)] }).remeasure 5).event
      (bitsOf w2 8 8) 0x0802 0 w2 w
  | .progress op ph d t => s.setCfs { s.cfs with progress := (op, ph, d, t) }
  | .event e => s.commitEvent e
  | .libAdd n e place =>
    let s1 := s.holdLib n
    (s1.setCfs { s1.cfs with lib := Tbl.put {} s1.cfs.lib n e }).finishFree place
  | .libRemove n place =>
    let s1 := s.holdLib n
    (s1.setCfs { s1.cfs with lib := Tbl.put {} s1.cfs.lib n {} }).finishFree place
  | .image r bytes place => s.commitImage r bytes place
  | .checkpoint no seq => s.commitCheckpoint no seq

/-- The front write is committed. -/
def State.commitFront (s : State) : State :=
  match s.cfs.writes with
  | [] => s
  | w :: ws =>
    let s1 := s.setCfs { s.cfs with writes := ws }
    let s2 := match w.record with
      | some (r, n) => s1.appendRecord r n
      | none => s1
    s2.commitWrite w

/-! ## Sectors (R516 to R518) -/

/-- Sectors of the logical window. -/
def windowSectors : Nat := 1015808

/-- Retire a sector of a device; a device with no free spare fails (R518). -/
def State.retireSector (s : State) (d sector : Nat) : State :=
  if s.fbit F.cfsDevStateFailed d then s
  else if s.fget F.cfsDevStateSpares d = 0 then s.fset F.cfsDevStateFailed d 1
  else
    let t := Tbl.look [] s.cfs.retiredTab d
    let s1 := s.setCfs { s.cfs with retiredTab := Tbl.put [] s.cfs.retiredTab d (t ++ [(sector, t.length)]) }
    (((s1.dip F.cfsDevStateSpares d 1).bump F.cfsDevStateRetired d 1).bump F.cfsCtrCount 3 1).bump F.cfsCtrCount 0 1

/-- A sector whose program failed verification on a device is retired. -/
def State.badProgram (s : State) (d : Nat) : Option Nat → State
  | none => s
  | some sector => s.retireSector d sector

/-- The gap moves once, and the window record is committed (R517). -/
def State.moveGap (s : State) (d : Nat) : State :=
  let g := s.fget F.cfsDevStateGap d
  let s1 := if g > 0 then s.fset F.cfsDevStateGap d (g - 1)
    else (s.fset F.cfsDevStateGap d windowSectors).fset F.cfsDevStateStart d
      ((s.fget F.cfsDevStateStart d + 1) % windowSectors)
  ((s1.bump F.cfsCtrCount 2 1).bump F.cfsCtrCount 1 1).bump F.cfsCtrCount 0 1

/-- The ring slot of a logical sector of a device, by START and GAP (R516), and the slot whose sector the next move of the gap moves
(R517). -/
def State.cfsSlot (s : State) (d n : Nat) : Nat :=
  let q := (n + s.fget F.cfsDevStateStart d) % windowSectors
  if q ≥ s.fget F.cfsDevStateGap d then q + 1 else q
def State.cfsMoved (s : State) (d : Nat) : Nat :=
  if s.fget F.cfsDevStateGap d > 0 then s.fget F.cfsDevStateGap d - 1 else windowSectors

/-- The gap moves once its window record may be committed: after every read of the moved sector that began before it (R517). -/
def State.gapTurn (s : State) (d : Nat) : State :=
  if s.cfs.bankReads.any (fun e => e.1 / 16 = d && e.2.any (fun r => s.cfsSlot d r.sector = s.cfsMoved d)) then
    s.setCfs { s.cfs with gapDue := s.cfs.gapDue ++ [d] }
  else s.moveGap d

/-- The physical sector of ring slot k of a device (R515): past the bad sectors of the factory record. -/
def ringSector (d k : Nat) : Nat := (Config.badSectors d).foldl (fun p b => if b ≤ p then p + 1 else p) (16 + k)

/-- The physical sector of a logical sector of a device (R516): the ring slot by START and GAP, then the grown-retired table, whose
spares are the good sectors after the ring. -/
def State.physSector (s : State) (d n : Nat) : Nat :=
  (Tbl.look [] s.cfs.retiredTab d).foldl (fun p e => if e.1 = p then ringSector d (windowSectors + 1 + e.2) else p)
    (ringSector d (s.cfsSlot d n))

/-- The bank of a physical sector, device by device: consecutive sectors lie in consecutive banks (R514; DEDUCED, log entry 15). -/
def bankKey (d p : Nat) : Nat := 16 * d + p % 16

/-- The erase of a bank is suspended: a read of the bank is queued (R513). -/
def State.bankHeld (s : State) (d p : Nat) : Bool := Tbl.look [] s.cfs.bankReads (bankKey d p) != []

/-- A read takes its place in its bank: an instruction fetch before any other read (R513). -/
def bankQueue (xs : List CfsRead) (r : CfsRead) : List CfsRead :=
  if r.fetch then xs.filter (·.fetch) ++ r :: xs.filter (fun x => !x.fetch) else xs ++ [r]

/-- A read of a logical sector is queued in its bank of a device; an erase of the bank is suspended for it. -/
def State.queueBank (s : State) (d : Nat) (r : CfsRead) : State :=
  let k := bankKey d (s.physSector d r.sector)
  s.setCfs { s.cfs with bankReads := Tbl.put [] s.cfs.bankReads k (bankQueue (Tbl.look [] s.cfs.bankReads k) r) }

/-- A sector's erase ends; every 64 erases of ring sectors move the gap, whose own copy erases one (R517). -/
def State.sectorErased (s : State) (d sector : Nat) (ok : Bool) : State :=
  let due := Tbl.look 0 s.cfs.erasesDue d
  if due = 0 ∨ s.bankHeld d sector then s
  else
    let s1 := s.setCfs { s.cfs with erasesDue := Tbl.put 0 s.cfs.erasesDue d (due - 1) }
    let s2 := s1.bump F.cfsCtrCount 1 1
    let s3 := if ok then s2 else s2.retireSector d sector
    let n := Tbl.look 0 s3.cfs.sinceGap d + 1
    if sector < 16 then s3
    else if n ≥ 64 then (s3.setCfs { s3.cfs with sinceGap := Tbl.put 0 s3.cfs.sinceGap d 1 }).gapTurn d
    else s3.setCfs { s3.cfs with sinceGap := Tbl.put 0 s3.cfs.sinceGap d n }

/-- Both devices have failed: nothing can be written. -/
def State.cfsDead (s : State) : Bool := s.fbit F.cfsDevStateFailed 0 && s.fbit F.cfsDevStateFailed 1

/-! ## The rows -/

/-- CFS_ERASE_DONE (R512): the erase of a physical sector ends on a device. -/
def execCfsEraseDone (dev : CfsId) (sector : Nat) (ok : Bool) (s : State) : Host.Outcome State Fault Refusal :=
  .next (s.sectorErased dev.val sector ok)

/-- CFS_READ (R513, R520, R521): an island reads a logical sector, as an instruction fetch or digest or as data; `ok0` and `ok1` say
that the copy on CS0 and CS1 passes its CRC. It is queued in the bank of the device that serves it, from which passing time takes
it; a data read of an execute-only region returns all ones. -/
def execCfsRead (island : IslandId) (sector : Nat) (fetch ok0 ok1 : Bool) (s : State) : Host.Outcome State Fault Refusal :=
  .next (
    if !fetch ∧ sector < 65536 then
      let s0 := s.bump F.cfsCtrCount 6 1
      let s1 := s0.setCfs { s0.cfs with readBack := some (2 ^ 64 - 1) }
      if s1.cfs.xoLogged then s1
      else (s1.setCfs { s1.cfs with xoLogged := true }).event 17 0x0701 0 sector island.val
    else
      let r : CfsRead := ⟨island.val, sector, fetch⟩
      if s.fbit F.cfsDevStateFailed 0 then (s.bump F.cfsCtrCount 4 1).queueBank 1 r
      else if !ok0 ∧ ok1 ∧ !s.fbit F.cfsDevStateFailed 1 then ((s.bump F.cfsCtrCount 4 1).bump F.cfsCtrCount 5 1).queueBank 1 r
      else s.queueBank 0 r)

end Sys2Proof.Machine
end

