-- ==== Sys2Proof/Machine/FlashRows.lean ====
section
/-! DEFINITION. The commands of the flash store: reads with retries and read-around (R491 to R497), lost dies (R498 to R500),
program units and merges (R476 to R486), erases (R475, R484, R496), and raw-media reads (R510). -/

namespace Sys2Proof.Machine

/-! ## Erase suspend (R496) -/

/-- The sections of a stripe group whose erases are running on its dies. -/
def State.erasingIn (s : State) (g : Nat) : List Nat :=
  (s.flash.secs.filter (fun e => groupOf e.1 = g && e.2.st = .erasing)).map (·.1)

/-- An erase is suspended, at most 16 times. -/
def State.suspend (s : State) (p : Nat) : State :=
  if (s.sec p).suspends ≥ 16 then s
  else
    let n := (s.sec p).suspends + 1
    let s1 := s.setSecSt p .suspended
    let s2 := (s1.putSec p { s1.sec p with suspends := n, suspendedAt := s.cyc (islandOfFlash (groupOf p / 8)) }).bump F.flsCtrCount 7 1
    s2.bump F.flsCtrCount 8 (bit (n = 16))

/-- A read of another block of a group's dies suspends the erases in progress there. -/
def State.suspendFor (s : State) (g : Nat) : State := (s.erasingIn g).foldl State.suspend s

/-! ## Reads -/

/-- The bucket of FLS.LAT_HIST for a latency in µs. -/
def latBucket (us : Nat) : Nat := if us < 32 then 0 else min 15 (Nat.log2 (us / 32) + 1)

/-- A read is issued (R491, R493): it is counted and earns its group's read-around credit. -/
def State.issueRead (s : State) (i : Nat) : State :=
  let x := s.fread i
  if !x.live ∨ x.issued then s
  else
    let g := groupOf x.sec
    let s1 := (s.setFread i { x with issued := true, issuedAt := s.cyc (islandOfFlash (g / 8)) }).bump F.flsCtrCount 0 1
    let s2 := s1.fset F.flsGroupRaCredit g (min 64000 (s1.fget F.flsGroupRaCredit g + s1.fget F.flsCfgRaRate 0))
    s2.suspendFor g

/-- A read has ended: a promotion's page takes note of a failure, another reader finds the outcome in the read, with the page's
generation as it was served (R267). -/
def State.readEnds (s : State) (i : Nat) (ok : Bool) : State :=
  let x := s.fread i
  let s1 := s.bump F.flsCtrCount 2 (bit (!ok))
  match x.why with
  | .promote | .window =>
    let s2 := s1.setFread i {}
    let pg := s2.page (x.lba / 16)
    if ok then s2 else s2.setPage (x.lba / 16) { pg with bad := pg.bad ||| 2 ^ (x.lba % 16) }
  | .patrol | .dropped => s1.setFread i {}
  | _ => s1.setFread i { x with done := true, failed := !ok, around := false, gen := s1.genOf (x.lba / 16) }

/-- A relocation merge of the logical section that a section serves (R491, R498, R505). -/
def State.relocateSec (s : State) (p : Nat) : State :=
  let x := s.sec p
  if x.st = .data ∨ x.st = .log then s.startMerge x.lsec true else s

/-- The slots of a group whose dies have failed. -/
def State.failedSlots (s : State) (g : Nat) : List Nat :=
  (List.range 16).filter (fun k => s.fbit F.flsDieFailed (dieOfSlot g k))

/-! ## Lost dies and channels (R498 to R500) -/

/-- Start a logical section's merge again on another target; what it folds stays (R485). -/
def State.restartMerge (s : State) (l : Nat) : State :=
  let x := s.lsec l
  match x.target with
  | none => s
  | some old =>
    let s1 := (s.setFlash { s.flash with units := s.flash.units.filter (fun e => !(e.2.merge && e.2.sec = old)) }).setSecSt old .erasing
    let s2 := s1.bump F.flsCtrCount 12 1
    match s2.allocSec l .merging 64 with
    | none => s2.setLsec l { s2.lsec l with target := none }
    | some (p, s3) =>
      let s4 := s3.setLsec l { s3.lsec l with target := some p }
      s4.setPunit s4.freeUnit { live := true, sec := p, lsec := l, unit := 0, merge := true, programming := true }

/-- Event 0x0501 for the first LBA of a row. -/
def State.rowEvent (g : Nat) (s : State) (lba : Nat) : State :=
  s.event (islandOfFlash (g / 8)) 0x0501 0x2001 lba g

/-- The first LBA of each programmed row of a section: at its place in a data section or an in-order log, by the page-level map
in a scatter log (R470, R471, R478). -/
def State.rowLbas (s : State) (p : Nat) : List Nat :=
  let x := s.sec p
  if x.st = .data then (List.range 3072).map (fun r => sectionLbas * x.lsec + 240 * r)
  else if x.st = .log ∧ x.inOrder then (List.range (3 * x.units)).map (fun r => sectionLbas * x.lsec + 240 * r)
  else if x.st = .log then
    (List.range (3 * x.units)).filterMap (fun r =>
      let es := (s.lsec x.lsec).smap.filter (fun e => e.2.1 = p && e.2.2 / 240 = r)
      (es.foldl (fun best e => match best with
        | none => some e
        | some b => if e.2.2 < b.2.2 then some e else some b) none).map (fun e => sectionLbas * x.lsec + e.1))
  else []

/-- Log the rows that lack two pages (R500). -/
def State.logLostRows (s : State) (g : Nat) : State :=
  (((s.flash.secs.filter (fun e => groupOf e.1 = g)).map (·.1)).flatMap s.rowLbas).foldl (State.rowEvent g) s

/-- A degraded group that holds no section in use any more retires its sections (R475, R498). -/
def State.retireEmptied (s : State) (g : Nat) : State :=
  let busy : List SecSt := [.log, .merging, .data, .journal, .erasing, .suspended]
  if s.fbit F.flsGroupDegraded g ∧ !((secsOfGroup g).any (fun p => busy.contains (s.sec p).st || s.flash.eraseQ.contains p)) then
    (secsOfGroup g).foldl (fun s p => s.retireSec p 2) s
  else s

/-- Relocate every section of a degraded group (R498). -/
def State.relocateGroup (s : State) (g : Nat) : State :=
  let mine := (s.flash.secs.filter (fun e => groupOf e.1 = g)).map (·.1)
  let targets := (s.flash.secs.filter (fun e => groupOf e.1 = g && e.2.st = .merging)).map (fun e => e.2.lsec)
  let s1 := targets.foldl State.restartMerge s
  let s2 := mine.foldl State.relocateSec s1
  if s2.flash.pair.any (fun p => groupOf p = g) then s2.rollover else s2

/-- A die has failed (R498): its group is degraded; with a second failed slot its rows cannot be rebuilt (R500). -/
def State.failDie (s : State) (u : Nat) : State :=
  if s.fbit F.flsDieFailed u then s
  else
    let g := groupOfDie u
    let second := s.fbit F.flsGroupDegraded g
    let s1 := (((s.fset F.flsDieFailed u 1).fset F.flsGroupDegraded g 1).fset F.flsHealthDegraded 0 1).flag F.glbEventStatusMedia
    let s2 := if second then s1.logLostRows g else s1
    (s2.relocateGroup g).retireEmptied g

/-- A channel has failed, and with it its eight dies (R499). -/
def State.failChannel (s : State) (c : Nat) : State :=
  (List.range 8).foldl (fun s p => s.failDie (8 * c + p)) (s.fset F.flsChanFailed c 1)

/-- Failed direct reads of a die block within 24 hours of the channel group's island (R498). -/
def State.blockFailed (s : State) (u b : Nat) : State :=
  let isl := islandOfFlash (u / 128)
  let now := s.cyc isl
  let keep := s.flash.blockFails.filter (fun x => !(x.1 = u && x.2.1 = b) && now < x.2.2 + 600 * 86400000000)
  let s1 := s.setFlash { s.flash with blockFails := keep ++ [(u, b, now)] }
  if (s1.flash.blockFails.filter (fun x => x.1 = u)).length > 64 then s1.failDie u else s1

/-! ## The outcome of a read (R491) -/

/-- What the die and channel of a read showed: the die or its channel no longer answers. -/
def State.answerOf (s : State) (u answer : Nat) : State :=
  if answer = 1 then s.failDie u else if answer = 2 then s.failChannel (u / 8) else s

/-- A direct read ends at retry step `st` (9: rebuilt by XOR from its partners, as every read of a failed die is, R498). -/
def State.readDone (s : State) (i st : Nat) (ok : Bool) (answer us ifErrors : Nat) : State :=
  let x := s.fread i
  let g := groupOf x.sec
  let u := dieOfSlot g x.slot
  if !x.live ∨ !x.issued ∨ x.done ∨ s.erasingIn g ≠ [] then s
  else
    let step := if (s.failedSlots g).contains x.slot then 9 else st
    let good : Bool := ok && (s.failedSlots g).length < 2
    let s1 := (List.range (min step 8)).foldl (fun s n => s.bump F.flsRetryCtrCount n 1) s
    let s2 := ((s1.bump F.flsCtrCount 1 (bit (step ≥ 9 ∧ good))).bump F.flsLatHistCount (latBucket us) 1).bump
      F.flsChanIfErrors (u / 8) ifErrors
    let s3 := (s2.readEnds i good).answerOf u answer
    let s4 := if step ≥ 9 ∧ answer = 0 then s3.blockFailed u (x.sec % 1368) else s3
    if step ≥ 5 then s4.relocateSec x.sec else s4

/-- RA_US has passed since the read was issued, in cycles of its group's island (R492, R221). -/
def State.raPassed (s : State) (x : FRead) : Bool :=
  s.cyc (islandOfFlash (groupOf x.sec / 8)) ≥ x.issuedAt + 600 * s.fget F.flsCfgRaUs 0

/-- A read crosses RA_US outstanding: it starts a read-around, or is counted as withheld, once (R492 to R494). -/
def State.readAround (s : State) (i : Nat) : State :=
  let x := s.fread i
  let g := groupOf x.sec
  if !x.live ∨ !x.issued ∨ x.crossed ∨ x.done ∨ !s.raPassed x ∨ !s.fbit F.flsCfgRaEn 0 ∨ s.fbit F.flsGroupDegraded g then s
  else if s.fget F.flsGroupRaCredit g < 1000 then (s.bump F.flsCtrCount 5 1).setFread i { x with crossed := true }
  else ((s.dip F.flsGroupRaCredit g 1000).bump F.flsCtrCount 3 1).setFread i { x with around := true, crossed := true }

/-- A read-around's rebuild delivers first, or fails and leaves the direct read to go on (R492). It is no rebuild that the read needed, so
that it relocates nothing (R491; DEDUCED, log entry 15). -/
def State.readAroundEnds (s : State) (i : Nat) (ok : Bool) (us : Nat) : State :=
  let x := s.fread i
  if !x.live ∨ !x.around ∨ x.done then s
  else if !ok then s.setFread i { x with around := false }
  else ((s.bump F.flsCtrCount 4 1).bump F.flsLatHistCount (latBucket us) 1).readEnds i true

/-! ## Units and logs -/

/-- The first logical section that waits for a log goes on with its write-back (R482). -/
def State.logFreed (s : State) : State :=
  match (s.flash.lsecs.filter (fun e => e.2.waiting)).head? with
  | none => s
  | some e =>
    let s1 := s.setLsec e.1 { e.2 with waiting := false }
    ((s1.depot.pages.filter (fun x => x.2.dirty != 0 && x.1 / 46080 = e.1 && isMediaPage x.1)).map (·.1)).foldl
      State.startWriteBack s1

/-- A logical section whose write-back found the staging buffers full goes on with it (R476). -/
def State.stagingOn (s : State) : State :=
  match s.flash.crowded with
  | [] => s
  | l :: ls =>
    let s1 := s.setFlash { s.flash with crowded := ls }
    ((s1.depot.pages.filter (fun x => x.2.dirty != 0 && x.1 / 46080 = l && isMediaPage x.1)).map (·.1)).foldl State.startWriteBack s1

/-- A frame that a window place has given up is freed once it is clean (R273). -/
def State.leave (s : State) (p : Nat) : State :=
  let x := s.page p
  if x.leaving ∧ x.dirty = 0 ∧ x.pins = 0 ∧ x.resident then s.dropFrame p else s

/-- LBAs have been programmed and journalled: those not written since are clean (R476), and their frames may be evicted. -/
def State.cleaned (s : State) (lbas : List Nat) : State :=
  let s1 := lbas.foldl (fun s b =>
    let x := s.page (b / 16)
    let m := 2 ^ (b % 16)
    if x.writing.testBit (b % 16) then
      ((s.setPage (b / 16) { x with dirty := clearBits 16 x.dirty m, writing := clearBits 16 x.writing m }).dip
        F.depTierLevelDirty4k 0 1).leave (b / 16)
    else s) s
  let s2 := s1.flushed (lbas.filter (fun b => (s.page (b / 16)).writing.testBit (b % 16)))
  (List.range 32).foldl State.evict s2

/-- The 720 offsets of a scatter unit's journal record, pads included (R488). -/
def unitOffsets (lbas : List Nat) : List Byte :=
  (lbas.map (fun b => leBytes 4 (b % sectionLbas))).flatten ++ (List.replicate (720 - lbas.length) (leBytes 4 0xFFFFFFFF)).flatten

/-- The page-level map after a scatter unit is committed, or without the LBAs an in-order unit now holds (R478, R479). -/
def smapAfter (x : LSec) (p unit : Nat) (inOrder : Bool) (lbas : List Nat) : List (Nat × Nat × Nat) :=
  let offs := lbas.map (· % sectionLbas)
  let kept := x.smap.filter (fun e => !offs.contains e.1)
  if inOrder then kept else (offs.zipIdx.map (fun o => (o.1, p, 720 * unit + o.2))).reverse ++ kept

/-- An in-order log is complete: it becomes L's data section (R477, R475). -/
def State.inOrderComplete (s : State) (p l : Nat) : State :=
  let x := s.lsec l
  let s1 := (s.setSecSt p .data).setLsec l { x with data := some p, inOrd := none }
  let s2 := (s1.bump F.flsCtrCount 13 1).journal 1 p
    (leBytes 4 l ++ leBytes 4 (x.data.getD 0xFFFFFFFF) ++ leBytes 1 1)
  (s2.queueErase x.data.toList).logFreed

/-- A log unit's program has passed (R476 to R479, R488). -/
def State.unitCommitted (s : State) (i : Nat) : State :=
  let u := s.punit i
  let l := u.lsec
  let s1 := (s.setPunit i {}).putSec u.sec { s.sec u.sec with units := u.unit + 1 }
  let s2 := s1.journal 3 u.sec (leBytes 2 u.unit ++ leBytes 2 720 ++ (if u.inOrder then [] else unitOffsets u.lbas))
  let s3 := s2.setLsec l { s2.lsec l with smap := smapAfter (s2.lsec l) u.sec u.unit u.inOrder u.lbas }
  let s4 := s3.cleaned u.lbas
  if u.inOrder ∧ u.unit = 1023 then s4.inOrderComplete u.sec l else s4

/-- A program failed on a log (R486): its blocks are retired, the log is sealed, L is merged at once, and what its units held
is staged again. -/
def State.logFailed (s : State) (i : Nat) (slots : List Nat) : State :=
  let u := s.punit i
  let again := ((s.unitsOf u.sec).flatMap (fun e => e.2.lbas)).filter (fun b => (s.page (b / 16)).dirty.testBit (b % 16))
  let s1 := slots.foldl (fun s k => s.growBad u.sec k 0) s
  let s2 := s1.setFlash { s1.flash with units := s1.flash.units.filter (fun e => e.2.sec != u.sec) }
  (s2.startMerge u.lsec false).stageScatter u.lsec again

/-- A unit's program ends; `failed` names the slots that failed. Its staging buffer is free again. -/
def State.unitDone (s : State) (i : Nat) (failed : List Nat) : State :=
  let u := s.punit i
  if !u.live ∨ !u.programming ∨ u.unit ≠ (s.sec u.sec).units then s
  else
    let s0 := (s.bump F.flsCtrCount 14 1).bump F.flsCtrCount 9 failed.length
    let isJournal : Bool := (s.sec u.sec).st = .journal
    let t :=
      if failed = [] then
        if u.merge then
          let s1 := s0.putSec u.sec { s0.sec u.sec with units := u.unit + 1 }
          if u.unit + 1 < 1024 then s1.setPunit i { u with unit := u.unit + 1 } else s1.setPunit i {}
        else if isJournal then (s0.setPunit i {}).putSec u.sec { s0.sec u.sec with units := u.unit + 1 }
        else s0.unitCommitted i
      else if u.merge then (failed.foldl (fun s k => s.growBad u.sec k 0) s0).restartMerge u.lsec
      else if isJournal then ((failed.foldl (fun s k => s.growBad u.sec k 0) s0).setPunit i {}).rollover
      else s0.logFailed i failed
    t.stagingOn

/-! ## Merges and erases -/

/-- A merge target is verified: MAP_SET is committed, and the old data section and the folded logs are queued for erase
(R483). -/
def State.mergeDone (s : State) (l : Nat) : State :=
  let x := s.lsec l
  match x.target with
  | none => s
  | some p =>
    if (s.sec p).units < 1024 ∨ s.flash.units.any (fun e => e.2.sec = p || x.folding.contains e.2.sec) then s
    else
      let s1 := (s.setSecSt p .data).setLsec l { x with
        data := some p
        inOrd := x.inOrd.filter (fun q => !x.folding.contains q)
        smap := x.smap.filter (fun e => !x.folding.contains e.2.1)
        target := none
        folding := []
        relocating := false }
      let s2 := (s1.bump F.flsCtrCount 11 1).bump F.flsCtrCount 16 (bit x.relocating)
      (s2.journal 1 p (leBytes 4 l ++ leBytes 4 (x.data.getD 0xFFFFFFFF) ++ leBytes 1 0)).queueErase x.folding

/-- A queued section goes to ERASING once no read issued under the old mapping is left (R484). -/
def State.eraseStarts (s : State) (p : Nat) : State :=
  if !s.flash.eraseQ.contains p ∨ s.flash.reads.any (fun e => e.2.live && e.2.sec = p && !e.2.done) then s
  else
    let wasLog : Bool := (s.sec p).st = .log
    let s1 := (s.setFlash { s.flash with eraseQ := s.flash.eraseQ.filter (· != p) }).setSecSt p .erasing
    let s2 := s1.putSec p { s1.sec p with suspends := 0, units := 0 }
    if wasLog then s2.logFreed else s2

/-- The wear rule of R505: where erase counts of a group differ by more than 300, its least worn DATA section moves to a FREE
section with a high count. -/
def State.wearLevel (s : State) (g : Nat) : State :=
  let counts := (secsOfGroup g).map (fun p => (s.sec p).erases)
  let datas := (secsOfGroup g).filter (fun p => (s.sec p).st = .data)
  let low := datas.foldl (fun best p => match best with
    | none => some p
    | some b => if (s.sec p).erases < (s.sec b).erases then some p else some b) none
  if counts.foldl max 0 - counts.foldl min (counts.headD 0) > 300 ∧ !s.fbit F.flsGroupDegraded g then
    match low, s.mostWorn g 131328 with
    | some p, some t =>
      let l := (s.sec p).lsec
      if (s.lsec l).target.isSome then s
      else
        match s.remapAll t (s.sec t).badSlots with
        | none => s
        | some s1 =>
          let s2 := s1.setSecSt t .merging
          (s2.putSec t { s2.sec t with lsec := l, inOrder := false, units := 0, relocate := false }).mergeInto l t true
    | _, _ => s
  else s

/-- A section's erase is done but for the slots that failed (R475, R486). -/
def State.eraseEnds (s : State) (p : Nat) (failed : List Nat) : State :=
  if (s.sec p).st ≠ .erasing then s
  else
    let s1 := failed.foldl (fun s k => (s.bump F.flsCtrCount 10 1).growBad p k 1) (s.countErase p)
    let g := groupOf p
    let s2 := s1.putSec p { s1.sec p with lsec := 0, inOrder := false, units := 0, relocate := false }
    let s3 := if s2.fbit F.flsGroupDegraded g then s2.retireSec p 2 else s2.setSecSt p .free
    ((s3.formatErased p).retireEmptied g).wearLevel g

/-! ## Raw-media reads (R510) -/

/-- The fields of FLS.RAW_ADDR lie in the geometry. -/
def State.rawInRange (s : State) : Bool :=
  s.fget F.flsRawAddrChannel 0 < 192 && s.fget F.flsRawAddrBlock 0 < 1368 && s.fget F.flsRawAddrPage 0 < 3072 &&
  s.fget F.flsRawAddrRetry 0 ≤ 8

/-- The die unit of FLS.RAW_ADDR. -/
def State.rawDie (s : State) : Nat := 8 * s.fget F.flsRawAddrChannel 0 + s.fget F.flsRawAddrPosition 0

/-- The section of a group that uses block b of slot k: its own, or one remapped onto it (R473). -/
def State.blockUsers (s : State) (g k b : Nat) : List Nat :=
  (secsOfGroup g).filter (fun p =>
    match (s.sec p).remaps.find? (fun r => r.1 = k) with
    | some r => r.2 = b
    | none => p % 1368 = b)

/-- The block of a raw read is in erase (R497). -/
def State.rawErasing (s : State) : Bool :=
  let u := s.rawDie
  (s.blockUsers (groupOfDie u) (slotOfDie u) (s.fget F.flsRawAddrBlock 0)).any (fun p =>
    (s.sec p).st = .erasing || (s.sec p).st = .suspended)

/-- FLS.RAW_CTL.START: ignored while BUSY or while the privileged lock is set. -/
def State.rawStart (s : State) : State :=
  if s.fbit F.flsRawCtlBusy 0 then s
  else
    let s1 := (s.fset F.flsRawCtlBusy 0 1).setFlash { s.flash with raw := some (s.rget .flsRawAddr 0).toNat }
    if !s.rawInRange ∨ s.rawErasing then s1 else (s1.bump F.flsCtrCount 0 1).suspendFor (groupOfDie s.rawDie)

/-- A raw read's end: the status, and the data where the die was read. -/
def State.rawEnd (s : State) (ok : Bool) (data : List Byte) : State :=
  match s.flash.raw with
  | none => s
  | some w =>
    let at_ := s.rset .flsRawAddr 0 (BitVec.ofNat 64 w)
    let s1 := (s.setFlash { s.flash with raw := none }).fset F.flsRawCtlBusy 0 0
    if !at_.rawInRange then s1.fset F.flsRawCtlStatus 0 0x1001
    else if at_.rawErasing then (s1.bump F.flsCtrCount 6 1).fset F.flsRawCtlStatus 0 0x2004
    else (s1.rsetBytes .flsRawData 0 (padTo 4096 data)).fset F.flsRawCtlStatus 0 (if ok then 0 else 0x2001)

/-! ## The rows -/

/-- FLASH_READ_ISSUE (R491). -/
def execFlashReadIssue (id : Nat) (s : State) : Host.Outcome State Fault Refusal := .next (s.issueRead id)

/-- FLASH_READ_DONE (R491): the retry step at which the read ended (0 for the first sensing, 9 for a rebuild), whether the data
decoded, whether the die answered (1: the die is silent, 2: its channel is), the latency and the transfers retried. -/
def execFlashReadDone (id step : Nat) (ok : Bool) (answer : Fin 3) (us ifErrors : Nat) (s : State) :
    Host.Outcome State Fault Refusal := .next (s.readDone id step ok answer.val us ifErrors)

/-- READ_AROUND_THRESHOLD (R492, R493). -/
def execReadAroundThreshold (id : Nat) (s : State) : Host.Outcome State Fault Refusal := .next (s.readAround id)

/-- READ_AROUND_DONE (R492). -/
def execReadAroundDone (id : Nat) (ok : Bool) (us : Nat) (s : State) : Host.Outcome State Fault Refusal :=
  .next (s.readAroundEnds id ok us)

/-- A suspended erase may go on: its dies have no read queued, or 1 ms has passed since the suspension (R496, R221). -/
def State.mayResume (s : State) (p : Nat) : Bool :=
  !s.flash.reads.any (fun e => e.2.live && e.2.issued && !e.2.done && groupOf e.2.sec = groupOf p) ||
    s.cyc (islandOfFlash (groupOf p / 8)) ≥ (s.sec p).suspendedAt + 600000

/-- ERASE_RESUME (R496). -/
def execEraseResume (sec : Nat) (s : State) : Host.Outcome State Fault Refusal :=
  .next (if (s.sec sec).st = .suspended ∧ s.mayResume sec then s.setSecSt sec .erasing else s)

/-- UNIT_STAGE_TIMEOUT (R476). -/
def execUnitStageTimeout (unit : Nat) (s : State) : Host.Outcome State Fault Refusal :=
  .next (if (s.punit unit).live ∧ !(s.punit unit).programming then (s.beginUnit unit).stagingOn else s)

/-- UNIT_PROGRAM_DONE (R476): a unit's program ends with the slots that failed. While a sanitise is in its overwrite phase the
row is the end of round `unit` (R582). -/
def execUnitProgramDone (unit : Nat) (failed : List Nat) (s : State) : Host.Outcome State Fault Refusal :=
  .next (if s.fget F.glbMaintOp 0 = 1 then s.sanOverwritten unit failed.length else s.unitDone unit failed)

/-- MERGE_VERIFY_DONE (R483). -/
def execMergeVerifyDone (lsec : Nat) (s : State) : Host.Outcome State Fault Refusal :=
  .next (if s.flash.ckptDue then (s.mergeDone lsec).checkpointOn else s.mergeDone lsec)

/-- SECTION_ERASE_START (R484). -/
def execSectionEraseStart (sec : Nat) (s : State) : Host.Outcome State Fault Refusal := .next (s.eraseStarts sec)

/-- CHECKPOINT_TIMER (R489): a checkpoint is written every 10 minutes, once its maps part holds the open scatter logs (R533). -/
def execCheckpointTimer (s : State) : Host.Outcome State Fault Refusal := .next s.checkpointOn

/-- PATROL_READ_TIMER (R505): the patrol reads one sub-block of a wordline unit of a programmed section; on which die is left
open and free. -/
def execPatrolReadTimer (sec unit : Nat) (s : State) : Host.Outcome State Fault Refusal :=
  .next (
    let x := s.sec sec
    if x.st = .data ∨ ((x.st = .log ∨ x.st = .journal ∨ x.st = .merging) ∧ unit < x.units) then
      let k := s.drawNat
      let i := (Tbl.firstFrom {} (fun r : FRead => !r.live) s.flash.reads 0 (s.flash.reads.length + 1)).getD 0
      k.2.setFread i { live := true, lba := 0, why := .patrol, sec := sec, slot := k.1 % 16 }
    else s)

/-- RAW_READ_START (R510). -/
def execRawReadStart (s : State) : Host.Outcome State Fault Refusal :=
  .next (s.lockWrite 0x1408008 State.rawStart)

/-- RAW_READ_DONE (R510): whether the sub-block decoded, and its data or undecoded bits. -/
def execRawReadDone (ok : Bool) (data : List Byte) (s : State) : Host.Outcome State Fault Refusal := .next (s.rawEnd ok data)

end Sys2Proof.Machine
end

