-- ==== Sys2Proof/Machine/Sanitise.lean ====
section
/-! DEFINITION. SANITISE and FORMAT as they are taken (R580 to R586), and the resuming of a sanitise at power-up (R571). Their
later units are in Machine/Maint.lean. -/

namespace Sys2Proof.Machine

/-- The status of a SANITISE or FORMAT taken while either is in progress; 0 when neither is (R581). -/
def State.mediaOpBusy (s : State) : Nat :=
  if s.fget F.glbMaintOp 0 = 1 then 0x5001 else if s.fget F.glbMaintOp 0 = 2 then 0x5002 else 0

/-- Phase 1 of a sanitise is done: the rounds of phase 2 or 3 begin (R582). -/
def State.sanRounds (s : State) (action : Nat) : State := s.progress 1 (if action = 1 then 2 else 3) 0 1368

/-- A sanitise begins (R581, R582): media work ends with 0x5001, and phase 1 is one step (log entry 41). -/
def State.sanStart (s : State) (action : Nat) : State :=
  let s1 : State := s.setCfs { s.cfs with sanitiseAction := action, notErasable := 0, notProgrammable := 0 }
  let s2 := (s1.progress 1 1 0 1).clearMediaWork 0x5001
  s2.sanClear.sanRounds action

/-- SANITISE taken (R580, R581). -/
def State.sanitiseTaken (p : Nat) (e : List Byte) (s : State) : State :=
  if sqFlags e ≠ 0 ∨ 1 < byteField e 8 1 ∨ !zeroAt e 9 55 then s.fail p 0x1001
  else if s.mediaOpBusy ≠ 0 then s.fail p s.mediaOpBusy
  else s.sanStart (byteField e 8 1)

/-- SANITISE_BLOCK_ERASE (R582); it takes also the ACTIONs that are none. -/
def execSanitiseBlockErase (q : QueueId) (s : State) : Host.Outcome State Fault Refusal :=
  .next (s.onEntry q (fun e => sqOpcode e = 0x28 && byteField e 8 1 != 1) (State.adminOnly (State.behind State.sanitiseTaken)))

/-- SANITISE_OVERWRITE (R582). -/
def execSanitiseOverwrite (q : QueueId) (s : State) : Host.Outcome State Fault Refusal :=
  .next (s.onEntry q (fun e => sqOpcode e = 0x28 && byteField e 8 1 = 1) (State.adminOnly (State.behind State.sanitiseTaken)))

/-! ## FORMAT (R585) -/

/-- Sections in one of some states. -/
def State.secsIn (s : State) (sts : List SecSt) : List Nat := (s.flash.secs.filter (fun e => sts.contains e.2.st)).map (·.1)

/-- Phase 1 of a format, at its commit: one record unmaps every logical section, and every media frame is dropped. -/
def State.formatCommit (s : State) : State :=
  let s1 := (s.journal 4 0xFFFFFFFF (leBytes 4 0 ++ leBytes 4 0xFFFFFFFF)).dropMedia
  s1.setFlash { s1.flash with lsecs := [], eraseQ := [] }

/-- Phase 2 begins: DATA and LOG sections go to ERASING, and so do the targets of merges, which hold nothing any more. -/
def State.formatErases (s : State) : State :=
  let olds := s.secsIn [.data, .log]
  let s1 := (olds ++ s.secsIn [.merging]).foldl (fun (s : State) p => s.setSecSt p .erasing) s
  let s2 := (s1.setFlash { s1.flash with formatSecs := olds }).progress 2 2 0 olds.length
  if olds = [] then (s2.event 17 0x0903 0 0 0).maintEnd 2 0 else s2

/-- FORMAT taken (R580, R581, R585): it completes at the commit of phase 1. -/
def State.formatTaken (p : Nat) (e : List Byte) (s : State) : State :=
  if sqFlags e ≠ 0 ∨ !zeroAt e 8 56 then s.fail p 0x1001
  else if s.mediaOpBusy ≠ 0 then s.fail p s.mediaOpBusy
  else
    let s1 := (s.progress 2 1 0 1).clearMediaWork 0x5002
    (s1.formatCommit.finish p 0 0).formatErases

/-- FORMAT (R585). -/
def execFormat (q : QueueId) (s : State) : Host.Outcome State Fault Refusal :=
  .next (s.onEntry q (fun e => sqOpcode e = 0x29) (State.adminOnly (State.behind State.formatTaken)))

/-! ## Resuming (R571) -/

/-- An unfinished sanitise goes on from its last committed unit: phase 1 runs again from its start, a round again from its
own, and phase 4 from its start. -/
def State.sanResume (s : State) : State :=
  let ph := s.fget F.glbMaintPhase 0
  let s1 := (s.setPower { s.power with lossOpen := false }).fset F.pwrBootSanitiseResumed 0 1
  if ph = 1 then s1.sanClear.sanRounds s1.cfs.sanitiseAction
  else if ph = 4 then s1.sanClear.sanFree
  else s1.sanClear

/-- SANITISE_RESUME (R571): as soon as power-up step 6 ends, where PROGRESS records an unfinished sanitise. -/
def execSanitiseResume (s : State) : Host.Outcome State Fault Refusal :=
  .next (
    if s.power.supply = .valid ∧ s.fget F.pwrBootPhase 0 = 2 ∧ s.fget F.glbMaintOp 0 = 1 ∧ !s.fbit F.pwrBootSanitiseResumed 0
    then s.sanResume else s)

end Sys2Proof.Machine
end

