-- ==== Sys2Proof/Machine/Firmware.lean ====
section
/-! DEFINITION. Firmware staging and the timetable library (R530, R587, R588), activation (R589 to R592), the commands that wait
behind an activation, and the store's commits, with which many of these end. -/

namespace Sys2Proof.Machine

/-! ## Firmware images (R616, R617) -/

/-- Check 1 of R617. -/
def imageFormOk (im : List Byte) (len : Nat) : Bool :=
  256 ≤ im.length && len = 370 + byteField im 24 4 && byteField im 24 4 % 64 = 0 && byteField im 24 4 ≤ 134217344 &&
    byteField im 0 4 = 0x57465A41 && byteField im 4 2 = 0x0100 && byteField im 6 2 = 256 && byteField im 11 1 < 2 &&
    byteField im 28 1 < 64 && zeroAt im 30 18 && zeroAt im 112 144

/-- Checks 2 to 4: signer 0, its signature over the header, and the digest of the body. -/
def imageSigned (im : List Byte) : Bool :=
  let n := byteField im 24 4
  byteField im 29 1 = 0 && edVerify ctxAzfw (Config.norlerKey.take 57) (im.take 256) ((im.drop (256 + n)).take 114) &&
    shake256 64 ((im.drop 256).take n) = (im.drop 48).take 64

/-- Checks 5 and 6: the part, the stepping, and the fused SVN. -/
def State.imageFits (s : State) (im : List Byte) : Bool :=
  byteField im 8 2 = 0x6420 && byteField im 10 1 ≤ s.fget F.glbIdStepping 0 && s.fget F.secSvnSvn 0 ≤ fwSvn im

/-- The checks of R617. -/
def State.imageOk (s : State) (im : List Byte) (len : Nat) : Bool := imageFormOk im len && imageSigned im && s.imageFits im

/-! ## FW_STAGE of KIND 0 (R588) -/

/-- The region that is not running. -/
def State.otherRegion (s : State) : Nat := 1 - s.fget F.glbFwRunning 0

/-- Mark a region invalid, before its first erase. -/
def State.invalidate (s : State) (r : Nat) : State :=
  let s1 : State := s.setCfs (if r = 0 then { s.cfs with fwA := {} } else { s.cfs with fwB := {} })
  (s1.fset (if r = 0 then F.glbFwAValid else F.glbFwBValid) 0 0).remeasure 3

/-- A staged image is all there: it is checked, and written if it passes, into sectors erased for it. -/
def State.imageStaged (s : State) (p : Nat) : State :=
  let im := (s.cmd p).got
  if s.imageOk im (s.cmd p).want then (s.eraseSectors (ceilDiv im.length 4096)).cfsWrite (.image s.otherRegion im (some p)) else s.finish p 0x1008 0

/-- The fields of FW_STAGE (R587). -/
def stageFields (e : List Byte) : Bool :=
  let kind := byteField e 8 1
  let len := byteField e 12 4
  sqFlags e = 0 && kind ≤ 2 && zeroAt e 9 1 && zeroAt e 24 40 && byteField e 16 8 % 64 = 0 && (kind = 0 || byteField e 10 2 ≤ 4095) &&
    (if kind = 0 then len ≤ 2 ^ 27 else if kind = 1 then len ≤ 2 ^ 26 else len = 0 && byteField e 16 8 = 0)

/-- FW_STAGE of KIND 0 taken; an image of no bytes fails check 1. -/
def State.stageImageTaken (p : Nat) (e : List Byte) (s : State) : State :=
  if !stageFields e then s.fail p 0x1001
  else if s.fget F.glbMaintOp 0 = 3 then s.fail p 0x5004
  else
    let n := byteField e 12 4
    let s1 := s.invalidate s.otherRegion
    let s2 := s1.setCmd p { s1.cmd p with ranges := [(byteField e 16 8, n)], want := n, got := [] }
    if n = 0 then s2.imageStaged p else s2

/-- FW_STAGE_IMAGE (R588); it takes also the KINDs that are none. -/
def execFwStageImage (q : QueueId) (s : State) : Host.Outcome State Fault Refusal :=
  .next (s.onEntry q (fun e => sqOpcode e = 0x26 && byteField e 8 1 != 1 && byteField e 8 1 != 2)
    (State.adminOnly State.stageImageTaken))

/-! ## The library (R530, R588) -/

/-- The first sector above the directory, and the end of LIB (R519). -/
def libFirst : Nat := 278528 + 256
def libEnd : Nat := 278528 + 737280

/-- Sectors of a container. -/
def sectorsOf (n : Nat) : Nat := ceilDiv n 4096

/-- Runs of sectors in use: entries, entries being committed, and those held until power-up. -/
def State.libUsed (s : State) : List (Nat × Nat) :=
  (s.cfs.lib.filter (fun e => e.2.live)).map (fun e => (e.2.sector, sectorsOf e.2.bytes.length)) ++
  s.cfs.writes.filterMap (fun w => match w with
    | .libAdd _ e _ => some (e.sector, sectorsOf e.bytes.length)
    | _ => none) ++ s.cfs.libHeld

/-- The lowest run of `n` free sectors: it begins at the first sector or at the end of a run in use. -/
def State.libRun (s : State) (n : Nat) : Option Nat :=
  let used := s.libUsed
  let fits := fun a : Nat => a + n ≤ libEnd && used.all (fun u => a + n ≤ u.1 || u.1 + u.2 ≤ a)
  ((libFirst :: used.map (fun u => u.1 + u.2)).filter fits).foldl (fun best a => match best with
    | none => some a
    | some b => if a < b then some a else some b) none

/-- A container for the library is all there: checks 1 to 5 of R179, a free run, whose sectors are erased, and then the directory's
record. -/
def State.libStaged (s : State) (p : Nat) : State :=
  let bs := (s.cmd p).got
  if !checkFits bs (s.cmd p).want then s.finish p 0x4004 0
  else
    match s.signedChecks bs with
    | some f => s.finish p f.status 0
    | none =>
      match s.libRun (sectorsOf bs.length) with
      | none => s.finish p 0x4008 0
      | some a => (s.eraseSectors (sectorsOf bs.length)).cfsWrite (.libAdd (byteField (s.cmd p).entry 10 2) { live := true, base := ttBase bs, sector := a, bytes := bs } (some p))

/-- FW_STAGE of KIND 1 taken; a container of no bytes fails check 1. -/
def State.libAddTaken (p : Nat) (e : List Byte) (s : State) : State :=
  let n := byteField e 12 4
  if !stageFields e then s.fail p 0x1001
  else if n = 0 then s.finish p 0x4004 0
  else s.setCmd p { s.cmd p with ranges := [(byteField e 16 8, n)], want := n, got := [] }

/-- FW_STAGE of KIND 2 taken; the entry that the committed BASE_ENTRY names stays (log entry 43). -/
def State.libRemoveTaken (p : Nat) (e : List Byte) (s : State) : State :=
  let n := byteField e 10 2
  if !stageFields e ∨ n = Tbl.look 0 s.cfs.settings 0x0003 then s.fail p 0x1001 else s.cfsWrite (.libRemove n (some p))

/-- FW_STAGE_LIBRARY_ADD (R530, R588). -/
def execFwStageLibraryAdd (q : QueueId) (s : State) : Host.Outcome State Fault Refusal :=
  .next (s.onEntry q (fun e => sqOpcode e = 0x26 && byteField e 8 1 = 1) (State.adminOnly (State.behind State.libAddTaken)))

/-- FW_STAGE_LIBRARY_REMOVE (R588). -/
def execFwStageLibraryRemove (q : QueueId) (s : State) : Host.Outcome State Fault Refusal :=
  .next (s.onEntry q (fun e => sqOpcode e = 0x26 && byteField e 8 1 = 2) (State.adminOnly (State.behind State.libRemoveTaken)))

/-! ## FW_ACTIVATE (R589, R590) -/

/-- An activation is refused (R589). -/
def State.activateBad (s : State) : Bool :=
  let other := s.fwRegion s.otherRegion
  !other.valid || fwProtoRev other.bytes != fwProtoRev (s.fwRegion (s.fget F.glbFwRunning 0)).bytes || s.fget F.glbFwPairsOk 0 != 15

/-- An activation begins: the staged image was verified as it was written, and phase 1 verifies the same bytes again. -/
def State.activateStart (s : State) (p : Nat) : State :=
  (s.setPower { s.power with activateBy := some p, restarted := [], handed := [] }).progress 3 1 0 1

/-- FW_ACTIVATE without NEXT_BOOT taken; while a sanitise or format is in progress it waits for its end (log entry 42). -/
def State.activateTaken (p : Nat) (e : List Byte) (s : State) : State :=
  if sqFlags e ≠ 0 ∨ !zeroAt e 8 56 then s.fail p 0x1001
  else if s.activateBad then s.fail p 0x5004
  else if s.fget F.glbMaintOp 0 ≠ 0 then s.setPower { s.power with behind := s.power.behind ++ [p] }
  else s.activateStart p

/-- FW_ACTIVATE with NEXT_BOOT taken. -/
def State.nextBootTaken (p : Nat) (e : List Byte) (s : State) : State :=
  if sqFlags e ≠ 1 ∨ !zeroAt e 8 56 then s.fail p 0x1001 else s.cfsWrite (.setting 0x0002 s.otherRegion (some p))

/-- FW_ACTIVATE (R590). -/
def execFwActivate (q : QueueId) (s : State) : Host.Outcome State Fault Refusal :=
  .next (s.onEntry q (fun e => sqOpcode e = 0x27 && sqFlags e % 2 = 0) (State.adminOnly State.activateTaken))

/-- FW_ACTIVATE_NEXT_BOOT (R589). -/
def execFwActivateNextBoot (q : QueueId) (s : State) : Host.Outcome State Fault Refusal :=
  .next (s.onEntry q (fun e => sqOpcode e = 0x27 && sqFlags e % 2 = 1) (State.adminOnly State.nextBootTaken))

/-! ## What waited behind an operation (R590) -/

/-- A waiting command may go on: no activation is in progress, and for an activation no operation at all. -/
def State.mayGoOn (s : State) (p : Nat) : Bool :=
  if sqOpcode (s.cmd p).entry = 0x27 then s.fget F.glbMaintOp 0 = 0 else s.fget F.glbMaintOp 0 ≠ 3

/-- A waiting command's own part. -/
def State.behindGoes (s : State) (p : Nat) : State :=
  let e := (s.cmd p).entry
  let o := sqOpcode e
  if o = 0x26 then (if byteField e 8 1 = 1 then State.libAddTaken p e s else State.libRemoveTaken p e s)
  else if o = 0x27 then State.activateTaken p e s
  else if o = 0x28 then State.sanitiseTaken p e s
  else if o = 0x29 then State.formatTaken p e s
  else if o = 0x2F then State.shuntTaken p e s
  else if byteField e 8 1 = 1 then State.pullTaken p e s
  else if byteField e 8 1 = 2 then State.clearTaken p e s
  else State.installTaken p e s

/-- The waiting commands go on, in order, as far as they can. The fuel is their number. -/
def State.behindGoAll (s : State) : Nat → State
  | 0 => s
  | fuel + 1 =>
    match s.power.behind.find? s.mayGoOn with
    | none => s
    | some p => ((s.setPower { s.power with behind := s.power.behind.erase p }).behindGoes p).behindGoAll fuel

/-- After an operation's end: what waited behind it goes on, and so do stitches. -/
def State.afterOps (s : State) : State := (s.behindGoAll s.power.behind.length).stitchKick

/-! ## Activation's steps (R590 to R592) -/

/-- An activation ends with 0x5004 in a step, at a die (R592): every die is with its former core. -/
def State.activationFails (s : State) (step d : Nat) : State :=
  let s1 := (s.event 17 0x0905 0x5004 step d).maintEnd 3 0x5004
  let s2 := match s1.power.activateBy with
    | some p => s1.finish p 0x5004 0
    | none => s1
  (s2.setPower { s2.power with restarted := [], handed := [], activateBy := none }).afterOps

/-- A core of a die is out of service. -/
def State.coreDown (s : State) (d : Nat) : State :=
  let s1 : State := s.setPower { s.power with coresDown := Tbl.put 0 s.power.coresDown d (Tbl.look 0 s.power.coresDown d + 1) }
  s1.fset F.glbFwPairsOk 0 (clearBits 4 (s1.fget F.glbFwPairsOk 0) (2 ^ d))

/-- Step 2: a standby core has restarted on the staged image and tested itself, or has failed. -/
def State.standbyRestarts (s : State) (d : Nat) (ok : Bool) : State :=
  if s.fget F.glbMaintOp 0 ≠ 3 ∨ 2 < s.fget F.glbMaintPhase 0 ∨ s.power.restarted.contains d then s
  else if !ok then (s.coreDown d).activationFails 2 d
  else
    let s1 : State := s.setPower { s.power with restarted := s.power.restarted ++ [d] }
    let n := s1.power.restarted.length
    if n = 4 then s1.progress 3 3 0 3 else s1.progress 3 2 n 4

/-- STANDBY_CORE_RESTART (R590, R592). -/
def execStandbyCoreRestart (d : DieId) (ok : Bool) (s : State) : Host.Outcome State Fault Refusal := .next (s.standbyRestarts d.val ok)

/-- The hand-over lets a challenge lapse (R17). -/
def State.clearChallenge (s : State) : State :=
  ([0, 1, 2, 3].foldl (fun (s : State) i => s.rset .glbUnlockChal i 0) s).fset F.glbUnlockCtlChalValid 0 0

/-- Step 5 begins: COMMIT_SVN raises the fused SVN, and then FW_BOOT is committed (R590, R618). -/
def State.commitBoot (s : State) : State :=
  let r := s.otherRegion
  let im := (s.fwRegion r).bytes
  let s1 := if fwCommitSvn im then s.fset F.secSvnSvn 0 (max (s.fget F.secSvnSvn 0) (fwSvn im)) else s
  (s1.progress 3 5 0 1).cfsWrite (.setting 0x0002 r none)

/-- Steps 3 and 4: a die's standby core takes its duties, D3 to D1 and then D0; a stitch that has begun completes first (R194). -/
def State.handDie (s : State) (d : Nat) : State :=
  let n := s.power.handed.length
  if s.fget F.glbMaintOp 0 ≠ 3 ∨ s.tt.queue.any (fun x => x.begun) then s
  else
    let s1 : State := s.setPower { s.power with handed := d :: s.power.handed }
    if s.fget F.glbMaintPhase 0 = 3 ∧ d + n = 3 ∧ d ≠ 0 then
      if d = 1 then s1.progress 3 4 0 1 else s1.progress 3 3 (n + 1) 3
    else if s.fget F.glbMaintPhase 0 = 4 ∧ d = 0 then s1.clearChallenge.commitBoot
    else s

/-- DIE_HANDOVER (R590). -/
def execDieHandover (d : DieId) (s : State) : Host.Outcome State Fault Refusal := .next (s.handDie d.val)

/-! ## Commits of the configuration store -/

/-- CFS_PROGRAM_DONE (R521): the program of the oldest write ends on both devices; a sector named for a device failed
verification there and is retired, and the write stands in its spare. -/
def execCfsProgramDone (bad0 bad1 : Option Nat) (s : State) : Host.Outcome State Fault Refusal :=
  .next (
    let s1 := (s.badProgram 0 bad0).badProgram 1 bad1
    if s1.cfsDead then s1 else s1.commitFront.afterOps)

/-- ERASE_DONE (R475): a section's erase ends with the slots that failed. While a sanitise is in its erase phase the row is the
end of round `sec`, and `failed` names the die units, plus 1,536 for a block that no longer programs either (R582, R583). -/
def execEraseDone (sec : Nat) (failed : List Nat) (s : State) : Host.Outcome State Fault Refusal :=
  .next (if s.fget F.glbMaintOp 0 = 1 then s.sanErased sec failed else (s.eraseEnds sec failed).afterOps)

end Sys2Proof.Machine
end

