-- ==== Sys2Proof/Machine/HostData.lean ====
section
/-! DEFINITION. The module's reads of host memory (R442, R445, R446): their data arrives in order, in pieces of at most 4 KiB, or
one of them fails. -/

namespace Sys2Proof.Machine

/-- A command still waits for data from the host. -/
def State.reads (s : State) (p : Nat) : Bool := s.open p && !(s.cmd p).ready && (s.cmd p).got.length < (s.cmd p).want

/-- What a command does once the host's data is all there, by its opcode. -/
def State.hostData (s : State) (p : Nat) : State :=
  let o := sqOpcode (s.cmd p).entry
  if o = 0x01 ∨ o = 0x02 then s.listDone p
  else if o = 0x08 then s.scanData p
  else if o = 0x09 then s.searchData p
  else if o = 0x0C ∨ o = 0x0D then s.mutatorData p
  else if o = 0x10 then s.runData p
  else if o = 0x26 then (if byteField (s.cmd p).entry 8 1 = 0 then s.imageStaged p else s.libStaged p)
  else if o = 0x2E then s.installData p
  else s

/-- The data goes straight to the pages it is for: a WRITE's, or the items of an INGEST. -/
def Cmd.streams (c : Cmd) : Bool := !c.listing && (sqOpcode c.entry = 0x02 || sqOpcode c.entry = 0x0B)

/-- A piece of a command's data arrives. -/
def State.pieceArrives (s : State) (p : Nat) (data : List Byte) : State :=
  let c := s.cmd p
  if data = [] ∨ 4096 < data.length ∨ c.want < c.got.length + data.length then s
  else if c.streams then s.writeData p data
  else
    let s1 := s.setCmd p { c with got := c.got ++ data }
    if c.want ≤ c.got.length + data.length then s1.hostData p else s1

/-- The status of a failed host read: poisoned data, or an error or timeout (R446; other commands alike, log entry 44). -/
def readStatus (outcome : Nat) : Nat := if outcome = 1 then 0x6001 else 0x6002

/-- A command's host read fails: what it has begun is left as R230 and R383 give, and it ends with the status. -/
def State.readFails (s : State) (p status : Nat) : State :=
  let c := s.cmd p
  let o := sqOpcode c.entry
  if o = 0x24 then s.stitchReadFails p
  else if c.streams then
    let s1 := s.settleWrite p
    (if o = 0x0B then s1.dropEmbed p else s1).finish p status 0
  else if o = 0x10 then ((s.withdrawRows p).finish p status 0).wake
  else if o = 0x0C ∨ o = 0x0D then
    match s.mutatorRoot p with
    | some r => ((s.finish p status 0).leaveMutators p).mutate r s.search.mutators.length
    | none => s.finish p status 0
  else s.finish p status 0

/-- HOST_READ_COMPLETION (R446): `outcome` is 0 for data, 1 for poison, and 2 to 4 for Unsupported Request, Completer Abort and
completion timeout. -/
def execHostReadCompletion (place : Nat) (outcome : Fin 5) (data : List Byte) (s : State) : Host.Outcome State Fault Refusal :=
  .next (
    if !s.reads place then s
    else if outcome.val = 0 then s.pieceArrives place data
    else s.readFails place (readStatus outcome.val))

end Sys2Proof.Machine
end

