-- ==== Sys2Proof/Machine/Life.lean ====
section
/-! DEFINITION. The life of the module (16_life_cycle.md, R638 to R641, R649): the input stage, power-up in its order (R567), the
self-tests that fence units (R552, R553), and entering service. -/

namespace Sys2Proof.Machine

/-! ## The input stage (R565, R638 to R641) -/

/-- PRES_MATE (R640): PRES# mates with V_IN above 40 V. A re-mating while the flush runs is a return of input (R641). -/
def execPresMate (millivolts : Nat) (s : State) : Host.Outcome State Fault Refusal :=
  .next (
    if millivolts ≤ 40000 then s
    else if s.power.supply = .off then s.setPower { s.power with supply := .mated, opened := false }
    else if s.power.supply = .flushing ∧ s.power.opened then s.setPower { s.power with returned := true }
    else s)

/-- INPUT_STAGE_CLOSE (R640). -/
def execInputStageClose (s : State) : Host.Outcome State Fault Refusal :=
  .next (if s.power.supply = .mated then s.setPower { s.power with supply := .closed } else s)

/-! ## Supplies valid: step 1 (R567) -/

/-- The signers as the fuse map and the committed settings give them (R614, R615). -/
def State.loadSigners (s : State) : State :=
  let held := [1, 2, 3, 4, 5, 6, 7].filter (fun n => !(s.signerKey n).all (· = 0))
  let s1 := held.foldl (fun (s : State) n => s.rsetBytes .secSignerKey (8 * n) (padTo 64 (s.signerKey n))) s
  (s1.fset F.ttbSignersValid 0 (1 + (held.map (fun n => 2 ^ n)).sum)).fset F.ttbSignersRevoked 0 (s1.setting 0x0010)

/-- The last committed PROGRESS record is of an operation that has ended (R582, R585, R590). -/
def progressOver (op phase done total : Nat) : Bool :=
  if op = 1 then phase = 0xFF
  else if op = 2 then phase = 2 && done = total
  else true

/-- GLB.MAINT as PROGRESS gives it: an unfinished sanitise or format goes on; an activation that was not committed has failed (log
entry 45). -/
def State.loadProgress (s : State) : State :=
  let (op, phase, done, total) := s.cfs.progress
  if op = 0 then s
  else if progressOver op phase done total then
    let ok : Bool := op != 3 || (phase = 5 && done = 1)
    (s.fset F.glbMaintLastOp 0 op).fset F.glbMaintLastStatus 0 (if ok then 0 else 0x5004)
  else s.maintSet op phase done total

/-- Spare rows in use, as the fuse map gives them (MEM.SCRUB_STAT.REMAPS). -/
def State.loadRemaps (s : State) : State :=
  (List.range 32).foldl (fun (s : State) n =>
    s.fset F.memScrubStatRemaps n ((List.range 32).map (fun c => Tbl.look 0 s.ecc.rowsUsed (32 * n + c))).sum) s

/-- The islands of the four signal boxes, whose clocks start at supplies valid (R203). -/
def boxIslands : List Nat := [17, 52, 87, 122]

/-- Power-up begins: the committed settings come into force, the sectors of removed containers are free, and the registers that
the fuse map, the settings and PROGRESS set are set. -/
def State.powerUp (s : State) (scanEn : Bool) : State :=
  let s1 := s.setPower { s.power with supply := .valid, scanEn := scanEn, started := boxIslands }
  let s2 : State := s1.setCfs { s1.cfs with inForce := s1.cfs.settings, libHeld := [], xoLogged := false }
  let s3 := ((s2.fset F.glbFwBoot 0 (s2.setting 0x0002)).fset F.depHostwinPendingGib 0 (s2.setting 0x0001)).fset
    F.depTierLevelFramesFree 0 48758784
  s3.loadSigners.loadProgress.loadRemaps

/-- SUPPLIES_VALID (R565, R567, R649). -/
def execSuppliesValid (scanEn : Bool) (s : State) : Host.Outcome State Fault Refusal :=
  .next (if s.power.supply = .closed then s.powerUp scanEn else s)

/-! ## Step 2: clocks (R203) -/

/-- ISLAND_CLOCK_START (R203): the island's counter holds 0 in its first cycle. -/
def execIslandClockStart (i : IslandId) (s : State) : Host.Outcome State Fault Refusal :=
  .next (
    if s.power.supply = .valid ∧ !s.power.started.contains i.val then
      (s.setPower { s.power with started := s.power.started ++ [i.val] }).fset F.glbIslandCtrCount i.val 0
    else s)

/-! ## Step 3: self-test (R552, R553) -/

/-- The module is in power-up, past step 2: with SCAN_EN high it goes no further (R649). -/
def State.poweringUp (s : State) : Bool := s.power.supply = .valid && !s.power.scanEn

/-- A station's checker: 0 to 32 a lane store, 33 to 35 its other memories. -/
def State.stationCheckerFails (s : State) (st n : Nat) : State :=
  if n < 33 then s.retireLane st n 4 [] none else if n < 36 then s.fenceStation st 1 else s

/-- The queue window's decoders: with both failed the host port has failed (R46), which ends service (R595). -/
def State.windowDecoderFails (s : State) : State :=
  let n := s.ecc.windowDecoders + 1
  s.setEcc { s.ecc with windowDecoders := n }

/-- The end of service that a failure during power-up leads to is recorded at once (R595). -/
def State.endsService (s : State) (cause d : Nat) : State :=
  if s.cfs.ended.isSome then s
  else
    let s1 : State := s.setCfs { s.cfs with ended := some (cause, d) }
    (s1.event 17 0x0907 0 cause d).flag F.glbEventStatusServiceEnded

/-- A checker fails a step: its unit is fenced (R553). -/
def State.checkerFails (s : State) (i n step : Nat) : State :=
  let d := i / 35
  let s0 := s.setPower { s.power with failedCheckers := s.power.failedCheckers ++ [(i, n)] }
  let s1 := s0.event i 0x0803 0 (i + 256 * step) n
  match islandClass i with
  | 0 => s1.stationCheckerFails (16 * d + i % 35) n
  | 1 => s1.fenceBank d n
  | 2 =>
    let s2 := s1.coreDown d
    if Tbl.look 0 s2.power.coresDown d ≥ 2 then s2.endsService 1 d else s2
  | 3 => s1.fenceStack (8 * d + i % 35 - 18)
  | 4 =>
    let f := 3 * d + i % 35 - 26
    (List.range 16).foldl (fun (s : State) k => s.failChannel (16 * f + k)) s1
  | 5 => (s1.fset F.brlLineStateState (6 * d + i % 35 - 29) 7).flag F.glbEventStatusLineFailed
  | _ =>
    let s2 := s1.windowDecoderFails
    if s2.ecc.windowDecoders ≥ 2 then s2.endsService 2 0 else s2

/-- CHECKER_SELF_TEST (R552, R553): `failed` names the step a checker failed, if it failed one. Checkers are numbered within their
island: a station's by MACRO code, a stack's by channel, a depot cache's by bank. -/
def execCheckerSelfTest (i : IslandId) (checker : Nat) (failed : Option (Fin 7)) (s : State) : Host.Outcome State Fault Refusal :=
  .next (
    match failed with
    | none => s
    | some step =>
      if s.poweringUp ∧ s.power.started.contains i.val ∧ s.fget F.pwrBootPhase 0 = 0 ∧ !s.power.failedCheckers.contains (i.val, checker)
      then s.checkerFails i.val checker step.val else s)

/-! ## Step 5: firmware (R567, R570, R617) -/

/-- A region boots: it is marked valid, which stands for checks 1 to 5 on the same bytes, and its SVN is not below the fused one
(log entry 42). -/
def State.boots (s : State) (r : Nat) : Bool :=
  (s.fwRegion r).valid && s.fget F.secSvnSvn 0 ≤ fwSvn (s.fwRegion r).bytes

/-- The measurement indices that have a block (R621). -/
def measured : List Nat := [1, 2, 3, 4, 5, 6, 7, 8] ++ (List.range 64).map (16 + ·)

/-- Every measurement is computed (SEC.MEAS resets at power-up). -/
def State.measureAll (s : State) : State := measured.foldl (fun (s : State) i => s.putMeasure i (s.measure i)) s

/-- The cores start the image that passed. -/
def State.runFirmware (s : State) (r : Nat) (fallback : Bool) : State :=
  (((s.fset F.glbFwRunning 0 r).fset F.pwrBootFwFallback 0 (bit fallback)).setPhase 1).measureAll

/-- Step 5 ends. -/
def State.verifyFirmware (s : State) : State :=
  let a := s.boots 0
  let b := s.boots 1
  let s1 := (s.fset F.glbFwAValid 0 (bit a)).fset F.glbFwBValid 0 (bit b)
  let r := s.setting 0x0002 % 2
  if s.boots r then s1.runFirmware r false
  else if s.boots (1 - r) then s1.runFirmware (1 - r) true
  else (s1.setPhase 7).fset F.pwrBootEndCause 0 4

/-- FIRMWARE_BOOT_VERIFY (R567). -/
def execFirmwareBootVerify (s : State) : Host.Outcome State Fault Refusal :=
  .next (if s.poweringUp ∧ s.fget F.pwrBootPhase 0 = 0 then s.verifyFirmware else s)

/-! ## Step 6: the store compared, the host window (R275, R276, R522) -/

/-- The window's size in force: the setting, or the largest whole number of GiB that leaves the floor of R240. -/
def State.windowFit (s : State) : Nat :=
  ((List.range (s.setting 0x0001 + 1)).filter (fun g => s.frameFloor (16384 * g))).foldl max 0

/-- The host window's frames are allocated on their home stacks. -/
def State.allocWindow (s : State) : State :=
  let want := s.setting 0x0001
  let h := s.windowFit
  let s1 := s.fset F.depHostwinSizeGib 0 h
  let s2 := (List.range (16384 * h)).foldl (fun (s : State) i => s.allocPage (pageOf scratchBase + i)) s1
  if h < want then s2.event 17 0x0A01 0 want h else s2

/-- Step 6 ends: records that one device alone held have been copied to the other, each a mirror repair, and a trailing record that
a power loss tore has been skipped (R522, R525). -/
def State.storeCompared (s : State) (differs : Nat) : State :=
  let s1 := (s.bump F.cfsCtrCount 5 differs).bump F.cfsCtrCount 7 (bit s.cfs.torn)
  ((s1.setCfs { s1.cfs with torn := false }).allocWindow).setPhase 2

/-- STORE_COMPARED (R522, R567). -/
def execStoreCompared (differs : Nat) (s : State) : Host.Outcome State Fault Refusal :=
  .next (if s.poweringUp ∧ s.fget F.pwrBootPhase 0 = 1 then s.storeCompared differs else s)

/-! ## Step 7: the map (R490, R503) -/

/-- A logical section whose merge had no MAP_SET: the target goes to ERASING, and what it folded is the map again. With a newer
scatter log beside the one it folded, the merge begins again. -/
def State.unmerge (s : State) (l : Nat) : State :=
  let x := s.lsec l
  match x.target with
  | none => s
  | some t =>
    let s1 := s.setSecSt t .erasing
    let old := x.folding.find? (fun p => some p != x.data && some p != x.inOrd)
    match x.scatter with
    | none => s1.setLsec l { x with target := none, folding := [], scatter := old, relocating := false }
    | some _ =>
      let s2 := (s1.setLsec l { x with target := none, folding := [] }).startMerge l x.relocating
      s2.setLsec l { s2.lsec l with folding := (s2.lsec l).folding ++ old.toList }

/-- The sub-blocks of the flush are dirty frames again. -/
def State.replayLba (s : State) (b : Nat) : State :=
  let p := b / 16
  let s1 := if (s.page p).resident then s else ((s.takeFrame (s.homeStack p)).setPage p { s.page p with resident := true }).touch p
  s1.markDirty p (2 ^ (b % 16))

/-- The flush section of a group. -/
def State.flushSecOf (s : State) (g : Nat) : Option Nat := (secsOfGroup g).find? (fun p => (s.sec p).st = .flush)

/-- A flush section that held sub-blocks goes to ERASING and is replaced (R503). -/
def State.replaceFlush (s : State) (g : Nat) : State :=
  match s.flushSecOf g, s.allocAmong (fun _ => secsOfGroup g) .flush 64 with
  | some p, some (q, s1) => (s1.setSecSt p .erasing).journal 7 q (leBytes 1 (secStCode .flush))
  | _, _ => s

/-- The flush sections are replayed, and the loss is logged (R503, R577). -/
def State.replayFlush (s : State) : State :=
  match s.flash.flushed with
  | some lbas =>
    let s1 := lbas.foldl State.replayLba s
    let s2 := (List.range (min 96 (ceilDiv lbas.length 720))).foldl State.replaceFlush s1
    let s3 := (s2.setFlash { s2.flash with flushed := none }).fset F.pwrBootFlushReplayed 0 1
    s3.event 17 0x0901 0 lbas.length s3.power.lossCyc
  | none =>
    if s.power.lossOpen then
      let r := s.drawNat
      r.2.event 17 0x0901 0 (2 ^ 64 - 1) (r.1 % 2 ^ 64)
    else s

/-- A checkpoint slot is used only if its commit record verifies and the journal holds the CHECKPOINT record of its number (R533). -/
def State.slotUsable (s : State) (c : Nat × Nat) : Bool :=
  c.1 != 0 && s.flash.journal.any (fun r => r.type = 9 && r.body = leBytes 8 c.2 ++ leBytes 4 c.1)

/-- The checkpoint that the map is loaded from: the newest usable slot; none where neither is (R490, R533). -/
def State.bootSlot (s : State) : Option (Nat × Nat) :=
  let us := [s.cfs.ckpt0, s.cfs.ckpt1].filter s.slotUsable
  us.foldl (fun best c => match best with
    | none => some c
    | some b => if b.1 < c.1 then some c else some b) none

/-- The checkpoint is loaded and the journal's records after its SEQ are replayed, up to the first SEQ that neither copy holds
(R490): they give the map that State holds, so that what changes is where the next checkpoint and record go on. -/
def State.loadCheckpoint (s : State) : State :=
  let c := (s.bootSlot).getD (0, 0)
  let newer := s.flash.journal.filter (fun r => c.2 < r.seq)
  s.setFlash { s.flash with ckptNo := c.1, ckptSeq := c.2, seq := (newer.map (·.seq)).foldl max c.2 }

/-- The map is rebuilt: the newest usable checkpoint is loaded and the journal is replayed, merges without a MAP_SET are undone, erases under way resume, and the flush is replayed. -/
def State.rebuildMap (s : State) : State :=
  let s0 := s.loadCheckpoint
  let s1 := (s0.flash.lsecs.map (·.1)).foldl State.unmerge s0
  let s2 := (s1.secsIn [.suspended]).foldl (fun (s : State) p => s.setSecSt p .erasing) s1
  let s3 := s2.replayFlush
  (s3.setPower { s3.power with lossOpen := false }).setPhase 3

/-- MAP_REBUILD (R490, R503, R571). -/
def execMapRebuild (s : State) : Host.Outcome State Fault Refusal :=
  .next (if s.poweringUp ∧ s.fget F.pwrBootPhase 0 = 2 ∧ s.fget F.glbMaintOp 0 ≠ 1 ∧ !s.fbit F.pwrBootSanitiseResumed 0 then s.rebuildMap else s)

/-! ## Steps 8 to 10 -/

/-- Branch lines begin training (R397). -/
def State.linesStart (s : State) : State :=
  (List.range 24).foldl (fun (s : State) b => if s.lineSt b = 0 ∧ s.fbit F.brlLineCtlEnable b then s.lineTo b 1 else s) s

/-- BASE_TIMETABLE_STITCH (R196, R197, R571): after the map is rebuilt, or skipped for a sanitise. -/
def execBaseTimetableStitch (s : State) : Host.Outcome State Fault Refusal :=
  .next (
    let ph := s.fget F.pwrBootPhase 0
    let skipped : Bool := ph = 2 && s.fbit F.pwrBootSanitiseResumed 0
    if s.poweringUp ∧ (ph = 3 ∨ skipped) then s.powerUpStitch.linesStart else s)

/-- Step 9: service; a module whose service has ended stops here (R595). -/
def State.enterService (s : State) (ms : Nat) : State :=
  match s.cfs.ended with
  | some (cause, d) => ((s.setPhase 6).fset F.pwrBootEndCause 0 cause).fset F.pwrBootEndDie 0 d
  | none => ((s.setHost { s.host with memoryActive := true }).setPhase 5).fset F.pwrBootServiceMs 0 ms

/-- SERVICE_ENTRY (R567): `ms` after supplies valid. -/
def execServiceEntry (ms : Nat) (s : State) : Host.Outcome State Fault Refusal :=
  .next (if s.poweringUp ∧ s.fget F.pwrBootPhase 0 = 4 then s.enterService ms else s)

end Sys2Proof.Machine
end

