-- ==== Sys2Proof/Machine/Loss.lean ====
section
/-! DEFINITION. Power loss and the hold-up flush (R501 to R504, R574 to R579, R641), the bank and its strings (R572, R573), the
sensors (R626), and the failures that end service (R46, R47, R592, R595). -/

namespace Sys2Proof.Machine

/-! ## Work stops (R575 step 1) -/

/-- A job's run and its requests are gone. -/
def JobHold.stopped (h : JobHold) : JobHold := { h with run := none, queue := [], holdWait := [], endWait := [] }

/-- Every station stops as at a fence, the branch lines stop, and nothing is dispatched. -/
def State.stopWork (s : State) : State :=
  let s1 : State := { s with
    stations := (s.stations.map (fun e => (e.1, e.2.stopped))).filter (fun e => e.2 != {})
    jobs := (s.jobs.map (fun e => (e.1, e.2.stopped))).filter (fun e => e.2 != {}) }
  ((List.range 24).foldl (fun (s : State) b => s.fset F.brlLineStateState b 0) s1).setMesh { s1.mesh with pulls := [], changes := [] }

/-! ## What the flush keeps of outstanding commands (R503, R576) -/

/-- What a WRITE outstanding at the loss leaves: an atomic one all old, another as R230 gives. -/
def State.loseWrite (s : State) (p : Nat) : State :=
  let e := (s.cmd p).entry
  if atomicRange (wrLba e) (wrCount e) then (s.dropTurns p).dropLayers p else s.settleWrite p

/-- What a command outstanding at the loss leaves. -/
def State.loseCmd (s : State) (p : Nat) : State :=
  let o := sqOpcode (s.cmd p).entry
  if (s.cmd p).decided then s
  else if o = 0x02 ∨ (o = 0x0B ∧ (s.cmd p).phase < 2) then s.loseWrite p
  else if o = 0x04 then s.settleRelease p
  else s

/-- Every outstanding command. -/
def State.loseCmds (s : State) : State := ((s.host.cmds.filter (fun e => e.2.live)).map (·.1)).foldl State.loseCmd s

/-- Programs already begun complete (R501); merges in progress are not kept. -/
def State.endPrograms (s : State) : State :=
  let mine := s.flash.units.filter (fun e => e.2.programming && !e.2.merge)
  let inOrder := (List.range 1024).flatMap (fun u => mine.filter (fun e => e.2.unit = u))
  inOrder.foldl (fun (s : State) e => s.unitDone e.1 []) s

/-- The dirty media sub-blocks, rising. -/
def State.allDirty (s : State) : List Nat :=
  s.depot.pages.flatMap (fun e => (bitsSet 16 e.2.dirty).map (fun i => 16 * e.1 + i))

/-- The flush is written and FLUSH_DONE committed (R488 type 8: the sub-blocks, and the units of each flush section). -/
def State.commitFlush (s : State) (lbas : List Nat) : State :=
  let s1 := s.journalRaw 8 0 (leBytes 8 lbas.length ++ leBytes 1 (ceilDiv (ceilDiv lbas.length 720) 96))
  (s1.setFlash { s1.flash with flushed := some (s1.flash.flushed.getD [] ++ lbas), bufBytes := 0 }).setPower
    { s1.power with lossOpen := false }

/-! ## Off (R576) -/

/-- Registers whose values the fuse map, the flash map and the store hold, and that power-up shows again (R534, R561, R618). -/
def keptRegs : List Reg := [.secSvn, .stnLrSpare, .flsHealth, .flsGroup, .flsGroup1, .flsDie, .flsChan, .cfsDevState, .cfsDevState1]

/-- The register file after power is gone: what is kept, with the fields of the last power-up at their reset values. -/
def State.keepRegs (s : State) : State :=
  let s1 : State := { s with regs := s.regs.filter (fun e => (keptRegs.map Reg.code).contains e.1) }
  let s2 := (List.range 96).foldl (fun (s : State) g => s.fset F.flsGroupRaCredit g 64000) s1
  (List.range 64).foldl (fun (s : State) st => s.fset F.stnLrSpareFailed2 st 0) s2

/-- What of a media page outlives power: its map, and the sub-blocks that stay unreadable until they are written again. -/
def Page.unpowered (x : Page) : Page := { mapped := x.mapped, lost := x.lost, bad := x.bad }

/-- The depot without power: the bytes and the map of the media part. -/
def Depot.unpowered (d : Depot) : Depot :=
  { base := d.base.filter (fun c => c.1 < userEnd)
    pages := ((d.pages.filter (fun e => isMediaPage e.1)).map (fun e => (e.1, e.2.unpowered))).filter (fun e => e.2 != {}) }

/-- The flash without power. -/
def Flash.unpowered (f : Flash) : Flash :=
  { f with units := [], reads := [], crowded := [], bufBytes := 0, blockFails := [], raw := none }

/-- The store without power: records not committed are lost, and one of them may have torn (R523, R525). -/
def Cfs.unpowered (c : Cfs) : Cfs := { c with writes := [], bankReads := [], readBack := none, torn := c.torn || c.writes != [] }

/-- Everything that is lost without power is as at reset; what the flash, the store and the fuse map hold stays. -/
def State.unpowered (s : State) : State :=
  let keep := s.keepRegs
  { pending := s.pending
    freeCtr := s.freeCtr
    regs := keep.regs
    host := { perst := s.host.perst, commonClock := s.host.commonClock, outbox := s.host.outbox }
    depot := s.depot.unpowered
    flash := s.flash.unpowered
    cfs := s.cfs.unpowered
    ecc := { rowsUsed := s.ecc.rowsUsed, sramRows := s.ecc.sramRows, sramCols := s.ecc.sramCols }
    power := { supply := s.power.supply, returned := s.power.returned, opened := s.power.opened, lossCyc := s.power.lossCyc,
               lossOpen := s.power.lossOpen } }

/-! ## The loss (R574 to R579) -/

/-- Something dirty may be in the module: the map has been rebuilt (R578). -/
def State.flushes (s : State) : Bool := s.fget F.pwrBootPhase 0 ≥ 3 && s.fget F.pwrBootPhase 0 ≠ 7

/-- A loss is detected: work stops, the port is down, no command is taken, and the flush begins. -/
def State.powerFails (s : State) (opened : Bool) : State :=
  let lossCyc := if s.flushes then s.cyc 17 else s.power.lossCyc
  let s1 := s.setPower { s.power with supply := .flushing, returned := false, opened := opened, lossCyc := lossCyc, lossOpen := true }
  let s2 := (s1.loseCmds.setHost { s1.loseCmds.host with link := none, cmds := [], held := [], memoryActive := false })
  s2.stopWork

/-- POWER_LOSS (R574, R575). -/
def execPowerLoss (s : State) : Host.Outcome State Fault Refusal :=
  .next (if s.power.supply = .valid then s.powerFails false else s)

/-- PRES_BREAK (R641): a loss, whatever V_IN reads; with one under way, the two are one. -/
def execPresBreak (s : State) : Host.Outcome State Fault Refusal :=
  .next (match s.power.supply with
    | .valid => s.powerFails true
    | .flushing => s.setPower { s.power with opened := true, returned := false }
    | _ => s.setPower { s.power with supply := .off, opened := true })

/-- POWER_RETURN (R579): the sequence still runs to its end; after it the module waits for supplies valid. -/
def execPowerReturn (s : State) : Host.Outcome State Fault Refusal :=
  .next (match s.power.supply with
    | .flushing => if s.power.opened then s else s.setPower { s.power with returned := true }
    | .down => s.setPower { s.power with supply := .closed }
    | _ => s)

/-- Where the supplies stand when the flush is over. -/
def Power.afterFlush (x : Power) : Supply :=
  if x.opened then (if x.returned then .mated else .off) else if x.returned then .closed else .down

/-- The flush is done, and every regulator is turned off. -/
def State.flushDone (s : State) : State :=
  let s1 := if s.flushes then (let t := s.endPrograms; t.commitFlush t.allDirty) else s
  (s1.setPower { s1.power with supply := s1.power.afterFlush, returned := false }).unpowered

/-- HOLD_UP_FLUSH_DONE (R504, R575). -/
def execHoldUpFlushDone (s : State) : Host.Outcome State Fault Refusal :=
  .next (if s.power.supply = .flushing then s.flushDone else s)

/-- INPUT_DIP (R574). -/
def execInputDip (s : State) : Host.Outcome State Fault Refusal :=
  .next (if s.power.supply = .valid then s.bump F.pwrCtrCount 0 1 else s)

/-! ## The bank (R572, R573) -/

/-- The dirty limit in 4 KiB sub-blocks for a usable energy in mJ: the formula of R572, exact, with the powers of ten cleared. -/
def dirtyLimit (mj : Nat) : Nat :=
  let num := (mj - 1000) * 172000000000
  let less := (636400000 + 134217728) * 210000
  min 1048576 ((num - less) / (210000 * 4096))

/-- The strings in service. -/
def State.stringsOk (s : State) : List Nat := (List.range 6).filter (fun n => !s.fbit F.pwrStringFailed n)

/-- The usable energy of the strings in service is shown, and the dirty limit follows it; a limit below the dirty data held starts
write-back. -/
def State.setEnergy (s : State) : State :=
  let e := (s.stringsOk.map (fun n => s.power.bank.getD n 0)).sum
  let s1 := (s.fset F.pwrHoldupUsableMj 0 (min 65535 e)).fset F.pwrHoldupStringsOk 0 ((s.stringsOk.map (fun n => 2 ^ n)).sum)
  let s2 := s1.fset F.pwrHoldupDirtyLimit4k 0 (dirtyLimit e)
  if s2.fget F.depTierLevelDirty4k 0 > dirtyLimit e then s2.writeBackAll else s2

/-- HOLDUP_ENERGY_MEASURE (R572): the usable energy of each string, in mJ. -/
def execHoldupEnergyMeasure (millijoules : List Nat) (s : State) : Host.Outcome State Fault Refusal :=
  .next (if s.power.supply = .valid then (s.setPower { s.power with bank := millijoules.take 6 }).setEnergy else s)

/-- A string has been tested: one outside its limits is isolated, and the energy is measured again. -/
def State.stringTested (s : State) (n mj : Nat) (ok : Bool) : State :=
  let s1 := ((s.fset F.pwrStringUsableMj n (min 65535 mj)).bump F.pwrStringTests n 1).bump F.pwrCtrCount 1 1
  if ok then s1
  else (((s1.fset F.pwrStringFailed n 1).event 17 0x0906 0 n mj).flag F.glbEventStatusStringFailed).setEnergy

/-- STRING_TEST (R573). -/
def execStringTest (string : StringId) (millijoules : Nat) (ok : Bool) (s : State) : Host.Outcome State Fault Refusal :=
  .next (if s.power.supply = .valid ∧ !s.fbit F.pwrStringFailed string.val then s.stringTested string.val millijoules ok else s)

/-! ## The sensors (R626) -/

/-- A die's temperature, and the highest since power-up; PEAK starts from its reset value 0. -/
def State.setTemp (s : State) (d : Nat) (t : Int) : State :=
  let now := unsigned 16 t
  let s1 := if signed 16 (s.fget F.pwrTempPeak d) < signed 16 now then s.fset F.pwrTempPeak d now else s
  s1.fset F.pwrTempNow d now

/-- SENSOR_UPDATE (R626): the dies' temperatures and the couplings', in 1/16 °C, and the input's voltage and power. -/
def execSensorUpdate (temps : List Int) (inlet outlet : Int) (millivolts deciwatts : Nat) (s : State) : Host.Outcome State Fault Refusal :=
  .next (
    if s.power.supply ≠ .valid then s
    else
      let s1 := (List.range 4).foldl (fun (s : State) d => s.setTemp d (temps.getD d 0)) s
      let s2 := (s1.fset F.pwrCoolantInlet 0 (unsigned 16 inlet)).fset F.pwrCoolantOutlet 0 (unsigned 16 outlet)
      let dw := min 65535 deciwatts
      ((s2.fset F.pwrInputInputMv 0 (min 65535 millivolts)).fset F.pwrInputInputDw 0 dw).fset F.pwrInputPeakDw 0
        (max (s2.fget F.pwrInputPeakDw 0) dw))

/-! ## The end of service (R595) -/

/-- Dirty sub-blocks whose frames a failure leaves: those homed on a failed die are lost. -/
def State.dirtyLeft (s : State) (dies : List Nat) : List Nat := s.allDirty.filter (fun b => !dies.contains (s.homeStack (b / 16) / 8))

/-- After the flush no frame is dirty; a sub-block that was not written is lost (R246, R595). -/
def State.cleanAll (s : State) (written : List Nat) : State :=
  let clean := fun e : Nat × Page =>
    let gone := ((bitsSet 16 e.2.dirty).filter (fun i => !written.contains (16 * e.1 + i))).map (fun i => 2 ^ i)
    (e.1, { e.2 with dirty := 0, writing := 0, lost := e.2.lost ||| gone.sum })
  (s.setDepot { s.depot with pages := (s.depot.pages.map clean).filter (fun e => e.2 != {}) }).fset F.depTierLevelDirty4k 0 0

/-- The flush of a service that ends. -/
def State.endFlush (s : State) (dies : List Nat) : State :=
  let s1 := s.loseCmds.endPrograms
  let lbas := s1.dirtyLeft dies
  (s1.commitFlush lbas).cleanAll lbas

/-- Service ends: completions that were decided may still be posted, and no other command completes. `dies` have failed; the first of
them is END_DIE. -/
def State.endService (s : State) (cause : Nat) (dies : List Nat) : State :=
  let die := dies.headD 0
  let s1 := (((s.endsService cause die).setPhase 6).fset F.pwrBootEndCause 0 cause).fset F.pwrBootEndDie 0 die
  let s2 := if s.flushes then s1.endFlush dies else s1
  (s2.setHost { s2.host with memoryActive := false, cmds := s2.host.cmds.filter (fun e => e.2.decided) }).stopWork

/-- The dies that a failure of this cause takes: those at the two ends of a bridge have both failed (R36). -/
def failedDies (cause : Nat) (d : FailedDies) : List Nat := if cause = 1 then d.die.val :: (d.far.toList.map (·.val)) else []

/-- SERVICE_END (R36, R46, R595): cause 1 a compute die, or with a far end the bridge between two; 2 the host port, 3 the power input.
During power-up, as when a bridge's link check fails, the end is recorded and the module stops at step 9. -/
def execServiceEnd (cause : Fin 16) (d : FailedDies) (s : State) : Host.Outcome State Fault Refusal :=
  .next (
    if s.power.supply ≠ .valid ∨ cause.val = 0 ∨ 3 < cause.val then s
    else
      let dies := failedDies cause.val d
      if s.fget F.pwrBootPhase 0 = 5 then s.endService cause.val dies
      else if s.poweringUp ∧ s.fget F.pwrBootPhase 0 < 5 then s.endsService cause.val (dies.headD 0)
      else s)

/-! ## A management core fails (R32, R46, R47, R592) -/

/-- An active core of a die fails: during an activation that this ends, every die is with its former core; a die with no core left
ends service. -/
def State.coreFails (s : State) (d : Nat) : State :=
  let s1 := s.coreDown d
  if Tbl.look 0 s1.power.coresDown d ≥ 2 then s1.endService 1 [d]
  else if s.fget F.glbMaintOp 0 = 3 ∧ s.fget F.glbMaintPhase 0 < 5 then s1.activationFails (s.fget F.glbMaintPhase 0) d
  else s1

/-- MANAGEMENT_CORE_FAILURE (R32, R592). -/
def execManagementCoreFailure (d : DieId) (s : State) : Host.Outcome State Fault Refusal :=
  .next (if s.power.supply = .valid ∧ s.fget F.pwrBootPhase 0 = 5 then s.coreFails d.val else s)

end Sys2Proof.Machine
end

