-- ==== Sys2Proof/Machine/Unlock.lean ====
section
/-! DEFINITION. The privileged lock and its signed unlock (R607 to R611), the operators' keys (R614), and the event interrupt's
configuration (R624). -/

namespace Sys2Proof.Machine

/-! ## The lock (R607) -/

/-- PRIV_LOCK_SET (R607): a write of 1 to GLB.PRIV_LOCK.LOCK. -/
def execPrivLockSet (s : State) : Host.Outcome State Fault Refusal :=
  .next (s.openWrite 0x100 fun s => s.fset F.glbPrivLockLock 0 1)

/-! ## The signed unlock (R610, R611) -/

/-- A write of GLB.UNLOCK_CTL: it has no effect while BUSY is 1; SIGNER takes what was written. -/
def State.unlockTake (s : State) (signer : Nat) (run : State → State) : State :=
  if s.fbit F.glbUnlockCtlBusy 0 then s else run (s.fset F.glbUnlockCtlSigner 0 signer)

def State.unlockCtl (s : State) (signer : Nat) (run : State → State) : State := s.openWrite 0x300 fun s => s.unlockTake signer run

/-- A new challenge is asked for, unless the back-off is in force. -/
def State.askChallenge (s : State) : State :=
  if s.security.backOff then s.fset F.glbUnlockCtlResult 0 5
  else (s.setSecurity { s.security with making := true }).fset F.glbUnlockCtlBusy 0 1

/-- UNLOCK_NEW_CHALLENGE (R610). -/
def execUnlockNewChallenge (signer : Fin 8) (s : State) : Host.Outcome State Fault Refusal :=
  .next (s.unlockCtl signer.val State.askChallenge)

/-- The security engine has made a challenge of 32 random bytes; it replaces any in force. -/
def State.challengeReady (s : State) : State :=
  let r := s.drawBytes 32
  (((r.2.setSecurity { r.2.security with making := false }).rsetBytes .glbUnlockChal 0 r.1).fset F.glbUnlockCtlChalValid 0 1).fset
    F.glbUnlockCtlBusy 0 0

/-- UNLOCK_CHALLENGE_READY (R610). -/
def execUnlockChallengeReady (s : State) : Host.Outcome State Fault Refusal :=
  .next (if s.security.making then s.challengeReady else s)

/-- A verification begins. -/
def State.beginVerify (s : State) : State := (s.setSecurity { s.security with verifying := true }).fset F.glbUnlockCtlBusy 0 1

/-- UNLOCK_VERIFY (R610). -/
def execUnlockVerify (signer : Fin 8) (s : State) : Host.Outcome State Fault Refusal := .next (s.unlockCtl signer.val State.beginVerify)

/-- What a written word of GLB.UNLOCK_CTL asks for; with NEW_CHAL and VERIFY both 1 the challenge goes first and its BUSY turns
the verification away (DESIGN CHOICE, log entry 46). -/
def State.unlockAsk (value : Nat) (s : State) : State :=
  if value.testBit 0 then s.askChallenge else if value.testBit 1 then s.beginVerify else s

/-- The message an unlock signs: SERIAL and the challenge. -/
def State.unlockMessage (s : State) : List Byte := leBytes 8 (s.rget .brlSerial 0).toNat ++ s.rgetBytes .glbUnlockChal 0 4

/-- The signature in GLB.UNLOCK_SIG verifies under a signer's key. -/
def State.unlockSigned (s : State) (n : Nat) : Bool :=
  edVerify ctxAzul (s.signerKey n) s.unlockMessage ((s.rgetBytes .glbUnlockSig 0 15).take 114)

/-- RESULT of a verification (R611), with the signers as they stand as it runs (R615). -/
def State.unlockResult (s : State) : Nat :=
  let n := s.fget F.glbUnlockCtlSigner 0
  if !s.fbit F.glbUnlockCtlChalValid 0 then 4
  else if !s.signerOk n then 3
  else if !s.unlockSigned n then 2
  else 1

/-- A verification that did not unlock: it is counted and logged, and after the fourth in a row each further one begins the
back-off. -/
def State.unlockFails (s : State) (r : Nat) : State :=
  let s1 := s.bumpSat F.glbUnlockCtlFails 0 1
  let s2 := (s1.event 17 0x0603 0 (s1.fget F.glbUnlockCtlSigner 0) r).flag F.glbEventStatusUnlockFailed
  if 5 ≤ s2.fget F.glbUnlockCtlFails 0 then s2.setSecurity { s2.security with backOff := true } else s2

/-- A verification that unlocked. -/
def State.unlocks (s : State) : State :=
  ((s.fset F.glbPrivLockLock 0 0).fset F.glbUnlockCtlFails 0 0).event 17 0x0602 0 (s.fget F.glbUnlockCtlSigner 0) 0

/-- A verification ends: its challenge has served. -/
def State.verifyDone (s : State) : State :=
  let r := s.unlockResult
  let s1 := ((s.setSecurity { s.security with verifying := false }).fset F.glbUnlockCtlBusy 0 0).fset F.glbUnlockCtlResult 0 r
  let s2 := s1.clearChallenge
  if r = 1 then s2.unlocks else s2.unlockFails r

/-- UNLOCK_VERIFY_DONE (R610, R611). -/
def execUnlockVerifyDone (s : State) : Host.Outcome State Fault Refusal := .next (if s.security.verifying then s.verifyDone else s)

/-- UNLOCK_CHALLENGE_LAPSE (R611); a challenge that a verification already uses has served it. -/
def execUnlockChallengeLapse (s : State) : Host.Outcome State Fault Refusal :=
  .next (if s.fbit F.glbUnlockCtlChalValid 0 ∧ !s.security.verifying then s.clearChallenge else s)

/-- UNLOCK_BACKOFF_END (R611). -/
def execUnlockBackoffEnd (s : State) : Host.Outcome State Fault Refusal := .next (s.setSecurity { s.security with backOff := false })

/-! ## Operators' keys (R614) -/

/-- SEC.KEY_CTL takes what was written; while a command is in progress the write has no effect. -/
def State.keyFields (s : State) (cmd signer : Nat) (run : State → State) : State :=
  if s.fbit F.secKeyCtlBusy 0 then s else run ((s.fset F.secKeyCtlCmd 0 cmd).fset F.secKeyCtlSigner 0 signer)

/-- A command that names signer 0 completes with 0x1001. -/
def State.keyRun (s : State) (signer : Nat) (run : State → State) : State :=
  if signer = 0 then s.fset F.secKeyCtlStatus 0 0x1001 else run s

/-- A write of SEC.KEY_CTL with a command. -/
def State.keyCtl (s : State) (cmd signer : Nat) (run : State → State) : State :=
  s.lockWrite 0x2000440 fun s => s.keyFields cmd signer fun s => s.keyRun signer run

/-- A key is on its way into the store. -/
def State.keyWrite (s : State) (n : Nat) (key : List Byte) : State := (s.fset F.secKeyCtlBusy 0 1).cfsWrite (.key n key)

/-- The key of the stage is checked and committed. -/
def State.keyInstall (s : State) (n : Nat) : State :=
  let key := (s.rgetBytes .secKeyStage 0 8).take 57
  if edPointOk key then s.keyWrite n key else s.fset F.secKeyCtlStatus 0 0x1001

/-- What a written word of SEC.KEY_CTL does: CMD 1 installs, 2 removes, 0 and 3 do no action. -/
def State.keyWord (s : State) (value : Nat) : State :=
  let signer := bitsOf value 8 3
  s.keyFields (bitsOf value 0 2) signer fun s =>
    match bitsOf value 0 2 with
    | 1 => s.keyRun signer fun s => s.keyInstall signer
    | 2 => s.keyRun signer fun s => s.keyWrite signer (zeros 57)
    | _ => s

/-- SIGNER_KEY_INSTALL (R614). -/
def execSignerKeyInstall (signer : Fin 8) (s : State) : Host.Outcome State Fault Refusal :=
  .next (s.keyCtl 1 signer.val fun s => s.keyInstall signer.val)

/-- SIGNER_KEY_REMOVE (R614). -/
def execSignerKeyRemove (signer : Fin 8) (s : State) : Host.Outcome State Fault Refusal :=
  .next (s.keyCtl 2 signer.val fun s => s.keyWrite signer.val (zeros 57))

/-! ## The event interrupt (R624) -/

/-- GLB.EVENT_CFG takes a value; a MASK bit newly set over a status bit that is 1 raises the vector once. -/
def State.setEventCfg (s : State) (v : Nat) : State :=
  let old := s.fget F.glbEventCfgMask 0
  let s1 := ((s.fset F.glbEventCfgVector 0 v).fset F.glbEventCfgEnable 0 (bitsOf v 11 1)).fset F.glbEventCfgMask 0 (bitsOf v 32 16)
  let due : Bool := (clearBits 16 (s1.fget F.glbEventCfgMask 0) old) &&& (s1.rget .glbEventStatus 0).toNat != 0
  if s1.fbit F.glbEventCfgEnable 0 ∧ due then s1.raiseMsix (s1.fget F.glbEventCfgVector 0) else s1

/-- EVENT_CFG_WRITE (R624). -/
def execEventCfgWrite (value : Word64) (s : State) : Host.Outcome State Fault Refusal :=
  .next (s.lockWrite 0x400 fun s => s.setEventCfg value.toNat)

end Sys2Proof.Machine
end

