-- ==== Sys2Proof/Machine/Views.lean ====
section
/-! DEFINITION. The two views (R598 to R606): writes by access code, reads that change state, the lane rows' counters (R97,
R98), and the pushes of the mirrors. -/

namespace Sys2Proof.Machine

/-! ## The offset map -/

/-- The unit numbers of an offset within a register's range, flattened to its index; none where the offset lies between the
units. -/
def flatIndex : List (Nat × Nat) → Nat → Nat → Option (Nat × Nat)
  | [], o, i => some (i, o)
  | (stride, count) :: ds, o, i => if o / stride < count then flatIndex ds (o % stride) (i * count + o / stride) else none

/-- A register's index at a BAR0 offset that lies in one of its words. -/
def RegRow.hit (r : RegRow) (off : Nat) : Option (RegRow × Nat) :=
  if off < r.base then none
  else
    match flatIndex r.dims (off - r.base) 0 with
    | none => none
    | some (i, o) => if o < r.bits / 8 then some (r, i) else none

/-- The register word at a BAR0 offset, and its index; none for an unassigned offset (R598, R603). -/
def regAt (off : Nat) : Option (RegRow × Nat) := regRows.findSome? (fun r => r.hit off)

/-- The registers whose writes do more than store fields: the commands of R98, R283, R306, R439, R510, R607, R610, R614, R624. -/
def ownRows : List Reg :=
  [.jobCtl, .jobSched, .stnCtrCtl, .glbPrivLock, .glbUnlockCtl, .secKeyCtl, .flsRawCtl, .glbEventCfg, .queAdminCtl]

/-- The bits of a register's fields of one access code. -/
def RegRow.bitsWith (r : RegRow) (a : Acc) : Word64 :=
  r.fields.foldl (fun m f => if f.2.2 = a then m ||| BitVec.ofNat 64 (2 ^ (f.1 + f.2.1) - 2 ^ f.1) else m) 0

/-- The unit that holds a register is fenced, so that writes to it are ignored (R603). -/
def State.unitFenced (s : State) (r : RegRow) (off : Nat) : Bool :=
  if 0x800000 ≤ r.base ∧ r.base < 0xC00000 then s.fbit F.stnStateFenced ((off - 0x800000) / 0x10000)
  else if 0x1000000 ≤ r.base ∧ r.base < 0x1400000 then s.fbit F.memStackStateFenced ((off - 0x1000000) / 0x10000)
  else false

/-! ## Lane-row counters (R98) -/

/-- A station's counters are copied to its snapshot. -/
def State.snapCounters (s : State) (st : Nat) : State :=
  (List.range 528).foldl (fun (s : State) k => s.rset .stnLrSnap (528 * st + k) (s.rget .stnLrCtr (528 * st + k))) s

/-- The cycle of a clear is counted after it, by the lane row's cause of this moment; where an event still to come would count it,
on a counter the model leaves free (R98; DESIGN CHOICE, log entry 27). LR32's counters stay frozen while it stands in (R99). -/
def State.clearCycle (s : State) (st n : Nat) : State :=
  let s1 := State.tickLane st 1 s n
  if n = 32 then s1
  else if (List.range 12).any (fun i => s1.fget F.stnLrCtrCount (lrIdx st n i) != 0) then s1.ahead st n 1
  else (let d := s.drawNat; (d.2.lrAdd st n (d.1 % 11) 1).ahead st n 1)

/-- A lane row's counters are cleared: the cycles still to be made up for belong to the time before. -/
def State.clearLane (s : State) (st n : Nat) : State :=
  let s1 := (List.range 16).foldl (fun (s : State) i => s.rset .stnLrCtr (lrIdx st n i) 0) s
  (if n = 32 then s1 else s1.setLane st n { s1.lane st n with lag := 0 }).clearCycle st n

/-- A station's counters are cleared. -/
def State.clearCounters (s : State) (st : Nat) : State := (List.range 33).foldl (fun (s : State) n => s.clearLane st n) s

/-- STN.CTR_CTL with its SNAP and its CLEAR: the snapshot is taken before the clear (R98). -/
def State.ctrDo (s : State) (st : Nat) (snap clear : Bool) : State :=
  let s1 := if snap then s.snapCounters st else s
  if clear then s1.clearCounters st else s1

/-! ## A write (R12, R13, R602) -/

/-- Keep a field of the old word. -/
def keepField (old new lsb width : Nat) : Nat := withBits new lsb width (bitsOf old lsb width)

/-- A zero in a field is stored as 1. -/
def noZero (new lsb width : Nat) : Nat := if bitsOf new lsb width = 0 then withBits new lsb width 1 else new

/-- What a register stores of a write: R124, R155, and the Meaning columns of the registers that limit a field. -/
def storedWord (r : Reg) (old new : Nat) : Nat :=
  match r with
  | .jobBatchCfg =>
    let cap := bitsOf old 32 13
    if bitsOf old 45 1 = 0 then old
    else if bitsOf new 0 13 = 0 ∨ cap < bitsOf new 0 13 then withBits new 0 13 cap
    else new
  | .jobRerunCfg => withBits new 0 4 (min (bitsOf new 0 4) (bitsOf old 4 4))
  | .jobCfg => if bitsOf new 0 10 = 0 then keepField old new 0 10 else new
  | .memEccCfg => noZero (noZero new 0 16) 17 8
  | .stnEccCfg => noZero new 0 8
  | .brlMeshCfg => if bitsOf new 16 16 < 10 ∨ 10000 < bitsOf new 16 16 then keepField old new 16 16 else new
  | .queArb => noZero (noZero (noZero new 0 8) 8 8) 16 8
  | .flsCfg => if bitsOf new 0 14 < 50 ∨ 10000 < bitsOf new 0 14 then keepField old new 0 14 else new
  | .tmxObs => if 140 < bitsOf new 0 8 then withBits new 0 8 0 else new
  | _ => new

/-- What a write does beyond the register's own word: R308, R397, R563. -/
def State.writeEffects (s : State) (r : Reg) (i : Nat) (old value : Word64) : State :=
  match r with
  | .jobSlow => if value.getLsbD 63 then s.fset ⟨.jobSlowAlerts, i % 64, 1⟩ (i / 64) 0 else s
  | .memEccCfg => if value.getLsbD 25 then s.clearStackLog i else s
  | .stnEccCfg => if value.getLsbD 8 then s.clearStationLog i else s
  | .brlLineCtl =>
    let s1 : State :=
      if s.fbit F.brlLineCtlEnable i = old.getLsbD 0 then s
      else if s.fbit F.brlLineCtlEnable i then s.enableLine i
      else s.disableLine i
    if value.getLsbD 1 then s1.retrainLine i else s1
  | _ => s

/-- The written bits of a word take effect by their access codes: rw and, with the lock clear, rwl take the value; w1c
clears under ones; ro and rc keep; wo acts and reads 0. -/
def State.applyWrite (s : State) (r : RegRow) (i : Nat) (written value : Word64) : State :=
  let old := s.rget r.reg i
  let take := (r.bitsWith .rw ||| (if s.locked then 0 else r.bitsWith .rwl)) &&& written
  let new := ((old &&& ~~~take) ||| (value &&& take)) &&& ~~~(r.bitsWith .w1c &&& written &&& value)
  (s.rset r.reg i (BitVec.ofNat 64 (storedWord r.reg old.toNat new.toNat))).writeEffects r.reg i old (value &&& written)

/-- The word a write leaves of the old one and its written bits. -/
def merged (old written value : Word64) : Nat := ((old &&& ~~~written) ||| (value &&& written)).toNat

/-- QUE.ADMIN_CTL: ENABLE, which the lock governs, then RESET. -/
def State.adminWord (s : State) (value : Nat) : State :=
  let s1 := if s.locked then s else if value.testBit 0 then s.adminEnable else s.adminDisable
  if value.testBit 1 then s1.adminReset else s1

/-- A write of FLS.RAW_CTL: START is ignored while the lock is set, which is a refusal (R607, R608). -/
def State.rawWord (s : State) (value off : Nat) : State :=
  if !value.testBit 0 then s else if s.locked then s.refuseWrite off else s.rawStart

/-- What the write of a register of `ownRows` does, the lock's refusal of its rwl fields aside: the word's command acts. -/
def State.ownWrite (s : State) (r : Reg) (i off : Nat) (written value : Word64) : State :=
  let v := merged (s.rget r i) written value
  match r with
  | .jobCtl => if s.locked then s else s.jobCtlTake v (State.ctlRun v)
  | .jobSched => if s.locked then s else s.shareWrite (bitsOf v 0 7)
  | .stnCtrCtl => s.ctrDo i (v.testBit 0) (v.testBit 1)
  | .glbPrivLock => if v.testBit 0 then s.fset F.glbPrivLockLock 0 1 else s
  | .glbUnlockCtl => s.unlockTake (bitsOf v 8 3) (State.unlockAsk v)
  | .secKeyCtl => if s.locked then s else s.keyWord v
  | .flsRawCtl => s.rawWord v off
  | .glbEventCfg => if s.locked then s else s.setEventCfg v
  | .queAdminCtl => s.adminWord v
  | _ => s

/-- A write that reaches a register word: one that touches rwl fields while the lock is set is refused once, and its other
fields are written (R607, R608). -/
def State.landWrite (s : State) (r : RegRow) (i off : Nat) (written value : Word64) : State :=
  if s.unitFenced r off then s
  else
    let s1 := if s.locked ∧ r.bitsWith .rwl &&& written ≠ 0 then s.refuseWrite off else s
    if r.reg ∈ ownRows then s1.ownWrite r.reg i off written value else s1.applyWrite r i written value

/-- The halves of a word. -/
def lowHalf : Word64 := 0xFFFFFFFF
def highHalf : Word64 := 0xFFFFFFFF00000000

/-- A write to a register's word at a BAR0 offset (R602): 8 bytes at once; 4 bytes of a 64-bit register's low half are held,
and join the next write of its high half. -/
def State.regWrite (s : State) (r : RegRow) (i off size : Nat) (value : Word64) : State :=
  if r.bits = 32 then s.landWrite r i off lowHalf value
  else if size = 8 then s.landWrite r i off (BitVec.allOnes 64) value
  else if off % 8 = 0 then s.setHost { s.host with heldLow := some (off, (value &&& lowHalf).toNat) }
  else
    match s.host.heldLow with
    | some (o, low) =>
      if o + 4 = off then
        (s.setHost { s.host with heldLow := none }).landWrite r i off (BitVec.allOnes 64) (BitVec.ofNat 64 low ||| (value <<< 32))
      else s.landWrite r i off highHalf (value <<< 32)
    | none => s.landWrite r i off highHalf (value <<< 32)

/-- An access of a size or alignment that the views do not take (R601). -/
def badSize (off size : Nat) : Bool := (size != 4 && size != 8) || off % size != 0

/-- QUE.ADMIN_SQ_DB and QUE.ADMIN_CQ_DB, whose writes the lock does not govern. -/
def adminSqDb : Nat := 0x100018
def adminCqDb : Nat := 0x100020

/-- A write of a doorbell of Q0000; none at another offset. -/
def State.adminRing (s : State) (off : Nat) (value : Word64) : State :=
  if off = adminSqDb then s.ringSq 0 (value.toNat % 4096)
  else if off = adminCqDb then s.ringCq 0 (value.toNat % 131072)
  else s

/-- A write to the privileged view. -/
def State.privWrite (s : State) (off size : Nat) (value : Word64) : State :=
  if badSize off size then s.bump F.glbLockStatBadSize 0 1
  else
    match regAt off with
    | none => (s.dropHeld off).adminRing off value
    | some (r, i) => (s.dropHeld off).regWrite r i off size value

/-- The offsets of BAR2 whose writes are doorbells, and those of their reserved slots 0 and upper halves, which ignore them
(R428, R599). -/
def isDoorbell (off : Nat) : Bool := off < 0x2000 || (0x4000 ≤ off && off < 0x6000)

/-- A write to the user view (R428, R429, R600): a doorbell rings its queue; everything else is ignored and counted. -/
def State.userWrite (s : State) (off size : Nat) (value : Word64) : State :=
  let q := off % 0x4000 / 8
  if badSize off size then s.bump F.glbLockStatBadSize 0 1
  else if !isDoorbell off ∨ q = 0 ∨ off % 8 ≠ 0 then s.bump F.glbLockStatUserWrites 0 1
  else if off < 0x4000 then s.ringSq q (value.toNat % 4096)
  else s.ringCq q (value.toNat % 131072)

/-- A write to the MSI-X table in BAR4 (R424): a vector unmasked while pending is sent (R436; log entry 5). -/
def State.msixWrite (s : State) (off size : Nat) (value : Word64) : State :=
  if badSize off size ∨ 0x8000 ≤ off then s
  else
    let n := off / 16
    let w := withBits (s.msixEntry n) (8 * (off % 16)) (8 * size) value.toNat % 2 ^ 97
    let s1 := s.setHost { s.host with msixTable := Tbl.put (2 ^ 96) s.host.msixTable n w }
    if w.testBit 96 ∨ n ∉ s1.host.msixPending then s1
    else (s1.setHost { s1.host with msixPending := s1.host.msixPending.erase n }).raiseMsix n

/-- REGISTER_WRITE (R12, R600 to R603): `bar` 0 is BAR0, 1 is BAR2 and 2 is BAR4. -/
def execRegisterWrite (bar : Fin 3) (offset size : Nat) (value : Word64) (s : State) : Host.Outcome State Fault Refusal :=
  .next (
    if !s.hears then s
    else if bar = 0 then s.privWrite offset size value
    else if bar = 1 then s.userWrite offset size value
    else s.msixWrite offset size value)

/-! ## Reads that change state -/

/-- What a register word reads: wo bits and reserved bits are 0 in the file already (R12, R13). -/
def State.answer (s : State) (v : Nat) : State := s.send (.regAnswer v)

/-- A 32-bit read of one half of a word (R97): the low half latches the high half, and the next read of the high half
returns the latch. -/
def State.halfRead (s : State) (key word : Nat) (high : Bool) : State :=
  if high then
    match Tbl.look none s.host.latches key with
    | some v => (s.setHost { s.host with latches := Tbl.put none s.host.latches key none }).answer v
    | none => s.answer (word / 2 ^ 32)
  else (s.setHost { s.host with latches := Tbl.put none s.host.latches key (some (word / 2 ^ 32)) }).answer (word % 2 ^ 32)

/-- COUNTER_LOW_HALF_READ (R97): a 32-bit read of a 64-bit register; at the high half it is the read that the latch serves. A
read off a word's boundary or at an unassigned offset returns 0 (R223, R601, R603). -/
def execCounterLowHalfRead (offset : Nat) (s : State) : Host.Outcome State Fault Refusal :=
  .next (
    if !s.hears then s
    else if badSize offset 4 then (s.bump F.glbLockStatBadSize 0 1).answer 0
    else
      match regAt offset with
      | none => if offset = adminSqDb ∨ offset = adminCqDb then s else s.answer 0
      | some (r, i) => if r.bits = 64 then s.halfRead (offset / 8 * 8) (s.rget r.reg i).toNat (offset % 8 = 4) else s)

/-- CLEAR_ON_READ (R15): the word is returned, and its rc fields are cleared. -/
def execClearOnRead (offset : Nat) (s : State) : Host.Outcome State Fault Refusal :=
  .next (
    if !s.hears ∨ offset % 4 ≠ 0 then s
    else
      match regAt offset with
      | none => s
      | some (r, i) =>
        if r.bitsWith .rc = 0 then s
        else (s.rset r.reg i (s.rget r.reg i &&& ~~~(r.bitsWith .rc))).answer (s.rget r.reg i).toNat)

/-- The reader's underrun is counted on its island (R208). -/
def State.underrun (s : State) (island : Nat) : State := s.bump F.glbIslandInfoUnderruns island 1

/-- The value of a mirror word, with UNDERRUN (R605, R606). -/
def State.mirrorWord (s : State) (off ub : Nat) : Nat :=
  withBits (Tbl.look 0 s.security.mirrors off) ub 1 (bit (!s.security.fresh.contains off))

/-- A read of a mirror word consumes its push; a read with no new push is an underrun of the mirror logic. -/
def State.consume (s : State) (off : Nat) : State :=
  if s.security.fresh.contains off then
    s.setSecurity { s.security with fresh := s.security.fresh.filter (· != off) }
  else s.underrun 140

/-- A read of the user view at anything but a doorbell; unassigned offsets read 0. -/
def State.userRead (s : State) (off size : Nat) : State :=
  if badSize off size then (s.bump F.glbLockStatBadSize 0 1).answer 0
  else
    let word := off / 8 * 8
    match mirrorSource word with
    | none => s.answer 0
    | some (_, _, ub) =>
      let v := s.mirrorWord word ub
      if size = 8 then (s.consume word).answer v
      else if off % 8 = 0 then (s.consume word).halfRead (2 ^ 32 + word) v false
      else if (Tbl.look none s.host.latches (2 ^ 32 + word)).isSome then s.halfRead (2 ^ 32 + word) v true
      else (s.consume word).halfRead (2 ^ 32 + word) v true

/-- The word of a doorbell of the user view: the last tail accepted and the next entry to be taken, or the last head accepted; slot 0
and the upper half of a slot read 0 (R428). -/
def State.doorbellWord (s : State) (off : Nat) : Nat :=
  let q := off % 0x4000 / 8
  if q = 0 ∨ off % 8 ≠ 0 then 0
  else if off < 0x4000 then s.fget F.queQStateTail q + 2 ^ 16 * s.fget F.queQStateHead q
  else s.fget F.queCqStateCqHead q

/-- MIRROR_READ (R428, R600, R601, R606): a read of the user view. -/
def execMirrorRead (offset size : Nat) (s : State) : Host.Outcome State Fault Refusal :=
  .next (
    if !s.hears then s
    else if isDoorbell offset ∧ !badSize offset size then s.answer (s.doorbellWord offset)
    else s.userRead offset size)

/-- The pins that have pushed since the last read give the values they have; with none, the read repeats the last and is an
underrun (R208, R627). -/
def State.samplePins (s : State) (pushed : List (Fin 32)) : State :=
  let s1 := pushed.foldl (fun (s : State) n => s.fset ⟨.tmxSample, n.val, 1⟩ 0 (bit (s.host.tmo[n.val]?.getD false))) s
  (if pushed = [] then s1.underrun 17 else s1).fset F.tmxSampleUnderrun 0 (bit pushed.isEmpty)

/-- TMX_SAMPLE_READ (R208): `pushed` is which pins have pushed since the last read. -/
def execTmxSampleRead (pushed : List (Fin 32)) (s : State) : Host.Outcome State Fault Refusal :=
  .next (if !s.hears then s else (let s1 := s.samplePins pushed; s1.answer (s1.rget .tmxSample 0).toNat))

/-- A write of STN.CTR_CTL; writes to a fenced station are ignored (R603). -/
def State.ctrCtl (s : State) (st : Nat) (snap clear : Bool) : State :=
  s.openWrite (0x800F00 + 0x10000 * st) fun s => if s.fbit F.stnStateFenced st then s else s.ctrDo st snap clear

/-- COUNTER_SNAPSHOT (R98): a write of SNAP, with CLEAR as the command says. -/
def execCounterSnapshot (w : CtrCtlWrite) (s : State) : Host.Outcome State Fault Refusal :=
  .next (s.ctrCtl w.station.val true w.both)

/-- COUNTER_CLEAR (R98): a write of CLEAR, with SNAP as the command says. -/
def execCounterClear (w : CtrCtlWrite) (s : State) : Host.Outcome State Fault Refusal :=
  .next (s.ctrCtl w.station.val w.both true)

/-! ## Pushes (R606) -/

/-- MIRROR_PUSH_STATION (R606). -/
def execMirrorPushStation (st : StationId) (s : State) : Host.Outcome State Fault Refusal := .next (s.pushStation st.val)

/-- The die whose signal box keeps a job's registers: its home die, D0's while it is FREE (R654). -/
def State.ownerDie (s : State) (j : Nat) : Nat := if s.fget F.jobStateState j = 0 then 0 else s.fget F.jobStateHomeDie j

/-- MIRROR_PUSH_JOB (R606). -/
def execMirrorPushJob (d : DieId) (s : State) : Host.Outcome State Fault Refusal :=
  .next ((List.range 256).foldl (fun (s : State) j => if s.ownerDie j = d.val then s.pushJob j else s) s)

end Sys2Proof.Machine
end

