-- ==== Sys2Proof/Machine/Port.lean ====
section
/-! DEFINITION. The CXL port: its link, its reset pin, configuration requests and CXL.mem (R422 to R427, R277, R278, R460,
R634, R635). -/

namespace Sys2Proof.Machine

/-! ## The link (R422, R460, R634, R635) -/

/-- A width and a rate the port trains at (R422). -/
def linkOk (width rate : Nat) : Bool := (width = 16 || width = 8) && (rate = 128 || rate = 64 || rate = 32)

/-- The port can train: the CXL-port island runs, power-up goes on, and PERST# is high (R567, R634). -/
def State.mayLink (s : State) : Bool := s.poweringUp && s.power.started.contains 140 && s.host.perst && s.host.link.isNone

/-- The link is up: the vectors that could not be sent meanwhile are raised (R436). -/
def State.linkUp (s : State) (width rate : Nat) : State :=
  let s1 := s.setHost { s.host with link := some (width, rate), msixPending := [] }
  s.host.msixPending.foldl (fun (s : State) v => s.raiseMsix v) s1

/-- LINK_TRAINED (R422). -/
def execLinkTrained (width rate : Nat) (s : State) : Host.Outcome State Fault Refusal :=
  .next (if s.mayLink ∧ linkOk width rate then s.linkUp width rate else s)

/-- LINK_DOWN (R460). -/
def execLinkDown (s : State) : Host.Outcome State Fault Refusal := .next (if s.hears then s.linkLost else s)

/-- HOT_RESET (R460): as the link going down; the link trains again afterwards. -/
def execHotReset (s : State) : Host.Outcome State Fault Refusal := .next (if s.hears then s.linkLost else s)

/-- PERST# is driven low: link down for the port (R634). -/
def State.perstLow (s : State) : State := s.setHost { s.host with perst := false }

/-- PERST_ASSERT (R634). -/
def execPerstAssert (s : State) : Host.Outcome State Fault Refusal :=
  .next (if s.hears then s.linkLost.perstLow else s.perstLow)

/-- PERST_DEASSERT (R635): the clocking mode is taken at the rise. -/
def execPerstDeassert (refclk : Bool) (s : State) : Host.Outcome State Fault Refusal :=
  .next (if s.host.perst then s else s.setHost { s.host with perst := true, commonClock := refclk })

/-! ## Configuration requests -/

/-- The bytes of the HDM range: the queue window and the host window (R277). -/
def State.hdmBytes (s : State) : Nat := 2 ^ 28 + 2 ^ 30 * s.fget F.depHostwinSizeGib 0

/-- The low word of the DVSEC's range size: the size in 256 MiB, Memory_Active_Timeout as 4 s, Memory_Active, and that the word is
valid; its other fields are free (R276, R567; the layout is CXL's: PRESUMED, log entry 47). -/
def State.rangeLow (s : State) (free : Nat) : Nat :=
  s.hdmBytes / 2 ^ 28 % 16 * 2 ^ 28 + 2 ^ 13 + free % 2 ^ 11 * 4 + 2 * bit s.host.memoryActive + 1

/-- The double word of configuration space at an offset: the identity of R421 where PCIe places it, and the DVSEC range size in force
(R276; log entry 47), else free. -/
def State.configWord (s : State) (o : Nat) : Nat × State :=
  if o = 0x00 then (0x2A5E + 0x6420 * 2 ^ 16, s)
  else if o = 0x08 then (s.fget F.glbIdStepping 0 + 0x050210 * 2 ^ 8, s)
  else if o = 0x2C then (0x2A5E + 0x6420 * 2 ^ 16, s)
  else if o = Config.dvsecAt + 0x18 then (s.hdmBytes / 2 ^ 32, s)
  else if o = Config.dvsecAt + 0x1C then (s.rangeLow s.drawNat.1, s.drawNat.2)
  else (s.drawNat.1 % 2 ^ 32, s.drawNat.2)

/-- A configuration request of a double word at an offset, once it is answered in full. -/
def State.configFull (s : State) (o : Nat) : State := (s.configWord o).2.send (.configAnswer (s.configWord o).1)

/-- CONFIG_REQUEST (R421, R424): a read at `ms` after supplies valid. -/
def execConfigRequest (ms offset : Nat) (s : State) : Host.Outcome State Fault Refusal :=
  .next (if !s.hears then s else if ms < 60 then s.send .configRetry else s.configFull (offset / 4 * 4))

/-- HDM_DECODER_COMMIT (R425): the base lies on the decoder's granule of 256 MiB. -/
def execHdmDecoderCommit (base : Nat) (s : State) : Host.Outcome State Fault Refusal :=
  .next (if s.hears then s.setHost { s.host with hdmBase := some (base / 2 ^ 28 * 2 ^ 28) } else s)

/-- GLOBAL_PERSISTENT_FLUSH (R423). -/
def execGlobalPersistentFlush (s : State) : Host.Outcome State Fault Refusal := .next (if s.hears then s.send .gpfAck else s)

/-! ## CXL.mem (R277, R278, R425, R426) -/

/-- The offset of a host address in the HDM range; none outside it, or with no decoder committed. -/
def State.hdmOffset (s : State) (addr : Nat) : Option Nat :=
  match s.host.hdmBase with
  | none => none
  | some b => if b ≤ addr ∧ addr < b + s.hdmBytes then some (addr - b) else none

/-- An access that reaches the port runs at its offset; one outside the decoder's range never reaches it. -/
def State.atHdm (s : State) (addr : Nat) (run : Nat → State) : Host.Outcome State Fault Refusal :=
  if !s.hears then .next s
  else
    match s.hdmOffset addr with
    | none => .fault .outsideHdm
    | some x => .next (run x)

/-- The host window answers in service alone (R569, R595). -/
def State.memServed (s : State) : Bool := s.host.memoryActive

/-- The queue window takes entries in service, and for the FW_STAGE of a module that found no firmware (R569, R570). -/
def State.windowServed (s : State) : Bool := s.host.memoryActive || s.fget F.pwrBootPhase 0 = 7

/-- The scratch address of an HDM offset of 256 MiB or more (R277). -/
def hdmScratch (x : Nat) : Nat := scratchBase + (x - 2 ^ 28)

/-- A load of the host window: 64 B, or poison (R278, R246). -/
def State.hostLoad (s : State) (x : Nat) : State :=
  let a := hdmScratch (x / 64 * 64)
  if !s.memServed ∨ s.readStatus a 64 ≠ 0 then s.send (.loadAnswer [] true) else s.send (.loadAnswer (s.depotRead a 64) false)

/-- CXL_MEM_LOAD (R278). -/
def execCxlMemLoad (addr : Nat) (s : State) : Host.Outcome State Fault Refusal :=
  s.atHdm addr fun x => if x < 2 ^ 28 then s else s.hostLoad x

/-- A store to the host window: a content write, answered once it is made; one that the home stack cannot run now waits for its turn,
which answers it (R265, R268). Before service it is dropped (R278, R569). -/
def State.hostStore (s : State) (x : Nat) (data : List Byte) : State :=
  let a := hdmScratch (x / 64 * 64)
  let bs := data.take 64
  if !s.memServed then s.send .storeDone
  else
    let t := s.pageStore none true (pageOf a) a bs
    if (s.tierLookup (pageOf a)).pageBusy (pageOf a) then t else t.send .storeDone

/-- CXL_MEM_STORE (R278). -/
def execCxlMemStore (addr : Nat) (data : List Byte) (s : State) : Host.Outcome State Fault Refusal :=
  s.atHdm addr fun x => if x < 2 ^ 28 then s else s.hostStore x data

/-- A store into the queue window: its bytes land, and the words it covers whole are readable again (R426). -/
def State.windowStore (s : State) (x : Nat) (data : List Byte) : State :=
  let bs := data.take (64 - x % 64)
  if s.windowServed then
    (s.setHost { s.host with
      window := s.host.window.write x bs
      windowBad := s.host.windowBad.filter (fun w => !(x ≤ 8 * w && 8 * w + 8 ≤ x + bs.length)) }).send .storeDone
  else s.send .storeDone

/-- QUEUE_WINDOW_STORE (R426). -/
def execQueueWindowStore (addr : Nat) (data : List Byte) (s : State) : Host.Outcome State Fault Refusal :=
  s.atHdm addr fun x => if x < 2 ^ 28 then s.windowStore x data else s

/-- A load of the queue window: the stored bytes, or poison (R426). -/
def State.windowLoad (s : State) (x : Nat) : State :=
  let a := x / 64 * 64
  if !s.windowServed ∨ s.host.windowBad.any (fun w => a / 8 ≤ w && w < a / 8 + 8) then s.send (.loadAnswer [] true)
  else s.send (.loadAnswer (s.host.window.read a 64) false)

/-- QUEUE_WINDOW_LOAD (R426). -/
def execQueueWindowLoad (addr : Nat) (s : State) : Host.Outcome State Fault Refusal :=
  s.atHdm addr fun x => if x < 2 ^ 28 then s.windowLoad x else s

end Sys2Proof.Machine
end

