-- ==== Sys2Proof/Machine/Attest.lean ====
section
/-! DEFINITION. The DOE mailbox (R619): discovery, the CDAT (R423) and the SPDM responder (R612, R613, R620 to R622). The
manual gives what is answered; where its bytes stand is PRESUMED from the standards it names (log entry 48). -/

namespace Sys2Proof.Machine

/-! ## The mailbox (R619) -/

/-- A data object: vendor, type, its length in double words, and its body filled up to whole double words. -/
def doeObject (vendor type : Nat) (body : List Byte) : List Byte :=
  leBytes 2 vendor ++ leBytes 1 type ++ leBytes 1 0 ++ leBytes 4 (2 + ceilDiv body.length 4) ++ padTo (4 * ceilDiv body.length 4) body

/-- An object is put into the mailbox's answer. -/
def State.doe (s : State) (vendor type : Nat) (body : List Byte) : State := s.send (.doe (doeObject vendor type body))

/-- The protocols of R619 in index order: DOE Discovery, CMA/SPDM, CXL Table Access, as (vendor, type). -/
def doeProtocols : List (Nat × Nat) := [(0x0001, 0), (0x0001, 1), (0x1E98, 2)]

/-- The answer to a discovery of an index; beyond the last there is none. -/
def discoveryBody (i : Nat) : List Byte :=
  match doeProtocols[i]? with
  | some (v, t) => leBytes 2 v ++ leBytes 1 t ++ leBytes 1 ((i + 1) % 3)
  | none => leBytes 2 0xFFFF ++ leBytes 1 0 ++ leBytes 1 0

/-- DOE_DISCOVERY (R619). -/
def execDoeDiscovery (index : Nat) (s : State) : Host.Outcome State Fault Refusal :=
  .next (if s.hears then s.doe 0x0001 0 (discoveryBody index) else s)

/-- DOE_OVERSIZE_REQUEST (R619). -/
def execDoeOversizeRequest (length : Nat) (s : State) : Host.Outcome State Fault Refusal :=
  .next (
    if s.hears ∧ 65536 < length then (s.setSecurity { s.security with doeError := true }).send .doeError else s)

/-! ## The CDAT (R423) -/

/-- The DSMAS entry of the HDM range. -/
def State.dsmas (s : State) : List Byte :=
  leBytes 1 0 ++ leBytes 1 0 ++ leBytes 2 24 ++ leBytes 4 0 ++ leBytes 8 0 ++ leBytes 8 s.hdmBytes

/-- A DSLBIS entry: data type, base unit and value. -/
def dslbis (kind unit value : Nat) : List Byte :=
  leBytes 1 1 ++ leBytes 1 0 ++ leBytes 2 24 ++ leBytes 1 0 ++ leBytes 1 0 ++ leBytes 1 kind ++ leBytes 1 0 ++ leBytes 8 unit ++
    leBytes 2 value ++ leBytes 2 0 ++ leBytes 2 0 ++ leBytes 2 0

/-- The raw rate of the trained link, in GB/s. -/
def State.linkRate (s : State) : Nat :=
  match s.host.link with
  | some (w, r) => w * r / 8
  | none => 0

/-- The entries after the header: read and write latency of 180 ns, in units of 1,000 ps, and bandwidth in units of 1,000
MB/s. -/
def State.cdatEntries (s : State) : List (List Byte) :=
  [s.dsmas, dslbis 1 1000 180, dslbis 2 1000 180, dslbis 4 1000 s.linkRate, dslbis 5 1000 s.linkRate]

/-- The header, whose checksum makes the table's bytes add up to 0. -/
def cdatHeader (entries : List (List Byte)) : List Byte :=
  let h := fun c : Nat => leBytes 4 (16 + entries.flatten.length) ++ leBytes 1 1 ++ leBytes 1 c ++ zeros 6 ++ leBytes 4 0
  let sum := (((h 0) ++ entries.flatten).map BitVec.toNat).sum
  h ((256 - sum % 256) % 256)

/-- The table, entry by entry. -/
def State.cdat (s : State) : List (List Byte) := cdatHeader s.cdatEntries :: s.cdatEntries

/-- The answer to a read of an entry: the handle of the next, 0xFFFF after the last, and the entry. -/
def State.cdatBody (s : State) (h : Nat) : List Byte :=
  let next := if h + 1 < s.cdat.length then h + 1 else 0xFFFF
  leBytes 1 0 ++ leBytes 1 0 ++ leBytes 2 next ++ s.cdat.getD h []

/-- CDAT_READ (R423). -/
def execCdatRead (handle : Nat) (s : State) : Host.Outcome State Fault Refusal :=
  .next (if s.hears then s.doe 0x1E98 2 (s.cdatBody handle) else s)

/-! ## The SPDM responder (R620) -/

/-- D0's active core answers SPDM: its firmware runs and a core of D0 works. -/
def State.answersSpdm (s : State) : Bool :=
  s.hears && 1 ≤ s.fget F.pwrBootPhase 0 && s.fget F.pwrBootPhase 0 ≤ 6 && Tbl.look 0 s.power.coresDown 0 < 2

def State.spdm (s : State) : Spdm := s.security.spdm
def State.setSpdm (s : State) (x : Spdm) : State := s.setSecurity { s.security with spdm := x }

/-- A message: version, code, two parameters and the body. -/
def spdmMsg (version code p1 p2 : Nat) (body : List Byte) : List Byte :=
  leBytes 1 version ++ leBytes 1 code ++ leBytes 1 p1 ++ leBytes 1 p2 ++ body

/-- An ERROR response; before a version is chosen it carries 1.0. -/
def State.spdmError (s : State) (code data : Nat) (ext : List Byte) : State :=
  s.doe 0x0001 1 (spdmMsg (if s.spdm.version = 0 then 0x10 else s.spdm.version) 0x7F code data ext)

/-- What a request's checks find: the error code, none where it may be answered. `need` is the stage it needs. -/
def State.spdmWrong (s : State) (code need len : Nat) (req : List Byte) : Option Nat :=
  if byteField req 1 1 ≠ code ∨ req.length < len then some 0x01
  else if s.spdm.stage < need then some 0x04
  else if need ≠ 1 ∧ byteField req 0 1 ≠ s.spdm.version then some 0x41
  else none

/-- A response goes out whole, or as a large response in chunks when it is above the requester's transfer size. -/
def State.spdmSend (s : State) (resp : List Byte) : State :=
  if resp.length ≤ s.spdm.transfer then s.doe 0x0001 1 resp
  else
    let h := s.spdm.handle
    (s.setSpdm { s.spdm with large := some (resp, h, 0, 0), handle := (h + 1) % 256 }).spdmError 0x0F 0 (leBytes 1 h)

/-- A request of the responder: checked, then answered. -/
def State.spdmRequest (s : State) (code need len : Nat) (req : List Byte) (run : State → State) : State :=
  if !s.answersSpdm then s
  else
    match s.spdmWrong code need len req with
    | some e => s.spdmError e 0 []
    | none => run s

/-- A request that is not about measurements ends their log. -/
def Spdm.noMeas (x : Spdm) : Spdm := { x with measLog := [] }

/-- The connection starts anew with the versions 1.2 and 1.3. -/
def State.spdmVersion (req : List Byte) (s : State) : State :=
  let resp := spdmMsg 0x10 0x04 0 0 (leBytes 1 0 ++ leBytes 1 2 ++ leBytes 2 0x1200 ++ leBytes 2 0x1300)
  (s.setSpdm { stage := 1, vca := req.take 4 ++ resp, handle := s.spdm.handle }).doe 0x0001 1 resp

/-- GET_VERSION (R620). -/
def execGetVersion (request : List Byte) (s : State) : Host.Outcome State Fault Refusal :=
  .next (
    if !s.answersSpdm then s
    else if byteField request 1 1 = 0x84 ∧ 4 ≤ request.length then s.spdmVersion request
    else s.spdmError 0x01 0 [])

/-- CERT_CAP, CHAL_CAP, MEAS_CAP with signatures, and CHUNK_CAP. -/
def capFlags : Nat := 2 ^ 1 + 2 ^ 2 + 2 * 2 ^ 3 + 2 ^ 17

/-- The capabilities: CTExponent 14, DataTransferSize 4,096 and MaxSPDMmsgSize 65,536. -/
def State.spdmCapabilities (req : List Byte) (s : State) : State :=
  let v := byteField req 0 1
  if v ≠ 0x12 ∧ v ≠ 0x13 then s.spdmError 0x41 0 []
  else
    let resp := spdmMsg v 0x61 0 0 (leBytes 1 0 ++ leBytes 1 14 ++ leBytes 2 0 ++ leBytes 4 capFlags ++ leBytes 4 4096 ++ leBytes 4 65536)
    (s.setSpdm { s.spdm.noMeas with
      stage := 2
      version := v
      transfer := min 4096 (byteField req 12 4)
      vca := s.spdm.vca ++ req.take 20 ++ resp }).doe 0x0001 1 resp

/-- GET_CAPABILITIES (R620). -/
def execGetCapabilities (request : List Byte) (s : State) : Host.Outcome State Fault Refusal :=
  .next (s.spdmRequest 0xE1 1 20 request (State.spdmCapabilities request))

/-- The algorithms: DMTF measurements as raw bit streams, Ed448 and SHA3-512, where the request offers them. -/
def State.spdmAlgorithms (req : List Byte) (s : State) : State :=
  let asym := byteField req 8 4 &&& 0x800
  let hash := byteField req 12 4 &&& 0x20
  let resp := spdmMsg s.spdm.version 0x63 0 0 (leBytes 2 36 ++ leBytes 1 (byteField req 6 1 &&& 1) ++ leBytes 1 0 ++ leBytes 4 1 ++
    leBytes 4 asym ++ leBytes 4 hash ++ zeros 16)
  (s.setSpdm { s.spdm.noMeas with stage := 3, vca := s.spdm.vca ++ req.take (byteField req 4 2) ++ resp }).doe 0x0001 1 resp

/-- NEGOTIATE_ALGORITHMS (R620). -/
def execNegotiateAlgorithms (request : List Byte) (s : State) : Host.Outcome State Fault Refusal :=
  .next (s.spdmRequest 0xE3 2 32 request (State.spdmAlgorithms request))

/-- The digest of the slot 0 chain. -/
def chainDigest : List Byte := sha3_512 Config.certChain

/-- A certificate message is added to the connection's log. -/
def State.spdmLogged (s : State) (req resp : List Byte) : State :=
  s.setSpdm { s.spdm.noMeas with certLog := s.spdm.certLog ++ req ++ resp }

/-- The digests: slot 0 alone. -/
def State.spdmDigests (req : List Byte) (s : State) : State :=
  let resp := spdmMsg s.spdm.version 0x01 (if s.spdm.version = 0x13 then 1 else 0) 1 chainDigest
  (s.spdmLogged (req.take 4) resp).spdmSend resp

/-- GET_DIGESTS (R620). -/
def execGetDigests (request : List Byte) (s : State) : Host.Outcome State Fault Refusal :=
  .next (s.spdmRequest 0x81 3 4 request (State.spdmDigests request))

/-- A portion of the slot 0 chain. -/
def State.spdmCertificate (req : List Byte) (s : State) : State :=
  let off := byteField req 4 2
  let part := (Config.certChain.drop off).take (byteField req 6 2)
  if byteField req 2 1 % 16 ≠ 0 ∨ Config.certChain.length ≤ off then s.spdmError 0x01 0 []
  else
    let left := Config.certChain.length - off - part.length
    let resp := spdmMsg s.spdm.version 0x02 0 0 (leBytes 2 part.length ++ leBytes 2 left ++ part)
    (s.spdmLogged (req.take 8) resp).spdmSend resp

/-- GET_CERTIFICATE (R613). -/
def execGetCertificate (request : List Byte) (s : State) : Host.Outcome State Fault Refusal :=
  .next (s.spdmRequest 0x82 3 8 request (State.spdmCertificate request))

/-! ## Measurements (R621, R622) -/

/-- DMTFSpecMeasurementValueType of an index (R621): bit 7 is set. -/
def measType (i : Nat) : Nat := 0x80 + (if i = 1 then 0 else if i ≤ 3 then 1 else if i ≤ 5 then 2 else 3)

/-- A measurement block: the value as SEC.MEAS shows it, which keeps what stood before a recomputation in progress. -/
def State.measBlock (s : State) (i : Nat) : List Byte :=
  leBytes 1 i ++ leBytes 1 1 ++ leBytes 2 67 ++ leBytes 1 (measType i) ++ leBytes 2 64 ++ s.rgetBytes .secMeas (8 * i) 8

/-- The blocks that an operation asks for: all 72, one, or none. -/
def measAsked (op : Nat) : List Nat := if op = 0xFF then measured else if op ∈ measured then [op] else []

/-- The context strings of a signature, padded as SPDM 1.2 combines them, with the version's prefix. -/
def signPrefix (version : Nat) (context : String) : List Byte :=
  let text := fun t : String => t.toList.map (fun c => BitVec.ofNat 8 c.toNat)
  let one := text (if version = 0x13 then "dmtf-spdm-v1.3.*" else "dmtf-spdm-v1.2.*")
  one ++ one ++ one ++ one ++ zeros (36 - context.length) ++ text context

/-- The signature over a transcript (R612, R620). -/
def State.spdmSign (s : State) (context : String) (transcript : List Byte) : List Byte :=
  Config.identitySign (signPrefix s.spdm.version context ++ sha3_512 transcript)

/-- The bytes a version 1.3 request carries as its requester's context, from an offset; 1.2 has none. -/
def State.spdmContext (s : State) (req : List Byte) (off : Nat) : List Byte :=
  if s.spdm.version = 0x13 then padTo 8 ((req.drop off).take 8) else []

/-- The summary hash a CHALLENGE asks for: of no block, of the trusted base, whose blocks the manual does not name (`free`),
or of all. -/
def State.summaryHash (s : State) (kind : Nat) (free : List Byte) : List Byte :=
  if kind = 0 then [] else if kind = 1 then free else sha3_512 (measured.flatMap s.measBlock)

/-- The answer to a challenge, signed over the connection's messages. -/
def State.spdmChallenge (req : List Byte) (s : State) : State :=
  if byteField req 2 1 % 16 ≠ 0 then s.spdmError 0x01 0 []
  else
    let d := s.drawBytes 96
    let s1 := d.2
    let r := req.take (if s.spdm.version = 0x13 then 44 else 36)
    let open_ := spdmMsg s.spdm.version 0x03 0 1 (chainDigest ++ d.1.take 32 ++ s.summaryHash (byteField req 3 1) (d.1.drop 32) ++ leBytes 2 0 ++
      s.spdmContext req 36)
    let resp := open_ ++ s1.spdmSign "responder-challenge_auth signing" (s.spdm.vca ++ s.spdm.certLog ++ r ++ open_)
    (s1.setSpdm { s1.spdm.noMeas with certLog := [] }).spdmSend resp

/-- CHALLENGE (R620). -/
def execChallenge (request : List Byte) (s : State) : Host.Outcome State Fault Refusal :=
  .next (s.spdmRequest 0x83 3 36 request (State.spdmChallenge request))

/-- The answer to GET_MEASUREMENTS: the values of this moment, signed where that is asked for. -/
def State.spdmMeasurements (req : List Byte) (s : State) : State :=
  let signs : Bool := byteField req 2 1 % 2 = 1
  let op := byteField req 3 1
  let blocks := (measAsked op).flatMap s.measBlock
  let d := s.drawBytes 32
  let s1 := d.2
  let from_ := if signs then 37 else 4
  let r := req.take (from_ + (if s.spdm.version = 0x13 then 8 else 0))
  let open_ := spdmMsg s.spdm.version 0x60 (if op = 0 then measured.length else 0) 0 (leBytes 1 (measAsked op).length ++
    leBytes 3 blocks.length ++ blocks ++ d.1 ++ leBytes 2 0 ++ s.spdmContext req from_)
  let log := s.spdm.measLog ++ r ++ open_
  if signs then
    (s1.setSpdm { s1.spdm with measLog := [] }).spdmSend
      (open_ ++ s1.spdmSign "responder-measurements signing" (s.spdm.vca ++ log))
  else (s1.setSpdm { s1.spdm with measLog := log }).spdmSend open_

/-- GET_MEASUREMENTS (R622). -/
def execGetMeasurements (request : List Byte) (s : State) : Host.Outcome State Fault Refusal :=
  .next (s.spdmRequest 0xE0 3 (if byteField request 2 1 % 2 = 1 then 37 else 4) request (State.spdmMeasurements request))

/-! ## Chunks (R620) -/

/-- A chunk of a large response: what fits the transfer size beside the header, and with the first the response's size. -/
def State.spdmChunk (req : List Byte) (s : State) : State :=
  match s.spdm.large with
  | none => s.spdmError 0x04 0 []
  | some (resp, h, sent, seq) =>
    if byteField req 3 1 ≠ h ∨ byteField req 4 2 ≠ seq then (s.setSpdm { s.spdm with large := none }).spdmError 0x01 0 []
    else
      let room := s.spdm.transfer - (if seq = 0 then 16 else 12)
      let part := (resp.drop sent).take room
      let last : Bool := resp.length ≤ sent + part.length
      let size := if seq = 0 then leBytes 4 resp.length else []
      let out := spdmMsg s.spdm.version 0x06 (bit last) h (leBytes 2 seq ++ leBytes 2 0 ++ leBytes 4 part.length ++ size ++ part)
      (s.setSpdm { s.spdm with large := if last then none else some (resp, h, sent + part.length, seq + 1) }).doe 0x0001 1 out

/-- CHUNK_GET (R620). -/
def execChunkGet (request : List Byte) (s : State) : Host.Outcome State Fault Refusal :=
  .next (s.spdmRequest 0x86 3 6 request (State.spdmChunk request))

end Sys2Proof.Machine
end

