-- ==== Sys2Proof/Machine/Sideband.lean ====
section
/-! DEFINITION. The sideband: the SMBus record (R637) and the boundary-scan chain (R648, R649). -/

namespace Sys2Proof.Machine

/-! ## SMBus (R637) -/

/-- A string of the hold-up bank has failed. -/
def State.stringFailed (s : State) : Bool := (List.range 6).any (fun n => s.fbit F.pwrStringFailed n)

/-- The largest PWR.TEMP.NOW of the four dies, as its 16 bits. -/
def State.dieMax (s : State) : Nat :=
  let t := fun d : Nat => signed 16 (s.fget F.pwrTempNow d)
  unsigned 16 (max (max (t 0) (t 1)) (max (t 2) (t 3)))

/-- FLAGS of the record. -/
def State.healthFlags (s : State) : Nat :=
  s.fget F.flsHealthExhausted 0 + 2 * s.fget F.flsHealthDegraded 0 + 4 * bit s.stringFailed

/-- The identity and health record, 32 bytes. -/
def State.healthRecord (s : State) : List Byte :=
  leBytes 2 0x6420 ++ leBytes 1 (s.fget F.glbIdStepping 0) ++ leBytes 1 (s.fget F.pwrBootPhase 0) ++
    leBytes 8 (s.rget .brlSerial 0).toNat ++ leBytes 2 (s.fget F.pwrInputInputDw 0) ++ leBytes 2 (s.fget F.pwrCoolantInlet 0) ++
    leBytes 2 s.dieMax ++ leBytes 1 (s.fget F.flsHealthLife 0) ++ leBytes 1 s.healthFlags ++ zeros 12

/-- An SMBus access at `ms` after supplies valid: not acknowledged before 60 ms, or without supplies. -/
def State.smbusAt (s : State) (ms : Nat) (run : State) : State :=
  if s.power.supply = .valid ∧ 60 ≤ ms then run else s.send .smbusNack

/-- SMBUS_OFFSET_WRITE (R637). -/
def execSmbusOffsetWrite (ms offset : Nat) (s : State) : Host.Outcome State Fault Refusal :=
  .next (s.smbusAt ms (s.setSecurity { s.security with smbus := offset % 256 }))

/-- `n` bytes of the record from the offset, which moves on with them. -/
def State.smbusBytes (s : State) (n : Nat) : State :=
  let o := s.security.smbus
  (s.setSecurity { s.security with smbus := (o + n) % 256 }).send
    (.smbus ((List.range n).map (fun i => s.healthRecord.getD ((o + i) % 256) 0)))

/-- SMBUS_READ (R637). -/
def execSmbusRead (ms n : Nat) (s : State) : Host.Outcome State Fault Refusal := .next (s.smbusAt ms (s.smbusBytes n))

/-! ## Boundary scan (R648, R649) -/

def State.tap (s : State) (d : Nat) : Tap := Tbl.look { } s.security.taps d
def State.setTap (s : State) (d : Nat) (x : Tap) : State :=
  s.setSecurity { s.security with taps := Tbl.put { } s.security.taps d x }

/-- Bits are shifted through a data register that holds `cells` and stays `cells.length` long: what comes out first, and what
stays. -/
def shiftBits (cells tdi : List Bool) : List Bool × List Bool :=
  let all := cells ++ tdi
  (all.take tdi.length, all.drop tdi.length)

/-- A scan of a die's data register under an instruction: it goes out from what is captured, and the instruction is in force. -/
def State.scanned (s : State) (d : Nat) (x : Tap) (captured tdi : List Bool) : State :=
  (s.setTap d x).send (.scanOut (shiftBits captured tdi).1)

/-- The one-bit bypass register captures 0. -/
def State.bypassed (s : State) (d code : Nat) (tdi : List Bool) : State :=
  s.scanned d { s.tap d with ir := code, driving := false, floating := false } [false] tdi

/-- The module is powered, so that the TAPs answer. -/
def State.tapsOn (s : State) : Bool := s.power.supply = .valid

/-- The identity code (R648). -/
def State.idcode (s : State) : Nat :=
  1 + Config.jedecCode % 2 ^ 11 * 2 + 0x6420 * 2 ^ 12 + s.fget F.glbIdStepping 0 % 16 * 2 ^ 28

/-- IDCODE (R648). -/
def execIdcode (d : DieId) (_pins tdi : List Bool) (s : State) : Host.Outcome State Fault Refusal :=
  .next (
    if s.tapsOn then
      s.scanned d.val { s.tap d.val with ir := 0x01, driving := false, floating := false }
        ((List.range 32).map (fun i => s.idcode.testBit i)) tdi
    else s)

/-- The scan cells capture the pins; what is shifted in stands in the update latches. -/
def State.sampled (s : State) (d code : Nat) (driving : Bool) (pins tdi : List Bool) : State :=
  s.scanned d { s.tap d with ir := code, cells := (shiftBits pins tdi).2, driving := driving, floating := false } pins tdi

/-- SAMPLE_PRELOAD (R648, R649): it does not change the module's behaviour. -/
def execSamplePreload (d : DieId) (pins tdi : List Bool) (s : State) : Host.Outcome State Fault Refusal :=
  .next (if s.tapsOn then s.sampled d.val 0x02 false pins tdi else s)

/-- EXTEST, CLAMP and HIGHZ act as defined with SCAN_EN high, else as BYPASS (R649). -/
def State.scanMode (s : State) (d code : Nat) (tdi : List Bool) (run : State) : State :=
  if !s.tapsOn then s else if s.power.scanEn then run else s.bypassed d code tdi

/-- EXTEST (R648, R649): the pins are driven from the update latches. -/
def execExtest (d : DieId) (pins tdi : List Bool) (s : State) : Host.Outcome State Fault Refusal :=
  .next (s.scanMode d.val 0x00 tdi (s.sampled d.val 0x00 true pins tdi))

/-- CLAMP (R648, R649): the pins are driven from the latches, through the bypass register. -/
def execClamp (d : DieId) (_pins tdi : List Bool) (s : State) : Host.Outcome State Fault Refusal :=
  .next (s.scanMode d.val 0x04 tdi
    (s.scanned d.val { s.tap d.val with ir := 0x04, driving := true, floating := false } [false] tdi))

/-- HIGHZ (R648, R649): the pins float, through the bypass register. -/
def execHighz (d : DieId) (_pins tdi : List Bool) (s : State) : Host.Outcome State Fault Refusal :=
  .next (s.scanMode d.val 0x05 tdi
    (s.scanned d.val { s.tap d.val with ir := 0x05, driving := false, floating := true } [false] tdi))

/-- BYPASS (R648): code 0xFF, and every code that names no other instruction. -/
def execBypass (d : DieId) (code : Nat) (tdi : List Bool) (s : State) : Host.Outcome State Fault Refusal :=
  .next (
    if !s.tapsOn ∨ code % 256 ∈ [0x00, 0x01, 0x02, 0x04, 0x05] then s else s.bypassed d.val (code % 256) tdi)

end Sys2Proof.Machine
end

