-- ==== Sys2Proof/Machine/Dispatch.lean ====
section
/-! DEFINITION. The dispatch: one arm for each command, each one call of its meaning. -/

namespace Sys2Proof.Machine

/-- The effect of a command on everything but the queue of commands. -/
def exec (i : Instr) (s : State) : Host.Outcome State Fault Refusal :=
  match i with
  | .read q => Sys2Proof.Machine.execRead q s
  | .write q => Sys2Proof.Machine.execWrite q s
  | .flush q => Sys2Proof.Machine.execFlush q s
  | .release q => Sys2Proof.Machine.execRelease q s
  | .scan q => Sys2Proof.Machine.execScan q s
  | .search q => Sys2Proof.Machine.execSearch q s
  | .embed q => Sys2Proof.Machine.execEmbed q s
  | .ingest q => Sys2Proof.Machine.execIngest q s
  | .indexPut q => Sys2Proof.Machine.execIndexPut q s
  | .indexDel q => Sys2Proof.Machine.execIndexDel q s
  | .run q => Sys2Proof.Machine.execRun q s
  | .jobSignalHold q => Sys2Proof.Machine.execJobSignalHold q s
  | .jobSignalUnhold q => Sys2Proof.Machine.execJobSignalUnhold q s
  | .jobSignalEnd q => Sys2Proof.Machine.execJobSignalEnd q s
  | .jobSignalWeight q => Sys2Proof.Machine.execJobSignalWeight q s
  | .identifyModule q => Sys2Proof.Machine.execIdentifyModule q s
  | .identifyQueueList q => Sys2Proof.Machine.execIdentifyQueueList q s
  | .queueCreate q => Sys2Proof.Machine.execQueueCreate q s
  | .queueReset q => Sys2Proof.Machine.execQueueReset q s
  | .queueDelete q => Sys2Proof.Machine.execQueueDelete q s
  | .stitch q => Sys2Proof.Machine.execStitch q s
  | .unstitch q => Sys2Proof.Machine.execUnstitch q s
  | .fwStageImage q => Sys2Proof.Machine.execFwStageImage q s
  | .fwStageLibraryAdd q => Sys2Proof.Machine.execFwStageLibraryAdd q s
  | .fwStageLibraryRemove q => Sys2Proof.Machine.execFwStageLibraryRemove q s
  | .fwActivate q => Sys2Proof.Machine.execFwActivate q s
  | .fwActivateNextBoot q => Sys2Proof.Machine.execFwActivateNextBoot q s
  | .sanitiseBlockErase q => Sys2Proof.Machine.execSanitiseBlockErase q s
  | .sanitiseOverwrite q => Sys2Proof.Machine.execSanitiseOverwrite q s
  | .format q => Sys2Proof.Machine.execFormat q s
  | .logGet q => Sys2Proof.Machine.execLogGet q s
  | .settingSet q => Sys2Proof.Machine.execSettingSet q s
  | .settingGet q => Sys2Proof.Machine.execSettingGet q s
  | .spareActDramRowRepair q => Sys2Proof.Machine.execSpareActDramRowRepair q s
  | .spareActLaneRowRetire q => Sys2Proof.Machine.execSpareActLaneRowRetire q s
  | .spareActStationReturn q => Sys2Proof.Machine.execSpareActStationReturn q s
  | .spareActErrorInjection q => Sys2Proof.Machine.execSpareActErrorInjection q s
  | .fabricSetInstall q => Sys2Proof.Machine.execFabricSetInstall q s
  | .fabricSetPull q => Sys2Proof.Machine.execFabricSetPull q s
  | .fabricSetClear q => Sys2Proof.Machine.execFabricSetClear q s
  | .shunt q => Sys2Proof.Machine.execShunt q s
  | .unknownOpcode q => Sys2Proof.Machine.execUnknownOpcode q s
  | .sqEntryUncorrectable q => Sys2Proof.Machine.execSqEntryUncorrectable q s
  | .sqTailDoorbell q tail => Sys2Proof.Machine.execSqTailDoorbell q tail s
  | .cqHeadDoorbell q head => Sys2Proof.Machine.execCqHeadDoorbell q head s
  | .completionArrival place late => Sys2Proof.Machine.execCompletionArrival place late s
  | .commandTimeout place => Sys2Proof.Machine.execCommandTimeout place s
  | .heldCompletionPost cq => Sys2Proof.Machine.execHeldCompletionPost cq s
  | .cqAggregationTimeout cq => Sys2Proof.Machine.execCqAggregationTimeout cq s
  | .adminQueueEnable => Sys2Proof.Machine.execAdminQueueEnable s
  | .adminQueueDisable => Sys2Proof.Machine.execAdminQueueDisable s
  | .adminQueueReset => Sys2Proof.Machine.execAdminQueueReset s
  | .jobBind j slot mask => Sys2Proof.Machine.execJobBind j slot mask s
  | .jobUnbind w => Sys2Proof.Machine.execJobUnbind w s
  | .jobExpressOn w => Sys2Proof.Machine.execJobExpressOn w s
  | .jobExpressOff w => Sys2Proof.Machine.execJobExpressOff w s
  | .jobCtlReservedCmd value => Sys2Proof.Machine.execJobCtlReservedCmd value s
  | .expressShareWrite share => Sys2Proof.Machine.execExpressShareWrite share s
  | .counterSnapshot w => Sys2Proof.Machine.execCounterSnapshot w s
  | .counterClear w => Sys2Proof.Machine.execCounterClear w s
  | .privLockSet => Sys2Proof.Machine.execPrivLockSet s
  | .unlockNewChallenge signer => Sys2Proof.Machine.execUnlockNewChallenge signer s
  | .unlockChallengeReady => Sys2Proof.Machine.execUnlockChallengeReady s
  | .unlockVerify signer => Sys2Proof.Machine.execUnlockVerify signer s
  | .unlockVerifyDone => Sys2Proof.Machine.execUnlockVerifyDone s
  | .unlockChallengeLapse => Sys2Proof.Machine.execUnlockChallengeLapse s
  | .unlockBackoffEnd => Sys2Proof.Machine.execUnlockBackoffEnd s
  | .signerKeyInstall signer => Sys2Proof.Machine.execSignerKeyInstall signer s
  | .signerKeyRemove signer => Sys2Proof.Machine.execSignerKeyRemove signer s
  | .rawReadStart => Sys2Proof.Machine.execRawReadStart s
  | .rawReadDone ok data => Sys2Proof.Machine.execRawReadDone ok data s
  | .stackCeLogClear n => Sys2Proof.Machine.execStackCeLogClear n s
  | .stationCeLogClear st => Sys2Proof.Machine.execStationCeLogClear st s
  | .lineEnable b => Sys2Proof.Machine.execLineEnable b s
  | .lineDisable b => Sys2Proof.Machine.execLineDisable b s
  | .lineRetrainRequest b => Sys2Proof.Machine.execLineRetrainRequest b s
  | .eventCfgWrite value => Sys2Proof.Machine.execEventCfgWrite value s
  | .registerWrite bar offset size value => Sys2Proof.Machine.execRegisterWrite bar offset size value s
  | .counterLowHalfRead offset => Sys2Proof.Machine.execCounterLowHalfRead offset s
  | .clearOnRead offset => Sys2Proof.Machine.execClearOnRead offset s
  | .mirrorRead offset size => Sys2Proof.Machine.execMirrorRead offset size s
  | .tmxSampleRead pushed => Sys2Proof.Machine.execTmxSampleRead pushed s
  | .mirrorPushStation st => Sys2Proof.Machine.execMirrorPushStation st s
  | .mirrorPushJob d => Sys2Proof.Machine.execMirrorPushJob d s
  | .configRequest ms offset => Sys2Proof.Machine.execConfigRequest ms offset s
  | .hdmDecoderCommit base => Sys2Proof.Machine.execHdmDecoderCommit base s
  | .cxlMemLoad addr => Sys2Proof.Machine.execCxlMemLoad addr s
  | .cxlMemStore addr data => Sys2Proof.Machine.execCxlMemStore addr data s
  | .queueWindowStore addr data => Sys2Proof.Machine.execQueueWindowStore addr data s
  | .queueWindowLoad addr => Sys2Proof.Machine.execQueueWindowLoad addr s
  | .globalPersistentFlush => Sys2Proof.Machine.execGlobalPersistentFlush s
  | .linkTrained width rate => Sys2Proof.Machine.execLinkTrained width rate s
  | .linkDown => Sys2Proof.Machine.execLinkDown s
  | .hotReset => Sys2Proof.Machine.execHotReset s
  | .perstAssert => Sys2Proof.Machine.execPerstAssert s
  | .perstDeassert refclk => Sys2Proof.Machine.execPerstDeassert refclk s
  | .doeDiscovery index => Sys2Proof.Machine.execDoeDiscovery index s
  | .cdatRead handle => Sys2Proof.Machine.execCdatRead handle s
  | .getVersion request => Sys2Proof.Machine.execGetVersion request s
  | .getCapabilities request => Sys2Proof.Machine.execGetCapabilities request s
  | .negotiateAlgorithms request => Sys2Proof.Machine.execNegotiateAlgorithms request s
  | .getDigests request => Sys2Proof.Machine.execGetDigests request s
  | .getCertificate request => Sys2Proof.Machine.execGetCertificate request s
  | .challenge request => Sys2Proof.Machine.execChallenge request s
  | .getMeasurements request => Sys2Proof.Machine.execGetMeasurements request s
  | .chunkGet request => Sys2Proof.Machine.execChunkGet request s
  | .doeOversizeRequest length => Sys2Proof.Machine.execDoeOversizeRequest length s
  | .smbusOffsetWrite ms offset => Sys2Proof.Machine.execSmbusOffsetWrite ms offset s
  | .smbusRead ms n => Sys2Proof.Machine.execSmbusRead ms n s
  | .extest d pins tdi => Sys2Proof.Machine.execExtest d pins tdi s
  | .idcode d pins tdi => Sys2Proof.Machine.execIdcode d pins tdi s
  | .samplePreload d pins tdi => Sys2Proof.Machine.execSamplePreload d pins tdi s
  | .clamp d pins tdi => Sys2Proof.Machine.execClamp d pins tdi s
  | .highz d pins tdi => Sys2Proof.Machine.execHighz d pins tdi s
  | .bypass d code tdi => Sys2Proof.Machine.execBypass d code tdi s
  | .presMate millivolts => Sys2Proof.Machine.execPresMate millivolts s
  | .inputStageClose => Sys2Proof.Machine.execInputStageClose s
  | .suppliesValid scanEn => Sys2Proof.Machine.execSuppliesValid scanEn s
  | .islandClockStart x => Sys2Proof.Machine.execIslandClockStart x s
  | .checkerSelfTest x checker failed => Sys2Proof.Machine.execCheckerSelfTest x checker failed s
  | .firmwareBootVerify => Sys2Proof.Machine.execFirmwareBootVerify s
  | .mapRebuild => Sys2Proof.Machine.execMapRebuild s
  | .sanitiseResume => Sys2Proof.Machine.execSanitiseResume s
  | .baseTimetableStitch => Sys2Proof.Machine.execBaseTimetableStitch s
  | .serviceEntry ms => Sys2Proof.Machine.execServiceEntry ms s
  | .inputDip => Sys2Proof.Machine.execInputDip s
  | .powerLoss => Sys2Proof.Machine.execPowerLoss s
  | .presBreak => Sys2Proof.Machine.execPresBreak s
  | .holdUpFlushDone => Sys2Proof.Machine.execHoldUpFlushDone s
  | .powerReturn => Sys2Proof.Machine.execPowerReturn s
  | .holdupEnergyMeasure millijoules => Sys2Proof.Machine.execHoldupEnergyMeasure millijoules s
  | .stringTest string millijoules ok => Sys2Proof.Machine.execStringTest string millijoules ok s
  | .sensorUpdate temps inlet outlet millivolts deciwatts => Sys2Proof.Machine.execSensorUpdate temps inlet outlet millivolts deciwatts s
  | .serviceEnd cause d => Sys2Proof.Machine.execServiceEnd cause d s
  | .managementCoreFailure d => Sys2Proof.Machine.execManagementCoreFailure d s
  | .standbyCoreRestart d ok => Sys2Proof.Machine.execStandbyCoreRestart d ok s
  | .dieHandover d => Sys2Proof.Machine.execDieHandover d s
  | .stitchContainerLoaded => Sys2Proof.Machine.execStitchContainerLoaded s
  | .stitchImagePlaced => Sys2Proof.Machine.execStitchImagePlaced s
  | .batchWaitExpiry j => Sys2Proof.Machine.execBatchWaitExpiry j s
  | .batchPlaceFree j => Sys2Proof.Machine.execBatchPlaceFree j s
  | .dispatcherVisit st => Sys2Proof.Machine.execDispatcherVisit st s
  | .balanceExhausted st => Sys2Proof.Machine.execBalanceExhausted st s
  | .switchPartEnd st n => Sys2Proof.Machine.execSwitchPartEnd st n s
  | .swapEnd st => Sys2Proof.Machine.execSwapEnd st s
  | .stationEndMessage st j => Sys2Proof.Machine.execStationEndMessage st j s
  | .abandonReport st j => Sys2Proof.Machine.execAbandonReport st j s
  | .passIssue st n => Sys2Proof.Machine.execPassIssue st n s
  | .passVerdict st n => Sys2Proof.Machine.execPassVerdict st n s
  | .widePassIssue st n => Sys2Proof.Machine.execWidePassIssue st n s
  | .passSpanEnd st n => Sys2Proof.Machine.execPassSpanEnd st n s
  | .laneTailRow st => Sys2Proof.Machine.execLaneTailRow st s
  | .laneRowRetireStart st n => Sys2Proof.Machine.execLaneRowRetireStart st n s
  | .laneRowRetireDone st n => Sys2Proof.Machine.execLaneRowRetireDone st n s
  | .copyIssue st n => Sys2Proof.Machine.execCopyIssue st n s
  | .copyRequestSend st n seq => Sys2Proof.Machine.execCopyRequestSend st n seq s
  | .copyRequestData st n seq offset => Sys2Proof.Machine.execCopyRequestData st n seq offset s
  | .copyComplete st n seq => Sys2Proof.Machine.execCopyComplete st n seq s
  | .generationConfirm st n seq page => Sys2Proof.Machine.execGenerationConfirm st n seq page s
  | .streamFetch st place stream => Sys2Proof.Machine.execStreamFetch st place stream s
  | .streamFetchData st place stream k => Sys2Proof.Machine.execStreamFetchData st place stream k s
  | .tierEntryLookup d page => Sys2Proof.Machine.execTierEntryLookup d page s
  | .promotionComplete page => Sys2Proof.Machine.execPromotionComplete page s
  | .stackRead addr fold errs => Sys2Proof.Machine.execStackRead addr fold errs s
  | .contentWriteTurn page => Sys2Proof.Machine.execContentWriteTurn page s
  | .writeBackTimer page => Sys2Proof.Machine.execWriteBackTimer page s
  | .dirtyLimitRelease page => Sys2Proof.Machine.execDirtyLimitRelease page s
  | .dramAddressClassReread n word again => Sys2Proof.Machine.execDramAddressClassReread n word again s
  | .mirrorTakeover n => Sys2Proof.Machine.execMirrorTakeover n s
  | .reserveRebuildDone n => Sys2Proof.Machine.execReserveRebuildDone n s
  | .windowLayerLoadStart j => Sys2Proof.Machine.execWindowLayerLoadStart j s
  | .windowLayerLoaded j => Sys2Proof.Machine.execWindowLayerLoaded j s
  | .windowLayerRelease j => Sys2Proof.Machine.execWindowLayerRelease j s
  | .walkerContextAssign place => Sys2Proof.Machine.execWalkerContextAssign place s
  | .sidingBatchTimeout root => Sys2Proof.Machine.execSidingBatchTimeout root s
  | .listArrival st ctx id => Sys2Proof.Machine.execListArrival st ctx id s
  | .rerankVectorArrival st ctx id => Sys2Proof.Machine.execRerankVectorArrival st ctx id s
  | .indexPutResume place => Sys2Proof.Machine.execIndexPutResume place s
  | .shuntPrepare place => Sys2Proof.Machine.execShuntPrepare place s
  | .scanContextAssign place => Sys2Proof.Machine.execScanContextAssign place s
  | .scanWorkUnit place st => Sys2Proof.Machine.execScanWorkUnit place st s
  | .lineSignalDetect b => Sys2Proof.Machine.execLineSignalDetect b s
  | .lineRetryTimer b => Sys2Proof.Machine.execLineRetryTimer b s
  | .lineTrainingLock b => Sys2Proof.Machine.execLineTrainingLock b s
  | .lineTrainingTimeout b => Sys2Proof.Machine.execLineTrainingTimeout b s
  | .identSendTimer b => Sys2Proof.Machine.execIdentSendTimer b s
  | .identReceive b body => Sys2Proof.Machine.execIdentReceive b body s
  | .lineLossOfLock b => Sys2Proof.Machine.execLineLossOfLock b s
  | .codewordErrorBurst b => Sys2Proof.Machine.execCodewordErrorBurst b s
  | .flitTransmit b => Sys2Proof.Machine.execFlitTransmit b s
  | .flitReceive b flit spoiled corrected uncorrectable => Sys2Proof.Machine.execFlitReceive b flit spoiled corrected uncorrectable s
  | .replayTimeout b => Sys2Proof.Machine.execReplayTimeout b s
  | .linkStateTimer => Sys2Proof.Machine.execLinkStateTimer s
  | .linkState b => Sys2Proof.Machine.execLinkState b s
  | .dispatch b => Sys2Proof.Machine.execDispatch b s
  | .return_ b => Sys2Proof.Machine.execReturn b s
  | .copyReq b => Sys2Proof.Machine.execCopyReq b s
  | .copyData b => Sys2Proof.Machine.execCopyData b s
  | .stepAbort b => Sys2Proof.Machine.execStepAbort b s
  | .detourFail b => Sys2Proof.Machine.execDetourFail b s
  | .packetForward b => Sys2Proof.Machine.execPacketForward b s
  | .stepWaitExpiry n => Sys2Proof.Machine.execStepWaitExpiry n s
  | .stepTimeout n => Sys2Proof.Machine.execStepTimeout n s
  | .cableMate b memory => Sys2Proof.Machine.execCableMate b memory s
  | .cableRemove b => Sys2Proof.Machine.execCableRemove b s
  | .cablePowerFault b => Sys2Proof.Machine.execCablePowerFault b s
  | .cableRefresh b memory => Sys2Proof.Machine.execCableRefresh b memory s
  | .flashReadIssue id => Sys2Proof.Machine.execFlashReadIssue id s
  | .flashReadDone id step ok answer us ifErrors => Sys2Proof.Machine.execFlashReadDone id step ok answer us ifErrors s
  | .readAroundThreshold id => Sys2Proof.Machine.execReadAroundThreshold id s
  | .readAroundDone id ok us => Sys2Proof.Machine.execReadAroundDone id ok us s
  | .eraseResume sec => Sys2Proof.Machine.execEraseResume sec s
  | .eraseDone sec failed => Sys2Proof.Machine.execEraseDone sec failed s
  | .unitStageTimeout unit => Sys2Proof.Machine.execUnitStageTimeout unit s
  | .unitProgramDone unit failed => Sys2Proof.Machine.execUnitProgramDone unit failed s
  | .mergeVerifyDone lsec => Sys2Proof.Machine.execMergeVerifyDone lsec s
  | .sectionEraseStart sec => Sys2Proof.Machine.execSectionEraseStart sec s
  | .checkpointTimer => Sys2Proof.Machine.execCheckpointTimer s
  | .patrolReadTimer sec unit => Sys2Proof.Machine.execPatrolReadTimer sec unit s
  | .cfsProgramDone bad0 bad1 => Sys2Proof.Machine.execCfsProgramDone bad0 bad1 s
  | .cfsEraseDone dev sector ok => Sys2Proof.Machine.execCfsEraseDone dev sector ok s
  | .cfsRead island sector fetch ok0 ok1 => Sys2Proof.Machine.execCfsRead island sector fetch ok0 ok1 s
  | .eccWriteBack island word => Sys2Proof.Machine.execEccWriteBack island word s
  | .patrolScrubStep n addr fold errs => Sys2Proof.Machine.execPatrolScrubStep n addr fold errs s
  | .sramScrubStep x mem line errs => Sys2Proof.Machine.execSramScrubStep x mem line errs s
  | .dramRowRepairDone n => Sys2Proof.Machine.execDramRowRepairDone n s
  | .sramRepair x array column target => Sys2Proof.Machine.execSramRepair x array column target s
  | .hostReadCompletion place outcome data => Sys2Proof.Machine.execHostReadCompletion place outcome data s
  | .storeCompared differs => Sys2Proof.Machine.execStoreCompared differs s
  | .measurementRecomputeDone index => Sys2Proof.Machine.execMeasurementRecomputeDone index s

end Sys2Proof.Machine
end

