-- ==== Sys2Proof/Machine/Idle.lean ====
section
/-! DEFINITION. What happens while no command waits: time passes. Every started island's cycle counter goes on counting (R203), by
an amount the model leaves free (DESIGN CHOICE, log entry 4); lane rows count what they do with a station's cycles (R92), entries
cross junctions and bridges, and the test multiplexer drives its pins (R627 to R629; log entry 52). -/

namespace Sys2Proof.Machine

/-! ## The test multiplexer's signals -/

/-- A route of an island is held for lack of credit: an entry is ready and its route has none (R211). -/
def State.heldForCredit (s : State) (i : Nat) : Bool :=
  s.junctions.any (fun e => e.1 / 256 = i &&
    e.2.ready.any (fun p => (p.head?.map (fun (x : JEntry) => Decidable.decide (x.credits ≤ e.2.tags.count x.route))).getD false))

/-- A station signal in the station's last cycle (R628). -/
def State.stationSignal (s : State) (st i : Nat) : Bool :=
  let x := s.stn st
  if i < 34 ∨ i = 44 ∨ (48 ≤ i ∧ i ≤ 51) then x.pulses.contains i
  else if i = 34 then s.slotsFull st
  else if i = 35 then x.order.isSome || x.incoming.isSome
  else if i < 44 then x.streams.any (fun e => e.1 % 8 = i - 36 && e.2.slots.any (fun r => !r.full && !r.empty))
  else if i = 45 then x.walkers.any (fun e => e.2.live)
  else if i = 46 then x.scans.any (fun e => e.2.live)
  else if i = 47 then s.heldForCredit (islandOfStation st)
  else if i = 52 then (s.cyc (islandOfStation st)).testBit 0
  else if i = 53 then (s.cyc (islandOfStation st)).testBit 10
  else false

/-- What a station multiplexer gives at output `o`. -/
def State.stationOut (s : State) (st o : Nat) : Bool := s.stationSignal st (s.fget ⟨.tmxStnSel, 8 * o, 6⟩ st)

/-- A bridge from a die carries a packet: to the `k`-th other die, and one of class 0 to any (R629). -/
def State.bridgeBusy (s : State) (d k : Nat) : Bool :=
  (s.bridge d ((((List.range 4).filter (· != d))[k]?).getD 0)).begun.isSome
def State.bridgeClass0 (s : State) (d : Nat) : Bool :=
  (List.range 4).any (fun e => ((s.bridge d e).begun.map (·.class0)).getD false)

/-- The island whose signal a die input is (R629); a reserved input counts in the die's signal box. -/
def inputIsland (d x : Nat) : Nat :=
  if x < 64 then islandOfStation (16 * d + x / 4)
  else if x < 72 then islandOfCache d
  else if x < 80 then islandOfBox d
  else if x < 144 then islandOfStack (8 * d + (x - 80) / 8)
  else if x < 168 then islandOfFlash (3 * d + (x - 144) / 8)
  else if x < 216 then islandOfLine (6 * d + (x - 168) / 8)
  else if x < 224 ∧ d = 0 then 140
  else islandOfBox d

/-- A die input (R629): none where what the unit does within one cycle decides, which the model leaves free (log entry 52). -/
def State.dieInput (s : State) (d x : Nat) : Option Bool :=
  if x < 64 then some (s.stationOut (16 * d + x / 4) (x % 4))
  else if 68 ≤ x ∧ x < 71 then some (s.bridgeBusy d (x - 68))
  else if x = 71 then some (s.bridgeClass0 d)
  else if 168 ≤ x ∧ x < 216 ∧ x % 8 = 6 then some (s.lineSt (6 * d + (x - 168) / 8) = 5)
  else if 168 ≤ x ∧ x < 216 ∧ x % 8 = 7 then some (s.fbit F.brlLineStateDetouring (6 * d + (x - 168) / 8))
  else if x = 221 ∧ d = 0 then some s.hears
  else if 222 ≤ x ∨ (216 ≤ x ∧ d ≠ 0) then some false
  else none

/-! ## Pins (R627) -/

/-- `k` cycles of the source's island pass on a pin: the signal of the last of them, held where STRETCH asks for it; a pin that is
not enabled drives 0. -/
def State.drivePin (s : State) (n k : Nat) (v : Bool) : State :=
  let left := (s.host.tmoLeft[n]?).getD 0
  let on := v || (s.fbit F.tmxPinStretch n && Decidable.decide (k ≤ left))
  let level := s.fbit F.tmxPinEn n && (on != s.fbit F.tmxPinInvert n)
  s.setHost { s.host with tmo := s.host.tmo.set n level, tmoLeft := s.host.tmoLeft.set n (if v then 3 else left - k) }

/-- A pin whose source an island is. -/
def State.pinTurn (i k : Nat) (s : State) (n : Nat) : State :=
  let x := s.fget F.tmxPinSrc n
  if inputIsland (n / 8) x ≠ i then s
  else
    match s.dieInput (n / 8) x with
    | some v => s.drivePin n k v
    | none => (let r := s.drawBool; r.2.drivePin n k r.1)

/-- An observation clock of an island: its clock divided, low while it is off. -/
def State.obsTurn (i : Nat) (s : State) (c : Nat) : State :=
  if s.fget F.tmxObsIsland c ≠ i then s
  else
    let n := 2 ^ s.fget F.tmxObsDiv c
    let level : Bool := s.fbit F.tmxObsEn c && (n = 1 || Decidable.decide (s.cyc i % n < n / 2))
    s.setHost { s.host with obs := s.host.obs.set c level }

/-- The station of an island, for stations. -/
def islandStation (i : Nat) : Option Nat := if islandClass i = 0 then some (16 * (i / 35) + i % 35) else none

/-! ## Time passes -/

/-- `k` cycles of an island pass: its counter, its lane rows where it is a station, and the pins it drives. -/
def State.tickBy (s : State) (i k : Nat) : State :=
  let s1 := s.bump F.glbIslandCtrCount i k
  let s2 := match islandStation i with
    | some st => s1.tickStation st k
    | none => s1
  if k = 0 then s2
  else
    let s3 := (List.range 2).foldl (State.obsTurn i) ((List.range 32).foldl (State.pinTurn i k) s2)
    match islandStation i with
    | some st => s3.setStn st { s3.stn st with pulses := [] }
    | none => s3

/-- A started island runs for a free number of cycles. -/
def State.tick (s : State) (i : Nat) : State := s.drawNat.2.tickBy i s.drawNat.1

/-- A bank of the configuration store serves its first read; the last one lets a suspended erase go on (R513). -/
def State.serveBank (s : State) (k : Nat) : State :=
  s.setCfs { s.cfs with bankReads := Tbl.put [] s.cfs.bankReads k ((Tbl.look [] s.cfs.bankReads k).drop 1) }

/-- The banks serve a read each, and a gap whose reads are done moves (R513, R517). -/
def State.serveStore (s : State) : State :=
  let s1 := (s.cfs.bankReads.map (·.1)).foldl State.serveBank s
  s1.cfs.gapDue.foldl (fun (s : State) d => s.gapTurn d) (s1.setCfs { s1.cfs with gapDue := [] })

/-- Nothing waits to cross a junction or a bridge. -/
def State.quiet (s : State) : Bool := s.onTheWay.isEmpty && s.bridges.all (fun b => b.2.queue.isEmpty && b.2.begun.isNone)

/-- Junctions and bridges go through a free number of cycles. -/
def State.carryOn (s : State) : State :=
  if s.quiet then s
  else (List.range (s.drawNat.1 % 64)).foldl (fun (s : State) _ => s.traffic) s.drawNat.2

/-- Time passes. -/
def State.idle (s : State) : State := (s.power.started.foldl State.tick s).carryOn.serveStore

end Sys2Proof.Machine
end

