-- ==== Sys2Proof/Safety.lean ====
section
/-! DEFINITION. What a safe run is, and what holds of the module's state whatever command it takes: reserved bits read 0 (R13),
the fixed registers read as they were made (R35, R612), and the memories are in their canonical form. -/

namespace Sys2Proof

/-- The next `k` steps from a state all answer a next state. -/
def SafeRun : Nat → Machine.State → Prop
  | 0, _ => True
  | k + 1, s => ∃ t, Machine.step s = .next t ∧ SafeRun k t

namespace Machine

/-- The bits of a register word that none of its fields covers (R11, R13). -/
def RegRow.reserved (r : RegRow) : Word64 :=
  ~~~ r.fields.foldl (fun m f => m ||| BitVec.ofNat 64 (2 ^ (f.1 + f.2.1) - 2 ^ f.1)) 0

/-- Reserved bits read 0, in every word of every register (R13). -/
def State.ReservedZero (s : State) : Prop := ∀ row ∈ regRows, ∀ i, s.rget row.reg i &&& row.reserved = 0

/-- The registers that hold what the module is made with: GLB.ID, BRL.SERIAL and SEC.IDENTITY. -/
def fixedRegs : List Reg := [.glbId, .brlSerial, .secIdentity]

/-- The fixed registers read as they were made. -/
def State.IdentityFixed (s : State) : Prop := ∀ r ∈ fixedRegs, ∀ i, s.rget r i = resetWord r i

/-- The memory of a station and of its lane rows is in the canonical form. -/
def Station.Canonical (x : Station) : Prop :=
  Memory.wf x.platform = true ∧ ∀ e ∈ x.lanes, Memory.wf e.2.store = true

/-- Every memory of the module is in its canonical form: the depot range, the queue window, the platforms and the lane stores. -/
def State.MemoriesCanonical (s : State) : Prop :=
  Memory.wf s.depot.base = true ∧ Memory.wf s.host.window = true ∧ ∀ e ∈ s.stations, e.2.Canonical

/-- The parts of the state. -/
inductive Part where
  | pending | freeCtr | regs | host | depot | flash | cfs | ecc | power | tt | jobs | stations | search | scan | mesh | junctions | bridges | security
deriving DecidableEq, Repr

/-- A part is the same in two states. -/
def Part.Same (s t : State) : Part → Prop
  | .pending => t.pending = s.pending
  | .freeCtr => t.freeCtr = s.freeCtr
  | .regs => t.regs = s.regs
  | .host => t.host = s.host
  | .depot => t.depot = s.depot
  | .flash => t.flash = s.flash
  | .cfs => t.cfs = s.cfs
  | .ecc => t.ecc = s.ecc
  | .power => t.power = s.power
  | .tt => t.tt = s.tt
  | .jobs => t.jobs = s.jobs
  | .stations => t.stations = s.stations
  | .search => t.search = s.search
  | .scan => t.scan = s.scan
  | .mesh => t.mesh = s.mesh
  | .junctions => t.junctions = s.junctions
  | .bridges => t.bridges = s.bridges
  | .security => t.security = s.security

/-- Between two states only the listed parts change. -/
def State.OnlyParts (s t : State) (ps : List Part) : Prop := ∀ x : Part, x ∉ ps → x.Same s t

/-- Between two states only the register words that `P` allows change. -/
def State.OnlyRegs (s t : State) (P : Reg → Nat → Prop) : Prop := ∀ r i, ¬ P r i → t.rget r i = s.rget r i

/-- The bytes a message places in host memory, each with its address. -/
def HostMsg.placed : HostMsg → List (Nat × Byte)
  | .data a bs _ => bs.zipIdx.map (fun b => (a + b.2, b.1))
  | .cqEntry a bs => bs.zipIdx.map (fun b => (a + b.2, b.1))
  | _ => []

/-- A byte string at an address, byte by byte. -/
def placedAt (a : Nat) (bs : List Byte) : List (Nat × Byte) := bs.zipIdx.map (fun b => (a + b.2, b.1))

/-- A data write of at most 256 bytes that crosses no 4 KiB boundary (R444). -/
def HostMsg.Small (m : HostMsg) : Prop :=
  ∃ a bs ep, m = .data a bs ep ∧ 1 ≤ bs.length ∧ bs.length ≤ 256 ∧ (a + bs.length - 1) / 4096 = a / 4096

/-- The entry `e` at the head of queue `q` is the one taken next (R430 to R432); it gets place `p` of the command tracker, and
`s0` is the state once it has been taken. -/
def State.TakesNext (s : State) (q : QueueId) (p : Nat) (e : List Byte) (s0 : State) : Prop :=
  ∃ a, s.arbPick = some (q.val, a) ∧ s.headBad q.val = false ∧ s.headEntry q.val = e ∧ s.takes (sqOpcode e) = true ∧
    s.freePlace (s.fget F.queQStateClass q.val) = some p ∧ s0 = (s.takeInto q.val p a).countWaits

/-- The CQ of a live command's queue has room for an entry, and none is held before it (R435). -/
def State.MayPost (s : State) (p : Nat) : Prop :=
  (s.cmd p).live = true ∧ s.cqFull (s.fget F.queQStateCqId (s.cmd p).queue) = false ∧
    s.fget F.queCqStateHeld (s.fget F.queQStateCqId (s.cmd p).queue) = 0 ∧ s.fget F.queQStateState (s.cmd p).queue ≠ 3

/-- A scan context of the command at place `p` holds a packet open (R217). -/
def State.packetOpen (s : State) (p : Nat) : Bool :=
  s.stations.any (fun e => e.2.scans.any (fun c => c.2.live && c.2.place = p && c.2.chunk.isSome))

/-- From `s` to `t` the command at place `p` completes: its CQ entry goes to CQ_TAIL of its queue's CQ, which advances, and its place
is free; before the entry the host is sent at most the packets the command held open, behind it at most MSI-X messages (R217, R430,
R433 to R436). -/
def State.Posted (s t : State) (p status result : Nat) : Prop :=
  let c := s.cmd p
  let cq := s.fget F.queQStateCqId c.queue
  (∃ before more, t.host.outbox = s.host.outbox ++ before ++
      .cqEntry ((s.qcfg cq).cqAddr + 16 * s.fget F.queCqStateCqTail cq)
        (cqBytes result (s.fget F.queQStateHead c.queue) c.queue (sqCid c.entry) status (s.fget F.queCqStatePhase cq)) :: more ∧
      (∀ m ∈ before, ∃ a bs ep, m = .data a bs ep) ∧ (s.packetOpen p = false → before = []) ∧
      ∀ m ∈ more, ∃ v a d, m = .msix v a d) ∧
    t.fget F.queCqStateCqTail cq = (s.fget F.queCqStateCqTail cq + 1) % max 1 (s.qcfg cq).cqSize % 2 ^ F.queCqStateCqTail.width ∧
    t.fget F.queCqStatePhase cq = (if (s.fget F.queCqStateCqTail cq + 1) % max 1 (s.qcfg cq).cqSize = 0
      then (1 - s.fget F.queCqStatePhase cq) % 2 else s.fget F.queCqStatePhase cq) ∧
    t.fget F.queQStateOutstanding c.queue = (s.fget F.queQStateOutstanding c.queue - 1) % 2 ^ F.queQStateOutstanding.width ∧
    t.cmd p = {} ∧ (∀ k, k ≠ p → t.cmd k = s.cmd k) ∧
    s.OnlyRegs t (fun r _ => r ∈ [.queCqState, .queCqState1, .queQState1, .queClass0, .queCtr, .queAdminCtl, .stnWalk])

/-- The host reaches the registers and the privileged lock is clear: a write of an rwl field takes effect (R16). -/
def State.Open (s : State) : Prop := s.hears = true ∧ s.locked = false

/-- The module is in service (R569). -/
def State.InService (s : State) : Prop := s.power.supply = .valid ∧ s.fget F.pwrBootPhase 0 = 5

end Machine

end Sys2Proof
end

