-- ==== Sys2Proof/Certificates/Slice0/Obligations.lean ====
section
/-! DEFINITION. The statements for the provers. -/

open Sys2Proof Sys2Proof.Machine

/-- A step takes the command at the front of the queue and runs it with the queue's rest. -/
def Obligations.StepRunsFront : Prop :=
  ∀ (c : Instr) (s : State), step { s with pending := c :: s.pending } = exec c s

/-- With no command waiting, time passes (R203, R92): what may move. That an idle step lets time pass is the model's choice (log
entry 4). -/
def Obligations.IdleLetsTimePass : Prop :=
  ∀ s : State, s.pending = [] → ∃ t, step s = .next t ∧
    (∀ i, i ∉ s.power.started → t.rget .glbIslandCtr i = s.rget .glbIslandCtr i) ∧
    s.OnlyParts t [.regs, .freeCtr, .host, .cfs, .stations, .junctions, .bridges] ∧
    (s.power.started = [] → s.quiet = true → s.cfs.bankReads = [] → s.cfs.gapDue = [] → t = s)

/-- No command changes the queue of waiting commands. -/
def Obligations.CommandsLeaveTheQueue : Prop :=
  ∀ (c : Instr) (s t : State), exec c s = .next t → t.pending = s.pending

/-- Reserved bits read 0: every step keeps them so; and a write acts the same whatever its reserved bits hold (R13). -/
def Obligations.ReservedBits : Prop :=
  (∀ s t : State, s.ReservedZero → step s = .next t → t.ReservedZero) ∧
  (∀ row ∈ regRows, ∀ (s : State) (i off : Nat) (written v w : Word64), (v ^^^ w) &&& ~~~row.reserved = 0 →
    s.landWrite row i off written v = s.landWrite row i off written w)

/-- Every memory keeps its canonical form. -/
def Obligations.MemoriesStayCanonical : Prop :=
  ∀ s t : State, s.MemoriesCanonical → step s = .next t → t.MemoriesCanonical

/-- GLB.ID, BRL.SERIAL and SEC.IDENTITY read as the module was made, after every step (R612). -/
def Obligations.IdentityIsFixed : Prop :=
  ∀ s t : State, s.IdentityFixed → step s = .next t → t.IdentityFixed

/-- The fused SVN never falls, through a loss of power either (R618). -/
def Obligations.SvnNeverFalls : Prop :=
  ∀ s t : State, step s = .next t → s.fget F.secSvnSvn 0 ≤ t.fget F.secSvnSvn 0

/-- The privileged lock stays set through every step but two: a verification that unlocks, and the end of the hold-up flush, after
which there is no power (R607, R610). -/
def Obligations.LockStaysSet : Prop :=
  ∀ s t : State, step s = .next t → s.fget F.glbPrivLockLock 0 = 1 → t.fget F.glbPrivLockLock 0 ≠ 1 →
    ∃ rest, (s.pending = .unlockVerifyDone :: rest ∧ s.security.verifying = true ∧ s.unlockResult = 1) ∨
      (s.pending = .holdUpFlushDone :: rest ∧ s.power.supply = .flushing)

/-- The invariants hold at reset. -/
def Obligations.InvariantsAtReset : Prop :=
  State.reset.ReservedZero ∧ State.reset.MemoriesCanonical ∧ State.reset.IdentityFixed

/-- Fields whose reset values the register tables give (Reset columns), and the queues' state at power-up (R437, R439). -/
def Obligations.RegistersAtReset : Prop :=
  let s := State.reset;
  (∀ n : StackId, s.fget F.memStackStateInService n.val = 1) ∧ (∀ n : StationId, s.fget F.stnStateInService n.val = 1) ∧
  s.fget F.queArbW1 0 = 16 ∧ s.fget F.queArbW2 0 = 4 ∧ s.fget F.queArbW3 0 = 1 ∧ s.fget F.jobSchedExpressShare 0 = 50 ∧
  (∀ b : LineId, s.fget F.brlLineCtlEnable b.val = 1) ∧ s.fget F.flsCfgRaUs 0 = 180 ∧ s.fget F.glbPrivLockLock 0 = 0 ∧
  s.fget F.pwrBootPhase 0 = 0 ∧ (∀ q : QueueId, s.fget F.queQStateState q.val = 0) ∧ s.pending = []

/-- What taking an SQ entry does (R430, R432), and what it leaves. -/
def Obligations.EntryTaken : Prop :=
  ∀ (s s0 : State) (q : QueueId) (p : Nat) (e : List Byte), s.TakesNext q p e s0 →
    s0.cmd p = { live := true, queue := q.val, cls := s.fget F.queQStateClass q.val, entry := e,
                 timeout := timeoutOf (sqTimeout e) (s.qcfg q.val).defaultTimeout, t0 := s.cyc 17 } ∧
    (∀ k, k ≠ p → s0.cmd k = s.cmd k) ∧
    s0.fget F.queQStateHead q.val =
      (s.fget F.queQStateHead q.val + 1) % max 1 (s.qcfg q.val).sqSize % 2 ^ F.queQStateHead.width ∧
    s0.fget F.queQStateOutstanding q.val = (s.fget F.queQStateOutstanding q.val + 1) % 2 ^ F.queQStateOutstanding.width ∧
    s.OnlyRegs s0 (fun r i => r = .queCtr ∨ r = .queClass0 ∨ ((r = .queQState ∨ r = .queQState1) ∧ i = q.val)) ∧
    s0.host.window = s.host.window ∧ s0.host.hdmBase = s.host.hdmBase ∧ s0.host.link = s.host.link ∧ s0.host.held = s.host.held ∧
    s0.host.outbox = s.host.outbox ∧ s.OnlyParts s0 [.regs, .host]

/-- The checks of the block commands, in order: fields, range, a sanitise or format in progress (R441, R443), and for a WRITE the
spare reserve (R508). -/
def Obligations.BlockChecksFail : Prop :=
  ∀ (s s0 : State) (q : QueueId) (p : Nat) (e : List Byte) (st : Nat), s.TakesNext q p e s0 →
    (∀ (c : Instr) (fields : Bool) (last : Nat),
      (c = .read q ∧ sqOpcode e = 0x01 ∧ fields = transferFields e ∧ last = sqLba e + sqCount e) ∨
      (c = .write q ∧ sqOpcode e = 0x02 ∧ fields = transferFields e ∧ last = sqLba e + sqCount e) ∨
      (c = .flush q ∧ sqOpcode e = 0x03 ∧ fields = rangeFields e ∧ last = sqLba e + sqCount64 e) ∨
      (c = .release q ∧ sqOpcode e = 0x04 ∧ fields = rangeFields e ∧ last = sqLba e + sqCount64 e) →
      ((fields = false ∧ st = 0x1001) ∨ (fields = true ∧ last > userLbas ∧ st = 0x1006) ∨
       (fields = true ∧ last ≤ userLbas ∧ s0.fget F.glbMaintOp 0 = 1 ∧ st = 0x5001) ∨
       (fields = true ∧ last ≤ userLbas ∧ s0.fget F.glbMaintOp 0 = 2 ∧ s0.fget F.glbMaintPhase 0 = 1 ∧ st = 0x5002)) →
      exec c s = .next (s0.fail p st)) ∧
    (sqOpcode e = 0x02 → transferFields e = true → sqLba e + sqCount e ≤ userLbas → s0.mediaBusy = 0 →
      s0.fget F.flsHealthExhausted 0 = 1 → exec (.write q) s = .next (s0.fail p 0x2003))

/-- WRITE and RELEASE once their checks pass (R442, R445, R450). -/
def Obligations.WriteAndReleaseTaken : Prop :=
  ∀ (s s0 : State) (q : QueueId) (p : Nat) (e : List Byte), s.TakesNext q p e s0 → s0.mediaBusy = 0 →
    (sqOpcode e = 0x02 → transferFields e = true → sqLba e + sqCount e ≤ userLbas → s0.fget F.flsHealthExhausted 0 = 0 →
      ∃ t, exec (.write q) s = .next t ∧ (∀ k, k ≠ p → t.cmd k = s0.cmd k) ∧ s0.OnlyParts t [.host] ∧
        t.host = { s0.host with cmds := t.host.cmds } ∧
        (sqList e = true → t.cmd p = { s0.cmd p with listing := true, want := 16 * byteField e 32 4 }) ∧
        (sqList e = false → t.cmd p = { s0.cmd p with
          ranges := [(byteField e 24 8, 4096 * sqCount e)], want := 4096 * sqCount e, waits := lbaPages (sqLba e) (sqCount e) })) ∧
    (sqOpcode e = 0x04 → rangeFields e = true → sqLba e + sqCount64 e ≤ userLbas →
      ∃ t, exec (.release q) s = .next t ∧ (∀ k, k ≠ p → t.cmd k = s0.cmd k) ∧ s0.OnlyParts t [.host, .depot] ∧
        t.host = { s0.host with cmds := t.host.cmds } ∧
        t.cmd p = { s0.cmd p with waits := lbaPages (sqLba e) (sqCount64 e) } ∧
        t.depot = { s0.depot with turns := s0.depot.turns ++ (lbaPages (sqLba e) (sqCount64 e)).map (fun g =>
          { place := some p, page := g, addr := 65536 * g, bytes := [], release := lbaMask (sqLba e) (sqCount64 e) g }) })

/-- A READ of resident pages sends the bytes the depot holds (R444). -/
def Obligations.ReadReturnsStoredBytes : Prop :=
  ∀ (s s0 : State) (q : QueueId) (p : Nat) (e : List Byte), s.TakesNext q p e s0 → sqOpcode e = 0x01 → transferFields e = true →
    sqLba e + sqCount e ≤ userLbas → s0.mediaBusy = 0 → sqList e = false →
    s0.depot.reserveDown = [] → (∀ g ∈ lbaPages (sqLba e) (sqCount e), (s0.page g).resident = true ∧ (s0.page g).promoting = false) →
    (∀ i, i < sqCount e → s0.lbaStatus (sqLba e + i) = 0) →
    ∃ t msgs, exec (.read q) s = .next t ∧ t.host.outbox = s0.host.outbox ++ msgs ∧
      msgs.flatMap HostMsg.placed = placedAt (byteField e 24 8) (s0.depotRead (4096 * sqLba e) (4096 * sqCount e)) ∧
      (∀ m ∈ msgs, m.Small) ∧ (t.cmd p).ready = true ∧ (t.cmd p).status = 0 ∧ (t.cmd p).result = sqCount e

/-- READ with a list (R442), and FLUSH (R449). -/
def Obligations.ListReadAndFlushTaken : Prop :=
  ∀ (s s0 : State) (q : QueueId) (p : Nat) (e : List Byte), s.TakesNext q p e s0 → s0.mediaBusy = 0 →
    (sqOpcode e = 0x01 → transferFields e = true → sqLba e + sqCount e ≤ userLbas → sqList e = true →
      exec (.read q) s = .next (s0.setCmd p { s0.cmd p with listing := true, want := 16 * byteField e 32 4 })) ∧
    (sqOpcode e = 0x03 → rangeFields e = true → sqLba e + sqCount64 e ≤ userLbas →
      let n := if sqCount64 e = 0 then userLbas else sqCount64 e
      let s1 := ((s0.dirtyPages (sqLba e) n).foldl State.startWriteBack s0).programRange (sqLba e) n
      exec (.flush q) s = .next (if s0.dirtyLbas (sqLba e) n = [] then s1.finish p 0 0
        else s1.setCmd p { s1.cmd p with waits := s0.dirtyLbas (sqLba e) n }))

/-- A completion posts one CQ entry and frees its place (R225, R226, R430, R433 to R435, R441). -/
def Obligations.CompletionPosts : Prop :=
  (∀ (s : State) (p status : Nat), s.MayPost p → s.Posted (s.fail p status) p status 0) ∧
  (∀ (s : State) (p : Nat), s.MayPost p → s.mayArrive p = true →
    ∃ t, exec (.completionArrival p false) s = .next t ∧ s.Posted t p (s.cmd p).outcome (s.cmd p).result) ∧
  (∀ (s s0 : State) (q : QueueId) (p : Nat) (e : List Byte), s.TakesNext q p e s0 → knownOpcodes.contains (sqOpcode e) = false →
    s0.MayPost p → ∃ t, exec (.unknownOpcode q) s = .next t ∧ s0.Posted t p 0x1002 0) ∧
  (∀ (s : State) (q : QueueId) (p : Nat) (a : Arb), s.arbPick = some (q.val, a) → s.headBad q.val = true → s.takes 0 = true →
    s.freePlace (s.fget F.queQStateClass q.val) = some p →
    let s1 := ((s.takeInto q.val p a).countWaits).bump F.queCtrCount 9 1
    let s0 := s1.setCmd p { s1.cmd p with entry := unknownCid (s1.cmd p).entry }
    s0.MayPost p → ∃ t, exec (.sqEntryUncorrectable q) s = .next t ∧ s0.Posted t p 0x2001 0) ∧
  (∀ (s : State) (cq : QueueId) (h : Held), s.host.held.find? (fun h => h.cq = cq.val) = some h → s.cqFull cq.val = false →
    s.fget F.queQStateState (s.cmd h.place).queue ≠ 3 →
    let s0 := (s.setHost { s.host with held := s.host.held.erase h }).dip F.queCqStateHeld cq.val 1;
    ∃ t, exec (.heldCompletionPost cq) s = .next t ∧ s0.Posted t h.place (s.cmd h.place).status (s.cmd h.place).result)

/-- A content write's turn: its bytes land, and no other byte of the depot changes (R265). -/
def Obligations.ContentWriteStores : Prop :=
  ∀ (s : State) (g : Nat) (t : Turn), s.firstTurn g = some t → s.mayTurn g = true → t.waited = false → s.overLimit t = false →
    t.release = 0 → (∀ k, sqOpcode (s.cmd k).entry ∉ [0x08, 0x09, 0x0B]) → s.search.mutators = [] → s.search.shunts = [] →
    (∀ x ∈ s.stations, x.2.walkers = []) →
    ∃ u, exec (.contentWriteTurn g) s = .next u ∧
      ∀ a, u.depot.byte a = if t.addr ≤ a ∧ a < t.addr + t.bytes.length then t.bytes.getD (a - t.addr) 0 else s.depot.byte a

/-- The tier's events (R242 to R245, R250, R265). -/
def Obligations.TierEvents : Prop :=
  (∀ (s : State) (g : Nat) (t : Turn), s.firstTurn g = some t → s.mayTurn g = true →
    (t.waited = false → s.overLimit t = false →
      exec (.contentWriteTurn g) s = .next (((s.dropTurn t).runTurn t).turnDone t).tierOn.ingestsGo) ∧
    (t.waited = false → s.overLimit t = true → exec (.contentWriteTurn g) s = .next (s.waitTurn t).tierOn.ingestsGo ∧
      (s.waitTurn t).fget F.depTierCtrCount 5 = (s.fget F.depTierCtrCount 5 + 1) % 2 ^ 48) ∧
    (t.waited = true → s.overLimit t = false →
      exec (.dirtyLimitRelease g) s = .next (((s.dropTurn t).runTurn t).turnDone t).tierOn.ingestsGo)) ∧
  (∀ (s : State) (g : Nat), s.takeable g ≠ [] →
    let l := g / 46080
    let s1 := if s.unit0Dirty l ∧ (s.lsec l).inOrd = none ∧ (s.lsec l).target = none then s.openLog l true else s
    exec (.writeBackTimer g) s = .next ((s.takeable g).foldl State.handOverLba (s1.bump F.depTierCtrCount 3 1))) ∧
  (∀ (s : State) (g : Nat), (s.page g).promoting = true → s.promoteOpen g = false →
    let u := if (s.page g).owed then s.frameFor g else s;
    ((u.page g).owed = true → exec (.promotionComplete g) s = .next u.tierOn.wake) ∧
    ((u.page g).owed = false → exec (.promotionComplete g) s =
      .next (((u.setPage g { u.page g with promoting := false, resident := true }).touch g).readsResume g).tierOn.wake)) ∧
  (∀ (s : State) (d : DieId) (g : Nat), s.homeDie g = d.val → (isMediaPage g = true ∨ isScratchPage g = true) →
    (s.inHostWindow g = true → exec (.tierEntryLookup d g) s = .next s) ∧
    (s.shareWaits g = true → exec (.tierEntryLookup d g) s = .next (s.bump F.depCacheCtrCount (5 * d.val + 1) 1)) ∧
    (s.inHostWindow g = false → s.shareWaits g = false → ∃ t, exec (.tierEntryLookup d g) s = .next t ∧ s.OnlyParts t [.regs, .depot] ∧
      t.depot = { s.depot with tierCached := t.depot.tierCached } ∧
      if g ∈ Tbl.look [] s.depot.tierCached d.val
      then t.depot = s.depot ∧ t.fget F.depCacheCtrCount (5 * d.val) = (s.fget F.depCacheCtrCount (5 * d.val) + 1) % 2 ^ 48
      else g ∈ Tbl.look [] t.depot.tierCached d.val ∧
        t.fget F.depCacheCtrCount (5 * d.val + 1) = (s.fget F.depCacheCtrCount (5 * d.val + 1) + 1) % 2 ^ 48))

/-- The doorbells (R429): of Q0000 they are QUE.ADMIN_SQ_DB and QUE.ADMIN_CQ_DB. -/
def Obligations.Doorbells : Prop :=
  ∀ (s : State) (q : QueueId) (v : Nat), s.hears = true →
    (v < 4096 → ∃ t, exec (.sqTailDoorbell q v) s = .next t ∧
      (s.tailOk q.val v = true → t.fget F.queQStateTail q.val = v ∧ t.fget F.queQStateState q.val = 2 ∧
        t.fget F.queQStateHead q.val = s.fget F.queQStateHead q.val ∧ t.fget F.queQStateClass q.val = s.fget F.queQStateClass q.val ∧
        s.OnlyRegs t (fun r i => r = .queQState ∧ i = q.val) ∧ s.OnlyParts t [.regs, .host]) ∧
      (s.tailOk q.val v = false → t.fget F.queQStateDbErrors q.val = (s.fget F.queQStateDbErrors q.val + 1) % 2 ^ 16 ∧
        s.OnlyRegs t (fun r i => r = .queQState1 ∧ i = q.val) ∧ s.OnlyParts t [.regs, .host, .cfs])) ∧
    (v < 131072 → ∃ t, exec (.cqHeadDoorbell q v) s = .next t ∧
      (s.headOk q.val v = true → t.fget F.queCqStateCqHead q.val = v ∧
        t.fget F.queCqStateCqTail q.val = s.fget F.queCqStateCqTail q.val ∧
        s.OnlyRegs t (fun r i => r = .queCqState ∧ i = q.val) ∧ s.OnlyParts t [.regs, .host]) ∧
      (s.headOk q.val v = false → t.fget F.queQStateDbErrors q.val = (s.fget F.queQStateDbErrors q.val + 1) % 2 ^ 16 ∧
        s.OnlyRegs t (fun r i => r = .queQState1 ∧ i = q.val) ∧ s.OnlyParts t [.regs, .host, .cfs]))

/-- QUEUE_CREATE (R438), QUEUE_RESET (R457) and QUEUE_DELETE (R459). -/
def Obligations.QueueCommandsTaken : Prop :=
  ∀ (s s0 : State) (p : Nat) (e : List Byte), s.TakesNext 0 p e s0 →
    (sqOpcode e = 0x21 → createFields e = true → s0.fget F.queQStateState (qcQid e) = 0 →
      (qcCq e = qcQid e ∨ s0.fget F.queQStateState (qcCq e) ≠ 0 ∧ s0.ownsCq (qcCq e) = true) →
      ∃ t, exec (.queueCreate 0) s = .next t ∧ t.fget F.queQStateState (qcQid e) = 1 ∧
        t.fget F.queQStateClass (qcQid e) = qcClass e ∧ t.fget F.queQStateCqId (qcQid e) = qcCq e ∧
        t.fget F.queQStateHead (qcQid e) = 0 ∧ t.fget F.queQStateTail (qcQid e) = 0 ∧ t.fget F.queQStateOutstanding (qcQid e) = 0 ∧
        (t.qcfg (qcQid e)).sqSize = qcSqSize e ∧ (t.qcfg (qcQid e)).defaultTimeout = byteField e 32 4 ∧
        (qcCq e = qcQid e → t.fget F.queCqStateOwned (qcQid e) = 1 ∧ t.fget F.queCqStatePhase (qcQid e) = 1 ∧
          t.fget F.queCqStateVector (qcQid e) = qcVector e ∧ t.fget F.queCqStateCqTail (qcQid e) = 0 ∧
          t.fget F.queCqStateCqHead (qcQid e) = 0 ∧ (t.qcfg (qcQid e)).cqSize = qcCqSize e ∧ (t.qcfg (qcQid e)).cqAddr = qcAddr e) ∧
        t.cmd p = { s0.cmd p with ready := true, status := 0, result := 0 } ∧ (∀ k, k ≠ p → t.cmd k = s0.cmd k) ∧
        s0.OnlyRegs t (fun r i => r ∈ [.queQState, .queQState1, .queCqState, .queCqState1] ∧ i = qcQid e) ∧
        s0.OnlyParts t [.regs, .host]) ∧
    (sqOpcode e = 0x22 → qidFields e = true → s0.canReset (qcQid e) = true →
      exec (.queueReset 0) s = .next (s0.resetQueue (qcQid e) (some p) false)) ∧
    (sqOpcode e = 0x23 → qidFields e = true → s0.canReset (qcQid e) = true → s0.shared (qcQid e) = false →
      exec (.queueDelete 0) s = .next (s0.resetQueue (qcQid e) (some p) true))

/-- IDENTIFY (R455), LOG_GET (R456, R528), SETTING_GET and SETTING_SET (R527). -/
def Obligations.ReportsAndSettings : Prop :=
  ∀ (s s0 : State) (p : Nat) (e : List Byte), s.TakesNext 0 p e s0 →
    let told (c : Instr) (a : Nat) (bs : List Byte) (result : Nat) : Prop := ∃ t msgs, exec c s = .next t ∧
      t.host = { s0.host with outbox := s0.host.outbox ++ msgs, cmds := t.host.cmds } ∧ msgs.flatMap HostMsg.placed = placedAt a bs ∧
      (∀ m ∈ msgs, m.Small) ∧ t.cmd p = { s0.cmd p with ready := true, status := 0, result := result } ∧
      (∀ k, k ≠ p → t.cmd k = s0.cmd k) ∧ s0.OnlyParts t [.host]
    (sqOpcode e = 0x20 → sqFlags e = 0 → zeroAt e 9 7 = true → zeroAt e 24 40 = true → byteField e 16 8 % 4096 = 0 →
      (byteField e 8 1 = 0 → told (.identifyModule 0) (byteField e 16 8) s0.identifyModule 4096) ∧
      (byteField e 8 1 = 1 → told (.identifyQueueList 0) (byteField e 16 8) s0.identifyQueues 4096)) ∧
    (sqOpcode e = 0x2A → logFields e = true →
      let rs := s0.cfs.records (byteField e 32 8) (byteField e 24 4 / 64)
      told (.logGet 0) (byteField e 16 8) (padTo (byteField e 24 4) rs) rs.length) ∧
    (sqOpcode e = 0x2C → sqFlags e = 0 → zeroAt e 12 4 = true → zeroAt e 24 40 = true → knownSetting (byteField e 8 4) = true →
      byteField e 16 8 % 64 = 0 → told (.settingGet 0) (byteField e 16 8)
        (leBytes 8 (s0.setting (byteField e 8 4)) ++ leBytes 8 (Tbl.look 0 s0.cfs.settings (byteField e 8 4)) ++
          leBytes 4 (byteField e 8 4) ++ zeros 44) 64) ∧
    (sqOpcode e = 0x2B → sqFlags e = 0 → zeroAt e 12 4 = true → zeroAt e 24 40 = true → knownSetting (byteField e 8 4) = true →
      settingOk (byteField e 8 4) (byteField e 16 8) = true →
      exec (.settingSet 0) s = .next (s0.setCfs { s0.cfs with
        writes := s0.cfs.writes ++ [.setting (byteField e 8 4) (byteField e 16 8) (some p)] }))

/-- The admin queue's control (R439), COMMAND_TIMEOUT (R226), a late completion (R228) and CQ_AGGREGATION_TIMEOUT (R436). -/
def Obligations.AdminControlAndTimers : Prop :=
  (∀ s : State, s.Open → s.adminServed = true →
    (s.fget F.queQStateState 0 = 0 → s.adminCfgOk = true → ∃ t, exec .adminQueueEnable s = .next t ∧
      t.fget F.queQStateState 0 = 1 ∧ t.fget F.queQStateClass 0 = 1 ∧ t.fget F.queAdminCtlEnable 0 = 1 ∧
      t.fget F.queAdminCtlReady 0 = 1 ∧ t.fget F.queAdminCtlCfgBad 0 = 0 ∧ (t.qcfg 0).sqSize = s.fget F.queAdminCfgSqSize 0 ∧
      (t.qcfg 0).cqAddr = s.fget F.queAdminCqAddrAddr 0 ∧ s.OnlyParts t [.regs, .host]) ∧
    (s.fget F.queQStateState 0 = 0 → s.adminCfgOk = false → ∃ t, exec .adminQueueEnable s = .next t ∧
      t.fget F.queAdminCtlCfgBad 0 = 1 ∧ t.fget F.queQStateState 0 = 0 ∧ s.OnlyParts t [.regs, .host]) ∧
    (s.canReset 0 = true → exec .adminQueueDisable s =
      .next (((s.dropHeld 0x100010).fset F.queAdminCtlEnable 0 0).resetQueue 0 none true))) ∧
  (∀ s : State, s.Open → s.canReset 0 = true → exec .adminQueueReset s = .next ((s.dropHeld 0x100010).resetQueue 0 none false)) ∧
  (∀ (s : State) (p us : Nat), (s.cmd p).timeout = some us → sqOpcode (s.cmd p).entry ∉ [0x28, 0x29] → s.open p = true →
    700 * us ≤ cycSince (s.cyc 17) (s.cmd p).t0 → exec (.commandTimeout p) s =
      .next ((((s.stopped p).setHost { (s.stopped p).host with late := (s.stopped p).host.late + 1 }).decide p 0x3001 0).wake)) ∧
  (∀ (s : State) (p : Nat), 0 < s.host.late → ∃ t, exec (.completionArrival p true) s = .next t ∧
    t.fget F.queCtrCount 5 = (s.fget F.queCtrCount 5 + 1) % 2 ^ 48 ∧ s.OnlyRegs t (fun r i => r = .queCtr ∧ i = 5) ∧
    s.OnlyParts t [.regs]) ∧
  (∀ (s : State) (cq : QueueId), (s.qcfg cq.val).irqEn = true → (s.qcfg cq.val).sinceIrq ≠ 0 → (s.qcfg cq.val).aggUs ≠ 0 →
    ∃ t, exec (.cqAggregationTimeout cq) s = .next t ∧ (t.qcfg cq.val).sinceIrq = 0 ∧ s.OnlyParts t [.host] ∧
      let v := s.fget F.queCqStateVector cq.val
      if s.msixMasked v = true ∨ s.host.link = none then v ∈ t.host.msixPending ∧ t.host.outbox = s.host.outbox
      else t.host.outbox = s.host.outbox ++ [.msix v (bitsOf (s.msixEntry v) 0 64) (bitsOf (s.msixEntry v) 64 32)])

/-- A write of JOB.CTL (R283 to R285, R290, R302, R655) and of JOB.SCHED (R306). -/
def Obligations.JobControl : Prop :=
  ∀ (s : State) (j : JobId), s.Open →
    let put (word : Nat) : State := (s.dropHeld 0x210200).rset .jobCtl 0 (BitVec.ofNat 64 word)
    let posts (c : Instr) (t : State) (status : Nat) : Prop := exec c s = .next (t.fset F.jobCtlStatusStatus 0 status);
    (s.fget F.jobCtlStatusBusy 0 = 0 →
      (∀ (k : SlotId) (mask : Nat), mask < 2 ^ 32 →
        let fields := 16 * j.val + 4096 * k.val + 2 ^ 32 * mask;
        (let u := put (1 + fields)
        let bufs := (List.range 16).map (fun n => (u.fget F.jobBindBufBase n, u.fget F.jobBindBufLength n));
        (j.val = 0 ∨ u.jobBound j = true ∨ (u.slotState k ≠ 4 ∧ u.slotState k ≠ 5) → posts (.jobBind j k mask) u 0x1001) ∧
        (∀ (im : Image) (a : Nat) (u1 : State), (u.slot k).img = some im → j.val ≠ 0 → u.jobBound j = false → 1 ≤ k.val → k.val ≤ 63 →
          (u.slotState k = 4 ∨ u.slotState k = 5) → (∀ n < 16, u.bufferOk (im.group 9) n (bufs.getD n (0, 0)) = true) →
          u.mediaBusy = 0 → u.allocScratch (paScratch (im.group 9)) = some (a, u1) →
          let frames := if im.group 7 = [] then 0 else 3 * wnPlace (im.group 7);
          (frames = 0 ∨ u1.frameFloor frames = true) →
          posts (.jobBind j k mask) ((u1.setDepot { u1.depot with setAside := u1.depot.setAside + frames }).bindTo j k im
            { bufs := bufs.take (paBuffers (im.group 9)), scalars := u.boundScalars (im.group 9) mask,
              scratch := (a, paScratch (im.group 9)), window := frames }) 0)) ∧
        (let u := put (2 + fields);
          (j.val = 0 ∨ u.jobBound j = false → posts (.jobUnbind ⟨j, k, mask⟩) u 0x1001) ∧
          (j.val ≠ 0 → u.jobBound j = true → u.fget F.jobStateEndPending j = 0 →
            posts (.jobUnbind ⟨j, k, mask⟩) ((u.fset F.jobStateEndPending j 1).refresh j) 0)) ∧
        (let u := put (3 + fields)
          let es := if u.expressJobs.contains j.val then u.expressJobs else u.expressJobs ++ [j.val]
          let u1 := u.setJob j { u.job j with period := u.fget F.jobCfgPeriodUs j };
          (u1.expressTests es = true → posts (.jobExpressOn ⟨j, k, mask⟩) (((u1.fset F.jobStateExpress j 1).showBounds).enlist j (u.isExpress j)) 0) ∧
          (u1.expressTests es = false → posts (.jobExpressOn ⟨j, k, mask⟩) u 0x4010)) ∧
        (let u := put (4 + fields);
          (j.val = 0 ∨ u.jobBound j = false → posts (.jobExpressOff ⟨j, k, mask⟩) u 0x1001) ∧
          (j.val ≠ 0 → u.jobBound j = true → posts (.jobExpressOff ⟨j, k, mask⟩) ((u.unexpress j).expressAgain) 0))) ∧
      (∀ v : Word64, v.toNat % 16 = 0 ∨ 5 ≤ v.toNat % 16 →
        posts (.jobCtlReservedCmd v) (put (v.toNat % 2 ^ 18 + v.toNat / 2 ^ 32 * 2 ^ 32)) 0x1001)) ∧
    (s.fget F.jobCtlStatusBusy 0 = 1 → ∀ (k : SlotId) (mask : Nat),
      ∀ c ∈ [Instr.jobBind j k mask, .jobUnbind ⟨j, k, mask⟩, .jobExpressOn ⟨j, k, mask⟩, .jobExpressOff ⟨j, k, mask⟩, .jobCtlReservedCmd 0],
        exec c s = .next ((s.dropHeld 0x210200).fset F.jobCtlStatusRefused 0 1)) ∧
    ∀ n : Fin 128, exec (.expressShareWrite n) s = .next ((if 1 ≤ n.val ∧ n.val ≤ 75
      then (s.dropHeld 0x210210).fset F.jobSchedExpressShare 0 n else s.dropHeld 0x210210).expressAgain)

/-- SCAN (R357, R364, R374), SEARCH (R325), EMBED (R375, R376) and INGEST (R380) once taken. -/
def Obligations.ProgramsTaken : Prop :=
  ∀ (s s0 : State) (q : QueueId) (p : Nat) (e : List Byte), s.TakesNext q p e s0 →
    let fails (c : Instr) (st : Nat) : Prop := exec c s = .next (s0.fail p st)
    let joined : List Nat := if (s0.cmd p).cls = 0
      then s0.search.waiting.filter (fun w => (s0.cmd w).cls = 0) ++ [p] ++ s0.search.waiting.filter (fun w => (s0.cmd w).cls != 0)
      else s0.search.waiting ++ [p]
    (sqOpcode e = 0x08 →
      (scanFields e = false ∨ s0.scanKept e = true → fails (.scan q) 0x1001) ∧
      (scanFields e = true → s0.scanKept e = false → scJob e = 0 → s0.jobBound 0 = false → fails (.scan q) 0x400E) ∧
      (scanFields e = true → s0.scanKept e = false → (scJob e ≠ 0 ∨ s0.jobBound 0 = true) →
        (s0.scanJobOk e = false → fails (.scan q) 0x1001) ∧
        (s0.scanJobOk e = true → (scanNamesMedia e = true ∧ s0.mediaBusy ≠ 0 → fails (.scan q) s0.mediaBusy) ∧
          ((scanNamesMedia e = false ∨ s0.mediaBusy = 0) →
            (scProg e ≠ 0 → scProgDepot e = false → exec (.scan q) s = .next (s0.setCmd p { s0.cmd p with
              ranges := [(scProg e, 16)], want := 16, got := [] })) ∧
            (scProg e ≠ 0 → scProgDepot e = true → exec (.scan q) s = .next (s0.scanProgHere p)) ∧
            (scProg e = 0 → extentOk e (s0.scanProgram p) = true → siKeeps (spInstrs (s0.scanProgram p)) = [] → scArg e ≠ 0 →
              scArgDepot e = false → exec (.scan q) s = .next (s0.setCmd p { s0.cmd p with
                ranges := [(scArg e, argBytes (s0.scanProgram p))], want := argBytes (s0.scanProgram p), phase := 2 })))))) ∧
    (sqOpcode e = 0x09 →
      let kept := s0.namesKept (seRoot e) 4096 = true ∨ (seDepot e = true ∧ s0.namesKept (seQuery e) 2048 = true) ∨
        (seFiltered e = true ∧ s0.namesKept (seFilter e) (ceilDiv (seBits e) 8) = true);
      (searchFields e = false ∨ s0.searchJobOk (seJob e) = false ∨ kept → fails (.search q) 0x1001) ∧
      (searchFields e = true → s0.searchJobOk (seJob e) = true → ¬ kept →
        (seJob e = 0 → s0.jobBound 0 = false → fails (.search q) 0x400E) ∧
        ((seJob e ≠ 0 ∨ s0.jobBound 0 = true) →
          (2 ≤ seWiden e ∧ skWiden (s0.searchk (seJob e)) < seWiden e → fails (.search q) 0x1001) ∧
          ((seWiden e < 2 ∨ seWiden e ≤ skWiden (s0.searchk (seJob e))) →
            (searchNamesMedia e = true ∧ s0.mediaBusy ≠ 0 → fails (.search q) s0.mediaBusy) ∧
            ((searchNamesMedia e = false ∨ s0.mediaBusy = 0) →
              exec (.search q) s = .next (s0.setSearch { s0.search with waiting := joined })))))) ∧
    (sqOpcode e = 0x0A →
      let media := emSrc e < userEnd ∨ (emDepot e = true ∧ emDst e < userEnd) ∨ s0.jobTouchesMedia (emJob e) = true
      let n := s0.rowCapOf (emJob e) * emOut e;
      (embedFields e = false ∨ s0.embedKept e = true ∨ s0.encoderOk (emJob e) (emBytes e) (emOut e) = false ∨ s0.refusesRun (emJob e) = true →
        fails (.embed q) 0x1001) ∧
      (embedFields e = true → s0.embedKept e = false → s0.encoderOk (emJob e) (emBytes e) (emOut e) = true → s0.refusesRun (emJob e) = false →
        (media ∧ s0.mediaBusy ≠ 0 → fails (.embed q) s0.mediaBusy) ∧
        (¬ media ∨ s0.mediaBusy = 0 →
          (s0.allocScratch n = none → fails (.embed q) 0x4008) ∧
          ∀ (a b : Nat) (s1 s2 : State), s0.allocScratch n = some (a, s1) → s1.allocScratch n = some (b, s2) →
            exec (.embed q) s = .next ((s2.setScans { s2.scan with embeds := s2.scan.embeds ++
              [{ place := p, job := emJob e, src := emSrc e, items := emItems e, itemBytes := emBytes e, outBytes := emOut e,
                 cap := s0.rowCapOf (emJob e), dst := emDst e, inDepot := emDepot e, staging := (a, b) }] }).feedEmbed p)))) ∧
    (sqOpcode e = 0x0B →
      (ingestFields e = false ∨ s0.namesKept (inRoot e) 4096 = true → fails (.ingest q) 0x1001) ∧
      (ingestFields e = true → s0.namesKept (inRoot e) 4096 = false →
        let u := s0.usePage (inRoot e)
        let r := u.readRoot (inRoot e)
        let n := u.rowCapOf (inJob e) * r.vec;
        (s0.mediaBusy ≠ 0 → fails (.ingest q) s0.mediaBusy) ∧
        (s0.mediaBusy = 0 → u.readStatus (inRoot e) 192 = 0 →
          (r.ok = false → exec (.ingest q) s = .next (u.fail p 0x1004)) ∧
          (r.ok = true → u.mediaBusy = 0 →
            (u.encoderOk (inJob e) (inBytes e) r.vec = false ∨ u.refusesRun (inJob e) = true → exec (.ingest q) s = .next (u.fail p 0x1001)) ∧
            (u.encoderOk (inJob e) (inBytes e) r.vec = true → u.refusesRun (inJob e) = false →
              (u.fget F.flsHealthExhausted 0 = 1 → exec (.ingest q) s = .next (u.fail p 0x2003)) ∧
              ∀ (a b d : Nat) (s1 s2 s3 : State), u.fget F.flsHealthExhausted 0 = 0 → u.allocScratch n = some (a, s1) →
                s1.allocScratch n = some (b, s2) → s2.allocScratch (inItems e * r.vec) = some (d, s3) →
                let s4 := s3.setScans { s3.scan with embeds := s3.scan.embeds ++
                  [{ place := p, job := inJob e, src := inDst e, items := inItems e, itemBytes := inBytes e, outBytes := r.vec,
                     cap := u.rowCapOf (inJob e), dst := d, inDepot := true, staging := (a, b), root := some r.at_ }] };
                exec (.ingest q) s = .next
                  ((s4.setCmd p { s4.cmd p with ranges := [(inSrc e, inItems e * inBytes e)] }).writeGo p))))))

/-- INDEX_PUT, INDEX_DEL and SHUNT (R314, R342, R350, R590) once taken. -/
def Obligations.IndexCommandsTaken : Prop :=
  ∀ (s s0 : State) (q : QueueId) (p : Nat) (e : List Byte), s.TakesNext q p e s0 →
    let u := s0.usePage (ipRoot e)
    let r := u.readRoot (ipRoot e)
    let joins (v : State) : State :=
      (v.setSearch { v.search with mutators := v.search.mutators ++ [(r.at_, p)] }).mutate r.at_ (v.search.mutators.length + 1)
    let rootFails (c : Instr) (media : Prop) : Prop :=
      (s0.namesKept (ipRoot e) 4096 = true → exec c s = .next (s0.fail p 0x1001)) ∧
      (s0.namesKept (ipRoot e) 4096 = false → media → s0.mediaBusy ≠ 0 → exec c s = .next (s0.fail p s0.mediaBusy)) ∧
      (s0.namesKept (ipRoot e) 4096 = false → (¬ media ∨ s0.mediaBusy = 0) → u.readStatus (ipRoot e) 192 = 0 → r.ok = false → exec c s = .next (u.fail p 0x1004))
    let rootPasses (media : Prop) : Prop :=
      s0.namesKept (ipRoot e) 4096 = false ∧ (¬ media ∨ s0.mediaBusy = 0) ∧ u.readStatus (ipRoot e) 192 = 0 ∧ r.ok = true ∧ (r.inMedia = false ∨ u.mediaBusy = 0)
    (sqOpcode e = 0x0C →
      let media := ipRoot e < userEnd ∨ (ipDepot e = true ∧ ipSrc e < userEnd)
      let fields := sqFlags e = 0 ∧ byteField e 36 1 < 2 ∧ zeroAt e 37 27 = true ∧ rootAddrOk (ipRoot e) = true ∧ ipIds e % 64 = 0 ∧
        1 ≤ ipCount e ∧ ipCount e ≤ 4096 ∧ (ipDepot e = true ∨ ipSrc e % 64 = 0) ∧ (ipDepot e = false ∨ inDepot (ipSrc e) 1 = true)
      (¬ fields → exec (.indexPut q) s = .next (s0.fail p 0x1001)) ∧
      (fields → rootFails (.indexPut q) media ∧ (rootPasses media →
        (ipDepot e = false → 0 < r.vec → exec (.indexPut q) s = .next (joins (u.setCmd p { u.cmd p with
          ranges := [(ipSrc e, ipCount e * r.vec)], want := ipCount e * r.vec, got := [] }))) ∧
        (ipDepot e = true → inDepot (ipSrc e) (ipCount e * r.vec) = false ∨ u.namesKept (ipSrc e) (ipCount e * r.vec) = true →
          exec (.indexPut q) s = .next (u.fail p 0x1001)) ∧
        (ipDepot e = true → inDepot (ipSrc e) (ipCount e * r.vec) = true → u.namesKept (ipSrc e) (ipCount e * r.vec) = false →
          exec (.indexPut q) s = .next (joins u))))) ∧
    (sqOpcode e = 0x0D →
      let n := byteField e 24 4
      let fields := sqFlags e = 0 ∧ zeroAt e 28 36 = true ∧ rootAddrOk (ipRoot e) = true ∧ byteField e 16 8 % 64 = 0 ∧ 1 ≤ n ∧ n ≤ 65536;
      (¬ fields → exec (.indexDel q) s = .next (s0.fail p 0x1001)) ∧
      (fields → rootFails (.indexDel q) (ipRoot e < userEnd) ∧ (rootPasses (ipRoot e < userEnd) →
        exec (.indexDel q) s = .next (joins (u.setCmd p { u.cmd p with
          ranges := [(byteField e 16 8, 8 * n)], want := 8 * n, got := [] }))))) ∧
    (sqOpcode e = 0x2F → q.val = 0 →
      let fields := sqFlags e = 0 ∧ byteField e 24 1 < 2 ∧ zeroAt e 25 39 = true ∧ rootAddrOk (ipRoot e) = true;
      (s0.fget F.glbMaintOp 0 = 3 → exec (.shunt q) s = .next (s0.setPower { s0.power with behind := s0.power.behind ++ [p] })) ∧
      (s0.fget F.glbMaintOp 0 ≠ 3 →
        (¬ fields → exec (.shunt q) s = .next (s0.fail p 0x1001)) ∧
        (fields → shEffort e = 0 → s0.jobBound 0 = false → exec (.shunt q) s = .next (s0.fail p 0x400E)) ∧
        (fields → (shEffort e ≠ 0 ∨ s0.jobBound 0 = true) →
          rootFails (.shunt q) (ipRoot e < userEnd) ∧ (rootPasses (ipRoot e < userEnd) →
            ((u.shuntOf r.at_).isSome = true → exec (.shunt q) s = .next (u.fail p 0x5003)) ∧
            ((u.shuntOf r.at_).isSome = false → exec (.shunt q) s = .next (joins u))))))

/-- JOB_SIGNAL (R291) and RUN (R287, R451 to R453) once taken. -/
def Obligations.RunAndSignals : Prop :=
  ∀ (s s0 : State) (q : QueueId) (p : Nat) (e : List Byte), s.TakesNext q p e s0 →
    let j := byteField e 8 1
    let fails (c : Instr) (st : Nat) : Prop := exec c s = .next (s0.fail p st)
    let ends (t : State) : Prop := t.cmd p = { s0.cmd p with ready := true, status := 0, result := 0 };
    (sqOpcode e = 0x11 →
      let code := byteField e 9 1
      let c : Instr := if code = 1 then .jobSignalUnhold q else if code = 2 then .jobSignalEnd q
        else if code = 3 then .jobSignalWeight q else .jobSignalHold q
      (signalFields e = false ∨ j = 0 ∨ s0.jobBound j = false → fails c 0x1001) ∧
      (signalFields e = true → j ≠ 0 → s0.jobBound j = true →
        (code = 0 →
          (∀ r, (s0.job j).run = some r → ∃ t, exec c s = .next t ∧ t.fget F.jobStateHold j = 1 ∧ t.cmd p = s0.cmd p ∧
            t.job j = { s0.job j with holdWait := (s0.job j).holdWait ++ [p] } ∧
            s0.OnlyRegs t (fun r i => r = .jobState ∧ i = j) ∧ s0.OnlyParts t [.regs, .jobs]) ∧
          ((s0.job j).run = none → ∃ t, exec c s = .next t ∧ t.fget F.jobStateHold j = 1 ∧ ends t ∧
            t.job j = { s0.job j with holdWait := [] } ∧
            s0.OnlyRegs t (fun r i => r = .jobState ∧ i = j) ∧ s0.OnlyParts t [.regs, .jobs, .host])) ∧
        (code = 1 → s0.fget F.jobStateHold j = 0 ∨ (s0.job j).run.isSome = true → ∃ t, exec c s = .next t ∧ t.fget F.jobStateHold j = 0 ∧ ends t ∧
          s0.OnlyRegs t (fun r i => r = .jobState ∧ i = j) ∧ s0.OnlyParts t [.regs, .host]) ∧
        (code = 2 → exec c s = .next (((s0.setJob j { s0.job j with endWait := (s0.job j).endWait ++ [p] }).fset F.jobStateEndPending j 1).refresh j)) ∧
        (code = 3 → ∃ t, exec c s = .next t ∧ t.fget F.jobCfgWeight j = byteField e 12 4 % 2 ^ 10 ∧ ends t ∧
          s0.OnlyRegs t (fun r i => r = .jobCfg ∧ i = j) ∧ s0.OnlyParts t [.regs, .host]))) ∧
    (sqOpcode e = 0x10 →
      (runFields e = false ∨ s0.refusesRun j = true ∨ (s0.homeOf j).isSome = true → fails (.run q) 0x1001) ∧
      (runFields e = true → s0.refusesRun j = false → s0.homeOf j = none →
        (s0.fget F.jobBatchCfgEnabled j = 0 →
          (runPlain e = false → fails (.run q) 0x1001) ∧
          (runPlain e = true →
            (s0.jobTouchesMedia j = true → s0.mediaBusy ≠ 0 → fails (.run q) s0.mediaBusy) ∧
            ((s0.jobTouchesMedia j = false ∨ s0.mediaBusy = 0) →
              let h := s0.job j
              let queue := h.queue ++ [(.command p, s0.homeCyc j)]
              exec (.run q) s = .next ((((s0.setJob j { h with queue := queue }).fset F.jobStatePending j queue.length).expressReady j).refresh j)))) ∧
        (s0.fget F.jobBatchCfgEnabled j = 1 →
          (runRowsOk e = false ∨ s0.runKept e = true ∨ s0.sizesOk j e = false → fails (.run q) 0x1001) ∧
          (runRowsOk e = true → s0.runKept e = false → s0.sizesOk j e = true →
            (s0.runMedia j e = true → s0.mediaBusy ≠ 0 → fails (.run q) s0.mediaBusy) ∧
            ((s0.runMedia j e = false ∨ s0.mediaBusy = 0) →
              (s0.giveStaging j e = none → fails (.run q) 0x4008) ∧
              (∀ s1, s0.giveStaging j e = some s1 →
                let s2 := s1.askRows p e
                let rows := (List.range (ruRows e)).map (fun r => ({ place := some p, row := r, class0 := (s2.cmd p).cls = 0, joined := s2.homeCyc j } : BatchRow))
                exec (.run q) s =
                  .next ((s2.setBatcher j { s2.batcher j with waiting := (s2.batcher j).waiting ++ rows }).batches j)))))))

/-- STITCH and UNSTITCH (R188, R189), FW_STAGE and FW_ACTIVATE (R587 to R590), SANITISE and FORMAT (R580, R581, R585) once taken. -/
def Obligations.MaintenanceTaken : Prop :=
  ∀ (s s0 : State) (p : Nat) (e : List Byte), s.TakesNext 0 p e s0 →
    let gives (c : Instr) (t : State) : Prop := exec c s = .next t
    let busy := s0.fget F.glbMaintOp 0
    let waits := s0.setPower { s0.power with behind := s0.power.behind ++ [p] }
    let n := byteField e 12 4
    let asks (v : State) : State := v.setCmd p { v.cmd p with ranges := [(byteField e 16 8, n)], want := n, got := [] };
    (sqOpcode e = 0x24 →
      (stitchFields e = false → gives (.stitch 0) ((s0.lastFail (plainFail 0x1001 0) 0).fail p 0x1001)) ∧
      (stitchFields e = true → gives (.stitch 0) ((s0.setTt { s0.tt with queue := s0.tt.queue ++
        [{ by_ := .command p, slot := byteField e 21 1, replace := byteField e 22 1, mask := byteField e 24 8,
           checkOnly := sqFlags e = 1, lib := if byteField e 20 1 = 1 then some (byteField e 8 2) else none,
           addr := byteField e 8 8, len := byteField e 16 4 }] }).stitchKick))) ∧
    (sqOpcode e = 0x25 →
      (sqFlags e ≠ 0 ∨ 63 < byteField e 8 1 ∨ zeroAt e 9 55 = false →
        gives (.unstitch 0) ((s0.lastFail (plainFail 0x1001 0) 0).fail p 0x1001)) ∧
      (sqFlags e = 0 → byteField e 8 1 ≤ 63 → zeroAt e 9 55 = true → gives (.unstitch 0) ((s0.setTt { s0.tt with queue := s0.tt.queue ++
        [{ by_ := .command p, unstitch := true, slot := byteField e 8 1 }] }).stitchKick))) ∧
    (sqOpcode e = 0x26 →
      (byteField e 8 1 ≠ 1 → byteField e 8 1 ≠ 2 →
        (stageFields e = false → gives (.fwStageImage 0) (s0.fail p 0x1001)) ∧
        (stageFields e = true → busy = 3 → gives (.fwStageImage 0) (s0.fail p 0x5004)) ∧
        (stageFields e = true → busy ≠ 3 → 0 < n →
          gives (.fwStageImage 0) (asks (s0.invalidate (1 - s0.fget F.glbFwRunning 0))))) ∧
      (byteField e 8 1 = 1 →
        (busy = 3 → gives (.fwStageLibraryAdd 0) waits) ∧
        (busy ≠ 3 → stageFields e = false → gives (.fwStageLibraryAdd 0) (s0.fail p 0x1001)) ∧
        (busy ≠ 3 → stageFields e = true → n = 0 → gives (.fwStageLibraryAdd 0) (s0.finish p 0x4004 0)) ∧
        (busy ≠ 3 → stageFields e = true → 0 < n → gives (.fwStageLibraryAdd 0) (asks s0))) ∧
      (byteField e 8 1 = 2 →
        (busy = 3 → gives (.fwStageLibraryRemove 0) waits) ∧
        (busy ≠ 3 → stageFields e = false → gives (.fwStageLibraryRemove 0) (s0.fail p 0x1001)) ∧
        (busy ≠ 3 → stageFields e = true → byteField e 10 2 ≠ Tbl.look 0 s0.cfs.settings 0x0003 →
          gives (.fwStageLibraryRemove 0) (s0.setCfs { s0.cfs with
            writes := s0.cfs.writes ++ [.libRemove (byteField e 10 2) (some p)] })))) ∧
    (sqOpcode e = 0x27 →
      (sqFlags e = 0 → zeroAt e 8 56 = true →
        (s0.activateBad = true → gives (.fwActivate 0) (s0.fail p 0x5004)) ∧
        (s0.activateBad = false → busy ≠ 0 → gives (.fwActivate 0) waits) ∧
        (s0.activateBad = false → busy = 0 → gives (.fwActivate 0)
          ((s0.setPower { s0.power with activateBy := some p, restarted := [], handed := [] }).progress 3 1 0 1))) ∧
      (sqFlags e % 2 = 0 → sqFlags e ≠ 0 ∨ zeroAt e 8 56 = false → gives (.fwActivate 0) (s0.fail p 0x1001)) ∧
      (sqFlags e = 1 → zeroAt e 8 56 = true → gives (.fwActivateNextBoot 0) (s0.setCfs { s0.cfs with
        writes := s0.cfs.writes ++ [.setting 0x0002 (1 - s0.fget F.glbFwRunning 0) (some p)] })) ∧
      (sqFlags e % 2 = 1 → sqFlags e ≠ 1 ∨ zeroAt e 8 56 = false → gives (.fwActivateNextBoot 0) (s0.fail p 0x1001))) ∧
    (sqOpcode e = 0x28 →
      let c : Instr := if byteField e 8 1 = 1 then .sanitiseOverwrite 0 else .sanitiseBlockErase 0;
      (busy = 3 → gives c waits) ∧
      (busy ≠ 3 → sqFlags e ≠ 0 ∨ 1 < byteField e 8 1 ∨ zeroAt e 9 55 = false → gives c (s0.fail p 0x1001)) ∧
      (busy ≠ 3 → sqFlags e = 0 → byteField e 8 1 ≤ 1 → zeroAt e 9 55 = true →
        (busy = 1 → gives c (s0.fail p 0x5001)) ∧ (busy = 2 → gives c (s0.fail p 0x5002)) ∧
        (busy = 0 → gives c (((((s0.setCfs { s0.cfs with
          sanitiseAction := byteField e 8 1, notErasable := 0, notProgrammable := 0 }).progress 1 1 0 1).clearMediaWork 0x5001).sanClear).sanRounds
          (byteField e 8 1))))) ∧
    (sqOpcode e = 0x29 →
      (busy = 3 → gives (.format 0) waits) ∧
      (busy ≠ 3 → sqFlags e ≠ 0 ∨ zeroAt e 8 56 = false → gives (.format 0) (s0.fail p 0x1001)) ∧
      (busy ≠ 3 → sqFlags e = 0 → zeroAt e 8 56 = true →
        (busy = 1 → gives (.format 0) (s0.fail p 0x5001)) ∧ (busy = 2 → gives (.format 0) (s0.fail p 0x5002)) ∧
        (busy = 0 → gives (.format 0)
          ((((s0.progress 2 1 0 1).clearMediaWork 0x5002).formatCommit.finish p 0 0).formatErases))))

/-- SPARE_ACT (R556 to R560) and FABRIC_SET (R404, R420, R421) once taken; whether a returning station's self-test passes is a free
value (log entry 6). -/
def Obligations.SpareActAndFabricTaken : Prop :=
  ∀ (s s0 : State) (p : Nat) (e : List Byte), s.TakesNext 0 p e s0 →
    let gives (c : Instr) (t : State) : Prop := exec c s = .next t
    let fails (c : Instr) (st : Nat) : Prop := gives c (s0.fail p st)
    let busy := s0.fget F.glbMaintOp 0
    let i := saIsland e;
    (sqOpcode e = 0x2D →
      (∀ c ∈ [(0, Instr.spareActDramRowRepair 0), (1, .spareActLaneRowRetire 0), (2, .spareActStationReturn 0), (3, .spareActErrorInjection 0)],
        saAction e = c.1 → spareFields e = false → fails c.2 0x1001) ∧
      (saAction e = 0 → spareFields e = true → islandClass i = 3 → saUnit e < 32 → saTarget e < 2 ^ 22 →
        gives (.spareActDramRowRepair 0) (s0.startRowRepair (i / 35 * 8 + (i % 35 - 18)) (saUnit e) (saTarget e) 5 (some p))) ∧
      (saAction e = 1 → spareFields e = true → islandClass i = 0 → saUnit e < 32 →
        gives (.spareActLaneRowRetire 0) (s0.retireLane (stationOf i) (saUnit e) 5 [] (some p))) ∧
      (saAction e = 2 → spareFields e = true → islandClass i = 0 → s0.fget F.stnStateFenced (stationOf i) = 1 →
        (s0.fget F.stnStateCause (stationOf i) ∉ [1, 3, 4, 5] → gives (.spareActStationReturn 0) (s0.finish p 0x2006 0)) ∧
        (s0.fget F.stnStateCause (stationOf i) ∈ [1, 3, 4, 5] →
          let u := s0.setFreeCtr (s0.freeCtr + 1)
          gives (.spareActStationReturn 0) (if Config.freeBool s0.freeCtr then (u.returnStation (stationOf i)).finish p 0 0
            else u.finish p 0x2006 0))) ∧
      (saAction e = 3 → spareFields e = true → byteField e 24 1 ≤ 2 → injectable i (saUnit e) (byteField e 25 1) = true →
        gives (.spareActErrorInjection 0) ((s0.setEcc { s0.ecc with injected := s0.ecc.injected ++
          [{ island := i, unit := saUnit e, word := byteField e 16 8, kind := byteField e 24 1, place := byteField e 25 1 }] }).finish p 0 0))) ∧
    (sqOpcode e = 0x2E →
      (busy = 3 →
        ∀ c ∈ [Instr.fabricSetInstall 0, .fabricSetPull 0, .fabricSetClear 0], byteField e 8 1 = [Instr.fabricSetInstall 0, .fabricSetPull 0, .fabricSetClear 0].idxOf c →
          gives c (s0.setPower { s0.power with behind := s0.power.behind ++ [p] })) ∧
      (busy ≠ 3 → byteField e 8 1 = 0 → sqFlags e = 0 → zeroAt e 9 7 = true → byteField e 16 8 % 64 = 0 → zeroAt e 28 36 = true →
        64 ≤ byteField e 24 4 → gives (.fabricSetInstall 0) (s0.setCmd p { s0.cmd p with
          ranges := [(byteField e 16 8, byteField e 24 4)], want := byteField e 24 4, got := [] })) ∧
      (busy ≠ 3 → byteField e 8 1 = 0 → sqFlags e ≠ 0 ∨ zeroAt e 9 7 = false ∨ byteField e 16 8 % 64 ≠ 0 ∨ zeroAt e 28 36 = false ∨
        byteField e 24 4 < 64 → fails (.fabricSetInstall 0) 0x1001) ∧
      (busy ≠ 3 → byteField e 8 1 = 1 →
        let dst := byteField e 24 8
        let len := byteField e 32 8
        let peer := byteField e 9 1
        sqFlags e = 0 → zeroAt e 10 6 = true → zeroAt e 40 24 = true → byteField e 16 8 % 65536 = 0 → dst % 65536 = 0 → len % 65536 = 0 →
          1 ≤ len → len ≤ 2 ^ 42 → inDepot dst len = true → s0.namesKept dst len = false → peer ≤ 254 → s0.linesTo peer ≠ [] →
          (dst < userEnd → s0.mediaBusy ≠ 0 → fails (.fabricSetPull 0) s0.mediaBusy) ∧
          (dst < userEnd → s0.mediaBusy = 0 → s0.fget F.flsHealthExhausted 0 = 1 → fails (.fabricSetPull 0) 0x2003) ∧
          (userEnd ≤ dst ∨ (s0.mediaBusy = 0 ∧ s0.fget F.flsHealthExhausted 0 = 0) →
            let x : Pull := { place := p, peer := peer, addr := byteField e 16 8, dst := dst, len := len }
            gives (.fabricSetPull 0) ((s0.setMesh { s0.mesh with pulls := s0.mesh.pulls ++ [x] }).pullOn x))) ∧
      (busy ≠ 3 → byteField e 8 1 = 2 →
        (sqFlags e ≠ 0 ∨ zeroAt e 9 55 = false → fails (.fabricSetClear 0) 0x1001) ∧
        (sqFlags e = 0 → zeroAt e 9 55 = true →
          gives (.fabricSetClear 0) ((s0.setMesh { s0.mesh with changes := s0.mesh.changes ++ [(p, none)] }).meshNext))))

/-- GLB.PRIV_LOCK (R607) and the signed unlock (R610, R611); the 32 bytes of a challenge are free values (log entry 6). -/
def Obligations.LockAndUnlock : Prop :=
  ∀ s : State,
    (s.hears = true → ∃ t, exec .privLockSet s = .next t ∧ t.fget F.glbPrivLockLock 0 = 1 ∧
      s.OnlyRegs t (fun r i => r = .glbPrivLock ∧ i = 0) ∧ s.OnlyParts t [.regs, .host]) ∧
    (∀ n : Fin 8, s.hears = true →
      (s.fget F.glbUnlockCtlBusy 0 = 0 →
        (∃ t, exec (.unlockNewChallenge n) s = .next t ∧ t.fget F.glbUnlockCtlSigner 0 = n ∧
          s.OnlyRegs t (fun r i => r = .glbUnlockCtl ∧ i = 0) ∧ s.OnlyParts t [.regs, .host, .security] ∧
          (s.security.backOff = true → t.fget F.glbUnlockCtlResult 0 = 5 ∧ t.fget F.glbUnlockCtlBusy 0 = 0 ∧ t.security = s.security) ∧
          (s.security.backOff = false → t.fget F.glbUnlockCtlBusy 0 = 1 ∧ t.security = { s.security with making := true })) ∧
        (∃ t, exec (.unlockVerify n) s = .next t ∧ t.fget F.glbUnlockCtlSigner 0 = n ∧ t.fget F.glbUnlockCtlBusy 0 = 1 ∧
          s.OnlyRegs t (fun r i => r = .glbUnlockCtl ∧ i = 0) ∧ s.OnlyParts t [.regs, .host, .security] ∧
          t.security = { s.security with verifying := true })) ∧
      (s.fget F.glbUnlockCtlBusy 0 = 1 → ∀ c ∈ [Instr.unlockNewChallenge n, .unlockVerify n], exec c s = .next (s.dropHeld 0x300))) ∧
    (s.security.making = true → ∃ t, exec .unlockChallengeReady s = .next t ∧ t.fget F.glbUnlockCtlChalValid 0 = 1 ∧
      t.fget F.glbUnlockCtlBusy 0 = 0 ∧ t.security = { s.security with making := false } ∧
      s.OnlyRegs t (fun r _ => r = .glbUnlockCtl ∨ r = .glbUnlockChal) ∧ s.OnlyParts t [.regs, .security, .freeCtr]) ∧
    (s.security.verifying = true →
      let r := s.unlockResult
      let s1 := (((s.setSecurity { s.security with verifying := false }).fset F.glbUnlockCtlBusy 0 0).fset F.glbUnlockCtlResult 0 r).clearChallenge;
      (s.fget F.glbUnlockCtlChalValid 0 = 0 → r = 4) ∧
      (s.fget F.glbUnlockCtlChalValid 0 = 1 → s.signerOk (s.fget F.glbUnlockCtlSigner 0) = false → r = 3) ∧
      (s.fget F.glbUnlockCtlChalValid 0 = 1 → s.signerOk (s.fget F.glbUnlockCtlSigner 0) = true →
        r = if s.unlockSigned (s.fget F.glbUnlockCtlSigner 0) then 1 else 2) ∧
      exec .unlockVerifyDone s = .next (if r = 1 then s1.unlocks else s1.unlockFails r)) ∧
    (s.fget F.glbUnlockCtlChalValid 0 = 1 → s.security.verifying = false → ∃ t, exec .unlockChallengeLapse s = .next t ∧
      t.fget F.glbUnlockCtlChalValid 0 = 0 ∧ (∀ i < 4, t.rget .glbUnlockChal i = 0) ∧
      s.OnlyRegs t (fun r _ => r = .glbUnlockCtl ∨ r = .glbUnlockChal) ∧ s.OnlyParts t [.regs]) ∧
    exec .unlockBackoffEnd s = .next (s.setSecurity { s.security with backOff := false })

/-- SEC.KEY_CTL (R614), GLB.EVENT_CFG (R624), and the lock's refusal of both (R607, R608). -/
def Obligations.KeysAndEventCfg : Prop :=
  ∀ s : State,
    (∀ n : Fin 8, s.Open →
      let ctl (cmd : Nat) : State := ((s.dropHeld 0x2000440).fset F.secKeyCtlCmd 0 cmd).fset F.secKeyCtlSigner 0 n
      let hands (cmd : Nat) (key : List Byte) : State := ((ctl cmd).fset F.secKeyCtlBusy 0 1).cfsWrite (.key n key)
      let key := (s.rgetBytes .secKeyStage 0 8).take 57;
      (s.fget F.secKeyCtlBusy 0 = 0 → n.val = 0 →
        exec (.signerKeyInstall n) s = .next ((ctl 1).fset F.secKeyCtlStatus 0 0x1001) ∧
        exec (.signerKeyRemove n) s = .next ((ctl 2).fset F.secKeyCtlStatus 0 0x1001)) ∧
      (s.fget F.secKeyCtlBusy 0 = 0 → n.val ≠ 0 →
        (edPointOk key = true → exec (.signerKeyInstall n) s = .next (hands 1 key)) ∧
        (edPointOk key = false → exec (.signerKeyInstall n) s = .next ((ctl 1).fset F.secKeyCtlStatus 0 0x1001)) ∧
        exec (.signerKeyRemove n) s = .next (hands 2 (zeros 57))) ∧
      (s.fget F.secKeyCtlBusy 0 = 1 → ∀ c ∈ [Instr.signerKeyInstall n, .signerKeyRemove n], exec c s = .next (s.dropHeld 0x2000440))) ∧
    (∀ v : Word64, s.Open →
      let u0 := ((s.dropHeld 0x400).fset F.glbEventCfgVector 0 v.toNat).fset F.glbEventCfgEnable 0 (bitsOf v.toNat 11 1)
      let u := u0.fset F.glbEventCfgMask 0 (bitsOf v.toNat 32 16)
      let raise := bitsOf v.toNat 11 1 = 1 ∧ ∃ k < 16, (bitsOf v.toNat 32 16).testBit k = true ∧ (s.fget F.glbEventCfgMask 0).testBit k = false ∧
        (s.rget .glbEventStatus 0).toNat.testBit k = true
      (raise → exec (.eventCfgWrite v) s = .next (u.raiseMsix (v.toNat % 2 ^ 11))) ∧
      (¬ raise → exec (.eventCfgWrite v) s = .next u)) ∧
    (s.hears = true → s.locked = true → ∀ (v : Word64) (n : Fin 8),
      exec (.eventCfgWrite v) s = .next ((s.dropHeld 0x400).refuseWrite 0x400) ∧
      (∀ c ∈ [Instr.signerKeyInstall n, .signerKeyRemove n], exec c s = .next ((s.dropHeld 0x2000440).refuseWrite 0x2000440)))

/-- REGISTER_WRITE at JOB.BATCH_CFG and JOB.RERUN_CFG (R124, R155; R602 for the two halves). -/
def Obligations.JobRegisterWrites : Prop :=
  ∀ (s : State) (j : JobId) (v : Word64), s.hears = true →
    let off := 0x208000 + 0x40 * j.val
    let batch (t : State) : Prop := s.OnlyRegs t (fun r i => r = .jobBatchCfg ∧ i = j.val) ∧ s.OnlyParts t [.regs, .host] ∧
      (s.fget F.jobBatchCfgEnabled j = 0 → t.rget .jobBatchCfg j = s.rget .jobBatchCfg j) ∧
      (s.fget F.jobBatchCfgEnabled j = 1 →
        t.fget F.jobBatchCfgTargetM j = (if bitsOf v.toNat 0 13 = 0 ∨ s.fget F.jobBatchCfgRowCap j < bitsOf v.toNat 0 13
          then s.fget F.jobBatchCfgRowCap j else bitsOf v.toNat 0 13) ∧
        t.fget F.jobBatchCfgWaitUs j = bitsOf v.toNat 16 16 ∧ t.fget F.jobBatchCfgRowCap j = s.fget F.jobBatchCfgRowCap j ∧
        t.fget F.jobBatchCfgEnabled j = 1)
    (∃ t, exec (.registerWrite 0 off 8 v) s = .next t ∧ batch t) ∧
    (∃ u t, exec (.registerWrite 0 off 4 (v &&& 0xFFFFFFFF)) s = .next u ∧ exec (.registerWrite 0 (off + 4) 4 (v >>> 32)) u = .next t ∧
      s.OnlyRegs u (fun _ _ => False) ∧ batch t) ∧
    (∃ t, exec (.registerWrite 0 (0x20C000 + 0x40 * j.val) 4 v) s = .next t ∧
      s.OnlyRegs t (fun r i => r = .jobRerunCfg ∧ i = j.val) ∧ s.OnlyParts t [.regs, .host] ∧
      t.fget F.jobRerunCfgLimit j = (if s.fget F.jobRerunCfgAllow j < bitsOf v.toNat 0 4 then s.fget F.jobRerunCfgAllow j
        else bitsOf v.toNat 0 4) ∧
      t.fget F.jobRerunCfgCeilAdj j = bitsOf v.toNat 8 4 ∧ t.fget F.jobRerunCfgAllow j = s.fget F.jobRerunCfgAllow j)

/-- COUNTER_LOW_HALF_READ (R97), CLEAR_ON_READ (R12), MIRROR_READ (R428, R601, R604 to R606), TMX_SAMPLE_READ (R208), MIRROR_PUSH_STATION
and MIRROR_PUSH_JOB (R605, R654). -/
def Obligations.ViewReads : Prop :=
  (∀ s : State, s.hears = true →
    (∀ off : Nat, off % 4 ≠ 0 → exec (.counterLowHalfRead off) s = .next ((s.bump F.glbLockStatBadSize 0 1).send (.regAnswer 0))) ∧
    (∀ off : Nat, off % 4 = 0 → regAt off = none → off ≠ adminSqDb → off ≠ adminCqDb →
      exec (.counterLowHalfRead off) s = .next (s.send (.regAnswer 0))) ∧
    (∀ off ∈ [adminSqDb, adminCqDb], exec (.counterLowHalfRead off) s = .next s) ∧
    (∀ (off : Nat) (r : RegRow) (i : Nat), off % 4 = 0 → regAt off = some (r, i) → r.bits = 64 →
      let w := (s.rget r.reg i).toNat
      let key := off / 8 * 8;
      (off % 8 = 0 → exec (.counterLowHalfRead off) s = .next ((s.setHost { s.host with
        latches := Tbl.put none s.host.latches key (some (w / 2 ^ 32)) }).send (.regAnswer (w % 2 ^ 32)))) ∧
      (∀ v, off % 8 = 4 → Tbl.look none s.host.latches key = some v → exec (.counterLowHalfRead off) s =
        .next ((s.setHost { s.host with latches := Tbl.put none s.host.latches key none }).send (.regAnswer v))) ∧
      (off % 8 = 4 → Tbl.look none s.host.latches key = none → exec (.counterLowHalfRead off) s = .next (s.send (.regAnswer (w / 2 ^ 32))))) ∧
    (∀ (off : Nat) (r : RegRow) (i : Nat), off % 4 = 0 → regAt off = some (r, i) → r.bitsWith .rc ≠ 0 →
      ∃ t, exec (.clearOnRead off) s = .next t ∧ t.rget r.reg i = s.rget r.reg i &&& ~~~ r.bitsWith .rc ∧
        t.host = { s.host with outbox := s.host.outbox ++ [.regAnswer (s.rget r.reg i).toNat] } ∧
        s.OnlyRegs t (fun q k => q = r.reg ∧ k = i) ∧ s.OnlyParts t [.regs, .host]) ∧
    (∀ off size, (size ≠ 4 ∧ size ≠ 8) ∨ off % size ≠ 0 → exec (.mirrorRead off size) s = .next ((s.bump F.glbLockStatBadSize 0 1).send (.regAnswer 0))) ∧
    (∀ q, 0 < q → q < 1024 → exec (.mirrorRead (8 * q) 8) s = .next (s.send (.regAnswer (s.fget F.queQStateTail q + 2 ^ 16 * s.fget F.queQStateHead q))) ∧
      exec (.mirrorRead (0x4000 + 8 * q) 8) s = .next (s.send (.regAnswer (s.fget F.queCqStateCqHead q)))) ∧
    (∀ off, off % 8 = 0 → isDoorbell off = false → mirrorSource off = none → exec (.mirrorRead off 8) s = .next (s.send (.regAnswer 0))) ∧
    (∀ (off : Nat) (r : Reg) (i ub : Nat), off % 8 = 0 → isDoorbell off = false → mirrorSource off = some (r, i, ub) →
      (off ∈ s.security.fresh → exec (.mirrorRead off 8) s = .next ((s.setSecurity { s.security with
        fresh := s.security.fresh.filter (· != off) }).send (.regAnswer (withBits (Tbl.look 0 s.security.mirrors off) ub 1 0)))) ∧
      (off ∉ s.security.fresh → exec (.mirrorRead off 8) s = .next ((s.bump F.glbIslandInfoUnderruns 140 1).send
        (.regAnswer (withBits (Tbl.look 0 s.security.mirrors off) ub 1 1))))) ∧
    (exec (.tmxSampleRead []) s = .next (((s.bump F.glbIslandInfoUnderruns 17 1).fset F.tmxSampleUnderrun 0 1).send
      (.regAnswer (((s.bump F.glbIslandInfoUnderruns 17 1).fset F.tmxSampleUnderrun 0 1).rget .tmxSample 0).toNat))) ∧
    (∀ n : Fin 32, ∃ t, exec (.tmxSampleRead [n]) s = .next t ∧
      t.fget ⟨.tmxSample, n, 1⟩ 0 = (if s.host.tmo[n.val]?.getD false then 1 else 0) ∧
      t.fget F.tmxSampleUnderrun 0 = 0 ∧ s.OnlyRegs t (fun q _ => q = .tmxSample) ∧ s.OnlyParts t [.regs, .host] ∧
      t.host = { s.host with outbox := s.host.outbox ++ [.regAnswer (t.rget .tmxSample 0).toNat] })) ∧
  (∀ (s : State) (st : StationId), ∃ t, exec (.mirrorPushStation st) s = .next t ∧ s.OnlyParts t [.security] ∧
    (∀ n < 33, ∀ i < 16, laneMirror st n i ∈ t.security.fresh ∧
      Tbl.look 0 t.security.mirrors (laneMirror st n i) = (s.rget .stnLrCtr (lrIdx st n i)).toNat)) ∧
  (∀ (s : State) (d : DieId), ∃ t, exec (.mirrorPushJob d) s = .next t ∧ s.OnlyParts t [.security] ∧
    (∀ j < 256, s.ownerDie j = d → ∀ i < 10, ∃ r k ub, mirrorSource (jobMirror j i) = some (r, k, ub) ∧
      jobMirror j i ∈ t.security.fresh ∧ Tbl.look 0 t.security.mirrors (jobMirror j i) = (s.rget r k).toNat))

/-- COUNTER_SNAPSHOT and COUNTER_CLEAR (R98, R603), STACK_CE_LOG_CLEAR and STATION_CE_LOG_CLEAR (R563), RAW_READ_START and
RAW_READ_DONE (R497). -/
def Obligations.CountersAndLogs : Prop :=
  (∀ (s : State) (st : StationId), s.hears = true →
    (s.fget F.stnStateFenced st = 0 →
      (∃ t, exec (.counterSnapshot ⟨st, false⟩) s = .next t ∧
        (∀ k < 528, t.rget .stnLrSnap (528 * st + k) = s.rget .stnLrCtr (528 * st + k)) ∧
        s.OnlyRegs t (fun r i => r = .stnLrSnap ∧ i / 528 = st.val) ∧ s.OnlyParts t [.regs, .host]) ∧
      (∀ snap : Bool, exec (.counterClear ⟨st, snap⟩) s = .next (let u := s.dropHeld (0x800F00 + 0x10000 * st);
        (List.range 33).foldl (fun (s : State) n => s.clearLane st n) (if snap then u.snapCounters st else u))) ∧
      exec (.counterSnapshot ⟨st, true⟩) s = exec (.counterClear ⟨st, true⟩) s ∧
      (∃ t, exec (.stationCeLogClear st) s = .next t ∧
        (∀ e < 16, t.rget .stnCeLog (16 * st + e) = 0 ∧ t.rget .stnCeLog1 (16 * st + e) = 0) ∧
        (s.locked = false → s.OnlyRegs t (fun r i => (r = .stnCeLog ∨ r = .stnCeLog1) ∧ i / 16 = st.val) ∧ s.OnlyParts t [.regs, .host]))) ∧
    (s.fget F.stnStateFenced st = 1 →
      (∀ b, ∀ c ∈ [Instr.counterSnapshot ⟨st, b⟩, .counterClear ⟨st, b⟩], exec c s = .next (s.dropHeld (0x800F00 + 0x10000 * st))) ∧
      exec (.stationCeLogClear st) s = .next (s.dropHeld (0x800F18 + 0x10000 * st.val)))) ∧
  (∀ (s : State) (n : StackId), s.hears = true →
    (s.fget F.memStackStateFenced n = 0 → ∃ t, exec (.stackCeLogClear n) s = .next t ∧
      (∀ e < 32, t.rget .memCeLog (32 * n + e) = 0 ∧ t.rget .memCeLog1 (32 * n + e) = 0) ∧
      (s.locked = false → s.OnlyRegs t (fun r i => (r = .memCeLog ∨ r = .memCeLog1) ∧ i / 32 = n.val) ∧ s.OnlyParts t [.regs, .host])) ∧
    (s.fget F.memStackStateFenced n = 1 → exec (.stackCeLogClear n) s = .next (s.dropHeld (0x1000100 + 0x10000 * n.val)))) ∧
  (∀ s : State, s.Open →
    (s.fget F.flsRawCtlBusy 0 = 1 → exec .rawReadStart s = .next (s.dropHeld 0x1408008)) ∧
    (s.fget F.flsRawCtlBusy 0 = 0 →
      let u := s.dropHeld 0x1408008
      let u1 := (u.fset F.flsRawCtlBusy 0 1).setFlash { u.flash with raw := some (u.rget .flsRawAddr 0).toNat };
      (u.rawInRange = false ∨ u.rawErasing = true → exec .rawReadStart s = .next u1) ∧
      (u.rawInRange = true → u.rawErasing = false →
        exec .rawReadStart s = .next ((u1.bump F.flsCtrCount 0 1).suspendFor (groupOfDie u.rawDie))))) ∧
  (∀ (s : State) (w : Nat) (ok : Bool) (data : List Byte), s.flash.raw = some w →
    let a := s.rset .flsRawAddr 0 (BitVec.ofNat 64 w)
    let s1 := (s.setFlash { s.flash with raw := none }).fset F.flsRawCtlBusy 0 0;
    (a.rawInRange = false → exec (.rawReadDone ok data) s = .next (s1.fset F.flsRawCtlStatus 0 0x1001)) ∧
    (a.rawInRange = true → a.rawErasing = true →
      exec (.rawReadDone ok data) s = .next ((s1.bump F.flsCtrCount 6 1).fset F.flsRawCtlStatus 0 0x2004)) ∧
    (a.rawInRange = true → a.rawErasing = false →
      exec (.rawReadDone ok data) s = .next ((s1.rsetBytes .flsRawData 0 (padTo 4096 data)).fset F.flsRawCtlStatus 0 (if ok then 0 else 0x2001))))

/-- LINK_TRAINED, LINK_DOWN, HOT_RESET (R422, R460), PERST_ASSERT and PERST_DEASSERT (R634, R635), CONFIG_REQUEST (R421, R424),
HDM_DECODER_COMMIT (R425) and GLOBAL_PERSISTENT_FLUSH (R423). Where the DVSEC stands is the model's choice (log entry 47). -/
def Obligations.LinkEvents : Prop :=
  ∀ s : State,
    (∀ w r, s.mayLink = true → linkOk w r = true → ∃ t, exec (.linkTrained w r) s = .next t ∧ t.host.link = some (w, r) ∧
      (s.host.msixPending = [] → t = s.setHost { s.host with link := some (w, r) })) ∧
    (s.hears = true → exec .linkDown s = .next s.linkLost ∧ exec .hotReset s = .next s.linkLost ∧
      exec .perstAssert s = .next (s.linkLost.setHost { s.linkLost.host with perst := false })) ∧
    (s.hears = false → exec .linkDown s = .next s ∧ exec .hotReset s = .next s ∧
      exec .perstAssert s = .next (s.setHost { s.host with perst := false })) ∧
    (∀ clk : Bool, (s.host.perst = false → exec (.perstDeassert clk) s = .next (s.setHost { s.host with perst := true, commonClock := clk })) ∧
      (s.host.perst = true → exec (.perstDeassert clk) s = .next s)) ∧
    (s.hears = true →
      (∀ ms off, ms < 60 → exec (.configRequest ms off) s = .next (s.send .configRetry)) ∧
      (∀ ms off, 60 ≤ ms →
        (off / 4 = 0x00 ∨ off / 4 = 0x0B → exec (.configRequest ms off) s = .next (s.send (.configAnswer 0x64202A5E))) ∧
        (off / 4 = 0x02 → exec (.configRequest ms off) s = .next (s.send (.configAnswer (s.fget F.glbIdStepping 0 + 0x05021000)))) ∧
        (off / 4 ∉ [0x00, 0x02, 0x0B] →
          ∃ t v, exec (.configRequest ms off) s = .next t ∧ s.OnlyParts t [.host, .freeCtr] ∧
            t.host = { s.host with outbox := s.host.outbox ++ [.configAnswer v] } ∧
            (off / 4 * 4 = Config.dvsecAt + 0x18 → t.freeCtr = s.freeCtr ∧ v = (2 ^ 28 + 2 ^ 30 * s.fget F.depHostwinSizeGib 0) / 2 ^ 32))) ∧
      (∀ base, exec (.hdmDecoderCommit base) s = .next (s.setHost { s.host with hdmBase := some (base / 2 ^ 28 * 2 ^ 28) })) ∧
      exec .globalPersistentFlush s = .next (s.send .gpfAck))

/-- CXL_MEM_LOAD and CXL_MEM_STORE (R277, R278), QUEUE_WINDOW_LOAD and QUEUE_WINDOW_STORE (R425, R426). -/
def Obligations.HostMemoryAccess : Prop :=
  ∀ (s : State) (addr : Nat) (data : List Byte), s.hears = true →
    (s.hdmOffset addr = none → ∀ c ∈ [Instr.cxlMemLoad addr, .cxlMemStore addr data, .queueWindowLoad addr, .queueWindowStore addr data],
      exec c s = .fault .outsideHdm) ∧
    (∀ x, s.hdmOffset addr = some x → x < 2 ^ 28 →
      (s.windowServed = true →
        (∃ t, exec (.queueWindowStore addr data) s = .next t ∧ s.OnlyParts t [.host] ∧ t.host.outbox = s.host.outbox ++ [.storeDone] ∧
          (∀ i, i < data.length → i < 64 - x % 64 → t.host.window.get (x + i) = data.getD i 0) ∧
          (∀ a, a < x ∨ x + data.length ≤ a ∨ x / 64 * 64 + 64 ≤ a → t.host.window.get a = s.host.window.get a)) ∧
        ((∀ w ∈ s.host.windowBad, w / 8 ≠ x / 64) → exec (.queueWindowLoad addr) s =
          .next (s.send (.loadAnswer ((List.range 64).map (fun i => s.host.window.get (x / 64 * 64 + i))) false))) ∧
        ((∃ w ∈ s.host.windowBad, w / 8 = x / 64) → exec (.queueWindowLoad addr) s = .next (s.send (.loadAnswer [] true)))) ∧
      (s.windowServed = false → exec (.queueWindowStore addr data) s = .next (s.send .storeDone) ∧
        exec (.queueWindowLoad addr) s = .next (s.send (.loadAnswer [] true)))) ∧
    (∀ x, s.hdmOffset addr = some x → 2 ^ 28 ≤ x →
      let a := scratchBase + (x / 64 * 64 - 2 ^ 28);
      (s.memServed = true →
        (s.readStatus a 64 = 0 → exec (.cxlMemLoad addr) s = .next (s.send (.loadAnswer (s.depotRead a 64) false))) ∧
        (s.readStatus a 64 ≠ 0 → exec (.cxlMemLoad addr) s = .next (s.send (.loadAnswer [] true))) ∧
        (let u := s.pageStore none true (pageOf a) a (data.take 64);
          exec (.cxlMemStore addr data) s =
            .next (if (s.tierLookup (pageOf a)).pageBusy (pageOf a) = true then u else u.send .storeDone))) ∧
      (s.memServed = false → exec (.cxlMemLoad addr) s = .next (s.send (.loadAnswer [] true)) ∧
        exec (.cxlMemStore addr data) s = .next (s.send .storeDone)))

/-- DOE_DISCOVERY and DOE_OVERSIZE_REQUEST (R619), CDAT_READ (R423), GET_VERSION, GET_CAPABILITIES, NEGOTIATE_ALGORITHMS and CHUNK_GET
(R620). The layout of the messages is the model's choice (log entry 48). -/
def Obligations.MailboxAnswers : Prop :=
  ∀ (s : State) (req : List Byte),
    let v := s.spdm.version
    let sends (c : Instr) (x : Spdm) (resp : List Byte) : Prop := exec c s = .next ((s.setSpdm x).doe 0x0001 1 resp);
    (s.hears = true →
      (∀ i, i < 3 → exec (.doeDiscovery i) s = .next (s.doe 0x0001 0
        (leBytes 2 ([0x0001, 0x0001, 0x1E98].getD i 0) ++ [BitVec.ofNat 8 i, BitVec.ofNat 8 ((i + 1) % 3)]))) ∧
      (∀ i, 3 ≤ i → exec (.doeDiscovery i) s = .next (s.doe 0x0001 0 [0xFF, 0xFF, 0, 0])) ∧
      (∀ h, exec (.cdatRead h) s = .next (s.doe 0x1E98 2
        ([0, 0] ++ leBytes 2 (if h + 1 < s.cdat.length then h + 1 else 0xFFFF) ++ s.cdat.getD h []))) ∧
      (∀ n, 65536 < n → exec (.doeOversizeRequest n) s = .next ((s.setSecurity { s.security with doeError := true }).send .doeError)) ∧
      (∀ n, n ≤ 65536 → exec (.doeOversizeRequest n) s = .next s)) ∧
    (s.answersSpdm = true →
      (byteField req 1 1 = 0x84 → 4 ≤ req.length →
        let resp : List Byte := [0x10, 0x04, 0, 0, 0, 2, 0x00, 0x12, 0x00, 0x13];
        sends (.getVersion req) { stage := 1, vca := req.take 4 ++ resp, handle := s.spdm.handle } resp) ∧
      (byteField req 1 1 ≠ 0x84 ∨ req.length < 4 → exec (.getVersion req) s = .next (s.spdmError 0x01 0 [])) ∧
      (s.spdmWrong 0xE1 1 20 req = none →
        (byteField req 0 1 = 0x12 ∨ byteField req 0 1 = 0x13 →
          let resp := leBytes 1 (byteField req 0 1) ++ [0x61, 0, 0, 0, 14, 0, 0] ++ leBytes 4 0x20016 ++ leBytes 4 4096 ++ leBytes 4 65536
          sends (.getCapabilities req) { s.spdm with
            measLog := [], stage := 2, version := byteField req 0 1
            transfer := min 4096 (byteField req 12 4)
            vca := s.spdm.vca ++ req.take 20 ++ resp } resp) ∧
        (byteField req 0 1 ≠ 0x12 → byteField req 0 1 ≠ 0x13 → exec (.getCapabilities req) s = .next (s.spdmError 0x41 0 []))) ∧
      (s.spdmWrong 0xE3 2 32 req = none →
        let resp := leBytes 1 v ++ [0x63, 0, 0, 36, 0] ++ leBytes 1 (byteField req 6 1 % 2) ++ [0] ++ leBytes 4 1 ++
          leBytes 4 (byteField req 8 4 &&& 0x800) ++ leBytes 4 (byteField req 12 4 &&& 0x20) ++ zeros 16;
        sends (.negotiateAlgorithms req) { s.spdm with measLog := [], stage := 3, vca := s.spdm.vca ++ req.take (byteField req 4 2) ++ resp } resp) ∧
      (s.spdmWrong 0x86 3 6 req = none →
        (s.spdm.large = none → exec (.chunkGet req) s = .next (s.spdmError 0x04 0 [])) ∧
        (∀ resp h sent seq, s.spdm.large = some (resp, h, sent, seq) →
          (byteField req 3 1 ≠ h ∨ byteField req 4 2 ≠ seq →
            exec (.chunkGet req) s = .next ((s.setSpdm { s.spdm with large := none }).spdmError 0x01 0 [])) ∧
          (byteField req 3 1 = h → byteField req 4 2 = seq →
            let part := (resp.drop sent).take (s.spdm.transfer - (if seq = 0 then 16 else 12))
            let last : Bool := resp.length ≤ sent + part.length
            sends (.chunkGet req) { s.spdm with large := if last then none else some (resp, h, sent + part.length, seq + 1) }
              (leBytes 1 v ++ [0x06] ++ leBytes 1 (if last then 1 else 0) ++ leBytes 1 h ++ leBytes 2 seq ++ [0, 0] ++ leBytes 4 part.length ++
                (if seq = 0 then leBytes 4 resp.length else []) ++ part)))) ∧
      (∀ c ∈ [(Instr.getCapabilities req, 0xE1, 1, 20), (.negotiateAlgorithms req, 0xE3, 2, 32), (.chunkGet req, 0x86, 3, 6)],
        ∀ code, s.spdmWrong c.2.1 c.2.2.1 c.2.2.2 req = some code → exec c.1 s = .next (s.spdmError code 0 [])))

/-- GET_DIGESTS, GET_CERTIFICATE and CHALLENGE (R612, R613, R620), and GET_MEASUREMENTS (R621, R622). The layout of the messages is
the model's choice (log entry 48). -/
def Obligations.AttestationAnswers : Prop :=
  ∀ (s : State) (req : List Byte), s.answersSpdm = true →
    let v := s.spdm.version
    let context (off : Nat) : List Byte := if v = 0x13 then padTo 8 ((req.drop off).take 8) else []
    let extra := if v = 0x13 then 8 else 0;
    (s.spdmWrong 0x81 3 4 req = none →
      let resp := leBytes 1 v ++ [0x01] ++ leBytes 1 (if v = 0x13 then 1 else 0) ++ [1] ++ sha3_512 Config.certChain;
      exec (.getDigests req) s = .next ((s.spdmLogged (req.take 4) resp).spdmSend resp)) ∧
    (s.spdmWrong 0x82 3 8 req = none →
      let off := byteField req 4 2
      let part := (Config.certChain.drop off).take (byteField req 6 2)
      let resp := leBytes 1 v ++ [0x02, 0, 0] ++ leBytes 2 part.length ++ leBytes 2 (Config.certChain.length - off - part.length) ++ part;
      (byteField req 2 1 % 16 = 0 → exec (.getCertificate req) s = .next (if off < Config.certChain.length
        then (s.spdmLogged (req.take 8) resp).spdmSend resp else s.spdmError 0x01 0 [])) ∧
      (byteField req 2 1 % 16 ≠ 0 → exec (.getCertificate req) s = .next (s.spdmError 0x01 0 []))) ∧
    (s.spdmWrong 0x83 3 36 req = none →
      (byteField req 2 1 % 16 = 0 →
        let u := (s.drawBytes 96).2
        let fresh := (s.drawBytes 96).1
        let body := leBytes 1 v ++ [0x03, 0, 1] ++ sha3_512 Config.certChain ++ fresh.take 32 ++ s.summaryHash (byteField req 3 1) (fresh.drop 32) ++
          [0, 0] ++ context 36
        let signed := s.spdm.vca ++ s.spdm.certLog ++ req.take (36 + extra) ++ body;
        exec (.challenge req) s = .next ((u.setSpdm { u.spdm with measLog := [], certLog := [] }).spdmSend
          (body ++ u.spdmSign "responder-challenge_auth signing" signed))) ∧
      (byteField req 2 1 % 16 ≠ 0 → exec (.challenge req) s = .next (s.spdmError 0x01 0 []))) ∧
    (let signs : Prop := byteField req 2 1 % 2 = 1
      let op := byteField req 3 1
      let blocks := (measAsked op).flatMap s.measBlock
      let u := (s.drawBytes 32).2
      let body (at_ : Nat) : List Byte := leBytes 1 v ++ [0x60] ++ leBytes 1 (if op = 0 then measured.length else 0) ++ [0] ++
        leBytes 1 (measAsked op).length ++ leBytes 3 blocks.length ++ blocks ++ (s.drawBytes 32).1 ++ [0, 0] ++ context at_
      let log (at_ : Nat) : List Byte := s.spdm.measLog ++ req.take (at_ + extra) ++ body at_;
      (signs → s.spdmWrong 0xE0 3 37 req = none → exec (.getMeasurements req) s = .next ((u.setSpdm { u.spdm with measLog := [] }).spdmSend
        (body 37 ++ u.spdmSign "responder-measurements signing" (s.spdm.vca ++ log 37)))) ∧
      (¬ signs → s.spdmWrong 0xE0 3 4 req = none → exec (.getMeasurements req) s =
        .next ((u.setSpdm { u.spdm with measLog := log 4 }).spdmSend (body 4))))

/-- SMBUS_OFFSET_WRITE and SMBUS_READ (R637); IDCODE, SAMPLE_PRELOAD, EXTEST, CLAMP, HIGHZ and BYPASS (R648, R649). -/
def Obligations.SidebandAccess : Prop :=
  ∀ s : State,
    (s.power.supply = .valid →
      (∀ ms n, 60 ≤ ms →
        exec (.smbusOffsetWrite ms n) s = .next (s.setSecurity { s.security with smbus := n % 256 }) ∧
        exec (.smbusRead ms n) s = .next ((s.setSecurity { s.security with smbus := (s.security.smbus + n) % 256 }).send
          (.smbus ((List.range n).map (fun i => s.healthRecord.getD ((s.security.smbus + i) % 256) 0))))) ∧
      (∀ (d : DieId) (pins tdi : List Bool),
        let x := s.tap d
        let scans (c : Instr) (y : Tap) (captured : List Bool) : Prop := ∃ t, exec c s = .next t ∧ s.OnlyParts t [.host, .security] ∧
          t.tap d = y ∧ (∀ k, k ≠ d.val → t.tap k = s.tap k) ∧ t.security = { s.security with taps := t.security.taps } ∧
          t.host = { s.host with outbox := s.host.outbox ++ [.scanOut ((captured ++ tdi).take tdi.length)] }
        let latch := (pins ++ tdi).drop tdi.length
        scans (.idcode d pins tdi) { x with ir := 0x01, driving := false, floating := false } ((List.range 32).map (fun i => s.idcode.testBit i)) ∧
        scans (.samplePreload d pins tdi) { x with ir := 0x02, cells := latch, driving := false, floating := false } pins ∧
        (s.power.scanEn = true →
          scans (.extest d pins tdi) { x with ir := 0x00, cells := latch, driving := true, floating := false } pins ∧
          scans (.clamp d pins tdi) { x with ir := 0x04, driving := true, floating := false } [false] ∧
          scans (.highz d pins tdi) { x with ir := 0x05, driving := false, floating := true } [false]) ∧
        (s.power.scanEn = false → ∀ c ∈ [(Instr.extest d pins tdi, 0x00), (.clamp d pins tdi, 0x04), (.highz d pins tdi, 0x05)],
          scans c.1 { x with ir := c.2, driving := false, floating := false } [false]) ∧
        ∀ code, code % 256 ∉ [0x00, 0x01, 0x02, 0x04, 0x05] →
          scans (.bypass d code tdi) { x with ir := code % 256, driving := false, floating := false } [false])) ∧
    (∀ ms n, s.power.supply ≠ .valid ∨ ms < 60 → ∀ c ∈ [Instr.smbusOffsetWrite ms n, .smbusRead ms n], exec c s = .next (s.send .smbusNack)) ∧
    s.healthRecord.length = 32

/-- PRES_MATE, INPUT_STAGE_CLOSE (R640), SUPPLIES_VALID (R565, R649), ISLAND_CLOCK_START (R203), INPUT_DIP and POWER_LOSS (R574, R575),
PRES_BREAK (R641), POWER_RETURN (R579) and HOLD_UP_FLUSH_DONE (R575 to R578). -/
def Obligations.SupplyEvents : Prop :=
  ∀ s : State,
    (∀ mv, 40000 < mv →
      (s.power.supply = .off → exec (.presMate mv) s = .next (s.setPower { s.power with supply := .mated, opened := false })) ∧
      (s.power.supply = .flushing → s.power.opened = true → exec (.presMate mv) s = .next (s.setPower { s.power with returned := true })) ∧
      (s.power.supply ∉ [.off, .flushing] → exec (.presMate mv) s = .next s)) ∧
    (∀ mv, mv ≤ 40000 → exec (.presMate mv) s = .next s) ∧
    (s.power.supply = .mated → exec .inputStageClose s = .next (s.setPower { s.power with supply := .closed })) ∧
    (s.power.supply ≠ .mated → exec .inputStageClose s = .next s) ∧
    (∀ scanEn, s.power.supply = .closed → ∃ t, exec (.suppliesValid scanEn) s = .next t ∧
      t.power = { s.power with supply := .valid, scanEn := scanEn, started := [17, 52, 87, 122] } ∧
      t.cfs.inForce = s.cfs.settings ∧ t.fget F.pwrBootPhase 0 = s.fget F.pwrBootPhase 0 ∧
      s.OnlyParts t [.regs, .cfs, .power]) ∧
    (∀ i : IslandId, s.power.supply = .valid → i.val ∉ s.power.started → ∃ t, exec (.islandClockStart i) s = .next t ∧
      t.power = { s.power with started := s.power.started ++ [i.val] } ∧ t.fget F.glbIslandCtrCount i.val = 0 ∧
      s.OnlyParts t [.regs, .power] ∧ s.OnlyRegs t (fun r k => r = .glbIslandCtr ∧ k = i.val)) ∧
    (s.power.supply = .valid →
      (∃ t, exec .inputDip s = .next t ∧ t.fget F.pwrCtrCount 0 = (s.fget F.pwrCtrCount 0 + 1) % 2 ^ 48 ∧ s.OnlyParts t [.regs] ∧
        s.OnlyRegs t (fun r k => r = .pwrCtr ∧ k = 0)) ∧
      (∀ c ∈ [(Instr.powerLoss, false), (.presBreak, true)], ∃ t, exec c.1 s = .next t ∧ t.power.supply = .flushing ∧
        t.power.opened = c.2 ∧ t.host.link = none ∧ t.host.cmds = [] ∧ t.host.memoryActive = false ∧ t.mesh.pulls = [] ∧
        ∀ b, b < 24 → t.fget F.brlLineStateState b = 0)) ∧
    (s.power.supply = .flushing →
      exec .presBreak s = .next (s.setPower { s.power with opened := true, returned := false }) ∧
      (s.power.opened = false → exec .powerReturn s = .next (s.setPower { s.power with returned := true })) ∧
      ∃ t, exec .holdUpFlushDone s = .next t ∧
        t.power.supply = (if s.power.opened = true then (if s.power.returned = true then .mated else .off)
          else if s.power.returned = true then .closed else .down) ∧
        t.host = { perst := s.host.perst, commonClock := s.host.commonClock, outbox := s.host.outbox } ∧
        t.jobs = [] ∧ t.stations = [] ∧ t.mesh = {} ∧ t.junctions = [] ∧ t.bridges = [] ∧
        (∀ e ∈ t.depot.pages, isMediaPage e.1 = true ∧ e.2.resident = false ∧ e.2.dirty = 0) ∧
        (s.fget F.pwrBootPhase 0 < 3 → t.flash = { s.flash with units := [], reads := [], crowded := [], bufBytes := 0, blockFails := [], raw := none })) ∧
    (s.power.supply = .down → exec .powerReturn s = .next (s.setPower { s.power with supply := .closed }))

/-- CHECKER_SELF_TEST (R552, R553), FIRMWARE_BOOT_VERIFY (R567, R570), STORE_COMPARED (R522), MAP_REBUILD (R490), SANITISE_RESUME (R571),
BASE_TIMETABLE_STITCH (R196, R197) and SERVICE_ENTRY (R567, R595). -/
def Obligations.PowerUpSteps : Prop :=
  ∀ s : State, s.power.supply = .valid → s.power.scanEn = false →
    (s.fget F.pwrBootPhase 0 = 0 →
      (∀ (i : IslandId) (n : Nat) (step : Fin 7), s.power.started.contains i.val = true → s.power.failedCheckers.contains (i.val, n) = false →
        let u := (s.setPower { s.power with failedCheckers := s.power.failedCheckers ++ [(i.val, n)] }).event i.val 0x0803 0 (i.val + 256 * step.val) n
        let d := i.val / 35
        let k := i.val % 35
        let ran (t : State) : Prop := exec (.checkerSelfTest i n (some step)) s = .next t;
        (i.val < 140 → k < 16 → n < 33 → ran (u.retireLane (16 * d + k) n 4 [] none)) ∧
        (i.val < 140 → k < 16 → 33 ≤ n → n < 36 → ran (u.fenceStation (16 * d + k) 1)) ∧
        (i.val < 140 → k = 16 → ran (u.fenceBank d n)) ∧
        (i.val < 140 → 18 ≤ k → k < 26 → ran (u.fenceStack (8 * d + k - 18))) ∧
        (i.val < 140 → 26 ≤ k → k < 29 → ran ((List.range 16).foldl (fun (s : State) c => s.failChannel (16 * (3 * d + k - 26) + c)) u)) ∧
        (i.val < 140 → 29 ≤ k → ran ((u.fset F.brlLineStateState (6 * d + k - 29) 7).flag F.glbEventStatusLineFailed)) ∧
        (i.val < 140 → k = 17 → Tbl.look 0 s.power.coresDown d = 0 → ran (u.coreDown d)) ∧
        (i.val = 140 → s.ecc.windowDecoders = 0 → ran u.windowDecoderFails)) ∧
      (∀ i n, exec (.checkerSelfTest i n none) s = .next s) ∧
      (let r := s.setting 0x0002 % 2;
        (s.boots r = true ∨ s.boots (1 - r) = true → ∃ t, exec .firmwareBootVerify s = .next t ∧ t.fget F.pwrBootPhase 0 = 1 ∧
          t.fget F.glbFwRunning 0 = (if s.boots r = true then r else 1 - r) ∧ t.fget F.pwrBootFwFallback 0 = bit (!s.boots r) ∧
          t.power = { s.power with faultLow := false }) ∧
        (s.boots 0 = false → s.boots 1 = false → ∃ t, exec .firmwareBootVerify s = .next t ∧ t.fget F.pwrBootPhase 0 = 7 ∧
          t.fget F.pwrBootEndCause 0 = 4 ∧ t.power = { s.power with faultLow := true }))) ∧
    (s.fget F.pwrBootPhase 0 = 1 → ∀ differs,
      let u := (s.bump F.cfsCtrCount 5 differs).bump F.cfsCtrCount 7 (bit s.cfs.torn);
      exec (.storeCompared differs) s = .next ((u.setCfs { u.cfs with torn := false }).allocWindow.setPhase 2)) ∧
    (s.fget F.pwrBootPhase 0 = 2 → s.fget F.pwrBootSanitiseResumed 0 = 0 →
      (s.fget F.glbMaintOp 0 ≠ 1 → exec .mapRebuild s = .next s.rebuildMap ∧ s.rebuildMap.fget F.pwrBootPhase 0 = 3 ∧
        s.rebuildMap.power.lossOpen = false ∧ exec .sanitiseResume s = .next s) ∧
      (s.fget F.glbMaintOp 0 = 1 → exec .sanitiseResume s = .next s.sanResume ∧ exec .mapRebuild s = .next s)) ∧
    (s.fget F.pwrBootPhase 0 = 3 ∨ (s.fget F.pwrBootPhase 0 = 2 ∧ s.fget F.pwrBootSanitiseResumed 0 = 1) →
      exec .baseTimetableStitch s = .next s.powerUpStitch.linesStart) ∧
    (s.fget F.pwrBootPhase 0 = 4 → ∀ ms,
      (s.cfs.ended = none → ∃ t, exec (.serviceEntry ms) s = .next t ∧ t.host.memoryActive = true ∧ t.fget F.pwrBootPhase 0 = 5 ∧
        t.fget F.pwrBootServiceMs 0 = ms % 2 ^ F.pwrBootServiceMs.width ∧ t.power.faultLow = false ∧ s.OnlyParts t [.regs, .host, .power] ∧
        s.OnlyRegs t (fun r _ => r = .pwrBoot)) ∧
      (∀ cause die, s.cfs.ended = some (cause, die) → ∃ t, exec (.serviceEntry ms) s = .next t ∧ t.fget F.pwrBootPhase 0 = 6 ∧
        t.fget F.pwrBootEndCause 0 = cause % 2 ^ F.pwrBootEndCause.width ∧ t.fget F.pwrBootEndDie 0 = die % 2 ^ F.pwrBootEndDie.width ∧
        t.power = { s.power with faultLow := true } ∧ t.host = s.host))

/-- HOLDUP_ENERGY_MEASURE (R572), STRING_TEST (R573), SENSOR_UPDATE (R626), SERVICE_END (R36, R46, R595), MANAGEMENT_CORE_FAILURE
(R32, R592), STANDBY_CORE_RESTART and DIE_HANDOVER (R590), MEASUREMENT_RECOMPUTE_DONE (R623). -/
def Obligations.BankAndFailures : Prop :=
  ∀ s : State,
    (s.power.supply = .valid →
      (∀ mj, ∃ u, u.power = { s.power with bank := mj.take 6 } ∧
        (let e := (s.stringsOk.map (fun n => (mj.take 6).getD n 0)).sum
          let lim := min 1048576 (((e - 1000) * 172000000000 - (636400000 + 134217728) * 210000) / (210000 * 4096));
          u.fget F.pwrHoldupUsableMj 0 = min 65535 e ∧ u.fget F.pwrHoldupStringsOk 0 = (s.stringsOk.map (fun n => 2 ^ n)).sum ∧
          u.fget F.pwrHoldupDirtyLimit4k 0 = lim ∧
          exec (.holdupEnergyMeasure mj) s = .next (if s.fget F.depTierLevelDirty4k 0 > lim then u.writeBackAll else u)) ∧
        s.OnlyParts u [.regs, .power] ∧ s.OnlyRegs u (fun r _ => r = .pwrHoldup)) ∧
      (∀ (n : StringId) mj, s.fget F.pwrStringFailed n.val = 0 →
        (∃ t, exec (.stringTest n mj true) s = .next t ∧ s.OnlyParts t [.regs] ∧ t.fget F.pwrStringUsableMj n.val = min 65535 mj ∧
          t.fget F.pwrStringFailed n.val = 0 ∧ t.fget F.pwrCtrCount 1 = (s.fget F.pwrCtrCount 1 + 1) % 2 ^ 48 ∧
          s.OnlyRegs t (fun r k => (r = .pwrString ∧ k = n.val) ∨ (r = .pwrCtr ∧ k = 1))) ∧
        (∃ t u, exec (.stringTest n mj false) s = .next t ∧ t = (if s.fget F.depTierLevelDirty4k 0 > u.fget F.pwrHoldupDirtyLimit4k 0
            then u.writeBackAll else u) ∧
          u.fget F.pwrStringFailed n.val = 1 ∧ u.fget F.glbEventStatusStringFailed 0 = 1 ∧
          n.val ∉ u.stringsOk ∧ u.fget F.pwrHoldupStringsOk 0 = ((s.stringsOk.filter (fun k => k ≠ n.val)).map (fun k => 2 ^ k)).sum ∧
          s.OnlyParts u [.regs, .host, .cfs])) ∧
      (∀ temps inlet outlet mv dw, ∃ t, exec (.sensorUpdate temps inlet outlet mv dw) s = .next t ∧ s.OnlyParts t [.regs] ∧
        (∀ d, d < 4 → t.fget F.pwrTempNow d = unsigned 16 (temps.getD d 0) ∧
          signed 16 (t.fget F.pwrTempNow d) ≤ signed 16 (t.fget F.pwrTempPeak d) ∧
          signed 16 (s.fget F.pwrTempPeak d) ≤ signed 16 (t.fget F.pwrTempPeak d)) ∧
        t.fget F.pwrInputInputMv 0 = min 65535 mv ∧ t.fget F.pwrInputInputDw 0 = min 65535 dw ∧
        t.fget F.pwrInputPeakDw 0 = max (s.fget F.pwrInputPeakDw 0) (min 65535 dw) ∧
        s.OnlyRegs t (fun r _ => r ∈ [.pwrTemp, .pwrCoolant, .pwrInput])) ∧
      (∀ (cause : Fin 16) (d : DieId) (far : Option DieId), 1 ≤ cause.val → cause.val ≤ 3 →
        let dies := if cause.val = 1 then d.val :: (far.toList.map (·.val)) else [];
        (s.fget F.pwrBootPhase 0 = 5 → ∃ t u, exec (.serviceEnd cause ⟨d, far⟩) s = .next t ∧ u.fget F.pwrBootPhase 0 = 6 ∧
          u.fget F.pwrBootEndCause 0 = cause.val ∧ u.fget F.pwrBootEndDie 0 = dies.headD 0 ∧ u.power = { s.power with faultLow := true } ∧
          u.cfs.ended.isSome = true ∧ s.OnlyParts u [.regs, .host, .cfs, .power] ∧
          (let v := if s.flushes then u.endFlush dies else u;
            t = (v.setHost { v.host with memoryActive := false, cmds := v.host.cmds.filter (fun e => e.2.decided) }).stopWork) ∧
          t.host.memoryActive = false ∧ (∀ e ∈ t.host.cmds, e.2.decided = true) ∧ t.mesh.pulls = [] ∧
          ∀ b, b < 24 → t.fget F.brlLineStateState b = 0) ∧
        (s.power.scanEn = false → s.fget F.pwrBootPhase 0 < 5 →
          exec (.serviceEnd cause ⟨d, far⟩) s = .next (s.endsService cause.val (dies.headD 0)) ∧
          (s.cfs.ended = none → (s.endsService cause.val (dies.headD 0)).cfs.ended = some (cause.val, dies.headD 0)))) ∧
      (s.fget F.pwrBootPhase 0 = 5 → ∀ d : DieId,
        (Tbl.look 0 s.power.coresDown d.val = 0 → s.fget F.glbMaintOp 0 ≠ 3 → ∃ t, exec (.managementCoreFailure d) s = .next t ∧
          s.OnlyParts t [.regs, .power] ∧ (t.fget F.glbFwPairsOk 0).testBit d.val = false ∧ Tbl.look 0 t.power.coresDown d.val = 1) ∧
        (Tbl.look 0 s.power.coresDown d.val = 1 → exec (.managementCoreFailure d) s = .next ((s.coreDown d.val).endService 1 [d.val])))) ∧
    (s.fget F.glbMaintOp 0 = 3 →
      (∀ d : DieId, s.fget F.glbMaintPhase 0 ≤ 2 → s.power.restarted.contains d.val = false →
        (let u := s.setPower { s.power with restarted := s.power.restarted ++ [d.val] };
          exec (.standbyCoreRestart d true) s =
            .next (if s.power.restarted.length = 3 then u.progress 3 3 0 3 else u.progress 3 2 (s.power.restarted.length + 1) 4)) ∧
        exec (.standbyCoreRestart d false) s = .next ((s.coreDown d.val).activationFails 2 d.val)) ∧
      (s.tt.queue.any (fun x => x.begun) = false → ∀ d : DieId,
        let u := s.setPower { s.power with handed := d.val :: s.power.handed };
        (s.fget F.glbMaintPhase 0 = 3 → d.val ≠ 0 → d.val + s.power.handed.length = 3 →
          exec (.dieHandover d) s = .next (if d.val = 1 then u.progress 3 4 0 1 else u.progress 3 3 (s.power.handed.length + 1) 3)) ∧
        (s.fget F.glbMaintPhase 0 = 4 → d.val = 0 → exec (.dieHandover d) s = .next u.clearChallenge.commitBoot))) ∧
    (∀ index r, s.security.recompute.find? (fun r => r.index = index) = some r →
      exec (.measurementRecomputeDone index) s =
        .next ((s.setSecurity { s.security with recompute := s.security.recompute.erase r }).putMeasure index r.value)) ∧
    (∀ index, (∀ r ∈ s.security.recompute, r.index ≠ index) → exec (.measurementRecomputeDone index) s = .next s)

/-- BATCH_WAIT_EXPIRY (R117, R118), BATCH_PLACE_FREE (R119), DISPATCHER_VISIT, BALANCE_EXHAUSTED (R292, R293), SWITCH_PART_END (R296),
SWAP_END (R297, R299), STATION_END_MESSAGE (R288) and ABANDON_REPORT (R289). -/
def Obligations.DispatcherEvents : Prop :=
  ∀ (s : State) (st : StationId) (j : JobId),
    (∀ b, (s.batcher j.val).openB = some b →
      (b.cause = none → b.waitUs ≠ 0 → 700 * b.waitUs ≤ cycSince (s.homeCyc j.val) b.openedAt →
        ((s.closedBatches j.val).length < 2 → exec (.batchWaitExpiry j) s = .next ((s.closeOpen j.val b .timer).batches j.val)) ∧
        (2 ≤ (s.closedBatches j.val).length → ∃ t, exec (.batchWaitExpiry j) s = .next t ∧ s.OnlyParts t [.jobs] ∧
          (t.batcher j.val).openB = some { b with cause := some .timer, dueAt := s.homeCyc j.val } ∧
          ∀ k, k ≠ j.val → t.job k = s.job k)) ∧
      (b.cause ≠ none → (s.closedBatches j.val).length < 2 → exec (.batchPlaceFree j) s = .next (s.batches j.val)) ∧
      (b.cause ≠ none → exec (.batchWaitExpiry j) s = .next s) ∧
      (b.cause = none → exec (.batchPlaceFree j) s = .next s)) ∧
    ((s.batcher j.val).openB = none → exec (.batchWaitExpiry j) s = .next s ∧ exec (.batchPlaceFree j) s = .next s) ∧
    (s.stnUp st.val = true → (s.stn st.val).incoming = none → (s.stn st.val).order.isSome = true ∨ s.busyWith st.val = false →
      (∀ e, (s.stn st.val).ready.find? (fun j => s.hasWork st.val j) = some e → exec (.dispatcherVisit st) s = .next (s.giveStation st.val e)) ∧
      ((∀ e ∈ (s.stn st.val).ready, s.hasWork st.val e = false) →
        (∀ k, nextInCircle (s.jobsOn st.val) (s.stn st.val).visited = some k →
          (s.hasWork st.val k = true → exec (.dispatcherVisit st) s =
            .next ((s.setBalance st.val k (s.balance st.val k + 2048 * s.fget F.jobCfgWeight k)).giveStation st.val k)) ∧
          (s.hasWork st.val k = false → ∃ t, exec (.dispatcherVisit st) s = .next t ∧ t.balance st.val k = 0 ∧
            (t.stn st.val).visited = k ∧ s.OnlyParts t [.stations] ∧ ∀ x, x ≠ st.val → t.stn x = s.stn x)) ∧
        (s.jobsOn st.val = [] → exec (.dispatcherVisit st) s = .next s))) ∧
    (s.stnUp st.val = false → exec (.dispatcherVisit st) s = .next s ∧ exec (.swapEnd st) s = .next s) ∧
    (∀ k, s.carried st.val = some k → s.isExpress k = false → (s.stn st.val).order = none → (s.stn st.val).incoming = none →
      s.hasWork st.val k = true →
      exec (.balanceExhausted st) s = .next ((s.passTime st.val (ceilDiv (s.balance st.val k).toNat 32)).orderOut st.val .balance)) ∧
    (∀ (n : LaneRowId) k, (s.lane st.val n.val).job = some k → (s.stn st.val).order.isSome = true →
      (s.lane st.val n.val).partEnded = false → (s.stn st.val).incoming = none →
      ((s.lane st.val n.val).passes.filter (fun p => !p.verdict)).length ≤ 1 →
      ((s.lane st.val n.val).undecided = none → ((s.lane st.val n.val).copies.all (fun c => c.job != k)) = true →
        ∃ t, exec (.switchPartEnd st n) s = .next t ∧ s.OnlyParts t [.stations] ∧
          t.lane st.val n.val = { s.lane st.val n.val with partEnded := true } ∧ ∀ x, x ≠ st.val → t.stn x = s.stn x) ∧
      (∀ i p, (s.lane st.val n.val).undecided = some i → (s.lane st.val n.val).passes[i]? = some p → p.wide = none →
        ((s.lane st.val n.val).copies.all (fun c => c.job != k)) = true →
        ∃ t, exec (.switchPartEnd st n) s = .next t ∧ (t.lane st.val n.val).partEnded = true ∧
          (t.lane st.val n.val).passes = (s.lane st.val n.val).passes.take i)) ∧
    (∀ (n : LaneRowId), (s.lane st.val n.val).job = none → exec (.switchPartEnd st n) s = .next s) ∧
    (s.stnUp st.val = true → (s.stn st.val).incoming.isSome = true →
      exec (.swapEnd st) s = .next (((List.range 32).foldl (State.swapLane st.val) s).switchOver st.val
        ((List.range 32).filterMap (fun n => (s.lane st.val n).job)).dedup)) ∧
    (∀ r, (s.job j.val).run = some r →
      (r.started.contains st.val = true → r.ended.contains st.val = false → r.abandoned = none → s.stnUp st.val = true →
        (∀ n, n < 32 → s.laneOver st.val j.val n = true) → (∀ x ∈ (s.stn st.val).tail, x.job ≠ j.val) →
        let r1 := { r with ended := r.ended ++ [st.val] }
        let u := s.setJob j.val { s.job j.val with run := some r1 };
        ((∀ x ∈ r.image.stations, x ∈ r1.ended) → exec (.stationEndMessage st j) s = .next (u.endRun j.val r1)) ∧
        ((∃ x ∈ r.image.stations, x ∉ r1.ended) → exec (.stationEndMessage st j) s = .next u)) ∧
      (∀ status, r.abandoned = some status → r.image.stations.contains st.val = true →
        (∀ n, n < 33 → ∀ p ∈ (s.lane st.val n).passes, p.job ≠ j.val) → (∀ x ∈ (s.stn st.val).tail, x.job ≠ j.val) →
        let u := (s.dropCopies st.val j.val).report j.val st.val;
        (∀ r1, (u.job j.val).run = some r1 → (∀ x ∈ r1.image.stations, x ∈ r1.reports) →
          exec (.abandonReport st j) s = .next (u.endRun j.val r1)) ∧
        (∀ r1, (u.job j.val).run = some r1 → (∃ x ∈ r1.image.stations, x ∉ r1.reports) →
          exec (.abandonReport st j) s = .next u))) ∧
    ((s.job j.val).run = none → exec (.stationEndMessage st j) s = .next s ∧ exec (.abandonReport st j) s = .next s)

/-- PASS_ISSUE (R48, R51, R83, R110, R111), PASS_VERDICT (R85, R140 to R143, R154), WIDE_PASS_ISSUE (R148), PASS_SPAN_END (R51, R253)
and LANE_TAIL_ROW (R87, R88). -/
def Obligations.PassEvents : Prop :=
  ∀ (s : State) (st : StationId) (n : LaneRowId),
    (s.laneRun st.val n.val = none →
      exec (.passIssue st n) s = .next s ∧ exec (.passVerdict st n) s = .next s ∧ exec (.widePassIssue st n) s = .next s) ∧
    (∀ j r, s.laneRun st.val n.val = some (j, r) →
      let l := s.lane st.val n.val
      let c := s.ctx st.val n.val j
      let d := s.nextPass st.val n.val j r
      let at_ := r.image.at_ st.val;
      (s.mayIssue st.val n.val j r = true → (∀ p ∈ l.passes, p.wide = none) →
        (c.passDone = false → c.wides = [] → (l.passes.filter (fun p => !p.verdict)).length ≤ 1 → s.groupsOpen st.val n.val j d = false →
          s.firstTileCopy st.val n.val j d = none → s.sidingRun j = none → ∃ t, exec (.passIssue st n) s = .next t ∧
            (∃ p, (t.lane st.val n.val).passes = l.passes ++ [p] ∧ p.job = j ∧ p.desc = d ∧ p.idx = c.passIdx ∧ p.wide = none ∧
              p.verdict = false ∧ p.ceilAdj = signed 4 (s.fget F.jobRerunCfgCeilAdj j)) ∧
            t.ctx st.val n.val j = s.ctxAfter st.val n.val j r ∧
            t.fget F.stnLrCtrCount (lrIdx st.val n.val 1) = (s.fget F.stnLrCtrCount (lrIdx st.val n.val 1) + l.feedWait d) % 2 ^ F.stnLrCtrCount.width ∧
            s.OnlyParts t [.regs, .stations] ∧ ∀ x, x ≠ st.val → t.stn x = s.stn x) ∧
        (∀ desc first m rest, c.wides = (desc, first, m) :: rest → l.undecided = none → ∃ t, exec (.widePassIssue st n) s = .next t ∧
          (∃ p, (t.lane st.val n.val).passes = l.passes ++ [p] ∧ p.job = j ∧ p.desc = desc ∧ p.wide = some (first, m) ∧ p.verdict = false ∧
            p.ceilAdj = signed 4 (s.fget F.jobRerunCfgCeilAdj j)) ∧
          t.ctx st.val n.val j = { c with wides := rest } ∧ s.OnlyParts t [.regs, .stations])) ∧
      (∀ i p, l.undecided = some i → l.passes[i]? = some p → p.wide = none → p.job = j → s.stnUp st.val = true →
        s.awaitsCopy st.val n.val j p.desc = false → s.awaitsDepot j p.block = false →
        let ok := s.passReadsOk st.val n.val at_ p
        let u := (ok.2.chargePass st.val n.val p).drained st.val n.val;
        (ok.1 = false → exec (.passVerdict st n) s =
          .next ((u.setPass st.val n.val i { p with verdict := true }).abandonRun j 0x2001)) ∧
        (ok.1 = true →
          let rs := s.passRows st.val n.val at_ p
          let v := (u.keepFront st.val n.val p rs).countRows st.val n.val j rs.2
          let total := (rs.2.map (fun r => r.clips + r.early)).sum
          let w := (v.clipAdd j 1 1).pulse st.val 48
          let c := v.ctx st.val n.val j
          let ran (t : State) : Prop := exec (.passVerdict st n) s = .next (t.feedNext st.val n.val);
          (total ≤ pdBudget p.desc → ran (v.release st.val n.val i at_ p rs.2)) ∧
          (pdBudget p.desc < total →
            (pdRerun p.desc = false → ran ((w.clipAdd j 3 1).release st.val n.val i at_ p rs.2)) ∧
            (pdRerun p.desc = true → c.reruns < c.limit → ran (w.callRerun st.val n.val i j p)) ∧
            (pdRerun p.desc = true → c.limit ≤ c.reruns →
              ran ((((w.clipAdd j 4 1).release st.val n.val i at_ p rs.2).recordStatus j (pdM p.desc) 0x4003).rerunRefused
                st.val n.val j p total)))))) ∧
    ((s.lane st.val n.val).passes = [] → exec (.passSpanEnd st n) s = .next s) ∧
    (∀ p rest, (s.lane st.val n.val).passes = p :: rest → p.verdict = true → p.rows = [] → s.stnUp st.val = true →
      ∃ t, exec (.passSpanEnd st n) s = .next t ∧ (t.lane st.val n.val).passes = rest ∧
        ((∃ r, (s.job p.job).run = some r ∧ r.started.contains st.val = true) → p.lastPart = true →
          t.ctx st.val n.val p.job = { s.ctx st.val n.val p.job with tokens := (s.ctx st.val n.val p.job).tokens + 1 }) ∧
        (p.lastPart = true → t.fget F.stnLrCtrCount (lrIdx st.val n.val 15) =
          (s.fget F.stnLrCtrCount (lrIdx st.val n.val 15) + 1) % 2 ^ F.stnLrCtrCount.width) ∧
        s.OnlyParts t [.regs, .stations] ∧ (∀ x, x ≠ st.val → t.stn x = s.stn x) ∧ ∀ k, k ≠ n.val → t.lane st.val k = s.lane st.val k) ∧
    ((s.stn st.val).nextTail = none → exec (.laneTailRow st) s = .next s) ∧
    (∀ row, (s.stn st.val).nextTail = some row →
      let u := (s.setStn st.val { s.stn st.val with tail := (s.stn st.val).tail.erase row, tailLane := row.lane }).pulse st.val 44;
      ((s.job row.job).run = none → exec (.laneTailRow st) s = .next (u.feedAll st.val row.lane)) ∧
      (∀ r, (s.job row.job).run = some r →
        (∀ b, row.block = some b → exec (.laneTailRow st) s =
          .next (((u.sidingRow row b).lrAdd st.val row.lane 14 (row.vals.filter (isNan fp32)).length).feedAll st.val row.lane)) ∧
        (row.block = none →
          let base := 64 * (r.image.at_ st.val).platform
          let ok := u.stationRead st.val 33 ((tailInputs row.desc row.row).map (fun a => ((base + a.1) / 8, ceilDiv a.2 8)));
          (ok.1 = true → exec (.laneTailRow st) s = .next ((ok.2.abandonRun row.job 0x2001).feedAll st.val row.lane)) ∧
          (ok.1 = false → exec (.laneTailRow st) s = .next ((ok.2.tailRow st.val base row).feedAll st.val row.lane)))))

/-- COPY_ISSUE (R253, R252), COPY_REQUEST_SEND, COPY_REQUEST_DATA (R254, R245, R257), GENERATION_CONFIRM (R267 to R269) and
COPY_COMPLETE (R256, R264). -/
def Obligations.CopyEvents : Prop :=
  ∀ (s : State) (st : StationId) (n : LaneRowId),
    let l := s.lane st.val n.val;
    (s.laneRun st.val n.val = none → exec (.copyIssue st n) s = .next s) ∧
    (∀ j r, s.laneRun st.val n.val = some (j, r) → s.mayIssue st.val n.val j r = true →
      let c := s.ctx st.val n.val j
      let body := r.image.stnRec st.val 4 n.val
      let ls := loopsOf false body
      let d := descAt 32 body c.copyIdx
      let iters := itersFor ls c.copyIters;
      c.copyDone = false → c.faulted = false → cdTake d ≤ c.tokens → ∃ t, exec (.copyIssue st n) s = .next t ∧
        (∃ x, (t.lane st.val n.val).copies = l.copies ++ [x] ∧ x.seq = l.seq ∧ x.job = j ∧ x.desc = d ∧ x.len = cdLen d ∧ x.sent = 0 ∧
          x.open_ = [] ∧ x.src = s.copyAt st.val j r.image d c.copyIdx ls iters false ∧
          x.dst = s.copyAt st.val j r.image d c.copyIdx ls iters true) ∧
        (t.lane st.val n.val).seq = l.seq + 1 ∧ (t.ctx st.val n.val j).tokens = c.tokens - cdTake d ∧
        (nextDesc ls (listDescs body) c.copyIdx iters = none → (t.ctx st.val n.val j).copyDone = true) ∧
        s.OnlyParts t [.stations] ∧ (∀ x, x ≠ st.val → t.stn x = s.stn x) ∧ ∀ k, k ≠ n.val → t.lane st.val k = s.lane st.val k) ∧
    (∀ seq, l.copy seq = none → exec (.copyRequestSend st n seq) s = .next s ∧ (∀ off, exec (.copyRequestData st n seq off) s = .next s) ∧
      (∀ p, exec (.generationConfirm st n seq p) s = .next s) ∧ exec (.copyComplete st n seq) s = .next s) ∧
    (∀ seq c, l.copy seq = some c →
      (∀ q, c.nextReq = some q → l.slots < 48 → l.job = some c.job → s.stnUp st.val = true →
        s.sendTurn st.val n.val (s.copyExpress st.val c) = true →
        let u := ((s.putCopy st.val n.val (c.sendReq q) (l.slots + 1)).bump F.stnCopyCtrCount (5 * st.val + 1) 1).pulse st.val 33
        let v := if s.copyExpress st.val c = true then u else u.setStn st.val { u.stn st.val with copyLane := n.val }
        let sent (w : State) : Prop := exec (.copyRequestSend st n seq) s = .next (State.goOn (islandOfStation st.val) w (s.routeEntry st.val c (islandOfStation st.val) ⟨st.val, n.val, seq, q.1⟩ (s.srcPath st.val c q.1) []));
        (c.reqPage q.1 = none → sent v) ∧
        (∀ p, c.reqPage q.1 = some p → (v.ringSlot st.val c p).isSome = true → sent v) ∧
        (∀ p, c.reqPage q.1 = some p → (v.ringSlot st.val c p) = none → sent (v.reachPage st.val c.job c.desc (c.src + q.1)))) ∧
      (∀ im q, s.runImage c.job = some im → c.open_.find? (fun x => x.1 = q.1) = some q → s.stnUp st.val = true →
        let u := s.arrived (fun e => e.req = some ⟨st.val, n.val, seq, q.1⟩)
        let page := c.reqPage q.1
        let away := (page.bind (fun p => u.ringSlot st.val c p)).isNone && page.any (fun p => !u.pageReady p || u.pageAway c p)
        let parts := pageParts (c.dst + q.1) (zeros q.2);
        u.stnUp st.val = true →
        (cdDst c.desc = 2 → isMediaPage (pageOf (c.dst + q.1)) = true → u.fget F.flsHealthExhausted 0 = 1 →
          exec (.copyRequestData st n seq q.1) s = .next (u.faultCopy st.val n.val c 0x2003)) ∧
        (cdDst c.desc ≠ 2 → away = false → exec (.copyRequestData st n seq q.1) s = .next (u.takeCopyData st.val n.val im c q)) ∧
        (cdDst c.desc ≠ 2 → ∀ p, page = some p → (page.bind (fun p => u.ringSlot st.val c p)) = none → u.pageReady p = false →
          exec (.copyRequestData st n seq q.1) s = .next (if u.planReads c.job p = true then u else u.promote p)) ∧
        (cdDst c.desc = 2 → u.fget F.flsHealthExhausted 0 = 0 → away = false → (∀ x ∈ parts, u.writeHeld (c.ident st.val n.val) (pageOf x.1) = false) →
          (∀ x ∈ parts, u.overBy (pageOf x.1) x.1 x.2.length = false) →
          exec (.copyRequestData st n seq q.1) s = .next (u.takeCopyData st.val n.val im c q))) ∧
      (∀ p x, c.pages.find? (fun x => x.page = p && !x.confirmed) = some x → c.written = true →
        (x.gen = some (s.genOf p) → x.old = false → exec (.generationConfirm st n seq p) s =
          .next ((s.putCopy st.val n.val { c with pages := c.pages.map (fun y => if y.page = p then { y with confirmed := true } else y) }
            l.slots).endHold (c.ident st.val n.val) p)) ∧
        (x.gen ≠ some (s.genOf p) ∨ x.old = true → exec (.generationConfirm st n seq p) s = .next (s.confirmFails st.val n.val c x))) ∧
      (c.written = true → (∀ x ∈ c.pages, x.confirmed = true) → s.stnUp st.val = true →
        (∀ e ∈ s.depot.pages, e.2.writer ≠ some (c.ident st.val n.val)) →
        ∃ t, exec (.copyComplete st n seq) s = .next t ∧ t = ((s.dropCopy st.val n.val c).bump F.stnCopyCtrCount (5 * st.val) 1).advance st.val c ∧
          (t.lane st.val n.val).copies = l.copies.filter (fun x => x.seq != c.seq) ∧
          t.fget F.stnCopyCtrCount (5 * st.val) = (s.fget F.stnCopyCtrCount (5 * st.val) + 1) % 2 ^ F.stnCopyCtrCount.width ∧
          ∀ x, x ≠ st.val → t.stn x = s.stn x))

/-- STREAM_FETCH (R259 to R262), STREAM_FETCH_DATA (R263, R267), WINDOW_LAYER_LOAD_START, WINDOW_LAYER_LOADED (R271, R272) and
WINDOW_LAYER_RELEASE (R273). -/
def Obligations.StreamAndWindowEvents : Prop :=
  ∀ s : State,
    (∀ (st : StationId) (place pref : Fin 8),
      (s.streamOwner st.val place.val pref.val = none → exec (.streamFetch st place pref) s = .next s ∧
        ∀ k, exec (.streamFetchData st place pref k) s = .next s) ∧
      (∀ im j e, s.streamOwner st.val place.val pref.val = some (im, j, e) → s.stnUp st.val = true →
        let x := s.stream st.val place.val pref.val
        let i := streamIdx st.val pref.val place.val;
        (x.live = true → x.next < x.head + e.1.depth → s.carried st.val = some j ∨ s.activeWants st.val place.val pref.val = false →
          (inExtent e.1 x.next = false → ∃ t, exec (.streamFetch st place pref) s = .next t ∧ t.fget F.stnStreamStatEnded i = 1 ∧
            s.OnlyParts t [.regs] ∧ s.OnlyRegs t (fun r _ => r = F.stnStreamStatEnded.reg)) ∧
          (inExtent e.1 x.next = true →
            let off := streamOff e.1 x.next
            let p := pageOf (s.streamAddr j e.1 x.next)
            let u := s.setStream st.val place.val pref.val { x with next := x.next + 1 };
            (off < 0 ∨ ((s.runBuf j e.1.buf).2 : Int) < off + 65536 →
              exec (.streamFetch st place pref) s = .next (u.skipPage st.val place.val pref.val x.next)) ∧
            (0 ≤ off → off + 65536 ≤ (s.runBuf j e.1.buf).2 →
              ((u.tierLookup p).skips p = true → exec (.streamFetch st place pref) s =
                .next ((u.tierLookup p).skipPage st.val place.val pref.val x.next)) ∧
              ((u.tierLookup p).skips p = false →
                let y := (u.tierLookup p).stream st.val place.val pref.val
                let slot : RingSlot := { k := x.next, page := p, gen := 0, full := false, empty := false, fetchedAt := 0 }
                let v := (((u.tierLookup p).setStream st.val place.val pref.val { y with slots := y.slots ++ [slot] }).showStream
                  st.val place.val pref.val).sendFetch im st.val place.val x.next p e.1;
                ((v.page p).resident = true ∨ isMediaPage p = false → exec (.streamFetch st place pref) s = .next v) ∧
                ((v.page p).resident = false → isMediaPage p = true → exec (.streamFetch st place pref) s =
                  .next ((v.queueReads .stream (((bitsSet 16 (v.page p).mapped).map (fun i => 16 * p + i)).filter (fun b => !v.staged b))).bump
                    F.depTierCtrCount 4 1)))))) ∧
        (∀ k,
          let u := s.arrived (fun x => x.req = some (fetchId st.val place.val pref.val k))
          let x := u.stream st.val place.val pref.val
          let p := pageOf (u.streamAddr j e.1 k)
          let rs := u.streamReads p
          let v := u.setFlash { u.flash with reads := u.flash.reads.filter (fun r => !rs.contains r) };
          x.slots.any (fun r => r.k = k && !r.full && !r.empty) = true → (∀ r ∈ rs, r.2.done = true) → u.stnUp st.val = true →
          u.shareWaits p = false → u.fetchGen p rs % 2 = 0 →
          ((∃ r ∈ rs, r.2.failed = true) ∨ v.readStatus (65536 * p) 65536 ≠ 0 →
            exec (.streamFetchData st place pref k) s = .next (v.skipPage st.val place.val pref.val k)) ∧
          ((∀ r ∈ rs, r.2.failed = false) → v.readStatus (65536 * p) 65536 = 0 →
            let w := v.setStream st.val place.val pref.val { x with slots := x.slots.map (fun r =>
              if r.k = k then { r with full := true, gen := u.fetchGen p rs, fetchedAt := v.cyc (islandOfStation st.val) } else r) };
            exec (.streamFetchData st place pref k) s = .next
              ((w.platStore st.val (ringAt im st.val e k) (w.depotRead (65536 * p) 65536)).showStream st.val place.val pref.val))))) ∧
    (∀ j : JobId,
      ((s.job j.val).run = none → exec (.windowLayerLoadStart j) s = .next s ∧ exec (.windowLayerRelease j) s = .next s) ∧
      (∀ r, (s.job j.val).run = some r →
        let h := s.job j.val
        let w := r.image.group 7
        let n := h.nextLayer;
        (w ≠ [] → n < wnLayers w → r.abandoned = none → (∀ e ∈ h.layers, e.2 = true ∧ e.1 % 3 ≠ n % 3) →
          ∃ t, exec (.windowLayerLoadStart j) s = .next t ∧
            t = ((s.setJob j.val { h with nextLayer := n + 1, layers := h.layers ++ [(n, false)] }).layerPages j.val w n).foldl
              (State.loadPage j.val n) (s.setJob j.val { h with nextLayer := n + 1, layers := h.layers ++ [(n, false)] }) ∧
            (t.job j.val).nextLayer = n + 1 ∧ (t.job j.val).layers = h.layers ++ [(n, false)]) ∧
        (let gone := ((h.layers.filter (fun e => e.2)).map (·.1)).filter (fun n => s.layerPast j.val n r);
          (gone = [] → exec (.windowLayerRelease j) s = .next s) ∧
          (gone ≠ [] → exec (.windowLayerRelease j) s = .next (s.releaseLayers j.val (fun l => gone.contains l))))) ∧
      ((∀ e ∈ (s.job j.val).layers, e.2 = true) → exec (.windowLayerLoaded j) s = .next s) ∧
      (∀ n, (s.job j.val).layers.find? (fun e => !e.2) = some (n, false) →
        let ps := ((s.job j.val).pinned.filter (fun e => e.1 = n)).map (·.2);
        ((∃ p ∈ ps, s.promoteOpen p = true) → exec (.windowLayerLoaded j) s = .next s) ∧
        ((∀ p ∈ ps, s.promoteOpen p = false) → ∃ t, exec (.windowLayerLoaded j) s = .next t ∧
          (n, true) ∈ (t.job j.val).layers)))

/-- STACK_READ (R238, R541 to R545), DRAM_ADDRESS_CLASS_REREAD (R545), ECC_WRITE_BACK (R543), PATROL_SCRUB_STEP (R549), DRAM_ROW_REPAIR_DONE
(R556), MIRROR_TAKEOVER (R246), RESERVE_REBUILD_DONE (R247), SRAM_SCRUB_STEP (R550), SRAM_REPAIR (R557), LANE_ROW_RETIRE_START and
LANE_ROW_RETIRE_DONE (R31, R558). -/
def Obligations.StoredWordEvents : Prop :=
  ∀ s : State,
    (∀ addr fold errs,
      let a := addr / 256 * 256
      let n := s.homeStack (pageOf a);
      inDepot a 256 = true → (s.page (pageOf a)).resident = true → s.fget F.memStackStateInService n = 1 →
        exec (.stackRead addr fold errs) s =
          .next (s.readChunk n (withBits (withBits fold 27 5 ((a / 256 % 256 + pageOf a) % 32)) 32 8 n) (some a) false errs) ∧
        (s.ecc.injected = [] → (∀ i, i < 8 → a / 32 + i ∉ s.ecc.badWords) → exec (.stackRead addr fold []) s = .next s)) ∧
    (∀ (n : StackId) word, s.ecc.rereads.contains (n.val, word) = true →
      let u := s.setEcc { s.ecc with rereads := s.ecc.rereads.erase (n.val, word) };
      exec (.dramAddressClassReread n word true) s = .next ((u.countUe (islandOfStack n.val) word true).fenceStack n.val) ∧
      exec (.dramAddressClassReread n word false) s = .next (u.setEcc { u.ecc with badWords := u.ecc.badWords.filter (· != word) })) ∧
    (∀ (i : IslandId) word x, s.ecc.writeBacks.find? (fun x => x.1 = i.val && x.2.1 = word) = some x → ∃ t,
      exec (.eccWriteBack i word) s = .next t ∧ t.ecc = { s.ecc with writeBacks := s.ecc.writeBacks.erase x } ∧
      t.fget F.glbEccCtrScrubFixed i.val = (s.fget F.glbEccCtrScrubFixed i.val + bit x.2.2) % 2 ^ F.glbEccCtrScrubFixed.width ∧
      s.OnlyParts t [.regs, .ecc] ∧ (x.2.2 = false → t.regs = s.regs)) ∧
    (∀ (n : StackId) fold errs, s.fget F.memEccCfgScrubEn n.val = 1 → s.fget F.memStackStateInService n.val = 1 →
      Tbl.look 0 s.ecc.scrubAt n.val + 1000 * s.fget F.memEccCfgScrubUs n.val ≤ s.cyc (islandOfStack n.val) →
      let k := s.fget F.memScrubStatChunk n.val
      let u := (s.setEcc { s.ecc with scrubAt := Tbl.put 0 s.ecc.scrubAt n.val (s.cyc (islandOfStack n.val)) }).readChunk n.val (withBits (withBits fold 27 5 (k % 32)) 32 8 n.val) none true errs;
      (k + 1 < 402653184 → exec (.patrolScrubStep n none fold errs) s = .next (u.fset F.memScrubStatChunk n.val (k + 1))) ∧
      (k + 1 = 402653184 → exec (.patrolScrubStep n none fold errs) s =
        .next ((u.fset F.memScrubStatChunk n.val 0).bump F.memScrubStatPasses n.val 1))) ∧
    (∀ (n : StackId) r, s.ecc.repairs.find? (fun r => r.stack = n.val) = some r →
      let k := 32 * r.stack + r.channel
      let used := Tbl.look 0 s.ecc.rowsUsed k;
      ∃ t, exec (.dramRowRepairDone n) s = .next t ∧ Tbl.look 0 t.ecc.rowsUsed k = used + 1 ∧ t.ecc.repairs = s.ecc.repairs.erase r ∧
        t.fget F.memScrubStatRemaps n.val = (s.fget F.memScrubStatRemaps n.val + 1) % 2 ^ F.memScrubStatRemaps.width ∧
        t.cfs.writes = s.cfs.writes ++ [.fuse (fuseWord2 1 (islandOfStack n.val) r.channel used r.target) (fuseWord3 r.cause)] ∧
        (∀ p, r.place = some p → s.open p = true → (t.cmd p).status = 0 ∧ (t.cmd p).result = 15 - used ∧ (t.cmd p).ready = true) ∧
        s.OnlyParts t [.regs, .host, .ecc, .cfs]) ∧
    (∀ n : StackId,
      (s.depot.reserveDown.contains n.val = true → s.depot.reserveLost.contains n.val = false → exec (.mirrorTakeover n) s =
        .next (((s.setDepot { s.depot with reserveDown := s.depot.reserveDown.filter (· != n.val) }).fset F.memStackStateMirrorActive
          (s.mirrorOf n.val) 1).sharesBack s.sharePages)) ∧
      (s.depot.reserveLost.contains n.val = true →
        (let lost := s.depot.reserveLost.filter (· != n.val)
        let down := s.depot.reserveDown.filter (· != n.val);
        exec (.reserveRebuildDone n) s = .next ((s.setDepot { s.depot with reserveLost := lost, reserveDown := down }).sharesBack s.sharePages)) ∧
        exec (.mirrorTakeover n) s = .next s) ∧
      (s.depot.reserveDown.contains n.val = false → exec (.mirrorTakeover n) s = .next s)) ∧
    (∀ (i : IslandId) mem line errs,
      (i.val ∈ s.power.started → exec (.sramScrubStep i mem line errs) s =
        .next ((lineErrors errs).zipIdx.foldl (State.scrubWord i.val mem line) s)) ∧
      (i.val ∉ s.power.started → exec (.sramScrubStep i mem line errs) s = .next s)) ∧
    (∀ (i : IslandId) array target, s.memFree i.val array = true →
      let key := 64 * i.val + array
      let hold (u : State) : State := if islandClass i.val = 0 then u.heldCycles (stationOf i.val) array else u;
      (let cols := Tbl.look 0 s.ecc.sramCols key;
        (cols < 2 → target < 65536 → exec (.sramRepair i array true target) s = .next
          ((hold (s.setEcc { s.ecc with sramCols := Tbl.put 0 s.ecc.sramCols key (cols + 1) })).cfsWrite
            (.fuse (fuseWord2 3 i.val array cols target) (fuseWord3 1)))) ∧
        (2 ≤ cols → exec (.sramRepair i array true target) s = .next s)) ∧
      (let rows := Tbl.look 0 s.ecc.sramRows key;
        ∀ d, s.ecc.sramDue.find? (fun d => d.1 = i.val && d.2.1 = array && d.2.2.1 = target) = some d → rows < 4 →
          let done := { s.ecc with sramRows := Tbl.put 0 s.ecc.sramRows key (rows + 1), sramDue := s.ecc.sramDue.erase d };
          exec (.sramRepair i array false target) s = .next
            ((hold (s.setEcc done)).cfsWrite (.fuse (fuseWord2 2 i.val array rows target) (fuseWord3 d.2.2.2))))) ∧
    (∀ (st : StationId) (n : LaneRowId),
      (s.retireOf st.val n.val = none → exec (.laneRowRetireStart st n) s = .next s ∧ exec (.laneRowRetireDone st n) s = .next s) ∧
      (∀ r, s.retireOf st.val n.val = some r →
        (r.begun = false → (s.lane st.val n.val).passes = [] → ∃ t, exec (.laneRowRetireStart st n) s = .next t ∧
          t.lane st.val n.val = { s.lane st.val n.val with held := true } ∧ s.OnlyParts t [.ecc, .stations] ∧
          t.ecc.retiring = s.ecc.retiring.map (fun x => if x = r then { x with begun := true } else x)) ∧
        (r.begun = true → (s.lane st.val n.val).job = none → ∃ t, exec (.laneRowRetireDone st n) s = .next t ∧
          t.fget F.stnLrSpareUsed st.val = 1 ∧ t.fget F.stnLrSpareReplaced st.val = n.val % 32 ∧ (t.lane st.val n.val).held = false ∧
          t.ecc.retiring = s.ecc.retiring.filter (· != r) ∧
          t.fget F.stnLrCtrCount (lrIdx st.val n.val 8) = (s.fget F.stnLrCtrCount (lrIdx st.val n.val 8) + 512) % 2 ^ F.stnLrCtrCount.width ∧
          t.cfs.writes = s.cfs.writes ++ [.fuse (fuseWord2 4 (islandOfStation st.val) 0 0 n.val) (fuseWord3 r.cause)] ∧
          (∀ p, r.place = some p → s.open p = true → (t.cmd p).status = 0 ∧ (t.cmd p).ready = true))))

/-- WALKER_CONTEXT_ASSIGN (R325, R326), SIDING_BATCH_TIMEOUT (R324), LIST_ARRIVAL (R329, R331), RERANK_VECTOR_ARRIVAL (R336), INDEX_PUT_RESUME
(R339), SHUNT_PREPARE (R343), SCAN_CONTEXT_ASSIGN and SCAN_WORK_UNIT (R354 to R356). -/
def Obligations.SearchAndScanEvents : Prop :=
  ∀ s : State,
    (∀ p st c, s.nextSearch = some p → s.searchStation (seJob (s.cmd p).entry) = some st → s.freeWalker st = some c →
      let e := (s.cmd p).entry
      let t := s.usePage (seRoot e)
      let u := t.setSearch { t.search with waiting := t.search.waiting.filter (· != p) }
      let r := u.readRoot (seRoot e);
      (t.pageReady (pageOf (seRoot e)) = false → exec (.walkerContextAssign p) s = .next t) ∧
      (t.pageReady (pageOf (seRoot e)) = true →
        (u.rootStatus (seJob e) r ≠ 0 → exec (.walkerContextAssign p) s = .next (u.finish p (u.rootStatus (seJob e) r) 0)) ∧
        (u.rootStatus (seJob e) r = 0 → seDepot e = true → inDepot (seQuery e) r.vec = false →
          exec (.walkerContextAssign p) s = .next (u.finish p 0x1001 0)) ∧
        (u.rootStatus (seJob e) r = 0 → seDepot e = false → ∃ v, exec (.walkerContextAssign p) s = .next v ∧
          (v.cmd p).ranges = [(seQuery e, r.vec)] ∧ (v.cmd p).want = r.vec ∧ (v.cmd p).got = [] ∧
          (let w := v.walker st c;
            w.live = true ∧ w.place = p ∧ w.started = false ∧ w.sCount = r.sCount ∧
            w.effort = min 4096 (if byteField e 48 4 = 0 then skEffort (u.searchk (seJob e)) else byteField e 48 4) ∧
            w.width0 = (if seBeam e = 0 then skBeam (u.searchk (seJob e)) else seBeam e)) ∧
          p ∉ v.search.waiting ∧ u.OnlyParts v [.regs, .host, .stations]))) ∧
    (∀ root b, s.search.batches.find? (fun b => b.root = root) = some b →
      let u := s.setSearch { s.search with batches := s.search.batches.filter (· != b) };
      (u.refusesRun b.job = false → exec (.sidingBatchTimeout root) s =
        .next (u.requestRun b.job (.siding b.root (u.readRoot b.root).sFirst (u.readRoot b.root).sCount b.places) false)) ∧
      (u.refusesRun b.job = true → exec (.sidingBatchTimeout root) s =
        .next (b.places.foldl (fun (s : State) p => if s.open p then s.finish p 0x1001 0 else s) u))) ∧
    (∀ p, s.nextSearch ≠ some p → s.walkerOf p = none → exec (.walkerContextAssign p) s = .next s) ∧
    (∀ p st c, s.nextSearch ≠ some p → s.walkerOf p = some (st, c) → exec (.walkerContextAssign p) s = .next (s.startWhenReady st c)) ∧
    (∀ root, (∀ b ∈ s.search.batches, b.root ≠ root) → exec (.sidingBatchTimeout root) s = .next s) ∧
    (∀ (st : StationId) (c : Fin 16) (i : Nat),
      let w := s.walker st.val c.val
      let r := s.readRoot w.root;
      (w.live = false → exec (.listArrival st c i) s = .next s ∧ exec (.rerankVectorArrival st c i) s = .next s) ∧
      (w.live = true → s.open w.place = true → s.stnUp st.val = true →
        (w.asked.find? (fun x => x.id = i) = none → exec (.listArrival st c i) s = .next (s.resumeWalker st.val c.val)) ∧
        (∀ x g, w.asked.find? (fun x => x.id = i) = some x → s.cameBytes (r.listAt w.level i) r.listBytes = true →
          s.servedGen x (r.listAt w.level i) r.listBytes = some g →
          (g ≠ s.genOf (pageOf (r.listAt w.level i)) →
            let y := s.readAgain st.val c.val x (r.listAt w.level i) r.listBytes;
            exec (.listArrival st c i) s = .next (y.1.setWalker st.val c.val
              { w with asked := w.asked.map (fun z => if z.id = i then y.2 else z) })) ∧
          (g = s.genOf (pageOf (r.listAt w.level i)) →
            let t := (s.endHold (copyIdent st.val (64 + c.val) i) (pageOf (r.listAt w.level i))).takeBytes (r.listAt w.level i) r.listBytes
            let v := (t.1.srch 4 t.2.1).srch 8 (bit (!t.2.2))
            let ids := if t.2.2 then some (v.readList r w.level i) else none;
            exec (.listArrival st c i) s = .next ((v.setWalker st.val c.val { w with
              asked := w.asked.filter (fun z => z.id != i)
              here := w.here ++ [(i, ids)]
              flash := w.flash + t.2.1 }).resumeWalker st.val c.val))) ∧
        (w.rerank.find? (fun x => x.id = i) = none → exec (.rerankVectorArrival st c i) s = .next (s.resumeWalker st.val c.val)) ∧
        (∀ x g, w.rerank.find? (fun x => x.id = i) = some x → s.cameBytes (r.vecAt i) r.vec = true →
          s.servedGen x (r.vecAt i) r.vec = some g → g = s.genOf (pageOf (r.vecAt i)) →
          let t := (s.endHold (copyIdent st.val (64 + c.val) i) (pageOf (r.vecAt i))).takeBytes (r.vecAt i) r.vec
          let v := if t.2.2 then t.1.srch 6 1 else t.1.srch 8 1
          let d := exactDist r.metric r.fmt w.query (v.depotRead (r.vecAt i) r.vec) r.dims;
          exec (.rerankVectorArrival st c i) s = .next ((v.setWalker st.val c.val { w with
            rerank := w.rerank.filter (fun z => z.id != i)
            flash := w.flash + t.2.1
            scored := if t.2.2 then w.scored ++ [(d, i, false)] else w.scored }).searchEnds st.val c.val)))) ∧
    (∀ p,
      (s.open p = false → exec (.indexPutResume p) s = .next s) ∧
      (∀ root, sqOpcode (s.cmd p).entry = 0x0C ∨ sqOpcode (s.cmd p).entry = 0x0B → s.open p = true → s.mutatorRoot p = some root →
        (s.firstMutator root = some p → exec (.indexPutResume p) s = .next (s.mutate root s.search.mutators.length)) ∧
        (s.firstMutator root ≠ some p → exec (.indexPutResume p) s = .next s)) ∧
      (∀ x, s.search.shunts.find? (fun x => x.place = p) = some x → exec (.shuntPrepare p) s = .next (s.shuntStep x.root)) ∧
      ((∀ x ∈ s.search.shunts, x.place ≠ p) → exec (.shuntPrepare p) s = .next s)) ∧
    (∀ p,
      (∀ c, s.nextScan = some p → s.scanOf p = some c →
        let sts := s.scanStations (scJob (s.cmd p).entry);
        ∃ t, exec (.scanContextAssign p) s = .next t ∧ p ∉ t.scan.waiting ∧ s.OnlyParts t [.stations, .scan] ∧
          t.stations = (sts.foldl (State.openScanCtx p) s).stations) ∧
      (s.nextScan ≠ some p → s.open p = false → exec (.scanContextAssign p) s = .next s) ∧
      (∀ st : StationId,
        (s.scanOf p = none → exec (.scanWorkUnit p st) s = .next s) ∧
        (∀ c0, s.scanOf p = some c0 → c0.stations.contains st.val = true → s.stnUp st.val = true → s.open p = true → (s.cmd p).ready = false →
          let x := s.serveUnits c0 st.val
          let c := x.2
          let more : Prop := c.next < scanUnits (s.cmd p).entry ∧ c.inHand st.val < 8;
          (c.out.find? (fun u => u.station = st.val) = none →
            (more → exec (.scanWorkUnit p st) s = .next (x.1.takeUnit c st.val)) ∧
            (¬ more → exec (.scanWorkUnit p st) s = .next ((x.1.closePacket (s.cmd p).entry st.val p false).scanEnds p))) ∧
          (∀ u, c.out.find? (fun u => u.station = st.val) = some u →
            ((∀ y ∈ u.pages, y.gen.isSome = true) → exec (.scanWorkUnit p st) s = .next ((x.1.tryUnit c st.val u).scanEnds p)) ∧
            ((∃ y ∈ u.pages, y.gen.isSome = false) →
              (more → exec (.scanWorkUnit p st) s = .next (x.1.takeUnit c st.val)) ∧
              (¬ more → exec (.scanWorkUnit p st) s = .next (x.1.setScan c)))))))

/-- LINE_ENABLE, LINE_DISABLE, LINE_RETRAIN_REQUEST, LINE_SIGNAL_DETECT, LINE_RETRY_TIMER, LINE_TRAINING_LOCK, LINE_TRAINING_TIMEOUT,
LINE_LOSS_OF_LOCK, CODEWORD_ERROR_BURST (R397), IDENT_SEND_TIMER, IDENT_RECEIVE (R395, R396), CABLE_MATE, CABLE_REMOVE, CABLE_POWER_FAULT
and CABLE_REFRESH (R643, R644). -/
def Obligations.LineStates : Prop :=
  ∀ (s : State) (b : LineId),
    let l := s.line b.val
    let goes (c : Instr) (st : Nat) : Prop := ∃ t, exec c s = .next t ∧ t.lineSt b.val = st;
    (s.Open → s.fget F.brlLineStateState b.val = 0 → s.host.held = [] →
      ∃ t, exec (.lineEnable b) s = .next t ∧ t.lineSt b.val = 1 ∧ t.fget F.brlLineCtlEnable b.val = 1) ∧
    (s.Open → s.host.held = [] →
      (s.lineSt b.val ≠ 0 → ∃ t, exec (.lineEnable b) s = .next t ∧ s.OnlyParts t [.regs] ∧ t.fget F.brlLineCtlEnable b.val = 1 ∧
        s.OnlyRegs t (fun r i => r = .brlLineCtl ∧ i = b.val)) ∧
      (s.lineSt b.val = 0 → ∃ t, exec (.lineDisable b) s = .next t ∧ s.OnlyParts t [.regs] ∧ t.fget F.brlLineCtlEnable b.val = 0 ∧
        s.OnlyRegs t (fun r i => r = .brlLineCtl ∧ i = b.val)) ∧
      (s.lineSt b.val ≠ 0 → exec (.lineDisable b) s =
        .next ((((s.fset F.brlLineCtlEnable b.val 0).lineTo b.val 0).leaveUp b.val true).meshNext))) ∧
    (s.hears = true → s.host.held = [] →
      (s.lineSt b.val = 7 → ∃ t, exec (.lineRetrainRequest b) s = .next t ∧ t.lineSt b.val = 1 ∧ (t.line b.val).retrains = [] ∧
        t.fget F.brlLineStateRetrains10s b.val = 0) ∧
      (s.lineSt b.val ≠ 7 → s.locked = false → exec (.lineRetrainRequest b) s = .next s) ∧
      (s.lineSt b.val ≠ 7 → s.locked = true → exec (.lineRetrainRequest b) s = .next (s.refuseWrite (0x01800010 + 0x10000 * b.val)))) ∧
    (s.lineSt b.val = 1 → s.fget F.brlCablePresent b.val = 1 → s.fget F.brlCablePwrFault b.val = 0 →
      goes (.lineSignalDetect b) 2 ∧ goes (.lineRetryTimer b) 2) ∧
    (s.lineSt b.val ≠ 1 ∨ s.fget F.brlCablePresent b.val = 0 ∨ s.fget F.brlCablePwrFault b.val = 1 →
      exec (.lineSignalDetect b) s = .next s ∧ exec (.lineRetryTimer b) s = .next s) ∧
    (s.lineSt b.val = 2 ∨ s.lineSt b.val = 6 → ∃ t, exec (.lineTrainingLock b) s = .next t ∧ t.lineSt b.val = 3 ∧
      (t.line b.val).identDue = true ∧ (t.line b.val).txFill = [] ∧ (t.line b.val).rxFill = 0 ∧
      (t.line b.val).before = (if s.lineSt b.val = 6 then l.before else none)) ∧
    (s.lineSt b.val = 2 → ∃ t, exec (.lineTrainingTimeout b) s = .next t ∧ t.lineSt b.val = 1 ∧ (t.line b.val).attempts = l.attempts + 1) ∧
    (s.lineSt b.val = 6 → exec (.lineTrainingTimeout b) s = .next (((s.lineTo b.val 1).leaveUp b.val true).meshNext)) ∧
    (s.lineSt b.val ∉ [2, 6] → exec (.lineTrainingLock b) s = .next s ∧ exec (.lineTrainingTimeout b) s = .next s) ∧
    (s.lineSt b.val = 3 → exec (.identSendTimer b) s = .next (s.setLine b.val { l with identDue := true })) ∧
    (s.lineSt b.val ≠ 3 → exec (.identSendTimer b) s = .next s) ∧
    (∀ body, byteField body 0 1 = 1 →
      let u := ((s.fset F.brlPeerSerialSerial b.val (byteField body 4 8)).fset F.brlLineStatePeerLine b.val (byteField body 1 1)).fset
        F.brlLineStatePeerMod b.val (byteField body 12 1);
      (s.lineSt b.val = 4 ∨ s.lineSt b.val = 5 → exec (.identReceive b body) s = .next u) ∧
      (s.lineSt b.val = 3 → l.before = some (byteField body 4 8, byteField body 1 1 % 32) →
        let v := u.setLine b.val { l with before := none, again := l.replay.length, stuck := 0 };
        exec (.identReceive b body) s = .next ((v.lineTo b.val (if v.lineMatches b.val then 5 else 4)).pullsGo.meshNext)) ∧
      (s.lineSt b.val = 3 → l.before ≠ some (byteField body 4 8, byteField body 1 1 % 32) →
        let v := u.leaveUp b.val true
        let w := v.setLine b.val { (v.line b.val).fresh with before := none };
        exec (.identReceive b body) s = .next ((w.lineTo b.val (if w.lineMatches b.val then 5 else 4)).pullsGo.meshNext))) ∧
    (∀ body, s.lineSt b.val ∉ [3, 4, 5] → exec (.identReceive b body) s = .next s) ∧
    (∀ c ∈ [Instr.lineLossOfLock b, .codewordErrorBurst b],
      (s.lineSt b.val = 4 ∨ s.lineSt b.val = 5 →
        ((l.retrains.filter (fun t => s.lineCyc b.val < t + 3906250000)).length < 2 → ∃ t, exec c s = .next t ∧ t.lineSt b.val = 6 ∧
          (t.line b.val).replay = l.replay ∧ (t.line b.val).nextSeq = l.nextSeq ∧
          t.fget F.brlLineStateRetrains10s b.val = (l.retrains.filter (fun t => s.lineCyc b.val < t + 3906250000)).length + 1 ∧
          t.fget F.brlLineCtrCount (13 * b.val + 6) = (s.fget F.brlLineCtrCount (13 * b.val + 6) + 1) % 2 ^ F.brlLineCtrCount.width) ∧
        exec c s = .next (s.toRetrain b.val)) ∧
      (s.lineSt b.val ∉ [4, 5] → exec c s = .next s)) ∧
    (∀ memory,
      (s.lineSt b.val = 1 → s.fget F.brlCablePwrFault b.val = 0 → ∃ t, exec (.cableMate b memory) s = .next t ∧ t.lineSt b.val = 2 ∧
        t.fget F.brlCablePresent b.val = 1 ∧
        ((memory.map cableOk).getD false = false → t.fget F.brlCableIdBad b.val = 1 ∧ t.fget F.brlCableType b.val = 1 ∧
          t.fget F.brlCableLengthDm b.val = 20)) ∧
      (s.lineSt b.val ≠ 1 → exec (.cableMate b memory) s = .next (s.showCable b.val memory)) ∧
      (s.fget F.brlCablePresent b.val = 1 → exec (.cableRefresh b memory) s = .next (s.showCable b.val memory)) ∧
      (s.fget F.brlCablePresent b.val = 0 → exec (.cableRefresh b memory) s = .next s)) ∧
    exec (.cableRemove b) s = .next ((s.rset .brlCable b.val 0).toRetrain b.val) ∧
    (s.lineSt b.val ∉ [4, 5] → ∃ t, exec (.cableRemove b) s = .next t ∧ t.rget .brlCable b.val = 0 ∧ s.OnlyParts t [.regs]) ∧
    (s.fget F.brlCablePresent b.val = 1 → s.fget F.brlCableType b.val = 2 → exec (.cablePowerFault b) s =
      .next ((s.fset F.brlCablePwrFault b.val 1).toRetrain b.val)) ∧
    (s.fget F.brlCablePresent b.val = 0 ∨ s.fget F.brlCableType b.val ≠ 2 → exec (.cablePowerFault b) s = .next s)

/-- FLIT_TRANSMIT (R390 to R395), FLIT_RECEIVE (R389, R391, R392) and REPLAY_TIMEOUT (R391). -/
def Obligations.LineFlits : Prop :=
  ∀ (s : State) (b : LineId),
    let l := s.line b.val
    let st := s.lineSt b.val;
    (st ∈ [3, 4, 5] →
      let held : Bool := (List.range 8).any (fun v => l.wants v && l.credits.getD v 0 = 0)
      let u := s.lineCtr b.val 12 (bit held);
      (l.again ≠ 0 → 4 ≤ st →
        let old := l.replay.getD (l.replay.length - l.again) []
        let f := l.flit (flSeq old) (flVc old) 1 (flBody old);
        exec (.flitTransmit b) s = .next (u.setLine b.val { l.gave f with again := l.again - 1 })) ∧
      (l.again = 0 ∨ st = 3 →
        (l.identDue = true → exec (.flitTransmit b) s =
          .next (u.setLine b.val { l.gave (l.flit l.nextSeq 0 2 (s.identBody b.val)) with identDue := false })) ∧
        (l.identDue = false →
          (st = 3 ∨ 1024 ≤ l.replay.length → exec (.flitTransmit b) s = .next (u.setLine b.val (l.gave (l.flit l.nextSeq 0 0 [])))) ∧
          (st ≠ 3 → l.replay.length < 1024 →
            (l.pickVc (st = 5) = none → exec (.flitTransmit b) s = .next (u.setLine b.val (l.gave (l.flit l.nextSeq 0 0 [])))) ∧
            (∀ v, l.pickVc (st = 5) = some v → ∃ t, exec (.flitTransmit b) s = .next t ∧ t = u.sendPayload b.val v ∧
              (t.line b.val).nextSeq = (l.nextSeq + 1) % 4096 ∧ (t.line b.val).replay.length = l.replay.length + 1 ∧
              (t.line b.val).credits = l.credits.set v (l.credits.getD v 0 - 1)))))) ∧
    (st ∉ [3, 4, 5] → exec (.flitTransmit b) s = .next s ∧ ∀ f spoiled c u, exec (.flitReceive b f spoiled c u) s = .next s) ∧
    (st ∈ [3, 4, 5] → ∀ f spoiled c n,
      let u := ((s.setLine b.val (l.aligned 256)).lineCtr b.val 3 c).lineCtr b.val 4 n;
      (spoiled = true ∨ flitGood f = false →
        (st = 3 → exec (.flitReceive b f spoiled c n) s = .next (u.lineCtr b.val 2 1)) ∧
        (st ≠ 3 → exec (.flitReceive b f spoiled c n) s =
          .next ((u.lineCtr b.val 2 1).setLine b.val (l.aligned 256).discard))) ∧
      (spoiled = false → flitGood f = true →
        (st = 3 → exec (.flitReceive b f spoiled c n) s = .next u) ∧
        (st ≠ 3 → exec (.flitReceive b f spoiled c n) s = .next ((u.takeFlit b.val f).replayCheck b.val)))) ∧
    (st ∈ [4, 5] →
      (l.replay = [] → exec (.replayTimeout b) s = .next (s.replayCheck b.val)) ∧
      (l.replay ≠ [] → l.stuck < 3 → ∃ t, exec (.replayTimeout b) s = .next t ∧ (t.line b.val).again = l.replay.length ∧
        (t.line b.val).stuck = l.stuck + 1 ∧
        t.fget F.brlLineCtrCount (13 * b.val + 5) = (s.fget F.brlLineCtrCount (13 * b.val + 5) + 1) % 2 ^ F.brlLineCtrCount.width ∧
        s.OnlyParts t [.regs, .mesh] ∧ ∀ k, k ≠ b.val → t.line k = s.line k)) ∧
    (st ∉ [4, 5] → exec (.replayTimeout b) s = .next s)

/-- DISPATCH, RETURN (R403, R404), COPY_REQ, COPY_DATA (R411), PACKET_FORWARD and DETOUR_FAIL (R417), LINK_STATE and LINK_STATE_TIMER (R402),
STEP_ABORT and STEP_TIMEOUT (R419), STEP_WAIT_EXPIRY (R415). -/
def Obligations.MeshEvents : Prop :=
  ∀ (s : State) (b : LineId),
    let self := s.self
    let mine (p : List Byte) : Bool := pkDst p = self;
    (∀ c ∈ [(Instr.dispatch b, s.endsHere 1), (.return_ b, s.endsHere 2), (.copyReq b, s.endsHere 3), (.copyData b, s.endsHere 4),
        (.packetForward b, fun p => pkType p != 5 && !mine p && !pkSecond p && pkVia p = self)],
      (s.packetOn b.val c.2 = none → exec c.1 s = .next s) ∧
      (∀ k, s.packetOn b.val c.2 = some k → s.lineSt b.val ≠ 5 → ∃ t, exec c.1 s = .next t ∧ s.OnlyParts t [.regs, .mesh] ∧
        (t.line b.val).received = (s.line b.val).received.erase k ∧
        t.fget F.brlLineCtrCount (13 * b.val + 9) = (s.fget F.brlLineCtrCount (13 * b.val + 9) + 1) % 2 ^ F.brlLineCtrCount.width)) ∧
    (s.lineSt b.val = 5 →
      (∀ c ∈ [(Instr.dispatch b, 1, State.takeDispatch), (.return_ b, 2, State.takeReturn)], ∀ k,
        s.packetOn b.val (s.endsHere c.2.1) = some k →
        (pkAbandoned k.bytes = true ∨ mine k.bytes = false ∨ s.stale k.bytes = true → exec c.1 s = .next (s.discardIn b.val k)) ∧
        (pkAbandoned k.bytes = false → mine k.bytes = true → s.stale k.bytes = false →
          exec c.1 s = .next ((c.2.2 (s.takeIn b.val k) k.bytes).meshNext))) ∧
      (∀ k, s.packetOn b.val (s.endsHere 3) = some k →
        (mine k.bytes = false → exec (.copyReq b) s = .next (s.discardIn b.val k)) ∧
        (mine k.bytes = true →
          let p := k.bytes
          let a := pkAddr p
          let n := byteField p 24 4
          let pages := (List.range (pageOf (a + n - 1) - pageOf a + 1)).map (pageOf a + ·)
          let u := s.takeIn b.val k
          let tail := leBytes 8 a ++ leBytes 4 n ++ leBytes 4 (pkTag p)
          let answered (e : Nat) (body : List Byte) : Prop :=
            exec (.copyReq b) s = .next (u.queueOn b.val (u.packet 4 e (pkSrc p) 0xFF tail body));
          (s.reqBad p ≠ 0 → answered 8 (leBytes 2 (s.reqBad p) ++ zeros 6)) ∧
          (s.reqBad p = 0 → (∀ g ∈ pages, s.pageReady g = true) →
            (s.rangeStatus a n ≠ 0 → answered 8 (leBytes 2 (s.rangeStatus a n) ++ zeros 6)) ∧
            (s.rangeStatus a n = 0 → answered 0 (u.depotRead a n))) ∧
          (s.reqBad p = 0 → (∃ g ∈ pages, s.pageReady g = false) →
            exec (.copyReq b) s = .next (pages.foldl (fun (s : State) g => (s.tierLookup g).promote g) s)))) ∧
      (∀ k, s.packetOn b.val (s.endsHere 4) = some k →
        (mine k.bytes = false → exec (.copyData b) s = .next (s.discardIn b.val k)) ∧
        (mine k.bytes = true → exec (.copyData b) s = .next ((s.takeIn b.val k).takeCopyPacket k.bytes))) ∧
      (∀ k, s.packetOn b.val (fun p => pkType p != 5 && !mine p && !pkSecond p && pkVia p = self) = some k →
        let u := s.takeIn b.val k
        let m := pkDst k.bytes
        let up (d : Nat) := (u.linesTo d).filter (fun c => u.lineSt c = 5);
        (∀ c, u.nextLine m (up m) = some c → exec (.packetForward b) s = .next
          (((u.usedLine m c).queueOn c (k.bytes.set 5 (BitVec.ofNat 8 (byteField k.bytes 5 1 ||| 1)))).lineCtr c 11 1)) ∧
        (u.nextLine m (up m) = none →
          let fail := u.packet 5 0 (pkSrc k.bytes) 0xFF (leBytes 1 3 ++ zeros 7 ++ leBytes 4 (pkTag k.bytes)) [];
          exec (.packetForward b) s = .next ((u.sendTo (pkBinding k.bytes) (pkSrc k.bytes) fail []).getD u)))) ∧
    (∀ k, s.packetOn b.val (ctlOp 1) = some k → ∃ t, exec (.linkState b) s = .next t ∧ s.OnlyParts t [.mesh] ∧
      (t.line b.val).received = (s.line b.val).received.erase k ∧
      (t.line b.val).report = (List.range 24).map (fun i =>
        (byteField k.bytes (32 + 4 * i) 1, bitOf (byteField k.bytes (33 + 4 * i) 1) 0, byteField k.bytes (34 + 4 * i) 2)) ∧
      ∀ x, x ≠ b.val → t.line x = s.line x) ∧
    exec .linkStateTimer s = .next s.sendLinkStates ∧
    ((∀ x, x < 24 → s.lineSt x ≠ 4 ∧ s.lineSt x ≠ 5) → exec .linkStateTimer s = .next s) ∧
    (∀ k, s.packetOn b.val (ctlOp 2) = some k →
      let p := k.bytes
      let u := s.takeIn b.val k
      let n := byteField p 20 1;
      (mine p = false → pkVia p = self → exec (.stepAbort b) s = .next (s.forward b.val k)) ∧
      (mine p = true ∨ pkVia p ≠ self →
        (pkEpoch p ≠ s.meshEpoch ∨ s.bindings.contains n = false → exec (.stepAbort b) s = .next u) ∧
        (pkEpoch p = s.meshEpoch → s.bindings.contains n = true →
          (pkAbortStep p < s.stepNo n → exec (.stepAbort b) s =
            .next (u.setMesh { u.mesh with lateAborts := u.mesh.lateAborts + 1 })) ∧
          (pkAbortStep p = s.stepNo n → exec (.stepAbort b) s = .next ((u.abortStep n 0x3004 false).meshNext)) ∧
          (s.stepNo n < pkAbortStep p → exec (.stepAbort b) s = .next u)))) ∧
    (∀ k, s.packetOn b.val (ctlOp 3) = some k →
      let u := (s.takeIn b.val k).meshCtr 7 1;
      (u.mesh.hops.find? (fun h => h.tag = pkAbortStep k.bytes) = none → exec (.detourFail b) s = .next u.meshNext) ∧
      (∀ h, u.mesh.hops.find? (fun h => h.tag = pkAbortStep k.bytes) = some h →
        let v := u.setMesh { u.mesh with hops := u.mesh.hops.filter (· != h) }
        let failed := h.failed ++ [pkSrc k.bytes]
        let n := pkBinding h.bytes;
        (3 ≤ failed.length → exec (.detourFail b) s = .next ((v.abortStep n 0x3004 true).meshNext)) ∧
        (failed.length < 3 → exec (.detourFail b) s = .next
          (((v.sendTo n (pkDst h.bytes) h.bytes failed).getD (v.abortStep n 0x3004 true)).meshNext)))) ∧
    (∀ op ∈ [(1, Instr.linkState b), (2, .stepAbort b), (3, .detourFail b)], s.packetOn b.val (ctlOp op.1) = none →
      exec op.2 s = .next s) ∧
    (∀ n : Fin 4,
      (∀ t, s.mesh.table = some t → (s.mstep n.val).running = false → (s.mstep n.val).waiting = true → s.mesh.changes = [] →
        exec (.stepWaitExpiry n) s = .next ((s.startWithout t n.val).meshNext)) ∧
      (s.mesh.table = none ∨ (s.mstep n.val).running = true ∨ (s.mstep n.val).waiting = false → exec (.stepWaitExpiry n) s = .next s) ∧
      exec (.stepTimeout n) s = .next ((s.abortStep n.val 0x3003 true).meshNext))

/-- FLASH_READ_ISSUE and FLASH_READ_DONE (R491), READ_AROUND_THRESHOLD and READ_AROUND_DONE (R492 to R494), ERASE_RESUME (R496), ERASE_DONE
(R475, R582), UNIT_STAGE_TIMEOUT, UNIT_PROGRAM_DONE (R476, R486), MERGE_VERIFY_DONE (R483), SECTION_ERASE_START (R484), CHECKPOINT_TIMER
(R489), PATROL_READ_TIMER (R505; log entry 15: the die is free). -/
def Obligations.FlashEvents : Prop :=
  ∀ s : State,
    (∀ id,
      let x := s.fread id
      let g := groupOf x.sec
      let now := s.cyc (islandOfFlash (g / 8));
      (x.live = false ∨ x.issued = true → exec (.flashReadIssue id) s = .next s) ∧
      (x.live = true → x.issued = false → ∃ t, exec (.flashReadIssue id) s = .next t ∧ s.OnlyParts t [.regs, .flash] ∧
        t.fread id = { x with issued := true, issuedAt := now } ∧
        t.fget F.flsCtrCount 0 = (s.fget F.flsCtrCount 0 + 1) % 2 ^ F.flsCtrCount.width ∧
        t.fget F.flsGroupRaCredit g = min 64000 (s.fget F.flsGroupRaCredit g + s.fget F.flsCfgRaRate 0)) ∧
      (∀ st ok a us ie,
        (x.live = false ∨ x.issued = false ∨ x.done = true ∨ s.erasingIn g ≠ [] →
          exec (.flashReadDone id st ok a us ie) s = .next s) ∧
        (x.live = true → x.issued = true → x.done = false → s.erasingIn g = [] → st < 5 → a = 0 →
          (s.failedSlots g).contains x.slot = false → (s.failedSlots g).length < 2 → x.why ≠ .promote → x.why ≠ .window →
          ∃ t, exec (.flashReadDone id st ok a us ie) s = .next t ∧ s.OnlyParts t [.regs, .flash] ∧
            t.fread id = (if x.why = .patrol ∨ x.why = .dropped then {}
              else { x with done := true, failed := !ok, around := false, gen := s.genOf (x.lba / 16) }) ∧
            t.fget F.flsCtrCount 2 = (s.fget F.flsCtrCount 2 + bit (!ok)) % 2 ^ F.flsCtrCount.width ∧
            t.fget F.flsLatHistCount (latBucket us) = (s.fget F.flsLatHistCount (latBucket us) + 1) % 2 ^ F.flsLatHistCount.width ∧
            ∀ n, n < 8 → t.fget F.flsRetryCtrCount n =
              (s.fget F.flsRetryCtrCount n + bit (n < st)) % 2 ^ F.flsRetryCtrCount.width) ∧
        (x.live = true → x.issued = true → x.done = false → s.erasingIn g = [] → st < 5 → a = 0 →
          (s.failedSlots g).contains x.slot = false → (s.failedSlots g).length < 2 → (x.why = .promote ∨ x.why = .window) →
          ∃ t, exec (.flashReadDone id st ok a us ie) s = .next t ∧ s.OnlyParts t [.regs, .flash, .depot] ∧ t.fread id = {} ∧
            (ok = true → t.depot = s.depot) ∧
            (ok = false → (t.page (x.lba / 16)).bad = (s.page (x.lba / 16)).bad ||| 2 ^ (x.lba % 16)))) ∧
      ((x.live = true ∧ x.issued = true ∧ x.crossed = false ∧ x.done = false ∧ s.raPassed x = true ∧
          s.fbit F.flsCfgRaEn 0 = true ∧ s.fbit F.flsGroupDegraded g = false →
        (s.fget F.flsGroupRaCredit g < 1000 → exec (.readAroundThreshold id) s =
          .next ((s.bump F.flsCtrCount 5 1).setFread id { x with crossed := true })) ∧
        (1000 ≤ s.fget F.flsGroupRaCredit g → exec (.readAroundThreshold id) s =
          .next (((s.dip F.flsGroupRaCredit g 1000).bump F.flsCtrCount 3 1).setFread id { x with around := true, crossed := true }))) ∧
      (x.live = false ∨ x.issued = false ∨ x.crossed = true ∨ x.done = true ∨ s.raPassed x = false ∨
          s.fbit F.flsCfgRaEn 0 = false ∨ s.fbit F.flsGroupDegraded g = true → exec (.readAroundThreshold id) s = .next s)) ∧
      (∀ us,
        (x.live = true → x.around = true → x.done = false →
          exec (.readAroundDone id false us) s = .next (s.setFread id { x with around := false }) ∧
          exec (.readAroundDone id true us) s =
            .next (((s.bump F.flsCtrCount 4 1).bump F.flsLatHistCount (latBucket us) 1).readEnds id true)) ∧
        (∀ ok, x.live = false ∨ x.around = false ∨ x.done = true → exec (.readAroundDone id ok us) s = .next s))) ∧
    (∀ p,
      let x := s.sec p
      let g := groupOf p;
      (x.st = .suspended → s.mayResume p = true → exec (.eraseResume p) s = .next (s.setSecSt p .erasing)) ∧
      (x.st ≠ .suspended ∨ s.mayResume p = false → exec (.eraseResume p) s = .next s) ∧
      (∀ failed,
        (s.fget F.glbMaintOp 0 = 1 → exec (.eraseDone p failed) s = .next (s.sanErased p failed)) ∧
        (s.fget F.glbMaintOp 0 ≠ 1 → x.st ≠ .erasing → exec (.eraseDone p failed) s = .next s.afterOps) ∧
        (s.fget F.glbMaintOp 0 ≠ 1 → x.st = .erasing →
          let u := failed.foldl (fun s k => (s.bump F.flsCtrCount 10 1).growBad p k 1) (s.countErase p)
          let v := u.putSec p { u.sec p with lsec := 0, inOrder := false, units := 0, relocate := false };
          (v.fbit F.flsGroupDegraded g = false → exec (.eraseDone p failed) s =
            .next (((((v.setSecSt p .free).formatErased p).retireEmptied g).wearLevel g).afterOps)) ∧
          (v.fbit F.flsGroupDegraded g = true → exec (.eraseDone p failed) s =
            .next (((((v.retireSec p 2).formatErased p).retireEmptied g).wearLevel g).afterOps)))) ∧
      (s.flash.eraseQ.contains p = true → (∀ e ∈ s.flash.reads, e.2.live = true → e.2.sec = p → e.2.done = true) →
        let u := (s.setFlash { s.flash with eraseQ := s.flash.eraseQ.filter (· != p) }).setSecSt p .erasing
        let v := u.putSec p { u.sec p with suspends := 0, units := 0 };
        exec (.sectionEraseStart p) s = .next (if x.st = .log then v.logFreed else v)) ∧
      (s.flash.eraseQ.contains p = false ∨ (∃ e ∈ s.flash.reads, e.2.live = true ∧ e.2.sec = p ∧ e.2.done = false) →
        exec (.sectionEraseStart p) s = .next s) ∧
      (∀ unit, x.st = .data ∨ ((x.st = .log ∨ x.st = .journal ∨ x.st = .merging) ∧ unit < x.units) →
        ∃ t i, exec (.patrolReadTimer p unit) s = .next t ∧ s.OnlyParts t [.flash, .freeCtr] ∧ t.freeCtr = s.freeCtr + 1 ∧
          (s.fread i).live = false ∧ (∀ j, j ≠ i → t.fread j = s.fread j) ∧
          t.fread i = { live := true, lba := 0, why := .patrol, sec := p, slot := Config.freeNat s.freeCtr % 16 }) ∧
      (∀ unit, x.st = .free ∨ x.st = .erasing ∨ x.st = .suspended ∨ x.st = .retired →
        exec (.patrolReadTimer p unit) s = .next s)) ∧
    (∀ i,
      let x := s.punit i
      let l := x.lsec
      let u (n : Nat) := (s.bump F.flsCtrCount 14 1).bump F.flsCtrCount 9 n
      let grown (u : State) (ks : List Nat) := ks.foldl (fun s k => s.growBad x.sec k 0) u;
      (x.live = false ∨ x.programming = true → exec (.unitStageTimeout i) s = .next s) ∧
      (x.live = true → x.programming = false →
        (x.inOrder = false → exec (.unitStageTimeout i) s = .next (s.setPunit i { x with programming := true }).stagingOn) ∧
        (x.inOrder = true → exec (.unitStageTimeout i) s = .next (s.beginInOrder x.sec l x.unit 1024).stagingOn)) ∧
      (∀ failed, s.fget F.glbMaintOp 0 = 1 →
        exec (.unitProgramDone i failed) s = .next (s.sanOverwritten i failed.length)) ∧
      (s.fget F.glbMaintOp 0 ≠ 1 →
        (∀ failed, x.live = false ∨ x.programming = false ∨ x.unit ≠ (s.sec x.sec).units →
          exec (.unitProgramDone i failed) s = .next s) ∧
        (x.live = true → x.programming = true → x.unit = (s.sec x.sec).units →
          let v := (u 0).putSec x.sec { (u 0).sec x.sec with units := x.unit + 1 };
          (x.merge = true → exec (.unitProgramDone i []) s =
            .next (if x.unit + 1 < 1024 then v.setPunit i { x with unit := x.unit + 1 } else v.setPunit i {}).stagingOn) ∧
          (x.merge = false → (s.sec x.sec).st = .journal → exec (.unitProgramDone i []) s =
            .next (((u 0).setPunit i {}).putSec x.sec { (u 0).sec x.sec with units := x.unit + 1 }).stagingOn) ∧
          (x.merge = false → (s.sec x.sec).st ≠ .journal → exec (.unitProgramDone i []) s = .next ((u 0).unitCommitted i).stagingOn) ∧
          (∀ k ks, let f := k :: ks;
            (x.merge = true → exec (.unitProgramDone i f) s = .next ((grown (u f.length) f).restartMerge l).stagingOn) ∧
            (x.merge = false → (s.sec x.sec).st = .journal → exec (.unitProgramDone i f) s =
              .next (((grown (u f.length) f).setPunit i {}).rollover).stagingOn) ∧
            (x.merge = false → (s.sec x.sec).st ≠ .journal → exec (.unitProgramDone i f) s =
              .next ((u f.length).logFailed i f).stagingOn))))) ∧
    (∀ l,
      let x := s.lsec l
      let after (t : State) : Prop := exec (.mergeVerifyDone l) s = .next (if s.flash.ckptDue then t.checkpointOn else t);
      (x.target = none → after s) ∧
      (∀ p, x.target = some p →
        ((s.sec p).units < 1024 ∨ (∃ e ∈ s.flash.units, e.2.sec = p ∨ x.folding.contains e.2.sec = true) → after s) ∧
        (1024 ≤ (s.sec p).units → (∀ e ∈ s.flash.units, e.2.sec ≠ p ∧ x.folding.contains e.2.sec = false) →
          let now : LSec := { x with
            data := some p
            inOrd := x.inOrd.filter (fun q => !x.folding.contains q)
            smap := x.smap.filter (fun e => !x.folding.contains e.2.1)
            target := none
            folding := []
            relocating := false };
          after (((((((s.setSecSt p .data).setLsec l now).bump F.flsCtrCount 11 1).bump F.flsCtrCount 16 (bit x.relocating)).journal 1 p
            (leBytes 4 l ++ leBytes 4 (x.data.getD 0xFFFFFFFF) ++ leBytes 1 0))).queueErase x.folding)))) ∧
    ((s.mapsFit = true → ∃ t, exec .checkpointTimer s = .next t ∧ s.OnlyParts t [.cfs, .flash] ∧ t.flash.ckptDue = false ∧
        t.cfs.writes = s.cfs.writes ++ [.checkpoint (s.flash.ckptNo + 1) s.flash.seq]) ∧
      (s.mapsFit = false →
        let u := s.setFlash { s.flash with ckptDue := true };
        (s.fullestScatter = none → exec .checkpointTimer s = .next u) ∧
        (∀ l, s.fullestScatter = some l → exec .checkpointTimer s = .next (u.startMerge l false))))

/-- CFS_PROGRAM_DONE (R521), CFS_ERASE_DONE (R512, R517), CFS_READ (R513, R520), STITCH_CONTAINER_LOADED (R179, R187), STITCH_IMAGE_PLACED
(R187, R191), HOST_READ_COMPLETION (R445, R446). -/
def Obligations.StoreStitchAndHostReads : Prop :=
  ∀ s : State,
    (∀ b0 b1,
      let u := (s.badProgram 0 b0).badProgram 1 b1;
      (u.cfsDead = true → exec (.cfsProgramDone b0 b1) s = .next u) ∧
      (u.cfsDead = false → exec (.cfsProgramDone b0 b1) s = .next u.commitFront.afterOps)) ∧
    (s.cfsDead = false → exec (.cfsProgramDone none none) s = .next s.commitFront.afterOps) ∧
    (∀ (d : CfsId) p ok,
      let due := Tbl.look 0 s.cfs.erasesDue d.val
      let gap := Tbl.look 0 s.cfs.sinceGap d.val;
      (due = 0 ∨ s.bankHeld d.val p = true → exec (.cfsEraseDone d p ok) s = .next s) ∧
      (due ≠ 0 → s.bankHeld d.val p = false → 16 ≤ p → gap < 63 → ok = true → ∃ t,
        exec (.cfsEraseDone d p ok) s = .next t ∧ s.OnlyParts t [.regs, .cfs] ∧
        t.fget F.cfsCtrCount 1 = (s.fget F.cfsCtrCount 1 + 1) % 2 ^ F.cfsCtrCount.width ∧
        t.cfs = { s.cfs with
          erasesDue := Tbl.put 0 s.cfs.erasesDue d.val (due - 1)
          sinceGap := Tbl.put 0 s.cfs.sinceGap d.val (gap + 1) }) ∧
      (due ≠ 0 → s.bankHeld d.val p = false →
        let u := (s.setCfs { s.cfs with erasesDue := Tbl.put 0 s.cfs.erasesDue d.val (due - 1) }).bump F.cfsCtrCount 1 1
        let v := if ok then u else u.retireSector d.val p;
        (p < 16 → exec (.cfsEraseDone d p ok) s = .next v) ∧
        (16 ≤ p → 63 ≤ gap → exec (.cfsEraseDone d p ok) s =
          .next ((v.setCfs { v.cfs with sinceGap := Tbl.put 0 v.cfs.sinceGap d.val 1 }).gapTurn d.val)) ∧
        (16 ≤ p → gap < 63 → exec (.cfsEraseDone d p ok) s =
          .next (v.setCfs { v.cfs with sinceGap := Tbl.put 0 v.cfs.sinceGap d.val (gap + 1) })))) ∧
    (∀ (i : IslandId) n fetch ok0 ok1,
      (fetch = false → n < 65536 → ∃ t, exec (.cfsRead i n fetch ok0 ok1) s = .next t ∧ t.cfs.xoLogged = true ∧
        t.cfs.bankReads = s.cfs.bankReads ∧ t.cfs.readBack = some (2 ^ 64 - 1) ∧
        (s.cfs.xoLogged = true → t = (s.bump F.cfsCtrCount 6 1).setCfs { s.cfs with readBack := some (2 ^ 64 - 1) }) ∧
        t.fget F.cfsCtrCount 6 = (s.fget F.cfsCtrCount 6 + 1) % 2 ^ F.cfsCtrCount.width) ∧
      (fetch = true ∨ 65536 ≤ n →
        let r : CfsRead := ⟨i.val, n, fetch⟩;
        (s.fbit F.cfsDevStateFailed 0 = true → exec (.cfsRead i n fetch ok0 ok1) s = .next ((s.bump F.cfsCtrCount 4 1).queueBank 1 r)) ∧
        (s.fbit F.cfsDevStateFailed 0 = false →
          (ok0 = false → ok1 = true → s.fbit F.cfsDevStateFailed 1 = false → exec (.cfsRead i n fetch ok0 ok1) s =
            .next (((s.bump F.cfsCtrCount 4 1).bump F.cfsCtrCount 5 1).queueBank 1 r)) ∧
          (ok0 = true ∨ ok1 = false ∨ s.fbit F.cfsDevStateFailed 1 = true → exec (.cfsRead i n fetch ok0 ok1) s =
            .next (s.queueBank 0 r))))) ∧
    (∀ x rest, s.tt.queue = x :: rest → x.begun = true →
      (x.image = none → (s.stitchRead x = none → exec .stitchContainerLoaded s = .next s) ∧
        (∀ bs, s.stitchRead x = some bs →
          let y := { x with got := bs };
          exec .stitchContainerLoaded s = .next (((s.earlyChecks y).elim (s.lateChecks y) (s.stitchFails y)).stitchKick)) ∧
        exec .stitchImagePlaced s = .next s) ∧
      (∀ im, x.image = some im → exec .stitchContainerLoaded s = .next s ∧
        (∀ k, x.took = some k →
          let u := (((s.popStitch).setSlot k { img := some im }).fset F.ttbSlotStateState k 4).showImage k im;
          exec .stitchImagePlaced s =
            .next ((((if k = 0 then u.baseStitched 3 else u).expressAgain).answerStitch x 0 k).stitchKick)) ∧
        (x.took = none →
          let k := x.replace
          let old := (s.slot k).img
          let u := (((s.popStitch).setSlot k { img := some im, old := old }).fset F.ttbSlotStateState k 5).fset F.ttbSlotStateReplBusy k 0
          let v := u.fset F.ttbSlotOldMaskOldMask k (maskOf ((old.map (·.stations)).getD []));
          k ≠ 0 → s.fbit F.ttbSlotStateFenced k = false → exec .stitchImagePlaced s =
            .next ((((((v.showImage k im).handoverCheck k).expressAgain).answerStitch x 0 k)).stitchKick)))) ∧
    (s.tt.queue = [] → exec .stitchContainerLoaded s = .next s ∧ exec .stitchImagePlaced s = .next s) ∧
    (∀ p (o : Fin 5) data,
      let c := s.cmd p;
      (s.reads p = false → exec (.hostReadCompletion p o data) s = .next s) ∧
      (s.reads p = true →
        (o.val = 0 → data = [] ∨ 4096 < data.length ∨ c.want < c.got.length + data.length →
          exec (.hostReadCompletion p o data) s = .next s) ∧
        (o.val = 0 → data ≠ [] → data.length ≤ 4096 → c.got.length + data.length ≤ c.want →
          let u := s.setCmd p { c with got := c.got ++ data };
          (c.streams = true → exec (.hostReadCompletion p o data) s = .next (s.writeData p data)) ∧
          (c.streams = false → c.got.length + data.length < c.want → exec (.hostReadCompletion p o data) s = .next u) ∧
          (c.streams = false → c.got.length + data.length = c.want → exec (.hostReadCompletion p o data) s = .next (u.hostData p))) ∧
        (o.val ≠ 0 → exec (.hostReadCompletion p o data) s = .next (s.readFails p (if o.val = 1 then 0x6001 else 0x6002)))))
end

