-- ==== Sys2Proof/Laws/Tables.lean ====
section
/-! SUPPORT. Laws of the sparse tables and the byte memories: a read after a write, and the canonical form that every
operation keeps. -/

namespace Sys2Proof.Machine

variable {α : Type}

/-! ## Reads after writes -/

@[simp] theorem Tbl.look_nil (d : α) (k : Nat) : Tbl.look d [] k = d := rfl

theorem Tbl.look_drop_same (d : α) (t : Tbl α) (k : Nat) : Tbl.look d (Tbl.drop k t) k = d := by
  induction t with
  | nil => rfl
  | cons e t ih => by_cases h : e.1 = k <;> simp [Tbl.drop, Tbl.look, h, ih]

theorem Tbl.look_drop_other (d : α) (t : Tbl α) {k j : Nat} (h : j ≠ k) : Tbl.look d (Tbl.drop k t) j = Tbl.look d t j := by
  induction t with
  | nil => rfl
  | cons e t ih =>
    by_cases hk : e.1 = k
    · have : ¬ k = j := fun x => h x.symm
      simp [Tbl.drop, Tbl.look, hk, ih, this]
    · obtain ⟨k', v'⟩ := e
      simp only [Tbl.drop, if_neg hk, Tbl.look, ih]

theorem Tbl.look_ins_same (d : α) (t : Tbl α) (k : Nat) (v : α) :
    Tbl.look d (Tbl.ins k v (Tbl.drop k t)) k = v := by
  induction t with
  | nil => simp [Tbl.drop, Tbl.ins, Tbl.look]
  | cons e t ih =>
    by_cases hk : e.1 = k
    · simpa [Tbl.drop, hk] using ih
    · by_cases hl : k < e.1 <;> simp [Tbl.drop, Tbl.ins, Tbl.look, hk, hl, ih]

theorem Tbl.look_ins_other (d : α) (t : Tbl α) {k j : Nat} (v : α) (h : j ≠ k) :
    Tbl.look d (Tbl.ins k v t) j = Tbl.look d t j := by
  have hk : ¬ k = j := fun x => h x.symm
  induction t with
  | nil => simp [Tbl.ins, Tbl.look, hk]
  | cons e t ih =>
    by_cases hl : k < e.1
    · simp [Tbl.ins, Tbl.look, hl, hk]
    · obtain ⟨k', v'⟩ := e
      simp only [Tbl.ins, if_neg hl, Tbl.look, ih]

/-- A key reads as it was last written. -/
@[simp] theorem Tbl.look_put_same [DecidableEq α] (d : α) (t : Tbl α) (k : Nat) (v : α) :
    Tbl.look d (Tbl.put d t k v) k = v := by
  unfold Tbl.put
  split
  · next h => rw [Tbl.look_drop_same, h]
  · exact Tbl.look_ins_same d t k v

/-- A write of one key leaves every other key as it was. -/
theorem Tbl.look_put_elsewhere [DecidableEq α] (d e : α) (t : Tbl α) {k j : Nat} (v : α) (h : j ≠ k) :
    Tbl.look e (Tbl.put d t k v) j = Tbl.look e t j := by
  unfold Tbl.put
  split
  · exact Tbl.look_drop_other e t h
  · rw [Tbl.look_ins_other e _ v h, Tbl.look_drop_other e t h]

theorem Tbl.look_put_other [DecidableEq α] (d : α) (t : Tbl α) {k j : Nat} (v : α) (h : j ≠ k) :
    Tbl.look d (Tbl.put d t k v) j = Tbl.look d t j := Tbl.look_put_elsewhere d d t v h

/-- A write, read at any key. -/
theorem Tbl.look_put [DecidableEq α] (d : α) (t : Tbl α) (k j : Nat) (v : α) :
    Tbl.look d (Tbl.put d t k v) j = if j = k then v else Tbl.look d t j := by
  split
  · next h => rw [h, Tbl.look_put_same]
  · next h => exact Tbl.look_put_other d t v h

/-- What a table reads at a key is its default or the entry of a listed pair. -/
theorem Tbl.look_mem (d : α) (t : Tbl α) (k : Nat) : Tbl.look d t k = d ∨ ∃ e ∈ t, e.2 = Tbl.look d t k := by
  induction t with
  | nil => exact .inl rfl
  | cons x t ih =>
    by_cases h : x.1 = k
    · exact .inr ⟨x, List.mem_cons_self .., by simp [Tbl.look, h]⟩
    · rcases ih with ih | ⟨e, he, h2⟩
      · exact .inl (by simp [Tbl.look, h, ih])
      · exact .inr ⟨e, List.mem_cons_of_mem _ he, by simp [Tbl.look, h, h2]⟩

/-! ## The canonical form -/

theorem Tbl.wf_cons [DecidableEq α] (d : α) (k : Nat) (v : α) (t : Tbl α) :
    Tbl.wf d ((k, v) :: t) = true ↔ v ≠ d ∧ (∀ e ∈ t, k < e.1) ∧ Tbl.wf d t = true := by
  simp [Tbl.wf, and_assoc]

theorem Tbl.mem_drop {k : Nat} {t : Tbl α} {e : Nat × α} (h : e ∈ Tbl.drop k t) : e ∈ t ∧ e.1 ≠ k := by
  induction t with
  | nil => simp [Tbl.drop] at h
  | cons x t ih =>
    by_cases hx : x.1 = k
    · have := ih (by simpa [Tbl.drop, hx] using h)
      exact ⟨List.mem_cons_of_mem _ this.1, this.2⟩
    · rcases (by simpa [Tbl.drop, hx] using h : e = x ∨ e ∈ Tbl.drop k t) with rfl | h
      · exact ⟨List.mem_cons_self .., hx⟩
      · exact ⟨List.mem_cons_of_mem _ (ih h).1, (ih h).2⟩

theorem Tbl.wf_drop [DecidableEq α] {d : α} (k : Nat) {t : Tbl α} (h : Tbl.wf d t = true) : Tbl.wf d (Tbl.drop k t) = true := by
  induction t with
  | nil => rfl
  | cons x t ih =>
    obtain ⟨hv, hk, ht⟩ := (Tbl.wf_cons d x.1 x.2 t).1 h
    by_cases hx : x.1 = k
    · simpa [Tbl.drop, hx] using ih ht
    · have := (Tbl.wf_cons d x.1 x.2 (Tbl.drop k t)).2 ⟨hv, fun e he => hk e (Tbl.mem_drop he).1, ih ht⟩
      simpa [Tbl.drop, hx] using this

theorem Tbl.mem_ins {k : Nat} {v : α} {t : Tbl α} {e : Nat × α} (h : e ∈ Tbl.ins k v t) : e = (k, v) ∨ e ∈ t := by
  induction t with
  | nil => simpa [Tbl.ins] using h
  | cons x t ih =>
    by_cases hl : k < x.1
    · simpa [Tbl.ins, hl] using h
    · rcases (by simpa [Tbl.ins, hl] using h : e = x ∨ e ∈ Tbl.ins k v t) with rfl | h
      · exact .inr (List.mem_cons_self ..)
      · exact (ih h).imp id (List.mem_cons_of_mem _)

theorem Tbl.wf_ins [DecidableEq α] {d : α} {k : Nat} {v : α} {t : Tbl α} (hv : v ≠ d) (hk : ∀ e ∈ t, e.1 ≠ k)
    (h : Tbl.wf d t = true) : Tbl.wf d (Tbl.ins k v t) = true := by
  induction t with
  | nil => simp [Tbl.ins, Tbl.wf, hv]
  | cons x t ih =>
    obtain ⟨hx, hlt, ht⟩ := (Tbl.wf_cons d x.1 x.2 t).1 h
    by_cases hl : k < x.1
    · have := (Tbl.wf_cons d k v (x :: t)).2 ⟨hv, by
        intro e he
        rcases List.mem_cons.1 he with rfl | he
        · exact hl
        · exact Nat.lt_trans hl (hlt e he), h⟩
      simpa [Tbl.ins, hl] using this
    · have hne : x.1 ≠ k := hk x (List.mem_cons_self ..)
      have := (Tbl.wf_cons d x.1 x.2 (Tbl.ins k v t)).2 ⟨hx, by
        intro e he
        rcases Tbl.mem_ins he with rfl | he
        · show x.1 < k
          omega
        · exact hlt e he, ih (fun e he => hk e (List.mem_cons_of_mem _ he)) ht⟩
      simpa [Tbl.ins, hl] using this

/-- The pairs listed after a write were listed before, or are the one written. -/
theorem Tbl.mem_put [DecidableEq α] {d : α} {t : Tbl α} {k : Nat} {v : α} {e : Nat × α} (h : e ∈ Tbl.put d t k v) :
    e = (k, v) ∨ e ∈ t := by
  unfold Tbl.put at h
  split at h
  · exact .inr (Tbl.mem_drop h).1
  · exact (Tbl.mem_ins h).imp id (fun g => (Tbl.mem_drop g).1)

/-- A write keeps the canonical form. -/
theorem Tbl.wf_put [DecidableEq α] {d : α} {t : Tbl α} (k : Nat) (v : α) (h : Tbl.wf d t = true) :
    Tbl.wf d (Tbl.put d t k v) = true := by
  unfold Tbl.put
  split
  · exact Tbl.wf_drop k h
  · next hv => exact Tbl.wf_ins hv (fun e he => (Tbl.mem_drop he).2) (Tbl.wf_drop k h)

/-- Keeping some of the entries keeps the canonical form. -/
theorem Tbl.wf_filter [DecidableEq α] {d : α} {t : Tbl α} (p : Nat × α → Bool) (h : Tbl.wf d t = true) :
    Tbl.wf d (t.filter p) = true := by
  induction t with
  | nil => rfl
  | cons x t ih =>
    obtain ⟨hv, hk, ht⟩ := (Tbl.wf_cons d x.1 x.2 t).1 h
    by_cases hp : p x = true
    · have := (Tbl.wf_cons d x.1 x.2 (t.filter p)).2 ⟨hv, fun e he => hk e (List.mem_of_mem_filter he), ih ht⟩
      simpa [List.filter, hp] using this
    · simpa [List.filter, hp] using ih ht

/-- Equal reads at every key make canonical tables equal data. -/
theorem Tbl.ext_of_wf [DecidableEq α] {d : α} {t u : Tbl α} (ht : Tbl.wf d t = true) (hu : Tbl.wf d u = true)
    (h : ∀ k, Tbl.look d t k = Tbl.look d u k) : t = u := by
  have none_of : ∀ (t : Tbl α) (k : Nat), (∀ e ∈ t, k < e.1) → Tbl.look d t k = d := by
    intro t k hk
    induction t with
    | nil => rfl
    | cons x t ih =>
      have : ¬ x.1 = k := by have := hk x (List.mem_cons_self ..); omega
      simp [Tbl.look, this, ih (fun e he => hk e (List.mem_cons_of_mem _ he))]
  induction t generalizing u with
  | nil =>
    cases u with
    | nil => rfl
    | cons y u =>
      have hy := ((Tbl.wf_cons d y.1 y.2 u).1 hu).1
      have := h y.1
      simp [Tbl.look] at this
      exact absurd this.symm hy
  | cons x t ih =>
    obtain ⟨hx, hxt, hwt⟩ := (Tbl.wf_cons d x.1 x.2 t).1 ht
    cases u with
    | nil =>
      have := h x.1
      simp [Tbl.look] at this
      exact absurd this hx
    | cons y u =>
      obtain ⟨hy, hyu, hwu⟩ := (Tbl.wf_cons d y.1 y.2 u).1 hu
      have hk : x.1 = y.1 := by
        rcases Nat.lt_trichotomy x.1 y.1 with l | l | l
        · have := h x.1
          rw [none_of (y :: u) x.1 (by
            intro e he
            rcases List.mem_cons.1 he with rfl | he
            · exact l
            · exact Nat.lt_trans l (hyu e he))] at this
          simp [Tbl.look] at this
          exact absurd this hx
        · exact l
        · have := h y.1
          rw [none_of (x :: t) y.1 (by
            intro e he
            rcases List.mem_cons.1 he with rfl | he
            · exact l
            · exact Nat.lt_trans l (hxt e he))] at this
          simp [Tbl.look] at this
          exact absurd this.symm hy
      have hv : x.2 = y.2 := by
        have := h x.1
        simpa [Tbl.look, hk] using this
      have htail : t = u := by
        apply ih hwt hwu
        intro k
        by_cases hkk : x.1 = k
        · rw [none_of t k (by rw [← hkk]; exact hxt), none_of u k (by rw [← hkk, hk]; exact hyu)]
        · have := h k
          simpa [Tbl.look, hkk, ← hk] using this
      rw [htail]
      exact congrArg (· :: u) (Prod.ext hk hv)

/-! ## Byte memories -/

/-- A byte reads as it was last written. -/
@[simp] theorem Memory.get_set_same (m : Memory) (a : Nat) (b : Byte) : Memory.get (Memory.set m a b) a = b :=
  Tbl.look_put_same 0 m a b

/-- A write of one byte leaves every other byte as it was. -/
theorem Memory.get_set_other (m : Memory) {a x : Nat} (b : Byte) (h : x ≠ a) : Memory.get (Memory.set m a b) x = Memory.get m x :=
  Tbl.look_put_other 0 m b h

/-- A write of one byte keeps the canonical form. -/
theorem Memory.wf_set {m : Memory} (a : Nat) (b : Byte) (h : Memory.wf m = true) : Memory.wf (Memory.set m a b) = true :=
  Tbl.wf_put a b h

/-- A write keeps the canonical form. -/
theorem Memory.wf_write {m : Memory} (a : Nat) (bs : List Byte) (h : Memory.wf m = true) : Memory.wf (Memory.write m a bs) = true := by
  induction bs generalizing m a with
  | nil => exact h
  | cons b bs ih => exact ih (a + 1) (Memory.wf_set a b h)

/-- Bytes below or above a write read as before. -/
theorem Memory.get_write_outside (m : Memory) (a x : Nat) (bs : List Byte) (h : x < a ∨ a + bs.length ≤ x) :
    Memory.get (Memory.write m a bs) x = Memory.get m x := by
  induction bs generalizing m a with
  | nil => rfl
  | cons b bs ih =>
    have hx : x ≠ a := by simp at h; omega
    rw [Memory.write, ih (Memory.set m a b) (a + 1) (by simp at h; omega), Memory.get_set_other m b hx]

/-- A byte of a write reads as it was written. -/
theorem Memory.get_write_inside (m : Memory) (a i : Nat) (bs : List Byte) (h : i < bs.length) :
    Memory.get (Memory.write m a bs) (a + i) = bs[i] := by
  induction bs generalizing m a i with
  | nil => simp at h
  | cons b bs ih =>
    cases i with
    | zero =>
      rw [Memory.write, Nat.add_zero, Memory.get_write_outside _ _ _ _ (by omega)]
      simp
    | succ i =>
      have := ih (Memory.set m a b) (a + 1) i (by simpa using h)
      rw [Memory.write, show a + (i + 1) = a + 1 + i by omega, this]
      simp

/-- What was written reads back. -/
theorem Memory.read_write (m : Memory) (a : Nat) (bs : List Byte) : Memory.read (Memory.write m a bs) a bs.length = bs := by
  unfold Memory.read
  apply List.ext_getElem
  · simp
  · intro i h1 h2
    simp [Memory.get_write_inside m a i bs h2]

end Sys2Proof.Machine
end

