-- ==== Sys2Proof/Laws/Registers.lean ====
section
/-! SUPPORT. Laws of the register file: a register word and a field after a write of the same or of another one (R8, R11). -/

namespace Sys2Proof.Machine

/-! ## Codes -/

/-- The registers in the order of their codes. -/
def regList : List Reg := [
  .stnLrCtr, .stnLrSnap, .stnCtrCtl, .stnLrSpare, .jobBatchCfg, .jobBatchCtr, .jobRerunCfg, .jobClipCtr,
  .ttbSlotState, .ttbSlotMask, .ttbSlotTtid, .ttbSlotOldMask, .ttbStnPlace, .ttbStnFree, .ttbLastFail,
  .ttbSigners, .ttbBaseStatus, .glbIslandCtr, .glbIslandInfo, .depTierCtr, .depTierLevel, .depHostwin,
  .depCacheCtr, .memStackState, .stnStreamStat, .stnStreamStat1, .stnCopyCtr, .jobState, .jobCfg, .jobWcet,
  .jobXbound, .jobSlow, .jobAcct, .jobBindBuf, .jobBindBuf1, .jobBindScalar, .jobCtl, .jobCtlStatus, .jobSched,
  .jobSlowAlerts, .stnState, .depSrchCtr, .stnWalk, .depScanCtr, .brlLineState, .brlPeerSerial, .brlLineCtl,
  .brlLineCtr, .brlFabric, .brlSerial, .brlMeshCfg, .brlBind, .brlBind1, .brlMeshCtr, .queAdminCqAddr,
  .queAdminCfg, .queAdminCtl, .queArb, .queQState, .queQState1, .queCqState, .queCqState1, .queCtr, .queClass0,
  .flsHealth, .flsCfg, .flsCtr, .flsRetryCtr, .flsLatHist, .flsGroup, .flsGroup1, .flsDie, .flsChan,
  .flsRawAddr, .flsRawCtl, .flsRawData, .cfsDevState, .cfsDevState1, .cfsCtr, .glbEccCtr, .glbEccCtr1,
  .memEccCfg, .memScrubStat, .memCeLog, .memCeLog1, .stnEccCfg, .stnCeLog, .stnCeLog1, .pwrBoot, .pwrHoldup,
  .pwrString, .pwrCtr, .glbMaint, .glbMaint1, .glbFw, .glbId, .glbPrivLock, .glbLockStat, .glbUnlockChal,
  .glbUnlockSig, .glbUnlockCtl, .glbEventCfg, .glbEventStatus, .secIdentity, .secSignerKey, .secKeyStage,
  .secKeyCtl, .secSvn, .secMeas, .pwrTemp, .pwrCoolant, .pwrInput, .tmxStnSel, .tmxPin, .tmxObs, .tmxSample,
  .brlCable]

theorem regList_code (r : Reg) : regList[r.code]? = some r := by cases r <;> rfl

theorem Reg.code_injective {r q : Reg} (h : r.code = q.code) : r = q := by
  have := regList_code r
  rw [h, regList_code q] at this
  exact (Option.some.inj this).symm

theorem Reg.code_eq_iff (r q : Reg) : r.code = q.code ↔ r = q := ⟨Reg.code_injective, fun h => h ▸ rfl⟩

/-! ## Words -/

/-- A register word after a write of a word. -/
theorem State.rget_rset (s : State) (r q : Reg) (i j : Nat) (w : Word64) :
    (s.rset r i w).rget q j = if q = r ∧ j = i then w else s.rget q j := by
  unfold State.rset State.rget
  simp only
  rw [Tbl.look_put]
  by_cases hq : q = r
  · subst hq
    rw [if_pos rfl]
    by_cases hj : j = i
    · subst hj
      simp
    · rw [if_neg (fun h => hj h.2), Tbl.look_put_elsewhere _ _ _ _ hj]
  · have : ¬ q.code = r.code := fun h => hq (Reg.code_injective h)
    simp [this, hq]

@[simp] theorem State.rget_rset_same (s : State) (r : Reg) (i : Nat) (w : Word64) : (s.rset r i w).rget r i = w := by
  simp [State.rget_rset]

theorem State.rget_rset_reg (s : State) {r q : Reg} (i j : Nat) (w : Word64) (h : q ≠ r) :
    (s.rset r i w).rget q j = s.rget q j := by
  simp [State.rget_rset, h]

theorem State.rget_rset_index (s : State) (r q : Reg) {i j : Nat} (w : Word64) (h : j ≠ i) :
    (s.rset r i w).rget q j = s.rget q j := by
  simp [State.rget_rset, h]

/-! ## Bit fields (R8) -/

theorem bitsOf_lt (n l w : Nat) : bitsOf n l w < 2 ^ w := Nat.mod_lt _ (Nat.two_pow_pos w)

theorem withBits_eq (n l w v : Nat) : withBits n l w v = (n / 2 ^ (l + w) * 2 ^ w + v % 2 ^ w) * 2 ^ l + n % 2 ^ l := by
  unfold withBits
  rw [Nat.pow_add, Nat.add_mul, Nat.mul_assoc, Nat.mul_comm (2 ^ l) (2 ^ w)]

theorem withBits_div (n l w v : Nat) : withBits n l w v / 2 ^ l = n / 2 ^ (l + w) * 2 ^ w + v % 2 ^ w := by
  rw [withBits_eq, Nat.mul_comm, Nat.mul_add_div (Nat.two_pow_pos l), Nat.div_eq_of_lt (Nat.mod_lt _ (Nat.two_pow_pos l)),
    Nat.add_zero]

/-- A field reads as it was written, modulo its width. -/
theorem bitsOf_withBits_same (n l w v : Nat) : bitsOf (withBits n l w v) l w = v % 2 ^ w := by
  unfold bitsOf
  rw [withBits_div, Nat.mul_comm, Nat.mul_add_mod, Nat.mod_mod]

/-- Bit by bit: a bit of a word after a write of a field. -/
theorem testBit_withBits (n l w v k : Nat) :
    (withBits n l w v).testBit k = if l ≤ k ∧ k < l + w then v.testBit (k - l) else n.testBit k := by
  have e : withBits n l w v = 2 ^ (l + w) * (n / 2 ^ (l + w)) + (2 ^ l * (v % 2 ^ w) + n % 2 ^ l) := by
    unfold withBits; ring
  have hlow : 2 ^ l * (v % 2 ^ w) + n % 2 ^ l < 2 ^ (l + w) := by
    have h1 : v % 2 ^ w + 1 ≤ 2 ^ w := Nat.mod_lt _ (Nat.two_pow_pos w)
    have h2 : n % 2 ^ l < 2 ^ l := Nat.mod_lt _ (Nat.two_pow_pos l)
    calc 2 ^ l * (v % 2 ^ w) + n % 2 ^ l < 2 ^ l * (v % 2 ^ w) + 2 ^ l := by omega
      _ = 2 ^ l * (v % 2 ^ w + 1) := by ring
      _ ≤ 2 ^ l * 2 ^ w := Nat.mul_le_mul_left _ h1
      _ = 2 ^ (l + w) := (Nat.pow_add ..).symm
  rw [e, Nat.testBit_two_pow_mul_add _ hlow]
  by_cases h1 : k < l + w
  · rw [if_pos h1, Nat.testBit_two_pow_mul_add _ (Nat.mod_lt _ (Nat.two_pow_pos l))]
    by_cases h2 : k < l
    · have : ¬ l ≤ k := by omega
      simp [h2, this, Nat.testBit_mod_two_pow]
    · have h3 : l ≤ k := by omega
      have h4 : k - l < w := by omega
      simp [h2, h3, h1, h4, Nat.testBit_mod_two_pow]
  · have : ¬ (l ≤ k ∧ k < l + w) := by omega
    rw [if_neg h1, if_neg this, Nat.testBit_div_two_pow]
    congr 1
    omega

theorem testBit_bitsOf (n l w k : Nat) : (bitsOf n l w).testBit k = (decide (k < w) && n.testBit (l + k)) := by
  unfold bitsOf
  rw [Nat.testBit_mod_two_pow, Nat.testBit_div_two_pow, Nat.add_comm]

/-- A field apart from a written one reads as before. -/
theorem bitsOf_withBits_apart (n l w v a b : Nat) (h : a + b ≤ l ∨ l + w ≤ a) : bitsOf (withBits n l w v) a b = bitsOf n a b := by
  apply Nat.eq_of_testBit_eq
  intro k
  rw [testBit_bitsOf, testBit_bitsOf, testBit_withBits]
  by_cases hk : k < b
  · have : ¬ (l ≤ a + k ∧ a + k < l + w) := by omega
    simp [hk, this]
  · simp [hk]

theorem withBits_lt (n l w v : Nat) (hn : n < 2 ^ 64) (h : l + w ≤ 64) : withBits n l w v < 2 ^ 64 := by
  apply Nat.lt_pow_two_of_testBit
  intro k hk
  have : ¬ (l ≤ k ∧ k < l + w) := by omega
  rw [testBit_withBits, if_neg this]
  exact Nat.testBit_lt_two_pow (Nat.lt_of_lt_of_le hn (Nat.pow_le_pow_right (by omega) hk))

/-! ## Fields -/

/-- A register word after a write of a field. -/
theorem State.rget_fset (s : State) (f : Fld) (i v : Nat) (q : Reg) (j : Nat) :
    (s.fset f i v).rget q j =
      if q = f.reg ∧ j = i then BitVec.ofNat 64 (withBits (s.rget f.reg i).toNat f.lsb f.width v) else s.rget q j := by
  unfold State.fset
  rw [State.rget_rset]

theorem State.rget_fset_reg (s : State) (f : Fld) (i v : Nat) {q : Reg} (j : Nat) (h : q ≠ f.reg) :
    (s.fset f i v).rget q j = s.rget q j := by
  simp [State.rget_fset, h]

theorem State.fset_word (s : State) (f : Fld) (i v : Nat) (h : f.lsb + f.width ≤ 64) :
    ((s.fset f i v).rget f.reg i).toNat = withBits (s.rget f.reg i).toNat f.lsb f.width v := by
  rw [State.rget_fset, if_pos ⟨rfl, rfl⟩, BitVec.toNat_ofNat, Nat.mod_eq_of_lt]
  exact withBits_lt _ _ _ _ (s.rget f.reg i).isLt h

/-- A field reads as it was written, modulo its width. -/
theorem State.fget_fset_same (s : State) (f : Fld) (i v : Nat) (h : f.lsb + f.width ≤ 64) :
    (s.fset f i v).fget f i = v % 2 ^ f.width := by
  unfold State.fget
  rw [State.fset_word s f i v h, bitsOf_withBits_same]

/-- A field of another register, or of another unit's, reads as before. -/
theorem State.fget_fset_reg (s : State) (f g : Fld) (i j v : Nat) (h : g.reg ≠ f.reg ∨ j ≠ i) :
    (s.fset f i v).fget g j = s.fget g j := by
  unfold State.fget
  rw [State.rget_fset, if_neg (by rintro ⟨a, b⟩; rcases h with h | h <;> exact h (by assumption))]

/-- Another field of the same word reads as before. -/
theorem State.fget_fset_apart (s : State) (f g : Fld) (i j v : Nat) (h : f.lsb + f.width ≤ 64)
    (ha : g.lsb + g.width ≤ f.lsb ∨ f.lsb + f.width ≤ g.lsb) : (s.fset f i v).fget g j = s.fget g j := by
  by_cases hr : g.reg = f.reg ∧ j = i
  · obtain ⟨hr, rfl⟩ := hr
    unfold State.fget
    rw [hr, State.fset_word s f j v h, bitsOf_withBits_apart _ _ _ _ _ _ ha]
  · exact State.fget_fset_reg s f g i j v (by
      by_cases h1 : g.reg = f.reg
      · exact .inr (fun h2 => hr ⟨h1, h2⟩)
      · exact .inl h1)

/-- A field is below 2 to its width. -/
theorem State.fget_lt (s : State) (f : Fld) (i : Nat) : s.fget f i < 2 ^ f.width := bitsOf_lt ..

end Sys2Proof.Machine
end

