-- ==== Sys2Proof/Laws/State.lean ====
section
/-! SUPPORT. What each update of the state does to each of its parts, so that no later proof unfolds a record update. -/

namespace Sys2Proof.Machine

@[simp] theorem State.setFreeCtr_pending (s : State) (n : Nat) : (s.setFreeCtr n).pending = s.pending := (rfl)
@[simp] theorem State.setFreeCtr_freeCtr (s : State) (n : Nat) : (s.setFreeCtr n).freeCtr = n := (rfl)
@[simp] theorem State.setFreeCtr_regs (s : State) (n : Nat) : (s.setFreeCtr n).regs = s.regs := (rfl)
@[simp] theorem State.setFreeCtr_host (s : State) (n : Nat) : (s.setFreeCtr n).host = s.host := (rfl)
@[simp] theorem State.setFreeCtr_depot (s : State) (n : Nat) : (s.setFreeCtr n).depot = s.depot := (rfl)
@[simp] theorem State.setFreeCtr_flash (s : State) (n : Nat) : (s.setFreeCtr n).flash = s.flash := (rfl)
@[simp] theorem State.setFreeCtr_cfs (s : State) (n : Nat) : (s.setFreeCtr n).cfs = s.cfs := (rfl)
@[simp] theorem State.setFreeCtr_ecc (s : State) (n : Nat) : (s.setFreeCtr n).ecc = s.ecc := (rfl)
@[simp] theorem State.setFreeCtr_power (s : State) (n : Nat) : (s.setFreeCtr n).power = s.power := (rfl)
@[simp] theorem State.setFreeCtr_tt (s : State) (n : Nat) : (s.setFreeCtr n).tt = s.tt := (rfl)
@[simp] theorem State.setFreeCtr_jobs (s : State) (n : Nat) : (s.setFreeCtr n).jobs = s.jobs := (rfl)
@[simp] theorem State.setFreeCtr_stations (s : State) (n : Nat) : (s.setFreeCtr n).stations = s.stations := (rfl)
@[simp] theorem State.setFreeCtr_search (s : State) (n : Nat) : (s.setFreeCtr n).search = s.search := (rfl)
@[simp] theorem State.setFreeCtr_scan (s : State) (n : Nat) : (s.setFreeCtr n).scan = s.scan := (rfl)
@[simp] theorem State.setFreeCtr_mesh (s : State) (n : Nat) : (s.setFreeCtr n).mesh = s.mesh := (rfl)
@[simp] theorem State.setFreeCtr_security (s : State) (n : Nat) : (s.setFreeCtr n).security = s.security := (rfl)
@[simp] theorem State.setFreeCtr_junctions (s : State) (n : Nat) : (s.setFreeCtr n).junctions = s.junctions := (rfl)
@[simp] theorem State.setFreeCtr_bridges (s : State) (n : Nat) : (s.setFreeCtr n).bridges = s.bridges := (rfl)
@[simp] theorem State.setFreeCtr_rget (s : State) (n : Nat) (g : Reg) (y : Nat) : (s.setFreeCtr n).rget g y = s.rget g y := (rfl)
@[simp] theorem State.setFreeCtr_fget (s : State) (n : Nat) (g : Fld) (y : Nat) : (s.setFreeCtr n).fget g y = s.fget g y := (rfl)

@[simp] theorem State.setHost_pending (s : State) (h : HostSide) : (s.setHost h).pending = s.pending := (rfl)
@[simp] theorem State.setHost_freeCtr (s : State) (h : HostSide) : (s.setHost h).freeCtr = s.freeCtr := (rfl)
@[simp] theorem State.setHost_regs (s : State) (h : HostSide) : (s.setHost h).regs = s.regs := (rfl)
@[simp] theorem State.setHost_host (s : State) (h : HostSide) : (s.setHost h).host = h := (rfl)
@[simp] theorem State.setHost_depot (s : State) (h : HostSide) : (s.setHost h).depot = s.depot := (rfl)
@[simp] theorem State.setHost_flash (s : State) (h : HostSide) : (s.setHost h).flash = s.flash := (rfl)
@[simp] theorem State.setHost_cfs (s : State) (h : HostSide) : (s.setHost h).cfs = s.cfs := (rfl)
@[simp] theorem State.setHost_ecc (s : State) (h : HostSide) : (s.setHost h).ecc = s.ecc := (rfl)
@[simp] theorem State.setHost_power (s : State) (h : HostSide) : (s.setHost h).power = s.power := (rfl)
@[simp] theorem State.setHost_tt (s : State) (h : HostSide) : (s.setHost h).tt = s.tt := (rfl)
@[simp] theorem State.setHost_jobs (s : State) (h : HostSide) : (s.setHost h).jobs = s.jobs := (rfl)
@[simp] theorem State.setHost_stations (s : State) (h : HostSide) : (s.setHost h).stations = s.stations := (rfl)
@[simp] theorem State.setHost_search (s : State) (h : HostSide) : (s.setHost h).search = s.search := (rfl)
@[simp] theorem State.setHost_scan (s : State) (h : HostSide) : (s.setHost h).scan = s.scan := (rfl)
@[simp] theorem State.setHost_mesh (s : State) (h : HostSide) : (s.setHost h).mesh = s.mesh := (rfl)
@[simp] theorem State.setHost_security (s : State) (h : HostSide) : (s.setHost h).security = s.security := (rfl)
@[simp] theorem State.setHost_junctions (s : State) (h : HostSide) : (s.setHost h).junctions = s.junctions := (rfl)
@[simp] theorem State.setHost_bridges (s : State) (h : HostSide) : (s.setHost h).bridges = s.bridges := (rfl)
@[simp] theorem State.setHost_rget (s : State) (h : HostSide) (g : Reg) (y : Nat) : (s.setHost h).rget g y = s.rget g y := (rfl)
@[simp] theorem State.setHost_fget (s : State) (h : HostSide) (g : Fld) (y : Nat) : (s.setHost h).fget g y = s.fget g y := (rfl)

@[simp] theorem State.setDepot_pending (s : State) (d : Depot) : (s.setDepot d).pending = s.pending := (rfl)
@[simp] theorem State.setDepot_freeCtr (s : State) (d : Depot) : (s.setDepot d).freeCtr = s.freeCtr := (rfl)
@[simp] theorem State.setDepot_regs (s : State) (d : Depot) : (s.setDepot d).regs = s.regs := (rfl)
@[simp] theorem State.setDepot_host (s : State) (d : Depot) : (s.setDepot d).host = s.host := (rfl)
@[simp] theorem State.setDepot_depot (s : State) (d : Depot) : (s.setDepot d).depot = d := (rfl)
@[simp] theorem State.setDepot_flash (s : State) (d : Depot) : (s.setDepot d).flash = s.flash := (rfl)
@[simp] theorem State.setDepot_cfs (s : State) (d : Depot) : (s.setDepot d).cfs = s.cfs := (rfl)
@[simp] theorem State.setDepot_ecc (s : State) (d : Depot) : (s.setDepot d).ecc = s.ecc := (rfl)
@[simp] theorem State.setDepot_power (s : State) (d : Depot) : (s.setDepot d).power = s.power := (rfl)
@[simp] theorem State.setDepot_tt (s : State) (d : Depot) : (s.setDepot d).tt = s.tt := (rfl)
@[simp] theorem State.setDepot_jobs (s : State) (d : Depot) : (s.setDepot d).jobs = s.jobs := (rfl)
@[simp] theorem State.setDepot_stations (s : State) (d : Depot) : (s.setDepot d).stations = s.stations := (rfl)
@[simp] theorem State.setDepot_search (s : State) (d : Depot) : (s.setDepot d).search = s.search := (rfl)
@[simp] theorem State.setDepot_scan (s : State) (d : Depot) : (s.setDepot d).scan = s.scan := (rfl)
@[simp] theorem State.setDepot_mesh (s : State) (d : Depot) : (s.setDepot d).mesh = s.mesh := (rfl)
@[simp] theorem State.setDepot_security (s : State) (d : Depot) : (s.setDepot d).security = s.security := (rfl)
@[simp] theorem State.setDepot_junctions (s : State) (d : Depot) : (s.setDepot d).junctions = s.junctions := (rfl)
@[simp] theorem State.setDepot_bridges (s : State) (d : Depot) : (s.setDepot d).bridges = s.bridges := (rfl)
@[simp] theorem State.setDepot_rget (s : State) (d : Depot) (g : Reg) (y : Nat) : (s.setDepot d).rget g y = s.rget g y := (rfl)
@[simp] theorem State.setDepot_fget (s : State) (d : Depot) (g : Fld) (y : Nat) : (s.setDepot d).fget g y = s.fget g y := (rfl)

@[simp] theorem State.setFlash_pending (s : State) (f : Flash) : (s.setFlash f).pending = s.pending := (rfl)
@[simp] theorem State.setFlash_freeCtr (s : State) (f : Flash) : (s.setFlash f).freeCtr = s.freeCtr := (rfl)
@[simp] theorem State.setFlash_regs (s : State) (f : Flash) : (s.setFlash f).regs = s.regs := (rfl)
@[simp] theorem State.setFlash_host (s : State) (f : Flash) : (s.setFlash f).host = s.host := (rfl)
@[simp] theorem State.setFlash_depot (s : State) (f : Flash) : (s.setFlash f).depot = s.depot := (rfl)
@[simp] theorem State.setFlash_flash (s : State) (f : Flash) : (s.setFlash f).flash = f := (rfl)
@[simp] theorem State.setFlash_cfs (s : State) (f : Flash) : (s.setFlash f).cfs = s.cfs := (rfl)
@[simp] theorem State.setFlash_ecc (s : State) (f : Flash) : (s.setFlash f).ecc = s.ecc := (rfl)
@[simp] theorem State.setFlash_power (s : State) (f : Flash) : (s.setFlash f).power = s.power := (rfl)
@[simp] theorem State.setFlash_tt (s : State) (f : Flash) : (s.setFlash f).tt = s.tt := (rfl)
@[simp] theorem State.setFlash_jobs (s : State) (f : Flash) : (s.setFlash f).jobs = s.jobs := (rfl)
@[simp] theorem State.setFlash_stations (s : State) (f : Flash) : (s.setFlash f).stations = s.stations := (rfl)
@[simp] theorem State.setFlash_search (s : State) (f : Flash) : (s.setFlash f).search = s.search := (rfl)
@[simp] theorem State.setFlash_scan (s : State) (f : Flash) : (s.setFlash f).scan = s.scan := (rfl)
@[simp] theorem State.setFlash_mesh (s : State) (f : Flash) : (s.setFlash f).mesh = s.mesh := (rfl)
@[simp] theorem State.setFlash_security (s : State) (f : Flash) : (s.setFlash f).security = s.security := (rfl)
@[simp] theorem State.setFlash_junctions (s : State) (f : Flash) : (s.setFlash f).junctions = s.junctions := (rfl)
@[simp] theorem State.setFlash_bridges (s : State) (f : Flash) : (s.setFlash f).bridges = s.bridges := (rfl)
@[simp] theorem State.setFlash_rget (s : State) (f : Flash) (g : Reg) (y : Nat) : (s.setFlash f).rget g y = s.rget g y := (rfl)
@[simp] theorem State.setFlash_fget (s : State) (f : Flash) (g : Fld) (y : Nat) : (s.setFlash f).fget g y = s.fget g y := (rfl)

@[simp] theorem State.setCfs_pending (s : State) (c : Cfs) : (s.setCfs c).pending = s.pending := (rfl)
@[simp] theorem State.setCfs_freeCtr (s : State) (c : Cfs) : (s.setCfs c).freeCtr = s.freeCtr := (rfl)
@[simp] theorem State.setCfs_regs (s : State) (c : Cfs) : (s.setCfs c).regs = s.regs := (rfl)
@[simp] theorem State.setCfs_host (s : State) (c : Cfs) : (s.setCfs c).host = s.host := (rfl)
@[simp] theorem State.setCfs_depot (s : State) (c : Cfs) : (s.setCfs c).depot = s.depot := (rfl)
@[simp] theorem State.setCfs_flash (s : State) (c : Cfs) : (s.setCfs c).flash = s.flash := (rfl)
@[simp] theorem State.setCfs_cfs (s : State) (c : Cfs) : (s.setCfs c).cfs = c := (rfl)
@[simp] theorem State.setCfs_ecc (s : State) (c : Cfs) : (s.setCfs c).ecc = s.ecc := (rfl)
@[simp] theorem State.setCfs_power (s : State) (c : Cfs) : (s.setCfs c).power = s.power := (rfl)
@[simp] theorem State.setCfs_tt (s : State) (c : Cfs) : (s.setCfs c).tt = s.tt := (rfl)
@[simp] theorem State.setCfs_jobs (s : State) (c : Cfs) : (s.setCfs c).jobs = s.jobs := (rfl)
@[simp] theorem State.setCfs_stations (s : State) (c : Cfs) : (s.setCfs c).stations = s.stations := (rfl)
@[simp] theorem State.setCfs_search (s : State) (c : Cfs) : (s.setCfs c).search = s.search := (rfl)
@[simp] theorem State.setCfs_scan (s : State) (c : Cfs) : (s.setCfs c).scan = s.scan := (rfl)
@[simp] theorem State.setCfs_mesh (s : State) (c : Cfs) : (s.setCfs c).mesh = s.mesh := (rfl)
@[simp] theorem State.setCfs_security (s : State) (c : Cfs) : (s.setCfs c).security = s.security := (rfl)
@[simp] theorem State.setCfs_junctions (s : State) (c : Cfs) : (s.setCfs c).junctions = s.junctions := (rfl)
@[simp] theorem State.setCfs_bridges (s : State) (c : Cfs) : (s.setCfs c).bridges = s.bridges := (rfl)
@[simp] theorem State.setCfs_rget (s : State) (c : Cfs) (g : Reg) (y : Nat) : (s.setCfs c).rget g y = s.rget g y := (rfl)
@[simp] theorem State.setCfs_fget (s : State) (c : Cfs) (g : Fld) (y : Nat) : (s.setCfs c).fget g y = s.fget g y := (rfl)

@[simp] theorem State.setEcc_pending (s : State) (e : Ecc) : (s.setEcc e).pending = s.pending := (rfl)
@[simp] theorem State.setEcc_freeCtr (s : State) (e : Ecc) : (s.setEcc e).freeCtr = s.freeCtr := (rfl)
@[simp] theorem State.setEcc_regs (s : State) (e : Ecc) : (s.setEcc e).regs = s.regs := (rfl)
@[simp] theorem State.setEcc_host (s : State) (e : Ecc) : (s.setEcc e).host = s.host := (rfl)
@[simp] theorem State.setEcc_depot (s : State) (e : Ecc) : (s.setEcc e).depot = s.depot := (rfl)
@[simp] theorem State.setEcc_flash (s : State) (e : Ecc) : (s.setEcc e).flash = s.flash := (rfl)
@[simp] theorem State.setEcc_cfs (s : State) (e : Ecc) : (s.setEcc e).cfs = s.cfs := (rfl)
@[simp] theorem State.setEcc_ecc (s : State) (e : Ecc) : (s.setEcc e).ecc = e := (rfl)
@[simp] theorem State.setEcc_power (s : State) (e : Ecc) : (s.setEcc e).power = s.power := (rfl)
@[simp] theorem State.setEcc_tt (s : State) (e : Ecc) : (s.setEcc e).tt = s.tt := (rfl)
@[simp] theorem State.setEcc_jobs (s : State) (e : Ecc) : (s.setEcc e).jobs = s.jobs := (rfl)
@[simp] theorem State.setEcc_stations (s : State) (e : Ecc) : (s.setEcc e).stations = s.stations := (rfl)
@[simp] theorem State.setEcc_search (s : State) (e : Ecc) : (s.setEcc e).search = s.search := (rfl)
@[simp] theorem State.setEcc_scan (s : State) (e : Ecc) : (s.setEcc e).scan = s.scan := (rfl)
@[simp] theorem State.setEcc_mesh (s : State) (e : Ecc) : (s.setEcc e).mesh = s.mesh := (rfl)
@[simp] theorem State.setEcc_security (s : State) (e : Ecc) : (s.setEcc e).security = s.security := (rfl)
@[simp] theorem State.setEcc_junctions (s : State) (e : Ecc) : (s.setEcc e).junctions = s.junctions := (rfl)
@[simp] theorem State.setEcc_bridges (s : State) (e : Ecc) : (s.setEcc e).bridges = s.bridges := (rfl)
@[simp] theorem State.setEcc_rget (s : State) (e : Ecc) (g : Reg) (y : Nat) : (s.setEcc e).rget g y = s.rget g y := (rfl)
@[simp] theorem State.setEcc_fget (s : State) (e : Ecc) (g : Fld) (y : Nat) : (s.setEcc e).fget g y = s.fget g y := (rfl)

@[simp] theorem State.setPower_pending (s : State) (x : Power) : (s.setPower x).pending = s.pending := (rfl)
@[simp] theorem State.setPower_freeCtr (s : State) (x : Power) : (s.setPower x).freeCtr = s.freeCtr := (rfl)
@[simp] theorem State.setPower_regs (s : State) (x : Power) : (s.setPower x).regs = s.regs := (rfl)
@[simp] theorem State.setPower_host (s : State) (x : Power) : (s.setPower x).host = s.host := (rfl)
@[simp] theorem State.setPower_depot (s : State) (x : Power) : (s.setPower x).depot = s.depot := (rfl)
@[simp] theorem State.setPower_flash (s : State) (x : Power) : (s.setPower x).flash = s.flash := (rfl)
@[simp] theorem State.setPower_cfs (s : State) (x : Power) : (s.setPower x).cfs = s.cfs := (rfl)
@[simp] theorem State.setPower_ecc (s : State) (x : Power) : (s.setPower x).ecc = s.ecc := (rfl)
@[simp] theorem State.setPower_power (s : State) (x : Power) : (s.setPower x).power = x := (rfl)
@[simp] theorem State.setPower_tt (s : State) (x : Power) : (s.setPower x).tt = s.tt := (rfl)
@[simp] theorem State.setPower_jobs (s : State) (x : Power) : (s.setPower x).jobs = s.jobs := (rfl)
@[simp] theorem State.setPower_stations (s : State) (x : Power) : (s.setPower x).stations = s.stations := (rfl)
@[simp] theorem State.setPower_search (s : State) (x : Power) : (s.setPower x).search = s.search := (rfl)
@[simp] theorem State.setPower_scan (s : State) (x : Power) : (s.setPower x).scan = s.scan := (rfl)
@[simp] theorem State.setPower_mesh (s : State) (x : Power) : (s.setPower x).mesh = s.mesh := (rfl)
@[simp] theorem State.setPower_security (s : State) (x : Power) : (s.setPower x).security = s.security := (rfl)
@[simp] theorem State.setPower_junctions (s : State) (x : Power) : (s.setPower x).junctions = s.junctions := (rfl)
@[simp] theorem State.setPower_bridges (s : State) (x : Power) : (s.setPower x).bridges = s.bridges := (rfl)
@[simp] theorem State.setPower_rget (s : State) (x : Power) (g : Reg) (y : Nat) : (s.setPower x).rget g y = s.rget g y := (rfl)
@[simp] theorem State.setPower_fget (s : State) (x : Power) (g : Fld) (y : Nat) : (s.setPower x).fget g y = s.fget g y := (rfl)

@[simp] theorem State.setTt_pending (s : State) (x : Timetables) : (s.setTt x).pending = s.pending := (rfl)
@[simp] theorem State.setTt_freeCtr (s : State) (x : Timetables) : (s.setTt x).freeCtr = s.freeCtr := (rfl)
@[simp] theorem State.setTt_regs (s : State) (x : Timetables) : (s.setTt x).regs = s.regs := (rfl)
@[simp] theorem State.setTt_host (s : State) (x : Timetables) : (s.setTt x).host = s.host := (rfl)
@[simp] theorem State.setTt_depot (s : State) (x : Timetables) : (s.setTt x).depot = s.depot := (rfl)
@[simp] theorem State.setTt_flash (s : State) (x : Timetables) : (s.setTt x).flash = s.flash := (rfl)
@[simp] theorem State.setTt_cfs (s : State) (x : Timetables) : (s.setTt x).cfs = s.cfs := (rfl)
@[simp] theorem State.setTt_ecc (s : State) (x : Timetables) : (s.setTt x).ecc = s.ecc := (rfl)
@[simp] theorem State.setTt_power (s : State) (x : Timetables) : (s.setTt x).power = s.power := (rfl)
@[simp] theorem State.setTt_tt (s : State) (x : Timetables) : (s.setTt x).tt = x := (rfl)
@[simp] theorem State.setTt_jobs (s : State) (x : Timetables) : (s.setTt x).jobs = s.jobs := (rfl)
@[simp] theorem State.setTt_stations (s : State) (x : Timetables) : (s.setTt x).stations = s.stations := (rfl)
@[simp] theorem State.setTt_search (s : State) (x : Timetables) : (s.setTt x).search = s.search := (rfl)
@[simp] theorem State.setTt_scan (s : State) (x : Timetables) : (s.setTt x).scan = s.scan := (rfl)
@[simp] theorem State.setTt_mesh (s : State) (x : Timetables) : (s.setTt x).mesh = s.mesh := (rfl)
@[simp] theorem State.setTt_security (s : State) (x : Timetables) : (s.setTt x).security = s.security := (rfl)
@[simp] theorem State.setTt_junctions (s : State) (x : Timetables) : (s.setTt x).junctions = s.junctions := (rfl)
@[simp] theorem State.setTt_bridges (s : State) (x : Timetables) : (s.setTt x).bridges = s.bridges := (rfl)
@[simp] theorem State.setTt_rget (s : State) (x : Timetables) (g : Reg) (y : Nat) : (s.setTt x).rget g y = s.rget g y := (rfl)
@[simp] theorem State.setTt_fget (s : State) (x : Timetables) (g : Fld) (y : Nat) : (s.setTt x).fget g y = s.fget g y := (rfl)

@[simp] theorem State.setJobs_pending (s : State) (js : Tbl JobHold) : (s.setJobs js).pending = s.pending := (rfl)
@[simp] theorem State.setJobs_freeCtr (s : State) (js : Tbl JobHold) : (s.setJobs js).freeCtr = s.freeCtr := (rfl)
@[simp] theorem State.setJobs_regs (s : State) (js : Tbl JobHold) : (s.setJobs js).regs = s.regs := (rfl)
@[simp] theorem State.setJobs_host (s : State) (js : Tbl JobHold) : (s.setJobs js).host = s.host := (rfl)
@[simp] theorem State.setJobs_depot (s : State) (js : Tbl JobHold) : (s.setJobs js).depot = s.depot := (rfl)
@[simp] theorem State.setJobs_flash (s : State) (js : Tbl JobHold) : (s.setJobs js).flash = s.flash := (rfl)
@[simp] theorem State.setJobs_cfs (s : State) (js : Tbl JobHold) : (s.setJobs js).cfs = s.cfs := (rfl)
@[simp] theorem State.setJobs_ecc (s : State) (js : Tbl JobHold) : (s.setJobs js).ecc = s.ecc := (rfl)
@[simp] theorem State.setJobs_power (s : State) (js : Tbl JobHold) : (s.setJobs js).power = s.power := (rfl)
@[simp] theorem State.setJobs_tt (s : State) (js : Tbl JobHold) : (s.setJobs js).tt = s.tt := (rfl)
@[simp] theorem State.setJobs_jobs (s : State) (js : Tbl JobHold) : (s.setJobs js).jobs = js := (rfl)
@[simp] theorem State.setJobs_stations (s : State) (js : Tbl JobHold) : (s.setJobs js).stations = s.stations := (rfl)
@[simp] theorem State.setJobs_search (s : State) (js : Tbl JobHold) : (s.setJobs js).search = s.search := (rfl)
@[simp] theorem State.setJobs_scan (s : State) (js : Tbl JobHold) : (s.setJobs js).scan = s.scan := (rfl)
@[simp] theorem State.setJobs_mesh (s : State) (js : Tbl JobHold) : (s.setJobs js).mesh = s.mesh := (rfl)
@[simp] theorem State.setJobs_security (s : State) (js : Tbl JobHold) : (s.setJobs js).security = s.security := (rfl)
@[simp] theorem State.setJobs_junctions (s : State) (js : Tbl JobHold) : (s.setJobs js).junctions = s.junctions := (rfl)
@[simp] theorem State.setJobs_bridges (s : State) (js : Tbl JobHold) : (s.setJobs js).bridges = s.bridges := (rfl)
@[simp] theorem State.setJobs_rget (s : State) (js : Tbl JobHold) (g : Reg) (y : Nat) : (s.setJobs js).rget g y = s.rget g y := (rfl)
@[simp] theorem State.setJobs_fget (s : State) (js : Tbl JobHold) (g : Fld) (y : Nat) : (s.setJobs js).fget g y = s.fget g y := (rfl)

@[simp] theorem State.setSearch_pending (s : State) (x : Search) : (s.setSearch x).pending = s.pending := (rfl)
@[simp] theorem State.setSearch_freeCtr (s : State) (x : Search) : (s.setSearch x).freeCtr = s.freeCtr := (rfl)
@[simp] theorem State.setSearch_regs (s : State) (x : Search) : (s.setSearch x).regs = s.regs := (rfl)
@[simp] theorem State.setSearch_host (s : State) (x : Search) : (s.setSearch x).host = s.host := (rfl)
@[simp] theorem State.setSearch_depot (s : State) (x : Search) : (s.setSearch x).depot = s.depot := (rfl)
@[simp] theorem State.setSearch_flash (s : State) (x : Search) : (s.setSearch x).flash = s.flash := (rfl)
@[simp] theorem State.setSearch_cfs (s : State) (x : Search) : (s.setSearch x).cfs = s.cfs := (rfl)
@[simp] theorem State.setSearch_ecc (s : State) (x : Search) : (s.setSearch x).ecc = s.ecc := (rfl)
@[simp] theorem State.setSearch_power (s : State) (x : Search) : (s.setSearch x).power = s.power := (rfl)
@[simp] theorem State.setSearch_tt (s : State) (x : Search) : (s.setSearch x).tt = s.tt := (rfl)
@[simp] theorem State.setSearch_jobs (s : State) (x : Search) : (s.setSearch x).jobs = s.jobs := (rfl)
@[simp] theorem State.setSearch_stations (s : State) (x : Search) : (s.setSearch x).stations = s.stations := (rfl)
@[simp] theorem State.setSearch_search (s : State) (x : Search) : (s.setSearch x).search = x := (rfl)
@[simp] theorem State.setSearch_scan (s : State) (x : Search) : (s.setSearch x).scan = s.scan := (rfl)
@[simp] theorem State.setSearch_mesh (s : State) (x : Search) : (s.setSearch x).mesh = s.mesh := (rfl)
@[simp] theorem State.setSearch_security (s : State) (x : Search) : (s.setSearch x).security = s.security := (rfl)
@[simp] theorem State.setSearch_junctions (s : State) (x : Search) : (s.setSearch x).junctions = s.junctions := (rfl)
@[simp] theorem State.setSearch_bridges (s : State) (x : Search) : (s.setSearch x).bridges = s.bridges := (rfl)
@[simp] theorem State.setSearch_rget (s : State) (x : Search) (g : Reg) (y : Nat) : (s.setSearch x).rget g y = s.rget g y := (rfl)
@[simp] theorem State.setSearch_fget (s : State) (x : Search) (g : Fld) (y : Nat) : (s.setSearch x).fget g y = s.fget g y := (rfl)

@[simp] theorem State.setScans_pending (s : State) (x : Scans) : (s.setScans x).pending = s.pending := (rfl)
@[simp] theorem State.setScans_freeCtr (s : State) (x : Scans) : (s.setScans x).freeCtr = s.freeCtr := (rfl)
@[simp] theorem State.setScans_regs (s : State) (x : Scans) : (s.setScans x).regs = s.regs := (rfl)
@[simp] theorem State.setScans_host (s : State) (x : Scans) : (s.setScans x).host = s.host := (rfl)
@[simp] theorem State.setScans_depot (s : State) (x : Scans) : (s.setScans x).depot = s.depot := (rfl)
@[simp] theorem State.setScans_flash (s : State) (x : Scans) : (s.setScans x).flash = s.flash := (rfl)
@[simp] theorem State.setScans_cfs (s : State) (x : Scans) : (s.setScans x).cfs = s.cfs := (rfl)
@[simp] theorem State.setScans_ecc (s : State) (x : Scans) : (s.setScans x).ecc = s.ecc := (rfl)
@[simp] theorem State.setScans_power (s : State) (x : Scans) : (s.setScans x).power = s.power := (rfl)
@[simp] theorem State.setScans_tt (s : State) (x : Scans) : (s.setScans x).tt = s.tt := (rfl)
@[simp] theorem State.setScans_jobs (s : State) (x : Scans) : (s.setScans x).jobs = s.jobs := (rfl)
@[simp] theorem State.setScans_stations (s : State) (x : Scans) : (s.setScans x).stations = s.stations := (rfl)
@[simp] theorem State.setScans_search (s : State) (x : Scans) : (s.setScans x).search = s.search := (rfl)
@[simp] theorem State.setScans_scan (s : State) (x : Scans) : (s.setScans x).scan = x := (rfl)
@[simp] theorem State.setScans_mesh (s : State) (x : Scans) : (s.setScans x).mesh = s.mesh := (rfl)
@[simp] theorem State.setScans_security (s : State) (x : Scans) : (s.setScans x).security = s.security := (rfl)
@[simp] theorem State.setScans_junctions (s : State) (x : Scans) : (s.setScans x).junctions = s.junctions := (rfl)
@[simp] theorem State.setScans_bridges (s : State) (x : Scans) : (s.setScans x).bridges = s.bridges := (rfl)
@[simp] theorem State.setScans_rget (s : State) (x : Scans) (g : Reg) (y : Nat) : (s.setScans x).rget g y = s.rget g y := (rfl)
@[simp] theorem State.setScans_fget (s : State) (x : Scans) (g : Fld) (y : Nat) : (s.setScans x).fget g y = s.fget g y := (rfl)

@[simp] theorem State.setJunctions_pending (s : State) (x : Tbl Junction) : (s.setJunctions x).pending = s.pending := (rfl)
@[simp] theorem State.setJunctions_freeCtr (s : State) (x : Tbl Junction) : (s.setJunctions x).freeCtr = s.freeCtr := (rfl)
@[simp] theorem State.setJunctions_regs (s : State) (x : Tbl Junction) : (s.setJunctions x).regs = s.regs := (rfl)
@[simp] theorem State.setJunctions_host (s : State) (x : Tbl Junction) : (s.setJunctions x).host = s.host := (rfl)
@[simp] theorem State.setJunctions_depot (s : State) (x : Tbl Junction) : (s.setJunctions x).depot = s.depot := (rfl)
@[simp] theorem State.setJunctions_flash (s : State) (x : Tbl Junction) : (s.setJunctions x).flash = s.flash := (rfl)
@[simp] theorem State.setJunctions_cfs (s : State) (x : Tbl Junction) : (s.setJunctions x).cfs = s.cfs := (rfl)
@[simp] theorem State.setJunctions_ecc (s : State) (x : Tbl Junction) : (s.setJunctions x).ecc = s.ecc := (rfl)
@[simp] theorem State.setJunctions_power (s : State) (x : Tbl Junction) : (s.setJunctions x).power = s.power := (rfl)
@[simp] theorem State.setJunctions_tt (s : State) (x : Tbl Junction) : (s.setJunctions x).tt = s.tt := (rfl)
@[simp] theorem State.setJunctions_jobs (s : State) (x : Tbl Junction) : (s.setJunctions x).jobs = s.jobs := (rfl)
@[simp] theorem State.setJunctions_stations (s : State) (x : Tbl Junction) : (s.setJunctions x).stations = s.stations := (rfl)
@[simp] theorem State.setJunctions_search (s : State) (x : Tbl Junction) : (s.setJunctions x).search = s.search := (rfl)
@[simp] theorem State.setJunctions_scan (s : State) (x : Tbl Junction) : (s.setJunctions x).scan = s.scan := (rfl)
@[simp] theorem State.setJunctions_mesh (s : State) (x : Tbl Junction) : (s.setJunctions x).mesh = s.mesh := (rfl)
@[simp] theorem State.setJunctions_security (s : State) (x : Tbl Junction) : (s.setJunctions x).security = s.security := (rfl)
@[simp] theorem State.setJunctions_junctions (s : State) (x : Tbl Junction) : (s.setJunctions x).junctions = x := (rfl)
@[simp] theorem State.setJunctions_bridges (s : State) (x : Tbl Junction) : (s.setJunctions x).bridges = s.bridges := (rfl)
@[simp] theorem State.setJunctions_rget (s : State) (x : Tbl Junction) (g : Reg) (y : Nat) : (s.setJunctions x).rget g y = s.rget g y := (rfl)
@[simp] theorem State.setJunctions_fget (s : State) (x : Tbl Junction) (g : Fld) (y : Nat) : (s.setJunctions x).fget g y = s.fget g y := (rfl)

@[simp] theorem State.setBridges_pending (s : State) (x : Tbl Bridge) : (s.setBridges x).pending = s.pending := (rfl)
@[simp] theorem State.setBridges_freeCtr (s : State) (x : Tbl Bridge) : (s.setBridges x).freeCtr = s.freeCtr := (rfl)
@[simp] theorem State.setBridges_regs (s : State) (x : Tbl Bridge) : (s.setBridges x).regs = s.regs := (rfl)
@[simp] theorem State.setBridges_host (s : State) (x : Tbl Bridge) : (s.setBridges x).host = s.host := (rfl)
@[simp] theorem State.setBridges_depot (s : State) (x : Tbl Bridge) : (s.setBridges x).depot = s.depot := (rfl)
@[simp] theorem State.setBridges_flash (s : State) (x : Tbl Bridge) : (s.setBridges x).flash = s.flash := (rfl)
@[simp] theorem State.setBridges_cfs (s : State) (x : Tbl Bridge) : (s.setBridges x).cfs = s.cfs := (rfl)
@[simp] theorem State.setBridges_ecc (s : State) (x : Tbl Bridge) : (s.setBridges x).ecc = s.ecc := (rfl)
@[simp] theorem State.setBridges_power (s : State) (x : Tbl Bridge) : (s.setBridges x).power = s.power := (rfl)
@[simp] theorem State.setBridges_tt (s : State) (x : Tbl Bridge) : (s.setBridges x).tt = s.tt := (rfl)
@[simp] theorem State.setBridges_jobs (s : State) (x : Tbl Bridge) : (s.setBridges x).jobs = s.jobs := (rfl)
@[simp] theorem State.setBridges_stations (s : State) (x : Tbl Bridge) : (s.setBridges x).stations = s.stations := (rfl)
@[simp] theorem State.setBridges_search (s : State) (x : Tbl Bridge) : (s.setBridges x).search = s.search := (rfl)
@[simp] theorem State.setBridges_scan (s : State) (x : Tbl Bridge) : (s.setBridges x).scan = s.scan := (rfl)
@[simp] theorem State.setBridges_mesh (s : State) (x : Tbl Bridge) : (s.setBridges x).mesh = s.mesh := (rfl)
@[simp] theorem State.setBridges_security (s : State) (x : Tbl Bridge) : (s.setBridges x).security = s.security := (rfl)
@[simp] theorem State.setBridges_junctions (s : State) (x : Tbl Bridge) : (s.setBridges x).junctions = s.junctions := (rfl)
@[simp] theorem State.setBridges_bridges (s : State) (x : Tbl Bridge) : (s.setBridges x).bridges = x := (rfl)
@[simp] theorem State.setBridges_rget (s : State) (x : Tbl Bridge) (g : Reg) (y : Nat) : (s.setBridges x).rget g y = s.rget g y := (rfl)
@[simp] theorem State.setBridges_fget (s : State) (x : Tbl Bridge) (g : Fld) (y : Nat) : (s.setBridges x).fget g y = s.fget g y := (rfl)

@[simp] theorem State.setMesh_pending (s : State) (m : Mesh) : (s.setMesh m).pending = s.pending := (rfl)
@[simp] theorem State.setMesh_freeCtr (s : State) (m : Mesh) : (s.setMesh m).freeCtr = s.freeCtr := (rfl)
@[simp] theorem State.setMesh_regs (s : State) (m : Mesh) : (s.setMesh m).regs = s.regs := (rfl)
@[simp] theorem State.setMesh_host (s : State) (m : Mesh) : (s.setMesh m).host = s.host := (rfl)
@[simp] theorem State.setMesh_depot (s : State) (m : Mesh) : (s.setMesh m).depot = s.depot := (rfl)
@[simp] theorem State.setMesh_flash (s : State) (m : Mesh) : (s.setMesh m).flash = s.flash := (rfl)
@[simp] theorem State.setMesh_cfs (s : State) (m : Mesh) : (s.setMesh m).cfs = s.cfs := (rfl)
@[simp] theorem State.setMesh_ecc (s : State) (m : Mesh) : (s.setMesh m).ecc = s.ecc := (rfl)
@[simp] theorem State.setMesh_power (s : State) (m : Mesh) : (s.setMesh m).power = s.power := (rfl)
@[simp] theorem State.setMesh_tt (s : State) (m : Mesh) : (s.setMesh m).tt = s.tt := (rfl)
@[simp] theorem State.setMesh_jobs (s : State) (m : Mesh) : (s.setMesh m).jobs = s.jobs := (rfl)
@[simp] theorem State.setMesh_stations (s : State) (m : Mesh) : (s.setMesh m).stations = s.stations := (rfl)
@[simp] theorem State.setMesh_search (s : State) (m : Mesh) : (s.setMesh m).search = s.search := (rfl)
@[simp] theorem State.setMesh_scan (s : State) (m : Mesh) : (s.setMesh m).scan = s.scan := (rfl)
@[simp] theorem State.setMesh_mesh (s : State) (m : Mesh) : (s.setMesh m).mesh = m := (rfl)
@[simp] theorem State.setMesh_security (s : State) (m : Mesh) : (s.setMesh m).security = s.security := (rfl)
@[simp] theorem State.setMesh_junctions (s : State) (m : Mesh) : (s.setMesh m).junctions = s.junctions := (rfl)
@[simp] theorem State.setMesh_bridges (s : State) (m : Mesh) : (s.setMesh m).bridges = s.bridges := (rfl)
@[simp] theorem State.setMesh_rget (s : State) (m : Mesh) (g : Reg) (y : Nat) : (s.setMesh m).rget g y = s.rget g y := (rfl)
@[simp] theorem State.setMesh_fget (s : State) (m : Mesh) (g : Fld) (y : Nat) : (s.setMesh m).fget g y = s.fget g y := (rfl)

@[simp] theorem State.setSecurity_pending (s : State) (x : Security) : (s.setSecurity x).pending = s.pending := (rfl)
@[simp] theorem State.setSecurity_freeCtr (s : State) (x : Security) : (s.setSecurity x).freeCtr = s.freeCtr := (rfl)
@[simp] theorem State.setSecurity_regs (s : State) (x : Security) : (s.setSecurity x).regs = s.regs := (rfl)
@[simp] theorem State.setSecurity_host (s : State) (x : Security) : (s.setSecurity x).host = s.host := (rfl)
@[simp] theorem State.setSecurity_depot (s : State) (x : Security) : (s.setSecurity x).depot = s.depot := (rfl)
@[simp] theorem State.setSecurity_flash (s : State) (x : Security) : (s.setSecurity x).flash = s.flash := (rfl)
@[simp] theorem State.setSecurity_cfs (s : State) (x : Security) : (s.setSecurity x).cfs = s.cfs := (rfl)
@[simp] theorem State.setSecurity_ecc (s : State) (x : Security) : (s.setSecurity x).ecc = s.ecc := (rfl)
@[simp] theorem State.setSecurity_power (s : State) (x : Security) : (s.setSecurity x).power = s.power := (rfl)
@[simp] theorem State.setSecurity_tt (s : State) (x : Security) : (s.setSecurity x).tt = s.tt := (rfl)
@[simp] theorem State.setSecurity_jobs (s : State) (x : Security) : (s.setSecurity x).jobs = s.jobs := (rfl)
@[simp] theorem State.setSecurity_stations (s : State) (x : Security) : (s.setSecurity x).stations = s.stations := (rfl)
@[simp] theorem State.setSecurity_search (s : State) (x : Security) : (s.setSecurity x).search = s.search := (rfl)
@[simp] theorem State.setSecurity_scan (s : State) (x : Security) : (s.setSecurity x).scan = s.scan := (rfl)
@[simp] theorem State.setSecurity_mesh (s : State) (x : Security) : (s.setSecurity x).mesh = s.mesh := (rfl)
@[simp] theorem State.setSecurity_security (s : State) (x : Security) : (s.setSecurity x).security = x := (rfl)
@[simp] theorem State.setSecurity_junctions (s : State) (x : Security) : (s.setSecurity x).junctions = s.junctions := (rfl)
@[simp] theorem State.setSecurity_bridges (s : State) (x : Security) : (s.setSecurity x).bridges = s.bridges := (rfl)
@[simp] theorem State.setSecurity_rget (s : State) (x : Security) (g : Reg) (y : Nat) : (s.setSecurity x).rget g y = s.rget g y := (rfl)
@[simp] theorem State.setSecurity_fget (s : State) (x : Security) (g : Fld) (y : Nat) : (s.setSecurity x).fget g y = s.fget g y := (rfl)

@[simp] theorem State.setJob_pending (s : State) (j : Nat) (x : JobHold) : (s.setJob j x).pending = s.pending := (rfl)
@[simp] theorem State.setJob_freeCtr (s : State) (j : Nat) (x : JobHold) : (s.setJob j x).freeCtr = s.freeCtr := (rfl)
@[simp] theorem State.setJob_regs (s : State) (j : Nat) (x : JobHold) : (s.setJob j x).regs = s.regs := (rfl)
@[simp] theorem State.setJob_host (s : State) (j : Nat) (x : JobHold) : (s.setJob j x).host = s.host := (rfl)
@[simp] theorem State.setJob_depot (s : State) (j : Nat) (x : JobHold) : (s.setJob j x).depot = s.depot := (rfl)
@[simp] theorem State.setJob_flash (s : State) (j : Nat) (x : JobHold) : (s.setJob j x).flash = s.flash := (rfl)
@[simp] theorem State.setJob_cfs (s : State) (j : Nat) (x : JobHold) : (s.setJob j x).cfs = s.cfs := (rfl)
@[simp] theorem State.setJob_ecc (s : State) (j : Nat) (x : JobHold) : (s.setJob j x).ecc = s.ecc := (rfl)
@[simp] theorem State.setJob_power (s : State) (j : Nat) (x : JobHold) : (s.setJob j x).power = s.power := (rfl)
@[simp] theorem State.setJob_tt (s : State) (j : Nat) (x : JobHold) : (s.setJob j x).tt = s.tt := (rfl)
@[simp] theorem State.setJob_jobs (s : State) (j : Nat) (x : JobHold) : (s.setJob j x).jobs = Tbl.put {} s.jobs j x := (rfl)
@[simp] theorem State.setJob_stations (s : State) (j : Nat) (x : JobHold) : (s.setJob j x).stations = s.stations := (rfl)
@[simp] theorem State.setJob_search (s : State) (j : Nat) (x : JobHold) : (s.setJob j x).search = s.search := (rfl)
@[simp] theorem State.setJob_scan (s : State) (j : Nat) (x : JobHold) : (s.setJob j x).scan = s.scan := (rfl)
@[simp] theorem State.setJob_mesh (s : State) (j : Nat) (x : JobHold) : (s.setJob j x).mesh = s.mesh := (rfl)
@[simp] theorem State.setJob_security (s : State) (j : Nat) (x : JobHold) : (s.setJob j x).security = s.security := (rfl)
@[simp] theorem State.setJob_junctions (s : State) (j : Nat) (x : JobHold) : (s.setJob j x).junctions = s.junctions := (rfl)
@[simp] theorem State.setJob_bridges (s : State) (j : Nat) (x : JobHold) : (s.setJob j x).bridges = s.bridges := (rfl)
@[simp] theorem State.setJob_rget (s : State) (j : Nat) (x : JobHold) (g : Reg) (y : Nat) : (s.setJob j x).rget g y = s.rget g y := (rfl)
@[simp] theorem State.setJob_fget (s : State) (j : Nat) (x : JobHold) (g : Fld) (y : Nat) : (s.setJob j x).fget g y = s.fget g y := (rfl)

@[simp] theorem State.setStn_pending (s : State) (n : Nat) (x : Station) : (s.setStn n x).pending = s.pending := (rfl)
@[simp] theorem State.setStn_freeCtr (s : State) (n : Nat) (x : Station) : (s.setStn n x).freeCtr = s.freeCtr := (rfl)
@[simp] theorem State.setStn_regs (s : State) (n : Nat) (x : Station) : (s.setStn n x).regs = s.regs := (rfl)
@[simp] theorem State.setStn_host (s : State) (n : Nat) (x : Station) : (s.setStn n x).host = s.host := (rfl)
@[simp] theorem State.setStn_depot (s : State) (n : Nat) (x : Station) : (s.setStn n x).depot = s.depot := (rfl)
@[simp] theorem State.setStn_flash (s : State) (n : Nat) (x : Station) : (s.setStn n x).flash = s.flash := (rfl)
@[simp] theorem State.setStn_cfs (s : State) (n : Nat) (x : Station) : (s.setStn n x).cfs = s.cfs := (rfl)
@[simp] theorem State.setStn_ecc (s : State) (n : Nat) (x : Station) : (s.setStn n x).ecc = s.ecc := (rfl)
@[simp] theorem State.setStn_power (s : State) (n : Nat) (x : Station) : (s.setStn n x).power = s.power := (rfl)
@[simp] theorem State.setStn_tt (s : State) (n : Nat) (x : Station) : (s.setStn n x).tt = s.tt := (rfl)
@[simp] theorem State.setStn_jobs (s : State) (n : Nat) (x : Station) : (s.setStn n x).jobs = s.jobs := (rfl)
@[simp] theorem State.setStn_stations (s : State) (n : Nat) (x : Station) : (s.setStn n x).stations = Tbl.put {} s.stations n x := (rfl)
@[simp] theorem State.setStn_search (s : State) (n : Nat) (x : Station) : (s.setStn n x).search = s.search := (rfl)
@[simp] theorem State.setStn_scan (s : State) (n : Nat) (x : Station) : (s.setStn n x).scan = s.scan := (rfl)
@[simp] theorem State.setStn_mesh (s : State) (n : Nat) (x : Station) : (s.setStn n x).mesh = s.mesh := (rfl)
@[simp] theorem State.setStn_security (s : State) (n : Nat) (x : Station) : (s.setStn n x).security = s.security := (rfl)
@[simp] theorem State.setStn_junctions (s : State) (n : Nat) (x : Station) : (s.setStn n x).junctions = s.junctions := (rfl)
@[simp] theorem State.setStn_bridges (s : State) (n : Nat) (x : Station) : (s.setStn n x).bridges = s.bridges := (rfl)
@[simp] theorem State.setStn_rget (s : State) (n : Nat) (x : Station) (g : Reg) (y : Nat) : (s.setStn n x).rget g y = s.rget g y := (rfl)
@[simp] theorem State.setStn_fget (s : State) (n : Nat) (x : Station) (g : Fld) (y : Nat) : (s.setStn n x).fget g y = s.fget g y := (rfl)

@[simp] theorem State.setLane_pending (s : State) (st n : Nat) (x : Lane) : (s.setLane st n x).pending = s.pending := (rfl)
@[simp] theorem State.setLane_freeCtr (s : State) (st n : Nat) (x : Lane) : (s.setLane st n x).freeCtr = s.freeCtr := (rfl)
@[simp] theorem State.setLane_regs (s : State) (st n : Nat) (x : Lane) : (s.setLane st n x).regs = s.regs := (rfl)
@[simp] theorem State.setLane_host (s : State) (st n : Nat) (x : Lane) : (s.setLane st n x).host = s.host := (rfl)
@[simp] theorem State.setLane_depot (s : State) (st n : Nat) (x : Lane) : (s.setLane st n x).depot = s.depot := (rfl)
@[simp] theorem State.setLane_flash (s : State) (st n : Nat) (x : Lane) : (s.setLane st n x).flash = s.flash := (rfl)
@[simp] theorem State.setLane_cfs (s : State) (st n : Nat) (x : Lane) : (s.setLane st n x).cfs = s.cfs := (rfl)
@[simp] theorem State.setLane_ecc (s : State) (st n : Nat) (x : Lane) : (s.setLane st n x).ecc = s.ecc := (rfl)
@[simp] theorem State.setLane_power (s : State) (st n : Nat) (x : Lane) : (s.setLane st n x).power = s.power := (rfl)
@[simp] theorem State.setLane_tt (s : State) (st n : Nat) (x : Lane) : (s.setLane st n x).tt = s.tt := (rfl)
@[simp] theorem State.setLane_jobs (s : State) (st n : Nat) (x : Lane) : (s.setLane st n x).jobs = s.jobs := (rfl)
@[simp] theorem State.setLane_search (s : State) (st n : Nat) (x : Lane) : (s.setLane st n x).search = s.search := (rfl)
@[simp] theorem State.setLane_scan (s : State) (st n : Nat) (x : Lane) : (s.setLane st n x).scan = s.scan := (rfl)
@[simp] theorem State.setLane_mesh (s : State) (st n : Nat) (x : Lane) : (s.setLane st n x).mesh = s.mesh := (rfl)
@[simp] theorem State.setLane_security (s : State) (st n : Nat) (x : Lane) : (s.setLane st n x).security = s.security := (rfl)
@[simp] theorem State.setLane_junctions (s : State) (st n : Nat) (x : Lane) : (s.setLane st n x).junctions = s.junctions := (rfl)
@[simp] theorem State.setLane_bridges (s : State) (st n : Nat) (x : Lane) : (s.setLane st n x).bridges = s.bridges := (rfl)
@[simp] theorem State.setLane_rget (s : State) (st n : Nat) (x : Lane) (g : Reg) (y : Nat) : (s.setLane st n x).rget g y = s.rget g y := (rfl)
@[simp] theorem State.setLane_fget (s : State) (st n : Nat) (x : Lane) (g : Fld) (y : Nat) : (s.setLane st n x).fget g y = s.fget g y := (rfl)

@[simp] theorem State.setWalker_pending (s : State) (st c : Nat) (x : Walker) : (s.setWalker st c x).pending = s.pending := (rfl)
@[simp] theorem State.setWalker_freeCtr (s : State) (st c : Nat) (x : Walker) : (s.setWalker st c x).freeCtr = s.freeCtr := (rfl)
@[simp] theorem State.setWalker_regs (s : State) (st c : Nat) (x : Walker) : (s.setWalker st c x).regs = s.regs := (rfl)
@[simp] theorem State.setWalker_host (s : State) (st c : Nat) (x : Walker) : (s.setWalker st c x).host = s.host := (rfl)
@[simp] theorem State.setWalker_depot (s : State) (st c : Nat) (x : Walker) : (s.setWalker st c x).depot = s.depot := (rfl)
@[simp] theorem State.setWalker_flash (s : State) (st c : Nat) (x : Walker) : (s.setWalker st c x).flash = s.flash := (rfl)
@[simp] theorem State.setWalker_cfs (s : State) (st c : Nat) (x : Walker) : (s.setWalker st c x).cfs = s.cfs := (rfl)
@[simp] theorem State.setWalker_ecc (s : State) (st c : Nat) (x : Walker) : (s.setWalker st c x).ecc = s.ecc := (rfl)
@[simp] theorem State.setWalker_power (s : State) (st c : Nat) (x : Walker) : (s.setWalker st c x).power = s.power := (rfl)
@[simp] theorem State.setWalker_tt (s : State) (st c : Nat) (x : Walker) : (s.setWalker st c x).tt = s.tt := (rfl)
@[simp] theorem State.setWalker_jobs (s : State) (st c : Nat) (x : Walker) : (s.setWalker st c x).jobs = s.jobs := (rfl)
@[simp] theorem State.setWalker_search (s : State) (st c : Nat) (x : Walker) : (s.setWalker st c x).search = s.search := (rfl)
@[simp] theorem State.setWalker_scan (s : State) (st c : Nat) (x : Walker) : (s.setWalker st c x).scan = s.scan := (rfl)
@[simp] theorem State.setWalker_mesh (s : State) (st c : Nat) (x : Walker) : (s.setWalker st c x).mesh = s.mesh := (rfl)
@[simp] theorem State.setWalker_security (s : State) (st c : Nat) (x : Walker) : (s.setWalker st c x).security = s.security := (rfl)
@[simp] theorem State.setWalker_junctions (s : State) (st c : Nat) (x : Walker) : (s.setWalker st c x).junctions = s.junctions := (rfl)
@[simp] theorem State.setWalker_bridges (s : State) (st c : Nat) (x : Walker) : (s.setWalker st c x).bridges = s.bridges := (rfl)
@[simp] theorem State.setWalker_rget (s : State) (st c : Nat) (x : Walker) (g : Reg) (y : Nat) : (s.setWalker st c x).rget g y = s.rget g y := (rfl)
@[simp] theorem State.setWalker_fget (s : State) (st c : Nat) (x : Walker) (g : Fld) (y : Nat) : (s.setWalker st c x).fget g y = s.fget g y := (rfl)

@[simp] theorem State.setCmd_pending (s : State) (p : Nat) (c : Cmd) : (s.setCmd p c).pending = s.pending := (rfl)
@[simp] theorem State.setCmd_freeCtr (s : State) (p : Nat) (c : Cmd) : (s.setCmd p c).freeCtr = s.freeCtr := (rfl)
@[simp] theorem State.setCmd_regs (s : State) (p : Nat) (c : Cmd) : (s.setCmd p c).regs = s.regs := (rfl)
@[simp] theorem State.setCmd_host (s : State) (p : Nat) (c : Cmd) : (s.setCmd p c).host = { s.host with cmds := Tbl.put {} s.host.cmds p c } := (rfl)
@[simp] theorem State.setCmd_depot (s : State) (p : Nat) (c : Cmd) : (s.setCmd p c).depot = s.depot := (rfl)
@[simp] theorem State.setCmd_flash (s : State) (p : Nat) (c : Cmd) : (s.setCmd p c).flash = s.flash := (rfl)
@[simp] theorem State.setCmd_cfs (s : State) (p : Nat) (c : Cmd) : (s.setCmd p c).cfs = s.cfs := (rfl)
@[simp] theorem State.setCmd_ecc (s : State) (p : Nat) (c : Cmd) : (s.setCmd p c).ecc = s.ecc := (rfl)
@[simp] theorem State.setCmd_power (s : State) (p : Nat) (c : Cmd) : (s.setCmd p c).power = s.power := (rfl)
@[simp] theorem State.setCmd_tt (s : State) (p : Nat) (c : Cmd) : (s.setCmd p c).tt = s.tt := (rfl)
@[simp] theorem State.setCmd_jobs (s : State) (p : Nat) (c : Cmd) : (s.setCmd p c).jobs = s.jobs := (rfl)
@[simp] theorem State.setCmd_stations (s : State) (p : Nat) (c : Cmd) : (s.setCmd p c).stations = s.stations := (rfl)
@[simp] theorem State.setCmd_search (s : State) (p : Nat) (c : Cmd) : (s.setCmd p c).search = s.search := (rfl)
@[simp] theorem State.setCmd_scan (s : State) (p : Nat) (c : Cmd) : (s.setCmd p c).scan = s.scan := (rfl)
@[simp] theorem State.setCmd_mesh (s : State) (p : Nat) (c : Cmd) : (s.setCmd p c).mesh = s.mesh := (rfl)
@[simp] theorem State.setCmd_security (s : State) (p : Nat) (c : Cmd) : (s.setCmd p c).security = s.security := (rfl)
@[simp] theorem State.setCmd_junctions (s : State) (p : Nat) (c : Cmd) : (s.setCmd p c).junctions = s.junctions := (rfl)
@[simp] theorem State.setCmd_bridges (s : State) (p : Nat) (c : Cmd) : (s.setCmd p c).bridges = s.bridges := (rfl)
@[simp] theorem State.setCmd_rget (s : State) (p : Nat) (c : Cmd) (g : Reg) (y : Nat) : (s.setCmd p c).rget g y = s.rget g y := (rfl)
@[simp] theorem State.setCmd_fget (s : State) (p : Nat) (c : Cmd) (g : Fld) (y : Nat) : (s.setCmd p c).fget g y = s.fget g y := (rfl)

@[simp] theorem State.setQcfg_pending (s : State) (q : Nat) (c : QueueCfg) : (s.setQcfg q c).pending = s.pending := (rfl)
@[simp] theorem State.setQcfg_freeCtr (s : State) (q : Nat) (c : QueueCfg) : (s.setQcfg q c).freeCtr = s.freeCtr := (rfl)
@[simp] theorem State.setQcfg_regs (s : State) (q : Nat) (c : QueueCfg) : (s.setQcfg q c).regs = s.regs := (rfl)
@[simp] theorem State.setQcfg_depot (s : State) (q : Nat) (c : QueueCfg) : (s.setQcfg q c).depot = s.depot := (rfl)
@[simp] theorem State.setQcfg_flash (s : State) (q : Nat) (c : QueueCfg) : (s.setQcfg q c).flash = s.flash := (rfl)
@[simp] theorem State.setQcfg_cfs (s : State) (q : Nat) (c : QueueCfg) : (s.setQcfg q c).cfs = s.cfs := (rfl)
@[simp] theorem State.setQcfg_ecc (s : State) (q : Nat) (c : QueueCfg) : (s.setQcfg q c).ecc = s.ecc := (rfl)
@[simp] theorem State.setQcfg_power (s : State) (q : Nat) (c : QueueCfg) : (s.setQcfg q c).power = s.power := (rfl)
@[simp] theorem State.setQcfg_tt (s : State) (q : Nat) (c : QueueCfg) : (s.setQcfg q c).tt = s.tt := (rfl)
@[simp] theorem State.setQcfg_jobs (s : State) (q : Nat) (c : QueueCfg) : (s.setQcfg q c).jobs = s.jobs := (rfl)
@[simp] theorem State.setQcfg_stations (s : State) (q : Nat) (c : QueueCfg) : (s.setQcfg q c).stations = s.stations := (rfl)
@[simp] theorem State.setQcfg_search (s : State) (q : Nat) (c : QueueCfg) : (s.setQcfg q c).search = s.search := (rfl)
@[simp] theorem State.setQcfg_scan (s : State) (q : Nat) (c : QueueCfg) : (s.setQcfg q c).scan = s.scan := (rfl)
@[simp] theorem State.setQcfg_mesh (s : State) (q : Nat) (c : QueueCfg) : (s.setQcfg q c).mesh = s.mesh := (rfl)
@[simp] theorem State.setQcfg_security (s : State) (q : Nat) (c : QueueCfg) : (s.setQcfg q c).security = s.security := (rfl)
@[simp] theorem State.setQcfg_junctions (s : State) (q : Nat) (c : QueueCfg) : (s.setQcfg q c).junctions = s.junctions := (rfl)
@[simp] theorem State.setQcfg_bridges (s : State) (q : Nat) (c : QueueCfg) : (s.setQcfg q c).bridges = s.bridges := (rfl)
@[simp] theorem State.setQcfg_rget (s : State) (q : Nat) (c : QueueCfg) (g : Reg) (y : Nat) : (s.setQcfg q c).rget g y = s.rget g y := (rfl)
@[simp] theorem State.setQcfg_fget (s : State) (q : Nat) (c : QueueCfg) (g : Fld) (y : Nat) : (s.setQcfg q c).fget g y = s.fget g y := (rfl)

@[simp] theorem State.setPage_pending (s : State) (p : Nat) (x : Page) : (s.setPage p x).pending = s.pending := (rfl)
@[simp] theorem State.setPage_freeCtr (s : State) (p : Nat) (x : Page) : (s.setPage p x).freeCtr = s.freeCtr := (rfl)
@[simp] theorem State.setPage_regs (s : State) (p : Nat) (x : Page) : (s.setPage p x).regs = s.regs := (rfl)
@[simp] theorem State.setPage_host (s : State) (p : Nat) (x : Page) : (s.setPage p x).host = s.host := (rfl)
@[simp] theorem State.setPage_flash (s : State) (p : Nat) (x : Page) : (s.setPage p x).flash = s.flash := (rfl)
@[simp] theorem State.setPage_cfs (s : State) (p : Nat) (x : Page) : (s.setPage p x).cfs = s.cfs := (rfl)
@[simp] theorem State.setPage_ecc (s : State) (p : Nat) (x : Page) : (s.setPage p x).ecc = s.ecc := (rfl)
@[simp] theorem State.setPage_power (s : State) (p : Nat) (x : Page) : (s.setPage p x).power = s.power := (rfl)
@[simp] theorem State.setPage_tt (s : State) (p : Nat) (x : Page) : (s.setPage p x).tt = s.tt := (rfl)
@[simp] theorem State.setPage_jobs (s : State) (p : Nat) (x : Page) : (s.setPage p x).jobs = s.jobs := (rfl)
@[simp] theorem State.setPage_stations (s : State) (p : Nat) (x : Page) : (s.setPage p x).stations = s.stations := (rfl)
@[simp] theorem State.setPage_search (s : State) (p : Nat) (x : Page) : (s.setPage p x).search = s.search := (rfl)
@[simp] theorem State.setPage_scan (s : State) (p : Nat) (x : Page) : (s.setPage p x).scan = s.scan := (rfl)
@[simp] theorem State.setPage_mesh (s : State) (p : Nat) (x : Page) : (s.setPage p x).mesh = s.mesh := (rfl)
@[simp] theorem State.setPage_security (s : State) (p : Nat) (x : Page) : (s.setPage p x).security = s.security := (rfl)
@[simp] theorem State.setPage_junctions (s : State) (p : Nat) (x : Page) : (s.setPage p x).junctions = s.junctions := (rfl)
@[simp] theorem State.setPage_bridges (s : State) (p : Nat) (x : Page) : (s.setPage p x).bridges = s.bridges := (rfl)
@[simp] theorem State.setPage_rget (s : State) (p : Nat) (x : Page) (g : Reg) (y : Nat) : (s.setPage p x).rget g y = s.rget g y := (rfl)
@[simp] theorem State.setPage_fget (s : State) (p : Nat) (x : Page) (g : Fld) (y : Nat) : (s.setPage p x).fget g y = s.fget g y := (rfl)

@[simp] theorem State.setSlot_pending (s : State) (k : Nat) (x : SlotHold) : (s.setSlot k x).pending = s.pending := (rfl)
@[simp] theorem State.setSlot_freeCtr (s : State) (k : Nat) (x : SlotHold) : (s.setSlot k x).freeCtr = s.freeCtr := (rfl)
@[simp] theorem State.setSlot_regs (s : State) (k : Nat) (x : SlotHold) : (s.setSlot k x).regs = s.regs := (rfl)
@[simp] theorem State.setSlot_host (s : State) (k : Nat) (x : SlotHold) : (s.setSlot k x).host = s.host := (rfl)
@[simp] theorem State.setSlot_depot (s : State) (k : Nat) (x : SlotHold) : (s.setSlot k x).depot = s.depot := (rfl)
@[simp] theorem State.setSlot_flash (s : State) (k : Nat) (x : SlotHold) : (s.setSlot k x).flash = s.flash := (rfl)
@[simp] theorem State.setSlot_cfs (s : State) (k : Nat) (x : SlotHold) : (s.setSlot k x).cfs = s.cfs := (rfl)
@[simp] theorem State.setSlot_ecc (s : State) (k : Nat) (x : SlotHold) : (s.setSlot k x).ecc = s.ecc := (rfl)
@[simp] theorem State.setSlot_power (s : State) (k : Nat) (x : SlotHold) : (s.setSlot k x).power = s.power := (rfl)
@[simp] theorem State.setSlot_jobs (s : State) (k : Nat) (x : SlotHold) : (s.setSlot k x).jobs = s.jobs := (rfl)
@[simp] theorem State.setSlot_stations (s : State) (k : Nat) (x : SlotHold) : (s.setSlot k x).stations = s.stations := (rfl)
@[simp] theorem State.setSlot_search (s : State) (k : Nat) (x : SlotHold) : (s.setSlot k x).search = s.search := (rfl)
@[simp] theorem State.setSlot_scan (s : State) (k : Nat) (x : SlotHold) : (s.setSlot k x).scan = s.scan := (rfl)
@[simp] theorem State.setSlot_mesh (s : State) (k : Nat) (x : SlotHold) : (s.setSlot k x).mesh = s.mesh := (rfl)
@[simp] theorem State.setSlot_security (s : State) (k : Nat) (x : SlotHold) : (s.setSlot k x).security = s.security := (rfl)
@[simp] theorem State.setSlot_junctions (s : State) (k : Nat) (x : SlotHold) : (s.setSlot k x).junctions = s.junctions := (rfl)
@[simp] theorem State.setSlot_bridges (s : State) (k : Nat) (x : SlotHold) : (s.setSlot k x).bridges = s.bridges := (rfl)
@[simp] theorem State.setSlot_rget (s : State) (k : Nat) (x : SlotHold) (g : Reg) (y : Nat) : (s.setSlot k x).rget g y = s.rget g y := (rfl)
@[simp] theorem State.setSlot_fget (s : State) (k : Nat) (x : SlotHold) (g : Fld) (y : Nat) : (s.setSlot k x).fget g y = s.fget g y := (rfl)

@[simp] theorem State.setLine_pending (s : State) (b : Nat) (x : Line) : (s.setLine b x).pending = s.pending := (rfl)
@[simp] theorem State.setLine_freeCtr (s : State) (b : Nat) (x : Line) : (s.setLine b x).freeCtr = s.freeCtr := (rfl)
@[simp] theorem State.setLine_regs (s : State) (b : Nat) (x : Line) : (s.setLine b x).regs = s.regs := (rfl)
@[simp] theorem State.setLine_host (s : State) (b : Nat) (x : Line) : (s.setLine b x).host = s.host := (rfl)
@[simp] theorem State.setLine_depot (s : State) (b : Nat) (x : Line) : (s.setLine b x).depot = s.depot := (rfl)
@[simp] theorem State.setLine_flash (s : State) (b : Nat) (x : Line) : (s.setLine b x).flash = s.flash := (rfl)
@[simp] theorem State.setLine_cfs (s : State) (b : Nat) (x : Line) : (s.setLine b x).cfs = s.cfs := (rfl)
@[simp] theorem State.setLine_ecc (s : State) (b : Nat) (x : Line) : (s.setLine b x).ecc = s.ecc := (rfl)
@[simp] theorem State.setLine_power (s : State) (b : Nat) (x : Line) : (s.setLine b x).power = s.power := (rfl)
@[simp] theorem State.setLine_tt (s : State) (b : Nat) (x : Line) : (s.setLine b x).tt = s.tt := (rfl)
@[simp] theorem State.setLine_jobs (s : State) (b : Nat) (x : Line) : (s.setLine b x).jobs = s.jobs := (rfl)
@[simp] theorem State.setLine_stations (s : State) (b : Nat) (x : Line) : (s.setLine b x).stations = s.stations := (rfl)
@[simp] theorem State.setLine_search (s : State) (b : Nat) (x : Line) : (s.setLine b x).search = s.search := (rfl)
@[simp] theorem State.setLine_scan (s : State) (b : Nat) (x : Line) : (s.setLine b x).scan = s.scan := (rfl)
@[simp] theorem State.setLine_security (s : State) (b : Nat) (x : Line) : (s.setLine b x).security = s.security := (rfl)
@[simp] theorem State.setLine_junctions (s : State) (b : Nat) (x : Line) : (s.setLine b x).junctions = s.junctions := (rfl)
@[simp] theorem State.setLine_bridges (s : State) (b : Nat) (x : Line) : (s.setLine b x).bridges = s.bridges := (rfl)
@[simp] theorem State.setLine_rget (s : State) (b : Nat) (x : Line) (g : Reg) (y : Nat) : (s.setLine b x).rget g y = s.rget g y := (rfl)
@[simp] theorem State.setLine_fget (s : State) (b : Nat) (x : Line) (g : Fld) (y : Nat) : (s.setLine b x).fget g y = s.fget g y := (rfl)

@[simp] theorem State.setMstep_pending (s : State) (n : Nat) (x : Step) : (s.setMstep n x).pending = s.pending := (rfl)
@[simp] theorem State.setMstep_freeCtr (s : State) (n : Nat) (x : Step) : (s.setMstep n x).freeCtr = s.freeCtr := (rfl)
@[simp] theorem State.setMstep_regs (s : State) (n : Nat) (x : Step) : (s.setMstep n x).regs = s.regs := (rfl)
@[simp] theorem State.setMstep_host (s : State) (n : Nat) (x : Step) : (s.setMstep n x).host = s.host := (rfl)
@[simp] theorem State.setMstep_depot (s : State) (n : Nat) (x : Step) : (s.setMstep n x).depot = s.depot := (rfl)
@[simp] theorem State.setMstep_flash (s : State) (n : Nat) (x : Step) : (s.setMstep n x).flash = s.flash := (rfl)
@[simp] theorem State.setMstep_cfs (s : State) (n : Nat) (x : Step) : (s.setMstep n x).cfs = s.cfs := (rfl)
@[simp] theorem State.setMstep_ecc (s : State) (n : Nat) (x : Step) : (s.setMstep n x).ecc = s.ecc := (rfl)
@[simp] theorem State.setMstep_power (s : State) (n : Nat) (x : Step) : (s.setMstep n x).power = s.power := (rfl)
@[simp] theorem State.setMstep_tt (s : State) (n : Nat) (x : Step) : (s.setMstep n x).tt = s.tt := (rfl)
@[simp] theorem State.setMstep_jobs (s : State) (n : Nat) (x : Step) : (s.setMstep n x).jobs = s.jobs := (rfl)
@[simp] theorem State.setMstep_stations (s : State) (n : Nat) (x : Step) : (s.setMstep n x).stations = s.stations := (rfl)
@[simp] theorem State.setMstep_search (s : State) (n : Nat) (x : Step) : (s.setMstep n x).search = s.search := (rfl)
@[simp] theorem State.setMstep_scan (s : State) (n : Nat) (x : Step) : (s.setMstep n x).scan = s.scan := (rfl)
@[simp] theorem State.setMstep_security (s : State) (n : Nat) (x : Step) : (s.setMstep n x).security = s.security := (rfl)
@[simp] theorem State.setMstep_junctions (s : State) (n : Nat) (x : Step) : (s.setMstep n x).junctions = s.junctions := (rfl)
@[simp] theorem State.setMstep_bridges (s : State) (n : Nat) (x : Step) : (s.setMstep n x).bridges = s.bridges := (rfl)
@[simp] theorem State.setMstep_rget (s : State) (n : Nat) (x : Step) (g : Reg) (y : Nat) : (s.setMstep n x).rget g y = s.rget g y := (rfl)
@[simp] theorem State.setMstep_fget (s : State) (n : Nat) (x : Step) (g : Fld) (y : Nat) : (s.setMstep n x).fget g y = s.fget g y := (rfl)

@[simp] theorem State.send_pending (s : State) (m : HostMsg) : (s.send m).pending = s.pending := (rfl)
@[simp] theorem State.send_freeCtr (s : State) (m : HostMsg) : (s.send m).freeCtr = s.freeCtr := (rfl)
@[simp] theorem State.send_regs (s : State) (m : HostMsg) : (s.send m).regs = s.regs := (rfl)
@[simp] theorem State.send_host (s : State) (m : HostMsg) : (s.send m).host = { s.host with outbox := s.host.outbox ++ [m] } := (rfl)
@[simp] theorem State.send_depot (s : State) (m : HostMsg) : (s.send m).depot = s.depot := (rfl)
@[simp] theorem State.send_flash (s : State) (m : HostMsg) : (s.send m).flash = s.flash := (rfl)
@[simp] theorem State.send_cfs (s : State) (m : HostMsg) : (s.send m).cfs = s.cfs := (rfl)
@[simp] theorem State.send_ecc (s : State) (m : HostMsg) : (s.send m).ecc = s.ecc := (rfl)
@[simp] theorem State.send_power (s : State) (m : HostMsg) : (s.send m).power = s.power := (rfl)
@[simp] theorem State.send_tt (s : State) (m : HostMsg) : (s.send m).tt = s.tt := (rfl)
@[simp] theorem State.send_jobs (s : State) (m : HostMsg) : (s.send m).jobs = s.jobs := (rfl)
@[simp] theorem State.send_stations (s : State) (m : HostMsg) : (s.send m).stations = s.stations := (rfl)
@[simp] theorem State.send_search (s : State) (m : HostMsg) : (s.send m).search = s.search := (rfl)
@[simp] theorem State.send_scan (s : State) (m : HostMsg) : (s.send m).scan = s.scan := (rfl)
@[simp] theorem State.send_mesh (s : State) (m : HostMsg) : (s.send m).mesh = s.mesh := (rfl)
@[simp] theorem State.send_security (s : State) (m : HostMsg) : (s.send m).security = s.security := (rfl)
@[simp] theorem State.send_junctions (s : State) (m : HostMsg) : (s.send m).junctions = s.junctions := (rfl)
@[simp] theorem State.send_bridges (s : State) (m : HostMsg) : (s.send m).bridges = s.bridges := (rfl)
@[simp] theorem State.send_rget (s : State) (m : HostMsg) (g : Reg) (y : Nat) : (s.send m).rget g y = s.rget g y := (rfl)
@[simp] theorem State.send_fget (s : State) (m : HostMsg) (g : Fld) (y : Nat) : (s.send m).fget g y = s.fget g y := (rfl)

@[simp] theorem State.rset_pending (s : State) (r : Reg) (i : Nat) (w : Word64) : (s.rset r i w).pending = s.pending := (rfl)
@[simp] theorem State.rset_freeCtr (s : State) (r : Reg) (i : Nat) (w : Word64) : (s.rset r i w).freeCtr = s.freeCtr := (rfl)
@[simp] theorem State.rset_host (s : State) (r : Reg) (i : Nat) (w : Word64) : (s.rset r i w).host = s.host := (rfl)
@[simp] theorem State.rset_depot (s : State) (r : Reg) (i : Nat) (w : Word64) : (s.rset r i w).depot = s.depot := (rfl)
@[simp] theorem State.rset_flash (s : State) (r : Reg) (i : Nat) (w : Word64) : (s.rset r i w).flash = s.flash := (rfl)
@[simp] theorem State.rset_cfs (s : State) (r : Reg) (i : Nat) (w : Word64) : (s.rset r i w).cfs = s.cfs := (rfl)
@[simp] theorem State.rset_ecc (s : State) (r : Reg) (i : Nat) (w : Word64) : (s.rset r i w).ecc = s.ecc := (rfl)
@[simp] theorem State.rset_power (s : State) (r : Reg) (i : Nat) (w : Word64) : (s.rset r i w).power = s.power := (rfl)
@[simp] theorem State.rset_tt (s : State) (r : Reg) (i : Nat) (w : Word64) : (s.rset r i w).tt = s.tt := (rfl)
@[simp] theorem State.rset_jobs (s : State) (r : Reg) (i : Nat) (w : Word64) : (s.rset r i w).jobs = s.jobs := (rfl)
@[simp] theorem State.rset_stations (s : State) (r : Reg) (i : Nat) (w : Word64) : (s.rset r i w).stations = s.stations := (rfl)
@[simp] theorem State.rset_search (s : State) (r : Reg) (i : Nat) (w : Word64) : (s.rset r i w).search = s.search := (rfl)
@[simp] theorem State.rset_scan (s : State) (r : Reg) (i : Nat) (w : Word64) : (s.rset r i w).scan = s.scan := (rfl)
@[simp] theorem State.rset_mesh (s : State) (r : Reg) (i : Nat) (w : Word64) : (s.rset r i w).mesh = s.mesh := (rfl)
@[simp] theorem State.rset_security (s : State) (r : Reg) (i : Nat) (w : Word64) : (s.rset r i w).security = s.security := (rfl)
@[simp] theorem State.rset_junctions (s : State) (r : Reg) (i : Nat) (w : Word64) : (s.rset r i w).junctions = s.junctions := (rfl)
@[simp] theorem State.rset_bridges (s : State) (r : Reg) (i : Nat) (w : Word64) : (s.rset r i w).bridges = s.bridges := (rfl)

@[simp] theorem State.fset_pending (s : State) (f : Fld) (i v : Nat) : (s.fset f i v).pending = s.pending := (rfl)
@[simp] theorem State.fset_freeCtr (s : State) (f : Fld) (i v : Nat) : (s.fset f i v).freeCtr = s.freeCtr := (rfl)
@[simp] theorem State.fset_host (s : State) (f : Fld) (i v : Nat) : (s.fset f i v).host = s.host := (rfl)
@[simp] theorem State.fset_depot (s : State) (f : Fld) (i v : Nat) : (s.fset f i v).depot = s.depot := (rfl)
@[simp] theorem State.fset_flash (s : State) (f : Fld) (i v : Nat) : (s.fset f i v).flash = s.flash := (rfl)
@[simp] theorem State.fset_cfs (s : State) (f : Fld) (i v : Nat) : (s.fset f i v).cfs = s.cfs := (rfl)
@[simp] theorem State.fset_ecc (s : State) (f : Fld) (i v : Nat) : (s.fset f i v).ecc = s.ecc := (rfl)
@[simp] theorem State.fset_power (s : State) (f : Fld) (i v : Nat) : (s.fset f i v).power = s.power := (rfl)
@[simp] theorem State.fset_tt (s : State) (f : Fld) (i v : Nat) : (s.fset f i v).tt = s.tt := (rfl)
@[simp] theorem State.fset_jobs (s : State) (f : Fld) (i v : Nat) : (s.fset f i v).jobs = s.jobs := (rfl)
@[simp] theorem State.fset_stations (s : State) (f : Fld) (i v : Nat) : (s.fset f i v).stations = s.stations := (rfl)
@[simp] theorem State.fset_search (s : State) (f : Fld) (i v : Nat) : (s.fset f i v).search = s.search := (rfl)
@[simp] theorem State.fset_scan (s : State) (f : Fld) (i v : Nat) : (s.fset f i v).scan = s.scan := (rfl)
@[simp] theorem State.fset_mesh (s : State) (f : Fld) (i v : Nat) : (s.fset f i v).mesh = s.mesh := (rfl)
@[simp] theorem State.fset_security (s : State) (f : Fld) (i v : Nat) : (s.fset f i v).security = s.security := (rfl)
@[simp] theorem State.fset_junctions (s : State) (f : Fld) (i v : Nat) : (s.fset f i v).junctions = s.junctions := (rfl)
@[simp] theorem State.fset_bridges (s : State) (f : Fld) (i v : Nat) : (s.fset f i v).bridges = s.bridges := (rfl)

@[simp] theorem State.bump_pending (s : State) (f : Fld) (i n : Nat) : (s.bump f i n).pending = s.pending := (rfl)
@[simp] theorem State.bump_freeCtr (s : State) (f : Fld) (i n : Nat) : (s.bump f i n).freeCtr = s.freeCtr := (rfl)
@[simp] theorem State.bump_host (s : State) (f : Fld) (i n : Nat) : (s.bump f i n).host = s.host := (rfl)
@[simp] theorem State.bump_depot (s : State) (f : Fld) (i n : Nat) : (s.bump f i n).depot = s.depot := (rfl)
@[simp] theorem State.bump_flash (s : State) (f : Fld) (i n : Nat) : (s.bump f i n).flash = s.flash := (rfl)
@[simp] theorem State.bump_cfs (s : State) (f : Fld) (i n : Nat) : (s.bump f i n).cfs = s.cfs := (rfl)
@[simp] theorem State.bump_ecc (s : State) (f : Fld) (i n : Nat) : (s.bump f i n).ecc = s.ecc := (rfl)
@[simp] theorem State.bump_power (s : State) (f : Fld) (i n : Nat) : (s.bump f i n).power = s.power := (rfl)
@[simp] theorem State.bump_tt (s : State) (f : Fld) (i n : Nat) : (s.bump f i n).tt = s.tt := (rfl)
@[simp] theorem State.bump_jobs (s : State) (f : Fld) (i n : Nat) : (s.bump f i n).jobs = s.jobs := (rfl)
@[simp] theorem State.bump_stations (s : State) (f : Fld) (i n : Nat) : (s.bump f i n).stations = s.stations := (rfl)
@[simp] theorem State.bump_search (s : State) (f : Fld) (i n : Nat) : (s.bump f i n).search = s.search := (rfl)
@[simp] theorem State.bump_scan (s : State) (f : Fld) (i n : Nat) : (s.bump f i n).scan = s.scan := (rfl)
@[simp] theorem State.bump_mesh (s : State) (f : Fld) (i n : Nat) : (s.bump f i n).mesh = s.mesh := (rfl)
@[simp] theorem State.bump_security (s : State) (f : Fld) (i n : Nat) : (s.bump f i n).security = s.security := (rfl)
@[simp] theorem State.bump_junctions (s : State) (f : Fld) (i n : Nat) : (s.bump f i n).junctions = s.junctions := (rfl)
@[simp] theorem State.bump_bridges (s : State) (f : Fld) (i n : Nat) : (s.bump f i n).bridges = s.bridges := (rfl)

@[simp] theorem State.dip_pending (s : State) (f : Fld) (i n : Nat) : (s.dip f i n).pending = s.pending := (rfl)
@[simp] theorem State.dip_freeCtr (s : State) (f : Fld) (i n : Nat) : (s.dip f i n).freeCtr = s.freeCtr := (rfl)
@[simp] theorem State.dip_host (s : State) (f : Fld) (i n : Nat) : (s.dip f i n).host = s.host := (rfl)
@[simp] theorem State.dip_depot (s : State) (f : Fld) (i n : Nat) : (s.dip f i n).depot = s.depot := (rfl)
@[simp] theorem State.dip_flash (s : State) (f : Fld) (i n : Nat) : (s.dip f i n).flash = s.flash := (rfl)
@[simp] theorem State.dip_cfs (s : State) (f : Fld) (i n : Nat) : (s.dip f i n).cfs = s.cfs := (rfl)
@[simp] theorem State.dip_ecc (s : State) (f : Fld) (i n : Nat) : (s.dip f i n).ecc = s.ecc := (rfl)
@[simp] theorem State.dip_power (s : State) (f : Fld) (i n : Nat) : (s.dip f i n).power = s.power := (rfl)
@[simp] theorem State.dip_tt (s : State) (f : Fld) (i n : Nat) : (s.dip f i n).tt = s.tt := (rfl)
@[simp] theorem State.dip_jobs (s : State) (f : Fld) (i n : Nat) : (s.dip f i n).jobs = s.jobs := (rfl)
@[simp] theorem State.dip_stations (s : State) (f : Fld) (i n : Nat) : (s.dip f i n).stations = s.stations := (rfl)
@[simp] theorem State.dip_search (s : State) (f : Fld) (i n : Nat) : (s.dip f i n).search = s.search := (rfl)
@[simp] theorem State.dip_scan (s : State) (f : Fld) (i n : Nat) : (s.dip f i n).scan = s.scan := (rfl)
@[simp] theorem State.dip_mesh (s : State) (f : Fld) (i n : Nat) : (s.dip f i n).mesh = s.mesh := (rfl)
@[simp] theorem State.dip_security (s : State) (f : Fld) (i n : Nat) : (s.dip f i n).security = s.security := (rfl)
@[simp] theorem State.dip_junctions (s : State) (f : Fld) (i n : Nat) : (s.dip f i n).junctions = s.junctions := (rfl)
@[simp] theorem State.dip_bridges (s : State) (f : Fld) (i n : Nat) : (s.dip f i n).bridges = s.bridges := (rfl)

@[simp] theorem State.bumpSat_pending (s : State) (f : Fld) (i n : Nat) : (s.bumpSat f i n).pending = s.pending := (rfl)
@[simp] theorem State.bumpSat_freeCtr (s : State) (f : Fld) (i n : Nat) : (s.bumpSat f i n).freeCtr = s.freeCtr := (rfl)
@[simp] theorem State.bumpSat_host (s : State) (f : Fld) (i n : Nat) : (s.bumpSat f i n).host = s.host := (rfl)
@[simp] theorem State.bumpSat_depot (s : State) (f : Fld) (i n : Nat) : (s.bumpSat f i n).depot = s.depot := (rfl)
@[simp] theorem State.bumpSat_flash (s : State) (f : Fld) (i n : Nat) : (s.bumpSat f i n).flash = s.flash := (rfl)
@[simp] theorem State.bumpSat_cfs (s : State) (f : Fld) (i n : Nat) : (s.bumpSat f i n).cfs = s.cfs := (rfl)
@[simp] theorem State.bumpSat_ecc (s : State) (f : Fld) (i n : Nat) : (s.bumpSat f i n).ecc = s.ecc := (rfl)
@[simp] theorem State.bumpSat_power (s : State) (f : Fld) (i n : Nat) : (s.bumpSat f i n).power = s.power := (rfl)
@[simp] theorem State.bumpSat_tt (s : State) (f : Fld) (i n : Nat) : (s.bumpSat f i n).tt = s.tt := (rfl)
@[simp] theorem State.bumpSat_jobs (s : State) (f : Fld) (i n : Nat) : (s.bumpSat f i n).jobs = s.jobs := (rfl)
@[simp] theorem State.bumpSat_stations (s : State) (f : Fld) (i n : Nat) : (s.bumpSat f i n).stations = s.stations := (rfl)
@[simp] theorem State.bumpSat_search (s : State) (f : Fld) (i n : Nat) : (s.bumpSat f i n).search = s.search := (rfl)
@[simp] theorem State.bumpSat_scan (s : State) (f : Fld) (i n : Nat) : (s.bumpSat f i n).scan = s.scan := (rfl)
@[simp] theorem State.bumpSat_mesh (s : State) (f : Fld) (i n : Nat) : (s.bumpSat f i n).mesh = s.mesh := (rfl)
@[simp] theorem State.bumpSat_security (s : State) (f : Fld) (i n : Nat) : (s.bumpSat f i n).security = s.security := (rfl)
@[simp] theorem State.bumpSat_junctions (s : State) (f : Fld) (i n : Nat) : (s.bumpSat f i n).junctions = s.junctions := (rfl)
@[simp] theorem State.bumpSat_bridges (s : State) (f : Fld) (i n : Nat) : (s.bumpSat f i n).bridges = s.bridges := (rfl)

/-! What was put in a table is found there. -/

theorem State.job_setJob (s : State) (j k : Nat) (x : JobHold) : (s.setJob j x).job k = if k = j then x else s.job k := Tbl.look_put _ _ _ _ _
theorem State.stn_setStn (s : State) (n k : Nat) (x : Station) : (s.setStn n x).stn k = if k = n then x else s.stn k := Tbl.look_put _ _ _ _ _
theorem State.cmd_setCmd (s : State) (p k : Nat) (c : Cmd) : (s.setCmd p c).cmd k = if k = p then c else s.cmd k := Tbl.look_put _ _ _ _ _
theorem State.qcfg_setQcfg (s : State) (q k : Nat) (c : QueueCfg) : (s.setQcfg q c).qcfg k = if k = q then c else s.qcfg k := Tbl.look_put _ _ _ _ _
theorem State.page_setPage (s : State) (p k : Nat) (x : Page) : (s.setPage p x).page k = if k = p then x else s.page k := Tbl.look_put _ _ _ _ _
theorem State.slot_setSlot (s : State) (j k : Nat) (x : SlotHold) : (s.setSlot j x).slot k = if k = j then x else s.slot k := Tbl.look_put _ _ _ _ _
theorem State.line_setLine (s : State) (b k : Nat) (x : Line) : (s.setLine b x).line k = if k = b then x else s.line k := Tbl.look_put _ _ _ _ _
theorem State.mstep_setMstep (s : State) (n k : Nat) (x : Step) : (s.setMstep n x).mstep k = if k = n then x else s.mstep k := Tbl.look_put _ _ _ _ _

end Sys2Proof.Machine
end

