-- ==== Sys2Proof/Laws/Entries.lean ====
section
/-! SUPPORT. What taking an SQ entry does (R430 to R432), and what a row of the opcode table does with the entry taken. -/

namespace Sys2Proof.Machine

theorem State.OnlyParts.refl (s : State) (ps : List Part) : s.OnlyParts s ps := fun x _ => by cases x <;> rfl

theorem State.OnlyParts.trans {s t u : State} {ps : List Part} (h : s.OnlyParts t ps) (k : t.OnlyParts u ps) : s.OnlyParts u ps :=
  fun x hx => by
    have a := h x hx
    have b := k x hx
    cases x <;> exact Eq.trans b a

theorem State.OnlyParts.mono {s t : State} {ps qs : List Part} (h : s.OnlyParts t ps) (hq : ∀ x ∈ ps, x ∈ qs) : s.OnlyParts t qs :=
  fun x hx => h x (fun hp => hx (hq x hp))

theorem State.OnlyRegs.refl (s : State) (P : Reg → Nat → Prop) : s.OnlyRegs s P := fun _ _ _ => rfl

theorem State.OnlyRegs.trans {s t u : State} {P : Reg → Nat → Prop} (h : s.OnlyRegs t P) (k : t.OnlyRegs u P) : s.OnlyRegs u P :=
  fun r i hp => (k r i hp).trans (h r i hp)

theorem State.OnlyRegs.mono {s t : State} {P Q : Reg → Nat → Prop} (h : s.OnlyRegs t P) (hq : ∀ r i, P r i → Q r i) : s.OnlyRegs t Q :=
  fun r i hn => h r i (fun hp => hn (hq r i hp))

theorem State.setHost_onlyParts (s : State) (h : HostSide) : s.OnlyParts (s.setHost h) [.host] := fun x hx => by
  cases x <;> first
    | rfl
    | exact absurd (by decide) hx

theorem State.setDepot_onlyParts (s : State) (d : Depot) : s.OnlyParts (s.setDepot d) [.depot] := fun x hx => by
  cases x <;> first
    | rfl
    | exact absurd (by decide) hx

theorem State.setFlash_onlyParts (s : State) (f : Flash) : s.OnlyParts (s.setFlash f) [.flash] := fun x hx => by
  cases x <;> first
    | rfl
    | exact absurd (by decide) hx

theorem State.setCfs_onlyParts (s : State) (c : Cfs) : s.OnlyParts (s.setCfs c) [.cfs] := fun x hx => by
  cases x <;> first
    | rfl
    | exact absurd (by decide) hx

theorem State.setEcc_onlyParts (s : State) (e : Ecc) : s.OnlyParts (s.setEcc e) [.ecc] := fun x hx => by
  cases x <;> first
    | rfl
    | exact absurd (by decide) hx

theorem State.setPower_onlyParts (s : State) (y : Power) : s.OnlyParts (s.setPower y) [.power] := fun x hx => by
  cases x <;> first
    | rfl
    | exact absurd (by decide) hx

theorem State.setTt_onlyParts (s : State) (y : Timetables) : s.OnlyParts (s.setTt y) [.tt] := fun x hx => by
  cases x <;> first
    | rfl
    | exact absurd (by decide) hx

theorem State.setSearch_onlyParts (s : State) (y : Search) : s.OnlyParts (s.setSearch y) [.search] := fun x hx => by
  cases x <;> first
    | rfl
    | exact absurd (by decide) hx

theorem State.setScans_onlyParts (s : State) (y : Scans) : s.OnlyParts (s.setScans y) [.scan] := fun x hx => by
  cases x <;> first
    | rfl
    | exact absurd (by decide) hx

theorem State.setSecurity_onlyParts (s : State) (y : Security) : s.OnlyParts (s.setSecurity y) [.security] := fun x hx => by
  cases x <;> first
    | rfl
    | exact absurd (by decide) hx

theorem State.setMesh_onlyParts (s : State) (m : Mesh) : s.OnlyParts (s.setMesh m) [.mesh] := fun x hx => by
  cases x <;> first
    | rfl
    | exact absurd (by decide) hx

theorem State.setJob_onlyParts (s : State) (j : Nat) (y : JobHold) : s.OnlyParts (s.setJob j y) [.jobs] := fun x hx => by
  cases x <;> first
    | rfl
    | exact absurd (by decide) hx

theorem State.setStn_onlyParts (s : State) (n : Nat) (y : Station) : s.OnlyParts (s.setStn n y) [.stations] := fun x hx => by
  cases x <;> first
    | rfl
    | exact absurd (by decide) hx

theorem State.setLane_onlyParts (s : State) (n k : Nat) (y : Lane) : s.OnlyParts (s.setLane n k y) [.stations] := fun x hx => by
  cases x <;> first
    | rfl
    | exact absurd (by decide) hx

theorem State.setCmd_onlyParts (s : State) (p : Nat) (c : Cmd) : s.OnlyParts (s.setCmd p c) [.host] := fun x hx => by
  cases x <;> first
    | rfl
    | exact absurd (by decide) hx

theorem State.setQcfg_onlyParts (s : State) (q : Nat) (c : QueueCfg) : s.OnlyParts (s.setQcfg q c) [.host] := fun x hx => by
  cases x <;> first
    | rfl
    | exact absurd (by decide) hx

theorem State.setPage_onlyParts (s : State) (p : Nat) (y : Page) : s.OnlyParts (s.setPage p y) [.depot] := fun x hx => by
  cases x <;> first
    | rfl
    | exact absurd (by decide) hx

theorem State.setSlot_onlyParts (s : State) (k : Nat) (y : SlotHold) : s.OnlyParts (s.setSlot k y) [.tt] := fun x hx => by
  cases x <;> first
    | rfl
    | exact absurd (by decide) hx

theorem State.setLine_onlyParts (s : State) (b : Nat) (y : Line) : s.OnlyParts (s.setLine b y) [.mesh] := fun x hx => by
  cases x <;> first
    | rfl
    | exact absurd (by decide) hx

theorem State.setMstep_onlyParts (s : State) (n : Nat) (y : Step) : s.OnlyParts (s.setMstep n y) [.mesh] := fun x hx => by
  cases x <;> first
    | rfl
    | exact absurd (by decide) hx

theorem State.rset_onlyParts (s : State) (r : Reg) (i : Nat) (w : Word64) : s.OnlyParts (s.rset r i w) [.regs] := fun x hx => by
  cases x <;> first
    | rfl
    | exact absurd (by decide) hx

theorem State.fset_onlyParts (s : State) (f : Fld) (i v : Nat) : s.OnlyParts (s.fset f i v) [.regs] := fun x hx => by
  cases x <;> first
    | rfl
    | exact absurd (by decide) hx

theorem State.bump_onlyParts (s : State) (f : Fld) (i n : Nat) : s.OnlyParts (s.bump f i n) [.regs] := fun x hx => by
  cases x <;> first
    | rfl
    | exact absurd (by decide) hx

theorem State.dip_onlyParts (s : State) (f : Fld) (i n : Nat) : s.OnlyParts (s.dip f i n) [.regs] := fun x hx => by
  cases x <;> first
    | rfl
    | exact absurd (by decide) hx

theorem State.bumpSat_onlyParts (s : State) (f : Fld) (i n : Nat) : s.OnlyParts (s.bumpSat f i n) [.regs] := fun x hx => by
  cases x <;> first
    | rfl
    | exact absurd (by decide) hx

theorem State.send_onlyParts (s : State) (m : HostMsg) : s.OnlyParts (s.send m) [.host] := fun x hx => by
  cases x <;> first
    | rfl
    | exact absurd (by decide) hx

theorem State.sendData_onlyParts (s : State) (a : Nat) (bs : List Byte) (ep : Bool) : s.OnlyParts (s.sendData a bs ep) [.host] := fun x hx => by
  cases x <;> first
    | rfl
    | exact absurd (by decide) hx

theorem State.setFreeCtr_onlyParts (s : State) (n : Nat) : s.OnlyParts (s.setFreeCtr n) [.freeCtr] := fun x hx => by
  cases x <;> first
    | rfl
    | exact absurd (by decide) hx

/-- The registers that a write of a field may change. -/
theorem State.fset_onlyRegs (s : State) (f : Fld) (i v : Nat) : s.OnlyRegs (s.fset f i v) (fun r j => r = f.reg ∧ j = i) :=
  fun r j h => (State.rget_fset s f i v r j).trans (if_neg h)

theorem State.bump_onlyRegs (s : State) (f : Fld) (i n : Nat) : s.OnlyRegs (s.bump f i n) (fun r j => r = f.reg ∧ j = i) :=
  State.fset_onlyRegs s f i _

theorem State.dip_onlyRegs (s : State) (f : Fld) (i n : Nat) : s.OnlyRegs (s.dip f i n) (fun r j => r = f.reg ∧ j = i) :=
  State.fset_onlyRegs s f i _

theorem State.rset_onlyRegs (s : State) (r : Reg) (i : Nat) (w : Word64) : s.OnlyRegs (s.rset r i w) (fun q j => q = r ∧ j = i) :=
  fun q j h => (State.rget_rset s r q i j w).trans (if_neg h)

/-- A field of a register that a step may not change. -/
theorem State.OnlyRegs.field {s t : State} {P : Reg → Nat → Prop} (h : s.OnlyRegs t P) (f : Fld) (i : Nat) (hn : ¬ P f.reg i) :
    t.fget f i = s.fget f i := by
  unfold State.fget
  rw [h _ _ hn]

/-- A counter counts modulo its width. -/
theorem State.fget_bump_same (s : State) (f : Fld) (i n : Nat) (h : f.lsb + f.width ≤ 64) :
    (s.bump f i n).fget f i = (s.fget f i + n) % 2 ^ f.width := State.fget_fset_same s f i _ h

theorem State.fget_bump_reg (s : State) (f g : Fld) (i j n : Nat) (h : g.reg ≠ f.reg ∨ j ≠ i) : (s.bump f i n).fget g j = s.fget g j :=
  State.fget_fset_reg s f g i j _ h

theorem State.fget_bump_apart (s : State) (f g : Fld) (i j n : Nat) (h : f.lsb + f.width ≤ 64)
    (ha : g.lsb + g.width ≤ f.lsb ∨ f.lsb + f.width ≤ g.lsb) : (s.bump f i n).fget g j = s.fget g j :=
  State.fget_fset_apart s f g i j _ h ha

/-- The settings of a queue stand apart from the window, the base, the link and what was sent. -/
theorem State.setQcfg_host_kept (s : State) (q : Nat) (c : QueueCfg) :
    (s.setQcfg q c).host.window = s.host.window ∧ (s.setQcfg q c).host.hdmBase = s.host.hdmBase ∧ (s.setQcfg q c).host.link = s.host.link ∧
    (s.setQcfg q c).host.held = s.host.held ∧ (s.setQcfg q c).host.outbox = s.host.outbox ∧ (s.setQcfg q c).host.cmds = s.host.cmds :=
  ⟨rfl, rfl, rfl, rfl, rfl, rfl⟩

/-- A row whose entry is taken runs on it. -/
theorem State.TakesNext.onEntry {s s0 : State} {q : QueueId} {p : Nat} {e : List Byte} (h : s.TakesNext q p e s0)
    (own : List Byte → Bool) (run : Nat → List Byte → State → State) (ho : own e = true) : s.onEntry q.val own run = run p e s0 := by
  obtain ⟨a, h1, h2, h3, h4, h5, rfl⟩ := h
  unfold State.onEntry
  rw [h1]
  simp only [h2, h3, h4, ho, Bool.not_false, and_self, if_true, h5]

theorem State.setQcfg_host_cmds (s : State) (q : Nat) (c : QueueCfg) : (s.setQcfg q c).host.cmds = s.host.cmds := rfl

/-- The count of class-0 entries that wait leaves commands and registers other than QUE.CTR as they are. -/
theorem State.countWait_cmds (s : State) (q : Nat) : (s.countWait q).host.cmds = s.host.cmds := by
  unfold State.countWait
  split
  · rw [State.setQcfg_host_cmds, State.bump_host]
  · rfl

theorem State.countWaits_cmds (s : State) : s.countWaits.host.cmds = s.host.cmds := by
  unfold State.countWaits
  split
  · rfl
  · have : ∀ (qs : List Nat) (s : State), (qs.foldl State.countWait s).host.cmds = s.host.cmds := by
      intro qs
      induction qs with
      | nil => exact fun _ => rfl
      | cons q qs ih => exact fun s => (ih _).trans (State.countWait_cmds s q)
    exact this _ s

theorem State.countWaits_cmd (s : State) (p : Nat) : s.countWaits.cmd p = s.cmd p := by
  unfold State.cmd
  rw [State.countWaits_cmds]

theorem State.TakesNext.cmd {s s0 : State} {q : QueueId} {p : Nat} {e : List Byte} (h : s.TakesNext q p e s0) :
    s0.cmd p = { live := true, queue := q.val, cls := s.fget F.queQStateClass q.val, entry := e,
                 timeout := timeoutOf (sqTimeout e) (s.qcfg q.val).defaultTimeout, t0 := s.cyc 17 } := by
  obtain ⟨a, h1, h2, h3, h4, h5, rfl⟩ := h
  rw [State.countWaits_cmd]
  have k : (s.takeInto q.val p a).cmd p = {
      live := true, queue := q.val, cls := s.fget F.queQStateClass q.val, entry := s.headEntry q.val
      timeout := (if s.headBad q.val then none else timeoutOf (sqTimeout (s.headEntry q.val)) (s.qcfg q.val).defaultTimeout)
      t0 := s.cyc 17 } := by
    unfold State.takeInto State.class0In
    rw [State.cmd_setCmd, if_pos rfl]
    congr 1
    unfold State.cyc
    simp only [State.setQcfg_fget, State.setHost_fget]
    split
    · simp only [State.fget_fset_reg _ _ _ _ _ _ (.inl (by decide : F.glbIslandCtrCount.reg ≠ F.queClass0Peak.reg)),
        State.fget_bump_reg _ _ _ _ _ _ (.inl (by decide : F.glbIslandCtrCount.reg ≠ F.queClass0Outstanding.reg)),
        State.fget_bump_reg _ _ _ _ _ _ (.inl (by decide : F.glbIslandCtrCount.reg ≠ F.queCtrCount.reg)),
        State.fget_bump_reg _ _ _ _ _ _ (.inl (by decide : F.glbIslandCtrCount.reg ≠ F.queQStateOutstanding.reg)),
        State.fget_fset_reg _ _ _ _ _ _ (.inl (by decide : F.glbIslandCtrCount.reg ≠ F.queQStateHead.reg))]
    · simp only [
        State.fget_bump_reg _ _ _ _ _ _ (.inl (by decide : F.glbIslandCtrCount.reg ≠ F.queCtrCount.reg)),
        State.fget_bump_reg _ _ _ _ _ _ (.inl (by decide : F.glbIslandCtrCount.reg ≠ F.queQStateOutstanding.reg)),
        State.fget_fset_reg _ _ _ _ _ _ (.inl (by decide : F.glbIslandCtrCount.reg ≠ F.queQStateHead.reg))]
  rw [k, h2, h3]
  rfl

/-- An admin command on Q0000 runs its own part. -/
theorem State.TakesNext.admin {s s0 : State} {p : Nat} {e : List Byte} (h : s.TakesNext 0 p e s0)
    (run : Nat → List Byte → State → State) : State.adminOnly run p e s0 = run p e s0 := by
  unfold State.adminOnly
  rw [h.cmd]
  rfl

end Sys2Proof.Machine
end

