-- ==== Sys2Proof/Laws/Keeps.lean ====
section
/-! SUPPORT. What every operation of the module keeps, said once: the queue of waiting commands, the lock (where `P` holds), the
fused SVN's rise, the zero reserved bits, the fixed registers and the canonical memories. Each operation has one lemma of the form
`Keeps P a s → Keeps P a (op s)`, so that a chain of operations is followed by citing them. -/

namespace Sys2Proof.Machine

/-- What holds between a state and a later one; `P` says that nothing in between may change the lock. -/
structure Keeps (P : Prop) (a b : State) : Prop where
  pending : b.pending = a.pending
  lock : P → b.rget .glbPrivLock 0 = a.rget .glbPrivLock 0
  svn : a.fget F.secSvnSvn 0 ≤ b.fget F.secSvnSvn 0
  reserved : a.ReservedZero → b.ReservedZero
  fixed : a.IdentityFixed → b.IdentityFixed
  memories : a.MemoriesCanonical → b.MemoriesCanonical

theorem Keeps.refl (P : Prop) (a : State) : Keeps P a a := ⟨rfl, fun _ => rfl, Nat.le_refl _, id, id, id⟩

theorem Keeps.trans {P : Prop} {a b c : State} (h : Keeps P a b) (k : Keeps P b c) : Keeps P a c :=
  ⟨k.pending.trans h.pending, fun p => (k.lock p).trans (h.lock p), Nat.le_trans h.svn k.svn, k.reserved ∘ h.reserved,
    k.fixed ∘ h.fixed, k.memories ∘ h.memories⟩

theorem Keeps.mono {P Q : Prop} {a b : State} (hPQ : Q → P) (h : Keeps P a b) : Keeps Q a b :=
  ⟨h.pending, fun q => h.lock (hPQ q), h.svn, h.reserved, h.fixed, h.memories⟩

theorem Keeps.cut {P : Prop} {a t v : State} (k : Keeps P a v) (f : Keeps P a v → Keeps P a t) : Keeps P a t := f k

/-- The state that an operation may answer is kept: alone, or at either place of a pair. -/
structure KeepsOpt (P : Prop) (a : State) (o : Option State) : Prop where
  of : ∀ t, o = some t → Keeps P a t
structure KeepsOpt1 {α : Type} (P : Prop) (a : State) (o : Option (State × α)) : Prop where
  of : ∀ v, o = some v → Keeps P a v.1
structure KeepsOpt2 {α : Type} (P : Prop) (a : State) (o : Option (α × State)) : Prop where
  of : ∀ v, o = some v → Keeps P a v.2

theorem Keeps.opt_none {P : Prop} {a : State} : KeepsOpt P a none := ⟨fun _ e => nomatch e⟩
theorem Keeps.opt1_none {α : Type} {P : Prop} {a : State} : KeepsOpt1 (α := α) P a none := ⟨fun _ e => nomatch e⟩
theorem Keeps.opt2_none {α : Type} {P : Prop} {a : State} : KeepsOpt2 (α := α) P a none := ⟨fun _ e => nomatch e⟩
theorem Keeps.opt_some {P : Prop} {a t : State} (h : Keeps P a t) : KeepsOpt P a (some t) := ⟨fun _ e => Option.some.inj e ▸ h⟩
theorem Keeps.opt1_some {α : Type} {P : Prop} {a t : State} {x : α} (h : Keeps P a t) : KeepsOpt1 P a (some (t, x)) :=
  ⟨fun _ e => Option.some.inj e ▸ h⟩
theorem Keeps.opt2_some {α : Type} {P : Prop} {a t : State} {x : α} (h : Keeps P a t) : KeepsOpt2 P a (some (x, t)) :=
  ⟨fun _ e => Option.some.inj e ▸ h⟩
theorem Keeps.ofOpt {P : Prop} {a t : State} {o : Option State} (h : KeepsOpt P a o) (e : o = some t) : Keeps P a t := h.of t e
theorem Keeps.ofOpt1 {α : Type} {P : Prop} {a t : State} {x : α} {o : Option (State × α)} (h : KeepsOpt1 P a o)
    (e : o = some (t, x)) : Keeps P a t := h.of _ e
theorem Keeps.ofOpt2 {α : Type} {P : Prop} {a t : State} {x : α} {o : Option (α × State)} (h : KeepsOpt2 P a o)
    (e : o = some (x, t)) : Keeps P a t := h.of _ e

/-- A pair that an equation names. -/
theorem Keeps.of_fst_eq {α : Type} {P : Prop} {a t : State} {x : State × α} {y : α} (k : Keeps P a x.1) (e : x = (t, y)) : Keeps P a t := by
  subst e
  exact k
theorem Keeps.of_snd_eq {α : Type} {P : Prop} {a t : State} {x : α × State} {y : α} (k : Keeps P a x.2) (e : x = (y, t)) : Keeps P a t := by
  subst e
  exact k

theorem Keeps.opt2_map {α β : Type} {P : Prop} {a : State} {f : β → α × State} (o : Option β) (h : ∀ x, Keeps P a (f x).2) :
    KeepsOpt2 P a (o.map f) := by
  cases o with
  | none => exact Keeps.opt2_none
  | some x => exact ⟨fun v e => Option.some.inj e ▸ h x⟩

theorem Keeps.opt2_getD {α : Type} {P : Prop} {a : State} {o : Option (α × State)} {d : α × State} (h : KeepsOpt2 P a o)
    (hd : Keeps P a d.2) : Keeps P a (o.getD d).2 := by
  cases o with
  | none => exact hd
  | some x => exact h.of _ rfl

theorem Keeps.opt2_bind {α β : Type} {P : Prop} {a : State} {f : β → Option (α × State)} (o : Option β)
    (h : ∀ x, KeepsOpt2 P a (f x)) : KeepsOpt2 P a (o.bind f) := by
  cases o with
  | none => exact Keeps.opt2_none
  | some x => exact h x

/-- The parts of the state that `Keeps` speaks of. -/
def State.keptParts (s : State) : List Instr × Tbl (Tbl Word64) × Memory × Memory × Tbl Station :=
  (s.pending, s.regs, s.depot.base, s.host.window, s.stations)

/-- A change of other parts keeps all. -/
theorem Keeps.parts {P : Prop} {a s t : State} (h : Keeps P a s) (e : t.keptParts = s.keptParts) : Keeps P a t := by
  obtain ⟨e1, e2, e3, e4, e5⟩ : t.pending = s.pending ∧ t.regs = s.regs ∧ t.depot.base = s.depot.base ∧
      t.host.window = s.host.window ∧ t.stations = s.stations := by
    simpa [State.keptParts, Prod.ext_iff] using e
  have r : ∀ q i, t.rget q i = s.rget q i := fun q i => by unfold State.rget; rw [e2]
  refine ⟨e1.trans h.pending, fun p => (r _ _).trans (h.lock p), ?_, fun x => ?_, fun x => ?_, fun x => ?_⟩
  · have := h.svn
    simpa [State.fget, r] using this
  · have := h.reserved x
    simpa [State.ReservedZero, r] using this
  · have := h.fixed x
    simpa [State.IdentityFixed, r] using this
  · have := h.memories x
    simpa [State.MemoriesCanonical, e3, e4, e5] using this

/-- A fold of an operation that keeps all keeps all. -/
theorem Keeps.foldl {α : Type} {P : Prop} {a : State} {f : State → α → State}
    (hf : ∀ s x, Keeps P a s → Keeps P a (f s x)) (l : List α) {s : State} (h : Keeps P a s) : Keeps P a (l.foldl f s) := by
  induction l generalizing s with
  | nil => exact h
  | cons x l ih => exact ih (hf s x h)

theorem Keeps.foldl_fst {α β : Type} {P : Prop} {a : State} {f : State × β → α → State × β}
    (hf : ∀ s x, Keeps P a s.1 → Keeps P a (f s x).1) (l : List α) {s : State × β} (h : Keeps P a s.1) :
    Keeps P a (l.foldl f s).1 := by
  induction l generalizing s with
  | nil => exact h
  | cons x l ih => exact ih (hf s x h)

theorem Keeps.foldl_snd {α β : Type} {P : Prop} {a : State} {f : β × State → α → β × State}
    (hf : ∀ s x, Keeps P a s.2 → Keeps P a (f s x).2) (l : List α) {s : β × State} (h : Keeps P a s.2) :
    Keeps P a (l.foldl f s).2 := by
  induction l generalizing s with
  | nil => exact h
  | cons x l ih => exact ih (hf s x h)

/-! ## Registers -/

/-- Registers that only some operations may write: the lock, the fused SVN, and the fixed ones. -/
def Reg.guarded (r : Reg) : Bool := [Reg.glbPrivLock, .secSvn, .glbId, .brlSerial, .secIdentity].contains r

/-- The reserved bits of a register word, as one number. -/
def Reg.reservedNat : Reg → Nat
  | .stnLrCtr => 0xffff000000000000
  | .stnLrSnap => 0xffff000000000000
  | .stnCtrCtl => 0xfffffffffffffffc
  | .stnLrSpare => 0xffffffffffffff80
  | .jobBatchCfg => 0xffffc0000000e000
  | .jobBatchCtr => 0xffff000000000000
  | .jobRerunCfg => 0xfffffffffffff000
  | .jobClipCtr => 0xffff000000000000
  | .ttbSlotState => 0xfffc00fe00f880c0
  | .ttbStnFree => 0xfffffffffff80000
  | .ttbLastFail => 0xff000000
  | .ttbSigners => 0xffffffffffff0000
  | .ttbBaseStatus => 0xffffffff0000fff8
  | .glbIslandInfo => 0xf00000f8
  | .depTierCtr => 0xffff000000000000
  | .depTierLevel => 0xffe00000fc000000
  | .depHostwin => 0xfffffffff800f800
  | .depCacheCtr => 0xffff000000000000
  | .memStackState => 0xffffffffe00000f8
  | .stnStreamStat => 0xffffff0000000000
  | .stnStreamStat1 => 0xffff000000000000
  | .stnCopyCtr => 0xffff000000000000
  | .jobState => 0xffff0000f00000c0
  | .jobCfg => 0xfffe00000000fc00
  | .jobWcet => 0xffff000000000000
  | .jobXbound => 0xffffffff00000000
  | .jobSlow => 0x7fffffc000000000
  | .jobAcct => 0xffff000000000000
  | .jobCtl => 0xfffc0000
  | .jobCtlStatus => 0xffffffff0000fffc
  | .jobSched => 0xffffffffffffff80
  | .stnState => 0xffffffffffffc000
  | .depSrchCtr => 0xffff000000000000
  | .stnWalk => 0xffe0
  | .depScanCtr => 0xffff000000000000
  | .brlLineState => 0xffff0000fce000f0
  | .brlLineCtl => 0xffffffffff00fffc
  | .brlLineCtr => 0xffff000000000000
  | .brlFabric => 0xfffffe0000000000
  | .brlMeshCfg => 0xffffffff00000000
  | .brlBind => 0xfff0000000000000
  | .brlBind1 => 0xffffffffffff0000
  | .brlMeshCtr => 0xffff000000000000
  | .queAdminCfg => 0xffffe0000000e000
  | .queAdminCtl => 0xfffffffffffffff0
  | .queArb => 0xffffffffff000000
  | .queQState => 0xf000f000fc00ffe0
  | .queQState1 => 0xffff0000fffe0000
  | .queCqState => 0xfffe0000fffe0000
  | .queCqState1 => 0xfffe0000ffffe000
  | .queCtr => 0xffff000000000000
  | .queClass0 => 0xffffffffff80ff80
  | .flsHealth => 0xfffc00000000fc00
  | .flsCfg => 0xfffffffffe000000
  | .flsCtr => 0xffff000000000000
  | .flsRetryCtr => 0xffff000000000000
  | .flsLatHist => 0xffff000000000000
  | .flsGroup => 0xffff00000000e000
  | .flsGroup1 => 0xfffffffff800f800
  | .flsDie => 0xfffffff000000002
  | .flsChan => 0xffff00000000fffe
  | .flsRawAddr => 0xfffff0c000000000
  | .flsRawCtl => 0xffffffff0000fffc
  | .cfsDevState => 0xfff000000000fffc
  | .cfsDevState1 => 0xffff0000fff00000
  | .cfsCtr => 0xffff000000000000
  | .memEccCfg => 0xfffffffffc000000
  | .memScrubStat => 0xfc000000e0000000
  | .memCeLog => 0xc00000000000
  | .stnEccCfg => 0xfffffffffffffe00
  | .stnCeLog => 0xff80c0000000
  | .pwrBoot => 0xffe0ff80
  | .pwrHoldup => 0xffe00000ffc00000
  | .pwrString => 0xfffe0000
  | .pwrCtr => 0xffff000000000000
  | .glbMaint => 0xffffff0000000000
  | .glbFw => 0xffffff00
  | .glbId => 0xffff0000ff000000
  | .glbPrivLock => 0xfffffffffffffffe
  | .glbUnlockCtl => 0xfffffffff0f8f8f0
  | .glbEventCfg => 0xffff0000fffff000
  | .glbEventStatus => 0xfffffffffffff800
  | .secKeyCtl => 0xffffffff0000f8f8
  | .secSvn => 0xffffffffffffffc0
  | .pwrTemp => 0xffffffff00000000
  | .pwrCoolant => 0xffffffff00000000
  | .pwrInput => 0xffff000000000000
  | .tmxStnSel => 0xffffffffc0c0c0c0
  | .tmxPin => 0xfffffffffffff800
  | .tmxObs => 0xfffffffffffff800
  | .tmxSample => 0x7fffffff00000000
  | .brlCable => 0xffffffff000000e0
  | _ => 0

/-- They are the bits that the register's fields leave. -/
theorem reserved_eq : ∀ row ∈ regRows, row.reserved = BitVec.ofNat 64 row.reg.reservedNat := by decide +kernel

/-- A word that leaves a register's reserved bits 0. -/
def Reg.fits (r : Reg) (w : Word64) : Prop := w &&& BitVec.ofNat 64 r.reservedNat = 0

theorem Reg.fits_zero (r : Reg) : r.fits 0 := BitVec.zero_and

/-- The word of a register whose reserved bits read 0 fits. -/
theorem State.ReservedZero.fits {s : State} (z : s.ReservedZero) (r : Reg) (i : Nat) : r.fits (s.rget r i) := by
  obtain ⟨row, hrow, rfl⟩ : ∃ row ∈ regRows, row.reg = r := by cases r <;> decide +kernel
  have := z row hrow i
  rwa [reserved_eq row hrow] at this

/-- A write of an unguarded register that leaves reserved bits 0 keeps all. -/
theorem State.rset_keeps {P : Prop} {a s : State} (h : Keeps P a s) (r : Reg) (i : Nat) (w : Word64) (hr : r.guarded = false)
    (hw : a.ReservedZero → r.fits w) : Keeps P a (s.rset r i w) := by
  have hg : ∀ q, q.guarded = true → ∀ j, (s.rset r i w).rget q j = s.rget q j := fun q hq j =>
    State.rget_rset_reg s i j w (fun e => by rw [e, hr] at hq; exact Bool.noConfusion hq)
  refine ⟨h.pending, fun p => (hg _ rfl 0).trans (h.lock p), ?_, fun z => ?_, fun z => ?_, fun z => h.memories z⟩
  · have := h.svn
    simpa [State.fget, hg _ (rfl : F.secSvnSvn.reg.guarded = true)] using this
  · intro row hrow j
    rw [State.rget_rset]
    split
    · next e =>
      have := hw z
      rw [Reg.fits, ← e.1, ← reserved_eq row hrow] at this
      exact this
    · exact h.reserved z row hrow j
  · intro q hq j
    have : q.guarded = true := by
      simp only [fixedRegs, List.mem_cons, List.not_mem_nil, or_false] at hq
      rcases hq with rfl | rfl | rfl <;> rfl
    exact (hg q this j).trans (h.fixed z q hq j)

/-- The bits of a field. -/
def Fld.mask (f : Fld) : Nat := 2 ^ (f.lsb + f.width) - 2 ^ f.lsb

/-- A field of an unguarded register, made of bits that the register's fields cover. -/
def Fld.plain (f : Fld) : Bool :=
  !f.reg.guarded && f.mask &&& f.reg.reservedNat == 0

/-- A field of a register without reserved bits is plain. -/
theorem Fld.plain_of_full (f : Fld) (hr : f.reg.guarded = false) (hz : f.reg.reservedNat = 0) : f.plain = true := by
  unfold Fld.plain
  rw [hr, hz]
  simp

theorem Fld.mask_bit (f : Fld) {k : Nat} (h1 : f.lsb ≤ k) (h2 : k < f.lsb + f.width) : f.mask.testBit k = true := by
  have e : 2 ^ (f.lsb + f.width) - 2 ^ f.lsb = withBits 0 f.lsb f.width (2 ^ f.width - 1) := by
    unfold withBits
    rw [Nat.zero_div, Nat.zero_mul, Nat.zero_mod, Nat.zero_add, Nat.add_zero,
      Nat.mod_eq_of_lt (by have := Nat.two_pow_pos f.width; omega), Nat.sub_mul, ← Nat.pow_add, Nat.one_mul, Nat.add_comm]
  unfold Fld.mask
  rw [e, testBit_withBits, if_pos ⟨h1, h2⟩]
  have : k - f.lsb < f.width := by omega
  simp [Nat.testBit_two_pow_sub_one, this]

theorem Reg.fits_iff (r : Reg) (w : Word64) : r.fits w ↔ ∀ k, r.reservedNat.testBit k = true → w.getLsbD k = false := by
  unfold Reg.fits
  constructor
  · intro h k hk
    by_cases h64 : k < 64
    · have := congrArg (fun z : Word64 => z.getLsbD k) h
      have hb : (BitVec.ofNat 64 r.reservedNat).getLsbD k = true := by rw [BitVec.getLsbD_ofNat]; simp [h64, hk]
      simp only [BitVec.getLsbD_and, hb, Bool.and_true] at this
      simpa using this
    · exact BitVec.getLsbD_of_ge _ _ (by omega)
  · intro h
    apply BitVec.eq_of_getLsbD_eq
    intro k hk
    cases hy : r.reservedNat.testBit k
    · simp [BitVec.getLsbD_ofNat, hy]
    · simp [BitVec.getLsbD_ofNat, hy, h k hy]

/-- A write of a field that its register's reserved bits leave alone keeps them 0. -/
theorem State.fset_fits_of {s : State} (f : Fld) (i v : Nat) (hm : f.mask &&& f.reg.reservedNat = 0) (z : s.ReservedZero) :
    f.reg.fits (BitVec.ofNat 64 (withBits (s.rget f.reg i).toNat f.lsb f.width v)) := by
  have hz := (Reg.fits_iff _ _).1 (z.fits f.reg i)
  rw [Reg.fits_iff]
  intro k hk
  rw [BitVec.getLsbD_ofNat, testBit_withBits]
  split
  · next hin =>
    have := congrArg (fun n => n.testBit k) hm
    simp [Fld.mask_bit f hin.1 hin.2, hk] at this
  · have := hz k hk
    simp only [BitVec.getLsbD] at this
    simp [this]

theorem State.fset_reserved {s : State} (f : Fld) (i v : Nat) (hm : f.mask &&& f.reg.reservedNat = 0) (z : s.ReservedZero) :
    (s.fset f i v).ReservedZero := by
  intro row hrow j
  rw [State.fset, State.rget_rset]
  split
  · next e =>
    have := State.fset_fits_of f i v hm z
    rw [Reg.fits] at this
    rw [reserved_eq row hrow, e.1]
    exact this
  · exact z row hrow j

/-- A write of a plain field leaves reserved bits 0. -/
theorem State.fset_fits {s : State} (f : Fld) (i v : Nat) (hf : f.plain = true) (z : s.ReservedZero) :
    f.reg.fits (BitVec.ofNat 64 (withBits (s.rget f.reg i).toNat f.lsb f.width v)) := by
  have hm : f.mask &&& f.reg.reservedNat = 0 := by
    have := (Bool.and_eq_true _ _ ▸ hf : (!f.reg.guarded) = true ∧ _).2
    simpa using this
  exact State.fset_fits_of f i v hm z

/-- A fused SVN that does not fall keeps all. -/
theorem State.raiseSvn_keeps {P : Prop} {a s : State} (h : Keeps P a s) (v : Nat) (hv : s.fget F.secSvnSvn 0 ≤ v) (hl : v < 64) :
    Keeps P a (s.fset F.secSvnSvn 0 v) := by
  have hg : ∀ q : Reg, q ≠ .secSvn → ∀ j, (s.fset F.secSvnSvn 0 v).rget q j = s.rget q j := fun q hq j =>
    State.rget_fset_reg s F.secSvnSvn 0 v j hq
  refine ⟨h.pending, fun p => (hg _ (by decide) 0).trans (h.lock p), ?_, fun z => State.fset_reserved _ _ _ rfl (h.reserved z),
    fun z => ?_, fun z => h.memories z⟩
  · rw [State.fget_fset_same _ _ _ _ (by decide)]
    refine Nat.le_trans h.svn (Nat.le_trans hv ?_)
    exact Nat.le_of_eq (Nat.mod_eq_of_lt hl).symm
  · intro q hq j
    have : q ≠ .secSvn := by
      simp only [fixedRegs, List.mem_cons, List.not_mem_nil, or_false] at hq
      rcases hq with rfl | rfl | rfl <;> decide
    exact (hg q this j).trans (h.fixed z q hq j)

/-- A write of the lock keeps the rest. -/
theorem State.setLock_keeps {P Q : Prop} {a s : State} (h : Keeps P a s) (v : Nat)
    (hq : Q → (s.fset F.glbPrivLockLock 0 v).rget .glbPrivLock 0 = a.rget .glbPrivLock 0) :
    Keeps Q a (s.fset F.glbPrivLockLock 0 v) := by
  have hg : ∀ q : Reg, q ≠ .glbPrivLock → ∀ j, (s.fset F.glbPrivLockLock 0 v).rget q j = s.rget q j := fun q hq j =>
    State.rget_fset_reg s F.glbPrivLockLock 0 v j hq
  refine ⟨h.pending, hq, ?_, fun z => State.fset_reserved _ _ _ rfl (h.reserved z), fun z => ?_, fun z => h.memories z⟩
  · have := h.svn
    simpa [State.fget, hg _ (by decide : F.secSvnSvn.reg ≠ .glbPrivLock)] using this
  · intro q hq j
    have : q ≠ .glbPrivLock := by
      simp only [fixedRegs, List.mem_cons, List.not_mem_nil, or_false] at hq
      rcases hq with rfl | rfl | rfl <;> decide
    exact (hg q this j).trans (h.fixed z q hq j)

/-- A lock that is set stays as it is when it is set again. -/
theorem State.setLock_set {s : State} (h : s.fget F.glbPrivLockLock 0 = 1) :
    (s.fset F.glbPrivLockLock 0 1).rget .glbPrivLock 0 = s.rget .glbPrivLock 0 := by
  have hw : (s.rget .glbPrivLock 0).toNat % 2 = 1 := by
    have : bitsOf (s.rget .glbPrivLock 0).toNat 0 1 = 1 := h
    simpa [bitsOf] using this
  rw [State.rget_fset, if_pos ⟨rfl, rfl⟩]
  show BitVec.ofNat 64 (withBits (s.rget .glbPrivLock 0).toNat 0 1 1) = _
  rw [withBits_eq]
  have : ((s.rget .glbPrivLock 0).toNat / 2 ^ (0 + 1) * 2 ^ 1 + 1 % 2 ^ 1) * 2 ^ 0 + (s.rget .glbPrivLock 0).toNat % 2 ^ 0 =
      (s.rget .glbPrivLock 0).toNat := by omega
  rw [this, BitVec.ofNat_toNat, BitVec.setWidth_eq]

/-- A write of a plain field keeps all. -/
theorem State.fset_keeps {P : Prop} {a s : State} (h : Keeps P a s) (f : Fld) (i v : Nat) (hf : f.plain = true) :
    Keeps P a (s.fset f i v) := by
  have hg : f.reg.guarded = false := by simpa using (Bool.and_eq_true _ _ ▸ hf : (!f.reg.guarded) = true ∧ _).1
  exact State.rset_keeps h f.reg i _ hg (fun z => State.fset_fits f i v hf (h.reserved z))

theorem State.bump_keeps {P : Prop} {a s : State} (h : Keeps P a s) (f : Fld) (i n : Nat) (hf : f.plain = true) :
    Keeps P a (s.bump f i n) := State.fset_keeps h f i _ hf

theorem State.dip_keeps {P : Prop} {a s : State} (h : Keeps P a s) (f : Fld) (i n : Nat) (hf : f.plain = true) :
    Keeps P a (s.dip f i n) := State.fset_keeps h f i _ hf

theorem State.bumpSat_keeps {P : Prop} {a s : State} (h : Keeps P a s) (f : Fld) (i n : Nat) (hf : f.plain = true) :
    Keeps P a (s.bumpSat f i n) := State.fset_keeps h f i _ hf

/-- Bytes written to a register without reserved bits keep all. -/
theorem State.rsetBytes_keeps {P : Prop} {a s : State} (h : Keeps P a s) (r : Reg) (base : Nat) (bs : List Byte)
    (hr : r.guarded = false) (hz : r.reservedNat = 0) : Keeps P a (s.rsetBytes r base bs) :=
  Keeps.foldl (fun _ _ k => State.rset_keeps k r _ _ hr (fun _ => by unfold Reg.fits; rw [hz]; simp)) _ h

/-! ## Parts of the state -/

/-- A host side with the same queue window. -/
theorem State.setHost_keeps {P : Prop} {a s : State} (h : Keeps P a s) (x : HostSide) (hx : x.window = s.host.window) :
    Keeps P a (s.setHost x) := h.parts (by simp [State.keptParts, State.setHost, hx])

/-- A depot with the same settled bytes. -/
theorem State.setDepot_keeps {P : Prop} {a s : State} (h : Keeps P a s) (d : Depot) (hd : d.base = s.depot.base) :
    Keeps P a (s.setDepot d) := h.parts (by simp [State.keptParts, State.setDepot, hd])

/-- A depot whose settled bytes are canonical if they were. -/
theorem State.setDepot_keeps_canonical {P : Prop} {a s : State} (h : Keeps P a s) (d : Depot)
    (hd : Memory.wf s.depot.base = true → Memory.wf d.base = true) : Keeps P a (s.setDepot d) :=
  ⟨h.pending, h.lock, h.svn, h.reserved, h.fixed, fun z => ⟨hd (h.memories z).1, (h.memories z).2⟩⟩

/-- What a station reads as is canonical. -/
theorem State.MemoriesCanonical.stn {s : State} (z : s.MemoriesCanonical) (n : Nat) : (s.stn n).Canonical := by
  rcases Tbl.look_mem {} s.stations n with h | ⟨e, he, h⟩
  · unfold State.stn
    rw [h]
    exact ⟨rfl, fun _ h => nomatch h⟩
  · unfold State.stn
    rw [← h]
    exact z.2.2 e he

/-- A station whose memories are canonical if they were. -/
theorem State.setStn_keeps {P : Prop} {a s : State} (h : Keeps P a s) (n : Nat) (x : Station)
    (hx : (s.stn n).Canonical → x.Canonical) : Keeps P a (s.setStn n x) :=
  ⟨h.pending, h.lock, h.svn, h.reserved, h.fixed, fun z => ⟨(h.memories z).1, (h.memories z).2.1, fun e he => by
    rcases Tbl.mem_put he with rfl | he
    · exact hx ((h.memories z).stn n)
    · exact (h.memories z).2.2 e he⟩⟩

/-- A lane row whose lane store is canonical if it was. -/
theorem State.setLane_keeps {P : Prop} {a s : State} (h : Keeps P a s) (st n : Nat) (x : Lane)
    (hx : Memory.wf (s.lane st n).store = true → Memory.wf x.store = true) : Keeps P a (s.setLane st n x) := by
  refine State.setStn_keeps h st _ (fun z => ⟨z.1, fun e he => ?_⟩)
  rcases Tbl.mem_put he with rfl | he
  · apply hx
    unfold State.lane
    rcases Tbl.look_mem {} (s.stn st).lanes n with g | ⟨e, ge, g⟩
    · rw [g]
      rfl
    · rw [← g]
      exact z.2 e ge
  · exact z.2 e he

/-- A station whose lane rows keep their lane stores, those that hold nothing left out. -/
theorem Station.Canonical.lanes_map {x y : Station} {f : Lane → Lane} {p : Nat × Lane → Bool} (z : x.Canonical)
    (hp : y.platform = x.platform) (hl : y.lanes = (x.lanes.map (fun e => (e.1, f e.2))).filter p)
    (hf : ∀ l, (f l).store = l.store) : y.Canonical := by
  refine ⟨hp ▸ z.1, fun e he => ?_⟩
  rw [hl] at he
  obtain ⟨e0, h0, rfl⟩ := List.mem_map.1 (List.mem_of_mem_filter he)
  show Memory.wf (f e0.2).store = true
  rw [hf]
  exact z.2 e0 h0

theorem State.setFreeCtr_keeps {P : Prop} {a s : State} (h : Keeps P a s) (n : Nat) : Keeps P a (s.setFreeCtr n) := h.parts rfl
theorem State.drawBool_keeps {P : Prop} {a s : State} (h : Keeps P a s) : Keeps P a s.drawBool.2 := h.parts rfl
theorem State.drawNat_keeps {P : Prop} {a s : State} (h : Keeps P a s) : Keeps P a s.drawNat.2 := h.parts rfl

theorem State.drawBytes_keeps {P : Prop} {a s : State} (h : Keeps P a s) (n : Nat) : Keeps P a (s.drawBytes n).2 := by
  induction n generalizing s with
  | zero => exact h
  | succ n ih => exact ih (State.setFreeCtr_keeps h _)

theorem State.setJob_keeps {P : Prop} {a s : State} (h : Keeps P a s) (j : Nat) (x : JobHold) : Keeps P a (s.setJob j x) := h.parts rfl
theorem State.setCmd_keeps {P : Prop} {a s : State} (h : Keeps P a s) (p : Nat) (c : Cmd) : Keeps P a (s.setCmd p c) := h.parts rfl
theorem State.setQcfg_keeps {P : Prop} {a s : State} (h : Keeps P a s) (q : Nat) (c : QueueCfg) : Keeps P a (s.setQcfg q c) := h.parts rfl
theorem State.setPage_keeps {P : Prop} {a s : State} (h : Keeps P a s) (p : Nat) (x : Page) : Keeps P a (s.setPage p x) := h.parts rfl
theorem State.setSlot_keeps {P : Prop} {a s : State} (h : Keeps P a s) (k : Nat) (x : SlotHold) : Keeps P a (s.setSlot k x) := h.parts rfl
theorem State.setMesh_keeps {P : Prop} {a s : State} (h : Keeps P a s) (m : Mesh) : Keeps P a (s.setMesh m) := h.parts rfl
theorem State.setLine_keeps {P : Prop} {a s : State} (h : Keeps P a s) (b : Nat) (x : Line) : Keeps P a (s.setLine b x) := h.parts rfl
theorem State.setMstep_keeps {P : Prop} {a s : State} (h : Keeps P a s) (n : Nat) (x : Step) : Keeps P a (s.setMstep n x) := h.parts rfl
theorem State.setJobs_keeps {P : Prop} {a s : State} (h : Keeps P a s) (js : Tbl JobHold) : Keeps P a (s.setJobs js) := h.parts rfl
theorem State.setFlash_keeps {P : Prop} {a s : State} (h : Keeps P a s) (x : Flash) : Keeps P a (s.setFlash x) := h.parts rfl
theorem State.setCfs_keeps {P : Prop} {a s : State} (h : Keeps P a s) (x : Cfs) : Keeps P a (s.setCfs x) := h.parts rfl
theorem State.setEcc_keeps {P : Prop} {a s : State} (h : Keeps P a s) (x : Ecc) : Keeps P a (s.setEcc x) := h.parts rfl
theorem State.setPower_keeps {P : Prop} {a s : State} (h : Keeps P a s) (x : Power) : Keeps P a (s.setPower x) := h.parts rfl
theorem State.setJunctions_keeps {P : Prop} {a s : State} (h : Keeps P a s) (x : Tbl Junction) : Keeps P a (s.setJunctions x) := h.parts rfl
theorem State.setBridges_keeps {P : Prop} {a s : State} (h : Keeps P a s) (x : Tbl Bridge) : Keeps P a (s.setBridges x) := h.parts rfl
theorem State.setTt_keeps {P : Prop} {a s : State} (h : Keeps P a s) (x : Timetables) : Keeps P a (s.setTt x) := h.parts rfl
theorem State.setSearch_keeps {P : Prop} {a s : State} (h : Keeps P a s) (x : Search) : Keeps P a (s.setSearch x) := h.parts rfl
theorem State.setScans_keeps {P : Prop} {a s : State} (h : Keeps P a s) (x : Scans) : Keeps P a (s.setScans x) := h.parts rfl
theorem State.setSecurity_keeps {P : Prop} {a s : State} (h : Keeps P a s) (x : Security) : Keeps P a (s.setSecurity x) := h.parts rfl
theorem State.setWalker_keeps {P : Prop} {a s : State} (h : Keeps P a s) (st c : Nat) (x : Walker) : Keeps P a (s.setWalker st c x) :=
  State.setStn_keeps h st _ id
theorem State.send_keeps {P : Prop} {a s : State} (h : Keeps P a s) (m : HostMsg) : Keeps P a (s.send m) := h.parts rfl
theorem State.sendData_keeps {P : Prop} {a s : State} (h : Keeps P a s) (x : Nat) (bs : List Byte) (ep : Bool) :
    Keeps P a (s.sendData x bs ep) := h.parts rfl
theorem State.setPhase_keeps {P : Prop} {a s : State} (h : Keeps P a s) (ph : Nat) : Keeps P a (s.setPhase ph) :=
  State.setPower_keeps (State.fset_keeps h _ _ _ rfl) _

end Sys2Proof.Machine
end

