-- ==== Sys2Proof/Laws/KeepsFlags.lean ====
section
/-! SUPPORT. What each operation of Machine/Flags.lean keeps (Laws/Keeps.lean). -/

set_option linter.unusedTactic false
set_option linter.unreachableTactic false

namespace Sys2Proof.Machine

theorem State.raiseMsix_keeps {P' : Prop} {o' : State} {s : State} (h : Keeps P' o' s) (v : Nat) :
    Keeps P' o' (State.raiseMsix s v) := by
  unfold State.raiseMsix
  repeat' (first
    | with_reducible assumption
    | with_reducible apply State.send_keeps
    | ((with_reducible refine State.setHost_keeps ?_ _ ?_); rotate_left; · exact rfl)
    | split)

theorem State.flag_keeps {P' : Prop} {o' s : State} (h : Keeps P' o' s) (f : Fld) (hf : f.plain = true) : Keeps P' o' (s.flag f) := by
  unfold State.flag
  split
  · exact h
  · have k := State.fset_keeps h f 0 1 hf
    extract_lets s1
    split
    · exact State.raiseMsix_keeps k _
    · exact k

theorem State.event_keeps {P' : Prop} {o' : State} {s : State} (h : Keeps P' o' s) (island code status arg0 arg1 : Nat) :
    Keeps P' o' (State.event s island code status arg0 arg1) := by
  unfold State.event
  repeat' (first
    | with_reducible assumption
    | with_reducible apply State.setCfs_keeps
    | ((first | intro v' | extract_lets -underBinder +onlyGivenNames v'); (first | (refine_lift have k' : Keeps P' o' v' := ?_; ?_; (on_goal 1 => try clear_value v'); (on_goal 2 => dsimp -zeta only [v'])) | (have k'' : v'.isSome = v'.isSome := rfl; clear k''; clear_value v') | skip))
    | split)

end Sys2Proof.Machine
end

