-- ==== Sys2Proof/Laws/KeepsQueue.lean ====
section
/-! SUPPORT. What each operation of Machine/Queue.lean keeps (Laws/Keeps.lean). -/

set_option linter.unusedTactic false
set_option linter.unreachableTactic false

namespace Sys2Proof.Machine

theorem State.countWait_keeps {P' : Prop} {o' : State} {s : State} (h : Keeps P' o' s) (q : Nat) :
    Keeps P' o' (State.countWait s q) := by
  unfold State.countWait
  repeat' (first
    | with_reducible assumption
    | with_reducible apply State.setQcfg_keeps
    | ((with_reducible refine State.bump_keeps ?_ _ _ _ ?_); rotate_left; · exact rfl)
    | split)

theorem State.countWaits_keeps {P' : Prop} {o' : State} {s : State} (h : Keeps P' o' s) :
    Keeps P' o' (State.countWaits s) := by
  unfold State.countWaits
  repeat' (first
    | with_reducible assumption
    | with_reducible apply State.countWait_keeps
    | ((with_reducible apply Keeps.foldl); intro s' x' h')
    | ((with_reducible apply Keeps.foldl_fst); intro s' x' h')
    | ((with_reducible apply Keeps.foldl_snd); intro s' x' h')
    | split)

theorem State.class0In_keeps {P' : Prop} {o' : State} {s : State} (h : Keeps P' o' s) :
    Keeps P' o' (State.class0In s) := by
  unfold State.class0In
  repeat' (first
    | with_reducible assumption
    | ((with_reducible refine State.fset_keeps ?_ _ _ _ ?_); rotate_left; · exact rfl)
    | ((with_reducible refine State.bump_keeps ?_ _ _ _ ?_); rotate_left; · exact rfl)
    | ((first | intro v' | extract_lets -underBinder +onlyGivenNames v'); (first | (refine_lift have k' : Keeps P' o' v' := ?_; ?_; (on_goal 1 => try clear_value v'); (on_goal 2 => dsimp -zeta only [v'])) | (have k'' : v'.isSome = v'.isSome := rfl; clear k''; clear_value v') | skip))
    | split)

theorem State.takeInto_keeps {P' : Prop} {o' : State} {s : State} (h : Keeps P' o' s) (q p : Nat) (a : Arb) :
    Keeps P' o' (State.takeInto s q p a) := by
  unfold State.takeInto
  repeat' (first
    | with_reducible assumption
    | with_reducible apply State.class0In_keeps
    | with_reducible apply State.setCmd_keeps
    | with_reducible apply State.setQcfg_keeps
    | ((with_reducible refine State.fset_keeps ?_ _ _ _ ?_); rotate_left; · exact rfl)
    | ((with_reducible refine State.bump_keeps ?_ _ _ _ ?_); rotate_left; · exact rfl)
    | ((with_reducible refine State.setHost_keeps ?_ _ ?_); rotate_left; · exact rfl)
    | ((first | intro v' | extract_lets -underBinder +onlyGivenNames v'); (first | (refine_lift have k' : Keeps P' o' v' := ?_; ?_; (on_goal 1 => try clear_value v'); (on_goal 2 => dsimp -zeta only [v'])) | (have k'' : v'.isSome = v'.isSome := rfl; clear k''; clear_value v') | skip))
    | split)

theorem State.onEntry_keeps {P' : Prop} {o' : State} {s : State} (h : Keeps P' o' s) (q : Nat) (own : List Byte → Bool) (run : Nat → List Byte → State → State) (h_run : ∀ y0 y1 y2, Keeps P' o' y2 → Keeps P' o' (run y0 y1 y2)) :
    Keeps P' o' (State.onEntry s q own run) := by
  unfold State.onEntry
  repeat' (first
    | with_reducible assumption
    | with_reducible apply h_run
    | with_reducible apply State.countWaits_keeps
    | with_reducible apply State.takeInto_keeps
    | split)

theorem State.cqInterrupt_keeps {P' : Prop} {o' : State} {s : State} (h : Keeps P' o' s) (cq cls : Nat) :
    Keeps P' o' (State.cqInterrupt s cq cls) := by
  unfold State.cqInterrupt
  repeat' (first
    | with_reducible assumption
    | with_reducible apply State.raiseMsix_keeps
    | with_reducible apply State.setQcfg_keeps
    | ((first | intro v' | extract_lets -underBinder +onlyGivenNames v'); (first | (refine_lift have k' : Keeps P' o' v' := ?_; ?_; (on_goal 1 => try clear_value v'); (on_goal 2 => dsimp -zeta only [v'])) | (have k'' : v'.isSome = v'.isSome := rfl; clear k''; clear_value v') | skip))
    | split)

theorem State.cqAdvance_keeps {P' : Prop} {o' : State} {s : State} (h : Keeps P' o' s) (cq : Nat) :
    Keeps P' o' (State.cqAdvance s cq) := by
  unfold State.cqAdvance
  repeat' (first
    | with_reducible assumption
    | ((with_reducible refine State.fset_keeps ?_ _ _ _ ?_); rotate_left; · exact rfl)
    | ((first | intro v' | extract_lets -underBinder +onlyGivenNames v'); (first | (refine_lift have k' : Keeps P' o' v' := ?_; ?_; (on_goal 1 => try clear_value v'); (on_goal 2 => dsimp -zeta only [v'])) | (have k'' : v'.isSome = v'.isSome := rfl; clear k''; clear_value v') | skip))
    | split)

theorem State.forgetPlace_keeps {P' : Prop} {o' : State} {s : State} (h : Keeps P' o' s) (p : Nat) :
    Keeps P' o' (State.forgetPlace s p) := by
  unfold State.forgetPlace
  repeat' (first
    | with_reducible assumption
    | with_reducible apply State.behind_keeps
    | with_reducible apply State.setCfs_keeps
    | with_reducible apply State.setEcc_keeps
    | with_reducible apply State.setJobs_keeps
    | with_reducible apply State.setMesh_keeps
    | with_reducible apply State.setPower_keeps
    | with_reducible apply State.setScans_keeps
    | with_reducible apply State.setSearch_keeps
    | with_reducible apply State.setTt_keeps
    | ((with_reducible apply Keeps.foldl); intro s' x' h')
    | ((with_reducible apply Keeps.foldl_fst); intro s' x' h')
    | ((with_reducible apply Keeps.foldl_snd); intro s' x' h')
    | ((with_reducible refine State.setDepot_keeps ?_ _ ?_); rotate_left; · exact rfl)
    | ((with_reducible show ∀ y' : State, Keeps P' o' y' → _); intro y' h')
    | ((with_reducible show ∀ (_ : _) (y' : State), Keeps P' o' y' → _); intro x' y' h')
    | ((with_reducible show ∀ (_ : _) (_ : _) (y' : State), Keeps P' o' y' → _); intro x' z' y' h')
    | ((first | intro v' | extract_lets -underBinder +onlyGivenNames v'); (first | (refine_lift have k' : Keeps P' o' v' := ?_; ?_; (on_goal 1 => try clear_value v'); (on_goal 2 => dsimp -zeta only [v'])) | (have k'' : v'.isSome = v'.isSome := rfl; clear k''; clear_value v') | skip))
    | split)

theorem State.closeChunk_keeps {P' : Prop} {o' : State} {s : State} (h : Keeps P' o' s) (e : List Byte) (st : Nat) (x : ScanCtx) (stopped : Bool) :
    Keeps P' o' (State.closeChunk s e st x stopped) := by
  unfold State.closeChunk
  repeat' (first
    | with_reducible assumption
    | with_reducible apply State.sendData_keeps
    | split)

theorem State.closeScans_keeps {P' : Prop} {o' : State} (st : Nat) (mine : ScanCtx → Bool) {s : State} (h : Keeps P' o' s) :
    Keeps P' o' (State.closeScans st mine s) := by
  unfold State.closeScans
  repeat' (first
    | with_reducible assumption
    | with_reducible apply State.closeChunk_keeps
    | ((with_reducible apply Keeps.foldl); intro s' x' h')
    | ((with_reducible apply Keeps.foldl_fst); intro s' x' h')
    | ((with_reducible apply Keeps.foldl_snd); intro s' x' h'))

theorem State.genStep_keeps {P' : Prop} {o' : State} {s : State} (h : Keeps P' o' s) (p : Nat) :
    Keeps P' o' (State.genStep s p) := by
  unfold State.genStep
  repeat' (first
    | with_reducible assumption
    | with_reducible apply State.setPage_keeps)

theorem State.endHold_keeps {P' : Prop} {o' : State} {s : State} (h : Keeps P' o' s) (ident p : Nat) :
    Keeps P' o' (State.endHold s ident p) := by
  unfold State.endHold
  repeat' (first
    | with_reducible assumption
    | with_reducible apply State.setPage_keeps
    | split)

theorem State.holdWrites_keeps {P' : Prop} {o' : State} {s : State} (h : Keeps P' o' s) (ident p : Nat) :
    Keeps P' o' (State.holdWrites s ident p) := by
  unfold State.holdWrites
  repeat' (first
    | with_reducible assumption
    | with_reducible apply State.setPage_keeps
    | ((with_reducible refine State.bump_keeps ?_ _ _ _ ?_); rotate_left; · exact rfl)
    | split)

theorem State.endWrite_keeps {P' : Prop} {o' : State} {s : State} (h : Keeps P' o' s) (ident p : Nat) :
    Keeps P' o' (State.endWrite s ident p) := by
  unfold State.endWrite
  repeat' (first
    | with_reducible assumption
    | with_reducible apply State.genStep_keeps
    | with_reducible apply State.setPage_keeps
    | split)

theorem State.endHolds_keeps {P' : Prop} {o' : State} {s : State} (h : Keeps P' o' s) (mine : Nat → Bool) :
    Keeps P' o' (State.endHolds s mine) := by
  unfold State.endHolds
  repeat' (first
    | with_reducible assumption
    | with_reducible apply State.endHold_keeps
    | ((with_reducible apply Keeps.foldl); intro s' x' h')
    | ((with_reducible apply Keeps.foldl_fst); intro s' x' h')
    | ((with_reducible apply Keeps.foldl_snd); intro s' x' h'))

theorem State.freeContexts_keeps {P' : Prop} {o' : State} {s : State} (h : Keeps P' o' s) (p : Nat) :
    Keeps P' o' (State.freeContexts s p) := by
  unfold State.freeContexts
  repeat' (first
    | with_reducible assumption
    | with_reducible apply State.closeScans_keeps
    | with_reducible apply State.endHolds_keeps
    | with_reducible apply State.forgetPlace_keeps
    | with_reducible apply State.setScans_keeps
    | with_reducible apply State.setSearch_keeps
    | ((with_reducible apply Keeps.foldl); intro s' x' h')
    | ((with_reducible apply Keeps.foldl_fst); intro s' x' h')
    | ((with_reducible apply Keeps.foldl_snd); intro s' x' h')
    | ((with_reducible refine State.dip_keeps ?_ _ _ _ ?_); rotate_left; · exact rfl)
    | ((with_reducible refine State.setStn_keeps ?_ _ _ ?_); rotate_left; · exact id)
    | ((first | intro v' | extract_lets -underBinder +onlyGivenNames v'); (first | (refine_lift have k' : Keeps P' o' v' := ?_; ?_; (on_goal 1 => try clear_value v'); (on_goal 2 => dsimp -zeta only [v'])) | (have k'' : v'.isSome = v'.isSome := rfl; clear k''; clear_value v') | skip))
    | split)

theorem State.postEntry_keeps {P' : Prop} {o' : State} {s0 : State} (h : Keeps P' o' s0) (p : Nat) :
    Keeps P' o' (State.postEntry s0 p) := by
  unfold State.postEntry
  repeat' (first
    | with_reducible assumption
    | with_reducible apply State.cqAdvance_keeps
    | with_reducible apply State.cqInterrupt_keeps
    | with_reducible apply State.freeContexts_keeps
    | with_reducible apply State.send_keeps
    | with_reducible apply State.setCmd_keeps
    | ((with_reducible refine State.bump_keeps ?_ _ _ _ ?_); rotate_left; · exact rfl)
    | ((with_reducible refine State.dip_keeps ?_ _ _ _ ?_); rotate_left; · exact rfl)
    | ((first | intro v' | extract_lets -underBinder +onlyGivenNames v'); (first | (refine_lift have k' : Keeps P' o' v' := ?_; ?_; (on_goal 1 => try clear_value v'); (on_goal 2 => dsimp -zeta only [v'])) | (have k'' : v'.isSome = v'.isSome := rfl; clear k''; clear_value v') | skip))
    | split)

theorem State.unwaitReset_keeps {P' : Prop} {o' : State} {s : State} (h : Keeps P' o' s) (p : Nat) :
    Keeps P' o' (State.unwaitReset s p) := by
  unfold State.unwaitReset
  repeat' (first
    | with_reducible assumption
    | with_reducible apply State.setQcfg_keeps
    | ((first | intro v' | extract_lets -underBinder +onlyGivenNames v'); (first | (refine_lift have k' : Keeps P' o' v' := ?_; ?_; (on_goal 1 => try clear_value v'); (on_goal 2 => dsimp -zeta only [v'])) | (have k'' : v'.isSome = v'.isSome := rfl; clear k''; clear_value v') | skip))
    | split)

theorem State.decideOnly_keeps {P' : Prop} {o' : State} {s : State} (h : Keeps P' o' s) (p status result : Nat) :
    Keeps P' o' (State.decideOnly s p status result) := by
  unfold State.decideOnly
  repeat' (first
    | with_reducible assumption
    | with_reducible apply State.postEntry_keeps
    | with_reducible apply State.setCmd_keeps
    | with_reducible apply State.unwaitReset_keeps
    | ((with_reducible refine State.bump_keeps ?_ _ _ _ ?_); rotate_left; · exact rfl)
    | ((with_reducible refine State.setHost_keeps ?_ _ ?_); rotate_left; · exact rfl)
    | ((first | intro v' | extract_lets -underBinder +onlyGivenNames v'); (first | (refine_lift have k' : Keeps P' o' v' := ?_; ?_; (on_goal 1 => try clear_value v'); (on_goal 2 => dsimp -zeta only [v'])) | (have k'' : v'.isSome = v'.isSome := rfl; clear k''; clear_value v') | skip))
    | split)

theorem State.deleteQueue_keeps {P' : Prop} {o' : State} {s : State} (h : Keeps P' o' s) (q : Nat) :
    Keeps P' o' (State.deleteQueue s q) := by
  unfold State.deleteQueue
  repeat' (first
    | with_reducible assumption
    | with_reducible apply State.setQcfg_keeps
    | ((with_reducible refine State.fset_keeps ?_ _ _ _ ?_); rotate_left; · exact rfl)
    | ((with_reducible refine State.rset_keeps ?_ _ _ _ ?_ (fun z => ?_)); rotate_left; · exact rfl)
    | exact Reg.fits_zero _
    | ((first | intro v' | extract_lets -underBinder +onlyGivenNames v'); (first | (refine_lift have k' : Keeps P' o' v' := ?_; ?_; (on_goal 1 => try clear_value v'); (on_goal 2 => dsimp -zeta only [v'])) | (have k'' : v'.isSome = v'.isSome := rfl; clear k''; clear_value v') | skip))
    | split)

theorem State.finishReset_keeps {P' : Prop} {o' : State} {s : State} (h : Keeps P' o' s) (q : Nat) :
    Keeps P' o' (State.finishReset s q) := by
  unfold State.finishReset
  repeat' (first
    | with_reducible assumption
    | with_reducible apply State.decideOnly_keeps
    | with_reducible apply State.deleteQueue_keeps
    | with_reducible apply State.setQcfg_keeps
    | ((with_reducible refine State.fset_keeps ?_ _ _ _ ?_); rotate_left; · exact rfl)
    | ((first | intro v' | extract_lets -underBinder +onlyGivenNames v'); (first | (refine_lift have k' : Keeps P' o' v' := ?_; ?_; (on_goal 1 => try clear_value v'); (on_goal 2 => dsimp -zeta only [v'])) | (have k'' : v'.isSome = v'.isSome := rfl; clear k''; clear_value v') | skip))
    | split
    | (clear_value *; split))

theorem State.adminReady_keeps {P' : Prop} {o' : State} {s : State} (h : Keeps P' o' s) :
    Keeps P' o' (State.adminReady s) := by
  unfold State.adminReady
  repeat' (first
    | with_reducible assumption
    | ((with_reducible refine State.fset_keeps ?_ _ _ _ ?_); rotate_left; · exact rfl))

theorem State.decide_keeps {P' : Prop} {o' : State} {s : State} (h : Keeps P' o' s) (p status result : Nat) :
    Keeps P' o' (State.decide s p status result) := by
  unfold State.decide
  repeat' (first
    | with_reducible assumption
    | with_reducible apply State.adminReady_keeps
    | with_reducible apply State.decideOnly_keeps
    | with_reducible apply State.finishReset_keeps
    | ((first | intro v' | extract_lets -underBinder +onlyGivenNames v'); (first | (refine_lift have k' : Keeps P' o' v' := ?_; ?_; (on_goal 1 => try clear_value v'); (on_goal 2 => dsimp -zeta only [v'])) | (have k'' : v'.isSome = v'.isSome := rfl; clear k''; clear_value v') | skip))
    | split)

theorem State.fail_keeps {P' : Prop} {o' : State} {s : State} (h : Keeps P' o' s) (p status : Nat) :
    Keeps P' o' (State.fail s p status) := by
  unfold State.fail
  repeat' (first
    | with_reducible assumption
    | with_reducible apply State.decide_keeps
    | split)

theorem State.finish_keeps {P' : Prop} {o' : State} {s : State} (h : Keeps P' o' s) (p status result : Nat) :
    Keeps P' o' (State.finish s p status result) := by
  unfold State.finish
  repeat' (first
    | with_reducible assumption
    | with_reducible apply State.setCmd_keeps
    | split)

theorem State.adminOnly_keeps {P' : Prop} {o' : State} (run : Nat → List Byte → State → State) (h_run : ∀ y0 y1 y2, Keeps P' o' y2 → Keeps P' o' (run y0 y1 y2)) (p : Nat) (e : List Byte) {s : State} (h : Keeps P' o' s) :
    Keeps P' o' (State.adminOnly run p e s) := by
  unfold State.adminOnly
  repeat' (first
    | with_reducible assumption
    | with_reducible apply h_run
    | with_reducible apply State.fail_keeps
    | split)

theorem State.behind_keeps {P' : Prop} {o' : State} (run : Nat → List Byte → State → State) (h_run : ∀ y0 y1 y2, Keeps P' o' y2 → Keeps P' o' (run y0 y1 y2)) (p : Nat) (e : List Byte) {s : State} (h : Keeps P' o' s) :
    Keeps P' o' (State.behind run p e s) := by
  unfold State.behind
  repeat' (first
    | with_reducible assumption
    | with_reducible apply h_run
    | with_reducible apply State.setPower_keeps
    | split)

end Sys2Proof.Machine
end

