-- ==== Sys2Proof/Laws/KeepsLock.lean ====
section
/-! SUPPORT. What each operation of Machine/Lock.lean keeps (Laws/Keeps.lean). -/

set_option linter.unusedTactic false
set_option linter.unreachableTactic false

namespace Sys2Proof.Machine

theorem State.refuseWrite_keeps {P' : Prop} {o' : State} {s : State} (h : Keeps P' o' s) (off : Nat) :
    Keeps P' o' (State.refuseWrite s off) := by
  unfold State.refuseWrite
  repeat' (first
    | with_reducible assumption
    | with_reducible apply State.event_keeps
    | ((with_reducible refine State.fset_keeps ?_ _ _ _ ?_); rotate_left; · exact rfl)
    | ((with_reducible refine State.bump_keeps ?_ _ _ _ ?_); rotate_left; · exact rfl)
    | ((with_reducible refine State.setHost_keeps ?_ _ ?_); rotate_left; · exact rfl)
    | ((first | intro v' | extract_lets -underBinder +onlyGivenNames v'); (first | (refine_lift have k' : Keeps P' o' v' := ?_; ?_; (on_goal 1 => try clear_value v'); (on_goal 2 => dsimp -zeta only [v'])) | (have k'' : v'.isSome = v'.isSome := rfl; clear k''; clear_value v') | skip))
    | split)

theorem State.dropHeld_keeps {P' : Prop} {o' : State} {s : State} (h : Keeps P' o' s) (off : Nat) :
    Keeps P' o' (State.dropHeld s off) := by
  unfold State.dropHeld
  repeat' (first
    | with_reducible assumption
    | ((with_reducible refine State.setHost_keeps ?_ _ ?_); rotate_left; · exact rfl)
    | split)

theorem State.openWrite_keeps {P' : Prop} {o' : State} {s : State} (h : Keeps P' o' s) (off : Nat) (run : State → State) (h_run : ∀ y0, Keeps P' o' y0 → Keeps P' o' (run y0)) :
    Keeps P' o' (State.openWrite s off run) := by
  unfold State.openWrite
  repeat' (first
    | with_reducible assumption
    | with_reducible apply h_run
    | with_reducible apply State.dropHeld_keeps
    | split)

theorem State.lockWrite_keeps {P' : Prop} {o' : State} {s : State} (h : Keeps P' o' s) (off : Nat) (run : State → State) (h_run : ∀ y0, Keeps P' o' y0 → Keeps P' o' (run y0)) :
    Keeps P' o' (State.lockWrite s off run) := by
  unfold State.lockWrite
  repeat' (first
    | with_reducible assumption
    | with_reducible apply h_run
    | with_reducible apply State.openWrite_keeps
    | with_reducible apply State.refuseWrite_keeps
    | ((with_reducible show ∀ y' : State, Keeps P' o' y' → _); intro y' h')
    | ((with_reducible show ∀ (_ : _) (y' : State), Keeps P' o' y' → _); intro x' y' h')
    | ((with_reducible show ∀ (_ : _) (_ : _) (y' : State), Keeps P' o' y' → _); intro x' z' y' h')
    | split)

theorem State.woWrite_keeps {P' : Prop} {o' : State} {s : State} (h : Keeps P' o' s) (off : Nat) (run : State → State) (h_run : ∀ y0, Keeps P' o' y0 → Keeps P' o' (run y0)) :
    Keeps P' o' (State.woWrite s off run) := by
  unfold State.woWrite
  repeat' (first
    | with_reducible assumption
    | with_reducible apply h_run
    | with_reducible apply State.openWrite_keeps
    | with_reducible apply State.refuseWrite_keeps
    | ((with_reducible show ∀ y' : State, Keeps P' o' y' → _); intro y' h')
    | ((with_reducible show ∀ (_ : _) (y' : State), Keeps P' o' y' → _); intro x' y' h')
    | ((with_reducible show ∀ (_ : _) (_ : _) (y' : State), Keeps P' o' y' → _); intro x' z' y' h')
    | split)

end Sys2Proof.Machine
end

