-- ==== Sys2Proof/Laws/KeepsJunctions.lean ====
section
/-! SUPPORT. What each operation of Machine/Junctions.lean keeps (Laws/Keeps.lean). -/

set_option linter.unusedTactic false
set_option linter.unreachableTactic false

namespace Sys2Proof.Machine





theorem State.setJunction_keeps {P' : Prop} {o' : State} {s : State} (h : Keeps P' o' s) (a b : Nat) (x : Junction) :
    Keeps P' o' (State.setJunction s a b x) := by
  unfold State.setJunction
  repeat' (first
    | with_reducible assumption
    | with_reducible apply State.setJunctions_keeps)

theorem State.setBridge_keeps {P' : Prop} {o' : State} {s : State} (h : Keeps P' o' s) (d e : Nat) (x : Bridge) :
    Keeps P' o' (State.setBridge s d e x) := by
  unfold State.setBridge
  repeat' (first
    | with_reducible assumption
    | with_reducible apply State.setBridges_keeps)

theorem State.offer_keeps {P' : Prop} {o' : State} {s : State} (h : Keeps P' o' s) (a b : Nat) (es : List JEntry) :
    Keeps P' o' (State.offer s a b es) := by
  unfold State.offer
  repeat' (first
    | with_reducible assumption
    | with_reducible apply State.setJunction_keeps)

theorem State.bridgeOffer_keeps {P' : Prop} {o' : State} {s : State} (h : Keeps P' o' s) (d e : Nat) (p : BPacket) :
    Keeps P' o' (State.bridgeOffer s d e p) := by
  unfold State.bridgeOffer
  repeat' (first
    | with_reducible assumption
    | with_reducible apply State.setBridge_keeps)

theorem State.goOn_keeps {P' : Prop} {o' : State} (at_ : Nat) {s : State} (h : Keeps P' o' s) (e : JEntry) :
    Keeps P' o' (State.goOn at_ s e) := by
  unfold State.goOn
  repeat' (first
    | with_reducible assumption
    | with_reducible apply State.bridgeOffer_keeps
    | with_reducible apply State.offer_keeps
    | ((first | intro v' | extract_lets -underBinder +onlyGivenNames v'); (first | (refine_lift have k' : Keeps P' o' v' := ?_; ?_; (on_goal 1 => try clear_value v'); (on_goal 2 => dsimp -zeta only [v'])) | (have k'' : v'.isSome = v'.isSome := rfl; clear k''; clear_value v') | skip))
    | split
    | (clear_value *; split))

theorem State.bridgeData_keeps {P' : Prop} {o' : State} {s : State} (h : Keeps P' o' s) (d e sender : Nat) (class0 : Bool) (bytes : Nat) :
    Keeps P' o' (State.bridgeData s d e sender class0 bytes) := by
  unfold State.bridgeData
  repeat' (first
    | with_reducible assumption
    | with_reducible apply State.bridgeOffer_keeps
    | ((with_reducible apply Keeps.foldl); intro s' x' h')
    | ((with_reducible apply Keeps.foldl_fst); intro s' x' h')
    | ((with_reducible apply Keeps.foldl_snd); intro s' x' h')
    | split)

theorem State.junctionTurn_keeps {P' : Prop} {o' : State} {s : State} (h : Keeps P' o' s) (key : Nat) :
    Keeps P' o' (State.junctionTurn s key) := by
  unfold State.junctionTurn
  repeat' (first
    | with_reducible assumption
    | with_reducible apply State.goOn_keeps
    | with_reducible apply State.setJunctions_keeps
    | ((first | intro v' | extract_lets -underBinder +onlyGivenNames v'); (first | (refine_lift have k' : Keeps P' o' v' := ?_; ?_; (on_goal 1 => try clear_value v'); (on_goal 2 => dsimp -zeta only [v'])) | (have k'' : v'.isSome = v'.isSome := rfl; clear k''; clear_value v') | skip))
    | split
    | (clear_value *; split))

theorem State.bridgeTurn_keeps {P' : Prop} {o' : State} {s : State} (h : Keeps P' o' s) (key : Nat) :
    Keeps P' o' (State.bridgeTurn s key) := by
  unfold State.bridgeTurn
  repeat' (first
    | with_reducible assumption
    | with_reducible apply State.goOn_keeps
    | with_reducible apply State.setBridges_keeps
    | ((with_reducible apply Keeps.foldl); intro s' x' h')
    | ((with_reducible apply Keeps.foldl_fst); intro s' x' h')
    | ((with_reducible apply Keeps.foldl_snd); intro s' x' h')
    | ((first | intro v' | extract_lets -underBinder +onlyGivenNames v'); (first | (refine_lift have k' : Keeps P' o' v' := ?_; ?_; (on_goal 1 => try clear_value v'); (on_goal 2 => dsimp -zeta only [v'])) | (have k'' : v'.isSome = v'.isSome := rfl; clear k''; clear_value v') | skip))
    | split
    | (clear_value *; split))

theorem State.traffic_keeps {P' : Prop} {o' : State} {s : State} (h : Keeps P' o' s) :
    Keeps P' o' (State.traffic s) := by
  unfold State.traffic
  repeat' (first
    | with_reducible assumption
    | with_reducible apply State.bridgeTurn_keeps
    | with_reducible apply State.junctionTurn_keeps
    | ((with_reducible apply Keeps.foldl); intro s' x' h')
    | ((with_reducible apply Keeps.foldl_fst); intro s' x' h')
    | ((with_reducible apply Keeps.foldl_snd); intro s' x' h')
    | ((first | intro v' | extract_lets -underBinder +onlyGivenNames v'); (first | (refine_lift have k' : Keeps P' o' v' := ?_; ?_; (on_goal 1 => try clear_value v'); (on_goal 2 => dsimp -zeta only [v'])) | (have k'' : v'.isSome = v'.isSome := rfl; clear k''; clear_value v') | skip))
    | split)

theorem State.deliver_keeps {P' : Prop} {o' : State} (mine : JEntry → Bool) (n : Nat) {s : State} (h : Keeps P' o' s) :
    Keeps P' o' (State.deliver mine n s) := by
  induction n generalizing s with
  | zero => exact h
  | succ n ih =>
    unfold State.deliver
    split
    · exact ih (State.traffic_keeps h)
    · exact h

theorem State.arrived_keeps {P' : Prop} {o' : State} {s : State} (h : Keeps P' o' s) (mine : JEntry → Bool) :
    Keeps P' o' (State.arrived s mine) := by
  unfold State.arrived
  repeat' (first
    | with_reducible assumption
    | with_reducible apply State.deliver_keeps)

theorem State.crossPacket_keeps {P' : Prop} {o' : State} {s : State} (h : Keeps P' o' s) (a b route credits : Nat) (bs : List Byte) :
    Keeps P' o' (State.crossPacket s a b route credits bs) := by
  unfold State.crossPacket
  repeat' (first
    | with_reducible assumption
    | with_reducible apply State.junctionTurn_keeps
    | with_reducible apply State.offer_keeps
    | ((with_reducible apply Keeps.foldl); intro s' x' h')
    | ((with_reducible apply Keeps.foldl_fst); intro s' x' h')
    | ((with_reducible apply Keeps.foldl_snd); intro s' x' h')
    | ((first | intro v' | extract_lets -underBinder +onlyGivenNames v'); (first | (refine_lift have k' : Keeps P' o' v' := ?_; ?_; (on_goal 1 => try clear_value v'); (on_goal 2 => dsimp -zeta only [v'])) | (have k'' : v'.isSome = v'.isSome := rfl; clear k''; clear_value v') | skip))
    | split)

end Sys2Proof.Machine
end

