-- ==== Sys2Proof/Laws/KeepsFlashMap.lean ====
section
/-! SUPPORT. What each operation of Machine/FlashMap.lean keeps (Laws/Keeps.lean). -/

set_option linter.unusedTactic false
set_option linter.unreachableTactic false

namespace Sys2Proof.Machine

theorem State.markWriting_keeps {P' : Prop} {o' : State} {s : State} (h : Keeps P' o' s) (lbas : List Nat) :
    Keeps P' o' (State.markWriting s lbas) := by
  unfold State.markWriting
  repeat' (first
    | with_reducible assumption
    | with_reducible apply State.setPage_keeps
    | ((with_reducible apply Keeps.foldl); intro s' x' h')
    | ((with_reducible apply Keeps.foldl_fst); intro s' x' h')
    | ((with_reducible apply Keeps.foldl_snd); intro s' x' h')
    | ((first | intro v' | extract_lets -underBinder +onlyGivenNames v'); (first | (refine_lift have k' : Keeps P' o' v' := ?_; ?_; (on_goal 1 => try clear_value v'); (on_goal 2 => dsimp -zeta only [v'])) | (have k'' : v'.isSome = v'.isSome := rfl; clear k''; clear_value v') | skip))
    | split)

theorem State.putSec_keeps {P' : Prop} {o' : State} {s : State} (h : Keeps P' o' s) (p : Nat) (x : Sec) :
    Keeps P' o' (State.putSec s p x) := by
  unfold State.putSec
  repeat' (first
    | with_reducible assumption
    | with_reducible apply State.setFlash_keeps)

theorem State.setLsec_keeps {P' : Prop} {o' : State} {s : State} (h : Keeps P' o' s) (l : Nat) (x : LSec) :
    Keeps P' o' (State.setLsec s l x) := by
  unfold State.setLsec
  repeat' (first
    | with_reducible assumption
    | with_reducible apply State.setFlash_keeps)

theorem State.setPunit_keeps {P' : Prop} {o' : State} {s : State} (h : Keeps P' o' s) (u : Nat) (x : PUnit) :
    Keeps P' o' (State.setPunit s u x) := by
  unfold State.setPunit
  repeat' (first
    | with_reducible assumption
    | with_reducible apply State.setFlash_keeps)

theorem State.setFread_keeps {P' : Prop} {o' : State} {s : State} (h : Keeps P' o' s) (i : Nat) (x : FRead) :
    Keeps P' o' (State.setFread s i x) := by
  unfold State.setFread
  repeat' (first
    | with_reducible assumption
    | with_reducible apply State.setFlash_keeps)

theorem State.setSecSt_keeps {P' : Prop} {o' : State} {s : State} (h : Keeps P' o' s) (p : Nat) (st : SecSt) :
    Keeps P' o' (State.setSecSt s p st) := by
  unfold State.setSecSt
  repeat' (first
    | with_reducible assumption
    | with_reducible apply State.putSec_keeps
    | ((with_reducible refine State.bump_keeps ?_ _ _ _ ?_); rotate_left; · exact rfl)
    | ((with_reducible refine State.dip_keeps ?_ _ _ _ ?_); rotate_left; · exact rfl)
    | ((first | intro v' | extract_lets -underBinder +onlyGivenNames v'); (first | (refine_lift have k' : Keeps P' o' v' := ?_; ?_; (on_goal 1 => try clear_value v'); (on_goal 2 => dsimp -zeta only [v'])) | (have k'' : v'.isSome = v'.isSome := rfl; clear k''; clear_value v') | skip))
    | split)

theorem State.journalRaw_keeps {P' : Prop} {o' : State} {s : State} (h : Keeps P' o' s) (type key : Nat) (body : List Byte) :
    Keeps P' o' (State.journalRaw s type key body) := by
  unfold State.journalRaw
  repeat' (first
    | with_reducible assumption
    | with_reducible apply State.journal_keeps
    | with_reducible apply State.setFlash_keeps
    | ((first | intro v' | extract_lets -underBinder +onlyGivenNames v'); (first | (refine_lift have k' : Keeps P' o' v' := ?_; ?_; (on_goal 1 => try clear_value v'); (on_goal 2 => dsimp -zeta only [v'])) | (have k'' : v'.isSome = v'.isSome := rfl; clear k''; clear_value v') | skip))
    | split)

theorem State.journalUnit_keeps {P' : Prop} {o' : State} {s : State} (h : Keeps P' o' s) (p : Nat) :
    Keeps P' o' (State.journalUnit s p) := by
  unfold State.journalUnit
  repeat' (first
    | with_reducible assumption
    | with_reducible apply State.setPunit_keeps)

theorem State.eraseSectors_keeps {P' : Prop} {o' : State} {s : State} (h : Keeps P' o' s) (n : Nat) :
    Keeps P' o' (State.eraseSectors s n) := by
  unfold State.eraseSectors
  repeat' (first
    | with_reducible assumption
    | with_reducible apply State.setCfs_keeps
    | ((first | intro v' | extract_lets -underBinder +onlyGivenNames v'); (first | (refine_lift have k' : Keeps P' o' v' := ?_; ?_; (on_goal 1 => try clear_value v'); (on_goal 2 => dsimp -zeta only [v'])) | (have k'' : v'.isSome = v'.isSome := rfl; clear k''; clear_value v') | skip))
    | split)

theorem State.askCheckpoint_keeps {P' : Prop} {o' : State} {s : State} (h : Keeps P' o' s) :
    Keeps P' o' (State.askCheckpoint s) := by
  unfold State.askCheckpoint
  repeat' (first
    | with_reducible assumption
    | with_reducible apply State.eraseSectors_keeps
    | with_reducible apply State.setCfs_keeps
    | with_reducible apply State.setFlash_keeps
    | split)

theorem State.retireRaw_keeps {P' : Prop} {o' : State} {s : State} (h : Keeps P' o' s) (p cause : Nat) :
    Keeps P' o' (State.retireRaw s p cause) := by
  unfold State.retireRaw
  repeat' (first
    | with_reducible assumption
    | ((with_reducible refine State.flag_keeps ?_ _ ?_); rotate_left; · exact rfl)
    | with_reducible apply State.journalRaw_keeps
    | with_reducible apply State.setSecSt_keeps
    | ((with_reducible apply Keeps.foldl); intro s' x' h')
    | ((with_reducible apply Keeps.foldl_fst); intro s' x' h')
    | ((with_reducible apply Keeps.foldl_snd); intro s' x' h')
    | ((with_reducible refine State.fset_keeps ?_ _ _ _ ?_); rotate_left; · exact rfl)
    | ((with_reducible refine State.bump_keeps ?_ _ _ _ ?_); rotate_left; · exact rfl)
    | ((with_reducible refine State.dip_keeps ?_ _ _ _ ?_); rotate_left; · exact rfl)
    | ((first | intro v' | extract_lets -underBinder +onlyGivenNames v'); (first | (refine_lift have k' : Keeps P' o' v' := ?_; ?_; (on_goal 1 => try clear_value v'); (on_goal 2 => dsimp -zeta only [v'])) | (have k'' : v'.isSome = v'.isSome := rfl; clear k''; clear_value v') | skip))
    | split)

theorem State.remapSlot_keeps {P' : Prop} {o' : State} {s : State} (h : Keeps P' o' s) (p k : Nat) :
    KeepsOpt P' o' (State.remapSlot s p k) := by
  unfold State.remapSlot
  repeat' (first
    | with_reducible assumption
    | with_reducible exact Keeps.opt_none
    | with_reducible apply Keeps.opt_some
    | with_reducible exact Keeps.opt1_none
    | with_reducible apply Keeps.opt1_some
    | with_reducible exact Keeps.opt2_none
    | with_reducible apply Keeps.opt2_some
    | (with_reducible apply Keeps.opt2_map; intro x''; with_reducible apply Keeps.foldl; intro s' x' h')
    | with_reducible apply State.journalRaw_keeps
    | with_reducible apply State.putSec_keeps
    | with_reducible apply State.retireRaw_keeps
    | ((with_reducible refine State.dip_keeps ?_ _ _ _ ?_); rotate_left; · exact rfl)
    | ((first | intro v' | extract_lets -underBinder +onlyGivenNames v'); (first | (refine_lift have k' : Keeps P' o' v' := ?_; ?_; (on_goal 1 => try clear_value v'); (on_goal 2 => dsimp -zeta only [v'])) | (have k'' : v'.isSome = v'.isSome := rfl; clear k''; clear_value v') | skip))
    | split
    | (clear_value *; split))

theorem State.remapAll_keeps {P' : Prop} {o' s : State} (h : Keeps P' o' s) (p : Nat) (ks : List Nat) :
    KeepsOpt P' o' (s.remapAll p ks) := by
  induction ks generalizing s with
  | nil => exact Keeps.opt_some h
  | cons k ks ih =>
    show KeepsOpt P' o' (match s.remapSlot p k with | none => none | some s1 => s1.remapAll p ks)
    split
    · exact Keeps.opt_none
    · next e => exact ih (Keeps.ofOpt (State.remapSlot_keeps h p k) e)

theorem State.allocAmong_keeps {P' : Prop} {o' : State} {s : State} (h : Keeps P' o' s) (cands : State → List Nat) (st : SecSt) (x0 : Nat) :
    KeepsOpt2 P' o' (State.allocAmong s cands st x0) := by
  induction x0 generalizing s cands st with
  | zero =>
    unfold State.allocAmong
    repeat' (first
      | with_reducible assumption
      | with_reducible exact Keeps.opt_none
      | with_reducible apply Keeps.opt_some
      | with_reducible exact Keeps.opt1_none
      | with_reducible apply Keeps.opt1_some
      | with_reducible exact Keeps.opt2_none
      | with_reducible apply Keeps.opt2_some
      | (with_reducible apply Keeps.opt2_map; intro x''; with_reducible apply Keeps.foldl; intro s' x' h')
      | with_reducible apply State.remapAll_keeps
      | with_reducible apply State.retireRaw_keeps
      | with_reducible apply State.setSecSt_keeps
      | (refine Keeps.ofOpt ?_ (by with_reducible assumption))
      | split)
  | succ n ih =>
    unfold State.allocAmong
    repeat' (first
      | with_reducible assumption
      | with_reducible apply ih
      | with_reducible exact Keeps.opt_none
      | with_reducible apply Keeps.opt_some
      | with_reducible exact Keeps.opt1_none
      | with_reducible apply Keeps.opt1_some
      | with_reducible exact Keeps.opt2_none
      | with_reducible apply Keeps.opt2_some
      | (with_reducible apply Keeps.opt2_map; intro x''; with_reducible apply Keeps.foldl; intro s' x' h')
      | with_reducible apply State.remapAll_keeps
      | with_reducible apply State.retireRaw_keeps
      | with_reducible apply State.setSecSt_keeps
      | (refine Keeps.ofOpt ?_ (by with_reducible assumption))
      | split)

theorem State.rollover_keeps {P' : Prop} {o' : State} {s : State} (h : Keeps P' o' s) :
    Keeps P' o' (State.rollover s) := by
  unfold State.rollover
  repeat' (first
    | with_reducible assumption
    | with_reducible apply State.allocAmong_keeps
    | with_reducible apply State.askCheckpoint_keeps
    | with_reducible apply State.journal_keeps
    | with_reducible apply State.journalRaw_keeps
    | with_reducible apply State.setFlash_keeps
    | with_reducible exact Keeps.opt2_none
    | with_reducible apply Keeps.opt2_some
    | (refine Keeps.ofOpt2 ?_ (by with_reducible assumption))
    | ((with_reducible show ∀ y' : State, Keeps P' o' y' → _); intro y' h')
    | ((with_reducible show ∀ (_ : _) (y' : State), Keeps P' o' y' → _); intro x' y' h')
    | ((with_reducible show ∀ (_ : _) (_ : _) (y' : State), Keeps P' o' y' → _); intro x' z' y' h')
    | ((first | intro v' | extract_lets -underBinder +onlyGivenNames v'); (first | (refine_lift have k' : Keeps P' o' v' := ?_; ?_; (on_goal 1 => try clear_value v'); (on_goal 2 => dsimp -zeta only [v'])) | (refine_lift have k' : Keeps P' o' v'.2 := ?_; ?_; (on_goal 1 => try clear_value v'); (on_goal 2 => dsimp -zeta only [v'])) | (have k'' : v'.isSome = v'.isSome := rfl; clear k''; clear_value v') | skip))
    | split
    | (clear_value *; split))

theorem State.journalDrain_keeps {P' : Prop} {o' : State} {s : State} (h : Keeps P' o' s) :
    Keeps P' o' (State.journalDrain s) := by
  unfold State.journalDrain
  repeat' (first
    | with_reducible assumption
    | with_reducible apply State.journalUnit_keeps
    | with_reducible apply State.rollover_keeps
    | with_reducible apply State.setFlash_keeps
    | ((with_reducible apply Keeps.foldl); intro s' x' h')
    | ((with_reducible apply Keeps.foldl_fst); intro s' x' h')
    | ((with_reducible apply Keeps.foldl_snd); intro s' x' h')
    | ((first | intro v' | extract_lets -underBinder +onlyGivenNames v'); (first | (refine_lift have k' : Keeps P' o' v' := ?_; ?_; (on_goal 1 => try clear_value v'); (on_goal 2 => dsimp -zeta only [v'])) | (have k'' : v'.isSome = v'.isSome := rfl; clear k''; clear_value v') | skip))
    | split)

theorem State.journal_keeps {P' : Prop} {o' : State} {s : State} (h : Keeps P' o' s) (type key : Nat) (body : List Byte) :
    Keeps P' o' (State.journal s type key body) := by
  unfold State.journal
  repeat' (first
    | with_reducible assumption
    | with_reducible apply State.journalDrain_keeps
    | with_reducible apply State.journalRaw_keeps)

theorem State.retireSec_keeps {P' : Prop} {o' : State} {s : State} (h : Keeps P' o' s) (p cause : Nat) :
    Keeps P' o' (State.retireSec s p cause) := by
  unfold State.retireSec
  repeat' (first
    | with_reducible assumption
    | with_reducible apply State.journalDrain_keeps
    | with_reducible apply State.retireRaw_keeps)

theorem State.growBad_keeps {P' : Prop} {o' : State} {s : State} (h : Keeps P' o' s) (p k cause : Nat) :
    Keeps P' o' (State.growBad s p k cause) := by
  unfold State.growBad
  repeat' (first
    | with_reducible assumption
    | with_reducible apply State.journal_keeps
    | with_reducible apply State.putSec_keeps
    | ((with_reducible refine State.bump_keeps ?_ _ _ _ ?_); rotate_left; · exact rfl)
    | ((first | intro v' | extract_lets -underBinder +onlyGivenNames v'); (first | (refine_lift have k' : Keeps P' o' v' := ?_; ?_; (on_goal 1 => try clear_value v'); (on_goal 2 => dsimp -zeta only [v'])) | (have k'' : v'.isSome = v'.isSome := rfl; clear k''; clear_value v') | skip))
    | split)

theorem State.allocSec_keeps {P' : Prop} {o' : State} {s : State} (h : Keeps P' o' s) (l : Nat) (st : SecSt) (fuel : Nat) :
    KeepsOpt2 P' o' (State.allocSec s l st fuel) := by
  unfold State.allocSec
  repeat' (first
    | with_reducible assumption
    | with_reducible exact Keeps.opt_none
    | with_reducible apply Keeps.opt_some
    | with_reducible exact Keeps.opt1_none
    | with_reducible apply Keeps.opt1_some
    | with_reducible exact Keeps.opt2_none
    | with_reducible apply Keeps.opt2_some
    | (with_reducible apply Keeps.opt2_map; intro x''; with_reducible apply Keeps.foldl; intro s' x' h')
    | with_reducible apply State.allocAmong_keeps
    | with_reducible apply State.journalDrain_keeps
    | with_reducible apply State.putSec_keeps
    | (refine Keeps.ofOpt2 ?_ (by with_reducible assumption))
    | ((with_reducible show ∀ y' : State, Keeps P' o' y' → _); intro y' h')
    | ((with_reducible show ∀ (_ : _) (y' : State), Keeps P' o' y' → _); intro x' y' h')
    | ((with_reducible show ∀ (_ : _) (_ : _) (y' : State), Keeps P' o' y' → _); intro x' z' y' h')
    | split)

theorem State.mergeInto_keeps {P' : Prop} {o' : State} {s : State} (h : Keeps P' o' s) (l p : Nat) (relocating : Bool) :
    Keeps P' o' (State.mergeInto s l p relocating) := by
  unfold State.mergeInto
  repeat' (first
    | with_reducible assumption
    | with_reducible apply State.setLsec_keeps
    | with_reducible apply State.setPunit_keeps
    | ((first | intro v' | extract_lets -underBinder +onlyGivenNames v'); (first | (refine_lift have k' : Keeps P' o' v' := ?_; ?_; (on_goal 1 => try clear_value v'); (on_goal 2 => dsimp -zeta only [v'])) | (have k'' : v'.isSome = v'.isSome := rfl; clear k''; clear_value v') | skip))
    | split)

theorem State.startMerge_keeps {P' : Prop} {o' : State} {s : State} (h : Keeps P' o' s) (l : Nat) (relocating : Bool) :
    Keeps P' o' (State.startMerge s l relocating) := by
  unfold State.startMerge
  repeat' (first
    | with_reducible assumption
    | with_reducible apply State.allocSec_keeps
    | with_reducible apply State.mergeInto_keeps
    | with_reducible exact Keeps.opt2_none
    | with_reducible apply Keeps.opt2_some
    | (refine Keeps.ofOpt2 ?_ (by with_reducible assumption))
    | split)

theorem State.checkpointOn_keeps {P' : Prop} {o' : State} {s : State} (h : Keeps P' o' s) :
    Keeps P' o' (State.checkpointOn s) := by
  unfold State.checkpointOn
  repeat' (first
    | with_reducible assumption
    | with_reducible apply State.askCheckpoint_keeps
    | with_reducible apply State.setFlash_keeps
    | with_reducible apply State.startMerge_keeps
    | split)

theorem State.beginInOrder_keeps {P' : Prop} {o' : State} {s : State} (h : Keeps P' o' s) (p l u : Nat) (x0 : Nat) :
    Keeps P' o' (State.beginInOrder s p l u x0) := by
  induction x0 generalizing s p l u with
  | zero =>
    unfold State.beginInOrder
    repeat' (first
      | with_reducible assumption
      | with_reducible apply State.markWriting_keeps
      | with_reducible apply State.setPunit_keeps
      | ((first | intro v' | extract_lets -underBinder +onlyGivenNames v'); (first | (refine_lift have k' : Keeps P' o' v' := ?_; ?_; (on_goal 1 => try clear_value v'); (on_goal 2 => dsimp -zeta only [v'])) | (have k'' : v'.isSome = v'.isSome := rfl; clear k''; clear_value v') | skip))
      | split
      | (clear_value *; split))
  | succ n ih =>
    unfold State.beginInOrder
    repeat' (first
      | with_reducible assumption
      | with_reducible apply ih
      | with_reducible apply State.markWriting_keeps
      | with_reducible apply State.setPunit_keeps
      | ((first | intro v' | extract_lets -underBinder +onlyGivenNames v'); (first | (refine_lift have k' : Keeps P' o' v' := ?_; ?_; (on_goal 1 => try clear_value v'); (on_goal 2 => dsimp -zeta only [v'])) | (have k'' : v'.isSome = v'.isSome := rfl; clear k''; clear_value v') | skip))
      | split
      | (clear_value *; split))

theorem State.beginUnit_keeps {P' : Prop} {o' : State} {s : State} (h : Keeps P' o' s) (i : Nat) :
    Keeps P' o' (State.beginUnit s i) := by
  unfold State.beginUnit
  repeat' (first
    | with_reducible assumption
    | with_reducible apply State.beginInOrder_keeps
    | with_reducible apply State.setPunit_keeps
    | ((first | intro v' | extract_lets -underBinder +onlyGivenNames v'); (first | (refine_lift have k' : Keeps P' o' v' := ?_; ?_; (on_goal 1 => try clear_value v'); (on_goal 2 => dsimp -zeta only [v'])) | (have k'' : v'.isSome = v'.isSome := rfl; clear k''; clear_value v') | skip))
    | split)

theorem State.reclaimLog_keeps {P' : Prop} {o' : State} {s : State} (h : Keeps P' o' s) :
    Keeps P' o' (State.reclaimLog s) := by
  unfold State.reclaimLog
  repeat' (first
    | with_reducible assumption
    | with_reducible apply State.beginInOrder_keeps
    | with_reducible apply State.startMerge_keeps
    | split)

theorem State.openLog_keeps {P' : Prop} {o' : State} {s : State} (h : Keeps P' o' s) (l : Nat) (inOrder : Bool) :
    Keeps P' o' (State.openLog s l inOrder) := by
  unfold State.openLog
  repeat' (first
    | with_reducible assumption
    | with_reducible apply State.allocSec_keeps
    | with_reducible apply State.journal_keeps
    | with_reducible apply State.putSec_keeps
    | with_reducible apply State.reclaimLog_keeps
    | with_reducible apply State.setLsec_keeps
    | with_reducible exact Keeps.opt2_none
    | with_reducible apply Keeps.opt2_some
    | (refine Keeps.ofOpt2 ?_ (by with_reducible assumption))
    | ((first | intro v' | extract_lets -underBinder +onlyGivenNames v'); (first | (refine_lift have k' : Keeps P' o' v' := ?_; ?_; (on_goal 1 => try clear_value v'); (on_goal 2 => dsimp -zeta only [v'])) | (refine_lift have k' : Keeps P' o' v'.2 := ?_; ?_; (on_goal 1 => try clear_value v'); (on_goal 2 => dsimp -zeta only [v'])) | (have k'' : v'.isSome = v'.isSome := rfl; clear k''; clear_value v') | skip))
    | split
    | (clear_value *; split))

theorem State.stageScatter_keeps {P' : Prop} {o' : State} {s : State} (h : Keeps P' o' s) (l : Nat) (lbas : List Nat) :
    Keeps P' o' (State.stageScatter s l lbas) := by
  unfold State.stageScatter
  repeat' (first
    | with_reducible assumption
    | with_reducible apply State.beginUnit_keeps
    | with_reducible apply State.openLog_keeps
    | with_reducible apply State.setPunit_keeps
    | with_reducible apply State.startMerge_keeps
    | ((with_reducible apply Keeps.foldl); intro s' x' h')
    | ((with_reducible apply Keeps.foldl_fst); intro s' x' h')
    | ((with_reducible apply Keeps.foldl_snd); intro s' x' h')
    | ((first | intro v' | extract_lets -underBinder +onlyGivenNames v'); (first | (refine_lift have k' : Keeps P' o' v' := ?_; ?_; (on_goal 1 => try clear_value v'); (on_goal 2 => dsimp -zeta only [v'])) | (have k'' : v'.isSome = v'.isSome := rfl; clear k''; clear_value v') | skip))
    | split
    | (clear_value *; split))

theorem State.stageInOrder_keeps {P' : Prop} {o' : State} {s : State} (h : Keeps P' o' s) (l p lba : Nat) :
    Keeps P' o' (State.stageInOrder s l p lba) := by
  unfold State.stageInOrder
  repeat' (first
    | with_reducible assumption
    | with_reducible apply State.beginUnit_keeps
    | with_reducible apply State.setPunit_keeps
    | ((first | intro v' | extract_lets -underBinder +onlyGivenNames v'); (first | (refine_lift have k' : Keeps P' o' v' := ?_; ?_; (on_goal 1 => try clear_value v'); (on_goal 2 => dsimp -zeta only [v'])) | (have k'' : v'.isSome = v'.isSome := rfl; clear k''; clear_value v') | skip))
    | split
    | (clear_value *; split))

theorem State.stageGroup_keeps {P' : Prop} {o' : State} {s : State} (h : Keeps P' o' s) (lbas : List Nat) :
    Keeps P' o' (State.stageGroup s lbas) := by
  unfold State.stageGroup
  repeat' (first
    | with_reducible assumption
    | with_reducible apply State.stageInOrder_keeps
    | with_reducible apply State.stageScatter_keeps
    | ((with_reducible apply Keeps.foldl); intro s' x' h')
    | ((with_reducible apply Keeps.foldl_fst); intro s' x' h')
    | ((with_reducible apply Keeps.foldl_snd); intro s' x' h')
    | ((first | intro v' | extract_lets -underBinder +onlyGivenNames v'); (first | (refine_lift have k' : Keeps P' o' v' := ?_; ?_; (on_goal 1 => try clear_value v'); (on_goal 2 => dsimp -zeta only [v'])) | (have k'' : v'.isSome = v'.isSome := rfl; clear k''; clear_value v') | skip))
    | split
    | (clear_value *; split))

theorem State.queueReads_keeps {P' : Prop} {o' : State} {s : State} (h : Keeps P' o' s) (why : ReadWhy) (lbas : List Nat) :
    Keeps P' o' (State.queueReads s why lbas) := by
  unfold State.queueReads
  repeat' (first
    | with_reducible assumption
    | with_reducible apply State.setFread_keeps
    | ((with_reducible apply Keeps.foldl); intro s' x' h')
    | ((with_reducible apply Keeps.foldl_fst); intro s' x' h')
    | ((with_reducible apply Keeps.foldl_snd); intro s' x' h')
    | ((first | intro v' | extract_lets -underBinder +onlyGivenNames v'); (first | (refine_lift have k' : Keeps P' o' v' := ?_; ?_; (on_goal 1 => try clear_value v'); (on_goal 2 => dsimp -zeta only [v'])) | (have k'' : v'.isSome = v'.isSome := rfl; clear k''; clear_value v') | skip))
    | split)

theorem State.queueErase_keeps {P' : Prop} {o' : State} {s : State} (h : Keeps P' o' s) (ps : List Nat) :
    Keeps P' o' (State.queueErase s ps) := by
  unfold State.queueErase
  repeat' (first
    | with_reducible assumption
    | with_reducible apply State.setFlash_keeps)

end Sys2Proof.Machine
end

