-- ==== Sys2Proof/Laws/KeepsTier.lean ====
section
/-! SUPPORT. What each operation of Machine/Tier.lean keeps (Laws/Keeps.lean). -/

set_option linter.unusedTactic false
set_option linter.unreachableTactic false

namespace Sys2Proof.Machine

/-- Zeroing a range keeps the canonical form. -/
theorem Memory.wf_clear {m : Memory} (a n : Nat) (h : Memory.wf m = true) : Memory.wf (m.clear a n) = true := Tbl.wf_filter _ h

/-- Folding settled layers in keeps the canonical form. -/
theorem foldLayers_wf {m : Memory} (ls : List Layer) (h : Memory.wf m = true) : Memory.wf (foldLayers m ls).1 = true := by
  induction ls generalizing m with
  | nil => exact h
  | cons l ls ih =>
    unfold foldLayers
    split
    · exact ih (Memory.wf_write _ _ h)
    · exact h

theorem State.foldDepot_keeps {P' : Prop} {o' s : State} (h : Keeps P' o' s) : Keeps P' o' s.foldDepot :=
  State.setDepot_keeps_canonical h _ (fun z => foldLayers_wf _ z)

theorem State.writtenAgain_keeps {P' : Prop} {o' : State} {s : State} (h : Keeps P' o' s) (p m : Nat) :
    Keeps P' o' (State.writtenAgain s p m) := by
  unfold State.writtenAgain
  repeat' (first
    | with_reducible assumption
    | with_reducible apply State.setPage_keeps
    | split)

theorem State.settle_keeps {P' : Prop} {o' : State} {s : State} (h : Keeps P' o' s) (place : Nat) :
    Keeps P' o' (State.settle s place) := by
  unfold State.settle
  repeat' (first
    | with_reducible assumption
    | with_reducible apply State.foldDepot_keeps
    | with_reducible apply State.writtenAgain_keeps
    | ((with_reducible apply Keeps.foldl); intro s' x' h')
    | ((with_reducible apply Keeps.foldl_fst); intro s' x' h')
    | ((with_reducible apply Keeps.foldl_snd); intro s' x' h')
    | ((with_reducible refine State.setDepot_keeps ?_ _ ?_); rotate_left; · exact rfl)
    | ((first | intro v' | extract_lets -underBinder +onlyGivenNames v'); (first | (refine_lift have k' : Keeps P' o' v' := ?_; ?_; (on_goal 1 => try clear_value v'); (on_goal 2 => dsimp -zeta only [v'])) | (have k'' : v'.isSome = v'.isSome := rfl; clear k''; clear_value v') | skip))
    | split)

theorem State.layOver_keeps {P' : Prop} {o' : State} {s : State} (h : Keeps P' o' s) (owner : Option Nat) (a : Nat) (bs : List Byte) :
    Keeps P' o' (State.layOver s owner a bs) := by
  unfold State.layOver
  repeat' (first
    | with_reducible assumption
    | with_reducible apply State.foldDepot_keeps
    | ((with_reducible refine State.setDepot_keeps ?_ _ ?_); rotate_left; · exact rfl))

theorem State.tierLookup_keeps {P' : Prop} {o' : State} {s : State} (h : Keeps P' o' s) (p : Nat) :
    Keeps P' o' (State.tierLookup s p) := by
  unfold State.tierLookup
  repeat' (first
    | with_reducible assumption
    | ((with_reducible refine State.bump_keeps ?_ _ _ _ ?_); rotate_left; · exact rfl)
    | ((with_reducible refine State.setDepot_keeps ?_ _ ?_); rotate_left; · exact rfl)
    | ((first | intro v' | extract_lets -underBinder +onlyGivenNames v'); (first | (refine_lift have k' : Keeps P' o' v' := ?_; ?_; (on_goal 1 => try clear_value v'); (on_goal 2 => dsimp -zeta only [v'])) | (have k'' : v'.isSome = v'.isSome := rfl; clear k''; clear_value v') | skip))
    | split)

theorem State.dropLines_keeps {P' : Prop} {o' : State} (p : Nat) {s : State} (h : Keeps P' o' s) (d : Nat) :
    Keeps P' o' (State.dropLines p s d) := by
  unfold State.dropLines
  repeat' (first
    | with_reducible assumption
    | ((with_reducible refine State.bump_keeps ?_ _ _ _ ?_); rotate_left; · exact rfl)
    | ((with_reducible refine State.setDepot_keeps ?_ _ ?_); rotate_left; · exact rfl)
    | ((first | intro v' | extract_lets -underBinder +onlyGivenNames v'); (first | (refine_lift have k' : Keeps P' o' v' := ?_; ?_; (on_goal 1 => try clear_value v'); (on_goal 2 => dsimp -zeta only [v'])) | (have k'' : v'.isSome = v'.isSome := rfl; clear k''; clear_value v') | skip))
    | split)

theorem State.invalidateLines_keeps {P' : Prop} {o' : State} {s : State} (h : Keeps P' o' s) (p : Nat) :
    Keeps P' o' (State.invalidateLines s p) := by
  unfold State.invalidateLines
  repeat' (first
    | with_reducible assumption
    | with_reducible apply State.dropLines_keeps
    | ((with_reducible apply Keeps.foldl); intro s' x' h')
    | ((with_reducible apply Keeps.foldl_fst); intro s' x' h')
    | ((with_reducible apply Keeps.foldl_snd); intro s' x' h'))

theorem State.takeFrame_keeps {P' : Prop} {o' : State} {s : State} (h : Keeps P' o' s) (n : Nat) :
    Keeps P' o' (State.takeFrame s n) := by
  unfold State.takeFrame
  repeat' (first
    | with_reducible assumption
    | ((with_reducible refine State.dip_keeps ?_ _ _ _ ?_); rotate_left; · exact rfl))

theorem State.freeFrame_keeps {P' : Prop} {o' : State} {s : State} (h : Keeps P' o' s) (n : Nat) :
    Keeps P' o' (State.freeFrame s n) := by
  unfold State.freeFrame
  repeat' (first
    | with_reducible assumption
    | ((with_reducible refine State.bump_keeps ?_ _ _ _ ?_); rotate_left; · exact rfl))

theorem State.touch_keeps {P' : Prop} {o' : State} {s : State} (h : Keeps P' o' s) (p : Nat) :
    Keeps P' o' (State.touch s p) := by
  unfold State.touch
  repeat' (first
    | with_reducible assumption
    | ((with_reducible refine State.setDepot_keeps ?_ _ ?_); rotate_left; · exact rfl))

theorem State.dropFrame_keeps {P' : Prop} {o' : State} {s : State} (h : Keeps P' o' s) (p : Nat) :
    Keeps P' o' (State.dropFrame s p) := by
  unfold State.dropFrame
  repeat' (first
    | with_reducible assumption
    | with_reducible apply State.freeFrame_keeps
    | with_reducible apply State.setPage_keeps
    | ((with_reducible refine State.setDepot_keeps ?_ _ ?_); rotate_left; · exact rfl)
    | ((first | intro v' | extract_lets -underBinder +onlyGivenNames v'); (first | (refine_lift have k' : Keeps P' o' v' := ?_; ?_; (on_goal 1 => try clear_value v'); (on_goal 2 => dsimp -zeta only [v'])) | (have k'' : v'.isSome = v'.isSome := rfl; clear k''; clear_value v') | skip))
    | split)

theorem State.handOver_keeps {P' : Prop} {o' : State} {s : State} (h : Keeps P' o' s) (lbas : List Nat) :
    Keeps P' o' (State.handOver s lbas) := by
  unfold State.handOver
  repeat' (first
    | with_reducible assumption
    | with_reducible apply State.markWriting_keeps
    | with_reducible apply State.setFlash_keeps
    | with_reducible apply State.stageGroup_keeps
    | ((first | intro v' | extract_lets -underBinder +onlyGivenNames v'); (first | (refine_lift have k' : Keeps P' o' v' := ?_; ?_; (on_goal 1 => try clear_value v'); (on_goal 2 => dsimp -zeta only [v'])) | (have k'' : v'.isSome = v'.isSome := rfl; clear k''; clear_value v') | skip))
    | split)

theorem State.handOverLba_keeps {P' : Prop} {o' : State} {s : State} (h : Keeps P' o' s) (b : Nat) :
    Keeps P' o' (State.handOverLba s b) := by
  unfold State.handOverLba
  repeat' (first
    | with_reducible assumption
    | with_reducible apply State.handOver_keeps
    | ((with_reducible refine State.setDepot_keeps ?_ _ ?_); rotate_left; · exact rfl)
    | ((first | intro v' | extract_lets -underBinder +onlyGivenNames v'); (first | (refine_lift have k' : Keeps P' o' v' := ?_; ?_; (on_goal 1 => try clear_value v'); (on_goal 2 => dsimp -zeta only [v'])) | (have k'' : v'.isSome = v'.isSome := rfl; clear k''; clear_value v') | skip))
    | split
    | (clear_value *; split))

theorem State.startWriteBack_keeps {P' : Prop} {o' : State} {s : State} (h : Keeps P' o' s) (p : Nat) :
    Keeps P' o' (State.startWriteBack s p) := by
  unfold State.startWriteBack
  repeat' (first
    | with_reducible assumption
    | with_reducible apply State.handOverLba_keeps
    | with_reducible apply State.openLog_keeps
    | ((with_reducible apply Keeps.foldl); intro s' x' h')
    | ((with_reducible apply Keeps.foldl_fst); intro s' x' h')
    | ((with_reducible apply Keeps.foldl_snd); intro s' x' h')
    | ((with_reducible refine State.bump_keeps ?_ _ _ _ ?_); rotate_left; · exact rfl)
    | ((first | intro v' | extract_lets -underBinder +onlyGivenNames v'); (first | (refine_lift have k' : Keeps P' o' v' := ?_; ?_; (on_goal 1 => try clear_value v'); (on_goal 2 => dsimp -zeta only [v'])) | (have k'' : v'.isSome = v'.isSome := rfl; clear k''; clear_value v') | skip))
    | split)

theorem State.evictPage_keeps {P' : Prop} {o' : State} (n : Nat) {s : State} (h : Keeps P' o' s) (p : Nat) :
    Keeps P' o' (State.evictPage n s p) := by
  unfold State.evictPage
  repeat' (first
    | with_reducible assumption
    | with_reducible apply State.dropFrame_keeps
    | with_reducible apply State.startWriteBack_keeps
    | ((with_reducible refine State.bump_keeps ?_ _ _ _ ?_); rotate_left; · exact rfl)
    | split)

theorem State.evict_keeps {P' : Prop} {o' : State} {s : State} (h : Keeps P' o' s) (n : Nat) :
    Keeps P' o' (State.evict s n) := by
  unfold State.evict
  repeat' (first
    | with_reducible assumption
    | with_reducible apply State.evictPage_keeps
    | ((with_reducible apply Keeps.foldl); intro s' x' h')
    | ((with_reducible apply Keeps.foldl_fst); intro s' x' h')
    | ((with_reducible apply Keeps.foldl_snd); intro s' x' h')
    | ((with_reducible refine State.setDepot_keeps ?_ _ ?_); rotate_left; · exact rfl)
    | ((first | intro v' | extract_lets -underBinder +onlyGivenNames v'); (first | (refine_lift have k' : Keeps P' o' v' := ?_; ?_; (on_goal 1 => try clear_value v'); (on_goal 2 => dsimp -zeta only [v'])) | (have k'' : v'.isSome = v'.isSome := rfl; clear k''; clear_value v') | skip))
    | split)

theorem State.makeRoom_keeps {P' : Prop} {o' : State} {s : State} (h : Keeps P' o' s) (n : Nat) :
    Keeps P' o' (State.makeRoom s n) := by
  unfold State.makeRoom
  repeat' (first
    | with_reducible assumption
    | with_reducible apply State.dropFrame_keeps
    | with_reducible apply State.startWriteBack_keeps
    | ((with_reducible refine State.bump_keeps ?_ _ _ _ ?_); rotate_left; · exact rfl)
    | ((first | intro v' | extract_lets -underBinder +onlyGivenNames v'); (first | (refine_lift have k' : Keeps P' o' v' := ?_; ?_; (on_goal 1 => try clear_value v'); (on_goal 2 => dsimp -zeta only [v'])) | (have k'' : v'.isSome = v'.isSome := rfl; clear k''; clear_value v') | skip))
    | split
    | (clear_value *; split))

theorem State.frameFor_keeps {P' : Prop} {o' : State} {s : State} (h : Keeps P' o' s) (p : Nat) :
    Keeps P' o' (State.frameFor s p) := by
  unfold State.frameFor
  repeat' (first
    | with_reducible assumption
    | with_reducible apply State.evict_keeps
    | with_reducible apply State.makeRoom_keeps
    | with_reducible apply State.setPage_keeps
    | with_reducible apply State.takeFrame_keeps
    | ((first | intro v' | extract_lets -underBinder +onlyGivenNames v'); (first | (refine_lift have k' : Keeps P' o' v' := ?_; ?_; (on_goal 1 => try clear_value v'); (on_goal 2 => dsimp -zeta only [v'])) | (have k'' : v'.isSome = v'.isSome := rfl; clear k''; clear_value v') | skip))
    | split)

theorem State.promote_keeps {P' : Prop} {o' : State} {s : State} (h : Keeps P' o' s) (p : Nat) :
    Keeps P' o' (State.promote s p) := by
  unfold State.promote
  repeat' (first
    | with_reducible assumption
    | with_reducible apply State.frameFor_keeps
    | with_reducible apply State.queueReads_keeps
    | with_reducible apply State.setPage_keeps
    | ((with_reducible refine State.bump_keeps ?_ _ _ _ ?_); rotate_left; · exact rfl)
    | ((first | intro v' | extract_lets -underBinder +onlyGivenNames v'); (first | (refine_lift have k' : Keeps P' o' v' := ?_; ?_; (on_goal 1 => try clear_value v'); (on_goal 2 => dsimp -zeta only [v'])) | (have k'' : v'.isSome = v'.isSome := rfl; clear k''; clear_value v') | skip))
    | split)

theorem State.ensureFrame_keeps {P' : Prop} {o' : State} {s : State} (h : Keeps P' o' s) (p : Nat) :
    Keeps P' o' (State.ensureFrame s p) := by
  unfold State.ensureFrame
  repeat' (first
    | with_reducible assumption
    | with_reducible apply State.frameFor_keeps
    | with_reducible apply State.promote_keeps
    | with_reducible apply State.setPage_keeps
    | ((first | intro v' | extract_lets -underBinder +onlyGivenNames v'); (first | (refine_lift have k' : Keeps P' o' v' := ?_; ?_; (on_goal 1 => try clear_value v'); (on_goal 2 => dsimp -zeta only [v'])) | (have k'' : v'.isSome = v'.isSome := rfl; clear k''; clear_value v') | skip))
    | split)

theorem State.endIdents_keeps {P' : Prop} {o' : State} {s : State} (h : Keeps P' o' s) (st : Nat) :
    Keeps P' o' (State.endIdents s st) := by
  unfold State.endIdents
  repeat' (first
    | with_reducible assumption
    | with_reducible apply State.endHold_keeps
    | with_reducible apply State.endWrite_keeps
    | ((with_reducible apply Keeps.foldl); intro s' x' h')
    | ((with_reducible apply Keeps.foldl_fst); intro s' x' h')
    | ((with_reducible apply Keeps.foldl_snd); intro s' x' h'))

theorem State.markDirty_keeps {P' : Prop} {o' : State} {s : State} (h : Keeps P' o' s) (p m : Nat) :
    Keeps P' o' (State.markDirty s p m) := by
  unfold State.markDirty
  repeat' (first
    | with_reducible assumption
    | with_reducible apply State.setPage_keeps
    | ((with_reducible refine State.bump_keeps ?_ _ _ _ ?_); rotate_left; · exact rfl)
    | ((first | intro v' | extract_lets -underBinder +onlyGivenNames v'); (first | (refine_lift have k' : Keeps P' o' v' := ?_; ?_; (on_goal 1 => try clear_value v'); (on_goal 2 => dsimp -zeta only [v'])) | (have k'' : v'.isSome = v'.isSome := rfl; clear k''; clear_value v') | skip))
    | split)

theorem State.writeBackAll_keeps {P' : Prop} {o' : State} {s : State} (h : Keeps P' o' s) :
    Keeps P' o' (State.writeBackAll s) := by
  unfold State.writeBackAll
  repeat' (first
    | with_reducible assumption
    | with_reducible apply State.startWriteBack_keeps
    | ((with_reducible apply Keeps.foldl); intro s' x' h')
    | ((with_reducible apply Keeps.foldl_fst); intro s' x' h')
    | ((with_reducible apply Keeps.foldl_snd); intro s' x' h'))

theorem State.dirtyPressure_keeps {P' : Prop} {o' : State} {s : State} (h : Keeps P' o' s) :
    Keeps P' o' (State.dirtyPressure s) := by
  unfold State.dirtyPressure
  repeat' (first
    | with_reducible assumption
    | with_reducible apply State.writeBackAll_keeps
    | split)

theorem State.clearBad_keeps {P' : Prop} {o' : State} {s : State} (h : Keeps P' o' s) (a n : Nat) :
    Keeps P' o' (State.clearBad s a n) := by
  unfold State.clearBad
  repeat' (first
    | with_reducible assumption
    | with_reducible apply State.setEcc_keeps)

theorem State.dropReads_keeps {P' : Prop} {o' : State} {s : State} (h : Keeps P' o' s) (p m : Nat) :
    Keeps P' o' (State.dropReads s p m) := by
  unfold State.dropReads
  repeat' (first
    | with_reducible assumption
    | with_reducible apply State.promote_keeps
    | with_reducible apply State.setFlash_keeps
    | split)

theorem State.landBytes_keeps {P' : Prop} {o' : State} {s : State} (h : Keeps P' o' s) (owner : Option Nat) (p a : Nat) (bs : List Byte) :
    Keeps P' o' (State.landBytes s owner p a bs) := by
  unfold State.landBytes
  repeat' (first
    | with_reducible assumption
    | with_reducible apply State.clearBad_keeps
    | with_reducible apply State.dropReads_keeps
    | with_reducible apply State.ensureFrame_keeps
    | with_reducible apply State.layOver_keeps
    | with_reducible apply State.markDirty_keeps
    | with_reducible apply State.setPage_keeps
    | with_reducible apply State.touch_keeps
    | with_reducible apply State.writtenAgain_keeps
    | ((first | intro v' | extract_lets -underBinder +onlyGivenNames v'); (first | (refine_lift have k' : Keeps P' o' v' := ?_; ?_; (on_goal 1 => try clear_value v'); (on_goal 2 => dsimp -zeta only [v'])) | (have k'' : v'.isSome = v'.isSome := rfl; clear k''; clear_value v') | skip))
    | split)

theorem State.beginWrite_keeps {P' : Prop} {o' : State} {s : State} (h : Keeps P' o' s) (p : Nat) :
    Keeps P' o' (State.beginWrite s p) := by
  unfold State.beginWrite
  repeat' (first
    | with_reducible assumption
    | with_reducible apply State.genStep_keeps
    | with_reducible apply State.invalidateLines_keeps)

theorem State.contentWrite_keeps {P' : Prop} {o' : State} {s : State} (h : Keeps P' o' s) (owner : Option Nat) (p a : Nat) (bs : List Byte) :
    Keeps P' o' (State.contentWrite s owner p a bs) := by
  unfold State.contentWrite
  repeat' (first
    | with_reducible assumption
    | with_reducible apply State.beginWrite_keeps
    | with_reducible apply State.dirtyPressure_keeps
    | with_reducible apply State.genStep_keeps
    | with_reducible apply State.landBytes_keeps)

theorem State.writeDepot_keeps {P' : Prop} {o' s : State} (h : Keeps P' o' s) (owner : Option Nat) (fuel x : Nat) (bs : List Byte) :
    Keeps P' o' (s.writeDepot owner fuel x bs) := by
  induction fuel generalizing s x bs with
  | zero => exact h
  | succ n ih =>
    cases bs with
    | nil => exact h
    | cons b bs => exact ih (State.contentWrite_keeps h _ _ _ _) _ _

theorem State.noteMerge_keeps {P' : Prop} {o' : State} {s : State} (h : Keeps P' o' s) (place : Option Nat) (a n : Nat) :
    Keeps P' o' (State.noteMerge s place a n) := by
  unfold State.noteMerge
  repeat' (first
    | with_reducible assumption
    | with_reducible apply State.setCmd_keeps
    | split)

theorem State.pageStore_keeps {P' : Prop} {o' : State} {s : State} (h : Keeps P' o' s) (place : Option Nat) (reply : Bool) (p a : Nat) (bs : List Byte) :
    Keeps P' o' (State.pageStore s place reply p a bs) := by
  unfold State.pageStore
  repeat' (first
    | with_reducible assumption
    | with_reducible apply State.contentWrite_keeps
    | with_reducible apply State.noteMerge_keeps
    | with_reducible apply State.tierLookup_keeps
    | ((with_reducible refine State.bump_keeps ?_ _ _ _ ?_); rotate_left; · exact rfl)
    | ((with_reducible refine State.setDepot_keeps ?_ _ ?_); rotate_left; · exact rfl)
    | ((first | intro v' | extract_lets -underBinder +onlyGivenNames v'); (first | (refine_lift have k' : Keeps P' o' v' := ?_; ?_; (on_goal 1 => try clear_value v'); (on_goal 2 => dsimp -zeta only [v'])) | (have k'' : v'.isSome = v'.isSome := rfl; clear k''; clear_value v') | skip))
    | split)

theorem State.storeN_keeps {P' : Prop} {o' : State} (place : Option Nat) (n : Nat) {s : State} (h : Keeps P' o' s) (a : Nat) (bs : List Byte) :
    Keeps P' o' (State.storeN place n s a bs) := by
  induction n generalizing s a bs with
  | zero => exact h
  | succ n ih =>
    cases bs with
    | nil => exact h
    | cons b bs => exact ih (State.pageStore_keeps h _ _ _ _ _) _ _

theorem State.storeFor_keeps {P' : Prop} {o' : State} {s : State} (h : Keeps P' o' s) (place : Option Nat) (a : Nat) (bs : List Byte) :
    Keeps P' o' (State.storeFor s place a bs) := by
  unfold State.storeFor
  repeat' (first
    | with_reducible assumption
    | with_reducible apply State.storeN_keeps)

theorem State.store_keeps {P' : Prop} {o' : State} {s : State} (h : Keeps P' o' s) (a : Nat) (bs : List Byte) :
    Keeps P' o' (State.store s a bs) := by
  unfold State.store
  repeat' (first
    | with_reducible assumption
    | with_reducible apply State.storeFor_keeps)

theorem State.storeNat_keeps {P' : Prop} {o' : State} {s : State} (h : Keeps P' o' s) (a n v : Nat) :
    Keeps P' o' (State.storeNat s a n v) := by
  unfold State.storeNat
  repeat' (first
    | with_reducible assumption
    | with_reducible apply State.store_keeps)

theorem State.releasePage_keeps {P' : Prop} {o' : State} {s : State} (h : Keeps P' o' s) (p m : Nat) :
    Keeps P' o' (State.releasePage s p m) := by
  unfold State.releasePage
  repeat' (first
    | with_reducible assumption
    | with_reducible apply State.clearBad_keeps
    | with_reducible apply State.genStep_keeps
    | with_reducible apply State.invalidateLines_keeps
    | with_reducible apply State.journal_keeps
    | with_reducible apply State.layOver_keeps
    | with_reducible apply State.setFlash_keeps
    | with_reducible apply State.setPage_keeps
    | ((with_reducible apply Keeps.foldl); intro s' x' h')
    | ((with_reducible apply Keeps.foldl_fst); intro s' x' h')
    | ((with_reducible apply Keeps.foldl_snd); intro s' x' h')
    | ((with_reducible refine State.dip_keeps ?_ _ _ _ ?_); rotate_left; · exact rfl)
    | ((first | intro v' | extract_lets -underBinder +onlyGivenNames v'); (first | (refine_lift have k' : Keeps P' o' v' := ?_; ?_; (on_goal 1 => try clear_value v'); (on_goal 2 => dsimp -zeta only [v'])) | (have k'' : v'.isSome = v'.isSome := rfl; clear k''; clear_value v') | skip))
    | split)

theorem State.unmapSection_keeps {P' : Prop} {o' : State} {s : State} (h : Keeps P' o' s) (l : Nat) :
    Keeps P' o' (State.unmapSection s l) := by
  unfold State.unmapSection
  repeat' (first
    | with_reducible assumption
    | with_reducible apply State.queueErase_keeps
    | with_reducible apply State.setFlash_keeps
    | with_reducible apply State.setLsec_keeps
    | ((first | intro v' | extract_lets -underBinder +onlyGivenNames v'); (first | (refine_lift have k' : Keeps P' o' v' := ?_; ?_; (on_goal 1 => try clear_value v'); (on_goal 2 => dsimp -zeta only [v'])) | (have k'' : v'.isSome = v'.isSome := rfl; clear k''; clear_value v') | skip))
    | split)

theorem State.clearPage_keeps {P' : Prop} {o' : State} {s : State} (h : Keeps P' o' s) (p : Nat) :
    Keeps P' o' (State.clearPage s p) := by
  unfold State.clearPage
  repeat' (first
    | with_reducible assumption
    | ((with_reducible refine State.setDepot_keeps ?_ _ ?_); rotate_left; · exact rfl)
    | ((with_reducible refine State.setDepot_keeps_canonical ?_ _ ?_); rotate_left; · exact Memory.wf_clear _ _))

theorem State.allocPage_keeps {P' : Prop} {o' : State} {s : State} (h : Keeps P' o' s) (p : Nat) :
    Keeps P' o' (State.allocPage s p) := by
  unfold State.allocPage
  repeat' (first
    | with_reducible assumption
    | with_reducible apply State.clearPage_keeps
    | with_reducible apply State.frameFor_keeps
    | with_reducible apply State.setPage_keeps
    | ((first | intro v' | extract_lets -underBinder +onlyGivenNames v'); (first | (refine_lift have k' : Keeps P' o' v' := ?_; ?_; (on_goal 1 => try clear_value v'); (on_goal 2 => dsimp -zeta only [v'])) | (have k'' : v'.isSome = v'.isSome := rfl; clear k''; clear_value v') | skip))
    | split)

theorem State.freePage_keeps {P' : Prop} {o' : State} {s : State} (h : Keeps P' o' s) (p : Nat) :
    Keeps P' o' (State.freePage s p) := by
  unfold State.freePage
  repeat' (first
    | with_reducible assumption
    | with_reducible apply State.clearPage_keeps
    | with_reducible apply State.freeFrame_keeps
    | with_reducible apply State.setPage_keeps
    | ((first | intro v' | extract_lets -underBinder +onlyGivenNames v'); (first | (refine_lift have k' : Keeps P' o' v' := ?_; ?_; (on_goal 1 => try clear_value v'); (on_goal 2 => dsimp -zeta only [v'])) | (have k'' : v'.isSome = v'.isSome := rfl; clear k''; clear_value v') | skip))
    | split)

theorem State.allocScratch_keeps {P' : Prop} {o' : State} {s : State} (h : Keeps P' o' s) (bytes : Nat) :
    KeepsOpt2 P' o' (State.allocScratch s bytes) := by
  unfold State.allocScratch
  repeat' (first
    | with_reducible assumption
    | with_reducible exact Keeps.opt_none
    | with_reducible apply Keeps.opt_some
    | with_reducible exact Keeps.opt1_none
    | with_reducible apply Keeps.opt1_some
    | with_reducible exact Keeps.opt2_none
    | with_reducible apply Keeps.opt2_some
    | (with_reducible apply Keeps.opt2_map; intro x''; with_reducible apply Keeps.foldl; intro s' x' h')
    | with_reducible apply State.allocPage_keeps
    | ((with_reducible apply Keeps.foldl); intro s' x' h')
    | ((with_reducible apply Keeps.foldl_fst); intro s' x' h')
    | ((with_reducible apply Keeps.foldl_snd); intro s' x' h')
    | ((first | intro v' | extract_lets -underBinder +onlyGivenNames v'); (first | (refine_lift have k' : Keeps P' o' v' := ?_; ?_; (on_goal 1 => try clear_value v'); (on_goal 2 => dsimp -zeta only [v'])) | (have k'' : v'.isSome = v'.isSome := rfl; clear k''; clear_value v') | skip))
    | split)

theorem State.freeScratch_keeps {P' : Prop} {o' : State} {s : State} (h : Keeps P' o' s) (a bytes : Nat) :
    Keeps P' o' (State.freeScratch s a bytes) := by
  unfold State.freeScratch
  repeat' (first
    | with_reducible assumption
    | with_reducible apply State.freePage_keeps
    | ((with_reducible apply Keeps.foldl); intro s' x' h')
    | ((with_reducible apply Keeps.foldl_fst); intro s' x' h')
    | ((with_reducible apply Keeps.foldl_snd); intro s' x' h'))

theorem State.loseFrame_keeps {P' : Prop} {o' : State} {s : State} (h : Keeps P' o' s) (p : Nat) :
    Keeps P' o' (State.loseFrame s p) := by
  unfold State.loseFrame
  repeat' (first
    | with_reducible assumption
    | with_reducible apply State.clearPage_keeps
    | with_reducible apply State.dropReads_keeps
    | with_reducible apply State.setPage_keeps
    | ((with_reducible refine State.dip_keeps ?_ _ _ _ ?_); rotate_left; · exact rfl)
    | ((first | intro v' | extract_lets -underBinder +onlyGivenNames v'); (first | (refine_lift have k' : Keeps P' o' v' := ?_; ?_; (on_goal 1 => try clear_value v'); (on_goal 2 => dsimp -zeta only [v'])) | (have k'' : v'.isSome = v'.isSome := rfl; clear k''; clear_value v') | skip))
    | split)

theorem State.replan_keeps {P' : Prop} {o' : State} {s : State} (h : Keeps P' o' s) (p : Nat) :
    Keeps P' o' (State.replan s p) := by
  unfold State.replan
  repeat' (first
    | with_reducible assumption
    | with_reducible apply State.evict_keeps
    | with_reducible apply State.queueReads_keeps
    | with_reducible apply State.setPage_keeps
    | with_reducible apply State.takeFrame_keeps
    | ((first | intro v' | extract_lets -underBinder +onlyGivenNames v'); (first | (refine_lift have k' : Keeps P' o' v' := ?_; ?_; (on_goal 1 => try clear_value v'); (on_goal 2 => dsimp -zeta only [v'])) | (have k'' : v'.isSome = v'.isSome := rfl; clear k''; clear_value v') | skip))
    | split)

theorem State.rehome_keeps {P' : Prop} {o' : State} {from_ : State} (h : Keeps P' o' from_) {s : State} (h : Keeps P' o' s) (p : Nat) :
    Keeps P' o' (State.rehome from_ s p) := by
  unfold State.rehome
  repeat' (first
    | with_reducible assumption
    | ((with_reducible refine State.bump_keeps ?_ _ _ _ ?_); rotate_left; · exact rfl)
    | ((with_reducible refine State.dip_keeps ?_ _ _ _ ?_); rotate_left; · exact rfl)
    | ((first | intro v' | extract_lets -underBinder +onlyGivenNames v'); (first | (refine_lift have k' : Keeps P' o' v' := ?_; ?_; (on_goal 1 => try clear_value v'); (on_goal 2 => dsimp -zeta only [v'])) | (have k'' : v'.isSome = v'.isSome := rfl; clear k''; clear_value v') | skip))
    | split)

theorem State.fenceStack_keeps {P' : Prop} {o' : State} {s : State} (h : Keeps P' o' s) (n : Nat) :
    Keeps P' o' (State.fenceStack s n) := by
  unfold State.fenceStack
  repeat' (first
    | with_reducible assumption
    | ((with_reducible refine State.flag_keeps ?_ _ ?_); rotate_left; · exact rfl)
    | with_reducible apply State.loseFrame_keeps
    | with_reducible apply State.rehome_keeps
    | with_reducible apply State.replan_keeps
    | ((with_reducible apply Keeps.foldl); intro s' x' h')
    | ((with_reducible apply Keeps.foldl_fst); intro s' x' h')
    | ((with_reducible apply Keeps.foldl_snd); intro s' x' h')
    | ((with_reducible refine State.fset_keeps ?_ _ _ _ ?_); rotate_left; · exact rfl)
    | ((with_reducible refine State.dip_keeps ?_ _ _ _ ?_); rotate_left; · exact rfl)
    | ((with_reducible refine State.setDepot_keeps ?_ _ ?_); rotate_left; · exact rfl)
    | ((first | intro v' | extract_lets -underBinder +onlyGivenNames v'); (first | (refine_lift have k' : Keeps P' o' v' := ?_; ?_; (on_goal 1 => try clear_value v'); (on_goal 2 => dsimp -zeta only [v'])) | (have k'' : v'.isSome = v'.isSome := rfl; clear k''; clear_value v') | skip))
    | split)

end Sys2Proof.Machine
end

