-- ==== Sys2Proof/Laws/KeepsBlock.lean ====
section
/-! SUPPORT. What each operation of Machine/Block.lean keeps (Laws/Keeps.lean). -/

set_option linter.unusedTactic false
set_option linter.unreachableTactic false

namespace Sys2Proof.Machine

theorem State.blockChecks_keeps {P' : Prop} {o' : State} {s : State} (h : Keeps P' o' s) (p : Nat) (fields : Bool) (last : Nat) (go : State → State) (h_go : ∀ y0, Keeps P' o' y0 → Keeps P' o' (go y0)) :
    Keeps P' o' (State.blockChecks s p fields last go) := by
  unfold State.blockChecks
  repeat' (first
    | with_reducible assumption
    | with_reducible apply h_go
    | with_reducible apply State.fail_keeps
    | split)

theorem State.sendLba_keeps {P' : Prop} {o' : State} (p : Nat) {s : State} (h : Keeps P' o' s) (i : Nat) :
    Keeps P' o' (State.sendLba p s i) := by
  unfold State.sendLba
  repeat' (first
    | with_reducible assumption
    | with_reducible apply State.sendData_keeps
    | with_reducible apply State.setCmd_keeps
    | ((with_reducible apply Keeps.foldl); intro s' x' h')
    | ((with_reducible apply Keeps.foldl_fst); intro s' x' h')
    | ((with_reducible apply Keeps.foldl_snd); intro s' x' h')
    | ((with_reducible refine State.bump_keeps ?_ _ _ _ ?_); rotate_left; · exact rfl)
    | with_reducible apply State.drawBytes_keeps
    | ((first | intro v' | extract_lets -underBinder +onlyGivenNames v'); (first | (refine_lift have k' : Keeps P' o' v' := ?_; ?_; (on_goal 1 => try clear_value v'); (on_goal 2 => dsimp -zeta only [v'])) | (refine_lift have k' : Keeps P' o' v'.2 := ?_; ?_; (on_goal 1 => try clear_value v'); (on_goal 2 => dsimp -zeta only [v'])) | (have k'' : v'.isSome = v'.isSome := rfl; clear k''; clear_value v') | skip))
    | split
    | (clear_value *; split))

theorem State.bridgeRead_keeps {P' : Prop} {o' : State} (p : Nat) {s : State} (h : Keeps P' o' s) (i : Nat) :
    Keeps P' o' (State.bridgeRead p s i) := by
  unfold State.bridgeRead
  repeat' (first
    | with_reducible assumption
    | with_reducible apply State.bridgeData_keeps
    | ((first | intro v' | extract_lets -underBinder +onlyGivenNames v'); (first | (refine_lift have k' : Keeps P' o' v' := ?_; ?_; (on_goal 1 => try clear_value v'); (on_goal 2 => dsimp -zeta only [v'])) | (have k'' : v'.isSome = v'.isSome := rfl; clear k''; clear_value v') | skip))
    | split)

theorem State.readOut_keeps {P' : Prop} {o' : State} {s : State} (h : Keeps P' o' s) (p : Nat) :
    Keeps P' o' (State.readOut s p) := by
  unfold State.readOut
  repeat' (first
    | with_reducible assumption
    | with_reducible apply State.bridgeRead_keeps
    | with_reducible apply State.finish_keeps
    | with_reducible apply State.sendLba_keeps
    | ((with_reducible apply Keeps.foldl); intro s' x' h')
    | ((with_reducible apply Keeps.foldl_fst); intro s' x' h')
    | ((with_reducible apply Keeps.foldl_snd); intro s' x' h')
    | ((first | intro v' | extract_lets -underBinder +onlyGivenNames v'); (first | (refine_lift have k' : Keeps P' o' v' := ?_; ?_; (on_goal 1 => try clear_value v'); (on_goal 2 => dsimp -zeta only [v'])) | (have k'' : v'.isSome = v'.isSome := rfl; clear k''; clear_value v') | skip))
    | split)

theorem State.readPage_keeps {P' : Prop} {o' : State} {s : State} (h : Keeps P' o' s) (g : Nat) :
    Keeps P' o' (State.readPage s g) := by
  unfold State.readPage
  repeat' (first
    | with_reducible assumption
    | with_reducible apply State.promote_keeps
    | with_reducible apply State.tierLookup_keeps
    | with_reducible apply State.touch_keeps
    | ((first | intro v' | extract_lets -underBinder +onlyGivenNames v'); (first | (refine_lift have k' : Keeps P' o' v' := ?_; ?_; (on_goal 1 => try clear_value v'); (on_goal 2 => dsimp -zeta only [v'])) | (have k'' : v'.isSome = v'.isSome := rfl; clear k''; clear_value v') | skip))
    | split)

theorem State.readGo_keeps {P' : Prop} {o' : State} {s : State} (h : Keeps P' o' s) (p : Nat) :
    Keeps P' o' (State.readGo s p) := by
  unfold State.readGo
  repeat' (first
    | with_reducible assumption
    | with_reducible apply State.readOut_keeps
    | with_reducible apply State.readPage_keeps
    | with_reducible apply State.setCmd_keeps
    | ((with_reducible apply Keeps.foldl); intro s' x' h')
    | ((with_reducible apply Keeps.foldl_fst); intro s' x' h')
    | ((with_reducible apply Keeps.foldl_snd); intro s' x' h')
    | ((first | intro v' | extract_lets -underBinder +onlyGivenNames v'); (first | (refine_lift have k' : Keeps P' o' v' := ?_; ?_; (on_goal 1 => try clear_value v'); (on_goal 2 => dsimp -zeta only [v'])) | (have k'' : v'.isSome = v'.isSome := rfl; clear k''; clear_value v') | skip))
    | split)

theorem State.writeGo_keeps {P' : Prop} {o' : State} {s : State} (h : Keeps P' o' s) (p : Nat) :
    Keeps P' o' (State.writeGo s p) := by
  unfold State.writeGo
  repeat' (first
    | with_reducible assumption
    | with_reducible apply State.setCmd_keeps
    | ((first | intro v' | extract_lets -underBinder +onlyGivenNames v'); (first | (refine_lift have k' : Keeps P' o' v' := ?_; ?_; (on_goal 1 => try clear_value v'); (on_goal 2 => dsimp -zeta only [v'])) | (have k'' : v'.isSome = v'.isSome := rfl; clear k''; clear_value v') | skip))
    | split)

theorem State.writeData_keeps {P' : Prop} {o' : State} {s : State} (h : Keeps P' o' s) (p : Nat) (data : List Byte) :
    Keeps P' o' (State.writeData s p data) := by
  unfold State.writeData
  repeat' (first
    | with_reducible assumption
    | with_reducible apply State.setCmd_keeps
    | ((with_reducible refine State.setDepot_keeps ?_ _ ?_); rotate_left; · exact rfl)
    | ((first | intro v' | extract_lets -underBinder +onlyGivenNames v'); (first | (refine_lift have k' : Keeps P' o' v' := ?_; ?_; (on_goal 1 => try clear_value v'); (on_goal 2 => dsimp -zeta only [v'])) | (have k'' : v'.isSome = v'.isSome := rfl; clear k''; clear_value v') | skip))
    | split)

theorem State.listDone_keeps {P' : Prop} {o' : State} {s : State} (h : Keeps P' o' s) (p : Nat) :
    Keeps P' o' (State.listDone s p) := by
  unfold State.listDone
  repeat' (first
    | with_reducible assumption
    | with_reducible apply State.fail_keeps
    | with_reducible apply State.readGo_keeps
    | with_reducible apply State.setCmd_keeps
    | with_reducible apply State.writeGo_keeps
    | ((first | intro v' | extract_lets -underBinder +onlyGivenNames v'); (first | (refine_lift have k' : Keeps P' o' v' := ?_; ?_; (on_goal 1 => try clear_value v'); (on_goal 2 => dsimp -zeta only [v'])) | (have k'' : v'.isSome = v'.isSome := rfl; clear k''; clear_value v') | skip))
    | split)

theorem State.transferGo_keeps {P' : Prop} {o' : State} {s : State} (h : Keeps P' o' s) (p : Nat) :
    Keeps P' o' (State.transferGo s p) := by
  unfold State.transferGo
  repeat' (first
    | with_reducible assumption
    | with_reducible apply State.readGo_keeps
    | with_reducible apply State.setCmd_keeps
    | with_reducible apply State.writeGo_keeps
    | ((first | intro v' | extract_lets -underBinder +onlyGivenNames v'); (first | (refine_lift have k' : Keeps P' o' v' := ?_; ?_; (on_goal 1 => try clear_value v'); (on_goal 2 => dsimp -zeta only [v'])) | (have k'' : v'.isSome = v'.isSome := rfl; clear k''; clear_value v') | skip))
    | split)

theorem State.turnDone_keeps {P' : Prop} {o' : State} {s : State} (h : Keeps P' o' s) (t : Turn) :
    Keeps P' o' (State.turnDone s t) := by
  unfold State.turnDone
  repeat' (first
    | with_reducible assumption
    | with_reducible apply State.finish_keeps
    | with_reducible apply State.send_keeps
    | with_reducible apply State.setCmd_keeps
    | ((first | intro v' | extract_lets -underBinder +onlyGivenNames v'); (first | (refine_lift have k' : Keeps P' o' v' := ?_; ?_; (on_goal 1 => try clear_value v'); (on_goal 2 => dsimp -zeta only [v'])) | (have k'' : v'.isSome = v'.isSome := rfl; clear k''; clear_value v') | skip))
    | split
    | (clear_value *; split))

theorem State.dropTurn_keeps {P' : Prop} {o' : State} {s : State} (h : Keeps P' o' s) (t : Turn) :
    Keeps P' o' (State.dropTurn s t) := by
  unfold State.dropTurn
  repeat' (first
    | with_reducible assumption
    | ((with_reducible refine State.setDepot_keeps ?_ _ ?_); rotate_left; · exact rfl))

theorem State.flushed_keeps {P' : Prop} {o' : State} {s : State} (h : Keeps P' o' s) (lbas : List Nat) :
    Keeps P' o' (State.flushed s lbas) := by
  unfold State.flushed
  repeat' (first
    | with_reducible assumption
    | with_reducible apply State.finish_keeps
    | with_reducible apply State.setCmd_keeps
    | ((with_reducible apply Keeps.foldl); intro s' x' h')
    | ((with_reducible apply Keeps.foldl_fst); intro s' x' h')
    | ((with_reducible apply Keeps.foldl_snd); intro s' x' h')
    | ((first | intro v' | extract_lets -underBinder +onlyGivenNames v'); (first | (refine_lift have k' : Keeps P' o' v' := ?_; ?_; (on_goal 1 => try clear_value v'); (on_goal 2 => dsimp -zeta only [v'])) | (have k'' : v'.isSome = v'.isSome := rfl; clear k''; clear_value v') | skip))
    | split)

theorem State.releaseTurn_keeps {P' : Prop} {o' : State} {s : State} (h : Keeps P' o' s) (g m : Nat) :
    Keeps P' o' (State.releaseTurn s g m) := by
  unfold State.releaseTurn
  repeat' (first
    | with_reducible assumption
    | with_reducible apply State.flushed_keeps
    | with_reducible apply State.releasePage_keeps)

theorem State.runTurn_keeps {P' : Prop} {o' : State} {s : State} (h : Keeps P' o' s) (t : Turn) :
    Keeps P' o' (State.runTurn s t) := by
  unfold State.runTurn
  repeat' (first
    | with_reducible assumption
    | with_reducible apply State.bridgeData_keeps
    | with_reducible apply State.contentWrite_keeps
    | with_reducible apply State.noteMerge_keeps
    | with_reducible apply State.releaseTurn_keeps
    | with_reducible apply State.tierLookup_keeps
    | ((first | intro v' | extract_lets -underBinder +onlyGivenNames v'); (first | (refine_lift have k' : Keeps P' o' v' := ?_; ?_; (on_goal 1 => try clear_value v'); (on_goal 2 => dsimp -zeta only [v'])) | (have k'' : v'.isSome = v'.isSome := rfl; clear k''; clear_value v') | skip))
    | split)

theorem State.waitTurn_keeps {P' : Prop} {o' : State} {s : State} (h : Keeps P' o' s) (t : Turn) :
    Keeps P' o' (State.waitTurn s t) := by
  unfold State.waitTurn
  repeat' (first
    | with_reducible assumption
    | ((with_reducible refine State.bump_keeps ?_ _ _ _ ?_); rotate_left; · exact rfl)
    | ((with_reducible refine State.setDepot_keeps ?_ _ ?_); rotate_left; · exact rfl)
    | ((first | intro v' | extract_lets -underBinder +onlyGivenNames v'); (first | (refine_lift have k' : Keeps P' o' v' := ?_; ?_; (on_goal 1 => try clear_value v'); (on_goal 2 => dsimp -zeta only [v'])) | (have k'' : v'.isSome = v'.isSome := rfl; clear k''; clear_value v') | skip))
    | split)

theorem State.turn_keeps {P' : Prop} {o' : State} {s : State} (h : Keeps P' o' s) (g : Nat) :
    Keeps P' o' (State.turn s g) := by
  unfold State.turn
  repeat' (first
    | with_reducible assumption
    | with_reducible apply State.dropTurn_keeps
    | with_reducible apply State.runTurn_keeps
    | with_reducible apply State.turnDone_keeps
    | with_reducible apply State.waitTurn_keeps
    | split)

theorem State.releaseLimit_keeps {P' : Prop} {o' : State} {s : State} (h : Keeps P' o' s) (g : Nat) :
    Keeps P' o' (State.releaseLimit s g) := by
  unfold State.releaseLimit
  repeat' (first
    | with_reducible assumption
    | with_reducible apply State.dropTurn_keeps
    | with_reducible apply State.runTurn_keeps
    | with_reducible apply State.turnDone_keeps
    | split)

theorem State.dropTurns_keeps {P' : Prop} {o' : State} {s : State} (h : Keeps P' o' s) (p : Nat) :
    Keeps P' o' (State.dropTurns s p) := by
  unfold State.dropTurns
  repeat' (first
    | with_reducible assumption
    | ((with_reducible refine State.setDepot_keeps ?_ _ ?_); rotate_left; · exact rfl))

theorem State.dropLayers_keeps {P' : Prop} {o' : State} {s : State} (h : Keeps P' o' s) (p : Nat) :
    Keeps P' o' (State.dropLayers s p) := by
  unfold State.dropLayers
  repeat' (first
    | with_reducible assumption
    | with_reducible apply State.foldDepot_keeps
    | ((with_reducible refine State.setDepot_keeps ?_ _ ?_); rotate_left; · exact rfl))

theorem State.thinLayers_keeps {P' : Prop} {o' : State} {s : State} (h : Keeps P' o' s) (p : Nat) :
    Keeps P' o' (State.thinLayers s p) := by
  unfold State.thinLayers
  repeat' (first
    | with_reducible assumption
    | with_reducible apply State.foldDepot_keeps
    | with_reducible apply State.setFreeCtr_keeps
    | ((with_reducible apply Keeps.foldl); intro s' x' h')
    | ((with_reducible apply Keeps.foldl_fst); intro s' x' h')
    | ((with_reducible apply Keeps.foldl_snd); intro s' x' h')
    | ((with_reducible refine State.setDepot_keeps ?_ _ ?_); rotate_left; · exact rfl)
    | ((first | intro v' | extract_lets -underBinder +onlyGivenNames v'); (first | (refine_lift have k' : Keeps P' o' v' := ?_; ?_; (on_goal 1 => try clear_value v'); (on_goal 2 => dsimp -zeta only [v'])) | (have k'' : v'.isSome = v'.isSome := rfl; clear k''; clear_value v') | skip))
    | split)

theorem State.maybeRun_keeps {P' : Prop} {o' : State} {s : State} (h : Keeps P' o' s) (t : Turn) :
    Keeps P' o' (State.maybeRun s t) := by
  unfold State.maybeRun
  repeat' (first
    | with_reducible assumption
    | with_reducible apply State.runTurn_keeps
    | with_reducible apply State.drawBool_keeps
    | ((first | intro v' | extract_lets -underBinder +onlyGivenNames v'); (first | (refine_lift have k' : Keeps P' o' v' := ?_; ?_; (on_goal 1 => try clear_value v'); (on_goal 2 => dsimp -zeta only [v'])) | (refine_lift have k' : Keeps P' o' v'.2 := ?_; ?_; (on_goal 1 => try clear_value v'); (on_goal 2 => dsimp -zeta only [v'])) | (have k'' : v'.isSome = v'.isSome := rfl; clear k''; clear_value v') | skip))
    | split)

theorem State.wrote_keeps {P' : Prop} {o' : State} {s : State} (h : Keeps P' o' s) (p : Nat) :
    Keeps P' o' (State.wrote s p) := by
  unfold State.wrote
  repeat' (first
    | with_reducible assumption
    | with_reducible apply State.settle_keeps
    | ((with_reducible refine State.setDepot_keeps ?_ _ ?_); rotate_left; · exact rfl)
    | ((first | intro v' | extract_lets -underBinder +onlyGivenNames v'); (first | (refine_lift have k' : Keeps P' o' v' := ?_; ?_; (on_goal 1 => try clear_value v'); (on_goal 2 => dsimp -zeta only [v'])) | (have k'' : v'.isSome = v'.isSome := rfl; clear k''; clear_value v') | skip))
    | split)

theorem State.settleWrite_keeps {P' : Prop} {o' : State} {s : State} (h : Keeps P' o' s) (p : Nat) :
    Keeps P' o' (State.settleWrite s p) := by
  unfold State.settleWrite
  repeat' (first
    | with_reducible assumption
    | with_reducible apply State.dropLayers_keeps
    | with_reducible apply State.dropTurns_keeps
    | with_reducible apply State.maybeRun_keeps
    | with_reducible apply State.runTurn_keeps
    | with_reducible apply State.settle_keeps
    | with_reducible apply State.thinLayers_keeps
    | ((with_reducible apply Keeps.foldl); intro s' x' h')
    | ((with_reducible apply Keeps.foldl_fst); intro s' x' h')
    | ((with_reducible apply Keeps.foldl_snd); intro s' x' h')
    | with_reducible apply State.drawBool_keeps
    | ((first | intro v' | extract_lets -underBinder +onlyGivenNames v'); (first | (refine_lift have k' : Keeps P' o' v' := ?_; ?_; (on_goal 1 => try clear_value v'); (on_goal 2 => dsimp -zeta only [v'])) | (refine_lift have k' : Keeps P' o' v'.2 := ?_; ?_; (on_goal 1 => try clear_value v'); (on_goal 2 => dsimp -zeta only [v'])) | (have k'' : v'.isSome = v'.isSome := rfl; clear k''; clear_value v') | skip))
    | split)

theorem State.settleRelease_keeps {P' : Prop} {o' : State} {s : State} (h : Keeps P' o' s) (p : Nat) :
    Keeps P' o' (State.settleRelease s p) := by
  unfold State.settleRelease
  repeat' (first
    | with_reducible assumption
    | with_reducible apply State.dropTurns_keeps
    | with_reducible apply State.releaseTurn_keeps
    | ((with_reducible apply Keeps.foldl); intro s' x' h')
    | ((with_reducible apply Keeps.foldl_fst); intro s' x' h')
    | ((with_reducible apply Keeps.foldl_snd); intro s' x' h')
    | with_reducible apply State.drawBool_keeps
    | ((first | intro v' | extract_lets -underBinder +onlyGivenNames v'); (first | (refine_lift have k' : Keeps P' o' v' := ?_; ?_; (on_goal 1 => try clear_value v'); (on_goal 2 => dsimp -zeta only [v'])) | (refine_lift have k' : Keeps P' o' v'.2 := ?_; ?_; (on_goal 1 => try clear_value v'); (on_goal 2 => dsimp -zeta only [v'])) | (have k'' : v'.isSome = v'.isSome := rfl; clear k''; clear_value v') | skip))
    | split)

theorem State.programRange_keeps {P' : Prop} {o' : State} {s : State} (h : Keeps P' o' s) (lba n : Nat) :
    Keeps P' o' (State.programRange s lba n) := by
  unfold State.programRange
  repeat' (first
    | with_reducible assumption
    | with_reducible apply State.beginUnit_keeps
    | ((with_reducible apply Keeps.foldl); intro s' x' h')
    | ((with_reducible apply Keeps.foldl_fst); intro s' x' h')
    | ((with_reducible apply Keeps.foldl_snd); intro s' x' h'))

theorem State.flushGo_keeps {P' : Prop} {o' : State} {s : State} (h : Keeps P' o' s) (p : Nat) :
    Keeps P' o' (State.flushGo s p) := by
  unfold State.flushGo
  repeat' (first
    | with_reducible assumption
    | with_reducible apply State.finish_keeps
    | with_reducible apply State.programRange_keeps
    | with_reducible apply State.setCmd_keeps
    | with_reducible apply State.startWriteBack_keeps
    | ((with_reducible apply Keeps.foldl); intro s' x' h')
    | ((with_reducible apply Keeps.foldl_fst); intro s' x' h')
    | ((with_reducible apply Keeps.foldl_snd); intro s' x' h')
    | ((first | intro v' | extract_lets -underBinder +onlyGivenNames v'); (first | (refine_lift have k' : Keeps P' o' v' := ?_; ?_; (on_goal 1 => try clear_value v'); (on_goal 2 => dsimp -zeta only [v'])) | (have k'' : v'.isSome = v'.isSome := rfl; clear k''; clear_value v') | skip))
    | split)

theorem State.releaseGo_keeps {P' : Prop} {o' : State} {s : State} (h : Keeps P' o' s) (p : Nat) :
    Keeps P' o' (State.releaseGo s p) := by
  unfold State.releaseGo
  repeat' (first
    | with_reducible assumption
    | with_reducible apply State.setCmd_keeps
    | ((with_reducible refine State.setDepot_keeps ?_ _ ?_); rotate_left; · exact rfl)
    | ((first | intro v' | extract_lets -underBinder +onlyGivenNames v'); (first | (refine_lift have k' : Keeps P' o' v' := ?_; ?_; (on_goal 1 => try clear_value v'); (on_goal 2 => dsimp -zeta only [v'])) | (have k'' : v'.isSome = v'.isSome := rfl; clear k''; clear_value v') | skip))
    | split)

theorem State.readsResume_keeps {P' : Prop} {o' : State} {s : State} (h : Keeps P' o' s) (g : Nat) :
    Keeps P' o' (State.readsResume s g) := by
  unfold State.readsResume
  repeat' (first
    | with_reducible assumption
    | with_reducible apply State.readOut_keeps
    | with_reducible apply State.setCmd_keeps
    | ((with_reducible apply Keeps.foldl); intro s' x' h')
    | ((with_reducible apply Keeps.foldl_fst); intro s' x' h')
    | ((with_reducible apply Keeps.foldl_snd); intro s' x' h')
    | ((first | intro v' | extract_lets -underBinder +onlyGivenNames v'); (first | (refine_lift have k' : Keeps P' o' v' := ?_; ?_; (on_goal 1 => try clear_value v'); (on_goal 2 => dsimp -zeta only [v'])) | (have k'' : v'.isSome = v'.isSome := rfl; clear k''; clear_value v') | skip))
    | split)

theorem State.promoted_keeps {P' : Prop} {o' : State} {s : State} (h : Keeps P' o' s) (g : Nat) :
    Keeps P' o' (State.promoted s g) := by
  unfold State.promoted
  repeat' (first
    | with_reducible assumption
    | with_reducible apply State.frameFor_keeps
    | with_reducible apply State.readsResume_keeps
    | with_reducible apply State.setPage_keeps
    | with_reducible apply State.touch_keeps
    | ((first | intro v' | extract_lets -underBinder +onlyGivenNames v'); (first | (refine_lift have k' : Keeps P' o' v' := ?_; ?_; (on_goal 1 => try clear_value v'); (on_goal 2 => dsimp -zeta only [v'])) | (have k'' : v'.isSome = v'.isSome := rfl; clear k''; clear_value v') | skip))
    | split)

theorem State.sharesBack_keeps {P' : Prop} {o' : State} {s : State} (h : Keeps P' o' s) (waited : List Nat) :
    Keeps P' o' (State.sharesBack s waited) := by
  unfold State.sharesBack
  repeat' (first
    | with_reducible assumption
    | with_reducible apply State.readPage_keeps
    | with_reducible apply State.readsResume_keeps
    | ((with_reducible apply Keeps.foldl); intro s' x' h')
    | ((with_reducible apply Keeps.foldl_fst); intro s' x' h')
    | ((with_reducible apply Keeps.foldl_snd); intro s' x' h')
    | ((first | intro v' | extract_lets -underBinder +onlyGivenNames v'); (first | (refine_lift have k' : Keeps P' o' v' := ?_; ?_; (on_goal 1 => try clear_value v'); (on_goal 2 => dsimp -zeta only [v'])) | (have k'' : v'.isSome = v'.isSome := rfl; clear k''; clear_value v') | skip))
    | split)

theorem execRead_keeps {P' : Prop} {o' : State} (q : QueueId) {s : State} (h : Keeps P' o' s) {t : State} (e : execRead q s = .next t) :
    Keeps P' o' t := by
  unfold execRead at e
  injection e with e
  subst e
  repeat' (first
    | with_reducible assumption
    | with_reducible apply State.blockChecks_keeps
    | with_reducible apply State.onEntry_keeps
    | with_reducible apply State.transferGo_keeps
    | ((with_reducible show ∀ y' : State, Keeps P' o' y' → _); intro y' h')
    | ((with_reducible show ∀ (_ : _) (y' : State), Keeps P' o' y' → _); intro x' y' h')
    | ((with_reducible show ∀ (_ : _) (_ : _) (y' : State), Keeps P' o' y' → _); intro x' z' y' h'))

theorem execWrite_keeps {P' : Prop} {o' : State} (q : QueueId) {s : State} (h : Keeps P' o' s) {t : State} (e : execWrite q s = .next t) :
    Keeps P' o' t := by
  unfold execWrite at e
  injection e with e
  subst e
  repeat' (first
    | with_reducible assumption
    | with_reducible apply State.blockChecks_keeps
    | with_reducible apply State.fail_keeps
    | with_reducible apply State.onEntry_keeps
    | with_reducible apply State.transferGo_keeps
    | ((with_reducible show ∀ y' : State, Keeps P' o' y' → _); intro y' h')
    | ((with_reducible show ∀ (_ : _) (y' : State), Keeps P' o' y' → _); intro x' y' h')
    | ((with_reducible show ∀ (_ : _) (_ : _) (y' : State), Keeps P' o' y' → _); intro x' z' y' h')
    | split)

theorem execFlush_keeps {P' : Prop} {o' : State} (q : QueueId) {s : State} (h : Keeps P' o' s) {t : State} (e : execFlush q s = .next t) :
    Keeps P' o' t := by
  unfold execFlush at e
  injection e with e
  subst e
  repeat' (first
    | with_reducible assumption
    | with_reducible apply State.blockChecks_keeps
    | with_reducible apply State.flushGo_keeps
    | with_reducible apply State.onEntry_keeps
    | ((with_reducible show ∀ y' : State, Keeps P' o' y' → _); intro y' h')
    | ((with_reducible show ∀ (_ : _) (y' : State), Keeps P' o' y' → _); intro x' y' h')
    | ((with_reducible show ∀ (_ : _) (_ : _) (y' : State), Keeps P' o' y' → _); intro x' z' y' h'))

theorem execRelease_keeps {P' : Prop} {o' : State} (q : QueueId) {s : State} (h : Keeps P' o' s) {t : State} (e : execRelease q s = .next t) :
    Keeps P' o' t := by
  unfold execRelease at e
  injection e with e
  subst e
  repeat' (first
    | with_reducible assumption
    | with_reducible apply State.blockChecks_keeps
    | with_reducible apply State.onEntry_keeps
    | with_reducible apply State.releaseGo_keeps
    | ((with_reducible show ∀ y' : State, Keeps P' o' y' → _); intro y' h')
    | ((with_reducible show ∀ (_ : _) (y' : State), Keeps P' o' y' → _); intro x' y' h')
    | ((with_reducible show ∀ (_ : _) (_ : _) (y' : State), Keeps P' o' y' → _); intro x' z' y' h'))

theorem execWriteBackTimer_keeps {P' : Prop} {o' : State} (page : Nat) {s : State} (h : Keeps P' o' s) {t : State} (e : execWriteBackTimer page s = .next t) :
    Keeps P' o' t := by
  unfold execWriteBackTimer at e
  injection e with e
  subst e
  repeat' (first
    | with_reducible assumption
    | with_reducible apply State.startWriteBack_keeps)

theorem execTierEntryLookup_keeps {P' : Prop} {o' : State} (d : DieId) (page : Nat) {s : State} (h : Keeps P' o' s) {t : State} (e : execTierEntryLookup d page s = .next t) :
    Keeps P' o' t := by
  unfold execTierEntryLookup at e
  injection e with e
  subst e
  repeat' (first
    | with_reducible assumption
    | with_reducible apply State.tierLookup_keeps
    | split)

end Sys2Proof.Machine
end

