-- ==== Sys2Proof/Laws/KeepsMaint.lean ====
section
/-! SUPPORT. What each operation of Machine/Maint.lean keeps (Laws/Keeps.lean). -/

set_option linter.unusedTactic false
set_option linter.unreachableTactic false

namespace Sys2Proof.Machine

theorem State.remeasure_keeps {P' : Prop} {o' : State} {s : State} (h : Keeps P' o' s) (i : Nat) :
    Keeps P' o' (State.remeasure s i) := by
  unfold State.remeasure
  repeat' (first
    | with_reducible assumption
    | with_reducible apply State.setSecurity_keeps)

theorem State.putMeasure_keeps {P' : Prop} {o' : State} {s : State} (h : Keeps P' o' s) (i : Nat) (v : List Byte) :
    Keeps P' o' (State.putMeasure s i v) := by
  unfold State.putMeasure
  repeat' (first
    | with_reducible assumption
    | ((with_reducible refine State.rsetBytes_keeps ?_ _ _ _ ?_ ?_); rotate_left; (· exact rfl); (· exact rfl)))

theorem execMeasurementRecomputeDone_keeps {P' : Prop} {o' : State} (index : Nat) {s : State} (h : Keeps P' o' s) {t : State} (e : execMeasurementRecomputeDone index s = .next t) :
    Keeps P' o' t := by
  unfold execMeasurementRecomputeDone at e
  injection e with e
  subst e
  repeat' (first
    | with_reducible assumption
    | with_reducible apply State.putMeasure_keeps
    | with_reducible apply State.setSecurity_keeps
    | split)

theorem State.cfsWrite_keeps {P' : Prop} {o' : State} {s : State} (h : Keeps P' o' s) (w : CfsWrite) :
    Keeps P' o' (State.cfsWrite s w) := by
  unfold State.cfsWrite
  repeat' (first
    | with_reducible assumption
    | with_reducible apply State.setCfs_keeps)

theorem State.maintSet_keeps {P' : Prop} {o' : State} {s : State} (h : Keeps P' o' s) (op phase done total : Nat) :
    Keeps P' o' (State.maintSet s op phase done total) := by
  unfold State.maintSet
  repeat' (first
    | with_reducible assumption
    | ((with_reducible refine State.fset_keeps ?_ _ _ _ ?_); rotate_left; · exact rfl))

theorem State.progress_keeps {P' : Prop} {o' : State} {s : State} (h : Keeps P' o' s) (op phase done total : Nat) :
    Keeps P' o' (State.progress s op phase done total) := by
  unfold State.progress
  repeat' (first
    | with_reducible assumption
    | with_reducible apply State.cfsWrite_keeps
    | with_reducible apply State.maintSet_keeps)

theorem State.maintEnd_keeps {P' : Prop} {o' : State} {s : State} (h : Keeps P' o' s) (op status : Nat) :
    Keeps P' o' (State.maintEnd s op status) := by
  unfold State.maintEnd
  repeat' (first
    | with_reducible assumption
    | ((with_reducible refine State.flag_keeps ?_ _ ?_); rotate_left; · exact rfl)
    | ((with_reducible refine State.fset_keeps ?_ _ _ _ ?_); rotate_left; · exact rfl))

theorem State.finishOf_keeps {P' : Prop} {o' : State} {s : State} (h : Keeps P' o' s) (op status result : Nat) :
    Keeps P' o' (State.finishOf s op status result) := by
  unfold State.finishOf
  repeat' (first
    | with_reducible assumption
    | with_reducible apply State.finish_keeps
    | split)

theorem State.dropMedia_keeps {P' : Prop} {o' : State} {s : State} (h : Keeps P' o' s) :
    Keeps P' o' (State.dropMedia s) := by
  unfold State.dropMedia
  repeat' (first
    | with_reducible assumption
    | with_reducible apply State.clearBad_keeps
    | with_reducible apply State.freeFrame_keeps
    | with_reducible apply State.setFlash_keeps
    | ((with_reducible apply Keeps.foldl); intro s' x' h')
    | ((with_reducible apply Keeps.foldl_fst); intro s' x' h')
    | ((with_reducible apply Keeps.foldl_snd); intro s' x' h')
    | ((with_reducible refine State.fset_keeps ?_ _ _ _ ?_); rotate_left; · exact rfl)
    | ((with_reducible refine State.bump_keeps ?_ _ _ _ ?_); rotate_left; · exact rfl)
    | ((with_reducible refine State.setDepot_keeps ?_ _ ?_); rotate_left; · exact rfl)
    | ((with_reducible refine State.setDepot_keeps_canonical ?_ _ ?_); rotate_left; · exact Memory.wf_clear _ _)
    | ((first | intro v' | extract_lets -underBinder +onlyGivenNames v'); (first | (refine_lift have k' : Keeps P' o' v' := ?_; ?_; (on_goal 1 => try clear_value v'); (on_goal 2 => dsimp -zeta only [v'])) | (have k'' : v'.isSome = v'.isSome := rfl; clear k''; clear_value v') | skip))
    | split)

theorem State.sanClear_keeps {P' : Prop} {o' : State} {s : State} (h : Keeps P' o' s) :
    Keeps P' o' (State.sanClear s) := by
  unfold State.sanClear
  repeat' (first
    | with_reducible assumption
    | with_reducible apply State.dropMedia_keeps
    | with_reducible apply State.flushed_keeps
    | with_reducible apply State.journal_keeps
    | with_reducible apply State.setFlash_keeps
    | ((first | intro v' | extract_lets -underBinder +onlyGivenNames v'); (first | (refine_lift have k' : Keeps P' o' v' := ?_; ?_; (on_goal 1 => try clear_value v'); (on_goal 2 => dsimp -zeta only [v'])) | (have k'' : v'.isSome = v'.isSome := rfl; clear k''; clear_value v') | skip))
    | split)

theorem State.sanFree_keeps {P' : Prop} {o' : State} {s : State} (h : Keeps P' o' s) :
    Keeps P' o' (State.sanFree s) := by
  unfold State.sanFree
  repeat' (first
    | with_reducible assumption
    | with_reducible apply State.eraseSectors_keeps
    | with_reducible apply State.rollover_keeps
    | with_reducible apply State.setCfs_keeps
    | with_reducible apply State.setFlash_keeps
    | with_reducible apply State.setSecSt_keeps
    | ((with_reducible apply Keeps.foldl); intro s' x' h')
    | ((with_reducible apply Keeps.foldl_fst); intro s' x' h')
    | ((with_reducible apply Keeps.foldl_snd); intro s' x' h')
    | ((first | intro v' | extract_lets -underBinder +onlyGivenNames v'); (first | (refine_lift have k' : Keeps P' o' v' := ?_; ?_; (on_goal 1 => try clear_value v'); (on_goal 2 => dsimp -zeta only [v'])) | (have k'' : v'.isSome = v'.isSome := rfl; clear k''; clear_value v') | skip))
    | split)

theorem State.sanPhase4_keeps {P' : Prop} {o' : State} {s : State} (h : Keeps P' o' s) :
    Keeps P' o' (State.sanPhase4 s) := by
  unfold State.sanPhase4
  repeat' (first
    | with_reducible assumption
    | with_reducible apply State.progress_keeps
    | with_reducible apply State.sanFree_keeps)

theorem State.sanDone_keeps {P' : Prop} {o' : State} {s : State} (h : Keeps P' o' s) :
    Keeps P' o' (State.sanDone s) := by
  unfold State.sanDone
  repeat' (first
    | with_reducible assumption
    | with_reducible apply State.event_keeps
    | with_reducible apply State.finishOf_keeps
    | with_reducible apply State.maintEnd_keeps
    | with_reducible apply State.progress_keeps
    | ((first | intro v' | extract_lets -underBinder +onlyGivenNames v'); (first | (refine_lift have k' : Keeps P' o' v' := ?_; ?_; (on_goal 1 => try clear_value v'); (on_goal 2 => dsimp -zeta only [v'])) | (have k'' : v'.isSome = v'.isSome := rfl; clear k''; clear_value v') | skip))
    | split)

theorem State.sanOverwritten_keeps {P' : Prop} {o' : State} {s : State} (h : Keeps P' o' s) (b failed : Nat) :
    Keeps P' o' (State.sanOverwritten s b failed) := by
  unfold State.sanOverwritten
  repeat' (first
    | with_reducible assumption
    | with_reducible apply State.progress_keeps
    | ((with_reducible refine State.bump_keeps ?_ _ _ _ ?_); rotate_left; · exact rfl)
    | ((first | intro v' | extract_lets -underBinder +onlyGivenNames v'); (first | (refine_lift have k' : Keeps P' o' v' := ?_; ?_; (on_goal 1 => try clear_value v'); (on_goal 2 => dsimp -zeta only [v'])) | (have k'' : v'.isSome = v'.isSome := rfl; clear k''; clear_value v') | skip))
    | split)

theorem State.sanFail_keeps {P' : Prop} {o' : State} (b : Nat) {s : State} (h : Keeps P' o' s) (x : Nat) :
    Keeps P' o' (State.sanFail b s x) := by
  unfold State.sanFail
  repeat' (first
    | with_reducible assumption
    | with_reducible apply State.growBad_keeps
    | with_reducible apply State.setCfs_keeps
    | ((with_reducible refine State.bump_keeps ?_ _ _ _ ?_); rotate_left; · exact rfl)
    | ((first | intro v' | extract_lets -underBinder +onlyGivenNames v'); (first | (refine_lift have k' : Keeps P' o' v' := ?_; ?_; (on_goal 1 => try clear_value v'); (on_goal 2 => dsimp -zeta only [v'])) | (have k'' : v'.isSome = v'.isSome := rfl; clear k''; clear_value v') | skip))
    | split)

theorem State.countErase_keeps {P' : Prop} {o' : State} {s : State} (h : Keeps P' o' s) (p : Nat) :
    Keeps P' o' (State.countErase s p) := by
  unfold State.countErase
  repeat' (first
    | with_reducible assumption
    | with_reducible apply State.putSec_keeps
    | ((with_reducible apply Keeps.foldl); intro s' x' h')
    | ((with_reducible apply Keeps.foldl_fst); intro s' x' h')
    | ((with_reducible apply Keeps.foldl_snd); intro s' x' h')
    | ((with_reducible refine State.fset_keeps ?_ _ _ _ ?_); rotate_left; · exact rfl)
    | ((first | intro v' | extract_lets -underBinder +onlyGivenNames v'); (first | (refine_lift have k' : Keeps P' o' v' := ?_; ?_; (on_goal 1 => try clear_value v'); (on_goal 2 => dsimp -zeta only [v'])) | (have k'' : v'.isSome = v'.isSome := rfl; clear k''; clear_value v') | skip))
    | split)

theorem State.sanErased_keeps {P' : Prop} {o' : State} {s : State} (h : Keeps P' o' s) (b : Nat) (failed : List Nat) :
    Keeps P' o' (State.sanErased s b failed) := by
  unfold State.sanErased
  repeat' (first
    | with_reducible assumption
    | with_reducible apply State.countErase_keeps
    | with_reducible apply State.progress_keeps
    | with_reducible apply State.sanFail_keeps
    | with_reducible apply State.sanPhase4_keeps
    | ((with_reducible apply Keeps.foldl); intro s' x' h')
    | ((with_reducible apply Keeps.foldl_fst); intro s' x' h')
    | ((with_reducible apply Keeps.foldl_snd); intro s' x' h')
    | ((first | intro v' | extract_lets -underBinder +onlyGivenNames v'); (first | (refine_lift have k' : Keeps P' o' v' := ?_; ?_; (on_goal 1 => try clear_value v'); (on_goal 2 => dsimp -zeta only [v'])) | (have k'' : v'.isSome = v'.isSome := rfl; clear k''; clear_value v') | skip))
    | split)

theorem State.formatErased_keeps {P' : Prop} {o' : State} {s : State} (h : Keeps P' o' s) (p : Nat) :
    Keeps P' o' (State.formatErased s p) := by
  unfold State.formatErased
  repeat' (first
    | with_reducible assumption
    | with_reducible apply State.event_keeps
    | with_reducible apply State.maintEnd_keeps
    | with_reducible apply State.progress_keeps
    | with_reducible apply State.setFlash_keeps
    | ((first | intro v' | extract_lets -underBinder +onlyGivenNames v'); (first | (refine_lift have k' : Keeps P' o' v' := ?_; ?_; (on_goal 1 => try clear_value v'); (on_goal 2 => dsimp -zeta only [v'])) | (have k'' : v'.isSome = v'.isSome := rfl; clear k''; clear_value v') | skip))
    | split)

theorem State.activationBy_keeps {P' : Prop} {o' : State} {s : State} (h : Keeps P' o' s) (region : Nat) (x0 : Option Nat) :
    Keeps P' o' (State.activationBy s region x0) := by
  unfold State.activationBy
  repeat' (first
    | with_reducible assumption
    | with_reducible apply State.finish_keeps
    | split)

theorem State.activated_keeps {P' : Prop} {o' : State} {s : State} (h : Keeps P' o' s) (region : Nat) :
    Keeps P' o' (State.activated s region) := by
  unfold State.activated
  repeat' (first
    | with_reducible assumption
    | with_reducible apply State.activationBy_keeps
    | with_reducible apply State.event_keeps
    | with_reducible apply State.maintEnd_keeps
    | with_reducible apply State.progress_keeps
    | with_reducible apply State.remeasure_keeps
    | with_reducible apply State.setPower_keeps
    | ((with_reducible refine State.fset_keeps ?_ _ _ _ ?_); rotate_left; · exact rfl)
    | ((with_reducible refine State.bump_keeps ?_ _ _ _ ?_); rotate_left; · exact rfl)
    | ((first | intro v' | extract_lets -underBinder +onlyGivenNames v'); (first | (refine_lift have k' : Keeps P' o' v' := ?_; ?_; (on_goal 1 => try clear_value v'); (on_goal 2 => dsimp -zeta only [v'])) | (have k'' : v'.isSome = v'.isSome := rfl; clear k''; clear_value v') | skip))
    | split)

end Sys2Proof.Machine
end

