-- ==== Sys2Proof/Laws/KeepsSlots.lean ====
section
/-! SUPPORT. What each operation of Machine/Slots.lean keeps (Laws/Keeps.lean). -/

set_option linter.unusedTactic false
set_option linter.unreachableTactic false

namespace Sys2Proof.Machine

theorem State.moveTables_keeps {P' : Prop} {o' : State} {s : State} (h : Keeps P' o' s) (d add sub : Nat) :
    Keeps P' o' (State.moveTables s d add sub) := by
  unfold State.moveTables
  repeat' (first
    | with_reducible assumption
    | ((with_reducible refine State.setDepot_keeps ?_ _ ?_); rotate_left; · exact rfl))

theorem State.takePlace_keeps {P' : Prop} {o' : State} (slot : Nat) {s : State} (h : Keeps P' o' s) (p : StnImage) :
    Keeps P' o' (State.takePlace slot s p) := by
  unfold State.takePlace
  repeat' (first
    | with_reducible assumption
    | ((with_reducible refine State.fset_keeps ?_ _ _ _ ?_); rotate_left; · exact Fld.plain_of_full _ rfl rfl)
    | ((with_reducible refine State.fset_keeps ?_ _ _ _ ?_); rotate_left; · exact rfl)
    | ((with_reducible refine State.dip_keeps ?_ _ _ _ ?_); rotate_left; · exact Fld.plain_of_full _ rfl rfl)
    | ((with_reducible refine State.dip_keeps ?_ _ _ _ ?_); rotate_left; · exact rfl))

theorem State.dropPlace_keeps {P' : Prop} {o' : State} {s : State} (h : Keeps P' o' s) (p : StnImage) :
    Keeps P' o' (State.dropPlace s p) := by
  unfold State.dropPlace
  repeat' (first
    | with_reducible assumption
    | ((with_reducible refine State.fset_keeps ?_ _ _ _ ?_); rotate_left; · exact Fld.plain_of_full _ rfl rfl)
    | ((with_reducible refine State.fset_keeps ?_ _ _ _ ?_); rotate_left; · exact rfl)
    | ((with_reducible refine State.bump_keeps ?_ _ _ _ ?_); rotate_left; · exact Fld.plain_of_full _ rfl rfl)
    | ((with_reducible refine State.bump_keeps ?_ _ _ _ ?_); rotate_left; · exact rfl))

theorem State.platformFree_keeps {P' : Prop} {o' : State} {s : State} (h : Keeps P' o' s) (st : Nat) :
    Keeps P' o' (State.platformFree s st) := by
  unfold State.platformFree
  repeat' (first
    | with_reducible assumption
    | ((with_reducible refine State.fset_keeps ?_ _ _ _ ?_); rotate_left; · exact rfl))

theorem State.reserveImage_keeps {P' : Prop} {o' : State} {s : State} (h : Keeps P' o' s) (slot : Nat) (im : Image) :
    KeepsOpt2 P' o' (State.reserveImage s slot im) := by
  unfold State.reserveImage
  repeat' (first
    | with_reducible assumption
    | with_reducible exact Keeps.opt_none
    | with_reducible apply Keeps.opt_some
    | with_reducible exact Keeps.opt1_none
    | with_reducible apply Keeps.opt1_some
    | with_reducible exact Keeps.opt2_none
    | with_reducible apply Keeps.opt2_some
    | (with_reducible apply Keeps.opt2_map; intro x''; with_reducible apply Keeps.foldl; intro s' x' h')
    | with_reducible apply State.allocScratch_keeps
    | with_reducible apply State.layOver_keeps
    | with_reducible apply State.moveTables_keeps
    | with_reducible apply State.takePlace_keeps
    | ((with_reducible apply Keeps.foldl); intro s' x' h')
    | ((with_reducible apply Keeps.foldl_fst); intro s' x' h')
    | ((with_reducible apply Keeps.foldl_snd); intro s' x' h')
    | (refine Keeps.ofOpt2 ?_ (by with_reducible assumption))
    | ((first | intro v' | extract_lets -underBinder +onlyGivenNames v'); (first | (refine_lift have k' : Keeps P' o' v' := ?_; ?_; (on_goal 1 => try clear_value v'); (on_goal 2 => dsimp -zeta only [v'])) | (refine_lift have k' : Keeps P' o' v'.2 := ?_; ?_; (on_goal 1 => try clear_value v'); (on_goal 2 => dsimp -zeta only [v'])) | (have k'' : v'.isSome = v'.isSome := rfl; clear k''; clear_value v') | skip))
    | split
    | (clear_value *; split))

theorem State.releaseImage_keeps {P' : Prop} {o' : State} {s : State} (h : Keeps P' o' s) (im : Image) :
    Keeps P' o' (State.releaseImage s im) := by
  unfold State.releaseImage
  repeat' (first
    | with_reducible assumption
    | with_reducible apply State.dropPlace_keeps
    | with_reducible apply State.freeScratch_keeps
    | with_reducible apply State.moveTables_keeps
    | ((with_reducible apply Keeps.foldl); intro s' x' h')
    | ((with_reducible apply Keeps.foldl_fst); intro s' x' h')
    | ((with_reducible apply Keeps.foldl_snd); intro s' x' h')
    | ((first | intro v' | extract_lets -underBinder +onlyGivenNames v'); (first | (refine_lift have k' : Keeps P' o' v' := ?_; ?_; (on_goal 1 => try clear_value v'); (on_goal 2 => dsimp -zeta only [v'])) | (have k'' : v'.isSome = v'.isSome := rfl; clear k''; clear_value v') | skip))
    | split)

theorem State.platformsFree_keeps {P' : Prop} {o' : State} {s : State} (h : Keeps P' o' s) (sts : List Nat) :
    Keeps P' o' (State.platformsFree s sts) := by
  unfold State.platformsFree
  repeat' (first
    | with_reducible assumption
    | with_reducible apply State.platformFree_keeps
    | ((with_reducible apply Keeps.foldl); intro s' x' h')
    | ((with_reducible apply Keeps.foldl_fst); intro s' x' h')
    | ((with_reducible apply Keeps.foldl_snd); intro s' x' h'))

theorem State.showImage_keeps {P' : Prop} {o' : State} {s : State} (h : Keeps P' o' s) (k : Nat) (im : Image) :
    Keeps P' o' (State.showImage s k im) := by
  unfold State.showImage
  repeat' (first
    | with_reducible assumption
    | with_reducible apply State.remeasure_keeps
    | ((with_reducible apply Keeps.foldl); intro s' x' h')
    | ((with_reducible apply Keeps.foldl_fst); intro s' x' h')
    | ((with_reducible apply Keeps.foldl_snd); intro s' x' h')
    | ((with_reducible refine State.fset_keeps ?_ _ _ _ ?_); rotate_left; · exact rfl)
    | ((first | intro v' | extract_lets -underBinder +onlyGivenNames v'); (first | (refine_lift have k' : Keeps P' o' v' := ?_; ?_; (on_goal 1 => try clear_value v'); (on_goal 2 => dsimp -zeta only [v'])) | (have k'' : v'.isSome = v'.isSome := rfl; clear k''; clear_value v') | skip))
    | split)

theorem State.clearSlot_keeps {P' : Prop} {o' : State} {s : State} (h : Keeps P' o' s) (k : Nat) :
    Keeps P' o' (State.clearSlot s k) := by
  unfold State.clearSlot
  repeat' (first
    | with_reducible assumption
    | with_reducible apply State.remeasure_keeps
    | with_reducible apply State.setSlot_keeps
    | ((with_reducible refine State.rset_keeps ?_ _ _ _ ?_ (fun z => ?_)); rotate_left; · exact rfl)
    | exact Reg.fits_zero _
    | ((first | intro v' | extract_lets -underBinder +onlyGivenNames v'); (first | (refine_lift have k' : Keeps P' o' v' := ?_; ?_; (on_goal 1 => try clear_value v'); (on_goal 2 => dsimp -zeta only [v'])) | (have k'' : v'.isSome = v'.isSome := rfl; clear k''; clear_value v') | skip))
    | split)

theorem State.reissue_keeps {P' : Prop} {o' : State} {s : State} (h : Keeps P' o' s) :
    Keeps P' o' (State.reissue s) := by
  unfold State.reissue
  repeat' (first
    | with_reducible assumption
    | with_reducible apply State.setTt_keeps
    | ((first | intro v' | extract_lets -underBinder +onlyGivenNames v'); (first | (refine_lift have k' : Keeps P' o' v' := ?_; ?_; (on_goal 1 => try clear_value v'); (on_goal 2 => dsimp -zeta only [v'])) | (have k'' : v'.isSome = v'.isSome := rfl; clear k''; clear_value v') | skip))
    | split)

theorem State.endHandover_keeps {P' : Prop} {o' : State} {s : State} (h : Keeps P' o' s) (k : Nat) :
    Keeps P' o' (State.endHandover s k) := by
  unfold State.endHandover
  repeat' (first
    | with_reducible assumption
    | with_reducible apply State.platformsFree_keeps
    | with_reducible apply State.reissue_keeps
    | with_reducible apply State.releaseImage_keeps
    | with_reducible apply State.setSlot_keeps
    | ((with_reducible refine State.fset_keeps ?_ _ _ _ ?_); rotate_left; · exact rfl)
    | ((first | intro v' | extract_lets -underBinder +onlyGivenNames v'); (first | (refine_lift have k' : Keeps P' o' v' := ?_; ?_; (on_goal 1 => try clear_value v'); (on_goal 2 => dsimp -zeta only [v'])) | (have k'' : v'.isSome = v'.isSome := rfl; clear k''; clear_value v') | skip))
    | split
    | (clear_value *; split))

theorem State.handoverCheck_keeps {P' : Prop} {o' : State} {s : State} (h : Keeps P' o' s) (k : Nat) :
    Keeps P' o' (State.handoverCheck s k) := by
  unfold State.handoverCheck
  repeat' (first
    | with_reducible assumption
    | with_reducible apply State.endHandover_keeps
    | split)

end Sys2Proof.Machine
end

