-- ==== Sys2Proof/Laws/KeepsJobsCore.lean ====
section
/-! SUPPORT. What each operation of Machine/JobsCore.lean keeps (Laws/Keeps.lean). -/

set_option linter.unusedTactic false
set_option linter.unreachableTactic false

namespace Sys2Proof.Machine

theorem State.settleSignals_keeps {P' : Prop} {o' : State} {s : State} (h : Keeps P' o' s) (j : Nat) :
    Keeps P' o' (State.settleSignals s j) := by
  have go : ∀ (ps : List Nat) (y : State), Keeps P' o' y →
      Keeps P' o' (ps.foldl (fun s p => if s.open p then s.finish p 0 0 else s) y) := fun ps y hy =>
    Keeps.foldl (fun s' x' h' => by
      split
      · exact State.finish_keeps h' _ _ _
      · exact h') ps hy
  unfold State.settleSignals
  extract_lets a s1 b
  have k1 : Keeps P' o' s1 := by
    show Keeps P' o' (if _ then _ else _)
    split
    · exact State.setJob_keeps (go _ _ h) _ _
    · exact h
  clear_value s1
  split
  · exact State.setJob_keeps (go _ _ k1) _ _
  · exact k1

theorem State.showBounds_keeps {P' : Prop} {o' : State} {s : State} (h : Keeps P' o' s) :
    Keeps P' o' (State.showBounds s) := by
  unfold State.showBounds
  repeat' (first
    | with_reducible assumption
    | ((with_reducible apply Keeps.foldl); intro s' x' h')
    | ((with_reducible apply Keeps.foldl_fst); intro s' x' h')
    | ((with_reducible apply Keeps.foldl_snd); intro s' x' h')
    | ((with_reducible refine State.fset_keeps ?_ _ _ _ ?_); rotate_left; · exact rfl)
    | ((first | intro v' | extract_lets -underBinder +onlyGivenNames v'); (first | (refine_lift have k' : Keeps P' o' v' := ?_; ?_; (on_goal 1 => try clear_value v'); (on_goal 2 => dsimp -zeta only [v'])) | (have k'' : v'.isSome = v'.isSome := rfl; clear k''; clear_value v') | skip))
    | split)

theorem State.unexpress_keeps {P' : Prop} {o' : State} {s : State} (h : Keeps P' o' s) (j : Nat) :
    Keeps P' o' (State.unexpress s j) := by
  unfold State.unexpress
  repeat' (first
    | with_reducible assumption
    | ((with_reducible apply Keeps.foldl); intro s' x' h')
    | ((with_reducible apply Keeps.foldl_fst); intro s' x' h')
    | ((with_reducible apply Keeps.foldl_snd); intro s' x' h')
    | ((with_reducible refine State.fset_keeps ?_ _ _ _ ?_); rotate_left; · exact rfl)
    | ((with_reducible refine State.setStn_keeps ?_ _ _ ?_); rotate_left; · exact id)
    | split)

theorem State.expressDrop_keeps {P' : Prop} {o' : State} {s : State} (h : Keeps P' o' s) (j : Nat) :
    Keeps P' o' (State.expressDrop s j) := by
  unfold State.expressDrop
  repeat' (first
    | with_reducible assumption
    | with_reducible apply State.event_keeps
    | ((with_reducible refine State.flag_keeps ?_ _ ?_); rotate_left; · exact rfl)
    | with_reducible apply State.unexpress_keeps
    | ((first | intro v' | extract_lets -underBinder +onlyGivenNames v'); (first | (refine_lift have k' : Keeps P' o' v' := ?_; ?_; (on_goal 1 => try clear_value v'); (on_goal 2 => dsimp -zeta only [v'])) | (have k'' : v'.isSome = v'.isSome := rfl; clear k''; clear_value v') | skip))
    | split)

theorem State.expressAgain_keeps {P' : Prop} {o' : State} {s : State} (h : Keeps P' o' s) :
    Keeps P' o' (State.expressAgain s) := by
  unfold State.expressAgain
  repeat' (first
    | with_reducible assumption
    | with_reducible apply State.expressDrop_keeps
    | with_reducible apply State.showBounds_keeps
    | ((with_reducible apply Keeps.foldl); intro s' x' h')
    | ((with_reducible apply Keeps.foldl_fst); intro s' x' h')
    | ((with_reducible apply Keeps.foldl_snd); intro s' x' h'))

theorem State.freeStaging_keeps {P' : Prop} {o' : State} {s : State} (h : Keeps P' o' s) (j : Nat) :
    Keeps P' o' (State.freeStaging s j) := by
  unfold State.freeStaging
  repeat' (first
    | with_reducible assumption
    | with_reducible apply State.freeScratch_keeps
    | ((first | intro v' | extract_lets -underBinder +onlyGivenNames v'); (first | (refine_lift have k' : Keeps P' o' v' := ?_; ?_; (on_goal 1 => try clear_value v'); (on_goal 2 => dsimp -zeta only [v'])) | (have k'' : v'.isSome = v'.isSome := rfl; clear k''; clear_value v') | skip))
    | split
    | (clear_value *; split))

theorem State.unpinPage_keeps {P' : Prop} {o' : State} {s : State} (h : Keeps P' o' s) (p : Nat) :
    Keeps P' o' (State.unpinPage s p) := by
  unfold State.unpinPage
  repeat' (first
    | with_reducible assumption
    | with_reducible apply State.dropFrame_keeps
    | with_reducible apply State.setPage_keeps
    | with_reducible apply State.startWriteBack_keeps
    | ((with_reducible refine State.setDepot_keeps ?_ _ ?_); rotate_left; · exact rfl)
    | ((first | intro v' | extract_lets -underBinder +onlyGivenNames v'); (first | (refine_lift have k' : Keeps P' o' v' := ?_; ?_; (on_goal 1 => try clear_value v'); (on_goal 2 => dsimp -zeta only [v'])) | (have k'' : v'.isSome = v'.isSome := rfl; clear k''; clear_value v') | skip))
    | split)

theorem State.releaseLayers_keeps {P' : Prop} {o' : State} {s : State} (h : Keeps P' o' s) (j : Nat) (gone : Nat → Bool) :
    Keeps P' o' (State.releaseLayers s j gone) := by
  unfold State.releaseLayers
  repeat' (first
    | with_reducible assumption
    | with_reducible apply State.setJob_keeps
    | with_reducible apply State.unpinPage_keeps
    | ((with_reducible apply Keeps.foldl); intro s' x' h')
    | ((with_reducible apply Keeps.foldl_fst); intro s' x' h')
    | ((with_reducible apply Keeps.foldl_snd); intro s' x' h')
    | ((first | intro v' | extract_lets -underBinder +onlyGivenNames v'); (first | (refine_lift have k' : Keeps P' o' v' := ?_; ?_; (on_goal 1 => try clear_value v'); (on_goal 2 => dsimp -zeta only [v'])) | (have k'' : v'.isSome = v'.isSome := rfl; clear k''; clear_value v') | skip))
    | split)

theorem State.endJob_keeps {P' : Prop} {o' : State} {s : State} (h : Keeps P' o' s) (j : Nat) :
    Keeps P' o' (State.endJob s j) := by
  unfold State.endJob
  repeat' (first
    | with_reducible assumption
    | with_reducible apply State.expressAgain_keeps
    | with_reducible apply State.freeScratch_keeps
    | with_reducible apply State.freeStaging_keeps
    | with_reducible apply State.handoverCheck_keeps
    | with_reducible apply State.releaseLayers_keeps
    | with_reducible apply State.setJob_keeps
    | with_reducible apply State.settleSignals_keeps
    | with_reducible apply State.unexpress_keeps
    | ((with_reducible refine State.fset_keeps ?_ _ _ _ ?_); rotate_left; · exact rfl)
    | ((with_reducible refine State.dip_keeps ?_ _ _ _ ?_); rotate_left; · exact rfl)
    | ((with_reducible refine State.setDepot_keeps ?_ _ ?_); rotate_left; · exact rfl)
    | ((first | intro v' | extract_lets -underBinder +onlyGivenNames v'); (first | (refine_lift have k' : Keeps P' o' v' := ?_; ?_; (on_goal 1 => try clear_value v'); (on_goal 2 => dsimp -zeta only [v'])) | (have k'' : v'.isSome = v'.isSome := rfl; clear k''; clear_value v') | skip))
    | split)

theorem State.refresh_keeps {P' : Prop} {o' : State} {s : State} (h : Keeps P' o' s) (j : Nat) :
    Keeps P' o' (State.refresh s j) := by
  unfold State.refresh
  repeat' (first
    | with_reducible assumption
    | with_reducible apply State.endJob_keeps
    | with_reducible apply State.settleSignals_keeps
    | ((with_reducible refine State.fset_keeps ?_ _ _ _ ?_); rotate_left; · exact rfl)
    | ((first | intro v' | extract_lets -underBinder +onlyGivenNames v'); (first | (refine_lift have k' : Keeps P' o' v' := ?_; ?_; (on_goal 1 => try clear_value v'); (on_goal 2 => dsimp -zeta only [v'])) | (have k'' : v'.isSome = v'.isSome := rfl; clear k''; clear_value v') | skip))
    | split)

theorem State.loadConfig_keeps {P' : Prop} {o' : State} {s : State} (h : Keeps P' o' s) (j : Nat) (im : Image) :
    Keeps P' o' (State.loadConfig s j im) := by
  unfold State.loadConfig
  repeat' (first
    | with_reducible assumption
    | ((with_reducible refine State.fset_keeps ?_ _ _ _ ?_); rotate_left; · exact rfl)
    | ((first | intro v' | extract_lets -underBinder +onlyGivenNames v'); (first | (refine_lift have k' : Keeps P' o' v' := ?_; ?_; (on_goal 1 => try clear_value v'); (on_goal 2 => dsimp -zeta only [v'])) | (have k'' : v'.isSome = v'.isSome := rfl; clear k''; clear_value v') | skip))
    | split)

theorem State.clearJobCounters_keeps {P' : Prop} {o' : State} {s : State} (h : Keeps P' o' s) (j : Nat) :
    Keeps P' o' (State.clearJobCounters s j) := by
  unfold State.clearJobCounters
  repeat' (first
    | with_reducible assumption
    | ((with_reducible apply Keeps.foldl); intro s' x' h')
    | ((with_reducible apply Keeps.foldl_fst); intro s' x' h')
    | ((with_reducible apply Keeps.foldl_snd); intro s' x' h')
    | ((with_reducible refine State.fset_keeps ?_ _ _ _ ?_); rotate_left; · exact Fld.plain_of_full _ rfl rfl)
    | ((with_reducible refine State.fset_keeps ?_ _ _ _ ?_); rotate_left; · exact rfl)
    | ((with_reducible refine State.rset_keeps ?_ _ _ _ ?_ (fun z => ?_)); rotate_left; · exact rfl)
    | exact Reg.fits_zero _
    | ((first | intro v' | extract_lets -underBinder +onlyGivenNames v'); (first | (refine_lift have k' : Keeps P' o' v' := ?_; ?_; (on_goal 1 => try clear_value v'); (on_goal 2 => dsimp -zeta only [v'])) | (have k'' : v'.isSome = v'.isSome := rfl; clear k''; clear_value v') | skip))
    | split)

theorem State.bindTo_keeps {P' : Prop} {o' : State} {s : State} (h : Keeps P' o' s) (j k : Nat) (im : Image) (h : JobHold) :
    Keeps P' o' (State.bindTo s j k im h) := by
  unfold State.bindTo
  repeat' (first
    | with_reducible assumption
    | with_reducible apply State.clearJobCounters_keeps
    | with_reducible apply State.expressAgain_keeps
    | with_reducible apply State.loadConfig_keeps
    | with_reducible apply State.setJob_keeps
    | ((with_reducible refine State.fset_keeps ?_ _ _ _ ?_); rotate_left; · exact rfl)
    | ((with_reducible refine State.bump_keeps ?_ _ _ _ ?_); rotate_left; · exact rfl)
    | ((first | intro v' | extract_lets -underBinder +onlyGivenNames v'); (first | (refine_lift have k' : Keeps P' o' v' := ?_; ?_; (on_goal 1 => try clear_value v'); (on_goal 2 => dsimp -zeta only [v'])) | (have k'' : v'.isSome = v'.isSome := rfl; clear k''; clear_value v') | skip))
    | split)

theorem State.bind_keeps {P' : Prop} {o' : State} {s : State} (h : Keeps P' o' s) (j k mask : Nat) :
    Keeps P' o' (State.bind s j k mask).2 := by
  unfold State.bind
  repeat' (first
    | with_reducible assumption
    | with_reducible apply State.allocScratch_keeps
    | with_reducible apply State.bindTo_keeps
    | ((with_reducible refine State.setDepot_keeps ?_ _ ?_); rotate_left; · exact rfl)
    | with_reducible exact Keeps.opt2_none
    | with_reducible apply Keeps.opt2_some
    | with_reducible apply Keeps.opt2_getD
    | (with_reducible apply Keeps.opt2_bind; intro x'')
    | (refine Keeps.ofOpt2 ?_ (by with_reducible assumption))
    | ((first | intro v' | extract_lets -underBinder +onlyGivenNames v'); (first | (refine_lift have k' : Keeps P' o' v' := ?_; ?_; (on_goal 1 => try clear_value v'); (on_goal 2 => dsimp -zeta only [v'])) | (refine_lift have k' : Keeps P' o' v'.2 := ?_; ?_; (on_goal 1 => try clear_value v'); (on_goal 2 => dsimp -zeta only [v'])) | (have k'' : v'.isSome = v'.isSome := rfl; clear k''; clear_value v') | skip))
    | split
    | (clear_value *; split))

theorem State.bindBase_keeps {P' : Prop} {o' : State} {s : State} (h : Keeps P' o' s) :
    Keeps P' o' (State.bindBase s) := by
  unfold State.bindBase
  repeat' (first
    | with_reducible assumption
    | with_reducible apply State.allocScratch_keeps
    | with_reducible apply State.bindTo_keeps
    | with_reducible exact Keeps.opt2_none
    | with_reducible apply Keeps.opt2_some
    | with_reducible apply Keeps.opt2_getD
    | (with_reducible apply Keeps.opt2_bind; intro x'')
    | (refine Keeps.ofOpt2 ?_ (by with_reducible assumption))
    | ((first | intro v' | extract_lets -underBinder +onlyGivenNames v'); (first | (refine_lift have k' : Keeps P' o' v' := ?_; ?_; (on_goal 1 => try clear_value v'); (on_goal 2 => dsimp -zeta only [v'])) | (refine_lift have k' : Keeps P' o' v'.2 := ?_; ?_; (on_goal 1 => try clear_value v'); (on_goal 2 => dsimp -zeta only [v'])) | (have k'' : v'.isSome = v'.isSome := rfl; clear k''; clear_value v') | skip))
    | split
    | (clear_value *; split))

theorem State.setBalance_keeps {P' : Prop} {o' : State} {s : State} (h : Keeps P' o' s) (st j : Nat) (b : Int) :
    Keeps P' o' (State.setBalance s st j b) := by
  unfold State.setBalance
  repeat' (first
    | with_reducible assumption
    | ((with_reducible refine State.setStn_keeps ?_ _ _ ?_); rotate_left; · exact id))

theorem State.charge_keeps {P' : Prop} {o' : State} {s : State} (h : Keeps P' o' s) (st j n : Nat) :
    Keeps P' o' (State.charge s st j n) := by
  unfold State.charge
  repeat' (first
    | with_reducible assumption
    | with_reducible apply State.setBalance_keeps
    | ((with_reducible refine State.bump_keeps ?_ _ _ _ ?_); rotate_left; · exact rfl))

theorem State.setCtx_keeps {P' : Prop} {o' : State} {s : State} (h : Keeps P' o' s) (st n j : Nat) (c : LaneCtx) :
    Keeps P' o' (State.setCtx s st n j c) := by
  unfold State.setCtx
  repeat' (first
    | with_reducible assumption
    | ((with_reducible refine State.setLane_keeps ?_ _ _ _ ?_); rotate_left; · exact id))

theorem State.startStream_keeps {P' : Prop} {o' : State} (st place j : Nat) {s : State} (h : Keeps P' o' s) (e : StreamE) :
    Keeps P' o' (State.startStream st place j s e) := by
  unfold State.startStream
  repeat' (first
    | with_reducible assumption
    | ((with_reducible refine State.fset_keeps ?_ _ _ _ ?_); rotate_left; · exact rfl)
    | ((with_reducible refine State.setStn_keeps ?_ _ _ ?_); rotate_left; · exact id)
    | ((first | intro v' | extract_lets -underBinder +onlyGivenNames v'); (first | (refine_lift have k' : Keeps P' o' v' := ?_; ?_; (on_goal 1 => try clear_value v'); (on_goal 2 => dsimp -zeta only [v'])) | (have k'' : v'.isSome = v'.isSome := rfl; clear k''; clear_value v') | skip))
    | split)

theorem State.beginOn_keeps {P' : Prop} {o' : State} {s : State} (h : Keeps P' o' s) (st j : Nat) (im : Image) :
    Keeps P' o' (State.beginOn s st j im) := by
  unfold State.beginOn
  repeat' (first
    | with_reducible assumption
    | with_reducible apply State.setCtx_keeps
    | with_reducible apply State.startStream_keeps
    | ((with_reducible apply Keeps.foldl); intro s' x' h')
    | ((with_reducible apply Keeps.foldl_fst); intro s' x' h')
    | ((with_reducible apply Keeps.foldl_snd); intro s' x' h')
    | ((with_reducible show ∀ y' : State, Keeps P' o' y' → _); intro y' h')
    | ((with_reducible show ∀ (_ : _) (y' : State), Keeps P' o' y' → _); intro x' y' h')
    | ((with_reducible show ∀ (_ : _) (_ : _) (y' : State), Keeps P' o' y' → _); intro x' z' y' h')
    | ((first | intro v' | extract_lets -underBinder +onlyGivenNames v'); (first | (refine_lift have k' : Keeps P' o' v' := ?_; ?_; (on_goal 1 => try clear_value v'); (on_goal 2 => dsimp -zeta only [v'])) | (refine_lift have kf' : ∀ y', Keeps P' o' y' → Keeps P' o' (v' y') := ?_; ?_; (on_goal 1 => try clear_value v'); (on_goal 2 => intro y' h'; dsimp -zeta only [v'])) | (have k'' : v'.isSome = v'.isSome := rfl; clear k''; clear_value v') | skip))
    | with_reducible apply kf'
    | split
    | (clear_value *; split))

theorem State.stageInputs_keeps {P' : Prop} {o' : State} {s : State} (h : Keeps P' o' s) (rows : List BatchRow) (size cap at_ : Nat) :
    Keeps P' o' (State.stageInputs s rows size cap at_).1 := by
  unfold State.stageInputs
  repeat' (first
    | with_reducible assumption
    | with_reducible apply State.store_keeps
    | ((first | intro v' | extract_lets -underBinder +onlyGivenNames v'); (first | (refine_lift have k' : Keeps P' o' v' := ?_; ?_; (on_goal 1 => try clear_value v'); (on_goal 2 => dsimp -zeta only [v'])) | (have k'' : v'.isSome = v'.isSome := rfl; clear k''; clear_value v') | skip))
    | split)

theorem State.stageRun_keeps {P' : Prop} {o' : State} {s : State} (h : Keeps P' o' s) (j : Nat) :
    Keeps P' o' (State.stageRun s j) := by
  unfold State.stageRun
  repeat' (first
    | with_reducible assumption
    | with_reducible apply State.setJob_keeps
    | with_reducible apply State.stageInputs_keeps
    | ((first | intro v' | extract_lets -underBinder +onlyGivenNames v'); (first | (refine_lift have k' : Keeps P' o' v' := ?_; ?_; (on_goal 1 => try clear_value v'); (on_goal 2 => dsimp -zeta only [v'])) | (refine_lift have k' : Keeps P' o' v'.1 := ?_; ?_; (on_goal 1 => try clear_value v'); (on_goal 2 => dsimp -zeta only [v'])) | (have k'' : v'.isSome = v'.isSome := rfl; clear k''; clear_value v') | skip))
    | split
    | (clear_value *; split))

theorem State.moveHome_keeps {P' : Prop} {o' : State} {s : State} (h : Keeps P' o' s) (j die : Nat) :
    Keeps P' o' (State.moveHome s j die) := by
  unfold State.moveHome
  repeat' (first
    | with_reducible assumption
    | with_reducible apply State.setJob_keeps
    | ((with_reducible refine State.fset_keeps ?_ _ _ _ ?_); rotate_left; · exact rfl)
    | ((first | intro v' | extract_lets -underBinder +onlyGivenNames v'); (first | (refine_lift have k' : Keeps P' o' v' := ?_; ?_; (on_goal 1 => try clear_value v'); (on_goal 2 => dsimp -zeta only [v'])) | (have k'' : v'.isSome = v'.isSome := rfl; clear k''; clear_value v') | skip))
    | split
    | (clear_value *; split))

theorem State.beginRun_keeps {P' : Prop} {o' : State} {s : State} (h : Keeps P' o' s) (j : Nat) :
    Keeps P' o' (State.beginRun s j) := by
  unfold State.beginRun
  repeat' (first
    | with_reducible assumption
    | with_reducible apply State.handoverCheck_keeps
    | with_reducible apply State.loadConfig_keeps
    | with_reducible apply State.moveHome_keeps
    | with_reducible apply State.setJob_keeps
    | with_reducible apply State.setSlot_keeps
    | with_reducible apply State.showBounds_keeps
    | ((with_reducible refine State.fset_keeps ?_ _ _ _ ?_); rotate_left; · exact rfl)
    | ((with_reducible refine State.bump_keeps ?_ _ _ _ ?_); rotate_left; · exact rfl)
    | ((first | intro v' | extract_lets -underBinder +onlyGivenNames v'); (first | (refine_lift have k' : Keeps P' o' v' := ?_; ?_; (on_goal 1 => try clear_value v'); (on_goal 2 => dsimp -zeta only [v'])) | (have k'' : v'.isSome = v'.isSome := rfl; clear k''; clear_value v') | skip))
    | split
    | (clear_value *; split))

theorem State.giveStation_keeps {P' : Prop} {o' : State} {s : State} (h : Keeps P' o' s) (st j : Nat) :
    Keeps P' o' (State.giveStation s st j) := by
  unfold State.giveStation
  repeat' (first
    | with_reducible assumption
    | with_reducible apply State.beginOn_keeps
    | with_reducible apply State.beginRun_keeps
    | with_reducible apply State.refresh_keeps
    | with_reducible apply State.setJob_keeps
    | with_reducible apply State.stageRun_keeps
    | ((with_reducible refine State.setStn_keeps ?_ _ _ ?_); rotate_left; · exact id)
    | ((first | intro v' | extract_lets -underBinder +onlyGivenNames v'); (first | (refine_lift have k' : Keeps P' o' v' := ?_; ?_; (on_goal 1 => try clear_value v'); (on_goal 2 => dsimp -zeta only [v'])) | (have k'' : v'.isSome = v'.isSome := rfl; clear k''; clear_value v') | skip))
    | split
    | (clear_value *; split))

theorem State.orderOut_keeps {P' : Prop} {o' : State} {s : State} (h : Keeps P' o' s) (st : Nat) (c : SwitchCause) :
    Keeps P' o' (State.orderOut s st c) := by
  unfold State.orderOut
  repeat' (first
    | with_reducible assumption
    | with_reducible apply State.refresh_keeps
    | ((with_reducible refine State.bump_keeps ?_ _ _ _ ?_); rotate_left; · exact rfl)
    | ((with_reducible refine State.setStn_keeps ?_ _ _ ?_); rotate_left; · exact id)
    | split)

theorem State.expressTake_keeps {P' : Prop} {o' : State} {s : State} (h : Keeps P' o' s) (st : Nat) :
    Keeps P' o' (State.expressTake s st) := by
  unfold State.expressTake
  repeat' (first
    | with_reducible assumption
    | with_reducible apply State.giveStation_keeps
    | with_reducible apply State.orderOut_keeps
    | ((first | intro v' | extract_lets -underBinder +onlyGivenNames v'); (first | (refine_lift have k' : Keeps P' o' v' := ?_; ?_; (on_goal 1 => try clear_value v'); (on_goal 2 => dsimp -zeta only [v'])) | (have k'' : v'.isSome = v'.isSome := rfl; clear k''; clear_value v') | skip))
    | split
    | (clear_value *; split))

theorem State.expressReady_keeps {P' : Prop} {o' : State} {s : State} (h : Keeps P' o' s) (j : Nat) :
    Keeps P' o' (State.expressReady s j) := by
  unfold State.expressReady
  repeat' (first
    | with_reducible assumption
    | with_reducible apply State.expressTake_keeps
    | ((with_reducible apply Keeps.foldl); intro s' x' h')
    | ((with_reducible apply Keeps.foldl_fst); intro s' x' h')
    | ((with_reducible apply Keeps.foldl_snd); intro s' x' h')
    | ((with_reducible refine State.setStn_keeps ?_ _ _ ?_); rotate_left; · exact id)
    | split)

theorem State.requestRun_keeps {P' : Prop} {o' : State} {s : State} (h : Keeps P' o' s) (j : Nat) (w : RunFor) (front : Bool) :
    Keeps P' o' (State.requestRun s j w front) := by
  unfold State.requestRun
  repeat' (first
    | with_reducible assumption
    | with_reducible apply State.expressReady_keeps
    | with_reducible apply State.refresh_keeps
    | with_reducible apply State.setJob_keeps
    | ((with_reducible refine State.fset_keeps ?_ _ _ _ ?_); rotate_left; · exact rfl)
    | ((first | intro v' | extract_lets -underBinder +onlyGivenNames v'); (first | (refine_lift have k' : Keeps P' o' v' := ?_; ?_; (on_goal 1 => try clear_value v'); (on_goal 2 => dsimp -zeta only [v'])) | (have k'' : v'.isSome = v'.isSome := rfl; clear k''; clear_value v') | skip))
    | split)

theorem State.readyNow_keeps {P' : Prop} {o' : State} {s : State} (h : Keeps P' o' s) (j : Nat) :
    Keeps P' o' (State.readyNow s j) := by
  unfold State.readyNow
  repeat' (first
    | with_reducible assumption
    | with_reducible apply State.setJob_keeps)

theorem State.readyJobs_keeps {P' : Prop} {o' : State} {s : State} (h : Keeps P' o' s) (js : List Nat) :
    Keeps P' o' (State.readyJobs s js) := by
  unfold State.readyJobs
  repeat' (first
    | with_reducible assumption
    | with_reducible apply State.readyNow_keeps
    | ((with_reducible apply Keeps.foldl); intro s' x' h')
    | ((with_reducible apply Keeps.foldl_fst); intro s' x' h')
    | ((with_reducible apply Keeps.foldl_snd); intro s' x' h')
    | split)

theorem State.abandonRun_keeps {P' : Prop} {o' : State} {s : State} (h : Keeps P' o' s) (j status : Nat) :
    Keeps P' o' (State.abandonRun s j status) := by
  unfold State.abandonRun
  repeat' (first
    | with_reducible assumption
    | with_reducible apply State.orderOut_keeps
    | with_reducible apply State.refresh_keeps
    | with_reducible apply State.setJob_keeps
    | ((with_reducible apply Keeps.foldl); intro s' x' h')
    | ((with_reducible apply Keeps.foldl_fst); intro s' x' h')
    | ((with_reducible apply Keeps.foldl_snd); intro s' x' h')
    | ((with_reducible refine State.fset_keeps ?_ _ _ _ ?_); rotate_left; · exact rfl)
    | ((with_reducible refine State.bump_keeps ?_ _ _ _ ?_); rotate_left; · exact rfl)
    | ((with_reducible refine State.setStn_keeps ?_ _ _ ?_); rotate_left; · exact id)
    | ((first | intro v' | extract_lets -underBinder +onlyGivenNames v'); (first | (refine_lift have k' : Keeps P' o' v' := ?_; ?_; (on_goal 1 => try clear_value v'); (on_goal 2 => dsimp -zeta only [v'])) | (have k'' : v'.isSome = v'.isSome := rfl; clear k''; clear_value v') | skip))
    | split
    | (clear_value *; split))

end Sys2Proof.Machine
end

