-- ==== Sys2Proof/Laws/KeepsStitch.lean ====
section
/-! SUPPORT. What each operation of Machine/Stitch.lean keeps (Laws/Keeps.lean). -/

set_option linter.unusedTactic false
set_option linter.unreachableTactic false

namespace Sys2Proof.Machine

theorem State.lastFail_keeps {P' : Prop} {o' : State} {s : State} (h : Keeps P' o' s) (f : CheckFail) (ttid : Nat) :
    Keeps P' o' (State.lastFail s f ttid) := by
  unfold State.lastFail
  repeat' (first
    | with_reducible assumption
    | with_reducible apply State.event_keeps
    | ((with_reducible refine State.fset_keeps ?_ _ _ _ ?_); rotate_left; · exact rfl)
    | ((first | intro v' | extract_lets -underBinder +onlyGivenNames v'); (first | (refine_lift have k' : Keeps P' o' v' := ?_; ?_; (on_goal 1 => try clear_value v'); (on_goal 2 => dsimp -zeta only [v'])) | (have k'' : v'.isSome = v'.isSome := rfl; clear k''; clear_value v') | skip))
    | split)

theorem State.answerStitch_keeps {P' : Prop} {o' : State} {s : State} (h : Keeps P' o' s) (x : Stitch) (status result : Nat) :
    Keeps P' o' (State.answerStitch s x status result) := by
  unfold State.answerStitch
  repeat' (first
    | with_reducible assumption
    | with_reducible apply State.event_keeps
    | with_reducible apply State.finish_keeps
    | split)

theorem State.setStitch_keeps {P' : Prop} {o' : State} {s : State} (h : Keeps P' o' s) (x : Stitch) :
    Keeps P' o' (State.setStitch s x) := by
  unfold State.setStitch
  repeat' (first
    | with_reducible assumption
    | with_reducible apply State.setTt_keeps)

theorem State.popStitch_keeps {P' : Prop} {o' : State} {s : State} (h : Keeps P' o' s) :
    Keeps P' o' (State.popStitch s) := by
  unfold State.popStitch
  repeat' (first
    | with_reducible assumption
    | with_reducible apply State.setTt_keeps)

theorem State.unload_keeps {P' : Prop} {o' : State} {s : State} (h : Keeps P' o' s) (x : Stitch) :
    Keeps P' o' (State.unload s x) := by
  unfold State.unload
  repeat' (first
    | with_reducible assumption
    | ((with_reducible refine State.fset_keeps ?_ _ _ _ ?_); rotate_left; · exact rfl)
    | ((first | intro v' | extract_lets -underBinder +onlyGivenNames v'); (first | (refine_lift have k' : Keeps P' o' v' := ?_; ?_; (on_goal 1 => try clear_value v'); (on_goal 2 => dsimp -zeta only [v'])) | (have k'' : v'.isSome = v'.isSome := rfl; clear k''; clear_value v') | skip))
    | split
    | (clear_value *; split))

theorem State.stitchFails_keeps {P' : Prop} {o' : State} {s : State} (h : Keeps P' o' s) (x : Stitch) (f : CheckFail) :
    Keeps P' o' (State.stitchFails s x f) := by
  unfold State.stitchFails
  repeat' (first
    | with_reducible assumption
    | with_reducible apply State.answerStitch_keeps
    | with_reducible apply State.lastFail_keeps
    | with_reducible apply State.popStitch_keeps
    | with_reducible apply State.unload_keeps
    | ((first | intro v' | extract_lets -underBinder +onlyGivenNames v'); (first | (refine_lift have k' : Keeps P' o' v' := ?_; ?_; (on_goal 1 => try clear_value v'); (on_goal 2 => dsimp -zeta only [v'])) | (have k'' : v'.isSome = v'.isSome := rfl; clear k''; clear_value v') | skip))
    | split)

theorem State.beginUnstitch_keeps {P' : Prop} {o' : State} {s : State} (h : Keeps P' o' s) (x : Stitch) :
    Keeps P' o' (State.beginUnstitch s x) := by
  unfold State.beginUnstitch
  repeat' (first
    | with_reducible assumption
    | with_reducible apply State.answerStitch_keeps
    | with_reducible apply State.clearSlot_keeps
    | with_reducible apply State.platformsFree_keeps
    | with_reducible apply State.popStitch_keeps
    | with_reducible apply State.reissue_keeps
    | with_reducible apply State.releaseImage_keeps
    | with_reducible apply State.stitchFails_keeps
    | ((first | intro v' | extract_lets -underBinder +onlyGivenNames v'); (first | (refine_lift have k' : Keeps P' o' v' := ?_; ?_; (on_goal 1 => try clear_value v'); (on_goal 2 => dsimp -zeta only [v'])) | (have k'' : v'.isSome = v'.isSome := rfl; clear k''; clear_value v') | skip))
    | split
    | (clear_value *; split))

theorem State.beginStitch_keeps {P' : Prop} {o' : State} {s : State} (h : Keeps P' o' s) (x : Stitch) :
    Keeps P' o' (State.beginStitch s x) := by
  unfold State.beginStitch
  repeat' (first
    | with_reducible assumption
    | with_reducible apply State.bind_keeps
    | with_reducible apply State.setCmd_keeps
    | with_reducible apply State.setStitch_keeps
    | with_reducible apply State.stitchFails_keeps
    | ((with_reducible refine State.fset_keeps ?_ _ _ _ ?_); rotate_left; · exact rfl)
    | ((first | intro v' | extract_lets -underBinder +onlyGivenNames v'); (first | (refine_lift have k' : Keeps P' o' v' := ?_; ?_; (on_goal 1 => try clear_value v'); (on_goal 2 => dsimp -zeta only [v'])) | (refine_lift have k' : Keeps P' o' v'.2 := ?_; ?_; (on_goal 1 => try clear_value v'); (on_goal 2 => dsimp -zeta only [v'])) | (have k'' : v'.isSome = v'.isSome := rfl; clear k''; clear_value v') | skip))
    | split
    | (clear_value *; split))

theorem State.beginNext_keeps {P' : Prop} {o' : State} {s : State} (h : Keeps P' o' s) (x0 : Nat) :
    Keeps P' o' (State.beginNext s x0) := by
  induction x0 generalizing s  with
  | zero =>
    unfold State.beginNext
    repeat' (first
      | with_reducible assumption
      | with_reducible apply State.beginStitch_keeps
      | with_reducible apply State.beginUnstitch_keeps
      | split)
  | succ n ih =>
    unfold State.beginNext
    repeat' (first
      | with_reducible assumption
      | with_reducible apply ih
      | with_reducible apply State.beginStitch_keeps
      | with_reducible apply State.beginUnstitch_keeps
      | split)

theorem State.stitchKick_keeps {P' : Prop} {o' : State} {s : State} (h : Keeps P' o' s) :
    Keeps P' o' (State.stitchKick s) := by
  unfold State.stitchKick
  repeat' (first
    | with_reducible assumption
    | with_reducible apply State.beginNext_keeps)

theorem State.queueStitch_keeps {P' : Prop} {o' : State} {s : State} (h : Keeps P' o' s) (x : Stitch) :
    Keeps P' o' (State.queueStitch s x) := by
  unfold State.queueStitch
  repeat' (first
    | with_reducible assumption
    | with_reducible apply State.setTt_keeps
    | with_reducible apply State.stitchKick_keeps)

theorem State.lateChecks_keeps {P' : Prop} {o' : State} {s : State} (h : Keeps P' o' s) (x : Stitch) :
    Keeps P' o' (State.lateChecks s x) := by
  unfold State.lateChecks
  repeat' (first
    | with_reducible assumption
    | with_reducible apply State.answerStitch_keeps
    | with_reducible apply State.platformsFree_keeps
    | with_reducible apply State.popStitch_keeps
    | with_reducible apply State.reserveImage_keeps
    | with_reducible apply State.setStitch_keeps
    | with_reducible apply State.stitchFails_keeps
    | with_reducible apply State.unload_keeps
    | ((with_reducible refine State.fset_keeps ?_ _ _ _ ?_); rotate_left; · exact rfl)
    | with_reducible exact Keeps.opt2_none
    | with_reducible apply Keeps.opt2_some
    | (refine Keeps.ofOpt2 ?_ (by with_reducible assumption))
    | ((first | intro v' | extract_lets -underBinder +onlyGivenNames v'); (first | (refine_lift have k' : Keeps P' o' v' := ?_; ?_; (on_goal 1 => try clear_value v'); (on_goal 2 => dsimp -zeta only [v'])) | (refine_lift have k' : Keeps P' o' v'.2 := ?_; ?_; (on_goal 1 => try clear_value v'); (on_goal 2 => dsimp -zeta only [v'])) | (have k'' : v'.isSome = v'.isSome := rfl; clear k''; clear_value v') | skip))
    | split
    | (clear_value *; split))

theorem execStitch_keeps {P' : Prop} {o' : State} (q : QueueId) {s : State} (h : Keeps P' o' s) {t : State} (e : execStitch q s = .next t) :
    Keeps P' o' t := by
  unfold execStitch at e
  injection e with e
  subst e
  repeat' (first
    | with_reducible assumption
    | with_reducible apply State.adminOnly_keeps
    | with_reducible apply State.fail_keeps
    | with_reducible apply State.lastFail_keeps
    | with_reducible apply State.onEntry_keeps
    | with_reducible apply State.queueStitch_keeps
    | ((with_reducible show ∀ y' : State, Keeps P' o' y' → _); intro y' h')
    | ((with_reducible show ∀ (_ : _) (y' : State), Keeps P' o' y' → _); intro x' y' h')
    | ((with_reducible show ∀ (_ : _) (_ : _) (y' : State), Keeps P' o' y' → _); intro x' z' y' h')
    | split)

theorem execUnstitch_keeps {P' : Prop} {o' : State} (q : QueueId) {s : State} (h : Keeps P' o' s) {t : State} (e : execUnstitch q s = .next t) :
    Keeps P' o' t := by
  unfold execUnstitch at e
  injection e with e
  subst e
  repeat' (first
    | with_reducible assumption
    | with_reducible apply State.adminOnly_keeps
    | with_reducible apply State.fail_keeps
    | with_reducible apply State.lastFail_keeps
    | with_reducible apply State.onEntry_keeps
    | with_reducible apply State.queueStitch_keeps
    | ((with_reducible show ∀ y' : State, Keeps P' o' y' → _); intro y' h')
    | ((with_reducible show ∀ (_ : _) (y' : State), Keeps P' o' y' → _); intro x' y' h')
    | ((with_reducible show ∀ (_ : _) (_ : _) (y' : State), Keeps P' o' y' → _); intro x' z' y' h')
    | split)

theorem State.stitchLoaded_keeps {P' : Prop} {o' : State} {s : State} (h : Keeps P' o' s) :
    Keeps P' o' (State.stitchLoaded s) := by
  unfold State.stitchLoaded
  repeat' (first
    | with_reducible assumption
    | with_reducible apply State.lateChecks_keeps
    | with_reducible apply State.stitchFails_keeps
    | with_reducible apply State.stitchKick_keeps
    | ((first | intro v' | extract_lets -underBinder +onlyGivenNames v'); (first | (refine_lift have k' : Keeps P' o' v' := ?_; ?_; (on_goal 1 => try clear_value v'); (on_goal 2 => dsimp -zeta only [v'])) | (have k'' : v'.isSome = v'.isSome := rfl; clear k''; clear_value v') | skip))
    | split
    | (clear_value *; split))

theorem execStitchContainerLoaded_keeps {P' : Prop} {o' : State} {s : State} (h : Keeps P' o' s) {t : State} (e : execStitchContainerLoaded s = .next t) :
    Keeps P' o' t := by
  unfold execStitchContainerLoaded at e
  injection e with e
  subst e
  repeat' (first
    | with_reducible assumption
    | with_reducible apply State.stitchKick_keeps
    | with_reducible apply State.stitchLoaded_keeps)

theorem State.stitchReadFails_keeps {P' : Prop} {o' : State} {s : State} (h : Keeps P' o' s) (p : Nat) :
    Keeps P' o' (State.stitchReadFails s p) := by
  unfold State.stitchReadFails
  repeat' (first
    | with_reducible assumption
    | with_reducible apply State.stitchFails_keeps
    | with_reducible apply State.stitchKick_keeps
    | split)

theorem State.baseStitched_keeps {P' : Prop} {o' : State} {s : State} (h : Keeps P' o' s) (source : Nat) :
    Keeps P' o' (State.baseStitched s source) := by
  unfold State.baseStitched
  repeat' (first
    | with_reducible assumption
    | with_reducible apply State.bindBase_keeps
    | ((with_reducible refine State.fset_keeps ?_ _ _ _ ?_); rotate_left; · exact rfl))

theorem State.imagePlaced_keeps {P' : Prop} {o' : State} {s : State} (h : Keeps P' o' s) (x : Stitch) (im : Image) :
    Keeps P' o' (State.imagePlaced s x im) := by
  unfold State.imagePlaced
  repeat' (first
    | with_reducible assumption
    | with_reducible apply State.answerStitch_keeps
    | with_reducible apply State.baseStitched_keeps
    | with_reducible apply State.expressAgain_keeps
    | with_reducible apply State.handoverCheck_keeps
    | with_reducible apply State.popStitch_keeps
    | with_reducible apply State.readyJobs_keeps
    | with_reducible apply State.setSlot_keeps
    | with_reducible apply State.showImage_keeps
    | ((with_reducible refine State.fset_keeps ?_ _ _ _ ?_); rotate_left; · exact rfl)
    | ((first | intro v' | extract_lets -underBinder +onlyGivenNames v'); (first | (refine_lift have k' : Keeps P' o' v' := ?_; ?_; (on_goal 1 => try clear_value v'); (on_goal 2 => dsimp -zeta only [v'])) | (have k'' : v'.isSome = v'.isSome := rfl; clear k''; clear_value v') | skip))
    | split
    | (clear_value *; split))

theorem execStitchImagePlaced_keeps {P' : Prop} {o' : State} {s : State} (h : Keeps P' o' s) {t : State} (e : execStitchImagePlaced s = .next t) :
    Keeps P' o' t := by
  unfold execStitchImagePlaced at e
  injection e with e
  subst e
  repeat' (first
    | with_reducible assumption
    | with_reducible apply State.imagePlaced_keeps
    | with_reducible apply State.stitchKick_keeps
    | split)

theorem State.stitchFenced_keeps {P' : Prop} {o' : State} {s : State} (h : Keeps P' o' s) (st : Nat) :
    Keeps P' o' (State.stitchFenced s st) := by
  unfold State.stitchFenced
  repeat' (first
    | with_reducible assumption
    | with_reducible apply State.platformsFree_keeps
    | with_reducible apply State.releaseImage_keeps
    | with_reducible apply State.setStitch_keeps
    | with_reducible apply State.stitchFails_keeps
    | with_reducible apply State.stitchKick_keeps
    | ((first | intro v' | extract_lets -underBinder +onlyGivenNames v'); (first | (refine_lift have k' : Keeps P' o' v' := ?_; ?_; (on_goal 1 => try clear_value v'); (on_goal 2 => dsimp -zeta only [v'])) | (have k'' : v'.isSome = v'.isSome := rfl; clear k''; clear_value v') | skip))
    | split
    | (clear_value *; split))

theorem State.tryBase_keeps {P' : Prop} {o' : State} {s : State} (h : Keeps P' o' s) (source : Nat) (bs : List Byte) :
    Keeps P' o' (State.tryBase s source bs).2 := by
  unfold State.tryBase
  repeat' (first
    | with_reducible assumption
    | with_reducible apply State.baseStitched_keeps
    | with_reducible apply State.bind_keeps
    | with_reducible apply State.lastFail_keeps
    | with_reducible apply State.platformsFree_keeps
    | with_reducible apply State.reserveImage_keeps
    | with_reducible apply State.setSlot_keeps
    | with_reducible apply State.showImage_keeps
    | ((with_reducible refine State.fset_keeps ?_ _ _ _ ?_); rotate_left; · exact rfl)
    | with_reducible exact Keeps.opt2_none
    | with_reducible apply Keeps.opt2_some
    | (with_reducible apply Keeps.opt2_bind; intro x'')
    | (refine Keeps.ofOpt2 ?_ (by with_reducible assumption))
    | ((first | intro v' | extract_lets -underBinder +onlyGivenNames v'); (first | (refine_lift have k' : Keeps P' o' v' := ?_; ?_; (on_goal 1 => try clear_value v'); (on_goal 2 => dsimp -zeta only [v'])) | (refine_lift have k' : Keeps P' o' v'.2 := ?_; ?_; (on_goal 1 => try clear_value v'); (on_goal 2 => dsimp -zeta only [v'])) | (have k'' : v'.isSome = v'.isSome := rfl; clear k''; clear_value v') | skip))
    | split
    | (clear_value *; split))

theorem State.baseAbsent_keeps {P' : Prop} {o' : State} {s : State} (h : Keeps P' o' s) (status : Nat) :
    Keeps P' o' (State.baseAbsent s status) := by
  unfold State.baseAbsent
  repeat' (first
    | with_reducible assumption
    | ((with_reducible refine State.fset_keeps ?_ _ _ _ ?_); rotate_left; · exact rfl))

theorem State.stitchBase_keeps {P' : Prop} {o' s : State} (h : Keeps P' o' s) (bs : List Byte) (ds : List Nat) (status : Nat) :
    Keeps P' o' (State.stitchBase bs ds status s) := by
  induction ds generalizing s status with
  | nil => exact State.baseAbsent_keeps h _
  | cons d ds ih =>
    show Keeps P' o' (if (s.tryBase (d + 1) bs).1 = 0 then (s.tryBase (d + 1) bs).2 else
      State.stitchBase bs ds (s.tryBase (d + 1) bs).1 ((s.tryBase (d + 1) bs).2.fset F.ttbBaseStatusFailStatus 0 (s.tryBase (d + 1) bs).1))
    have k := State.tryBase_keeps h (d + 1) bs
    split
    · exact k
    · exact ih (State.fset_keeps k _ _ _ rfl) _

theorem State.powerUpStitch_keeps {P' : Prop} {o' : State} {s : State} (h : Keeps P' o' s) :
    Keeps P' o' (State.powerUpStitch s) := by
  unfold State.powerUpStitch
  repeat' (first
    | with_reducible assumption
    | with_reducible apply State.baseAbsent_keeps
    | with_reducible apply State.setPhase_keeps
    | with_reducible apply State.setTt_keeps
    | with_reducible apply State.stitchBase_keeps
    | with_reducible apply State.stitchKick_keeps
    | ((first | intro v' | extract_lets -underBinder +onlyGivenNames v'); (first | (refine_lift have k' : Keeps P' o' v' := ?_; ?_; (on_goal 1 => try clear_value v'); (on_goal 2 => dsimp -zeta only [v'])) | (have k'' : v'.isSome = v'.isSome := rfl; clear k''; clear_value v') | skip))
    | split)

end Sys2Proof.Machine
end

