-- ==== Sys2Proof/Laws/KeepsJobRows.lean ====
section
/-! SUPPORT. What each operation of Machine/JobRows.lean keeps (Laws/Keeps.lean). -/

set_option linter.unusedTactic false
set_option linter.unreachableTactic false

namespace Sys2Proof.Machine

/-- The word that JOB.CTL keeps of a write leaves its reserved bits 0. -/
theorem jobCtl_fits (v : Nat) : Reg.jobCtl.fits (BitVec.ofNat 64 (v % 2 ^ 18 + v / 2 ^ 32 % 2 ^ 32 * 2 ^ 32)) := by
  rw [Reg.fits_iff]
  intro k hk
  have hk32 : k < 32 := by
    by_contra hc
    have h2 : Reg.jobCtl.reservedNat < 2 ^ 32 := by decide
    have : Reg.jobCtl.reservedNat < 2 ^ k := Nat.lt_of_lt_of_le h2 (Nat.pow_le_pow_right (by omega) (by omega))
    rw [Nat.testBit_lt_two_pow this] at hk
    exact Bool.noConfusion hk
  have hk18 : 18 ≤ k := by
    by_contra hc
    have : k < 18 := by omega
    interval_cases k <;> revert hk <;> decide
  have ha : v % 2 ^ 18 < 2 ^ 18 := Nat.mod_lt _ (by decide)
  rw [BitVec.getLsbD_ofNat, Nat.add_comm, Nat.mul_comm, Nat.testBit_two_pow_mul_add _ (by omega), if_pos hk32,
    Nat.testBit_lt_two_pow (Nat.lt_of_lt_of_le ha (Nat.pow_le_pow_right (by omega) hk18))]
  simp

theorem State.jobCtlTake_keeps {P' : Prop} {o' : State} {s : State} (h : Keeps P' o' s) (value : Nat) (run : State → Nat × State) (h_run : ∀ y0, Keeps P' o' y0 → Keeps P' o' (run y0).2) :
    Keeps P' o' (State.jobCtlTake s value run) := by
  unfold State.jobCtlTake
  repeat' (first
    | with_reducible assumption
    | with_reducible apply h_run
    | with_reducible apply State.jobCtl_keeps
    | ((with_reducible refine State.fset_keeps ?_ _ _ _ ?_); rotate_left; · exact rfl)
    | ((with_reducible refine State.rset_keeps ?_ _ _ _ ?_ (fun z => ?_)); rotate_left; · exact rfl)
    | exact jobCtl_fits _
    | exact Reg.fits_zero _
    | ((with_reducible show ∀ y' : State, Keeps P' o' y' → _); intro y' h')
    | ((with_reducible show ∀ (_ : _) (y' : State), Keeps P' o' y' → _); intro x' y' h')
    | ((with_reducible show ∀ (_ : _) (_ : _) (y' : State), Keeps P' o' y' → _); intro x' z' y' h')
    | ((first | intro v' | extract_lets -underBinder +onlyGivenNames v'); (first | (refine_lift have k' : Keeps P' o' v' := ?_; ?_; (on_goal 1 => try clear_value v'); (on_goal 2 => dsimp -zeta only [v'])) | (have k'' : v'.isSome = v'.isSome := rfl; clear k''; clear_value v') | skip))
    | split)

theorem State.jobCtl_keeps {P' : Prop} {o' : State} {s : State} (h : Keeps P' o' s) (value : Nat) (run : State → Nat × State) (h_run : ∀ y0, Keeps P' o' y0 → Keeps P' o' (run y0).2) :
    Keeps P' o' (State.jobCtl s value run) := by
  unfold State.jobCtl
  repeat' (first
    | with_reducible assumption
    | with_reducible apply h_run
    | with_reducible apply State.jobCtlTake_keeps
    | with_reducible apply State.lockWrite_keeps
    | ((with_reducible show ∀ y' : State, Keeps P' o' y' → _); intro y' h')
    | ((with_reducible show ∀ (_ : _) (y' : State), Keeps P' o' y' → _); intro x' y' h')
    | ((with_reducible show ∀ (_ : _) (_ : _) (y' : State), Keeps P' o' y' → _); intro x' z' y' h'))

theorem State.endOrPend_keeps {P' : Prop} {o' : State} {s : State} (h : Keeps P' o' s) (j : Nat) :
    Keeps P' o' (State.endOrPend s j) := by
  unfold State.endOrPend
  repeat' (first
    | with_reducible assumption
    | with_reducible apply State.refresh_keeps
    | ((with_reducible refine State.fset_keeps ?_ _ _ _ ?_); rotate_left; · exact rfl))

theorem State.unbind_keeps {P' : Prop} {o' : State} {s : State} (h : Keeps P' o' s) (j : Nat) :
    Keeps P' o' (State.unbind s j).2 := by
  unfold State.unbind
  repeat' (first
    | with_reducible assumption
    | with_reducible apply State.endOrPend_keeps
    | split)

theorem State.enlist_keeps {P' : Prop} {o' : State} {s : State} (h : Keeps P' o' s) (j : Nat) (was : Bool) :
    Keeps P' o' (State.enlist s j was) := by
  unfold State.enlist
  repeat' (first
    | with_reducible assumption
    | with_reducible apply State.expressReady_keeps
    | ((with_reducible apply Keeps.foldl); intro s' x' h')
    | ((with_reducible apply Keeps.foldl_fst); intro s' x' h')
    | ((with_reducible apply Keeps.foldl_snd); intro s' x' h')
    | split)

theorem State.expressOn_keeps {P' : Prop} {o' : State} {s : State} (h : Keeps P' o' s) (j : Nat) :
    Keeps P' o' (State.expressOn s j).2 := by
  unfold State.expressOn
  repeat' (first
    | with_reducible assumption
    | with_reducible apply State.enlist_keeps
    | with_reducible apply State.setJob_keeps
    | with_reducible apply State.showBounds_keeps
    | ((with_reducible refine State.fset_keeps ?_ _ _ _ ?_); rotate_left; · exact rfl)
    | ((first | intro v' | extract_lets -underBinder +onlyGivenNames v'); (first | (refine_lift have k' : Keeps P' o' v' := ?_; ?_; (on_goal 1 => try clear_value v'); (on_goal 2 => dsimp -zeta only [v'])) | (have k'' : v'.isSome = v'.isSome := rfl; clear k''; clear_value v') | skip))
    | split)

theorem State.expressOff_keeps {P' : Prop} {o' : State} {s : State} (h : Keeps P' o' s) (j : Nat) :
    Keeps P' o' (State.expressOff s j).2 := by
  unfold State.expressOff
  repeat' (first
    | with_reducible assumption
    | with_reducible apply State.expressAgain_keeps
    | with_reducible apply State.unexpress_keeps
    | split)

theorem State.ctlRun_keeps {P' : Prop} {o' : State} (value : Nat) {s : State} (h : Keeps P' o' s) :
    Keeps P' o' (State.ctlRun value s).2 := by
  unfold State.ctlRun
  repeat' (first
    | with_reducible assumption
    | with_reducible apply State.bind_keeps
    | with_reducible apply State.expressOff_keeps
    | with_reducible apply State.expressOn_keeps
    | with_reducible apply State.unbind_keeps
    | (refine Keeps.of_snd_eq ?_ (by with_reducible assumption))
    | ((first | intro v' | extract_lets -underBinder +onlyGivenNames v'); (first | (refine_lift have k' : Keeps P' o' v' := ?_; ?_; (on_goal 1 => try clear_value v'); (on_goal 2 => dsimp -zeta only [v'])) | (refine_lift have k' : Keeps P' o' v'.2 := ?_; ?_; (on_goal 1 => try clear_value v'); (on_goal 2 => dsimp -zeta only [v'])) | (have k'' : v'.isSome = v'.isSome := rfl; clear k''; clear_value v') | skip))
    | split
    | (clear_value *; split))

theorem execJobBind_keeps {P' : Prop} {o' : State} (j : JobId) (slot : SlotId) (mask : Nat) {s : State} (h : Keeps P' o' s) {t : State} (e : execJobBind j slot mask s = .next t) :
    Keeps P' o' t := by
  unfold execJobBind at e
  injection e with e
  subst e
  repeat' (first
    | with_reducible assumption
    | with_reducible apply State.bind_keeps
    | with_reducible apply State.jobCtl_keeps
    | exact jobCtl_fits _
    | (refine Keeps.of_snd_eq ?_ (by with_reducible assumption))
    | ((with_reducible show ∀ y' : State, Keeps P' o' y' → _); intro y' h')
    | ((with_reducible show ∀ (_ : _) (y' : State), Keeps P' o' y' → _); intro x' y' h')
    | ((with_reducible show ∀ (_ : _) (_ : _) (y' : State), Keeps P' o' y' → _); intro x' z' y' h'))

theorem execJobUnbind_keeps {P' : Prop} {o' : State} (w : JobCtlWrite) {s : State} (h : Keeps P' o' s) {t : State} (e : execJobUnbind w s = .next t) :
    Keeps P' o' t := by
  unfold execJobUnbind at e
  injection e with e
  subst e
  repeat' (first
    | with_reducible assumption
    | with_reducible apply State.jobCtl_keeps
    | with_reducible apply State.unbind_keeps
    | exact jobCtl_fits _
    | (refine Keeps.of_snd_eq ?_ (by with_reducible assumption))
    | ((with_reducible show ∀ y' : State, Keeps P' o' y' → _); intro y' h')
    | ((with_reducible show ∀ (_ : _) (y' : State), Keeps P' o' y' → _); intro x' y' h')
    | ((with_reducible show ∀ (_ : _) (_ : _) (y' : State), Keeps P' o' y' → _); intro x' z' y' h'))

theorem execJobExpressOn_keeps {P' : Prop} {o' : State} (w : JobCtlWrite) {s : State} (h : Keeps P' o' s) {t : State} (e : execJobExpressOn w s = .next t) :
    Keeps P' o' t := by
  unfold execJobExpressOn at e
  injection e with e
  subst e
  repeat' (first
    | with_reducible assumption
    | with_reducible apply State.expressOn_keeps
    | with_reducible apply State.jobCtl_keeps
    | exact jobCtl_fits _
    | (refine Keeps.of_snd_eq ?_ (by with_reducible assumption))
    | ((with_reducible show ∀ y' : State, Keeps P' o' y' → _); intro y' h')
    | ((with_reducible show ∀ (_ : _) (y' : State), Keeps P' o' y' → _); intro x' y' h')
    | ((with_reducible show ∀ (_ : _) (_ : _) (y' : State), Keeps P' o' y' → _); intro x' z' y' h'))

theorem execJobExpressOff_keeps {P' : Prop} {o' : State} (w : JobCtlWrite) {s : State} (h : Keeps P' o' s) {t : State} (e : execJobExpressOff w s = .next t) :
    Keeps P' o' t := by
  unfold execJobExpressOff at e
  injection e with e
  subst e
  repeat' (first
    | with_reducible assumption
    | with_reducible apply State.expressOff_keeps
    | with_reducible apply State.jobCtl_keeps
    | exact jobCtl_fits _
    | (refine Keeps.of_snd_eq ?_ (by with_reducible assumption))
    | ((with_reducible show ∀ y' : State, Keeps P' o' y' → _); intro y' h')
    | ((with_reducible show ∀ (_ : _) (y' : State), Keeps P' o' y' → _); intro x' y' h')
    | ((with_reducible show ∀ (_ : _) (_ : _) (y' : State), Keeps P' o' y' → _); intro x' z' y' h'))

theorem execJobCtlReservedCmd_keeps {P' : Prop} {o' : State} (value : Word64) {s : State} (h : Keeps P' o' s) {t : State} (e : execJobCtlReservedCmd value s = .next t) :
    Keeps P' o' t := by
  unfold execJobCtlReservedCmd at e
  injection e with e
  subst e
  repeat' (first
    | with_reducible assumption
    | with_reducible apply State.jobCtl_keeps
    | exact jobCtl_fits _
    | ((with_reducible show ∀ y' : State, Keeps P' o' y' → _); intro y' h')
    | ((with_reducible show ∀ (_ : _) (y' : State), Keeps P' o' y' → _); intro x' y' h')
    | ((with_reducible show ∀ (_ : _) (_ : _) (y' : State), Keeps P' o' y' → _); intro x' z' y' h')
    | ((first | intro v' | extract_lets -underBinder +onlyGivenNames v'); (first | (refine_lift have k' : Keeps P' o' v' := ?_; ?_; (on_goal 1 => try clear_value v'); (on_goal 2 => dsimp -zeta only [v'])) | (have k'' : v'.isSome = v'.isSome := rfl; clear k''; clear_value v') | skip))
    | split)

theorem State.shareWrite_keeps {P' : Prop} {o' : State} {s : State} (h : Keeps P' o' s) (share : Nat) :
    Keeps P' o' (State.shareWrite s share) := by
  unfold State.shareWrite
  repeat' (first
    | with_reducible assumption
    | with_reducible apply State.expressAgain_keeps
    | ((with_reducible refine State.fset_keeps ?_ _ _ _ ?_); rotate_left; · exact rfl)
    | split)

theorem execExpressShareWrite_keeps {P' : Prop} {o' : State} (share : Fin 128) {s : State} (h : Keeps P' o' s) {t : State} (e : execExpressShareWrite share s = .next t) :
    Keeps P' o' t := by
  unfold execExpressShareWrite at e
  injection e with e
  subst e
  repeat' (first
    | with_reducible assumption
    | with_reducible apply State.lockWrite_keeps
    | with_reducible apply State.shareWrite_keeps
    | ((with_reducible show ∀ y' : State, Keeps P' o' y' → _); intro y' h')
    | ((with_reducible show ∀ (_ : _) (y' : State), Keeps P' o' y' → _); intro x' y' h')
    | ((with_reducible show ∀ (_ : _) (_ : _) (y' : State), Keeps P' o' y' → _); intro x' z' y' h'))

theorem State.signalled_keeps {P' : Prop} {o' : State} (run : Nat → Nat → List Byte → State → State) (h_run : ∀ y0 y1 y2 y3, Keeps P' o' y3 → Keeps P' o' (run y0 y1 y2 y3)) (p : Nat) (e : List Byte) {s : State} (h : Keeps P' o' s) :
    Keeps P' o' (State.signalled run p e s) := by
  unfold State.signalled
  repeat' (first
    | with_reducible assumption
    | with_reducible apply h_run
    | with_reducible apply State.fail_keeps
    | ((first | intro v' | extract_lets -underBinder +onlyGivenNames v'); (first | (refine_lift have k' : Keeps P' o' v' := ?_; ?_; (on_goal 1 => try clear_value v'); (on_goal 2 => dsimp -zeta only [v'])) | (have k'' : v'.isSome = v'.isSome := rfl; clear k''; clear_value v') | skip))
    | split)

theorem State.signalHold_keeps {P' : Prop} {o' : State} (j p : Nat) (z0 : List Byte) {s : State} (h : Keeps P' o' s) :
    Keeps P' o' (State.signalHold j p z0 s) := by
  unfold State.signalHold
  repeat' (first
    | with_reducible assumption
    | with_reducible apply State.setJob_keeps
    | with_reducible apply State.settleSignals_keeps
    | ((with_reducible refine State.fset_keeps ?_ _ _ _ ?_); rotate_left; · exact rfl))

theorem State.signalUnhold_keeps {P' : Prop} {o' : State} (j p : Nat) (z0 : List Byte) {s : State} (h : Keeps P' o' s) :
    Keeps P' o' (State.signalUnhold j p z0 s) := by
  unfold State.signalUnhold
  repeat' (first
    | with_reducible assumption
    | with_reducible apply State.expressTake_keeps
    | with_reducible apply State.finish_keeps
    | with_reducible apply State.readyNow_keeps
    | ((with_reducible apply Keeps.foldl); intro s' x' h')
    | ((with_reducible apply Keeps.foldl_fst); intro s' x' h')
    | ((with_reducible apply Keeps.foldl_snd); intro s' x' h')
    | ((with_reducible refine State.fset_keeps ?_ _ _ _ ?_); rotate_left; · exact rfl)
    | ((first | intro v' | extract_lets -underBinder +onlyGivenNames v'); (first | (refine_lift have k' : Keeps P' o' v' := ?_; ?_; (on_goal 1 => try clear_value v'); (on_goal 2 => dsimp -zeta only [v'])) | (have k'' : v'.isSome = v'.isSome := rfl; clear k''; clear_value v') | skip))
    | split)

theorem State.signalEnd_keeps {P' : Prop} {o' : State} (j p : Nat) (z0 : List Byte) {s : State} (h : Keeps P' o' s) :
    Keeps P' o' (State.signalEnd j p z0 s) := by
  unfold State.signalEnd
  repeat' (first
    | with_reducible assumption
    | with_reducible apply State.endOrPend_keeps
    | with_reducible apply State.setJob_keeps)

theorem State.signalWeight_keeps {P' : Prop} {o' : State} (j p : Nat) (e : List Byte) {s : State} (h : Keeps P' o' s) :
    Keeps P' o' (State.signalWeight j p e s) := by
  unfold State.signalWeight
  repeat' (first
    | with_reducible assumption
    | with_reducible apply State.finish_keeps
    | ((with_reducible refine State.fset_keeps ?_ _ _ _ ?_); rotate_left; · exact rfl))

theorem execJobSignalHold_keeps {P' : Prop} {o' : State} (q : QueueId) {s : State} (h : Keeps P' o' s) {t : State} (e : execJobSignalHold q s = .next t) :
    Keeps P' o' t := by
  unfold execJobSignalHold at e
  injection e with e
  subst e
  repeat' (first
    | with_reducible assumption
    | with_reducible apply State.onEntry_keeps
    | with_reducible apply State.signalHold_keeps
    | with_reducible apply State.signalled_keeps
    | ((with_reducible show ∀ y' : State, Keeps P' o' y' → _); intro y' h')
    | ((with_reducible show ∀ (_ : _) (y' : State), Keeps P' o' y' → _); intro x' y' h')
    | ((with_reducible show ∀ (_ : _) (_ : _) (y' : State), Keeps P' o' y' → _); intro x' z' y' h'))

theorem execJobSignalUnhold_keeps {P' : Prop} {o' : State} (q : QueueId) {s : State} (h : Keeps P' o' s) {t : State} (e : execJobSignalUnhold q s = .next t) :
    Keeps P' o' t := by
  unfold execJobSignalUnhold at e
  injection e with e
  subst e
  repeat' (first
    | with_reducible assumption
    | with_reducible apply State.onEntry_keeps
    | with_reducible apply State.signalUnhold_keeps
    | with_reducible apply State.signalled_keeps
    | ((with_reducible show ∀ y' : State, Keeps P' o' y' → _); intro y' h')
    | ((with_reducible show ∀ (_ : _) (y' : State), Keeps P' o' y' → _); intro x' y' h')
    | ((with_reducible show ∀ (_ : _) (_ : _) (y' : State), Keeps P' o' y' → _); intro x' z' y' h'))

theorem execJobSignalEnd_keeps {P' : Prop} {o' : State} (q : QueueId) {s : State} (h : Keeps P' o' s) {t : State} (e : execJobSignalEnd q s = .next t) :
    Keeps P' o' t := by
  unfold execJobSignalEnd at e
  injection e with e
  subst e
  repeat' (first
    | with_reducible assumption
    | with_reducible apply State.onEntry_keeps
    | with_reducible apply State.signalEnd_keeps
    | with_reducible apply State.signalled_keeps
    | ((with_reducible show ∀ y' : State, Keeps P' o' y' → _); intro y' h')
    | ((with_reducible show ∀ (_ : _) (y' : State), Keeps P' o' y' → _); intro x' y' h')
    | ((with_reducible show ∀ (_ : _) (_ : _) (y' : State), Keeps P' o' y' → _); intro x' z' y' h'))

theorem execJobSignalWeight_keeps {P' : Prop} {o' : State} (q : QueueId) {s : State} (h : Keeps P' o' s) {t : State} (e : execJobSignalWeight q s = .next t) :
    Keeps P' o' t := by
  unfold execJobSignalWeight at e
  injection e with e
  subst e
  repeat' (first
    | with_reducible assumption
    | with_reducible apply State.onEntry_keeps
    | with_reducible apply State.signalWeight_keeps
    | with_reducible apply State.signalled_keeps
    | ((with_reducible show ∀ y' : State, Keeps P' o' y' → _); intro y' h')
    | ((with_reducible show ∀ (_ : _) (y' : State), Keeps P' o' y' → _); intro x' y' h')
    | ((with_reducible show ∀ (_ : _) (_ : _) (y' : State), Keeps P' o' y' → _); intro x' z' y' h'))

end Sys2Proof.Machine
end

