-- ==== Sys2Proof/Laws/KeepsEccCore.lean ====
section
/-! SUPPORT. What each operation of Machine/EccCore.lean keeps (Laws/Keeps.lean). -/

set_option linter.unusedTactic false
set_option linter.unreachableTactic false

namespace Sys2Proof.Machine

theorem Station.stopped_canonical {x : Station} (z : x.Canonical) : x.stopped.Canonical :=
  Station.Canonical.lanes_map (f := fun l => { l with
    job := none, ctxs := [], passes := [], copies := [], slots := 0, partEnded := false, swapped := false, held := false,
    fed := false, stalled := false })
    z rfl rfl (fun _ => rfl)

theorem State.countUe_keeps {P' : Prop} {o' : State} {s : State} (h : Keeps P' o' s) (island word : Nat) (addr : Bool) :
    Keeps P' o' (State.countUe s island word addr) := by
  unfold State.countUe
  repeat' (first
    | with_reducible assumption
    | with_reducible apply State.event_keeps
    | ((with_reducible refine State.bump_keeps ?_ _ _ _ ?_); rotate_left; · exact rfl)
    | ((first | intro v' | extract_lets -underBinder +onlyGivenNames v'); (first | (refine_lift have k' : Keeps P' o' v' := ?_; ?_; (on_goal 1 => try clear_value v'); (on_goal 2 => dsimp -zeta only [v'])) | (have k'' : v'.isSome = v'.isSome := rfl; clear k''; clear_value v') | skip))
    | split)

theorem State.startRowRepair_keeps {P' : Prop} {o' : State} {s : State} (h : Keeps P' o' s) (stack channel target cause : Nat) (place : Option Nat) :
    Keeps P' o' (State.startRowRepair s stack channel target cause place) := by
  unfold State.startRowRepair
  repeat' (first
    | with_reducible assumption
    | with_reducible apply State.event_keeps
    | with_reducible apply State.finish_keeps
    | with_reducible apply State.setEcc_keeps
    | ((first | intro v' | extract_lets -underBinder +onlyGivenNames v'); (first | (refine_lift have k' : Keeps P' o' v' := ?_; ?_; (on_goal 1 => try clear_value v'); (on_goal 2 => dsimp -zeta only [v'])) | (have k'' : v'.isSome = v'.isSome := rfl; clear k''; clear_value v') | skip))
    | split
    | (clear_value *; split))

theorem State.stackCe_keeps {P' : Prop} {o' : State} {s : State} (h : Keeps P' o' s) (n fold symbol : Nat) :
    Keeps P' o' (State.stackCe s n fold symbol) := by
  unfold State.stackCe
  repeat' (first
    | with_reducible assumption
    | with_reducible apply State.startRowRepair_keeps
    | ((with_reducible refine State.fset_keeps ?_ _ _ _ ?_); rotate_left; · exact rfl)
    | ((with_reducible refine State.bump_keeps ?_ _ _ _ ?_); rotate_left; · exact rfl)
    | ((with_reducible refine State.bumpSat_keeps ?_ _ _ _ ?_); rotate_left; · exact rfl)
    | ((first | intro v' | extract_lets -underBinder +onlyGivenNames v'); (first | (refine_lift have k' : Keeps P' o' v' := ?_; ?_; (on_goal 1 => try clear_value v'); (on_goal 2 => dsimp -zeta only [v'])) | (have k'' : v'.isSome = v'.isSome := rfl; clear k''; clear_value v') | skip))
    | split)

theorem State.report_keeps {P' : Prop} {o' : State} {s : State} (h : Keeps P' o' s) (j st : Nat) :
    Keeps P' o' (State.report s j st) := by
  unfold State.report
  repeat' (first
    | with_reducible assumption
    | with_reducible apply State.setJob_keeps
    | split)

theorem State.abandonOn_keeps {P' : Prop} {o' : State} {s : State} (h : Keeps P' o' s) (st : Nat) :
    Keeps P' o' (State.abandonOn s st) := by
  unfold State.abandonOn
  repeat' (first
    | with_reducible assumption
    | with_reducible apply State.abandonRun_keeps
    | with_reducible apply State.report_keeps
    | ((with_reducible apply Keeps.foldl); intro s' x' h')
    | ((with_reducible apply Keeps.foldl_fst); intro s' x' h')
    | ((with_reducible apply Keeps.foldl_snd); intro s' x' h')
    | split)

theorem State.markFenced_keeps {P' : Prop} {o' : State} {s : State} (h : Keeps P' o' s) (st : Nat) :
    Keeps P' o' (State.markFenced s st) := by
  unfold State.markFenced
  repeat' (first
    | with_reducible assumption
    | with_reducible apply State.dropPlace_keeps
    | with_reducible apply State.setSlot_keeps
    | ((with_reducible apply Keeps.foldl); intro s' x' h')
    | ((with_reducible apply Keeps.foldl_fst); intro s' x' h')
    | ((with_reducible apply Keeps.foldl_snd); intro s' x' h')
    | ((with_reducible refine State.fset_keeps ?_ _ _ _ ?_); rotate_left; · exact rfl)
    | ((first | intro v' | extract_lets -underBinder +onlyGivenNames v'); (first | (refine_lift have k' : Keeps P' o' v' := ?_; ?_; (on_goal 1 => try clear_value v'); (on_goal 2 => dsimp -zeta only [v'])) | (have k'' : v'.isSome = v'.isSome := rfl; clear k''; clear_value v') | skip))
    | split
    | (clear_value *; split))

theorem State.endContexts_keeps {P' : Prop} {o' : State} {s : State} (h : Keeps P' o' s) (st : Nat) :
    Keeps P' o' (State.endContexts s st) := by
  unfold State.endContexts
  repeat' (first
    | with_reducible assumption
    | with_reducible apply State.finish_keeps
    | ((with_reducible apply Keeps.foldl); intro s' x' h')
    | ((with_reducible apply Keeps.foldl_fst); intro s' x' h')
    | ((with_reducible apply Keeps.foldl_snd); intro s' x' h')
    | split)

theorem State.fenceStation_keeps {P' : Prop} {o' : State} {s : State} (h : Keeps P' o' s) (st cause : Nat) :
    Keeps P' o' (State.fenceStation s st cause) := by
  unfold State.fenceStation
  repeat' (first
    | with_reducible assumption
    | with_reducible apply State.abandonOn_keeps
    | with_reducible apply State.closeScans_keeps
    | with_reducible apply State.endContexts_keeps
    | with_reducible apply State.endIdents_keeps
    | with_reducible apply State.event_keeps
    | with_reducible apply State.expressAgain_keeps
    | ((with_reducible refine State.flag_keeps ?_ _ ?_); rotate_left; · exact rfl)
    | with_reducible apply State.markFenced_keeps
    | with_reducible apply State.platformFree_keeps
    | with_reducible apply State.refresh_keeps
    | with_reducible apply State.reissue_keeps
    | with_reducible apply State.stitchFenced_keeps
    | with_reducible apply State.stitchKick_keeps
    | ((with_reducible apply Keeps.foldl); intro s' x' h')
    | ((with_reducible apply Keeps.foldl_fst); intro s' x' h')
    | ((with_reducible apply Keeps.foldl_snd); intro s' x' h')
    | ((with_reducible refine State.fset_keeps ?_ _ _ _ ?_); rotate_left; · exact rfl)
    | ((with_reducible refine State.setStn_keeps ?_ _ _ ?_); rotate_left; · exact fun z => Station.stopped_canonical z)
    | ((with_reducible refine State.setStn_keeps ?_ _ _ ?_); rotate_left; · exact id)
    | ((first | intro v' | extract_lets -underBinder +onlyGivenNames v'); (first | (refine_lift have k' : Keeps P' o' v' := ?_; ?_; (on_goal 1 => try clear_value v'); (on_goal 2 => dsimp -zeta only [v'])) | (have k'' : v'.isSome = v'.isSome := rfl; clear k''; clear_value v') | skip))
    | split)

theorem State.retireLane_keeps {P' : Prop} {o' : State} {s : State} (h : Keeps P' o' s) (st n cause : Nat) (banks : List Nat) (place : Option Nat) :
    Keeps P' o' (State.retireLane s st n cause banks place) := by
  unfold State.retireLane
  repeat' (first
    | with_reducible assumption
    | with_reducible apply State.fenceStation_keeps
    | with_reducible apply State.finish_keeps
    | with_reducible apply State.setEcc_keeps
    | with_reducible apply State.setPower_keeps
    | ((with_reducible refine State.fset_keeps ?_ _ _ _ ?_); rotate_left; · exact rfl)
    | ((first | intro v' | extract_lets -underBinder +onlyGivenNames v'); (first | (refine_lift have k' : Keeps P' o' v' := ?_; ?_; (on_goal 1 => try clear_value v'); (on_goal 2 => dsimp -zeta only [v'])) | (have k'' : v'.isSome = v'.isSome := rfl; clear k''; clear_value v') | skip))
    | split
    | (clear_value *; split))

theorem State.stationAddr_keeps {P' : Prop} {o' : State} {s : State} (h : Keeps P' o' s) (st unit cause bank : Nat) :
    Keeps P' o' (State.stationAddr s st unit cause bank) := by
  unfold State.stationAddr
  repeat' (first
    | with_reducible assumption
    | with_reducible apply State.fenceStation_keeps
    | with_reducible apply State.retireLane_keeps
    | split)

theorem State.sramRepairDue_keeps {P' : Prop} {o' : State} {s : State} (h : Keeps P' o' s) (i unit row cause : Nat) :
    Keeps P' o' (State.sramRepairDue s i unit row cause) := by
  unfold State.sramRepairDue
  repeat' (first
    | with_reducible assumption
    | with_reducible apply State.event_keeps
    | with_reducible apply State.setEcc_keeps
    | with_reducible apply State.stationAddr_keeps
    | ((first | intro v' | extract_lets -underBinder +onlyGivenNames v'); (first | (refine_lift have k' : Keeps P' o' v' := ?_; ?_; (on_goal 1 => try clear_value v'); (on_goal 2 => dsimp -zeta only [v'])) | (have k'' : v'.isSome = v'.isSome := rfl; clear k''; clear_value v') | skip))
    | split)

theorem State.pulse_keeps {P' : Prop} {o' : State} {s : State} (h : Keeps P' o' s) (st i : Nat) :
    Keeps P' o' (State.pulse s st i) := by
  unfold State.pulse
  repeat' (first
    | with_reducible assumption
    | ((with_reducible refine State.setStn_keeps ?_ _ _ ?_); rotate_left; · exact id)
    | split)

theorem State.stationCe_keeps {P' : Prop} {o' : State} {s : State} (h : Keeps P' o' s) (st unit word bit_ : Nat) :
    Keeps P' o' (State.stationCe s st unit word bit_) := by
  unfold State.stationCe
  repeat' (first
    | with_reducible assumption
    | with_reducible apply State.pulse_keeps
    | with_reducible apply State.sramRepairDue_keeps
    | ((with_reducible refine State.fset_keeps ?_ _ _ _ ?_); rotate_left; · exact rfl)
    | ((with_reducible refine State.bump_keeps ?_ _ _ _ ?_); rotate_left; · exact rfl)
    | ((with_reducible refine State.bumpSat_keeps ?_ _ _ _ ?_); rotate_left; · exact rfl)
    | ((first | intro v' | extract_lets -underBinder +onlyGivenNames v'); (first | (refine_lift have k' : Keeps P' o' v' := ?_; ?_; (on_goal 1 => try clear_value v'); (on_goal 2 => dsimp -zeta only [v'])) | (have k'' : v'.isSome = v'.isSome := rfl; clear k''; clear_value v') | skip))
    | split)

theorem State.takeInjected_keeps {P' : Prop} {o' : State} {s : State} (h : Keeps P' o' s) (i unit : Nat) (has : Nat → Bool) :
    Keeps P' o' (State.takeInjected s i unit has).2 := by
  unfold State.takeInjected
  repeat' (first
    | with_reducible assumption
    | with_reducible apply State.setEcc_keeps
    | ((first | intro v' | extract_lets -underBinder +onlyGivenNames v'); (first | (refine_lift have k' : Keeps P' o' v' := ?_; ?_; (on_goal 1 => try clear_value v'); (on_goal 2 => dsimp -zeta only [v'])) | (have k'' : v'.isSome = v'.isSome := rfl; clear k''; clear_value v') | skip))
    | split)

theorem State.stationUe_keeps {P' : Prop} {o' : State} {s : State} (h : Keeps P' o' s) (st unit word : Nat) (addr : Bool) :
    Keeps P' o' (State.stationUe s st unit word addr) := by
  unfold State.stationUe
  repeat' (first
    | with_reducible assumption
    | with_reducible apply State.countUe_keeps
    | with_reducible apply State.pulse_keeps
    | with_reducible apply State.stationAddr_keeps
    | ((first | intro v' | extract_lets -underBinder +onlyGivenNames v'); (first | (refine_lift have k' : Keeps P' o' v' := ?_; ?_; (on_goal 1 => try clear_value v'); (on_goal 2 => dsimp -zeta only [v'])) | (have k'' : v'.isSome = v'.isSome := rfl; clear k''; clear_value v') | skip))
    | split)

theorem State.readInjected_keeps {P' : Prop} {o' : State} (st : Nat) {s : State} (h : Keeps P' o' s) (x : Injected) :
    Keeps P' o' (State.readInjected st s x) := by
  unfold State.readInjected
  repeat' (first
    | with_reducible assumption
    | with_reducible apply State.stationCe_keeps
    | with_reducible apply State.stationUe_keeps
    | split)

theorem State.stationRead_keeps {P' : Prop} {o' : State} {s : State} (h : Keeps P' o' s) (st unit : Nat) (words : List (Nat × Nat)) :
    Keeps P' o' (State.stationRead s st unit words).2 := by
  unfold State.stationRead
  repeat' (first
    | with_reducible assumption
    | with_reducible apply State.readInjected_keeps
    | with_reducible apply State.stationUe_keeps
    | with_reducible apply State.takeInjected_keeps
    | ((with_reducible apply Keeps.foldl); intro s' x' h')
    | ((with_reducible apply Keeps.foldl_fst); intro s' x' h')
    | ((with_reducible apply Keeps.foldl_snd); intro s' x' h')
    | (refine Keeps.of_snd_eq ?_ (by with_reducible assumption))
    | ((first | intro v' | extract_lets -underBinder +onlyGivenNames v'); (first | (refine_lift have k' : Keeps P' o' v' := ?_; ?_; (on_goal 1 => try clear_value v'); (on_goal 2 => dsimp -zeta only [v'])) | (refine_lift have k' : Keeps P' o' v'.2 := ?_; ?_; (on_goal 1 => try clear_value v'); (on_goal 2 => dsimp -zeta only [v'])) | (have k'' : v'.isSome = v'.isSome := rfl; clear k''; clear_value v') | skip))
    | split)

end Sys2Proof.Machine
end

