-- ==== Sys2Proof/Laws/KeepsRoots.lean ====
section
/-! SUPPORT. What each operation of Machine/Roots.lean keeps (Laws/Keeps.lean). -/

set_option linter.unusedTactic false
set_option linter.unreachableTactic false

namespace Sys2Proof.Machine

theorem State.writeLine_keeps {P' : Prop} {o' : State} {s : State} (h : Keeps P' o' s) (r : Root) :
    Keeps P' o' (State.writeLine s r) := by
  unfold State.writeLine
  repeat' (first
    | with_reducible assumption
    | with_reducible apply State.store_keeps)

theorem State.usePage_keeps {P' : Prop} {o' : State} {s : State} (h : Keeps P' o' s) (a : Nat) :
    Keeps P' o' (State.usePage s a) := by
  unfold State.usePage
  repeat' (first
    | with_reducible assumption
    | with_reducible apply State.promote_keeps
    | with_reducible apply State.tierLookup_keeps)

theorem State.usePages_keeps {P' : Prop} {o' : State} {s : State} (h : Keeps P' o' s) (ps : List Nat) :
    Keeps P' o' (State.usePages s ps) := by
  unfold State.usePages
  repeat' (first
    | with_reducible assumption
    | with_reducible apply State.usePage_keeps
    | ((with_reducible apply Keeps.foldl); intro s' x' h')
    | ((with_reducible apply Keeps.foldl_fst); intro s' x' h')
    | ((with_reducible apply Keeps.foldl_snd); intro s' x' h'))

end Sys2Proof.Machine
end

