-- ==== Sys2Proof/Laws/KeepsLanes.lean ====
section
/-! SUPPORT. What each operation of Machine/Lanes.lean keeps (Laws/Keeps.lean). -/

set_option linter.unusedTactic false
set_option linter.unreachableTactic false

namespace Sys2Proof.Machine

theorem Lane.put_canonical {l : Lane} (a : Nat) (bs : List Byte) (h : Memory.wf l.store = true) :
    Memory.wf (l.put a bs).store = true := Memory.wf_write _ _ h

theorem Lane.puts_canonical {α : Type} (f : Lane → α → Lane) (hf : ∀ l x, Memory.wf l.store = true → Memory.wf (f l x).store = true)
    (xs : List α) {l : Lane} (h : Memory.wf l.store = true) : Memory.wf (xs.foldl f l).store = true := by
  induction xs generalizing l with
  | nil => exact h
  | cons x xs ih => exact ih (hf l x h)

theorem State.dropBacks_keeps {P' : Prop} {o' : State} {s : State} (h : Keeps P' o' s) (st unit w n : Nat) :
    Keeps P' o' (State.dropBacks s st unit w n) := by
  unfold State.dropBacks
  repeat' (first
    | with_reducible assumption
    | with_reducible apply State.setEcc_keeps
    | split)

theorem State.laneStore_keeps {P' : Prop} {o' s : State} (h : Keeps P' o' s) (st n : Nat) (at_ : StnImage) (u : Nat) (bs : List Byte) :
    Keeps P' o' (s.laneStore st n at_ u bs) := by
  unfold State.laneStore
  refine State.setLane_keeps (Keeps.foldl (fun _ _ k => State.dropBacks_keeps k _ _ _ _) _ h) _ _ _ (fun z => ?_)
  exact Lane.puts_canonical _ (fun l x k => Lane.put_canonical _ _ k) _ z

theorem State.platStore_keeps {P' : Prop} {o' : State} {s : State} (h : Keeps P' o' s) (st a : Nat) (bs : List Byte) :
    Keeps P' o' (State.platStore s st a bs) := by
  unfold State.platStore
  repeat' (first
    | with_reducible assumption
    | with_reducible apply State.dropBacks_keeps
    | ((with_reducible refine State.setStn_keeps ?_ _ _ ?_); rotate_left; · exact fun z => ⟨Memory.wf_write _ _ z.1, z.2⟩)
    | ((with_reducible refine State.setStn_keeps ?_ _ _ ?_); rotate_left; · exact id)
    | ((first | intro v' | extract_lets -underBinder +onlyGivenNames v'); (first | (refine_lift have k' : Keeps P' o' v' := ?_; ?_; (on_goal 1 => try clear_value v'); (on_goal 2 => dsimp -zeta only [v'])) | (have k'' : v'.isSome = v'.isSome := rfl; clear k''; clear_value v') | skip))
    | split)

theorem State.lrAdd_keeps {P' : Prop} {o' : State} {s : State} (h : Keeps P' o' s) (st n i k : Nat) :
    Keeps P' o' (State.lrAdd s st n i k) := by
  unfold State.lrAdd
  repeat' (first
    | with_reducible assumption
    | ((with_reducible refine State.bump_keeps ?_ _ _ _ ?_); rotate_left; · exact rfl))

theorem State.clipAdd_keeps {P' : Prop} {o' : State} {s : State} (h : Keeps P' o' s) (j i k : Nat) :
    Keeps P' o' (State.clipAdd s j i k) := by
  unfold State.clipAdd
  repeat' (first
    | with_reducible assumption
    | ((with_reducible refine State.bump_keeps ?_ _ _ _ ?_); rotate_left; · exact rfl))

theorem State.countRows_keeps {P' : Prop} {o' : State} {s : State} (h : Keeps P' o' s) (st n j : Nat) (rs : List RowAcc) :
    Keeps P' o' (State.countRows s st n j rs) := by
  unfold State.countRows
  repeat' (first
    | with_reducible assumption
    | with_reducible apply State.clipAdd_keeps
    | with_reducible apply State.lrAdd_keeps
    | ((first | intro v' | extract_lets -underBinder +onlyGivenNames v'); (first | (refine_lift have k' : Keeps P' o' v' := ?_; ?_; (on_goal 1 => try clear_value v'); (on_goal 2 => dsimp -zeta only [v'])) | (have k'' : v'.isSome = v'.isSome := rfl; clear k''; clear_value v') | skip))
    | split)

theorem State.setPass_keeps {P' : Prop} {o' : State} {s : State} (h : Keeps P' o' s) (st n i : Nat) (p : PassRun) :
    Keeps P' o' (State.setPass s st n i p) := by
  unfold State.setPass
  repeat' (first
    | with_reducible assumption
    | ((with_reducible refine State.setLane_keeps ?_ _ _ _ ?_); rotate_left; · exact id))

theorem State.keepFront_keeps {P' : Prop} {o' : State} {s : State} (h : Keeps P' o' s) (st n : Nat) (p : PassRun) (r : Front × List RowAcc) :
    Keeps P' o' (State.keepFront s st n p r) := by
  unfold State.keepFront
  repeat' (first
    | with_reducible assumption
    | ((with_reducible refine State.setLane_keeps ?_ _ _ _ ?_); rotate_left; · exact id))

theorem State.passReadsOk_keeps {P' : Prop} {o' : State} {s : State} (h : Keeps P' o' s) (st n : Nat) (at_ : StnImage) (p : PassRun) :
    Keeps P' o' (State.passReadsOk s st n at_ p).2 := by
  unfold State.passReadsOk
  repeat' (first
    | with_reducible assumption
    | with_reducible apply State.stationRead_keeps
    | ((first | intro v' | extract_lets -underBinder +onlyGivenNames v'); (first | (refine_lift have k' : Keeps P' o' v' := ?_; ?_; (on_goal 1 => try clear_value v'); (on_goal 2 => dsimp -zeta only [v'])) | (refine_lift have k' : Keeps P' o' v'.2 := ?_; ?_; (on_goal 1 => try clear_value v'); (on_goal 2 => dsimp -zeta only [v'])) | (have k'' : v'.isSome = v'.isSome := rfl; clear k''; clear_value v') | skip))
    | split
    | (clear_value *; split))

theorem State.storeRecords_keeps {P' : Prop} {o' : State} {s : State} (h : Keeps P' o' s) (st n : Nat) (at_ : StnImage) (p : PassRun) (rs : List RowAcc) :
    Keeps P' o' (State.storeRecords s st n at_ p rs) := by
  unfold State.storeRecords
  repeat' (first
    | with_reducible assumption
    | with_reducible apply State.clipAdd_keeps
    | with_reducible apply State.laneStore_keeps
    | with_reducible apply State.lrAdd_keeps
    | ((with_reducible apply Keeps.foldl); intro s' x' h')
    | ((with_reducible apply Keeps.foldl_fst); intro s' x' h')
    | ((with_reducible apply Keeps.foldl_snd); intro s' x' h')
    | ((first | intro v' | extract_lets -underBinder +onlyGivenNames v'); (first | (refine_lift have k' : Keeps P' o' v' := ?_; ?_; (on_goal 1 => try clear_value v'); (on_goal 2 => dsimp -zeta only [v'])) | (have k'' : v'.isSome = v'.isSome := rfl; clear k''; clear_value v') | skip))
    | split)

theorem State.storeOutputs_keeps {P' : Prop} {o' : State} {s : State} (h : Keeps P' o' s) (st n : Nat) (at_ : StnImage) (p : PassRun) (rs : List RowAcc) :
    Keeps P' o' (State.storeOutputs s st n at_ p rs) := by
  unfold State.storeOutputs
  repeat' (first
    | with_reducible assumption
    | with_reducible apply State.laneStore_keeps
    | with_reducible apply State.lrAdd_keeps
    | with_reducible apply State.store_keeps
    | ((with_reducible apply Keeps.foldl); intro s' x' h')
    | ((with_reducible apply Keeps.foldl_fst); intro s' x' h')
    | ((with_reducible apply Keeps.foldl_snd); intro s' x' h')
    | ((first | intro v' | extract_lets -underBinder +onlyGivenNames v'); (first | (refine_lift have k' : Keeps P' o' v' := ?_; ?_; (on_goal 1 => try clear_value v'); (on_goal 2 => dsimp -zeta only [v'])) | (have k'' : v'.isSome = v'.isSome := rfl; clear k''; clear_value v') | skip))
    | split)

theorem State.feedTail_keeps {P' : Prop} {o' : State} {s : State} (h : Keeps P' o' s) (st n : Nat) :
    Keeps P' o' (State.feedTail s st n) := by
  unfold State.feedTail
  repeat' (first
    | with_reducible assumption
    | ((with_reducible apply Keeps.foldl); intro s' x' h')
    | ((with_reducible apply Keeps.foldl_fst); intro s' x' h')
    | ((with_reducible apply Keeps.foldl_snd); intro s' x' h')
    | ((with_reducible refine State.setStn_keeps ?_ _ _ ?_); rotate_left; · exact id)
    | ((with_reducible refine State.setLane_keeps ?_ _ _ _ ?_); rotate_left; · exact id)
    | ((first | intro v' | extract_lets -underBinder +onlyGivenNames v'); (first | (refine_lift have k' : Keeps P' o' v' := ?_; ?_; (on_goal 1 => try clear_value v'); (on_goal 2 => dsimp -zeta only [v'])) | (have k'' : v'.isSome = v'.isSome := rfl; clear k''; clear_value v') | skip))
    | split)

theorem State.release_keeps {P' : Prop} {o' : State} {s : State} (h : Keeps P' o' s) (st n i : Nat) (at_ : StnImage) (p : PassRun) (rs : List RowAcc) :
    Keeps P' o' (State.release s st n i at_ p rs) := by
  unfold State.release
  repeat' (first
    | with_reducible assumption
    | with_reducible apply State.feedTail_keeps
    | with_reducible apply State.lrAdd_keeps
    | with_reducible apply State.setPass_keeps
    | with_reducible apply State.storeOutputs_keeps
    | with_reducible apply State.storeRecords_keeps
    | ((first | intro v' | extract_lets -underBinder +onlyGivenNames v'); (first | (refine_lift have k' : Keeps P' o' v' := ?_; ?_; (on_goal 1 => try clear_value v'); (on_goal 2 => dsimp -zeta only [v'])) | (have k'' : v'.isSome = v'.isSome := rfl; clear k''; clear_value v') | skip))
    | split)

theorem State.ahead_keeps {P' : Prop} {o' : State} {s : State} (h : Keeps P' o' s) (st n k : Nat) :
    Keeps P' o' (State.ahead s st n k) := by
  unfold State.ahead
  repeat' (first
    | with_reducible assumption
    | ((with_reducible refine State.setLane_keeps ?_ _ _ _ ?_); rotate_left; · exact id))

theorem State.countPass_keeps {P' : Prop} {o' : State} {s : State} (h : Keeps P' o' s) (st n : Nat) (p : PassRun) (k : Nat) :
    Keeps P' o' (State.countPass s st n p k) := by
  unfold State.countPass
  repeat' (first
    | with_reducible assumption
    | with_reducible apply State.charge_keeps
    | with_reducible apply State.clipAdd_keeps
    | with_reducible apply State.lrAdd_keeps
    | ((first | intro v' | extract_lets -underBinder +onlyGivenNames v'); (first | (refine_lift have k' : Keeps P' o' v' := ?_; ?_; (on_goal 1 => try clear_value v'); (on_goal 2 => dsimp -zeta only [v'])) | (have k'' : v'.isSome = v'.isSome := rfl; clear k''; clear_value v') | skip))
    | split)

theorem State.chargePass_keeps {P' : Prop} {o' : State} {s : State} (h : Keeps P' o' s) (st n : Nat) (p : PassRun) :
    Keeps P' o' (State.chargePass s st n p) := by
  unfold State.chargePass
  repeat' (first
    | with_reducible assumption
    | with_reducible apply State.ahead_keeps
    | with_reducible apply State.countPass_keeps)

theorem State.frontWait_keeps {P' : Prop} {o' : State} {s : State} (h : Keeps P' o' s) (st n j k : Nat) :
    Keeps P' o' (State.frontWait s st n j k) := by
  unfold State.frontWait
  repeat' (first
    | with_reducible assumption
    | with_reducible apply State.ahead_keeps
    | with_reducible apply State.charge_keeps
    | with_reducible apply State.lrAdd_keeps)

theorem State.askBlock_keeps {P' : Prop} {o' : State} {s : State} (h : Keeps P' o' s) (j : Nat) (b : Option Nat) :
    Keeps P' o' (State.askBlock s j b) := by
  unfold State.askBlock
  repeat' (first
    | with_reducible assumption
    | with_reducible apply State.usePages_keeps
    | split)

theorem State.feedNext_keeps {P' : Prop} {o' : State} {s : State} (h : Keeps P' o' s) (st n : Nat) :
    Keeps P' o' (State.feedNext s st n) := by
  unfold State.feedNext
  repeat' (first
    | with_reducible assumption
    | ((with_reducible refine State.setLane_keeps ?_ _ _ _ ?_); rotate_left; · exact id))

theorem State.widePassDone_keeps {P' : Prop} {o' : State} {s : State} (h : Keeps P' o' s) (st n i : Nat) :
    Keeps P' o' (State.widePassDone s st n i) := by
  unfold State.widePassDone
  repeat' (first
    | with_reducible assumption
    | with_reducible apply State.abandonRun_keeps
    | with_reducible apply State.chargePass_keeps
    | with_reducible apply State.countRows_keeps
    | with_reducible apply State.feedNext_keeps
    | with_reducible apply State.keepFront_keeps
    | with_reducible apply State.passReadsOk_keeps
    | with_reducible apply State.release_keeps
    | with_reducible apply State.setPass_keeps
    | ((first | intro v' | extract_lets -underBinder +onlyGivenNames v'); (first | (refine_lift have k' : Keeps P' o' v' := ?_; ?_; (on_goal 1 => try clear_value v'); (on_goal 2 => dsimp -zeta only [v'])) | (refine_lift have k' : Keeps P' o' v'.2 := ?_; ?_; (on_goal 1 => try clear_value v'); (on_goal 2 => dsimp -zeta only [v'])) | (have k'' : v'.isSome = v'.isSome := rfl; clear k''; clear_value v') | skip))
    | split
    | (clear_value *; split))

theorem State.widesDone_keeps {P' : Prop} {o' : State} {s : State} (h : Keeps P' o' s) (st n : Nat) :
    Keeps P' o' (State.widesDone s st n) := by
  unfold State.widesDone
  repeat' (first
    | with_reducible assumption
    | with_reducible apply State.widePassDone_keeps
    | ((with_reducible apply Keeps.foldl); intro s' x' h')
    | ((with_reducible apply Keeps.foldl_fst); intro s' x' h')
    | ((with_reducible apply Keeps.foldl_snd); intro s' x' h'))

theorem State.issuePass_keeps {P' : Prop} {o' : State} {s : State} (h : Keeps P' o' s) (st n : Nat) :
    Keeps P' o' (State.issuePass s st n) := by
  unfold State.issuePass
  repeat' (first
    | with_reducible assumption
    | with_reducible apply State.askBlock_keeps
    | with_reducible apply State.frontWait_keeps
    | with_reducible apply State.setCtx_keeps
    | with_reducible apply State.widesDone_keeps
    | ((with_reducible refine State.setLane_keeps ?_ _ _ _ ?_); rotate_left; · exact id)
    | ((first | intro v' | extract_lets -underBinder +onlyGivenNames v'); (first | (refine_lift have k' : Keeps P' o' v' := ?_; ?_; (on_goal 1 => try clear_value v'); (on_goal 2 => dsimp -zeta only [v'])) | (have k'' : v'.isSome = v'.isSome := rfl; clear k''; clear_value v') | skip))
    | split
    | (clear_value *; split))

theorem State.recordStatus_keeps {P' : Prop} {o' : State} {s : State} (h : Keeps P' o' s) (j m status : Nat) :
    Keeps P' o' (State.recordStatus s j m status) := by
  unfold State.recordStatus
  repeat' (first
    | with_reducible assumption
    | with_reducible apply State.setJob_keeps
    | split)

theorem State.cancelLater_keeps {P' : Prop} {o' : State} {s : State} (h : Keeps P' o' s) (st n i j : Nat) :
    Keeps P' o' (State.cancelLater s st n i j) := by
  unfold State.cancelLater
  repeat' (first
    | with_reducible assumption
    | with_reducible apply State.setCtx_keeps
    | ((with_reducible refine State.setLane_keeps ?_ _ _ _ ?_); rotate_left; · exact id)
    | ((first | intro v' | extract_lets -underBinder +onlyGivenNames v'); (first | (refine_lift have k' : Keeps P' o' v' := ?_; ?_; (on_goal 1 => try clear_value v'); (on_goal 2 => dsimp -zeta only [v'])) | (have k'' : v'.isSome = v'.isSome := rfl; clear k''; clear_value v') | skip))
    | split
    | (clear_value *; split))

theorem State.callRerun_keeps {P' : Prop} {o' : State} {s : State} (h : Keeps P' o' s) (st n i j : Nat) (p : PassRun) :
    Keeps P' o' (State.callRerun s st n i j p) := by
  unfold State.callRerun
  repeat' (first
    | with_reducible assumption
    | with_reducible apply State.cancelLater_keeps
    | with_reducible apply State.clipAdd_keeps
    | with_reducible apply State.setCtx_keeps
    | ((with_reducible refine State.setLane_keeps ?_ _ _ _ ?_); rotate_left; · exact id)
    | ((first | intro v' | extract_lets -underBinder +onlyGivenNames v'); (first | (refine_lift have k' : Keeps P' o' v' := ?_; ?_; (on_goal 1 => try clear_value v'); (on_goal 2 => dsimp -zeta only [v'])) | (have k'' : v'.isSome = v'.isSome := rfl; clear k''; clear_value v') | skip))
    | split)

theorem State.rerunRefused_keeps {P' : Prop} {o' : State} {s : State} (h : Keeps P' o' s) (st n j : Nat) (p : PassRun) (total : Nat) :
    Keeps P' o' (State.rerunRefused s st n j p total) := by
  unfold State.rerunRefused
  repeat' (first
    | with_reducible assumption
    | with_reducible apply State.event_keeps)

theorem State.judge_keeps {P' : Prop} {o' : State} {s : State} (h : Keeps P' o' s) (st n i j : Nat) (at_ : StnImage) (p : PassRun) (rs : List RowAcc) :
    Keeps P' o' (State.judge s st n i j at_ p rs) := by
  unfold State.judge
  repeat' (first
    | with_reducible assumption
    | with_reducible apply State.callRerun_keeps
    | with_reducible apply State.clipAdd_keeps
    | with_reducible apply State.pulse_keeps
    | with_reducible apply State.recordStatus_keeps
    | with_reducible apply State.release_keeps
    | with_reducible apply State.rerunRefused_keeps
    | ((first | intro v' | extract_lets -underBinder +onlyGivenNames v'); (first | (refine_lift have k' : Keeps P' o' v' := ?_; ?_; (on_goal 1 => try clear_value v'); (on_goal 2 => dsimp -zeta only [v'])) | (have k'' : v'.isSome = v'.isSome := rfl; clear k''; clear_value v') | skip))
    | split)

theorem State.drained_keeps {P' : Prop} {o' : State} {s : State} (h : Keeps P' o' s) (st n : Nat) :
    Keeps P' o' (State.drained s st n) := by
  unfold State.drained
  repeat' (first
    | with_reducible assumption
    | ((with_reducible refine State.setStn_keeps ?_ _ _ ?_); rotate_left; · exact id)
    | ((with_reducible refine State.setLane_keeps ?_ _ _ _ ?_); rotate_left; · exact id)
    | ((first | intro v' | extract_lets -underBinder +onlyGivenNames v'); (first | (refine_lift have k' : Keeps P' o' v' := ?_; ?_; (on_goal 1 => try clear_value v'); (on_goal 2 => dsimp -zeta only [v'])) | (have k'' : v'.isSome = v'.isSome := rfl; clear k''; clear_value v') | skip))
    | split)

theorem State.takeVerdict_keeps {P' : Prop} {o' : State} {s : State} (h : Keeps P' o' s) (st n : Nat) :
    Keeps P' o' (State.takeVerdict s st n) := by
  unfold State.takeVerdict
  repeat' (first
    | with_reducible assumption
    | with_reducible apply State.abandonRun_keeps
    | with_reducible apply State.chargePass_keeps
    | with_reducible apply State.countRows_keeps
    | with_reducible apply State.drained_keeps
    | with_reducible apply State.feedNext_keeps
    | with_reducible apply State.judge_keeps
    | with_reducible apply State.keepFront_keeps
    | with_reducible apply State.passReadsOk_keeps
    | with_reducible apply State.setPass_keeps
    | ((first | intro v' | extract_lets -underBinder +onlyGivenNames v'); (first | (refine_lift have k' : Keeps P' o' v' := ?_; ?_; (on_goal 1 => try clear_value v'); (on_goal 2 => dsimp -zeta only [v'])) | (refine_lift have k' : Keeps P' o' v'.2 := ?_; ?_; (on_goal 1 => try clear_value v'); (on_goal 2 => dsimp -zeta only [v'])) | (have k'' : v'.isSome = v'.isSome := rfl; clear k''; clear_value v') | skip))
    | split
    | (clear_value *; split))

theorem State.issueWide_keeps {P' : Prop} {o' : State} {s : State} (h : Keeps P' o' s) (st n : Nat) :
    Keeps P' o' (State.issueWide s st n) := by
  unfold State.issueWide
  repeat' (first
    | with_reducible assumption
    | with_reducible apply State.frontWait_keeps
    | with_reducible apply State.setCtx_keeps
    | with_reducible apply State.widesDone_keeps
    | ((with_reducible refine State.setLane_keeps ?_ _ _ _ ?_); rotate_left; · exact id)
    | ((first | intro v' | extract_lets -underBinder +onlyGivenNames v'); (first | (refine_lift have k' : Keeps P' o' v' := ?_; ?_; (on_goal 1 => try clear_value v'); (on_goal 2 => dsimp -zeta only [v'])) | (have k'' : v'.isSome = v'.isSome := rfl; clear k''; clear_value v') | skip))
    | split
    | (clear_value *; split))

theorem State.spanEnd_keeps {P' : Prop} {o' : State} {s : State} (h : Keeps P' o' s) (st n : Nat) :
    Keeps P' o' (State.spanEnd s st n) := by
  unfold State.spanEnd
  repeat' (first
    | with_reducible assumption
    | with_reducible apply State.lrAdd_keeps
    | with_reducible apply State.setCtx_keeps
    | with_reducible apply State.widePassDone_keeps
    | ((with_reducible refine State.setLane_keeps ?_ _ _ _ ?_); rotate_left; · exact id)
    | ((first | intro v' | extract_lets -underBinder +onlyGivenNames v'); (first | (refine_lift have k' : Keeps P' o' v' := ?_; ?_; (on_goal 1 => try clear_value v'); (on_goal 2 => dsimp -zeta only [v'])) | (have k'' : v'.isSome = v'.isSome := rfl; clear k''; clear_value v') | skip))
    | split
    | (clear_value *; split))

theorem State.tickWait_keeps {P' : Prop} {o' : State} {s : State} (h : Keeps P' o' s) (st n k : Nat) :
    Keeps P' o' (State.tickWait s st n k) := by
  unfold State.tickWait
  repeat' (first
    | with_reducible assumption
    | with_reducible apply State.charge_keeps
    | with_reducible apply State.lrAdd_keeps
    | ((with_reducible refine State.setLane_keeps ?_ _ _ _ ?_); rotate_left; · exact id)
    | split)

theorem State.lanePulse_keeps {P' : Prop} {o' : State} {s : State} (h : Keeps P' o' s) (st n : Nat) (p : PassRun) (k : Nat) :
    Keeps P' o' (State.lanePulse s st n p k) := by
  unfold State.lanePulse
  repeat' (first
    | with_reducible assumption
    | with_reducible apply State.pulse_keeps
    | ((first | intro v' | extract_lets -underBinder +onlyGivenNames v'); (first | (refine_lift have k' : Keeps P' o' v' := ?_; ?_; (on_goal 1 => try clear_value v'); (on_goal 2 => dsimp -zeta only [v'])) | (have k'' : v'.isSome = v'.isSome := rfl; clear k''; clear_value v') | skip))
    | split)

theorem State.tickLane_keeps {P' : Prop} {o' : State} (st k : Nat) {s : State} (h : Keeps P' o' s) (n : Nat) :
    Keeps P' o' (State.tickLane st k s n) := by
  unfold State.tickLane
  repeat' (first
    | with_reducible assumption
    | with_reducible apply State.bind_keeps
    | with_reducible apply State.countPass_keeps
    | with_reducible apply State.lanePulse_keeps
    | with_reducible apply State.lrAdd_keeps
    | with_reducible apply State.setPass_keeps
    | with_reducible apply State.tickWait_keeps
    | ((with_reducible refine State.setLane_keeps ?_ _ _ _ ?_); rotate_left; · exact id)
    | ((first | intro v' | extract_lets -underBinder +onlyGivenNames v'); (first | (refine_lift have k' : Keeps P' o' v' := ?_; ?_; (on_goal 1 => try clear_value v'); (on_goal 2 => dsimp -zeta only [v'])) | (refine_lift have k' : Keeps P' o' v'.2 := ?_; ?_; (on_goal 1 => try clear_value v'); (on_goal 2 => dsimp -zeta only [v'])) | (have k'' : v'.isSome = v'.isSome := rfl; clear k''; clear_value v') | skip))
    | split
    | (clear_value *; split))

theorem State.tickStation_keeps {P' : Prop} {o' : State} {s : State} (h : Keeps P' o' s) (st k : Nat) :
    Keeps P' o' (State.tickStation s st k) := by
  unfold State.tickStation
  repeat' (first
    | with_reducible assumption
    | with_reducible apply State.tickLane_keeps
    | ((with_reducible apply Keeps.foldl); intro s' x' h')
    | ((with_reducible apply Keeps.foldl_fst); intro s' x' h')
    | ((with_reducible apply Keeps.foldl_snd); intro s' x' h')
    | ((with_reducible refine State.bump_keeps ?_ _ _ _ ?_); rotate_left; · exact rfl)
    | split)

theorem State.passTime_keeps {P' : Prop} {o' : State} {s : State} (h : Keeps P' o' s) (st k : Nat) :
    Keeps P' o' (State.passTime s st k) := by
  unfold State.passTime
  repeat' (first
    | with_reducible assumption
    | with_reducible apply State.ahead_keeps
    | with_reducible apply State.tickLane_keeps
    | ((with_reducible apply Keeps.foldl); intro s' x' h')
    | ((with_reducible apply Keeps.foldl_fst); intro s' x' h')
    | ((with_reducible apply Keeps.foldl_snd); intro s' x' h'))

theorem execPassIssue_keeps {P' : Prop} {o' : State} (s : StationId) (n : LaneRowId) {m : State} (h : Keeps P' o' m) {t : State} (e : execPassIssue s n m = .next t) :
    Keeps P' o' t := by
  unfold execPassIssue at e
  injection e with e
  subst e
  repeat' (first
    | with_reducible assumption
    | with_reducible apply State.issuePass_keeps)

theorem execPassVerdict_keeps {P' : Prop} {o' : State} (s : StationId) (n : LaneRowId) {m : State} (h : Keeps P' o' m) {t : State} (e : execPassVerdict s n m = .next t) :
    Keeps P' o' t := by
  unfold execPassVerdict at e
  injection e with e
  subst e
  repeat' (first
    | with_reducible assumption
    | with_reducible apply State.takeVerdict_keeps)

theorem execWidePassIssue_keeps {P' : Prop} {o' : State} (s : StationId) (n : LaneRowId) {m : State} (h : Keeps P' o' m) {t : State} (e : execWidePassIssue s n m = .next t) :
    Keeps P' o' t := by
  unfold execWidePassIssue at e
  injection e with e
  subst e
  repeat' (first
    | with_reducible assumption
    | with_reducible apply State.issueWide_keeps)

theorem execPassSpanEnd_keeps {P' : Prop} {o' : State} (s : StationId) (n : LaneRowId) {m : State} (h : Keeps P' o' m) {t : State} (e : execPassSpanEnd s n m = .next t) :
    Keeps P' o' t := by
  unfold execPassSpanEnd at e
  injection e with e
  subst e
  repeat' (first
    | with_reducible assumption
    | with_reducible apply State.spanEnd_keeps)

theorem execLaneRowRetireStart_keeps {P' : Prop} {o' : State} (s : StationId) (n : LaneRowId) {m : State} (h : Keeps P' o' m) {t : State} (e : execLaneRowRetireStart s n m = .next t) :
    Keeps P' o' t := by
  unfold execLaneRowRetireStart at e
  injection e with e
  subst e
  repeat' (first
    | with_reducible assumption
    | with_reducible apply State.setEcc_keeps
    | ((with_reducible refine State.setLane_keeps ?_ _ _ _ ?_); rotate_left; · exact id)
    | split)

theorem State.heldOver_keeps {P' : Prop} {o' : State} {s : State} (h : Keeps P' o' s) (st n : Nat) :
    Keeps P' o' (State.heldOver s st n) := by
  unfold State.heldOver
  repeat' (first
    | with_reducible assumption
    | with_reducible apply State.ahead_keeps
    | with_reducible apply State.charge_keeps
    | with_reducible apply State.lrAdd_keeps
    | ((first | intro v' | extract_lets -underBinder +onlyGivenNames v'); (first | (refine_lift have k' : Keeps P' o' v' := ?_; ?_; (on_goal 1 => try clear_value v'); (on_goal 2 => dsimp -zeta only [v'])) | (have k'' : v'.isSome = v'.isSome := rfl; clear k''; clear_value v') | skip))
    | split
    | (clear_value *; split))

theorem execLaneRowRetireDone_keeps {P' : Prop} {o' : State} (s : StationId) (n : LaneRowId) {m : State} (h : Keeps P' o' m) {t : State} (e : execLaneRowRetireDone s n m = .next t) :
    Keeps P' o' t := by
  unfold execLaneRowRetireDone at e
  injection e with e
  subst e
  repeat' (first
    | with_reducible assumption
    | with_reducible apply State.cfsWrite_keeps
    | with_reducible apply State.finish_keeps
    | with_reducible apply State.heldOver_keeps
    | with_reducible apply State.setEcc_keeps
    | ((with_reducible refine State.fset_keeps ?_ _ _ _ ?_); rotate_left; · exact rfl)
    | ((with_reducible refine State.setLane_keeps ?_ _ _ _ ?_); rotate_left; · exact id)
    | ((first | intro v' | extract_lets -underBinder +onlyGivenNames v'); (first | (refine_lift have k' : Keeps P' o' v' := ?_; ?_; (on_goal 1 => try clear_value v'); (on_goal 2 => dsimp -zeta only [v'])) | (have k'' : v'.isSome = v'.isSome := rfl; clear k''; clear_value v') | skip))
    | split
    | (clear_value *; split))

end Sys2Proof.Machine
end

