-- ==== Sys2Proof/Laws/KeepsLaneTail.lean ====
section
/-! SUPPORT. What each operation of Machine/LaneTail.lean keeps (Laws/Keeps.lean). -/

set_option linter.unusedTactic false
set_option linter.unreachableTactic false

namespace Sys2Proof.Machine

theorem regroupPair_canonical (d cap : Nat) (x : Memory × Nat) (p : Nat × Nat) (h : Memory.wf x.1 = true) :
    Memory.wf (regroupPair d cap x p).1 = true := by
  unfold regroupPair
  dsimp only
  split <;> exact Memory.wf_write _ _ (Memory.wf_write _ _ h)

theorem regroupAll_canonical (m : Memory) (dest src : Nat) (d : List Byte) (h : Memory.wf m = true) :
    Memory.wf (regroupAll m dest src d).1 = true := by
  unfold regroupAll
  dsimp only
  generalize List.map _ _ = ps
  have h1 : Memory.wf (if pdTailInit d then (m.write dest (zeros 16384)).write (dest + overflowAt (pdTailK d)) (zeros 4) else m) = true := by
    split
    · exact Memory.wf_write _ _ (Memory.wf_write _ _ h)
    · exact h
  have : ∀ x : Memory × Nat, Memory.wf x.1 = true → Memory.wf (ps.foldl (regroupPair dest (pdTailK d)) x).1 = true := by
    induction ps with
    | nil => exact fun _ hx => hx
    | cons p ps ih => exact fun x hx => ih _ (regroupPair_canonical _ _ _ _ hx)
  exact this _ h1

theorem State.tailRow_keeps {P' : Prop} {o' : State} {s : State} (h : Keeps P' o' s) (st base : Nat) (t : TailRow) :
    Keeps P' o' (State.tailRow s st base t) := by
  unfold State.tailRow
  dsimp only
  split
  · split
    · exact h
    · refine State.bump_keeps (State.setStn_keeps h _ _ ?_) _ _ _ rfl
      exact fun z => ⟨regroupAll_canonical _ _ _ _ z.1, z.2⟩
  · refine State.lrAdd_keeps (Keeps.foldl (fun s' x' h' => ?_) _ h) _ _ _ _
    exact State.platStore_keeps h' _ _ _

theorem State.sidingRow_keeps {P' : Prop} {o' : State} {s : State} (h : Keeps P' o' s) (t : TailRow) (b : Nat) :
    Keeps P' o' (State.sidingRow s t b) := by
  unfold State.sidingRow
  repeat' (first
    | with_reducible assumption
    | with_reducible apply State.setJob_keeps
    | ((first | intro v' | extract_lets -underBinder +onlyGivenNames v'); (first | (refine_lift have k' : Keeps P' o' v' := ?_; ?_; (on_goal 1 => try clear_value v'); (on_goal 2 => dsimp -zeta only [v'])) | (have k'' : v'.isSome = v'.isSome := rfl; clear k''; clear_value v') | skip))
    | split
    | (clear_value *; split))

theorem State.feedAll_keeps {P' : Prop} {o' : State} {s : State} (h : Keeps P' o' s) (st n : Nat) :
    Keeps P' o' (State.feedAll s st n) := by
  unfold State.feedAll
  repeat' (first
    | with_reducible assumption
    | with_reducible apply State.feedTail_keeps
    | ((with_reducible apply Keeps.foldl); intro s' x' h')
    | ((with_reducible apply Keeps.foldl_fst); intro s' x' h')
    | ((with_reducible apply Keeps.foldl_snd); intro s' x' h')
    | split)

theorem State.laneTail_keeps {P' : Prop} {o' : State} {s : State} (h : Keeps P' o' s) (st : Nat) :
    Keeps P' o' (State.laneTail s st) := by
  unfold State.laneTail
  repeat' (first
    | with_reducible assumption
    | with_reducible apply State.abandonRun_keeps
    | with_reducible apply State.feedAll_keeps
    | with_reducible apply State.lrAdd_keeps
    | with_reducible apply State.pulse_keeps
    | with_reducible apply State.sidingRow_keeps
    | with_reducible apply State.stationRead_keeps
    | with_reducible apply State.tailRow_keeps
    | ((with_reducible refine State.setStn_keeps ?_ _ _ ?_); rotate_left; · exact fun z => ⟨Memory.wf_write _ _ z.1, z.2⟩)
    | ((with_reducible refine State.setStn_keeps ?_ _ _ ?_); rotate_left; · exact id)
    | ((first | intro v' | extract_lets -underBinder +onlyGivenNames v'); (first | (refine_lift have k' : Keeps P' o' v' := ?_; ?_; (on_goal 1 => try clear_value v'); (on_goal 2 => dsimp -zeta only [v'])) | (refine_lift have k' : Keeps P' o' v'.2 := ?_; ?_; (on_goal 1 => try clear_value v'); (on_goal 2 => dsimp -zeta only [v'])) | (have k'' : v'.isSome = v'.isSome := rfl; clear k''; clear_value v') | skip))
    | split
    | (clear_value *; split))

theorem execLaneTailRow_keeps {P' : Prop} {o' : State} (s : StationId) {m : State} (h : Keeps P' o' m) {t : State} (e : execLaneTailRow s m = .next t) :
    Keeps P' o' t := by
  unfold execLaneTailRow at e
  injection e with e
  subst e
  repeat' (first
    | with_reducible assumption
    | with_reducible apply State.laneTail_keeps)

end Sys2Proof.Machine
end

