-- ==== Sys2Proof/Laws/KeepsCopies.lean ====
section
/-! SUPPORT. What each operation of Machine/Copies.lean keeps (Laws/Keeps.lean). -/

set_option linter.unusedTactic false
set_option linter.unreachableTactic false

namespace Sys2Proof.Machine

theorem State.setStream_keeps {P' : Prop} {o' : State} {s : State} (h : Keeps P' o' s) (st place pref : Nat) (x : Stream) :
    Keeps P' o' (State.setStream s st place pref x) := by
  unfold State.setStream
  repeat' (first
    | with_reducible assumption
    | ((with_reducible refine State.setStn_keeps ?_ _ _ ?_); rotate_left; · exact id))

theorem State.issueCopy_keeps {P' : Prop} {o' : State} {s : State} (h : Keeps P' o' s) (st n : Nat) :
    Keeps P' o' (State.issueCopy s st n) := by
  unfold State.issueCopy
  repeat' (first
    | with_reducible assumption
    | with_reducible apply State.setCtx_keeps
    | ((with_reducible refine State.setLane_keeps ?_ _ _ _ ?_); rotate_left; · exact id)
    | ((first | intro v' | extract_lets -underBinder +onlyGivenNames v'); (first | (refine_lift have k' : Keeps P' o' v' := ?_; ?_; (on_goal 1 => try clear_value v'); (on_goal 2 => dsimp -zeta only [v'])) | (have k'' : v'.isSome = v'.isSome := rfl; clear k''; clear_value v') | skip))
    | split
    | (clear_value *; split))

theorem State.putCopy_keeps {P' : Prop} {o' : State} {s : State} (h : Keeps P' o' s) (st n : Nat) (c : CopyRun) (slots : Nat) :
    Keeps P' o' (State.putCopy s st n c slots) := by
  unfold State.putCopy
  repeat' (first
    | with_reducible assumption
    | ((with_reducible refine State.setLane_keeps ?_ _ _ _ ?_); rotate_left; · exact id)
    | ((first | intro v' | extract_lets -underBinder +onlyGivenNames v'); (first | (refine_lift have k' : Keeps P' o' v' := ?_; ?_; (on_goal 1 => try clear_value v'); (on_goal 2 => dsimp -zeta only [v'])) | (have k'' : v'.isSome = v'.isSome := rfl; clear k''; clear_value v') | skip))
    | split)

theorem State.cacheLine_keeps {P' : Prop} {o' : State} {s : State} (h : Keeps P' o' s) (d a : Nat) :
    Keeps P' o' (State.cacheLine s d a).2 := by
  unfold State.cacheLine
  repeat' (first
    | with_reducible assumption
    | ((with_reducible refine State.bump_keeps ?_ _ _ _ ?_); rotate_left; · exact rfl)
    | ((with_reducible refine State.setDepot_keeps ?_ _ ?_); rotate_left; · exact rfl)
    | ((first | intro v' | extract_lets -underBinder +onlyGivenNames v'); (first | (refine_lift have k' : Keeps P' o' v' := ?_; ?_; (on_goal 1 => try clear_value v'); (on_goal 2 => dsimp -zeta only [v'])) | (have k'' : v'.isSome = v'.isSome := rfl; clear k''; clear_value v') | skip))
    | split
    | (clear_value *; split))

theorem State.reachPage_keeps {P' : Prop} {o' : State} {s : State} (h : Keeps P' o' s) (st j : Nat) (d : List Byte) (a : Nat) :
    Keeps P' o' (State.reachPage s st j d a) := by
  unfold State.reachPage
  repeat' (first
    | with_reducible assumption
    | with_reducible apply State.cacheLine_keeps
    | with_reducible apply State.promote_keeps
    | with_reducible apply State.tierLookup_keeps
    | ((first | intro v' | extract_lets -underBinder +onlyGivenNames v'); (first | (refine_lift have k' : Keeps P' o' v' := ?_; ?_; (on_goal 1 => try clear_value v'); (on_goal 2 => dsimp -zeta only [v'])) | (refine_lift have k' : Keeps P' o' v'.2 := ?_; ?_; (on_goal 1 => try clear_value v'); (on_goal 2 => dsimp -zeta only [v'])) | (have k'' : v'.isSome = v'.isSome := rfl; clear k''; clear_value v') | skip))
    | split)

theorem State.sendCopy_keeps {P' : Prop} {o' : State} {s : State} (h : Keeps P' o' s) (st n seq : Nat) :
    Keeps P' o' (State.sendCopy s st n seq) := by
  unfold State.sendCopy
  repeat' (first
    | with_reducible assumption
    | with_reducible apply State.goOn_keeps
    | with_reducible apply State.pulse_keeps
    | with_reducible apply State.putCopy_keeps
    | with_reducible apply State.reachPage_keeps
    | ((with_reducible refine State.bump_keeps ?_ _ _ _ ?_); rotate_left; · exact rfl)
    | ((with_reducible refine State.setStn_keeps ?_ _ _ ?_); rotate_left; · exact id)
    | ((first | intro v' | extract_lets -underBinder +onlyGivenNames v'); (first | (refine_lift have k' : Keeps P' o' v' := ?_; ?_; (on_goal 1 => try clear_value v'); (on_goal 2 => dsimp -zeta only [v'])) | (have k'' : v'.isSome = v'.isSome := rfl; clear k''; clear_value v') | skip))
    | split
    | (clear_value *; split))

theorem State.depotOrFree_keeps {P' : Prop} {o' : State} {s : State} (h : Keeps P' o' s) (a n : Nat) :
    Keeps P' o' (State.depotOrFree s a n).2 := by
  unfold State.depotOrFree
  repeat' (first
    | with_reducible assumption
    | with_reducible apply State.drawBytes_keeps
    | split)

theorem State.copyBytes_keeps {P' : Prop} {o' : State} {s : State} (h : Keeps P' o' s) (st n : Nat) (c : CopyRun) (q : Nat × Nat) :
    Keeps P' o' (State.copyBytes s st n c q).2.2 := by
  unfold State.copyBytes
  repeat' (first
    | with_reducible assumption
    | with_reducible apply State.depotOrFree_keeps
    | with_reducible apply State.stationRead_keeps
    | with_reducible apply State.store_keeps
    | ((first | intro v' | extract_lets -underBinder +onlyGivenNames v'); (first | (refine_lift have k' : Keeps P' o' v' := ?_; ?_; (on_goal 1 => try clear_value v'); (on_goal 2 => dsimp -zeta only [v'])) | (refine_lift have k' : Keeps P' o' v'.2 := ?_; ?_; (on_goal 1 => try clear_value v'); (on_goal 2 => dsimp -zeta only [v'])) | (have k'' : v'.isSome = v'.isSome := rfl; clear k''; clear_value v') | skip))
    | split
    | (clear_value *; split))

theorem State.landPage_keeps {P' : Prop} {o' : State} (st n : Nat) (c : CopyRun) {s : State} (h : Keeps P' o' s) (x : Nat × List Byte) :
    Keeps P' o' (State.landPage st n c s x) := by
  unfold State.landPage
  repeat' (first
    | with_reducible assumption
    | with_reducible apply State.beginWrite_keeps
    | with_reducible apply State.dirtyPressure_keeps
    | with_reducible apply State.endWrite_keeps
    | with_reducible apply State.landBytes_keeps
    | with_reducible apply State.setPage_keeps
    | with_reducible apply State.tierLookup_keeps
    | ((first | intro v' | extract_lets -underBinder +onlyGivenNames v'); (first | (refine_lift have k' : Keeps P' o' v' := ?_; ?_; (on_goal 1 => try clear_value v'); (on_goal 2 => dsimp -zeta only [v'])) | (have k'' : v'.isSome = v'.isSome := rfl; clear k''; clear_value v') | skip))
    | split)

theorem State.landCopy_keeps {P' : Prop} {o' : State} {s : State} (h : Keeps P' o' s) (st n : Nat) (im : Image) (c : CopyRun) (off : Nat) (bs : List Byte) :
    Keeps P' o' (State.landCopy s st n im c off bs) := by
  unfold State.landCopy
  repeat' (first
    | with_reducible assumption
    | with_reducible apply State.landPage_keeps
    | with_reducible apply State.laneStore_keeps
    | with_reducible apply State.lrAdd_keeps
    | with_reducible apply State.platStore_keeps
    | ((with_reducible apply Keeps.foldl); intro s' x' h')
    | ((with_reducible apply Keeps.foldl_fst); intro s' x' h')
    | ((with_reducible apply Keeps.foldl_snd); intro s' x' h')
    | ((first | intro v' | extract_lets -underBinder +onlyGivenNames v'); (first | (refine_lift have k' : Keeps P' o' v' := ?_; ?_; (on_goal 1 => try clear_value v'); (on_goal 2 => dsimp -zeta only [v'])) | (have k'' : v'.isSome = v'.isSome := rfl; clear k''; clear_value v') | skip))
    | split)

theorem State.dropCopy_keeps {P' : Prop} {o' : State} {s : State} (h : Keeps P' o' s) (st n : Nat) (c : CopyRun) :
    Keeps P' o' (State.dropCopy s st n c) := by
  unfold State.dropCopy
  repeat' (first
    | with_reducible assumption
    | with_reducible apply State.endHold_keeps
    | with_reducible apply State.endWrite_keeps
    | ((with_reducible apply Keeps.foldl); intro s' x' h')
    | ((with_reducible apply Keeps.foldl_fst); intro s' x' h')
    | ((with_reducible apply Keeps.foldl_snd); intro s' x' h')
    | ((with_reducible refine State.setLane_keeps ?_ _ _ _ ?_); rotate_left; · exact id)
    | ((first | intro v' | extract_lets -underBinder +onlyGivenNames v'); (first | (refine_lift have k' : Keeps P' o' v' := ?_; ?_; (on_goal 1 => try clear_value v'); (on_goal 2 => dsimp -zeta only [v'])) | (have k'' : v'.isSome = v'.isSome := rfl; clear k''; clear_value v') | skip))
    | split)

theorem State.faultCopy_keeps {P' : Prop} {o' : State} {s : State} (h : Keeps P' o' s) (st n : Nat) (c : CopyRun) (status : Nat) :
    Keeps P' o' (State.faultCopy s st n c status) := by
  unfold State.faultCopy
  repeat' (first
    | with_reducible assumption
    | with_reducible apply State.abandonRun_keeps
    | with_reducible apply State.dropCopy_keeps
    | with_reducible apply State.setCtx_keeps
    | ((with_reducible refine State.bump_keeps ?_ _ _ _ ?_); rotate_left; · exact rfl)
    | ((first | intro v' | extract_lets -underBinder +onlyGivenNames v'); (first | (refine_lift have k' : Keeps P' o' v' := ?_; ?_; (on_goal 1 => try clear_value v'); (on_goal 2 => dsimp -zeta only [v'])) | (have k'' : v'.isSome = v'.isSome := rfl; clear k''; clear_value v') | skip))
    | split)

theorem State.carry_keeps {P' : Prop} {o' : State} {s : State} (h : Keeps P' o' s) (st n : Nat) (c : CopyRun) (q : Nat × Nat) (bs : List Byte) :
    Keeps P' o' (State.carry s st n c q bs) := by
  unfold State.carry
  repeat' (first
    | with_reducible assumption
    | with_reducible apply State.arrived_keeps
    | with_reducible apply State.goOn_keeps
    | ((with_reducible apply Keeps.foldl); intro s' x' h')
    | ((with_reducible apply Keeps.foldl_fst); intro s' x' h')
    | ((with_reducible apply Keeps.foldl_snd); intro s' x' h')
    | ((first | intro v' | extract_lets -underBinder +onlyGivenNames v'); (first | (refine_lift have k' : Keeps P' o' v' := ?_; ?_; (on_goal 1 => try clear_value v'); (on_goal 2 => dsimp -zeta only [v'])) | (have k'' : v'.isSome = v'.isSome := rfl; clear k''; clear_value v') | skip))
    | split)

theorem State.takeCopyData_keeps {P' : Prop} {o' : State} {s : State} (h : Keeps P' o' s) (st n : Nat) (im : Image) (c : CopyRun) (q : Nat × Nat) :
    Keeps P' o' (State.takeCopyData s st n im c q) := by
  unfold State.takeCopyData
  repeat' (first
    | with_reducible assumption
    | with_reducible apply State.bind_keeps
    | with_reducible apply State.carry_keeps
    | with_reducible apply State.copyBytes_keeps
    | with_reducible apply State.faultCopy_keeps
    | with_reducible apply State.landCopy_keeps
    | with_reducible apply State.putCopy_keeps
    | ((first | intro v' | extract_lets -underBinder +onlyGivenNames v'); (first | (refine_lift have k' : Keeps P' o' v' := ?_; ?_; (on_goal 1 => try clear_value v'); (on_goal 2 => dsimp -zeta only [v'])) | (refine_lift have k' : Keeps P' o' v'.2 := ?_; ?_; (on_goal 1 => try clear_value v'); (on_goal 2 => dsimp -zeta only [v'])) | (have k'' : v'.isSome = v'.isSome := rfl; clear k''; clear_value v') | skip))
    | split
    | (clear_value *; split))

theorem State.copyData_keeps {P' : Prop} {o' : State} {s0 : State} (h : Keeps P' o' s0) (st n seq off : Nat) :
    Keeps P' o' (State.copyData s0 st n seq off) := by
  unfold State.copyData
  repeat' (first
    | with_reducible assumption
    | with_reducible apply State.arrived_keeps
    | with_reducible apply State.bind_keeps
    | with_reducible apply State.faultCopy_keeps
    | with_reducible apply State.promote_keeps
    | with_reducible apply State.putCopy_keeps
    | with_reducible apply State.takeCopyData_keeps
    | ((with_reducible refine State.bump_keeps ?_ _ _ _ ?_); rotate_left; · exact rfl)
    | ((first | intro v' | extract_lets -underBinder +onlyGivenNames v'); (first | (refine_lift have k' : Keeps P' o' v' := ?_; ?_; (on_goal 1 => try clear_value v'); (on_goal 2 => dsimp -zeta only [v'])) | (refine_lift have k' : Keeps P' o' v'.2 := ?_; ?_; (on_goal 1 => try clear_value v'); (on_goal 2 => dsimp -zeta only [v'])) | (have k'' : v'.isSome = v'.isSome := rfl; clear k''; clear_value v') | skip))
    | split
    | (clear_value *; split))

theorem State.emptySlot_keeps {P' : Prop} {o' : State} {s : State} (h : Keeps P' o' s) (st : Nat) (c : CopyRun) (p : Nat) :
    Keeps P' o' (State.emptySlot s st c p) := by
  unfold State.emptySlot
  repeat' (first
    | with_reducible assumption
    | with_reducible apply State.setStream_keeps
    | ((first | intro v' | extract_lets -underBinder +onlyGivenNames v'); (first | (refine_lift have k' : Keeps P' o' v' := ?_; ?_; (on_goal 1 => try clear_value v'); (on_goal 2 => dsimp -zeta only [v'])) | (have k'' : v'.isSome = v'.isSome := rfl; clear k''; clear_value v') | skip))
    | split
    | (clear_value *; split))

theorem State.confirmFails_keeps {P' : Prop} {o' : State} {s : State} (h : Keeps P' o' s) (st n : Nat) (c : CopyRun) (x : CopyPage) :
    Keeps P' o' (State.confirmFails s st n c x) := by
  unfold State.confirmFails
  extract_lets mine c1 s1 s2 s3
  have k1 : Keeps P' o' s1 := State.bump_keeps (State.putCopy_keeps h _ _ _ _) _ _ _ rfl
  clear_value s1
  have k2 : Keeps P' o' s2 := by
    refine State.bump_keeps ?_ _ _ _ rfl
    split
    · exact State.bump_keeps k1 _ _ _ rfl
    · exact k1
  clear_value s2
  have k3 : Keeps P' o' s3 := by
    show Keeps P' o' (if _ then _ else _)
    split
    · exact State.emptySlot_keeps k2 _ _ _
    · exact k2
  clear_value s3
  split
  · exact State.holdWrites_keeps k3 _ _
  · exact k3

theorem State.confirm_keeps {P' : Prop} {o' : State} {s : State} (h : Keeps P' o' s) (st n seq p : Nat) :
    Keeps P' o' (State.confirm s st n seq p) := by
  unfold State.confirm
  repeat' (first
    | with_reducible assumption
    | with_reducible apply State.confirmFails_keeps
    | with_reducible apply State.endHold_keeps
    | with_reducible apply State.putCopy_keeps
    | split)

theorem State.showStream_keeps {P' : Prop} {o' : State} {s : State} (h : Keeps P' o' s) (st place pref : Nat) :
    Keeps P' o' (State.showStream s st place pref) := by
  unfold State.showStream
  repeat' (first
    | with_reducible assumption
    | ((with_reducible refine State.fset_keeps ?_ _ _ _ ?_); rotate_left; · exact rfl)
    | ((first | intro v' | extract_lets -underBinder +onlyGivenNames v'); (first | (refine_lift have k' : Keeps P' o' v' := ?_; ?_; (on_goal 1 => try clear_value v'); (on_goal 2 => dsimp -zeta only [v'])) | (have k'' : v'.isSome = v'.isSome := rfl; clear k''; clear_value v') | skip))
    | split)

theorem State.advance_keeps {P' : Prop} {o' : State} {s : State} (h : Keeps P' o' s) (st : Nat) (c : CopyRun) :
    Keeps P' o' (State.advance s st c) := by
  unfold State.advance
  repeat' (first
    | with_reducible assumption
    | with_reducible apply State.setStream_keeps
    | with_reducible apply State.showStream_keeps
    | ((first | intro v' | extract_lets -underBinder +onlyGivenNames v'); (first | (refine_lift have k' : Keeps P' o' v' := ?_; ?_; (on_goal 1 => try clear_value v'); (on_goal 2 => dsimp -zeta only [v'])) | (have k'' : v'.isSome = v'.isSome := rfl; clear k''; clear_value v') | skip))
    | split
    | (clear_value *; split))

theorem State.completeCopy_keeps {P' : Prop} {o' : State} {s : State} (h : Keeps P' o' s) (st n seq : Nat) :
    Keeps P' o' (State.completeCopy s st n seq) := by
  unfold State.completeCopy
  repeat' (first
    | with_reducible assumption
    | with_reducible apply State.advance_keeps
    | with_reducible apply State.dropCopy_keeps
    | ((with_reducible refine State.bump_keeps ?_ _ _ _ ?_); rotate_left; · exact rfl)
    | split)

theorem State.skipPage_keeps {P' : Prop} {o' : State} {s : State} (h : Keeps P' o' s) (st place pref k : Nat) :
    Keeps P' o' (State.skipPage s st place pref k) := by
  unfold State.skipPage
  repeat' (first
    | with_reducible assumption
    | with_reducible apply State.setStream_keeps
    | with_reducible apply State.showStream_keeps
    | ((with_reducible refine State.bump_keeps ?_ _ _ _ ?_); rotate_left; · exact rfl)
    | ((first | intro v' | extract_lets -underBinder +onlyGivenNames v'); (first | (refine_lift have k' : Keeps P' o' v' := ?_; ?_; (on_goal 1 => try clear_value v'); (on_goal 2 => dsimp -zeta only [v'])) | (have k'' : v'.isSome = v'.isSome := rfl; clear k''; clear_value v') | skip))
    | split)

theorem State.sendFetch_keeps {P' : Prop} {o' : State} {s : State} (h : Keeps P' o' s) (im : Image) (st place k p : Nat) (e : StreamE) :
    Keeps P' o' (State.sendFetch s im st place k p e) := by
  unfold State.sendFetch
  repeat' (first
    | with_reducible assumption
    | with_reducible apply State.goOn_keeps
    | ((first | intro v' | extract_lets -underBinder +onlyGivenNames v'); (first | (refine_lift have k' : Keeps P' o' v' := ?_; ?_; (on_goal 1 => try clear_value v'); (on_goal 2 => dsimp -zeta only [v'])) | (have k'' : v'.isSome = v'.isSome := rfl; clear k''; clear_value v') | skip))
    | split)

theorem State.fetchStream_keeps {P' : Prop} {o' : State} {s : State} (h : Keeps P' o' s) (st place pref : Nat) :
    Keeps P' o' (State.fetchStream s st place pref) := by
  unfold State.fetchStream
  repeat' (first
    | with_reducible assumption
    | with_reducible apply State.queueReads_keeps
    | with_reducible apply State.sendFetch_keeps
    | with_reducible apply State.setStream_keeps
    | with_reducible apply State.showStream_keeps
    | with_reducible apply State.skipPage_keeps
    | with_reducible apply State.tierLookup_keeps
    | ((with_reducible refine State.fset_keeps ?_ _ _ _ ?_); rotate_left; · exact rfl)
    | ((with_reducible refine State.bump_keeps ?_ _ _ _ ?_); rotate_left; · exact rfl)
    | ((first | intro v' | extract_lets -underBinder +onlyGivenNames v'); (first | (refine_lift have k' : Keeps P' o' v' := ?_; ?_; (on_goal 1 => try clear_value v'); (on_goal 2 => dsimp -zeta only [v'])) | (have k'' : v'.isSome = v'.isSome := rfl; clear k''; clear_value v') | skip))
    | split
    | (clear_value *; split))

theorem State.streamData_keeps {P' : Prop} {o' : State} {s0 : State} (h : Keeps P' o' s0) (st place pref k : Nat) :
    Keeps P' o' (State.streamData s0 st place pref k) := by
  unfold State.streamData
  repeat' (first
    | with_reducible assumption
    | with_reducible apply State.arrived_keeps
    | with_reducible apply State.platStore_keeps
    | with_reducible apply State.setFlash_keeps
    | with_reducible apply State.setStream_keeps
    | with_reducible apply State.showStream_keeps
    | with_reducible apply State.skipPage_keeps
    | ((first | intro v' | extract_lets -underBinder +onlyGivenNames v'); (first | (refine_lift have k' : Keeps P' o' v' := ?_; ?_; (on_goal 1 => try clear_value v'); (on_goal 2 => dsimp -zeta only [v'])) | (have k'' : v'.isSome = v'.isSome := rfl; clear k''; clear_value v') | skip))
    | split
    | (clear_value *; split))

theorem State.loadPage_keeps {P' : Prop} {o' : State} (j layer : Nat) {s : State} (h : Keeps P' o' s) (p : Nat) :
    Keeps P' o' (State.loadPage j layer s p) := by
  unfold State.loadPage
  repeat' (first
    | with_reducible assumption
    | with_reducible apply State.frameFor_keeps
    | with_reducible apply State.queueReads_keeps
    | with_reducible apply State.setJob_keeps
    | with_reducible apply State.setPage_keeps
    | with_reducible apply State.tierLookup_keeps
    | ((with_reducible refine State.bump_keeps ?_ _ _ _ ?_); rotate_left; · exact rfl)
    | ((with_reducible refine State.setDepot_keeps ?_ _ ?_); rotate_left; · exact rfl)
    | ((first | intro v' | extract_lets -underBinder +onlyGivenNames v'); (first | (refine_lift have k' : Keeps P' o' v' := ?_; ?_; (on_goal 1 => try clear_value v'); (on_goal 2 => dsimp -zeta only [v'])) | (have k'' : v'.isSome = v'.isSome := rfl; clear k''; clear_value v') | skip))
    | split)

theorem State.startLayer_keeps {P' : Prop} {o' : State} {s : State} (h : Keeps P' o' s) (j : Nat) :
    Keeps P' o' (State.startLayer s j) := by
  unfold State.startLayer
  repeat' (first
    | with_reducible assumption
    | with_reducible apply State.loadPage_keeps
    | with_reducible apply State.setJob_keeps
    | ((with_reducible apply Keeps.foldl); intro s' x' h')
    | ((with_reducible apply Keeps.foldl_fst); intro s' x' h')
    | ((with_reducible apply Keeps.foldl_snd); intro s' x' h')
    | ((first | intro v' | extract_lets -underBinder +onlyGivenNames v'); (first | (refine_lift have k' : Keeps P' o' v' := ?_; ?_; (on_goal 1 => try clear_value v'); (on_goal 2 => dsimp -zeta only [v'])) | (have k'' : v'.isSome = v'.isSome := rfl; clear k''; clear_value v') | skip))
    | split
    | (clear_value *; split))

theorem State.layerLoaded_keeps {P' : Prop} {o' : State} {s : State} (h : Keeps P' o' s) (j : Nat) :
    Keeps P' o' (State.layerLoaded s j) := by
  unfold State.layerLoaded
  repeat' (first
    | with_reducible assumption
    | with_reducible apply State.promoted_keeps
    | with_reducible apply State.setJob_keeps
    | ((with_reducible apply Keeps.foldl); intro s' x' h')
    | ((with_reducible apply Keeps.foldl_fst); intro s' x' h')
    | ((with_reducible apply Keeps.foldl_snd); intro s' x' h')
    | ((first | intro v' | extract_lets -underBinder +onlyGivenNames v'); (first | (refine_lift have k' : Keeps P' o' v' := ?_; ?_; (on_goal 1 => try clear_value v'); (on_goal 2 => dsimp -zeta only [v'])) | (have k'' : v'.isSome = v'.isSome := rfl; clear k''; clear_value v') | skip))
    | split
    | (clear_value *; split))

theorem State.releaseLayer_keeps {P' : Prop} {o' : State} {s : State} (h : Keeps P' o' s) (j : Nat) :
    Keeps P' o' (State.releaseLayer s j) := by
  unfold State.releaseLayer
  repeat' (first
    | with_reducible assumption
    | with_reducible apply State.releaseLayers_keeps
    | ((first | intro v' | extract_lets -underBinder +onlyGivenNames v'); (first | (refine_lift have k' : Keeps P' o' v' := ?_; ?_; (on_goal 1 => try clear_value v'); (on_goal 2 => dsimp -zeta only [v'])) | (have k'' : v'.isSome = v'.isSome := rfl; clear k''; clear_value v') | skip))
    | split
    | (clear_value *; split))

theorem execCopyIssue_keeps {P' : Prop} {o' : State} (s : StationId) (n : LaneRowId) {m : State} (h : Keeps P' o' m) {t : State} (e : execCopyIssue s n m = .next t) :
    Keeps P' o' t := by
  unfold execCopyIssue at e
  injection e with e
  subst e
  repeat' (first
    | with_reducible assumption
    | with_reducible apply State.issueCopy_keeps)

theorem execCopyRequestSend_keeps {P' : Prop} {o' : State} (s : StationId) (n : LaneRowId) (seq : Nat) {m : State} (h : Keeps P' o' m) {t : State} (e : execCopyRequestSend s n seq m = .next t) :
    Keeps P' o' t := by
  unfold execCopyRequestSend at e
  injection e with e
  subst e
  repeat' (first
    | with_reducible assumption
    | with_reducible apply State.sendCopy_keeps)

theorem execCopyRequestData_keeps {P' : Prop} {o' : State} (s : StationId) (n : LaneRowId) (seq offset : Nat) {m : State} (h : Keeps P' o' m) {t : State} (e : execCopyRequestData s n seq offset m = .next t) :
    Keeps P' o' t := by
  unfold execCopyRequestData at e
  injection e with e
  subst e
  repeat' (first
    | with_reducible assumption
    | with_reducible apply State.copyData_keeps)

theorem execCopyComplete_keeps {P' : Prop} {o' : State} (s : StationId) (n : LaneRowId) (seq : Nat) {m : State} (h : Keeps P' o' m) {t : State} (e : execCopyComplete s n seq m = .next t) :
    Keeps P' o' t := by
  unfold execCopyComplete at e
  injection e with e
  subst e
  repeat' (first
    | with_reducible assumption
    | with_reducible apply State.completeCopy_keeps)

theorem execGenerationConfirm_keeps {P' : Prop} {o' : State} (s : StationId) (n : LaneRowId) (seq page : Nat) {m : State} (h : Keeps P' o' m) {t : State} (e : execGenerationConfirm s n seq page m = .next t) :
    Keeps P' o' t := by
  unfold execGenerationConfirm at e
  injection e with e
  subst e
  repeat' (first
    | with_reducible assumption
    | with_reducible apply State.confirm_keeps)

theorem execStreamFetch_keeps {P' : Prop} {o' : State} (s : StationId) (place stream : Fin 8) {m : State} (h : Keeps P' o' m) {t : State} (e : execStreamFetch s place stream m = .next t) :
    Keeps P' o' t := by
  unfold execStreamFetch at e
  injection e with e
  subst e
  repeat' (first
    | with_reducible assumption
    | with_reducible apply State.fetchStream_keeps)

theorem execStreamFetchData_keeps {P' : Prop} {o' : State} (s : StationId) (place stream : Fin 8) (k : Nat) {m : State} (h : Keeps P' o' m) {t : State} (e : execStreamFetchData s place stream k m = .next t) :
    Keeps P' o' t := by
  unfold execStreamFetchData at e
  injection e with e
  subst e
  repeat' (first
    | with_reducible assumption
    | with_reducible apply State.streamData_keeps)

theorem execWindowLayerLoadStart_keeps {P' : Prop} {o' : State} (j : JobId) {s : State} (h : Keeps P' o' s) {t : State} (e : execWindowLayerLoadStart j s = .next t) :
    Keeps P' o' t := by
  unfold execWindowLayerLoadStart at e
  injection e with e
  subst e
  repeat' (first
    | with_reducible assumption
    | with_reducible apply State.startLayer_keeps)

theorem execWindowLayerLoaded_keeps {P' : Prop} {o' : State} (j : JobId) {s : State} (h : Keeps P' o' s) {t : State} (e : execWindowLayerLoaded j s = .next t) :
    Keeps P' o' t := by
  unfold execWindowLayerLoaded at e
  injection e with e
  subst e
  repeat' (first
    | with_reducible assumption
    | with_reducible apply State.layerLoaded_keeps)

theorem execWindowLayerRelease_keeps {P' : Prop} {o' : State} (j : JobId) {s : State} (h : Keeps P' o' s) {t : State} (e : execWindowLayerRelease j s = .next t) :
    Keeps P' o' t := by
  unfold execWindowLayerRelease at e
  injection e with e
  subst e
  repeat' (first
    | with_reducible assumption
    | with_reducible apply State.releaseLayer_keeps)

end Sys2Proof.Machine
end

