-- ==== Sys2Proof/Laws/KeepsEcc.lean ====
section
/-! SUPPORT. What each operation of Machine/Ecc.lean keeps (Laws/Keeps.lean). -/

set_option linter.unusedTactic false
set_option linter.unreachableTactic false

namespace Sys2Proof.Machine

theorem State.readWord_keeps {P' : Prop} {o' : State} (n fold : Nat) (addr : Option Nat) (scrub : Bool) (errs : List (Nat × Nat × Byte)) {s : State} (h : Keeps P' o' s) (i : Nat) :
    Keeps P' o' (State.readWord n fold addr scrub errs s i) := by
  have kr : ∀ (a b c d : Nat) (y : State), Keeps P' o' y → Keeps P' o' (if scrub then y.startRowRepair a b c d none else y) := fun a b c d y hy => by
    split
    · exact State.startRowRepair_keeps hy _ _ _ _ _
    · exact hy
  have km : ∀ (p : Prop) [Decidable p] (x : State → Ecc) (y : State), Keeps P' o' y → Keeps P' o' (if p then y.setEcc (x y) else y) := fun p _ x y hy => by
    split
    · exact State.setEcc_keeps hy _
    · exact hy
  unfold State.readWord
  dsimp only
  split
  · exact State.setEcc_keeps h _
  · exact km _ (fun y => { y.ecc with writeBacks := y.ecc.writeBacks ++ [_] }) _ (State.stackCe_keeps (State.setEcc_keeps h _) _ _ _)
  · exact kr _ _ _ _ _ (km _ (fun y => { y.ecc with badWords := y.ecc.badWords ++ [_] }) _ (State.countUe_keeps (State.setEcc_keeps h _) _ _ _))
  · exact State.setEcc_keeps (kr _ _ _ _ _ (km _ (fun y => { y.ecc with badWords := y.ecc.badWords ++ [_] }) _ (State.countUe_keeps (State.setEcc_keeps h _) _ _ _))) _

theorem State.readChunk_keeps {P' : Prop} {o' : State} {s : State} (h : Keeps P' o' s) (n fold : Nat) (addr : Option Nat) (scrub : Bool) (errs : List (Nat × Nat × Byte)) :
    Keeps P' o' (State.readChunk s n fold addr scrub errs) := by
  unfold State.readChunk
  repeat' (first
    | with_reducible assumption
    | with_reducible apply State.readWord_keeps
    | ((with_reducible apply Keeps.foldl); intro s' x' h')
    | ((with_reducible apply Keeps.foldl_fst); intro s' x' h')
    | ((with_reducible apply Keeps.foldl_snd); intro s' x' h'))

theorem execStackRead_keeps {P' : Prop} {o' : State} (addr fold : Nat) (errs : List (Nat × Nat × Byte)) {s : State} (h : Keeps P' o' s) {t : State} (e : execStackRead addr fold errs s = .next t) :
    Keeps P' o' t := by
  unfold execStackRead at e
  injection e with e
  subst e
  repeat' (first
    | with_reducible assumption
    | with_reducible apply State.readChunk_keeps
    | ((first | intro v' | extract_lets -underBinder +onlyGivenNames v'); (first | (refine_lift have k' : Keeps P' o' v' := ?_; ?_; (on_goal 1 => try clear_value v'); (on_goal 2 => dsimp -zeta only [v'])) | (have k'' : v'.isSome = v'.isSome := rfl; clear k''; clear_value v') | skip))
    | split)

theorem execDramAddressClassReread_keeps {P' : Prop} {o' : State} (n : StackId) (word : Nat) (again : Bool) {s : State} (h : Keeps P' o' s) {t : State} (e : execDramAddressClassReread n word again s = .next t) :
    Keeps P' o' t := by
  unfold execDramAddressClassReread at e
  injection e with e
  subst e
  repeat' (first
    | with_reducible assumption
    | with_reducible apply State.countUe_keeps
    | with_reducible apply State.fenceStack_keeps
    | with_reducible apply State.setEcc_keeps
    | ((first | intro v' | extract_lets -underBinder +onlyGivenNames v'); (first | (refine_lift have k' : Keeps P' o' v' := ?_; ?_; (on_goal 1 => try clear_value v'); (on_goal 2 => dsimp -zeta only [v'])) | (have k'' : v'.isSome = v'.isSome := rfl; clear k''; clear_value v') | skip))
    | split)

theorem execEccWriteBack_keeps {P' : Prop} {o' : State} (island : IslandId) (word : Nat) {s : State} (h : Keeps P' o' s) {t : State} (e : execEccWriteBack island word s = .next t) :
    Keeps P' o' t := by
  unfold execEccWriteBack at e
  injection e with e
  subst e
  repeat' (first
    | with_reducible assumption
    | with_reducible apply State.setEcc_keeps
    | ((with_reducible refine State.bump_keeps ?_ _ _ _ ?_); rotate_left; · exact rfl)
    | ((first | intro v' | extract_lets -underBinder +onlyGivenNames v'); (first | (refine_lift have k' : Keeps P' o' v' := ?_; ?_; (on_goal 1 => try clear_value v'); (on_goal 2 => dsimp -zeta only [v'])) | (have k'' : v'.isSome = v'.isSome := rfl; clear k''; clear_value v') | skip))
    | split
    | (clear_value *; split))

theorem execPatrolScrubStep_keeps {P' : Prop} {o' : State} (n : StackId) (addr : Option Nat) (fold : Nat) (errs : List (Nat × Nat × Byte)) {s : State} (h : Keeps P' o' s) {t : State} (e : execPatrolScrubStep n addr fold errs s = .next t) :
    Keeps P' o' t := by
  unfold execPatrolScrubStep at e
  injection e with e
  subst e
  repeat' (first
    | with_reducible assumption
    | with_reducible apply State.readChunk_keeps
    | with_reducible apply State.setEcc_keeps
    | ((with_reducible refine State.fset_keeps ?_ _ _ _ ?_); rotate_left; · exact rfl)
    | ((with_reducible refine State.bump_keeps ?_ _ _ _ ?_); rotate_left; · exact rfl)
    | ((first | intro v' | extract_lets -underBinder +onlyGivenNames v'); (first | (refine_lift have k' : Keeps P' o' v' := ?_; ?_; (on_goal 1 => try clear_value v'); (on_goal 2 => dsimp -zeta only [v'])) | (have k'' : v'.isSome = v'.isSome := rfl; clear k''; clear_value v') | skip))
    | split)

theorem execDramRowRepairDone_keeps {P' : Prop} {o' : State} (n : StackId) {s : State} (h : Keeps P' o' s) {t : State} (e : execDramRowRepairDone n s = .next t) :
    Keeps P' o' t := by
  unfold execDramRowRepairDone at e
  injection e with e
  subst e
  repeat' (first
    | with_reducible assumption
    | with_reducible apply State.cfsWrite_keeps
    | with_reducible apply State.finish_keeps
    | with_reducible apply State.setEcc_keeps
    | ((with_reducible refine State.bump_keeps ?_ _ _ _ ?_); rotate_left; · exact rfl)
    | ((first | intro v' | extract_lets -underBinder +onlyGivenNames v'); (first | (refine_lift have k' : Keeps P' o' v' := ?_; ?_; (on_goal 1 => try clear_value v'); (on_goal 2 => dsimp -zeta only [v'])) | (have k'' : v'.isSome = v'.isSome := rfl; clear k''; clear_value v') | skip))
    | split
    | (clear_value *; split))

theorem execMirrorTakeover_keeps {P' : Prop} {o' : State} (n : StackId) {s : State} (h : Keeps P' o' s) {t : State} (e : execMirrorTakeover n s = .next t) :
    Keeps P' o' t := by
  unfold execMirrorTakeover at e
  injection e with e
  subst e
  repeat' (first
    | with_reducible assumption
    | with_reducible apply State.sharesBack_keeps
    | ((with_reducible refine State.fset_keeps ?_ _ _ _ ?_); rotate_left; · exact rfl)
    | ((with_reducible refine State.setDepot_keeps ?_ _ ?_); rotate_left; · exact rfl)
    | split)

theorem execReserveRebuildDone_keeps {P' : Prop} {o' : State} (n : StackId) {s : State} (h : Keeps P' o' s) {t : State} (e : execReserveRebuildDone n s = .next t) :
    Keeps P' o' t := by
  unfold execReserveRebuildDone at e
  injection e with e
  subst e
  repeat' (first
    | with_reducible assumption
    | with_reducible apply State.sharesBack_keeps
    | ((with_reducible refine State.setDepot_keeps ?_ _ ?_); rotate_left; · exact rfl)
    | split)

theorem State.keepBad_keeps {P' : Prop} {o' : State} {s : State} (h : Keeps P' o' s) (st unit word : Nat) :
    Keeps P' o' (State.keepBad s st unit word) := by
  unfold State.keepBad
  repeat' (first
    | with_reducible assumption
    | ((with_reducible refine State.setStn_keeps ?_ _ _ ?_); rotate_left; · exact id)
    | ((with_reducible refine State.setLane_keeps ?_ _ _ _ ?_); rotate_left; · exact id)
    | ((first | intro v' | extract_lets -underBinder +onlyGivenNames v'); (first | (refine_lift have k' : Keeps P' o' v' := ?_; ?_; (on_goal 1 => try clear_value v'); (on_goal 2 => dsimp -zeta only [v'])) | (have k'' : v'.isSome = v'.isSome := rfl; clear k''; clear_value v') | skip))
    | split)

theorem State.junctionUe_keeps {P' : Prop} {o' : State} {s : State} (h : Keeps P' o' s) (i : Nat) :
    Keeps P' o' (State.junctionUe s i) := by
  unfold State.junctionUe
  repeat' (first
    | with_reducible assumption
    | with_reducible apply State.fenceStation_keeps
    | with_reducible apply State.setEcc_keeps
    | ((first | intro v' | extract_lets -underBinder +onlyGivenNames v'); (first | (refine_lift have k' : Keeps P' o' v' := ?_; ?_; (on_goal 1 => try clear_value v'); (on_goal 2 => dsimp -zeta only [v'])) | (have k'' : v'.isSome = v'.isSome := rfl; clear k''; clear_value v') | skip))
    | split)

theorem State.fenceBank_keeps {P' : Prop} {o' : State} {s : State} (h : Keeps P' o' s) (d bank : Nat) :
    Keeps P' o' (State.fenceBank s d bank) := by
  unfold State.fenceBank
  repeat' (first
    | with_reducible assumption
    | with_reducible apply State.setEcc_keeps
    | ((first | intro v' | extract_lets -underBinder +onlyGivenNames v'); (first | (refine_lift have k' : Keeps P' o' v' := ?_; ?_; (on_goal 1 => try clear_value v'); (on_goal 2 => dsimp -zeta only [v'])) | (have k'' : v'.isSome = v'.isSome := rfl; clear k''; clear_value v') | skip))
    | split)

theorem State.contextUe_keeps {P' : Prop} {o' : State} {s : State} (h : Keeps P' o' s) (st : Nat) :
    Keeps P' o' (State.contextUe s st) := by
  unfold State.contextUe
  repeat' (first
    | with_reducible assumption
    | with_reducible apply State.finish_keeps
    | with_reducible apply State.drawNat_keeps
    | ((first | intro v' | extract_lets -underBinder +onlyGivenNames v'); (first | (refine_lift have k' : Keeps P' o' v' := ?_; ?_; (on_goal 1 => try clear_value v'); (on_goal 2 => dsimp -zeta only [v'])) | (refine_lift have k' : Keeps P' o' v'.2 := ?_; ?_; (on_goal 1 => try clear_value v'); (on_goal 2 => dsimp -zeta only [v'])) | (have k'' : v'.isSome = v'.isSome := rfl; clear k''; clear_value v') | skip))
    | split
    | (clear_value *; split))

theorem State.cacheUe_keeps {P' : Prop} {o' : State} {s : State} (h : Keeps P' o' s) (d : Nat) :
    Keeps P' o' (State.cacheUe s d) := by
  unfold State.cacheUe
  repeat' (first
    | with_reducible assumption
    | ((with_reducible refine State.setDepot_keeps ?_ _ ?_); rotate_left; · exact rfl)
    | with_reducible apply State.drawNat_keeps
    | ((first | intro v' | extract_lets -underBinder +onlyGivenNames v'); (first | (refine_lift have k' : Keeps P' o' v' := ?_; ?_; (on_goal 1 => try clear_value v'); (on_goal 2 => dsimp -zeta only [v'])) | (refine_lift have k' : Keeps P' o' v'.2 := ?_; ?_; (on_goal 1 => try clear_value v'); (on_goal 2 => dsimp -zeta only [v'])) | (have k'' : v'.isSome = v'.isSome := rfl; clear k''; clear_value v') | skip))
    | split
    | (clear_value *; split))

theorem State.sramUe_keeps {P' : Prop} {o' : State} {s : State} (h : Keeps P' o' s) (i mem word : Nat) (addr : Bool) :
    Keeps P' o' (State.sramUe s i mem word addr) := by
  unfold State.sramUe
  repeat' (first
    | with_reducible assumption
    | with_reducible apply State.cacheUe_keeps
    | with_reducible apply State.contextUe_keeps
    | with_reducible apply State.countUe_keeps
    | with_reducible apply State.fenceBank_keeps
    | with_reducible apply State.junctionUe_keeps
    | with_reducible apply State.keepBad_keeps
    | with_reducible apply State.stationUe_keeps
    | ((with_reducible refine State.setHost_keeps ?_ _ ?_); rotate_left; · exact rfl)
    | ((first | intro v' | extract_lets -underBinder +onlyGivenNames v'); (first | (refine_lift have k' : Keeps P' o' v' := ?_; ?_; (on_goal 1 => try clear_value v'); (on_goal 2 => dsimp -zeta only [v'])) | (have k'' : v'.isSome = v'.isSome := rfl; clear k''; clear_value v') | skip))
    | split)

theorem State.sramCe_keeps {P' : Prop} {o' : State} {s : State} (h : Keeps P' o' s) (i mem word bit_ : Nat) :
    Keeps P' o' (State.sramCe s i mem word bit_) := by
  unfold State.sramCe
  repeat' (first
    | with_reducible assumption
    | with_reducible apply State.setEcc_keeps
    | with_reducible apply State.stationCe_keeps
    | ((with_reducible refine State.bump_keeps ?_ _ _ _ ?_); rotate_left; · exact rfl)
    | ((first | intro v' | extract_lets -underBinder +onlyGivenNames v'); (first | (refine_lift have k' : Keeps P' o' v' := ?_; ?_; (on_goal 1 => try clear_value v'); (on_goal 2 => dsimp -zeta only [v'])) | (have k'' : v'.isSome = v'.isSome := rfl; clear k''; clear_value v') | skip))
    | split)

theorem State.scrubWord_keeps {P' : Prop} {o' : State} (i mem line : Nat) {s : State} (h : Keeps P' o' s) (r : WordIs × Nat) :
    Keeps P' o' (State.scrubWord i mem line s r) := by
  unfold State.scrubWord
  repeat' (first
    | with_reducible assumption
    | with_reducible apply State.setEcc_keeps
    | with_reducible apply State.sramCe_keeps
    | with_reducible apply State.sramUe_keeps
    | ((first | intro v' | extract_lets -underBinder +onlyGivenNames v'); (first | (refine_lift have k' : Keeps P' o' v' := ?_; ?_; (on_goal 1 => try clear_value v'); (on_goal 2 => dsimp -zeta only [v'])) | (have k'' : v'.isSome = v'.isSome := rfl; clear k''; clear_value v') | skip))
    | split
    | (clear_value *; split))

theorem execSramScrubStep_keeps {P' : Prop} {o' : State} (i : IslandId) (mem line : Nat) (errs : List (Nat × Nat)) {s : State} (h : Keeps P' o' s) {t : State} (e : execSramScrubStep i mem line errs s = .next t) :
    Keeps P' o' t := by
  unfold execSramScrubStep at e
  injection e with e
  subst e
  repeat' (first
    | with_reducible assumption
    | with_reducible apply State.scrubWord_keeps
    | ((with_reducible apply Keeps.foldl); intro s' x' h')
    | ((with_reducible apply Keeps.foldl_fst); intro s' x' h')
    | ((with_reducible apply Keeps.foldl_snd); intro s' x' h')
    | split)

theorem State.heldCycles_keeps {P' : Prop} {o' : State} {s : State} (h : Keeps P' o' s) (st mem : Nat) :
    Keeps P' o' (State.heldCycles s st mem) := by
  unfold State.heldCycles
  repeat' (first
    | with_reducible assumption
    | with_reducible apply State.lrAdd_keeps
    | ((with_reducible apply Keeps.foldl); intro s' x' h')
    | ((with_reducible apply Keeps.foldl_fst); intro s' x' h')
    | ((with_reducible apply Keeps.foldl_snd); intro s' x' h')
    | with_reducible apply State.drawNat_keeps
    | ((first | intro v' | extract_lets -underBinder +onlyGivenNames v'); (first | (refine_lift have k' : Keeps P' o' v' := ?_; ?_; (on_goal 1 => try clear_value v'); (on_goal 2 => dsimp -zeta only [v'])) | (refine_lift have k' : Keeps P' o' v'.2 := ?_; ?_; (on_goal 1 => try clear_value v'); (on_goal 2 => dsimp -zeta only [v'])) | (have k'' : v'.isSome = v'.isSome := rfl; clear k''; clear_value v') | skip))
    | split)

theorem execSramRepair_keeps {P' : Prop} {o' : State} (i : IslandId) (array : Nat) (column : Bool) (target : Nat) {s : State} (h : Keeps P' o' s) {t : State} (e : execSramRepair i array column target s = .next t) :
    Keeps P' o' t := by
  unfold execSramRepair at e
  injection e with e
  subst e
  repeat' (first
    | with_reducible assumption
    | with_reducible apply State.cfsWrite_keeps
    | with_reducible apply State.heldCycles_keeps
    | with_reducible apply State.setEcc_keeps
    | ((with_reducible show ∀ y' : State, Keeps P' o' y' → _); intro y' h')
    | ((with_reducible show ∀ (_ : _) (y' : State), Keeps P' o' y' → _); intro x' y' h')
    | ((with_reducible show ∀ (_ : _) (_ : _) (y' : State), Keeps P' o' y' → _); intro x' z' y' h')
    | ((first | intro v' | extract_lets -underBinder +onlyGivenNames v'); (first | (refine_lift have k' : Keeps P' o' v' := ?_; ?_; (on_goal 1 => try clear_value v'); (on_goal 2 => dsimp -zeta only [v'])) | (refine_lift have kf' : ∀ y', Keeps P' o' y' → Keeps P' o' (v' y') := ?_; ?_; (on_goal 1 => try clear_value v'); (on_goal 2 => intro y' h'; dsimp -zeta only [v'])) | (have k'' : v'.isSome = v'.isSome := rfl; clear k''; clear_value v') | skip))
    | with_reducible apply kf'
    | split
    | (clear_value *; split))

theorem State.clearStackLog_keeps {P' : Prop} {o' : State} {s : State} (h : Keeps P' o' s) (n : Nat) :
    Keeps P' o' (State.clearStackLog s n) := by
  unfold State.clearStackLog
  repeat' (first
    | with_reducible assumption
    | ((with_reducible apply Keeps.foldl); intro s' x' h')
    | ((with_reducible apply Keeps.foldl_fst); intro s' x' h')
    | ((with_reducible apply Keeps.foldl_snd); intro s' x' h')
    | ((with_reducible refine State.rset_keeps ?_ _ _ _ ?_ (fun z => ?_)); rotate_left; · exact rfl)
    | exact Reg.fits_zero _)

theorem State.clearStationLog_keeps {P' : Prop} {o' : State} {s : State} (h : Keeps P' o' s) (st : Nat) :
    Keeps P' o' (State.clearStationLog s st) := by
  unfold State.clearStationLog
  repeat' (first
    | with_reducible assumption
    | ((with_reducible apply Keeps.foldl); intro s' x' h')
    | ((with_reducible apply Keeps.foldl_fst); intro s' x' h')
    | ((with_reducible apply Keeps.foldl_snd); intro s' x' h')
    | ((with_reducible refine State.rset_keeps ?_ _ _ _ ?_ (fun z => ?_)); rotate_left; · exact rfl)
    | exact Reg.fits_zero _)

theorem execStackCeLogClear_keeps {P' : Prop} {o' : State} (n : StackId) {s : State} (h : Keeps P' o' s) {t : State} (e : execStackCeLogClear n s = .next t) :
    Keeps P' o' t := by
  unfold execStackCeLogClear at e
  injection e with e
  subst e
  repeat' (first
    | with_reducible assumption
    | with_reducible apply State.clearStackLog_keeps
    | with_reducible apply State.openWrite_keeps
    | with_reducible apply State.woWrite_keeps
    | ((with_reducible show ∀ y' : State, Keeps P' o' y' → _); intro y' h')
    | ((with_reducible show ∀ (_ : _) (y' : State), Keeps P' o' y' → _); intro x' y' h')
    | ((with_reducible show ∀ (_ : _) (_ : _) (y' : State), Keeps P' o' y' → _); intro x' z' y' h')
    | split)

theorem execStationCeLogClear_keeps {P' : Prop} {o' : State} (st : StationId) {s : State} (h : Keeps P' o' s) {t : State} (e : execStationCeLogClear st s = .next t) :
    Keeps P' o' t := by
  unfold execStationCeLogClear at e
  injection e with e
  subst e
  repeat' (first
    | with_reducible assumption
    | with_reducible apply State.clearStationLog_keeps
    | with_reducible apply State.openWrite_keeps
    | with_reducible apply State.woWrite_keeps
    | ((with_reducible show ∀ y' : State, Keeps P' o' y' → _); intro y' h')
    | ((with_reducible show ∀ (_ : _) (y' : State), Keeps P' o' y' → _); intro x' y' h')
    | ((with_reducible show ∀ (_ : _) (_ : _) (y' : State), Keeps P' o' y' → _); intro x' z' y' h')
    | split)

theorem State.actRepair_keeps {P' : Prop} {o' : State} (p : Nat) (e : List Byte) {s : State} (h : Keeps P' o' s) :
    Keeps P' o' (State.actRepair p e s) := by
  unfold State.actRepair
  repeat' (first
    | with_reducible assumption
    | with_reducible apply State.fail_keeps
    | with_reducible apply State.startRowRepair_keeps
    | ((first | intro v' | extract_lets -underBinder +onlyGivenNames v'); (first | (refine_lift have k' : Keeps P' o' v' := ?_; ?_; (on_goal 1 => try clear_value v'); (on_goal 2 => dsimp -zeta only [v'])) | (have k'' : v'.isSome = v'.isSome := rfl; clear k''; clear_value v') | skip))
    | split)

theorem State.actRetire_keeps {P' : Prop} {o' : State} (p : Nat) (e : List Byte) {s : State} (h : Keeps P' o' s) :
    Keeps P' o' (State.actRetire p e s) := by
  unfold State.actRetire
  repeat' (first
    | with_reducible assumption
    | with_reducible apply State.fail_keeps
    | with_reducible apply State.retireLane_keeps
    | ((first | intro v' | extract_lets -underBinder +onlyGivenNames v'); (first | (refine_lift have k' : Keeps P' o' v' := ?_; ?_; (on_goal 1 => try clear_value v'); (on_goal 2 => dsimp -zeta only [v'])) | (have k'' : v'.isSome = v'.isSome := rfl; clear k''; clear_value v') | skip))
    | split)

theorem State.restoreBase_keeps {P' : Prop} {o' : State} {s : State} (h : Keeps P' o' s) (st : Nat) :
    Keeps P' o' (State.restoreBase s st) := by
  unfold State.restoreBase
  repeat' (first
    | with_reducible assumption
    | with_reducible apply State.expressAgain_keeps
    | with_reducible apply State.platformFree_keeps
    | with_reducible apply State.setSlot_keeps
    | with_reducible apply State.takePlace_keeps
    | ((with_reducible refine State.fset_keeps ?_ _ _ _ ?_); rotate_left; · exact rfl)
    | ((first | intro v' | extract_lets -underBinder +onlyGivenNames v'); (first | (refine_lift have k' : Keeps P' o' v' := ?_; ?_; (on_goal 1 => try clear_value v'); (on_goal 2 => dsimp -zeta only [v'])) | (have k'' : v'.isSome = v'.isSome := rfl; clear k''; clear_value v') | skip))
    | split
    | (clear_value *; split))

theorem State.returnStation_keeps {P' : Prop} {o' : State} {s : State} (h : Keeps P' o' s) (st : Nat) :
    Keeps P' o' (State.returnStation s st) := by
  unfold State.returnStation
  repeat' (first
    | with_reducible assumption
    | with_reducible apply State.readyJobs_keeps
    | with_reducible apply State.reissue_keeps
    | with_reducible apply State.restoreBase_keeps
    | with_reducible apply State.stitchKick_keeps
    | ((with_reducible refine State.fset_keeps ?_ _ _ _ ?_); rotate_left; · exact rfl)
    | ((first | intro v' | extract_lets -underBinder +onlyGivenNames v'); (first | (refine_lift have k' : Keeps P' o' v' := ?_; ?_; (on_goal 1 => try clear_value v'); (on_goal 2 => dsimp -zeta only [v'])) | (have k'' : v'.isSome = v'.isSome := rfl; clear k''; clear_value v') | skip))
    | split)

theorem State.actReturn_keeps {P' : Prop} {o' : State} (p : Nat) (e : List Byte) {s : State} (h : Keeps P' o' s) :
    Keeps P' o' (State.actReturn p e s) := by
  unfold State.actReturn
  repeat' (first
    | with_reducible assumption
    | with_reducible apply State.fail_keeps
    | with_reducible apply State.finish_keeps
    | with_reducible apply State.returnStation_keeps
    | with_reducible apply State.drawBool_keeps
    | ((first | intro v' | extract_lets -underBinder +onlyGivenNames v'); (first | (refine_lift have k' : Keeps P' o' v' := ?_; ?_; (on_goal 1 => try clear_value v'); (on_goal 2 => dsimp -zeta only [v'])) | (refine_lift have k' : Keeps P' o' v'.2 := ?_; ?_; (on_goal 1 => try clear_value v'); (on_goal 2 => dsimp -zeta only [v'])) | (have k'' : v'.isSome = v'.isSome := rfl; clear k''; clear_value v') | skip))
    | split)

theorem State.actInject_keeps {P' : Prop} {o' : State} (p : Nat) (e : List Byte) {s : State} (h : Keeps P' o' s) :
    Keeps P' o' (State.actInject p e s) := by
  unfold State.actInject
  repeat' (first
    | with_reducible assumption
    | with_reducible apply State.fail_keeps
    | with_reducible apply State.finish_keeps
    | with_reducible apply State.setEcc_keeps
    | ((first | intro v' | extract_lets -underBinder +onlyGivenNames v'); (first | (refine_lift have k' : Keeps P' o' v' := ?_; ?_; (on_goal 1 => try clear_value v'); (on_goal 2 => dsimp -zeta only [v'])) | (have k'' : v'.isSome = v'.isSome := rfl; clear k''; clear_value v') | skip))
    | split)

theorem execSpareActDramRowRepair_keeps {P' : Prop} {o' : State} (q : QueueId) {s : State} (h : Keeps P' o' s) {t : State} (e : execSpareActDramRowRepair q s = .next t) :
    Keeps P' o' t := by
  unfold execSpareActDramRowRepair at e
  injection e with e
  subst e
  repeat' (first
    | with_reducible assumption
    | with_reducible apply State.actRepair_keeps
    | with_reducible apply State.adminOnly_keeps
    | with_reducible apply State.onEntry_keeps
    | ((with_reducible show ∀ y' : State, Keeps P' o' y' → _); intro y' h')
    | ((with_reducible show ∀ (_ : _) (y' : State), Keeps P' o' y' → _); intro x' y' h')
    | ((with_reducible show ∀ (_ : _) (_ : _) (y' : State), Keeps P' o' y' → _); intro x' z' y' h'))

theorem execSpareActLaneRowRetire_keeps {P' : Prop} {o' : State} (q : QueueId) {s : State} (h : Keeps P' o' s) {t : State} (e : execSpareActLaneRowRetire q s = .next t) :
    Keeps P' o' t := by
  unfold execSpareActLaneRowRetire at e
  injection e with e
  subst e
  repeat' (first
    | with_reducible assumption
    | with_reducible apply State.actRetire_keeps
    | with_reducible apply State.adminOnly_keeps
    | with_reducible apply State.onEntry_keeps
    | ((with_reducible show ∀ y' : State, Keeps P' o' y' → _); intro y' h')
    | ((with_reducible show ∀ (_ : _) (y' : State), Keeps P' o' y' → _); intro x' y' h')
    | ((with_reducible show ∀ (_ : _) (_ : _) (y' : State), Keeps P' o' y' → _); intro x' z' y' h'))

theorem execSpareActStationReturn_keeps {P' : Prop} {o' : State} (q : QueueId) {s : State} (h : Keeps P' o' s) {t : State} (e : execSpareActStationReturn q s = .next t) :
    Keeps P' o' t := by
  unfold execSpareActStationReturn at e
  injection e with e
  subst e
  repeat' (first
    | with_reducible assumption
    | with_reducible apply State.actReturn_keeps
    | with_reducible apply State.adminOnly_keeps
    | with_reducible apply State.onEntry_keeps
    | ((with_reducible show ∀ y' : State, Keeps P' o' y' → _); intro y' h')
    | ((with_reducible show ∀ (_ : _) (y' : State), Keeps P' o' y' → _); intro x' y' h')
    | ((with_reducible show ∀ (_ : _) (_ : _) (y' : State), Keeps P' o' y' → _); intro x' z' y' h'))

theorem execSpareActErrorInjection_keeps {P' : Prop} {o' : State} (q : QueueId) {s : State} (h : Keeps P' o' s) {t : State} (e : execSpareActErrorInjection q s = .next t) :
    Keeps P' o' t := by
  unfold execSpareActErrorInjection at e
  injection e with e
  subst e
  repeat' (first
    | with_reducible assumption
    | with_reducible apply State.actInject_keeps
    | with_reducible apply State.adminOnly_keeps
    | with_reducible apply State.onEntry_keeps
    | ((with_reducible show ∀ y' : State, Keeps P' o' y' → _); intro y' h')
    | ((with_reducible show ∀ (_ : _) (y' : State), Keeps P' o' y' → _); intro x' y' h')
    | ((with_reducible show ∀ (_ : _) (_ : _) (y' : State), Keeps P' o' y' → _); intro x' z' y' h'))

end Sys2Proof.Machine
end

