-- ==== Sys2Proof/Laws/KeepsSearchCore.lean ====
section
/-! SUPPORT. What each operation of Machine/SearchCore.lean keeps (Laws/Keeps.lean). -/

set_option linter.unusedTactic false
set_option linter.unreachableTactic false

namespace Sys2Proof.Machine

theorem State.setIdState_keeps {P' : Prop} {o' : State} {s : State} (h : Keeps P' o' s) (r : Root) (i v : Nat) :
    Keeps P' o' (State.setIdState s r i v) := by
  unfold State.setIdState
  repeat' (first
    | with_reducible assumption
    | with_reducible apply State.storeNat_keeps)

theorem State.writeList_keeps {P' : Prop} {o' : State} {s : State} (h : Keeps P' o' s) (r : Root) (level i : Nat) (ids : List Nat) :
    Keeps P' o' (State.writeList s r level i ids) := by
  unfold State.writeList
  repeat' (first
    | with_reducible assumption
    | with_reducible apply State.store_keeps)

theorem State.putColumn_keeps {P' : Prop} {o' : State} {s : State} (h : Keeps P' o' s) (r : Root) (p : Nat) (v : List Byte) :
    Keeps P' o' (State.putColumn s r p v) := by
  unfold State.putColumn
  repeat' (first
    | with_reducible assumption
    | with_reducible apply State.store_keeps
    | ((with_reducible apply Keeps.foldl); intro s' x' h')
    | ((with_reducible apply Keeps.foldl_fst); intro s' x' h')
    | ((with_reducible apply Keeps.foldl_snd); intro s' x' h')
    | ((first | intro v' | extract_lets -underBinder +onlyGivenNames v'); (first | (refine_lift have k' : Keeps P' o' v' := ?_; ?_; (on_goal 1 => try clear_value v'); (on_goal 2 => dsimp -zeta only [v'])) | (have k'' : v'.isSome = v'.isSome := rfl; clear k''; clear_value v') | skip))
    | split)

end Sys2Proof.Machine
end

