-- ==== Sys2Proof/Laws/KeepsSearch.lean ====
section
/-! SUPPORT. What each operation of Machine/Search.lean keeps (Laws/Keeps.lean). -/

set_option linter.unusedTactic false
set_option linter.unreachableTactic false

namespace Sys2Proof.Machine

theorem State.searchTaken_keeps {P' : Prop} {o' : State} (p : Nat) (e : List Byte) {s : State} (h : Keeps P' o' s) :
    Keeps P' o' (State.searchTaken p e s) := by
  unfold State.searchTaken
  repeat' (first
    | with_reducible assumption
    | with_reducible apply State.fail_keeps
    | with_reducible apply State.setSearch_keeps
    | ((first | intro v' | extract_lets -underBinder +onlyGivenNames v'); (first | (refine_lift have k' : Keeps P' o' v' := ?_; ?_; (on_goal 1 => try clear_value v'); (on_goal 2 => dsimp -zeta only [v'])) | (have k'' : v'.isSome = v'.isSome := rfl; clear k''; clear_value v') | skip))
    | split)

theorem State.askBytes_keeps {P' : Prop} {o' : State} {s : State} (h : Keeps P' o' s) (a n : Nat) :
    Keeps P' o' (State.askBytes s a n) := by
  unfold State.askBytes
  repeat' (first
    | with_reducible assumption
    | with_reducible apply State.queueReads_keeps
    | with_reducible apply State.tierLookup_keeps
    | ((first | intro v' | extract_lets -underBinder +onlyGivenNames v'); (first | (refine_lift have k' : Keeps P' o' v' := ?_; ?_; (on_goal 1 => try clear_value v'); (on_goal 2 => dsimp -zeta only [v'])) | (have k'' : v'.isSome = v'.isSome := rfl; clear k''; clear_value v') | skip))
    | split)

theorem State.takeBytes_keeps {P' : Prop} {o' : State} {s : State} (h : Keeps P' o' s) (a n : Nat) :
    Keeps P' o' (State.takeBytes s a n).1 := by
  unfold State.takeBytes
  repeat' (first
    | with_reducible assumption
    | with_reducible apply State.setFlash_keeps
    | ((first | intro v' | extract_lets -underBinder +onlyGivenNames v'); (first | (refine_lift have k' : Keeps P' o' v' := ?_; ?_; (on_goal 1 => try clear_value v'); (on_goal 2 => dsimp -zeta only [v'])) | (have k'' : v'.isSome = v'.isSome := rfl; clear k''; clear_value v') | skip))
    | split)

theorem State.readAgain_keeps {P' : Prop} {o' : State} {s : State} (h : Keeps P' o' s) (st c : Nat) (x : WalkReq) (a n : Nat) :
    Keeps P' o' (State.readAgain s st c x a n).1 := by
  unfold State.readAgain
  repeat' (first
    | with_reducible assumption
    | with_reducible apply State.askBytes_keeps
    | with_reducible apply State.holdWrites_keeps
    | with_reducible apply State.takeBytes_keeps
    | ((with_reducible refine State.bump_keeps ?_ _ _ _ ?_); rotate_left; · exact rfl)
    | (refine Keeps.of_fst_eq ?_ (by with_reducible assumption))
    | ((first | intro v' | extract_lets -underBinder +onlyGivenNames v'); (first | (refine_lift have k' : Keeps P' o' v' := ?_; ?_; (on_goal 1 => try clear_value v'); (on_goal 2 => dsimp -zeta only [v'])) | (refine_lift have k' : Keeps P' o' v'.1 := ?_; ?_; (on_goal 1 => try clear_value v'); (on_goal 2 => dsimp -zeta only [v'])) | (have k'' : v'.isSome = v'.isSome := rfl; clear k''; clear_value v') | skip))
    | split)

theorem State.srch_keeps {P' : Prop} {o' : State} {s : State} (h : Keeps P' o' s) (i n : Nat) :
    Keeps P' o' (State.srch s i n) := by
  unfold State.srch
  repeat' (first
    | with_reducible assumption
    | ((with_reducible refine State.bump_keeps ?_ _ _ _ ?_); rotate_left; · exact rfl))

theorem State.allowedId_keeps {P' : Prop} {o' : State} {s : State} (h : Keeps P' o' s) (st : Nat) (e : List Byte) (n : Nat) :
    Keeps P' o' (State.allowedId s st e n).2 := by
  unfold State.allowedId
  repeat' (first
    | with_reducible assumption
    | with_reducible apply State.cacheLine_keeps
    | with_reducible apply State.srch_keeps
    | with_reducible apply State.usePage_keeps
    | (refine Keeps.of_snd_eq ?_ (by with_reducible assumption))
    | ((first | intro v' | extract_lets -underBinder +onlyGivenNames v'); (first | (refine_lift have k' : Keeps P' o' v' := ?_; ?_; (on_goal 1 => try clear_value v'); (on_goal 2 => dsimp -zeta only [v'])) | (refine_lift have k' : Keeps P' o' v'.2 := ?_; ?_; (on_goal 1 => try clear_value v'); (on_goal 2 => dsimp -zeta only [v'])) | (have k'' : v'.isSome = v'.isSome := rfl; clear k''; clear_value v') | skip))
    | split)

theorem State.indexFault_keeps {P' : Prop} {o' : State} {s : State} (h : Keeps P' o' s) (r : Root) (w : Walker) (list_ n : Nat) :
    Keeps P' o' (State.indexFault s r w list_ n).1 := by
  unfold State.indexFault
  repeat' (first
    | with_reducible assumption
    | with_reducible apply State.event_keeps
    | with_reducible apply State.srch_keeps
    | ((first | intro v' | extract_lets -underBinder +onlyGivenNames v'); (first | (refine_lift have k' : Keeps P' o' v' := ?_; ?_; (on_goal 1 => try clear_value v'); (on_goal 2 => dsimp -zeta only [v'])) | (have k'' : v'.isSome = v'.isSome := rfl; clear k''; clear_value v') | skip))
    | split)

theorem letIn_keeps {P' : Prop} {o' : State} (st : Nat) (e : List Byte) (r : Root) {s : State} (h : Keeps P' o' s) (w w1 : Walker) (d n : Nat) :
    Keeps P' o' (letIn st e r s w w1 d n).1 := by
  have k : Keeps P' o' (s.allowedId st e n).2 := State.allowedId_keeps h _ _ _
  unfold letIn
  extract_lets w2
  split
  · exact h
  · split <;> rename_i heq <;> rw [heq] at k <;> exact k

theorem visit_keeps {P' : Prop} {o' : State} (wait : Bool) (st : Nat) (e : List Byte) (r : Root) (list_ : Nat) (x : State × Walker)
    (h : Keeps P' o' x.1) (n : Nat) : Keeps P' o' (visit wait st e r list_ x n).1 := by
  unfold visit
  extract_lets s w w1 s1 code d worst s2
  have k1 : Keeps P' o' s1 := State.usePage_keeps h _
  have k2 : Keeps P' o' code.2 := State.depotOrFree_keeps k1 _ _
  have k3 : Keeps P' o' s2 := State.usePage_keeps k2 _
  repeat' (first
    | with_reducible assumption
    | with_reducible apply State.srch_keeps
    | with_reducible apply State.indexFault_keeps
    | with_reducible apply letIn_keeps
    | split)

theorem expand_keeps {P' : Prop} {o' : State} (wait : Bool) (st : Nat) (e : List Byte) (r : Root) (x : State × Walker) (h : Keeps P' o' x.1) (c : Nat) :
    Keeps P' o' (expand wait st e r x c).1 := by
  unfold expand
  repeat' (first
    | with_reducible assumption
    | with_reducible apply State.bind_keeps
    | with_reducible apply State.srch_keeps
    | with_reducible apply visit_keeps
    | ((with_reducible apply Keeps.foldl); intro s' x' h')
    | ((with_reducible apply Keeps.foldl_fst); intro s' x' h')
    | ((with_reducible apply Keeps.foldl_snd); intro s' x' h')
    | (refine Keeps.of_fst_eq ?_ (by with_reducible assumption))
    | (refine Keeps.of_snd_eq ?_ (by with_reducible assumption))
    | ((first | intro v' | extract_lets -underBinder +onlyGivenNames v'); (first | (refine_lift have k' : Keeps P' o' v' := ?_; ?_; (on_goal 1 => try clear_value v'); (on_goal 2 => dsimp -zeta only [v'])) | (refine_lift have k' : Keeps P' o' v'.2 := ?_; ?_; (on_goal 1 => try clear_value v'); (on_goal 2 => dsimp -zeta only [v'])) | (refine_lift have k' : Keeps P' o' v'.1 := ?_; ?_; (on_goal 1 => try clear_value v'); (on_goal 2 => dsimp -zeta only [v'])) | (have k'' : v'.isSome = v'.isSome := rfl; clear k''; clear_value v') | skip))
    | split)

theorem State.pinnedList_keeps {P' : Prop} {o' : State} {s : State} (h : Keeps P' o' s) (d : Nat) (r : Root) (level i : Nat) :
    Keeps P' o' (State.pinnedList s d r level i).2 := by
  unfold State.pinnedList
  repeat' (first
    | with_reducible assumption
    | with_reducible apply State.cacheLine_keeps
    | ((with_reducible apply Keeps.foldl); intro s' x' h')
    | ((with_reducible apply Keeps.foldl_fst); intro s' x' h')
    | ((with_reducible apply Keeps.foldl_snd); intro s' x' h')
    | ((with_reducible refine State.setDepot_keeps ?_ _ ?_); rotate_left; · exact rfl)
    | (refine Keeps.of_snd_eq ?_ (by with_reducible assumption))
    | ((first | intro v' | extract_lets -underBinder +onlyGivenNames v'); (first | (refine_lift have k' : Keeps P' o' v' := ?_; ?_; (on_goal 1 => try clear_value v'); (on_goal 2 => dsimp -zeta only [v'])) | (refine_lift have k' : Keeps P' o' v'.2 := ?_; ?_; (on_goal 1 => try clear_value v'); (on_goal 2 => dsimp -zeta only [v'])) | (have k'' : v'.isSome = v'.isSome := rfl; clear k''; clear_value v') | skip))
    | split)

theorem askList_keeps {P' : Prop} {o' : State} (st : Nat) (r : Root) (x : State × Walker) (h : Keeps P' o' x.1) (i : Nat) :
    Keeps P' o' (askList st r x i).1 := by
  unfold askList
  repeat' (first
    | with_reducible assumption
    | with_reducible apply State.askBytes_keeps
    | with_reducible apply State.pinnedList_keeps
    | (refine Keeps.of_snd_eq ?_ (by with_reducible assumption))
    | ((first | intro v' | extract_lets -underBinder +onlyGivenNames v'); (first | (refine_lift have k' : Keeps P' o' v' := ?_; ?_; (on_goal 1 => try clear_value v'); (on_goal 2 => dsimp -zeta only [v'])) | (refine_lift have k' : Keeps P' o' v'.2 := ?_; ?_; (on_goal 1 => try clear_value v'); (on_goal 2 => dsimp -zeta only [v'])) | (refine_lift have k' : Keeps P' o' v'.1 := ?_; ?_; (on_goal 1 => try clear_value v'); (on_goal 2 => dsimp -zeta only [v'])) | (have k'' : v'.isSome = v'.isSome := rfl; clear k''; clear_value v') | skip))
    | split)

theorem State.askLists_keeps {P' : Prop} {o' : State} {s : State} (h : Keeps P' o' s) (st : Nat) (r : Root) (w : Walker) (ids : List Nat) :
    Keeps P' o' (State.askLists s st r w ids).1 := by
  unfold State.askLists
  repeat' (first
    | with_reducible assumption
    | with_reducible apply askList_keeps
    | ((with_reducible apply Keeps.foldl); intro s' x' h')
    | ((with_reducible apply Keeps.foldl_fst); intro s' x' h')
    | ((with_reducible apply Keeps.foldl_snd); intro s' x' h')
    | (refine Keeps.of_fst_eq ?_ (by with_reducible assumption)))

theorem State.leaveLevel_keeps {P' : Prop} {o' : State} {s : State} (h : Keeps P' o' s) (r : Root) (w : Walker) :
    Keeps P' o' (State.leaveLevel s r w) := by
  unfold State.leaveLevel
  repeat' (first
    | with_reducible assumption
    | with_reducible apply State.srch_keeps
    | with_reducible apply State.takeBytes_keeps
    | ((with_reducible apply Keeps.foldl); intro s' x' h')
    | ((with_reducible apply Keeps.foldl_fst); intro s' x' h')
    | ((with_reducible apply Keeps.foldl_snd); intro s' x' h')
    | (refine Keeps.of_fst_eq ?_ (by with_reducible assumption))
    | ((first | intro v' | extract_lets -underBinder +onlyGivenNames v'); (first | (refine_lift have k' : Keeps P' o' v' := ?_; ?_; (on_goal 1 => try clear_value v'); (on_goal 2 => dsimp -zeta only [v'])) | (refine_lift have k' : Keeps P' o' v'.1 := ?_; ?_; (on_goal 1 => try clear_value v'); (on_goal 2 => dsimp -zeta only [v'])) | (have k'' : v'.isSome = v'.isSome := rfl; clear k''; clear_value v') | skip))
    | split)

theorem State.beginRerank_keeps {P' : Prop} {o' : State} {s : State} (h : Keeps P' o' s) (r : Root) (w : Walker) :
    Keeps P' o' (State.beginRerank s r w).1 := by
  unfold State.beginRerank
  repeat' (first
    | with_reducible assumption
    | with_reducible apply State.askBytes_keeps
    | ((with_reducible apply Keeps.foldl); intro s' x' h')
    | ((with_reducible apply Keeps.foldl_fst); intro s' x' h')
    | ((with_reducible apply Keeps.foldl_snd); intro s' x' h')
    | ((first | intro v' | extract_lets -underBinder +onlyGivenNames v'); (first | (refine_lift have k' : Keeps P' o' v' := ?_; ?_; (on_goal 1 => try clear_value v'); (on_goal 2 => dsimp -zeta only [v'])) | (have k'' : v'.isSome = v'.isSome := rfl; clear k''; clear_value v') | skip))
    | split)

theorem State.fetchPages_keeps {P' : Prop} {o' : State} {s : State} (h : Keeps P' o' s) (ps : List Nat) :
    Keeps P' o' (State.fetchPages s ps) := by
  unfold State.fetchPages
  repeat' (first
    | with_reducible assumption
    | with_reducible apply State.promote_keeps
    | ((with_reducible apply Keeps.foldl); intro s' x' h')
    | ((with_reducible apply Keeps.foldl_fst); intro s' x' h')
    | ((with_reducible apply Keeps.foldl_snd); intro s' x' h'))

theorem State.walkOn_keeps {P' : Prop} {o' : State} {s : State} (h : Keeps P' o' s) (st c : Nat) (e : List Byte) (r : Root) (x0 : Nat) :
    Keeps P' o' (State.walkOn s st c e r x0) := by
  induction x0 generalizing s st c e r with
  | zero =>
    unfold State.walkOn
    repeat' (first
      | with_reducible assumption
      | with_reducible apply State.askLists_keeps
      | with_reducible apply State.beginRerank_keeps
      | with_reducible apply State.fetchPages_keeps
      | with_reducible apply State.leaveLevel_keeps
      | with_reducible apply State.setWalker_keeps
      | with_reducible apply State.srch_keeps
      | with_reducible apply expand_keeps
      | ((with_reducible apply Keeps.foldl); intro s' x' h')
      | ((with_reducible apply Keeps.foldl_fst); intro s' x' h')
      | ((with_reducible apply Keeps.foldl_snd); intro s' x' h')
      | (refine Keeps.of_fst_eq ?_ (by with_reducible assumption))
      | ((first | intro v' | extract_lets -underBinder +onlyGivenNames v'); (first | (refine_lift have k' : Keeps P' o' v' := ?_; ?_; (on_goal 1 => try clear_value v'); (on_goal 2 => dsimp -zeta only [v'])) | (refine_lift have k' : Keeps P' o' v'.1 := ?_; ?_; (on_goal 1 => try clear_value v'); (on_goal 2 => dsimp -zeta only [v'])) | (have k'' : v'.isSome = v'.isSome := rfl; clear k''; clear_value v') | skip))
      | split)
  | succ n ih =>
    unfold State.walkOn
    repeat' (first
      | with_reducible assumption
      | with_reducible apply ih
      | with_reducible apply State.askLists_keeps
      | with_reducible apply State.beginRerank_keeps
      | with_reducible apply State.fetchPages_keeps
      | with_reducible apply State.leaveLevel_keeps
      | with_reducible apply State.setWalker_keeps
      | with_reducible apply State.srch_keeps
      | with_reducible apply expand_keeps
      | ((with_reducible apply Keeps.foldl); intro s' x' h')
      | ((with_reducible apply Keeps.foldl_fst); intro s' x' h')
      | ((with_reducible apply Keeps.foldl_snd); intro s' x' h')
      | (refine Keeps.of_fst_eq ?_ (by with_reducible assumption))
      | ((first | intro v' | extract_lets -underBinder +onlyGivenNames v'); (first | (refine_lift have k' : Keeps P' o' v' := ?_; ?_; (on_goal 1 => try clear_value v'); (on_goal 2 => dsimp -zeta only [v'])) | (refine_lift have k' : Keeps P' o' v'.1 := ?_; ?_; (on_goal 1 => try clear_value v'); (on_goal 2 => dsimp -zeta only [v'])) | (have k'' : v'.isSome = v'.isSome := rfl; clear k''; clear_value v') | skip))
      | split)

theorem State.sidingScored_keeps {P' : Prop} {o' : State} {s : State} (h : Keeps P' o' s) (st : Nat) (e : List Byte) (r0 : Root) (w : Walker) :
    Keeps P' o' (State.sidingScored s st e r0 w).1 := by
  unfold State.sidingScored
  refine Keeps.foldl_fst ?_ _ h
  intro x y k
  have k4 := State.allowedId_keeps k st e (x.1.sidingId { r0 with sFirst := w.sFirst, sCount := w.sCount, idHigh := w.idHigh } y.2)
  dsimp only
  repeat' (first
    | with_reducible assumption
    | with_reducible apply State.srch_keeps
    | (split <;> rename_i heq <;> rw [heq] at k4)
    | split)

theorem State.searchEnds_keeps {P' : Prop} {o' : State} {s : State} (h : Keeps P' o' s) (st c : Nat) :
    Keeps P' o' (State.searchEnds s st c) := by
  unfold State.searchEnds
  repeat' (first
    | with_reducible assumption
    | with_reducible apply State.fetchPages_keeps
    | with_reducible apply State.finish_keeps
    | with_reducible apply State.sendData_keeps
    | with_reducible apply State.setWalker_keeps
    | with_reducible apply State.sidingScored_keeps
    | with_reducible apply State.srch_keeps
    | (refine Keeps.of_fst_eq ?_ (by with_reducible assumption))
    | ((first | intro v' | extract_lets -underBinder +onlyGivenNames v'); (first | (refine_lift have k' : Keeps P' o' v' := ?_; ?_; (on_goal 1 => try clear_value v'); (on_goal 2 => dsimp -zeta only [v'])) | (refine_lift have k' : Keeps P' o' v'.1 := ?_; ?_; (on_goal 1 => try clear_value v'); (on_goal 2 => dsimp -zeta only [v'])) | (have k'' : v'.isSome = v'.isSome := rfl; clear k''; clear_value v') | skip))
    | split)

theorem State.closeSiding_keeps {P' : Prop} {o' : State} {s : State} (h : Keeps P' o' s) (b : SidingBatch) :
    Keeps P' o' (State.closeSiding s b) := by
  unfold State.closeSiding
  repeat' (first
    | with_reducible assumption
    | with_reducible apply State.finish_keeps
    | with_reducible apply State.requestRun_keeps
    | with_reducible apply State.setSearch_keeps
    | ((with_reducible apply Keeps.foldl); intro s' x' h')
    | ((with_reducible apply Keeps.foldl_fst); intro s' x' h')
    | ((with_reducible apply Keeps.foldl_snd); intro s' x' h')
    | ((first | intro v' | extract_lets -underBinder +onlyGivenNames v'); (first | (refine_lift have k' : Keeps P' o' v' := ?_; ?_; (on_goal 1 => try clear_value v'); (on_goal 2 => dsimp -zeta only [v'])) | (have k'' : v'.isSome = v'.isSome := rfl; clear k''; clear_value v') | skip))
    | split)

theorem State.joinSiding_keeps {P' : Prop} {o' : State} {s : State} (h : Keeps P' o' s) (root j p : Nat) :
    Keeps P' o' (State.joinSiding s root j p) := by
  unfold State.joinSiding
  repeat' (first
    | with_reducible assumption
    | with_reducible apply State.closeSiding_keeps
    | with_reducible apply State.setSearch_keeps
    | ((first | intro v' | extract_lets -underBinder +onlyGivenNames v'); (first | (refine_lift have k' : Keeps P' o' v' := ?_; ?_; (on_goal 1 => try clear_value v'); (on_goal 2 => dsimp -zeta only [v'])) | (have k'' : v'.isSome = v'.isSome := rfl; clear k''; clear_value v') | skip))
    | split
    | (clear_value *; split))

theorem State.sidingDone_keeps {P' : Prop} {o' : State} {s : State} (h : Keeps P' o' s) (places : List Nat) (lists : List (List (Nat × Nat))) :
    Keeps P' o' (State.sidingDone s places lists) := by
  unfold State.sidingDone
  repeat' (first
    | with_reducible assumption
    | with_reducible apply State.searchEnds_keeps
    | with_reducible apply State.setWalker_keeps
    | with_reducible apply State.srch_keeps
    | ((with_reducible apply Keeps.foldl); intro s' x' h')
    | ((with_reducible apply Keeps.foldl_fst); intro s' x' h')
    | ((with_reducible apply Keeps.foldl_snd); intro s' x' h')
    | ((first | intro v' | extract_lets -underBinder +onlyGivenNames v'); (first | (refine_lift have k' : Keeps P' o' v' := ?_; ?_; (on_goal 1 => try clear_value v'); (on_goal 2 => dsimp -zeta only [v'])) | (have k'' : v'.isSome = v'.isSome := rfl; clear k''; clear_value v') | skip))
    | split
    | (clear_value *; split))

theorem State.startQuery_keeps {P' : Prop} {o' : State} {s : State} (h : Keeps P' o' s) (st c : Nat) (query : List Byte) :
    Keeps P' o' (State.startQuery s st c query) := by
  unfold State.startQuery
  repeat' (first
    | with_reducible assumption
    | with_reducible apply State.finish_keeps
    | with_reducible apply State.joinSiding_keeps
    | with_reducible apply State.searchEnds_keeps
    | with_reducible apply State.setSearch_keeps
    | with_reducible apply State.setWalker_keeps
    | with_reducible apply State.srch_keeps
    | with_reducible apply State.walkOn_keeps
    | ((with_reducible refine State.bump_keeps ?_ _ _ _ ?_); rotate_left; · exact rfl)
    | ((first | intro v' | extract_lets -underBinder +onlyGivenNames v'); (first | (refine_lift have k' : Keeps P' o' v' := ?_; ?_; (on_goal 1 => try clear_value v'); (on_goal 2 => dsimp -zeta only [v'])) | (have k'' : v'.isSome = v'.isSome := rfl; clear k''; clear_value v') | skip))
    | split)

theorem State.startWhenReady_keeps {P' : Prop} {o' : State} {s : State} (h : Keeps P' o' s) (st c : Nat) :
    Keeps P' o' (State.startWhenReady s st c) := by
  unfold State.startWhenReady
  repeat' (first
    | with_reducible assumption
    | with_reducible apply State.finish_keeps
    | with_reducible apply State.setWalker_keeps
    | with_reducible apply State.startQuery_keeps
    | with_reducible apply State.usePage_keeps
    | ((with_reducible apply Keeps.foldl); intro s' x' h')
    | ((with_reducible apply Keeps.foldl_fst); intro s' x' h')
    | ((with_reducible apply Keeps.foldl_snd); intro s' x' h')
    | ((first | intro v' | extract_lets -underBinder +onlyGivenNames v'); (first | (refine_lift have k' : Keeps P' o' v' := ?_; ?_; (on_goal 1 => try clear_value v'); (on_goal 2 => dsimp -zeta only [v'])) | (have k'' : v'.isSome = v'.isSome := rfl; clear k''; clear_value v') | skip))
    | split)

theorem State.assignWalker_keeps {P' : Prop} {o' : State} {s : State} (h : Keeps P' o' s) (p : Nat) :
    Keeps P' o' (State.assignWalker s p) := by
  unfold State.assignWalker
  repeat' (first
    | with_reducible assumption
    | with_reducible apply State.finish_keeps
    | with_reducible apply State.setCmd_keeps
    | with_reducible apply State.setSearch_keeps
    | with_reducible apply State.setWalker_keeps
    | with_reducible apply State.startWhenReady_keeps
    | with_reducible apply State.usePage_keeps
    | ((with_reducible refine State.bump_keeps ?_ _ _ _ ?_); rotate_left; · exact rfl)
    | ((first | intro v' | extract_lets -underBinder +onlyGivenNames v'); (first | (refine_lift have k' : Keeps P' o' v' := ?_; ?_; (on_goal 1 => try clear_value v'); (on_goal 2 => dsimp -zeta only [v'])) | (have k'' : v'.isSome = v'.isSome := rfl; clear k''; clear_value v') | skip))
    | split
    | (clear_value *; split))

theorem State.searchData_keeps {P' : Prop} {o' : State} {s : State} (h : Keeps P' o' s) (p : Nat) :
    Keeps P' o' (State.searchData s p) := by
  unfold State.searchData
  repeat' (first
    | with_reducible assumption
    | with_reducible apply State.startWhenReady_keeps
    | split)

theorem State.resumeWalker_keeps {P' : Prop} {o' : State} {s : State} (h : Keeps P' o' s) (st c : Nat) :
    Keeps P' o' (State.resumeWalker s st c) := by
  unfold State.resumeWalker
  repeat' (first
    | with_reducible assumption
    | with_reducible apply State.searchEnds_keeps
    | with_reducible apply State.startWhenReady_keeps
    | with_reducible apply State.walkOn_keeps
    | ((first | intro v' | extract_lets -underBinder +onlyGivenNames v'); (first | (refine_lift have k' : Keeps P' o' v' := ?_; ?_; (on_goal 1 => try clear_value v'); (on_goal 2 => dsimp -zeta only [v'])) | (have k'' : v'.isSome = v'.isSome := rfl; clear k''; clear_value v') | skip))
    | split)

theorem execSearch_keeps {P' : Prop} {o' : State} (q : QueueId) {s : State} (h : Keeps P' o' s) {t : State} (e : execSearch q s = .next t) :
    Keeps P' o' t := by
  unfold execSearch at e
  injection e with e
  subst e
  repeat' (first
    | with_reducible assumption
    | with_reducible apply State.onEntry_keeps
    | with_reducible apply State.searchTaken_keeps
    | ((with_reducible show ∀ y' : State, Keeps P' o' y' → _); intro y' h')
    | ((with_reducible show ∀ (_ : _) (y' : State), Keeps P' o' y' → _); intro x' y' h')
    | ((with_reducible show ∀ (_ : _) (_ : _) (y' : State), Keeps P' o' y' → _); intro x' z' y' h'))

theorem execWalkerContextAssign_keeps {P' : Prop} {o' : State} (place : Nat) {s : State} (h : Keeps P' o' s) {t : State} (e : execWalkerContextAssign place s = .next t) :
    Keeps P' o' t := by
  unfold execWalkerContextAssign at e
  injection e with e
  subst e
  repeat' (first
    | with_reducible assumption
    | with_reducible apply State.assignWalker_keeps
    | with_reducible apply State.searchData_keeps
    | split)

theorem execSidingBatchTimeout_keeps {P' : Prop} {o' : State} (root : Nat) {s : State} (h : Keeps P' o' s) {t : State} (e : execSidingBatchTimeout root s = .next t) :
    Keeps P' o' t := by
  unfold execSidingBatchTimeout at e
  injection e with e
  subst e
  repeat' (first
    | with_reducible assumption
    | with_reducible apply State.closeSiding_keeps
    | split)

theorem State.listArrives_keeps {P' : Prop} {o' : State} {s : State} (h : Keeps P' o' s) (st c i : Nat) :
    Keeps P' o' (State.listArrives s st c i) := by
  unfold State.listArrives
  repeat' (first
    | with_reducible assumption
    | with_reducible apply State.endHold_keeps
    | with_reducible apply State.readAgain_keeps
    | with_reducible apply State.resumeWalker_keeps
    | with_reducible apply State.setWalker_keeps
    | with_reducible apply State.srch_keeps
    | with_reducible apply State.takeBytes_keeps
    | (refine Keeps.of_fst_eq ?_ (by with_reducible assumption))
    | ((first | intro v' | extract_lets -underBinder +onlyGivenNames v'); (first | (refine_lift have k' : Keeps P' o' v' := ?_; ?_; (on_goal 1 => try clear_value v'); (on_goal 2 => dsimp -zeta only [v'])) | (refine_lift have k' : Keeps P' o' v'.1 := ?_; ?_; (on_goal 1 => try clear_value v'); (on_goal 2 => dsimp -zeta only [v'])) | (have k'' : v'.isSome = v'.isSome := rfl; clear k''; clear_value v') | skip))
    | split
    | (clear_value *; split))

theorem execListArrival_keeps {P' : Prop} {o' : State} (st : StationId) (ctx : Fin 16) (id : Nat) {s : State} (h : Keeps P' o' s) {t : State} (e : execListArrival st ctx id s = .next t) :
    Keeps P' o' t := by
  unfold execListArrival at e
  injection e with e
  subst e
  repeat' (first
    | with_reducible assumption
    | with_reducible apply State.listArrives_keeps)

theorem State.vectorArrives_keeps {P' : Prop} {o' : State} {s : State} (h : Keeps P' o' s) (st c i : Nat) :
    Keeps P' o' (State.vectorArrives s st c i) := by
  unfold State.vectorArrives
  repeat' (first
    | with_reducible assumption
    | with_reducible apply State.endHold_keeps
    | with_reducible apply State.readAgain_keeps
    | with_reducible apply State.resumeWalker_keeps
    | with_reducible apply State.searchEnds_keeps
    | with_reducible apply State.setWalker_keeps
    | with_reducible apply State.srch_keeps
    | with_reducible apply State.takeBytes_keeps
    | (refine Keeps.of_fst_eq ?_ (by with_reducible assumption))
    | ((first | intro v' | extract_lets -underBinder +onlyGivenNames v'); (first | (refine_lift have k' : Keeps P' o' v' := ?_; ?_; (on_goal 1 => try clear_value v'); (on_goal 2 => dsimp -zeta only [v'])) | (refine_lift have k' : Keeps P' o' v'.1 := ?_; ?_; (on_goal 1 => try clear_value v'); (on_goal 2 => dsimp -zeta only [v'])) | (have k'' : v'.isSome = v'.isSome := rfl; clear k''; clear_value v') | skip))
    | split
    | (clear_value *; split))

theorem execRerankVectorArrival_keeps {P' : Prop} {o' : State} (st : StationId) (ctx : Fin 16) (id : Nat) {s : State} (h : Keeps P' o' s) {t : State} (e : execRerankVectorArrival st ctx id s = .next t) :
    Keeps P' o' t := by
  unfold execRerankVectorArrival at e
  injection e with e
  subst e
  repeat' (first
    | with_reducible assumption
    | with_reducible apply State.vectorArrives_keeps)

end Sys2Proof.Machine
end

