-- ==== Sys2Proof/Laws/KeepsIndex.lean ====
section
/-! SUPPORT. What each operation of Machine/Index.lean keeps (Laws/Keeps.lean). -/

set_option linter.unusedTactic false
set_option linter.unreachableTactic false

namespace Sys2Proof.Machine

theorem State.leaveMutators_keeps {P' : Prop} {o' : State} {s : State} (h : Keeps P' o' s) (p : Nat) :
    Keeps P' o' (State.leaveMutators s p) := by
  unfold State.leaveMutators
  repeat' (first
    | with_reducible assumption
    | with_reducible apply State.setSearch_keeps)

theorem State.noteLimit_keeps {P' : Prop} {o' : State} {s : State} (h : Keeps P' o' s) (p : Nat) (queued : List Turn) :
    Keeps P' o' (State.noteLimit s p queued) := by
  unfold State.noteLimit
  repeat' (first
    | with_reducible assumption
    | with_reducible apply State.setSearch_keeps
    | ((with_reducible refine State.bump_keeps ?_ _ _ _ ?_); rotate_left; · exact rfl)
    | split)

theorem State.attempt_keeps {α : Type} {P' : Prop} {o' : State} {s : State} (h : Keeps P' o' s) (p : Nat) (f : State → State × α)
    (hf : ∀ y, Keeps P' o' y → Keeps P' o' (f y).1) : Keeps P' o' (State.attempt s p f).1 := by
  unfold State.attempt
  extract_lets t
  split
  · exact hf s h
  · exact State.noteLimit_keeps h _ _

theorem State.steps_keeps {P' : Prop} {o' : State} (p : Nat) (fs : List (State → State)) {s : State} (h : Keeps P' o' s)
    (hf : ∀ f ∈ fs, ∀ y, Keeps P' o' y → Keeps P' o' (f y)) : Keeps P' o' (State.steps p fs s).1 := by
  induction fs generalizing s with
  | nil => exact h
  | cons f fs ih =>
    have k : Keeps P' o' (s.attempt p (fun s => (f s, ()))).1 :=
      State.attempt_keeps h p _ (fun y z => hf f (List.mem_cons_self ..) y z)
    unfold State.steps
    split <;> rename_i s1 _ e <;> rw [e] at k
    · exact ih k (fun g hg => hf g (List.mem_cons_of_mem _ hg))
    · exact k

theorem State.lose_keeps {P' : Prop} {o' : State} (r : Root) (p : Nat) {s : State} (h : Keeps P' o' s) :
    Keeps P' o' (State.lose r p s) := by
  unfold State.lose
  repeat' (first
    | with_reducible assumption
    | with_reducible apply State.storeNat_keeps)

theorem State.finishPending_keeps {P' : Prop} {o' : State} {s : State} (h : Keeps P' o' s) (p : Nat) (r : Root) :
    Keeps P' o' (State.finishPending s p r).1 := by
  unfold State.finishPending
  split
  · exact h
  · refine State.steps_keeps p _ h (fun f hf y z => ?_)
    simp only [List.mem_append, List.mem_map, List.mem_singleton] at hf
    obtain (⟨i, -, rfl⟩ | ⟨q, -, rfl⟩) | rfl := hf
    · exact State.setIdState_keeps z _ _ _
    · exact State.lose_keeps _ _ z
    · exact State.writeLine_keeps z _

theorem State.putVector_keeps {P' : Prop} {o' : State} {s : State} (h : Keeps P' o' s) (r : Root) (id : Nat) (ring : Bool) (v : List Byte) :
    Keeps P' o' (State.putVector s r id ring v).1 := by
  unfold State.putVector
  repeat' (first
    | with_reducible assumption
    | with_reducible apply State.putColumn_keeps
    | with_reducible apply State.setIdState_keeps
    | with_reducible apply State.store_keeps
    | with_reducible apply State.storeNat_keeps
    | ((first | intro v' | extract_lets -underBinder +onlyGivenNames v'); (first | (refine_lift have k' : Keeps P' o' v' := ?_; ?_; (on_goal 1 => try clear_value v'); (on_goal 2 => dsimp -zeta only [v'])) | (have k'' : v'.isSome = v'.isSome := rfl; clear k''; clear_value v') | skip))
    | split)

theorem State.putSome_keeps {P' : Prop} {o' : State} {s : State} (h : Keeps P' o' s) (r : Root) (x0 : List (List Byte)) :
    Keeps P' o' (State.putSome s r x0).1 := by
  induction x0 generalizing s r with
  | nil =>
    unfold State.putSome
    repeat' (first
      | with_reducible assumption
      | with_reducible apply State.putVector_keeps
      | (refine Keeps.of_fst_eq ?_ (by with_reducible assumption))
      | ((first | intro v' | extract_lets -underBinder +onlyGivenNames v'); (first | (refine_lift have k' : Keeps P' o' v' := ?_; ?_; (on_goal 1 => try clear_value v'); (on_goal 2 => dsimp -zeta only [v'])) | (refine_lift have k' : Keeps P' o' v'.1 := ?_; ?_; (on_goal 1 => try clear_value v'); (on_goal 2 => dsimp -zeta only [v'])) | (have k'' : v'.isSome = v'.isSome := rfl; clear k''; clear_value v') | skip))
      | split
      | (clear_value *; split))
  | cons n l ih =>
    unfold State.putSome
    repeat' (first
      | with_reducible assumption
      | with_reducible apply ih
      | with_reducible apply State.putVector_keeps
      | (refine Keeps.of_fst_eq ?_ (by with_reducible assumption))
      | ((first | intro v' | extract_lets -underBinder +onlyGivenNames v'); (first | (refine_lift have k' : Keeps P' o' v' := ?_; ?_; (on_goal 1 => try clear_value v'); (on_goal 2 => dsimp -zeta only [v'])) | (refine_lift have k' : Keeps P' o' v'.1 := ?_; ?_; (on_goal 1 => try clear_value v'); (on_goal 2 => dsimp -zeta only [v'])) | (have k'' : v'.isSome = v'.isSome := rfl; clear k''; clear_value v') | skip))
      | split
      | (clear_value *; split))

theorem State.putRun_keeps {P' : Prop} {o' : State} (r : Root) (vs : List (List Byte)) {s : State} (h : Keeps P' o' s) :
    Keeps P' o' (State.putRun r vs s).1 := by
  unfold State.putRun
  repeat' (first
    | with_reducible assumption
    | with_reducible apply State.putSome_keeps
    | with_reducible apply State.writeLine_keeps
    | (refine Keeps.of_fst_eq ?_ (by with_reducible assumption))
    | ((first | intro v' | extract_lets -underBinder +onlyGivenNames v'); (first | (refine_lift have k' : Keeps P' o' v' := ?_; ?_; (on_goal 1 => try clear_value v'); (on_goal 2 => dsimp -zeta only [v'])) | (refine_lift have k' : Keeps P' o' v'.1 := ?_; ?_; (on_goal 1 => try clear_value v'); (on_goal 2 => dsimp -zeta only [v'])) | (have k'' : v'.isSome = v'.isSome := rfl; clear k''; clear_value v') | skip))
    | split)

theorem State.putLongest_keeps {P' : Prop} {o' : State} {s : State} (h : Keeps P' o' s) (p : Nat) (r : Root) (vs : List (List Byte)) (n : Nat) :
    Keeps P' o' (State.putLongest s p r vs n).1 := by
  induction n generalizing s with
  | zero => exact h
  | succ n ih =>
    have k : Keeps P' o' (s.attempt p (State.putRun r (vs.take (n + 1)))).1 :=
      State.attempt_keeps h p _ (fun y z => State.putRun_keeps r _ z)
    unfold State.putLongest
    split <;> rename_i e <;> rw [e] at k
    · exact k
    · exact ih k

theorem State.runPut_keeps {P' : Prop} {o' : State} {s : State} (h : Keeps P' o' s) (p : Nat) (r : Root) (x0 : Nat) :
    Keeps P' o' (State.runPut s p r x0) := by
  induction x0 generalizing s p r with
  | zero =>
    unfold State.runPut
    repeat' (first
      | with_reducible assumption
      | with_reducible apply State.finish_keeps
      | with_reducible apply State.leaveMutators_keeps
      | with_reducible apply State.putLongest_keeps
      | with_reducible apply State.sendData_keeps
      | with_reducible apply State.setCmd_keeps
      | with_reducible apply State.srch_keeps
      | (refine Keeps.of_fst_eq ?_ (by with_reducible assumption))
      | ((first | intro v' | extract_lets -underBinder +onlyGivenNames v'); (first | (refine_lift have k' : Keeps P' o' v' := ?_; ?_; (on_goal 1 => try clear_value v'); (on_goal 2 => dsimp -zeta only [v'])) | (refine_lift have k' : Keeps P' o' v'.1 := ?_; ?_; (on_goal 1 => try clear_value v'); (on_goal 2 => dsimp -zeta only [v'])) | (have k'' : v'.isSome = v'.isSome := rfl; clear k''; clear_value v') | skip))
      | split
      | (clear_value *; split))
  | succ n ih =>
    unfold State.runPut
    repeat' (first
      | with_reducible assumption
      | with_reducible apply ih
      | with_reducible apply State.finish_keeps
      | with_reducible apply State.leaveMutators_keeps
      | with_reducible apply State.putLongest_keeps
      | with_reducible apply State.sendData_keeps
      | with_reducible apply State.setCmd_keeps
      | with_reducible apply State.srch_keeps
      | (refine Keeps.of_fst_eq ?_ (by with_reducible assumption))
      | ((first | intro v' | extract_lets -underBinder +onlyGivenNames v'); (first | (refine_lift have k' : Keeps P' o' v' := ?_; ?_; (on_goal 1 => try clear_value v'); (on_goal 2 => dsimp -zeta only [v'])) | (refine_lift have k' : Keeps P' o' v'.1 := ?_; ?_; (on_goal 1 => try clear_value v'); (on_goal 2 => dsimp -zeta only [v'])) | (have k'' : v'.isSome = v'.isSome := rfl; clear k''; clear_value v') | skip))
      | split
      | (clear_value *; split))

theorem State.dropEmbed_keeps {P' : Prop} {o' : State} {s : State} (h : Keeps P' o' s) (p : Nat) :
    Keeps P' o' (State.dropEmbed s p) := by
  unfold State.dropEmbed
  repeat' (first
    | with_reducible assumption
    | with_reducible apply State.freeScratch_keeps
    | with_reducible apply State.setScans_keeps
    | ((first | intro v' | extract_lets -underBinder +onlyGivenNames v'); (first | (refine_lift have k' : Keeps P' o' v' := ?_; ?_; (on_goal 1 => try clear_value v'); (on_goal 2 => dsimp -zeta only [v'])) | (have k'' : v'.isSome = v'.isSome := rfl; clear k''; clear_value v') | skip))
    | split
    | (clear_value *; split))

theorem State.runIngest_keeps {P' : Prop} {o' : State} {s : State} (h : Keeps P' o' s) (p : Nat) (r : Root) :
    Keeps P' o' (State.runIngest s p r) := by
  unfold State.runIngest
  repeat' (first
    | with_reducible assumption
    | with_reducible apply State.attempt_keeps
    | with_reducible apply State.dropEmbed_keeps
    | with_reducible apply State.finish_keeps
    | with_reducible apply State.leaveMutators_keeps
    | with_reducible apply State.putVector_keeps
    | with_reducible apply State.sendData_keeps
    | with_reducible apply State.writeLine_keeps
    | ((with_reducible apply Keeps.foldl); intro s' x' h')
    | ((with_reducible apply Keeps.foldl_fst); intro s' x' h')
    | ((with_reducible apply Keeps.foldl_snd); intro s' x' h')
    | ((with_reducible refine State.bump_keeps ?_ _ _ _ ?_); rotate_left; · exact rfl)
    | (refine Keeps.of_fst_eq ?_ (by with_reducible assumption))
    | ((with_reducible show ∀ y' : State, Keeps P' o' y' → _); intro y' h')
    | ((with_reducible show ∀ (_ : _) (y' : State), Keeps P' o' y' → _); intro x' y' h')
    | ((with_reducible show ∀ (_ : _) (_ : _) (y' : State), Keeps P' o' y' → _); intro x' z' y' h')
    | ((first | intro v' | extract_lets -underBinder +onlyGivenNames v'); (first | (refine_lift have k' : Keeps P' o' v' := ?_; ?_; (on_goal 1 => try clear_value v'); (on_goal 2 => dsimp -zeta only [v'])) | (refine_lift have k' : Keeps P' o' v'.1 := ?_; ?_; (on_goal 1 => try clear_value v'); (on_goal 2 => dsimp -zeta only [v'])) | (refine_lift have kf' : ∀ y', Keeps P' o' y' → Keeps P' o' (v' y') := ?_; ?_; (on_goal 1 => try clear_value v'); (on_goal 2 => intro y' h'; dsimp -zeta only [v'])) | (have k'' : v'.isSome = v'.isSome := rfl; clear k''; clear_value v') | skip))
    | with_reducible apply kf'
    | split
    | (clear_value *; split))

theorem State.delOne_keeps {P' : Prop} {o' : State} (r : Root) (id : Nat) {s : State} (h : Keeps P' o' s) :
    Keeps P' o' (State.delOne r id s) := by
  unfold State.delOne
  repeat' (first
    | with_reducible assumption
    | with_reducible apply State.lose_keeps
    | with_reducible apply State.setIdState_keeps
    | ((first | intro v' | extract_lets -underBinder +onlyGivenNames v'); (first | (refine_lift have k' : Keeps P' o' v' := ?_; ?_; (on_goal 1 => try clear_value v'); (on_goal 2 => dsimp -zeta only [v'])) | (have k'' : v'.isSome = v'.isSome := rfl; clear k''; clear_value v') | skip))
    | split
    | (clear_value *; split))

theorem State.runDel_keeps {P' : Prop} {o' : State} {s : State} (h : Keeps P' o' s) (p : Nat) (r : Root) (x0 : Nat) :
    Keeps P' o' (State.runDel s p r x0) := by
  induction x0 generalizing s p r with
  | zero =>
    unfold State.runDel
    repeat' (first
      | with_reducible assumption
      | with_reducible apply State.attempt_keeps
      | with_reducible apply State.delOne_keeps
      | with_reducible apply State.finish_keeps
      | with_reducible apply State.leaveMutators_keeps
      | with_reducible apply State.setCmd_keeps
      | with_reducible apply State.srch_keeps
      | with_reducible apply State.writeLine_keeps
      | (refine Keeps.of_fst_eq ?_ (by with_reducible assumption))
      | ((with_reducible show ∀ y' : State, Keeps P' o' y' → _); intro y' h')
      | ((with_reducible show ∀ (_ : _) (y' : State), Keeps P' o' y' → _); intro x' y' h')
      | ((with_reducible show ∀ (_ : _) (_ : _) (y' : State), Keeps P' o' y' → _); intro x' z' y' h')
      | ((first | intro v' | extract_lets -underBinder +onlyGivenNames v'); (first | (refine_lift have k' : Keeps P' o' v' := ?_; ?_; (on_goal 1 => try clear_value v'); (on_goal 2 => dsimp -zeta only [v'])) | (refine_lift have k' : Keeps P' o' v'.1 := ?_; ?_; (on_goal 1 => try clear_value v'); (on_goal 2 => dsimp -zeta only [v'])) | (have k'' : v'.isSome = v'.isSome := rfl; clear k''; clear_value v') | skip))
      | split
      | (clear_value *; split))
  | succ n ih =>
    unfold State.runDel
    repeat' (first
      | with_reducible assumption
      | with_reducible apply ih
      | with_reducible apply State.attempt_keeps
      | with_reducible apply State.delOne_keeps
      | with_reducible apply State.finish_keeps
      | with_reducible apply State.leaveMutators_keeps
      | with_reducible apply State.setCmd_keeps
      | with_reducible apply State.srch_keeps
      | with_reducible apply State.writeLine_keeps
      | (refine Keeps.of_fst_eq ?_ (by with_reducible assumption))
      | ((with_reducible show ∀ y' : State, Keeps P' o' y' → _); intro y' h')
      | ((with_reducible show ∀ (_ : _) (y' : State), Keeps P' o' y' → _); intro x' y' h')
      | ((with_reducible show ∀ (_ : _) (_ : _) (y' : State), Keeps P' o' y' → _); intro x' z' y' h')
      | ((first | intro v' | extract_lets -underBinder +onlyGivenNames v'); (first | (refine_lift have k' : Keeps P' o' v' := ?_; ?_; (on_goal 1 => try clear_value v'); (on_goal 2 => dsimp -zeta only [v'])) | (refine_lift have k' : Keeps P' o' v'.1 := ?_; ?_; (on_goal 1 => try clear_value v'); (on_goal 2 => dsimp -zeta only [v'])) | (have k'' : v'.isSome = v'.isSome := rfl; clear k''; clear_value v') | skip))
      | split
      | (clear_value *; split))

theorem State.linkWalk_keeps {P' : Prop} {o' : State} {s : State} (h : Keeps P' o' s) (r : Root) (w : Walker) (x0 : Nat) :
    Keeps P' o' (State.linkWalk s r w x0).1 := by
  induction x0 generalizing s r w with
  | zero =>
    unfold State.linkWalk
    repeat' (first
      | with_reducible assumption
      | with_reducible apply expand_keeps
      | ((with_reducible apply Keeps.foldl); intro s' x' h')
      | ((with_reducible apply Keeps.foldl_fst); intro s' x' h')
      | ((with_reducible apply Keeps.foldl_snd); intro s' x' h')
      | (refine Keeps.of_fst_eq ?_ (by with_reducible assumption))
      | ((first | intro v' | extract_lets -underBinder +onlyGivenNames v'); (first | (refine_lift have k' : Keeps P' o' v' := ?_; ?_; (on_goal 1 => try clear_value v'); (on_goal 2 => dsimp -zeta only [v'])) | (refine_lift have k' : Keeps P' o' v'.1 := ?_; ?_; (on_goal 1 => try clear_value v'); (on_goal 2 => dsimp -zeta only [v'])) | (have k'' : v'.isSome = v'.isSome := rfl; clear k''; clear_value v') | skip))
      | split)
  | succ n ih =>
    unfold State.linkWalk
    repeat' (first
      | with_reducible assumption
      | with_reducible apply ih
      | with_reducible apply expand_keeps
      | ((with_reducible apply Keeps.foldl); intro s' x' h')
      | ((with_reducible apply Keeps.foldl_fst); intro s' x' h')
      | ((with_reducible apply Keeps.foldl_snd); intro s' x' h')
      | (refine Keeps.of_fst_eq ?_ (by with_reducible assumption))
      | ((first | intro v' | extract_lets -underBinder +onlyGivenNames v'); (first | (refine_lift have k' : Keeps P' o' v' := ?_; ?_; (on_goal 1 => try clear_value v'); (on_goal 2 => dsimp -zeta only [v'])) | (refine_lift have k' : Keeps P' o' v'.1 := ?_; ?_; (on_goal 1 => try clear_value v'); (on_goal 2 => dsimp -zeta only [v'])) | (have k'' : v'.isSome = v'.isSome := rfl; clear k''; clear_value v') | skip))
      | split)

theorem State.linkBack_keeps {P' : Prop} {o' : State} {s : State} (h : Keeps P' o' s) (r : Root) (level x c : Nat) :
    Keeps P' o' (State.linkBack s r level x c) := by
  unfold State.linkBack
  repeat' (first
    | with_reducible assumption
    | with_reducible apply State.writeList_keeps
    | ((first | intro v' | extract_lets -underBinder +onlyGivenNames v'); (first | (refine_lift have k' : Keeps P' o' v' := ?_; ?_; (on_goal 1 => try clear_value v'); (on_goal 2 => dsimp -zeta only [v'])) | (have k'' : v'.isSome = v'.isSome := rfl; clear k''; clear_value v') | skip))
    | split)

theorem linkAt_keeps {P' : Prop} {o' : State} (budget x : Nat) (r : Root) (y : State × Bool) (h : Keeps P' o' y.1) (level : Nat) :
    Keeps P' o' (linkAt budget x r y level).1 := by
  unfold linkAt
  repeat' (first
    | with_reducible assumption
    | with_reducible apply State.linkBack_keeps
    | with_reducible apply State.linkWalk_keeps
    | with_reducible apply State.writeList_keeps
    | ((with_reducible apply Keeps.foldl); intro s' x' h')
    | ((with_reducible apply Keeps.foldl_fst); intro s' x' h')
    | ((with_reducible apply Keeps.foldl_snd); intro s' x' h')
    | (refine Keeps.of_fst_eq ?_ (by with_reducible assumption))
    | ((first | intro v' | extract_lets -underBinder +onlyGivenNames v'); (first | (refine_lift have k' : Keeps P' o' v' := ?_; ?_; (on_goal 1 => try clear_value v'); (on_goal 2 => dsimp -zeta only [v'])) | (refine_lift have k' : Keeps P' o' v'.1 := ?_; ?_; (on_goal 1 => try clear_value v'); (on_goal 2 => dsimp -zeta only [v'])) | (have k'' : v'.isSome = v'.isSome := rfl; clear k''; clear_value v') | skip))
    | split)

theorem State.link_keeps {P' : Prop} {o' : State} {s : State} (h : Keeps P' o' s) (r : Root) (budget x : Nat) (faulted : Bool) :
    Keeps P' o' (State.link s r budget x faulted).1 := by
  unfold State.link
  repeat' (first
    | with_reducible assumption
    | with_reducible apply linkAt_keeps
    | ((with_reducible apply Keeps.foldl); intro s' x' h')
    | ((with_reducible apply Keeps.foldl_fst); intro s' x' h')
    | ((with_reducible apply Keeps.foldl_snd); intro s' x' h')
    | (refine Keeps.of_fst_eq ?_ (by with_reducible assumption)))

theorem State.repairList_keeps {P' : Prop} {o' : State} (t : List Nat) (r : Root) (level u : Nat) {s : State} (h : Keeps P' o' s) :
    Keeps P' o' (State.repairList t r level u s) := by
  unfold State.repairList
  repeat' (first
    | with_reducible assumption
    | with_reducible apply State.writeList_keeps
    | ((first | intro v' | extract_lets -underBinder +onlyGivenNames v'); (first | (refine_lift have k' : Keeps P' o' v' := ?_; ?_; (on_goal 1 => try clear_value v'); (on_goal 2 => dsimp -zeta only [v'])) | (have k'' : v'.isSome = v'.isSome := rfl; clear k''; clear_value v') | skip))
    | split)

theorem State.setShunt_keeps {P' : Prop} {o' : State} {s : State} (h : Keeps P' o' s) (x : Shunt) :
    Keeps P' o' (State.setShunt s x) := by
  unfold State.setShunt
  repeat' (first
    | with_reducible assumption
    | with_reducible apply State.setSearch_keeps
    | split)

theorem State.mergeOne_keeps {P' : Prop} {o' : State} {s : State} (h : Keeps P' o' s) (x : Shunt) (q : Nat) :
    Keeps P' o' (State.mergeOne s x q).1 := by
  unfold State.mergeOne
  repeat' (first
    | with_reducible assumption
    | with_reducible apply State.attempt_keeps
    | with_reducible apply State.link_keeps
    | with_reducible apply State.srch_keeps
    | ((with_reducible refine State.fset_keeps ?_ _ _ _ ?_); rotate_left; · exact rfl)
    | (refine Keeps.of_fst_eq ?_ (by with_reducible assumption))
    | ((with_reducible show ∀ y' : State, Keeps P' o' y' → _); intro y' h')
    | ((with_reducible show ∀ (_ : _) (y' : State), Keeps P' o' y' → _); intro x' y' h')
    | ((with_reducible show ∀ (_ : _) (_ : _) (y' : State), Keeps P' o' y' → _); intro x' z' y' h')
    | ((first | intro v' | extract_lets -underBinder +onlyGivenNames v'); (first | (refine_lift have k' : Keeps P' o' v' := ?_; ?_; (on_goal 1 => try clear_value v'); (on_goal 2 => dsimp -zeta only [v'])) | (refine_lift have k' : Keeps P' o' v'.1 := ?_; ?_; (on_goal 1 => try clear_value v'); (on_goal 2 => dsimp -zeta only [v'])) | (have k'' : v'.isSome = v'.isSome := rfl; clear k''; clear_value v') | skip))
    | split
    | (clear_value *; split))

theorem State.repairOne_keeps {P' : Prop} {o' : State} {s : State} (h : Keeps P' o' s) (x : Shunt) :
    Keeps P' o' (State.repairOne s x).1 := by
  unfold State.repairOne
  repeat' (first
    | with_reducible assumption
    | with_reducible apply State.attempt_keeps
    | with_reducible apply State.repairList_keeps
    | with_reducible apply State.srch_keeps
    | (refine Keeps.of_fst_eq ?_ (by with_reducible assumption))
    | ((with_reducible show ∀ y' : State, Keeps P' o' y' → _); intro y' h')
    | ((with_reducible show ∀ (_ : _) (y' : State), Keeps P' o' y' → _); intro x' y' h')
    | ((with_reducible show ∀ (_ : _) (_ : _) (y' : State), Keeps P' o' y' → _); intro x' z' y' h')
    | ((first | intro v' | extract_lets -underBinder +onlyGivenNames v'); (first | (refine_lift have k' : Keeps P' o' v' := ?_; ?_; (on_goal 1 => try clear_value v'); (on_goal 2 => dsimp -zeta only [v'])) | (refine_lift have k' : Keeps P' o' v'.1 := ?_; ?_; (on_goal 1 => try clear_value v'); (on_goal 2 => dsimp -zeta only [v'])) | (have k'' : v'.isSome = v'.isSome := rfl; clear k''; clear_value v') | skip))
    | split
    | (clear_value *; split))

theorem State.shuntOn_keeps {P' : Prop} {o' : State} (root n : Nat) {s : State} (h : Keeps P' o' s) :
    Keeps P' o' (State.shuntOn root n s) := by
  induction n generalizing s with
  | zero => exact h
  | succ n ih =>
    unfold State.shuntOn
    split
    · exact h
    · rename_i x _
      extract_lets y
      have k : Keeps P' o' y.1 := by
        show Keeps P' o' (Prod.fst (match x.left with | q :: _ => s.mergeOne x q | [] => if x.tset = [] ∨ 7 ≤ x.level then (s, none) else s.repairOne x))
        split
        · exact State.mergeOne_keeps h _ _
        · split
          · exact h
          · exact State.repairOne_keeps h _
      clear_value y
      split
      · exact ih (State.setShunt_keeps k _)
      · exact k

theorem State.shuntGo_keeps {P' : Prop} {o' : State} {s : State} (h : Keeps P' o' s) (root : Nat) :
    Keeps P' o' (State.shuntGo s root) := by
  unfold State.shuntGo
  repeat' (first
    | with_reducible assumption
    | with_reducible apply State.shuntOn_keeps
    | split)

theorem State.runShunt_keeps {P' : Prop} {o' : State} {s : State} (h : Keeps P' o' s) (p : Nat) (r : Root) :
    Keeps P' o' (State.runShunt s p r) := by
  unfold State.runShunt
  repeat' (first
    | with_reducible assumption
    | with_reducible apply State.finish_keeps
    | with_reducible apply State.leaveMutators_keeps
    | with_reducible apply State.setSearch_keeps
    | with_reducible apply State.shuntGo_keeps
    | ((with_reducible refine State.fset_keeps ?_ _ _ _ ?_); rotate_left; · exact rfl)
    | ((first | intro v' | extract_lets -underBinder +onlyGivenNames v'); (first | (refine_lift have k' : Keeps P' o' v' := ?_; ?_; (on_goal 1 => try clear_value v'); (on_goal 2 => dsimp -zeta only [v'])) | (have k'' : v'.isSome = v'.isSome := rfl; clear k''; clear_value v') | skip))
    | split)

theorem State.commitLine_keeps {P' : Prop} {o' : State} (x : Shunt) (r : Root) (freed : List Nat) {s : State} (h : Keeps P' o' s) :
    Keeps P' o' (State.commitLine x r freed s) := by
  unfold State.commitLine
  repeat' (first
    | with_reducible assumption
    | with_reducible apply State.storeNat_keeps
    | with_reducible apply State.writeLine_keeps
    | ((with_reducible apply Keeps.foldl); intro s' x' h')
    | ((with_reducible apply Keeps.foldl_fst); intro s' x' h')
    | ((with_reducible apply Keeps.foldl_snd); intro s' x' h')
    | ((first | intro v' | extract_lets -underBinder +onlyGivenNames v'); (first | (refine_lift have k' : Keeps P' o' v' := ?_; ?_; (on_goal 1 => try clear_value v'); (on_goal 2 => dsimp -zeta only [v'])) | (have k'' : v'.isSome = v'.isSome := rfl; clear k''; clear_value v') | skip))
    | split)

theorem State.commitShunt_keeps {P' : Prop} {o' : State} {s : State} (h : Keeps P' o' s) (x : Shunt) :
    Keeps P' o' (State.commitShunt s x) := by
  unfold State.commitShunt
  repeat' (first
    | with_reducible assumption
    | with_reducible apply State.attempt_keeps
    | with_reducible apply State.commitLine_keeps
    | with_reducible apply State.finishPending_keeps
    | with_reducible apply State.setSearch_keeps
    | with_reducible apply State.setShunt_keeps
    | with_reducible apply State.srch_keeps
    | ((with_reducible refine State.fset_keeps ?_ _ _ _ ?_); rotate_left; · exact rfl)
    | (refine Keeps.of_fst_eq ?_ (by with_reducible assumption))
    | ((with_reducible show ∀ y' : State, Keeps P' o' y' → _); intro y' h')
    | ((with_reducible show ∀ (_ : _) (y' : State), Keeps P' o' y' → _); intro x' y' h')
    | ((with_reducible show ∀ (_ : _) (_ : _) (y' : State), Keeps P' o' y' → _); intro x' z' y' h')
    | ((first | intro v' | extract_lets -underBinder +onlyGivenNames v'); (first | (refine_lift have k' : Keeps P' o' v' := ?_; ?_; (on_goal 1 => try clear_value v'); (on_goal 2 => dsimp -zeta only [v'])) | (refine_lift have k' : Keeps P' o' v'.1 := ?_; ?_; (on_goal 1 => try clear_value v'); (on_goal 2 => dsimp -zeta only [v'])) | (have k'' : v'.isSome = v'.isSome := rfl; clear k''; clear_value v') | skip))
    | split
    | (clear_value *; split))

theorem State.endShunt_keeps {P' : Prop} {o' : State} {s : State} (h : Keeps P' o' s) (x : Shunt) :
    Keeps P' o' (State.endShunt s x) := by
  unfold State.endShunt
  extract_lets r y z
  have k1 : Keeps P' o' y.1 := State.steps_keeps x.place _ h (fun f hf t k => by
    obtain ⟨q, -, rfl⟩ := List.mem_map.1 hf
    exact State.lose_keeps _ _ k)
  clear_value y
  have k2 : Keeps P' o' z.1 := by
    show Keeps P' o' (Prod.fst (if _ then _ else _))
    split
    · exact State.finishPending_keeps k1 _ _
    · exact k1
  clear_value z
  split
  · exact k2
  · exact State.finish_keeps (State.setSearch_keeps k2 _) _ _ _

theorem State.shuntStep_keeps {P' : Prop} {o' : State} {s : State} (h : Keeps P' o' s) (root : Nat) :
    Keeps P' o' (State.shuntStep s root) := by
  unfold State.shuntStep
  repeat' (first
    | with_reducible assumption
    | with_reducible apply State.commitShunt_keeps
    | with_reducible apply State.endShunt_keeps
    | with_reducible apply State.shuntGo_keeps
    | ((first | intro v' | extract_lets -underBinder +onlyGivenNames v'); (first | (refine_lift have k' : Keeps P' o' v' := ?_; ?_; (on_goal 1 => try clear_value v'); (on_goal 2 => dsimp -zeta only [v'])) | (have k'' : v'.isSome = v'.isSome := rfl; clear k''; clear_value v') | skip))
    | split
    | (clear_value *; split))

theorem State.runMutator_keeps {P' : Prop} {o' : State} {s : State} (h : Keeps P' o' s) (root p : Nat) :
    Keeps P' o' (State.runMutator s root p) := by
  unfold State.runMutator
  repeat' (first
    | with_reducible assumption
    | with_reducible apply State.dropEmbed_keeps
    | with_reducible apply State.finish_keeps
    | with_reducible apply State.finishPending_keeps
    | with_reducible apply State.leaveMutators_keeps
    | with_reducible apply State.runDel_keeps
    | with_reducible apply State.runIngest_keeps
    | with_reducible apply State.runPut_keeps
    | with_reducible apply State.runShunt_keeps
    | (refine Keeps.of_fst_eq ?_ (by with_reducible assumption))
    | ((first | intro v' | extract_lets -underBinder +onlyGivenNames v'); (first | (refine_lift have k' : Keeps P' o' v' := ?_; ?_; (on_goal 1 => try clear_value v'); (on_goal 2 => dsimp -zeta only [v'])) | (refine_lift have k' : Keeps P' o' v'.1 := ?_; ?_; (on_goal 1 => try clear_value v'); (on_goal 2 => dsimp -zeta only [v'])) | (have k'' : v'.isSome = v'.isSome := rfl; clear k''; clear_value v') | skip))
    | split)

theorem State.mutate_keeps {P' : Prop} {o' : State} {s : State} (h : Keeps P' o' s) (root : Nat) (x0 : Nat) :
    Keeps P' o' (State.mutate s root x0) := by
  induction x0 generalizing s root with
  | zero =>
    unfold State.mutate
    repeat' (first
      | with_reducible assumption
      | with_reducible apply State.runMutator_keeps
      | with_reducible apply State.usePage_keeps
      | ((with_reducible apply Keeps.foldl); intro s' x' h')
      | ((with_reducible apply Keeps.foldl_fst); intro s' x' h')
      | ((with_reducible apply Keeps.foldl_snd); intro s' x' h')
      | ((first | intro v' | extract_lets -underBinder +onlyGivenNames v'); (first | (refine_lift have k' : Keeps P' o' v' := ?_; ?_; (on_goal 1 => try clear_value v'); (on_goal 2 => dsimp -zeta only [v'])) | (have k'' : v'.isSome = v'.isSome := rfl; clear k''; clear_value v') | skip))
      | split
      | (clear_value *; split))
  | succ n ih =>
    unfold State.mutate
    repeat' (first
      | with_reducible assumption
      | with_reducible apply ih
      | with_reducible apply State.runMutator_keeps
      | with_reducible apply State.usePage_keeps
      | ((with_reducible apply Keeps.foldl); intro s' x' h')
      | ((with_reducible apply Keeps.foldl_fst); intro s' x' h')
      | ((with_reducible apply Keeps.foldl_snd); intro s' x' h')
      | ((first | intro v' | extract_lets -underBinder +onlyGivenNames v'); (first | (refine_lift have k' : Keeps P' o' v' := ?_; ?_; (on_goal 1 => try clear_value v'); (on_goal 2 => dsimp -zeta only [v'])) | (have k'' : v'.isSome = v'.isSome := rfl; clear k''; clear_value v') | skip))
      | split
      | (clear_value *; split))

theorem State.mutateAll_keeps {P' : Prop} {o' : State} {s : State} (h : Keeps P' o' s) :
    Keeps P' o' (State.mutateAll s) := by
  unfold State.mutateAll
  repeat' (first
    | with_reducible assumption
    | with_reducible apply State.mutate_keeps
    | with_reducible apply State.shuntStep_keeps
    | ((with_reducible apply Keeps.foldl); intro s' x' h')
    | ((with_reducible apply Keeps.foldl_fst); intro s' x' h')
    | ((with_reducible apply Keeps.foldl_snd); intro s' x' h')
    | ((first | intro v' | extract_lets -underBinder +onlyGivenNames v'); (first | (refine_lift have k' : Keeps P' o' v' := ?_; ?_; (on_goal 1 => try clear_value v'); (on_goal 2 => dsimp -zeta only [v'])) | (have k'' : v'.isSome = v'.isSome := rfl; clear k''; clear_value v') | skip))
    | split)

theorem State.joinMutators_keeps {P' : Prop} {o' : State} {s : State} (h : Keeps P' o' s) (root p want src : Nat) :
    Keeps P' o' (State.joinMutators s root p want src) := by
  unfold State.joinMutators
  repeat' (first
    | with_reducible assumption
    | with_reducible apply State.mutate_keeps
    | with_reducible apply State.setCmd_keeps
    | with_reducible apply State.setSearch_keeps
    | ((first | intro v' | extract_lets -underBinder +onlyGivenNames v'); (first | (refine_lift have k' : Keeps P' o' v' := ?_; ?_; (on_goal 1 => try clear_value v'); (on_goal 2 => dsimp -zeta only [v'])) | (have k'' : v'.isSome = v'.isSome := rfl; clear k''; clear_value v') | skip))
    | split)

theorem State.withRoot_keeps {P' : Prop} {o' : State} {s : State} (h : Keeps P' o' s) (root p : Nat) (media : Bool) (run : Root → State → State) (h_run : ∀ y0 y1, Keeps P' o' y1 → Keeps P' o' (run y0 y1)) :
    Keeps P' o' (State.withRoot s root p media run) := by
  unfold State.withRoot
  repeat' (first
    | with_reducible assumption
    | with_reducible apply h_run
    | with_reducible apply State.fail_keeps
    | with_reducible apply State.finish_keeps
    | with_reducible apply State.usePage_keeps
    | ((first | intro v' | extract_lets -underBinder +onlyGivenNames v'); (first | (refine_lift have k' : Keeps P' o' v' := ?_; ?_; (on_goal 1 => try clear_value v'); (on_goal 2 => dsimp -zeta only [v'])) | (have k'' : v'.isSome = v'.isSome := rfl; clear k''; clear_value v') | skip))
    | split)

theorem State.putTaken_keeps {P' : Prop} {o' : State} (p : Nat) (e : List Byte) {s : State} (h : Keeps P' o' s) :
    Keeps P' o' (State.putTaken p e s) := by
  unfold State.putTaken
  repeat' (first
    | with_reducible assumption
    | with_reducible apply State.fail_keeps
    | with_reducible apply State.joinMutators_keeps
    | with_reducible apply State.withRoot_keeps
    | ((with_reducible show ∀ y' : State, Keeps P' o' y' → _); intro y' h')
    | ((with_reducible show ∀ (_ : _) (y' : State), Keeps P' o' y' → _); intro x' y' h')
    | ((with_reducible show ∀ (_ : _) (_ : _) (y' : State), Keeps P' o' y' → _); intro x' z' y' h')
    | ((first | intro v' | extract_lets -underBinder +onlyGivenNames v'); (first | (refine_lift have k' : Keeps P' o' v' := ?_; ?_; (on_goal 1 => try clear_value v'); (on_goal 2 => dsimp -zeta only [v'])) | (have k'' : v'.isSome = v'.isSome := rfl; clear k''; clear_value v') | skip))
    | split)

theorem State.delTaken_keeps {P' : Prop} {o' : State} (p : Nat) (e : List Byte) {s : State} (h : Keeps P' o' s) :
    Keeps P' o' (State.delTaken p e s) := by
  unfold State.delTaken
  repeat' (first
    | with_reducible assumption
    | with_reducible apply State.fail_keeps
    | with_reducible apply State.joinMutators_keeps
    | with_reducible apply State.withRoot_keeps
    | ((with_reducible show ∀ y' : State, Keeps P' o' y' → _); intro y' h')
    | ((with_reducible show ∀ (_ : _) (y' : State), Keeps P' o' y' → _); intro x' y' h')
    | ((with_reducible show ∀ (_ : _) (_ : _) (y' : State), Keeps P' o' y' → _); intro x' z' y' h')
    | ((first | intro v' | extract_lets -underBinder +onlyGivenNames v'); (first | (refine_lift have k' : Keeps P' o' v' := ?_; ?_; (on_goal 1 => try clear_value v'); (on_goal 2 => dsimp -zeta only [v'])) | (have k'' : v'.isSome = v'.isSome := rfl; clear k''; clear_value v') | skip))
    | split)

theorem State.shuntTaken_keeps {P' : Prop} {o' : State} (p : Nat) (e : List Byte) {s : State} (h : Keeps P' o' s) :
    Keeps P' o' (State.shuntTaken p e s) := by
  unfold State.shuntTaken
  repeat' (first
    | with_reducible assumption
    | with_reducible apply State.fail_keeps
    | with_reducible apply State.joinMutators_keeps
    | with_reducible apply State.withRoot_keeps
    | ((with_reducible show ∀ y' : State, Keeps P' o' y' → _); intro y' h')
    | ((with_reducible show ∀ (_ : _) (y' : State), Keeps P' o' y' → _); intro x' y' h')
    | ((with_reducible show ∀ (_ : _) (_ : _) (y' : State), Keeps P' o' y' → _); intro x' z' y' h')
    | ((first | intro v' | extract_lets -underBinder +onlyGivenNames v'); (first | (refine_lift have k' : Keeps P' o' v' := ?_; ?_; (on_goal 1 => try clear_value v'); (on_goal 2 => dsimp -zeta only [v'])) | (have k'' : v'.isSome = v'.isSome := rfl; clear k''; clear_value v') | skip))
    | split)

theorem State.mutatorData_keeps {P' : Prop} {o' : State} {s : State} (h : Keeps P' o' s) (p : Nat) :
    Keeps P' o' (State.mutatorData s p) := by
  unfold State.mutatorData
  repeat' (first
    | with_reducible assumption
    | with_reducible apply State.mutate_keeps
    | split)

theorem execIndexPut_keeps {P' : Prop} {o' : State} (q : QueueId) {s : State} (h : Keeps P' o' s) {t : State} (e : execIndexPut q s = .next t) :
    Keeps P' o' t := by
  unfold execIndexPut at e
  injection e with e
  subst e
  repeat' (first
    | with_reducible assumption
    | with_reducible apply State.onEntry_keeps
    | with_reducible apply State.putTaken_keeps
    | ((with_reducible show ∀ y' : State, Keeps P' o' y' → _); intro y' h')
    | ((with_reducible show ∀ (_ : _) (y' : State), Keeps P' o' y' → _); intro x' y' h')
    | ((with_reducible show ∀ (_ : _) (_ : _) (y' : State), Keeps P' o' y' → _); intro x' z' y' h'))

theorem execIndexDel_keeps {P' : Prop} {o' : State} (q : QueueId) {s : State} (h : Keeps P' o' s) {t : State} (e : execIndexDel q s = .next t) :
    Keeps P' o' t := by
  unfold execIndexDel at e
  injection e with e
  subst e
  repeat' (first
    | with_reducible assumption
    | with_reducible apply State.delTaken_keeps
    | with_reducible apply State.onEntry_keeps
    | ((with_reducible show ∀ y' : State, Keeps P' o' y' → _); intro y' h')
    | ((with_reducible show ∀ (_ : _) (y' : State), Keeps P' o' y' → _); intro x' y' h')
    | ((with_reducible show ∀ (_ : _) (_ : _) (y' : State), Keeps P' o' y' → _); intro x' z' y' h'))

theorem execShunt_keeps {P' : Prop} {o' : State} (q : QueueId) {s : State} (h : Keeps P' o' s) {t : State} (e : execShunt q s = .next t) :
    Keeps P' o' t := by
  unfold execShunt at e
  injection e with e
  subst e
  repeat' (first
    | with_reducible assumption
    | with_reducible apply State.adminOnly_keeps
    | with_reducible apply State.behind_keeps
    | with_reducible apply State.onEntry_keeps
    | with_reducible apply State.shuntTaken_keeps
    | ((with_reducible show ∀ y' : State, Keeps P' o' y' → _); intro y' h')
    | ((with_reducible show ∀ (_ : _) (y' : State), Keeps P' o' y' → _); intro x' y' h')
    | ((with_reducible show ∀ (_ : _) (_ : _) (y' : State), Keeps P' o' y' → _); intro x' z' y' h'))

theorem execIndexPutResume_keeps {P' : Prop} {o' : State} (place : Nat) {s : State} (h : Keeps P' o' s) {t : State} (e : execIndexPutResume place s = .next t) :
    Keeps P' o' t := by
  unfold execIndexPutResume at e
  injection e with e
  subst e
  repeat' (first
    | with_reducible assumption
    | with_reducible apply State.mutatorData_keeps
    | split)

theorem execShuntPrepare_keeps {P' : Prop} {o' : State} (place : Nat) {s : State} (h : Keeps P' o' s) {t : State} (e : execShuntPrepare place s = .next t) :
    Keeps P' o' t := by
  unfold execShuntPrepare at e
  injection e with e
  subst e
  repeat' (first
    | with_reducible assumption
    | with_reducible apply State.shuntStep_keeps
    | split)

end Sys2Proof.Machine
end

