-- ==== Sys2Proof/Laws/KeepsScanVm.lean ====
section
/-! SUPPORT. What each operation of Machine/ScanVm.lean keeps (Laws/Keeps.lean). -/

set_option linter.unusedTactic false
set_option linter.unreachableTactic false

namespace Sys2Proof.Machine

theorem Vm.ite_keeps {P' : Prop} {o' : State} (p : Prop) [Decidable p] {a b : Vm} (ha : p → Keeps P' o' a.s) (hb : ¬ p → Keeps P' o' b.s) :
    Keeps P' o' (if p then a else b).s := by
  split
  · exact ha ‹_›
  · exact hb ‹_›

theorem Vm.inset_keeps {P' : Prop} {o' : State} (env : VmEnv) (m : Vm) (h : Keeps P' o' m.s) (n : Nat) :
    Keeps P' o' (Vm.inset env m n).2 := by
  unfold Vm.inset
  split
  · exact h
  extract_lets a r s1
  have k1 : Keeps P' o' s1 := by
    have k0 : Keeps P' o' r.2 := State.cacheLine_keeps h _ _
    show Keeps P' o' (if _ then _ else _)
    split
    · exact k0
    · exact State.usePage_keeps k0 _
  clear_value s1
  split
  · exact k1
  · exact State.drawBool_keeps k1

theorem vmStep_keeps {P' : Prop} {o' : State} (env : VmEnv) (m : Vm) (h : Keeps P' o' m.s) (i : List Byte) :
    Keeps P' o' (vmStep env m i).s := by
  unfold vmStep
  dsimp only
  repeat' (first
    | ((with_reducible refine Vm.ite_keeps _ (fun _ => ?_) (fun _ => ?_)))
    | exact h
    | exact Vm.inset_keeps env m h _
    | (split <;> first | exact h | exact State.drawNat_keeps h))

theorem runRecord_keeps {P' : Prop} {o' : State} (prog : List (List Byte)) (env : VmEnv) {s : State} (h : Keeps P' o' s) :
    Keeps P' o' (runRecord prog env s).s := by
  have : ∀ m : Vm, Keeps P' o' m.s → Keeps P' o' (prog.foldl (vmStep env) m).s := by
    induction prog with
    | nil => exact fun _ hm => hm
    | cons i is ih => exact fun m hm => ih _ (vmStep_keeps env m hm i)
  exact this _ h

end Sys2Proof.Machine
end

