-- ==== Sys2Proof/Laws/KeepsScan.lean ====
section
/-! SUPPORT. What each operation of Machine/Scan.lean keeps (Laws/Keeps.lean). -/

set_option linter.unusedTactic false
set_option linter.unreachableTactic false

namespace Sys2Proof.Machine

theorem State.scanReady_keeps {P' : Prop} {o' : State} {s : State} (h : Keeps P' o' s) (p : Nat) :
    Keeps P' o' (State.scanReady s p) := by
  unfold State.scanReady
  repeat' (first
    | with_reducible assumption
    | with_reducible apply State.fail_keeps
    | with_reducible apply State.setScans_keeps
    | ((first | intro v' | extract_lets -underBinder +onlyGivenNames v'); (first | (refine_lift have k' : Keeps P' o' v' := ?_; ?_; (on_goal 1 => try clear_value v'); (on_goal 2 => dsimp -zeta only [v'])) | (have k'' : v'.isSome = v'.isSome := rfl; clear k''; clear_value v') | skip))
    | split)

theorem State.scanArgs_keeps {P' : Prop} {o' : State} {s : State} (h : Keeps P' o' s) (p : Nat) :
    Keeps P' o' (State.scanArgs s p) := by
  unfold State.scanArgs
  repeat' (first
    | with_reducible assumption
    | with_reducible apply State.fail_keeps
    | with_reducible apply State.finish_keeps
    | with_reducible apply State.scanReady_keeps
    | with_reducible apply State.setCmd_keeps
    | with_reducible apply State.usePages_keeps
    | ((first | intro v' | extract_lets -underBinder +onlyGivenNames v'); (first | (refine_lift have k' : Keeps P' o' v' := ?_; ?_; (on_goal 1 => try clear_value v'); (on_goal 2 => dsimp -zeta only [v'])) | (have k'' : v'.isSome = v'.isSome := rfl; clear k''; clear_value v') | skip))
    | split)

theorem State.scanProgHere_keeps {P' : Prop} {o' : State} {s : State} (h : Keeps P' o' s) (p : Nat) :
    Keeps P' o' (State.scanProgHere s p) := by
  unfold State.scanProgHere
  repeat' (first
    | with_reducible assumption
    | with_reducible apply State.fail_keeps
    | with_reducible apply State.finish_keeps
    | with_reducible apply State.scanArgs_keeps
    | with_reducible apply State.setCmd_keeps
    | with_reducible apply State.usePage_keeps
    | with_reducible apply State.usePages_keeps
    | ((first | intro v' | extract_lets -underBinder +onlyGivenNames v'); (first | (refine_lift have k' : Keeps P' o' v' := ?_; ?_; (on_goal 1 => try clear_value v'); (on_goal 2 => dsimp -zeta only [v'])) | (have k'' : v'.isSome = v'.isSome := rfl; clear k''; clear_value v') | skip))
    | split)

theorem State.scanLoads_keeps {P' : Prop} {o' : State} {s : State} (h : Keeps P' o' s) (p : Nat) :
    Keeps P' o' (State.scanLoads s p) := by
  unfold State.scanLoads
  repeat' (first
    | with_reducible assumption
    | with_reducible apply State.scanArgs_keeps
    | with_reducible apply State.scanProgHere_keeps
    | split)

theorem State.scanTaken_keeps {P' : Prop} {o' : State} (p : Nat) (e : List Byte) {s : State} (h : Keeps P' o' s) :
    Keeps P' o' (State.scanTaken p e s) := by
  unfold State.scanTaken
  repeat' (first
    | with_reducible assumption
    | with_reducible apply State.fail_keeps
    | with_reducible apply State.scanArgs_keeps
    | with_reducible apply State.scanProgHere_keeps
    | with_reducible apply State.setCmd_keeps
    | split)

theorem State.scanData_keeps {P' : Prop} {o' : State} {s : State} (h : Keeps P' o' s) (p : Nat) :
    Keeps P' o' (State.scanData s p) := by
  unfold State.scanData
  repeat' (first
    | with_reducible assumption
    | with_reducible apply State.fail_keeps
    | with_reducible apply State.scanArgs_keeps
    | with_reducible apply State.scanReady_keeps
    | with_reducible apply State.setCmd_keeps
    | ((first | intro v' | extract_lets -underBinder +onlyGivenNames v'); (first | (refine_lift have k' : Keeps P' o' v' := ?_; ?_; (on_goal 1 => try clear_value v'); (on_goal 2 => dsimp -zeta only [v'])) | (have k'' : v'.isSome = v'.isSome := rfl; clear k''; clear_value v') | skip))
    | split)

theorem State.setScan_keeps {P' : Prop} {o' : State} {s : State} (h : Keeps P' o' s) (c : ScanCmd) :
    Keeps P' o' (State.setScan s c) := by
  unfold State.setScan
  repeat' (first
    | with_reducible assumption
    | with_reducible apply State.setScans_keeps
    | split)

theorem State.setScanCtx_keeps {P' : Prop} {o' : State} {s : State} (h : Keeps P' o' s) (st : Nat) (x : ScanCtx) :
    Keeps P' o' (State.setScanCtx s st x) := by
  unfold State.setScanCtx
  repeat' (first
    | with_reducible assumption
    | ((with_reducible refine State.setStn_keeps ?_ _ _ ?_); rotate_left; · exact id)
    | split)

theorem State.openScanCtx_keeps {P' : Prop} {o' : State} (p : Nat) {s : State} (h : Keeps P' o' s) (st : Nat) :
    Keeps P' o' (State.openScanCtx p s st) := by
  unfold State.openScanCtx
  repeat' (first
    | with_reducible assumption
    | ((with_reducible refine State.setStn_keeps ?_ _ _ ?_); rotate_left; · exact id)
    | split)

theorem State.assignScan_keeps {P' : Prop} {o' : State} {s : State} (h : Keeps P' o' s) (p : Nat) :
    Keeps P' o' (State.assignScan s p) := by
  unfold State.assignScan
  repeat' (first
    | with_reducible assumption
    | with_reducible apply State.openScanCtx_keeps
    | with_reducible apply State.setScan_keeps
    | with_reducible apply State.setScans_keeps
    | ((with_reducible apply Keeps.foldl); intro s' x' h')
    | ((with_reducible apply Keeps.foldl_fst); intro s' x' h')
    | ((with_reducible apply Keeps.foldl_snd); intro s' x' h')
    | ((first | intro v' | extract_lets -underBinder +onlyGivenNames v'); (first | (refine_lift have k' : Keeps P' o' v' := ?_; ?_; (on_goal 1 => try clear_value v'); (on_goal 2 => dsimp -zeta only [v'])) | (have k'' : v'.isSome = v'.isSome := rfl; clear k''; clear_value v') | skip))
    | split
    | (clear_value *; split))

theorem State.scanFetch_keeps {P' : Prop} {o' : State} {s : State} (h : Keeps P' o' s) (p : Nat) :
    Keeps P' o' (State.scanFetch s p) := by
  unfold State.scanFetch
  repeat' (first
    | with_reducible assumption
    | with_reducible apply State.queueReads_keeps)

theorem State.scanServe_keeps {P' : Prop} {o' : State} {s : State} (h : Keeps P' o' s) (st : Nat) (x : ScanPage) :
    Keeps P' o' (State.scanServe s st x).1 := by
  unfold State.scanServe
  repeat' (first
    | with_reducible assumption
    | with_reducible apply State.scanFetch_keeps
    | with_reducible apply State.setFlash_keeps
    | ((first | intro v' | extract_lets -underBinder +onlyGivenNames v'); (first | (refine_lift have k' : Keeps P' o' v' := ?_; ?_; (on_goal 1 => try clear_value v'); (on_goal 2 => dsimp -zeta only [v'])) | (have k'' : v'.isSome = v'.isSome := rfl; clear k''; clear_value v') | skip))
    | split
    | (clear_value *; split))

theorem State.scanServeAll_keeps {P' : Prop} {o' : State} {s : State} (h : Keeps P' o' s) (st : Nat) (xs : List ScanPage) :
    Keeps P' o' (State.scanServeAll s st xs).1 := by
  unfold State.scanServeAll
  repeat' (first
    | with_reducible assumption
    | with_reducible apply State.scanServe_keeps
    | ((with_reducible apply Keeps.foldl); intro s' x' h')
    | ((with_reducible apply Keeps.foldl_fst); intro s' x' h')
    | ((with_reducible apply Keeps.foldl_snd); intro s' x' h')
    | (refine Keeps.of_fst_eq ?_ (by with_reducible assumption))
    | ((first | intro v' | extract_lets -underBinder +onlyGivenNames v'); (first | (refine_lift have k' : Keeps P' o' v' := ?_; ?_; (on_goal 1 => try clear_value v'); (on_goal 2 => dsimp -zeta only [v'])) | (refine_lift have k' : Keeps P' o' v'.1 := ?_; ?_; (on_goal 1 => try clear_value v'); (on_goal 2 => dsimp -zeta only [v'])) | (have k'' : v'.isSome = v'.isSome := rfl; clear k''; clear_value v') | skip))
    | split)

theorem State.scanReread_keeps {P' : Prop} {o' : State} {s : State} (h : Keeps P' o' s) (st ident : Nat) (x : ScanPage) :
    Keeps P' o' (State.scanReread s st ident x).1 := by
  unfold State.scanReread
  repeat' (first
    | with_reducible assumption
    | with_reducible apply State.holdWrites_keeps
    | with_reducible apply State.scanServe_keeps
    | ((with_reducible refine State.bump_keeps ?_ _ _ _ ?_); rotate_left; · exact rfl)
    | (refine Keeps.of_fst_eq ?_ (by with_reducible assumption))
    | ((first | intro v' | extract_lets -underBinder +onlyGivenNames v'); (first | (refine_lift have k' : Keeps P' o' v' := ?_; ?_; (on_goal 1 => try clear_value v'); (on_goal 2 => dsimp -zeta only [v'])) | (refine_lift have k' : Keeps P' o' v'.1 := ?_; ?_; (on_goal 1 => try clear_value v'); (on_goal 2 => dsimp -zeta only [v'])) | (have k'' : v'.isSome = v'.isSome := rfl; clear k''; clear_value v') | skip))
    | split)

theorem State.scanConfirms_keeps {P' : Prop} {o' : State} {s : State} (h : Keeps P' o' s) (st ident : Nat) (xs : List ScanPage) :
    Keeps P' o' (State.scanConfirms s st ident xs).1 := by
  unfold State.scanConfirms
  repeat' (first
    | with_reducible assumption
    | with_reducible apply State.endHold_keeps
    | with_reducible apply State.scanReread_keeps
    | ((with_reducible apply Keeps.foldl); intro s' x' h')
    | ((with_reducible apply Keeps.foldl_fst); intro s' x' h')
    | ((with_reducible apply Keeps.foldl_snd); intro s' x' h')
    | (refine Keeps.of_fst_eq ?_ (by with_reducible assumption))
    | ((first | intro v' | extract_lets -underBinder +onlyGivenNames v'); (first | (refine_lift have k' : Keeps P' o' v' := ?_; ?_; (on_goal 1 => try clear_value v'); (on_goal 2 => dsimp -zeta only [v'])) | (refine_lift have k' : Keeps P' o' v'.1 := ?_; ?_; (on_goal 1 => try clear_value v'); (on_goal 2 => dsimp -zeta only [v'])) | (have k'' : v'.isSome = v'.isSome := rfl; clear k''; clear_value v') | skip))
    | split)

theorem State.closePacket_keeps {P' : Prop} {o' : State} {s : State} (h : Keeps P' o' s) (e : List Byte) (st p : Nat) (stopped : Bool) :
    Keeps P' o' (State.closePacket s e st p stopped) := by
  unfold State.closePacket
  repeat' (first
    | with_reducible assumption
    | with_reducible apply State.closeChunk_keeps
    | with_reducible apply State.setScanCtx_keeps
    | ((first | intro v' | extract_lets -underBinder +onlyGivenNames v'); (first | (refine_lift have k' : Keeps P' o' v' := ?_; ?_; (on_goal 1 => try clear_value v'); (on_goal 2 => dsimp -zeta only [v'])) | (have k'' : v'.isSome = v'.isSome := rfl; clear k''; clear_value v') | skip))
    | split)

theorem State.stopScan_keeps {P' : Prop} {o' : State} {s : State} (h : Keeps P' o' s) (c : ScanCmd) :
    Keeps P' o' (State.stopScan s c) := by
  unfold State.stopScan
  repeat' (first
    | with_reducible assumption
    | with_reducible apply State.closePacket_keeps
    | with_reducible apply State.setScan_keeps
    | ((with_reducible apply Keeps.foldl); intro s' x' h')
    | ((with_reducible apply Keeps.foldl_fst); intro s' x' h')
    | ((with_reducible apply Keeps.foldl_snd); intro s' x' h')
    | ((with_reducible refine State.bump_keeps ?_ _ _ _ ?_); rotate_left; · exact rfl)
    | ((first | intro v' | extract_lets -underBinder +onlyGivenNames v'); (first | (refine_lift have k' : Keeps P' o' v' := ?_; ?_; (on_goal 1 => try clear_value v'); (on_goal 2 => dsimp -zeta only [v'])) | (have k'' : v'.isSome = v'.isSome := rfl; clear k''; clear_value v') | skip))
    | split)

theorem State.putEntry_keeps {P' : Prop} {o' : State} {s : State} (h : Keeps P' o' s) (c : ScanCmd) (e : List Byte) (st : Nat) (entry : List Byte) :
    KeepsOpt1 P' o' (State.putEntry s c e st entry) := by
  unfold State.putEntry
  repeat' (first
    | with_reducible assumption
    | with_reducible exact Keeps.opt_none
    | with_reducible apply Keeps.opt_some
    | with_reducible exact Keeps.opt1_none
    | with_reducible apply Keeps.opt1_some
    | with_reducible exact Keeps.opt2_none
    | with_reducible apply Keeps.opt2_some
    | (with_reducible apply Keeps.opt2_map; intro x''; with_reducible apply Keeps.foldl; intro s' x' h')
    | with_reducible apply State.closePacket_keeps
    | with_reducible apply State.sendData_keeps
    | with_reducible apply State.setScanCtx_keeps
    | ((first | intro v' | extract_lets -underBinder +onlyGivenNames v'); (first | (refine_lift have k' : Keeps P' o' v' := ?_; ?_; (on_goal 1 => try clear_value v'); (on_goal 2 => dsimp -zeta only [v'])) | (have k'' : v'.isSome = v'.isSome := rfl; clear k''; clear_value v') | skip))
    | split)

theorem UnitRun.write_keeps {P' : Prop} {o' : State} (e : List Byte) (st : Nat) (gap : Bool) (u : UnitRun) (h : Keeps P' o' u.s)
    (entry : List Byte) : Keeps P' o' (UnitRun.write e st gap u entry).s := by
  unfold UnitRun.write
  split
  · exact h
  split
  · exact h
  · have := State.putEntry_keeps h u.c e st entry
    split
    · exact h
    · rename_i s c hp
      exact Keeps.ofOpt1 this hp

theorem UnitRun.record_keeps {P' : Prop} {o' : State} (e : List Byte) (st : Nat) (u : UnitRun) (h : Keeps P' o' u.s)
    (r : Nat × Nat × List Byte) : Keeps P' o' (UnitRun.record e st u r).s := by
  unfold UnitRun.record
  split
  · exact h
  dsimp only
  have step : ∀ (es : List (List Byte)) (v : UnitRun), Keeps P' o' v.s → Keeps P' o' (es.foldl (UnitRun.write e st false) v).s := by
    intro es
    induction es with
    | nil => exact fun _ hv => hv
    | cons x xs ih => exact fun v hv => ih _ (UnitRun.write_keeps e st false v hv x)
  exact step _ _ (runRecord_keeps _ _ h)

theorem UnitRun.records_keeps {P' : Prop} {o' : State} (e : List Byte) (st : Nat) (rs : List (Nat × Nat × List Byte)) :
    ∀ u : UnitRun, Keeps P' o' u.s → Keeps P' o' (rs.foldl (UnitRun.record e st) u).s := by
  induction rs with
  | nil => exact fun _ h => h
  | cons r rs ih => exact fun u h => ih _ (UnitRun.record_keeps e st u h r)

theorem State.endUnit_keeps {P' : Prop} {o' : State} (u : UnitRun) (h : Keeps P' o' u.s) (e : List Byte) (st unit : Nat) (old : ScanCmd) :
    Keeps P' o' (State.endUnit u e st unit old) := by
  unfold State.endUnit
  dsimp only
  have k1 := State.bump_keeps (State.bump_keeps h F.depScanCtrCount 1 (u.c.records - old.records) rfl) F.depScanCtrCount 3 (u.c.gaps - old.gaps) rfl
  split
  · exact State.stopScan_keeps (State.bump_keeps (State.setScanCtx_keeps k1 _ _) _ _ _ rfl) _
  · exact State.setScan_keeps (State.bump_keeps (State.bump_keeps k1 _ _ _ rfl) _ _ _ rfl) _

theorem State.finishUnit_keeps {P' : Prop} {o' : State} {s : State} (h : Keeps P' o' s) (c : ScanCmd) (st : Nat) (x : UnitOut) :
    Keeps P' o' (State.finishUnit s c st x) := by
  unfold State.finishUnit
  dsimp only
  split
  · exact State.endUnit_keeps _ (UnitRun.write_keeps _ _ _ _ h _) _ _ _ _
  · exact State.endUnit_keeps _ (UnitRun.records_keeps _ _ _ _ h) _ _ _ _

theorem State.scanEnds_keeps {P' : Prop} {o' : State} {s : State} (h : Keeps P' o' s) (p : Nat) :
    Keeps P' o' (State.scanEnds s p) := by
  unfold State.scanEnds
  repeat' (first
    | with_reducible assumption
    | with_reducible apply State.finish_keeps
    | with_reducible apply State.sendData_keeps
    | ((with_reducible refine State.bump_keeps ?_ _ _ _ ?_); rotate_left; · exact rfl)
    | ((first | intro v' | extract_lets -underBinder +onlyGivenNames v'); (first | (refine_lift have k' : Keeps P' o' v' := ?_; ?_; (on_goal 1 => try clear_value v'); (on_goal 2 => dsimp -zeta only [v'])) | (have k'' : v'.isSome = v'.isSome := rfl; clear k''; clear_value v') | skip))
    | split
    | (clear_value *; split))

theorem State.takeUnit_keeps {P' : Prop} {o' : State} {s : State} (h : Keeps P' o' s) (c : ScanCmd) (st : Nat) :
    Keeps P' o' (State.takeUnit s c st) := by
  unfold State.takeUnit
  repeat' (first
    | with_reducible assumption
    | with_reducible apply State.scanServeAll_keeps
    | with_reducible apply State.setScan_keeps
    | with_reducible apply State.tierLookup_keeps
    | ((with_reducible apply Keeps.foldl); intro s' x' h')
    | ((with_reducible apply Keeps.foldl_fst); intro s' x' h')
    | ((with_reducible apply Keeps.foldl_snd); intro s' x' h')
    | (refine Keeps.of_fst_eq ?_ (by with_reducible assumption))
    | ((first | intro v' | extract_lets -underBinder +onlyGivenNames v'); (first | (refine_lift have k' : Keeps P' o' v' := ?_; ?_; (on_goal 1 => try clear_value v'); (on_goal 2 => dsimp -zeta only [v'])) | (refine_lift have k' : Keeps P' o' v'.1 := ?_; ?_; (on_goal 1 => try clear_value v'); (on_goal 2 => dsimp -zeta only [v'])) | (have k'' : v'.isSome = v'.isSome := rfl; clear k''; clear_value v') | skip))
    | split)

theorem State.serveUnits_keeps {P' : Prop} {o' : State} {s : State} (h : Keeps P' o' s) (c : ScanCmd) (st : Nat) :
    Keeps P' o' (State.serveUnits s c st).1 := by
  unfold State.serveUnits
  repeat' (first
    | with_reducible assumption
    | with_reducible apply State.scanServeAll_keeps
    | ((with_reducible apply Keeps.foldl); intro s' x' h')
    | ((with_reducible apply Keeps.foldl_fst); intro s' x' h')
    | ((with_reducible apply Keeps.foldl_snd); intro s' x' h')
    | (refine Keeps.of_fst_eq ?_ (by with_reducible assumption))
    | ((first | intro v' | extract_lets -underBinder +onlyGivenNames v'); (first | (refine_lift have k' : Keeps P' o' v' := ?_; ?_; (on_goal 1 => try clear_value v'); (on_goal 2 => dsimp -zeta only [v'])) | (refine_lift have k' : Keeps P' o' v'.1 := ?_; ?_; (on_goal 1 => try clear_value v'); (on_goal 2 => dsimp -zeta only [v'])) | (have k'' : v'.isSome = v'.isSome := rfl; clear k''; clear_value v') | skip))
    | split)

theorem State.tryUnit_keeps {P' : Prop} {o' : State} {s : State} (h : Keeps P' o' s) (c : ScanCmd) (st : Nat) (u : UnitOut) :
    Keeps P' o' (State.tryUnit s c st u) := by
  unfold State.tryUnit
  extract_lets r c1
  have k : Keeps P' o' r.1 := State.scanConfirms_keeps h _ _ _
  clear_value r
  split
  · exact State.finishUnit_keeps k _ _ _
  · exact State.setScan_keeps k _

theorem State.scanGoes_keeps {P' : Prop} {o' : State} {s : State} (h : Keeps P' o' s) (p st : Nat) :
    Keeps P' o' (State.scanGoes s p st) := by
  unfold State.scanGoes
  repeat' (first
    | with_reducible assumption
    | with_reducible apply State.closePacket_keeps
    | with_reducible apply State.scanEnds_keeps
    | with_reducible apply State.serveUnits_keeps
    | with_reducible apply State.setScan_keeps
    | with_reducible apply State.takeUnit_keeps
    | with_reducible apply State.tryUnit_keeps
    | (refine Keeps.of_fst_eq ?_ (by with_reducible assumption))
    | ((first | intro v' | extract_lets -underBinder +onlyGivenNames v'); (first | (refine_lift have k' : Keeps P' o' v' := ?_; ?_; (on_goal 1 => try clear_value v'); (on_goal 2 => dsimp -zeta only [v'])) | (refine_lift have k' : Keeps P' o' v'.1 := ?_; ?_; (on_goal 1 => try clear_value v'); (on_goal 2 => dsimp -zeta only [v'])) | (have k'' : v'.isSome = v'.isSome := rfl; clear k''; clear_value v') | skip))
    | split
    | (clear_value *; split))

theorem execScan_keeps {P' : Prop} {o' : State} (q : QueueId) {s : State} (h : Keeps P' o' s) {t : State} (e : execScan q s = .next t) :
    Keeps P' o' t := by
  unfold execScan at e
  injection e with e
  subst e
  repeat' (first
    | with_reducible assumption
    | with_reducible apply State.onEntry_keeps
    | with_reducible apply State.scanTaken_keeps
    | ((with_reducible show ∀ y' : State, Keeps P' o' y' → _); intro y' h')
    | ((with_reducible show ∀ (_ : _) (y' : State), Keeps P' o' y' → _); intro x' y' h')
    | ((with_reducible show ∀ (_ : _) (_ : _) (y' : State), Keeps P' o' y' → _); intro x' z' y' h'))

theorem execScanContextAssign_keeps {P' : Prop} {o' : State} (place : Nat) {s : State} (h : Keeps P' o' s) {t : State} (e : execScanContextAssign place s = .next t) :
    Keeps P' o' t := by
  unfold execScanContextAssign at e
  injection e with e
  subst e
  repeat' (first
    | with_reducible assumption
    | with_reducible apply State.assignScan_keeps
    | with_reducible apply State.scanLoads_keeps
    | split)

theorem State.tierOn_keeps {P' : Prop} {o' : State} {s : State} (h : Keeps P' o' s) :
    Keeps P' o' (State.tierOn s) := by
  unfold State.tierOn
  repeat' (first
    | with_reducible assumption
    | with_reducible apply State.mutateAll_keeps
    | with_reducible apply State.resumeWalker_keeps
    | with_reducible apply State.scanLoads_keeps
    | ((with_reducible apply Keeps.foldl); intro s' x' h')
    | ((with_reducible apply Keeps.foldl_fst); intro s' x' h')
    | ((with_reducible apply Keeps.foldl_snd); intro s' x' h')
    | ((first | intro v' | extract_lets -underBinder +onlyGivenNames v'); (first | (refine_lift have k' : Keeps P' o' v' := ?_; ?_; (on_goal 1 => try clear_value v'); (on_goal 2 => dsimp -zeta only [v'])) | (have k'' : v'.isSome = v'.isSome := rfl; clear k''; clear_value v') | skip))
    | split)

theorem execScanWorkUnit_keeps {P' : Prop} {o' : State} (place : Nat) (st : StationId) {s : State} (h : Keeps P' o' s) {t : State} (e : execScanWorkUnit place st s = .next t) :
    Keeps P' o' t := by
  unfold execScanWorkUnit at e
  injection e with e
  subst e
  repeat' (first
    | with_reducible assumption
    | with_reducible apply State.scanGoes_keeps)

end Sys2Proof.Machine
end

