-- ==== Sys2Proof/Laws/KeepsEmbed.lean ====
section
/-! SUPPORT. What each operation of Machine/Embed.lean keeps (Laws/Keeps.lean). -/

set_option linter.unusedTactic false
set_option linter.unreachableTactic false

namespace Sys2Proof.Machine

theorem State.putEmbed_keeps {P' : Prop} {o' : State} {s : State} (h : Keeps P' o' s) (x : EmbedCmd) :
    Keeps P' o' (State.putEmbed s x) := by
  unfold State.putEmbed
  repeat' (first
    | with_reducible assumption
    | with_reducible apply State.setScans_keeps
    | split)

theorem State.dropRequests_keeps {P' : Prop} {o' : State} {s : State} (h : Keeps P' o' s) (j p : Nat) :
    Keeps P' o' (State.dropRequests s j p) := by
  unfold State.dropRequests
  repeat' (first
    | with_reducible assumption
    | with_reducible apply State.setJob_keeps
    | ((with_reducible refine State.fset_keeps ?_ _ _ _ ?_); rotate_left; · exact rfl)
    | ((first | intro v' | extract_lets -underBinder +onlyGivenNames v'); (first | (refine_lift have k' : Keeps P' o' v' := ?_; ?_; (on_goal 1 => try clear_value v'); (on_goal 2 => dsimp -zeta only [v'])) | (have k'' : v'.isSome = v'.isSome := rfl; clear k''; clear_value v') | skip))
    | split)

theorem State.endEmbed_keeps {P' : Prop} {o' : State} {s : State} (h : Keeps P' o' s) (p status result : Nat) :
    Keeps P' o' (State.endEmbed s p status result) := by
  unfold State.endEmbed
  repeat' (first
    | with_reducible assumption
    | with_reducible apply State.dropEmbed_keeps
    | with_reducible apply State.dropRequests_keeps
    | with_reducible apply State.finish_keeps
    | split)

theorem State.requestBatch_keeps {P' : Prop} {o' : State} {s : State} (h : Keeps P' o' s) (p : Nat) :
    Keeps P' o' (State.requestBatch s p) := by
  unfold State.requestBatch
  repeat' (first
    | with_reducible assumption
    | with_reducible apply State.endEmbed_keeps
    | with_reducible apply State.putEmbed_keeps
    | with_reducible apply State.requestRun_keeps
    | ((first | intro v' | extract_lets -underBinder +onlyGivenNames v'); (first | (refine_lift have k' : Keeps P' o' v' := ?_; ?_; (on_goal 1 => try clear_value v'); (on_goal 2 => dsimp -zeta only [v'])) | (have k'' : v'.isSome = v'.isSome := rfl; clear k''; clear_value v') | skip))
    | split
    | (clear_value *; split))

theorem State.feedEmbed_keeps {P' : Prop} {o' : State} {s : State} (h : Keeps P' o' s) (p : Nat) :
    Keeps P' o' (State.feedEmbed s p) := by
  unfold State.feedEmbed
  repeat' (first
    | with_reducible assumption
    | with_reducible apply State.requestBatch_keeps)

theorem State.startEmbed_keeps {P' : Prop} {o' : State} {s : State} (h : Keeps P' o' s) (x : EmbedCmd) (go : State → State) (h_go : ∀ y0, Keeps P' o' y0 → Keeps P' o' (go y0)) :
    Keeps P' o' (State.startEmbed s x go) := by
  unfold State.startEmbed
  repeat' (first
    | with_reducible assumption
    | with_reducible apply h_go
    | with_reducible apply State.allocScratch_keeps
    | with_reducible apply State.fail_keeps
    | with_reducible apply State.setScans_keeps
    | with_reducible exact Keeps.opt2_none
    | with_reducible apply Keeps.opt2_some
    | (refine Keeps.ofOpt2 ?_ (by with_reducible assumption))
    | ((first | intro v' | extract_lets -underBinder +onlyGivenNames v'); (first | (refine_lift have k' : Keeps P' o' v' := ?_; ?_; (on_goal 1 => try clear_value v'); (on_goal 2 => dsimp -zeta only [v'])) | (refine_lift have k' : Keeps P' o' v'.2 := ?_; ?_; (on_goal 1 => try clear_value v'); (on_goal 2 => dsimp -zeta only [v'])) | (have k'' : v'.isSome = v'.isSome := rfl; clear k''; clear_value v') | skip))
    | split
    | (clear_value *; split))

theorem State.copyItem_keeps {P' : Prop} {o' : State} (x : EmbedCmd) (from_ first : Nat) {s : State} (h : Keeps P' o' s) (i : Nat) :
    Keeps P' o' (State.copyItem x from_ first s i) := by
  unfold State.copyItem
  repeat' (first
    | with_reducible assumption
    | with_reducible apply State.sendData_keeps
    | with_reducible apply State.storeFor_keeps
    | ((first | intro v' | extract_lets -underBinder +onlyGivenNames v'); (first | (refine_lift have k' : Keeps P' o' v' := ?_; ?_; (on_goal 1 => try clear_value v'); (on_goal 2 => dsimp -zeta only [v'])) | (have k'' : v'.isSome = v'.isSome := rfl; clear k''; clear_value v') | skip))
    | split)

theorem State.embedded_keeps {P' : Prop} {o' : State} {s : State} (h : Keeps P' o' s) (x : EmbedCmd) :
    Keeps P' o' (State.embedded s x) := by
  unfold State.embedded
  repeat' (first
    | with_reducible assumption
    | with_reducible apply State.endEmbed_keeps
    | with_reducible apply State.joinMutators_keeps
    | split)

theorem State.leftRun_keeps {P' : Prop} {o' : State} {s : State} (h : Keeps P' o' s) (x : EmbedCmd) :
    Keeps P' o' (State.leftRun s x) := by
  unfold State.leftRun
  repeat' (first
    | with_reducible assumption
    | with_reducible apply State.dropEmbed_keeps
    | with_reducible apply State.putEmbed_keeps
    | ((first | intro v' | extract_lets -underBinder +onlyGivenNames v'); (first | (refine_lift have k' : Keeps P' o' v' := ?_; ?_; (on_goal 1 => try clear_value v'); (on_goal 2 => dsimp -zeta only [v'])) | (have k'' : v'.isSome = v'.isSome := rfl; clear k''; clear_value v') | skip))
    | split)

theorem State.embedRan_keeps {P' : Prop} {o' : State} {s : State} (h : Keeps P' o' s) (p first n status : Nat) (abandoned : Bool) :
    Keeps P' o' (State.embedRan s p first n status abandoned) := by
  unfold State.embedRan
  repeat' (first
    | with_reducible assumption
    | with_reducible apply State.copyItem_keeps
    | with_reducible apply State.embedded_keeps
    | with_reducible apply State.endEmbed_keeps
    | with_reducible apply State.feedEmbed_keeps
    | with_reducible apply State.leftRun_keeps
    | with_reducible apply State.putEmbed_keeps
    | ((with_reducible apply Keeps.foldl); intro s' x' h')
    | ((with_reducible apply Keeps.foldl_fst); intro s' x' h')
    | ((with_reducible apply Keeps.foldl_snd); intro s' x' h')
    | ((with_reducible refine State.bump_keeps ?_ _ _ _ ?_); rotate_left; · exact rfl)
    | ((first | intro v' | extract_lets -underBinder +onlyGivenNames v'); (first | (refine_lift have k' : Keeps P' o' v' := ?_; ?_; (on_goal 1 => try clear_value v'); (on_goal 2 => dsimp -zeta only [v'])) | (have k'' : v'.isSome = v'.isSome := rfl; clear k''; clear_value v') | skip))
    | split
    | (clear_value *; split))

theorem State.embedTaken_keeps {P' : Prop} {o' : State} (p : Nat) (e : List Byte) {s : State} (h : Keeps P' o' s) :
    Keeps P' o' (State.embedTaken p e s) := by
  unfold State.embedTaken
  repeat' (first
    | with_reducible assumption
    | with_reducible apply State.fail_keeps
    | with_reducible apply State.feedEmbed_keeps
    | with_reducible apply State.startEmbed_keeps
    | ((with_reducible show ∀ y' : State, Keeps P' o' y' → _); intro y' h')
    | ((with_reducible show ∀ (_ : _) (y' : State), Keeps P' o' y' → _); intro x' y' h')
    | ((with_reducible show ∀ (_ : _) (_ : _) (y' : State), Keeps P' o' y' → _); intro x' z' y' h')
    | ((first | intro v' | extract_lets -underBinder +onlyGivenNames v'); (first | (refine_lift have k' : Keeps P' o' v' := ?_; ?_; (on_goal 1 => try clear_value v'); (on_goal 2 => dsimp -zeta only [v'])) | (have k'' : v'.isSome = v'.isSome := rfl; clear k''; clear_value v') | skip))
    | split)

theorem State.ingestTaken_keeps {P' : Prop} {o' : State} (p : Nat) (e : List Byte) {s : State} (h : Keeps P' o' s) :
    Keeps P' o' (State.ingestTaken p e s) := by
  unfold State.ingestTaken
  repeat' (first
    | with_reducible assumption
    | with_reducible apply State.fail_keeps
    | with_reducible apply State.setCmd_keeps
    | with_reducible apply State.startEmbed_keeps
    | with_reducible apply State.withRoot_keeps
    | with_reducible apply State.writeGo_keeps
    | ((with_reducible show ∀ y' : State, Keeps P' o' y' → _); intro y' h')
    | ((with_reducible show ∀ (_ : _) (y' : State), Keeps P' o' y' → _); intro x' y' h')
    | ((with_reducible show ∀ (_ : _) (_ : _) (y' : State), Keeps P' o' y' → _); intro x' z' y' h')
    | ((first | intro v' | extract_lets -underBinder +onlyGivenNames v'); (first | (refine_lift have k' : Keeps P' o' v' := ?_; ?_; (on_goal 1 => try clear_value v'); (on_goal 2 => dsimp -zeta only [v'])) | (have k'' : v'.isSome = v'.isSome := rfl; clear k''; clear_value v') | skip))
    | split)

theorem State.ingestGoes_keeps {P' : Prop} {o' : State} {s : State} (h : Keeps P' o' s) (p : Nat) :
    Keeps P' o' (State.ingestGoes s p) := by
  unfold State.ingestGoes
  repeat' (first
    | with_reducible assumption
    | with_reducible apply State.feedEmbed_keeps
    | with_reducible apply State.setCmd_keeps
    | with_reducible apply State.wrote_keeps
    | ((first | intro v' | extract_lets -underBinder +onlyGivenNames v'); (first | (refine_lift have k' : Keeps P' o' v' := ?_; ?_; (on_goal 1 => try clear_value v'); (on_goal 2 => dsimp -zeta only [v'])) | (have k'' : v'.isSome = v'.isSome := rfl; clear k''; clear_value v') | skip))
    | split)

theorem State.ingestsGo_keeps {P' : Prop} {o' : State} {s : State} (h : Keeps P' o' s) :
    Keeps P' o' (State.ingestsGo s) := by
  unfold State.ingestsGo
  repeat' (first
    | with_reducible assumption
    | with_reducible apply State.ingestGoes_keeps
    | ((with_reducible apply Keeps.foldl); intro s' x' h')
    | ((with_reducible apply Keeps.foldl_fst); intro s' x' h')
    | ((with_reducible apply Keeps.foldl_snd); intro s' x' h'))

theorem execEmbed_keeps {P' : Prop} {o' : State} (q : QueueId) {s : State} (h : Keeps P' o' s) {t : State} (e : execEmbed q s = .next t) :
    Keeps P' o' t := by
  unfold execEmbed at e
  injection e with e
  subst e
  repeat' (first
    | with_reducible assumption
    | with_reducible apply State.embedTaken_keeps
    | with_reducible apply State.onEntry_keeps
    | ((with_reducible show ∀ y' : State, Keeps P' o' y' → _); intro y' h')
    | ((with_reducible show ∀ (_ : _) (y' : State), Keeps P' o' y' → _); intro x' y' h')
    | ((with_reducible show ∀ (_ : _) (_ : _) (y' : State), Keeps P' o' y' → _); intro x' z' y' h'))

theorem execIngest_keeps {P' : Prop} {o' : State} (q : QueueId) {s : State} (h : Keeps P' o' s) {t : State} (e : execIngest q s = .next t) :
    Keeps P' o' t := by
  unfold execIngest at e
  injection e with e
  subst e
  repeat' (first
    | with_reducible assumption
    | with_reducible apply State.ingestTaken_keeps
    | with_reducible apply State.onEntry_keeps
    | ((with_reducible show ∀ y' : State, Keeps P' o' y' → _); intro y' h')
    | ((with_reducible show ∀ (_ : _) (y' : State), Keeps P' o' y' → _); intro x' y' h')
    | ((with_reducible show ∀ (_ : _) (_ : _) (y' : State), Keeps P' o' y' → _); intro x' z' y' h'))

theorem execContentWriteTurn_keeps {P' : Prop} {o' : State} (page : Nat) {s : State} (h : Keeps P' o' s) {t : State} (e : execContentWriteTurn page s = .next t) :
    Keeps P' o' t := by
  unfold execContentWriteTurn at e
  injection e with e
  subst e
  repeat' (first
    | with_reducible assumption
    | with_reducible apply State.ingestsGo_keeps
    | with_reducible apply State.tierOn_keeps
    | with_reducible apply State.turn_keeps)

theorem execDirtyLimitRelease_keeps {P' : Prop} {o' : State} (page : Nat) {s : State} (h : Keeps P' o' s) {t : State} (e : execDirtyLimitRelease page s = .next t) :
    Keeps P' o' t := by
  unfold execDirtyLimitRelease at e
  injection e with e
  subst e
  repeat' (first
    | with_reducible assumption
    | with_reducible apply State.ingestsGo_keeps
    | with_reducible apply State.releaseLimit_keeps
    | with_reducible apply State.tierOn_keeps)

end Sys2Proof.Machine
end

