-- ==== Sys2Proof/Laws/KeepsBatch.lean ====
section
/-! SUPPORT. What each operation of Machine/Batch.lean keeps (Laws/Keeps.lean). -/

set_option linter.unusedTactic false
set_option linter.unreachableTactic false

namespace Sys2Proof.Machine

theorem State.rowDone_keeps {P' : Prop} {o' : State} {s : State} (h : Keeps P' o' s) (p status : Nat) (written : Bool) :
    Keeps P' o' (State.rowDone s p status written) := by
  unfold State.rowDone
  repeat' (first
    | with_reducible assumption
    | with_reducible apply State.finish_keeps
    | with_reducible apply State.setCmd_keeps
    | ((first | intro v' | extract_lets -underBinder +onlyGivenNames v'); (first | (refine_lift have k' : Keeps P' o' v' := ?_; ?_; (on_goal 1 => try clear_value v'); (on_goal 2 => dsimp -zeta only [v'])) | (have k'' : v'.isSome = v'.isSome := rfl; clear k''; clear_value v') | skip))
    | split)

theorem State.outputRow_keeps {P' : Prop} {o' : State} (recorded : List (Nat × Nat)) (size from_ : Nat) {s : State} (h : Keeps P' o' s) (x : BatchRow × Nat) :
    Keeps P' o' (State.outputRow recorded size from_ s x) := by
  unfold State.outputRow
  repeat' (first
    | with_reducible assumption
    | with_reducible apply State.rowDone_keeps
    | with_reducible apply State.sendData_keeps
    | with_reducible apply State.storeFor_keeps
    | ((first | intro v' | extract_lets -underBinder +onlyGivenNames v'); (first | (refine_lift have k' : Keeps P' o' v' := ?_; ?_; (on_goal 1 => try clear_value v'); (on_goal 2 => dsimp -zeta only [v'])) | (have k'' : v'.isSome = v'.isSome := rfl; clear k''; clear_value v') | skip))
    | split
    | (clear_value *; split))

theorem State.outputRows_keeps {P' : Prop} {o' : State} {s : State} (h : Keeps P' o' s) (rows : List BatchRow) (recorded : List (Nat × Nat)) (size from_ : Nat) :
    Keeps P' o' (State.outputRows s rows recorded size from_) := by
  unfold State.outputRows
  repeat' (first
    | with_reducible assumption
    | with_reducible apply State.outputRow_keeps
    | ((with_reducible apply Keeps.foldl); intro s' x' h')
    | ((with_reducible apply Keeps.foldl_fst); intro s' x' h')
    | ((with_reducible apply Keeps.foldl_snd); intro s' x' h'))

theorem State.spoilOutputs_keeps {P' : Prop} {o' : State} {s : State} (h : Keeps P' o' s) (p : Nat) :
    Keeps P' o' (State.spoilOutputs s p) := by
  unfold State.spoilOutputs
  repeat' (first
    | with_reducible assumption
    | with_reducible apply State.store_keeps
    | with_reducible apply State.drawBytes_keeps
    | ((first | intro v' | extract_lets -underBinder +onlyGivenNames v'); (first | (refine_lift have k' : Keeps P' o' v' := ?_; ?_; (on_goal 1 => try clear_value v'); (on_goal 2 => dsimp -zeta only [v'])) | (refine_lift have k' : Keeps P' o' v'.2 := ?_; ?_; (on_goal 1 => try clear_value v'); (on_goal 2 => dsimp -zeta only [v'])) | (have k'' : v'.isSome = v'.isSome := rfl; clear k''; clear_value v') | skip))
    | split)

theorem State.failRows_keeps {P' : Prop} {o' : State} {s : State} (h : Keeps P' o' s) (rows : List BatchRow) (status : Nat) :
    Keeps P' o' (State.failRows s rows status) := by
  unfold State.failRows
  repeat' (first
    | with_reducible assumption
    | with_reducible apply State.finish_keeps
    | ((with_reducible apply Keeps.foldl); intro s' x' h')
    | ((with_reducible apply Keeps.foldl_fst); intro s' x' h')
    | ((with_reducible apply Keeps.foldl_snd); intro s' x' h'))

end Sys2Proof.Machine
end

