-- ==== Sys2Proof/Laws/KeepsLines.lean ====
section
/-! SUPPORT. What each operation of Machine/Lines.lean keeps (Laws/Keeps.lean). -/

set_option linter.unusedTactic false
set_option linter.unreachableTactic false

namespace Sys2Proof.Machine

theorem State.lineCtr_keeps {P' : Prop} {o' : State} {s : State} (h : Keeps P' o' s) (b i n : Nat) :
    Keeps P' o' (State.lineCtr s b i n) := by
  unfold State.lineCtr
  repeat' (first
    | with_reducible assumption
    | ((with_reducible refine State.bump_keeps ?_ _ _ _ ?_); rotate_left; · exact rfl))

theorem State.showLine_keeps {P' : Prop} {o' : State} {s : State} (h : Keeps P' o' s) (b : Nat) :
    Keeps P' o' (State.showLine s b) := by
  unfold State.showLine
  repeat' (first
    | with_reducible assumption
    | ((with_reducible refine State.fset_keeps ?_ _ _ _ ?_); rotate_left; · exact rfl))

theorem State.sendPayload_keeps {P' : Prop} {o' : State} {s : State} (h : Keeps P' o' s) (b v : Nat) :
    Keeps P' o' (State.sendPayload s b v) := by
  unfold State.sendPayload
  repeat' (first
    | with_reducible assumption
    | with_reducible apply State.lineCtr_keeps
    | with_reducible apply State.setLine_keeps
    | with_reducible apply State.showLine_keeps
    | ((first | intro v' | extract_lets -underBinder +onlyGivenNames v'); (first | (refine_lift have k' : Keeps P' o' v' := ?_; ?_; (on_goal 1 => try clear_value v'); (on_goal 2 => dsimp -zeta only [v'])) | (have k'' : v'.isSome = v'.isSome := rfl; clear k''; clear_value v') | skip))
    | split)

theorem State.sendFlit_keeps {P' : Prop} {o' : State} {s : State} (h : Keeps P' o' s) (b : Nat) :
    Keeps P' o' (State.sendFlit s b) := by
  unfold State.sendFlit
  repeat' (first
    | with_reducible assumption
    | with_reducible apply State.lineCtr_keeps
    | with_reducible apply State.sendPayload_keeps
    | with_reducible apply State.setLine_keeps
    | ((first | intro v' | extract_lets -underBinder +onlyGivenNames v'); (first | (refine_lift have k' : Keeps P' o' v' := ?_; ?_; (on_goal 1 => try clear_value v'); (on_goal 2 => dsimp -zeta only [v'])) | (have k'' : v'.isSome = v'.isSome := rfl; clear k''; clear_value v') | skip))
    | split
    | (clear_value *; split))

theorem State.startReplay_keeps {P' : Prop} {o' : State} {s : State} (h : Keeps P' o' s) (b : Nat) :
    Keeps P' o' (State.startReplay s b) := by
  unfold State.startReplay
  repeat' (first
    | with_reducible assumption
    | with_reducible apply State.lineCtr_keeps
    | with_reducible apply State.setLine_keeps
    | with_reducible apply State.showLine_keeps
    | ((first | intro v' | extract_lets -underBinder +onlyGivenNames v'); (first | (refine_lift have k' : Keeps P' o' v' := ?_; ?_; (on_goal 1 => try clear_value v'); (on_goal 2 => dsimp -zeta only [v'])) | (have k'' : v'.isSome = v'.isSome := rfl; clear k''; clear_value v') | skip))
    | split)

theorem State.takeFlit_keeps {P' : Prop} {o' : State} {s : State} (h : Keeps P' o' s) (b : Nat) (f : List Byte) :
    Keeps P' o' (State.takeFlit s b f) := by
  unfold State.takeFlit
  repeat' (first
    | with_reducible assumption
    | with_reducible apply State.lineCtr_keeps
    | with_reducible apply State.setLine_keeps
    | with_reducible apply State.startReplay_keeps
    | ((first | intro v' | extract_lets -underBinder +onlyGivenNames v'); (first | (refine_lift have k' : Keeps P' o' v' := ?_; ?_; (on_goal 1 => try clear_value v'); (on_goal 2 => dsimp -zeta only [v'])) | (have k'' : v'.isSome = v'.isSome := rfl; clear k''; clear_value v') | skip))
    | split)

theorem State.queueOn_keeps {P' : Prop} {o' : State} {s0 : State} (h : Keeps P' o' s0) (b : Nat) (p : List Byte) :
    Keeps P' o' (State.queueOn s0 b p) := by
  unfold State.queueOn
  repeat' (first
    | with_reducible assumption
    | with_reducible apply State.crossPacket_keeps
    | with_reducible apply State.setLine_keeps
    | with_reducible apply State.showLine_keeps
    | ((first | intro v' | extract_lets -underBinder +onlyGivenNames v'); (first | (refine_lift have k' : Keeps P' o' v' := ?_; ?_; (on_goal 1 => try clear_value v'); (on_goal 2 => dsimp -zeta only [v'])) | (have k'' : v'.isSome = v'.isSome := rfl; clear k''; clear_value v') | skip))
    | split)

theorem State.sendLinkStates_keeps {P' : Prop} {o' : State} {s : State} (h : Keeps P' o' s) :
    Keeps P' o' (State.sendLinkStates s) := by
  unfold State.sendLinkStates
  repeat' (first
    | with_reducible assumption
    | with_reducible apply State.queueOn_keeps
    | ((with_reducible apply Keeps.foldl); intro s' x' h')
    | ((with_reducible apply Keeps.foldl_fst); intro s' x' h')
    | ((with_reducible apply Keeps.foldl_snd); intro s' x' h'))

theorem State.lineTo_keeps {P' : Prop} {o' : State} {s : State} (h : Keeps P' o' s) (b st : Nat) :
    Keeps P' o' (State.lineTo s b st) := by
  unfold State.lineTo
  repeat' (first
    | with_reducible assumption
    | with_reducible apply State.sendLinkStates_keeps
    | with_reducible apply State.showLine_keeps
    | ((with_reducible refine State.fset_keeps ?_ _ _ _ ?_); rotate_left; · exact rfl)
    | split)

theorem State.usedLine_keeps {P' : Prop} {o' : State} {s : State} (h : Keeps P' o' s) (m b : Nat) :
    Keeps P' o' (State.usedLine s m b) := by
  unfold State.usedLine
  repeat' (first
    | with_reducible assumption
    | with_reducible apply State.setMesh_keeps)

theorem State.sendTo_keeps {P' : Prop} {o' : State} {s : State} (h : Keeps P' o' s) (n m : Nat) (p : List Byte) (without : List Nat) :
    KeepsOpt P' o' (State.sendTo s n m p without) := by
  unfold State.sendTo
  repeat' (first
    | with_reducible assumption
    | with_reducible exact Keeps.opt_none
    | with_reducible apply Keeps.opt_some
    | with_reducible exact Keeps.opt1_none
    | with_reducible apply Keeps.opt1_some
    | with_reducible exact Keeps.opt2_none
    | with_reducible apply Keeps.opt2_some
    | (with_reducible apply Keeps.opt2_map; intro x''; with_reducible apply Keeps.foldl; intro s' x' h')
    | with_reducible apply State.lineCtr_keeps
    | with_reducible apply State.queueOn_keeps
    | with_reducible apply State.setMesh_keeps
    | with_reducible apply State.usedLine_keeps
    | ((first | intro v' | extract_lets -underBinder +onlyGivenNames v'); (first | (refine_lift have k' : Keeps P' o' v' := ?_; ?_; (on_goal 1 => try clear_value v'); (on_goal 2 => dsimp -zeta only [v'])) | (have k'' : v'.isSome = v'.isSome := rfl; clear k''; clear_value v') | skip))
    | split
    | (clear_value *; split))

theorem State.newTag_keeps {P' : Prop} {o' : State} {s : State} (h : Keeps P' o' s) :
    Keeps P' o' (State.newTag s).2 := by
  unfold State.newTag
  repeat' (first
    | with_reducible assumption
    | with_reducible apply State.setMesh_keeps)

theorem State.takeIn_keeps {P' : Prop} {o' : State} {s : State} (h : Keeps P' o' s) (b : Nat) (p : Packet) :
    Keeps P' o' (State.takeIn s b p) := by
  unfold State.takeIn
  repeat' (first
    | with_reducible assumption
    | with_reducible apply State.setLine_keeps
    | ((first | intro v' | extract_lets -underBinder +onlyGivenNames v'); (first | (refine_lift have k' : Keeps P' o' v' := ?_; ?_; (on_goal 1 => try clear_value v'); (on_goal 2 => dsimp -zeta only [v'])) | (have k'' : v'.isSome = v'.isSome := rfl; clear k''; clear_value v') | skip))
    | split)

theorem State.discardIn_keeps {P' : Prop} {o' : State} {s : State} (h : Keeps P' o' s) (b : Nat) (p : Packet) :
    Keeps P' o' (State.discardIn s b p) := by
  unfold State.discardIn
  repeat' (first
    | with_reducible assumption
    | with_reducible apply State.lineCtr_keeps
    | with_reducible apply State.takeIn_keeps)

end Sys2Proof.Machine
end

