-- ==== Sys2Proof/Laws/KeepsMesh.lean ====
section
/-! SUPPORT. What each operation of Machine/Mesh.lean keeps (Laws/Keeps.lean). -/

set_option linter.unusedTactic false
set_option linter.unreachableTactic false

namespace Sys2Proof.Machine

theorem Keeps.opt_getD {P : Prop} {a : State} {o : Option State} {d : State} (h : KeepsOpt P a o) (hd : Keeps P a d) :
    Keeps P a (o.getD d) := by
  cases o with
  | none => exact hd
  | some x => exact h.of _ rfl

theorem State.meshCtr_keeps {P' : Prop} {o' : State} {s : State} (h : Keeps P' o' s) (i n : Nat) :
    Keeps P' o' (State.meshCtr s i n) := by
  unfold State.meshCtr
  repeat' (first
    | with_reducible assumption
    | ((with_reducible refine State.bump_keeps ?_ _ _ _ ?_); rotate_left; · exact rfl))

theorem State.showBind_keeps {P' : Prop} {o' : State} {s : State} (h : Keeps P' o' s) (n : Nat) :
    Keeps P' o' (State.showBind s n) := by
  unfold State.showBind
  repeat' (first
    | with_reducible assumption
    | ((with_reducible refine State.fset_keeps ?_ _ _ _ ?_); rotate_left; · exact rfl)
    | ((first | intro v' | extract_lets -underBinder +onlyGivenNames v'); (first | (refine_lift have k' : Keeps P' o' v' := ?_; ?_; (on_goal 1 => try clear_value v'); (on_goal 2 => dsimp -zeta only [v'])) | (have k'' : v'.isSome = v'.isSome := rfl; clear k''; clear_value v') | skip))
    | split)

theorem State.putStep_keeps {P' : Prop} {o' : State} {s : State} (h : Keeps P' o' s) (n : Nat) (x : Step) :
    Keeps P' o' (State.putStep s n x) := by
  unfold State.putStep
  repeat' (first
    | with_reducible assumption
    | with_reducible apply State.setMstep_keeps
    | with_reducible apply State.showBind_keeps)

theorem State.closeStep_keeps {P' : Prop} {o' : State} {s : State} (h : Keeps P' o' s) (n status : Nat) :
    Keeps P' o' (State.closeStep s n status) := by
  unfold State.closeStep
  repeat' (first
    | with_reducible assumption
    | with_reducible apply State.meshCtr_keeps
    | with_reducible apply State.putStep_keeps
    | with_reducible apply State.setMesh_keeps
    | ((with_reducible apply Keeps.foldl); intro s' x' h')
    | ((with_reducible apply Keeps.foldl_fst); intro s' x' h')
    | ((with_reducible apply Keeps.foldl_snd); intro s' x' h')
    | ((with_reducible refine State.fset_keeps ?_ _ _ _ ?_); rotate_left; · exact rfl)
    | ((first | intro v' | extract_lets -underBinder +onlyGivenNames v'); (first | (refine_lift have k' : Keeps P' o' v' := ?_; ?_; (on_goal 1 => try clear_value v'); (on_goal 2 => dsimp -zeta only [v'])) | (have k'' : v'.isSome = v'.isSome := rfl; clear k''; clear_value v') | skip))
    | split)

theorem State.dropStepRequests_keeps {P' : Prop} {o' : State} {s : State} (h : Keeps P' o' s) (n : Nat) :
    Keeps P' o' (State.dropStepRequests s n) := by
  unfold State.dropStepRequests
  repeat' (first
    | with_reducible assumption
    | with_reducible apply State.setJob_keeps
    | ((with_reducible apply Keeps.foldl); intro s' x' h')
    | ((with_reducible apply Keeps.foldl_fst); intro s' x' h')
    | ((with_reducible apply Keeps.foldl_snd); intro s' x' h')
    | ((with_reducible refine State.fset_keeps ?_ _ _ _ ?_); rotate_left; · exact rfl)
    | ((first | intro v' | extract_lets -underBinder +onlyGivenNames v'); (first | (refine_lift have k' : Keeps P' o' v' := ?_; ?_; (on_goal 1 => try clear_value v'); (on_goal 2 => dsimp -zeta only [v'])) | (have k'' : v'.isSome = v'.isSome := rfl; clear k''; clear_value v') | skip))
    | split)

theorem State.settleAbort_keeps {P' : Prop} {o' : State} {s : State} (h : Keeps P' o' s) (n : Nat) :
    Keeps P' o' (State.settleAbort s n) := by
  unfold State.settleAbort
  repeat' (first
    | with_reducible assumption
    | with_reducible apply State.closeStep_keeps
    | with_reducible apply State.failRows_keeps
    | with_reducible apply State.meshCtr_keeps
    | with_reducible apply State.spoilOutputs_keeps
    | ((with_reducible apply Keeps.foldl); intro s' x' h')
    | ((with_reducible apply Keeps.foldl_fst); intro s' x' h')
    | ((with_reducible apply Keeps.foldl_snd); intro s' x' h')
    | ((first | intro v' | extract_lets -underBinder +onlyGivenNames v'); (first | (refine_lift have k' : Keeps P' o' v' := ?_; ?_; (on_goal 1 => try clear_value v'); (on_goal 2 => dsimp -zeta only [v'])) | (have k'' : v'.isSome = v'.isSome := rfl; clear k''; clear_value v') | skip))
    | split
    | (clear_value *; split))

theorem State.abortStep_keeps {P' : Prop} {o' : State} {s : State} (h : Keeps P' o' s) (n status : Nat) (tell : Bool) :
    Keeps P' o' (State.abortStep s n status tell) := by
  unfold State.abortStep
  dsimp only
  split
  · exact h
  · refine State.settleAbort_keeps (State.showBind_keeps (State.dropStepRequests_keeps (State.setMstep_keeps ?_ _ _) _) _) _
    split
    · split
      · exact Keeps.foldl (fun s' x' h' => Keeps.opt_getD (State.sendTo_keeps h' _ _ _ _) h') _ h
      · exact h
    · exact h

theorem State.endStep_keeps {P' : Prop} {o' : State} {s : State} (h : Keeps P' o' s) (n : Nat) :
    Keeps P' o' (State.endStep s n) := by
  unfold State.endStep
  repeat' (first
    | with_reducible assumption
    | with_reducible apply State.closeStep_keeps
    | with_reducible apply State.meshCtr_keeps
    | with_reducible apply State.outputRows_keeps
    | ((first | intro v' | extract_lets -underBinder +onlyGivenNames v'); (first | (refine_lift have k' : Keeps P' o' v' := ?_; ?_; (on_goal 1 => try clear_value v'); (on_goal 2 => dsimp -zeta only [v'])) | (have k'' : v'.isSome = v'.isSome := rfl; clear k''; clear_value v') | skip))
    | split
    | (clear_value *; split))

theorem State.sendPart_keeps {P' : Prop} {o' : State} {s : State} (h : Keeps P' o' s) (n m : Nat) (p : List Byte) :
    Keeps P' o' (State.sendPart s n m p) := by
  unfold State.sendPart
  repeat' (first
    | with_reducible assumption
    | with_reducible apply State.abortStep_keeps
    | with_reducible apply State.sendTo_keeps
    | (refine Keeps.ofOpt ?_ (by with_reducible assumption))
    | split)

theorem State.sendReturns_keeps {P' : Prop} {o' : State} {s : State} (h : Keeps P' o' s) (t : List Byte) (n m layer : Nat) (abandoned : Bool) (x0 : Nat) (x1 : List (List Byte)) :
    Keeps P' o' (State.sendReturns s t n m layer abandoned x0 x1) := by
  induction x0 generalizing s t n m layer abandoned x1 with
  | zero =>
    unfold State.sendReturns
    repeat' (first
      | with_reducible assumption
      | with_reducible apply State.newTag_keeps
      | with_reducible apply State.sendPart_keeps
      | (refine Keeps.of_snd_eq ?_ (by with_reducible assumption))
      | ((first | intro v' | extract_lets -underBinder +onlyGivenNames v'); (first | (refine_lift have k' : Keeps P' o' v' := ?_; ?_; (on_goal 1 => try clear_value v'); (on_goal 2 => dsimp -zeta only [v'])) | (refine_lift have k' : Keeps P' o' v'.2 := ?_; ?_; (on_goal 1 => try clear_value v'); (on_goal 2 => dsimp -zeta only [v'])) | (have k'' : v'.isSome = v'.isSome := rfl; clear k''; clear_value v') | skip))
      | split)
  | succ n ih =>
    cases x1 <;> unfold State.sendReturns <;>
      (repeat' (first
      | with_reducible assumption
      | with_reducible apply ih
      | with_reducible apply State.newTag_keeps
      | with_reducible apply State.sendPart_keeps
      | (refine Keeps.of_snd_eq ?_ (by with_reducible assumption))
      | ((first | intro v' | extract_lets -underBinder +onlyGivenNames v'); (first | (refine_lift have k' : Keeps P' o' v' := ?_; ?_; (on_goal 1 => try clear_value v'); (on_goal 2 => dsimp -zeta only [v'])) | (refine_lift have k' : Keeps P' o' v'.2 := ?_; ?_; (on_goal 1 => try clear_value v'); (on_goal 2 => dsimp -zeta only [v'])) | (have k'' : v'.isSome = v'.isSome := rfl; clear k''; clear_value v') | skip))
      | split))

theorem State.returnRow_keeps {P' : Prop} {o' : State} {s : State} (h : Keeps P' o' s) (t : List Byte) (n row slot : Nat) (bs : List Byte) :
    Keeps P' o' (State.returnRow s t n row slot bs) := by
  unfold State.returnRow
  repeat' (first
    | with_reducible assumption
    | with_reducible apply State.setMstep_keeps
    | with_reducible apply State.store_keeps
    | ((first | intro v' | extract_lets -underBinder +onlyGivenNames v'); (first | (refine_lift have k' : Keeps P' o' v' := ?_; ?_; (on_goal 1 => try clear_value v'); (on_goal 2 => dsimp -zeta only [v'])) | (have k'' : v'.isSome = v'.isSome := rfl; clear k''; clear_value v') | skip))
    | split)

theorem State.returnChunk_keeps {P' : Prop} {o' : State} {s : State} (h : Keeps P' o' s) (t : List Byte) (n : Nat) (c : Chunk) :
    Keeps P' o' (State.returnChunk s t n c) := by
  unfold State.returnChunk
  repeat' (first
    | with_reducible assumption
    | with_reducible apply State.abortStep_keeps
    | with_reducible apply State.returnRow_keeps
    | with_reducible apply State.sendReturns_keeps
    | ((with_reducible apply Keeps.foldl); intro s' x' h')
    | ((with_reducible apply Keeps.foldl_fst); intro s' x' h')
    | ((with_reducible apply Keeps.foldl_snd); intro s' x' h')
    | ((first | intro v' | extract_lets -underBinder +onlyGivenNames v'); (first | (refine_lift have k' : Keeps P' o' v' := ?_; ?_; (on_goal 1 => try clear_value v'); (on_goal 2 => dsimp -zeta only [v'])) | (have k'' : v'.isSome = v'.isSome := rfl; clear k''; clear_value v') | skip))
    | split)

theorem State.giveChunk_keeps {P' : Prop} {o' : State} (t : List Byte) (n : Nat) {s : State} (h : Keeps P' o' s) (i : Nat) :
    Keeps P' o' (State.giveChunk t n s i) := by
  unfold State.giveChunk
  repeat' (first
    | with_reducible assumption
    | with_reducible apply State.abortStep_keeps
    | with_reducible apply State.meshCtr_keeps
    | with_reducible apply State.requestRun_keeps
    | with_reducible apply State.setMstep_keeps
    | ((first | intro v' | extract_lets -underBinder +onlyGivenNames v'); (first | (refine_lift have k' : Keeps P' o' v' := ?_; ?_; (on_goal 1 => try clear_value v'); (on_goal 2 => dsimp -zeta only [v'])) | (have k'' : v'.isSome = v'.isSome := rfl; clear k''; clear_value v') | skip))
    | split
    | (clear_value *; split))

theorem State.giveChunks_keeps {P' : Prop} {o' : State} {s : State} (h : Keeps P' o' s) (t : List Byte) (n : Nat) :
    Keeps P' o' (State.giveChunks s t n) := by
  unfold State.giveChunks
  repeat' (first
    | with_reducible assumption
    | with_reducible apply State.giveChunk_keeps
    | ((with_reducible apply Keeps.foldl); intro s' x' h')
    | ((with_reducible apply Keeps.foldl_fst); intro s' x' h')
    | ((with_reducible apply Keeps.foldl_snd); intro s' x' h'))

theorem State.writeCount_keeps {P' : Prop} {o' : State} {s : State} (h : Keeps P' o' s) (t : List Byte) (n u c : Nat) :
    Keeps P' o' (State.writeCount s t n u c) := by
  unfold State.writeCount
  repeat' (first
    | with_reducible assumption
    | with_reducible apply State.storeNat_keeps)

theorem State.storePart_keeps {P' : Prop} {o' : State} (t : List Byte) (n src row : Nat) (head hidden : List Byte) {s : State} (h : Keeps P' o' s) (i : Nat) :
    Keeps P' o' (State.storePart t n src row head hidden s i) := by
  unfold State.storePart
  repeat' (first
    | with_reducible assumption
    | with_reducible apply State.abortStep_keeps
    | with_reducible apply State.event_keeps
    | with_reducible apply State.setMstep_keeps
    | with_reducible apply State.store_keeps
    | with_reducible apply State.storeNat_keeps
    | with_reducible apply State.writeCount_keeps
    | ((first | intro v' | extract_lets -underBinder +onlyGivenNames v'); (first | (refine_lift have k' : Keeps P' o' v' := ?_; ?_; (on_goal 1 => try clear_value v'); (on_goal 2 => dsimp -zeta only [v'])) | (have k'' : v'.isSome = v'.isSome := rfl; clear k''; clear_value v') | skip))
    | split)

theorem State.storeEntry_keeps {P' : Prop} {o' : State} (t : List Byte) (n src : Nat) (body : List Byte) {s : State} (h : Keeps P' o' s) (k : Nat) :
    Keeps P' o' (State.storeEntry t n src body s k) := by
  unfold State.storeEntry
  repeat' (first
    | with_reducible assumption
    | with_reducible apply State.storePart_keeps
    | ((with_reducible apply Keeps.foldl); intro s' x' h')
    | ((with_reducible apply Keeps.foldl_fst); intro s' x' h')
    | ((with_reducible apply Keeps.foldl_snd); intro s' x' h')
    | ((first | intro v' | extract_lets -underBinder +onlyGivenNames v'); (first | (refine_lift have k' : Keeps P' o' v' := ?_; ?_; (on_goal 1 => try clear_value v'); (on_goal 2 => dsimp -zeta only [v'])) | (have k'' : v'.isSome = v'.isSome := rfl; clear k''; clear_value v') | skip))
    | split)

theorem State.takeLayerPart_keeps {P' : Prop} {o' : State} (t : List Byte) (n : Nat) {s : State} (h : Keeps P' o' s) (p : List Byte) :
    Keeps P' o' (State.takeLayerPart t n s p) := by
  unfold State.takeLayerPart
  repeat' (first
    | with_reducible assumption
    | with_reducible apply State.setMstep_keeps
    | with_reducible apply State.storeEntry_keeps
    | ((with_reducible apply Keeps.foldl); intro s' x' h')
    | ((with_reducible apply Keeps.foldl_fst); intro s' x' h')
    | ((with_reducible apply Keeps.foldl_snd); intro s' x' h')
    | ((first | intro v' | extract_lets -underBinder +onlyGivenNames v'); (first | (refine_lift have k' : Keeps P' o' v' := ?_; ?_; (on_goal 1 => try clear_value v'); (on_goal 2 => dsimp -zeta only [v'])) | (have k'' : v'.isSome = v'.isSome := rfl; clear k''; clear_value v') | skip))
    | split)

theorem State.beginLayer_keeps {P' : Prop} {o' : State} {s : State} (h : Keeps P' o' s) (t : List Byte) (n : Nat) :
    Keeps P' o' (State.beginLayer s t n) := by
  unfold State.beginLayer
  repeat' (first
    | with_reducible assumption
    | with_reducible apply State.setMstep_keeps
    | with_reducible apply State.store_keeps
    | with_reducible apply State.takeLayerPart_keeps
    | ((with_reducible apply Keeps.foldl); intro s' x' h')
    | ((with_reducible apply Keeps.foldl_fst); intro s' x' h')
    | ((with_reducible apply Keeps.foldl_snd); intro s' x' h')
    | ((first | intro v' | extract_lets -underBinder +onlyGivenNames v'); (first | (refine_lift have k' : Keeps P' o' v' := ?_; ?_; (on_goal 1 => try clear_value v'); (on_goal 2 => dsimp -zeta only [v'])) | (have k'' : v'.isSome = v'.isSome := rfl; clear k''; clear_value v') | skip))
    | split)

theorem State.homeGoes_keeps {P' : Prop} {o' : State} {s : State} (h : Keeps P' o' s) (t : List Byte) (n : Nat) (x0 : Nat) :
    Keeps P' o' (State.homeGoes s t n x0) := by
  induction x0 generalizing s t n with
  | zero =>
    unfold State.homeGoes
    repeat' (first
      | with_reducible assumption
      | with_reducible apply State.beginLayer_keeps
      | with_reducible apply State.giveChunks_keeps
      | with_reducible apply State.putStep_keeps
      | with_reducible apply State.setMstep_keeps
      | with_reducible apply State.showBind_keeps
      | ((first | intro v' | extract_lets -underBinder +onlyGivenNames v'); (first | (refine_lift have k' : Keeps P' o' v' := ?_; ?_; (on_goal 1 => try clear_value v'); (on_goal 2 => dsimp -zeta only [v'])) | (have k'' : v'.isSome = v'.isSome := rfl; clear k''; clear_value v') | skip))
      | split)
  | succ n ih =>
    unfold State.homeGoes
    repeat' (first
      | with_reducible assumption
      | with_reducible apply ih
      | with_reducible apply State.beginLayer_keeps
      | with_reducible apply State.giveChunks_keeps
      | with_reducible apply State.putStep_keeps
      | with_reducible apply State.setMstep_keeps
      | with_reducible apply State.showBind_keeps
      | ((first | intro v' | extract_lets -underBinder +onlyGivenNames v'); (first | (refine_lift have k' : Keeps P' o' v' := ?_; ?_; (on_goal 1 => try clear_value v'); (on_goal 2 => dsimp -zeta only [v'])) | (have k'' : v'.isSome = v'.isSome := rfl; clear k''; clear_value v') | skip))
      | split)

theorem State.homeOn_keeps {P' : Prop} {o' : State} {s : State} (h : Keeps P' o' s) (n : Nat) :
    Keeps P' o' (State.homeOn s n) := by
  unfold State.homeOn
  repeat' (first
    | with_reducible assumption
    | with_reducible apply State.endStep_keeps
    | with_reducible apply State.homeGoes_keeps
    | with_reducible apply State.showBind_keeps
    | split)

theorem State.homeRan_keeps {P' : Prop} {o' : State} {s : State} (h : Keeps P' o' s) (n i status : Nat) (abandoned : Bool) :
    Keeps P' o' (State.homeRan s n i status abandoned) := by
  unfold State.homeRan
  repeat' (first
    | with_reducible assumption
    | with_reducible apply State.abortStep_keeps
    | with_reducible apply State.giveChunks_keeps
    | with_reducible apply State.homeOn_keeps
    | with_reducible apply State.returnChunk_keeps
    | with_reducible apply State.setMstep_keeps
    | with_reducible apply State.settleAbort_keeps
    | ((first | intro v' | extract_lets -underBinder +onlyGivenNames v'); (first | (refine_lift have k' : Keeps P' o' v' := ?_; ?_; (on_goal 1 => try clear_value v'); (on_goal 2 => dsimp -zeta only [v'])) | (have k'' : v'.isSome = v'.isSome := rfl; clear k''; clear_value v') | skip))
    | split
    | (clear_value *; split))

theorem State.requestOrigin_keeps {P' : Prop} {o' : State} {s : State} (h : Keeps P' o' s) (t : List Byte) (n : Nat) :
    Keeps P' o' (State.requestOrigin s t n) := by
  unfold State.requestOrigin
  repeat' (first
    | with_reducible assumption
    | with_reducible apply State.abortStep_keeps
    | with_reducible apply State.putStep_keeps
    | with_reducible apply State.requestRun_keeps
    | ((first | intro v' | extract_lets -underBinder +onlyGivenNames v'); (first | (refine_lift have k' : Keeps P' o' v' := ?_; ?_; (on_goal 1 => try clear_value v'); (on_goal 2 => dsimp -zeta only [v'])) | (have k'' : v'.isSome = v'.isSome := rfl; clear k''; clear_value v') | skip))
    | split)

theorem State.deliverStep_keeps {P' : Prop} {o' : State} {s : State} (h : Keeps P' o' s) (t : List Byte) (n : Nat) (p : List Byte) :
    Keeps P' o' (State.deliverStep s t n p) := by
  unfold State.deliverStep
  repeat' (first
    | with_reducible assumption
    | with_reducible apply State.setMstep_keeps
    | with_reducible apply State.takeLayerPart_keeps
    | ((first | intro v' | extract_lets -underBinder +onlyGivenNames v'); (first | (refine_lift have k' : Keeps P' o' v' := ?_; ?_; (on_goal 1 => try clear_value v'); (on_goal 2 => dsimp -zeta only [v'])) | (have k'' : v'.isSome = v'.isSome := rfl; clear k''; clear_value v') | skip))
    | split)

theorem State.sendEntries_keeps {P' : Prop} {o' : State} {s : State} (h : Keeps P' o' s) (t : List Byte) (n m layer : Nat) (abandoned : Bool) (x0 : Nat) (x1 : List (List Byte)) :
    Keeps P' o' (State.sendEntries s t n m layer abandoned x0 x1) := by
  induction x0 generalizing s t n m layer abandoned x1 with
  | zero =>
    unfold State.sendEntries
    repeat' (first
      | with_reducible assumption
      | with_reducible apply State.deliverStep_keeps
      | with_reducible apply State.meshCtr_keeps
      | with_reducible apply State.newTag_keeps
      | with_reducible apply State.sendPart_keeps
      | (refine Keeps.of_snd_eq ?_ (by with_reducible assumption))
      | ((first | intro v' | extract_lets -underBinder +onlyGivenNames v'); (first | (refine_lift have k' : Keeps P' o' v' := ?_; ?_; (on_goal 1 => try clear_value v'); (on_goal 2 => dsimp -zeta only [v'])) | (refine_lift have k' : Keeps P' o' v'.2 := ?_; ?_; (on_goal 1 => try clear_value v'); (on_goal 2 => dsimp -zeta only [v'])) | (have k'' : v'.isSome = v'.isSome := rfl; clear k''; clear_value v') | skip))
      | split)
  | succ n ih =>
    cases x1 <;> unfold State.sendEntries <;>
      (repeat' (first
      | with_reducible assumption
      | with_reducible apply ih
      | with_reducible apply State.deliverStep_keeps
      | with_reducible apply State.meshCtr_keeps
      | with_reducible apply State.newTag_keeps
      | with_reducible apply State.sendPart_keeps
      | (refine Keeps.of_snd_eq ?_ (by with_reducible assumption))
      | ((first | intro v' | extract_lets -underBinder +onlyGivenNames v'); (first | (refine_lift have k' : Keeps P' o' v' := ?_; ?_; (on_goal 1 => try clear_value v'); (on_goal 2 => dsimp -zeta only [v'])) | (refine_lift have k' : Keeps P' o' v'.2 := ?_; ?_; (on_goal 1 => try clear_value v'); (on_goal 2 => dsimp -zeta only [v'])) | (have k'' : v'.isSome = v'.isSome := rfl; clear k''; clear_value v') | skip))
      | split))

theorem State.sendTotal_keeps {P' : Prop} {o' : State} {s : State} (h : Keeps P' o' s) (t : List Byte) (n m layer count : Nat) :
    Keeps P' o' (State.sendTotal s t n m layer count) := by
  unfold State.sendTotal
  repeat' (first
    | with_reducible assumption
    | with_reducible apply State.deliverStep_keeps
    | with_reducible apply State.newTag_keeps
    | with_reducible apply State.sendPart_keeps
    | (refine Keeps.of_snd_eq ?_ (by with_reducible assumption))
    | ((first | intro v' | extract_lets -underBinder +onlyGivenNames v'); (first | (refine_lift have k' : Keeps P' o' v' := ?_; ?_; (on_goal 1 => try clear_value v'); (on_goal 2 => dsimp -zeta only [v'])) | (refine_lift have k' : Keeps P' o' v'.2 := ?_; ?_; (on_goal 1 => try clear_value v'); (on_goal 2 => dsimp -zeta only [v'])) | (have k'' : v'.isSome = v'.isSome := rfl; clear k''; clear_value v') | skip))
    | split)

theorem State.dispatchLayer_keeps {P' : Prop} {o' : State} {s : State} (h : Keeps P' o' s) (t : List Byte) (n : Nat) :
    Keeps P' o' (State.dispatchLayer s t n) := by
  unfold State.dispatchLayer
  repeat' (first
    | with_reducible assumption
    | with_reducible apply State.abortStep_keeps
    | with_reducible apply State.putStep_keeps
    | with_reducible apply State.sendEntries_keeps
    | with_reducible apply State.sendTotal_keeps
    | ((with_reducible apply Keeps.foldl); intro s' x' h')
    | ((with_reducible apply Keeps.foldl_fst); intro s' x' h')
    | ((with_reducible apply Keeps.foldl_snd); intro s' x' h')
    | ((first | intro v' | extract_lets -underBinder +onlyGivenNames v'); (first | (refine_lift have k' : Keeps P' o' v' := ?_; ?_; (on_goal 1 => try clear_value v'); (on_goal 2 => dsimp -zeta only [v'])) | (have k'' : v'.isSome = v'.isSome := rfl; clear k''; clear_value v') | skip))
    | split)

theorem State.originOn_keeps {P' : Prop} {o' : State} {s : State} (h : Keeps P' o' s) (n : Nat) :
    Keeps P' o' (State.originOn s n) := by
  unfold State.originOn
  repeat' (first
    | with_reducible assumption
    | with_reducible apply State.requestOrigin_keeps
    | with_reducible apply State.setMstep_keeps
    | with_reducible apply State.store_keeps
    | ((with_reducible apply Keeps.foldl); intro s' x' h')
    | ((with_reducible apply Keeps.foldl_fst); intro s' x' h')
    | ((with_reducible apply Keeps.foldl_snd); intro s' x' h')
    | ((first | intro v' | extract_lets -underBinder +onlyGivenNames v'); (first | (refine_lift have k' : Keeps P' o' v' := ?_; ?_; (on_goal 1 => try clear_value v'); (on_goal 2 => dsimp -zeta only [v'])) | (have k'' : v'.isSome = v'.isSome := rfl; clear k''; clear_value v') | skip))
    | split
    | (clear_value *; split))

theorem State.stepOn_keeps {P' : Prop} {o' : State} {s : State} (h : Keeps P' o' s) (n : Nat) :
    Keeps P' o' (State.stepOn s n) := by
  unfold State.stepOn
  repeat' (first
    | with_reducible assumption
    | with_reducible apply State.homeOn_keeps
    | with_reducible apply State.originOn_keeps)

theorem State.originRan_keeps {P' : Prop} {o' : State} {s : State} (h : Keeps P' o' s) (n status : Nat) (recorded : List (Nat × Nat)) (abandoned : Bool) :
    Keeps P' o' (State.originRan s n status recorded abandoned) := by
  unfold State.originRan
  repeat' (first
    | with_reducible assumption
    | with_reducible apply State.abortStep_keeps
    | with_reducible apply State.dispatchLayer_keeps
    | with_reducible apply State.endStep_keeps
    | with_reducible apply State.putStep_keeps
    | with_reducible apply State.setMstep_keeps
    | with_reducible apply State.settleAbort_keeps
    | with_reducible apply State.stepOn_keeps
    | ((first | intro v' | extract_lets -underBinder +onlyGivenNames v'); (first | (refine_lift have k' : Keeps P' o' v' := ?_; ?_; (on_goal 1 => try clear_value v'); (on_goal 2 => dsimp -zeta only [v'])) | (have k'' : v'.isSome = v'.isSome := rfl; clear k''; clear_value v') | skip))
    | split
    | (clear_value *; split))

theorem State.startWith_keeps {P' : Prop} {o' : State} {s : State} (h : Keeps P' o' s) (t : List Byte) (n : Nat) (b : Batch) :
    Keeps P' o' (State.startWith s t n b) := by
  unfold State.startWith
  repeat' (first
    | with_reducible assumption
    | with_reducible apply State.beginLayer_keeps
    | with_reducible apply State.homeOn_keeps
    | with_reducible apply State.requestOrigin_keeps
    | with_reducible apply State.setMstep_keeps
    | with_reducible apply State.stageInputs_keeps
    | with_reducible apply State.store_keeps
    | ((with_reducible refine State.bump_keeps ?_ _ _ _ ?_); rotate_left; · exact rfl)
    | (refine Keeps.of_fst_eq ?_ (by with_reducible assumption))
    | ((first | intro v' | extract_lets -underBinder +onlyGivenNames v'); (first | (refine_lift have k' : Keeps P' o' v' := ?_; ?_; (on_goal 1 => try clear_value v'); (on_goal 2 => dsimp -zeta only [v'])) | (refine_lift have k' : Keeps P' o' v'.1 := ?_; ?_; (on_goal 1 => try clear_value v'); (on_goal 2 => dsimp -zeta only [v'])) | (have k'' : v'.isSome = v'.isSome := rfl; clear k''; clear_value v') | skip))
    | split)

theorem State.startWithout_keeps {P' : Prop} {o' : State} {s : State} (h : Keeps P' o' s) (t : List Byte) (n : Nat) :
    Keeps P' o' (State.startWithout s t n) := by
  unfold State.startWithout
  repeat' (first
    | with_reducible assumption
    | with_reducible apply State.beginLayer_keeps
    | with_reducible apply State.homeOn_keeps
    | with_reducible apply State.sendTotal_keeps
    | with_reducible apply State.setMstep_keeps
    | ((with_reducible apply Keeps.foldl); intro s' x' h')
    | ((with_reducible apply Keeps.foldl_fst); intro s' x' h')
    | ((with_reducible apply Keeps.foldl_snd); intro s' x' h')
    | ((first | intro v' | extract_lets -underBinder +onlyGivenNames v'); (first | (refine_lift have k' : Keeps P' o' v' := ?_; ?_; (on_goal 1 => try clear_value v'); (on_goal 2 => dsimp -zeta only [v'])) | (have k'' : v'.isSome = v'.isSome := rfl; clear k''; clear_value v') | skip))
    | split)

theorem State.stepGo_keeps {P' : Prop} {o' : State} {s : State} (h : Keeps P' o' s) (n : Nat) :
    Keeps P' o' (State.stepGo s n) := by
  unfold State.stepGo
  repeat' (first
    | with_reducible assumption
    | with_reducible apply State.refresh_keeps
    | with_reducible apply State.setJob_keeps
    | with_reducible apply State.startWith_keeps
    | ((with_reducible refine State.fset_keeps ?_ _ _ _ ?_); rotate_left; · exact rfl)
    | ((first | intro v' | extract_lets -underBinder +onlyGivenNames v'); (first | (refine_lift have k' : Keeps P' o' v' := ?_; ?_; (on_goal 1 => try clear_value v'); (on_goal 2 => dsimp -zeta only [v'])) | (have k'' : v'.isSome = v'.isSome := rfl; clear k''; clear_value v') | skip))
    | split
    | (clear_value *; split))

theorem State.stepsGo_keeps {P' : Prop} {o' : State} {s : State} (h : Keeps P' o' s) :
    Keeps P' o' (State.stepsGo s) := by
  unfold State.stepsGo
  repeat' (first
    | with_reducible assumption
    | with_reducible apply State.stepGo_keeps
    | ((with_reducible apply Keeps.foldl); intro s' x' h')
    | ((with_reducible apply Keeps.foldl_fst); intro s' x' h')
    | ((with_reducible apply Keeps.foldl_snd); intro s' x' h'))

theorem State.takeEarly_keeps {P' : Prop} {o' : State} {s : State} (h : Keeps P' o' s) (n : Nat) (p : List Byte) :
    Keeps P' o' (State.takeEarly s n p) := by
  unfold State.takeEarly
  repeat' (first
    | with_reducible assumption
    | with_reducible apply State.meshCtr_keeps
    | with_reducible apply State.putStep_keeps
    | with_reducible apply State.setMstep_keeps
    | ((with_reducible refine State.fset_keeps ?_ _ _ _ ?_); rotate_left; · exact rfl)
    | ((first | intro v' | extract_lets -underBinder +onlyGivenNames v'); (first | (refine_lift have k' : Keeps P' o' v' := ?_; ?_; (on_goal 1 => try clear_value v'); (on_goal 2 => dsimp -zeta only [v'])) | (have k'' : v'.isSome = v'.isSome := rfl; clear k''; clear_value v') | skip))
    | split)

theorem State.takeDispatch_keeps {P' : Prop} {o' : State} {s : State} (h : Keeps P' o' s) (p : List Byte) :
    Keeps P' o' (State.takeDispatch s p) := by
  unfold State.takeDispatch
  repeat' (first
    | with_reducible assumption
    | with_reducible apply State.deliverStep_keeps
    | with_reducible apply State.stepOn_keeps
    | with_reducible apply State.takeEarly_keeps
    | ((first | intro v' | extract_lets -underBinder +onlyGivenNames v'); (first | (refine_lift have k' : Keeps P' o' v' := ?_; ?_; (on_goal 1 => try clear_value v'); (on_goal 2 => dsimp -zeta only [v'])) | (have k'' : v'.isSome = v'.isSome := rfl; clear k''; clear_value v') | skip))
    | split
    | (clear_value *; split))

theorem State.takeReturn_keeps {P' : Prop} {o' : State} {s : State} (h : Keeps P' o' s) (p : List Byte) :
    Keeps P' o' (State.takeReturn s p) := by
  unfold State.takeReturn
  repeat' (first
    | with_reducible assumption
    | with_reducible apply State.meshCtr_keeps
    | with_reducible apply State.originOn_keeps
    | with_reducible apply State.returnRow_keeps
    | with_reducible apply State.showBind_keeps
    | with_reducible apply State.takeEarly_keeps
    | ((with_reducible apply Keeps.foldl); intro s' x' h')
    | ((with_reducible apply Keeps.foldl_fst); intro s' x' h')
    | ((with_reducible apply Keeps.foldl_snd); intro s' x' h')
    | ((first | intro v' | extract_lets -underBinder +onlyGivenNames v'); (first | (refine_lift have k' : Keeps P' o' v' := ?_; ?_; (on_goal 1 => try clear_value v'); (on_goal 2 => dsimp -zeta only [v'])) | (have k'' : v'.isSome = v'.isSome := rfl; clear k''; clear_value v') | skip))
    | split
    | (clear_value *; split))

theorem State.leaveUp_keeps {P' : Prop} {o' : State} {s : State} (h : Keeps P' o' s) (b : Nat) (fresh : Bool) :
    Keeps P' o' (State.leaveUp s b fresh) := by
  unfold State.leaveUp
  repeat' (first
    | with_reducible assumption
    | with_reducible apply State.abortStep_keeps
    | with_reducible apply State.queueOn_keeps
    | with_reducible apply State.sendTo_keeps
    | with_reducible apply State.setLine_keeps
    | with_reducible apply State.usedLine_keeps
    | ((with_reducible apply Keeps.foldl); intro s' x' h')
    | ((with_reducible apply Keeps.foldl_fst); intro s' x' h')
    | ((with_reducible apply Keeps.foldl_snd); intro s' x' h')
    | (refine Keeps.ofOpt ?_ (by with_reducible assumption))
    | ((first | intro v' | extract_lets -underBinder +onlyGivenNames v'); (first | (refine_lift have k' : Keeps P' o' v' := ?_; ?_; (on_goal 1 => try clear_value v'); (on_goal 2 => dsimp -zeta only [v'])) | (have k'' : v'.isSome = v'.isSome := rfl; clear k''; clear_value v') | skip))
    | split
    | (clear_value *; split))

end Sys2Proof.Machine
end

