-- ==== Sys2Proof/Laws/KeepsFabricSet.lean ====
section
/-! SUPPORT. What each operation of Machine/FabricSet.lean keeps (Laws/Keeps.lean). -/

set_option linter.unusedTactic false
set_option linter.unreachableTactic false

namespace Sys2Proof.Machine

theorem State.lineAgain_keeps {P' : Prop} {o' : State} {s : State} (h : Keeps P' o' s) (b : Nat) :
    Keeps P' o' (State.lineAgain s b) := by
  unfold State.lineAgain
  repeat' (first
    | with_reducible assumption
    | with_reducible apply State.leaveUp_keeps
    | with_reducible apply State.lineTo_keeps
    | with_reducible apply State.showLine_keeps
    | split)

theorem State.applyTable_keeps {P' : Prop} {o' : State} {s : State} (h : Keeps P' o' s) (t : Option (List Byte)) :
    Keeps P' o' (State.applyTable s t) := by
  unfold State.applyTable
  repeat' (first
    | with_reducible assumption
    | with_reducible apply State.lineAgain_keeps
    | with_reducible apply State.setMesh_keeps
    | with_reducible apply State.steps_keeps
    | ((with_reducible apply Keeps.foldl); intro s' x' h')
    | ((with_reducible apply Keeps.foldl_fst); intro s' x' h')
    | ((with_reducible apply Keeps.foldl_snd); intro s' x' h')
    | ((with_reducible refine State.fset_keeps ?_ _ _ _ ?_); rotate_left; · exact rfl)
    | ((with_reducible refine State.rset_keeps ?_ _ _ _ ?_ (fun z => ?_)); rotate_left; · exact rfl)
    | exact Reg.fits_zero _
    | (refine Keeps.of_fst_eq ?_ (by with_reducible assumption))
    | ((first | intro v' | extract_lets -underBinder +onlyGivenNames v'); (first | (refine_lift have k' : Keeps P' o' v' := ?_; ?_; (on_goal 1 => try clear_value v'); (on_goal 2 => dsimp -zeta only [v'])) | (refine_lift have k' : Keeps P' o' v'.1 := ?_; ?_; (on_goal 1 => try clear_value v'); (on_goal 2 => dsimp -zeta only [v'])) | (have k'' : v'.isSome = v'.isSome := rfl; clear k''; clear_value v') | skip))
    | split)

theorem State.changesGo_keeps {P' : Prop} {o' : State} {s : State} (h : Keeps P' o' s) (x0 : Nat) :
    Keeps P' o' (State.changesGo s x0) := by
  induction x0 generalizing s  with
  | zero =>
    unfold State.changesGo
    repeat' (first
      | with_reducible assumption
      | with_reducible apply State.applyTable_keeps
      | with_reducible apply State.bind_keeps
      | with_reducible apply State.event_keeps
      | with_reducible apply State.finish_keeps
      | with_reducible apply State.setMesh_keeps
      | (refine Keeps.of_snd_eq ?_ (by with_reducible assumption))
      | ((first | intro v' | extract_lets -underBinder +onlyGivenNames v'); (first | (refine_lift have k' : Keeps P' o' v' := ?_; ?_; (on_goal 1 => try clear_value v'); (on_goal 2 => dsimp -zeta only [v'])) | (refine_lift have k' : Keeps P' o' v'.2 := ?_; ?_; (on_goal 1 => try clear_value v'); (on_goal 2 => dsimp -zeta only [v'])) | (have k'' : v'.isSome = v'.isSome := rfl; clear k''; clear_value v') | skip))
      | split
      | (clear_value *; split))
  | succ n ih =>
    unfold State.changesGo
    repeat' (first
      | with_reducible assumption
      | with_reducible apply ih
      | with_reducible apply State.applyTable_keeps
      | with_reducible apply State.bind_keeps
      | with_reducible apply State.event_keeps
      | with_reducible apply State.finish_keeps
      | with_reducible apply State.setMesh_keeps
      | (refine Keeps.of_snd_eq ?_ (by with_reducible assumption))
      | ((first | intro v' | extract_lets -underBinder +onlyGivenNames v'); (first | (refine_lift have k' : Keeps P' o' v' := ?_; ?_; (on_goal 1 => try clear_value v'); (on_goal 2 => dsimp -zeta only [v'])) | (refine_lift have k' : Keeps P' o' v'.2 := ?_; ?_; (on_goal 1 => try clear_value v'); (on_goal 2 => dsimp -zeta only [v'])) | (have k'' : v'.isSome = v'.isSome := rfl; clear k''; clear_value v') | skip))
      | split
      | (clear_value *; split))

theorem State.meshNext_keeps {P' : Prop} {o' : State} {s : State} (h : Keeps P' o' s) :
    Keeps P' o' (State.meshNext s) := by
  unfold State.meshNext
  repeat' (first
    | with_reducible assumption
    | with_reducible apply State.changesGo_keeps
    | with_reducible apply State.stepsGo_keeps)

theorem State.askChange_keeps {P' : Prop} {o' : State} {s : State} (h : Keeps P' o' s) (p : Nat) (t : Option (List Byte)) :
    Keeps P' o' (State.askChange s p t) := by
  unfold State.askChange
  repeat' (first
    | with_reducible assumption
    | with_reducible apply State.meshNext_keeps
    | with_reducible apply State.setMesh_keeps)

theorem State.installTaken_keeps {P' : Prop} {o' : State} (p : Nat) (e : List Byte) {s : State} (h : Keeps P' o' s) :
    Keeps P' o' (State.installTaken p e s) := by
  unfold State.installTaken
  repeat' (first
    | with_reducible assumption
    | with_reducible apply State.fail_keeps
    | with_reducible apply State.setCmd_keeps
    | ((first | intro v' | extract_lets -underBinder +onlyGivenNames v'); (first | (refine_lift have k' : Keeps P' o' v' := ?_; ?_; (on_goal 1 => try clear_value v'); (on_goal 2 => dsimp -zeta only [v'])) | (have k'' : v'.isSome = v'.isSome := rfl; clear k''; clear_value v') | skip))
    | split)

theorem State.installData_keeps {P' : Prop} {o' : State} {s : State} (h : Keeps P' o' s) (p : Nat) :
    Keeps P' o' (State.installData s p) := by
  unfold State.installData
  repeat' (first
    | with_reducible assumption
    | with_reducible apply State.askChange_keeps)

theorem State.clearTaken_keeps {P' : Prop} {o' : State} (p : Nat) (e : List Byte) {s : State} (h : Keeps P' o' s) :
    Keeps P' o' (State.clearTaken p e s) := by
  unfold State.clearTaken
  repeat' (first
    | with_reducible assumption
    | with_reducible apply State.askChange_keeps
    | with_reducible apply State.fail_keeps
    | split)

theorem State.putPull_keeps {P' : Prop} {o' : State} {s : State} (h : Keeps P' o' s) (x : Pull) :
    Keeps P' o' (State.putPull s x) := by
  unfold State.putPull
  repeat' (first
    | with_reducible assumption
    | with_reducible apply State.setMesh_keeps
    | split)

theorem State.pullAsk_keeps {P' : Prop} {o' : State} {s : State} (h : Keeps P' o' s) (x : Pull) (x0 : Nat) :
    Keeps P' o' (State.pullAsk s x x0).1 := by
  induction x0 generalizing s x with
  | zero =>
    unfold State.pullAsk
    repeat' (first
      | with_reducible assumption
      | with_reducible apply State.newTag_keeps
      | with_reducible apply State.queueOn_keeps
      | with_reducible apply State.usedLine_keeps
      | (refine Keeps.of_snd_eq ?_ (by with_reducible assumption))
      | ((first | intro v' | extract_lets -underBinder +onlyGivenNames v'); (first | (refine_lift have k' : Keeps P' o' v' := ?_; ?_; (on_goal 1 => try clear_value v'); (on_goal 2 => dsimp -zeta only [v'])) | (refine_lift have k' : Keeps P' o' v'.2 := ?_; ?_; (on_goal 1 => try clear_value v'); (on_goal 2 => dsimp -zeta only [v'])) | (have k'' : v'.isSome = v'.isSome := rfl; clear k''; clear_value v') | skip))
      | split
      | (clear_value *; split))
  | succ n ih =>
    unfold State.pullAsk
    repeat' (first
      | with_reducible assumption
      | with_reducible apply ih
      | with_reducible apply State.newTag_keeps
      | with_reducible apply State.queueOn_keeps
      | with_reducible apply State.usedLine_keeps
      | (refine Keeps.of_snd_eq ?_ (by with_reducible assumption))
      | ((first | intro v' | extract_lets -underBinder +onlyGivenNames v'); (first | (refine_lift have k' : Keeps P' o' v' := ?_; ?_; (on_goal 1 => try clear_value v'); (on_goal 2 => dsimp -zeta only [v'])) | (refine_lift have k' : Keeps P' o' v'.2 := ?_; ?_; (on_goal 1 => try clear_value v'); (on_goal 2 => dsimp -zeta only [v'])) | (have k'' : v'.isSome = v'.isSome := rfl; clear k''; clear_value v') | skip))
      | split
      | (clear_value *; split))

theorem State.pullOn_keeps {P' : Prop} {o' : State} {s : State} (h : Keeps P' o' s) (x : Pull) :
    Keeps P' o' (State.pullOn s x) := by
  unfold State.pullOn
  repeat' (first
    | with_reducible assumption
    | with_reducible apply State.finish_keeps
    | with_reducible apply State.pullAsk_keeps
    | with_reducible apply State.putPull_keeps
    | with_reducible apply State.setMesh_keeps
    | (refine Keeps.of_fst_eq ?_ (by with_reducible assumption))
    | ((first | intro v' | extract_lets -underBinder +onlyGivenNames v'); (first | (refine_lift have k' : Keeps P' o' v' := ?_; ?_; (on_goal 1 => try clear_value v'); (on_goal 2 => dsimp -zeta only [v'])) | (refine_lift have k' : Keeps P' o' v'.1 := ?_; ?_; (on_goal 1 => try clear_value v'); (on_goal 2 => dsimp -zeta only [v'])) | (have k'' : v'.isSome = v'.isSome := rfl; clear k''; clear_value v') | skip))
    | split)

theorem State.pullsGo_keeps {P' : Prop} {o' : State} {s : State} (h : Keeps P' o' s) :
    Keeps P' o' (State.pullsGo s) := by
  unfold State.pullsGo
  repeat' (first
    | with_reducible assumption
    | with_reducible apply State.pullOn_keeps
    | ((with_reducible apply Keeps.foldl); intro s' x' h')
    | ((with_reducible apply Keeps.foldl_fst); intro s' x' h')
    | ((with_reducible apply Keeps.foldl_snd); intro s' x' h'))

theorem State.pullTaken_keeps {P' : Prop} {o' : State} (p : Nat) (e : List Byte) {s : State} (h : Keeps P' o' s) :
    Keeps P' o' (State.pullTaken p e s) := by
  unfold State.pullTaken
  repeat' (first
    | with_reducible assumption
    | with_reducible apply State.fail_keeps
    | with_reducible apply State.pullOn_keeps
    | with_reducible apply State.setMesh_keeps
    | ((first | intro v' | extract_lets -underBinder +onlyGivenNames v'); (first | (refine_lift have k' : Keeps P' o' v' := ?_; ?_; (on_goal 1 => try clear_value v'); (on_goal 2 => dsimp -zeta only [v'])) | (have k'' : v'.isSome = v'.isSome := rfl; clear k''; clear_value v') | skip))
    | split)

theorem State.answerReq_keeps {P' : Prop} {o' : State} {s : State} (h : Keeps P' o' s) (b : Nat) (k : Packet) :
    Keeps P' o' (State.answerReq s b k) := by
  unfold State.answerReq
  repeat' (first
    | with_reducible assumption
    | with_reducible apply State.promote_keeps
    | with_reducible apply State.queueOn_keeps
    | with_reducible apply State.takeIn_keeps
    | with_reducible apply State.tierLookup_keeps
    | ((with_reducible apply Keeps.foldl); intro s' x' h')
    | ((with_reducible apply Keeps.foldl_fst); intro s' x' h')
    | ((with_reducible apply Keeps.foldl_snd); intro s' x' h')
    | ((first | intro v' | extract_lets -underBinder +onlyGivenNames v'); (first | (refine_lift have k' : Keeps P' o' v' := ?_; ?_; (on_goal 1 => try clear_value v'); (on_goal 2 => dsimp -zeta only [v'])) | (have k'' : v'.isSome = v'.isSome := rfl; clear k''; clear_value v') | skip))
    | split)

theorem State.takeCopyPacket_keeps {P' : Prop} {o' : State} {s : State} (h : Keeps P' o' s) (p : List Byte) :
    Keeps P' o' (State.takeCopyPacket s p) := by
  unfold State.takeCopyPacket
  repeat' (first
    | with_reducible assumption
    | with_reducible apply State.meshCtr_keeps
    | with_reducible apply State.pullOn_keeps
    | with_reducible apply State.putPull_keeps
    | with_reducible apply State.storeFor_keeps
    | ((first | intro v' | extract_lets -underBinder +onlyGivenNames v'); (first | (refine_lift have k' : Keeps P' o' v' := ?_; ?_; (on_goal 1 => try clear_value v'); (on_goal 2 => dsimp -zeta only [v'])) | (have k'' : v'.isSome = v'.isSome := rfl; clear k''; clear_value v') | skip))
    | split
    | (clear_value *; split))

theorem State.forward_keeps {P' : Prop} {o' : State} {s : State} (h : Keeps P' o' s) (b : Nat) (k : Packet) :
    Keeps P' o' (State.forward s b k) := by
  unfold State.forward
  repeat' (first
    | with_reducible assumption
    | with_reducible apply State.fail_keeps
    | with_reducible apply State.lineCtr_keeps
    | with_reducible apply State.queueOn_keeps
    | with_reducible apply State.sendTo_keeps
    | with_reducible apply State.takeIn_keeps
    | with_reducible apply State.usedLine_keeps
    | (refine Keeps.ofOpt ?_ (by with_reducible assumption))
    | ((first | intro v' | extract_lets -underBinder +onlyGivenNames v'); (first | (refine_lift have k' : Keeps P' o' v' := ?_; ?_; (on_goal 1 => try clear_value v'); (on_goal 2 => dsimp -zeta only [v'])) | (have k'' : v'.isSome = v'.isSome := rfl; clear k''; clear_value v') | skip))
    | split
    | (clear_value *; split))

theorem State.detourFailed_keeps {P' : Prop} {o' : State} {s : State} (h : Keeps P' o' s) (p : List Byte) :
    Keeps P' o' (State.detourFailed s p) := by
  unfold State.detourFailed
  repeat' (first
    | with_reducible assumption
    | with_reducible apply State.abortStep_keeps
    | with_reducible apply State.meshCtr_keeps
    | with_reducible apply State.sendTo_keeps
    | with_reducible apply State.setMesh_keeps
    | (refine Keeps.ofOpt ?_ (by with_reducible assumption))
    | ((first | intro v' | extract_lets -underBinder +onlyGivenNames v'); (first | (refine_lift have k' : Keeps P' o' v' := ?_; ?_; (on_goal 1 => try clear_value v'); (on_goal 2 => dsimp -zeta only [v'])) | (have k'' : v'.isSome = v'.isSome := rfl; clear k''; clear_value v') | skip))
    | split
    | (clear_value *; split))

theorem execFabricSetInstall_keeps {P' : Prop} {o' : State} (q : QueueId) {s : State} (h : Keeps P' o' s) {t : State} (e : execFabricSetInstall q s = .next t) :
    Keeps P' o' t := by
  unfold execFabricSetInstall at e
  injection e with e
  subst e
  repeat' (first
    | with_reducible assumption
    | with_reducible apply State.adminOnly_keeps
    | with_reducible apply State.behind_keeps
    | with_reducible apply State.installTaken_keeps
    | with_reducible apply State.onEntry_keeps
    | ((with_reducible show ∀ y' : State, Keeps P' o' y' → _); intro y' h')
    | ((with_reducible show ∀ (_ : _) (y' : State), Keeps P' o' y' → _); intro x' y' h')
    | ((with_reducible show ∀ (_ : _) (_ : _) (y' : State), Keeps P' o' y' → _); intro x' z' y' h'))

theorem execFabricSetPull_keeps {P' : Prop} {o' : State} (q : QueueId) {s : State} (h : Keeps P' o' s) {t : State} (e : execFabricSetPull q s = .next t) :
    Keeps P' o' t := by
  unfold execFabricSetPull at e
  injection e with e
  subst e
  repeat' (first
    | with_reducible assumption
    | with_reducible apply State.adminOnly_keeps
    | with_reducible apply State.behind_keeps
    | with_reducible apply State.onEntry_keeps
    | with_reducible apply State.pullTaken_keeps
    | ((with_reducible show ∀ y' : State, Keeps P' o' y' → _); intro y' h')
    | ((with_reducible show ∀ (_ : _) (y' : State), Keeps P' o' y' → _); intro x' y' h')
    | ((with_reducible show ∀ (_ : _) (_ : _) (y' : State), Keeps P' o' y' → _); intro x' z' y' h'))

theorem execFabricSetClear_keeps {P' : Prop} {o' : State} (q : QueueId) {s : State} (h : Keeps P' o' s) {t : State} (e : execFabricSetClear q s = .next t) :
    Keeps P' o' t := by
  unfold execFabricSetClear at e
  injection e with e
  subst e
  repeat' (first
    | with_reducible assumption
    | with_reducible apply State.adminOnly_keeps
    | with_reducible apply State.behind_keeps
    | with_reducible apply State.clearTaken_keeps
    | with_reducible apply State.onEntry_keeps
    | ((with_reducible show ∀ y' : State, Keeps P' o' y' → _); intro y' h')
    | ((with_reducible show ∀ (_ : _) (y' : State), Keeps P' o' y' → _); intro x' y' h')
    | ((with_reducible show ∀ (_ : _) (_ : _) (y' : State), Keeps P' o' y' → _); intro x' z' y' h'))

theorem State.onPacket_keeps {P' : Prop} {o' : State} {s : State} (h : Keeps P' o' s) (b : Nat) (ok : List Byte → Bool) (run : Packet → State → State) (h_run : ∀ y0 y1, Keeps P' o' y1 → Keeps P' o' (run y0 y1)) :
    Keeps P' o' (State.onPacket s b ok run) := by
  unfold State.onPacket
  repeat' (first
    | with_reducible assumption
    | with_reducible apply h_run
    | with_reducible apply State.discardIn_keeps
    | split)

theorem execDispatch_keeps {P' : Prop} {o' : State} (b : LineId) {s : State} (h : Keeps P' o' s) {t : State} (e : execDispatch b s = .next t) :
    Keeps P' o' t := by
  unfold execDispatch at e
  injection e with e
  subst e
  repeat' (first
    | with_reducible assumption
    | with_reducible apply State.discardIn_keeps
    | with_reducible apply State.meshNext_keeps
    | with_reducible apply State.onPacket_keeps
    | with_reducible apply State.takeDispatch_keeps
    | with_reducible apply State.takeIn_keeps
    | ((with_reducible show ∀ y' : State, Keeps P' o' y' → _); intro y' h')
    | ((with_reducible show ∀ (_ : _) (y' : State), Keeps P' o' y' → _); intro x' y' h')
    | ((with_reducible show ∀ (_ : _) (_ : _) (y' : State), Keeps P' o' y' → _); intro x' z' y' h')
    | split)

theorem execReturn_keeps {P' : Prop} {o' : State} (b : LineId) {s : State} (h : Keeps P' o' s) {t : State} (e : execReturn b s = .next t) :
    Keeps P' o' t := by
  unfold execReturn at e
  injection e with e
  subst e
  repeat' (first
    | with_reducible assumption
    | with_reducible apply State.discardIn_keeps
    | with_reducible apply State.meshNext_keeps
    | with_reducible apply State.onPacket_keeps
    | with_reducible apply State.takeIn_keeps
    | with_reducible apply State.takeReturn_keeps
    | ((with_reducible show ∀ y' : State, Keeps P' o' y' → _); intro y' h')
    | ((with_reducible show ∀ (_ : _) (y' : State), Keeps P' o' y' → _); intro x' y' h')
    | ((with_reducible show ∀ (_ : _) (_ : _) (y' : State), Keeps P' o' y' → _); intro x' z' y' h')
    | split)

theorem execCopyReq_keeps {P' : Prop} {o' : State} (b : LineId) {s : State} (h : Keeps P' o' s) {t : State} (e : execCopyReq b s = .next t) :
    Keeps P' o' t := by
  unfold execCopyReq at e
  injection e with e
  subst e
  repeat' (first
    | with_reducible assumption
    | with_reducible apply State.answerReq_keeps
    | with_reducible apply State.discardIn_keeps
    | with_reducible apply State.onPacket_keeps
    | ((with_reducible show ∀ y' : State, Keeps P' o' y' → _); intro y' h')
    | ((with_reducible show ∀ (_ : _) (y' : State), Keeps P' o' y' → _); intro x' y' h')
    | ((with_reducible show ∀ (_ : _) (_ : _) (y' : State), Keeps P' o' y' → _); intro x' z' y' h')
    | split)

theorem execCopyData_keeps {P' : Prop} {o' : State} (b : LineId) {s : State} (h : Keeps P' o' s) {t : State} (e : execCopyData b s = .next t) :
    Keeps P' o' t := by
  unfold execCopyData at e
  injection e with e
  subst e
  repeat' (first
    | with_reducible assumption
    | with_reducible apply State.discardIn_keeps
    | with_reducible apply State.onPacket_keeps
    | with_reducible apply State.takeCopyPacket_keeps
    | with_reducible apply State.takeIn_keeps
    | ((with_reducible show ∀ y' : State, Keeps P' o' y' → _); intro y' h')
    | ((with_reducible show ∀ (_ : _) (y' : State), Keeps P' o' y' → _); intro x' y' h')
    | ((with_reducible show ∀ (_ : _) (_ : _) (y' : State), Keeps P' o' y' → _); intro x' z' y' h')
    | split)

theorem execLinkState_keeps {P' : Prop} {o' : State} (b : LineId) {s : State} (h : Keeps P' o' s) {t : State} (e : execLinkState b s = .next t) :
    Keeps P' o' t := by
  unfold execLinkState at e
  injection e with e
  subst e
  repeat' (first
    | with_reducible assumption
    | with_reducible apply State.report_keeps
    | with_reducible apply State.setLine_keeps
    | with_reducible apply State.takeIn_keeps
    | ((first | intro v' | extract_lets -underBinder +onlyGivenNames v'); (first | (refine_lift have k' : Keeps P' o' v' := ?_; ?_; (on_goal 1 => try clear_value v'); (on_goal 2 => dsimp -zeta only [v'])) | (have k'' : v'.isSome = v'.isSome := rfl; clear k''; clear_value v') | skip))
    | split
    | (clear_value *; split))

theorem execStepAbort_keeps {P' : Prop} {o' : State} (b : LineId) {s : State} (h : Keeps P' o' s) {t : State} (e : execStepAbort b s = .next t) :
    Keeps P' o' t := by
  unfold execStepAbort at e
  injection e with e
  subst e
  repeat' (first
    | with_reducible assumption
    | with_reducible apply State.abortStep_keeps
    | with_reducible apply State.forward_keeps
    | with_reducible apply State.meshNext_keeps
    | with_reducible apply State.setMesh_keeps
    | with_reducible apply State.takeIn_keeps
    | ((first | intro v' | extract_lets -underBinder +onlyGivenNames v'); (first | (refine_lift have k' : Keeps P' o' v' := ?_; ?_; (on_goal 1 => try clear_value v'); (on_goal 2 => dsimp -zeta only [v'])) | (have k'' : v'.isSome = v'.isSome := rfl; clear k''; clear_value v') | skip))
    | split
    | (clear_value *; split))

theorem execDetourFail_keeps {P' : Prop} {o' : State} (b : LineId) {s : State} (h : Keeps P' o' s) {t : State} (e : execDetourFail b s = .next t) :
    Keeps P' o' t := by
  unfold execDetourFail at e
  injection e with e
  subst e
  repeat' (first
    | with_reducible assumption
    | with_reducible apply State.detourFailed_keeps
    | with_reducible apply State.meshNext_keeps
    | with_reducible apply State.takeIn_keeps
    | split)

theorem execPacketForward_keeps {P' : Prop} {o' : State} (b : LineId) {s : State} (h : Keeps P' o' s) {t : State} (e : execPacketForward b s = .next t) :
    Keeps P' o' t := by
  unfold execPacketForward at e
  injection e with e
  subst e
  repeat' (first
    | with_reducible assumption
    | with_reducible apply State.forward_keeps
    | with_reducible apply State.onPacket_keeps
    | ((with_reducible show ∀ y' : State, Keeps P' o' y' → _); intro y' h')
    | ((with_reducible show ∀ (_ : _) (y' : State), Keeps P' o' y' → _); intro x' y' h')
    | ((with_reducible show ∀ (_ : _) (_ : _) (y' : State), Keeps P' o' y' → _); intro x' z' y' h'))

theorem execLinkStateTimer_keeps {P' : Prop} {o' : State} {s : State} (h : Keeps P' o' s) {t : State} (e : execLinkStateTimer s = .next t) :
    Keeps P' o' t := by
  unfold execLinkStateTimer at e
  injection e with e
  subst e
  repeat' (first
    | with_reducible assumption
    | with_reducible apply State.sendLinkStates_keeps)

theorem execStepWaitExpiry_keeps {P' : Prop} {o' : State} (n : Fin 4) {s : State} (h : Keeps P' o' s) {t : State} (e : execStepWaitExpiry n s = .next t) :
    Keeps P' o' t := by
  unfold execStepWaitExpiry at e
  injection e with e
  subst e
  repeat' (first
    | with_reducible assumption
    | with_reducible apply State.meshNext_keeps
    | with_reducible apply State.startWithout_keeps
    | split)

theorem execStepTimeout_keeps {P' : Prop} {o' : State} (n : Fin 4) {s : State} (h : Keeps P' o' s) {t : State} (e : execStepTimeout n s = .next t) :
    Keeps P' o' t := by
  unfold execStepTimeout at e
  injection e with e
  subst e
  repeat' (first
    | with_reducible assumption
    | with_reducible apply State.abortStep_keeps
    | with_reducible apply State.meshNext_keeps)

theorem State.wake_keeps {P' : Prop} {o' : State} {s : State} (h : Keeps P' o' s) :
    Keeps P' o' (State.wake s) := by
  unfold State.wake
  repeat' (first
    | with_reducible assumption
    | with_reducible apply State.expressTake_keeps
    | with_reducible apply State.stepsGo_keeps
    | ((with_reducible apply Keeps.foldl); intro s' x' h')
    | ((with_reducible apply Keeps.foldl_fst); intro s' x' h')
    | ((with_reducible apply Keeps.foldl_snd); intro s' x' h'))

theorem execPromotionComplete_keeps {P' : Prop} {o' : State} (page : Nat) {s : State} (h : Keeps P' o' s) {t : State} (e : execPromotionComplete page s = .next t) :
    Keeps P' o' t := by
  unfold execPromotionComplete at e
  injection e with e
  subst e
  repeat' (first
    | with_reducible assumption
    | with_reducible apply State.promoted_keeps
    | with_reducible apply State.tierOn_keeps
    | with_reducible apply State.wake_keeps)

end Sys2Proof.Machine
end

