-- ==== Sys2Proof/Laws/KeepsLineRows.lean ====
section
/-! SUPPORT. What each operation of Machine/LineRows.lean keeps (Laws/Keeps.lean). -/

set_option linter.unusedTactic false
set_option linter.unreachableTactic false

namespace Sys2Proof.Machine

theorem State.toRetrain_keeps {P' : Prop} {o' : State} {s : State} (h : Keeps P' o' s) (b : Nat) :
    Keeps P' o' (State.toRetrain s b) := by
  unfold State.toRetrain
  repeat' (first
    | with_reducible assumption
    | ((with_reducible refine State.flag_keeps ?_ _ ?_); rotate_left; · exact rfl)
    | with_reducible apply State.leaveUp_keeps
    | with_reducible apply State.lineCtr_keeps
    | with_reducible apply State.lineTo_keeps
    | with_reducible apply State.meshNext_keeps
    | with_reducible apply State.setLine_keeps
    | ((with_reducible refine State.fset_keeps ?_ _ _ _ ?_); rotate_left; · exact rfl)
    | ((first | intro v' | extract_lets -underBinder +onlyGivenNames v'); (first | (refine_lift have k' : Keeps P' o' v' := ?_; ?_; (on_goal 1 => try clear_value v'); (on_goal 2 => dsimp -zeta only [v'])) | (have k'' : v'.isSome = v'.isSome := rfl; clear k''; clear_value v') | skip))
    | split)

theorem State.replayCheck_keeps {P' : Prop} {o' : State} {s : State} (h : Keeps P' o' s) (b : Nat) :
    Keeps P' o' (State.replayCheck s b) := by
  unfold State.replayCheck
  repeat' (first
    | with_reducible assumption
    | with_reducible apply State.toRetrain_keeps
    | split)

theorem State.takeIdent_keeps {P' : Prop} {o' : State} {s : State} (h : Keeps P' o' s) (b : Nat) (body : List Byte) :
    Keeps P' o' (State.takeIdent s b body) := by
  unfold State.takeIdent
  repeat' (first
    | with_reducible assumption
    | with_reducible apply State.leaveUp_keeps
    | with_reducible apply State.lineTo_keeps
    | with_reducible apply State.meshNext_keeps
    | with_reducible apply State.pullsGo_keeps
    | with_reducible apply State.setLine_keeps
    | ((with_reducible refine State.fset_keeps ?_ _ _ _ ?_); rotate_left; · exact rfl)
    | ((first | intro v' | extract_lets -underBinder +onlyGivenNames v'); (first | (refine_lift have k' : Keeps P' o' v' := ?_; ?_; (on_goal 1 => try clear_value v'); (on_goal 2 => dsimp -zeta only [v'])) | (have k'' : v'.isSome = v'.isSome := rfl; clear k''; clear_value v') | skip))
    | split)

theorem State.showCable_keeps {P' : Prop} {o' : State} {s : State} (h : Keeps P' o' s) (b : Nat) (m : Option (List Byte)) :
    Keeps P' o' (State.showCable s b m) := by
  unfold State.showCable
  repeat' (first
    | with_reducible assumption
    | ((with_reducible refine State.fset_keeps ?_ _ _ _ ?_); rotate_left; · exact rfl)
    | ((first | intro v' | extract_lets -underBinder +onlyGivenNames v'); (first | (refine_lift have k' : Keeps P' o' v' := ?_; ?_; (on_goal 1 => try clear_value v'); (on_goal 2 => dsimp -zeta only [v'])) | (have k'' : v'.isSome = v'.isSome := rfl; clear k''; clear_value v') | skip))
    | split)

theorem State.enableLine_keeps {P' : Prop} {o' : State} {s : State} (h : Keeps P' o' s) (b : Nat) :
    Keeps P' o' (State.enableLine s b) := by
  unfold State.enableLine
  repeat' (first
    | with_reducible assumption
    | with_reducible apply State.lineTo_keeps
    | ((with_reducible refine State.fset_keeps ?_ _ _ _ ?_); rotate_left; · exact rfl)
    | ((first | intro v' | extract_lets -underBinder +onlyGivenNames v'); (first | (refine_lift have k' : Keeps P' o' v' := ?_; ?_; (on_goal 1 => try clear_value v'); (on_goal 2 => dsimp -zeta only [v'])) | (have k'' : v'.isSome = v'.isSome := rfl; clear k''; clear_value v') | skip))
    | split)

theorem State.disableLine_keeps {P' : Prop} {o' : State} {s : State} (h : Keeps P' o' s) (b : Nat) :
    Keeps P' o' (State.disableLine s b) := by
  unfold State.disableLine
  repeat' (first
    | with_reducible assumption
    | with_reducible apply State.leaveUp_keeps
    | with_reducible apply State.lineTo_keeps
    | with_reducible apply State.meshNext_keeps
    | ((with_reducible refine State.fset_keeps ?_ _ _ _ ?_); rotate_left; · exact rfl)
    | ((first | intro v' | extract_lets -underBinder +onlyGivenNames v'); (first | (refine_lift have k' : Keeps P' o' v' := ?_; ?_; (on_goal 1 => try clear_value v'); (on_goal 2 => dsimp -zeta only [v'])) | (have k'' : v'.isSome = v'.isSome := rfl; clear k''; clear_value v') | skip))
    | split)

theorem State.retrainLine_keeps {P' : Prop} {o' : State} {s : State} (h : Keeps P' o' s) (b : Nat) :
    Keeps P' o' (State.retrainLine s b) := by
  unfold State.retrainLine
  repeat' (first
    | with_reducible assumption
    | with_reducible apply State.lineTo_keeps
    | with_reducible apply State.setLine_keeps
    | ((with_reducible refine State.fset_keeps ?_ _ _ _ ?_); rotate_left; · exact rfl)
    | split)

theorem execLineEnable_keeps {P' : Prop} {o' : State} (b : LineId) {s : State} (h : Keeps P' o' s) {t : State} (e : execLineEnable b s = .next t) :
    Keeps P' o' t := by
  unfold execLineEnable at e
  injection e with e
  subst e
  repeat' (first
    | with_reducible assumption
    | with_reducible apply State.enableLine_keeps
    | with_reducible apply State.lockWrite_keeps
    | ((with_reducible show ∀ y' : State, Keeps P' o' y' → _); intro y' h')
    | ((with_reducible show ∀ (_ : _) (y' : State), Keeps P' o' y' → _); intro x' y' h')
    | ((with_reducible show ∀ (_ : _) (_ : _) (y' : State), Keeps P' o' y' → _); intro x' z' y' h'))

theorem execLineDisable_keeps {P' : Prop} {o' : State} (b : LineId) {s : State} (h : Keeps P' o' s) {t : State} (e : execLineDisable b s = .next t) :
    Keeps P' o' t := by
  unfold execLineDisable at e
  injection e with e
  subst e
  repeat' (first
    | with_reducible assumption
    | with_reducible apply State.disableLine_keeps
    | with_reducible apply State.lockWrite_keeps
    | ((with_reducible show ∀ y' : State, Keeps P' o' y' → _); intro y' h')
    | ((with_reducible show ∀ (_ : _) (y' : State), Keeps P' o' y' → _); intro x' y' h')
    | ((with_reducible show ∀ (_ : _) (_ : _) (y' : State), Keeps P' o' y' → _); intro x' z' y' h'))

theorem execLineRetrainRequest_keeps {P' : Prop} {o' : State} (b : LineId) {s : State} (h : Keeps P' o' s) {t : State} (e : execLineRetrainRequest b s = .next t) :
    Keeps P' o' t := by
  unfold execLineRetrainRequest at e
  injection e with e
  subst e
  repeat' (first
    | with_reducible assumption
    | with_reducible apply State.retrainLine_keeps
    | with_reducible apply State.woWrite_keeps
    | ((with_reducible show ∀ y' : State, Keeps P' o' y' → _); intro y' h')
    | ((with_reducible show ∀ (_ : _) (y' : State), Keeps P' o' y' → _); intro x' y' h')
    | ((with_reducible show ∀ (_ : _) (_ : _) (y' : State), Keeps P' o' y' → _); intro x' z' y' h'))

theorem execLineSignalDetect_keeps {P' : Prop} {o' : State} (b : LineId) {s : State} (h : Keeps P' o' s) {t : State} (e : execLineSignalDetect b s = .next t) :
    Keeps P' o' t := by
  unfold execLineSignalDetect at e
  injection e with e
  subst e
  repeat' (first
    | with_reducible assumption
    | with_reducible apply State.lineTo_keeps
    | split)

theorem execLineRetryTimer_keeps {P' : Prop} {o' : State} (b : LineId) {s : State} (h : Keeps P' o' s) {t : State} (e : execLineRetryTimer b s = .next t) :
    Keeps P' o' t := by
  unfold execLineRetryTimer at e
  injection e with e
  subst e
  repeat' (first
    | with_reducible assumption
    | with_reducible apply State.lineTo_keeps
    | split)

theorem State.lockLine_keeps {P' : Prop} {o' : State} {s : State} (h : Keeps P' o' s) (b : Nat) (before : Option (Nat × Nat)) :
    Keeps P' o' (State.lockLine s b before) := by
  unfold State.lockLine
  repeat' (first
    | with_reducible assumption
    | with_reducible apply State.lineTo_keeps
    | with_reducible apply State.setLine_keeps
    | with_reducible apply State.drawNat_keeps
    | ((first | intro v' | extract_lets -underBinder +onlyGivenNames v'); (first | (refine_lift have k' : Keeps P' o' v' := ?_; ?_; (on_goal 1 => try clear_value v'); (on_goal 2 => dsimp -zeta only [v'])) | (refine_lift have k' : Keeps P' o' v'.2 := ?_; ?_; (on_goal 1 => try clear_value v'); (on_goal 2 => dsimp -zeta only [v'])) | (have k'' : v'.isSome = v'.isSome := rfl; clear k''; clear_value v') | skip))
    | split)

theorem execLineTrainingLock_keeps {P' : Prop} {o' : State} (b : LineId) {s : State} (h : Keeps P' o' s) {t : State} (e : execLineTrainingLock b s = .next t) :
    Keeps P' o' t := by
  unfold execLineTrainingLock at e
  injection e with e
  subst e
  repeat' (first
    | with_reducible assumption
    | with_reducible apply State.lockLine_keeps
    | split)

theorem execLineTrainingTimeout_keeps {P' : Prop} {o' : State} (b : LineId) {s : State} (h : Keeps P' o' s) {t : State} (e : execLineTrainingTimeout b s = .next t) :
    Keeps P' o' t := by
  unfold execLineTrainingTimeout at e
  injection e with e
  subst e
  repeat' (first
    | with_reducible assumption
    | with_reducible apply State.leaveUp_keeps
    | with_reducible apply State.lineTo_keeps
    | with_reducible apply State.meshNext_keeps
    | with_reducible apply State.setLine_keeps
    | split)

theorem execIdentSendTimer_keeps {P' : Prop} {o' : State} (b : LineId) {s : State} (h : Keeps P' o' s) {t : State} (e : execIdentSendTimer b s = .next t) :
    Keeps P' o' t := by
  unfold execIdentSendTimer at e
  injection e with e
  subst e
  repeat' (first
    | with_reducible assumption
    | with_reducible apply State.setLine_keeps
    | split)

theorem execIdentReceive_keeps {P' : Prop} {o' : State} (b : LineId) (body : List Byte) {s : State} (h : Keeps P' o' s) {t : State} (e : execIdentReceive b body s = .next t) :
    Keeps P' o' t := by
  unfold execIdentReceive at e
  injection e with e
  subst e
  repeat' (first
    | with_reducible assumption
    | with_reducible apply State.takeIdent_keeps)

theorem execLineLossOfLock_keeps {P' : Prop} {o' : State} (b : LineId) {s : State} (h : Keeps P' o' s) {t : State} (e : execLineLossOfLock b s = .next t) :
    Keeps P' o' t := by
  unfold execLineLossOfLock at e
  injection e with e
  subst e
  repeat' (first
    | with_reducible assumption
    | with_reducible apply State.toRetrain_keeps)

theorem execCodewordErrorBurst_keeps {P' : Prop} {o' : State} (b : LineId) {s : State} (h : Keeps P' o' s) {t : State} (e : execCodewordErrorBurst b s = .next t) :
    Keeps P' o' t := by
  unfold execCodewordErrorBurst at e
  injection e with e
  subst e
  repeat' (first
    | with_reducible assumption
    | with_reducible apply State.toRetrain_keeps)

theorem execFlitTransmit_keeps {P' : Prop} {o' : State} (b : LineId) {s : State} (h : Keeps P' o' s) {t : State} (e : execFlitTransmit b s = .next t) :
    Keeps P' o' t := by
  unfold execFlitTransmit at e
  injection e with e
  subst e
  repeat' (first
    | with_reducible assumption
    | with_reducible apply State.sendFlit_keeps)

theorem State.flitArrives_keeps {P' : Prop} {o' : State} {s : State} (h : Keeps P' o' s) (b : Nat) (f : List Byte) (spoiled : Bool) (corrected uncorrectable : Nat) :
    Keeps P' o' (State.flitArrives s b f spoiled corrected uncorrectable) := by
  unfold State.flitArrives
  repeat' (first
    | with_reducible assumption
    | with_reducible apply State.lineCtr_keeps
    | with_reducible apply State.replayCheck_keeps
    | with_reducible apply State.setLine_keeps
    | with_reducible apply State.takeFlit_keeps
    | ((first | intro v' | extract_lets -underBinder +onlyGivenNames v'); (first | (refine_lift have k' : Keeps P' o' v' := ?_; ?_; (on_goal 1 => try clear_value v'); (on_goal 2 => dsimp -zeta only [v'])) | (have k'' : v'.isSome = v'.isSome := rfl; clear k''; clear_value v') | skip))
    | split)

theorem execFlitReceive_keeps {P' : Prop} {o' : State} (b : LineId) (flit : List Byte) (spoiled : Bool) (corrected uncorrectable : Nat) {s : State} (h : Keeps P' o' s) {t : State} (e : execFlitReceive b flit spoiled corrected uncorrectable s = .next t) :
    Keeps P' o' t := by
  unfold execFlitReceive at e
  injection e with e
  subst e
  repeat' (first
    | with_reducible assumption
    | with_reducible apply State.flitArrives_keeps)

theorem execReplayTimeout_keeps {P' : Prop} {o' : State} (b : LineId) {s : State} (h : Keeps P' o' s) {t : State} (e : execReplayTimeout b s = .next t) :
    Keeps P' o' t := by
  unfold execReplayTimeout at e
  injection e with e
  subst e
  repeat' (first
    | with_reducible assumption
    | with_reducible apply State.replayCheck_keeps
    | with_reducible apply State.startReplay_keeps
    | split)

theorem execCableMate_keeps {P' : Prop} {o' : State} (b : LineId) (memory : Option (List Byte)) {s : State} (h : Keeps P' o' s) {t : State} (e : execCableMate b memory s = .next t) :
    Keeps P' o' t := by
  unfold execCableMate at e
  injection e with e
  subst e
  repeat' (first
    | with_reducible assumption
    | with_reducible apply State.lineTo_keeps
    | with_reducible apply State.showCable_keeps
    | ((first | intro v' | extract_lets -underBinder +onlyGivenNames v'); (first | (refine_lift have k' : Keeps P' o' v' := ?_; ?_; (on_goal 1 => try clear_value v'); (on_goal 2 => dsimp -zeta only [v'])) | (have k'' : v'.isSome = v'.isSome := rfl; clear k''; clear_value v') | skip))
    | split)

theorem execCableRemove_keeps {P' : Prop} {o' : State} (b : LineId) {s : State} (h : Keeps P' o' s) {t : State} (e : execCableRemove b s = .next t) :
    Keeps P' o' t := by
  unfold execCableRemove at e
  injection e with e
  subst e
  repeat' (first
    | with_reducible assumption
    | with_reducible apply State.toRetrain_keeps
    | ((with_reducible refine State.rset_keeps ?_ _ _ _ ?_ (fun z => ?_)); rotate_left; · exact rfl)
    | exact Reg.fits_zero _)

theorem execCablePowerFault_keeps {P' : Prop} {o' : State} (b : LineId) {s : State} (h : Keeps P' o' s) {t : State} (e : execCablePowerFault b s = .next t) :
    Keeps P' o' t := by
  unfold execCablePowerFault at e
  injection e with e
  subst e
  repeat' (first
    | with_reducible assumption
    | with_reducible apply State.toRetrain_keeps
    | ((with_reducible refine State.fset_keeps ?_ _ _ _ ?_); rotate_left; · exact rfl)
    | split)

theorem execCableRefresh_keeps {P' : Prop} {o' : State} (b : LineId) (memory : Option (List Byte)) {s : State} (h : Keeps P' o' s) {t : State} (e : execCableRefresh b memory s = .next t) :
    Keeps P' o' t := by
  unfold execCableRefresh at e
  injection e with e
  subst e
  repeat' (first
    | with_reducible assumption
    | with_reducible apply State.showCable_keeps
    | split)

end Sys2Proof.Machine
end

