-- ==== Sys2Proof/Laws/KeepsMirrors.lean ====
section
/-! SUPPORT. What each operation of Machine/Mirrors.lean keeps (Laws/Keeps.lean). -/

set_option linter.unusedTactic false
set_option linter.unreachableTactic false

namespace Sys2Proof.Machine

theorem State.pushWord_keeps {P' : Prop} {o' : State} {s : State} (h : Keeps P' o' s) (off : Nat) :
    Keeps P' o' (State.pushWord s off) := by
  unfold State.pushWord
  repeat' (first
    | with_reducible assumption
    | with_reducible apply State.setSecurity_keeps
    | split)

theorem State.pushJob_keeps {P' : Prop} {o' : State} {s : State} (h : Keeps P' o' s) (j : Nat) :
    Keeps P' o' (State.pushJob s j) := by
  unfold State.pushJob
  repeat' (first
    | with_reducible assumption
    | with_reducible apply State.pushWord_keeps
    | ((with_reducible apply Keeps.foldl); intro s' x' h')
    | ((with_reducible apply Keeps.foldl_fst); intro s' x' h')
    | ((with_reducible apply Keeps.foldl_snd); intro s' x' h'))

theorem State.pushStation_keeps {P' : Prop} {o' : State} {s : State} (h : Keeps P' o' s) (st : Nat) :
    Keeps P' o' (State.pushStation s st) := by
  unfold State.pushStation
  repeat' (first
    | with_reducible assumption
    | with_reducible apply State.pushWord_keeps
    | ((with_reducible apply Keeps.foldl); intro s' x' h')
    | ((with_reducible apply Keeps.foldl_fst); intro s' x' h')
    | ((with_reducible apply Keeps.foldl_snd); intro s' x' h'))

end Sys2Proof.Machine
end

