-- ==== Sys2Proof/Laws/KeepsRuns.lean ====
section
/-! SUPPORT. What each operation of Machine/Runs.lean keeps (Laws/Keeps.lean). -/

set_option linter.unusedTactic false
set_option linter.unreachableTactic false

namespace Sys2Proof.Machine

theorem Station.runOver_canonical {x : Station} (j : Nat) (z : x.Canonical) : (x.runOver j).Canonical :=
  Station.Canonical.lanes_map (f := fun l => { l with ctxs := Tbl.put {} l.ctxs j {} }) z rfl rfl (fun _ => rfl)

theorem State.setBatcher_keeps {P' : Prop} {o' : State} {s : State} (h : Keeps P' o' s) (j : Nat) (b : Batcher) :
    Keeps P' o' (State.setBatcher s j b) := by
  unfold State.setBatcher
  repeat' (first
    | with_reducible assumption
    | with_reducible apply State.setJob_keeps)

theorem State.openBatch_keeps {P' : Prop} {o' : State} {s : State} (h : Keeps P' o' s) (j : Nat) (r : BatchRow) :
    Keeps P' o' (State.openBatch s j r) := by
  unfold State.openBatch
  repeat' (first
    | with_reducible assumption
    | with_reducible apply State.setBatcher_keeps
    | ((first | intro v' | extract_lets -underBinder +onlyGivenNames v'); (first | (refine_lift have k' : Keeps P' o' v' := ?_; ?_; (on_goal 1 => try clear_value v'); (on_goal 2 => dsimp -zeta only [v'])) | (have k'' : v'.isSome = v'.isSome := rfl; clear k''; clear_value v') | skip))
    | split)

theorem State.closeOpen_keeps {P' : Prop} {o' : State} {s : State} (h : Keeps P' o' s) (j : Nat) (b : Batch) (c : CloseCause) :
    Keeps P' o' (State.closeOpen s j b c) := by
  unfold State.closeOpen
  repeat' (first
    | with_reducible assumption
    | with_reducible apply State.requestRun_keeps
    | with_reducible apply State.setBatcher_keeps
    | ((with_reducible refine State.bump_keeps ?_ _ _ _ ?_); rotate_left; · exact rfl)
    | ((first | intro v' | extract_lets -underBinder +onlyGivenNames v'); (first | (refine_lift have k' : Keeps P' o' v' := ?_; ?_; (on_goal 1 => try clear_value v'); (on_goal 2 => dsimp -zeta only [v'])) | (have k'' : v'.isSome = v'.isSome := rfl; clear k''; clear_value v') | skip))
    | split)

theorem State.joinOpen_keeps {P' : Prop} {o' : State} {s : State} (h : Keeps P' o' s) (j : Nat) (b : Batch) (r : BatchRow) (rest : List BatchRow) :
    Keeps P' o' (State.joinOpen s j b r rest) := by
  unfold State.joinOpen
  repeat' (first
    | with_reducible assumption
    | with_reducible apply State.setBatcher_keeps)

theorem State.batchGo_keeps {P' : Prop} {o' : State} {s : State} (h : Keeps P' o' s) (j : Nat) (x0 : Nat) :
    Keeps P' o' (State.batchGo s j x0) := by
  induction x0 generalizing s j with
  | zero =>
    unfold State.batchGo
    repeat' (first
      | with_reducible assumption
      | with_reducible apply State.closeOpen_keeps
      | with_reducible apply State.joinOpen_keeps
      | with_reducible apply State.openBatch_keeps
      | with_reducible apply State.setBatcher_keeps
      | split)
  | succ n ih =>
    unfold State.batchGo
    repeat' (first
      | with_reducible assumption
      | with_reducible apply ih
      | with_reducible apply State.closeOpen_keeps
      | with_reducible apply State.joinOpen_keeps
      | with_reducible apply State.openBatch_keeps
      | with_reducible apply State.setBatcher_keeps
      | split)

theorem State.batches_keeps {P' : Prop} {o' : State} {s : State} (h : Keeps P' o' s) (j : Nat) :
    Keeps P' o' (State.batches s j) := by
  unfold State.batches
  repeat' (first
    | with_reducible assumption
    | with_reducible apply State.batchGo_keeps
    | with_reducible apply State.meshNext_keeps)

theorem State.waitOver_keeps {P' : Prop} {o' : State} {s : State} (h : Keeps P' o' s) (j : Nat) :
    Keeps P' o' (State.waitOver s j) := by
  unfold State.waitOver
  repeat' (first
    | with_reducible assumption
    | with_reducible apply State.batches_keeps
    | with_reducible apply State.closeOpen_keeps
    | with_reducible apply State.setBatcher_keeps
    | split)

theorem State.placeFree_keeps {P' : Prop} {o' : State} {s : State} (h : Keeps P' o' s) (j : Nat) :
    Keeps P' o' (State.placeFree s j) := by
  unfold State.placeFree
  repeat' (first
    | with_reducible assumption
    | with_reducible apply State.batches_keeps
    | split)

theorem State.giveStaging_keeps {P' : Prop} {o' : State} {s : State} (h : Keeps P' o' s) (j : Nat) (e : List Byte) :
    KeepsOpt P' o' (State.giveStaging s j e) := by
  unfold State.giveStaging
  repeat' (first
    | with_reducible assumption
    | with_reducible exact Keeps.opt_none
    | with_reducible apply Keeps.opt_some
    | with_reducible exact Keeps.opt1_none
    | with_reducible apply Keeps.opt1_some
    | with_reducible exact Keeps.opt2_none
    | with_reducible apply Keeps.opt2_some
    | (with_reducible apply Keeps.opt2_map; intro x''; with_reducible apply Keeps.foldl; intro s' x' h')
    | with_reducible apply State.allocScratch_keeps
    | with_reducible apply State.setBatcher_keeps
    | (refine Keeps.ofOpt2 ?_ (by with_reducible assumption))
    | ((first | intro v' | extract_lets -underBinder +onlyGivenNames v'); (first | (refine_lift have k' : Keeps P' o' v' := ?_; ?_; (on_goal 1 => try clear_value v'); (on_goal 2 => dsimp -zeta only [v'])) | (refine_lift have k' : Keeps P' o' v'.2 := ?_; ?_; (on_goal 1 => try clear_value v'); (on_goal 2 => dsimp -zeta only [v'])) | (have k'' : v'.isSome = v'.isSome := rfl; clear k''; clear_value v') | skip))
    | split
    | (clear_value *; split))

theorem State.askRows_keeps {P' : Prop} {o' : State} {s : State} (h : Keeps P' o' s) (p : Nat) (e : List Byte) :
    Keeps P' o' (State.askRows s p e) := by
  unfold State.askRows
  repeat' (first
    | with_reducible assumption
    | with_reducible apply State.setCmd_keeps
    | with_reducible apply State.usePage_keeps
    | ((with_reducible apply Keeps.foldl); intro s' x' h')
    | ((with_reducible apply Keeps.foldl_fst); intro s' x' h')
    | ((with_reducible apply Keeps.foldl_snd); intro s' x' h')
    | ((first | intro v' | extract_lets -underBinder +onlyGivenNames v'); (first | (refine_lift have k' : Keeps P' o' v' := ?_; ?_; (on_goal 1 => try clear_value v'); (on_goal 2 => dsimp -zeta only [v'])) | (have k'' : v'.isSome = v'.isSome := rfl; clear k''; clear_value v') | skip))
    | split)

theorem State.joinRows_keeps {P' : Prop} {o' : State} {s : State} (h : Keeps P' o' s) (p j : Nat) (e : List Byte) :
    Keeps P' o' (State.joinRows s p j e) := by
  unfold State.joinRows
  repeat' (first
    | with_reducible assumption
    | with_reducible apply State.batches_keeps
    | with_reducible apply State.setBatcher_keeps
    | ((first | intro v' | extract_lets -underBinder +onlyGivenNames v'); (first | (refine_lift have k' : Keeps P' o' v' := ?_; ?_; (on_goal 1 => try clear_value v'); (on_goal 2 => dsimp -zeta only [v'])) | (have k'' : v'.isSome = v'.isSome := rfl; clear k''; clear_value v') | skip))
    | split)

theorem State.runTaken_keeps {P' : Prop} {o' : State} (p : Nat) (e : List Byte) {s : State} (h : Keeps P' o' s) :
    Keeps P' o' (State.runTaken p e s) := by
  unfold State.runTaken
  repeat' (first
    | with_reducible assumption
    | with_reducible apply State.askRows_keeps
    | with_reducible apply State.fail_keeps
    | with_reducible apply State.giveStaging_keeps
    | with_reducible apply State.joinRows_keeps
    | with_reducible apply State.requestRun_keeps
    | (refine Keeps.ofOpt ?_ (by with_reducible assumption))
    | ((first | intro v' | extract_lets -underBinder +onlyGivenNames v'); (first | (refine_lift have k' : Keeps P' o' v' := ?_; ?_; (on_goal 1 => try clear_value v'); (on_goal 2 => dsimp -zeta only [v'])) | (have k'' : v'.isSome = v'.isSome := rfl; clear k''; clear_value v') | skip))
    | split
    | (clear_value *; split))

theorem State.runData_keeps {P' : Prop} {o' : State} {s : State} (h : Keeps P' o' s) (p : Nat) :
    Keeps P' o' (State.runData s p) := by
  unfold State.runData
  repeat' (first
    | with_reducible assumption
    | with_reducible apply State.readyNow_keeps
    | with_reducible apply State.wake_keeps
    | ((with_reducible apply Keeps.foldl); intro s' x' h')
    | ((with_reducible apply Keeps.foldl_fst); intro s' x' h')
    | ((with_reducible apply Keeps.foldl_snd); intro s' x' h'))

theorem State.withdrawRows_keeps {P' : Prop} {o' : State} {s : State} (h : Keeps P' o' s) (p : Nat) :
    Keeps P' o' (State.withdrawRows s p) := by
  unfold State.withdrawRows
  repeat' (first
    | with_reducible assumption
    | with_reducible apply State.setJobs_keeps)

theorem State.slowDown_keeps {P' : Prop} {o' : State} {s : State} (h : Keeps P' o' s) (j : Nat) (r : Run) :
    Keeps P' o' (State.slowDown s j r) := by
  unfold State.slowDown
  repeat' (first
    | with_reducible assumption
    | ((with_reducible refine State.fset_keeps ?_ _ _ _ ?_); rotate_left; · exact rfl)
    | ((first | intro v' | extract_lets -underBinder +onlyGivenNames v'); (first | (refine_lift have k' : Keeps P' o' v' := ?_; ?_; (on_goal 1 => try clear_value v'); (on_goal 2 => dsimp -zeta only [v'])) | (have k'' : v'.isSome = v'.isSome := rfl; clear k''; clear_value v') | skip))
    | split)

theorem State.slowAlert_keeps {P' : Prop} {o' : State} {s : State} (h : Keeps P' o' s) (j : Nat) :
    Keeps P' o' (State.slowAlert s j) := by
  unfold State.slowAlert
  repeat' (first
    | with_reducible assumption
    | ((with_reducible refine State.flag_keeps ?_ _ ?_); rotate_left; · exact rfl)
    | ((with_reducible refine State.fset_keeps ?_ _ _ _ ?_); rotate_left; · exact Fld.plain_of_full _ rfl rfl)
    | ((with_reducible refine State.fset_keeps ?_ _ _ _ ?_); rotate_left; · exact rfl)
    | ((first | intro v' | extract_lets -underBinder +onlyGivenNames v'); (first | (refine_lift have k' : Keeps P' o' v' := ?_; ?_; (on_goal 1 => try clear_value v'); (on_goal 2 => dsimp -zeta only [v'])) | (have k'' : v'.isSome = v'.isSome := rfl; clear k''; clear_value v') | skip))
    | split)

theorem State.served_keeps {P' : Prop} {o' : State} {s : State} (h : Keeps P' o' s) (j : Nat) (r : Run) :
    Keeps P' o' (State.served s j r) := by
  unfold State.served
  repeat' (first
    | with_reducible assumption
    | with_reducible apply State.embedRan_keeps
    | with_reducible apply State.failRows_keeps
    | with_reducible apply State.finish_keeps
    | with_reducible apply State.homeRan_keeps
    | with_reducible apply State.originRan_keeps
    | with_reducible apply State.outputRows_keeps
    | with_reducible apply State.sidingDone_keeps
    | ((with_reducible apply Keeps.foldl); intro s' x' h')
    | ((with_reducible apply Keeps.foldl_fst); intro s' x' h')
    | ((with_reducible apply Keeps.foldl_snd); intro s' x' h')
    | split)

theorem State.endRun_keeps {P' : Prop} {o' : State} {s : State} (h : Keeps P' o' s) (j : Nat) (r : Run) :
    Keeps P' o' (State.endRun s j r) := by
  unfold State.endRun
  repeat' (first
    | with_reducible assumption
    | with_reducible apply State.expressTake_keeps
    | with_reducible apply State.handoverCheck_keeps
    | with_reducible apply State.meshNext_keeps
    | with_reducible apply State.pushJob_keeps
    | with_reducible apply State.refresh_keeps
    | with_reducible apply State.releaseLayers_keeps
    | with_reducible apply State.served_keeps
    | with_reducible apply State.setJob_keeps
    | with_reducible apply State.slowAlert_keeps
    | with_reducible apply State.slowDown_keeps
    | ((with_reducible apply Keeps.foldl); intro s' x' h')
    | ((with_reducible apply Keeps.foldl_fst); intro s' x' h')
    | ((with_reducible apply Keeps.foldl_snd); intro s' x' h')
    | ((with_reducible refine State.bump_keeps ?_ _ _ _ ?_); rotate_left; · exact rfl)
    | ((with_reducible refine State.setStn_keeps ?_ _ _ ?_); rotate_left; · exact fun z => Station.runOver_canonical _ z)
    | ((with_reducible refine State.setStn_keeps ?_ _ _ ?_); rotate_left; · exact id)
    | ((first | intro v' | extract_lets -underBinder +onlyGivenNames v'); (first | (refine_lift have k' : Keeps P' o' v' := ?_; ?_; (on_goal 1 => try clear_value v'); (on_goal 2 => dsimp -zeta only [v'])) | (have k'' : v'.isSome = v'.isSome := rfl; clear k''; clear_value v') | skip))
    | split)

theorem State.endMessage_keeps {P' : Prop} {o' : State} {s : State} (h : Keeps P' o' s) (st j : Nat) :
    Keeps P' o' (State.endMessage s st j) := by
  unfold State.endMessage
  repeat' (first
    | with_reducible assumption
    | with_reducible apply State.endRun_keeps
    | with_reducible apply State.setJob_keeps
    | ((first | intro v' | extract_lets -underBinder +onlyGivenNames v'); (first | (refine_lift have k' : Keeps P' o' v' := ?_; ?_; (on_goal 1 => try clear_value v'); (on_goal 2 => dsimp -zeta only [v'])) | (have k'' : v'.isSome = v'.isSome := rfl; clear k''; clear_value v') | skip))
    | split
    | (clear_value *; split))

theorem State.dropCopies_keeps {P' : Prop} {o' : State} {s : State} (h : Keeps P' o' s) (st j : Nat) :
    Keeps P' o' (State.dropCopies s st j) := by
  unfold State.dropCopies
  repeat' (first
    | with_reducible assumption
    | with_reducible apply State.dropCopy_keeps
    | ((with_reducible apply Keeps.foldl); intro s' x' h')
    | ((with_reducible apply Keeps.foldl_fst); intro s' x' h')
    | ((with_reducible apply Keeps.foldl_snd); intro s' x' h'))

theorem State.abandonReport_keeps {P' : Prop} {o' : State} {s : State} (h : Keeps P' o' s) (st j : Nat) :
    Keeps P' o' (State.abandonReport s st j) := by
  unfold State.abandonReport
  repeat' (first
    | with_reducible assumption
    | with_reducible apply State.dropCopies_keeps
    | with_reducible apply State.endRun_keeps
    | with_reducible apply State.report_keeps
    | ((first | intro v' | extract_lets -underBinder +onlyGivenNames v'); (first | (refine_lift have k' : Keeps P' o' v' := ?_; ?_; (on_goal 1 => try clear_value v'); (on_goal 2 => dsimp -zeta only [v'])) | (have k'' : v'.isSome = v'.isSome := rfl; clear k''; clear_value v') | skip))
    | split
    | (clear_value *; split))

theorem State.visit_keeps {P' : Prop} {o' : State} {s : State} (h : Keeps P' o' s) (st j : Nat) :
    Keeps P' o' (State.visit s st j) := by
  unfold State.visit
  repeat' (first
    | with_reducible assumption
    | with_reducible apply State.giveStation_keeps
    | with_reducible apply State.setBalance_keeps
    | ((with_reducible refine State.setStn_keeps ?_ _ _ ?_); rotate_left; · exact id)
    | ((first | intro v' | extract_lets -underBinder +onlyGivenNames v'); (first | (refine_lift have k' : Keeps P' o' v' := ?_; ?_; (on_goal 1 => try clear_value v'); (on_goal 2 => dsimp -zeta only [v'])) | (have k'' : v'.isSome = v'.isSome := rfl; clear k''; clear_value v') | skip))
    | split)

theorem State.dispatch_keeps {P' : Prop} {o' : State} {s : State} (h : Keeps P' o' s) (st : Nat) :
    Keeps P' o' (State.dispatch s st) := by
  unfold State.dispatch
  repeat' (first
    | with_reducible assumption
    | with_reducible apply State.giveStation_keeps
    | with_reducible apply State.visit_keeps
    | with_reducible apply visit_keeps
    | (refine Keeps.of_fst_eq ?_ (by with_reducible assumption))
    | split)

theorem State.balanceSpent_keeps {P' : Prop} {o' : State} {s : State} (h : Keeps P' o' s) (st : Nat) :
    Keeps P' o' (State.balanceSpent s st) := by
  unfold State.balanceSpent
  repeat' (first
    | with_reducible assumption
    | with_reducible apply State.orderOut_keeps
    | with_reducible apply State.passTime_keeps
    | split)

theorem State.cutPass_keeps {P' : Prop} {o' : State} {s : State} (h : Keeps P' o' s) (st n i : Nat) :
    Keeps P' o' (State.cutPass s st n i) := by
  unfold State.cutPass
  repeat' (first
    | with_reducible assumption
    | with_reducible apply State.setCtx_keeps
    | ((with_reducible refine State.bump_keeps ?_ _ _ _ ?_); rotate_left; · exact rfl)
    | ((with_reducible refine State.setLane_keeps ?_ _ _ _ ?_); rotate_left; · exact id)
    | ((first | intro v' | extract_lets -underBinder +onlyGivenNames v'); (first | (refine_lift have k' : Keeps P' o' v' := ?_; ?_; (on_goal 1 => try clear_value v'); (on_goal 2 => dsimp -zeta only [v'])) | (have k'' : v'.isSome = v'.isSome := rfl; clear k''; clear_value v') | skip))
    | split
    | (clear_value *; split))

theorem State.giveUpMisses_keeps {P' : Prop} {o' : State} {s : State} (h : Keeps P' o' s) (st n : Nat) (c : CopyRun) :
    Keeps P' o' (State.giveUpMisses s st n c) := by
  unfold State.giveUpMisses
  repeat' (first
    | with_reducible assumption
    | with_reducible apply State.putCopy_keeps
    | ((first | intro v' | extract_lets -underBinder +onlyGivenNames v'); (first | (refine_lift have k' : Keeps P' o' v' := ?_; ?_; (on_goal 1 => try clear_value v'); (on_goal 2 => dsimp -zeta only [v'])) | (have k'' : v'.isSome = v'.isSome := rfl; clear k''; clear_value v') | skip))
    | split
    | (clear_value *; split))

theorem State.endWide_keeps {P' : Prop} {o' : State} {s : State} (h : Keeps P' o' s) (st n i : Nat) :
    Keeps P' o' (State.endWide s st n i) := by
  unfold State.endWide
  repeat' (first
    | with_reducible assumption
    | with_reducible apply State.cutPass_keeps
    | with_reducible apply State.widePassDone_keeps
    | with_reducible apply State.drawBool_keeps
    | ((first | intro v' | extract_lets -underBinder +onlyGivenNames v'); (first | (refine_lift have k' : Keeps P' o' v' := ?_; ?_; (on_goal 1 => try clear_value v'); (on_goal 2 => dsimp -zeta only [v'])) | (refine_lift have k' : Keeps P' o' v'.2 := ?_; ?_; (on_goal 1 => try clear_value v'); (on_goal 2 => dsimp -zeta only [v'])) | (have k'' : v'.isSome = v'.isSome := rfl; clear k''; clear_value v') | skip))
    | split)

theorem State.partEnd_keeps {P' : Prop} {o' : State} {s : State} (h : Keeps P' o' s) (st n : Nat) :
    Keeps P' o' (State.partEnd s st n) := by
  unfold State.partEnd
  repeat' (first
    | with_reducible assumption
    | with_reducible apply State.cutPass_keeps
    | with_reducible apply State.endWide_keeps
    | with_reducible apply State.giveUpMisses_keeps
    | ((with_reducible apply Keeps.foldl); intro s' x' h')
    | ((with_reducible apply Keeps.foldl_fst); intro s' x' h')
    | ((with_reducible apply Keeps.foldl_snd); intro s' x' h')
    | ((with_reducible refine State.setLane_keeps ?_ _ _ _ ?_); rotate_left; · exact id)
    | ((first | intro v' | extract_lets -underBinder +onlyGivenNames v'); (first | (refine_lift have k' : Keeps P' o' v' := ?_; ?_; (on_goal 1 => try clear_value v'); (on_goal 2 => dsimp -zeta only [v'])) | (have k'' : v'.isSome = v'.isSome := rfl; clear k''; clear_value v') | skip))
    | split
    | (clear_value *; split))

theorem State.swapLane_keeps {P' : Prop} {o' : State} (st : Nat) {s : State} (h : Keeps P' o' s) (n : Nat) :
    Keeps P' o' (State.swapLane st s n) := by
  unfold State.swapLane
  repeat' (first
    | with_reducible assumption
    | with_reducible apply State.ahead_keeps
    | with_reducible apply State.charge_keeps
    | with_reducible apply State.feedNext_keeps
    | with_reducible apply State.lrAdd_keeps
    | ((with_reducible refine State.fset_keeps ?_ _ _ _ ?_); rotate_left; · exact rfl)
    | ((with_reducible refine State.setLane_keeps ?_ _ _ _ ?_); rotate_left; · exact id)
    | ((first | intro v' | extract_lets -underBinder +onlyGivenNames v'); (first | (refine_lift have k' : Keeps P' o' v' := ?_; ?_; (on_goal 1 => try clear_value v'); (on_goal 2 => dsimp -zeta only [v'])) | (have k'' : v'.isSome = v'.isSome := rfl; clear k''; clear_value v') | skip))
    | split
    | (clear_value *; split))

theorem State.switchOver_keeps {P' : Prop} {o' : State} {s : State} (h : Keeps P' o' s) (st : Nat) (was : List Nat) :
    Keeps P' o' (State.switchOver s st was) := by
  unfold State.switchOver
  repeat' (first
    | with_reducible assumption
    | with_reducible apply State.refresh_keeps
    | ((with_reducible apply Keeps.foldl); intro s' x' h')
    | ((with_reducible apply Keeps.foldl_fst); intro s' x' h')
    | ((with_reducible apply Keeps.foldl_snd); intro s' x' h')
    | ((with_reducible refine State.bump_keeps ?_ _ _ _ ?_); rotate_left; · exact rfl)
    | ((with_reducible refine State.setStn_keeps ?_ _ _ ?_); rotate_left; · exact fun z => Station.Canonical.lanes_map (f := fun l => { l with swapped := false }) z rfl rfl (fun _ => rfl))
    | ((with_reducible refine State.setStn_keeps ?_ _ _ ?_); rotate_left; · exact id)
    | ((first | intro v' | extract_lets -underBinder +onlyGivenNames v'); (first | (refine_lift have k' : Keeps P' o' v' := ?_; ?_; (on_goal 1 => try clear_value v'); (on_goal 2 => dsimp -zeta only [v'])) | (have k'' : v'.isSome = v'.isSome := rfl; clear k''; clear_value v') | skip))
    | split
    | (clear_value *; split))

theorem State.swapEnd_keeps {P' : Prop} {o' : State} {s : State} (h : Keeps P' o' s) (st : Nat) :
    Keeps P' o' (State.swapEnd s st) := by
  unfold State.swapEnd
  repeat' (first
    | with_reducible assumption
    | with_reducible apply State.swapLane_keeps
    | with_reducible apply State.switchOver_keeps
    | ((with_reducible apply Keeps.foldl); intro s' x' h')
    | ((with_reducible apply Keeps.foldl_fst); intro s' x' h')
    | ((with_reducible apply Keeps.foldl_snd); intro s' x' h')
    | ((first | intro v' | extract_lets -underBinder +onlyGivenNames v'); (first | (refine_lift have k' : Keeps P' o' v' := ?_; ?_; (on_goal 1 => try clear_value v'); (on_goal 2 => dsimp -zeta only [v'])) | (have k'' : v'.isSome = v'.isSome := rfl; clear k''; clear_value v') | skip))
    | split)

theorem execRun_keeps {P' : Prop} {o' : State} (q : QueueId) {s : State} (h : Keeps P' o' s) {t : State} (e : execRun q s = .next t) :
    Keeps P' o' t := by
  unfold execRun at e
  injection e with e
  subst e
  repeat' (first
    | with_reducible assumption
    | with_reducible apply State.onEntry_keeps
    | with_reducible apply State.runTaken_keeps
    | ((with_reducible show ∀ y' : State, Keeps P' o' y' → _); intro y' h')
    | ((with_reducible show ∀ (_ : _) (y' : State), Keeps P' o' y' → _); intro x' y' h')
    | ((with_reducible show ∀ (_ : _) (_ : _) (y' : State), Keeps P' o' y' → _); intro x' z' y' h'))

theorem execBatchWaitExpiry_keeps {P' : Prop} {o' : State} (j : JobId) {s : State} (h : Keeps P' o' s) {t : State} (e : execBatchWaitExpiry j s = .next t) :
    Keeps P' o' t := by
  unfold execBatchWaitExpiry at e
  injection e with e
  subst e
  repeat' (first
    | with_reducible assumption
    | with_reducible apply State.waitOver_keeps)

theorem execBatchPlaceFree_keeps {P' : Prop} {o' : State} (j : JobId) {s : State} (h : Keeps P' o' s) {t : State} (e : execBatchPlaceFree j s = .next t) :
    Keeps P' o' t := by
  unfold execBatchPlaceFree at e
  injection e with e
  subst e
  repeat' (first
    | with_reducible assumption
    | with_reducible apply State.placeFree_keeps)

theorem execDispatcherVisit_keeps {P' : Prop} {o' : State} (st : StationId) {s : State} (h : Keeps P' o' s) {t : State} (e : execDispatcherVisit st s = .next t) :
    Keeps P' o' t := by
  unfold execDispatcherVisit at e
  injection e with e
  subst e
  repeat' (first
    | with_reducible assumption
    | with_reducible apply State.dispatch_keeps)

theorem execBalanceExhausted_keeps {P' : Prop} {o' : State} (st : StationId) {s : State} (h : Keeps P' o' s) {t : State} (e : execBalanceExhausted st s = .next t) :
    Keeps P' o' t := by
  unfold execBalanceExhausted at e
  injection e with e
  subst e
  repeat' (first
    | with_reducible assumption
    | with_reducible apply State.balanceSpent_keeps)

theorem execSwitchPartEnd_keeps {P' : Prop} {o' : State} (st : StationId) (n : LaneRowId) {s : State} (h : Keeps P' o' s) {t : State} (e : execSwitchPartEnd st n s = .next t) :
    Keeps P' o' t := by
  unfold execSwitchPartEnd at e
  injection e with e
  subst e
  repeat' (first
    | with_reducible assumption
    | with_reducible apply State.partEnd_keeps)

theorem execSwapEnd_keeps {P' : Prop} {o' : State} (st : StationId) {s : State} (h : Keeps P' o' s) {t : State} (e : execSwapEnd st s = .next t) :
    Keeps P' o' t := by
  unfold execSwapEnd at e
  injection e with e
  subst e
  repeat' (first
    | with_reducible assumption
    | with_reducible apply State.swapEnd_keeps)

theorem execStationEndMessage_keeps {P' : Prop} {o' : State} (st : StationId) (j : JobId) {s : State} (h : Keeps P' o' s) {t : State} (e : execStationEndMessage st j s = .next t) :
    Keeps P' o' t := by
  unfold execStationEndMessage at e
  injection e with e
  subst e
  repeat' (first
    | with_reducible assumption
    | with_reducible apply State.endMessage_keeps)

theorem execAbandonReport_keeps {P' : Prop} {o' : State} (st : StationId) (j : JobId) {s : State} (h : Keeps P' o' s) {t : State} (e : execAbandonReport st j s = .next t) :
    Keeps P' o' t := by
  unfold execAbandonReport at e
  injection e with e
  subst e
  repeat' (first
    | with_reducible assumption
    | with_reducible apply State.abandonReport_keeps)

end Sys2Proof.Machine
end

