-- ==== Sys2Proof/Laws/KeepsAbort.lean ====
section
/-! SUPPORT. What each operation of Machine/Abort.lean keeps (Laws/Keeps.lean). -/

set_option linter.unusedTactic false
set_option linter.unreachableTactic false

namespace Sys2Proof.Machine

theorem State.withdrawRequest_keeps {P' : Prop} {o' : State} {s : State} (h : Keeps P' o' s) (p : Nat) (j : Nat) :
    Keeps P' o' (State.withdrawRequest s p j) := by
  unfold State.withdrawRequest
  repeat' (first
    | with_reducible assumption
    | with_reducible apply State.refresh_keeps
    | with_reducible apply State.setJob_keeps
    | ((with_reducible apply Keeps.foldl); intro s' x' h')
    | ((with_reducible apply Keeps.foldl_fst); intro s' x' h')
    | ((with_reducible apply Keeps.foldl_snd); intro s' x' h')
    | ((with_reducible refine State.fset_keeps ?_ _ _ _ ?_); rotate_left; · exact rfl)
    | ((with_reducible refine State.setStn_keeps ?_ _ _ ?_); rotate_left; · exact id)
    | ((first | intro v' | extract_lets -underBinder +onlyGivenNames v'); (first | (refine_lift have k' : Keeps P' o' v' := ?_; ?_; (on_goal 1 => try clear_value v'); (on_goal 2 => dsimp -zeta only [v'])) | (have k'' : v'.isSome = v'.isSome := rfl; clear k''; clear_value v') | skip))
    | split)

theorem State.leaveEmbed_keeps {P' : Prop} {o' : State} {s : State} (h : Keeps P' o' s) (p : Nat) :
    Keeps P' o' (State.leaveEmbed s p) := by
  unfold State.leaveEmbed
  repeat' (first
    | with_reducible assumption
    | with_reducible apply State.dropEmbed_keeps
    | with_reducible apply State.store_keeps
    | with_reducible apply State.drawBytes_keeps
    | ((first | intro v' | extract_lets -underBinder +onlyGivenNames v'); (first | (refine_lift have k' : Keeps P' o' v' := ?_; ?_; (on_goal 1 => try clear_value v'); (on_goal 2 => dsimp -zeta only [v'])) | (refine_lift have k' : Keeps P' o' v'.2 := ?_; ?_; (on_goal 1 => try clear_value v'); (on_goal 2 => dsimp -zeta only [v'])) | (have k'' : v'.isSome = v'.isSome := rfl; clear k''; clear_value v') | skip))
    | split
    | (clear_value *; split))

theorem State.leaveStitch_keeps {P' : Prop} {o' : State} {s : State} (h : Keeps P' o' s) (p : Nat) :
    Keeps P' o' (State.leaveStitch s p) := by
  unfold State.leaveStitch
  repeat' (first
    | with_reducible assumption
    | with_reducible apply State.popStitch_keeps
    | with_reducible apply State.setTt_keeps
    | with_reducible apply State.stitchKick_keeps
    | with_reducible apply State.unload_keeps
    | split)

theorem State.leaves_keeps {P' : Prop} {o' : State} {s : State} (h : Keeps P' o' s) (p : Nat) :
    Keeps P' o' (State.leaves s p) := by
  unfold State.leaves
  repeat' (first
    | with_reducible assumption
    | with_reducible apply State.leaveEmbed_keeps
    | with_reducible apply State.leaveStitch_keeps
    | with_reducible apply State.settleRelease_keeps
    | with_reducible apply State.settleWrite_keeps
    | with_reducible apply State.withdrawRequest_keeps
    | ((first | intro v' | extract_lets -underBinder +onlyGivenNames v'); (first | (refine_lift have k' : Keeps P' o' v' := ?_; ?_; (on_goal 1 => try clear_value v'); (on_goal 2 => dsimp -zeta only [v'])) | (have k'' : v'.isSome = v'.isSome := rfl; clear k''; clear_value v') | skip))
    | split)

theorem State.stopped_keeps {P' : Prop} {o' : State} {s : State} (h : Keeps P' o' s) (p : Nat) :
    Keeps P' o' (State.stopped s p) := by
  unfold State.stopped
  repeat' (first
    | with_reducible assumption
    | with_reducible apply State.freeContexts_keeps
    | with_reducible apply State.leaves_keeps
    | with_reducible apply State.mutate_keeps
    | ((with_reducible apply Keeps.foldl); intro s' x' h')
    | ((with_reducible apply Keeps.foldl_fst); intro s' x' h')
    | ((with_reducible apply Keeps.foldl_snd); intro s' x' h')
    | ((first | intro v' | extract_lets -underBinder +onlyGivenNames v'); (first | (refine_lift have k' : Keeps P' o' v' := ?_; ?_; (on_goal 1 => try clear_value v'); (on_goal 2 => dsimp -zeta only [v'])) | (have k'' : v'.isSome = v'.isSome := rfl; clear k''; clear_value v') | skip))
    | split)

theorem State.abort_keeps {P' : Prop} {o' : State} {s : State} (h : Keeps P' o' s) (p status : Nat) :
    Keeps P' o' (State.abort s p status) := by
  unfold State.abort
  repeat' (first
    | with_reducible assumption
    | with_reducible apply State.decide_keeps
    | with_reducible apply State.stopped_keeps
    | with_reducible apply State.wake_keeps
    | ((with_reducible refine State.setHost_keeps ?_ _ ?_); rotate_left; · exact rfl)
    | ((first | intro v' | extract_lets -underBinder +onlyGivenNames v'); (first | (refine_lift have k' : Keeps P' o' v' := ?_; ?_; (on_goal 1 => try clear_value v'); (on_goal 2 => dsimp -zeta only [v'])) | (have k'' : v'.isSome = v'.isSome := rfl; clear k''; clear_value v') | skip))
    | split)

theorem State.arrive_keeps {P' : Prop} {o' : State} {s : State} (h : Keeps P' o' s) (p : Nat) :
    Keeps P' o' (State.arrive s p) := by
  unfold State.arrive
  repeat' (first
    | with_reducible assumption
    | with_reducible apply State.unmapSection_keeps
    | with_reducible apply State.wrote_keeps
    | ((with_reducible apply Keeps.foldl); intro s' x' h')
    | ((with_reducible apply Keeps.foldl_fst); intro s' x' h')
    | ((with_reducible apply Keeps.foldl_snd); intro s' x' h')
    | ((first | intro v' | extract_lets -underBinder +onlyGivenNames v'); (first | (refine_lift have k' : Keeps P' o' v' := ?_; ?_; (on_goal 1 => try clear_value v'); (on_goal 2 => dsimp -zeta only [v'])) | (have k'' : v'.isSome = v'.isSome := rfl; clear k''; clear_value v') | skip))
    | split)

theorem State.arrival_keeps {P' : Prop} {o' : State} {s : State} (h : Keeps P' o' s) (p : Nat) :
    Keeps P' o' (State.arrival s p) := by
  unfold State.arrival
  repeat' (first
    | with_reducible assumption
    | with_reducible apply State.arrive_keeps
    | with_reducible apply State.decide_keeps)

theorem State.endByReset_keeps {P' : Prop} {o' : State} {s : State} (h : Keeps P' o' s) (p : Nat) :
    Keeps P' o' (State.endByReset s p) := by
  unfold State.endByReset
  repeat' (first
    | with_reducible assumption
    | with_reducible apply State.abort_keeps
    | with_reducible apply State.arrival_keeps
    | split)

theorem State.resetQueue_keeps {P' : Prop} {o' : State} {s : State} (h : Keeps P' o' s) (q : Nat) (by_ : Option Nat) (deleting : Bool) :
    Keeps P' o' (State.resetQueue s q by_ deleting) := by
  unfold State.resetQueue
  repeat' (first
    | with_reducible assumption
    | with_reducible apply State.adminReady_keeps
    | with_reducible apply State.endByReset_keeps
    | with_reducible apply State.finishReset_keeps
    | with_reducible apply State.setQcfg_keeps
    | ((with_reducible apply Keeps.foldl); intro s' x' h')
    | ((with_reducible apply Keeps.foldl_fst); intro s' x' h')
    | ((with_reducible apply Keeps.foldl_snd); intro s' x' h')
    | ((with_reducible refine State.fset_keeps ?_ _ _ _ ?_); rotate_left; · exact rfl)
    | ((first | intro v' | extract_lets -underBinder +onlyGivenNames v'); (first | (refine_lift have k' : Keeps P' o' v' := ?_; ?_; (on_goal 1 => try clear_value v'); (on_goal 2 => dsimp -zeta only [v'])) | (have k'' : v'.isSome = v'.isSome := rfl; clear k''; clear_value v') | skip))
    | split)

theorem State.undeliver_keeps {P' : Prop} {o' : State} {s : State} (h : Keeps P' o' s) (p : Nat) :
    Keeps P' o' (State.undeliver s p) := by
  unfold State.undeliver
  repeat' (first
    | with_reducible assumption
    | with_reducible apply State.setCmd_keeps
    | with_reducible apply State.stopped_keeps
    | ((with_reducible refine State.bump_keeps ?_ _ _ _ ?_); rotate_left; · exact rfl)
    | ((with_reducible refine State.setHost_keeps ?_ _ ?_); rotate_left; · exact rfl)
    | ((first | intro v' | extract_lets -underBinder +onlyGivenNames v'); (first | (refine_lift have k' : Keeps P' o' v' := ?_; ?_; (on_goal 1 => try clear_value v'); (on_goal 2 => dsimp -zeta only [v'])) | (have k'' : v'.isSome = v'.isSome := rfl; clear k''; clear_value v') | skip))
    | split)

theorem State.linkLost_keeps {P' : Prop} {o' : State} {s0 : State} (h0 : Keeps P' o' s0) :
    Keeps P' o' (State.linkLost s0) := by
  unfold State.linkLost
  have h : Keeps P' o' (s0.setHost { s0.host with link := none }) := State.setHost_keeps h0 _ rfl
  revert h
  generalize s0.setHost { s0.host with link := none } = s
  intro h
  dsimp only
  refine State.wake_keeps ?_
  have k1 := Keeps.foldl (fun s' x' h' => State.undeliver_keeps h' x') ((s.host.cmds.filter (fun e => e.2.live)).map (·.1)) h
  revert k1
  generalize List.foldl State.undeliver s _ = s1
  intro k1
  have k2 := State.fset_keeps (State.setHost_keeps k1 { s1.host with held := [] } rfl) F.queClass0Outstanding 0 0 rfl
  revert k2
  generalize State.fset _ F.queClass0Outstanding 0 0 = s2
  intro k2
  have k3 := Keeps.foldl (fun s' x' h' => State.deleteQueue_keeps h' x') (List.range 1024) k2
  revert k3
  generalize List.foldl _ s2 _ = s3
  intro k3
  exact State.setHost_keeps (State.adminReady_keeps (State.fset_keeps k3 _ _ _ rfl)) _ rfl

theorem State.abandonMedia_keeps {P' : Prop} {o' : State} {s : State} (h : Keeps P' o' s) (status : Nat) :
    Keeps P' o' (State.abandonMedia s status) := by
  unfold State.abandonMedia
  repeat' (first
    | with_reducible assumption
    | with_reducible apply State.abandonRun_keeps
    | ((with_reducible apply Keeps.foldl); intro s' x' h')
    | ((with_reducible apply Keeps.foldl_fst); intro s' x' h')
    | ((with_reducible apply Keeps.foldl_snd); intro s' x' h')
    | split)

theorem State.clearMediaWork_keeps {P' : Prop} {o' : State} {s : State} (h : Keeps P' o' s) (status : Nat) :
    Keeps P' o' (State.clearMediaWork s status) := by
  unfold State.clearMediaWork
  repeat' (first
    | with_reducible assumption
    | with_reducible apply State.abandonMedia_keeps
    | with_reducible apply State.abort_keeps
    | ((with_reducible apply Keeps.foldl); intro s' x' h')
    | ((with_reducible apply Keeps.foldl_fst); intro s' x' h')
    | ((with_reducible apply Keeps.foldl_snd); intro s' x' h')
    | ((first | intro v' | extract_lets -underBinder +onlyGivenNames v'); (first | (refine_lift have k' : Keeps P' o' v' := ?_; ?_; (on_goal 1 => try clear_value v'); (on_goal 2 => dsimp -zeta only [v'])) | (have k'' : v'.isSome = v'.isSome := rfl; clear k''; clear_value v') | skip))
    | split)

end Sys2Proof.Machine
end

