-- ==== Sys2Proof/Laws/KeepsQueueRows.lean ====
section
/-! SUPPORT. What each operation of Machine/QueueRows.lean keeps (Laws/Keeps.lean). -/

set_option linter.unusedTactic false
set_option linter.unreachableTactic false

namespace Sys2Proof.Machine

theorem State.setCq_keeps {P' : Prop} {o' : State} {s : State} (h : Keeps P' o' s) (q vector : Nat) :
    Keeps P' o' (State.setCq s q vector) := by
  unfold State.setCq
  repeat' (first
    | with_reducible assumption
    | ((with_reducible refine State.fset_keeps ?_ _ _ _ ?_); rotate_left; · exact rfl)
    | ((with_reducible refine State.rset_keeps ?_ _ _ _ ?_ (fun z => ?_)); rotate_left; · exact rfl)
    | exact Reg.fits_zero _
    | ((first | intro v' | extract_lets -underBinder +onlyGivenNames v'); (first | (refine_lift have k' : Keeps P' o' v' := ?_; ?_; (on_goal 1 => try clear_value v'); (on_goal 2 => dsimp -zeta only [v'])) | (have k'' : v'.isSome = v'.isSome := rfl; clear k''; clear_value v') | skip))
    | split)

theorem State.setQueue_keeps {P' : Prop} {o' : State} {s : State} (h : Keeps P' o' s) (q cls cq : Nat) :
    Keeps P' o' (State.setQueue s q cls cq) := by
  unfold State.setQueue
  repeat' (first
    | with_reducible assumption
    | ((with_reducible refine State.fset_keeps ?_ _ _ _ ?_); rotate_left; · exact rfl)
    | ((with_reducible refine State.rset_keeps ?_ _ _ _ ?_ (fun z => ?_)); rotate_left; · exact rfl)
    | exact Reg.fits_zero _
    | ((first | intro v' | extract_lets -underBinder +onlyGivenNames v'); (first | (refine_lift have k' : Keeps P' o' v' := ?_; ?_; (on_goal 1 => try clear_value v'); (on_goal 2 => dsimp -zeta only [v'])) | (have k'' : v'.isSome = v'.isSome := rfl; clear k''; clear_value v') | skip))
    | split)

theorem State.createTaken_keeps {P' : Prop} {o' : State} (p : Nat) (e : List Byte) {s : State} (h : Keeps P' o' s) :
    Keeps P' o' (State.createTaken p e s) := by
  unfold State.createTaken
  repeat' (first
    | with_reducible assumption
    | with_reducible apply State.fail_keeps
    | with_reducible apply State.finish_keeps
    | with_reducible apply State.setCq_keeps
    | with_reducible apply State.setQcfg_keeps
    | with_reducible apply State.setQueue_keeps
    | ((first | intro v' | extract_lets -underBinder +onlyGivenNames v'); (first | (refine_lift have k' : Keeps P' o' v' := ?_; ?_; (on_goal 1 => try clear_value v'); (on_goal 2 => dsimp -zeta only [v'])) | (have k'' : v'.isSome = v'.isSome := rfl; clear k''; clear_value v') | skip))
    | split)

theorem State.resetTaken_keeps {P' : Prop} {o' : State} (p : Nat) (e : List Byte) {s : State} (h : Keeps P' o' s) :
    Keeps P' o' (State.resetTaken p e s) := by
  unfold State.resetTaken
  repeat' (first
    | with_reducible assumption
    | with_reducible apply State.fail_keeps
    | with_reducible apply State.resetQueue_keeps
    | split)

theorem State.deleteTaken_keeps {P' : Prop} {o' : State} (p : Nat) (e : List Byte) {s : State} (h : Keeps P' o' s) :
    Keeps P' o' (State.deleteTaken p e s) := by
  unfold State.deleteTaken
  repeat' (first
    | with_reducible assumption
    | with_reducible apply State.fail_keeps
    | with_reducible apply State.resetQueue_keeps
    | split)

theorem execQueueCreate_keeps {P' : Prop} {o' : State} (q : QueueId) {s : State} (h : Keeps P' o' s) {t : State} (e : execQueueCreate q s = .next t) :
    Keeps P' o' t := by
  unfold execQueueCreate at e
  injection e with e
  subst e
  repeat' (first
    | with_reducible assumption
    | with_reducible apply State.adminOnly_keeps
    | with_reducible apply State.createTaken_keeps
    | with_reducible apply State.onEntry_keeps
    | ((with_reducible show ∀ y' : State, Keeps P' o' y' → _); intro y' h')
    | ((with_reducible show ∀ (_ : _) (y' : State), Keeps P' o' y' → _); intro x' y' h')
    | ((with_reducible show ∀ (_ : _) (_ : _) (y' : State), Keeps P' o' y' → _); intro x' z' y' h'))

theorem execQueueReset_keeps {P' : Prop} {o' : State} (q : QueueId) {s : State} (h : Keeps P' o' s) {t : State} (e : execQueueReset q s = .next t) :
    Keeps P' o' t := by
  unfold execQueueReset at e
  injection e with e
  subst e
  repeat' (first
    | with_reducible assumption
    | with_reducible apply State.adminOnly_keeps
    | with_reducible apply State.onEntry_keeps
    | with_reducible apply State.resetTaken_keeps
    | ((with_reducible show ∀ y' : State, Keeps P' o' y' → _); intro y' h')
    | ((with_reducible show ∀ (_ : _) (y' : State), Keeps P' o' y' → _); intro x' y' h')
    | ((with_reducible show ∀ (_ : _) (_ : _) (y' : State), Keeps P' o' y' → _); intro x' z' y' h'))

theorem execQueueDelete_keeps {P' : Prop} {o' : State} (q : QueueId) {s : State} (h : Keeps P' o' s) {t : State} (e : execQueueDelete q s = .next t) :
    Keeps P' o' t := by
  unfold execQueueDelete at e
  injection e with e
  subst e
  repeat' (first
    | with_reducible assumption
    | with_reducible apply State.adminOnly_keeps
    | with_reducible apply State.deleteTaken_keeps
    | with_reducible apply State.onEntry_keeps
    | ((with_reducible show ∀ y' : State, Keeps P' o' y' → _); intro y' h')
    | ((with_reducible show ∀ (_ : _) (y' : State), Keeps P' o' y' → _); intro x' y' h')
    | ((with_reducible show ∀ (_ : _) (_ : _) (y' : State), Keeps P' o' y' → _); intro x' z' y' h'))

theorem execUnknownOpcode_keeps {P' : Prop} {o' : State} (q : QueueId) {s : State} (h : Keeps P' o' s) {t : State} (e : execUnknownOpcode q s = .next t) :
    Keeps P' o' t := by
  unfold execUnknownOpcode at e
  injection e with e
  subst e
  repeat' (first
    | with_reducible assumption
    | with_reducible apply State.fail_keeps
    | with_reducible apply State.onEntry_keeps
    | ((with_reducible show ∀ y' : State, Keeps P' o' y' → _); intro y' h')
    | ((with_reducible show ∀ (_ : _) (y' : State), Keeps P' o' y' → _); intro x' y' h')
    | ((with_reducible show ∀ (_ : _) (_ : _) (y' : State), Keeps P' o' y' → _); intro x' z' y' h'))

theorem State.takeBad_keeps {P' : Prop} {o' : State} {s : State} (h : Keeps P' o' s) (q : Nat) :
    Keeps P' o' (State.takeBad s q) := by
  unfold State.takeBad
  repeat' (first
    | with_reducible assumption
    | with_reducible apply State.countWaits_keeps
    | with_reducible apply State.fail_keeps
    | with_reducible apply State.setCmd_keeps
    | with_reducible apply State.takeInto_keeps
    | ((with_reducible refine State.bump_keeps ?_ _ _ _ ?_); rotate_left; · exact rfl)
    | ((first | intro v' | extract_lets -underBinder +onlyGivenNames v'); (first | (refine_lift have k' : Keeps P' o' v' := ?_; ?_; (on_goal 1 => try clear_value v'); (on_goal 2 => dsimp -zeta only [v'])) | (have k'' : v'.isSome = v'.isSome := rfl; clear k''; clear_value v') | skip))
    | split
    | (clear_value *; split))

theorem execSqEntryUncorrectable_keeps {P' : Prop} {o' : State} (q : QueueId) {s : State} (h : Keeps P' o' s) {t : State} (e : execSqEntryUncorrectable q s = .next t) :
    Keeps P' o' t := by
  unfold execSqEntryUncorrectable at e
  injection e with e
  subst e
  repeat' (first
    | with_reducible assumption
    | with_reducible apply State.takeBad_keeps)

theorem State.doorbellBad_keeps {P' : Prop} {o' : State} {s : State} (h : Keeps P' o' s) (q value : Nat) :
    Keeps P' o' (State.doorbellBad s q value) := by
  unfold State.doorbellBad
  repeat' (first
    | with_reducible assumption
    | with_reducible apply State.event_keeps
    | ((with_reducible refine State.bump_keeps ?_ _ _ _ ?_); rotate_left; · exact rfl))

theorem State.ringSq_keeps {P' : Prop} {o' : State} {s : State} (h : Keeps P' o' s) (q tail : Nat) :
    Keeps P' o' (State.ringSq s q tail) := by
  unfold State.ringSq
  repeat' (first
    | with_reducible assumption
    | with_reducible apply State.doorbellBad_keeps
    | ((with_reducible refine State.fset_keeps ?_ _ _ _ ?_); rotate_left; · exact rfl)
    | split)

theorem State.ringCq_keeps {P' : Prop} {o' : State} {s : State} (h : Keeps P' o' s) (q head : Nat) :
    Keeps P' o' (State.ringCq s q head) := by
  unfold State.ringCq
  repeat' (first
    | with_reducible assumption
    | with_reducible apply State.doorbellBad_keeps
    | ((with_reducible refine State.fset_keeps ?_ _ _ _ ?_); rotate_left; · exact rfl)
    | split)

theorem execSqTailDoorbell_keeps {P' : Prop} {o' : State} (q : QueueId) (tail : Nat) {s : State} (h : Keeps P' o' s) {t : State} (e : execSqTailDoorbell q tail s = .next t) :
    Keeps P' o' t := by
  unfold execSqTailDoorbell at e
  injection e with e
  subst e
  repeat' (first
    | with_reducible assumption
    | with_reducible apply State.openWrite_keeps
    | with_reducible apply State.ringSq_keeps
    | ((with_reducible show ∀ y' : State, Keeps P' o' y' → _); intro y' h')
    | ((with_reducible show ∀ (_ : _) (y' : State), Keeps P' o' y' → _); intro x' y' h')
    | ((with_reducible show ∀ (_ : _) (_ : _) (y' : State), Keeps P' o' y' → _); intro x' z' y' h')
    | split)

theorem execCqHeadDoorbell_keeps {P' : Prop} {o' : State} (q : QueueId) (head : Nat) {s : State} (h : Keeps P' o' s) {t : State} (e : execCqHeadDoorbell q head s = .next t) :
    Keeps P' o' t := by
  unfold execCqHeadDoorbell at e
  injection e with e
  subst e
  repeat' (first
    | with_reducible assumption
    | with_reducible apply State.openWrite_keeps
    | with_reducible apply State.ringCq_keeps
    | ((with_reducible show ∀ y' : State, Keeps P' o' y' → _); intro y' h')
    | ((with_reducible show ∀ (_ : _) (y' : State), Keeps P' o' y' → _); intro x' y' h')
    | ((with_reducible show ∀ (_ : _) (_ : _) (y' : State), Keeps P' o' y' → _); intro x' z' y' h')
    | split)

theorem execCompletionArrival_keeps {P' : Prop} {o' : State} (place : Nat) (late : Bool) {s : State} (h : Keeps P' o' s) {t : State} (e : execCompletionArrival place late s = .next t) :
    Keeps P' o' t := by
  unfold execCompletionArrival at e
  injection e with e
  subst e
  repeat' (first
    | with_reducible assumption
    | with_reducible apply State.arrival_keeps
    | ((with_reducible refine State.bump_keeps ?_ _ _ _ ?_); rotate_left; · exact rfl)
    | split)

theorem execCommandTimeout_keeps {P' : Prop} {o' : State} (place : Nat) {s : State} (h : Keeps P' o' s) {t : State} (e : execCommandTimeout place s = .next t) :
    Keeps P' o' t := by
  unfold execCommandTimeout at e
  injection e with e
  subst e
  repeat' (first
    | with_reducible assumption
    | with_reducible apply State.abort_keeps
    | split)

theorem execHeldCompletionPost_keeps {P' : Prop} {o' : State} (cq : QueueId) {s : State} (h : Keeps P' o' s) {t : State} (e : execHeldCompletionPost cq s = .next t) :
    Keeps P' o' t := by
  unfold execHeldCompletionPost at e
  injection e with e
  subst e
  repeat' (first
    | with_reducible assumption
    | with_reducible apply State.adminReady_keeps
    | with_reducible apply State.finishReset_keeps
    | with_reducible apply State.postEntry_keeps
    | ((with_reducible refine State.dip_keeps ?_ _ _ _ ?_); rotate_left; · exact rfl)
    | ((with_reducible refine State.setHost_keeps ?_ _ ?_); rotate_left; · exact rfl)
    | ((first | intro v' | extract_lets -underBinder +onlyGivenNames v'); (first | (refine_lift have k' : Keeps P' o' v' := ?_; ?_; (on_goal 1 => try clear_value v'); (on_goal 2 => dsimp -zeta only [v'])) | (have k'' : v'.isSome = v'.isSome := rfl; clear k''; clear_value v') | skip))
    | split
    | (clear_value *; split))

theorem execCqAggregationTimeout_keeps {P' : Prop} {o' : State} (cq : QueueId) {s : State} (h : Keeps P' o' s) {t : State} (e : execCqAggregationTimeout cq s = .next t) :
    Keeps P' o' t := by
  unfold execCqAggregationTimeout at e
  injection e with e
  subst e
  repeat' (first
    | with_reducible assumption
    | with_reducible apply State.raiseMsix_keeps
    | with_reducible apply State.setQcfg_keeps
    | ((first | intro v' | extract_lets -underBinder +onlyGivenNames v'); (first | (refine_lift have k' : Keeps P' o' v' := ?_; ?_; (on_goal 1 => try clear_value v'); (on_goal 2 => dsimp -zeta only [v'])) | (have k'' : v'.isSome = v'.isSome := rfl; clear k''; clear_value v') | skip))
    | split)

theorem State.createAdmin_keeps {P' : Prop} {o' : State} {s : State} (h : Keeps P' o' s) :
    Keeps P' o' (State.createAdmin s) := by
  unfold State.createAdmin
  repeat' (first
    | with_reducible assumption
    | with_reducible apply State.adminReady_keeps
    | with_reducible apply State.setCq_keeps
    | with_reducible apply State.setQcfg_keeps
    | with_reducible apply State.setQueue_keeps
    | ((first | intro v' | extract_lets -underBinder +onlyGivenNames v'); (first | (refine_lift have k' : Keeps P' o' v' := ?_; ?_; (on_goal 1 => try clear_value v'); (on_goal 2 => dsimp -zeta only [v'])) | (have k'' : v'.isSome = v'.isSome := rfl; clear k''; clear_value v') | skip))
    | split)

theorem State.adminEnable_keeps {P' : Prop} {o' : State} {s : State} (h : Keeps P' o' s) :
    Keeps P' o' (State.adminEnable s) := by
  unfold State.adminEnable
  repeat' (first
    | with_reducible assumption
    | with_reducible apply State.createAdmin_keeps
    | ((with_reducible refine State.fset_keeps ?_ _ _ _ ?_); rotate_left; · exact rfl)
    | ((first | intro v' | extract_lets -underBinder +onlyGivenNames v'); (first | (refine_lift have k' : Keeps P' o' v' := ?_; ?_; (on_goal 1 => try clear_value v'); (on_goal 2 => dsimp -zeta only [v'])) | (have k'' : v'.isSome = v'.isSome := rfl; clear k''; clear_value v') | skip))
    | split)

theorem State.adminDisable_keeps {P' : Prop} {o' : State} {s : State} (h : Keeps P' o' s) :
    Keeps P' o' (State.adminDisable s) := by
  unfold State.adminDisable
  repeat' (first
    | with_reducible assumption
    | with_reducible apply State.resetQueue_keeps
    | ((with_reducible refine State.fset_keeps ?_ _ _ _ ?_); rotate_left; · exact rfl)
    | ((first | intro v' | extract_lets -underBinder +onlyGivenNames v'); (first | (refine_lift have k' : Keeps P' o' v' := ?_; ?_; (on_goal 1 => try clear_value v'); (on_goal 2 => dsimp -zeta only [v'])) | (have k'' : v'.isSome = v'.isSome := rfl; clear k''; clear_value v') | skip))
    | split)

theorem State.adminReset_keeps {P' : Prop} {o' : State} {s : State} (h : Keeps P' o' s) :
    Keeps P' o' (State.adminReset s) := by
  unfold State.adminReset
  repeat' (first
    | with_reducible assumption
    | with_reducible apply State.resetQueue_keeps
    | split)

theorem execAdminQueueEnable_keeps {P' : Prop} {o' : State} {s : State} (h : Keeps P' o' s) {t : State} (e : execAdminQueueEnable s = .next t) :
    Keeps P' o' t := by
  unfold execAdminQueueEnable at e
  injection e with e
  subst e
  repeat' (first
    | with_reducible assumption
    | with_reducible apply State.adminEnable_keeps
    | with_reducible apply State.lockWrite_keeps
    | ((with_reducible show ∀ y' : State, Keeps P' o' y' → _); intro y' h')
    | ((with_reducible show ∀ (_ : _) (y' : State), Keeps P' o' y' → _); intro x' y' h')
    | ((with_reducible show ∀ (_ : _) (_ : _) (y' : State), Keeps P' o' y' → _); intro x' z' y' h'))

theorem execAdminQueueDisable_keeps {P' : Prop} {o' : State} {s : State} (h : Keeps P' o' s) {t : State} (e : execAdminQueueDisable s = .next t) :
    Keeps P' o' t := by
  unfold execAdminQueueDisable at e
  injection e with e
  subst e
  repeat' (first
    | with_reducible assumption
    | with_reducible apply State.adminDisable_keeps
    | with_reducible apply State.lockWrite_keeps
    | ((with_reducible show ∀ y' : State, Keeps P' o' y' → _); intro y' h')
    | ((with_reducible show ∀ (_ : _) (y' : State), Keeps P' o' y' → _); intro x' y' h')
    | ((with_reducible show ∀ (_ : _) (_ : _) (y' : State), Keeps P' o' y' → _); intro x' z' y' h'))

theorem execAdminQueueReset_keeps {P' : Prop} {o' : State} {s : State} (h : Keeps P' o' s) {t : State} (e : execAdminQueueReset s = .next t) :
    Keeps P' o' t := by
  unfold execAdminQueueReset at e
  injection e with e
  subst e
  repeat' (first
    | with_reducible assumption
    | with_reducible apply State.adminReset_keeps
    | with_reducible apply State.woWrite_keeps
    | ((with_reducible show ∀ y' : State, Keeps P' o' y' → _); intro y' h')
    | ((with_reducible show ∀ (_ : _) (y' : State), Keeps P' o' y' → _); intro x' y' h')
    | ((with_reducible show ∀ (_ : _) (_ : _) (y' : State), Keeps P' o' y' → _); intro x' z' y' h'))

end Sys2Proof.Machine
end

