-- ==== Sys2Proof/Laws/KeepsCfsRows.lean ====
section
/-! SUPPORT. What each operation of Machine/CfsRows.lean keeps (Laws/Keeps.lean). -/

set_option linter.unusedTactic false
set_option linter.unreachableTactic false

namespace Sys2Proof.Machine

theorem State.switchHalf_keeps {P' : Prop} {o' : State} {s : State} (h : Keeps P' o' s) (region : Nat) :
    Keeps P' o' (State.switchHalf s region) := by
  unfold State.switchHalf
  repeat' (first
    | with_reducible assumption
    | with_reducible apply State.eraseSectors_keeps
    | with_reducible apply State.setCfs_keeps
    | ((with_reducible apply Keeps.foldl); intro s' x' h')
    | ((with_reducible apply Keeps.foldl_fst); intro s' x' h')
    | ((with_reducible apply Keeps.foldl_snd); intro s' x' h')
    | ((with_reducible refine State.bump_keeps ?_ _ _ _ ?_); rotate_left; · exact rfl)
    | ((first | intro v' | extract_lets -underBinder +onlyGivenNames v'); (first | (refine_lift have k' : Keeps P' o' v' := ?_; ?_; (on_goal 1 => try clear_value v'); (on_goal 2 => dsimp -zeta only [v'])) | (have k'' : v'.isSome = v'.isSome := rfl; clear k''; clear_value v') | skip))
    | split)

theorem State.appendRecord_keeps {P' : Prop} {o' : State} {s : State} (h : Keeps P' o' s) (region words : Nat) :
    Keeps P' o' (State.appendRecord s region words) := by
  unfold State.appendRecord
  repeat' (first
    | with_reducible assumption
    | with_reducible apply State.setCfs_keeps
    | with_reducible apply State.switchHalf_keeps
    | ((with_reducible refine State.bump_keeps ?_ _ _ _ ?_); rotate_left; · exact rfl)
    | ((first | intro v' | extract_lets -underBinder +onlyGivenNames v'); (first | (refine_lift have k' : Keeps P' o' v' := ?_; ?_; (on_goal 1 => try clear_value v'); (on_goal 2 => dsimp -zeta only [v'])) | (have k'' : v'.isSome = v'.isSome := rfl; clear k''; clear_value v') | skip))
    | split)

theorem State.finishPlace_keeps {P' : Prop} {o' : State} {s : State} (h : Keeps P' o' s) (place : Option Nat) (status result : Nat) :
    Keeps P' o' (State.finishPlace s place status result) := by
  unfold State.finishPlace
  repeat' (first
    | with_reducible assumption
    | with_reducible apply State.finish_keeps
    | split)

theorem State.commitSetting_keeps {P' : Prop} {o' : State} {s : State} (h : Keeps P' o' s) (id value : Nat) (place : Option Nat) :
    Keeps P' o' (State.commitSetting s id value place) := by
  unfold State.commitSetting
  repeat' (first
    | with_reducible assumption
    | with_reducible apply State.activated_keeps
    | with_reducible apply State.finishPlace_keeps
    | with_reducible apply State.remeasure_keeps
    | with_reducible apply State.setCfs_keeps
    | ((with_reducible refine State.fset_keeps ?_ _ _ _ ?_); rotate_left; · exact rfl)
    | with_reducible apply State.drawNat_keeps
    | ((first | intro v' | extract_lets -underBinder +onlyGivenNames v'); (first | (refine_lift have k' : Keeps P' o' v' := ?_; ?_; (on_goal 1 => try clear_value v'); (on_goal 2 => dsimp -zeta only [v'])) | (refine_lift have k' : Keeps P' o' v'.2 := ?_; ?_; (on_goal 1 => try clear_value v'); (on_goal 2 => dsimp -zeta only [v'])) | (have k'' : v'.isSome = v'.isSome := rfl; clear k''; clear_value v') | skip))
    | split)

theorem State.commitKey_keeps {P' : Prop} {o' : State} {s : State} (h : Keeps P' o' s) (n : Nat) (key : List Byte) :
    Keeps P' o' (State.commitKey s n key) := by
  unfold State.commitKey
  repeat' (first
    | with_reducible assumption
    | with_reducible apply State.appendRecord_keeps
    | with_reducible apply State.event_keeps
    | with_reducible apply State.remeasure_keeps
    | with_reducible apply State.setCfs_keeps
    | ((with_reducible refine State.fset_keeps ?_ _ _ _ ?_); rotate_left; · exact rfl)
    | ((with_reducible refine State.rsetBytes_keeps ?_ _ _ _ ?_ ?_); rotate_left; (· exact rfl); (· exact rfl))
    | ((first | intro v' | extract_lets -underBinder +onlyGivenNames v'); (first | (refine_lift have k' : Keeps P' o' v' := ?_; ?_; (on_goal 1 => try clear_value v'); (on_goal 2 => dsimp -zeta only [v'])) | (have k'' : v'.isSome = v'.isSome := rfl; clear k''; clear_value v') | skip))
    | split)

theorem State.commitEvent_keeps {P' : Prop} {o' : State} {s : State} (h : Keeps P' o' s) (e : LogEntry) :
    Keeps P' o' (State.commitEvent s e) := by
  unfold State.commitEvent
  repeat' (first
    | with_reducible assumption
    | with_reducible apply State.eraseSectors_keeps
    | ((with_reducible refine State.flag_keeps ?_ _ ?_); rotate_left; · exact rfl)
    | with_reducible apply State.setCfs_keeps
    | ((with_reducible refine State.bump_keeps ?_ _ _ _ ?_); rotate_left; · exact rfl)
    | ((first | intro v' | extract_lets -underBinder +onlyGivenNames v'); (first | (refine_lift have k' : Keeps P' o' v' := ?_; ?_; (on_goal 1 => try clear_value v'); (on_goal 2 => dsimp -zeta only [v'])) | (have k'' : v'.isSome = v'.isSome := rfl; clear k''; clear_value v') | skip))
    | split)

theorem State.commitImage_keeps {P' : Prop} {o' : State} {s : State} (h : Keeps P' o' s) (r : Nat) (bytes : List Byte) (place : Option Nat) :
    Keeps P' o' (State.commitImage s r bytes place) := by
  unfold State.commitImage
  repeat' (first
    | with_reducible assumption
    | with_reducible apply State.finishPlace_keeps
    | with_reducible apply State.remeasure_keeps
    | with_reducible apply State.setCfs_keeps
    | with_reducible apply State.setPhase_keeps
    | ((with_reducible refine State.fset_keeps ?_ _ _ _ ?_); rotate_left; · exact rfl)
    | ((first | intro v' | extract_lets -underBinder +onlyGivenNames v'); (first | (refine_lift have k' : Keeps P' o' v' := ?_; ?_; (on_goal 1 => try clear_value v'); (on_goal 2 => dsimp -zeta only [v'])) | (have k'' : v'.isSome = v'.isSome := rfl; clear k''; clear_value v') | skip))
    | split)

theorem State.commitCheckpoint_keeps {P' : Prop} {o' : State} {s : State} (h : Keeps P' o' s) (no seq : Nat) :
    Keeps P' o' (State.commitCheckpoint s no seq) := by
  unfold State.commitCheckpoint
  repeat' (first
    | with_reducible assumption
    | with_reducible apply State.journal_keeps
    | with_reducible apply State.sanDone_keeps
    | with_reducible apply State.setCfs_keeps
    | with_reducible apply State.setFlash_keeps
    | with_reducible apply State.setSecSt_keeps
    | ((with_reducible apply Keeps.foldl); intro s' x' h')
    | ((with_reducible apply Keeps.foldl_fst); intro s' x' h')
    | ((with_reducible apply Keeps.foldl_snd); intro s' x' h')
    | ((with_reducible refine State.bump_keeps ?_ _ _ _ ?_); rotate_left; · exact rfl)
    | ((first | intro v' | extract_lets -underBinder +onlyGivenNames v'); (first | (refine_lift have k' : Keeps P' o' v' := ?_; ?_; (on_goal 1 => try clear_value v'); (on_goal 2 => dsimp -zeta only [v'])) | (have k'' : v'.isSome = v'.isSome := rfl; clear k''; clear_value v') | skip))
    | split)

theorem State.finishFree_keeps {P' : Prop} {o' : State} {s : State} (h : Keeps P' o' s) (place : Option Nat) :
    Keeps P' o' (State.finishFree s place) := by
  unfold State.finishFree
  repeat' (first
    | with_reducible assumption
    | with_reducible apply State.finishPlace_keeps
    | with_reducible apply State.drawNat_keeps
    | ((first | intro v' | extract_lets -underBinder +onlyGivenNames v'); (first | (refine_lift have k' : Keeps P' o' v' := ?_; ?_; (on_goal 1 => try clear_value v'); (on_goal 2 => dsimp -zeta only [v'])) | (refine_lift have k' : Keeps P' o' v'.2 := ?_; ?_; (on_goal 1 => try clear_value v'); (on_goal 2 => dsimp -zeta only [v'])) | (have k'' : v'.isSome = v'.isSome := rfl; clear k''; clear_value v') | skip))
    | split)

theorem State.holdLib_keeps {P' : Prop} {o' : State} {s : State} (h : Keeps P' o' s) (n : Nat) :
    Keeps P' o' (State.holdLib s n) := by
  unfold State.holdLib
  repeat' (first
    | with_reducible assumption
    | with_reducible apply State.setCfs_keeps
    | ((first | intro v' | extract_lets -underBinder +onlyGivenNames v'); (first | (refine_lift have k' : Keeps P' o' v' := ?_; ?_; (on_goal 1 => try clear_value v'); (on_goal 2 => dsimp -zeta only [v'])) | (have k'' : v'.isSome = v'.isSome := rfl; clear k''; clear_value v') | skip))
    | split)

theorem State.commitWrite_keeps {P' : Prop} {o' : State} {s : State} (h : Keeps P' o' s) (x0 : CfsWrite) :
    Keeps P' o' (State.commitWrite s x0) := by
  unfold State.commitWrite
  repeat' (first
    | with_reducible assumption
    | with_reducible apply State.commitCheckpoint_keeps
    | with_reducible apply State.commitEvent_keeps
    | with_reducible apply State.commitImage_keeps
    | with_reducible apply State.commitKey_keeps
    | with_reducible apply State.commitSetting_keeps
    | with_reducible apply State.event_keeps
    | with_reducible apply State.finishFree_keeps
    | with_reducible apply State.holdLib_keeps
    | with_reducible apply State.progress_keeps
    | with_reducible apply State.remeasure_keeps
    | with_reducible apply State.setCfs_keeps
    | ((first | intro v' | extract_lets -underBinder +onlyGivenNames v'); (first | (refine_lift have k' : Keeps P' o' v' := ?_; ?_; (on_goal 1 => try clear_value v'); (on_goal 2 => dsimp -zeta only [v'])) | (have k'' : v'.isSome = v'.isSome := rfl; clear k''; clear_value v') | skip))
    | split)

theorem State.commitFront_keeps {P' : Prop} {o' : State} {s : State} (h : Keeps P' o' s) :
    Keeps P' o' (State.commitFront s) := by
  unfold State.commitFront
  repeat' (first
    | with_reducible assumption
    | with_reducible apply State.appendRecord_keeps
    | with_reducible apply State.commitWrite_keeps
    | with_reducible apply State.setCfs_keeps
    | ((first | intro v' | extract_lets -underBinder +onlyGivenNames v'); (first | (refine_lift have k' : Keeps P' o' v' := ?_; ?_; (on_goal 1 => try clear_value v'); (on_goal 2 => dsimp -zeta only [v'])) | (have k'' : v'.isSome = v'.isSome := rfl; clear k''; clear_value v') | skip))
    | split
    | (clear_value *; split))

theorem State.retireSector_keeps {P' : Prop} {o' : State} {s : State} (h : Keeps P' o' s) (d sector : Nat) :
    Keeps P' o' (State.retireSector s d sector) := by
  unfold State.retireSector
  repeat' (first
    | with_reducible assumption
    | with_reducible apply State.setCfs_keeps
    | ((with_reducible refine State.fset_keeps ?_ _ _ _ ?_); rotate_left; · exact rfl)
    | ((with_reducible refine State.bump_keeps ?_ _ _ _ ?_); rotate_left; · exact rfl)
    | ((with_reducible refine State.dip_keeps ?_ _ _ _ ?_); rotate_left; · exact rfl)
    | ((first | intro v' | extract_lets -underBinder +onlyGivenNames v'); (first | (refine_lift have k' : Keeps P' o' v' := ?_; ?_; (on_goal 1 => try clear_value v'); (on_goal 2 => dsimp -zeta only [v'])) | (have k'' : v'.isSome = v'.isSome := rfl; clear k''; clear_value v') | skip))
    | split)

theorem State.badProgram_keeps {P' : Prop} {o' : State} {s : State} (h : Keeps P' o' s) (d : Nat) (x0 : Option Nat) :
    Keeps P' o' (State.badProgram s d x0) := by
  unfold State.badProgram
  repeat' (first
    | with_reducible assumption
    | with_reducible apply State.retireSector_keeps
    | split)

theorem State.moveGap_keeps {P' : Prop} {o' : State} {s : State} (h : Keeps P' o' s) (d : Nat) :
    Keeps P' o' (State.moveGap s d) := by
  unfold State.moveGap
  repeat' (first
    | with_reducible assumption
    | ((with_reducible refine State.fset_keeps ?_ _ _ _ ?_); rotate_left; · exact rfl)
    | ((with_reducible refine State.bump_keeps ?_ _ _ _ ?_); rotate_left; · exact rfl)
    | ((first | intro v' | extract_lets -underBinder +onlyGivenNames v'); (first | (refine_lift have k' : Keeps P' o' v' := ?_; ?_; (on_goal 1 => try clear_value v'); (on_goal 2 => dsimp -zeta only [v'])) | (have k'' : v'.isSome = v'.isSome := rfl; clear k''; clear_value v') | skip))
    | split)

theorem State.gapTurn_keeps {P' : Prop} {o' : State} {s : State} (h : Keeps P' o' s) (d : Nat) :
    Keeps P' o' (State.gapTurn s d) := by
  unfold State.gapTurn
  repeat' (first
    | with_reducible assumption
    | with_reducible apply State.moveGap_keeps
    | with_reducible apply State.setCfs_keeps
    | split)

theorem State.queueBank_keeps {P' : Prop} {o' : State} {s : State} (h : Keeps P' o' s) (d : Nat) (r : CfsRead) :
    Keeps P' o' (State.queueBank s d r) := by
  unfold State.queueBank
  repeat' (first
    | with_reducible assumption
    | with_reducible apply State.setCfs_keeps
    | ((first | intro v' | extract_lets -underBinder +onlyGivenNames v'); (first | (refine_lift have k' : Keeps P' o' v' := ?_; ?_; (on_goal 1 => try clear_value v'); (on_goal 2 => dsimp -zeta only [v'])) | (have k'' : v'.isSome = v'.isSome := rfl; clear k''; clear_value v') | skip))
    | split)

theorem State.sectorErased_keeps {P' : Prop} {o' : State} {s : State} (h : Keeps P' o' s) (d sector : Nat) (ok : Bool) :
    Keeps P' o' (State.sectorErased s d sector ok) := by
  unfold State.sectorErased
  repeat' (first
    | with_reducible assumption
    | with_reducible apply State.gapTurn_keeps
    | with_reducible apply State.retireSector_keeps
    | with_reducible apply State.setCfs_keeps
    | ((with_reducible refine State.bump_keeps ?_ _ _ _ ?_); rotate_left; · exact rfl)
    | ((first | intro v' | extract_lets -underBinder +onlyGivenNames v'); (first | (refine_lift have k' : Keeps P' o' v' := ?_; ?_; (on_goal 1 => try clear_value v'); (on_goal 2 => dsimp -zeta only [v'])) | (have k'' : v'.isSome = v'.isSome := rfl; clear k''; clear_value v') | skip))
    | split)

theorem execCfsEraseDone_keeps {P' : Prop} {o' : State} (dev : CfsId) (sector : Nat) (ok : Bool) {s : State} (h : Keeps P' o' s) {t : State} (e : execCfsEraseDone dev sector ok s = .next t) :
    Keeps P' o' t := by
  unfold execCfsEraseDone at e
  injection e with e
  subst e
  repeat' (first
    | with_reducible assumption
    | with_reducible apply State.sectorErased_keeps)

theorem execCfsRead_keeps {P' : Prop} {o' : State} (island : IslandId) (sector : Nat) (fetch ok0 ok1 : Bool) {s : State} (h : Keeps P' o' s) {t : State} (e : execCfsRead island sector fetch ok0 ok1 s = .next t) :
    Keeps P' o' t := by
  unfold execCfsRead at e
  injection e with e
  subst e
  repeat' (first
    | with_reducible assumption
    | with_reducible apply State.event_keeps
    | with_reducible apply State.queueBank_keeps
    | with_reducible apply State.setCfs_keeps
    | ((with_reducible refine State.bump_keeps ?_ _ _ _ ?_); rotate_left; · exact rfl)
    | ((first | intro v' | extract_lets -underBinder +onlyGivenNames v'); (first | (refine_lift have k' : Keeps P' o' v' := ?_; ?_; (on_goal 1 => try clear_value v'); (on_goal 2 => dsimp -zeta only [v'])) | (have k'' : v'.isSome = v'.isSome := rfl; clear k''; clear_value v') | skip))
    | split)

end Sys2Proof.Machine
end

