-- ==== Sys2Proof/Laws/KeepsFlashRows.lean ====
section
/-! SUPPORT. What each operation of Machine/FlashRows.lean keeps (Laws/Keeps.lean). -/

set_option linter.unusedTactic false
set_option linter.unreachableTactic false

namespace Sys2Proof.Machine

theorem State.suspend_keeps {P' : Prop} {o' : State} {s : State} (h : Keeps P' o' s) (p : Nat) :
    Keeps P' o' (State.suspend s p) := by
  unfold State.suspend
  repeat' (first
    | with_reducible assumption
    | with_reducible apply State.putSec_keeps
    | with_reducible apply State.setSecSt_keeps
    | ((with_reducible refine State.bump_keeps ?_ _ _ _ ?_); rotate_left; · exact rfl)
    | ((first | intro v' | extract_lets -underBinder +onlyGivenNames v'); (first | (refine_lift have k' : Keeps P' o' v' := ?_; ?_; (on_goal 1 => try clear_value v'); (on_goal 2 => dsimp -zeta only [v'])) | (have k'' : v'.isSome = v'.isSome := rfl; clear k''; clear_value v') | skip))
    | split)

theorem State.suspendFor_keeps {P' : Prop} {o' : State} {s : State} (h : Keeps P' o' s) (g : Nat) :
    Keeps P' o' (State.suspendFor s g) := by
  unfold State.suspendFor
  repeat' (first
    | with_reducible assumption
    | with_reducible apply State.suspend_keeps
    | ((with_reducible apply Keeps.foldl); intro s' x' h')
    | ((with_reducible apply Keeps.foldl_fst); intro s' x' h')
    | ((with_reducible apply Keeps.foldl_snd); intro s' x' h'))

theorem State.issueRead_keeps {P' : Prop} {o' : State} {s : State} (h : Keeps P' o' s) (i : Nat) :
    Keeps P' o' (State.issueRead s i) := by
  unfold State.issueRead
  repeat' (first
    | with_reducible assumption
    | with_reducible apply State.setFread_keeps
    | with_reducible apply State.suspendFor_keeps
    | ((with_reducible refine State.fset_keeps ?_ _ _ _ ?_); rotate_left; · exact rfl)
    | ((with_reducible refine State.bump_keeps ?_ _ _ _ ?_); rotate_left; · exact rfl)
    | ((first | intro v' | extract_lets -underBinder +onlyGivenNames v'); (first | (refine_lift have k' : Keeps P' o' v' := ?_; ?_; (on_goal 1 => try clear_value v'); (on_goal 2 => dsimp -zeta only [v'])) | (have k'' : v'.isSome = v'.isSome := rfl; clear k''; clear_value v') | skip))
    | split)

theorem State.readEnds_keeps {P' : Prop} {o' : State} {s : State} (h : Keeps P' o' s) (i : Nat) (ok : Bool) :
    Keeps P' o' (State.readEnds s i ok) := by
  unfold State.readEnds
  repeat' (first
    | with_reducible assumption
    | with_reducible apply State.promote_keeps
    | with_reducible apply State.setFread_keeps
    | with_reducible apply State.setPage_keeps
    | ((with_reducible refine State.bump_keeps ?_ _ _ _ ?_); rotate_left; · exact rfl)
    | ((first | intro v' | extract_lets -underBinder +onlyGivenNames v'); (first | (refine_lift have k' : Keeps P' o' v' := ?_; ?_; (on_goal 1 => try clear_value v'); (on_goal 2 => dsimp -zeta only [v'])) | (have k'' : v'.isSome = v'.isSome := rfl; clear k''; clear_value v') | skip))
    | split
    | (clear_value *; split))

theorem State.relocateSec_keeps {P' : Prop} {o' : State} {s : State} (h : Keeps P' o' s) (p : Nat) :
    Keeps P' o' (State.relocateSec s p) := by
  unfold State.relocateSec
  repeat' (first
    | with_reducible assumption
    | with_reducible apply State.startMerge_keeps
    | ((first | intro v' | extract_lets -underBinder +onlyGivenNames v'); (first | (refine_lift have k' : Keeps P' o' v' := ?_; ?_; (on_goal 1 => try clear_value v'); (on_goal 2 => dsimp -zeta only [v'])) | (have k'' : v'.isSome = v'.isSome := rfl; clear k''; clear_value v') | skip))
    | split)

theorem State.restartMerge_keeps {P' : Prop} {o' : State} {s : State} (h : Keeps P' o' s) (l : Nat) :
    Keeps P' o' (State.restartMerge s l) := by
  unfold State.restartMerge
  repeat' (first
    | with_reducible assumption
    | with_reducible apply State.allocSec_keeps
    | with_reducible apply State.setFlash_keeps
    | with_reducible apply State.setLsec_keeps
    | with_reducible apply State.setPunit_keeps
    | with_reducible apply State.setSecSt_keeps
    | ((with_reducible refine State.bump_keeps ?_ _ _ _ ?_); rotate_left; · exact rfl)
    | with_reducible exact Keeps.opt2_none
    | with_reducible apply Keeps.opt2_some
    | (refine Keeps.ofOpt2 ?_ (by with_reducible assumption))
    | ((first | intro v' | extract_lets -underBinder +onlyGivenNames v'); (first | (refine_lift have k' : Keeps P' o' v' := ?_; ?_; (on_goal 1 => try clear_value v'); (on_goal 2 => dsimp -zeta only [v'])) | (refine_lift have k' : Keeps P' o' v'.2 := ?_; ?_; (on_goal 1 => try clear_value v'); (on_goal 2 => dsimp -zeta only [v'])) | (have k'' : v'.isSome = v'.isSome := rfl; clear k''; clear_value v') | skip))
    | split
    | (clear_value *; split))

theorem State.rowEvent_keeps {P' : Prop} {o' : State} (g : Nat) {s : State} (h : Keeps P' o' s) (lba : Nat) :
    Keeps P' o' (State.rowEvent g s lba) := by
  unfold State.rowEvent
  repeat' (first
    | with_reducible assumption
    | with_reducible apply State.event_keeps)

theorem State.logLostRows_keeps {P' : Prop} {o' : State} {s : State} (h : Keeps P' o' s) (g : Nat) :
    Keeps P' o' (State.logLostRows s g) := by
  unfold State.logLostRows
  repeat' (first
    | with_reducible assumption
    | with_reducible apply State.rowEvent_keeps
    | ((with_reducible apply Keeps.foldl); intro s' x' h')
    | ((with_reducible apply Keeps.foldl_fst); intro s' x' h')
    | ((with_reducible apply Keeps.foldl_snd); intro s' x' h'))

theorem State.retireEmptied_keeps {P' : Prop} {o' : State} {s : State} (h : Keeps P' o' s) (g : Nat) :
    Keeps P' o' (State.retireEmptied s g) := by
  unfold State.retireEmptied
  repeat' (first
    | with_reducible assumption
    | with_reducible apply State.journal_keeps
    | with_reducible apply State.retireSec_keeps
    | ((with_reducible apply Keeps.foldl); intro s' x' h')
    | ((with_reducible apply Keeps.foldl_fst); intro s' x' h')
    | ((with_reducible apply Keeps.foldl_snd); intro s' x' h')
    | ((first | intro v' | extract_lets -underBinder +onlyGivenNames v'); (first | (refine_lift have k' : Keeps P' o' v' := ?_; ?_; (on_goal 1 => try clear_value v'); (on_goal 2 => dsimp -zeta only [v'])) | (have k'' : v'.isSome = v'.isSome := rfl; clear k''; clear_value v') | skip))
    | split)

theorem State.relocateGroup_keeps {P' : Prop} {o' : State} {s : State} (h : Keeps P' o' s) (g : Nat) :
    Keeps P' o' (State.relocateGroup s g) := by
  unfold State.relocateGroup
  repeat' (first
    | with_reducible assumption
    | with_reducible apply State.relocateSec_keeps
    | with_reducible apply State.restartMerge_keeps
    | with_reducible apply State.rollover_keeps
    | ((with_reducible apply Keeps.foldl); intro s' x' h')
    | ((with_reducible apply Keeps.foldl_fst); intro s' x' h')
    | ((with_reducible apply Keeps.foldl_snd); intro s' x' h')
    | ((first | intro v' | extract_lets -underBinder +onlyGivenNames v'); (first | (refine_lift have k' : Keeps P' o' v' := ?_; ?_; (on_goal 1 => try clear_value v'); (on_goal 2 => dsimp -zeta only [v'])) | (have k'' : v'.isSome = v'.isSome := rfl; clear k''; clear_value v') | skip))
    | split)

theorem State.failDie_keeps {P' : Prop} {o' : State} {s : State} (h : Keeps P' o' s) (u : Nat) :
    Keeps P' o' (State.failDie s u) := by
  unfold State.failDie
  repeat' (first
    | with_reducible assumption
    | ((with_reducible refine State.flag_keeps ?_ _ ?_); rotate_left; · exact rfl)
    | with_reducible apply State.logLostRows_keeps
    | with_reducible apply State.relocateGroup_keeps
    | with_reducible apply State.retireEmptied_keeps
    | ((with_reducible refine State.fset_keeps ?_ _ _ _ ?_); rotate_left; · exact rfl)
    | ((first | intro v' | extract_lets -underBinder +onlyGivenNames v'); (first | (refine_lift have k' : Keeps P' o' v' := ?_; ?_; (on_goal 1 => try clear_value v'); (on_goal 2 => dsimp -zeta only [v'])) | (have k'' : v'.isSome = v'.isSome := rfl; clear k''; clear_value v') | skip))
    | split)

theorem State.failChannel_keeps {P' : Prop} {o' : State} {s : State} (h : Keeps P' o' s) (c : Nat) :
    Keeps P' o' (State.failChannel s c) := by
  unfold State.failChannel
  repeat' (first
    | with_reducible assumption
    | with_reducible apply State.failDie_keeps
    | ((with_reducible apply Keeps.foldl); intro s' x' h')
    | ((with_reducible apply Keeps.foldl_fst); intro s' x' h')
    | ((with_reducible apply Keeps.foldl_snd); intro s' x' h')
    | ((with_reducible refine State.fset_keeps ?_ _ _ _ ?_); rotate_left; · exact rfl))

theorem State.blockFailed_keeps {P' : Prop} {o' : State} {s : State} (h : Keeps P' o' s) (u b : Nat) :
    Keeps P' o' (State.blockFailed s u b) := by
  unfold State.blockFailed
  repeat' (first
    | with_reducible assumption
    | with_reducible apply State.failDie_keeps
    | with_reducible apply State.setFlash_keeps
    | ((first | intro v' | extract_lets -underBinder +onlyGivenNames v'); (first | (refine_lift have k' : Keeps P' o' v' := ?_; ?_; (on_goal 1 => try clear_value v'); (on_goal 2 => dsimp -zeta only [v'])) | (have k'' : v'.isSome = v'.isSome := rfl; clear k''; clear_value v') | skip))
    | split)

theorem State.answerOf_keeps {P' : Prop} {o' : State} {s : State} (h : Keeps P' o' s) (u answer : Nat) :
    Keeps P' o' (State.answerOf s u answer) := by
  unfold State.answerOf
  repeat' (first
    | with_reducible assumption
    | with_reducible apply State.failChannel_keeps
    | with_reducible apply State.failDie_keeps
    | split)

theorem State.readDone_keeps {P' : Prop} {o' : State} {s : State} (h : Keeps P' o' s) (i st : Nat) (ok : Bool) (answer us ifErrors : Nat) :
    Keeps P' o' (State.readDone s i st ok answer us ifErrors) := by
  unfold State.readDone
  repeat' (first
    | with_reducible assumption
    | with_reducible apply State.answerOf_keeps
    | with_reducible apply State.blockFailed_keeps
    | with_reducible apply State.readEnds_keeps
    | with_reducible apply State.relocateSec_keeps
    | ((with_reducible apply Keeps.foldl); intro s' x' h')
    | ((with_reducible apply Keeps.foldl_fst); intro s' x' h')
    | ((with_reducible apply Keeps.foldl_snd); intro s' x' h')
    | ((with_reducible refine State.bump_keeps ?_ _ _ _ ?_); rotate_left; · exact rfl)
    | ((first | intro v' | extract_lets -underBinder +onlyGivenNames v'); (first | (refine_lift have k' : Keeps P' o' v' := ?_; ?_; (on_goal 1 => try clear_value v'); (on_goal 2 => dsimp -zeta only [v'])) | (have k'' : v'.isSome = v'.isSome := rfl; clear k''; clear_value v') | skip))
    | split)

theorem State.readAround_keeps {P' : Prop} {o' : State} {s : State} (h : Keeps P' o' s) (i : Nat) :
    Keeps P' o' (State.readAround s i) := by
  unfold State.readAround
  repeat' (first
    | with_reducible assumption
    | with_reducible apply State.setFread_keeps
    | ((with_reducible refine State.bump_keeps ?_ _ _ _ ?_); rotate_left; · exact rfl)
    | ((with_reducible refine State.dip_keeps ?_ _ _ _ ?_); rotate_left; · exact rfl)
    | ((first | intro v' | extract_lets -underBinder +onlyGivenNames v'); (first | (refine_lift have k' : Keeps P' o' v' := ?_; ?_; (on_goal 1 => try clear_value v'); (on_goal 2 => dsimp -zeta only [v'])) | (have k'' : v'.isSome = v'.isSome := rfl; clear k''; clear_value v') | skip))
    | split)

theorem State.readAroundEnds_keeps {P' : Prop} {o' : State} {s : State} (h : Keeps P' o' s) (i : Nat) (ok : Bool) (us : Nat) :
    Keeps P' o' (State.readAroundEnds s i ok us) := by
  unfold State.readAroundEnds
  repeat' (first
    | with_reducible assumption
    | with_reducible apply State.readEnds_keeps
    | with_reducible apply State.setFread_keeps
    | ((with_reducible refine State.bump_keeps ?_ _ _ _ ?_); rotate_left; · exact rfl)
    | ((first | intro v' | extract_lets -underBinder +onlyGivenNames v'); (first | (refine_lift have k' : Keeps P' o' v' := ?_; ?_; (on_goal 1 => try clear_value v'); (on_goal 2 => dsimp -zeta only [v'])) | (have k'' : v'.isSome = v'.isSome := rfl; clear k''; clear_value v') | skip))
    | split)

theorem State.logFreed_keeps {P' : Prop} {o' : State} {s : State} (h : Keeps P' o' s) :
    Keeps P' o' (State.logFreed s) := by
  unfold State.logFreed
  repeat' (first
    | with_reducible assumption
    | with_reducible apply State.setLsec_keeps
    | with_reducible apply State.startWriteBack_keeps
    | ((with_reducible apply Keeps.foldl); intro s' x' h')
    | ((with_reducible apply Keeps.foldl_fst); intro s' x' h')
    | ((with_reducible apply Keeps.foldl_snd); intro s' x' h')
    | ((first | intro v' | extract_lets -underBinder +onlyGivenNames v'); (first | (refine_lift have k' : Keeps P' o' v' := ?_; ?_; (on_goal 1 => try clear_value v'); (on_goal 2 => dsimp -zeta only [v'])) | (have k'' : v'.isSome = v'.isSome := rfl; clear k''; clear_value v') | skip))
    | split
    | (clear_value *; split))

theorem State.stagingOn_keeps {P' : Prop} {o' : State} {s : State} (h : Keeps P' o' s) :
    Keeps P' o' (State.stagingOn s) := by
  unfold State.stagingOn
  repeat' (first
    | with_reducible assumption
    | with_reducible apply State.setFlash_keeps
    | with_reducible apply State.startWriteBack_keeps
    | ((with_reducible apply Keeps.foldl); intro s' x' h')
    | ((with_reducible apply Keeps.foldl_fst); intro s' x' h')
    | ((with_reducible apply Keeps.foldl_snd); intro s' x' h')
    | ((first | intro v' | extract_lets -underBinder +onlyGivenNames v'); (first | (refine_lift have k' : Keeps P' o' v' := ?_; ?_; (on_goal 1 => try clear_value v'); (on_goal 2 => dsimp -zeta only [v'])) | (have k'' : v'.isSome = v'.isSome := rfl; clear k''; clear_value v') | skip))
    | split
    | (clear_value *; split))

theorem State.leave_keeps {P' : Prop} {o' : State} {s : State} (h : Keeps P' o' s) (p : Nat) :
    Keeps P' o' (State.leave s p) := by
  unfold State.leave
  repeat' (first
    | with_reducible assumption
    | with_reducible apply State.dropFrame_keeps
    | ((first | intro v' | extract_lets -underBinder +onlyGivenNames v'); (first | (refine_lift have k' : Keeps P' o' v' := ?_; ?_; (on_goal 1 => try clear_value v'); (on_goal 2 => dsimp -zeta only [v'])) | (have k'' : v'.isSome = v'.isSome := rfl; clear k''; clear_value v') | skip))
    | split)

theorem State.cleaned_keeps {P' : Prop} {o' : State} {s : State} (h : Keeps P' o' s) (lbas : List Nat) :
    Keeps P' o' (State.cleaned s lbas) := by
  unfold State.cleaned
  repeat' (first
    | with_reducible assumption
    | with_reducible apply State.evict_keeps
    | with_reducible apply State.flushed_keeps
    | with_reducible apply State.leave_keeps
    | with_reducible apply State.setPage_keeps
    | ((with_reducible apply Keeps.foldl); intro s' x' h')
    | ((with_reducible apply Keeps.foldl_fst); intro s' x' h')
    | ((with_reducible apply Keeps.foldl_snd); intro s' x' h')
    | ((with_reducible refine State.dip_keeps ?_ _ _ _ ?_); rotate_left; · exact rfl)
    | ((first | intro v' | extract_lets -underBinder +onlyGivenNames v'); (first | (refine_lift have k' : Keeps P' o' v' := ?_; ?_; (on_goal 1 => try clear_value v'); (on_goal 2 => dsimp -zeta only [v'])) | (have k'' : v'.isSome = v'.isSome := rfl; clear k''; clear_value v') | skip))
    | split)

theorem State.inOrderComplete_keeps {P' : Prop} {o' : State} {s : State} (h : Keeps P' o' s) (p l : Nat) :
    Keeps P' o' (State.inOrderComplete s p l) := by
  unfold State.inOrderComplete
  repeat' (first
    | with_reducible assumption
    | with_reducible apply State.journal_keeps
    | with_reducible apply State.logFreed_keeps
    | with_reducible apply State.queueErase_keeps
    | with_reducible apply State.setLsec_keeps
    | with_reducible apply State.setSecSt_keeps
    | ((with_reducible refine State.bump_keeps ?_ _ _ _ ?_); rotate_left; · exact rfl)
    | ((first | intro v' | extract_lets -underBinder +onlyGivenNames v'); (first | (refine_lift have k' : Keeps P' o' v' := ?_; ?_; (on_goal 1 => try clear_value v'); (on_goal 2 => dsimp -zeta only [v'])) | (have k'' : v'.isSome = v'.isSome := rfl; clear k''; clear_value v') | skip))
    | split)

theorem State.unitCommitted_keeps {P' : Prop} {o' : State} {s : State} (h : Keeps P' o' s) (i : Nat) :
    Keeps P' o' (State.unitCommitted s i) := by
  unfold State.unitCommitted
  repeat' (first
    | with_reducible assumption
    | with_reducible apply State.cleaned_keeps
    | with_reducible apply State.inOrderComplete_keeps
    | with_reducible apply State.journal_keeps
    | with_reducible apply State.putSec_keeps
    | with_reducible apply State.setLsec_keeps
    | with_reducible apply State.setPunit_keeps
    | ((first | intro v' | extract_lets -underBinder +onlyGivenNames v'); (first | (refine_lift have k' : Keeps P' o' v' := ?_; ?_; (on_goal 1 => try clear_value v'); (on_goal 2 => dsimp -zeta only [v'])) | (have k'' : v'.isSome = v'.isSome := rfl; clear k''; clear_value v') | skip))
    | split)

theorem State.logFailed_keeps {P' : Prop} {o' : State} {s : State} (h : Keeps P' o' s) (i : Nat) (slots : List Nat) :
    Keeps P' o' (State.logFailed s i slots) := by
  unfold State.logFailed
  repeat' (first
    | with_reducible assumption
    | with_reducible apply State.growBad_keeps
    | with_reducible apply State.setFlash_keeps
    | with_reducible apply State.stageScatter_keeps
    | with_reducible apply State.startMerge_keeps
    | ((with_reducible apply Keeps.foldl); intro s' x' h')
    | ((with_reducible apply Keeps.foldl_fst); intro s' x' h')
    | ((with_reducible apply Keeps.foldl_snd); intro s' x' h')
    | ((first | intro v' | extract_lets -underBinder +onlyGivenNames v'); (first | (refine_lift have k' : Keeps P' o' v' := ?_; ?_; (on_goal 1 => try clear_value v'); (on_goal 2 => dsimp -zeta only [v'])) | (have k'' : v'.isSome = v'.isSome := rfl; clear k''; clear_value v') | skip))
    | split)

theorem State.unitDone_keeps {P' : Prop} {o' : State} {s : State} (h : Keeps P' o' s) (i : Nat) (failed : List Nat) :
    Keeps P' o' (State.unitDone s i failed) := by
  unfold State.unitDone
  repeat' (first
    | with_reducible assumption
    | with_reducible apply State.growBad_keeps
    | with_reducible apply State.journal_keeps
    | with_reducible apply State.logFailed_keeps
    | with_reducible apply State.putSec_keeps
    | with_reducible apply State.restartMerge_keeps
    | with_reducible apply State.rollover_keeps
    | with_reducible apply State.setPunit_keeps
    | with_reducible apply State.stagingOn_keeps
    | with_reducible apply State.unitCommitted_keeps
    | ((with_reducible apply Keeps.foldl); intro s' x' h')
    | ((with_reducible apply Keeps.foldl_fst); intro s' x' h')
    | ((with_reducible apply Keeps.foldl_snd); intro s' x' h')
    | ((with_reducible refine State.bump_keeps ?_ _ _ _ ?_); rotate_left; · exact rfl)
    | ((first | intro v' | extract_lets -underBinder +onlyGivenNames v'); (first | (refine_lift have k' : Keeps P' o' v' := ?_; ?_; (on_goal 1 => try clear_value v'); (on_goal 2 => dsimp -zeta only [v'])) | (have k'' : v'.isSome = v'.isSome := rfl; clear k''; clear_value v') | skip))
    | split)

theorem State.mergeDone_keeps {P' : Prop} {o' : State} {s : State} (h : Keeps P' o' s) (l : Nat) :
    Keeps P' o' (State.mergeDone s l) := by
  unfold State.mergeDone
  repeat' (first
    | with_reducible assumption
    | with_reducible apply State.journal_keeps
    | with_reducible apply State.queueErase_keeps
    | with_reducible apply State.setLsec_keeps
    | with_reducible apply State.setSecSt_keeps
    | ((with_reducible refine State.bump_keeps ?_ _ _ _ ?_); rotate_left; · exact rfl)
    | ((first | intro v' | extract_lets -underBinder +onlyGivenNames v'); (first | (refine_lift have k' : Keeps P' o' v' := ?_; ?_; (on_goal 1 => try clear_value v'); (on_goal 2 => dsimp -zeta only [v'])) | (have k'' : v'.isSome = v'.isSome := rfl; clear k''; clear_value v') | skip))
    | split
    | (clear_value *; split))

theorem State.eraseStarts_keeps {P' : Prop} {o' : State} {s : State} (h : Keeps P' o' s) (p : Nat) :
    Keeps P' o' (State.eraseStarts s p) := by
  unfold State.eraseStarts
  repeat' (first
    | with_reducible assumption
    | with_reducible apply State.logFreed_keeps
    | with_reducible apply State.putSec_keeps
    | with_reducible apply State.setFlash_keeps
    | with_reducible apply State.setSecSt_keeps
    | ((first | intro v' | extract_lets -underBinder +onlyGivenNames v'); (first | (refine_lift have k' : Keeps P' o' v' := ?_; ?_; (on_goal 1 => try clear_value v'); (on_goal 2 => dsimp -zeta only [v'])) | (have k'' : v'.isSome = v'.isSome := rfl; clear k''; clear_value v') | skip))
    | split)

theorem State.wearLevel_keeps {P' : Prop} {o' : State} {s : State} (h : Keeps P' o' s) (g : Nat) :
    Keeps P' o' (State.wearLevel s g) := by
  unfold State.wearLevel
  repeat' (first
    | with_reducible assumption
    | with_reducible apply State.mergeInto_keeps
    | with_reducible apply State.putSec_keeps
    | with_reducible apply State.remapAll_keeps
    | with_reducible apply State.setSecSt_keeps
    | ((with_reducible apply Keeps.foldl); intro s' x' h')
    | ((with_reducible apply Keeps.foldl_fst); intro s' x' h')
    | ((with_reducible apply Keeps.foldl_snd); intro s' x' h')
    | (refine Keeps.ofOpt ?_ (by with_reducible assumption))
    | ((first | intro v' | extract_lets -underBinder +onlyGivenNames v'); (first | (refine_lift have k' : Keeps P' o' v' := ?_; ?_; (on_goal 1 => try clear_value v'); (on_goal 2 => dsimp -zeta only [v'])) | (have k'' : v'.isSome = v'.isSome := rfl; clear k''; clear_value v') | skip))
    | split
    | (clear_value *; split))

theorem State.eraseEnds_keeps {P' : Prop} {o' : State} {s : State} (h : Keeps P' o' s) (p : Nat) (failed : List Nat) :
    Keeps P' o' (State.eraseEnds s p failed) := by
  unfold State.eraseEnds
  repeat' (first
    | with_reducible assumption
    | with_reducible apply State.countErase_keeps
    | with_reducible apply State.formatErased_keeps
    | with_reducible apply State.growBad_keeps
    | with_reducible apply State.putSec_keeps
    | with_reducible apply State.retireEmptied_keeps
    | with_reducible apply State.retireSec_keeps
    | with_reducible apply State.setSecSt_keeps
    | with_reducible apply State.wearLevel_keeps
    | ((with_reducible apply Keeps.foldl); intro s' x' h')
    | ((with_reducible apply Keeps.foldl_fst); intro s' x' h')
    | ((with_reducible apply Keeps.foldl_snd); intro s' x' h')
    | ((with_reducible refine State.bump_keeps ?_ _ _ _ ?_); rotate_left; · exact rfl)
    | ((first | intro v' | extract_lets -underBinder +onlyGivenNames v'); (first | (refine_lift have k' : Keeps P' o' v' := ?_; ?_; (on_goal 1 => try clear_value v'); (on_goal 2 => dsimp -zeta only [v'])) | (have k'' : v'.isSome = v'.isSome := rfl; clear k''; clear_value v') | skip))
    | split)

theorem State.rawStart_keeps {P' : Prop} {o' : State} {s : State} (h : Keeps P' o' s) :
    Keeps P' o' (State.rawStart s) := by
  unfold State.rawStart
  repeat' (first
    | with_reducible assumption
    | with_reducible apply State.setFlash_keeps
    | with_reducible apply State.suspendFor_keeps
    | ((with_reducible refine State.fset_keeps ?_ _ _ _ ?_); rotate_left; · exact rfl)
    | ((with_reducible refine State.bump_keeps ?_ _ _ _ ?_); rotate_left; · exact rfl)
    | ((first | intro v' | extract_lets -underBinder +onlyGivenNames v'); (first | (refine_lift have k' : Keeps P' o' v' := ?_; ?_; (on_goal 1 => try clear_value v'); (on_goal 2 => dsimp -zeta only [v'])) | (have k'' : v'.isSome = v'.isSome := rfl; clear k''; clear_value v') | skip))
    | split)

theorem State.rawEnd_keeps {P' : Prop} {o' : State} {s : State} (h : Keeps P' o' s) (ok : Bool) (data : List Byte) :
    Keeps P' o' (State.rawEnd s ok data) := by
  unfold State.rawEnd
  split
  · exact h
  dsimp only
  generalize State.rawInRange _ = b1
  generalize State.rawErasing _ = b2
  have k1 := State.fset_keeps (State.setFlash_keeps h { s.flash with raw := none }) F.flsRawCtlBusy 0 0 rfl
  split
  · exact State.fset_keeps k1 _ _ _ rfl
  split
  · exact State.fset_keeps (State.bump_keeps k1 _ _ _ rfl) _ _ _ rfl
  · exact State.fset_keeps (State.rsetBytes_keeps k1 _ _ _ rfl rfl) _ _ _ rfl

theorem execFlashReadIssue_keeps {P' : Prop} {o' : State} (id : Nat) {s : State} (h : Keeps P' o' s) {t : State} (e : execFlashReadIssue id s = .next t) :
    Keeps P' o' t := by
  unfold execFlashReadIssue at e
  injection e with e
  subst e
  repeat' (first
    | with_reducible assumption
    | with_reducible apply State.issueRead_keeps)

theorem execFlashReadDone_keeps {P' : Prop} {o' : State} (id step : Nat) (ok : Bool) (answer : Fin 3) (us ifErrors : Nat) {s : State} (h : Keeps P' o' s) {t : State} (e : execFlashReadDone id step ok answer us ifErrors s = .next t) :
    Keeps P' o' t := by
  unfold execFlashReadDone at e
  injection e with e
  subst e
  repeat' (first
    | with_reducible assumption
    | with_reducible apply State.readDone_keeps)

theorem execReadAroundThreshold_keeps {P' : Prop} {o' : State} (id : Nat) {s : State} (h : Keeps P' o' s) {t : State} (e : execReadAroundThreshold id s = .next t) :
    Keeps P' o' t := by
  unfold execReadAroundThreshold at e
  injection e with e
  subst e
  repeat' (first
    | with_reducible assumption
    | with_reducible apply State.readAround_keeps)

theorem execReadAroundDone_keeps {P' : Prop} {o' : State} (id : Nat) (ok : Bool) (us : Nat) {s : State} (h : Keeps P' o' s) {t : State} (e : execReadAroundDone id ok us s = .next t) :
    Keeps P' o' t := by
  unfold execReadAroundDone at e
  injection e with e
  subst e
  repeat' (first
    | with_reducible assumption
    | with_reducible apply State.readAroundEnds_keeps)

theorem execEraseResume_keeps {P' : Prop} {o' : State} (sec : Nat) {s : State} (h : Keeps P' o' s) {t : State} (e : execEraseResume sec s = .next t) :
    Keeps P' o' t := by
  unfold execEraseResume at e
  injection e with e
  subst e
  repeat' (first
    | with_reducible assumption
    | with_reducible apply State.setSecSt_keeps
    | split)

theorem execUnitStageTimeout_keeps {P' : Prop} {o' : State} (unit : Nat) {s : State} (h : Keeps P' o' s) {t : State} (e : execUnitStageTimeout unit s = .next t) :
    Keeps P' o' t := by
  unfold execUnitStageTimeout at e
  injection e with e
  subst e
  repeat' (first
    | with_reducible assumption
    | with_reducible apply State.beginUnit_keeps
    | with_reducible apply State.stagingOn_keeps
    | split)

theorem execUnitProgramDone_keeps {P' : Prop} {o' : State} (unit : Nat) (failed : List Nat) {s : State} (h : Keeps P' o' s) {t : State} (e : execUnitProgramDone unit failed s = .next t) :
    Keeps P' o' t := by
  unfold execUnitProgramDone at e
  injection e with e
  subst e
  repeat' (first
    | with_reducible assumption
    | with_reducible apply State.sanOverwritten_keeps
    | with_reducible apply State.unitDone_keeps
    | split)

theorem execMergeVerifyDone_keeps {P' : Prop} {o' : State} (lsec : Nat) {s : State} (h : Keeps P' o' s) {t : State} (e : execMergeVerifyDone lsec s = .next t) :
    Keeps P' o' t := by
  unfold execMergeVerifyDone at e
  injection e with e
  subst e
  repeat' (first
    | with_reducible assumption
    | with_reducible apply State.checkpointOn_keeps
    | with_reducible apply State.mergeDone_keeps
    | split)

theorem execSectionEraseStart_keeps {P' : Prop} {o' : State} (sec : Nat) {s : State} (h : Keeps P' o' s) {t : State} (e : execSectionEraseStart sec s = .next t) :
    Keeps P' o' t := by
  unfold execSectionEraseStart at e
  injection e with e
  subst e
  repeat' (first
    | with_reducible assumption
    | with_reducible apply State.eraseStarts_keeps)

theorem execCheckpointTimer_keeps {P' : Prop} {o' : State} {s : State} (h : Keeps P' o' s) {t : State} (e : execCheckpointTimer s = .next t) :
    Keeps P' o' t := by
  unfold execCheckpointTimer at e
  injection e with e
  subst e
  repeat' (first
    | with_reducible assumption
    | with_reducible apply State.checkpointOn_keeps)

theorem execPatrolReadTimer_keeps {P' : Prop} {o' : State} (sec unit : Nat) {s : State} (h : Keeps P' o' s) {t : State} (e : execPatrolReadTimer sec unit s = .next t) :
    Keeps P' o' t := by
  unfold execPatrolReadTimer at e
  injection e with e
  subst e
  repeat' (first
    | with_reducible assumption
    | with_reducible apply State.journal_keeps
    | with_reducible apply State.setFread_keeps
    | with_reducible apply State.drawNat_keeps
    | ((first | intro v' | extract_lets -underBinder +onlyGivenNames v'); (first | (refine_lift have k' : Keeps P' o' v' := ?_; ?_; (on_goal 1 => try clear_value v'); (on_goal 2 => dsimp -zeta only [v'])) | (refine_lift have k' : Keeps P' o' v'.2 := ?_; ?_; (on_goal 1 => try clear_value v'); (on_goal 2 => dsimp -zeta only [v'])) | (have k'' : v'.isSome = v'.isSome := rfl; clear k''; clear_value v') | skip))
    | split)

theorem execRawReadStart_keeps {P' : Prop} {o' : State} {s : State} (h : Keeps P' o' s) {t : State} (e : execRawReadStart s = .next t) :
    Keeps P' o' t := by
  unfold execRawReadStart at e
  injection e with e
  subst e
  repeat' (first
    | with_reducible assumption
    | with_reducible apply State.lockWrite_keeps
    | with_reducible apply State.rawStart_keeps
    | ((with_reducible show ∀ y' : State, Keeps P' o' y' → _); intro y' h')
    | ((with_reducible show ∀ (_ : _) (y' : State), Keeps P' o' y' → _); intro x' y' h')
    | ((with_reducible show ∀ (_ : _) (_ : _) (y' : State), Keeps P' o' y' → _); intro x' z' y' h'))

theorem execRawReadDone_keeps {P' : Prop} {o' : State} (ok : Bool) (data : List Byte) {s : State} (h : Keeps P' o' s) {t : State} (e : execRawReadDone ok data s = .next t) :
    Keeps P' o' t := by
  unfold execRawReadDone at e
  injection e with e
  subst e
  repeat' (first
    | with_reducible assumption
    | with_reducible apply State.rawEnd_keeps)

end Sys2Proof.Machine
end

