-- ==== Sys2Proof/Laws/KeepsSanitise.lean ====
section
/-! SUPPORT. What each operation of Machine/Sanitise.lean keeps (Laws/Keeps.lean). -/

set_option linter.unusedTactic false
set_option linter.unreachableTactic false

namespace Sys2Proof.Machine

theorem State.sanRounds_keeps {P' : Prop} {o' : State} {s : State} (h : Keeps P' o' s) (action : Nat) :
    Keeps P' o' (State.sanRounds s action) := by
  unfold State.sanRounds
  repeat' (first
    | with_reducible assumption
    | with_reducible apply State.progress_keeps
    | split)

theorem State.sanStart_keeps {P' : Prop} {o' : State} {s : State} (h : Keeps P' o' s) (action : Nat) :
    Keeps P' o' (State.sanStart s action) := by
  unfold State.sanStart
  repeat' (first
    | with_reducible assumption
    | with_reducible apply State.clearMediaWork_keeps
    | with_reducible apply State.progress_keeps
    | with_reducible apply State.sanClear_keeps
    | with_reducible apply State.sanRounds_keeps
    | with_reducible apply State.setCfs_keeps
    | ((first | intro v' | extract_lets -underBinder +onlyGivenNames v'); (first | (refine_lift have k' : Keeps P' o' v' := ?_; ?_; (on_goal 1 => try clear_value v'); (on_goal 2 => dsimp -zeta only [v'])) | (have k'' : v'.isSome = v'.isSome := rfl; clear k''; clear_value v') | skip))
    | split)

theorem State.sanitiseTaken_keeps {P' : Prop} {o' : State} (p : Nat) (e : List Byte) {s : State} (h : Keeps P' o' s) :
    Keeps P' o' (State.sanitiseTaken p e s) := by
  unfold State.sanitiseTaken
  repeat' (first
    | with_reducible assumption
    | with_reducible apply State.fail_keeps
    | with_reducible apply State.sanStart_keeps
    | split)

theorem execSanitiseBlockErase_keeps {P' : Prop} {o' : State} (q : QueueId) {s : State} (h : Keeps P' o' s) {t : State} (e : execSanitiseBlockErase q s = .next t) :
    Keeps P' o' t := by
  unfold execSanitiseBlockErase at e
  injection e with e
  subst e
  repeat' (first
    | with_reducible assumption
    | with_reducible apply State.adminOnly_keeps
    | with_reducible apply State.behind_keeps
    | with_reducible apply State.onEntry_keeps
    | with_reducible apply State.sanitiseTaken_keeps
    | ((with_reducible show ∀ y' : State, Keeps P' o' y' → _); intro y' h')
    | ((with_reducible show ∀ (_ : _) (y' : State), Keeps P' o' y' → _); intro x' y' h')
    | ((with_reducible show ∀ (_ : _) (_ : _) (y' : State), Keeps P' o' y' → _); intro x' z' y' h'))

theorem execSanitiseOverwrite_keeps {P' : Prop} {o' : State} (q : QueueId) {s : State} (h : Keeps P' o' s) {t : State} (e : execSanitiseOverwrite q s = .next t) :
    Keeps P' o' t := by
  unfold execSanitiseOverwrite at e
  injection e with e
  subst e
  repeat' (first
    | with_reducible assumption
    | with_reducible apply State.adminOnly_keeps
    | with_reducible apply State.behind_keeps
    | with_reducible apply State.onEntry_keeps
    | with_reducible apply State.sanitiseTaken_keeps
    | ((with_reducible show ∀ y' : State, Keeps P' o' y' → _); intro y' h')
    | ((with_reducible show ∀ (_ : _) (y' : State), Keeps P' o' y' → _); intro x' y' h')
    | ((with_reducible show ∀ (_ : _) (_ : _) (y' : State), Keeps P' o' y' → _); intro x' z' y' h'))

theorem State.formatCommit_keeps {P' : Prop} {o' : State} {s : State} (h : Keeps P' o' s) :
    Keeps P' o' (State.formatCommit s) := by
  unfold State.formatCommit
  repeat' (first
    | with_reducible assumption
    | with_reducible apply State.dropMedia_keeps
    | with_reducible apply State.journal_keeps
    | with_reducible apply State.setFlash_keeps
    | ((first | intro v' | extract_lets -underBinder +onlyGivenNames v'); (first | (refine_lift have k' : Keeps P' o' v' := ?_; ?_; (on_goal 1 => try clear_value v'); (on_goal 2 => dsimp -zeta only [v'])) | (have k'' : v'.isSome = v'.isSome := rfl; clear k''; clear_value v') | skip))
    | split)

theorem State.formatErases_keeps {P' : Prop} {o' : State} {s : State} (h : Keeps P' o' s) :
    Keeps P' o' (State.formatErases s) := by
  unfold State.formatErases
  repeat' (first
    | with_reducible assumption
    | with_reducible apply State.event_keeps
    | with_reducible apply State.maintEnd_keeps
    | with_reducible apply State.progress_keeps
    | with_reducible apply State.setFlash_keeps
    | with_reducible apply State.setSecSt_keeps
    | ((with_reducible apply Keeps.foldl); intro s' x' h')
    | ((with_reducible apply Keeps.foldl_fst); intro s' x' h')
    | ((with_reducible apply Keeps.foldl_snd); intro s' x' h')
    | ((first | intro v' | extract_lets -underBinder +onlyGivenNames v'); (first | (refine_lift have k' : Keeps P' o' v' := ?_; ?_; (on_goal 1 => try clear_value v'); (on_goal 2 => dsimp -zeta only [v'])) | (have k'' : v'.isSome = v'.isSome := rfl; clear k''; clear_value v') | skip))
    | split)

theorem State.formatTaken_keeps {P' : Prop} {o' : State} (p : Nat) (e : List Byte) {s : State} (h : Keeps P' o' s) :
    Keeps P' o' (State.formatTaken p e s) := by
  unfold State.formatTaken
  repeat' (first
    | with_reducible assumption
    | with_reducible apply State.clearMediaWork_keeps
    | with_reducible apply State.fail_keeps
    | with_reducible apply State.finish_keeps
    | with_reducible apply State.formatCommit_keeps
    | with_reducible apply State.formatErases_keeps
    | with_reducible apply State.progress_keeps
    | ((first | intro v' | extract_lets -underBinder +onlyGivenNames v'); (first | (refine_lift have k' : Keeps P' o' v' := ?_; ?_; (on_goal 1 => try clear_value v'); (on_goal 2 => dsimp -zeta only [v'])) | (have k'' : v'.isSome = v'.isSome := rfl; clear k''; clear_value v') | skip))
    | split)

theorem execFormat_keeps {P' : Prop} {o' : State} (q : QueueId) {s : State} (h : Keeps P' o' s) {t : State} (e : execFormat q s = .next t) :
    Keeps P' o' t := by
  unfold execFormat at e
  injection e with e
  subst e
  repeat' (first
    | with_reducible assumption
    | with_reducible apply State.adminOnly_keeps
    | with_reducible apply State.behind_keeps
    | with_reducible apply State.formatTaken_keeps
    | with_reducible apply State.onEntry_keeps
    | ((with_reducible show ∀ y' : State, Keeps P' o' y' → _); intro y' h')
    | ((with_reducible show ∀ (_ : _) (y' : State), Keeps P' o' y' → _); intro x' y' h')
    | ((with_reducible show ∀ (_ : _) (_ : _) (y' : State), Keeps P' o' y' → _); intro x' z' y' h'))

theorem State.sanResume_keeps {P' : Prop} {o' : State} {s : State} (h : Keeps P' o' s) :
    Keeps P' o' (State.sanResume s) := by
  unfold State.sanResume
  repeat' (first
    | with_reducible assumption
    | with_reducible apply State.sanClear_keeps
    | with_reducible apply State.sanFree_keeps
    | with_reducible apply State.sanRounds_keeps
    | with_reducible apply State.setPower_keeps
    | ((with_reducible refine State.fset_keeps ?_ _ _ _ ?_); rotate_left; · exact rfl)
    | ((first | intro v' | extract_lets -underBinder +onlyGivenNames v'); (first | (refine_lift have k' : Keeps P' o' v' := ?_; ?_; (on_goal 1 => try clear_value v'); (on_goal 2 => dsimp -zeta only [v'])) | (have k'' : v'.isSome = v'.isSome := rfl; clear k''; clear_value v') | skip))
    | split)

theorem execSanitiseResume_keeps {P' : Prop} {o' : State} {s : State} (h : Keeps P' o' s) {t : State} (e : execSanitiseResume s = .next t) :
    Keeps P' o' t := by
  unfold execSanitiseResume at e
  injection e with e
  subst e
  repeat' (first
    | with_reducible assumption
    | with_reducible apply State.sanResume_keeps
    | split)

end Sys2Proof.Machine
end

