-- ==== Sys2Proof/Laws/KeepsFirmware.lean ====
section
/-! SUPPORT. What each operation of Machine/Firmware.lean keeps (Laws/Keeps.lean). -/

set_option linter.unusedTactic false
set_option linter.unreachableTactic false

namespace Sys2Proof.Machine

theorem State.invalidate_keeps {P' : Prop} {o' : State} {s : State} (h : Keeps P' o' s) (r : Nat) :
    Keeps P' o' (State.invalidate s r) := by
  unfold State.invalidate
  repeat' (first
    | with_reducible assumption
    | with_reducible apply State.remeasure_keeps
    | with_reducible apply State.setCfs_keeps
    | ((with_reducible refine State.fset_keeps ?_ _ _ _ ?_); rotate_left; · exact rfl)
    | ((first | intro v' | extract_lets -underBinder +onlyGivenNames v'); (first | (refine_lift have k' : Keeps P' o' v' := ?_; ?_; (on_goal 1 => try clear_value v'); (on_goal 2 => dsimp -zeta only [v'])) | (have k'' : v'.isSome = v'.isSome := rfl; clear k''; clear_value v') | skip))
    | split)

theorem State.imageStaged_keeps {P' : Prop} {o' : State} {s : State} (h : Keeps P' o' s) (p : Nat) :
    Keeps P' o' (State.imageStaged s p) := by
  unfold State.imageStaged
  repeat' (first
    | with_reducible assumption
    | with_reducible apply State.cfsWrite_keeps
    | with_reducible apply State.eraseSectors_keeps
    | with_reducible apply State.finish_keeps
    | ((first | intro v' | extract_lets -underBinder +onlyGivenNames v'); (first | (refine_lift have k' : Keeps P' o' v' := ?_; ?_; (on_goal 1 => try clear_value v'); (on_goal 2 => dsimp -zeta only [v'])) | (have k'' : v'.isSome = v'.isSome := rfl; clear k''; clear_value v') | skip))
    | split)

theorem State.stageImageTaken_keeps {P' : Prop} {o' : State} (p : Nat) (e : List Byte) {s : State} (h : Keeps P' o' s) :
    Keeps P' o' (State.stageImageTaken p e s) := by
  unfold State.stageImageTaken
  repeat' (first
    | with_reducible assumption
    | with_reducible apply State.fail_keeps
    | with_reducible apply State.imageStaged_keeps
    | with_reducible apply State.invalidate_keeps
    | with_reducible apply State.setCmd_keeps
    | ((first | intro v' | extract_lets -underBinder +onlyGivenNames v'); (first | (refine_lift have k' : Keeps P' o' v' := ?_; ?_; (on_goal 1 => try clear_value v'); (on_goal 2 => dsimp -zeta only [v'])) | (have k'' : v'.isSome = v'.isSome := rfl; clear k''; clear_value v') | skip))
    | split)

theorem execFwStageImage_keeps {P' : Prop} {o' : State} (q : QueueId) {s : State} (h : Keeps P' o' s) {t : State} (e : execFwStageImage q s = .next t) :
    Keeps P' o' t := by
  unfold execFwStageImage at e
  injection e with e
  subst e
  repeat' (first
    | with_reducible assumption
    | with_reducible apply State.adminOnly_keeps
    | with_reducible apply State.onEntry_keeps
    | with_reducible apply State.stageImageTaken_keeps
    | ((with_reducible show ∀ y' : State, Keeps P' o' y' → _); intro y' h')
    | ((with_reducible show ∀ (_ : _) (y' : State), Keeps P' o' y' → _); intro x' y' h')
    | ((with_reducible show ∀ (_ : _) (_ : _) (y' : State), Keeps P' o' y' → _); intro x' z' y' h'))

theorem State.libStaged_keeps {P' : Prop} {o' : State} {s : State} (h : Keeps P' o' s) (p : Nat) :
    Keeps P' o' (State.libStaged s p) := by
  unfold State.libStaged
  repeat' (first
    | with_reducible assumption
    | with_reducible apply State.cfsWrite_keeps
    | with_reducible apply State.eraseSectors_keeps
    | with_reducible apply State.finish_keeps
    | ((first | intro v' | extract_lets -underBinder +onlyGivenNames v'); (first | (refine_lift have k' : Keeps P' o' v' := ?_; ?_; (on_goal 1 => try clear_value v'); (on_goal 2 => dsimp -zeta only [v'])) | (have k'' : v'.isSome = v'.isSome := rfl; clear k''; clear_value v') | skip))
    | split
    | (clear_value *; split))

theorem State.libAddTaken_keeps {P' : Prop} {o' : State} (p : Nat) (e : List Byte) {s : State} (h : Keeps P' o' s) :
    Keeps P' o' (State.libAddTaken p e s) := by
  unfold State.libAddTaken
  repeat' (first
    | with_reducible assumption
    | with_reducible apply State.fail_keeps
    | with_reducible apply State.finish_keeps
    | with_reducible apply State.setCmd_keeps
    | ((first | intro v' | extract_lets -underBinder +onlyGivenNames v'); (first | (refine_lift have k' : Keeps P' o' v' := ?_; ?_; (on_goal 1 => try clear_value v'); (on_goal 2 => dsimp -zeta only [v'])) | (have k'' : v'.isSome = v'.isSome := rfl; clear k''; clear_value v') | skip))
    | split)

theorem State.libRemoveTaken_keeps {P' : Prop} {o' : State} (p : Nat) (e : List Byte) {s : State} (h : Keeps P' o' s) :
    Keeps P' o' (State.libRemoveTaken p e s) := by
  unfold State.libRemoveTaken
  repeat' (first
    | with_reducible assumption
    | with_reducible apply State.cfsWrite_keeps
    | with_reducible apply State.fail_keeps
    | ((first | intro v' | extract_lets -underBinder +onlyGivenNames v'); (first | (refine_lift have k' : Keeps P' o' v' := ?_; ?_; (on_goal 1 => try clear_value v'); (on_goal 2 => dsimp -zeta only [v'])) | (have k'' : v'.isSome = v'.isSome := rfl; clear k''; clear_value v') | skip))
    | split)

theorem execFwStageLibraryAdd_keeps {P' : Prop} {o' : State} (q : QueueId) {s : State} (h : Keeps P' o' s) {t : State} (e : execFwStageLibraryAdd q s = .next t) :
    Keeps P' o' t := by
  unfold execFwStageLibraryAdd at e
  injection e with e
  subst e
  repeat' (first
    | with_reducible assumption
    | with_reducible apply State.adminOnly_keeps
    | with_reducible apply State.behind_keeps
    | with_reducible apply State.libAddTaken_keeps
    | with_reducible apply State.onEntry_keeps
    | ((with_reducible show ∀ y' : State, Keeps P' o' y' → _); intro y' h')
    | ((with_reducible show ∀ (_ : _) (y' : State), Keeps P' o' y' → _); intro x' y' h')
    | ((with_reducible show ∀ (_ : _) (_ : _) (y' : State), Keeps P' o' y' → _); intro x' z' y' h'))

theorem execFwStageLibraryRemove_keeps {P' : Prop} {o' : State} (q : QueueId) {s : State} (h : Keeps P' o' s) {t : State} (e : execFwStageLibraryRemove q s = .next t) :
    Keeps P' o' t := by
  unfold execFwStageLibraryRemove at e
  injection e with e
  subst e
  repeat' (first
    | with_reducible assumption
    | with_reducible apply State.adminOnly_keeps
    | with_reducible apply State.behind_keeps
    | with_reducible apply State.libRemoveTaken_keeps
    | with_reducible apply State.onEntry_keeps
    | ((with_reducible show ∀ y' : State, Keeps P' o' y' → _); intro y' h')
    | ((with_reducible show ∀ (_ : _) (y' : State), Keeps P' o' y' → _); intro x' y' h')
    | ((with_reducible show ∀ (_ : _) (_ : _) (y' : State), Keeps P' o' y' → _); intro x' z' y' h'))

theorem State.activateStart_keeps {P' : Prop} {o' : State} {s : State} (h : Keeps P' o' s) (p : Nat) :
    Keeps P' o' (State.activateStart s p) := by
  unfold State.activateStart
  repeat' (first
    | with_reducible assumption
    | with_reducible apply State.progress_keeps
    | with_reducible apply State.setPower_keeps)

theorem State.activateTaken_keeps {P' : Prop} {o' : State} (p : Nat) (e : List Byte) {s : State} (h : Keeps P' o' s) :
    Keeps P' o' (State.activateTaken p e s) := by
  unfold State.activateTaken
  repeat' (first
    | with_reducible assumption
    | with_reducible apply State.activateStart_keeps
    | with_reducible apply State.behind_keeps
    | with_reducible apply State.fail_keeps
    | with_reducible apply State.setPower_keeps
    | ((with_reducible show ∀ y' : State, Keeps P' o' y' → _); intro y' h')
    | ((with_reducible show ∀ (_ : _) (y' : State), Keeps P' o' y' → _); intro x' y' h')
    | ((with_reducible show ∀ (_ : _) (_ : _) (y' : State), Keeps P' o' y' → _); intro x' z' y' h')
    | split)

theorem State.nextBootTaken_keeps {P' : Prop} {o' : State} (p : Nat) (e : List Byte) {s : State} (h : Keeps P' o' s) :
    Keeps P' o' (State.nextBootTaken p e s) := by
  unfold State.nextBootTaken
  repeat' (first
    | with_reducible assumption
    | with_reducible apply State.cfsWrite_keeps
    | with_reducible apply State.fail_keeps
    | split)

theorem execFwActivate_keeps {P' : Prop} {o' : State} (q : QueueId) {s : State} (h : Keeps P' o' s) {t : State} (e : execFwActivate q s = .next t) :
    Keeps P' o' t := by
  unfold execFwActivate at e
  injection e with e
  subst e
  repeat' (first
    | with_reducible assumption
    | with_reducible apply State.activateTaken_keeps
    | with_reducible apply State.adminOnly_keeps
    | with_reducible apply State.onEntry_keeps
    | ((with_reducible show ∀ y' : State, Keeps P' o' y' → _); intro y' h')
    | ((with_reducible show ∀ (_ : _) (y' : State), Keeps P' o' y' → _); intro x' y' h')
    | ((with_reducible show ∀ (_ : _) (_ : _) (y' : State), Keeps P' o' y' → _); intro x' z' y' h'))

theorem execFwActivateNextBoot_keeps {P' : Prop} {o' : State} (q : QueueId) {s : State} (h : Keeps P' o' s) {t : State} (e : execFwActivateNextBoot q s = .next t) :
    Keeps P' o' t := by
  unfold execFwActivateNextBoot at e
  injection e with e
  subst e
  repeat' (first
    | with_reducible assumption
    | with_reducible apply State.adminOnly_keeps
    | with_reducible apply State.nextBootTaken_keeps
    | with_reducible apply State.onEntry_keeps
    | ((with_reducible show ∀ y' : State, Keeps P' o' y' → _); intro y' h')
    | ((with_reducible show ∀ (_ : _) (y' : State), Keeps P' o' y' → _); intro x' y' h')
    | ((with_reducible show ∀ (_ : _) (_ : _) (y' : State), Keeps P' o' y' → _); intro x' z' y' h'))

theorem State.behindGoes_keeps {P' : Prop} {o' : State} {s : State} (h : Keeps P' o' s) (p : Nat) :
    Keeps P' o' (State.behindGoes s p) := by
  unfold State.behindGoes
  repeat' (first
    | with_reducible assumption
    | with_reducible apply State.activateTaken_keeps
    | with_reducible apply State.clearTaken_keeps
    | with_reducible apply State.formatTaken_keeps
    | with_reducible apply State.installTaken_keeps
    | with_reducible apply State.libAddTaken_keeps
    | with_reducible apply State.libRemoveTaken_keeps
    | with_reducible apply State.pullTaken_keeps
    | with_reducible apply State.sanitiseTaken_keeps
    | with_reducible apply State.shuntTaken_keeps
    | ((first | intro v' | extract_lets -underBinder +onlyGivenNames v'); (first | (refine_lift have k' : Keeps P' o' v' := ?_; ?_; (on_goal 1 => try clear_value v'); (on_goal 2 => dsimp -zeta only [v'])) | (have k'' : v'.isSome = v'.isSome := rfl; clear k''; clear_value v') | skip))
    | split)

theorem State.behindGoAll_keeps {P' : Prop} {o' : State} {s : State} (h : Keeps P' o' s) (x0 : Nat) :
    Keeps P' o' (State.behindGoAll s x0) := by
  induction x0 generalizing s  with
  | zero =>
    unfold State.behindGoAll
    repeat' (first
      | with_reducible assumption
      | with_reducible apply State.behind_keeps
      | with_reducible apply State.behindGoes_keeps
      | with_reducible apply State.setPower_keeps
      | ((with_reducible show ∀ y' : State, Keeps P' o' y' → _); intro y' h')
      | ((with_reducible show ∀ (_ : _) (y' : State), Keeps P' o' y' → _); intro x' y' h')
      | ((with_reducible show ∀ (_ : _) (_ : _) (y' : State), Keeps P' o' y' → _); intro x' z' y' h')
      | split)
  | succ n ih =>
    unfold State.behindGoAll
    repeat' (first
      | with_reducible assumption
      | with_reducible apply ih
      | with_reducible apply State.behind_keeps
      | with_reducible apply State.behindGoes_keeps
      | with_reducible apply State.setPower_keeps
      | ((with_reducible show ∀ y' : State, Keeps P' o' y' → _); intro y' h')
      | ((with_reducible show ∀ (_ : _) (y' : State), Keeps P' o' y' → _); intro x' y' h')
      | ((with_reducible show ∀ (_ : _) (_ : _) (y' : State), Keeps P' o' y' → _); intro x' z' y' h')
      | split)

theorem State.afterOps_keeps {P' : Prop} {o' : State} {s : State} (h : Keeps P' o' s) :
    Keeps P' o' (State.afterOps s) := by
  unfold State.afterOps
  repeat' (first
    | with_reducible assumption
    | with_reducible apply State.behind_keeps
    | with_reducible apply State.behindGoAll_keeps
    | with_reducible apply State.stitchKick_keeps
    | ((with_reducible show ∀ y' : State, Keeps P' o' y' → _); intro y' h')
    | ((with_reducible show ∀ (_ : _) (y' : State), Keeps P' o' y' → _); intro x' y' h')
    | ((with_reducible show ∀ (_ : _) (_ : _) (y' : State), Keeps P' o' y' → _); intro x' z' y' h'))

theorem State.activationFails_keeps {P' : Prop} {o' : State} {s : State} (h : Keeps P' o' s) (step d : Nat) :
    Keeps P' o' (State.activationFails s step d) := by
  unfold State.activationFails
  repeat' (first
    | with_reducible assumption
    | with_reducible apply State.afterOps_keeps
    | with_reducible apply State.event_keeps
    | with_reducible apply State.finish_keeps
    | with_reducible apply State.maintEnd_keeps
    | with_reducible apply State.setPower_keeps
    | ((first | intro v' | extract_lets -underBinder +onlyGivenNames v'); (first | (refine_lift have k' : Keeps P' o' v' := ?_; ?_; (on_goal 1 => try clear_value v'); (on_goal 2 => dsimp -zeta only [v'])) | (have k'' : v'.isSome = v'.isSome := rfl; clear k''; clear_value v') | skip))
    | split
    | (clear_value *; split))

theorem State.coreDown_keeps {P' : Prop} {o' : State} {s : State} (h : Keeps P' o' s) (d : Nat) :
    Keeps P' o' (State.coreDown s d) := by
  unfold State.coreDown
  repeat' (first
    | with_reducible assumption
    | with_reducible apply State.setPower_keeps
    | ((with_reducible refine State.fset_keeps ?_ _ _ _ ?_); rotate_left; · exact rfl)
    | ((first | intro v' | extract_lets -underBinder +onlyGivenNames v'); (first | (refine_lift have k' : Keeps P' o' v' := ?_; ?_; (on_goal 1 => try clear_value v'); (on_goal 2 => dsimp -zeta only [v'])) | (have k'' : v'.isSome = v'.isSome := rfl; clear k''; clear_value v') | skip))
    | split)

theorem State.standbyRestarts_keeps {P' : Prop} {o' : State} {s : State} (h : Keeps P' o' s) (d : Nat) (ok : Bool) :
    Keeps P' o' (State.standbyRestarts s d ok) := by
  unfold State.standbyRestarts
  repeat' (first
    | with_reducible assumption
    | with_reducible apply State.activationFails_keeps
    | with_reducible apply State.coreDown_keeps
    | with_reducible apply State.progress_keeps
    | with_reducible apply State.setPower_keeps
    | ((first | intro v' | extract_lets -underBinder +onlyGivenNames v'); (first | (refine_lift have k' : Keeps P' o' v' := ?_; ?_; (on_goal 1 => try clear_value v'); (on_goal 2 => dsimp -zeta only [v'])) | (have k'' : v'.isSome = v'.isSome := rfl; clear k''; clear_value v') | skip))
    | split)

theorem execStandbyCoreRestart_keeps {P' : Prop} {o' : State} (d : DieId) (ok : Bool) {s : State} (h : Keeps P' o' s) {t : State} (e : execStandbyCoreRestart d ok s = .next t) :
    Keeps P' o' t := by
  unfold execStandbyCoreRestart at e
  injection e with e
  subst e
  repeat' (first
    | with_reducible assumption
    | with_reducible apply State.standbyRestarts_keeps)

theorem State.clearChallenge_keeps {P' : Prop} {o' : State} {s : State} (h : Keeps P' o' s) :
    Keeps P' o' (State.clearChallenge s) := by
  unfold State.clearChallenge
  repeat' (first
    | with_reducible assumption
    | ((with_reducible apply Keeps.foldl); intro s' x' h')
    | ((with_reducible apply Keeps.foldl_fst); intro s' x' h')
    | ((with_reducible apply Keeps.foldl_snd); intro s' x' h')
    | ((with_reducible refine State.fset_keeps ?_ _ _ _ ?_); rotate_left; · exact rfl)
    | ((with_reducible refine State.rset_keeps ?_ _ _ _ ?_ (fun z => ?_)); rotate_left; · exact rfl)
    | exact Reg.fits_zero _)

theorem State.commitBoot_keeps {P' : Prop} {o' : State} {s : State} (h : Keeps P' o' s) : Keeps P' o' (State.commitBoot s) := by
  unfold State.commitBoot
  dsimp only
  refine State.cfsWrite_keeps (State.progress_keeps ?_ _ _ _ _) _
  split
  · refine State.raiseSvn_keeps h _ (Nat.le_max_left _ _) ?_
    have h1 : s.fget F.secSvnSvn 0 < 64 := State.fget_lt s F.secSvnSvn 0
    have h2 : fwSvn (s.fwRegion s.otherRegion).bytes < 64 := Nat.mod_lt _ (by decide)
    omega
  · exact h

theorem State.handDie_keeps {P' : Prop} {o' : State} {s : State} (h : Keeps P' o' s) (d : Nat) :
    Keeps P' o' (State.handDie s d) := by
  unfold State.handDie
  repeat' (first
    | with_reducible assumption
    | with_reducible apply State.clearChallenge_keeps
    | with_reducible apply State.commitBoot_keeps
    | with_reducible apply State.progress_keeps
    | with_reducible apply State.setPower_keeps
    | ((first | intro v' | extract_lets -underBinder +onlyGivenNames v'); (first | (refine_lift have k' : Keeps P' o' v' := ?_; ?_; (on_goal 1 => try clear_value v'); (on_goal 2 => dsimp -zeta only [v'])) | (have k'' : v'.isSome = v'.isSome := rfl; clear k''; clear_value v') | skip))
    | split)

theorem execDieHandover_keeps {P' : Prop} {o' : State} (d : DieId) {s : State} (h : Keeps P' o' s) {t : State} (e : execDieHandover d s = .next t) :
    Keeps P' o' t := by
  unfold execDieHandover at e
  injection e with e
  subst e
  repeat' (first
    | with_reducible assumption
    | with_reducible apply State.handDie_keeps)

theorem execCfsProgramDone_keeps {P' : Prop} {o' : State} (bad0 bad1 : Option Nat) {s : State} (h : Keeps P' o' s) {t : State} (e : execCfsProgramDone bad0 bad1 s = .next t) :
    Keeps P' o' t := by
  unfold execCfsProgramDone at e
  injection e with e
  subst e
  repeat' (first
    | with_reducible assumption
    | with_reducible apply State.afterOps_keeps
    | with_reducible apply State.badProgram_keeps
    | with_reducible apply State.commitFront_keeps
    | ((first | intro v' | extract_lets -underBinder +onlyGivenNames v'); (first | (refine_lift have k' : Keeps P' o' v' := ?_; ?_; (on_goal 1 => try clear_value v'); (on_goal 2 => dsimp -zeta only [v'])) | (have k'' : v'.isSome = v'.isSome := rfl; clear k''; clear_value v') | skip))
    | split)

theorem execEraseDone_keeps {P' : Prop} {o' : State} (sec : Nat) (failed : List Nat) {s : State} (h : Keeps P' o' s) {t : State} (e : execEraseDone sec failed s = .next t) :
    Keeps P' o' t := by
  unfold execEraseDone at e
  injection e with e
  subst e
  repeat' (first
    | with_reducible assumption
    | with_reducible apply State.afterOps_keeps
    | with_reducible apply State.eraseEnds_keeps
    | with_reducible apply State.sanErased_keeps
    | split)

end Sys2Proof.Machine
end

