-- ==== Sys2Proof/Laws/KeepsHostData.lean ====
section
/-! SUPPORT. What each operation of Machine/HostData.lean keeps (Laws/Keeps.lean). -/

set_option linter.unusedTactic false
set_option linter.unreachableTactic false

namespace Sys2Proof.Machine

theorem State.hostData_keeps {P' : Prop} {o' : State} {s : State} (h : Keeps P' o' s) (p : Nat) :
    Keeps P' o' (State.hostData s p) := by
  unfold State.hostData
  repeat' (first
    | with_reducible assumption
    | with_reducible apply State.imageStaged_keeps
    | with_reducible apply State.installData_keeps
    | with_reducible apply State.libStaged_keeps
    | with_reducible apply State.listDone_keeps
    | with_reducible apply State.mutatorData_keeps
    | with_reducible apply State.runData_keeps
    | with_reducible apply State.scanData_keeps
    | with_reducible apply State.searchData_keeps
    | ((first | intro v' | extract_lets -underBinder +onlyGivenNames v'); (first | (refine_lift have k' : Keeps P' o' v' := ?_; ?_; (on_goal 1 => try clear_value v'); (on_goal 2 => dsimp -zeta only [v'])) | (have k'' : v'.isSome = v'.isSome := rfl; clear k''; clear_value v') | skip))
    | split)

theorem State.pieceArrives_keeps {P' : Prop} {o' : State} {s : State} (h : Keeps P' o' s) (p : Nat) (data : List Byte) :
    Keeps P' o' (State.pieceArrives s p data) := by
  unfold State.pieceArrives
  repeat' (first
    | with_reducible assumption
    | with_reducible apply State.hostData_keeps
    | with_reducible apply State.setCmd_keeps
    | with_reducible apply State.writeData_keeps
    | ((first | intro v' | extract_lets -underBinder +onlyGivenNames v'); (first | (refine_lift have k' : Keeps P' o' v' := ?_; ?_; (on_goal 1 => try clear_value v'); (on_goal 2 => dsimp -zeta only [v'])) | (have k'' : v'.isSome = v'.isSome := rfl; clear k''; clear_value v') | skip))
    | split)

theorem State.readFails_keeps {P' : Prop} {o' : State} {s : State} (h : Keeps P' o' s) (p status : Nat) :
    Keeps P' o' (State.readFails s p status) := by
  unfold State.readFails
  repeat' (first
    | with_reducible assumption
    | with_reducible apply State.dropEmbed_keeps
    | with_reducible apply State.finish_keeps
    | with_reducible apply State.leaveMutators_keeps
    | with_reducible apply State.mutate_keeps
    | with_reducible apply State.settleWrite_keeps
    | with_reducible apply State.stitchReadFails_keeps
    | with_reducible apply State.wake_keeps
    | with_reducible apply State.withdrawRows_keeps
    | ((first | intro v' | extract_lets -underBinder +onlyGivenNames v'); (first | (refine_lift have k' : Keeps P' o' v' := ?_; ?_; (on_goal 1 => try clear_value v'); (on_goal 2 => dsimp -zeta only [v'])) | (have k'' : v'.isSome = v'.isSome := rfl; clear k''; clear_value v') | skip))
    | split
    | (clear_value *; split))

theorem execHostReadCompletion_keeps {P' : Prop} {o' : State} (place : Nat) (outcome : Fin 5) (data : List Byte) {s : State} (h : Keeps P' o' s) {t : State} (e : execHostReadCompletion place outcome data s = .next t) :
    Keeps P' o' t := by
  unfold execHostReadCompletion at e
  injection e with e
  subst e
  repeat' (first
    | with_reducible assumption
    | with_reducible apply State.pieceArrives_keeps
    | with_reducible apply State.readFails_keeps
    | split)

end Sys2Proof.Machine
end

