-- ==== Sys2Proof/Laws/KeepsLife.lean ====
section
/-! SUPPORT. What each operation of Machine/Life.lean keeps (Laws/Keeps.lean). -/

set_option linter.unusedTactic false
set_option linter.unreachableTactic false

namespace Sys2Proof.Machine

theorem execPresMate_keeps {P' : Prop} {o' : State} (millivolts : Nat) {s : State} (h : Keeps P' o' s) {t : State} (e : execPresMate millivolts s = .next t) :
    Keeps P' o' t := by
  unfold execPresMate at e
  injection e with e
  subst e
  repeat' (first
    | with_reducible assumption
    | with_reducible apply State.setPower_keeps
    | split)

theorem execInputStageClose_keeps {P' : Prop} {o' : State} {s : State} (h : Keeps P' o' s) {t : State} (e : execInputStageClose s = .next t) :
    Keeps P' o' t := by
  unfold execInputStageClose at e
  injection e with e
  subst e
  repeat' (first
    | with_reducible assumption
    | with_reducible apply State.setPower_keeps
    | split)

theorem State.loadSigners_keeps {P' : Prop} {o' : State} {s : State} (h : Keeps P' o' s) :
    Keeps P' o' (State.loadSigners s) := by
  unfold State.loadSigners
  repeat' (first
    | with_reducible assumption
    | ((with_reducible apply Keeps.foldl); intro s' x' h')
    | ((with_reducible apply Keeps.foldl_fst); intro s' x' h')
    | ((with_reducible apply Keeps.foldl_snd); intro s' x' h')
    | ((with_reducible refine State.fset_keeps ?_ _ _ _ ?_); rotate_left; · exact rfl)
    | ((with_reducible refine State.rsetBytes_keeps ?_ _ _ _ ?_ ?_); rotate_left; (· exact rfl); (· exact rfl))
    | ((first | intro v' | extract_lets -underBinder +onlyGivenNames v'); (first | (refine_lift have k' : Keeps P' o' v' := ?_; ?_; (on_goal 1 => try clear_value v'); (on_goal 2 => dsimp -zeta only [v'])) | (have k'' : v'.isSome = v'.isSome := rfl; clear k''; clear_value v') | skip))
    | split)

theorem State.loadProgress_keeps {P' : Prop} {o' : State} {s : State} (h : Keeps P' o' s) :
    Keeps P' o' (State.loadProgress s) := by
  unfold State.loadProgress
  repeat' (first
    | with_reducible assumption
    | with_reducible apply State.maintSet_keeps
    | with_reducible apply State.progress_keeps
    | ((with_reducible refine State.fset_keeps ?_ _ _ _ ?_); rotate_left; · exact rfl)
    | ((first | intro v' | extract_lets -underBinder +onlyGivenNames v'); (first | (refine_lift have k' : Keeps P' o' v' := ?_; ?_; (on_goal 1 => try clear_value v'); (on_goal 2 => dsimp -zeta only [v'])) | (have k'' : v'.isSome = v'.isSome := rfl; clear k''; clear_value v') | skip))
    | split)

theorem State.loadRemaps_keeps {P' : Prop} {o' : State} {s : State} (h : Keeps P' o' s) :
    Keeps P' o' (State.loadRemaps s) := by
  unfold State.loadRemaps
  repeat' (first
    | with_reducible assumption
    | ((with_reducible apply Keeps.foldl); intro s' x' h')
    | ((with_reducible apply Keeps.foldl_fst); intro s' x' h')
    | ((with_reducible apply Keeps.foldl_snd); intro s' x' h')
    | ((with_reducible refine State.fset_keeps ?_ _ _ _ ?_); rotate_left; · exact rfl))

theorem State.powerUp_keeps {P' : Prop} {o' : State} {s : State} (h : Keeps P' o' s) (scanEn : Bool) :
    Keeps P' o' (State.powerUp s scanEn) := by
  unfold State.powerUp
  repeat' (first
    | with_reducible assumption
    | with_reducible apply State.loadProgress_keeps
    | with_reducible apply State.loadRemaps_keeps
    | with_reducible apply State.loadSigners_keeps
    | with_reducible apply State.setCfs_keeps
    | with_reducible apply State.setPower_keeps
    | ((with_reducible refine State.fset_keeps ?_ _ _ _ ?_); rotate_left; · exact rfl)
    | ((first | intro v' | extract_lets -underBinder +onlyGivenNames v'); (first | (refine_lift have k' : Keeps P' o' v' := ?_; ?_; (on_goal 1 => try clear_value v'); (on_goal 2 => dsimp -zeta only [v'])) | (have k'' : v'.isSome = v'.isSome := rfl; clear k''; clear_value v') | skip))
    | split)

theorem execSuppliesValid_keeps {P' : Prop} {o' : State} (scanEn : Bool) {s : State} (h : Keeps P' o' s) {t : State} (e : execSuppliesValid scanEn s = .next t) :
    Keeps P' o' t := by
  unfold execSuppliesValid at e
  injection e with e
  subst e
  repeat' (first
    | with_reducible assumption
    | with_reducible apply State.powerUp_keeps
    | split)

theorem execIslandClockStart_keeps {P' : Prop} {o' : State} (i : IslandId) {s : State} (h : Keeps P' o' s) {t : State} (e : execIslandClockStart i s = .next t) :
    Keeps P' o' t := by
  unfold execIslandClockStart at e
  injection e with e
  subst e
  repeat' (first
    | with_reducible assumption
    | with_reducible apply State.setPower_keeps
    | ((with_reducible refine State.fset_keeps ?_ _ _ _ ?_); rotate_left; · exact rfl)
    | split)

theorem State.stationCheckerFails_keeps {P' : Prop} {o' : State} {s : State} (h : Keeps P' o' s) (st n : Nat) :
    Keeps P' o' (State.stationCheckerFails s st n) := by
  unfold State.stationCheckerFails
  repeat' (first
    | with_reducible assumption
    | with_reducible apply State.fenceStation_keeps
    | with_reducible apply State.retireLane_keeps
    | split)

theorem State.windowDecoderFails_keeps {P' : Prop} {o' : State} {s : State} (h : Keeps P' o' s) :
    Keeps P' o' (State.windowDecoderFails s) := by
  unfold State.windowDecoderFails
  repeat' (first
    | with_reducible assumption
    | with_reducible apply State.setEcc_keeps
    | ((first | intro v' | extract_lets -underBinder +onlyGivenNames v'); (first | (refine_lift have k' : Keeps P' o' v' := ?_; ?_; (on_goal 1 => try clear_value v'); (on_goal 2 => dsimp -zeta only [v'])) | (have k'' : v'.isSome = v'.isSome := rfl; clear k''; clear_value v') | skip))
    | split)

theorem State.endsService_keeps {P' : Prop} {o' : State} {s : State} (h : Keeps P' o' s) (cause d : Nat) :
    Keeps P' o' (State.endsService s cause d) := by
  unfold State.endsService
  repeat' (first
    | with_reducible assumption
    | with_reducible apply State.event_keeps
    | ((with_reducible refine State.flag_keeps ?_ _ ?_); rotate_left; · exact rfl)
    | with_reducible apply State.setCfs_keeps
    | ((first | intro v' | extract_lets -underBinder +onlyGivenNames v'); (first | (refine_lift have k' : Keeps P' o' v' := ?_; ?_; (on_goal 1 => try clear_value v'); (on_goal 2 => dsimp -zeta only [v'])) | (have k'' : v'.isSome = v'.isSome := rfl; clear k''; clear_value v') | skip))
    | split)

theorem State.checkerFails_keeps {P' : Prop} {o' : State} {s : State} (h : Keeps P' o' s) (i n step : Nat) :
    Keeps P' o' (State.checkerFails s i n step) := by
  unfold State.checkerFails
  repeat' (first
    | with_reducible assumption
    | with_reducible apply State.coreDown_keeps
    | with_reducible apply State.endsService_keeps
    | with_reducible apply State.event_keeps
    | with_reducible apply State.failChannel_keeps
    | with_reducible apply State.fenceBank_keeps
    | with_reducible apply State.fenceStack_keeps
    | ((with_reducible refine State.flag_keeps ?_ _ ?_); rotate_left; · exact rfl)
    | with_reducible apply State.setPower_keeps
    | with_reducible apply State.stationCheckerFails_keeps
    | with_reducible apply State.windowDecoderFails_keeps
    | ((with_reducible apply Keeps.foldl); intro s' x' h')
    | ((with_reducible apply Keeps.foldl_fst); intro s' x' h')
    | ((with_reducible apply Keeps.foldl_snd); intro s' x' h')
    | ((with_reducible refine State.fset_keeps ?_ _ _ _ ?_); rotate_left; · exact rfl)
    | ((first | intro v' | extract_lets -underBinder +onlyGivenNames v'); (first | (refine_lift have k' : Keeps P' o' v' := ?_; ?_; (on_goal 1 => try clear_value v'); (on_goal 2 => dsimp -zeta only [v'])) | (have k'' : v'.isSome = v'.isSome := rfl; clear k''; clear_value v') | skip))
    | split
    | (clear_value *; split))

theorem execCheckerSelfTest_keeps {P' : Prop} {o' : State} (i : IslandId) (checker : Nat) (failed : Option (Fin 7)) {s : State} (h : Keeps P' o' s) {t : State} (e : execCheckerSelfTest i checker failed s = .next t) :
    Keeps P' o' t := by
  unfold execCheckerSelfTest at e
  injection e with e
  subst e
  repeat' (first
    | with_reducible assumption
    | with_reducible apply State.checkerFails_keeps
    | split)

theorem State.measureAll_keeps {P' : Prop} {o' : State} {s : State} (h : Keeps P' o' s) :
    Keeps P' o' (State.measureAll s) := by
  unfold State.measureAll
  repeat' (first
    | with_reducible assumption
    | with_reducible apply State.putMeasure_keeps
    | ((with_reducible apply Keeps.foldl); intro s' x' h')
    | ((with_reducible apply Keeps.foldl_fst); intro s' x' h')
    | ((with_reducible apply Keeps.foldl_snd); intro s' x' h'))

theorem State.runFirmware_keeps {P' : Prop} {o' : State} {s : State} (h : Keeps P' o' s) (r : Nat) (fallback : Bool) :
    Keeps P' o' (State.runFirmware s r fallback) := by
  unfold State.runFirmware
  repeat' (first
    | with_reducible assumption
    | with_reducible apply State.measureAll_keeps
    | with_reducible apply State.setPhase_keeps
    | ((with_reducible refine State.fset_keeps ?_ _ _ _ ?_); rotate_left; · exact rfl))

theorem State.verifyFirmware_keeps {P' : Prop} {o' : State} {s : State} (h : Keeps P' o' s) :
    Keeps P' o' (State.verifyFirmware s) := by
  unfold State.verifyFirmware
  repeat' (first
    | with_reducible assumption
    | with_reducible apply State.runFirmware_keeps
    | with_reducible apply State.setPhase_keeps
    | ((with_reducible refine State.fset_keeps ?_ _ _ _ ?_); rotate_left; · exact rfl)
    | ((first | intro v' | extract_lets -underBinder +onlyGivenNames v'); (first | (refine_lift have k' : Keeps P' o' v' := ?_; ?_; (on_goal 1 => try clear_value v'); (on_goal 2 => dsimp -zeta only [v'])) | (have k'' : v'.isSome = v'.isSome := rfl; clear k''; clear_value v') | skip))
    | split)

theorem execFirmwareBootVerify_keeps {P' : Prop} {o' : State} {s : State} (h : Keeps P' o' s) {t : State} (e : execFirmwareBootVerify s = .next t) :
    Keeps P' o' t := by
  unfold execFirmwareBootVerify at e
  injection e with e
  subst e
  repeat' (first
    | with_reducible assumption
    | with_reducible apply State.verifyFirmware_keeps
    | split)

theorem State.allocWindow_keeps {P' : Prop} {o' : State} {s : State} (h : Keeps P' o' s) :
    Keeps P' o' (State.allocWindow s) := by
  unfold State.allocWindow
  repeat' (first
    | with_reducible assumption
    | with_reducible apply State.allocPage_keeps
    | with_reducible apply State.event_keeps
    | ((with_reducible apply Keeps.foldl); intro s' x' h')
    | ((with_reducible apply Keeps.foldl_fst); intro s' x' h')
    | ((with_reducible apply Keeps.foldl_snd); intro s' x' h')
    | ((with_reducible refine State.fset_keeps ?_ _ _ _ ?_); rotate_left; · exact rfl)
    | ((first | intro v' | extract_lets -underBinder +onlyGivenNames v'); (first | (refine_lift have k' : Keeps P' o' v' := ?_; ?_; (on_goal 1 => try clear_value v'); (on_goal 2 => dsimp -zeta only [v'])) | (have k'' : v'.isSome = v'.isSome := rfl; clear k''; clear_value v') | skip))
    | split)

theorem State.storeCompared_keeps {P' : Prop} {o' : State} {s : State} (h : Keeps P' o' s) (differs : Nat) :
    Keeps P' o' (State.storeCompared s differs) := by
  unfold State.storeCompared
  repeat' (first
    | with_reducible assumption
    | with_reducible apply State.allocWindow_keeps
    | with_reducible apply State.setCfs_keeps
    | with_reducible apply State.setPhase_keeps
    | ((with_reducible refine State.bump_keeps ?_ _ _ _ ?_); rotate_left; · exact rfl)
    | ((first | intro v' | extract_lets -underBinder +onlyGivenNames v'); (first | (refine_lift have k' : Keeps P' o' v' := ?_; ?_; (on_goal 1 => try clear_value v'); (on_goal 2 => dsimp -zeta only [v'])) | (have k'' : v'.isSome = v'.isSome := rfl; clear k''; clear_value v') | skip))
    | split)

theorem execStoreCompared_keeps {P' : Prop} {o' : State} (differs : Nat) {s : State} (h : Keeps P' o' s) {t : State} (e : execStoreCompared differs s = .next t) :
    Keeps P' o' t := by
  unfold execStoreCompared at e
  injection e with e
  subst e
  repeat' (first
    | with_reducible assumption
    | with_reducible apply State.storeCompared_keeps
    | split)

theorem State.unmerge_keeps {P' : Prop} {o' : State} {s : State} (h : Keeps P' o' s) (l : Nat) :
    Keeps P' o' (State.unmerge s l) := by
  unfold State.unmerge
  repeat' (first
    | with_reducible assumption
    | with_reducible apply State.setLsec_keeps
    | with_reducible apply State.setSecSt_keeps
    | with_reducible apply State.startMerge_keeps
    | ((first | intro v' | extract_lets -underBinder +onlyGivenNames v'); (first | (refine_lift have k' : Keeps P' o' v' := ?_; ?_; (on_goal 1 => try clear_value v'); (on_goal 2 => dsimp -zeta only [v'])) | (have k'' : v'.isSome = v'.isSome := rfl; clear k''; clear_value v') | skip))
    | split
    | (clear_value *; split))

theorem State.replayLba_keeps {P' : Prop} {o' : State} {s : State} (h : Keeps P' o' s) (b : Nat) :
    Keeps P' o' (State.replayLba s b) := by
  unfold State.replayLba
  repeat' (first
    | with_reducible assumption
    | with_reducible apply State.markDirty_keeps
    | with_reducible apply State.setPage_keeps
    | with_reducible apply State.takeFrame_keeps
    | with_reducible apply State.touch_keeps
    | ((first | intro v' | extract_lets -underBinder +onlyGivenNames v'); (first | (refine_lift have k' : Keeps P' o' v' := ?_; ?_; (on_goal 1 => try clear_value v'); (on_goal 2 => dsimp -zeta only [v'])) | (have k'' : v'.isSome = v'.isSome := rfl; clear k''; clear_value v') | skip))
    | split)

theorem State.replaceFlush_keeps {P' : Prop} {o' : State} {s : State} (h : Keeps P' o' s) (g : Nat) :
    Keeps P' o' (State.replaceFlush s g) := by
  unfold State.replaceFlush
  repeat' (first
    | with_reducible assumption
    | with_reducible apply State.allocAmong_keeps
    | with_reducible apply State.journal_keeps
    | with_reducible apply State.setSecSt_keeps
    | with_reducible exact Keeps.opt2_none
    | with_reducible apply Keeps.opt2_some
    | (refine Keeps.ofOpt2 ?_ (by with_reducible assumption))
    | ((with_reducible show ∀ y' : State, Keeps P' o' y' → _); intro y' h')
    | ((with_reducible show ∀ (_ : _) (y' : State), Keeps P' o' y' → _); intro x' y' h')
    | ((with_reducible show ∀ (_ : _) (_ : _) (y' : State), Keeps P' o' y' → _); intro x' z' y' h')
    | split)

theorem State.replayFlush_keeps {P' : Prop} {o' : State} {s : State} (h : Keeps P' o' s) :
    Keeps P' o' (State.replayFlush s) := by
  unfold State.replayFlush
  repeat' (first
    | with_reducible assumption
    | with_reducible apply State.event_keeps
    | with_reducible apply State.flushed_keeps
    | with_reducible apply State.replaceFlush_keeps
    | with_reducible apply State.replayLba_keeps
    | with_reducible apply State.setFlash_keeps
    | ((with_reducible apply Keeps.foldl); intro s' x' h')
    | ((with_reducible apply Keeps.foldl_fst); intro s' x' h')
    | ((with_reducible apply Keeps.foldl_snd); intro s' x' h')
    | ((with_reducible refine State.fset_keeps ?_ _ _ _ ?_); rotate_left; · exact rfl)
    | with_reducible apply State.drawNat_keeps
    | ((first | intro v' | extract_lets -underBinder +onlyGivenNames v'); (first | (refine_lift have k' : Keeps P' o' v' := ?_; ?_; (on_goal 1 => try clear_value v'); (on_goal 2 => dsimp -zeta only [v'])) | (refine_lift have k' : Keeps P' o' v'.2 := ?_; ?_; (on_goal 1 => try clear_value v'); (on_goal 2 => dsimp -zeta only [v'])) | (have k'' : v'.isSome = v'.isSome := rfl; clear k''; clear_value v') | skip))
    | split
    | (clear_value *; split))

theorem State.loadCheckpoint_keeps {P' : Prop} {o' : State} {s : State} (h : Keeps P' o' s) :
    Keeps P' o' (State.loadCheckpoint s) := by
  unfold State.loadCheckpoint
  repeat' (first
    | with_reducible assumption
    | with_reducible apply State.journal_keeps
    | with_reducible apply State.setFlash_keeps
    | ((with_reducible apply Keeps.foldl); intro s' x' h')
    | ((with_reducible apply Keeps.foldl_fst); intro s' x' h')
    | ((with_reducible apply Keeps.foldl_snd); intro s' x' h')
    | ((first | intro v' | extract_lets -underBinder +onlyGivenNames v'); (first | (refine_lift have k' : Keeps P' o' v' := ?_; ?_; (on_goal 1 => try clear_value v'); (on_goal 2 => dsimp -zeta only [v'])) | (have k'' : v'.isSome = v'.isSome := rfl; clear k''; clear_value v') | skip))
    | split)

theorem State.rebuildMap_keeps {P' : Prop} {o' : State} {s : State} (h : Keeps P' o' s) :
    Keeps P' o' (State.rebuildMap s) := by
  unfold State.rebuildMap
  repeat' (first
    | with_reducible assumption
    | with_reducible apply State.loadCheckpoint_keeps
    | with_reducible apply State.replayFlush_keeps
    | with_reducible apply State.setPhase_keeps
    | with_reducible apply State.setPower_keeps
    | with_reducible apply State.setSecSt_keeps
    | with_reducible apply State.unmerge_keeps
    | ((with_reducible apply Keeps.foldl); intro s' x' h')
    | ((with_reducible apply Keeps.foldl_fst); intro s' x' h')
    | ((with_reducible apply Keeps.foldl_snd); intro s' x' h')
    | ((first | intro v' | extract_lets -underBinder +onlyGivenNames v'); (first | (refine_lift have k' : Keeps P' o' v' := ?_; ?_; (on_goal 1 => try clear_value v'); (on_goal 2 => dsimp -zeta only [v'])) | (have k'' : v'.isSome = v'.isSome := rfl; clear k''; clear_value v') | skip))
    | split)

theorem execMapRebuild_keeps {P' : Prop} {o' : State} {s : State} (h : Keeps P' o' s) {t : State} (e : execMapRebuild s = .next t) :
    Keeps P' o' t := by
  unfold execMapRebuild at e
  injection e with e
  subst e
  repeat' (first
    | with_reducible assumption
    | with_reducible apply State.rebuildMap_keeps
    | split)

theorem State.linesStart_keeps {P' : Prop} {o' : State} {s : State} (h : Keeps P' o' s) :
    Keeps P' o' (State.linesStart s) := by
  unfold State.linesStart
  repeat' (first
    | with_reducible assumption
    | with_reducible apply State.lineTo_keeps
    | ((with_reducible apply Keeps.foldl); intro s' x' h')
    | ((with_reducible apply Keeps.foldl_fst); intro s' x' h')
    | ((with_reducible apply Keeps.foldl_snd); intro s' x' h')
    | split)

theorem execBaseTimetableStitch_keeps {P' : Prop} {o' : State} {s : State} (h : Keeps P' o' s) {t : State} (e : execBaseTimetableStitch s = .next t) :
    Keeps P' o' t := by
  unfold execBaseTimetableStitch at e
  injection e with e
  subst e
  repeat' (first
    | with_reducible assumption
    | with_reducible apply State.linesStart_keeps
    | with_reducible apply State.powerUpStitch_keeps
    | ((first | intro v' | extract_lets -underBinder +onlyGivenNames v'); (first | (refine_lift have k' : Keeps P' o' v' := ?_; ?_; (on_goal 1 => try clear_value v'); (on_goal 2 => dsimp -zeta only [v'])) | (have k'' : v'.isSome = v'.isSome := rfl; clear k''; clear_value v') | skip))
    | split)

theorem State.enterService_keeps {P' : Prop} {o' : State} {s : State} (h : Keeps P' o' s) (ms : Nat) :
    Keeps P' o' (State.enterService s ms) := by
  unfold State.enterService
  repeat' (first
    | with_reducible assumption
    | with_reducible apply State.setPhase_keeps
    | ((with_reducible refine State.fset_keeps ?_ _ _ _ ?_); rotate_left; · exact rfl)
    | ((with_reducible refine State.setHost_keeps ?_ _ ?_); rotate_left; · exact rfl)
    | split)

theorem execServiceEntry_keeps {P' : Prop} {o' : State} (ms : Nat) {s : State} (h : Keeps P' o' s) {t : State} (e : execServiceEntry ms s = .next t) :
    Keeps P' o' t := by
  unfold execServiceEntry at e
  injection e with e
  subst e
  repeat' (first
    | with_reducible assumption
    | with_reducible apply State.enterService_keeps
    | split)

end Sys2Proof.Machine
end

