-- ==== Sys2Proof/Laws/Reset.lean ====
section
/-! SUPPORT. The register words at reset leave the reserved bits 0. -/

namespace Sys2Proof.Machine

theorem islandClass_le (i : Nat) : islandClass i ≤ 6 := by
  unfold islandClass
  dsimp only
  split
  · omega
  · split <;> (try omega)
    split <;> (try omega)
    split <;> (try omega)
    split <;> (try omega)
    split <;> omega

theorem islandInfo_fits : ∀ c : Fin 7, Reg.glbIslandInfo.fits (BitVec.ofNat 64 (c.val + classKhz c.val * 2 ^ 8)) := by
  unfold Reg.fits; decide +kernel

theorem glbId_fits : ∀ c : Fin 256, Reg.glbId.fits (BitVec.ofNat 64 (0x6420 + c.val * 2 ^ 16 + 0x0100 * 2 ^ 32)) := by
  unfold Reg.fits; decide +kernel

theorem secSvn_fits : ∀ c : Fin 64, Reg.secSvn.fits (BitVec.ofNat 64 c.val) := by unfold Reg.fits; decide +kernel

theorem flsGroup_fits (g : Nat) : Reg.flsGroup.fits (BitVec.ofNat 64 (shippedFree g * 2 ^ 16 + 64000 * 2 ^ 32)) := by
  unfold Reg.fits shippedFree
  split <;> decide +kernel

theorem fits_of_full {r : Reg} (h : r.reservedNat = 0) (w : Word64) : r.fits w := by
  unfold Reg.fits
  rw [h]
  exact BitVec.and_zero

theorem fits_const (r : Reg) (i : Nat) (h : ∀ k, resetWord r k = resetWord r 0)
    (d : resetWord r 0 &&& BitVec.ofNat 64 r.reservedNat = 0) : r.fits (resetWord r i) := by
  rw [h]
  exact d

/-- Every register word fits at reset. -/
theorem resetWord_fits (r : Reg) (i : Nat) : r.fits (resetWord r i) := by
  cases r
  case glbIslandInfo =>
    unfold resetWord
    exact islandInfo_fits ⟨islandClass i, Nat.lt_succ_of_le (islandClass_le i)⟩
  case glbId =>
    have := glbId_fits ⟨Config.stepping % 256, Nat.mod_lt _ (by decide)⟩
    rw [resetWord]
    dsimp only at this
    exact this
  case secSvn =>
    unfold resetWord
    exact secSvn_fits ⟨Config.fusedSvn % 64, Nat.mod_lt _ (by decide)⟩
  case flsGroup =>
    unfold resetWord
    exact flsGroup_fits i
  case secIdentity => exact fits_of_full rfl _
  case secSignerKey => exact fits_of_full rfl _
  all_goals first
    | exact fits_of_full rfl _
    | (refine fits_const _ i (fun _ => rfl) ?_; decide +kernel)

end Sys2Proof.Machine
end

