-- ==== Sys2Proof/Laws/KeepsLoss.lean ====
section
/-! SUPPORT. What each operation of Machine/Loss.lean keeps (Laws/Keeps.lean). -/

set_option linter.unusedTactic false
set_option linter.unreachableTactic false

namespace Sys2Proof.Machine

/-- Stations that stop, and the jobs' runs gone. -/
theorem State.stopParts_keeps {P' : Prop} {o' : State} {s : State} (h : Keeps P' o' s) (js : Tbl JobHold) :
    Keeps P' o' { s with stations := (s.stations.map (fun e => (e.1, e.2.stopped))).filter (fun e => e.2 != {}), jobs := js } := by
  refine ⟨h.pending, h.lock, h.svn, h.reserved, h.fixed, fun z => ⟨(h.memories z).1, (h.memories z).2.1, fun e he => ?_⟩⟩
  have he' := List.mem_of_mem_filter he
  rw [List.mem_map] at he'
  obtain ⟨x, hx, rfl⟩ := he'
  exact Station.stopped_canonical ((h.memories z).2.2 x hx)

theorem State.stopWork_keeps {P' : Prop} {o' : State} {s : State} (h : Keeps P' o' s) : Keeps P' o' (State.stopWork s) := by
  unfold State.stopWork
  dsimp only
  have k1 := State.stopParts_keeps h ((s.jobs.map (fun e => (e.1, e.2.stopped))).filter (fun e => e.2 != {}))
  exact State.setMesh_keeps (Keeps.foldl (fun s' x' h' => State.fset_keeps h' _ _ _ rfl) _ k1) _

theorem State.loseWrite_keeps {P' : Prop} {o' : State} {s : State} (h : Keeps P' o' s) (p : Nat) :
    Keeps P' o' (State.loseWrite s p) := by
  unfold State.loseWrite
  repeat' (first
    | with_reducible assumption
    | with_reducible apply State.dropLayers_keeps
    | with_reducible apply State.dropTurns_keeps
    | with_reducible apply State.settleWrite_keeps
    | ((first | intro v' | extract_lets -underBinder +onlyGivenNames v'); (first | (refine_lift have k' : Keeps P' o' v' := ?_; ?_; (on_goal 1 => try clear_value v'); (on_goal 2 => dsimp -zeta only [v'])) | (have k'' : v'.isSome = v'.isSome := rfl; clear k''; clear_value v') | skip))
    | split)

theorem State.loseCmd_keeps {P' : Prop} {o' : State} {s : State} (h : Keeps P' o' s) (p : Nat) :
    Keeps P' o' (State.loseCmd s p) := by
  unfold State.loseCmd
  repeat' (first
    | with_reducible assumption
    | with_reducible apply State.loseWrite_keeps
    | with_reducible apply State.settleRelease_keeps
    | ((first | intro v' | extract_lets -underBinder +onlyGivenNames v'); (first | (refine_lift have k' : Keeps P' o' v' := ?_; ?_; (on_goal 1 => try clear_value v'); (on_goal 2 => dsimp -zeta only [v'])) | (have k'' : v'.isSome = v'.isSome := rfl; clear k''; clear_value v') | skip))
    | split)

theorem State.loseCmds_keeps {P' : Prop} {o' : State} {s : State} (h : Keeps P' o' s) :
    Keeps P' o' (State.loseCmds s) := by
  unfold State.loseCmds
  repeat' (first
    | with_reducible assumption
    | with_reducible apply State.loseCmd_keeps
    | ((with_reducible apply Keeps.foldl); intro s' x' h')
    | ((with_reducible apply Keeps.foldl_fst); intro s' x' h')
    | ((with_reducible apply Keeps.foldl_snd); intro s' x' h'))

theorem State.endPrograms_keeps {P' : Prop} {o' : State} {s : State} (h : Keeps P' o' s) :
    Keeps P' o' (State.endPrograms s) := by
  unfold State.endPrograms
  repeat' (first
    | with_reducible assumption
    | with_reducible apply State.unitDone_keeps
    | ((with_reducible apply Keeps.foldl); intro s' x' h')
    | ((with_reducible apply Keeps.foldl_fst); intro s' x' h')
    | ((with_reducible apply Keeps.foldl_snd); intro s' x' h')
    | ((first | intro v' | extract_lets -underBinder +onlyGivenNames v'); (first | (refine_lift have k' : Keeps P' o' v' := ?_; ?_; (on_goal 1 => try clear_value v'); (on_goal 2 => dsimp -zeta only [v'])) | (have k'' : v'.isSome = v'.isSome := rfl; clear k''; clear_value v') | skip))
    | split)

theorem State.commitFlush_keeps {P' : Prop} {o' : State} {s : State} (h : Keeps P' o' s) (lbas : List Nat) :
    Keeps P' o' (State.commitFlush s lbas) := by
  unfold State.commitFlush
  repeat' (first
    | with_reducible assumption
    | with_reducible apply State.flushed_keeps
    | with_reducible apply State.journalRaw_keeps
    | with_reducible apply State.setFlash_keeps
    | with_reducible apply State.setPower_keeps
    | ((first | intro v' | extract_lets -underBinder +onlyGivenNames v'); (first | (refine_lift have k' : Keeps P' o' v' := ?_; ?_; (on_goal 1 => try clear_value v'); (on_goal 2 => dsimp -zeta only [v'])) | (have k'' : v'.isSome = v'.isSome := rfl; clear k''; clear_value v') | skip))
    | split)

/-- What the register file keeps without power. -/
theorem State.filterRegs_keeps {o' s : State} (h : Keeps False o' s) :
    Keeps False o' { s with regs := s.regs.filter (fun e => (keptRegs.map Reg.code).contains e.1) } := by
  have look : ∀ (p : Nat → Bool) (t : Tbl (Tbl Word64)) (k : Nat),
      Tbl.look [] (t.filter (fun e => p e.1)) k = if p k then Tbl.look [] t k else [] := by
    intro p t k
    induction t with
    | nil => split <;> rfl
    | cons e t ih =>
      by_cases hp : p e.1
      · rw [List.filter_cons_of_pos (by simpa using hp)]
        by_cases hk : e.1 = k
        · subst hk
          simp [Tbl.look, hp]
        · simp only [Tbl.look, hk, if_false]
          exact ih
      · rw [List.filter_cons_of_neg (by simpa using hp), ih]
        by_cases hk : e.1 = k
        · subst hk
          simp [hp]
        · simp only [Tbl.look, hk, if_false]
  have hr : ∀ (r : Reg) (i : Nat), State.rget { s with regs := s.regs.filter (fun e => (keptRegs.map Reg.code).contains e.1) } r i =
      if (keptRegs.map Reg.code).contains r.code then s.rget r i else resetWord r i := by
    intro r i
    unfold State.rget
    dsimp only
    rw [look]
    split <;> rfl
  refine ⟨h.pending, fun x => x.elim, ?_, fun z => ?_, fun z => ?_, fun z => h.memories z⟩
  · have := h.svn
    unfold State.fget at this ⊢
    rw [hr, if_pos (by decide)]
    exact this
  · intro row hrow i
    rw [hr]
    split
    · exact h.reserved z row hrow i
    · rw [reserved_eq row hrow]
      exact resetWord_fits _ _
  · intro r hreg i
    rw [hr]
    split
    · exact h.fixed z r hreg i
    · rfl

theorem State.keepRegs_keeps {o' s : State} (h : Keeps False o' s) : Keeps False o' (State.keepRegs s) := by
  unfold State.keepRegs
  dsimp only
  exact Keeps.foldl (fun s' x' h' => State.fset_keeps h' _ _ _ rfl) _
    (Keeps.foldl (fun s' x' h' => State.fset_keeps h' _ _ _ rfl) _ (State.filterRegs_keeps h))

/-- A state with the registers of one that is kept, and memories in canonical form. -/
theorem Keeps.ofRegs {o' k t : State} (h : Keeps False o' k) (hp : t.pending = k.pending) (hr : t.regs = k.regs)
    (hm : o'.MemoriesCanonical → t.MemoriesCanonical) : Keeps False o' t := by
  have r : ∀ q i, t.rget q i = k.rget q i := fun q i => by unfold State.rget; rw [hr]
  refine ⟨hp.trans h.pending, fun x => x.elim, ?_, fun z row hrow i => ?_, fun z q hq i => ?_, hm⟩
  · have := h.svn
    unfold State.fget at this ⊢
    rwa [r]
  · rw [r]
    exact h.reserved z row hrow i
  · rw [r]
    exact h.fixed z q hq i

theorem State.unpowered_keeps {o' s : State} (h : Keeps False o' s) : Keeps False o' (State.unpowered s) := by
  have k := State.keepRegs_keeps h
  have hp : s.pending = s.keepRegs.pending := h.pending.trans k.pending.symm
  unfold State.unpowered
  revert k hp
  generalize s.keepRegs = kr
  intro k hp
  refine Keeps.ofRegs k hp rfl (fun z => ⟨?_, ?_, ?_⟩)
  · exact Tbl.wf_filter _ (h.memories z).1
  · exact (by decide : Memory.wf ([] : Memory) = true)
  · intro e he
    exact absurd he List.not_mem_nil

theorem State.powerFails_keeps {P' : Prop} {o' : State} {s : State} (h : Keeps P' o' s) (opened : Bool) :
    Keeps P' o' (State.powerFails s opened) := by
  unfold State.powerFails
  repeat' (first
    | with_reducible assumption
    | with_reducible apply State.link_keeps
    | with_reducible apply State.loseCmds_keeps
    | with_reducible apply State.setPower_keeps
    | with_reducible apply State.stopWork_keeps
    | ((with_reducible refine State.setHost_keeps ?_ _ ?_); rotate_left; · exact rfl)
    | (refine Keeps.of_fst_eq ?_ (by with_reducible assumption))
    | ((first | intro v' | extract_lets -underBinder +onlyGivenNames v'); (first | (refine_lift have k' : Keeps P' o' v' := ?_; ?_; (on_goal 1 => try clear_value v'); (on_goal 2 => dsimp -zeta only [v'])) | (refine_lift have k' : Keeps P' o' v'.1 := ?_; ?_; (on_goal 1 => try clear_value v'); (on_goal 2 => dsimp -zeta only [v'])) | (have k'' : v'.isSome = v'.isSome := rfl; clear k''; clear_value v') | skip))
    | split)

theorem execPowerLoss_keeps {P' : Prop} {o' : State} {s : State} (h : Keeps P' o' s) {t : State} (e : execPowerLoss s = .next t) :
    Keeps P' o' t := by
  unfold execPowerLoss at e
  injection e with e
  subst e
  repeat' (first
    | with_reducible assumption
    | with_reducible apply State.powerFails_keeps
    | split)

theorem execPresBreak_keeps {P' : Prop} {o' : State} {s : State} (h : Keeps P' o' s) {t : State} (e : execPresBreak s = .next t) :
    Keeps P' o' t := by
  unfold execPresBreak at e
  injection e with e
  subst e
  repeat' (first
    | with_reducible assumption
    | with_reducible apply State.powerFails_keeps
    | with_reducible apply State.setPower_keeps
    | split)

theorem execPowerReturn_keeps {P' : Prop} {o' : State} {s : State} (h : Keeps P' o' s) {t : State} (e : execPowerReturn s = .next t) :
    Keeps P' o' t := by
  unfold execPowerReturn at e
  injection e with e
  subst e
  repeat' (first
    | with_reducible assumption
    | with_reducible apply State.setPower_keeps
    | split)

theorem State.flushDone_keeps {P' : Prop} {o' s : State} (h : Keeps P' o' s) : Keeps False o' (State.flushDone s) := by
  unfold State.flushDone
  dsimp only
  have h0 : Keeps False o' s := h.mono False.elim
  refine State.unpowered_keeps (State.setPower_keeps ?_ _)
  split
  · exact State.commitFlush_keeps (State.endPrograms_keeps h0) _
  · exact h0

theorem execHoldUpFlushDone_keeps {P' : Prop} {o' s : State} (h : Keeps P' o' s) {t : State} (e : execHoldUpFlushDone s = .next t) :
    Keeps False o' t := by
  unfold execHoldUpFlushDone at e
  injection e with e
  subst e
  split
  · exact State.flushDone_keeps h
  · exact h.mono False.elim

theorem execInputDip_keeps {P' : Prop} {o' : State} {s : State} (h : Keeps P' o' s) {t : State} (e : execInputDip s = .next t) :
    Keeps P' o' t := by
  unfold execInputDip at e
  injection e with e
  subst e
  repeat' (first
    | with_reducible assumption
    | ((with_reducible refine State.bump_keeps ?_ _ _ _ ?_); rotate_left; · exact rfl)
    | split)

theorem State.setEnergy_keeps {P' : Prop} {o' : State} {s : State} (h : Keeps P' o' s) :
    Keeps P' o' (State.setEnergy s) := by
  unfold State.setEnergy
  repeat' (first
    | with_reducible assumption
    | with_reducible apply State.writeBackAll_keeps
    | ((with_reducible refine State.fset_keeps ?_ _ _ _ ?_); rotate_left; · exact rfl)
    | ((first | intro v' | extract_lets -underBinder +onlyGivenNames v'); (first | (refine_lift have k' : Keeps P' o' v' := ?_; ?_; (on_goal 1 => try clear_value v'); (on_goal 2 => dsimp -zeta only [v'])) | (have k'' : v'.isSome = v'.isSome := rfl; clear k''; clear_value v') | skip))
    | split)

theorem execHoldupEnergyMeasure_keeps {P' : Prop} {o' : State} (millijoules : List Nat) {s : State} (h : Keeps P' o' s) {t : State} (e : execHoldupEnergyMeasure millijoules s = .next t) :
    Keeps P' o' t := by
  unfold execHoldupEnergyMeasure at e
  injection e with e
  subst e
  repeat' (first
    | with_reducible assumption
    | with_reducible apply State.setEnergy_keeps
    | with_reducible apply State.setPower_keeps
    | split)

theorem State.stringTested_keeps {P' : Prop} {o' : State} {s : State} (h : Keeps P' o' s) (n mj : Nat) (ok : Bool) :
    Keeps P' o' (State.stringTested s n mj ok) := by
  unfold State.stringTested
  repeat' (first
    | with_reducible assumption
    | with_reducible apply State.event_keeps
    | ((with_reducible refine State.flag_keeps ?_ _ ?_); rotate_left; · exact rfl)
    | with_reducible apply State.setEnergy_keeps
    | ((with_reducible refine State.fset_keeps ?_ _ _ _ ?_); rotate_left; · exact rfl)
    | ((with_reducible refine State.bump_keeps ?_ _ _ _ ?_); rotate_left; · exact rfl)
    | ((first | intro v' | extract_lets -underBinder +onlyGivenNames v'); (first | (refine_lift have k' : Keeps P' o' v' := ?_; ?_; (on_goal 1 => try clear_value v'); (on_goal 2 => dsimp -zeta only [v'])) | (have k'' : v'.isSome = v'.isSome := rfl; clear k''; clear_value v') | skip))
    | split)

theorem execStringTest_keeps {P' : Prop} {o' : State} (string : StringId) (millijoules : Nat) (ok : Bool) {s : State} (h : Keeps P' o' s) {t : State} (e : execStringTest string millijoules ok s = .next t) :
    Keeps P' o' t := by
  unfold execStringTest at e
  injection e with e
  subst e
  repeat' (first
    | with_reducible assumption
    | with_reducible apply State.stringTested_keeps
    | split)

theorem State.setTemp_keeps {P' : Prop} {o' : State} {s : State} (h : Keeps P' o' s) (d : Nat) (t : Int) :
    Keeps P' o' (State.setTemp s d t) := by
  unfold State.setTemp
  repeat' (first
    | with_reducible assumption
    | ((with_reducible refine State.fset_keeps ?_ _ _ _ ?_); rotate_left; · exact rfl)
    | ((first | intro v' | extract_lets -underBinder +onlyGivenNames v'); (first | (refine_lift have k' : Keeps P' o' v' := ?_; ?_; (on_goal 1 => try clear_value v'); (on_goal 2 => dsimp -zeta only [v'])) | (have k'' : v'.isSome = v'.isSome := rfl; clear k''; clear_value v') | skip))
    | split)

theorem execSensorUpdate_keeps {P' : Prop} {o' : State} (temps : List Int) (inlet outlet : Int) (millivolts deciwatts : Nat) {s : State} (h : Keeps P' o' s) {t : State} (e : execSensorUpdate temps inlet outlet millivolts deciwatts s = .next t) :
    Keeps P' o' t := by
  unfold execSensorUpdate at e
  injection e with e
  subst e
  repeat' (first
    | with_reducible assumption
    | with_reducible apply State.setTemp_keeps
    | ((with_reducible apply Keeps.foldl); intro s' x' h')
    | ((with_reducible apply Keeps.foldl_fst); intro s' x' h')
    | ((with_reducible apply Keeps.foldl_snd); intro s' x' h')
    | ((with_reducible refine State.fset_keeps ?_ _ _ _ ?_); rotate_left; · exact rfl)
    | ((first | intro v' | extract_lets -underBinder +onlyGivenNames v'); (first | (refine_lift have k' : Keeps P' o' v' := ?_; ?_; (on_goal 1 => try clear_value v'); (on_goal 2 => dsimp -zeta only [v'])) | (have k'' : v'.isSome = v'.isSome := rfl; clear k''; clear_value v') | skip))
    | split)

theorem State.cleanAll_keeps {P' : Prop} {o' : State} {s : State} (h : Keeps P' o' s) (written : List Nat) :
    Keeps P' o' (State.cleanAll s written) := by
  unfold State.cleanAll
  repeat' (first
    | with_reducible assumption
    | ((with_reducible refine State.fset_keeps ?_ _ _ _ ?_); rotate_left; · exact rfl)
    | ((with_reducible refine State.setDepot_keeps ?_ _ ?_); rotate_left; · exact rfl)
    | ((first | intro v' | extract_lets -underBinder +onlyGivenNames v'); (first | (refine_lift have k' : Keeps P' o' v' := ?_; ?_; (on_goal 1 => try clear_value v'); (on_goal 2 => dsimp -zeta only [v'])) | (have k'' : v'.isSome = v'.isSome := rfl; clear k''; clear_value v') | skip))
    | split)

theorem State.endFlush_keeps {P' : Prop} {o' : State} {s : State} (h : Keeps P' o' s) (dies : List Nat) :
    Keeps P' o' (State.endFlush s dies) := by
  unfold State.endFlush
  repeat' (first
    | with_reducible assumption
    | with_reducible apply State.cleanAll_keeps
    | with_reducible apply State.commitFlush_keeps
    | with_reducible apply State.endPrograms_keeps
    | with_reducible apply State.loseCmds_keeps
    | ((first | intro v' | extract_lets -underBinder +onlyGivenNames v'); (first | (refine_lift have k' : Keeps P' o' v' := ?_; ?_; (on_goal 1 => try clear_value v'); (on_goal 2 => dsimp -zeta only [v'])) | (have k'' : v'.isSome = v'.isSome := rfl; clear k''; clear_value v') | skip))
    | split)

theorem State.endService_keeps {P' : Prop} {o' : State} {s : State} (h : Keeps P' o' s) (cause : Nat) (dies : List Nat) :
    Keeps P' o' (State.endService s cause dies) := by
  unfold State.endService
  repeat' (first
    | with_reducible assumption
    | with_reducible apply State.endFlush_keeps
    | with_reducible apply State.endsService_keeps
    | with_reducible apply State.setPhase_keeps
    | with_reducible apply State.stopWork_keeps
    | ((with_reducible refine State.fset_keeps ?_ _ _ _ ?_); rotate_left; · exact rfl)
    | ((with_reducible refine State.setHost_keeps ?_ _ ?_); rotate_left; · exact rfl)
    | ((first | intro v' | extract_lets -underBinder +onlyGivenNames v'); (first | (refine_lift have k' : Keeps P' o' v' := ?_; ?_; (on_goal 1 => try clear_value v'); (on_goal 2 => dsimp -zeta only [v'])) | (have k'' : v'.isSome = v'.isSome := rfl; clear k''; clear_value v') | skip))
    | split)

theorem execServiceEnd_keeps {P' : Prop} {o' : State} (cause : Fin 16) (d : FailedDies) {s : State} (h : Keeps P' o' s) {t : State} (e : execServiceEnd cause d s = .next t) :
    Keeps P' o' t := by
  unfold execServiceEnd at e
  injection e with e
  subst e
  repeat' (first
    | with_reducible assumption
    | with_reducible apply State.endService_keeps
    | with_reducible apply State.endsService_keeps
    | ((first | intro v' | extract_lets -underBinder +onlyGivenNames v'); (first | (refine_lift have k' : Keeps P' o' v' := ?_; ?_; (on_goal 1 => try clear_value v'); (on_goal 2 => dsimp -zeta only [v'])) | (have k'' : v'.isSome = v'.isSome := rfl; clear k''; clear_value v') | skip))
    | split)

theorem State.coreFails_keeps {P' : Prop} {o' : State} {s : State} (h : Keeps P' o' s) (d : Nat) :
    Keeps P' o' (State.coreFails s d) := by
  unfold State.coreFails
  repeat' (first
    | with_reducible assumption
    | with_reducible apply State.activationFails_keeps
    | with_reducible apply State.coreDown_keeps
    | with_reducible apply State.endService_keeps
    | ((first | intro v' | extract_lets -underBinder +onlyGivenNames v'); (first | (refine_lift have k' : Keeps P' o' v' := ?_; ?_; (on_goal 1 => try clear_value v'); (on_goal 2 => dsimp -zeta only [v'])) | (have k'' : v'.isSome = v'.isSome := rfl; clear k''; clear_value v') | skip))
    | split)

theorem execManagementCoreFailure_keeps {P' : Prop} {o' : State} (d : DieId) {s : State} (h : Keeps P' o' s) {t : State} (e : execManagementCoreFailure d s = .next t) :
    Keeps P' o' t := by
  unfold execManagementCoreFailure at e
  injection e with e
  subst e
  repeat' (first
    | with_reducible assumption
    | with_reducible apply State.coreFails_keeps
    | split)

end Sys2Proof.Machine
end

