-- ==== Sys2Proof/Laws/KeepsUnlock.lean ====
section
/-! SUPPORT. What each operation of Machine/Unlock.lean keeps (Laws/Keeps.lean). -/

set_option linter.unusedTactic false
set_option linter.unreachableTactic false

namespace Sys2Proof.Machine

/-- Setting the lock keeps it where it was set already. -/
theorem State.lockOn_keeps {o' s : State} (k : Keeps (o'.fget F.glbPrivLockLock 0 = 1) o' s) :
    Keeps (o'.fget F.glbPrivLockLock 0 = 1) o' (s.fset F.glbPrivLockLock 0 1) := by
  refine State.setLock_keeps k 1 (fun hq => ?_)
  have e1 := k.lock hq
  rw [State.setLock_set (by unfold State.fget at hq ⊢; rw [show F.glbPrivLockLock.reg = .glbPrivLock from rfl] at hq ⊢; rw [e1]; exact hq), e1]

theorem execPrivLockSet_keeps {o' s : State} (h : Keeps (o'.fget F.glbPrivLockLock 0 = 1) o' s) {t : State}
    (e : execPrivLockSet s = .next t) : Keeps (o'.fget F.glbPrivLockLock 0 = 1) o' t := by
  unfold execPrivLockSet at e
  injection e with e
  subst e
  unfold State.openWrite
  split
  · exact State.lockOn_keeps (State.dropHeld_keeps h 0x100)
  · exact h

theorem State.unlockTake_keeps {P' : Prop} {o' : State} {s : State} (h : Keeps P' o' s) (signer : Nat) (run : State → State) (h_run : ∀ y0, Keeps P' o' y0 → Keeps P' o' (run y0)) :
    Keeps P' o' (State.unlockTake s signer run) := by
  unfold State.unlockTake
  repeat' (first
    | with_reducible assumption
    | with_reducible apply h_run
    | ((with_reducible refine State.fset_keeps ?_ _ _ _ ?_); rotate_left; · exact rfl)
    | split)

theorem State.unlockCtl_keeps {P' : Prop} {o' : State} {s : State} (h : Keeps P' o' s) (signer : Nat) (run : State → State) (h_run : ∀ y0, Keeps P' o' y0 → Keeps P' o' (run y0)) :
    Keeps P' o' (State.unlockCtl s signer run) := by
  unfold State.unlockCtl
  repeat' (first
    | with_reducible assumption
    | with_reducible apply h_run
    | with_reducible apply State.openWrite_keeps
    | with_reducible apply State.unlockTake_keeps
    | ((with_reducible show ∀ y' : State, Keeps P' o' y' → _); intro y' h')
    | ((with_reducible show ∀ (_ : _) (y' : State), Keeps P' o' y' → _); intro x' y' h')
    | ((with_reducible show ∀ (_ : _) (_ : _) (y' : State), Keeps P' o' y' → _); intro x' z' y' h'))

theorem State.askChallenge_keeps {P' : Prop} {o' : State} {s : State} (h : Keeps P' o' s) :
    Keeps P' o' (State.askChallenge s) := by
  unfold State.askChallenge
  repeat' (first
    | with_reducible assumption
    | with_reducible apply State.setSecurity_keeps
    | ((with_reducible refine State.fset_keeps ?_ _ _ _ ?_); rotate_left; · exact rfl)
    | split)

theorem execUnlockNewChallenge_keeps {P' : Prop} {o' : State} (signer : Fin 8) {s : State} (h : Keeps P' o' s) {t : State} (e : execUnlockNewChallenge signer s = .next t) :
    Keeps P' o' t := by
  unfold execUnlockNewChallenge at e
  injection e with e
  subst e
  repeat' (first
    | with_reducible assumption
    | with_reducible apply State.askChallenge_keeps
    | with_reducible apply State.unlockCtl_keeps
    | ((with_reducible show ∀ y' : State, Keeps P' o' y' → _); intro y' h')
    | ((with_reducible show ∀ (_ : _) (y' : State), Keeps P' o' y' → _); intro x' y' h')
    | ((with_reducible show ∀ (_ : _) (_ : _) (y' : State), Keeps P' o' y' → _); intro x' z' y' h'))

theorem State.challengeReady_keeps {P' : Prop} {o' : State} {s : State} (h : Keeps P' o' s) :
    Keeps P' o' (State.challengeReady s) := by
  unfold State.challengeReady
  repeat' (first
    | with_reducible assumption
    | with_reducible apply State.setSecurity_keeps
    | ((with_reducible refine State.fset_keeps ?_ _ _ _ ?_); rotate_left; · exact rfl)
    | ((with_reducible refine State.rsetBytes_keeps ?_ _ _ _ ?_ ?_); rotate_left; (· exact rfl); (· exact rfl))
    | with_reducible apply State.drawBytes_keeps
    | ((first | intro v' | extract_lets -underBinder +onlyGivenNames v'); (first | (refine_lift have k' : Keeps P' o' v' := ?_; ?_; (on_goal 1 => try clear_value v'); (on_goal 2 => dsimp -zeta only [v'])) | (refine_lift have k' : Keeps P' o' v'.2 := ?_; ?_; (on_goal 1 => try clear_value v'); (on_goal 2 => dsimp -zeta only [v'])) | (have k'' : v'.isSome = v'.isSome := rfl; clear k''; clear_value v') | skip))
    | split)

theorem execUnlockChallengeReady_keeps {P' : Prop} {o' : State} {s : State} (h : Keeps P' o' s) {t : State} (e : execUnlockChallengeReady s = .next t) :
    Keeps P' o' t := by
  unfold execUnlockChallengeReady at e
  injection e with e
  subst e
  repeat' (first
    | with_reducible assumption
    | with_reducible apply State.challengeReady_keeps
    | split)

theorem State.beginVerify_keeps {P' : Prop} {o' : State} {s : State} (h : Keeps P' o' s) :
    Keeps P' o' (State.beginVerify s) := by
  unfold State.beginVerify
  repeat' (first
    | with_reducible assumption
    | with_reducible apply State.setSecurity_keeps
    | ((with_reducible refine State.fset_keeps ?_ _ _ _ ?_); rotate_left; · exact rfl))

theorem execUnlockVerify_keeps {P' : Prop} {o' : State} (signer : Fin 8) {s : State} (h : Keeps P' o' s) {t : State} (e : execUnlockVerify signer s = .next t) :
    Keeps P' o' t := by
  unfold execUnlockVerify at e
  injection e with e
  subst e
  repeat' (first
    | with_reducible assumption
    | with_reducible apply State.beginVerify_keeps
    | with_reducible apply State.unlockCtl_keeps
    | ((with_reducible show ∀ y' : State, Keeps P' o' y' → _); intro y' h')
    | ((with_reducible show ∀ (_ : _) (y' : State), Keeps P' o' y' → _); intro x' y' h')
    | ((with_reducible show ∀ (_ : _) (_ : _) (y' : State), Keeps P' o' y' → _); intro x' z' y' h'))

theorem State.unlockAsk_keeps {P' : Prop} {o' : State} (value : Nat) {s : State} (h : Keeps P' o' s) :
    Keeps P' o' (State.unlockAsk value s) := by
  unfold State.unlockAsk
  repeat' (first
    | with_reducible assumption
    | with_reducible apply State.askChallenge_keeps
    | with_reducible apply State.beginVerify_keeps
    | split)

theorem State.unlockFails_keeps {P' : Prop} {o' : State} {s : State} (h : Keeps P' o' s) (r : Nat) :
    Keeps P' o' (State.unlockFails s r) := by
  unfold State.unlockFails
  repeat' (first
    | with_reducible assumption
    | with_reducible apply State.event_keeps
    | ((with_reducible refine State.flag_keeps ?_ _ ?_); rotate_left; · exact rfl)
    | with_reducible apply State.setSecurity_keeps
    | ((with_reducible refine State.bumpSat_keeps ?_ _ _ _ ?_); rotate_left; · exact rfl)
    | ((first | intro v' | extract_lets -underBinder +onlyGivenNames v'); (first | (refine_lift have k' : Keeps P' o' v' := ?_; ?_; (on_goal 1 => try clear_value v'); (on_goal 2 => dsimp -zeta only [v'])) | (have k'' : v'.isSome = v'.isSome := rfl; clear k''; clear_value v') | skip))
    | split)

theorem State.unlocks_keeps {P' : Prop} {o' s : State} (h : Keeps P' o' s) : Keeps False o' (State.unlocks s) := by
  unfold State.unlocks
  exact State.event_keeps (State.fset_keeps (State.setLock_keeps h 0 False.elim) _ _ _ rfl) _ _ _ _ _

theorem State.verifyDone_keeps {P' : Prop} {o' s : State} (h : Keeps P' o' s) : Keeps (P' ∧ s.unlockResult ≠ 1) o' (State.verifyDone s) := by
  unfold State.verifyDone
  dsimp only
  have k := State.clearChallenge_keeps (State.fset_keeps (State.fset_keeps
    (State.setSecurity_keeps h { s.security with verifying := false }) F.glbUnlockCtlBusy 0 0 rfl) F.glbUnlockCtlResult 0 s.unlockResult rfl)
  split
  · exact (State.unlocks_keeps k).mono (fun x => x.2 ‹_›)
  · exact (State.unlockFails_keeps k _).mono And.left

theorem execUnlockVerifyDone_keeps {P' : Prop} {o' s : State} (h : Keeps P' o' s) {t : State} (e : execUnlockVerifyDone s = .next t) :
    Keeps (P' ∧ s.unlockResult ≠ 1) o' t := by
  unfold execUnlockVerifyDone at e
  injection e with e
  subst e
  split
  · exact State.verifyDone_keeps h
  · exact h.mono And.left

theorem execUnlockChallengeLapse_keeps {P' : Prop} {o' : State} {s : State} (h : Keeps P' o' s) {t : State} (e : execUnlockChallengeLapse s = .next t) :
    Keeps P' o' t := by
  unfold execUnlockChallengeLapse at e
  injection e with e
  subst e
  repeat' (first
    | with_reducible assumption
    | with_reducible apply State.clearChallenge_keeps
    | split)

theorem execUnlockBackoffEnd_keeps {P' : Prop} {o' : State} {s : State} (h : Keeps P' o' s) {t : State} (e : execUnlockBackoffEnd s = .next t) :
    Keeps P' o' t := by
  unfold execUnlockBackoffEnd at e
  injection e with e
  subst e
  repeat' (first
    | with_reducible assumption
    | with_reducible apply State.setSecurity_keeps)

theorem State.keyFields_keeps {P' : Prop} {o' : State} {s : State} (h : Keeps P' o' s) (cmd signer : Nat) (run : State → State) (h_run : ∀ y0, Keeps P' o' y0 → Keeps P' o' (run y0)) :
    Keeps P' o' (State.keyFields s cmd signer run) := by
  unfold State.keyFields
  repeat' (first
    | with_reducible assumption
    | with_reducible apply h_run
    | ((with_reducible refine State.fset_keeps ?_ _ _ _ ?_); rotate_left; · exact rfl)
    | split)

theorem State.keyRun_keeps {P' : Prop} {o' : State} {s : State} (h : Keeps P' o' s) (signer : Nat) (run : State → State) (h_run : ∀ y0, Keeps P' o' y0 → Keeps P' o' (run y0)) :
    Keeps P' o' (State.keyRun s signer run) := by
  unfold State.keyRun
  repeat' (first
    | with_reducible assumption
    | with_reducible apply h_run
    | ((with_reducible refine State.fset_keeps ?_ _ _ _ ?_); rotate_left; · exact rfl)
    | split)

theorem State.keyCtl_keeps {P' : Prop} {o' : State} {s : State} (h : Keeps P' o' s) (cmd signer : Nat) (run : State → State) (h_run : ∀ y0, Keeps P' o' y0 → Keeps P' o' (run y0)) :
    Keeps P' o' (State.keyCtl s cmd signer run) := by
  unfold State.keyCtl
  repeat' (first
    | with_reducible assumption
    | with_reducible apply h_run
    | with_reducible apply State.keyFields_keeps
    | with_reducible apply State.keyRun_keeps
    | with_reducible apply State.lockWrite_keeps
    | ((with_reducible show ∀ y' : State, Keeps P' o' y' → _); intro y' h')
    | ((with_reducible show ∀ (_ : _) (y' : State), Keeps P' o' y' → _); intro x' y' h')
    | ((with_reducible show ∀ (_ : _) (_ : _) (y' : State), Keeps P' o' y' → _); intro x' z' y' h'))

theorem State.keyWrite_keeps {P' : Prop} {o' : State} {s : State} (h : Keeps P' o' s) (n : Nat) (key : List Byte) :
    Keeps P' o' (State.keyWrite s n key) := by
  unfold State.keyWrite
  repeat' (first
    | with_reducible assumption
    | with_reducible apply State.cfsWrite_keeps
    | ((with_reducible refine State.fset_keeps ?_ _ _ _ ?_); rotate_left; · exact rfl))

theorem State.keyInstall_keeps {P' : Prop} {o' : State} {s : State} (h : Keeps P' o' s) (n : Nat) :
    Keeps P' o' (State.keyInstall s n) := by
  unfold State.keyInstall
  repeat' (first
    | with_reducible assumption
    | with_reducible apply State.keyWrite_keeps
    | ((with_reducible refine State.fset_keeps ?_ _ _ _ ?_); rotate_left; · exact rfl)
    | ((first | intro v' | extract_lets -underBinder +onlyGivenNames v'); (first | (refine_lift have k' : Keeps P' o' v' := ?_; ?_; (on_goal 1 => try clear_value v'); (on_goal 2 => dsimp -zeta only [v'])) | (have k'' : v'.isSome = v'.isSome := rfl; clear k''; clear_value v') | skip))
    | split)

theorem State.keyWord_keeps {P' : Prop} {o' : State} {s : State} (h : Keeps P' o' s) (value : Nat) :
    Keeps P' o' (State.keyWord s value) := by
  unfold State.keyWord
  repeat' (first
    | with_reducible assumption
    | with_reducible apply State.keyFields_keeps
    | with_reducible apply State.keyInstall_keeps
    | with_reducible apply State.keyRun_keeps
    | with_reducible apply State.keyWrite_keeps
    | ((with_reducible show ∀ y' : State, Keeps P' o' y' → _); intro y' h')
    | ((with_reducible show ∀ (_ : _) (y' : State), Keeps P' o' y' → _); intro x' y' h')
    | ((with_reducible show ∀ (_ : _) (_ : _) (y' : State), Keeps P' o' y' → _); intro x' z' y' h')
    | ((first | intro v' | extract_lets -underBinder +onlyGivenNames v'); (first | (refine_lift have k' : Keeps P' o' v' := ?_; ?_; (on_goal 1 => try clear_value v'); (on_goal 2 => dsimp -zeta only [v'])) | (have k'' : v'.isSome = v'.isSome := rfl; clear k''; clear_value v') | skip))
    | split
    | (clear_value *; split))

theorem execSignerKeyInstall_keeps {P' : Prop} {o' : State} (signer : Fin 8) {s : State} (h : Keeps P' o' s) {t : State} (e : execSignerKeyInstall signer s = .next t) :
    Keeps P' o' t := by
  unfold execSignerKeyInstall at e
  injection e with e
  subst e
  repeat' (first
    | with_reducible assumption
    | with_reducible apply State.keyCtl_keeps
    | with_reducible apply State.keyInstall_keeps
    | ((with_reducible show ∀ y' : State, Keeps P' o' y' → _); intro y' h')
    | ((with_reducible show ∀ (_ : _) (y' : State), Keeps P' o' y' → _); intro x' y' h')
    | ((with_reducible show ∀ (_ : _) (_ : _) (y' : State), Keeps P' o' y' → _); intro x' z' y' h'))

theorem execSignerKeyRemove_keeps {P' : Prop} {o' : State} (signer : Fin 8) {s : State} (h : Keeps P' o' s) {t : State} (e : execSignerKeyRemove signer s = .next t) :
    Keeps P' o' t := by
  unfold execSignerKeyRemove at e
  injection e with e
  subst e
  repeat' (first
    | with_reducible assumption
    | with_reducible apply State.keyCtl_keeps
    | with_reducible apply State.keyWrite_keeps
    | ((with_reducible show ∀ y' : State, Keeps P' o' y' → _); intro y' h')
    | ((with_reducible show ∀ (_ : _) (y' : State), Keeps P' o' y' → _); intro x' y' h')
    | ((with_reducible show ∀ (_ : _) (_ : _) (y' : State), Keeps P' o' y' → _); intro x' z' y' h'))

theorem State.setEventCfg_keeps {P' : Prop} {o' : State} {s : State} (h : Keeps P' o' s) (v : Nat) :
    Keeps P' o' (State.setEventCfg s v) := by
  unfold State.setEventCfg
  repeat' (first
    | with_reducible assumption
    | with_reducible apply State.raiseMsix_keeps
    | ((with_reducible refine State.fset_keeps ?_ _ _ _ ?_); rotate_left; · exact rfl)
    | ((first | intro v' | extract_lets -underBinder +onlyGivenNames v'); (first | (refine_lift have k' : Keeps P' o' v' := ?_; ?_; (on_goal 1 => try clear_value v'); (on_goal 2 => dsimp -zeta only [v'])) | (have k'' : v'.isSome = v'.isSome := rfl; clear k''; clear_value v') | skip))
    | split)

theorem execEventCfgWrite_keeps {P' : Prop} {o' : State} (value : Word64) {s : State} (h : Keeps P' o' s) {t : State} (e : execEventCfgWrite value s = .next t) :
    Keeps P' o' t := by
  unfold execEventCfgWrite at e
  injection e with e
  subst e
  repeat' (first
    | with_reducible assumption
    | with_reducible apply State.lockWrite_keeps
    | with_reducible apply State.setEventCfg_keeps
    | ((with_reducible show ∀ y' : State, Keeps P' o' y' → _); intro y' h')
    | ((with_reducible show ∀ (_ : _) (y' : State), Keeps P' o' y' → _); intro x' y' h')
    | ((with_reducible show ∀ (_ : _) (_ : _) (y' : State), Keeps P' o' y' → _); intro x' z' y' h'))

end Sys2Proof.Machine
end

