-- ==== Sys2Proof/Laws/KeepsViews.lean ====
section
/-! SUPPORT. What each operation of Machine/Views.lean keeps (Laws/Keeps.lean). -/

set_option linter.unusedTactic false
set_option linter.unreachableTactic false

namespace Sys2Proof.Machine

theorem State.snapCounters_keeps {P' : Prop} {o' : State} {s : State} (h : Keeps P' o' s) (st : Nat) :
    Keeps P' o' (State.snapCounters s st) := by
  unfold State.snapCounters
  refine Keeps.foldl (fun s' x' h' => State.rset_keeps h' _ _ _ rfl (fun z => ?_)) _ h
  show Reg.stnLrCtr.fits _
  exact (h'.reserved z).fits _ _

theorem State.clearCycle_keeps {P' : Prop} {o' : State} {s : State} (h : Keeps P' o' s) (st n : Nat) :
    Keeps P' o' (State.clearCycle s st n) := by
  unfold State.clearCycle
  repeat' (first
    | with_reducible assumption
    | with_reducible apply State.ahead_keeps
    | with_reducible apply State.lrAdd_keeps
    | with_reducible apply State.tickLane_keeps
    | with_reducible apply State.drawNat_keeps
    | ((first | intro v' | extract_lets -underBinder +onlyGivenNames v'); (first | (refine_lift have k' : Keeps P' o' v' := ?_; ?_; (on_goal 1 => try clear_value v'); (on_goal 2 => dsimp -zeta only [v'])) | (refine_lift have k' : Keeps P' o' v'.2 := ?_; ?_; (on_goal 1 => try clear_value v'); (on_goal 2 => dsimp -zeta only [v'])) | (have k'' : v'.isSome = v'.isSome := rfl; clear k''; clear_value v') | skip))
    | split)

theorem State.clearLane_keeps {P' : Prop} {o' : State} {s : State} (h : Keeps P' o' s) (st n : Nat) :
    Keeps P' o' (State.clearLane s st n) := by
  unfold State.clearLane
  repeat' (first
    | with_reducible assumption
    | with_reducible apply State.clearCycle_keeps
    | ((with_reducible apply Keeps.foldl); intro s' x' h')
    | ((with_reducible apply Keeps.foldl_fst); intro s' x' h')
    | ((with_reducible apply Keeps.foldl_snd); intro s' x' h')
    | ((with_reducible refine State.rset_keeps ?_ _ _ _ ?_ (fun z => ?_)); rotate_left; · exact rfl)
    | exact Reg.fits_zero _
    | ((with_reducible refine State.setLane_keeps ?_ _ _ _ ?_); rotate_left; · exact id)
    | ((first | intro v' | extract_lets -underBinder +onlyGivenNames v'); (first | (refine_lift have k' : Keeps P' o' v' := ?_; ?_; (on_goal 1 => try clear_value v'); (on_goal 2 => dsimp -zeta only [v'])) | (have k'' : v'.isSome = v'.isSome := rfl; clear k''; clear_value v') | skip))
    | split)

theorem State.clearCounters_keeps {P' : Prop} {o' : State} {s : State} (h : Keeps P' o' s) (st : Nat) :
    Keeps P' o' (State.clearCounters s st) := by
  unfold State.clearCounters
  repeat' (first
    | with_reducible assumption
    | with_reducible apply State.clearLane_keeps
    | ((with_reducible apply Keeps.foldl); intro s' x' h')
    | ((with_reducible apply Keeps.foldl_fst); intro s' x' h')
    | ((with_reducible apply Keeps.foldl_snd); intro s' x' h'))

theorem State.ctrDo_keeps {P' : Prop} {o' : State} {s : State} (h : Keeps P' o' s) (st : Nat) (snap clear : Bool) :
    Keeps P' o' (State.ctrDo s st snap clear) := by
  unfold State.ctrDo
  repeat' (first
    | with_reducible assumption
    | with_reducible apply State.clearCounters_keeps
    | with_reducible apply State.snapCounters_keeps
    | ((with_reducible refine State.setDepot_keeps_canonical ?_ _ ?_); rotate_left; · exact Memory.wf_clear _ _)
    | ((first | intro v' | extract_lets -underBinder +onlyGivenNames v'); (first | (refine_lift have k' : Keeps P' o' v' := ?_; ?_; (on_goal 1 => try clear_value v'); (on_goal 2 => dsimp -zeta only [v'])) | (have k'' : v'.isSome = v'.isSome := rfl; clear k''; clear_value v') | skip))
    | split)

theorem State.writeEffects_keeps {P' : Prop} {o' : State} {s : State} (h : Keeps P' o' s) (r : Reg) (i : Nat) (old value : Word64) :
    Keeps P' o' (State.writeEffects s r i old value) := by
  unfold State.writeEffects
  repeat' (first
    | with_reducible assumption
    | with_reducible apply State.clearStackLog_keeps
    | with_reducible apply State.clearStationLog_keeps
    | with_reducible apply State.disableLine_keeps
    | with_reducible apply State.enableLine_keeps
    | with_reducible apply State.retrainLine_keeps
    | ((with_reducible refine State.fset_keeps ?_ _ _ _ ?_); rotate_left; · exact Fld.plain_of_full _ rfl rfl)
    | ((with_reducible refine State.fset_keeps ?_ _ _ _ ?_); rotate_left; · exact rfl)
    | ((first | intro v' | extract_lets -underBinder +onlyGivenNames v'); (first | (refine_lift have k' : Keeps P' o' v' := ?_; ?_; (on_goal 1 => try clear_value v'); (on_goal 2 => dsimp -zeta only [v'])) | (have k'' : v'.isSome = v'.isSome := rfl; clear k''; clear_value v') | skip))
    | split
    | (clear_value *; split))

/-- A write of the value that a register word has keeps all. -/
theorem State.rset_same_keeps {P : Prop} {a s : State} (h : Keeps P a s) (r : Reg) (i : Nat) : Keeps P a (s.rset r i (s.rget r i)) := by
  have hg : ∀ q j, (s.rset r i (s.rget r i)).rget q j = s.rget q j := fun q j => by
    rw [State.rget_rset]
    split
    · next e => rw [e.1, e.2]
    · rfl
  refine ⟨h.pending, fun p => (hg _ _).trans (h.lock p), ?_, fun z row hrow j => ?_, fun z q hq j => ?_, h.memories⟩
  · have := h.svn
    unfold State.fget at this ⊢
    rwa [hg]
  · rw [hg]
    exact h.reserved z row hrow j
  · rw [hg]
    exact h.fixed z q hq j

/-- A write within a register's fields leaves its reserved bits 0. -/
theorem fits_withBits (r : Reg) (n l w v : Nat) (hm : (2 ^ (l + w) - 2 ^ l) &&& r.reservedNat = 0) (h : r.fits (BitVec.ofNat 64 n)) :
    r.fits (BitVec.ofNat 64 (withBits n l w v)) := by
  rw [Reg.fits_iff] at h ⊢
  intro k hk
  rw [BitVec.getLsbD_ofNat, testBit_withBits]
  split
  · next hin =>
    have := congrArg (fun m => m.testBit k) hm
    have hb := Fld.mask_bit ⟨r, l, w⟩ hin.1 hin.2
    unfold Fld.mask at hb
    simp [hb, hk] at this
  · have := h k hk
    rwa [BitVec.getLsbD_ofNat] at this

theorem storedWord_fits (r : Reg) (old new : Nat) (ho : r.fits (BitVec.ofNat 64 old)) (hn : r.fits (BitVec.ofNat 64 new)) :
    r.fits (BitVec.ofNat 64 (storedWord r old new)) := by
  unfold storedWord keepField noZero
  split
  case h_10 => exact hn
  all_goals
    try dsimp only
    repeat' split
  all_goals first
    | exact hn
    | exact ho
    | (repeat' apply fits_withBits) <;> first | exact hn | rfl

/-- Bits of a register's fields of one access code. -/
theorem bitsWith_free : ∀ r ∈ regRows, (r.bitsWith .rw ||| r.bitsWith .rwl) &&& BitVec.ofNat 64 r.reg.reservedNat = 0 := by decide +kernel

/-- No write row reaches a guarded register. -/
theorem bitsWith_guarded : ∀ r ∈ regRows, r.reg ∉ ownRows → r.reg.guarded = true →
    r.bitsWith .rw = 0 ∧ r.bitsWith .rwl = 0 ∧ r.bitsWith .w1c = 0 := by decide +kernel

theorem bitsWith_rc : ∀ r ∈ regRows, r.reg.guarded = true → r.bitsWith .rc = 0 := by decide +kernel

theorem storedWord_guarded (r : Reg) (old : Nat) (h : r.guarded = true) : storedWord r old old = old := by
  cases r <;> first | rfl | exact Bool.noConfusion h

theorem fits_and {r : Reg} {w v : Word64} (h : r.fits w) : r.fits (w &&& v) := by
  unfold Reg.fits at h ⊢
  rw [BitVec.and_assoc, BitVec.and_comm v, ← BitVec.and_assoc, h]
  exact BitVec.zero_and

theorem fits_or {r : Reg} {w v : Word64} (h : r.fits w) (k : r.fits v) : r.fits (w ||| v) := by
  rw [Reg.fits_iff] at h k ⊢
  intro i hi
  rw [BitVec.getLsbD_or, h i hi, k i hi]
  rfl

theorem State.applyWrite_keeps {P' : Prop} {o' : State} {s : State} (h : Keeps P' o' s) (r : RegRow) (hr : r ∈ regRows)
    (hown : r.reg ∉ ownRows) (i : Nat) (written value : Word64) : Keeps P' o' (State.applyWrite s r i written value) := by
  unfold State.applyWrite
  dsimp only
  refine State.writeEffects_keeps ?_ _ _ _ _
  have hf := bitsWith_free r hr
  cases hg : r.reg.guarded
  · refine State.rset_keeps h _ _ _ hg (fun z => ?_)
    have hold : r.reg.fits (s.rget r.reg i) := (h.reserved z).fits _ _
    refine storedWord_fits _ _ _ (by rwa [BitVec.ofNat_toNat, BitVec.setWidth_eq]) ?_
    rw [BitVec.ofNat_toNat, BitVec.setWidth_eq]
    refine fits_and (fits_or (fits_and hold) ?_)
    have hw : r.reg.fits (r.bitsWith .rw ||| if s.locked = true then 0 else r.bitsWith .rwl) := by
      split
      · rw [show r.bitsWith .rw ||| (0 : Word64) = r.bitsWith .rw from BitVec.or_zero]
        have : r.reg.fits ((r.bitsWith .rw ||| r.bitsWith .rwl) &&& r.bitsWith .rw) := fits_and hf
        rwa [show (r.bitsWith .rw ||| r.bitsWith .rwl) &&& r.bitsWith .rw = r.bitsWith .rw from by
          ext k; simp; exact Or.inl] at this
      · exact hf
    rw [BitVec.and_comm]
    exact fits_and (fits_and hw)
  · obtain ⟨h1, h2, h3⟩ := bitsWith_guarded r hr hown hg
    have e0 : (if s.locked = true then (0 : Word64) else 0) = 0 := by split <;> rfl
    rw [h1, h2, h3, e0]
    have e : (s.rget r.reg i &&& ~~~((0 ||| 0) &&& written) ||| value &&& ((0 ||| 0) &&& written)) &&& ~~~(0 &&& written &&& value) = s.rget r.reg i := by
      have z1 : ∀ x : Word64, (0 : Word64) &&& x = 0 := fun _ => BitVec.zero_and
      have z2 : ∀ x : Word64, x &&& (0 : Word64) = 0 := fun _ => BitVec.and_zero
      have z3 : ∀ x : Word64, x ||| (0 : Word64) = x := fun _ => BitVec.or_zero
      have z4 : ~~~(0 : Word64) = BitVec.allOnes 64 := by decide
      simp only [BitVec.or_self, z1, z2, z3, z4, BitVec.and_allOnes]
    rw [e, storedWord_guarded _ _ hg, BitVec.ofNat_toNat, BitVec.setWidth_eq]
    exact State.rset_same_keeps h _ _

theorem State.adminWord_keeps {P' : Prop} {o' : State} {s : State} (h : Keeps P' o' s) (value : Nat) :
    Keeps P' o' (State.adminWord s value) := by
  unfold State.adminWord
  repeat' (first
    | with_reducible assumption
    | with_reducible apply State.adminDisable_keeps
    | with_reducible apply State.adminEnable_keeps
    | with_reducible apply State.adminReset_keeps
    | ((first | intro v' | extract_lets -underBinder +onlyGivenNames v'); (first | (refine_lift have k' : Keeps P' o' v' := ?_; ?_; (on_goal 1 => try clear_value v'); (on_goal 2 => dsimp -zeta only [v'])) | (have k'' : v'.isSome = v'.isSome := rfl; clear k''; clear_value v') | skip))
    | split)

theorem State.rawWord_keeps {P' : Prop} {o' : State} {s : State} (h : Keeps P' o' s) (value off : Nat) :
    Keeps P' o' (State.rawWord s value off) := by
  unfold State.rawWord
  repeat' (first
    | with_reducible assumption
    | with_reducible apply State.rawStart_keeps
    | with_reducible apply State.refuseWrite_keeps
    | split)

theorem State.ownWrite_keeps {o' s : State} (h : Keeps (o'.fget F.glbPrivLockLock 0 = 1) o' s) (r : Reg) (i off : Nat)
    (written value : Word64) : Keeps (o'.fget F.glbPrivLockLock 0 = 1) o' (State.ownWrite s r i off written value) := by
  unfold State.ownWrite
  dsimp only
  repeat' (first
    | with_reducible assumption
    | with_reducible apply State.lockOn_keeps
    | (with_reducible refine State.jobCtlTake_keeps ?_ _ _ ?_)
    | with_reducible apply State.ctlRun_keeps
    | with_reducible apply State.shareWrite_keeps
    | with_reducible apply State.ctrDo_keeps
    | (with_reducible refine State.unlockTake_keeps ?_ _ _ ?_)
    | with_reducible apply State.unlockAsk_keeps
    | with_reducible apply State.keyWord_keeps
    | with_reducible apply State.rawWord_keeps
    | with_reducible apply State.setEventCfg_keeps
    | with_reducible apply State.adminWord_keeps
    | intro y' h'
    | split)

theorem State.landWrite_keeps {o' s : State} (h : Keeps (o'.fget F.glbPrivLockLock 0 = 1) o' s) (r : RegRow) (hr : r ∈ regRows)
    (i off : Nat) (written value : Word64) : Keeps (o'.fget F.glbPrivLockLock 0 = 1) o' (State.landWrite s r i off written value) := by
  unfold State.landWrite
  split
  · exact h
  · extract_lets s1
    have k : Keeps (o'.fget F.glbPrivLockLock 0 = 1) o' s1 := by
      show Keeps _ o' (if _ then _ else _)
      split
      · exact State.refuseWrite_keeps h _
      · exact h
    clear_value s1
    split
    · exact State.ownWrite_keeps k _ _ _ _ _
    · exact State.applyWrite_keeps k r hr ‹_› _ _ _

theorem State.regWrite_keeps {o' s : State} (h : Keeps (o'.fget F.glbPrivLockLock 0 = 1) o' s) (r : RegRow) (hr : r ∈ regRows)
    (i off size : Nat) (value : Word64) : Keeps (o'.fget F.glbPrivLockLock 0 = 1) o' (State.regWrite s r i off size value) := by
  have land := fun {s : State} (h : Keeps (o'.fget F.glbPrivLockLock 0 = 1) o' s) => State.landWrite_keeps h r hr i off
  unfold State.regWrite
  split
  · exact land h _ _
  split
  · exact land h _ _
  split
  · exact State.setHost_keeps h _ rfl
  split
  · split
    · refine land ?_ _ _
      exact State.setHost_keeps h _ rfl
    · exact land h _ _
  · exact land h _ _

theorem State.adminRing_keeps {P' : Prop} {o' : State} {s : State} (h : Keeps P' o' s) (off : Nat) (value : Word64) :
    Keeps P' o' (State.adminRing s off value) := by
  unfold State.adminRing
  repeat' (first
    | with_reducible assumption
    | with_reducible apply State.ringCq_keeps
    | with_reducible apply State.ringSq_keeps
    | split)

theorem flatIndex_regAt {off : Nat} {r : RegRow} {i : Nat} (h : regAt off = some (r, i)) : r ∈ regRows := by
  unfold regAt at h
  obtain ⟨x, hx, hr⟩ := List.exists_of_findSome?_eq_some h
  unfold RegRow.hit at hr
  split at hr
  · exact absurd hr (by simp)
  split at hr
  · exact absurd hr (by simp)
  split at hr
  · have := (Prod.mk.inj (Option.some.inj hr)).1
    rwa [← this]
  · exact absurd hr (by simp)

theorem State.privWrite_keeps {o' s : State} (h : Keeps (o'.fget F.glbPrivLockLock 0 = 1) o' s) (off size : Nat) (value : Word64) :
    Keeps (o'.fget F.glbPrivLockLock 0 = 1) o' (State.privWrite s off size value) := by
  unfold State.privWrite
  split
  · exact State.bump_keeps h _ _ _ rfl
  split
  · exact State.adminRing_keeps (State.dropHeld_keeps h _) _ _
  · exact State.regWrite_keeps (State.dropHeld_keeps h _) _ (flatIndex_regAt ‹_›) _ _ _ _

theorem State.userWrite_keeps {P' : Prop} {o' : State} {s : State} (h : Keeps P' o' s) (off size : Nat) (value : Word64) :
    Keeps P' o' (State.userWrite s off size value) := by
  unfold State.userWrite
  repeat' (first
    | with_reducible assumption
    | with_reducible apply State.ringCq_keeps
    | with_reducible apply State.ringSq_keeps
    | ((with_reducible refine State.bump_keeps ?_ _ _ _ ?_); rotate_left; · exact rfl)
    | ((first | intro v' | extract_lets -underBinder +onlyGivenNames v'); (first | (refine_lift have k' : Keeps P' o' v' := ?_; ?_; (on_goal 1 => try clear_value v'); (on_goal 2 => dsimp -zeta only [v'])) | (have k'' : v'.isSome = v'.isSome := rfl; clear k''; clear_value v') | skip))
    | split)

theorem State.msixWrite_keeps {P' : Prop} {o' : State} {s : State} (h : Keeps P' o' s) (off size : Nat) (value : Word64) :
    Keeps P' o' (State.msixWrite s off size value) := by
  unfold State.msixWrite
  repeat' (first
    | with_reducible assumption
    | with_reducible apply State.raiseMsix_keeps
    | ((with_reducible refine State.setHost_keeps ?_ _ ?_); rotate_left; · exact rfl)
    | ((first | intro v' | extract_lets -underBinder +onlyGivenNames v'); (first | (refine_lift have k' : Keeps P' o' v' := ?_; ?_; (on_goal 1 => try clear_value v'); (on_goal 2 => dsimp -zeta only [v'])) | (have k'' : v'.isSome = v'.isSome := rfl; clear k''; clear_value v') | skip))
    | split)

theorem execRegisterWrite_keeps {o' s : State} (bar : Fin 3) (offset size : Nat) (value : Word64)
    (h : Keeps (o'.fget F.glbPrivLockLock 0 = 1) o' s) {t : State} (e : execRegisterWrite bar offset size value s = .next t) :
    Keeps (o'.fget F.glbPrivLockLock 0 = 1) o' t := by
  unfold execRegisterWrite at e
  injection e with e
  subst e
  split
  · exact h
  split
  · exact State.privWrite_keeps h _ _ _
  split
  · exact State.userWrite_keeps h _ _ _
  · exact State.msixWrite_keeps h _ _ _

theorem State.answer_keeps {P' : Prop} {o' : State} {s : State} (h : Keeps P' o' s) (v : Nat) :
    Keeps P' o' (State.answer s v) := by
  unfold State.answer
  repeat' (first
    | with_reducible assumption
    | with_reducible apply State.send_keeps)

theorem State.halfRead_keeps {P' : Prop} {o' : State} {s : State} (h : Keeps P' o' s) (key word : Nat) (high : Bool) :
    Keeps P' o' (State.halfRead s key word high) := by
  unfold State.halfRead
  repeat' (first
    | with_reducible assumption
    | with_reducible apply State.answer_keeps
    | ((with_reducible refine State.setHost_keeps ?_ _ ?_); rotate_left; · exact rfl)
    | split)

theorem execCounterLowHalfRead_keeps {P' : Prop} {o' : State} (offset : Nat) {s : State} (h : Keeps P' o' s) {t : State} (e : execCounterLowHalfRead offset s = .next t) :
    Keeps P' o' t := by
  unfold execCounterLowHalfRead at e
  injection e with e
  subst e
  repeat' (first
    | with_reducible assumption
    | with_reducible apply State.answer_keeps
    | with_reducible apply State.halfRead_keeps
    | ((with_reducible refine State.bump_keeps ?_ _ _ _ ?_); rotate_left; · exact rfl)
    | split)

theorem execClearOnRead_keeps {P' : Prop} {o' : State} (offset : Nat) {s : State} (h : Keeps P' o' s) {t : State}
    (e : execClearOnRead offset s = .next t) : Keeps P' o' t := by
  unfold execClearOnRead at e
  injection e with e
  subst e
  split
  · exact h
  split
  · exact h
  · split
    · exact h
    · rename_i r i hat hrc
      refine State.answer_keeps ?_ _
      have hg : r.reg.guarded = false := by
        cases hg : r.reg.guarded
        · rfl
        · exact absurd (bitsWith_rc r (flatIndex_regAt hat) hg) hrc
      exact State.rset_keeps h _ _ _ hg (fun z => fits_and ((h.reserved z).fits _ _))

theorem State.underrun_keeps {P' : Prop} {o' : State} {s : State} (h : Keeps P' o' s) (island : Nat) :
    Keeps P' o' (State.underrun s island) := by
  unfold State.underrun
  repeat' (first
    | with_reducible assumption
    | ((with_reducible refine State.bump_keeps ?_ _ _ _ ?_); rotate_left; · exact rfl))

theorem State.consume_keeps {P' : Prop} {o' : State} {s : State} (h : Keeps P' o' s) (off : Nat) :
    Keeps P' o' (State.consume s off) := by
  unfold State.consume
  repeat' (first
    | with_reducible assumption
    | with_reducible apply State.setSecurity_keeps
    | with_reducible apply State.underrun_keeps
    | split)

theorem State.userRead_keeps {P' : Prop} {o' : State} {s : State} (h : Keeps P' o' s) (off size : Nat) :
    Keeps P' o' (State.userRead s off size) := by
  unfold State.userRead
  repeat' (first
    | with_reducible assumption
    | with_reducible apply State.answer_keeps
    | with_reducible apply State.consume_keeps
    | with_reducible apply State.halfRead_keeps
    | ((with_reducible refine State.bump_keeps ?_ _ _ _ ?_); rotate_left; · exact rfl)
    | ((first | intro v' | extract_lets -underBinder +onlyGivenNames v'); (first | (refine_lift have k' : Keeps P' o' v' := ?_; ?_; (on_goal 1 => try clear_value v'); (on_goal 2 => dsimp -zeta only [v'])) | (have k'' : v'.isSome = v'.isSome := rfl; clear k''; clear_value v') | skip))
    | split
    | (clear_value *; split))

theorem execMirrorRead_keeps {P' : Prop} {o' : State} (offset size : Nat) {s : State} (h : Keeps P' o' s) {t : State} (e : execMirrorRead offset size s = .next t) :
    Keeps P' o' t := by
  unfold execMirrorRead at e
  injection e with e
  subst e
  repeat' (first
    | with_reducible assumption
    | with_reducible apply State.answer_keeps
    | with_reducible apply State.userRead_keeps
    | split)

theorem sampleFld_plain : ∀ k : Fin 32, Fld.plain ⟨.tmxSample, k.val, 1⟩ = true := by decide +kernel

theorem State.samplePins_keeps {P' : Prop} {o' : State} {s : State} (h : Keeps P' o' s) (pushed : List (Fin 32)) :
    Keeps P' o' (State.samplePins s pushed) := by
  unfold State.samplePins
  extract_lets s1
  have k1 : Keeps P' o' s1 := Keeps.foldl (fun s' x' h' => State.fset_keeps h' _ _ _ (sampleFld_plain _)) _ h
  clear_value s1
  refine State.fset_keeps ?_ _ _ _ rfl
  split
  · exact State.underrun_keeps k1 _
  · exact k1

theorem execTmxSampleRead_keeps {P' : Prop} {o' : State} (pushed : List (Fin 32)) {s : State} (h : Keeps P' o' s) {t : State} (e : execTmxSampleRead pushed s = .next t) :
    Keeps P' o' t := by
  unfold execTmxSampleRead at e
  injection e with e
  subst e
  repeat' (first
    | with_reducible assumption
    | with_reducible apply State.answer_keeps
    | with_reducible apply State.samplePins_keeps
    | ((first | intro v' | extract_lets -underBinder +onlyGivenNames v'); (first | (refine_lift have k' : Keeps P' o' v' := ?_; ?_; (on_goal 1 => try clear_value v'); (on_goal 2 => dsimp -zeta only [v'])) | (have k'' : v'.isSome = v'.isSome := rfl; clear k''; clear_value v') | skip))
    | split)

theorem State.ctrCtl_keeps {P' : Prop} {o' : State} {s : State} (h : Keeps P' o' s) (st : Nat) (snap clear : Bool) :
    Keeps P' o' (State.ctrCtl s st snap clear) := by
  unfold State.ctrCtl
  repeat' (first
    | with_reducible assumption
    | with_reducible apply State.ctrDo_keeps
    | with_reducible apply State.openWrite_keeps
    | ((with_reducible refine State.setDepot_keeps_canonical ?_ _ ?_); rotate_left; · exact Memory.wf_clear _ _)
    | ((with_reducible show ∀ y' : State, Keeps P' o' y' → _); intro y' h')
    | ((with_reducible show ∀ (_ : _) (y' : State), Keeps P' o' y' → _); intro x' y' h')
    | ((with_reducible show ∀ (_ : _) (_ : _) (y' : State), Keeps P' o' y' → _); intro x' z' y' h')
    | split)

theorem execCounterSnapshot_keeps {P' : Prop} {o' : State} (w : CtrCtlWrite) {s : State} (h : Keeps P' o' s) {t : State} (e : execCounterSnapshot w s = .next t) :
    Keeps P' o' t := by
  unfold execCounterSnapshot at e
  injection e with e
  subst e
  repeat' (first
    | with_reducible assumption
    | with_reducible apply State.ctrCtl_keeps)

theorem execCounterClear_keeps {P' : Prop} {o' : State} (w : CtrCtlWrite) {s : State} (h : Keeps P' o' s) {t : State} (e : execCounterClear w s = .next t) :
    Keeps P' o' t := by
  unfold execCounterClear at e
  injection e with e
  subst e
  repeat' (first
    | with_reducible assumption
    | with_reducible apply State.ctrCtl_keeps)

theorem execMirrorPushStation_keeps {P' : Prop} {o' : State} (st : StationId) {s : State} (h : Keeps P' o' s) {t : State} (e : execMirrorPushStation st s = .next t) :
    Keeps P' o' t := by
  unfold execMirrorPushStation at e
  injection e with e
  subst e
  repeat' (first
    | with_reducible assumption
    | with_reducible apply State.pushStation_keeps)

theorem execMirrorPushJob_keeps {P' : Prop} {o' : State} (d : DieId) {s : State} (h : Keeps P' o' s) {t : State} (e : execMirrorPushJob d s = .next t) :
    Keeps P' o' t := by
  unfold execMirrorPushJob at e
  injection e with e
  subst e
  repeat' (first
    | with_reducible assumption
    | with_reducible apply State.pushJob_keeps
    | ((with_reducible apply Keeps.foldl); intro s' x' h')
    | ((with_reducible apply Keeps.foldl_fst); intro s' x' h')
    | ((with_reducible apply Keeps.foldl_snd); intro s' x' h')
    | split)

end Sys2Proof.Machine
end

