-- ==== Sys2Proof/Laws/KeepsPort.lean ====
section
/-! SUPPORT. What each operation of Machine/Port.lean keeps (Laws/Keeps.lean). -/

set_option linter.unusedTactic false
set_option linter.unreachableTactic false

namespace Sys2Proof.Machine

theorem State.linkUp_keeps {P' : Prop} {o' : State} {s : State} (h : Keeps P' o' s) (width rate : Nat) :
    Keeps P' o' (State.linkUp s width rate) := by
  unfold State.linkUp
  repeat' (first
    | with_reducible assumption
    | with_reducible apply State.link_keeps
    | with_reducible apply State.raiseMsix_keeps
    | ((with_reducible apply Keeps.foldl); intro s' x' h')
    | ((with_reducible apply Keeps.foldl_fst); intro s' x' h')
    | ((with_reducible apply Keeps.foldl_snd); intro s' x' h')
    | ((with_reducible refine State.setHost_keeps ?_ _ ?_); rotate_left; · exact rfl)
    | (refine Keeps.of_fst_eq ?_ (by with_reducible assumption))
    | ((first | intro v' | extract_lets -underBinder +onlyGivenNames v'); (first | (refine_lift have k' : Keeps P' o' v' := ?_; ?_; (on_goal 1 => try clear_value v'); (on_goal 2 => dsimp -zeta only [v'])) | (refine_lift have k' : Keeps P' o' v'.1 := ?_; ?_; (on_goal 1 => try clear_value v'); (on_goal 2 => dsimp -zeta only [v'])) | (have k'' : v'.isSome = v'.isSome := rfl; clear k''; clear_value v') | skip))
    | split)

theorem execLinkTrained_keeps {P' : Prop} {o' : State} (width rate : Nat) {s : State} (h : Keeps P' o' s) {t : State} (e : execLinkTrained width rate s = .next t) :
    Keeps P' o' t := by
  unfold execLinkTrained at e
  injection e with e
  subst e
  repeat' (first
    | with_reducible assumption
    | with_reducible apply State.linkUp_keeps
    | split)

theorem execLinkDown_keeps {P' : Prop} {o' : State} {s : State} (h : Keeps P' o' s) {t : State} (e : execLinkDown s = .next t) :
    Keeps P' o' t := by
  unfold execLinkDown at e
  injection e with e
  subst e
  repeat' (first
    | with_reducible assumption
    | with_reducible apply State.linkLost_keeps
    | split)

theorem execHotReset_keeps {P' : Prop} {o' : State} {s : State} (h : Keeps P' o' s) {t : State} (e : execHotReset s = .next t) :
    Keeps P' o' t := by
  unfold execHotReset at e
  injection e with e
  subst e
  repeat' (first
    | with_reducible assumption
    | with_reducible apply State.linkLost_keeps
    | split)

theorem State.perstLow_keeps {P' : Prop} {o' : State} {s : State} (h : Keeps P' o' s) :
    Keeps P' o' (State.perstLow s) := by
  unfold State.perstLow
  repeat' (first
    | with_reducible assumption
    | ((with_reducible refine State.setHost_keeps ?_ _ ?_); rotate_left; · exact rfl))

theorem execPerstAssert_keeps {P' : Prop} {o' : State} {s : State} (h : Keeps P' o' s) {t : State} (e : execPerstAssert s = .next t) :
    Keeps P' o' t := by
  unfold execPerstAssert at e
  injection e with e
  subst e
  repeat' (first
    | with_reducible assumption
    | with_reducible apply State.linkLost_keeps
    | with_reducible apply State.perstLow_keeps
    | split)

theorem execPerstDeassert_keeps {P' : Prop} {o' : State} (refclk : Bool) {s : State} (h : Keeps P' o' s) {t : State} (e : execPerstDeassert refclk s = .next t) :
    Keeps P' o' t := by
  unfold execPerstDeassert at e
  injection e with e
  subst e
  repeat' (first
    | with_reducible assumption
    | ((with_reducible refine State.setHost_keeps ?_ _ ?_); rotate_left; · exact rfl)
    | split)

theorem State.configWord_keeps {P' : Prop} {o' : State} {s : State} (h : Keeps P' o' s) (o : Nat) :
    Keeps P' o' (State.configWord s o).2 := by
  unfold State.configWord
  repeat' (first
    | with_reducible assumption
    | with_reducible apply State.drawNat_keeps
    | split)

theorem State.configFull_keeps {P' : Prop} {o' : State} {s : State} (h : Keeps P' o' s) (o : Nat) :
    Keeps P' o' (State.configFull s o) := by
  unfold State.configFull
  repeat' (first
    | with_reducible assumption
    | with_reducible apply State.configWord_keeps
    | with_reducible apply State.send_keeps
    | (refine Keeps.of_snd_eq ?_ (by with_reducible assumption)))

theorem execConfigRequest_keeps {P' : Prop} {o' : State} (ms offset : Nat) {s : State} (h : Keeps P' o' s) {t : State} (e : execConfigRequest ms offset s = .next t) :
    Keeps P' o' t := by
  unfold execConfigRequest at e
  injection e with e
  subst e
  repeat' (first
    | with_reducible assumption
    | with_reducible apply State.configFull_keeps
    | with_reducible apply State.send_keeps
    | split)

theorem execHdmDecoderCommit_keeps {P' : Prop} {o' : State} (base : Nat) {s : State} (h : Keeps P' o' s) {t : State} (e : execHdmDecoderCommit base s = .next t) :
    Keeps P' o' t := by
  unfold execHdmDecoderCommit at e
  injection e with e
  subst e
  repeat' (first
    | with_reducible assumption
    | ((with_reducible refine State.setHost_keeps ?_ _ ?_); rotate_left; · exact rfl)
    | split)

theorem execGlobalPersistentFlush_keeps {P' : Prop} {o' : State} {s : State} (h : Keeps P' o' s) {t : State} (e : execGlobalPersistentFlush s = .next t) :
    Keeps P' o' t := by
  unfold execGlobalPersistentFlush at e
  injection e with e
  subst e
  repeat' (first
    | with_reducible assumption
    | with_reducible apply State.send_keeps
    | split)

theorem State.atHdm_keeps {P' : Prop} {o' : State} {s : State} (h : Keeps P' o' s) {addr : Nat} {run : Nat → State}
    (h_run : ∀ x, Keeps P' o' (run x)) {t : State} (e : State.atHdm s addr run = .next t) : Keeps P' o' t := by
  unfold State.atHdm at e
  split at e
  · injection e with e
    subst e
    exact h
  · split at e
    · exact (nomatch e)
    · injection e with e
      subst e
      exact h_run _

theorem State.hostLoad_keeps {P' : Prop} {o' : State} {s : State} (h : Keeps P' o' s) (x : Nat) :
    Keeps P' o' (State.hostLoad s x) := by
  unfold State.hostLoad
  repeat' (first
    | with_reducible assumption
    | with_reducible apply State.send_keeps
    | ((first | intro v' | extract_lets -underBinder +onlyGivenNames v'); (first | (refine_lift have k' : Keeps P' o' v' := ?_; ?_; (on_goal 1 => try clear_value v'); (on_goal 2 => dsimp -zeta only [v'])) | (have k'' : v'.isSome = v'.isSome := rfl; clear k''; clear_value v') | skip))
    | split)

theorem execCxlMemLoad_keeps {P' : Prop} {o' : State} (addr : Nat) {s : State} (h : Keeps P' o' s) {t : State} (e : execCxlMemLoad addr s = .next t) :
    Keeps P' o' t := by
  unfold execCxlMemLoad at e
  refine State.atHdm_keeps h (fun x => ?_) e
  split
  · exact h
  · exact State.hostLoad_keeps h _

theorem State.hostStore_keeps {P' : Prop} {o' : State} {s : State} (h : Keeps P' o' s) (x : Nat) (data : List Byte) :
    Keeps P' o' (State.hostStore s x data) := by
  unfold State.hostStore
  repeat' (first
    | with_reducible assumption
    | with_reducible apply State.pageStore_keeps
    | with_reducible apply State.send_keeps
    | with_reducible apply State.tierLookup_keeps
    | ((first | intro v' | extract_lets -underBinder +onlyGivenNames v'); (first | (refine_lift have k' : Keeps P' o' v' := ?_; ?_; (on_goal 1 => try clear_value v'); (on_goal 2 => dsimp -zeta only [v'])) | (have k'' : v'.isSome = v'.isSome := rfl; clear k''; clear_value v') | skip))
    | split)

theorem execCxlMemStore_keeps {P' : Prop} {o' : State} (addr : Nat) (data : List Byte) {s : State} (h : Keeps P' o' s) {t : State} (e : execCxlMemStore addr data s = .next t) :
    Keeps P' o' t := by
  unfold execCxlMemStore at e
  refine State.atHdm_keeps h (fun x => ?_) e
  split
  · exact h
  · exact State.hostStore_keeps h _ _

theorem State.setHost_keeps_canonical {P : Prop} {a s : State} (h : Keeps P a s) (x : HostSide)
    (hx : Memory.wf s.host.window = true → Memory.wf x.window = true) : Keeps P a (s.setHost x) :=
  ⟨h.pending, h.lock, h.svn, h.reserved, h.fixed, fun z => ⟨(h.memories z).1, hx (h.memories z).2.1, (h.memories z).2.2⟩⟩

theorem State.windowStore_keeps {P' : Prop} {o' : State} {s : State} (h : Keeps P' o' s) (x : Nat) (data : List Byte) :
    Keeps P' o' (State.windowStore s x data) := by
  unfold State.windowStore
  dsimp only
  split
  · exact State.send_keeps (State.setHost_keeps_canonical h _ (Memory.wf_write _ _)) _
  · exact State.send_keeps h _

theorem execQueueWindowStore_keeps {P' : Prop} {o' : State} (addr : Nat) (data : List Byte) {s : State} (h : Keeps P' o' s) {t : State} (e : execQueueWindowStore addr data s = .next t) :
    Keeps P' o' t := by
  unfold execQueueWindowStore at e
  refine State.atHdm_keeps h (fun x => ?_) e
  split
  · exact State.windowStore_keeps h _ _
  · exact h

theorem State.windowLoad_keeps {P' : Prop} {o' : State} {s : State} (h : Keeps P' o' s) (x : Nat) :
    Keeps P' o' (State.windowLoad s x) := by
  unfold State.windowLoad
  repeat' (first
    | with_reducible assumption
    | with_reducible apply State.send_keeps
    | ((first | intro v' | extract_lets -underBinder +onlyGivenNames v'); (first | (refine_lift have k' : Keeps P' o' v' := ?_; ?_; (on_goal 1 => try clear_value v'); (on_goal 2 => dsimp -zeta only [v'])) | (have k'' : v'.isSome = v'.isSome := rfl; clear k''; clear_value v') | skip))
    | split)

theorem execQueueWindowLoad_keeps {P' : Prop} {o' : State} (addr : Nat) {s : State} (h : Keeps P' o' s) {t : State} (e : execQueueWindowLoad addr s = .next t) :
    Keeps P' o' t := by
  unfold execQueueWindowLoad at e
  refine State.atHdm_keeps h (fun x => ?_) e
  split
  · exact State.windowLoad_keeps h _
  · exact h

end Sys2Proof.Machine
end

