-- ==== Sys2Proof/Laws/KeepsAttest.lean ====
section
/-! SUPPORT. What each operation of Machine/Attest.lean keeps (Laws/Keeps.lean). -/

set_option linter.unusedTactic false
set_option linter.unreachableTactic false

namespace Sys2Proof.Machine

theorem State.doe_keeps {P' : Prop} {o' : State} {s : State} (h : Keeps P' o' s) (vendor type : Nat) (body : List Byte) :
    Keeps P' o' (State.doe s vendor type body) := by
  unfold State.doe
  repeat' (first
    | with_reducible assumption
    | with_reducible apply State.send_keeps)

theorem execDoeDiscovery_keeps {P' : Prop} {o' : State} (index : Nat) {s : State} (h : Keeps P' o' s) {t : State} (e : execDoeDiscovery index s = .next t) :
    Keeps P' o' t := by
  unfold execDoeDiscovery at e
  injection e with e
  subst e
  repeat' (first
    | with_reducible assumption
    | with_reducible apply State.doe_keeps
    | split)

theorem execDoeOversizeRequest_keeps {P' : Prop} {o' : State} (length : Nat) {s : State} (h : Keeps P' o' s) {t : State} (e : execDoeOversizeRequest length s = .next t) :
    Keeps P' o' t := by
  unfold execDoeOversizeRequest at e
  injection e with e
  subst e
  repeat' (first
    | with_reducible assumption
    | with_reducible apply State.send_keeps
    | with_reducible apply State.setSecurity_keeps
    | split)

theorem execCdatRead_keeps {P' : Prop} {o' : State} (handle : Nat) {s : State} (h : Keeps P' o' s) {t : State} (e : execCdatRead handle s = .next t) :
    Keeps P' o' t := by
  unfold execCdatRead at e
  injection e with e
  subst e
  repeat' (first
    | with_reducible assumption
    | with_reducible apply State.doe_keeps
    | split)

theorem State.setSpdm_keeps {P' : Prop} {o' : State} {s : State} (h : Keeps P' o' s) (x : Spdm) :
    Keeps P' o' (State.setSpdm s x) := by
  unfold State.setSpdm
  repeat' (first
    | with_reducible assumption
    | with_reducible apply State.setSecurity_keeps)

theorem State.spdmError_keeps {P' : Prop} {o' : State} {s : State} (h : Keeps P' o' s) (code data : Nat) (ext : List Byte) :
    Keeps P' o' (State.spdmError s code data ext) := by
  unfold State.spdmError
  repeat' (first
    | with_reducible assumption
    | with_reducible apply State.doe_keeps
    | split)

theorem State.spdmSend_keeps {P' : Prop} {o' : State} {s : State} (h : Keeps P' o' s) (resp : List Byte) :
    Keeps P' o' (State.spdmSend s resp) := by
  unfold State.spdmSend
  repeat' (first
    | with_reducible assumption
    | with_reducible apply State.doe_keeps
    | with_reducible apply State.setSpdm_keeps
    | with_reducible apply State.spdmError_keeps
    | ((first | intro v' | extract_lets -underBinder +onlyGivenNames v'); (first | (refine_lift have k' : Keeps P' o' v' := ?_; ?_; (on_goal 1 => try clear_value v'); (on_goal 2 => dsimp -zeta only [v'])) | (have k'' : v'.isSome = v'.isSome := rfl; clear k''; clear_value v') | skip))
    | split)

theorem State.spdmRequest_keeps {P' : Prop} {o' : State} {s : State} (h : Keeps P' o' s) (code need len : Nat) (req : List Byte) (run : State → State) (h_run : ∀ y0, Keeps P' o' y0 → Keeps P' o' (run y0)) :
    Keeps P' o' (State.spdmRequest s code need len req run) := by
  unfold State.spdmRequest
  repeat' (first
    | with_reducible assumption
    | with_reducible apply h_run
    | with_reducible apply State.spdmError_keeps
    | split)

theorem State.spdmVersion_keeps {P' : Prop} {o' : State} (req : List Byte) {s : State} (h : Keeps P' o' s) :
    Keeps P' o' (State.spdmVersion req s) := by
  unfold State.spdmVersion
  repeat' (first
    | with_reducible assumption
    | with_reducible apply State.doe_keeps
    | with_reducible apply State.setSpdm_keeps
    | ((first | intro v' | extract_lets -underBinder +onlyGivenNames v'); (first | (refine_lift have k' : Keeps P' o' v' := ?_; ?_; (on_goal 1 => try clear_value v'); (on_goal 2 => dsimp -zeta only [v'])) | (have k'' : v'.isSome = v'.isSome := rfl; clear k''; clear_value v') | skip))
    | split)

theorem execGetVersion_keeps {P' : Prop} {o' : State} (request : List Byte) {s : State} (h : Keeps P' o' s) {t : State} (e : execGetVersion request s = .next t) :
    Keeps P' o' t := by
  unfold execGetVersion at e
  injection e with e
  subst e
  repeat' (first
    | with_reducible assumption
    | with_reducible apply State.spdmError_keeps
    | with_reducible apply State.spdmVersion_keeps
    | split)

theorem State.spdmCapabilities_keeps {P' : Prop} {o' : State} (req : List Byte) {s : State} (h : Keeps P' o' s) :
    Keeps P' o' (State.spdmCapabilities req s) := by
  unfold State.spdmCapabilities
  repeat' (first
    | with_reducible assumption
    | with_reducible apply State.doe_keeps
    | with_reducible apply State.setSpdm_keeps
    | with_reducible apply State.spdmError_keeps
    | ((first | intro v' | extract_lets -underBinder +onlyGivenNames v'); (first | (refine_lift have k' : Keeps P' o' v' := ?_; ?_; (on_goal 1 => try clear_value v'); (on_goal 2 => dsimp -zeta only [v'])) | (have k'' : v'.isSome = v'.isSome := rfl; clear k''; clear_value v') | skip))
    | split)

theorem execGetCapabilities_keeps {P' : Prop} {o' : State} (request : List Byte) {s : State} (h : Keeps P' o' s) {t : State} (e : execGetCapabilities request s = .next t) :
    Keeps P' o' t := by
  unfold execGetCapabilities at e
  injection e with e
  subst e
  repeat' (first
    | with_reducible assumption
    | with_reducible apply State.spdmCapabilities_keeps
    | with_reducible apply State.spdmRequest_keeps
    | ((with_reducible show ∀ y' : State, Keeps P' o' y' → _); intro y' h')
    | ((with_reducible show ∀ (_ : _) (y' : State), Keeps P' o' y' → _); intro x' y' h')
    | ((with_reducible show ∀ (_ : _) (_ : _) (y' : State), Keeps P' o' y' → _); intro x' z' y' h'))

theorem State.spdmAlgorithms_keeps {P' : Prop} {o' : State} (req : List Byte) {s : State} (h : Keeps P' o' s) :
    Keeps P' o' (State.spdmAlgorithms req s) := by
  unfold State.spdmAlgorithms
  repeat' (first
    | with_reducible assumption
    | with_reducible apply State.doe_keeps
    | with_reducible apply State.setSpdm_keeps
    | ((first | intro v' | extract_lets -underBinder +onlyGivenNames v'); (first | (refine_lift have k' : Keeps P' o' v' := ?_; ?_; (on_goal 1 => try clear_value v'); (on_goal 2 => dsimp -zeta only [v'])) | (have k'' : v'.isSome = v'.isSome := rfl; clear k''; clear_value v') | skip))
    | split)

theorem execNegotiateAlgorithms_keeps {P' : Prop} {o' : State} (request : List Byte) {s : State} (h : Keeps P' o' s) {t : State} (e : execNegotiateAlgorithms request s = .next t) :
    Keeps P' o' t := by
  unfold execNegotiateAlgorithms at e
  injection e with e
  subst e
  repeat' (first
    | with_reducible assumption
    | with_reducible apply State.spdmAlgorithms_keeps
    | with_reducible apply State.spdmRequest_keeps
    | ((with_reducible show ∀ y' : State, Keeps P' o' y' → _); intro y' h')
    | ((with_reducible show ∀ (_ : _) (y' : State), Keeps P' o' y' → _); intro x' y' h')
    | ((with_reducible show ∀ (_ : _) (_ : _) (y' : State), Keeps P' o' y' → _); intro x' z' y' h'))

theorem State.spdmLogged_keeps {P' : Prop} {o' : State} {s : State} (h : Keeps P' o' s) (req resp : List Byte) :
    Keeps P' o' (State.spdmLogged s req resp) := by
  unfold State.spdmLogged
  repeat' (first
    | with_reducible assumption
    | with_reducible apply State.setSpdm_keeps)

theorem State.spdmDigests_keeps {P' : Prop} {o' : State} (req : List Byte) {s : State} (h : Keeps P' o' s) :
    Keeps P' o' (State.spdmDigests req s) := by
  unfold State.spdmDigests
  repeat' (first
    | with_reducible assumption
    | with_reducible apply State.spdmLogged_keeps
    | with_reducible apply State.spdmSend_keeps
    | ((first | intro v' | extract_lets -underBinder +onlyGivenNames v'); (first | (refine_lift have k' : Keeps P' o' v' := ?_; ?_; (on_goal 1 => try clear_value v'); (on_goal 2 => dsimp -zeta only [v'])) | (have k'' : v'.isSome = v'.isSome := rfl; clear k''; clear_value v') | skip))
    | split)

theorem execGetDigests_keeps {P' : Prop} {o' : State} (request : List Byte) {s : State} (h : Keeps P' o' s) {t : State} (e : execGetDigests request s = .next t) :
    Keeps P' o' t := by
  unfold execGetDigests at e
  injection e with e
  subst e
  repeat' (first
    | with_reducible assumption
    | with_reducible apply State.spdmDigests_keeps
    | with_reducible apply State.spdmRequest_keeps
    | ((with_reducible show ∀ y' : State, Keeps P' o' y' → _); intro y' h')
    | ((with_reducible show ∀ (_ : _) (y' : State), Keeps P' o' y' → _); intro x' y' h')
    | ((with_reducible show ∀ (_ : _) (_ : _) (y' : State), Keeps P' o' y' → _); intro x' z' y' h'))

theorem State.spdmCertificate_keeps {P' : Prop} {o' : State} (req : List Byte) {s : State} (h : Keeps P' o' s) :
    Keeps P' o' (State.spdmCertificate req s) := by
  unfold State.spdmCertificate
  repeat' (first
    | with_reducible assumption
    | with_reducible apply State.spdmError_keeps
    | with_reducible apply State.spdmLogged_keeps
    | with_reducible apply State.spdmSend_keeps
    | ((first | intro v' | extract_lets -underBinder +onlyGivenNames v'); (first | (refine_lift have k' : Keeps P' o' v' := ?_; ?_; (on_goal 1 => try clear_value v'); (on_goal 2 => dsimp -zeta only [v'])) | (have k'' : v'.isSome = v'.isSome := rfl; clear k''; clear_value v') | skip))
    | split)

theorem execGetCertificate_keeps {P' : Prop} {o' : State} (request : List Byte) {s : State} (h : Keeps P' o' s) {t : State} (e : execGetCertificate request s = .next t) :
    Keeps P' o' t := by
  unfold execGetCertificate at e
  injection e with e
  subst e
  repeat' (first
    | with_reducible assumption
    | with_reducible apply State.spdmCertificate_keeps
    | with_reducible apply State.spdmRequest_keeps
    | ((with_reducible show ∀ y' : State, Keeps P' o' y' → _); intro y' h')
    | ((with_reducible show ∀ (_ : _) (y' : State), Keeps P' o' y' → _); intro x' y' h')
    | ((with_reducible show ∀ (_ : _) (_ : _) (y' : State), Keeps P' o' y' → _); intro x' z' y' h'))

theorem State.spdmChallenge_keeps {P' : Prop} {o' : State} (req : List Byte) {s : State} (h : Keeps P' o' s) :
    Keeps P' o' (State.spdmChallenge req s) := by
  unfold State.spdmChallenge
  repeat' (first
    | with_reducible assumption
    | with_reducible apply State.setSpdm_keeps
    | with_reducible apply State.spdmError_keeps
    | with_reducible apply State.spdmSend_keeps
    | with_reducible apply State.drawBytes_keeps
    | ((first | intro v' | extract_lets -underBinder +onlyGivenNames v'); (first | (refine_lift have k' : Keeps P' o' v' := ?_; ?_; (on_goal 1 => try clear_value v'); (on_goal 2 => dsimp -zeta only [v'])) | (refine_lift have k' : Keeps P' o' v'.2 := ?_; ?_; (on_goal 1 => try clear_value v'); (on_goal 2 => dsimp -zeta only [v'])) | (have k'' : v'.isSome = v'.isSome := rfl; clear k''; clear_value v') | skip))
    | split)

theorem execChallenge_keeps {P' : Prop} {o' : State} (request : List Byte) {s : State} (h : Keeps P' o' s) {t : State} (e : execChallenge request s = .next t) :
    Keeps P' o' t := by
  unfold execChallenge at e
  injection e with e
  subst e
  repeat' (first
    | with_reducible assumption
    | with_reducible apply State.spdmChallenge_keeps
    | with_reducible apply State.spdmRequest_keeps
    | ((with_reducible show ∀ y' : State, Keeps P' o' y' → _); intro y' h')
    | ((with_reducible show ∀ (_ : _) (y' : State), Keeps P' o' y' → _); intro x' y' h')
    | ((with_reducible show ∀ (_ : _) (_ : _) (y' : State), Keeps P' o' y' → _); intro x' z' y' h'))

theorem State.spdmMeasurements_keeps {P' : Prop} {o' : State} (req : List Byte) {s : State} (h : Keeps P' o' s) :
    Keeps P' o' (State.spdmMeasurements req s) := by
  unfold State.spdmMeasurements
  repeat' (first
    | with_reducible assumption
    | with_reducible apply State.setSpdm_keeps
    | with_reducible apply State.spdmSend_keeps
    | with_reducible apply State.drawBytes_keeps
    | ((first | intro v' | extract_lets -underBinder +onlyGivenNames v'); (first | (refine_lift have k' : Keeps P' o' v' := ?_; ?_; (on_goal 1 => try clear_value v'); (on_goal 2 => dsimp -zeta only [v'])) | (refine_lift have k' : Keeps P' o' v'.2 := ?_; ?_; (on_goal 1 => try clear_value v'); (on_goal 2 => dsimp -zeta only [v'])) | (have k'' : v'.isSome = v'.isSome := rfl; clear k''; clear_value v') | skip))
    | split)

theorem execGetMeasurements_keeps {P' : Prop} {o' : State} (request : List Byte) {s : State} (h : Keeps P' o' s) {t : State} (e : execGetMeasurements request s = .next t) :
    Keeps P' o' t := by
  unfold execGetMeasurements at e
  injection e with e
  subst e
  repeat' (first
    | with_reducible assumption
    | with_reducible apply State.spdmMeasurements_keeps
    | with_reducible apply State.spdmRequest_keeps
    | ((with_reducible show ∀ y' : State, Keeps P' o' y' → _); intro y' h')
    | ((with_reducible show ∀ (_ : _) (y' : State), Keeps P' o' y' → _); intro x' y' h')
    | ((with_reducible show ∀ (_ : _) (_ : _) (y' : State), Keeps P' o' y' → _); intro x' z' y' h')
    | split)

theorem State.spdmChunk_keeps {P' : Prop} {o' : State} (req : List Byte) {s : State} (h : Keeps P' o' s) :
    Keeps P' o' (State.spdmChunk req s) := by
  unfold State.spdmChunk
  repeat' (first
    | with_reducible assumption
    | with_reducible apply State.doe_keeps
    | with_reducible apply State.setSpdm_keeps
    | with_reducible apply State.spdmError_keeps
    | ((first | intro v' | extract_lets -underBinder +onlyGivenNames v'); (first | (refine_lift have k' : Keeps P' o' v' := ?_; ?_; (on_goal 1 => try clear_value v'); (on_goal 2 => dsimp -zeta only [v'])) | (have k'' : v'.isSome = v'.isSome := rfl; clear k''; clear_value v') | skip))
    | split
    | (clear_value *; split))

theorem execChunkGet_keeps {P' : Prop} {o' : State} (request : List Byte) {s : State} (h : Keeps P' o' s) {t : State} (e : execChunkGet request s = .next t) :
    Keeps P' o' t := by
  unfold execChunkGet at e
  injection e with e
  subst e
  repeat' (first
    | with_reducible assumption
    | with_reducible apply State.spdmChunk_keeps
    | with_reducible apply State.spdmRequest_keeps
    | ((with_reducible show ∀ y' : State, Keeps P' o' y' → _); intro y' h')
    | ((with_reducible show ∀ (_ : _) (y' : State), Keeps P' o' y' → _); intro x' y' h')
    | ((with_reducible show ∀ (_ : _) (_ : _) (y' : State), Keeps P' o' y' → _); intro x' z' y' h'))

end Sys2Proof.Machine
end

