-- ==== Sys2Proof/Laws/KeepsIdle.lean ====
section
/-! SUPPORT. What each operation of Machine/Idle.lean keeps (Laws/Keeps.lean). -/

set_option linter.unusedTactic false
set_option linter.unreachableTactic false

namespace Sys2Proof.Machine

theorem State.drivePin_keeps {P' : Prop} {o' : State} {s : State} (h : Keeps P' o' s) (n k : Nat) (v : Bool) :
    Keeps P' o' (State.drivePin s n k v) := by
  unfold State.drivePin
  repeat' (first
    | with_reducible assumption
    | with_reducible apply State.decide_keeps
    | ((with_reducible refine State.setHost_keeps ?_ _ ?_); rotate_left; · exact rfl)
    | ((first | intro v' | extract_lets -underBinder +onlyGivenNames v'); (first | (refine_lift have k' : Keeps P' o' v' := ?_; ?_; (on_goal 1 => try clear_value v'); (on_goal 2 => dsimp -zeta only [v'])) | (have k'' : v'.isSome = v'.isSome := rfl; clear k''; clear_value v') | skip))
    | split)

theorem State.pinTurn_keeps {P' : Prop} {o' : State} (i k : Nat) {s : State} (h : Keeps P' o' s) (n : Nat) :
    Keeps P' o' (State.pinTurn i k s n) := by
  unfold State.pinTurn
  repeat' (first
    | with_reducible assumption
    | with_reducible apply State.drivePin_keeps
    | with_reducible apply State.drawBool_keeps
    | ((first | intro v' | extract_lets -underBinder +onlyGivenNames v'); (first | (refine_lift have k' : Keeps P' o' v' := ?_; ?_; (on_goal 1 => try clear_value v'); (on_goal 2 => dsimp -zeta only [v'])) | (refine_lift have k' : Keeps P' o' v'.2 := ?_; ?_; (on_goal 1 => try clear_value v'); (on_goal 2 => dsimp -zeta only [v'])) | (have k'' : v'.isSome = v'.isSome := rfl; clear k''; clear_value v') | skip))
    | split
    | (clear_value *; split))

theorem State.obsTurn_keeps {P' : Prop} {o' : State} (i : Nat) {s : State} (h : Keeps P' o' s) (c : Nat) :
    Keeps P' o' (State.obsTurn i s c) := by
  unfold State.obsTurn
  repeat' (first
    | with_reducible assumption
    | with_reducible apply State.decide_keeps
    | ((with_reducible refine State.setHost_keeps ?_ _ ?_); rotate_left; · exact rfl)
    | ((first | intro v' | extract_lets -underBinder +onlyGivenNames v'); (first | (refine_lift have k' : Keeps P' o' v' := ?_; ?_; (on_goal 1 => try clear_value v'); (on_goal 2 => dsimp -zeta only [v'])) | (have k'' : v'.isSome = v'.isSome := rfl; clear k''; clear_value v') | skip))
    | split)

theorem State.tickBy_keeps {P' : Prop} {o' : State} {s : State} (h : Keeps P' o' s) (i k : Nat) :
    Keeps P' o' (State.tickBy s i k) := by
  unfold State.tickBy
  repeat' (first
    | with_reducible assumption
    | with_reducible apply State.obsTurn_keeps
    | with_reducible apply State.pinTurn_keeps
    | with_reducible apply State.tickStation_keeps
    | ((with_reducible apply Keeps.foldl); intro s' x' h')
    | ((with_reducible apply Keeps.foldl_fst); intro s' x' h')
    | ((with_reducible apply Keeps.foldl_snd); intro s' x' h')
    | ((with_reducible refine State.bump_keeps ?_ _ _ _ ?_); rotate_left; · exact rfl)
    | ((with_reducible refine State.setStn_keeps ?_ _ _ ?_); rotate_left; · exact id)
    | ((first | intro v' | extract_lets -underBinder +onlyGivenNames v'); (first | (refine_lift have k' : Keeps P' o' v' := ?_; ?_; (on_goal 1 => try clear_value v'); (on_goal 2 => dsimp -zeta only [v'])) | (have k'' : v'.isSome = v'.isSome := rfl; clear k''; clear_value v') | skip))
    | split
    | (clear_value *; split))

theorem State.tick_keeps {P' : Prop} {o' : State} {s : State} (h : Keeps P' o' s) (i : Nat) :
    Keeps P' o' (State.tick s i) := by
  unfold State.tick
  repeat' (first
    | with_reducible assumption
    | with_reducible apply State.tickBy_keeps
    | with_reducible apply State.drawNat_keeps)

theorem State.serveBank_keeps {P' : Prop} {o' : State} {s : State} (h : Keeps P' o' s) (k : Nat) :
    Keeps P' o' (State.serveBank s k) := by
  unfold State.serveBank
  repeat' (first
    | with_reducible assumption
    | with_reducible apply State.setCfs_keeps)

theorem State.serveStore_keeps {P' : Prop} {o' : State} {s : State} (h : Keeps P' o' s) :
    Keeps P' o' (State.serveStore s) := by
  unfold State.serveStore
  repeat' (first
    | with_reducible assumption
    | with_reducible apply State.gapTurn_keeps
    | with_reducible apply State.serveBank_keeps
    | with_reducible apply State.setCfs_keeps
    | ((with_reducible apply Keeps.foldl); intro s' x' h')
    | ((with_reducible apply Keeps.foldl_fst); intro s' x' h')
    | ((with_reducible apply Keeps.foldl_snd); intro s' x' h')
    | ((first | intro v' | extract_lets -underBinder +onlyGivenNames v'); (first | (refine_lift have k' : Keeps P' o' v' := ?_; ?_; (on_goal 1 => try clear_value v'); (on_goal 2 => dsimp -zeta only [v'])) | (have k'' : v'.isSome = v'.isSome := rfl; clear k''; clear_value v') | skip))
    | split)

theorem State.carryOn_keeps {P' : Prop} {o' : State} {s : State} (h : Keeps P' o' s) :
    Keeps P' o' (State.carryOn s) := by
  unfold State.carryOn
  repeat' (first
    | with_reducible assumption
    | with_reducible apply State.traffic_keeps
    | ((with_reducible apply Keeps.foldl); intro s' x' h')
    | ((with_reducible apply Keeps.foldl_fst); intro s' x' h')
    | ((with_reducible apply Keeps.foldl_snd); intro s' x' h')
    | with_reducible apply State.drawNat_keeps
    | split)

theorem State.idle_keeps {P' : Prop} {o' : State} {s : State} (h : Keeps P' o' s) :
    Keeps P' o' (State.idle s) := by
  unfold State.idle
  repeat' (first
    | with_reducible assumption
    | with_reducible apply State.carryOn_keeps
    | with_reducible apply State.serveStore_keeps
    | with_reducible apply State.tick_keeps
    | ((with_reducible apply Keeps.foldl); intro s' x' h')
    | ((with_reducible apply Keeps.foldl_fst); intro s' x' h')
    | ((with_reducible apply Keeps.foldl_snd); intro s' x' h'))

end Sys2Proof.Machine
end

