-- ==== Sys2Proof/Laws/KeepsSideband.lean ====
section
/-! SUPPORT. What each operation of Machine/Sideband.lean keeps (Laws/Keeps.lean). -/

set_option linter.unusedTactic false
set_option linter.unreachableTactic false

namespace Sys2Proof.Machine

theorem State.smbusAt_keeps {P' : Prop} {o' : State} {s : State} (h : Keeps P' o' s) (ms : Nat) {run : State} (h : Keeps P' o' run) :
    Keeps P' o' (State.smbusAt s ms run) := by
  unfold State.smbusAt
  repeat' (first
    | with_reducible assumption
    | with_reducible apply State.send_keeps
    | split)

theorem execSmbusOffsetWrite_keeps {P' : Prop} {o' : State} (ms offset : Nat) {s : State} (h : Keeps P' o' s) {t : State} (e : execSmbusOffsetWrite ms offset s = .next t) :
    Keeps P' o' t := by
  unfold execSmbusOffsetWrite at e
  injection e with e
  subst e
  repeat' (first
    | with_reducible assumption
    | with_reducible apply State.setSecurity_keeps
    | with_reducible apply State.smbusAt_keeps)

theorem State.smbusBytes_keeps {P' : Prop} {o' : State} {s : State} (h : Keeps P' o' s) (n : Nat) :
    Keeps P' o' (State.smbusBytes s n) := by
  unfold State.smbusBytes
  repeat' (first
    | with_reducible assumption
    | with_reducible apply State.send_keeps
    | with_reducible apply State.setSecurity_keeps
    | ((first | intro v' | extract_lets -underBinder +onlyGivenNames v'); (first | (refine_lift have k' : Keeps P' o' v' := ?_; ?_; (on_goal 1 => try clear_value v'); (on_goal 2 => dsimp -zeta only [v'])) | (have k'' : v'.isSome = v'.isSome := rfl; clear k''; clear_value v') | skip))
    | split)

theorem execSmbusRead_keeps {P' : Prop} {o' : State} (ms n : Nat) {s : State} (h : Keeps P' o' s) {t : State} (e : execSmbusRead ms n s = .next t) :
    Keeps P' o' t := by
  unfold execSmbusRead at e
  injection e with e
  subst e
  repeat' (first
    | with_reducible assumption
    | with_reducible apply State.smbusAt_keeps
    | with_reducible apply State.smbusBytes_keeps)

theorem State.setTap_keeps {P' : Prop} {o' : State} {s : State} (h : Keeps P' o' s) (d : Nat) (x : Tap) :
    Keeps P' o' (State.setTap s d x) := by
  unfold State.setTap
  repeat' (first
    | with_reducible assumption
    | with_reducible apply State.setSecurity_keeps)

theorem State.scanned_keeps {P' : Prop} {o' : State} {s : State} (h : Keeps P' o' s) (d : Nat) (x : Tap) (captured tdi : List Bool) :
    Keeps P' o' (State.scanned s d x captured tdi) := by
  unfold State.scanned
  repeat' (first
    | with_reducible assumption
    | with_reducible apply State.send_keeps
    | with_reducible apply State.setTap_keeps)

theorem State.bypassed_keeps {P' : Prop} {o' : State} {s : State} (h : Keeps P' o' s) (d code : Nat) (tdi : List Bool) :
    Keeps P' o' (State.bypassed s d code tdi) := by
  unfold State.bypassed
  repeat' (first
    | with_reducible assumption
    | with_reducible apply State.scanned_keeps)

theorem execIdcode_keeps {P' : Prop} {o' : State} (d : DieId) (_pins tdi : List Bool) {s : State} (h : Keeps P' o' s) {t : State} (e : execIdcode d _pins tdi s = .next t) :
    Keeps P' o' t := by
  unfold execIdcode at e
  injection e with e
  subst e
  repeat' (first
    | with_reducible assumption
    | with_reducible apply State.scanned_keeps
    | split)

theorem State.sampled_keeps {P' : Prop} {o' : State} {s : State} (h : Keeps P' o' s) (d code : Nat) (driving : Bool) (pins tdi : List Bool) :
    Keeps P' o' (State.sampled s d code driving pins tdi) := by
  unfold State.sampled
  repeat' (first
    | with_reducible assumption
    | with_reducible apply State.scanned_keeps)

theorem execSamplePreload_keeps {P' : Prop} {o' : State} (d : DieId) (pins tdi : List Bool) {s : State} (h : Keeps P' o' s) {t : State} (e : execSamplePreload d pins tdi s = .next t) :
    Keeps P' o' t := by
  unfold execSamplePreload at e
  injection e with e
  subst e
  repeat' (first
    | with_reducible assumption
    | with_reducible apply State.sampled_keeps
    | split)

theorem State.scanMode_keeps {P' : Prop} {o' : State} {s : State} (h : Keeps P' o' s) (d code : Nat) (tdi : List Bool) {run : State} (h : Keeps P' o' run) :
    Keeps P' o' (State.scanMode s d code tdi run) := by
  unfold State.scanMode
  repeat' (first
    | with_reducible assumption
    | with_reducible apply State.bypassed_keeps
    | split)

theorem execExtest_keeps {P' : Prop} {o' : State} (d : DieId) (pins tdi : List Bool) {s : State} (h : Keeps P' o' s) {t : State} (e : execExtest d pins tdi s = .next t) :
    Keeps P' o' t := by
  unfold execExtest at e
  injection e with e
  subst e
  repeat' (first
    | with_reducible assumption
    | with_reducible apply State.sampled_keeps
    | with_reducible apply State.scanMode_keeps)

theorem execClamp_keeps {P' : Prop} {o' : State} (d : DieId) (_pins tdi : List Bool) {s : State} (h : Keeps P' o' s) {t : State} (e : execClamp d _pins tdi s = .next t) :
    Keeps P' o' t := by
  unfold execClamp at e
  injection e with e
  subst e
  repeat' (first
    | with_reducible assumption
    | with_reducible apply State.scanMode_keeps
    | with_reducible apply State.scanned_keeps)

theorem execHighz_keeps {P' : Prop} {o' : State} (d : DieId) (_pins tdi : List Bool) {s : State} (h : Keeps P' o' s) {t : State} (e : execHighz d _pins tdi s = .next t) :
    Keeps P' o' t := by
  unfold execHighz at e
  injection e with e
  subst e
  repeat' (first
    | with_reducible assumption
    | with_reducible apply State.scanMode_keeps
    | with_reducible apply State.scanned_keeps)

theorem execBypass_keeps {P' : Prop} {o' : State} (d : DieId) (code : Nat) (tdi : List Bool) {s : State} (h : Keeps P' o' s) {t : State} (e : execBypass d code tdi s = .next t) :
    Keeps P' o' t := by
  unfold execBypass at e
  injection e with e
  subst e
  repeat' (first
    | with_reducible assumption
    | with_reducible apply State.bypassed_keeps
    | split)

end Sys2Proof.Machine
end

