-- ==== Sys2Proof/Laws/Exec.lean ====
section
/-! SUPPORT. What every command and every step keeps (Laws/Keeps.lean), said once. -/

namespace Sys2Proof.Machine

/-- The command leaves the privileged lock as it is: every command but the four that may change it. -/
def leavesLock (s : State) : Instr → Prop
  | .privLockSet => s.fget F.glbPrivLockLock 0 = 1
  | .registerWrite _ _ _ _ => s.fget F.glbPrivLockLock 0 = 1
  | .unlockVerifyDone => s.unlockResult ≠ 1
  | .holdUpFlushDone => False
  | _ => True

/-- A command keeps. -/
theorem exec_keeps {c : Instr} {s t : State} (e : exec c s = .next t) : Keeps (leavesLock s c) s t := by
  cases c with
  | read q => exact (execRead_keeps q (Keeps.refl _ s) e)
  | write q => exact (execWrite_keeps q (Keeps.refl _ s) e)
  | flush q => exact (execFlush_keeps q (Keeps.refl _ s) e)
  | release q => exact (execRelease_keeps q (Keeps.refl _ s) e)
  | scan q => exact (execScan_keeps q (Keeps.refl _ s) e)
  | search q => exact (execSearch_keeps q (Keeps.refl _ s) e)
  | embed q => exact (execEmbed_keeps q (Keeps.refl _ s) e)
  | ingest q => exact (execIngest_keeps q (Keeps.refl _ s) e)
  | indexPut q => exact (execIndexPut_keeps q (Keeps.refl _ s) e)
  | indexDel q => exact (execIndexDel_keeps q (Keeps.refl _ s) e)
  | run q => exact (execRun_keeps q (Keeps.refl _ s) e)
  | jobSignalHold q => exact (execJobSignalHold_keeps q (Keeps.refl _ s) e)
  | jobSignalUnhold q => exact (execJobSignalUnhold_keeps q (Keeps.refl _ s) e)
  | jobSignalEnd q => exact (execJobSignalEnd_keeps q (Keeps.refl _ s) e)
  | jobSignalWeight q => exact (execJobSignalWeight_keeps q (Keeps.refl _ s) e)
  | identifyModule q => exact (execIdentifyModule_keeps q (Keeps.refl _ s) e)
  | identifyQueueList q => exact (execIdentifyQueueList_keeps q (Keeps.refl _ s) e)
  | queueCreate q => exact (execQueueCreate_keeps q (Keeps.refl _ s) e)
  | queueReset q => exact (execQueueReset_keeps q (Keeps.refl _ s) e)
  | queueDelete q => exact (execQueueDelete_keeps q (Keeps.refl _ s) e)
  | stitch q => exact (execStitch_keeps q (Keeps.refl _ s) e)
  | unstitch q => exact (execUnstitch_keeps q (Keeps.refl _ s) e)
  | fwStageImage q => exact (execFwStageImage_keeps q (Keeps.refl _ s) e)
  | fwStageLibraryAdd q => exact (execFwStageLibraryAdd_keeps q (Keeps.refl _ s) e)
  | fwStageLibraryRemove q => exact (execFwStageLibraryRemove_keeps q (Keeps.refl _ s) e)
  | fwActivate q => exact (execFwActivate_keeps q (Keeps.refl _ s) e)
  | fwActivateNextBoot q => exact (execFwActivateNextBoot_keeps q (Keeps.refl _ s) e)
  | sanitiseBlockErase q => exact (execSanitiseBlockErase_keeps q (Keeps.refl _ s) e)
  | sanitiseOverwrite q => exact (execSanitiseOverwrite_keeps q (Keeps.refl _ s) e)
  | format q => exact (execFormat_keeps q (Keeps.refl _ s) e)
  | logGet q => exact (execLogGet_keeps q (Keeps.refl _ s) e)
  | settingSet q => exact (execSettingSet_keeps q (Keeps.refl _ s) e)
  | settingGet q => exact (execSettingGet_keeps q (Keeps.refl _ s) e)
  | spareActDramRowRepair q => exact (execSpareActDramRowRepair_keeps q (Keeps.refl _ s) e)
  | spareActLaneRowRetire q => exact (execSpareActLaneRowRetire_keeps q (Keeps.refl _ s) e)
  | spareActStationReturn q => exact (execSpareActStationReturn_keeps q (Keeps.refl _ s) e)
  | spareActErrorInjection q => exact (execSpareActErrorInjection_keeps q (Keeps.refl _ s) e)
  | fabricSetInstall q => exact (execFabricSetInstall_keeps q (Keeps.refl _ s) e)
  | fabricSetPull q => exact (execFabricSetPull_keeps q (Keeps.refl _ s) e)
  | fabricSetClear q => exact (execFabricSetClear_keeps q (Keeps.refl _ s) e)
  | shunt q => exact (execShunt_keeps q (Keeps.refl _ s) e)
  | unknownOpcode q => exact (execUnknownOpcode_keeps q (Keeps.refl _ s) e)
  | sqEntryUncorrectable q => exact (execSqEntryUncorrectable_keeps q (Keeps.refl _ s) e)
  | sqTailDoorbell q tail => exact (execSqTailDoorbell_keeps q tail (Keeps.refl _ s) e)
  | cqHeadDoorbell q head => exact (execCqHeadDoorbell_keeps q head (Keeps.refl _ s) e)
  | completionArrival place late => exact (execCompletionArrival_keeps place late (Keeps.refl _ s) e)
  | commandTimeout place => exact (execCommandTimeout_keeps place (Keeps.refl _ s) e)
  | heldCompletionPost cq => exact (execHeldCompletionPost_keeps cq (Keeps.refl _ s) e)
  | cqAggregationTimeout cq => exact (execCqAggregationTimeout_keeps cq (Keeps.refl _ s) e)
  | adminQueueEnable => exact (execAdminQueueEnable_keeps (Keeps.refl _ s) e)
  | adminQueueDisable => exact (execAdminQueueDisable_keeps (Keeps.refl _ s) e)
  | adminQueueReset => exact (execAdminQueueReset_keeps (Keeps.refl _ s) e)
  | jobBind j slot mask => exact (execJobBind_keeps j slot mask (Keeps.refl _ s) e)
  | jobUnbind w => exact (execJobUnbind_keeps w (Keeps.refl _ s) e)
  | jobExpressOn w => exact (execJobExpressOn_keeps w (Keeps.refl _ s) e)
  | jobExpressOff w => exact (execJobExpressOff_keeps w (Keeps.refl _ s) e)
  | jobCtlReservedCmd value => exact (execJobCtlReservedCmd_keeps value (Keeps.refl _ s) e)
  | expressShareWrite share => exact (execExpressShareWrite_keeps share (Keeps.refl _ s) e)
  | counterSnapshot w => exact (execCounterSnapshot_keeps w (Keeps.refl _ s) e)
  | counterClear w => exact (execCounterClear_keeps w (Keeps.refl _ s) e)
  | privLockSet => exact (execPrivLockSet_keeps (Keeps.refl _ s) e)
  | unlockNewChallenge signer => exact (execUnlockNewChallenge_keeps signer (Keeps.refl _ s) e)
  | unlockChallengeReady => exact (execUnlockChallengeReady_keeps (Keeps.refl _ s) e)
  | unlockVerify signer => exact (execUnlockVerify_keeps signer (Keeps.refl _ s) e)
  | unlockVerifyDone => exact ((execUnlockVerifyDone_keeps (P' := True) (Keeps.refl _ s) e).mono (fun h => ⟨trivial, h⟩))
  | unlockChallengeLapse => exact (execUnlockChallengeLapse_keeps (Keeps.refl _ s) e)
  | unlockBackoffEnd => exact (execUnlockBackoffEnd_keeps (Keeps.refl _ s) e)
  | signerKeyInstall signer => exact (execSignerKeyInstall_keeps signer (Keeps.refl _ s) e)
  | signerKeyRemove signer => exact (execSignerKeyRemove_keeps signer (Keeps.refl _ s) e)
  | rawReadStart => exact (execRawReadStart_keeps (Keeps.refl _ s) e)
  | rawReadDone ok data => exact (execRawReadDone_keeps ok data (Keeps.refl _ s) e)
  | stackCeLogClear n => exact (execStackCeLogClear_keeps n (Keeps.refl _ s) e)
  | stationCeLogClear st => exact (execStationCeLogClear_keeps st (Keeps.refl _ s) e)
  | lineEnable b => exact (execLineEnable_keeps b (Keeps.refl _ s) e)
  | lineDisable b => exact (execLineDisable_keeps b (Keeps.refl _ s) e)
  | lineRetrainRequest b => exact (execLineRetrainRequest_keeps b (Keeps.refl _ s) e)
  | eventCfgWrite value => exact (execEventCfgWrite_keeps value (Keeps.refl _ s) e)
  | registerWrite bar offset size value => exact (execRegisterWrite_keeps bar offset size value (Keeps.refl _ s) e)
  | counterLowHalfRead offset => exact (execCounterLowHalfRead_keeps offset (Keeps.refl _ s) e)
  | clearOnRead offset => exact (execClearOnRead_keeps offset (Keeps.refl _ s) e)
  | mirrorRead offset size => exact (execMirrorRead_keeps offset size (Keeps.refl _ s) e)
  | tmxSampleRead pushed => exact (execTmxSampleRead_keeps pushed (Keeps.refl _ s) e)
  | mirrorPushStation st => exact (execMirrorPushStation_keeps st (Keeps.refl _ s) e)
  | mirrorPushJob d => exact (execMirrorPushJob_keeps d (Keeps.refl _ s) e)
  | configRequest ms offset => exact (execConfigRequest_keeps ms offset (Keeps.refl _ s) e)
  | hdmDecoderCommit base => exact (execHdmDecoderCommit_keeps base (Keeps.refl _ s) e)
  | cxlMemLoad addr => exact (execCxlMemLoad_keeps addr (Keeps.refl _ s) e)
  | cxlMemStore addr data => exact (execCxlMemStore_keeps addr data (Keeps.refl _ s) e)
  | queueWindowStore addr data => exact (execQueueWindowStore_keeps addr data (Keeps.refl _ s) e)
  | queueWindowLoad addr => exact (execQueueWindowLoad_keeps addr (Keeps.refl _ s) e)
  | globalPersistentFlush => exact (execGlobalPersistentFlush_keeps (Keeps.refl _ s) e)
  | linkTrained width rate => exact (execLinkTrained_keeps width rate (Keeps.refl _ s) e)
  | linkDown => exact (execLinkDown_keeps (Keeps.refl _ s) e)
  | hotReset => exact (execHotReset_keeps (Keeps.refl _ s) e)
  | perstAssert => exact (execPerstAssert_keeps (Keeps.refl _ s) e)
  | perstDeassert refclk => exact (execPerstDeassert_keeps refclk (Keeps.refl _ s) e)
  | doeDiscovery index => exact (execDoeDiscovery_keeps index (Keeps.refl _ s) e)
  | cdatRead handle => exact (execCdatRead_keeps handle (Keeps.refl _ s) e)
  | getVersion request => exact (execGetVersion_keeps request (Keeps.refl _ s) e)
  | getCapabilities request => exact (execGetCapabilities_keeps request (Keeps.refl _ s) e)
  | negotiateAlgorithms request => exact (execNegotiateAlgorithms_keeps request (Keeps.refl _ s) e)
  | getDigests request => exact (execGetDigests_keeps request (Keeps.refl _ s) e)
  | getCertificate request => exact (execGetCertificate_keeps request (Keeps.refl _ s) e)
  | challenge request => exact (execChallenge_keeps request (Keeps.refl _ s) e)
  | getMeasurements request => exact (execGetMeasurements_keeps request (Keeps.refl _ s) e)
  | chunkGet request => exact (execChunkGet_keeps request (Keeps.refl _ s) e)
  | doeOversizeRequest length => exact (execDoeOversizeRequest_keeps length (Keeps.refl _ s) e)
  | smbusOffsetWrite ms offset => exact (execSmbusOffsetWrite_keeps ms offset (Keeps.refl _ s) e)
  | smbusRead ms n => exact (execSmbusRead_keeps ms n (Keeps.refl _ s) e)
  | extest d pins tdi => exact (execExtest_keeps d pins tdi (Keeps.refl _ s) e)
  | idcode d pins tdi => exact (execIdcode_keeps d pins tdi (Keeps.refl _ s) e)
  | samplePreload d pins tdi => exact (execSamplePreload_keeps d pins tdi (Keeps.refl _ s) e)
  | clamp d pins tdi => exact (execClamp_keeps d pins tdi (Keeps.refl _ s) e)
  | highz d pins tdi => exact (execHighz_keeps d pins tdi (Keeps.refl _ s) e)
  | bypass d code tdi => exact (execBypass_keeps d code tdi (Keeps.refl _ s) e)
  | presMate millivolts => exact (execPresMate_keeps millivolts (Keeps.refl _ s) e)
  | inputStageClose => exact (execInputStageClose_keeps (Keeps.refl _ s) e)
  | suppliesValid scanEn => exact (execSuppliesValid_keeps scanEn (Keeps.refl _ s) e)
  | islandClockStart x => exact (execIslandClockStart_keeps x (Keeps.refl _ s) e)
  | checkerSelfTest x checker failed => exact (execCheckerSelfTest_keeps x checker failed (Keeps.refl _ s) e)
  | firmwareBootVerify => exact (execFirmwareBootVerify_keeps (Keeps.refl _ s) e)
  | mapRebuild => exact (execMapRebuild_keeps (Keeps.refl _ s) e)
  | sanitiseResume => exact (execSanitiseResume_keeps (Keeps.refl _ s) e)
  | baseTimetableStitch => exact (execBaseTimetableStitch_keeps (Keeps.refl _ s) e)
  | serviceEntry ms => exact (execServiceEntry_keeps ms (Keeps.refl _ s) e)
  | inputDip => exact (execInputDip_keeps (Keeps.refl _ s) e)
  | powerLoss => exact (execPowerLoss_keeps (Keeps.refl _ s) e)
  | presBreak => exact (execPresBreak_keeps (Keeps.refl _ s) e)
  | holdUpFlushDone => exact (execHoldUpFlushDone_keeps (P' := True) (Keeps.refl _ s) e)
  | powerReturn => exact (execPowerReturn_keeps (Keeps.refl _ s) e)
  | holdupEnergyMeasure millijoules => exact (execHoldupEnergyMeasure_keeps millijoules (Keeps.refl _ s) e)
  | stringTest string millijoules ok => exact (execStringTest_keeps string millijoules ok (Keeps.refl _ s) e)
  | sensorUpdate temps inlet outlet millivolts deciwatts => exact (execSensorUpdate_keeps temps inlet outlet millivolts deciwatts (Keeps.refl _ s) e)
  | serviceEnd cause d => exact (execServiceEnd_keeps cause d (Keeps.refl _ s) e)
  | managementCoreFailure d => exact (execManagementCoreFailure_keeps d (Keeps.refl _ s) e)
  | standbyCoreRestart d ok => exact (execStandbyCoreRestart_keeps d ok (Keeps.refl _ s) e)
  | dieHandover d => exact (execDieHandover_keeps d (Keeps.refl _ s) e)
  | stitchContainerLoaded => exact (execStitchContainerLoaded_keeps (Keeps.refl _ s) e)
  | stitchImagePlaced => exact (execStitchImagePlaced_keeps (Keeps.refl _ s) e)
  | batchWaitExpiry j => exact (execBatchWaitExpiry_keeps j (Keeps.refl _ s) e)
  | batchPlaceFree j => exact (execBatchPlaceFree_keeps j (Keeps.refl _ s) e)
  | dispatcherVisit st => exact (execDispatcherVisit_keeps st (Keeps.refl _ s) e)
  | balanceExhausted st => exact (execBalanceExhausted_keeps st (Keeps.refl _ s) e)
  | switchPartEnd st n => exact (execSwitchPartEnd_keeps st n (Keeps.refl _ s) e)
  | swapEnd st => exact (execSwapEnd_keeps st (Keeps.refl _ s) e)
  | stationEndMessage st j => exact (execStationEndMessage_keeps st j (Keeps.refl _ s) e)
  | abandonReport st j => exact (execAbandonReport_keeps st j (Keeps.refl _ s) e)
  | passIssue st n => exact (execPassIssue_keeps st n (Keeps.refl _ s) e)
  | passVerdict st n => exact (execPassVerdict_keeps st n (Keeps.refl _ s) e)
  | widePassIssue st n => exact (execWidePassIssue_keeps st n (Keeps.refl _ s) e)
  | passSpanEnd st n => exact (execPassSpanEnd_keeps st n (Keeps.refl _ s) e)
  | laneTailRow st => exact (execLaneTailRow_keeps st (Keeps.refl _ s) e)
  | laneRowRetireStart st n => exact (execLaneRowRetireStart_keeps st n (Keeps.refl _ s) e)
  | laneRowRetireDone st n => exact (execLaneRowRetireDone_keeps st n (Keeps.refl _ s) e)
  | copyIssue st n => exact (execCopyIssue_keeps st n (Keeps.refl _ s) e)
  | copyRequestSend st n seq => exact (execCopyRequestSend_keeps st n seq (Keeps.refl _ s) e)
  | copyRequestData st n seq offset => exact (execCopyRequestData_keeps st n seq offset (Keeps.refl _ s) e)
  | copyComplete st n seq => exact (execCopyComplete_keeps st n seq (Keeps.refl _ s) e)
  | generationConfirm st n seq page => exact (execGenerationConfirm_keeps st n seq page (Keeps.refl _ s) e)
  | streamFetch st place stream => exact (execStreamFetch_keeps st place stream (Keeps.refl _ s) e)
  | streamFetchData st place stream k => exact (execStreamFetchData_keeps st place stream k (Keeps.refl _ s) e)
  | tierEntryLookup d page => exact (execTierEntryLookup_keeps d page (Keeps.refl _ s) e)
  | promotionComplete page => exact (execPromotionComplete_keeps page (Keeps.refl _ s) e)
  | stackRead addr fold errs => exact (execStackRead_keeps addr fold errs (Keeps.refl _ s) e)
  | contentWriteTurn page => exact (execContentWriteTurn_keeps page (Keeps.refl _ s) e)
  | writeBackTimer page => exact (execWriteBackTimer_keeps page (Keeps.refl _ s) e)
  | dirtyLimitRelease page => exact (execDirtyLimitRelease_keeps page (Keeps.refl _ s) e)
  | dramAddressClassReread n word again => exact (execDramAddressClassReread_keeps n word again (Keeps.refl _ s) e)
  | mirrorTakeover n => exact (execMirrorTakeover_keeps n (Keeps.refl _ s) e)
  | reserveRebuildDone n => exact (execReserveRebuildDone_keeps n (Keeps.refl _ s) e)
  | windowLayerLoadStart j => exact (execWindowLayerLoadStart_keeps j (Keeps.refl _ s) e)
  | windowLayerLoaded j => exact (execWindowLayerLoaded_keeps j (Keeps.refl _ s) e)
  | windowLayerRelease j => exact (execWindowLayerRelease_keeps j (Keeps.refl _ s) e)
  | walkerContextAssign place => exact (execWalkerContextAssign_keeps place (Keeps.refl _ s) e)
  | sidingBatchTimeout root => exact (execSidingBatchTimeout_keeps root (Keeps.refl _ s) e)
  | listArrival st ctx id => exact (execListArrival_keeps st ctx id (Keeps.refl _ s) e)
  | rerankVectorArrival st ctx id => exact (execRerankVectorArrival_keeps st ctx id (Keeps.refl _ s) e)
  | indexPutResume place => exact (execIndexPutResume_keeps place (Keeps.refl _ s) e)
  | shuntPrepare place => exact (execShuntPrepare_keeps place (Keeps.refl _ s) e)
  | scanContextAssign place => exact (execScanContextAssign_keeps place (Keeps.refl _ s) e)
  | scanWorkUnit place st => exact (execScanWorkUnit_keeps place st (Keeps.refl _ s) e)
  | lineSignalDetect b => exact (execLineSignalDetect_keeps b (Keeps.refl _ s) e)
  | lineRetryTimer b => exact (execLineRetryTimer_keeps b (Keeps.refl _ s) e)
  | lineTrainingLock b => exact (execLineTrainingLock_keeps b (Keeps.refl _ s) e)
  | lineTrainingTimeout b => exact (execLineTrainingTimeout_keeps b (Keeps.refl _ s) e)
  | identSendTimer b => exact (execIdentSendTimer_keeps b (Keeps.refl _ s) e)
  | identReceive b body => exact (execIdentReceive_keeps b body (Keeps.refl _ s) e)
  | lineLossOfLock b => exact (execLineLossOfLock_keeps b (Keeps.refl _ s) e)
  | codewordErrorBurst b => exact (execCodewordErrorBurst_keeps b (Keeps.refl _ s) e)
  | flitTransmit b => exact (execFlitTransmit_keeps b (Keeps.refl _ s) e)
  | flitReceive b flit spoiled corrected uncorrectable => exact (execFlitReceive_keeps b flit spoiled corrected uncorrectable (Keeps.refl _ s) e)
  | replayTimeout b => exact (execReplayTimeout_keeps b (Keeps.refl _ s) e)
  | linkStateTimer => exact (execLinkStateTimer_keeps (Keeps.refl _ s) e)
  | linkState b => exact (execLinkState_keeps b (Keeps.refl _ s) e)
  | dispatch b => exact (execDispatch_keeps b (Keeps.refl _ s) e)
  | return_ b => exact (execReturn_keeps b (Keeps.refl _ s) e)
  | copyReq b => exact (execCopyReq_keeps b (Keeps.refl _ s) e)
  | copyData b => exact (execCopyData_keeps b (Keeps.refl _ s) e)
  | stepAbort b => exact (execStepAbort_keeps b (Keeps.refl _ s) e)
  | detourFail b => exact (execDetourFail_keeps b (Keeps.refl _ s) e)
  | packetForward b => exact (execPacketForward_keeps b (Keeps.refl _ s) e)
  | stepWaitExpiry n => exact (execStepWaitExpiry_keeps n (Keeps.refl _ s) e)
  | stepTimeout n => exact (execStepTimeout_keeps n (Keeps.refl _ s) e)
  | cableMate b memory => exact (execCableMate_keeps b memory (Keeps.refl _ s) e)
  | cableRemove b => exact (execCableRemove_keeps b (Keeps.refl _ s) e)
  | cablePowerFault b => exact (execCablePowerFault_keeps b (Keeps.refl _ s) e)
  | cableRefresh b memory => exact (execCableRefresh_keeps b memory (Keeps.refl _ s) e)
  | flashReadIssue id => exact (execFlashReadIssue_keeps id (Keeps.refl _ s) e)
  | flashReadDone id step ok answer us ifErrors => exact (execFlashReadDone_keeps id step ok answer us ifErrors (Keeps.refl _ s) e)
  | readAroundThreshold id => exact (execReadAroundThreshold_keeps id (Keeps.refl _ s) e)
  | readAroundDone id ok us => exact (execReadAroundDone_keeps id ok us (Keeps.refl _ s) e)
  | eraseResume sec => exact (execEraseResume_keeps sec (Keeps.refl _ s) e)
  | eraseDone sec failed => exact (execEraseDone_keeps sec failed (Keeps.refl _ s) e)
  | unitStageTimeout unit => exact (execUnitStageTimeout_keeps unit (Keeps.refl _ s) e)
  | unitProgramDone unit failed => exact (execUnitProgramDone_keeps unit failed (Keeps.refl _ s) e)
  | mergeVerifyDone lsec => exact (execMergeVerifyDone_keeps lsec (Keeps.refl _ s) e)
  | sectionEraseStart sec => exact (execSectionEraseStart_keeps sec (Keeps.refl _ s) e)
  | checkpointTimer => exact (execCheckpointTimer_keeps (Keeps.refl _ s) e)
  | patrolReadTimer sec unit => exact (execPatrolReadTimer_keeps sec unit (Keeps.refl _ s) e)
  | cfsProgramDone bad0 bad1 => exact (execCfsProgramDone_keeps bad0 bad1 (Keeps.refl _ s) e)
  | cfsEraseDone dev sector ok => exact (execCfsEraseDone_keeps dev sector ok (Keeps.refl _ s) e)
  | cfsRead island sector fetch ok0 ok1 => exact (execCfsRead_keeps island sector fetch ok0 ok1 (Keeps.refl _ s) e)
  | eccWriteBack island word => exact (execEccWriteBack_keeps island word (Keeps.refl _ s) e)
  | patrolScrubStep n addr fold errs => exact (execPatrolScrubStep_keeps n addr fold errs (Keeps.refl _ s) e)
  | sramScrubStep x mem line errs => exact (execSramScrubStep_keeps x mem line errs (Keeps.refl _ s) e)
  | dramRowRepairDone n => exact (execDramRowRepairDone_keeps n (Keeps.refl _ s) e)
  | sramRepair x array column target => exact (execSramRepair_keeps x array column target (Keeps.refl _ s) e)
  | hostReadCompletion place outcome data => exact (execHostReadCompletion_keeps place outcome data (Keeps.refl _ s) e)
  | storeCompared differs => exact (execStoreCompared_keeps differs (Keeps.refl _ s) e)
  | measurementRecomputeDone index => exact (execMeasurementRecomputeDone_keeps index (Keeps.refl _ s) e)

/-- A step keeps, apart from the queue. -/
theorem step_keeps {s t : State} (e : step s = .next t) :
    Keeps (∀ c rest, s.pending = c :: rest → leavesLock { s with pending := rest } c) { s with pending := s.pending.tail } t := by
  unfold step at e
  split at e
  · next h =>
    injection e with e
    subst e
    have : ({ s with pending := s.pending.tail } : State) = s := by rw [h]; exact (by cases s; simp_all)
    rw [this]
    exact State.idle_keeps (Keeps.refl _ s)
  · next c rest h =>
    have k := exec_keeps e
    rw [h]
    exact k.mono (fun f => f c rest rfl)

end Sys2Proof.Machine
end

