-- ==== Sys2Proof/WellFormed.lean ====
section
/-! DEFINITION. Which commands are well formed: the relations between operands that the types do not say. A command that is
not well formed is one the module's ports cannot carry. -/

namespace Sys2Proof

/-- The relations a command's operands keep. -/
def Instr.wellFormed : Instr → Bool
  | .linkTrained width rate => (width = 16 || width = 8) && (rate = 128 || rate = 64 || rate = 32)
  | .registerWrite _ _ size _ => 1 ≤ size && size ≤ 64
  | .mirrorRead _ size => 1 ≤ size && size ≤ 64
  | .counterLowHalfRead offset => offset % 4 = 0
  | .clearOnRead offset => offset % 4 = 0
  | .sqTailDoorbell _ tail => tail < 2 ^ 32
  | .cqHeadDoorbell _ head => head < 2 ^ 32
  | .jobBind _ _ mask => mask < 2 ^ 32
  | .cxlMemLoad addr => addr % 64 = 0
  | .cxlMemStore addr data => addr % 64 = 0 && data.length = 64
  | .queueWindowLoad addr => addr % 64 = 0
  | .queueWindowStore addr data => addr % 64 + data.length ≤ 64
  | .smbusOffsetWrite _ offset => offset < 256
  | .hdmDecoderCommit base => base % 2 ^ 28 = 0
  | .flitReceive _ flit _ _ _ => flit.length = 256
  | _ => true

end Sys2Proof
end

