-- ==== Sys2Proof/Tests/Slice0.lean ====
section
/-! SUPPORT. The model's own tests: ill-formed commands, worked values of the spec, and for each statement a state and operands
that meet its hypotheses. -/

namespace Sys2Proof.Tests

open Sys2Proof.Machine

set_option Elab.async false

/-! Ill-formed commands. -/

theorem test_wf_link_width : (Instr.linkTrained 4 128).wellFormed = false := by decide
theorem test_wf_link_rate : (Instr.linkTrained 16 16).wellFormed = false := by decide
theorem test_wf_write_size : (Instr.registerWrite 0 0 0 0).wellFormed = false := by decide
theorem test_wf_mirror_size : (Instr.mirrorRead 0 65).wellFormed = false := by decide
theorem test_wf_low_half : (Instr.counterLowHalfRead 2).wellFormed = false := by decide
theorem test_wf_clear_read : (Instr.clearOnRead 3).wellFormed = false := by decide
theorem test_wf_sq_doorbell : (Instr.sqTailDoorbell 0 (2 ^ 32)).wellFormed = false := by decide
theorem test_wf_cq_doorbell : (Instr.cqHeadDoorbell 0 (2 ^ 32)).wellFormed = false := by decide
theorem test_wf_bind : (Instr.jobBind 0 0 (2 ^ 32)).wellFormed = false := by decide
theorem test_wf_load : (Instr.cxlMemLoad 8).wellFormed = false := by decide
theorem test_wf_store : (Instr.cxlMemStore 0 [0]).wellFormed = false := by decide
theorem test_wf_window_load : (Instr.queueWindowLoad 1).wellFormed = false := by decide
theorem test_wf_window_store : (Instr.queueWindowStore 63 [0, 0]).wellFormed = false := by decide
theorem test_wf_smbus : (Instr.smbusOffsetWrite 0 256).wellFormed = false := by decide
theorem test_wf_hdm : (Instr.hdmDecoderCommit 1).wellFormed = false := by decide
theorem test_wf_flit : (Instr.flitReceive 0 [] false 0 0).wellFormed = false := by decide

/-! Worked values of the manual. -/

/-- R541's example: syndrome 0x15 in word 3 corrects bit 5; 0x17 in all eight words of a line is address class. -/
theorem test_sram_example : sramLine [0, 0, 0, 0x15, 0, 0, 0, 0] = [.good, .good, .good, .fixed 5, .good, .good, .good, .good] ∧
    sramLine (List.replicate 8 0x17) = List.replicate 8 .addrClass := by decide +kernel
/-- Columns of R540: data bits 0 to 5, and address bits 0 and 1. -/
theorem test_sram_columns : sramColumns.take 6 = [0x07, 0x0B, 0x0D, 0x0E, 0x13, 0x15] ∧
    (sramColumns.drop 72).take 2 = [0x0F, 0x17] := by decide +kernel
/-- A poison mark decodes as data class (R542). -/
theorem test_poison : dramWord dramPoison = .dataClass ∧ sramLine [sramSyndrome sramPoison] = [.dataClass] ∧
    sramSyndrome sramPoison = 3 := by decide +kernel
/-- The records of the base container that ships pass the checks of their contents (R177, R178, R348, R364, R374). -/
theorem test_shipped : badSearchk true { typ := 10, flags := 0, station := 0xFFFF, row := 0xFF, spare := [], body := Config.shippedSearchk } = none ∧
    skBeam Config.shippedSearchk = 64 ∧ skEffort Config.shippedSearchk = 120 ∧ skWiden Config.shippedSearchk = 4 ∧
    scanHeadOk Config.shippedScan = true ∧ spRecord Config.shippedScan = 64 ∧ spFormat Config.shippedScan = 0 ∧
    scanProgBad (spInstrs Config.shippedScan) = none := by decide +kernel

/-! States that the witnesses start from. -/

/-- A register file whose listed fields have the listed values. -/
def withRegs (s : State) (fs : List (Fld × Nat × Nat)) : State := fs.foldl (fun (s : State) f => s.fset f.1 f.2.1 f.2.2) s

/-- In service with the link up. -/
def up : State :=
  withRegs ((State.reset.setPower { State.reset.power with supply := .valid }).setHost
    { State.reset.host with link := some (16, 128), memoryActive := true, hdmBase := some 0 }) [(F.pwrBootPhase, 0, 5)]

/-- An SQ entry: its opcode, then bytes at offsets. -/
def entryOf (op : Nat) (bs : List (Nat × Byte)) : List Byte :=
  bs.foldl (fun e b => e.set b.1 b.2) (BitVec.ofNat 8 op :: List.replicate 63 0)

/-- A state in which queue `q` of class `c` has one entry, at HEAD 0. -/
def queued (s : State) (q c : Nat) (e : List Byte) : State :=
  (withRegs (s.setHost { s.host with window := s.host.window.write (262144 * q) e })
    [(F.queQStateState, q, 2), (F.queQStateClass, q, c), (F.queQStateTail, q, 1)]).setQcfg q { sqSize := 4 }

/-- The arbiter after the next pick, and the state once the entry of a queue is taken. -/
def nextArb (s : State) : Arb := (s.arbPick.getD (0, {})).2
def took (s : State) (q p : Nat) : State := (s.takeInto q p (nextArb s)).countWaits

/-- What `TakesNext` asks, computed. -/
def takesB (s : State) (q : QueueId) (p : Nat) (e : List Byte) : Bool :=
  s.arbPick = some (q.val, nextArb s) && !s.headBad q.val && s.headEntry q.val = e && s.takes (sqOpcode e) &&
    s.freePlace (s.fget F.queQStateClass q.val) = some p

theorem takesNext {s : State} {q : QueueId} {p : Nat} {e : List Byte} (h : takesB s q p e = true) :
    s.TakesNext q p e (took s q.val p) := by
  simp only [takesB, Bool.and_eq_true, decide_eq_true_eq, Bool.not_eq_true'] at h
  exact ⟨nextArb s, h.1.1.1.1, h.1.1.1.2, h.1.1.2, h.1.2, h.2, rfl⟩

/-- An entry on Q0001, and one on the admin queue. -/
def io (s : State) (e : List Byte) : State := queued s 1 1 e
def admin (s : State) (e : List Byte) : State := queued s 0 0 e

/-- An image of group records. -/
def recordOf (typ : Nat) (body : List Byte) : List Byte :=
  leBytes 2 typ ++ zeros 2 ++ leBytes 4 body.length ++ leBytes 2 0xFFFF ++ leBytes 1 0xFF ++ zeros 5 ++ body
def imageOf (rs : List (Nat × List Byte)) (places : List StnImage) : Image :=
  let body := rs.flatMap fun r => recordOf r.1 r.2
  { bytes := zeros 16 ++ leBytes 4 body.length ++ leBytes 4 rs.length ++ zeros 104 ++ body, places := places }

/-- PARAM of an encoder with ROW_CAP 64, a SEARCHK record and a SCANPROG record of one instruction. -/
def paramBody : List Byte := [1, 2, 1, 0, 64, 0, 1] ++ zeros 42 ++ [1] ++ zeros 30
def scanBody : List Byte := [0, 0, 1, 0, 8] ++ zeros 19 ++ zeros 8
def workImage : Image := imageOf [(9, paramBody), (10, zeros 32), (11, scanBody)] []

/-- An index root at the start of scratch. -/
def rootBody : List Byte :=
  leBytes 4 0x58495A41 ++ leBytes 2 0x0100 ++ zeros 2 ++ leBytes 2 32 ++ [8, 8, 1, 0, 0, 0] ++ leBytes 8 1 ++ leBytes 4 32 ++ zeros 4 ++
    leBytes 8 1 ++ zeros 88 ++ (List.range 8).flatMap fun k => leBytes 8 (2 ^ 50 + (k + 1) * 2 ^ 30)

/-- In service, with job 1 bound to slot 1, the baseboard's job bound, a stack in service and an index root. -/
def works : State :=
  let s := (withRegs up [(F.ttbSlotStateState, 1, 4), (F.jobStateState, 1, 1), (F.jobStateSlot, 1, 1), (F.jobStateState, 0, 1),
    (F.memStackStateInService, 0, 1)]).setSlot 1 { img := some workImage }
  let s := s.setJob 1 { s.job 1 with bufs := [(2 ^ 50, 2 ^ 20)] }
  s.setDepot { s.depot with base := s.depot.base.write (2 ^ 50) rootBody }

/-! IdleLetsTimePass. -/

theorem witness_IdleLetsTimePass : State.reset.pending = [] ∧ State.reset.power.started = [] ∧ State.reset.quiet = true ∧
    State.reset.cfs.bankReads = [] ∧ State.reset.cfs.gapDue = [] := by decide +kernel

/-! CommandsLeaveTheQueue. -/

theorem witness_CommandsLeaveTheQueue : ∃ t, exec .inputDip up = .next t := ⟨_, rfl⟩

/-! ReservedBits. -/

theorem reset_reserved : State.reset.ReservedZero := fun row hrow i => by
  rw [reserved_eq row hrow]
  exact resetWord_fits _ _

theorem witness_ReservedBits : State.reset.ReservedZero ∧ ∃ t, step State.reset = .next t := ⟨reset_reserved, _, rfl⟩
theorem witness_ReservedBits_write : ∃ row ∈ regRows, ((2 ^ 24 ^^^ 0 : Word64) &&& ~~~row.reserved) = 0 := by decide +kernel

/-! MemoriesStayCanonical. -/

theorem witness_MemoriesStayCanonical : State.reset.MemoriesCanonical ∧ ∃ t, step State.reset = .next t :=
  ⟨⟨rfl, rfl, fun _ h => absurd h List.not_mem_nil⟩, _, rfl⟩

/-! IdentityIsFixed. -/

theorem witness_IdentityIsFixed : State.reset.IdentityFixed ∧ ∃ t, step State.reset = .next t := ⟨fun _ _ _ => rfl, _, rfl⟩

/-! SvnNeverFalls. -/

theorem witness_SvnNeverFalls : ∃ t, step { up with pending := [.inputDip] } = .next t := ⟨_, rfl⟩

/-! LockStaysSet. -/

/-- A locked module whose hold-up flush ends next. -/
def losing : State :=
  { withRegs (up.setPower { up.power with supply := .flushing }) [(F.glbPrivLockLock, 0, 1), (F.pwrBootPhase, 0, 0)] with
    pending := [.holdUpFlushDone] }

theorem witness_LockStaysSet : ∃ t, step losing = .next t ∧ losing.fget F.glbPrivLockLock 0 = 1 ∧
    t.fget F.glbPrivLockLock 0 ≠ 1 := ⟨_, rfl, by decide +kernel, by decide +kernel⟩

/-! EntryTaken. -/

/-- A FLUSH of LBA 0 to the end, COUNT 0, on Q0001, and one on Q0000. -/
def flushEntry : List Byte := entryOf 0x03 []

theorem witness_EntryTaken : (io up flushEntry).TakesNext 1 64 flushEntry (took (io up flushEntry) 1 64) :=
  takesNext (by decide +kernel)
theorem witness_EntryTaken_class0 : (admin up flushEntry).TakesNext 0 0 flushEntry (took (admin up flushEntry) 0 0) :=
  takesNext (by decide +kernel)

/-! BlockChecksFail. -/

/-- A READ of 2 LBAs from LBA 16. -/
def readEntry : List Byte := entryOf 0x01 [(8, 16), (16, 2)]
/-- A WRITE of 2 LBAs from LBA 16. -/
def writeEntry : List Byte := entryOf 0x02 [(8, 16), (16, 2)]
/-- A RELEASE of 2 LBAs from LBA 16. -/
def releaseEntry : List Byte := entryOf 0x04 [(8, 16), (16, 2)]
/-- `up`, with a maintenance operation in progress. -/
def maint (op phase : Nat) : State := withRegs up [(F.glbMaintOp, 0, op), (F.glbMaintPhase, 0, phase)]

theorem witness_BlockChecksFail_fields :
    let e := entryOf 0x01 [(8, 16)]
    takesB (io up e) 1 64 e = true ∧ transferFields e = false := by decide +kernel
theorem witness_BlockChecksFail_range :
    let e := entryOf 0x02 [(15, 1), (16, 2)]
    let e' := entryOf 0x03 [(12, 255), (16, 1)]
    takesB (io up e) 1 64 e = true ∧ (transferFields e = false) ∧ takesB (io up e') 1 64 e' = true ∧ rangeFields e' = true ∧
      sqLba e' + sqCount64 e' > userLbas := by decide +kernel
theorem witness_BlockChecksFail_sanitise :
    takesB (io (maint 1 1) releaseEntry) 1 64 releaseEntry = true ∧ rangeFields releaseEntry = true ∧
      sqLba releaseEntry + sqCount64 releaseEntry ≤ userLbas ∧ (took (io (maint 1 1) releaseEntry) 1 64).fget F.glbMaintOp 0 = 1 := by
  decide +kernel
theorem witness_BlockChecksFail_format :
    takesB (io (maint 2 1) readEntry) 1 64 readEntry = true ∧ transferFields readEntry = true ∧
      (took (io (maint 2 1) readEntry) 1 64).fget F.glbMaintOp 0 = 2 ∧ (took (io (maint 2 1) readEntry) 1 64).fget F.glbMaintPhase 0 = 1 := by
  decide +kernel
theorem witness_BlockChecksFail_exhausted :
    let s := withRegs up [(F.flsHealthExhausted, 0, 1)]
    takesB (io s writeEntry) 1 64 writeEntry = true ∧ transferFields writeEntry = true ∧
      sqLba writeEntry + sqCount writeEntry ≤ userLbas ∧ (took (io s writeEntry) 1 64).mediaBusy = 0 ∧
      (took (io s writeEntry) 1 64).fget F.flsHealthExhausted 0 = 1 := by decide +kernel

/-! WriteAndReleaseTaken. -/

theorem witness_WriteAndReleaseTaken :
    takesB (io up writeEntry) 1 64 writeEntry = true ∧ (took (io up writeEntry) 1 64).mediaBusy = 0 ∧ sqOpcode writeEntry = 0x02 ∧
      transferFields writeEntry = true ∧ sqLba writeEntry + sqCount writeEntry ≤ userLbas ∧
      (took (io up writeEntry) 1 64).fget F.flsHealthExhausted 0 = 0 ∧ sqList writeEntry = false := by decide +kernel
theorem witness_WriteAndReleaseTaken_list :
    let e := entryOf 0x02 [(1, 1), (8, 16), (16, 2), (32, 2)]
    takesB (io up e) 1 64 e = true ∧ transferFields e = true ∧ sqLba e + sqCount e ≤ userLbas ∧ sqList e = true := by decide +kernel
theorem witness_WriteAndReleaseTaken_release :
    takesB (io up releaseEntry) 1 64 releaseEntry = true ∧ (took (io up releaseEntry) 1 64).mediaBusy = 0 ∧
      rangeFields releaseEntry = true ∧ sqLba releaseEntry + sqCount64 releaseEntry ≤ userLbas := by decide +kernel

/-! ReadReturnsStoredBytes. -/

/-- `up` with page 1 resident and bytes in it. -/
def resident : State :=
  (up.setPage 1 { mapped := 65535, resident := true }).setDepot { (up.setPage 1 { mapped := 65535, resident := true }).depot with
    base := [(65537, 7)] }

theorem witness_ReadReturnsStoredBytes :
    let s := io resident readEntry
    let s0 := took s 1 64
    takesB s 1 64 readEntry = true ∧ transferFields readEntry = true ∧ sqLba readEntry + sqCount readEntry ≤ userLbas ∧
      s0.mediaBusy = 0 ∧ sqList readEntry = false ∧ s0.depot.reserveDown = [] ∧
      ((lbaPages (sqLba readEntry) (sqCount readEntry)).all fun g => (s0.page g).resident && !(s0.page g).promoting) = true ∧
      s0.lbaStatus 16 = 0 ∧ s0.lbaStatus 17 = 0 := by decide +kernel

/-! ListReadAndFlushTaken. -/

theorem witness_ListReadAndFlushTaken_read :
    let e := entryOf 0x01 [(1, 1), (8, 16), (16, 2), (32, 2)]
    takesB (io up e) 1 64 e = true ∧ transferFields e = true ∧ sqLba e + sqCount e ≤ userLbas ∧ sqList e = true ∧
      (took (io up e) 1 64).mediaBusy = 0 := by decide +kernel
theorem witness_ListReadAndFlushTaken_flush :
    takesB (io up flushEntry) 1 64 flushEntry = true ∧ rangeFields flushEntry = true ∧ sqLba flushEntry + sqCount64 flushEntry ≤ userLbas ∧
      (took (io up flushEntry) 1 64).mediaBusy = 0 := by decide +kernel

/-! CompletionPosts. -/

/-- `io up` with its command decided well and its completion message sent. -/
def done (e : List Byte) (r : Nat) : State :=
  let s := took (io up e) 1 64
  withRegs ((s.setCmd 64 { s.cmd 64 with ready := true, result := r }).setQcfg 1 { s.qcfg 1 with cqSize := 4 }) [(F.queQStateCqId, 1, 1)]

/-- What `MayPost` asks, computed. -/
def mayPostB (s : State) (p : Nat) : Bool :=
  (s.cmd p).live && !s.cqFull (s.fget F.queQStateCqId (s.cmd p).queue) &&
    s.fget F.queCqStateHeld (s.fget F.queQStateCqId (s.cmd p).queue) = 0 && !(s.fget F.queQStateState (s.cmd p).queue = 3)

theorem witness_CompletionPosts : mayPostB (done readEntry 2) 64 = true ∧
    (done readEntry 2).mayArrive 64 = true := by decide +kernel
/-- `io up` whose CQ has 4 entries. -/
def roomy (e : List Byte) : State := withRegs ((io up e).setQcfg 1 { sqSize := 4, cqSize := 4 }) [(F.queQStateCqId, 1, 1)]

theorem witness_CompletionPosts_unknown :
    let e := entryOf 0x05 []
    takesB (roomy e) 1 64 e = true ∧ mayPostB (took (roomy e) 1 64) 64 = true ∧ knownOpcodes.contains (sqOpcode e) = false := by
  decide +kernel
/-- `roomy` whose entry is uncorrectable. -/
def spoiled : State := (roomy readEntry).setHost { (roomy readEntry).host with windowBad := [32768] }

theorem witness_CompletionPosts_bad :
    spoiled.arbPick = some (1, nextArb spoiled) ∧ spoiled.headBad 1 = true ∧ spoiled.takes 0 = true ∧
      spoiled.freePlace (spoiled.fget F.queQStateClass 1) = some 64 ∧
      (let s1 := ((spoiled.takeInto 1 64 (nextArb spoiled)).countWaits).bump F.queCtrCount 9 1
       mayPostB (s1.setCmd 64 { s1.cmd 64 with entry := unknownCid (s1.cmd 64).entry }) 64) = true := by decide +kernel
/-- A completion held for room that is there now. -/
def holding : State := withRegs ((done readEntry 2).setHost { (done readEntry 2).host with held := [⟨1, 64⟩] }) [(F.queCqStateHeld, 1, 1)]

theorem witness_CompletionPosts_held :
    holding.host.held.find? (fun h => h.cq = 1) = some ⟨1, 64⟩ ∧ holding.cqFull 1 = false ∧
      holding.fget F.queQStateState (holding.cmd 64).queue ≠ 3 := by decide +kernel

/-! ContentWriteStores. -/

/-- `up` with one content write of 3 bytes on page 1. -/
def writing : State :=
  withRegs (up.setDepot { up.depot with turns := [{ place := none, page := 1, addr := 65540, bytes := [1, 2, 3], release := 0 }] })
    [(F.pwrHoldupDirtyLimit4k, 0, 100)]

theorem witness_ContentWriteStores :
    writing.firstTurn 1 = some { place := none, page := 1, addr := 65540, bytes := [1, 2, 3], release := 0 } ∧
      writing.mayTurn 1 = true ∧
      writing.overLimit { place := none, page := 1, addr := 65540, bytes := [1, 2, 3], release := 0 } = false ∧
      writing.search.mutators = [] ∧ writing.search.shunts = [] ∧ (∀ x ∈ writing.stations, x.2.walkers = []) ∧
      (∀ k, sqOpcode (writing.cmd k).entry ∉ [0x08, 0x09, 0x0B]) := by
  refine ⟨by decide +kernel, by decide +kernel, by decide +kernel, by decide +kernel, by decide +kernel, by decide +kernel, fun k => ?_⟩
  have : writing.cmd k = {} := rfl
  rw [this]
  decide

/-! TierEvents. -/

theorem witness_TierEvents_turn : ∃ t, writing.firstTurn 1 = some t ∧ t.waited = false ∧ writing.mayTurn 1 = true ∧ writing.overLimit t = false :=
  ⟨_, rfl, by decide, by decide +kernel, by decide +kernel⟩
/-- `writing` with a dirty limit of 0, and with the turn waiting. -/
def overdue : State := withRegs writing [(F.pwrHoldupDirtyLimit4k, 0, 0)]
def waiting : State :=
  writing.setDepot { writing.depot with turns := [{ place := none, page := 1, addr := 65540, bytes := [1, 2, 3], release := 0, waited := true }] }

theorem witness_TierEvents_limit : ∃ t, overdue.firstTurn 1 = some t ∧ t.waited = false ∧ overdue.overLimit t = true :=
  ⟨_, rfl, by decide, by decide +kernel⟩
theorem witness_TierEvents_release : ∃ t, waiting.firstTurn 1 = some t ∧ t.waited = true ∧ waiting.overLimit t = false :=
  ⟨_, rfl, by decide, by decide +kernel⟩
theorem witness_TierEvents_timer :
    let s := up.setPage 1 { mapped := 1, dirty := 1, resident := true }
    s.takeable 1 ≠ [] := by decide +kernel
theorem witness_TierEvents_promoted :
    let s := up.setPage 1 { mapped := 1, promoting := true }
    (s.page 1).promoting = true ∧ s.promoteOpen 1 = false ∧ (s.page 1).owed = false := by decide +kernel
theorem witness_TierEvents_lookup : up.homeDie 1 = 0 ∧ isMediaPage 1 = true ∧ up.inHostWindow 1 = false := by decide +kernel

/-! Doorbells. -/

/-- Q0001 created with its own CQ, two entries of it written; the admin queue likewise. -/
def created (q : Nat) : State :=
  withRegs (up.setQcfg q { sqSize := 4, cqSize := 4 })
    [(F.queQStateState, q, 1), (F.queQStateCqId, q, q), (F.queCqStateOwned, q, 1), (F.queCqStatePhase, q, 1), (F.queCqStateCqTail, q, 2)]

theorem witness_Doorbells : (created 1).hears = true ∧ (created 1).tailOk 1 3 = true ∧ (created 1).tailOk 1 4 = false ∧
    (created 1).headOk 1 2 = true ∧ (created 1).headOk 1 3 = false ∧ (created 0).hears = true ∧ (created 0).tailOk 0 3 = true := by
  decide +kernel

/-! QueueCommandsTaken. -/

/-- QUEUE_CREATE of Q0005 with a CQ of its own, and one of Q0006 that shares it. -/
def createEntry : List Byte := entryOf 0x21 [(8, 5), (10, 8), (12, 5), (14, 2), (15, 1), (17, 16), (24, 4), (28, 7)]
def shareEntry : List Byte := entryOf 0x21 [(8, 6), (10, 8), (12, 5), (14, 2)]
def resetEntry : List Byte := entryOf 0x22 [(8, 5)]
def deleteEntry : List Byte := entryOf 0x23 [(8, 5)]
/-- The admin queue with an entry, beside Q0005. -/
def admin5 (e : List Byte) : State := queued (withRegs (created 5) [(F.queQStateCqId, 5, 5)]) 0 0 e

theorem witness_QueueCommandsTaken :
    takesB (admin up createEntry) 0 0 createEntry = true ∧ createFields createEntry = true ∧
      (took (admin up createEntry) 0 0).fget F.queQStateState (qcQid createEntry) = 0 ∧ qcCq createEntry = qcQid createEntry := by
  decide +kernel
theorem witness_QueueCommandsTaken_shared :
    takesB (admin5 shareEntry) 0 0 shareEntry = true ∧ createFields shareEntry = true ∧
      (took (admin5 shareEntry) 0 0).fget F.queQStateState (qcQid shareEntry) = 0 ∧
      (took (admin5 shareEntry) 0 0).fget F.queQStateState (qcCq shareEntry) ≠ 0 ∧
      (took (admin5 shareEntry) 0 0).ownsCq (qcCq shareEntry) = true := by decide +kernel
theorem witness_QueueCommandsTaken_reset :
    takesB (admin5 resetEntry) 0 0 resetEntry = true ∧ qidFields resetEntry = true ∧
      (took (admin5 resetEntry) 0 0).canReset (qcQid resetEntry) = true := by decide +kernel
theorem witness_QueueCommandsTaken_delete :
    takesB (admin5 deleteEntry) 0 0 deleteEntry = true ∧ qidFields deleteEntry = true ∧
      (took (admin5 deleteEntry) 0 0).canReset (qcQid deleteEntry) = true ∧
      (took (admin5 deleteEntry) 0 0).shared (qcQid deleteEntry) = false := by decide +kernel

/-! ReportsAndSettings. -/

theorem witness_ReportsAndSettings :
    let e := entryOf 0x20 [(17, 16)]
    let e1 := entryOf 0x20 [(8, 1), (17, 16)]
    takesB (admin up e) 0 0 e = true ∧ zeroAt e 9 7 = true ∧ zeroAt e 24 40 = true ∧ byteField e 16 8 % 4096 = 0 ∧
      takesB (admin up e1) 0 0 e1 = true ∧ zeroAt e1 9 7 = true ∧ zeroAt e1 24 40 = true ∧ byteField e1 8 1 = 1 := by decide +kernel
theorem witness_ReportsAndSettings_log :
    let e := entryOf 0x2A [(17, 16), (25, 16)]
    takesB (admin up e) 0 0 e = true ∧ logFields e = true := by decide +kernel
theorem witness_ReportsAndSettings_get :
    let e := entryOf 0x2C [(8, 1), (17, 16)]
    takesB (admin up e) 0 0 e = true ∧ zeroAt e 12 4 = true ∧ zeroAt e 24 40 = true ∧ knownSetting (byteField e 8 4) = true ∧
      byteField e 16 8 % 64 = 0 := by decide +kernel
theorem witness_ReportsAndSettings_set :
    let e := entryOf 0x2B [(8, 1), (16, 4)]
    takesB (admin up e) 0 0 e = true ∧ zeroAt e 12 4 = true ∧ zeroAt e 24 40 = true ∧ knownSetting (byteField e 8 4) = true ∧
      settingOk (byteField e 8 4) (byteField e 16 8) = true := by decide +kernel

/-! AdminControlAndTimers. -/

/-- The admin registers set up, and set up wrongly. -/
def adminSet (n : Nat) : State :=
  withRegs up [(F.queAdminCfgSqSize, 0, n), (F.queAdminCfgCqSize, 0, 8), (F.queAdminCqAddrAddr, 0, 4096)]

theorem witness_AdminControlAndTimers : (adminSet 8).hears = true ∧ (adminSet 8).locked = false ∧ (adminSet 8).adminServed = true ∧
    (adminSet 8).fget F.queQStateState 0 = 0 ∧ (adminSet 8).adminCfgOk = true ∧ (adminSet 1).adminCfgOk = false ∧
    (adminSet 1).fget F.queQStateState 0 = 0 := by decide +kernel
theorem witness_AdminControlAndTimers_reset : (created 0).hears = true ∧ (created 0).locked = false ∧ (created 0).adminServed = true ∧
    (created 0).canReset 0 = true := by decide +kernel
theorem witness_AdminControlAndTimers_timeout :
    let e := entryOf 0x01 [(4, 10), (8, 16), (16, 2)]
    let s := (took (io up e) 1 64).fset F.glbIslandCtrCount 17 7000
    (s.cmd 64).timeout = some 10 ∧ sqOpcode (s.cmd 64).entry ∉ [0x28, 0x29] ∧ s.open 64 = true ∧
      700 * 10 ≤ cycSince (s.cyc 17) (s.cmd 64).t0 := by decide +kernel
theorem witness_AdminControlAndTimers_late : 0 < (up.setHost { up.host with late := 1 }).host.late := by decide
/-- `created 1` with an interrupt due. -/
def due : State := (created 1).setQcfg 1 { (created 1).qcfg 1 with irqEn := true, sinceIrq := 1, aggUs := 10 }
theorem witness_AdminControlAndTimers_irq : (due.qcfg 1).irqEn = true ∧ (due.qcfg 1).sinceIrq ≠ 0 ∧ (due.qcfg 1).aggUs ≠ 0 ∧
    due.msixMasked 0 = true := by decide +kernel
theorem witness_AdminControlAndTimers_sent :
    let s := due.setHost { due.host with msixTable := [(0, 4096)] }
    (s.qcfg 1).irqEn = true ∧ s.msixMasked 0 = false ∧ s.host.link ≠ none := by decide +kernel

/-! JobControl. -/

theorem witness_JobControl : up.hears = true ∧ up.locked = false ∧ up.fget F.jobCtlStatusBusy 0 = 0 ∧ up.jobBound 1 = false ∧
    up.slotState 1 ≠ 4 := by decide +kernel
/-- An image without groups. -/
def blank : Image := { bytes := [], places := [] }
/-- A state with a stitched image in slot 1 and job 2 bound. -/
def stitched : State :=
  (withRegs up [(F.ttbSlotStateState, 1, 4), (F.jobStateState, 2, 1), (F.jobStateSlot, 2, 1)]).setSlot 1 { img := some blank }
theorem witness_JobControl_bind :
    let u := (stitched.dropHeld 0x210200).rset .jobCtl 0 (BitVec.ofNat 64 (1 + 16 * 1 + 4096 * 1))
    (u.slot 1).img = some blank ∧ u.jobBound 1 = false ∧ u.slotState 1 = 4 ∧ u.mediaBusy = 0 ∧
      ((List.range 16).all fun n => u.bufferOk (blank.group 9) n (0, 0)) = true ∧ (u.allocScratch 0).isSome = true ∧
      (blank.group 7 = [] ∧ paScratch (blank.group 9) = 0 ∧ u.fget F.jobBindBufBase 0 = 0) := by decide +kernel
theorem witness_JobControl_unbind :
    let u := (stitched.dropHeld 0x210200).rset .jobCtl 0 (BitVec.ofNat 64 (2 + 16 * 2))
    u.jobBound 2 = true ∧ u.fget F.jobStateEndPending 2 = 0 := by decide +kernel
theorem witness_JobControl_busy : (withRegs up [(F.jobCtlStatusBusy, 0, 1)]).fget F.jobCtlStatusBusy 0 = 1 ∧
    (withRegs up [(F.jobCtlStatusBusy, 0, 1)]).locked = false := by decide +kernel

/-! ProgramsTaken. -/

def scanJobEntry : List Byte := entryOf 0x08 [(14, 4), (16, 64), (32, 2), (36, 12), (37, 1), (49, 16)]
def scanHostEntry : List Byte := entryOf 0x08 [(14, 4), (16, 64), (32, 2), (36, 12), (41, 16)]
def searchEntry : List Byte := entryOf 0x09 [(14, 4), (52, 1), (60, 1)]
def embedEntry : List Byte := entryOf 0x0A [(14, 4), (16, 4), (21, 4), (32, 32), (36, 1)]
def ingestEntry : List Byte := entryOf 0x0B [(14, 4), (32, 4), (37, 4), (48, 1)]

theorem witness_ProgramsTaken_fields : takesB (io up (entryOf 0x08 [])) 1 64 (entryOf 0x08 []) = true ∧
    scanFields (entryOf 0x08 []) = false ∧ searchFields (entryOf 0x09 []) = false ∧ embedFields (entryOf 0x0A []) = false ∧
    ingestFields (entryOf 0x0B []) = false := by decide +kernel
theorem witness_ProgramsTaken_scan_job :
    let e := scanJobEntry
    let s0 := took (io works e) 1 64
    takesB (io works e) 1 64 e = true ∧ scanFields e = true ∧ s0.scanKept e = false ∧ scJob e ≠ 0 ∧ s0.scanJobOk e = true ∧ scanNamesMedia e = true ∧
      s0.mediaBusy = 0 ∧ scProg e = 0 ∧ extentOk e (s0.scanProgram 64) = true ∧ siKeeps (spInstrs (s0.scanProgram 64)) = [] ∧
      scArg e ≠ 0 ∧ scArgDepot e = false := by decide +kernel
theorem witness_ProgramsTaken_scan_host :
    let e := scanHostEntry
    let s0 := took (io works e) 1 64
    takesB (io works e) 1 64 e = true ∧ scanFields e = true ∧ s0.scanKept e = false ∧ scJob e = 0 ∧ s0.jobBound 0 = true ∧ s0.scanJobOk e = true ∧
      scanNamesMedia e = false ∧ scProg e ≠ 0 ∧ scProgDepot e = false := by decide +kernel
theorem witness_ProgramsTaken_search :
    let e := searchEntry
    let s0 := took (io works e) 1 64
    takesB (io works e) 1 64 e = true ∧ searchFields e = true ∧ s0.searchJobOk (seJob e) = true ∧ s0.namesKept (seRoot e) 4096 = false ∧ seDepot e = false ∧ seFiltered e = false ∧ seJob e ≠ 0 ∧ seWiden e < 2 ∧
      searchNamesMedia e = false := by decide +kernel
theorem witness_ProgramsTaken_embed :
    let e := embedEntry
    let s0 := took (io works e) 1 64
    let n := s0.rowCapOf (emJob e) * emOut e
    takesB (io works e) 1 64 e = true ∧ embedFields e = true ∧ s0.embedKept e = false ∧ s0.encoderOk (emJob e) (emBytes e) (emOut e) = true ∧
      s0.refusesRun (emJob e) = false ∧ s0.mediaBusy = 0 ∧
      ((s0.allocScratch n).bind fun x => x.2.allocScratch n).isSome = true := by decide +kernel
theorem witness_ProgramsTaken_ingest :
    let e := ingestEntry
    let s0 := took (io works e) 1 64
    let u := s0.usePage (inRoot e)
    let r := u.readRoot (inRoot e)
    let n := u.rowCapOf (inJob e) * r.vec
    takesB (io works e) 1 64 e = true ∧ ingestFields e = true ∧ s0.namesKept (inRoot e) 4096 = false ∧ s0.mediaBusy = 0 ∧ u.readStatus (inRoot e) 192 = 0 ∧ r.ok = true ∧
      u.mediaBusy = 0 ∧ u.encoderOk (inJob e) (inBytes e) r.vec = true ∧ u.refusesRun (inJob e) = false ∧
      u.fget F.flsHealthExhausted 0 = 0 ∧
      (((u.allocScratch n).bind fun x => x.2.allocScratch n).bind fun x => x.2.allocScratch (inItems e * r.vec)).isSome = true := by
  decide +kernel

/-! IndexCommandsTaken. -/

def putEntry : List Byte := entryOf 0x0C [(14, 4), (32, 1)]
def delEntry : List Byte := entryOf 0x0D [(14, 4), (24, 1)]
def shuntEntry : List Byte := entryOf 0x2F [(14, 4), (16, 1)]
/-- What `rootPasses` asks of a root in scratch, computed. -/
def rootPassesB (s0 : State) (e : List Byte) : Bool :=
  let u := s0.usePage (ipRoot e)
  !s0.namesKept (ipRoot e) 4096 && s0.mediaBusy = 0 && u.readStatus (ipRoot e) 192 = 0 && (u.readRoot (ipRoot e)).ok && u.mediaBusy = 0

theorem witness_IndexCommandsTaken_put :
    let e := putEntry
    takesB (io works e) 1 64 e = true ∧ sqFlags e = 0 ∧ byteField e 36 1 < 2 ∧ zeroAt e 37 27 = true ∧ rootAddrOk (ipRoot e) = true ∧
      ipIds e % 64 = 0 ∧ 1 ≤ ipCount e ∧ ipCount e ≤ 4096 ∧ ipSrc e % 64 = 0 ∧ ipDepot e = false ∧
      rootPassesB (took (io works e) 1 64) e = true ∧ 0 < (rootOf 0 rootBody).vec := by decide +kernel
theorem witness_IndexCommandsTaken_put_depot :
    let e := entryOf 0x0C [(14, 4), (22, 4), (32, 1), (36, 1)]
    ipDepot e = true ∧ ipSrc e = 2 ^ 50 ∧ inDepot (ipSrc e) 1 = true ∧ inDepot (ipSrc e) (ipCount e * 128) = true ∧
      (works.usePage (ipRoot e)).namesKept (ipSrc e) (ipCount e * 128) = false := by decide +kernel
theorem witness_IndexCommandsTaken_del :
    let e := delEntry
    takesB (io works e) 1 64 e = true ∧ sqFlags e = 0 ∧ zeroAt e 28 36 = true ∧ rootAddrOk (ipRoot e) = true ∧ byteField e 16 8 % 64 = 0 ∧
      byteField e 24 4 = 1 ∧ rootPassesB (took (io works e) 1 64) e = true := by decide +kernel
theorem witness_IndexCommandsTaken_shunt :
    let e := shuntEntry
    takesB (admin works e) 0 0 e = true ∧ (took (admin works e) 0 0).fget F.glbMaintOp 0 ≠ 3 ∧ sqFlags e = 0 ∧ byteField e 24 1 < 2 ∧
      zeroAt e 25 39 = true ∧ rootAddrOk (ipRoot e) = true ∧ (took (admin works e) 0 0).jobBound 0 = true ∧
      rootPassesB (took (admin works e) 0 0) e = true ∧ ((took (admin works e) 0 0).usePage (ipRoot e)).search.shunts = [] := by
  decide +kernel
theorem witness_IndexCommandsTaken_fails :
    let e := entryOf 0x0C []
    takesB (io up e) 1 64 e = true ∧ rootAddrOk (ipRoot e) = true ∧ ipCount e = 0 ∧ rootAddrOk 1 = false ∧
      (up.usePage 0).readStatus 0 192 = 0 ∧ ((up.usePage 0).readRoot 0).ok = false := by decide +kernel

/-! RunAndSignals. -/

/-- A JOB_SIGNAL of job 1, and a RUN of it. -/
def signalEntry (code : Byte) : List Byte := entryOf 0x11 [(8, 1), (9, code), (12, if code = 3 then 5 else 0)]
theorem witness_RunAndSignals_signal :
    let e := signalEntry 3
    let s0 := took (io works e) 1 64
    takesB (io works e) 1 64 e = true ∧ signalFields e = true ∧ s0.jobBound 1 = true ∧ (s0.job 1).run = none ∧
      s0.fget F.jobStateHold 1 = 0 ∧ signalFields (signalEntry 0) = true ∧ signalFields (signalEntry 1) = true ∧
      signalFields (signalEntry 2) = true ∧ signalFields (signalEntry 9) = false := by decide +kernel
theorem witness_RunAndSignals_plain :
    let e := entryOf 0x10 [(8, 1)]
    let s0 := took (io works e) 1 64
    takesB (io works e) 1 64 e = true ∧ runFields e = true ∧ s0.refusesRun 1 = false ∧ s0.homeOf 1 = none ∧
      s0.fget F.jobBatchCfgEnabled 1 = 0 ∧ runPlain e = true ∧ s0.mediaBusy = 0 := by decide +kernel
theorem witness_RunAndSignals_rows :
    let e := entryOf 0x10 [(8, 1), (10, 1), (12, 64), (32, 64)]
    let s := withRegs works [(F.jobBatchCfgEnabled, 1, 1), (F.jobBatchCfgRowCap, 1, 64)]
    let s0 := took (io s e) 1 64
    takesB (io s e) 1 64 e = true ∧ runFields e = true ∧ s0.fget F.jobBatchCfgEnabled 1 = 1 ∧ runRowsOk e = true ∧
      s0.runKept e = false ∧ s0.sizesOk 1 e = true ∧ s0.mediaBusy = 0 ∧ (s0.giveStaging 1 e).isSome = true := by decide +kernel

/-! MaintenanceTaken. -/

theorem witness_MaintenanceTaken_stitch :
    let e := entryOf 0x24 [(16, 64), (21, 255), (22, 255)]
    let e' := entryOf 0x25 [(8, 3)]
    takesB (admin works e) 0 0 e = true ∧ stitchFields e = true ∧ takesB (admin works e') 0 0 e' = true ∧ sqFlags e' = 0 ∧
      byteField e' 8 1 ≤ 63 ∧ zeroAt e' 9 55 = true ∧ stitchFields (entryOf 0x24 [(20, 9)]) = false := by decide +kernel
theorem witness_MaintenanceTaken_stage :
    let e := entryOf 0x26 [(12, 64)]
    let s0 := took (admin works e) 0 0
    takesB (admin works e) 0 0 e = true ∧ stageFields e = true ∧ s0.fget F.glbMaintOp 0 = 0 ∧ byteField e 12 4 = 64 ∧
      stageFields (entryOf 0x26 [(8, 1), (12, 64)]) = true ∧ stageFields (entryOf 0x26 [(8, 2), (10, 7)]) = true ∧
      Tbl.look 0 s0.cfs.settings 0x0003 ≠ 7 ∧ stageFields (entryOf 0x26 [(8, 9)]) = false := by decide +kernel
theorem witness_MaintenanceTaken_activate :
    let e := entryOf 0x27 []
    let s := withRegs (works.setCfs { works.cfs with fwA := { valid := true }, fwB := { valid := true } }) [(F.glbFwPairsOk, 0, 15)]
    let s0 := took (admin s e) 0 0
    takesB (admin s e) 0 0 e = true ∧ sqFlags e = 0 ∧ zeroAt e 8 56 = true ∧ s0.fget F.glbMaintOp 0 = 0 ∧ s0.activateBad = false ∧
      (works.setCfs { works.cfs with fwB := {} }).activateBad = true ∧ sqFlags (entryOf 0x27 [(1, 1)]) = 1 := by decide +kernel
theorem witness_MaintenanceTaken_erase :
    let e := entryOf 0x28 []
    let e' := entryOf 0x29 []
    takesB (admin works e) 0 0 e = true ∧ takesB (admin works e') 0 0 e' = true ∧ sqFlags e = 0 ∧ byteField e 8 1 ≤ 1 ∧
      zeroAt e 9 55 = true ∧ zeroAt e' 8 56 = true ∧ (took (admin works e) 0 0).fget F.glbMaintOp 0 = 0 ∧
      (took (admin (maint 3 1) e) 0 0).fget F.glbMaintOp 0 = 3 ∧ takesB (admin (maint 3 1) e) 0 0 e = true := by decide +kernel

/-! SpareActAndFabricTaken. -/

theorem witness_SpareActAndFabricTaken_spare :
    let e := entryOf 0x2D [(9, 18)]
    takesB (admin up e) 0 0 e = true ∧ saAction e = 0 ∧ spareFields e = true ∧ islandClass (saIsland e) = 3 ∧ saUnit e < 32 ∧
      spareFields (entryOf 0x2D [(11, 1)]) = false ∧
      (let e' := entryOf 0x2D [(8, 1)]
       spareFields e' = true ∧ saAction e' = 1 ∧ islandClass (saIsland e') = 0) ∧
      (let e' := entryOf 0x2D [(8, 3)]
       spareFields e' = true ∧ saAction e' = 3 ∧ injectable (saIsland e') (saUnit e') 0 = true) := by decide +kernel
theorem witness_SpareActAndFabricTaken_return :
    let e := entryOf 0x2D [(8, 2)]
    let s := withRegs up [(F.stnStateFenced, 0, 1), (F.stnStateCause, 0, 3)]
    let s0 := took (admin s e) 0 0
    takesB (admin s e) 0 0 e = true ∧ saAction e = 2 ∧ spareFields e = true ∧ islandClass (saIsland e) = 0 ∧ stationOf (saIsland e) = 0 ∧
      s0.fget F.stnStateFenced 0 = 1 ∧ s0.fget F.stnStateCause 0 = 3 := by decide +kernel
/-- Line 0 is up to module 1. -/
def lined : State := works.setMesh { works.mesh with table := some ((zeros 1024).set 64 1) }
theorem witness_SpareActAndFabricTaken_fabric :
    let e := entryOf 0x2E [(24, 64)]
    takesB (admin works e) 0 0 e = true ∧ sqFlags e = 0 ∧ zeroAt e 9 7 = true ∧ byteField e 16 8 % 64 = 0 ∧ zeroAt e 28 36 = true ∧
      byteField e 24 4 = 64 ∧ (took (admin works e) 0 0).fget F.glbMaintOp 0 ≠ 3 ∧
      (let e' := entryOf 0x2E [(8, 2)]
       takesB (admin works e') 0 0 e' = true ∧ zeroAt e' 9 55 = true) := by decide +kernel
theorem witness_SpareActAndFabricTaken_pull :
    let e := entryOf 0x2E [(8, 1), (9, 1), (30, 4), (34, 1)]
    let s0 := took (admin lined e) 0 0
    takesB (admin lined e) 0 0 e = true ∧ zeroAt e 10 6 = true ∧ zeroAt e 40 24 = true ∧ byteField e 24 8 = 2 ^ 50 ∧ byteField e 32 8 = 65536 ∧
      inDepot (byteField e 24 8) 65536 = true ∧ s0.namesKept (byteField e 24 8) 65536 = false ∧ byteField e 9 1 = 1 ∧ s0.linesTo 1 ≠ [] := by decide +kernel

/-! LockAndUnlock. -/

/-- A challenge in force, being verified, being made. -/
def challenged : State := withRegs up [(F.glbUnlockCtlChalValid, 0, 1)]
theorem witness_LockAndUnlock : up.hears = true ∧ up.fget F.glbUnlockCtlBusy 0 = 0 ∧ up.security.backOff = false ∧
    challenged.fget F.glbUnlockCtlChalValid 0 = 1 ∧ challenged.security.verifying = false ∧
    (withRegs up [(F.glbUnlockCtlBusy, 0, 1)]).fget F.glbUnlockCtlBusy 0 = 1 ∧
    (up.setSecurity { up.security with making := true }).security.making = true ∧
    (challenged.setSecurity { challenged.security with verifying := true }).security.verifying = true ∧
    challenged.signerOk 7 = false := by decide +kernel

/-! KeysAndEventCfg. -/

theorem witness_KeysAndEventCfg : up.hears = true ∧ up.locked = false ∧ up.fget F.secKeyCtlBusy 0 = 0 ∧
    (withRegs up [(F.secKeyCtlBusy, 0, 1)]).fget F.secKeyCtlBusy 0 = 1 ∧ (withRegs up [(F.glbPrivLockLock, 0, 1)]).locked = true ∧
    (withRegs up [(F.glbPrivLockLock, 0, 1)]).hears = true ∧
    (let s := withRegs up [(F.glbEventStatusMedia, 0, 1)]
     bitsOf (2 ^ 37 + 2 ^ 11) 11 1 = 1 ∧ (bitsOf (2 ^ 37 + 2 ^ 11) 32 16).testBit 5 = true ∧ (s.fget F.glbEventCfgMask 0).testBit 5 = false ∧
       (s.rget .glbEventStatus 0).toNat.testBit 5 = true) := by decide +kernel

/-! JobRegisterWrites. -/

theorem witness_JobRegisterWrites : up.hears = true ∧ up.fget F.jobBatchCfgEnabled 3 = 0 ∧
    (withRegs up [(F.jobBatchCfgEnabled, 3, 1), (F.jobBatchCfgRowCap, 3, 64)]).fget F.jobBatchCfgEnabled 3 = 1 ∧
    (withRegs up [(F.jobBatchCfgEnabled, 3, 1), (F.jobBatchCfgRowCap, 3, 64)]).hears = true := by decide +kernel

/-! ViewReads. -/

theorem witness_ViewReads : up.hears = true ∧ regAt 0x200000 = some (⟨.jobState, 0x200000, [(0x40, 256)], 64, [(0, 3, .ro), (3, 1, .ro), (4, 1, .ro), (5, 1, .ro), (8, 6, .ro), (14, 2, .ro), (16, 12, .ro), (32, 16, .ro)]⟩, 0) ∧
    Tbl.look none up.host.latches 0x200000 = none ∧
    ((regRows.filter (fun r => r.bitsWith .rc != 0)).all fun r => r.base % 4 = 0 && (regAt r.base).isSome) = true ∧
    (regRows.filter (fun r => r.bitsWith .rc != 0)) ≠ [] ∧
    isDoorbell 0x100000 = false ∧ mirrorSource 0x100000 = some (.jobState, 0, 63) ∧ 0x100000 ∉ up.security.fresh ∧
    isDoorbell 0x300000 = false ∧ mirrorSource 0x300000 = none ∧ up.ownerDie 5 = 0 := by decide +kernel

/-! CountersAndLogs. -/

theorem witness_CountersAndLogs : up.hears = true ∧ up.locked = false ∧ up.fget F.stnStateFenced 5 = 0 ∧ up.fget F.memStackStateFenced 3 = 0 ∧
    (withRegs up [(F.stnStateFenced, 5, 1)]).fget F.stnStateFenced 5 = 1 ∧ (withRegs up [(F.stnStateFenced, 5, 1)]).hears = true ∧
    (withRegs up [(F.memStackStateFenced, 3, 1)]).fget F.memStackStateFenced 3 = 1 ∧ up.fget F.flsRawCtlBusy 0 = 0 ∧
    (up.dropHeld 0x1408008).rawInRange = true ∧ (up.dropHeld 0x1408008).rawErasing = false ∧
    (up.setFlash { up.flash with raw := some 0 }).flash.raw = some 0 ∧ (up.rset .flsRawAddr 0 0).rawInRange = true := by decide +kernel

/-! LinkEvents. -/

theorem witness_LinkEvents_train :
    let s := (withRegs ((State.reset.setPower { State.reset.power with supply := .valid, started := [140] }).setHost
      { State.reset.host with perst := true }) [(F.pwrBootPhase, 0, 5)])
    s.mayLink = true ∧ linkOk 16 128 = true ∧ s.hears = false := by decide +kernel
theorem witness_LinkEvents_up : up.hears = true := by decide

/-! HostMemoryAccess. -/

theorem witness_HostMemoryAccess :
    let s := withRegs up [(F.depHostwinSizeGib, 0, 1)]
    s.hears = true ∧ s.hdmOffset (2 ^ 63) = none ∧ s.hdmOffset 128 = some 128 ∧
    s.hdmOffset (2 ^ 28 + 64) = some (2 ^ 28 + 64) ∧ s.windowServed = true ∧ s.memServed = true ∧ s.host.windowBad = [] ∧
    s.readStatus (scratchBase + 64) 64 = 0 := by decide +kernel
theorem witness_HostMemoryAccess_unserved :
    let s := up.setHost { up.host with memoryActive := false }
    s.hears = true ∧ s.windowServed = false ∧ s.memServed = false ∧ s.hdmOffset 128 = some 128 := by decide +kernel

/-! MailboxAnswers. -/

/-- D0's core answers SPDM; requests that pass their checks. -/
def talking (stage version : Nat) : State := up.setSpdm { stage := stage, version := version, transfer := 1024 }
theorem witness_MailboxAnswers :
    (talking 3 0x12).hears = true ∧ (talking 3 0x12).answersSpdm = true ∧
      (talking 1 0).spdmWrong 0xE1 1 20 ([0x12, 0xE1] ++ zeros 18) = none ∧ (talking 2 0x12).spdmWrong 0xE3 2 32 ([0x12, 0xE3] ++ zeros 30) = none ∧
      (talking 3 0x12).spdmWrong 0x86 3 6 ([0x12, 0x86] ++ zeros 4) = none ∧
      (talking 0 0).spdmWrong 0xE1 1 20 ([0x12, 0xE1] ++ zeros 18) = some 0x04 := by decide +kernel

/-! AttestationAnswers. -/

theorem witness_AttestationAnswers :
    let s := talking 3 0x12
    s.answersSpdm = true ∧ s.spdmWrong 0x81 3 4 ([0x12, 0x81] ++ zeros 2) = none ∧ s.spdmWrong 0x82 3 8 ([0x12, 0x82] ++ zeros 6) = none ∧
      s.spdmWrong 0x83 3 36 ([0x12, 0x83] ++ zeros 34) = none ∧ s.spdmWrong 0xE0 3 4 ([0x12, 0xE0] ++ zeros 2) = none ∧
      s.spdmWrong 0xE0 3 37 ([0x12, 0xE0, 1] ++ zeros 34) = none ∧ byteField ([0x12, 0xE0, 1] ++ zeros 34) 2 1 % 2 = 1 := by decide +kernel

/-! SidebandAccess. -/

theorem witness_SidebandAccess : up.power.supply = .valid ∧ up.power.scanEn = false ∧
    (up.setPower { up.power with scanEn := true }).power.scanEn = true := by decide

/-! SupplyEvents. -/

theorem witness_SupplyEvents_valid : up.power.supply = .valid ∧ (3 : Nat) ∉ up.power.started := by decide
theorem witness_SupplyEvents_other :
    (∀ x ∈ [Supply.off, .mated, .closed, .down], (State.reset.setPower { State.reset.power with supply := x }).power.supply = x) ∧
    (let s := State.reset.setPower { State.reset.power with supply := .flushing, opened := true };
      s.power.supply = .flushing ∧ s.power.opened = true ∧ s.fget F.pwrBootPhase 0 = 0) ∧
    (let s := State.reset.setPower { State.reset.power with supply := .flushing };
      s.power.supply = .flushing ∧ s.power.opened = false) := by decide +kernel

/-! PowerUpSteps. -/

theorem witness_PowerUpSteps : ∀ ph ∈ [0, 1, 2, 3, 4],
    let s := withRegs (State.reset.setPower { State.reset.power with supply := .valid, started := [0] }) [(F.pwrBootPhase, 0, ph)]
    s.power.supply = .valid ∧ s.power.scanEn = false ∧ s.fget F.pwrBootPhase 0 = ph ∧ s.power.started.contains 0 = true ∧
    s.power.failedCheckers.contains (0, 0) = false ∧ s.fget F.pwrBootSanitiseResumed 0 = 0 ∧ s.fget F.glbMaintOp 0 = 0 ∧
    s.cfs.ended = none ∧ Tbl.look 0 s.power.coresDown 0 = 0 ∧ s.ecc.windowDecoders = 0 := by decide +kernel
theorem witness_PowerUpSteps_sanitise :
    let s := withRegs (State.reset.setPower { State.reset.power with supply := .valid }) [(F.pwrBootPhase, 0, 2), (F.glbMaintOp, 0, 1)]
    let s6 := s.setCfs { s.cfs with ended := some (1, 2) }
    s.fget F.glbMaintOp 0 = 1 ∧ s.fget F.pwrBootSanitiseResumed 0 = 0 ∧ s6.cfs.ended = some (1, 2) ∧
    (s.fset F.pwrBootSanitiseResumed 0 1).fget F.pwrBootSanitiseResumed 0 = 1 := by decide +kernel
theorem witness_PowerUpSteps_boots : ∀ ok : Bool,
    let s := State.reset.setCfs { State.reset.cfs with fwA := { bytes := zeros 64, valid := ok }, fwB := {} }
    let s : State := { s with regs := [(Reg.secSvn.code, [(0, 0)])] }
    s.boots 0 = ok ∧ s.boots 1 = false := by decide +kernel

/-! BankAndFailures. -/

theorem witness_BankAndFailures : ∀ ph ∈ [2, 5],
    let s := withRegs (State.reset.setPower { State.reset.power with supply := .valid }) [(F.pwrBootPhase, 0, ph)]
    s.power.supply = .valid ∧ s.power.scanEn = false ∧ s.fget F.pwrBootPhase 0 = ph ∧ s.fget F.pwrStringFailed 5 = 0 ∧
    s.cfs.ended = none ∧ Tbl.look 0 s.power.coresDown 3 = 0 ∧ s.fget F.glbMaintOp 0 ≠ 3 := by decide +kernel
theorem witness_BankAndFailures_core :
    Tbl.look 0 (up.setPower { up.power with coresDown := [(2, 1)] }).power.coresDown 2 = 1 := by decide +kernel
theorem witness_BankAndFailures_activation : ∀ x ∈ [(2, []), (3, [3]), (4, [1, 2, 3])],
    let s := (withRegs up [(F.glbMaintOp, 0, 3), (F.glbMaintPhase, 0, x.1)])
    let s := s.setPower { s.power with handed := x.2 }
    s.fget F.glbMaintOp 0 = 3 ∧ s.fget F.glbMaintPhase 0 = x.1 ∧ s.power.handed = x.2 ∧ s.power.restarted.contains 1 = false ∧
    s.tt.queue.any (fun x => x.begun) = false := by decide +kernel
theorem witness_BankAndFailures_recompute :
    let s := up.setSecurity { up.security with recompute := [{ index := 5, value := zeros 64 }] }
    (s.security.recompute.find? (fun r => r.index = 5)).isSome = true ∧ ∀ r ∈ s.security.recompute, r.index ≠ 6 := by decide +kernel

/-! DispatcherEvents. -/

def batching (b : Batch) : State := up.setBatcher 1 { up.batcher 1 with openB := some b }
theorem witness_DispatcherEvents_batch :
    (let b : Batch := { rows := [], target := 1, waitUs := 0 }
      let s := batching b;
      (s.batcher 1).openB = some b ∧ (s.closedBatches 1).length < 2 ∧ (s.batcher 2).openB = none) ∧
    (let b : Batch := { rows := [], target := 1, waitUs := 5 }
      let s := (batching b).setPower { up.power with started := [17] }
      let s := s.fset F.glbIslandCtrCount 17 3500;
      (s.batcher 1).openB = some b ∧ b.cause = none ∧ b.waitUs ≠ 0 ∧ 700 * b.waitUs ≤ cycSince (s.homeCyc 1) b.openedAt) ∧
    (let b : Batch := { rows := [], target := 1, waitUs := 5, cause := some .timer };
      (batching b |>.batcher 1).openB = some b ∧ ((batching b).closedBatches 1).length < 2) := by decide +kernel
theorem witness_DispatcherEvents_visit : up.stnUp 0 = true ∧ (up.stn 0).incoming = none ∧ up.busyWith 0 = false ∧ up.jobsOn 0 = [] ∧
    (up.job 1).run = none ∧ (up.lane 0 0).job = none ∧ (up.fset F.stnStateInService 3 0).stnUp 3 = false := by decide +kernel
/-- Job 1 bound, its image on station 0 alone, with a run of it, and station 0 in the given state. -/
def runs (r : Image → Run) (x : Station) : State :=
  let im := imageOf [] [{ station := 0, place := 0, offs := [], platform := 0, cfgPages := 0 }]
  let s := withRegs up [(F.ttbSlotStateState, 1, 4), (F.jobStateState, 1, 1), (F.jobStateSlot, 1, 1)]
  let s := s.setSlot 1 { img := some im }
  (s.setJob 1 { s.job 1 with run := some (r im) }).setStn 0 x
def plain (im : Image) : Run := { what := .command 0, image := im }
/-- Lane rows 0 to 31 that carry job 1 and have no more of it to do. -/
def carrying (l : Lane) : Station :=
  { lanes := (List.range 32).map fun n => (n, { l with job := some 1, ctxs := [(1, { passDone := true, copyDone := true })] }) }
theorem witness_DispatcherEvents_ready :
    let s := runs plain {}
    s.stnUp 0 = true ∧ s.busyWith 0 = false ∧ nextInCircle (s.jobsOn 0) (s.stn 0).visited = some 1 ∧ s.hasWork 0 1 = true ∧
    (runs plain { ready := [1] } |>.stn 0).ready.find? (fun j => (runs plain { ready := [1] }).hasWork 0 j) = some 1 := by decide +kernel
theorem witness_DispatcherEvents_idle :
    let s := (runs plain {}).setJob 1 {}
    nextInCircle (s.jobsOn 0) (s.stn 0).visited = some 1 ∧ s.hasWork 0 1 = false := by decide +kernel
theorem witness_DispatcherEvents_balance :
    let s := runs plain (carrying {})
    s.carried 0 = some 1 ∧ s.isExpress 1 = false ∧ (s.stn 0).order = none ∧ (s.stn 0).incoming = none ∧ s.hasWork 0 1 = true := by
  decide +kernel
def onePass : PassRun := { job := 1, idx := 0, iters := [], desc := zeros 128 }
theorem witness_DispatcherEvents_part :
    (let s := runs plain { carrying {} with order := some .balance };
      (s.lane 0 0).job = some 1 ∧ (s.stn 0).order.isSome = true ∧ (s.lane 0 0).partEnded = false ∧ (s.stn 0).incoming = none ∧
      (s.lane 0 0).undecided = none ∧ (s.lane 0 0).copies = []) ∧
    (let s := runs plain { carrying { passes := [onePass] } with order := some .balance };
      (s.lane 0 0).undecided = some 0 ∧ (s.lane 0 0).passes[0]? = some onePass ∧ onePass.wide = none) ∧
    (let s := runs plain { carrying {} with incoming := some 2 };
      s.stnUp 0 = true ∧ (s.stn 0).incoming.isSome = true) := by decide +kernel
theorem witness_DispatcherEvents_end :
    let r := fun im => { plain im with started := [0] }
    let s := runs r (carrying {})
    (∀ n, n < 32 → s.laneOver 0 1 n = true) ∧ s.stnUp 0 = true ∧ (s.stn 0).tail = [] ∧
    (((s.job 1).run.map (fun r => r.started.contains 0 && !r.ended.contains 0 && r.image.stations == [0])).getD false) = true := by decide +kernel
theorem witness_DispatcherEvents_report :
    let s := runs (fun im => { plain im with abandoned := some 0x3003 }) {}
    let u := (s.dropCopies 0 1).report 1 0
    (((u.job 1).run.map (fun r => r.image.stations.all (fun x => r.reports.contains x))).getD false) = true := by decide +kernel

/-! PassEvents. -/

theorem witness_PassEvents_none : up.laneRun 0 0 = none ∧ (up.lane 0 0).passes = [] ∧ (up.stn 0).nextTail = none := by decide +kernel
def started (im : Image) : Run := { plain im with started := [0] }
def rowOne (l : Lane) : Station := { lanes := [(0, { l with job := some 1 })] }
theorem witness_PassEvents_issue :
    let s := runs started (rowOne {})
    (s.laneRun 0 0).isSome = true ∧ s.sidingRun 1 = none ∧ (∀ x, s.laneRun 0 0 = some x → x.1 = 1 ∧ s.mayIssue 0 0 1 x.2 = true ∧
      s.groupsOpen 0 0 1 (s.nextPass 0 0 1 x.2) = false ∧ s.firstTileCopy 0 0 1 (s.nextPass 0 0 1 x.2) = none) ∧
    (s.ctx 0 0 1).passDone = false ∧ (s.ctx 0 0 1).wides = [] ∧ (s.lane 0 0).passes = [] := by
  intro s
  refine ⟨by decide +kernel, by decide +kernel, fun x hx => ?_, by decide +kernel⟩
  have : s.laneRun 0 0 = some (1, started (imageOf [] [{ station := 0, place := 0, offs := [], platform := 0, cfgPages := 0 }])) := by
    decide +kernel
  rw [this] at hx
  cases hx
  decide +kernel
theorem witness_PassEvents_wide :
    let s := runs started (rowOne { ctxs := [(1, { wides := [(zeros 128, 0, 8)] })] })
    (s.laneRun 0 0).isSome = true ∧ (s.ctx 0 0 1).wides = [(zeros 128, 0, 8)] ∧ (s.lane 0 0).undecided = none := by decide +kernel
theorem witness_PassEvents_verdict :
    let s := runs started (rowOne { passes := [onePass] })
    (s.laneRun 0 0).isSome = true ∧ (s.lane 0 0).undecided = some 0 ∧ (s.lane 0 0).passes[0]? = some onePass ∧ onePass.wide = none ∧
    s.stnUp 0 = true ∧ s.awaitsCopy 0 0 1 onePass.desc = false ∧ s.awaitsDepot 1 onePass.block = false ∧ pdRerun onePass.desc = false := by
  decide +kernel
theorem witness_PassEvents_end :
    let p := { onePass with verdict := true }
    let s := runs started (rowOne { passes := [p] })
    (s.lane 0 0).passes = [p] ∧ p.rows = [] ∧ p.lastPart = true ∧ s.stnUp 0 = true ∧
    ((s.job 1).run.map (fun r => r.started.contains 0)).getD false = true := by decide +kernel
theorem witness_PassEvents_tail :
    let row : TailRow := { lane := 3, job := 1, desc := zeros 128, row := 0, vals := [] }
    (∀ j ∈ [1, 2], ((runs started { tail := [{ row with job := j }] }).stn 0).nextTail = some { row with job := j }) ∧
    ((runs started { tail := [row] }).job 2).run = none ∧ ((runs started { tail := [row] }).job 1).run.isSome = true := by decide +kernel

/-! CopyEvents. -/

theorem witness_CopyEvents_issue :
    (runs started (rowOne {})).laneRun 0 0 ≠ none ∧ ((runs started (rowOne {})).ctx 0 0 1).copyDone = false ∧ cdTake (descAt 32 [] 0) = 0 ∧
    (up.lane 0 0).copy 0 = none := by decide +kernel
def oneCopy (c : CopyRun) : State := runs started (rowOne { copies := [c] })
def aCopy : CopyRun := { seq := 0, job := 1, desc := zeros 32, src := 0, dst := 0, len := 256 }
theorem witness_CopyEvents_send :
    (oneCopy aCopy |>.lane 0 0).copy 0 = some aCopy ∧ aCopy.nextReq = some (0, 256) ∧ (oneCopy aCopy).stnUp 0 = true ∧
    (oneCopy aCopy).sendTurn 0 0 ((oneCopy aCopy).copyExpress 0 aCopy) = true ∧ aCopy.reqPage 0 = none := by decide +kernel
theorem witness_CopyEvents_sendDepot :
    let c := { aCopy with depot := true, src := scratchBase }
    (oneCopy c).sendTurn 0 0 ((oneCopy c).copyExpress 0 c) = true ∧ c.reqPage 0 = some (pageOf scratchBase) ∧
    (oneCopy c).ringSlot 0 c (pageOf scratchBase) = none := by decide +kernel
theorem witness_CopyEvents_data :
    let c := { aCopy with sent := 256, open_ := [(0, 256)] }
    let u := (oneCopy c).arrived (fun e => e.req = some ⟨0, 0, 0, 0⟩)
    ((oneCopy c).runImage 1).isSome = true ∧ c.open_.find? (fun x => x.1 = 0) = some (0, 256) ∧ u.stnUp 0 = true ∧ cdDst c.desc ≠ 2 ∧
    c.reqPage 0 = none := by decide +kernel
theorem witness_CopyEvents_depot :
    let c := { aCopy with sent := 256, open_ := [(0, 256)], depot := true, src := 65536 }
    let u := ((oneCopy c).setPage 1 { mapped := 1 }).arrived (fun e => e.req = some ⟨0, 0, 0, 0⟩)
    c.reqPage 0 = some 1 ∧ u.ringSlot 0 c 1 = none ∧ u.pageReady 1 = false ∧ cdDst c.desc ≠ 2 := by decide +kernel
theorem witness_CopyEvents_confirm :
    let x : CopyPage := { page := 7, gen := some 0, ring := false }
    let c := { aCopy with sent := 256, done := [(0, 256)], pages := [x] }
    c.pages.find? (fun x => x.page = 7 && !x.confirmed) = some x ∧ c.written = true ∧ x.gen = some ((oneCopy c).genOf 7) ∧ x.old = false := by
  decide +kernel
theorem witness_CopyEvents_complete :
    let c := { aCopy with sent := 256, done := [(0, 256)] }
    c.written = true ∧ c.pages = [] ∧ (oneCopy c).depot.pages = [] ∧ (oneCopy c).stnUp 0 = true := by decide +kernel

/-! StreamAndWindowEvents. -/

theorem witness_StreamAndWindowEvents_none :
    up.streamOwner 0 0 0 = none ∧ (up.job 1).run = none ∧ (up.job 1).layers = [] := by decide +kernel
theorem witness_StreamAndWindowEvents_layer :
    let s := (runs started {}).setJob 1 { (runs started {}).job 1 with layers := [(0, false)], pinned := [(0, 5)] }
    (s.job 1).layers.find? (fun e => !e.2) = some (0, false) ∧ s.promoteOpen 5 = false := by decide +kernel
/-- Job 1 with a run on station 0 of an image with one stream and a weight window of one layer. -/
def streamImage : Image :=
  let body := (zeros 16).set 0 1 ++ [0, 0, 4, 0] ++ zeros 4 ++ zeros 8 ++ leBytes 8 131072 ++ leBytes 4 65536 ++ zeros 4
  let rec1 := leBytes 2 5 ++ zeros 2 ++ leBytes 4 body.length ++ leBytes 2 0 ++ leBytes 1 0xFF ++ zeros 5 ++ body
  let rec2 := recordOf 7 ([1] ++ zeros 47)
  { bytes := zeros 16 ++ leBytes 4 (rec1.length + rec2.length) ++ leBytes 4 2 ++ zeros 104 ++ rec1 ++ rec2
    places := [{ station := 0, place := 0, offs := [], platform := 0, cfgPages := 0 }] }
def streaming (x : Stream) : State :=
  let s := runs started {}
  (s.setJob 1 { s.job 1 with bufs := [(scratchBase, 131072)], run := some (started streamImage) }).setStn 0
    { streams := [(0, { x with job := 1, live := true })], lanes := [(0, { job := some 1 })] }
theorem witness_StreamAndWindowEvents_stream :
    let s := streaming {}
    (s.streamOwner 0 0 0).isSome = true ∧ s.carried 0 = some 1 ∧ s.stnUp 0 = true ∧
    (∀ x, s.streamOwner 0 0 0 = some x → x.2.1 = 1 ∧ x.2.2.1.depth = 4 ∧ inExtent x.2.2.1 0 = true ∧ inExtent x.2.2.1 2 = false ∧
      streamOff x.2.2.1 0 = 0) := by
  intro s
  refine ⟨by decide +kernel, by decide +kernel, by decide +kernel, fun x hx => ?_⟩
  have : s.streamOwner 0 0 0 = some (streamImage, 1, ({ pref := 0, buf := 0, depth := 4, route := 0, base := 0, limit := 131072, stride := 65536 }, 0)) := by
    decide +kernel
  rw [this] at hx
  cases hx
  decide +kernel
theorem witness_StreamAndWindowEvents_data :
    let s := streaming { next := 1, slots := [{ k := 0, gen := 0, full := false, empty := false, fetchedAt := 0 }] }
    let u := s.arrived (fun x => x.req = some (fetchId 0 0 0 0))
    (u.stream 0 0 0).slots.any (fun r => r.k = 0 && !r.full && !r.empty) = true ∧ u.stnUp 0 = true ∧ u.flash.reads = [] := by decide +kernel
theorem witness_StreamAndWindowEvents_load :
    (∀ r, ((streaming {}).job 1).run = some r → r.image.group 7 ≠ [] ∧ wnLayers (r.image.group 7) = 1 ∧ r.abandoned = none) ∧
    ((streaming {}).job 1).nextLayer = 0 ∧ ((streaming {}).job 1).layers = [] := by
  refine ⟨fun r hr => ?_, by decide +kernel, by decide +kernel⟩
  have : ((streaming {}).job 1).run = some (started streamImage) := by decide +kernel
  rw [this] at hr
  cases hr
  decide +kernel

/-! StoredWordEvents. -/

theorem witness_StoredWordEvents_read :
    let s := up.setPage (pageOf scratchBase) { resident := true }
    inDepot scratchBase 256 = true ∧ (s.page (pageOf scratchBase)).resident = true ∧
    s.fget F.memStackStateInService (s.homeStack (pageOf scratchBase)) = 1 ∧ s.ecc.injected = [] ∧ s.ecc.badWords = [] := by decide +kernel
theorem witness_StoredWordEvents_queues :
    let s := up.setEcc { up.ecc with rereads := [(3, 7)], writeBacks := [(20, 9, true)], repairs := [{ stack := 3, channel := 1, target := 5, cause := 2, place := none }], sramDue := [(4, 2, 6, 1)] }
    s.ecc.rereads.contains (3, 7) = true ∧ (s.ecc.writeBacks.find? (fun x => x.1 = 20 && x.2.1 = 9)).isSome = true ∧
    (s.ecc.repairs.find? (fun r => r.stack = 3)).isSome = true ∧
    (s.ecc.sramDue.find? (fun d => d.1 = 4 && d.2.1 = 2 && d.2.2.1 = 6)).isSome = true ∧ s.memFree 4 2 = true ∧
    Tbl.look 0 s.ecc.sramRows (64 * 4 + 2) = 0 ∧ Tbl.look 0 s.ecc.sramCols (64 * 4 + 2) = 0 := by decide +kernel
theorem witness_StoredWordEvents_scrub : ∀ k ∈ [0, 402653183],
    let s := withRegs up [(F.memEccCfgScrubEn, 0, 1), (F.memEccCfgScrubUs, 0, 1), (F.memScrubStatChunk, 0, k), (F.glbIslandCtrCount, 18, 1000)]
    s.fget F.memEccCfgScrubEn 0 = 1 ∧ s.fget F.memStackStateInService 0 = 1 ∧ s.fget F.memScrubStatChunk 0 = k ∧
    Tbl.look 0 s.ecc.scrubAt 0 + 1000 * s.fget F.memEccCfgScrubUs 0 ≤ s.cyc (islandOfStack 0) := by decide +kernel
theorem witness_StoredWordEvents_share :
    let s := up.setDepot { up.depot with reserveDown := [3, 4], reserveLost := [4] }
    s.depot.reserveDown.contains 3 = true ∧ s.depot.reserveLost.contains 3 = false ∧ s.depot.reserveLost.contains 4 = true ∧
    s.depot.reserveDown.contains 5 = false := by decide +kernel
theorem witness_StoredWordEvents_retire : ∀ begun : Bool,
    let s := up.setEcc { up.ecc with retiring := [{ station := 2, lane := 3, cause := 1, banks := [], place := none, begun := begun }] }
    (s.retireOf 2 3).map (·.begun) = some begun ∧ (s.lane 2 3).passes = [] ∧ (s.lane 2 3).job = none ∧ s.retireOf 2 4 = none := by
  decide +kernel

/-! SearchAndScanEvents. -/

def liveCmd (op : Nat) (bs : List (Nat × Byte)) : Cmd := { live := true, entry := entryOf op bs }
def searching (w : Walker) : State := (works.setCmd 5 (liveCmd 0x09 [])).setStn 0 { walkers := [(0, w)] }
def searchWaits (bs : List (Nat × Byte)) : State :=
  let s := works.setCmd 5 (liveCmd 0x09 bs)
  s.setSearch { s.search with waiting := [5] }
def searchTakes (s : State) : State :=
  let t := s.usePage (seRoot (s.cmd 5).entry)
  t.setSearch { t.search with waiting := t.search.waiting.filter (· != 5) }
theorem witness_SearchAndScanEvents_assign :
    (let s := searchWaits [(14, 4)]
      let e := (s.cmd 5).entry
      let u := searchTakes s;
      s.nextSearch = some 5 ∧ s.searchStation (seJob e) = some 0 ∧ s.freeWalker 0 = some 0 ∧ s.walkerOf 6 = none ∧
      (s.usePage (seRoot e)).pageReady (pageOf (seRoot e)) = true ∧ u.rootStatus (seJob e) (u.readRoot (seRoot e)) = 0 ∧ seDepot e = false) ∧
    (let s := searchWaits [(14, 4), (61, 1)]
      let e := (s.cmd 5).entry
      let u := searchTakes s;
      u.rootStatus (seJob e) (u.readRoot (seRoot e)) = 0 ∧ seDepot e = true ∧ seQuery e = 0 ∧ inDepot (2 ^ 60) 32 = false) ∧
    (let s := searchWaits [(14, 4), (8, 1)]
      let e := (s.cmd 5).entry
      let u := searchTakes s;
      u.rootStatus (seJob e) (u.readRoot (seRoot e)) ≠ 0) := by decide +kernel
theorem witness_SearchAndScanEvents_away :
    let s := (searchWaits [(10, 1)]).setPage 1 { mapped := 1 }
    let e := (s.cmd 5).entry
    s.nextSearch = some 5 ∧ seRoot e = 65536 ∧ (s.usePage 65536).pageReady 1 = false := by decide +kernel
theorem witness_SearchAndScanEvents_walker :
    (let s := searching { live := true, place := 5 };
      s.walkerOf 5 = some (0, 0) ∧ s.nextSearch ≠ some 5 ∧ (s.walker 0 0).live = true ∧ s.open 5 = true ∧ s.stnUp 0 = true ∧
      (s.walker 0 1).live = false ∧ (s.walker 0 0).asked = [] ∧ (s.walker 0 0).rerank = []) ∧
    (∀ g ∈ [0, 2],
      let x : WalkReq := { id := 3, gen := some g }
      let s := searching { live := true, place := 5, root := 2 ^ 50, asked := [x], rerank := [x] }
      let w := s.walker 0 0
      let r := s.readRoot w.root;
      w.asked.find? (fun x => x.id = 3) = some x ∧ s.cameBytes (r.listAt w.level 3) r.listBytes = true ∧
      s.servedGen x (r.listAt w.level 3) r.listBytes = some g ∧ s.genOf (pageOf (r.listAt w.level 3)) = 0 ∧
      w.rerank.find? (fun x => x.id = 3) = some x ∧ s.cameBytes (r.vecAt 3) r.vec = true ∧ s.servedGen x (r.vecAt 3) r.vec = some g ∧
      s.genOf (pageOf (r.vecAt 3)) = 0) := by decide +kernel
theorem witness_SearchAndScanEvents_queues :
    let b : SidingBatch := { root := 2 ^ 50, job := 1, places := [5] }
    let s := (works.setCmd 5 (liveCmd 0x0C []))
    let s := s.setSearch { s.search with batches := [b], mutators := [(2 ^ 50, 5), (2 ^ 50, 6)], shunts := [{ place := 7, root := 2 ^ 50, n := 0, tset := [], fset := [], links := 0, repaired := 0, budget := 0, left := [] }] }
    s.search.batches.find? (fun b => b.root = 2 ^ 50) = some b ∧ s.refusesRun 1 = false ∧ s.refusesRun 9 = true ∧ s.open 5 = true ∧ s.open 6 = false ∧
    sqOpcode (s.cmd 5).entry = 0x0C ∧ s.mutatorRoot 5 = some (2 ^ 50) ∧ s.firstMutator (2 ^ 50) = some 5 ∧
    (s.search.shunts.find? (fun x => x.place = 7)).isSome = true := by decide +kernel
def aScan : ScanCmd :=
  { place := 5, stations := [], format := 0, recordBytes := 64, prog := [], scalars := [], bitmapBits := 0, query := [] }
def scanning (c : ScanCmd) (x : Cmd → Cmd) : State :=
  let s := works.setCmd 5 (x (liveCmd 0x08 [(40, 1)]))
  s.setScans { s.scan with active := [c], waiting := [5] }
theorem witness_SearchAndScanEvents_scan :
    (let s := scanning aScan id;
      s.nextScan = some 5 ∧ s.scanOf 5 = some aScan ∧ s.nextScan ≠ some 6 ∧ s.open 6 = false) ∧
    (∀ next ∈ [0, 8],
      let c : ScanCmd := { aScan with stations := [0], next := next }
      let s := scanning c id;
      s.scanOf 5 = some c ∧ c.stations.contains 0 = true ∧ s.stnUp 0 = true ∧ s.open 5 = true ∧ (s.cmd 5).ready = false ∧
      (s.serveUnits c 0).2.out.find? (fun u => u.station = 0) = none) ∧
    (∀ g ∈ [some 0, none],
      let u : UnitOut := { unit := 0, station := 0, pages := [{ page := 7, gen := g }] }
      u.pages.all (fun y => y.gen.isSome) = g.isSome) := by decide +kernel

/-! LineStates. -/

def lineIn (st : Nat) (l : Line) : State := (withRegs up [(F.brlLineStateState, 3, st), (F.brlCablePresent, 3, 1)]).setLine 3 l
theorem witness_LineStates : ∀ st ∈ [0, 1, 2, 3, 4, 5, 6, 7],
    let s := lineIn st {}
    s.lineSt 3 = st ∧ s.Open ∧ s.host.held = [] ∧ s.fget F.brlCablePresent 3 = 1 ∧ s.fget F.brlCablePwrFault 3 = 0 ∧
    s.fget F.brlCablePresent 4 = 0 ∧ (s.line 3).before = none ∧ (s.line 3).retrains = [] := by
  unfold State.Open
  decide +kernel
theorem witness_LineStates_other :
    let body := 1 :: zeros 15
    byteField body 0 1 = 1 ∧ (lineIn 3 { before := some (0, 0) }).lineSt 3 = 3 ∧
    ((lineIn 3 { before := some (0, 0) }).line 3).before = some (byteField body 4 8, byteField body 1 1 % 32) ∧
    ((lineIn 5 {}).fset F.brlCableType 3 2).fget F.brlCableType 3 = 2 := by decide +kernel

/-! LineFlits. -/

theorem witness_LineFlits :
    (∀ st ∈ [3, 4, 5], (lineIn st {}).lineSt 3 = st ∧ ((lineIn st {}).line 3).again = 0 ∧ ((lineIn st {}).line 3).identDue = false ∧
      ((lineIn st {}).line 3).pickVc (st = 5) = none) ∧
    ((lineIn 5 { again := 1, replay := [zeros 256] }).line 3).again = 1 ∧
    ((lineIn 5 { queue := [⟨0, zeros 32, 0⟩], credits := [1, 0, 0, 0, 0, 0, 0, 0] }).line 3).pickVc true = some 0 ∧
    ((lineIn 3 { identDue := true }).line 3).identDue = true ∧ ((lineIn 5 { replay := [zeros 256] }).line 3).stuck = 0 ∧
    flitGood [] = false := by decide +kernel
theorem witness_LineFlits_good : flitGood (zeros 252 ++ leBytes 4 (crc32 (zeros 252))) = true := by decide +kernel

/-! MeshEvents. -/

def hasPacket (p : List Byte) (st : Nat) (m : Mesh → Mesh) : State :=
  let s := lineIn st { received := [⟨0, p, 1⟩] }
  s.setMesh (m s.mesh)
/-- A packet of a TYPE from module 2 for module `dst`. -/
def packetTo (type dst : Nat) (tail : List Byte) : List Byte :=
  leBytes 4 32 ++ leBytes 1 type ++ zeros 1 ++ leBytes 1 2 ++ leBytes 1 dst ++ leBytes 1 0xFF ++ zeros 7 ++ padTo 16 tail
theorem witness_MeshEvents_none : ∀ ok ∈ [ctlOp 1, ctlOp 2, ctlOp 3], (lineIn 5 {}).packetOn 3 ok = none := by decide +kernel
theorem witness_MeshEvents_ends : ∀ type ∈ [1, 2, 3, 4], ∀ st ∈ [4, 5], ∀ dst ∈ [0, 7],
    let s := (hasPacket (packetTo type dst []) st id).fset F.brlFabricSelf 0 0
    (s.packetOn 3 (s.endsHere type)).isSome = true ∧ s.lineSt 3 = st ∧ s.self = 0 := by decide +kernel
theorem witness_MeshEvents_control : ∀ op ∈ [1, 2, 3],
    let s := hasPacket (packetTo 5 0 (leBytes 1 op)) 5 id
    (s.packetOn 3 (ctlOp op)).isSome = true := by decide +kernel
theorem witness_MeshEvents_via :
    let p := (packetTo 1 7 []).set 8 0
    let s := (hasPacket p 5 id).fset F.brlFabricSelf 0 0
    (s.packetOn 3 (fun p => pkType p != 5 && !(pkDst p = s.self : Bool) && !pkSecond p && pkVia p = s.self)).isSome = true := by
  decide +kernel
theorem witness_MeshEvents_wait :
    let s := up.setMesh { up.mesh with table := some [], steps := [(0, { waiting := true })] }
    s.mesh.table = some [] ∧ (s.mstep 0).running = false ∧ (s.mstep 0).waiting = true ∧ s.mesh.changes = [] ∧ up.mesh.table = none ∧
    ∀ x, x < 24 → up.lineSt x ≠ 4 ∧ up.lineSt x ≠ 5 := by decide +kernel

/-! FlashEvents. -/

def withRead (x : FRead) : State := up.setFread 0 x
theorem witness_FlashEvents_issue : ((withRead { live := true }).fread 0).live = true ∧ ((withRead { live := true }).fread 0).issued = false ∧
    ((withRead {}).fread 0).live = false := by decide +kernel
theorem witness_FlashEvents_done : ∀ why ∈ [ReadWhy.promote, .patrol, .walker],
    let s := withRead { live := true, issued := true, around := true, why := why }
    let x := s.fread 0
    x.live = true ∧ x.issued = true ∧ x.done = false ∧ x.why = why ∧ x.around = true ∧ x.crossed = false ∧ s.raPassed x = false ∧
    s.erasingIn (groupOf x.sec) = [] ∧
    (s.failedSlots (groupOf x.sec)).contains x.slot = false ∧ (s.failedSlots (groupOf x.sec)).length < 2 := by decide +kernel
theorem witness_FlashEvents_around : ∀ credit ∈ [999, 1000],
    let s := withRegs (withRead { live := true, issued := true }) [(F.flsCfgRaUs, 0, 0), (F.flsCfgRaEn, 0, 1), (F.flsGroupRaCredit, 0, credit)]
    let x := s.fread 0
    s.raPassed x = true ∧ s.fbit F.flsCfgRaEn 0 = true ∧ s.fbit F.flsGroupDegraded (groupOf x.sec) = false ∧
    s.fget F.flsGroupRaCredit (groupOf x.sec) = credit := by decide +kernel
theorem witness_FlashEvents_erase :
    let s := up.putSec 3 { up.sec 3 with st := .suspended }
    let t := up.putSec 3 { up.sec 3 with st := .erasing }
    (s.sec 3).st = .suspended ∧ s.mayResume 3 = true ∧ (t.sec 3).st = .erasing ∧ t.fget F.glbMaintOp 0 ≠ 1 ∧
    (t.countErase 3).fbit F.flsGroupDegraded 0 = false ∧
    ((t.fset F.flsGroupDegraded 0 1).countErase 3).fbit F.flsGroupDegraded 0 = true ∧
    (up.fset F.glbMaintOp 0 1).fget F.glbMaintOp 0 = 1 ∧ (up.sec 3).st = .free := by decide +kernel
theorem witness_FlashEvents_queue :
    let s := up.setFlash { up.flash with eraseQ := [3] }
    s.flash.eraseQ.contains 3 = true ∧ ∀ e ∈ s.flash.reads, e.2.live = true → e.2.sec = 3 → e.2.done = true := by decide +kernel
theorem witness_FlashEvents_patrol :
    let s := up.putSec 3 { up.sec 3 with st := .log, units := 2 }
    (s.sec 3).st = .log ∧ 1 < (s.sec 3).units := by decide +kernel
theorem witness_FlashEvents_unit : ∀ m ∈ [true, false], ∀ st ∈ [SecSt.log, .journal], ∀ p ∈ [true, false], ∀ o ∈ [true, false],
    let s := (up.putSec 3 { up.sec 3 with st := st }).setPunit 0 { live := true, sec := 3, merge := m, programming := p, inOrder := o }
    let x := s.punit 0
    x.live = true ∧ x.merge = m ∧ x.programming = p ∧ x.inOrder = o ∧ x.unit = (s.sec x.sec).units ∧ (s.sec x.sec).st = st ∧
    s.fget F.glbMaintOp 0 ≠ 1 := by decide +kernel
theorem witness_FlashEvents_merge : ∀ n ∈ [1023, 1024],
    let s := (up.putSec 3 { up.sec 3 with st := .merging, units := n }).setLsec 0 { target := some 3 }
    (s.lsec 0).target = some 3 ∧ (s.sec 3).units = n ∧ s.flash.units = [] ∧ (up.lsec 0).target = none := by decide +kernel
theorem witness_FlashEvents_checkpoint :
    up.mapsFit = true ∧ up.fullestScatter = none := by decide +kernel

/-! StoreStitchAndHostReads. -/

theorem witness_StoreStitchAndHostReads_program :
    up.cfsDead = false ∧
    (((up.fset F.cfsDevStateFailed 0 1).fset F.cfsDevStateFailed 1 1).badProgram 0 none).cfsDead = true := by decide +kernel
theorem witness_StoreStitchAndHostReads_erase : ∀ gap ∈ [62, 63],
    let s := up.setCfs { up.cfs with erasesDue := [(0, 1)], sinceGap := [(0, gap)] }
    Tbl.look 0 s.cfs.erasesDue 0 ≠ 0 ∧ s.bankHeld 0 16 = false ∧ s.bankHeld 0 15 = false ∧ Tbl.look 0 s.cfs.sinceGap 0 = gap ∧
    Tbl.look 0 up.cfs.erasesDue 0 = 0 := by decide +kernel
theorem witness_StoreStitchAndHostReads_read :
    up.fbit F.cfsDevStateFailed 0 = false ∧ up.fbit F.cfsDevStateFailed 1 = false ∧
    (up.fset F.cfsDevStateFailed 0 1).fbit F.cfsDevStateFailed 0 = true ∧
    (up.fset F.cfsDevStateFailed 1 1).fbit F.cfsDevStateFailed 1 = true ∧ up.cfs.xoLogged = false := by decide +kernel
def stitching (x : Stitch) : State := up.setTt { up.tt with queue := [x] }
theorem witness_StoreStitchAndHostReads_stitch :
    let x : Stitch := { by_ := .module, slot := 1, begun := true, got := [1] }
    let s := stitching x
    s.tt.queue = x :: [] ∧ x.image = none ∧ s.stitchRead x = some [1] ∧ (s.earlyChecks x).isSome = true ∧ up.tt.queue = [] := by
  decide +kernel
theorem witness_StoreStitchAndHostReads_placed : ∀ took ∈ [none, some 1],
    let x : Stitch := { by_ := .module, slot := 1, replace := 1, begun := true, took := took, image := some workImage }
    (stitching x).tt.queue = x :: [] ∧ x.image = some workImage ∧ (stitching x).fbit F.ttbSlotStateFenced 1 = false := by decide +kernel
theorem witness_StoreStitchAndHostReads_host : ∀ op ∈ [0x02, 0x10], ∀ want ∈ [1, 2],
    let s := up.setCmd 3 { live := true, entry := entryOf op [], want := want }
    let c := s.cmd 3
    s.reads 3 = true ∧ c.streams = (op = 0x02 : Bool) ∧ c.got.length + [(0 : Byte)].length ≤ c.want ∧ up.reads 3 = false := by
  decide +kernel

end Sys2Proof.Tests
end

section
/-! SUPPORT. Reserved bits (R13). A write acts on a register's word only through the bits of the register's fields: two written words
that agree on those bits (`Reg.SameFields`) have the same effect, whichever register they reach. That a step keeps reserved bits 0
is a part of what every step keeps (`step_keeps`, Laws/Exec.lean). -/

namespace Sys2Proof.Machine

/-! ## Words that agree on a register's fields -/

/-- Two written words, as numbers, that differ in a register's reserved bits at most. -/
def Reg.SameFields (r : Reg) (m n : Nat) : Prop := ∀ k, r.reservedNat.testBit k = false → m.testBit k = n.testBit k

/-- The form in which the statement says it, bit by bit. -/
theorem sameFields_of_xor {row : RegRow} (hrow : row ∈ regRows) {v w : Word64} (h : (v ^^^ w) &&& ~~~row.reserved = 0) :
    row.reg.SameFields v.toNat w.toNat := by
  intro k hk
  by_cases h64 : k < 64
  · have hres : row.reserved.getLsbD k = false := by rw [reserved_eq row hrow, BitVec.getLsbD_ofNat, hk, Bool.and_false]
    have hbit : ((v ^^^ w) &&& ~~~row.reserved).getLsbD k = false := by rw [h]; exact BitVec.getLsbD_zero
    rw [BitVec.getLsbD_and, BitVec.getLsbD_xor, BitVec.getLsbD_not, hres] at hbit
    show v.getLsbD k = w.getLsbD k
    simpa [h64] using hbit
  · exact (BitVec.getLsbD_of_ge v k (by omega)).trans (BitVec.getLsbD_of_ge w k (by omega)).symm

/-- A bit of a word that is no reserved bit. -/
theorem Reg.SameFields.getLsbD_eq {r : Reg} {v w : Word64} (h : r.SameFields v.toNat w.toNat) (k : Nat)
    (hk : r.reservedNat.testBit k = false) : v.getLsbD k = w.getLsbD k := h k hk

/-- Bits of a number among which there is no reserved bit. -/
theorem Reg.SameFields.bitsOf_eq {r : Reg} {m n : Nat} (h : r.SameFields m n) (lsb width : Nat)
    (hfree : ∀ k < width, r.reservedNat.testBit (lsb + k) = false) : bitsOf m lsb width = bitsOf n lsb width := by
  apply Nat.eq_of_testBit_eq
  intro k
  rw [testBit_bitsOf, testBit_bitsOf]
  by_cases hk : k < width
  · rw [h _ (hfree k hk)]
  · simp [hk]

/-- A mask that lies within the register's fields takes the same bits of both words. -/
theorem Reg.SameFields.and_eq {r : Reg} {v w m : Word64} (h : r.SameFields v.toNat w.toNat) (hm : r.fits m) : v &&& m = w &&& m := by
  apply BitVec.eq_of_getLsbD_eq
  intro k _
  rw [BitVec.getLsbD_and, BitVec.getLsbD_and]
  cases hk : r.reservedNat.testBit k with
  | false => rw [h.getLsbD_eq k hk]
  | true => rw [(r.fits_iff m).1 hm k hk, Bool.and_false, Bool.and_false]

theorem Reg.SameFields.and_written {r : Reg} {v w : Word64} (h : r.SameFields v.toNat w.toNat) (written : Word64) :
    r.SameFields (v &&& written).toNat (w &&& written).toNat := by
  intro k hk
  rw [BitVec.toNat_and, BitVec.toNat_and, Nat.testBit_and, Nat.testBit_and, h k hk]

/-- The words that a write of some of the bits leaves. -/
theorem Reg.SameFields.merged {r : Reg} {v w : Word64} (h : r.SameFields v.toNat w.toNat) (old written : Word64) :
    r.SameFields (merged old written v) (merged old written w) := by
  intro k hk
  unfold Machine.merged
  rw [BitVec.toNat_or, BitVec.toNat_or, Nat.testBit_or, Nat.testBit_or, h.and_written written k hk]

/-! ## The masks of the access codes -/

/-- The fields of one access code cover no bit that all fields together leave. -/
theorem getLsbD_foldl_bitsWith (a : Acc) (k : Nat) (fs : List (Nat × Nat × Acc)) (m n : Word64)
    (hmn : m.getLsbD k = true → n.getLsbD k = true) :
    (fs.foldl (fun m f => if f.2.2 = a then m ||| BitVec.ofNat 64 (2 ^ (f.1 + f.2.1) - 2 ^ f.1) else m) m).getLsbD k = true →
      (fs.foldl (fun m f => m ||| BitVec.ofNat 64 (2 ^ (f.1 + f.2.1) - 2 ^ f.1)) n).getLsbD k = true := by
  induction fs generalizing m n with
  | nil => exact hmn
  | cons f fs ih =>
    apply ih
    intro hm
    dsimp only at hm
    rw [BitVec.getLsbD_or]
    split at hm
    · rw [BitVec.getLsbD_or, Bool.or_eq_true] at hm
      exact Bool.or_eq_true _ _ ▸ hm.imp_left hmn
    · rw [hmn hm, Bool.true_or]

/-- The mask of an access code leaves reserved bits 0, for every code. -/
theorem bitsWith_fits {row : RegRow} (hrow : row ∈ regRows) (a : Acc) : row.reg.fits (row.bitsWith a) := by
  rw [Reg.fits_iff]
  intro k hk
  by_contra hin
  rw [Bool.not_eq_false] at hin
  have h64 : k < 64 := BitVec.lt_of_getLsbD hin
  have hcovered := getLsbD_foldl_bitsWith a k row.fields 0 0 id hin
  have hres : row.reserved.getLsbD k = true := by rw [reserved_eq row hrow, BitVec.getLsbD_ofNat, hk, decide_eq_true h64]; rfl
  rw [RegRow.reserved, BitVec.getLsbD_not, hcovered, Bool.not_true, Bool.and_false] at hres
  exact Bool.noConfusion hres

/-! ## What each register's write takes of the word -/

theorem State.fset_congr (s : State) (f : Fld) (i : Nat) {v w : Nat} (h : v % 2 ^ f.width = w % 2 ^ f.width) :
    s.fset f i v = s.fset f i w := by
  unfold State.fset withBits
  rw [h]

/-- JOB.CTL keeps 18 low bits and the scalar mask of a written word. -/
theorem State.jobCtlTake_congr (s : State) {m n : Nat} (run : State → Nat × State) (h : Reg.jobCtl.SameFields m n) :
    s.jobCtlTake m run = s.jobCtlTake n run := by
  have hlow : m % 2 ^ 18 = n % 2 ^ 18 := by simpa [bitsOf] using h.bitsOf_eq 0 18 (by decide)
  have hmask : m / 2 ^ 32 % 2 ^ 32 = n / 2 ^ 32 % 2 ^ 32 := h.bitsOf_eq 32 32 (by decide)
  unfold State.jobCtlTake
  rw [hlow, hmask]

theorem State.ctlRun_congr {m n : Nat} (h : Reg.jobCtl.SameFields m n) : State.ctlRun m = State.ctlRun n := by
  funext s
  unfold State.ctlRun
  rw [h.bitsOf_eq 0 4 (by decide), h.bitsOf_eq 4 8 (by decide), h.bitsOf_eq 12 6 (by decide), h.bitsOf_eq 32 32 (by decide)]

theorem State.unlockAsk_congr {m n : Nat} (h : Reg.glbUnlockCtl.SameFields m n) : State.unlockAsk m = State.unlockAsk n := by
  funext s
  unfold State.unlockAsk
  rw [h 0 rfl, h 1 rfl]

theorem State.keyWord_congr (s : State) {m n : Nat} (h : Reg.secKeyCtl.SameFields m n) : s.keyWord m = s.keyWord n := by
  unfold State.keyWord
  rw [h.bitsOf_eq 0 2 (by decide), h.bitsOf_eq 8 3 (by decide)]

theorem State.rawWord_congr (s : State) {m n : Nat} (h : Reg.flsRawCtl.SameFields m n) (off : Nat) :
    s.rawWord m off = s.rawWord n off := by
  unfold State.rawWord
  rw [h 0 rfl]

theorem State.setEventCfg_congr (s : State) {m n : Nat} (h : Reg.glbEventCfg.SameFields m n) : s.setEventCfg m = s.setEventCfg n := by
  have hvector : m % 2 ^ F.glbEventCfgVector.width = n % 2 ^ F.glbEventCfgVector.width := by
    simpa [bitsOf, F.glbEventCfgVector] using h.bitsOf_eq 0 11 (by decide)
  unfold State.setEventCfg
  rw [s.fset_congr F.glbEventCfgVector 0 hvector, h.bitsOf_eq 11 1 (by decide), h.bitsOf_eq 32 16 (by decide)]

theorem State.adminWord_congr (s : State) {m n : Nat} (h : Reg.queAdminCtl.SameFields m n) : s.adminWord m = s.adminWord n := by
  unfold State.adminWord
  rw [h 0 rfl, h 1 rfl]

/-- A write that is a command acts the same whatever its reserved bits hold. -/
theorem State.ownWrite_congr (s : State) (r : Reg) (i off : Nat) (written : Word64) {v w : Word64}
    (h : r.SameFields v.toNat w.toNat) : s.ownWrite r i off written v = s.ownWrite r i off written w := by
  have hm := h.merged (s.rget r i) written
  unfold State.ownWrite
  dsimp only
  split
  case h_1 => rw [s.jobCtlTake_congr _ hm, State.ctlRun_congr hm]
  case h_2 => rw [hm.bitsOf_eq 0 7 (by decide)]
  case h_3 => rw [hm 0 rfl, hm 1 rfl]
  case h_4 => rw [hm 0 rfl]
  case h_5 => rw [hm.bitsOf_eq 8 3 (by decide), State.unlockAsk_congr hm]
  case h_6 => rw [s.keyWord_congr hm]
  case h_7 => rw [s.rawWord_congr hm]
  case h_8 => rw [s.setEventCfg_congr hm]
  case h_9 => rw [s.adminWord_congr hm]
  case h_10 => rfl

theorem State.writeEffects_congr (s : State) (r : Reg) (i : Nat) (old : Word64) {v w : Word64}
    (h : r.SameFields v.toNat w.toNat) : s.writeEffects r i old v = s.writeEffects r i old w := by
  unfold State.writeEffects
  split
  case h_1 => rw [h.getLsbD_eq 63 rfl]
  case h_2 => rw [h.getLsbD_eq 25 rfl]
  case h_3 => rw [h.getLsbD_eq 8 rfl]
  case h_4 => rw [h.getLsbD_eq 1 rfl]
  case h_5 => rfl

/-- A write that stores fields acts the same whatever its reserved bits hold: the bits it takes and those it clears lie in fields. -/
theorem State.applyWrite_congr (s : State) {row : RegRow} (hrow : row ∈ regRows) (i : Nat) (written : Word64) {v w : Word64}
    (h : row.reg.SameFields v.toNat w.toNat) : s.applyWrite row i written v = s.applyWrite row i written w := by
  have hopen : row.reg.fits (if s.locked then 0 else row.bitsWith .rwl) := by
    split
    · exact Reg.fits_zero _
    · exact bitsWith_fits hrow .rwl
  have htake := h.and_eq (fits_and (v := written) (fits_or (bitsWith_fits hrow .rw) hopen))
  have hclear : row.bitsWith .w1c &&& written &&& v = row.bitsWith .w1c &&& written &&& w := by
    rw [BitVec.and_comm _ v, BitVec.and_comm _ w]
    exact h.and_eq (fits_and (bitsWith_fits hrow .w1c))
  unfold State.applyWrite
  dsimp only
  rw [htake, hclear, State.writeEffects_congr _ _ _ _ (h.and_written written)]

/-- A write that lands acts the same whatever its reserved bits hold; the lock's refusal looks at the written bits' places only. -/
theorem State.landWrite_congr (s : State) {row : RegRow} (hrow : row ∈ regRows) (i off : Nat) (written : Word64) {v w : Word64}
    (h : row.reg.SameFields v.toNat w.toNat) : s.landWrite row i off written v = s.landWrite row i off written w := by
  unfold State.landWrite
  simp only [State.ownWrite_congr _ row.reg i off written h, State.applyWrite_congr _ hrow i written h]

/-! ## The statement -/

theorem step_reservedZero {s t : State} (e : step s = .next t) (z : s.ReservedZero) : t.ReservedZero := (step_keeps e).reserved z

/-- Settles O4: reserved bits at 0 are a part of what every step keeps, and a landing write takes bits of fields only. -/
theorem reservedBits : Obligations.ReservedBits :=
  ⟨fun _ _ z e => step_reservedZero e z,
    fun _ hrow s i off written _ _ h => s.landWrite_congr hrow i off written (sameFields_of_xor hrow h)⟩

end Sys2Proof.Machine
end

section
/-! SUPPORT. Writes of JOB.BATCH_CFG and JOB.RERUN_CFG (R124, R155). A write that lands on a register without a command, a lock or an
effect of its own does one thing: it stores a word made of the old one and the written rw bits (`RegRow.StoresOnly`). The two halves
of a 64-bit register's word join to the whole (R602), so that both ways of writing JOB.BATCH_CFG store the same word. -/

namespace Sys2Proof.Machine

/-! ## The offset map at the two registers -/

theorem RegRow.hit_below {r : RegRow} {off : Nat} (h : off < r.base) : r.hit off = none := if_pos h

/-- The bytes of unit `i`'s word, in a register that one unit number indexes. -/
theorem RegRow.hit_unit {r : RegRow} {stride count i o off : Nat} (hdims : r.dims = [(stride, count)]) (hi : i < count) (hs : o < stride)
    (ho : o < r.bits / 8) (hoff : off = r.base + (stride * i + o)) : r.hit off = some (r, i) := by
  have hdiv : (stride * i + o) / stride = i := by rw [Nat.mul_add_div (by omega), Nat.div_eq_of_lt hs, Nat.add_zero]
  have hmod : (stride * i + o) % stride = o := by rw [Nat.mul_add_mod, Nat.mod_eq_of_lt hs]
  have hflat : flatIndex r.dims (stride * i + o) 0 = some (i, o) := by simp [hdims, flatIndex, hdiv, hmod, hi]
  simp [RegRow.hit, hoff, hflat, ho]

/-- An offset between a register's units, or past them. -/
theorem RegRow.hit_between {r : RegRow} {off : Nat} (h : flatIndex r.dims (off - r.base) 0 = none) : r.hit off = none := by
  simp [RegRow.hit, h]

/-- Below the stations' registers the offset map begins with the registers of block JOB. -/
theorem regAt_of_rowsJob {off : Nat} {x : RegRow × Nat} (h : off < 0x800000) (hjob : rowsJob.findSome? (fun r => r.hit off) = some x) :
    regAt off = some x := by
  have hbase : ∀ r ∈ rowsStn, 0x800000 ≤ r.base := by decide
  have hstn : rowsStn.findSome? (fun r => r.hit off) = none :=
    List.findSome?_eq_none_iff.2 fun r hr => RegRow.hit_below (Nat.lt_of_lt_of_le h (hbase r hr))
  simp only [regAt, regRows, List.append_assoc, List.findSome?_append, hstn, hjob, Option.none_or, Option.some_or]

/-- JOB.BATCH_CFG's row of the offset map. -/
def batchCfgRow : RegRow := ⟨.jobBatchCfg, 0x208000, [(0x40, 256)], 64, [(0, 13, .rw), (16, 16, .rw), (32, 13, .ro), (45, 1, .ro)]⟩

/-- JOB.RERUN_CFG's row of the offset map. -/
def rerunCfgRow : RegRow := ⟨.jobRerunCfg, 0x20c000, [(0x40, 256)], 32, [(0, 4, .rw), (4, 4, .ro), (8, 4, .rw)]⟩

theorem regAt_batchCfg (j : JobId) {off o : Nat} (ho : o < 8) (hoff : off = 0x208000 + (0x40 * j.val + o)) :
    regAt off = some (batchCfgRow, j.val) := by
  have hit : batchCfgRow.hit off = some (batchCfgRow, j.val) := RegRow.hit_unit rfl j.isLt (by omega) ho hoff
  refine regAt_of_rowsJob (by omega) ?_
  change (batchCfgRow :: rowsJob.tail).findSome? _ = _
  rw [List.findSome?_cons, hit]

/-- The two registers before JOB.RERUN_CFG end below it: the job numbers of the one, and the seven counters of the other. -/
theorem regAt_rerunCfg (j : JobId) {off : Nat} (hoff : off = 0x20C000 + 0x40 * j.val) : regAt off = some (rerunCfgRow, j.val) := by
  have hit : rerunCfgRow.hit off = some (rerunCfgRow, j.val) :=
    RegRow.hit_unit (o := 0) rfl j.isLt (by decide) (by decide) (by simpa [rerunCfgRow] using hoff)
  have missCfg : batchCfgRow.hit off = none := by
    have hpast : ¬ (off - 0x208000) / 0x40 < 256 := by omega
    exact RegRow.hit_between (if_neg hpast)
  have missCtr : RegRow.hit ⟨.jobBatchCtr, 0x208008, [(0x40, 256), (0x8, 7)], 64, [(0, 48, .ro)]⟩ off = none := by
    have hpast : ¬ (off - 0x208008) % 0x40 / 0x8 < 7 := by omega
    exact RegRow.hit_between ((ite_congr rfl (fun _ => if_neg hpast) (fun _ => rfl)).trans (ite_self none))
  refine regAt_of_rowsJob (by omega) ?_
  change (batchCfgRow :: _ :: rerunCfgRow :: rowsJob.drop 3).findSome? _ = _
  rw [List.findSome?_cons, missCfg, List.findSome?_cons, missCtr, List.findSome?_cons, hit]

/-! ## A write of BAR0 -/

/-- Discarding a held half changes what the host side holds at most, and not its link. -/
theorem State.dropHeld_eq_setHost (s : State) (off : Nat) : ∃ h, s.dropHeld off = s.setHost h ∧ h.link = s.host.link := by
  unfold State.dropHeld
  split
  · split
    · exact ⟨s.host, rfl, rfl⟩
    · exact ⟨_, rfl, rfl⟩
  · exact ⟨s.host, rfl, rfl⟩

/-- The low half held stays for the write of its own high half. -/
theorem State.dropHeld_of_own {s : State} {off low : Nat} (hheld : s.host.heldLow = some (off, low)) (hoff : off % 8 = 0) :
    s.dropHeld (off + 4) = s := by
  have hown : off = (off + 4) / 8 * 8 := by omega
  simp [State.dropHeld, hheld, ← hown]

theorem badSize_of_aligned {off size : Nat} (hsize : size = 4 ∨ size = 8) (hoff : off % size = 0) : badSize off size = false := by
  rcases hsize with rfl | rfl <;> simp [badSize, hoff]

/-- A write of BAR0 of a good size at a register's offset (R601, R602). -/
theorem exec_registerWrite_bar0 {s : State} (hears : s.hears = true) {off size : Nat} (v : Word64) (hsize : badSize off size = false)
    {r : RegRow} {i : Nat} (hat : regAt off = some (r, i)) :
    exec (.registerWrite 0 off size v) s = .next ((s.dropHeld off).regWrite r i off size v) := by
  change execRegisterWrite 0 off size v s = _
  simp [execRegisterWrite, State.privWrite, hears, hsize, hat]

/-- The low half of a 64-bit register's word is held. -/
theorem State.regWrite_low (s : State) {r : RegRow} (i : Nat) {off : Nat} (v : Word64) (hbits : r.bits ≠ 32) (hoff : off % 8 = 0) :
    s.regWrite r i off 4 v = s.setHost { s.host with heldLow := some (off, (v &&& lowHalf).toNat) } := by
  simp [State.regWrite, hbits, hoff]

/-- Its high half joins the low half held, and the whole word is written. -/
theorem State.regWrite_high {s : State} {r : RegRow} (i : Nat) {off low : Nat} (v : Word64) (hbits : r.bits ≠ 32) (hoff : off % 8 = 0)
    (hheld : s.host.heldLow = some (off, low)) : s.regWrite r i (off + 4) 4 v =
      (s.setHost { s.host with heldLow := none }).landWrite r i (off + 4) (BitVec.allOnes 64) (BitVec.ofNat 64 low ||| (v <<< 32)) := by
  have hhigh : ¬ (off + 4) % 8 = 0 := by omega
  simp [State.regWrite, hbits, hhigh, hheld]

/-- The halves of a word join to it. -/
theorem halves_join (v : Word64) : BitVec.ofNat 64 ((v &&& 0xFFFFFFFF) &&& lowHalf).toNat ||| (v >>> 32) <<< 32 = v := by
  have hmask : ∀ k < 64, ((0xFFFFFFFF : Word64) &&& lowHalf).getLsbD k = decide (k < 32) := by decide
  rw [BitVec.ofNat_toNat, BitVec.setWidth_eq, BitVec.and_assoc]
  apply BitVec.eq_of_getLsbD_eq
  intro k hk
  rw [BitVec.getLsbD_or, BitVec.getLsbD_and, hmask k hk, BitVec.getLsbD_shiftLeft, BitVec.getLsbD_ushiftRight]
  by_cases h32 : k < 32
  · simp [h32]
  · simp [h32, hk, Nat.add_sub_of_le (Nat.le_of_not_lt h32)]

/-! ## Registers whose writes store their rw bits and do nothing else -/

/-- A register below the units that can be fenced, with no field that the lock governs or that a 1 clears, no command and no effect
of its own. -/
structure RegRow.StoresOnly (r : RegRow) : Prop where
  unfenced : r.base < 0x800000
  unlocked : r.bitsWith .rwl = 0
  unclearing : r.bitsWith .w1c = 0
  noCommand : r.reg ∉ ownRows
  noEffect : ∀ (s : State) (i : Nat) (old value : Word64), s.writeEffects r.reg i old value = s

/-- The old word with its written rw bits replaced. -/
def RegRow.mergedRw (r : RegRow) (old written value : Word64) : Nat := merged old (r.bitsWith .rw &&& written) value

/-- The word that such a write stores. -/
def RegRow.stored (r : RegRow) (old written value : Word64) : Word64 :=
  BitVec.ofNat 64 (storedWord r.reg old.toNat (r.mergedRw old written value))

theorem RegRow.StoresOnly.landWrite {r : RegRow} (h : r.StoresOnly) (s : State) (i off : Nat) (written value : Word64) :
    s.landWrite r i off written value = s.rset r.reg i (r.stored (s.rget r.reg i) written value) := by
  have hfence : s.unitFenced r off = false := by
    unfold State.unitFenced
    have hbelow := h.unfenced
    rw [if_neg (by omega), if_neg (by omega)]
  have hclear (m : Word64) : m &&& ~~~(r.bitsWith .w1c &&& written &&& value) = m := by
    simpa [h.unclearing] using BitVec.and_allOnes (x := m)
  have hlock : (r.bitsWith .rw ||| if s.locked then 0 else r.bitsWith .rwl) = r.bitsWith .rw := by simp [h.unlocked]
  have hrefuse : ¬ (s.locked = true ∧ r.bitsWith .rwl &&& written ≠ 0) := by simp [h.unlocked]
  unfold State.landWrite State.applyWrite
  simp only [hfence, Bool.false_eq_true, if_false, if_neg hrefuse, if_neg h.noCommand, hlock, hclear, h.noEffect]
  rfl

theorem batchCfgRow_storesOnly : batchCfgRow.StoresOnly :=
  ⟨by decide, by decide, by decide, by decide, fun _ _ _ _ => rfl⟩

theorem rerunCfgRow_storesOnly : rerunCfgRow.StoresOnly :=
  ⟨by decide, by decide, by decide, by decide, fun _ _ _ _ => rfl⟩

/-! ## Fields of the word a write leaves -/

theorem testBit_merged (old mask value : Word64) (k : Nat) :
    (merged old mask value).testBit k = if mask.getLsbD k then value.getLsbD k else old.getLsbD k := by
  change ((old &&& ~~~mask) ||| (value &&& mask)).getLsbD k = _
  rw [BitVec.getLsbD_or, BitVec.getLsbD_and, BitVec.getLsbD_and, BitVec.getLsbD_not]
  by_cases hk : k < 64
  · cases hm : mask.getLsbD k <;> simp [hk]
  · simp [BitVec.getLsbD_of_ge _ k (Nat.le_of_not_lt hk)]

theorem bitsOf_merged_taken (old mask value : Word64) {lsb width : Nat} (h : ∀ k < width, mask.getLsbD (lsb + k) = true) :
    bitsOf (merged old mask value) lsb width = bitsOf value.toNat lsb width := by
  apply Nat.eq_of_testBit_eq
  intro k
  rw [testBit_bitsOf, testBit_bitsOf, testBit_merged]
  by_cases hk : k < width
  · rw [if_pos (h k hk)]; rfl
  · simp [hk]

theorem bitsOf_merged_kept (old mask value : Word64) {lsb width : Nat} (h : ∀ k < width, mask.getLsbD (lsb + k) = false) :
    bitsOf (merged old mask value) lsb width = bitsOf old.toNat lsb width := by
  apply Nat.eq_of_testBit_eq
  intro k
  rw [testBit_bitsOf, testBit_bitsOf, testBit_merged]
  by_cases hk : k < width
  · rw [if_neg (by rw [h k hk]; exact Bool.false_ne_true)]; rfl
  · simp [hk]

theorem RegRow.mergedRw_lt (r : RegRow) (old written value : Word64) : r.mergedRw old written value < 2 ^ 64 := BitVec.isLt _

theorem State.fget_rset_same (s : State) (f : Fld) (i : Nat) (w : Word64) : (s.rset f.reg i w).fget f i = bitsOf w.toNat f.lsb f.width := by
  rw [State.fget, State.rget_rset_same]

/-! ## JOB.BATCH_CFG's word (R124) -/

/-- With ENABLED 0 the old word stays. -/
theorem batchCfg_stored_disabled {old : Word64} (h : bitsOf old.toNat 45 1 = 0) (v : Word64) :
    batchCfgRow.stored old (BitVec.allOnes 64) v = old := by
  change BitVec.ofNat 64 (if _ then _ else _) = old
  rw [if_pos h, BitVec.ofNat_toNat, BitVec.setWidth_eq]

/-- With ENABLED 1 the written fields are taken, and then TARGET_M falls to ROW_CAP where it is 0 or above it. -/
theorem batchCfg_stored_enabled {old : Word64} (h : bitsOf old.toNat 45 1 = 1) (v : Word64) :
    (batchCfgRow.stored old (BitVec.allOnes 64) v).toNat =
      if bitsOf v.toNat 0 13 = 0 ∨ bitsOf old.toNat 32 13 < bitsOf v.toNat 0 13
      then withBits (batchCfgRow.mergedRw old (BitVec.allOnes 64) v) 0 13 (bitsOf old.toNat 32 13)
      else batchCfgRow.mergedRw old (BitVec.allOnes 64) v := by
  have htarget : bitsOf (batchCfgRow.mergedRw old (BitVec.allOnes 64) v) 0 13 = bitsOf v.toNat 0 13 :=
    bitsOf_merged_taken _ _ _ (by decide)
  have hold : ¬ bitsOf old.toNat 45 1 = 0 := by omega
  change (BitVec.ofNat 64 (if _ then _ else if _ then _ else _)).toNat = _
  rw [if_neg hold, htarget, BitVec.toNat_ofNat, Nat.mod_eq_of_lt]
  split
  · exact withBits_lt _ _ _ _ (RegRow.mergedRw_lt ..) (by decide)
  · exact RegRow.mergedRw_lt ..

theorem batchCfg_stored_target {old : Word64} (h : bitsOf old.toNat 45 1 = 1) (v : Word64) :
    bitsOf (batchCfgRow.stored old (BitVec.allOnes 64) v).toNat 0 13 =
      if bitsOf v.toNat 0 13 = 0 ∨ bitsOf old.toNat 32 13 < bitsOf v.toNat 0 13 then bitsOf old.toNat 32 13 else bitsOf v.toNat 0 13 := by
  rw [batchCfg_stored_enabled h]
  split
  · rw [bitsOf_withBits_same, Nat.mod_eq_of_lt (bitsOf_lt ..)]
  · exact bitsOf_merged_taken _ _ _ (by decide)

/-- The fields above TARGET_M are those of the word merged from the old one and the written bits. -/
theorem batchCfg_stored_above {old : Word64} (h : bitsOf old.toNat 45 1 = 1) (v : Word64) {lsb : Nat} (width : Nat) (hl : 13 ≤ lsb) :
    bitsOf (batchCfgRow.stored old (BitVec.allOnes 64) v).toNat lsb width =
      bitsOf (batchCfgRow.mergedRw old (BitVec.allOnes 64) v) lsb width := by
  rw [batchCfg_stored_enabled h]
  split
  · exact bitsOf_withBits_apart _ _ _ _ _ _ (.inr hl)
  · rfl

/-! ## JOB.RERUN_CFG's word (R155) -/

theorem rerunCfg_stored (old v : Word64) :
    (rerunCfgRow.stored old lowHalf v).toNat =
      withBits (rerunCfgRow.mergedRw old lowHalf v) 0 4 (min (bitsOf v.toNat 0 4) (bitsOf old.toNat 4 4)) := by
  have hlimit : bitsOf (rerunCfgRow.mergedRw old lowHalf v) 0 4 = bitsOf v.toNat 0 4 := bitsOf_merged_taken _ _ _ (by decide)
  change (BitVec.ofNat 64 (withBits _ 0 4 (min _ _))).toNat = _
  rw [hlimit, BitVec.toNat_ofNat, Nat.mod_eq_of_lt (withBits_lt _ _ _ _ (RegRow.mergedRw_lt ..) (by decide))]

theorem rerunCfg_stored_limit (old v : Word64) : bitsOf (rerunCfgRow.stored old lowHalf v).toNat 0 4 =
    if bitsOf old.toNat 4 4 < bitsOf v.toNat 0 4 then bitsOf old.toNat 4 4 else bitsOf v.toNat 0 4 := by
  have hlt := bitsOf_lt v.toNat 0 4
  rw [rerunCfg_stored, bitsOf_withBits_same, Nat.mod_eq_of_lt (by omega)]
  split <;> omega

theorem rerunCfg_stored_ceilAdj (old v : Word64) : bitsOf (rerunCfgRow.stored old lowHalf v).toNat 8 4 = bitsOf v.toNat 8 4 := by
  rw [rerunCfg_stored, bitsOf_withBits_apart _ _ _ _ _ _ (.inr (by decide))]
  exact bitsOf_merged_taken _ _ _ (by decide)

theorem rerunCfg_stored_allow (old v : Word64) : bitsOf (rerunCfgRow.stored old lowHalf v).toNat 4 4 = bitsOf old.toNat 4 4 := by
  rw [rerunCfg_stored, bitsOf_withBits_apart _ _ _ _ _ _ (.inr (by decide))]
  exact bitsOf_merged_kept _ _ _ (by decide)

/-! ## The three ways of writing -/

/-- JOB.BATCH_CFG in 8 bytes. -/
theorem exec_write_batchCfg {s : State} (hears : s.hears = true) (j : JobId) (v : Word64) :
    ∃ h, exec (.registerWrite 0 (0x208000 + 0x40 * j.val) 8 v) s =
      .next ((s.setHost h).rset .jobBatchCfg j.val (batchCfgRow.stored (s.rget .jobBatchCfg j.val) (BitVec.allOnes 64) v)) := by
  have hsize : badSize (0x208000 + 0x40 * j.val) 8 = false := badSize_of_aligned (.inr rfl) (by omega)
  obtain ⟨h, hdrop, -⟩ := s.dropHeld_eq_setHost (0x208000 + 0x40 * j.val)
  refine ⟨h, ?_⟩
  rw [exec_registerWrite_bar0 hears v hsize (regAt_batchCfg j (o := 0) (by decide) (by omega)), hdrop]
  exact congrArg _ (batchCfgRow_storesOnly.landWrite ..)

/-- JOB.BATCH_CFG as its low half, which is held, and then its high half, which stores the whole (R602). -/
theorem exec_write_batchCfg_halves {s : State} (hears : s.hears = true) (j : JobId) (v : Word64) :
    ∃ h h', exec (.registerWrite 0 (0x208000 + 0x40 * j.val) 4 (v &&& 0xFFFFFFFF)) s = .next (s.setHost h) ∧
      exec (.registerWrite 0 (0x208000 + 0x40 * j.val + 4) 4 (v >>> 32)) (s.setHost h) =
        .next ((s.setHost h').rset .jobBatchCfg j.val (batchCfgRow.stored (s.rget .jobBatchCfg j.val) (BitVec.allOnes 64) v)) := by
  obtain ⟨off, hoff⟩ : ∃ off, off = 0x208000 + 0x40 * j.val := ⟨_, rfl⟩
  rw [← hoff]
  have halign : off % 8 = 0 := by omega
  have hlow : badSize off 4 = false := badSize_of_aligned (.inl rfl) (by omega)
  have hhigh : badSize (off + 4) 4 = false := badSize_of_aligned (.inl rfl) (by omega)
  obtain ⟨g, hdrop, hlink⟩ := s.dropHeld_eq_setHost off
  obtain ⟨h, hh⟩ : ∃ h : HostSide, h = { g with heldLow := some (off, ((v &&& 0xFFFFFFFF) &&& lowHalf).toNat) } := ⟨_, rfl⟩
  have hheld : (s.setHost h).host.heldLow = some (off, ((v &&& 0xFFFFFFFF) &&& lowHalf).toNat) := by rw [hh]; rfl
  have hears' : (s.setHost h).hears = true := by
    rw [State.hears, ← hlink] at hears
    rw [hh]
    exact hears
  refine ⟨h, { h with heldLow := none }, ?_, ?_⟩
  · rw [exec_registerWrite_bar0 hears _ hlow (regAt_batchCfg j (o := 0) (by decide) (by omega)), hdrop,
      State.regWrite_low _ _ _ (by decide) halign, hh]
    rfl
  · rw [exec_registerWrite_bar0 hears' _ hhigh (regAt_batchCfg j (o := 4) (by decide) (by omega)), State.dropHeld_of_own hheld halign,
      State.regWrite_high _ _ (by decide) halign hheld, halves_join, batchCfgRow_storesOnly.landWrite]
    rfl

/-- JOB.RERUN_CFG in its 4 bytes. -/
theorem exec_write_rerunCfg {s : State} (hears : s.hears = true) (j : JobId) (v : Word64) :
    ∃ h, exec (.registerWrite 0 (0x20C000 + 0x40 * j.val) 4 v) s =
      .next ((s.setHost h).rset .jobRerunCfg j.val (rerunCfgRow.stored (s.rget .jobRerunCfg j.val) lowHalf v)) := by
  have hsize : badSize (0x20C000 + 0x40 * j.val) 4 = false := badSize_of_aligned (.inl rfl) (by omega)
  obtain ⟨h, hdrop, -⟩ := s.dropHeld_eq_setHost (0x20C000 + 0x40 * j.val)
  refine ⟨h, ?_⟩
  rw [exec_registerWrite_bar0 hears v hsize (regAt_rerunCfg j rfl), hdrop]
  exact congrArg _ (rerunCfgRow_storesOnly.landWrite ..)

/-! ## The statement -/

theorem State.setHost_rset_onlyParts (s : State) (h : HostSide) (r : Reg) (i : Nat) (w : Word64) :
    s.OnlyParts ((s.setHost h).rset r i w) [.regs, .host] :=
  ((s.setHost_onlyParts h).mono (by decide)).trans (((s.setHost h).rset_onlyParts r i w).mono (by decide))

theorem State.setHost_rset_onlyRegs (s : State) (h : HostSide) (r : Reg) (i : Nat) (w : Word64) :
    s.OnlyRegs ((s.setHost h).rset r i w) (fun q k => q = r ∧ k = i) := (s.setHost h).rset_onlyRegs r i w

/-- Settles O31: every way of writing stores one word made of the old one and the written rw bits, whose fields the laws above read. -/
theorem jobRegisterWrites : Obligations.JobRegisterWrites := by
  intro s j v hears off batch
  have stores (h : HostSide) :
      batch ((s.setHost h).rset .jobBatchCfg j.val (batchCfgRow.stored (s.rget .jobBatchCfg j.val) (BitVec.allOnes 64) v)) := by
    have field := (s.setHost h).fget_rset_same
    refine ⟨s.setHost_rset_onlyRegs h _ _ _, s.setHost_rset_onlyParts h _ _ _, fun hoff => ?_, fun hon => ⟨?_, ?_, ?_, ?_⟩⟩
    · exact (State.rget_rset_same ..).trans (batchCfg_stored_disabled hoff v)
    · exact (field F.jobBatchCfgTargetM ..).trans (batchCfg_stored_target hon v)
    · exact (field F.jobBatchCfgWaitUs ..).trans
        ((batchCfg_stored_above hon v 16 (by decide)).trans (bitsOf_merged_taken _ _ _ (by decide)))
    · exact (field F.jobBatchCfgRowCap ..).trans
        ((batchCfg_stored_above hon v 13 (by decide)).trans (bitsOf_merged_kept _ _ _ (by decide)))
    · exact (field F.jobBatchCfgEnabled ..).trans
        ((batchCfg_stored_above hon v 1 (by decide)).trans ((bitsOf_merged_kept _ _ _ (by decide)).trans hon))
  refine ⟨?_, ?_, ?_⟩
  · obtain ⟨h, e⟩ := exec_write_batchCfg hears j v
    exact ⟨_, e, stores h⟩
  · obtain ⟨h, h', low, high⟩ := exec_write_batchCfg_halves hears j v
    exact ⟨_, _, low, high, fun _ _ _ => rfl, stores h'⟩
  · obtain ⟨h, e⟩ := exec_write_rerunCfg hears j v
    have field := (s.setHost h).fget_rset_same
    refine ⟨_, e, s.setHost_rset_onlyRegs h _ _ _, s.setHost_rset_onlyParts h _ _ _, ?_, ?_, ?_⟩
    · exact (field F.jobRerunCfgLimit ..).trans (rerunCfg_stored_limit ..)
    · exact (field F.jobRerunCfgCeilAdj ..).trans (rerunCfg_stored_ceilAdj ..)
    · exact (field F.jobRerunCfgAllow ..).trans (rerunCfg_stored_allow ..)

end Sys2Proof.Machine
end

section
/-! SUPPORT. What every step keeps (`step_keeps`, Laws/Exec.lean), read off for the queue, the memories, the identity, the fused SVN and
the lock; and what the module starts with. -/

namespace Sys2Proof.Machine

/-! ## A step -/

/-- Settles O1. -/
theorem stepRunsFront : Obligations.StepRunsFront := fun _ _ => rfl

/-- Settles O3: the queue is a part of what every command keeps. -/
theorem commandsLeaveTheQueue : Obligations.CommandsLeaveTheQueue := fun _ _ _ e => (exec_keeps e).pending

/-! ## Invariants -/

/-- Settles O5: the queue is no memory, and what runs behind it keeps the memories. -/
theorem memoriesStayCanonical : Obligations.MemoriesStayCanonical := fun _ _ canonical e => (step_keeps e).memories canonical

/-- Settles O6. -/
theorem identityIsFixed : Obligations.IdentityIsFixed := fun _ _ fixed e => (step_keeps e).fixed fixed

/-- Settles O7. -/
theorem svnNeverFalls : Obligations.SvnNeverFalls := fun _ _ e => (step_keeps e).svn

/-! ## The lock -/

/-- A command after which a lock that was set reads clear: a verification that unlocks, or the end of the flush. -/
theorem exec_clears_lock {c : Instr} {s t : State} (e : exec c s = .next t) (hset : s.fget F.glbPrivLockLock 0 = 1)
    (hclear : t.fget F.glbPrivLockLock 0 ≠ 1) :
    (c = .unlockVerifyDone ∧ s.security.verifying = true ∧ s.unlockResult = 1) ∨
      (c = .holdUpFlushDone ∧ s.power.supply = .flushing) := by
  have hmoved : t.rget .glbPrivLock 0 ≠ s.rget .glbPrivLock 0 := fun h => hclear (by rw [← hset, State.fget, State.fget]; exact h ▸ rfl)
  have hmay : ¬ leavesLock s c := fun h => hmoved ((exec_keeps e).lock h)
  cases c
  case privLockSet => exact absurd hset hmay
  case registerWrite => exact absurd hset hmay
  case unlockVerifyDone =>
    refine .inl ⟨rfl, ?_, not_not.1 hmay⟩
    by_contra hidle
    obtain rfl : s = t := Host.Outcome.next.inj ((congrArg Host.Outcome.next (if_neg hidle).symm).trans e)
    exact hmoved rfl
  case holdUpFlushDone =>
    refine .inr ⟨rfl, ?_⟩
    by_contra hidle
    obtain rfl : s = t := Host.Outcome.next.inj ((congrArg Host.Outcome.next (if_neg hidle).symm).trans e)
    exact hmoved rfl
  all_goals exact absurd trivial hmay

/-- Settles O8: of the commands that may touch the lock, those that set it leave a set lock alone. -/
theorem lockStaysSet : Obligations.LockStaysSet := by
  intro s t e hset hclear
  cases hqueue : s.pending with
  | nil =>
    have hsame := (step_keeps e).lock fun c rest h => by simp [hqueue] at h
    refine absurd ?_ hclear
    rw [State.fget, show t.rget F.glbPrivLockLock.reg 0 = s.rget F.glbPrivLockLock.reg 0 from hsame]
    exact hset
  | cons c rest =>
    have e' : exec c { s with pending := rest } = .next t := by simpa only [step, hqueue] using e
    refine ⟨rest, (exec_clears_lock e' hset hclear).imp ?_ ?_⟩
    · rintro ⟨rfl, hverifying, hresult⟩
      exact ⟨rfl, hverifying, hresult⟩
    · rintro ⟨rfl, hflushing⟩
      exact ⟨rfl, hflushing⟩

/-! ## Reset -/

theorem reset_reservedZero : State.reset.ReservedZero := fun row hrow i => by
  rw [reserved_eq row hrow]
  exact resetWord_fits row.reg i

/-- Settles O9: nothing has been written, so that every register reads its reset word and every memory is empty. -/
theorem invariantsAtReset : Obligations.InvariantsAtReset :=
  ⟨reset_reservedZero, ⟨rfl, rfl, fun _ h => absurd h List.not_mem_nil⟩, fun _ _ _ => rfl⟩

/-- A field at reset is a field of the register's reset word. -/
theorem reset_fget {f : Fld} {i v : Nat} (w : Word64) (hword : State.reset.rget f.reg i = w) (hfield : bitsOf w.toNat f.lsb f.width = v) :
    State.reset.fget f i = v := by
  rw [State.fget, hword, hfield]

/-- Settles O10: the reset words of the register tables. -/
theorem registersAtReset : Obligations.RegistersAtReset :=
  ⟨fun _ => reset_fget (BitVec.ofNat 64 (1 + 1523712 * 2 ^ 8)) rfl (by decide),
    fun _ => reset_fget (BitVec.ofNat 64 (1 + 511 * 2 ^ 5)) rfl (by decide),
    rfl, rfl, rfl, rfl, fun _ => reset_fget 0x100001 rfl (by decide), rfl, rfl, rfl, fun _ => reset_fget 0 rfl (by decide), rfl⟩

end Sys2Proof.Machine
end

section
/-! SUPPORT. Frames: which parts of the state and which registers a chain of updates leaves alone, as equations that `simp` reads through
the chain; and fields of registers that stand apart from a written one. -/

namespace Sys2Proof.Machine

/-! ## Parts -/

/-- The parts one by one, for `simp` to read through a chain of updates. -/
theorem State.onlyParts_iff (s t : State) (ps : List Part) : s.OnlyParts t ps ↔
    (.pending ∉ ps → t.pending = s.pending) ∧ (.freeCtr ∉ ps → t.freeCtr = s.freeCtr) ∧ (.regs ∉ ps → t.regs = s.regs) ∧
    (.host ∉ ps → t.host = s.host) ∧ (.depot ∉ ps → t.depot = s.depot) ∧ (.flash ∉ ps → t.flash = s.flash) ∧
    (.cfs ∉ ps → t.cfs = s.cfs) ∧ (.ecc ∉ ps → t.ecc = s.ecc) ∧ (.power ∉ ps → t.power = s.power) ∧ (.tt ∉ ps → t.tt = s.tt) ∧
    (.jobs ∉ ps → t.jobs = s.jobs) ∧ (.stations ∉ ps → t.stations = s.stations) ∧ (.search ∉ ps → t.search = s.search) ∧
    (.scan ∉ ps → t.scan = s.scan) ∧ (.mesh ∉ ps → t.mesh = s.mesh) ∧ (.junctions ∉ ps → t.junctions = s.junctions) ∧
    (.bridges ∉ ps → t.bridges = s.bridges) ∧ (.security ∉ ps → t.security = s.security) := by
  constructor
  · exact fun h => ⟨h _, h _, h _, h _, h _, h _, h _, h _, h _, h _, h _, h _, h _, h _, h _, h _, h _, h _⟩
  · rintro ⟨h1, h2, h3, h4, h5, h6, h7, h8, h9, h10, h11, h12, h13, h14, h15, h16, h17, h18⟩ x
    cases x <;> assumption

/-- One more update, of parts that may change. -/
theorem State.OnlyParts.next {s t u : State} {ps qs : List Part} (h : s.OnlyParts t ps) (k : t.OnlyParts u qs)
    (hq : ∀ x ∈ qs, x ∈ ps := by decide) : s.OnlyParts u ps := h.trans (k.mono hq)

@[simp] theorem State.setQcfg_host (s : State) (q : Nat) (c : QueueCfg) :
    (s.setQcfg q c).host = { s.host with queues := Tbl.put {} s.host.queues q c } := (rfl)

/-! ## Registers -/

/-- One more update, of registers that may change. -/
theorem State.OnlyRegs.next {s t u : State} {P Q : Reg → Nat → Prop} (h : s.OnlyRegs t P) (k : t.OnlyRegs u Q)
    (hq : ∀ r i, Q r i → P r i) : s.OnlyRegs u P := h.trans (k.mono hq)

/-- An update of other parts than the registers. -/
theorem State.OnlyParts.regs {s t : State} {ps : List Part} (h : s.OnlyParts t ps) (P : Reg → Nat → Prop)
    (hr : .regs ∉ ps := by decide) : s.OnlyRegs t P := fun r i _ => by
  rw [State.rget, State.rget, show t.regs = s.regs from h .regs hr]

theorem State.OnlyParts.fget {s t : State} {ps : List Part} (h : s.OnlyParts t ps) (f : Fld) (i : Nat) (hr : .regs ∉ ps := by decide) :
    t.fget f i = s.fget f i := (h.regs (fun _ _ => False) hr).field f i id

@[simp] theorem State.onlyRegs_refl (s : State) (P : Reg → Nat → Prop) : s.OnlyRegs s P := .refl s P
@[simp] theorem State.onlyRegs_setFreeCtr (s t : State) (n : Nat) (P : Reg → Nat → Prop) : s.OnlyRegs (t.setFreeCtr n) P ↔ s.OnlyRegs t P := ⟨id, id⟩
@[simp] theorem State.onlyRegs_setHost (s t : State) (h : HostSide) (P : Reg → Nat → Prop) : s.OnlyRegs (t.setHost h) P ↔ s.OnlyRegs t P := ⟨id, id⟩
@[simp] theorem State.onlyRegs_setDepot (s t : State) (d : Depot) (P : Reg → Nat → Prop) : s.OnlyRegs (t.setDepot d) P ↔ s.OnlyRegs t P := ⟨id, id⟩
@[simp] theorem State.onlyRegs_setFlash (s t : State) (f : Flash) (P : Reg → Nat → Prop) : s.OnlyRegs (t.setFlash f) P ↔ s.OnlyRegs t P := ⟨id, id⟩
@[simp] theorem State.onlyRegs_setCfs (s t : State) (c : Cfs) (P : Reg → Nat → Prop) : s.OnlyRegs (t.setCfs c) P ↔ s.OnlyRegs t P := ⟨id, id⟩
@[simp] theorem State.onlyRegs_setEcc (s t : State) (e : Ecc) (P : Reg → Nat → Prop) : s.OnlyRegs (t.setEcc e) P ↔ s.OnlyRegs t P := ⟨id, id⟩
@[simp] theorem State.onlyRegs_setPower (s t : State) (x : Power) (P : Reg → Nat → Prop) : s.OnlyRegs (t.setPower x) P ↔ s.OnlyRegs t P := ⟨id, id⟩
@[simp] theorem State.onlyRegs_setTt (s t : State) (x : Timetables) (P : Reg → Nat → Prop) : s.OnlyRegs (t.setTt x) P ↔ s.OnlyRegs t P := ⟨id, id⟩
@[simp] theorem State.onlyRegs_setJobs (s t : State) (js : Tbl JobHold) (P : Reg → Nat → Prop) : s.OnlyRegs (t.setJobs js) P ↔ s.OnlyRegs t P := ⟨id, id⟩
@[simp] theorem State.onlyRegs_setSearch (s t : State) (x : Search) (P : Reg → Nat → Prop) : s.OnlyRegs (t.setSearch x) P ↔ s.OnlyRegs t P := ⟨id, id⟩
@[simp] theorem State.onlyRegs_setScans (s t : State) (x : Scans) (P : Reg → Nat → Prop) : s.OnlyRegs (t.setScans x) P ↔ s.OnlyRegs t P := ⟨id, id⟩
@[simp] theorem State.onlyRegs_setJunctions (s t : State) (x : Tbl Junction) (P : Reg → Nat → Prop) : s.OnlyRegs (t.setJunctions x) P ↔ s.OnlyRegs t P := ⟨id, id⟩
@[simp] theorem State.onlyRegs_setBridges (s t : State) (x : Tbl Bridge) (P : Reg → Nat → Prop) : s.OnlyRegs (t.setBridges x) P ↔ s.OnlyRegs t P := ⟨id, id⟩
@[simp] theorem State.onlyRegs_setMesh (s t : State) (m : Mesh) (P : Reg → Nat → Prop) : s.OnlyRegs (t.setMesh m) P ↔ s.OnlyRegs t P := ⟨id, id⟩
@[simp] theorem State.onlyRegs_setSecurity (s t : State) (x : Security) (P : Reg → Nat → Prop) : s.OnlyRegs (t.setSecurity x) P ↔ s.OnlyRegs t P := ⟨id, id⟩
@[simp] theorem State.onlyRegs_setJob (s t : State) (j : Nat) (x : JobHold) (P : Reg → Nat → Prop) : s.OnlyRegs (t.setJob j x) P ↔ s.OnlyRegs t P := ⟨id, id⟩
@[simp] theorem State.onlyRegs_setStn (s t : State) (n : Nat) (x : Station) (P : Reg → Nat → Prop) : s.OnlyRegs (t.setStn n x) P ↔ s.OnlyRegs t P := ⟨id, id⟩
@[simp] theorem State.onlyRegs_setLane (s t : State) (st n : Nat) (x : Lane) (P : Reg → Nat → Prop) : s.OnlyRegs (t.setLane st n x) P ↔ s.OnlyRegs t P := ⟨id, id⟩
@[simp] theorem State.onlyRegs_setWalker (s t : State) (st c : Nat) (x : Walker) (P : Reg → Nat → Prop) : s.OnlyRegs (t.setWalker st c x) P ↔ s.OnlyRegs t P := ⟨id, id⟩
@[simp] theorem State.onlyRegs_setCmd (s t : State) (p : Nat) (c : Cmd) (P : Reg → Nat → Prop) : s.OnlyRegs (t.setCmd p c) P ↔ s.OnlyRegs t P := ⟨id, id⟩
@[simp] theorem State.onlyRegs_setQcfg (s t : State) (q : Nat) (c : QueueCfg) (P : Reg → Nat → Prop) : s.OnlyRegs (t.setQcfg q c) P ↔ s.OnlyRegs t P := ⟨id, id⟩
@[simp] theorem State.onlyRegs_setPage (s t : State) (p : Nat) (x : Page) (P : Reg → Nat → Prop) : s.OnlyRegs (t.setPage p x) P ↔ s.OnlyRegs t P := ⟨id, id⟩
@[simp] theorem State.onlyRegs_setSlot (s t : State) (k : Nat) (x : SlotHold) (P : Reg → Nat → Prop) : s.OnlyRegs (t.setSlot k x) P ↔ s.OnlyRegs t P := ⟨id, id⟩
@[simp] theorem State.onlyRegs_setLine (s t : State) (b : Nat) (x : Line) (P : Reg → Nat → Prop) : s.OnlyRegs (t.setLine b x) P ↔ s.OnlyRegs t P := ⟨id, id⟩
@[simp] theorem State.onlyRegs_setMstep (s t : State) (n : Nat) (x : Step) (P : Reg → Nat → Prop) : s.OnlyRegs (t.setMstep n x) P ↔ s.OnlyRegs t P := ⟨id, id⟩
@[simp] theorem State.onlyRegs_send (s t : State) (m : HostMsg) (P : Reg → Nat → Prop) : s.OnlyRegs (t.send m) P ↔ s.OnlyRegs t P := ⟨id, id⟩
@[simp] theorem State.onlyRegs_sendData (s t : State) (a : Nat) (bs : List Byte) (ep : Bool) (P : Reg → Nat → Prop) : s.OnlyRegs (t.sendData a bs ep) P ↔ s.OnlyRegs t P := ⟨id, id⟩

theorem State.onlyRegs_rset (s t : State) {r : Reg} {i : Nat} (w : Word64) {P : Reg → Nat → Prop} (h : P r i) :
    s.OnlyRegs (t.rset r i w) P ↔ s.OnlyRegs t P := by
  refine forall_congr' fun q => forall_congr' fun j => imp_congr_right fun hn => ?_
  rw [State.rget_rset, if_neg]
  rintro ⟨rfl, rfl⟩
  exact hn h

@[simp] theorem State.onlyRegs_fset (s t : State) {f : Fld} {i : Nat} (v : Nat) {P : Reg → Nat → Prop} (h : P f.reg i) :
    s.OnlyRegs (t.fset f i v) P ↔ s.OnlyRegs t P := s.onlyRegs_rset t _ h
@[simp] theorem State.onlyRegs_bump (s t : State) {f : Fld} {i : Nat} (n : Nat) {P : Reg → Nat → Prop} (h : P f.reg i) :
    s.OnlyRegs (t.bump f i n) P ↔ s.OnlyRegs t P := s.onlyRegs_rset t _ h
@[simp] theorem State.onlyRegs_dip (s t : State) {f : Fld} {i : Nat} (n : Nat) {P : Reg → Nat → Prop} (h : P f.reg i) :
    s.OnlyRegs (t.dip f i n) P ↔ s.OnlyRegs t P := s.onlyRegs_rset t _ h
@[simp] theorem State.onlyRegs_bumpSat (s t : State) {f : Fld} {i : Nat} (n : Nat) {P : Reg → Nat → Prop} (h : P f.reg i) :
    s.OnlyRegs (t.bumpSat f i n) P ↔ s.OnlyRegs t P := s.onlyRegs_rset t _ h

/-- Between two states only the listed parts change, and of the registers only the words that `P` allows. -/
structure State.Within (s t : State) (ps : List Part) (P : Reg → Nat → Prop) : Prop where
  parts : s.OnlyParts t ps
  regs : s.OnlyRegs t P

theorem State.Within.refl (s : State) (ps : List Part) (P : Reg → Nat → Prop) : s.Within s ps P :=
  ⟨State.OnlyParts.refl s ps, State.OnlyRegs.refl s P⟩

theorem State.Within.trans {s t u : State} {ps : List Part} {P : Reg → Nat → Prop} (h : s.Within t ps P) (k : t.Within u ps P) :
    s.Within u ps P := ⟨h.parts.trans k.parts, h.regs.trans k.regs⟩

theorem State.Within.mono {s t : State} {ps qs : List Part} {P Q : Reg → Nat → Prop} (h : s.Within t ps P) (hp : ∀ x ∈ ps, x ∈ qs)
    (hq : ∀ r i, P r i → Q r i) : s.Within t qs Q := ⟨h.parts.mono hp, h.regs.mono hq⟩

/-- A fold whose steps stay within a frame. -/
theorem State.Within.foldl {α : Type} {ps : List Part} {P : Reg → Nat → Prop} {f : State → α → State}
    (hf : ∀ (s : State) x, s.Within (f s x) ps P) (l : List α) (s : State) : s.Within (l.foldl f s) ps P := by
  induction l generalizing s with
  | nil => exact .refl s ps P
  | cons x l ih => exact (hf s x).trans (ih _)

/-- An update of one part that is not the registers. -/
theorem State.OnlyParts.within {s t : State} {ps qs : List Part} (h : s.OnlyParts t ps) (P : Reg → Nat → Prop)
    (hq : ∀ x ∈ ps, x ∈ qs := by decide) (hr : .regs ∉ ps := by decide) : s.Within t qs P := ⟨h.mono hq, h.regs P hr⟩

/-! ## Fields that stand apart -/

/-- A write of field `f` leaves field `g` alone, whichever units they are read in. -/
def Fld.apart (f g : Fld) : Bool :=
  decide (f.lsb + f.width ≤ 64) && (decide (g.reg ≠ f.reg) || decide (g.lsb + g.width ≤ f.lsb) || decide (f.lsb + f.width ≤ g.lsb))

theorem State.fget_fset_of_apart (s : State) {f g : Fld} (i j v : Nat) (h : f.apart g = true) : (s.fset f i v).fget g j = s.fget g j := by
  simp only [Fld.apart, Bool.and_eq_true, Bool.or_eq_true, decide_eq_true_eq, ne_eq, or_assoc] at h
  obtain ⟨hfits, hreg | hbits⟩ := h
  · exact s.fget_fset_reg f g i j v (.inl hreg)
  · exact s.fget_fset_apart f g i j v hfits hbits

theorem State.fget_bump_of_apart (s : State) {f g : Fld} (i j n : Nat) (h : f.apart g = true) : (s.bump f i n).fget g j = s.fget g j :=
  s.fget_fset_of_apart i j _ h
theorem State.fget_dip_of_apart (s : State) {f g : Fld} (i j n : Nat) (h : f.apart g = true) : (s.dip f i n).fget g j = s.fget g j :=
  s.fget_fset_of_apart i j _ h
theorem State.fget_bumpSat_of_apart (s : State) {f g : Fld} (i j n : Nat) (h : f.apart g = true) :
    (s.bumpSat f i n).fget g j = s.fget g j := s.fget_fset_of_apart i j _ h

theorem State.fget_dip_same (s : State) (f : Fld) (i n : Nat) (h : f.lsb + f.width ≤ 64) :
    (s.dip f i n).fget f i = (s.fget f i - n) % 2 ^ f.width := s.fget_fset_same f i _ h
theorem State.fget_bumpSat_same (s : State) (f : Fld) (i n : Nat) (h : f.lsb + f.width ≤ 64) :
    (s.bumpSat f i n).fget f i = min (2 ^ f.width - 1) (s.fget f i + n) := by
  have hpos := Nat.two_pow_pos f.width
  exact (s.fget_fset_same f i _ h).trans (Nat.mod_eq_of_lt (by omega))

theorem State.fget_rset_reg (s : State) {r : Reg} {f : Fld} (i j : Nat) (w : Word64) (h : f.reg ≠ r) : (s.rset r i w).fget f j = s.fget f j := by
  rw [State.fget, State.rget_rset_reg _ _ _ _ h, State.fget]

end Sys2Proof.Machine
end

section
/-! SUPPORT. What taking an SQ entry does (R430, R432), and what it leaves. -/

namespace Sys2Proof.Machine

/-! ## The count of class-0 entries that wait -/

/-- What counting waiting entries changes: QUE.CTR and the settings of queues. -/
structure State.CountsWait (s t : State) : Prop where
  parts : s.OnlyParts t [.regs, .host]
  regs : s.OnlyRegs t (fun r _ => r = .queCtr)
  host : t.host = { s.host with queues := t.host.queues }

theorem State.CountsWait.refl (s : State) : s.CountsWait s := ⟨State.OnlyParts.refl s _, State.OnlyRegs.refl s _, rfl⟩

theorem State.CountsWait.trans {s t u : State} (h : s.CountsWait t) (k : t.CountsWait u) : s.CountsWait u :=
  ⟨h.parts.trans k.parts, h.regs.trans k.regs, by rw [k.host, h.host]⟩

theorem State.countWait_counts (s : State) (q : Nat) : s.CountsWait (s.countWait q) := by
  unfold State.countWait
  split
  · exact ⟨by simp [State.onlyParts_iff], by simp [F.queCtrCount], by simp⟩
  · exact .refl s

theorem State.countWaits_counts (s : State) : s.CountsWait s.countWaits := by
  unfold State.countWaits
  split
  · exact .refl s
  · exact List.foldlRecOn _ _ (State.CountsWait.refl s) fun t h q _ => h.trans (t.countWait_counts q)

/-! ## Taking an entry -/

/-- What a taken entry of queue `q` may change of the registers. -/
abbrev takenRegs (q : Nat) (r : Reg) (i : Nat) : Prop := r = .queCtr ∨ r = .queClass0 ∨ ((r = .queQState ∨ r = .queQState1) ∧ i = q)

/-- HEAD of queue `q` past the entry taken. -/
def State.headPast (s : State) (q : Nat) : State :=
  s.fset F.queQStateHead q ((s.fget F.queQStateHead q + 1) % max 1 (s.qcfg q).sqSize)

theorem State.class0In_onlyRegs (s : State) : s.OnlyRegs s.class0In (fun r _ => r = .queClass0) := by
  simp [State.class0In, F.queClass0Outstanding, F.queClass0Peak]

theorem State.class0In_onlyParts (s : State) : s.OnlyParts s.class0In [.regs] := by simp [State.class0In, State.onlyParts_iff]

theorem State.class0In_host (s : State) : s.class0In.host = s.host := by simp [State.class0In]

/-- Once HEAD and OUTSTANDING have moved, a taken entry changes counters of other registers. -/
theorem State.takeInto_onlyCounters (s : State) (q p : Nat) (a : Arb) :
    ((s.headPast q).bump F.queQStateOutstanding q 1).OnlyRegs (s.takeInto q p a) (fun r _ => r = .queCtr ∨ r = .queClass0) := by
  unfold State.takeInto
  dsimp only
  split
  · simp only [State.onlyRegs_setCmd, State.onlyRegs_setQcfg, State.onlyRegs_setHost]
    refine State.OnlyRegs.next ?_ (State.class0In_onlyRegs _) fun _ _ h => .inr h
    simp [State.headPast, F.queCtrCount]
  · simp [State.headPast, F.queCtrCount]

theorem State.takeInto_onlyRegs (s : State) (q p : Nat) (a : Arb) : s.OnlyRegs (s.takeInto q p a) (takenRegs q) := by
  have moved : s.OnlyRegs ((s.headPast q).bump F.queQStateOutstanding q 1) (takenRegs q) := by
    simp [State.headPast, takenRegs, F.queQStateOutstanding, F.queQStateHead]
  exact moved.next (s.takeInto_onlyCounters q p a) fun _ _ h => h.imp id .inl

theorem State.takeInto_onlyParts (s : State) (q p : Nat) (a : Arb) : s.OnlyParts (s.takeInto q p a) [.regs, .host] := by
  have counted (t : State) (c : Nat) (h : s.OnlyParts t [.regs, .host]) : s.OnlyParts (if c = 0 then t.class0In else t) [.regs, .host] := by
    split
    · exact h.next t.class0In_onlyParts
    · exact h
  refine (((counted _ _ ?_).next (State.setHost_onlyParts _ _)).next (State.setQcfg_onlyParts _ _ _)).next (State.setCmd_onlyParts _ _ _)
  exact ((s.fset_onlyParts _ _ _).next (State.bump_onlyParts _ _ _ _) |>.next (State.bump_onlyParts _ _ _ _)).mono (by decide)

theorem State.takeInto_cmd_other (s : State) {q p k : Nat} (a : Arb) (h : k ≠ p) : (s.takeInto q p a).cmd k = s.cmd k := by
  unfold State.takeInto
  dsimp only
  rw [State.cmd_setCmd, if_neg h]
  unfold State.class0In
  split <;> simp [State.cmd]

/-- Of the host side, the taken entry's place, the queue's settings and the arbiter change. -/
theorem State.takeInto_host (s : State) (q p : Nat) (a : Arb) : (s.takeInto q p a).host =
    { s.host with queues := (s.takeInto q p a).host.queues, cmds := (s.takeInto q p a).host.cmds, arb := a } := by
  unfold State.takeInto State.class0In
  dsimp only
  split <;> simp

/-! ## The entry taken next -/

section
variable {s s0 : State} {q : QueueId} {p : Nat} {e : List Byte}

theorem State.TakesNext.onlyParts (h : s.TakesNext q p e s0) : s.OnlyParts s0 [.regs, .host] := by
  obtain ⟨a, -, -, -, -, -, rfl⟩ := h
  exact (s.takeInto_onlyParts q.val p a).trans (State.countWaits_counts _).parts

theorem State.TakesNext.onlyCounters (h : s.TakesNext q p e s0) :
    ((s.headPast q.val).bump F.queQStateOutstanding q.val 1).OnlyRegs s0 (fun r _ => r = .queCtr ∨ r = .queClass0) := by
  obtain ⟨a, -, -, -, -, -, rfl⟩ := h
  exact (s.takeInto_onlyCounters q.val p a).next (State.countWaits_counts _).regs fun _ _ => .inl

theorem State.TakesNext.onlyRegs (h : s.TakesNext q p e s0) : s.OnlyRegs s0 (takenRegs q.val) := by
  obtain ⟨a, -, -, -, -, -, rfl⟩ := h
  exact (s.takeInto_onlyRegs q.val p a).next (State.countWaits_counts _).regs fun _ _ => .inl

theorem State.TakesNext.cmd_other (h : s.TakesNext q p e s0) {k : Nat} (hk : k ≠ p) : s0.cmd k = s.cmd k := by
  obtain ⟨a, -, -, -, -, -, rfl⟩ := h
  rw [State.countWaits_cmd, State.takeInto_cmd_other s a hk]

/-- The host side but for the queues' settings, the tracker and the arbiter is as it was. -/
theorem State.TakesNext.host (h : s.TakesNext q p e s0) : ∃ a, s0.host =
    { s.host with queues := s0.host.queues, cmds := s0.host.cmds, arb := a } := by
  obtain ⟨a, -, -, -, -, -, rfl⟩ := h
  refine ⟨a, ?_⟩
  have counted := (s.takeInto q.val p a).countWaits_counts.host
  rw [s.takeInto_host q.val p a] at counted
  rw [counted]

/-- HEAD of the queue moves on by one. -/
theorem State.TakesNext.head (h : s.TakesNext q p e s0) : s0.fget F.queQStateHead q.val =
    (s.fget F.queQStateHead q.val + 1) % max 1 (s.qcfg q.val).sqSize % 2 ^ F.queQStateHead.width := by
  rw [h.onlyCounters.field F.queQStateHead q.val (by decide), State.fget_bump_of_apart _ _ _ _ (by decide), State.headPast,
    State.fget_fset_same _ _ _ _ (by decide)]

theorem State.TakesNext.outstanding (h : s.TakesNext q p e s0) : s0.fget F.queQStateOutstanding q.val =
    (s.fget F.queQStateOutstanding q.val + 1) % 2 ^ F.queQStateOutstanding.width := by
  rw [h.onlyCounters.field F.queQStateOutstanding q.val (by decide), State.fget_bump_same _ _ _ _ (by decide), State.headPast,
    State.fget_fset_of_apart _ _ _ _ (by decide)]

/-- Settles O11: HEAD and OUTSTANDING move, and counters of other registers count. -/
theorem entryTaken : Obligations.EntryTaken := by
  intro s s0 q p e h
  obtain ⟨a, host⟩ := h.host
  exact ⟨h.cmd, fun k => h.cmd_other, h.head, h.outstanding, h.onlyRegs, by rw [host], by rw [host], by rw [host], by rw [host],
    by rw [host], h.onlyParts⟩

end

end Sys2Proof.Machine
end

section
/-! SUPPORT. What moves while no command waits (R203, R92): the counters of the started islands, and what the islands do in those
cycles, which writes no island's counter. -/

namespace Sys2Proof.Machine

/-! ## What an island does in its cycles -/

/-- The registers that are not counters of islands. -/
abbrev notIslandCtr (r : Reg) (_ : Nat) : Prop := r ≠ .glbIslandCtr

/-- A lane row's cycles change registers and stations, and no island's counter. -/
abbrev State.LaneTime (s t : State) : Prop := s.Within t [.regs, .stations] notIslandCtr

theorem State.setLane_laneTime (s : State) (st n : Nat) (x : Lane) : s.LaneTime (s.setLane st n x) :=
  (s.setLane_onlyParts st n x).within _

theorem State.setStn_laneTime (s : State) (st : Nat) (x : Station) : s.LaneTime (s.setStn st x) := (s.setStn_onlyParts st x).within _

theorem State.bump_laneTime (s : State) {f : Fld} (i k : Nat) (h : f.reg ≠ .glbIslandCtr) : s.LaneTime (s.bump f i k) :=
  ⟨(s.bump_onlyParts f i k).mono (by decide), (s.bump_onlyRegs f i k).mono fun _ _ e => e.1 ▸ h⟩

theorem State.lrAdd_laneTime (s : State) (st n i k : Nat) : s.LaneTime (s.lrAdd st n i k) := s.bump_laneTime _ k (by decide)

theorem State.clipAdd_laneTime (s : State) (j i k : Nat) : s.LaneTime (s.clipAdd j i k) := s.bump_laneTime _ k (by decide)

theorem State.charge_laneTime (s : State) (st j n : Nat) : s.LaneTime (s.charge st j n) :=
  (s.bump_laneTime (f := F.jobAcctCount) _ n (by decide)).trans (State.setStn_laneTime _ st _)

theorem State.pulse_laneTime (s : State) (st i : Nat) : s.LaneTime (s.pulse st i) := by
  unfold State.pulse
  split
  · exact .refl ..
  · exact s.setStn_laneTime st _

theorem State.lanePulse_laneTime (s : State) (st n : Nat) (p : PassRun) (k : Nat) : s.LaneTime (s.lanePulse st n p k) := by
  have accepted : s.LaneTime (if p.accepts k then s.pulse st n else s) := by
    split
    · exact s.pulse_laneTime st n
    · exact .refl ..
  unfold State.lanePulse
  extract_lets s1
  split
  · exact accepted.trans (State.pulse_laneTime ..)
  · exact accepted

theorem State.countPass_laneTime (s : State) (st n : Nat) (p : PassRun) (k : Nat) : s.LaneTime (s.countPass st n p k) := by
  unfold State.countPass
  dsimp only
  split
  · exact (((s.lrAdd_laneTime ..).trans (State.charge_laneTime ..)).trans (State.lrAdd_laneTime ..)).trans (State.clipAdd_laneTime ..)
  · exact (((s.lrAdd_laneTime ..).trans (State.charge_laneTime ..)).trans (State.lrAdd_laneTime ..)).trans (State.lrAdd_laneTime ..)

theorem State.tickWait_laneTime (s : State) (st n k : Nat) : s.LaneTime (s.tickWait st n k) := by
  unfold State.tickWait
  split
  · exact .refl ..
  split
  · exact s.setLane_laneTime st n _
  split
  · exact (s.lrAdd_laneTime ..).trans (State.charge_laneTime ..)
  · exact s.lrAdd_laneTime ..

theorem State.tickLane_laneTime (s : State) (st k n : Nat) : s.LaneTime (State.tickLane st k s n) := by
  unfold State.tickLane
  split
  · split
    · exact .refl ..
    · exact s.lrAdd_laneTime ..
  extract_lets l due s0
  have h0 : s.LaneTime s0 := s.setLane_laneTime st n _
  split
  · next i p _ =>
    extract_lets run s1 lane s2
    have h1 : s.LaneTime s1 := (h0.trans (State.countPass_laneTime ..)).trans (State.setLane_laneTime ..)
    have h2 : s.LaneTime s2 := by
      dsimp only [s2]
      split
      · exact h1.trans (State.setLane_laneTime ..)
      · exact h1
    refine State.Within.trans ?_ (State.tickWait_laneTime ..)
    split
    · exact h2.trans (State.lanePulse_laneTime ..)
    · exact h2
  · exact h0.trans (State.tickWait_laneTime ..)

theorem State.tickStation_laneTime (s : State) (st k : Nat) : s.LaneTime (s.tickStation st k) := by
  refine State.Within.trans ?_ (State.Within.foldl (fun t n => t.tickLane_laneTime st k n) _ _)
  split
  · exact s.bump_laneTime _ k (by decide)
  · exact .refl ..

/-! ## The pins (R627) -/

/-- What drives a pin draws free values and changes the host's end. -/
abbrev State.PinTime (s t : State) : Prop := s.Within t [.freeCtr, .host] fun _ _ => False

theorem State.drivePin_pinTime (s : State) (n k : Nat) (v : Bool) : s.PinTime (s.drivePin n k v) :=
  (s.setHost_onlyParts _).within _

theorem State.pinTurn_pinTime (s : State) (i k n : Nat) : s.PinTime (State.pinTurn i k s n) := by
  unfold State.pinTurn
  dsimp only
  split
  · exact .refl ..
  split
  · exact s.drivePin_pinTime ..
  · exact ((s.setFreeCtr_onlyParts (s.freeCtr + 1)).within _).trans (State.drivePin_pinTime ..)

theorem State.obsTurn_pinTime (s : State) (i c : Nat) : s.PinTime (State.obsTurn i s c) := by
  unfold State.obsTurn
  dsimp only
  split
  · exact .refl ..
  · exact (s.setHost_onlyParts _).within _

/-! ## Time passes -/

/-- The parts that may move while no command waits. -/
def idleParts : List Part := [.regs, .freeCtr, .host, .cfs, .stations, .junctions, .bridges]

/-- A started island's cycles: of the counters its own alone moves. -/
theorem State.tickBy_within (s : State) (i k : Nat) :
    s.Within (s.tickBy i k) idleParts fun r j => r = .glbIslandCtr → j = i := by
  have lanes {t u : State} (h : t.LaneTime u) : t.Within u idleParts fun r j => r = .glbIslandCtr → j = i :=
    h.mono (by decide) fun _ _ hr e => absurd e hr
  have pins {t u : State} (h : t.PinTime u) : t.Within u idleParts fun r j => r = .glbIslandCtr → j = i :=
    h.mono (by decide) fun _ _ => False.elim
  have counted : s.Within (s.bump F.glbIslandCtrCount i k) idleParts fun r j => r = .glbIslandCtr → j = i :=
    ⟨(s.bump_onlyParts _ _ _).mono (by decide), (s.bump_onlyRegs _ _ _).mono fun _ _ h _ => h.2⟩
  unfold State.tickBy
  extract_lets s1 s2 s3
  have h2 : s.Within s2 idleParts fun r j => r = .glbIslandCtr → j = i := by
    dsimp only [s2]
    split
    · exact counted.trans (lanes (State.tickStation_laneTime ..))
    · exact counted
  split
  · exact h2
  have h3 : s.Within s3 idleParts fun r j => r = .glbIslandCtr → j = i :=
    (h2.trans (pins (State.Within.foldl (fun t n => t.pinTurn_pinTime i k n) _ _))).trans
      (pins (State.Within.foldl (fun t n => t.obsTurn_pinTime i n) _ _))
  split
  · exact h3.trans (lanes (State.setStn_laneTime ..))
  · exact h3

theorem State.tick_within (s : State) (i : Nat) : s.Within (s.tick i) idleParts fun r j => r = .glbIslandCtr → j = i :=
  State.Within.trans (((s.setFreeCtr_onlyParts (s.freeCtr + 1)).within _)) (State.tickBy_within _ i s.drawNat.1)

theorem State.ticks_within (s : State) (is : List Nat) :
    s.Within (is.foldl State.tick s) idleParts fun r j => r = .glbIslandCtr → j ∈ is := by
  induction is generalizing s with
  | nil => exact .refl ..
  | cons i is ih =>
    refine ((s.tick_within i).mono (fun _ => id) ?_).trans ((ih _).mono (fun _ => id) ?_)
    · exact fun _ _ own hr => own hr ▸ List.mem_cons_self ..
    · exact fun _ _ later hr => List.mem_cons_of_mem _ (later hr)

/-! ## Junctions, bridges and the store -/

/-- Traffic changes junctions and bridges alone. -/
abbrev State.Carried (s t : State) : Prop := s.OnlyParts t [.junctions, .bridges]

theorem State.setJunctions_carried (s : State) (x : Tbl Junction) : s.Carried (s.setJunctions x) := by simp [State.Carried, State.onlyParts_iff]
theorem State.setBridges_carried (s : State) (x : Tbl Bridge) : s.Carried (s.setBridges x) := by simp [State.Carried, State.onlyParts_iff]

theorem State.goOn_carried (s : State) (i : Nat) (e : JEntry) : s.Carried (State.goOn i s e) := by
  unfold State.goOn
  split
  · exact State.OnlyParts.refl s _
  · dsimp only
    split
    · exact s.setJunctions_carried _
    · exact s.setBridges_carried _

theorem State.Carried.foldl {α : Type} {f : State → α → State} (hf : ∀ (s : State) x, s.Carried (f s x)) (l : List α) (s : State) :
    s.Carried (l.foldl f s) := by
  induction l generalizing s with
  | nil => exact State.OnlyParts.refl s _
  | cons x l ih => exact State.OnlyParts.trans (hf s x) (ih _)

theorem State.junctionTurn_carried (s : State) (key : Nat) : s.Carried (s.junctionTurn key) := by
  unfold State.junctionTurn
  dsimp only
  split
  · exact (s.setJunctions_carried _).trans (State.goOn_carried _ _ _)
  · exact s.setJunctions_carried _

theorem State.bridgeTurn_carried (s : State) (key : Nat) : s.Carried (s.bridgeTurn key) := by
  unfold State.bridgeTurn
  dsimp only
  split
  · exact (s.setBridges_carried _).trans (State.Carried.foldl (fun t e => t.goOn_carried _ e) _ _)
  · exact s.setBridges_carried _

theorem State.traffic_carried (s : State) : s.Carried s.traffic :=
  (State.Carried.foldl State.junctionTurn_carried _ s).trans (State.Carried.foldl State.bridgeTurn_carried _ _)

/-- What passes after the islands' cycles: no island's counter moves any more. -/
abbrev State.Settles (s t : State) : Prop := s.Within t idleParts notIslandCtr

theorem State.carryOn_settles (s : State) : s.Settles s.carryOn := by
  unfold State.carryOn
  split
  · exact .refl ..
  · have drawn : s.Settles s.drawNat.2 := (s.setFreeCtr_onlyParts (s.freeCtr + 1)).within _
    exact drawn.trans ((State.Carried.foldl (fun t _ => t.traffic_carried) _ _).within _)

theorem State.moveGap_settles (s : State) (d : Nat) : s.Settles (s.moveGap d) := by
  unfold State.moveGap
  dsimp only
  split
  all_goals exact ⟨by simp [State.onlyParts_iff, idleParts],
    by simp [F.cfsCtrCount, F.cfsDevStateGap, F.cfsDevStateStart]⟩

theorem State.gapTurn_settles (s : State) (d : Nat) : s.Settles (s.gapTurn d) := by
  unfold State.gapTurn
  split
  · exact (s.setCfs_onlyParts _).within _
  · exact s.moveGap_settles d

theorem State.serveBank_settles (s : State) (k : Nat) : s.Settles (s.serveBank k) := (s.setCfs_onlyParts _).within _

theorem State.serveStore_settles (s : State) : s.Settles s.serveStore := by
  unfold State.serveStore
  extract_lets s1
  have served : s.Settles s1 := State.Within.foldl State.serveBank_settles _ s
  exact (served.trans ((s1.setCfs_onlyParts _).within _)).trans (State.Within.foldl State.gapTurn_settles _ _)

theorem State.idle_within (s : State) : s.Within s.idle idleParts fun r i => r = .glbIslandCtr → i ∈ s.power.started := by
  have settled {t u : State} (h : t.Settles u) : t.Within u idleParts fun r i => r = .glbIslandCtr → i ∈ s.power.started :=
    h.mono (fun _ => id) fun _ _ hr e => absurd e hr
  exact ((s.ticks_within s.power.started).trans (settled (State.carryOn_settles _))).trans (settled (State.serveStore_settles _))

/-- With no island started, nothing on its way and the store at rest, nothing moves. -/
theorem State.idle_at_rest {s : State} (hstarted : s.power.started = []) (hquiet : s.quiet = true) (hreads : s.cfs.bankReads = [])
    (hgaps : s.cfs.gapDue = []) : s.idle = s := by
  have hcfs : ({ s.cfs with gapDue := [] } : Cfs) = s.cfs := by rw [← hgaps]
  rw [State.idle, hstarted, List.foldl_nil, State.carryOn, if_pos hquiet, State.serveStore, hreads]
  simp only [List.map_nil, List.foldl_nil, hgaps, hcfs]
  rfl

/-- Settles O2: every operation of an idle step stays within its frame. -/
theorem idleLetsTimePass : Obligations.IdleLetsTimePass := by
  intro s hqueue
  refine ⟨s.idle, by rw [step, hqueue], fun i hi => ?_, s.idle_within.parts, State.idle_at_rest⟩
  exact s.idle_within.regs _ _ fun h => hi (h rfl)

end Sys2Proof.Machine
end

section
/-! SUPPORT. The block commands once their entry is taken (R441 to R450): their checks in order, and what WRITE, RELEASE, FLUSH and a
READ with a list begin. -/

namespace Sys2Proof.Machine

/-! ## The checks in order (R441, R443) -/

/-- The statuses that a block command's checks give, in order. -/
def State.BlockFault (s : State) (fields : Bool) (last st : Nat) : Prop :=
  (fields = false ∧ st = 0x1001) ∨ (fields = true ∧ last > userLbas ∧ st = 0x1006) ∨
    (fields = true ∧ last ≤ userLbas ∧ s.fget F.glbMaintOp 0 = 1 ∧ st = 0x5001) ∨
    (fields = true ∧ last ≤ userLbas ∧ s.fget F.glbMaintOp 0 = 2 ∧ s.fget F.glbMaintPhase 0 = 1 ∧ st = 0x5002)

theorem State.mediaBusy_of_sanitise {s : State} (h : s.fget F.glbMaintOp 0 = 1) : s.mediaBusy = 0x5001 := if_pos h

theorem State.mediaBusy_of_format {s : State} (hop : s.fget F.glbMaintOp 0 = 2) (hphase : s.fget F.glbMaintPhase 0 = 1) :
    s.mediaBusy = 0x5002 := by
  rw [State.mediaBusy, if_neg (by omega), if_pos ⟨hop, hphase⟩]

/-- A check that finds fault fails the command with its status. -/
theorem State.blockChecks_fails {s : State} {fields : Bool} {last st : Nat} (h : s.BlockFault fields last st) (p : Nat)
    (go : State → State) : s.blockChecks p fields last go = s.fail p st := by
  unfold State.blockChecks
  rcases h with ⟨rfl, rfl⟩ | ⟨rfl, hlast, rfl⟩ | ⟨rfl, hlast, hop, rfl⟩ | ⟨rfl, hlast, hop, hphase, rfl⟩
  · simp
  · simp [hlast]
  · simp [Nat.not_lt.2 hlast, State.mediaBusy_of_sanitise hop]
  · simp [Nat.not_lt.2 hlast, State.mediaBusy_of_format hop hphase]

/-- Where no check finds fault the command's own part runs. -/
theorem State.blockChecks_pass {s : State} {fields : Bool} {last : Nat} (hfields : fields = true) (hlast : last ≤ userLbas)
    (hbusy : s.mediaBusy = 0) (p : Nat) (go : State → State) : s.blockChecks p fields last go = go s := by
  simp [State.blockChecks, hfields, Nat.not_lt.2 hlast, hbusy]

/-! ## The commands on their entries -/

section
variable {s s0 : State} {q : QueueId} {p : Nat} {e : List Byte}

theorem State.TakesNext.entry (h : s.TakesNext q p e s0) : (s0.cmd p).entry = e := by rw [h.cmd]

theorem State.TakesNext.live (h : s.TakesNext q p e s0) : (s0.cmd p).live = true := by rw [h.cmd]

theorem State.TakesNext.open (h : s.TakesNext q p e s0) : s0.open p = true := by simp [State.open, h.cmd]

theorem exec_read_taken (h : s.TakesNext q p e s0) (hop : sqOpcode e = 0x01) : exec (.read q) s =
    .next (s0.blockChecks p (transferFields e) (sqLba e + sqCount e) fun s => s.transferGo p) :=
  congrArg _ (h.onEntry _ _ (by simp [hop]))

theorem exec_write_taken (h : s.TakesNext q p e s0) (hop : sqOpcode e = 0x02) : exec (.write q) s =
    .next (s0.blockChecks p (transferFields e) (sqLba e + sqCount e) fun s =>
      if s.fbit F.flsHealthExhausted 0 then s.fail p 0x2003 else s.transferGo p) :=
  congrArg _ (h.onEntry _ _ (by simp [hop]))

theorem exec_flush_taken (h : s.TakesNext q p e s0) (hop : sqOpcode e = 0x03) : exec (.flush q) s =
    .next (s0.blockChecks p (rangeFields e) (sqLba e + sqCount64 e) fun s => s.flushGo p) :=
  congrArg _ (h.onEntry _ _ (by simp [hop]))

theorem exec_release_taken (h : s.TakesNext q p e s0) (hop : sqOpcode e = 0x04) : exec (.release q) s =
    .next (s0.blockChecks p (rangeFields e) (sqLba e + sqCount64 e) fun s => s.releaseGo p) :=
  congrArg _ (h.onEntry _ _ (by simp [hop]))

end

/-- Settles O12: each row runs the same checks on its entry, and WRITE its own one behind them. -/
theorem blockChecksFail : Obligations.BlockChecksFail := by
  intro s s0 q p e st h
  refine ⟨?_, fun hop hfields hlast hbusy hspent => ?_⟩
  · rintro c fields last (⟨rfl, hop, rfl, rfl⟩ | ⟨rfl, hop, rfl, rfl⟩ | ⟨rfl, hop, rfl, rfl⟩ | ⟨rfl, hop, rfl, rfl⟩) fault
    · rw [exec_read_taken h hop, State.blockChecks_fails fault]
    · rw [exec_write_taken h hop, State.blockChecks_fails fault]
    · rw [exec_flush_taken h hop, State.blockChecks_fails fault]
    · rw [exec_release_taken h hop, State.blockChecks_fails fault]
  · rw [exec_write_taken h hop, State.blockChecks_pass hfields hlast hbusy, if_pos (by simpa [State.fbit] using hspent)]

/-! ## WRITE and RELEASE (R442, R445, R450) -/

@[simp] theorem State.cmd_setCmd_same (s : State) (p : Nat) (c : Cmd) : (s.setCmd p c).cmd p = c := by rw [State.cmd_setCmd, if_pos rfl]

@[simp] theorem Tbl.put_put_same {α : Type} [DecidableEq α] (d : α) (t : Tbl α) (k : Nat) (v w : α) :
    Tbl.put d (Tbl.put d t k v) k w = Tbl.put d t k w := by
  have hins (u : Tbl α) : Tbl.drop k (Tbl.ins k v u) = Tbl.drop k u := by
    induction u with
    | nil => simp [Tbl.ins, Tbl.drop]
    | cons x u ih => by_cases hlt : k < x.1 <;> simp [Tbl.ins, Tbl.drop, hlt, ih]
  have hdrop (u : Tbl α) : Tbl.drop k (Tbl.drop k u) = Tbl.drop k u := by
    induction u with
    | nil => rfl
    | cons x u ih => by_cases hx : x.1 = k <;> simp [Tbl.drop, hx, ih]
  have : Tbl.drop k (Tbl.put d t k v) = Tbl.drop k t := by
    unfold Tbl.put
    split <;> simp [hins, hdrop]
  rw [Tbl.put, this]
  rfl

/-- A place written twice holds what it was given last. -/
@[simp] theorem State.setCmd_setCmd (s : State) (p : Nat) (c d : Cmd) : (s.setCmd p c).setCmd p d = s.setCmd p d := by
  simp [State.setCmd, State.setHost]

/-- A write of one place of the tracker. -/
theorem State.setCmd_frame (s : State) (p : Nat) (c : Cmd) : (∀ k, k ≠ p → (s.setCmd p c).cmd k = s.cmd k) ∧
    s.OnlyParts (s.setCmd p c) [.host] ∧ (s.setCmd p c).host = { s.host with cmds := (s.setCmd p c).host.cmds } :=
  ⟨fun k hk => by rw [State.cmd_setCmd, if_neg hk], s.setCmd_onlyParts p c, rfl⟩

section
variable {s s0 : State} {q : QueueId} {p : Nat} {e : List Byte}

/-- A READ or WRITE with a list asks the host for it. -/
theorem State.TakesNext.transferGo_list (h : s.TakesNext q p e s0) (hlist : sqList e = true) :
    s0.transferGo p = s0.setCmd p { s0.cmd p with listing := true, want := 16 * byteField e 32 4 } := by
  simp [State.transferGo, h.entry, hlist]

/-- A WRITE without a list asks the host for its data and waits for its pages. -/
theorem State.TakesNext.transferGo_write (h : s.TakesNext q p e s0) (hop : sqOpcode e = 0x02) (hlist : sqList e = false) :
    s0.transferGo p = s0.setCmd p { s0.cmd p with
      ranges := [(byteField e 24 8, 4096 * sqCount e)], want := 4096 * sqCount e, waits := lbaPages (sqLba e) (sqCount e) } := by
  simp [State.transferGo, State.writeGo, h.cmd, hop, hlist, flatRanges, wrCount, wrLba]

theorem State.TakesNext.releaseGo (h : s.TakesNext q p e s0) :
    s0.releaseGo p = (s0.setCmd p { s0.cmd p with waits := lbaPages (sqLba e) (sqCount64 e) }).setDepot { s0.depot with
      turns := s0.depot.turns ++ (lbaPages (sqLba e) (sqCount64 e)).map (fun g =>
        { place := some p, page := g, addr := 65536 * g, bytes := [], release := lbaMask (sqLba e) (sqCount64 e) g }) } := by
  rw [State.releaseGo, h.entry, State.setCmd_depot]

end

/-- Settles O13. -/
theorem writeAndReleaseTaken : Obligations.WriteAndReleaseTaken := by
  intro s s0 q p e h hbusy
  refine ⟨fun hop hfields hlast hspare => ?_, fun hop hfields hlast => ?_⟩
  · have hgo : exec (.write q) s = .next (s0.transferGo p) := by
      rw [exec_write_taken h hop, State.blockChecks_pass hfields hlast hbusy, if_neg (by simp [State.fbit, hspare])]
    cases hlist : sqList e with
    | true =>
      rw [h.transferGo_list hlist] at hgo
      obtain ⟨hother, hparts, hhost⟩ := s0.setCmd_frame p { s0.cmd p with listing := true, want := 16 * byteField e 32 4 }
      exact ⟨_, hgo, hother, hparts, hhost, fun _ => State.cmd_setCmd_same .., fun hno => Bool.noConfusion hno⟩
    | false =>
      rw [h.transferGo_write hop hlist] at hgo
      obtain ⟨hother, hparts, hhost⟩ := s0.setCmd_frame p { s0.cmd p with
        ranges := [(byteField e 24 8, 4096 * sqCount e)], want := 4096 * sqCount e, waits := lbaPages (sqLba e) (sqCount e) }
      exact ⟨_, hgo, hother, hparts, hhost, fun hno => Bool.noConfusion hno, fun _ => State.cmd_setCmd_same ..⟩
  · have hgo : exec (.release q) s = .next (s0.releaseGo p) := by
      rw [exec_release_taken h hop, State.blockChecks_pass hfields hlast hbusy]
    rw [h.releaseGo] at hgo
    obtain ⟨hother, hparts, hhost⟩ := s0.setCmd_frame p { s0.cmd p with waits := lbaPages (sqLba e) (sqCount64 e) }
    exact ⟨_, hgo, hother, (hparts.mono (by decide)).next (State.setDepot_onlyParts _ _), hhost, State.cmd_setCmd_same .., rfl⟩

/-! ## READ with a list, and FLUSH (R442, R449) -/

/-- Settles O15. -/
theorem listReadAndFlushTaken : Obligations.ListReadAndFlushTaken := by
  intro s s0 q p e h hbusy
  refine ⟨fun hop hfields hlast hlist => ?_, fun hop hfields hlast => ?_⟩
  · rw [exec_read_taken h hop, State.blockChecks_pass hfields hlast hbusy, h.transferGo_list hlist]
  · rw [exec_flush_taken h hop, State.blockChecks_pass hfields hlast hbusy, State.flushGo, h.entry]

end Sys2Proof.Machine
end

section
/-! SUPPORT. What a byte string sent to the host places there (R444), and a READ of resident pages: it sends the stored bytes. -/

namespace Sys2Proof.Machine

/-! ## Posted writes (R444) -/

theorem placedAt_nil (a : Nat) : placedAt a [] = [] := rfl

theorem placedAt_append (a : Nat) (xs ys : List Byte) : placedAt a (xs ++ ys) = placedAt a xs ++ placedAt (a + xs.length) ys := by
  simp [placedAt, List.zipIdx_append, List.zipIdx_eq_map_add (l := ys) (i := xs.length), Nat.add_comm, Nat.add_left_comm]

theorem HostMsg.placed_data (a : Nat) (bs : List Byte) (ep : Bool) : (HostMsg.data a bs ep).placed = placedAt a bs := rfl

/-- A nonempty byte string's first write ends at 256 bytes or at the 4 KiB boundary. -/
theorem postedWrites_cons (ep : Bool) (fuel a n : Nat) (b : Byte) (bs : List Byte) (hn : n = min 256 (4096 - a % 4096)) :
    postedWrites ep (fuel + 1) a (b :: bs) =
      .data a ((b :: bs).take n) ep :: postedWrites ep fuel (a + n) ((b :: bs).drop n) := by subst hn; rfl

/-- The posted writes of a byte string place it byte by byte from its address on. -/
theorem postedWrites_placed (ep : Bool) (fuel a : Nat) (bs : List Byte) (h : bs.length ≤ fuel) :
    (postedWrites ep fuel a bs).flatMap HostMsg.placed = placedAt a bs := by
  induction fuel generalizing a bs with
  | zero => rw [List.length_eq_zero_iff.1 (Nat.le_zero.1 h)]; rfl
  | succ fuel ih =>
    cases bs with
    | nil => rfl
    | cons b bs =>
      obtain ⟨n, hn⟩ : ∃ n, n = min 256 (4096 - a % 4096) := ⟨_, rfl⟩
      have hpos : 1 ≤ n := by have := Nat.mod_lt a (show 0 < 4096 by decide); omega
      have hrest : ((b :: bs).drop n).length ≤ fuel := by simp at h ⊢; omega
      have hsplit : placedAt a (b :: bs) = placedAt a ((b :: bs).take n) ++ placedAt (a + n) ((b :: bs).drop n) := by
        conv_lhs => rw [← List.take_append_drop n (b :: bs), placedAt_append]
        by_cases hlen : n ≤ (b :: bs).length
        · rw [List.length_take, Nat.min_eq_left hlen]
        · rw [List.drop_eq_nil_of_le (by omega), placedAt_nil, placedAt_nil]
      rw [postedWrites_cons _ _ _ _ _ _ hn, List.flatMap_cons, ih _ _ hrest, HostMsg.placed_data, hsplit]

/-- Each of them has at most 256 bytes and crosses no 4 KiB boundary. -/
theorem postedWrites_small (ep : Bool) (fuel a : Nat) (bs : List Byte) : ∀ m ∈ postedWrites ep fuel a bs, m.Small := by
  induction fuel generalizing a bs with
  | zero => exact fun m hm => absurd hm List.not_mem_nil
  | succ fuel ih =>
    cases bs with
    | nil => exact fun m hm => absurd hm List.not_mem_nil
    | cons b bs =>
      intro m hm
      obtain ⟨n, hn⟩ : ∃ n, n = min 256 (4096 - a % 4096) := ⟨_, rfl⟩
      have hmod := Nat.mod_lt a (show 0 < 4096 by decide)
      rw [postedWrites_cons _ _ _ _ _ _ hn] at hm
      rcases List.mem_cons.1 hm with rfl | hm
      · have hlen : ((b :: bs).take n).length = min n (bs.length + 1) := by simp
        exact ⟨a, _, ep, rfl, by omega, by omega, by omega⟩
      · exact ih _ _ m hm

/-! ## A READ's pages (R242, R250) -/

/-- What reading a resident page through the tier may change: counters, the depot caches' entries and the order of use. -/
structure State.ReadsAs (s t : State) : Prop where
  parts : s.OnlyParts t [.regs, .depot]
  depot : t.depot = { s.depot with tierCached := t.depot.tierCached, lru := t.depot.lru }

theorem State.ReadsAs.refl (s : State) : s.ReadsAs s := ⟨State.OnlyParts.refl s _, rfl⟩

theorem State.ReadsAs.trans {s t u : State} (h : s.ReadsAs t) (k : t.ReadsAs u) : s.ReadsAs u :=
  ⟨h.parts.trans k.parts, by rw [k.depot, h.depot]⟩

theorem State.ReadsAs.host {s t : State} (h : s.ReadsAs t) : t.host = s.host := h.parts .host (by decide)

theorem State.ReadsAs.page {s t : State} (h : s.ReadsAs t) (g : Nat) : t.page g = s.page g := by rw [State.page, h.depot, State.page]

theorem State.ReadsAs.byte {s t : State} (h : s.ReadsAs t) (a : Nat) : t.depot.byte a = s.depot.byte a := by rw [h.depot]; rfl

theorem State.ReadsAs.depotRead {s t : State} (h : s.ReadsAs t) (a n : Nat) : t.depotRead a n = s.depotRead a n := by
  simp [State.depotRead, h.byte]

theorem State.ReadsAs.lbaStatus {s t : State} (h : s.ReadsAs t) (b : Nat) : t.lbaStatus b = s.lbaStatus b := by
  have hecc : t.ecc = s.ecc := h.parts .ecc (by decide)
  rw [State.lbaStatus, State.lbaStatus, h.page, State.badIn, State.badIn, hecc]

theorem State.ReadsAs.reserveDown {s t : State} (h : s.ReadsAs t) : t.depot.reserveDown = s.depot.reserveDown := by rw [h.depot]

theorem State.tierLookup_readsAs (s : State) (g : Nat) : s.ReadsAs (s.tierLookup g) := by
  unfold State.tierLookup
  dsimp only
  split
  · exact .refl s
  split
  · exact ⟨(s.bump_onlyParts _ _ _).mono (by decide), by simp⟩
  split
  · exact ⟨(s.bump_onlyParts _ _ _).mono (by decide), by simp⟩
  · exact ⟨((s.setDepot_onlyParts _).mono (by decide)).next (State.bump_onlyParts _ _ _ _), by simp⟩

theorem State.readPage_readsAs {s : State} {g : Nat} (h : (s.page g).resident = true) : s.ReadsAs (s.readPage g) := by
  have looked := s.tierLookup_readsAs g
  rw [State.readPage, if_pos (by rw [looked.page, h])]
  exact looked.trans ⟨(State.setDepot_onlyParts _ _).mono (by decide), rfl⟩

theorem State.readPages_readsAs (gs : List Nat) {s : State} (h : ∀ g ∈ gs, (s.page g).resident = true) :
    s.ReadsAs (gs.foldl State.readPage s) := by
  induction gs generalizing s with
  | nil => exact .refl s
  | cons g gs ih =>
    have first := State.readPage_readsAs (h g (List.mem_cons_self ..))
    exact first.trans (ih fun k hk => by rw [first.page]; exact h k (List.mem_cons_of_mem _ hk))

/-- Where every share of the reserve is served, a page that is no promotion's is not waited for. -/
theorem State.awaitsPage_of_served {s : State} {g : Nat} (hserved : s.depot.reserveDown = []) (h : (s.page g).promoting = false) :
    s.awaitsPage g = false := by
  simp [State.awaitsPage, State.shareWaits, hserved, h]

/-- A READ without a list takes its one range and reads its pages. -/
theorem State.transferGo_read {s : State} {p : Nat} {e : List Byte} (he : (s.cmd p).entry = e) (hop : sqOpcode e = 0x01)
    (hlist : sqList e = false) : s.transferGo p = (s.setCmd p { s.cmd p with ranges := flatRanges e }).readGo p := by
  subst he
  simp only [State.transferGo, hlist, Bool.false_eq_true, if_false, hop, if_true]

/-- A READ that waits for no page sends its data. -/
theorem State.readGo_served {s : State} {p : Nat} {e : List Byte} (he : (s.cmd p).entry = e)
    (hnone : (lbaPages (sqLba e) (sqCount e)).filter ((lbaPages (sqLba e) (sqCount e)).foldl State.readPage s).awaitsPage = []) :
    s.readGo p = ((lbaPages (sqLba e) (sqCount e)).foldl State.readPage s).readOut p := by
  subst he
  exact if_pos hnone

/-! ## The data (R444) -/

/-- The host side with more sent. -/
def State.sent (s : State) (ms : List HostMsg) : State := s.setHost { s.host with outbox := s.host.outbox ++ ms }

theorem State.sent_nil (s : State) : s.sent [] = s := by simp [State.sent, State.setHost]

theorem State.sent_sent (s : State) (ms ns : List HostMsg) : (s.sent ms).sent ns = s.sent (ms ++ ns) := by
  simp [State.sent, State.setHost]

theorem State.sendData_eq_sent (s : State) (a : Nat) (bs : List Byte) (ep : Bool) :
    s.sendData a bs ep = s.sent (postedWrites ep bs.length a bs) := rfl

/-- The writes of LBA `i` of a READ whose data goes to one range from `a` on. -/
def State.lbaWrites (s : State) (a lba i : Nat) : List HostMsg :=
  postedWrites false 4096 (a + 4096 * i) (s.depotRead (4096 * (lba + i)) 4096)

theorem State.depotRead_length (s : State) (a n : Nat) : (s.depotRead a n).length = n := by simp [State.depotRead]

theorem hostPieces_flat {a n i : Nat} (h : i < n) : hostPieces [(a, 4096 * n)] (4096 * i) 4096 = [(a + 4096 * i, 4096)] := by
  have hin : ¬ 4096 * n ≤ 4096 * i := by omega
  have hall : min 4096 (4096 * n - 4096 * i) = 4096 := by omega
  simp [hostPieces, hin, hall]

/-- An LBA that reads well is sent as it is stored. -/
theorem State.sendLba_good {s : State} {p a n i : Nat} (hranges : (s.cmd p).ranges = [(a, 4096 * n)]) (hi : i < n)
    (hgood : s.lbaStatus (sqLba (s.cmd p).entry + i) = 0) :
    State.sendLba p s i = s.sent (s.lbaWrites a (sqLba (s.cmd p).entry) i) := by
  simp only [State.sendLba, hgood, hranges, hostPieces_flat hi, if_pos, List.foldl_cons, List.foldl_nil, State.sendData_eq_sent,
    State.depotRead_length]
  rfl

theorem State.sendLbas_good (is : List Nat) {s : State} {p a n : Nat} (hranges : (s.cmd p).ranges = [(a, 4096 * n)])
    (his : ∀ i ∈ is, i < n) (hgood : ∀ i ∈ is, s.lbaStatus (sqLba (s.cmd p).entry + i) = 0) :
    is.foldl (State.sendLba p) s = s.sent (is.flatMap (s.lbaWrites a (sqLba (s.cmd p).entry))) := by
  induction is generalizing s with
  | nil => exact s.sent_nil.symm
  | cons i is ih =>
    rw [List.foldl_cons, State.sendLba_good hranges (his i (List.mem_cons_self ..)) (hgood i (List.mem_cons_self ..)), ih]
    · exact s.sent_sent ..
    · exact hranges
    · exact fun k hk => his k (List.mem_cons_of_mem _ hk)
    · exact fun k hk => hgood k (List.mem_cons_of_mem _ hk)

/-- The LBAs one by one are the range. -/
theorem placedAt_lbas (s : State) (a lba n : Nat) :
    (List.range n).flatMap (fun i => placedAt (a + 4096 * i) (s.depotRead (4096 * (lba + i)) 4096)) =
      placedAt a (s.depotRead (4096 * lba) (4096 * n)) := by
  induction n with
  | zero => rfl
  | succ n ih =>
    have hread : s.depotRead (4096 * lba) (4096 * (n + 1)) =
        s.depotRead (4096 * lba) (4096 * n) ++ s.depotRead (4096 * (lba + n)) 4096 := by
      simp only [State.depotRead, Nat.mul_add, Nat.mul_one, List.range_add, List.map_append, List.map_map, Function.comp_def, Nat.add_assoc]
    rw [List.range_succ, List.flatMap_append, ih, hread, placedAt_append, State.depotRead_length]
    simp

theorem lbaWrites_placed (s : State) (a lba n : Nat) :
    ((List.range n).flatMap (s.lbaWrites a lba)).flatMap HostMsg.placed = placedAt a (s.depotRead (4096 * lba) (4096 * n)) := by
  rw [List.flatMap_assoc, ← placedAt_lbas]
  refine congrArg (List.flatMap · (List.range n)) (funext fun i => ?_)
  exact postedWrites_placed false 4096 _ _ (Nat.le_of_eq (s.depotRead_length ..))

/-! ## The bridges (R35) -/

theorem State.bridgeData_carried (s : State) (d e sender : Nat) (class0 : Bool) (bytes : Nat) :
    s.Carried (s.bridgeData d e sender class0 bytes) := by
  unfold State.bridgeData
  split
  · exact State.OnlyParts.refl s _
  · exact State.Carried.foldl (fun t _ => t.setBridges_carried _) _ s

theorem State.bridgeReads_host (s : State) (p : Nat) (is : List Nat) : (is.foldl (State.bridgeRead p) s).host = s.host :=
  State.Carried.foldl (fun t i => t.bridgeData_carried _ _ _ _ _) is s .host (by decide)

/-! ## The whole READ -/

/-- A READ whose pages are there sends its data, and its completion message follows. -/
theorem State.readOut_good {s : State} {p a : Nat} (hranges : (s.cmd p).ranges = [(a, 4096 * sqCount (s.cmd p).entry)])
    (hgood : ∀ i, i < sqCount (s.cmd p).entry → s.lbaStatus (sqLba (s.cmd p).entry + i) = 0) (hopen : s.open p = true)
    (hfailed : (s.cmd p).failed = none) :
    (s.readOut p).host.outbox = s.host.outbox ++ (List.range (sqCount (s.cmd p).entry)).flatMap (s.lbaWrites a (sqLba (s.cmd p).entry)) ∧
      (s.readOut p).cmd p = { s.cmd p with ready := true, result := sqCount (s.cmd p).entry } := by
  have hsent := State.sendLbas_good (List.range (sqCount (s.cmd p).entry)) hranges (fun i hi => List.mem_range.1 hi)
    (fun i hi => hgood i (List.mem_range.1 hi))
  obtain ⟨u, hu⟩ : ∃ u, u = (List.range (sqCount (s.cmd p).entry)).foldl (State.bridgeRead p)
      (s.sent ((List.range (sqCount (s.cmd p).entry)).flatMap (s.lbaWrites a (sqLba (s.cmd p).entry)))) := ⟨_, rfl⟩
  have hhost : u.host = (s.sent ((List.range (sqCount (s.cmd p).entry)).flatMap (s.lbaWrites a (sqLba (s.cmd p).entry)))).host := by
    rw [hu, State.bridgeReads_host]
  have hcmd : u.cmd p = s.cmd p := by rw [State.cmd, hhost]; rfl
  have hout : s.readOut p = u.setCmd p { s.cmd p with ready := true, result := sqCount (s.cmd p).entry } := by
    have hopen' : u.open p = true := by rw [State.open, hcmd]; exact hopen
    have hsame : (s.sent ((List.range (sqCount (s.cmd p).entry)).flatMap (s.lbaWrites a (sqLba (s.cmd p).entry)))).cmd p = s.cmd p := rfl
    rw [State.readOut]
    simp only [hsent, ← hu, hsame, hfailed, State.finish, hopen', if_true, hcmd, Option.getD_none]
  rw [hout]
  exact ⟨by rw [State.setCmd_host, hhost]; rfl, State.cmd_setCmd_same ..⟩

/-- Settles O14: the pages are looked up, none is waited for, and each LBA is sent as it is stored. -/
theorem readReturnsStoredBytes : Obligations.ReadReturnsStoredBytes := by
  intro s s0 q p e h hop hfields hlast hbusy hlist hserved hpages hgood
  obtain ⟨s1, hs1⟩ : ∃ s1, s1 = s0.setCmd p { s0.cmd p with ranges := flatRanges e } := ⟨_, rfl⟩
  have hcmd1 : s1.cmd p = { s0.cmd p with ranges := flatRanges e } := by rw [hs1, State.cmd_setCmd_same]
  obtain ⟨s2, hs2⟩ : ∃ s2, s2 = (lbaPages (sqLba e) (sqCount e)).foldl State.readPage s1 := ⟨_, rfl⟩
  have hreads : s1.ReadsAs s2 := hs2 ▸ State.readPages_readsAs _ fun g hg => by rw [hs1]; exact (hpages g hg).1
  have hcmd : s2.cmd p = { s0.cmd p with ranges := flatRanges e } := by rw [State.cmd, hreads.host, ← hcmd1, State.cmd]
  have hentry : (s2.cmd p).entry = e := by rw [hcmd]; exact h.entry
  have hnone : (lbaPages (sqLba e) (sqCount e)).filter s2.awaitsPage = [] := by
    refine List.filter_eq_nil_iff.2 fun g hg => ?_
    rw [State.awaitsPage_of_served (by rw [hreads.reserveDown, hs1]; exact hserved) (by rw [hreads.page, hs1]; exact (hpages g hg).2)]
    exact Bool.false_ne_true
  have hgo : exec (.read q) s = .next (s2.readOut p) := by
    rw [exec_read_taken h hop, State.blockChecks_pass hfields hlast hbusy]
    rw [State.transferGo_read h.entry hop hlist, ← hs1, hs2]
    exact congrArg _ (State.readGo_served (by rw [hcmd1]; exact h.entry) (hs2 ▸ hnone))
  have hstatus (b : Nat) : s2.lbaStatus b = s0.lbaStatus b := by rw [hreads.lbaStatus, hs1]; rfl
  have hdata : s2.depotRead (4096 * sqLba e) (4096 * sqCount e) = s0.depotRead (4096 * sqLba e) (4096 * sqCount e) := by
    rw [hreads.depotRead, hs1]; rfl
  obtain ⟨hout, hdone⟩ := State.readOut_good (s := s2) (p := p) (a := byteField e 24 8) (by rw [hcmd, h.entry]; rfl)
    (fun i hi => by rw [hentry] at hi ⊢; rw [hstatus]; exact hgood i hi) (by simp [State.open, hcmd, h.cmd]) (by rw [hcmd, h.cmd])
  rw [hentry] at hout hdone
  refine ⟨_, _, hgo, by rw [hout, hreads.host, hs1]; rfl, by rw [lbaWrites_placed, hdata], fun m hm => ?_, by rw [hdone], ?_, by rw [hdone]⟩
  · obtain ⟨i, -, hi⟩ := List.mem_flatMap.1 hm
    exact postedWrites_small _ _ _ _ m hi
  · rw [hdone, hcmd, h.cmd]

end Sys2Proof.Machine
end

section
/-! SUPPORT. What moves in write-back, eviction and promotion: registers, the flash store's map and staging, the configuration store's
queue, the host's interrupts and the pages' states, and neither a stored byte of the depot nor a command. -/

namespace Sys2Proof.Machine

/-- Registers, interrupts, pages, flash and the configuration store may differ; the depot's bytes and the commands are the same. -/
structure State.SameBytes (s t : State) : Prop where
  parts : s.OnlyParts t [.regs, .host, .depot, .flash, .cfs]
  base : t.depot.base = s.depot.base
  layers : t.depot.layers = s.depot.layers
  cmds : t.host.cmds = s.host.cmds

namespace State.SameBytes

theorem refl (s : State) : s.SameBytes s := ⟨State.OnlyParts.refl s _, rfl, rfl, rfl⟩

theorem trans {s t u : State} (h : s.SameBytes t) (k : t.SameBytes u) : s.SameBytes u :=
  ⟨h.parts.trans k.parts, k.base.trans h.base, k.layers.trans h.layers, k.cmds.trans h.cmds⟩

theorem symm {s t : State} (h : s.SameBytes t) : t.SameBytes s := by
  refine ⟨fun x hx => ?_, h.base.symm, h.layers.symm, h.cmds.symm⟩
  have hsame := h.parts x hx
  cases x <;> exact Eq.symm hsame

theorem foldl {α : Type} {f : State → α → State} (hf : ∀ (s : State) x, s.SameBytes (f s x)) (l : List α) (s : State) :
    s.SameBytes (l.foldl f s) := by
  induction l generalizing s with
  | nil => exact .refl s
  | cons x l ih => exact (hf s x).trans (ih _)

theorem byte {s t : State} (h : s.SameBytes t) (a : Nat) : t.depot.byte a = s.depot.byte a := by
  rw [Depot.byte, h.base, h.layers, Depot.byte]

theorem cmd {s t : State} (h : s.SameBytes t) (p : Nat) : t.cmd p = s.cmd p := by rw [State.cmd, h.cmds, State.cmd]

/-- Of parts that hold neither bytes nor commands. -/
theorem of_parts {s t : State} {ps : List Part} (h : s.OnlyParts t ps) (hp : ∀ x ∈ ps, x ∈ [Part.regs, .flash, .cfs] := by decide) :
    s.SameBytes t := by
  have hkept (x : Part) (hx : x ∉ [Part.regs, .flash, .cfs]) : x.Same s t := h x fun hin => hx (hp x hin)
  have hdepot : t.depot = s.depot := hkept .depot (by decide)
  have hhost : t.host = s.host := hkept .host (by decide)
  exact ⟨fun x hx => hkept x (by simp at hx ⊢; tauto), by rw [hdepot], by rw [hdepot], by rw [hhost]⟩

end State.SameBytes

/-- An operation that keeps bytes and commands may be dropped from the end of a chain. -/
theorem State.sameBytes_iff {s t u : State} (h : t.SameBytes u) : s.SameBytes u ↔ s.SameBytes t :=
  ⟨fun k => k.trans h.symm, fun k => k.trans h⟩

section

variable (s t : State)

@[simp] theorem State.sameBytes_refl : s.SameBytes s := .refl s

/-! ## The state's updates -/

@[simp] theorem State.sameBytes_setFlash (f : Flash) : s.SameBytes (t.setFlash f) ↔ s.SameBytes t :=
  State.sameBytes_iff (.of_parts (t.setFlash_onlyParts f))
@[simp] theorem State.sameBytes_setCfs (c : Cfs) : s.SameBytes (t.setCfs c) ↔ s.SameBytes t := State.sameBytes_iff (.of_parts (t.setCfs_onlyParts c))
@[simp] theorem State.sameBytes_fset (f : Fld) (i v : Nat) : s.SameBytes (t.fset f i v) ↔ s.SameBytes t :=
  State.sameBytes_iff (.of_parts (t.fset_onlyParts f i v))
@[simp] theorem State.sameBytes_bump (f : Fld) (i n : Nat) : s.SameBytes (t.bump f i n) ↔ s.SameBytes t :=
  State.sameBytes_iff (.of_parts (t.bump_onlyParts f i n))
@[simp] theorem State.sameBytes_dip (f : Fld) (i n : Nat) : s.SameBytes (t.dip f i n) ↔ s.SameBytes t :=
  State.sameBytes_iff (.of_parts (t.dip_onlyParts f i n))
theorem State.sameBytes_setDepot {d : Depot} (hb : d.base = t.depot.base) (hl : d.layers = t.depot.layers) :
    s.SameBytes (t.setDepot d) ↔ s.SameBytes t :=
  State.sameBytes_iff ⟨(t.setDepot_onlyParts d).mono (by decide), by simpa using hb, by simpa using hl, by simp⟩
@[simp] theorem State.sameBytes_setPage (p : Nat) (x : Page) : s.SameBytes (t.setPage p x) ↔ s.SameBytes t :=
  s.sameBytes_setDepot t rfl rfl

@[simp] theorem State.sameBytes_raiseMsix (v : Nat) : s.SameBytes (t.raiseMsix v) ↔ s.SameBytes t := by
  refine State.sameBytes_iff ?_
  unfold State.raiseMsix State.send
  split_ifs
  · exact .refl t
  · exact ⟨(t.setHost_onlyParts _).mono (by decide), by simp, by simp, by simp⟩
  · exact ⟨(t.setHost_onlyParts _).mono (by decide), by simp, by simp, by simp⟩
@[simp] theorem State.sameBytes_flag (f : Fld) : s.SameBytes (t.flag f) ↔ s.SameBytes t := by
  refine State.sameBytes_iff ?_
  unfold State.flag
  dsimp only
  split_ifs <;> simp

/-! ## The flash store (R469 to R489) -/

@[simp] theorem State.sameBytes_putSec (p : Nat) (x : Sec) : s.SameBytes (t.putSec p x) ↔ s.SameBytes t := s.sameBytes_setFlash ..
@[simp] theorem State.sameBytes_setLsec (l : Nat) (x : LSec) : s.SameBytes (t.setLsec l x) ↔ s.SameBytes t := s.sameBytes_setFlash ..
@[simp] theorem State.sameBytes_setPunit (u : Nat) (x : PUnit) : s.SameBytes (t.setPunit u x) ↔ s.SameBytes t := s.sameBytes_setFlash ..
@[simp] theorem State.sameBytes_setFread (i : Nat) (x : FRead) : s.SameBytes (t.setFread i x) ↔ s.SameBytes t := s.sameBytes_setFlash ..
@[simp] theorem State.sameBytes_setSecSt (p : Nat) (st : SecSt) : s.SameBytes (t.setSecSt p st) ↔ s.SameBytes t := by
  simp [State.setSecSt]
@[simp] theorem State.sameBytes_journalRaw (type key : Nat) (body : List Byte) : s.SameBytes (t.journalRaw type key body) ↔ s.SameBytes t :=
  s.sameBytes_setFlash ..
@[simp] theorem State.sameBytes_journalUnit (p : Nat) : s.SameBytes (t.journalUnit p) ↔ s.SameBytes t := s.sameBytes_setPunit ..
@[simp] theorem State.sameBytes_eraseSectors (n : Nat) : s.SameBytes (t.eraseSectors n) ↔ s.SameBytes t := s.sameBytes_setCfs ..
@[simp] theorem State.sameBytes_askCheckpoint : s.SameBytes t.askCheckpoint ↔ s.SameBytes t := by
  refine State.sameBytes_iff ?_
  unfold State.askCheckpoint
  split <;> simp

@[simp] theorem State.sameBytes_retireRaw (p cause : Nat) : s.SameBytes (t.retireRaw p cause) ↔ s.SameBytes t := by
  refine State.sameBytes_iff ?_
  have hspares (u : State) (ks : List Nat) (g : Nat) : u.SameBytes (ks.foldl (fun s k => s.bump F.flsDieSpares (dieOfSlot g k) 1) u) :=
    .foldl (fun v k => by simp) ks u
  unfold State.retireRaw
  dsimp only
  split_ifs
  · exact .refl t
  · simp [State.sameBytes_iff (hspares _ _ _)]
  · simp [State.sameBytes_iff (hspares _ _ _)]

theorem State.remapSlot_sameBytes {p k : Nat} {u : State} (h : t.remapSlot p k = some u) : t.SameBytes u := by
  unfold State.remapSlot at h
  extract_lets g s1 at h
  have hs1 : t.SameBytes s1 := by
    simp only [s1]
    split
    · exact .refl t
    · split <;> simp
  split at h
  · exact absurd h (by simp)
  · obtain rfl := Option.some.inj h
    simpa using hs1

theorem State.remapAll_sameBytes (ks : List Nat) {t : State} {p : Nat} {u : State} (h : t.remapAll p ks = some u) : t.SameBytes u := by
  induction ks generalizing t with
  | nil => exact Option.some.inj h ▸ .refl t
  | cons k ks ih =>
    rw [State.remapAll] at h
    split at h
    · exact absurd h (by simp)
    · next hk => exact (t.remapSlot_sameBytes hk).trans (ih h)

theorem State.allocAmong_sameBytes (fuel : Nat) {t : State} {cands : State → List Nat} {st : SecSt} {p : Nat} {u : State}
    (h : t.allocAmong cands st fuel = some (p, u)) : t.SameBytes u := by
  induction fuel generalizing t with
  | zero => exact absurd h (by simp [State.allocAmong])
  | succ fuel ih =>
    rw [State.allocAmong] at h
    split at h
    · exact absurd h (by simp)
    · split at h
      · exact State.SameBytes.trans (by simp) (ih h)
      · next hr =>
        obtain ⟨rfl, rfl⟩ := Prod.mk.inj (Option.some.inj h)
        simpa using State.remapAll_sameBytes _ hr

@[simp] theorem State.sameBytes_rollover : s.SameBytes t.rollover ↔ s.SameBytes t := by
  refine State.sameBytes_iff ?_
  unfold State.rollover
  split
  · exact .refl t
  · next ha =>
    split
    · exact .refl t
    · next hb =>
      simpa using (State.allocAmong_sameBytes _ ha).trans (State.allocAmong_sameBytes _ hb)

@[simp] theorem State.sameBytes_journalDrain : s.SameBytes t.journalDrain ↔ s.SameBytes t := by
  refine State.sameBytes_iff ?_
  have hpair (u : State) (ps : List Nat) : u.SameBytes (ps.foldl State.journalUnit u) := .foldl (fun v k => by simp) ps u
  unfold State.journalDrain
  dsimp only
  split_ifs
  · exact .refl t
  · simp [State.sameBytes_iff (hpair _ _)]
  · simp [State.sameBytes_iff (hpair _ _)]

@[simp] theorem State.sameBytes_journal (type key : Nat) (body : List Byte) : s.SameBytes (t.journal type key body) ↔ s.SameBytes t := by
  simp [State.journal]
@[simp] theorem State.sameBytes_queueErase (ps : List Nat) : s.SameBytes (t.queueErase ps) ↔ s.SameBytes t := s.sameBytes_setFlash ..

theorem State.allocSec_sameBytes {l fuel p : Nat} {st : SecSt} {u : State} (h : t.allocSec l st fuel = some (p, u)) : t.SameBytes u := by
  unfold State.allocSec at h
  split at h
  · exact absurd h (by simp)
  · next ha =>
    obtain ⟨rfl, rfl⟩ := Prod.mk.inj (Option.some.inj h)
    simpa using State.allocAmong_sameBytes _ ha

@[simp] theorem State.sameBytes_mergeInto (l p : Nat) (relocating : Bool) : s.SameBytes (t.mergeInto l p relocating) ↔ s.SameBytes t := by
  simp [State.mergeInto]
@[simp] theorem State.sameBytes_startMerge (l : Nat) (relocating : Bool) : s.SameBytes (t.startMerge l relocating) ↔ s.SameBytes t := by
  refine State.sameBytes_iff ?_
  unfold State.startMerge
  split
  · exact .refl t
  split
  · exact .refl t
  · next ha => simpa using t.allocSec_sameBytes ha

@[simp] theorem State.sameBytes_markWriting (bs : List Nat) : s.SameBytes (t.markWriting bs) ↔ s.SameBytes t :=
  State.sameBytes_iff (.foldl (fun v b => by simp) bs t)

@[simp] theorem State.sameBytes_beginInOrder (p l u fuel : Nat) : s.SameBytes (t.beginInOrder p l u fuel) ↔ s.SameBytes t := by
  refine State.sameBytes_iff ?_
  induction fuel generalizing t with
  | zero => exact .refl t
  | succ fuel ih =>
    rw [State.beginInOrder]
    dsimp only
    split
    · exact .refl t
    · refine (State.sameBytes_iff (ih _)).2 ?_
      split <;> simp

@[simp] theorem State.sameBytes_beginUnit (i : Nat) : s.SameBytes (t.beginUnit i) ↔ s.SameBytes t := by
  refine State.sameBytes_iff ?_
  unfold State.beginUnit
  dsimp only
  split_ifs <;> simp
@[simp] theorem State.sameBytes_reclaimLog : s.SameBytes t.reclaimLog ↔ s.SameBytes t := by
  refine State.sameBytes_iff ?_
  unfold State.reclaimLog
  split
  · simp
  · split <;> simp
@[simp] theorem State.sameBytes_openLog (l : Nat) (inOrder : Bool) : s.SameBytes (t.openLog l inOrder) ↔ s.SameBytes t := by
  refine State.sameBytes_iff ?_
  unfold State.openLog
  split
  · simp
  split
  · simp
  · next ha => simpa using t.allocSec_sameBytes ha

@[simp] theorem State.sameBytes_stageScatter (l : Nat) (bs : List Nat) : s.SameBytes (t.stageScatter l bs) ↔ s.SameBytes t := by
  refine State.sameBytes_iff ?_
  have hbegun (u : State) (es : List (Nat × PUnit)) : u.SameBytes (es.foldl (fun s e => s.beginUnit e.1) u) :=
    .foldl (fun v k => by simp) es u
  unfold State.stageScatter
  split
  · exact .refl t
  extract_lets s0
  have hs0 : t.SameBytes s0 := by
    simp only [s0]
    split
    · split <;> simp
    · simp
  split
  · exact hs0
  split
  · simpa using hs0
  · simpa [State.sameBytes_iff (hbegun _ _)] using hs0

@[simp] theorem State.sameBytes_stageInOrder (l p b : Nat) : s.SameBytes (t.stageInOrder l p b) ↔ s.SameBytes t := by
  refine State.sameBytes_iff ?_
  unfold State.stageInOrder
  extract_lets u
  split
  · extract_lets y s1
    split <;> simp [s1]
  · simp
@[simp] theorem State.sameBytes_stageGroup (bs : List Nat) : s.SameBytes (t.stageGroup bs) ↔ s.SameBytes t := by
  refine State.sameBytes_iff ?_
  unfold State.stageGroup
  dsimp only
  split
  · exact .foldl (fun v b => by simp) bs t
  · simp
@[simp] theorem State.sameBytes_queueReads (why : ReadWhy) (bs : List Nat) : s.SameBytes (t.queueReads why bs) ↔ s.SameBytes t :=
  State.sameBytes_iff (.foldl (fun v b => by simp) bs t)

/-! ## Write-back (R244) -/

@[simp] theorem State.sameBytes_handOver (bs : List Nat) : s.SameBytes (t.handOver bs) ↔ s.SameBytes t := by
  refine State.sameBytes_iff ?_
  unfold State.handOver
  dsimp only
  split_ifs <;> simp
@[simp] theorem State.sameBytes_handOverLba (b : Nat) : s.SameBytes (t.handOverLba b) ↔ s.SameBytes t := by
  refine State.sameBytes_iff ?_
  unfold State.handOverLba
  dsimp only
  split
  · exact .refl t
  split
  · split <;> simp [State.sameBytes_setDepot]
  · simp
@[simp] theorem State.sameBytes_startWriteBack (p : Nat) : s.SameBytes (t.startWriteBack p) ↔ s.SameBytes t := by
  refine State.sameBytes_iff ?_
  have hhanded (u : State) (bs : List Nat) : u.SameBytes (bs.foldl State.handOverLba u) := .foldl (fun v k => by simp) bs u
  unfold State.startWriteBack
  dsimp only
  split_ifs <;> simp [State.sameBytes_iff (hhanded _ _)]
@[simp] theorem State.sameBytes_writeBackAll : s.SameBytes t.writeBackAll ↔ s.SameBytes t :=
  State.sameBytes_iff (.foldl (fun v b => by simp) _ t)
@[simp] theorem State.sameBytes_dirtyPressure : s.SameBytes t.dirtyPressure ↔ s.SameBytes t := by
  refine State.sameBytes_iff ?_
  unfold State.dirtyPressure
  split <;> simp

/-! ## Frames (R239 to R243) -/

@[simp] theorem State.sameBytes_takeFrame (n : Nat) : s.SameBytes (t.takeFrame n) ↔ s.SameBytes t := by simp [State.takeFrame]
@[simp] theorem State.sameBytes_freeFrame (n : Nat) : s.SameBytes (t.freeFrame n) ↔ s.SameBytes t := by simp [State.freeFrame]
@[simp] theorem State.sameBytes_touch (p : Nat) : s.SameBytes (t.touch p) ↔ s.SameBytes t := s.sameBytes_setDepot t rfl rfl
@[simp] theorem State.sameBytes_dropFrame (p : Nat) : s.SameBytes (t.dropFrame p) ↔ s.SameBytes t := by
  refine State.sameBytes_iff ?_
  unfold State.dropFrame
  dsimp only
  split <;> simp [State.sameBytes_setDepot]
@[simp] theorem State.sameBytes_evictPage (n p : Nat) : s.SameBytes (State.evictPage n t p) ↔ s.SameBytes t := by
  refine State.sameBytes_iff ?_
  unfold State.evictPage
  split_ifs <;> simp
@[simp] theorem State.sameBytes_evict (n : Nat) : s.SameBytes (t.evict n) ↔ s.SameBytes t := by
  refine State.sameBytes_iff ?_
  have hgone (u : State) (ps : List Nat) : u.SameBytes (ps.foldl (State.evictPage n) u) := .foldl (fun v k => by simp) ps u
  unfold State.evict
  extract_lets d s1 s2 e
  have hs1 : t.SameBytes s1 := by
    simp only [s1, d]
    split <;> simp [State.sameBytes_setDepot]
  have hs2 : t.SameBytes s2 := hs1.trans (hgone _ _)
  split
  · exact hs1
  split
  · exact (State.sameBytes_setDepot _ _ (by rfl) (by rfl)).2 hs2
  · exact hs2
@[simp] theorem State.sameBytes_makeRoom (n : Nat) : s.SameBytes (t.makeRoom n) ↔ s.SameBytes t := by
  refine State.sameBytes_iff ?_
  unfold State.makeRoom
  dsimp only
  split
  · exact .refl t
  split <;> simp
@[simp] theorem State.sameBytes_frameFor (p : Nat) : s.SameBytes (t.frameFor p) ↔ s.SameBytes t := by
  refine State.sameBytes_iff ?_
  unfold State.frameFor
  dsimp only
  split <;> simp
@[simp] theorem State.sameBytes_promote (p : Nat) : s.SameBytes (t.promote p) ↔ s.SameBytes t := by
  refine State.sameBytes_iff ?_
  unfold State.promote
  dsimp only
  split <;> simp
@[simp] theorem State.sameBytes_ensureFrame (p : Nat) : s.SameBytes (t.ensureFrame p) ↔ s.SameBytes t := by
  refine State.sameBytes_iff ?_
  unfold State.ensureFrame
  dsimp only
  split_ifs <;> simp

/-! ## A page's entry, lines and generation (R249, R250, R265) -/

@[simp] theorem State.sameBytes_tierLookup (p : Nat) : s.SameBytes (t.tierLookup p) ↔ s.SameBytes t := by
  refine State.sameBytes_iff ?_
  unfold State.tierLookup
  dsimp only
  split_ifs <;> simp [State.sameBytes_setDepot]
@[simp] theorem State.sameBytes_dropLines (p d : Nat) : s.SameBytes (State.dropLines p t d) ↔ s.SameBytes t := by
  simp [State.dropLines, State.sameBytes_setDepot]
@[simp] theorem State.sameBytes_invalidateLines (p : Nat) : s.SameBytes (t.invalidateLines p) ↔ s.SameBytes t :=
  State.sameBytes_iff (.foldl (fun v b => by simp) _ t)
@[simp] theorem State.sameBytes_genStep (p : Nat) : s.SameBytes (t.genStep p) ↔ s.SameBytes t := s.sameBytes_setPage ..
@[simp] theorem State.sameBytes_beginWrite (p : Nat) : s.SameBytes (t.beginWrite p) ↔ s.SameBytes t := by simp [State.beginWrite]
@[simp] theorem State.sameBytes_dropReads (p m : Nat) : s.SameBytes (t.dropReads p m) ↔ s.SameBytes t := s.sameBytes_setFlash ..
@[simp] theorem State.sameBytes_markDirty (p m : Nat) : s.SameBytes (t.markDirty p m) ↔ s.SameBytes t := by simp [State.markDirty]
@[simp] theorem State.sameBytes_writtenAgain (p m : Nat) : s.SameBytes (t.writtenAgain p m) ↔ s.SameBytes t := by
  refine State.sameBytes_iff ?_
  unfold State.writtenAgain
  split <;> simp

end

end Sys2Proof.Machine
end

section
/-! SUPPORT. What a content write stores: its bytes become the depot's, over what lay there (R265). -/

namespace Sys2Proof.Machine

/-! ## Layers and the base -/

theorem Memory.get_write (m : Memory) (a x : Nat) (bs : List Byte) :
    Memory.get (Memory.write m a bs) x = if a ≤ x ∧ x < a + bs.length then bs.getD (x - a) 0 else Memory.get m x := by
  split
  · next h =>
    obtain ⟨i, rfl⟩ := Nat.exists_eq_add_of_le h.1
    have hi : i < bs.length := by omega
    rw [Memory.get_write_inside m a i bs hi, Nat.add_sub_cancel_left, List.getD_eq_getElem _ _ hi]
  · exact Memory.get_write_outside m a x bs (by omega)

/-- Folding the settled layers into the base changes no byte. -/
theorem foldLayers_byte (ls : List Layer) (m : Memory) (a : Nat) :
    (foldLayers m ls).2.foldl (Layer.over a) ((foldLayers m ls).1.get a) = ls.foldl (Layer.over a) (m.get a) := by
  induction ls generalizing m with
  | nil => rfl
  | cons l ls ih =>
    rw [foldLayers]
    split
    · rw [ih, Memory.get_write, List.foldl_cons]
      rfl
    · rfl

theorem State.foldDepot_byte (s : State) (a : Nat) : s.foldDepot.depot.byte a = s.depot.byte a := by
  simp only [State.foldDepot, State.setDepot_depot]
  exact foldLayers_byte s.depot.layers s.depot.base a

theorem State.layOver_byte (s : State) (owner : Option Nat) (a x : Nat) (bs : List Byte) :
    (s.layOver owner a bs).depot.byte x = Layer.over x (s.depot.byte x) ⟨owner, a, bs⟩ := by
  rw [State.layOver, State.foldDepot_byte, State.setDepot_depot]
  simp only [Depot.byte, List.foldl_append, List.foldl_cons, List.foldl_nil]

theorem State.layOver_onlyParts (s : State) (owner : Option Nat) (a : Nat) (bs : List Byte) :
    s.OnlyParts (s.layOver owner a bs) [.depot] := (s.setDepot_onlyParts _).trans (State.setDepot_onlyParts _ _)

/-! ## A content write -/

/-- Commands' entries, stations and searches are the same. -/
structure State.SameWork (s t : State) : Prop where
  entry : ∀ p, (t.cmd p).entry = (s.cmd p).entry
  stations : t.stations = s.stations
  search : t.search = s.search

theorem State.SameWork.trans {s t u : State} (h : s.SameWork t) (k : t.SameWork u) : s.SameWork u :=
  ⟨fun p => (k.entry p).trans (h.entry p), k.stations.trans h.stations, k.search.trans h.search⟩

theorem State.SameBytes.work {s t : State} (h : s.SameBytes t) : s.SameWork t :=
  ⟨fun p => by rw [h.cmd], h.parts .stations (by decide), h.parts .search (by decide)⟩

theorem State.OnlyParts.work {s t : State} {ps : List Part} (h : s.OnlyParts t ps) (hh : .host ∉ ps := by decide)
    (hst : .stations ∉ ps := by decide) (hse : .search ∉ ps := by decide) : s.SameWork t :=
  ⟨fun p => by rw [State.cmd, show t.host = s.host from h .host hh, State.cmd], h .stations hst, h .search hse⟩

/-- The depot holds the bytes from address `a` on, and elsewhere what it held. -/
structure State.Stores (s t : State) (a : Nat) (bs : List Byte) : Prop where
  byte : ∀ x, t.depot.byte x = if a ≤ x ∧ x < a + bs.length then bs.getD (x - a) 0 else s.depot.byte x
  work : s.SameWork t

theorem State.Stores.after {s t u : State} {a : Nat} {bs : List Byte} (h : s.Stores t a bs) (k : t.SameBytes u) : s.Stores u a bs :=
  ⟨fun x => (k.byte x).trans (h.byte x), h.work.trans k.work⟩

theorem State.Stores.before {s t u : State} {a : Nat} {bs : List Byte} (hb : ∀ x, t.depot.byte x = s.depot.byte x) (hw : s.SameWork t)
    (k : t.Stores u a bs) : s.Stores u a bs := ⟨fun x => by rw [k.byte, hb], hw.trans k.work⟩

theorem State.layOver_stores (s : State) (owner : Option Nat) (a : Nat) (bs : List Byte) :
    s.Stores ((s.layOver owner a bs).clearBad a bs.length) a bs :=
  ⟨fun x => by rw [State.clearBad, State.setEcc_depot, State.layOver_byte]; rfl,
    (s.layOver_onlyParts owner a bs).work.trans (State.setEcc_onlyParts _ _).work⟩

theorem State.landBytes_stores (s : State) (owner : Option Nat) (p a : Nat) (bs : List Byte) :
    s.Stores (s.landBytes owner p a bs) a bs := by
  unfold State.landBytes
  extract_lets s0 s1 s2 m s4
  have h1 : s.SameBytes s1 := by
    simp only [s1, s0]
    split <;> simp
  have h2 : s.Stores s2 a bs := .before h1.byte h1.work (s1.layOver_stores owner a bs)
  have h4 : s2.SameBytes s4 := by simp [s4]
  split
  · split
    · exact h2.after (h4.trans (by simp))
    · exact h2.after h4
  · exact h2.after (by simp)

theorem State.contentWrite_stores (s : State) (owner : Option Nat) (p a : Nat) (bs : List Byte) :
    s.Stores (s.contentWrite owner p a bs) a bs := by
  have hbegun : s.SameBytes (s.beginWrite p) := by simp
  have hland : s.Stores ((s.beginWrite p).landBytes owner p a bs) a bs := .before hbegun.byte hbegun.work (State.landBytes_stores ..)
  unfold State.contentWrite
  exact hland.after (by simp)

/-! ## A turn -/

theorem State.setCmd_work (s : State) (p : Nat) {c : Cmd} (h : c.entry = (s.cmd p).entry) : s.SameWork (s.setCmd p c) := by
  refine ⟨fun q => ?_, rfl, rfl⟩
  by_cases hq : q = p
  · rw [hq, State.cmd_setCmd_same, h]
  · rw [State.cmd_setCmd, if_neg hq]

theorem State.noteMerge_host (s : State) (place : Option Nat) (a n : Nat) : s.OnlyParts (s.noteMerge place a n) [.host] := by
  unfold State.noteMerge
  split
  · split
    · exact State.setCmd_onlyParts _ _ _
    · exact .refl s _
  · exact .refl s _

theorem State.noteMerge_work (s : State) (place : Option Nat) (a n : Nat) : s.SameWork (s.noteMerge place a n) := by
  unfold State.noteMerge
  split
  · split
    · exact s.setCmd_work _ rfl
    · exact (State.OnlyParts.refl s []).work
  · exact (State.OnlyParts.refl s []).work

theorem State.finish_host (s : State) (p status result : Nat) : s.OnlyParts (s.finish p status result) [.host] := by
  unfold State.finish
  split
  · exact State.setCmd_onlyParts _ _ _
  · exact .refl s _

theorem State.finish_work (s : State) (p status result : Nat) : s.SameWork (s.finish p status result) := by
  unfold State.finish
  split
  · exact s.setCmd_work _ rfl
  · exact (State.OnlyParts.refl s []).work

theorem State.turnDone_host (s : State) (t : Turn) : s.OnlyParts (s.turnDone t) [.host] := by
  unfold State.turnDone
  dsimp only
  split_ifs
  · exact State.send_onlyParts _ _
  · exact .refl s _
  split
  · exact .refl s _
  split_ifs
  · exact .refl s _
  · exact State.setCmd_onlyParts _ _ _
  · exact (State.setCmd_onlyParts _ _ _).trans (State.setCmd_onlyParts _ _ _)
  all_goals exact (State.setCmd_onlyParts _ _ _).trans (State.finish_host _ _ _ _)

theorem State.turnDone_work (s : State) (t : Turn) : s.SameWork (s.turnDone t) := by
  unfold State.turnDone
  dsimp only
  split_ifs
  · exact ⟨fun _ => rfl, rfl, rfl⟩
  · exact (State.OnlyParts.refl s []).work
  split
  · exact (State.OnlyParts.refl s []).work
  · next p _ =>
    have hset (w : List Nat) : s.SameWork (s.setCmd p { s.cmd p with waits := w }) := s.setCmd_work p rfl
    split_ifs
    · exact (State.OnlyParts.refl s []).work
    · exact hset _
    · exact (hset _).trans (State.setCmd_work _ p (by rw [State.cmd_setCmd_same]))
    all_goals exact (hset _).trans (State.finish_work _ _ _ _)

theorem State.runTurn_stores (s : State) {t : Turn} (h : t.release = 0) : s.Stores (s.runTurn t) t.addr t.bytes := by
  unfold State.runTurn
  extract_lets s1
  have h1 : s.SameBytes s1 := by
    simp only [s1]
    split <;> simp
  refine .before h1.byte h1.work ?_
  rw [if_neg (by simp [h])]
  split
  · have hb := s1.bridgeData_carried 0 (s1.homeDie t.page) (islandOfBox 0) ((s1.cmd (t.place.getD 0)).cls = 0) t.bytes.length
    exact .before (fun x => by rw [hb .depot (by decide)]) (State.OnlyParts.work hb) (State.contentWrite_stores ..)
  · have hm := s1.noteMerge_host t.place t.addr t.bytes.length
    exact .before (fun x => by rw [hm .depot (by decide)]) (s1.noteMerge_work ..) (State.contentWrite_stores ..)

/-! ## What waits for a turn -/

/-- An operation on each of some places that leaves the state alone. -/
theorem State.foldl_id {α : Type} {f : State → α → State} {s : State} (l : List α) (h : ∀ x, f s x = s) : l.foldl f s = s := by
  induction l with
  | nil => rfl
  | cons x l ih => rw [List.foldl_cons, h, ih]

/-- With no search in a walker, no SCAN and no mutating command, nothing waits for a page or a write. -/
theorem State.tierOn_idle {s : State} (hst : ∀ x ∈ s.stations, x.2.walkers = []) (hop : ∀ k, sqOpcode (s.cmd k).entry ≠ 0x08)
    (hm : s.search.mutators = []) (hs : s.search.shunts = []) : s.tierOn = s := by
  have hwalks : s.stations.flatMap (fun x => (x.2.walkers.filter (fun w => w.2.live && (w.2.need != [] || !w.2.started))).map
      (fun w => (x.1, w.1))) = [] := List.flatMap_eq_nil_iff.2 fun x hx => by simp [hst x hx]
  have hscans (ps : List Nat) : ps.foldl State.scanLoads s = s := State.foldl_id ps fun p => if_pos (.inl (hop p))
  simp only [State.tierOn, hwalks, List.foldl_nil, hscans]
  simp [State.mutateAll, hm, hs]

theorem State.ingestsGo_idle {s : State} (hop : ∀ k, sqOpcode (s.cmd k).entry ≠ 0x0B) : s.ingestsGo = s :=
  State.foldl_id _ fun p => if_neg fun h => hop p h.1

theorem exec_contentWriteTurn (g : Nat) (s : State) : exec (.contentWriteTurn g) s = .next (s.turn g).tierOn.ingestsGo := rfl

/-- Settles O17: the bytes land over what lay there, and nothing waits for them. -/
theorem contentWriteStores : Obligations.ContentWriteStores := by
  intro s g t hfirst hmay hwaited hlimit hrelease hop hmut hshunt hwalk
  obtain ⟨u, hu⟩ : ∃ u, u = ((s.dropTurn t).runTurn t).turnDone t := ⟨_, rfl⟩
  have hdrop : s.SameBytes (s.dropTurn t) := (s.sameBytes_setDepot s (by rfl) (by rfl)).2 (.refl s)
  have hrun := State.runTurn_stores (s.dropTurn t) hrelease
  have hdone := State.turnDone_host ((s.dropTurn t).runTurn t) t
  have hwork : s.SameWork u := hu ▸ (hdrop.work.trans hrun.work).trans (State.turnDone_work _ _)
  have hno (n : Nat) (hn : n ∈ [0x08, 0x09, 0x0B]) (k : Nat) : sqOpcode (u.cmd k).entry ≠ n := fun he =>
    hop k (by rw [← hwork.entry, he]; exact hn)
  have hturn : s.turn g = u := by simp [State.turn, hfirst, hmay, hwaited, hlimit, hu]
  have hidle : u.tierOn = u := State.tierOn_idle (by rw [hwork.stations]; exact hwalk) (hno _ (by decide)) (by rw [hwork.search, hmut])
    (by rw [hwork.search, hshunt])
  refine ⟨u, ?_, fun a => ?_⟩
  · rw [exec_contentWriteTurn, hturn, hidle, State.ingestsGo_idle (hno _ (by decide))]
  · have hdepot : u.depot = ((s.dropTurn t).runTurn t).depot := hu ▸ hdone .depot (by decide)
    rw [hdepot, hrun.byte, hdrop.byte]

end Sys2Proof.Machine
end

section
/-! SUPPORT. The tier's events: turns, the write-back timer, promotion and the lookup of a page's entry (R242 to R245, R250, R265). -/

namespace Sys2Proof.Machine

theorem exec_dirtyLimitRelease (g : Nat) (s : State) : exec (.dirtyLimitRelease g) s = .next (s.releaseLimit g).tierOn.ingestsGo := rfl
theorem exec_writeBackTimer (g : Nat) (s : State) : exec (.writeBackTimer g) s = .next (s.startWriteBack g) := rfl
theorem exec_promotionComplete (g : Nat) (s : State) : exec (.promotionComplete g) s = .next (s.promoted g).tierOn.wake := rfl
theorem exec_tierEntryLookup (d : DieId) (g : Nat) (s : State) : exec (.tierEntryLookup d g) s =
    .next (if s.homeDie g = d.val ∧ (isMediaPage g ∨ isScratchPage g) then s.tierLookup g else s) := rfl

/-! ## Turns (R245, R265) -/

section
variable {s : State} {g : Nat} {t : Turn} (hfirst : s.firstTurn g = some t) (hmay : s.mayTurn g = true)
include hfirst hmay

theorem State.turn_runs (hwaited : t.waited = false) (hlimit : s.overLimit t = false) :
    s.turn g = ((s.dropTurn t).runTurn t).turnDone t := by simp [State.turn, hfirst, hmay, hwaited, hlimit]

theorem State.turn_waits (hwaited : t.waited = false) (hlimit : s.overLimit t = true) : s.turn g = s.waitTurn t := by
  simp [State.turn, hfirst, hmay, hwaited, hlimit]

theorem State.releaseLimit_runs (hwaited : t.waited = true) (hlimit : s.overLimit t = false) :
    s.releaseLimit g = ((s.dropTurn t).runTurn t).turnDone t := by simp [State.releaseLimit, hfirst, hmay, hwaited, hlimit]

end

theorem State.waitTurn_counted (s : State) (t : Turn) :
    (s.waitTurn t).fget F.depTierCtrCount 5 = (s.fget F.depTierCtrCount 5 + 1) % 2 ^ 48 := by
  rw [State.waitTurn, State.fget_bump_of_apart _ _ _ _ (by decide), State.fget_bump_same _ _ _ _ (by decide), State.setDepot_fget]
  rfl

/-! ## Write-back and promotion (R242, R244) -/

theorem State.startWriteBack_of_takeable {s : State} {g : Nat} (h : s.takeable g ≠ []) :
    s.startWriteBack g = (s.takeable g).foldl State.handOverLba
      ((if s.unit0Dirty (g / 46080) ∧ (s.lsec (g / 46080)).inOrd = none ∧ (s.lsec (g / 46080)).target = none
        then s.openLog (g / 46080) true else s).bump F.depTierCtrCount 3 1) := if_neg h

section
variable {s : State} {g : Nat} (hpromoting : (s.page g).promoting = true) (hopen : s.promoteOpen g = false)
include hpromoting hopen

theorem State.promoted_owed (h : ((if (s.page g).owed then s.frameFor g else s).page g).owed = true) :
    s.promoted g = if (s.page g).owed then s.frameFor g else s := by
  unfold State.promoted
  rw [if_neg (by simp [hpromoting, hopen])]
  exact if_pos h

theorem State.promoted_framed {u : State} (hu : u = if (s.page g).owed then s.frameFor g else s) (h : (u.page g).owed = false) :
    s.promoted g = ((u.setPage g { u.page g with promoting := false, resident := true }).touch g).readsResume g := by
  subst hu
  unfold State.promoted
  rw [if_neg (by simp [hpromoting, hopen])]
  exact if_neg (by rw [h]; exact Bool.false_ne_true)

end

/-! ## The lookup of a page's tier entry (R250) -/

theorem State.tierLookup_window {s : State} {g : Nat} (h : s.inHostWindow g = true) : s.tierLookup g = s := if_pos h

theorem State.shareWaits_iff (s : State) (g : Nat) : s.shareWaits g = true ↔
    s.depot.reserveDown ≠ [] ∧ s.inHostWindow g = false ∧ g ∉ Tbl.look [] s.depot.tierCached (s.homeDie g) ∧
      s.depot.fencedStacks.zipIdx.any (fun f => s.depot.reserveDown.contains f.1 && homeAmong (s.upBefore f.2) g = f.1) = true := by
  simp [State.shareWaits, and_assoc]

theorem State.tierLookup_waits {s : State} {g : Nat} (h : s.shareWaits g = true) :
    s.tierLookup g = s.bump F.depCacheCtrCount (5 * s.homeDie g + 1) 1 := by
  obtain ⟨-, hwindow, hmiss, -⟩ := (s.shareWaits_iff g).1 h
  simp [State.tierLookup, hwindow, hmiss, h]

theorem State.tierLookup_hit {s : State} {g : Nat} (hwindow : s.inHostWindow g = false)
    (h : g ∈ Tbl.look [] s.depot.tierCached (s.homeDie g)) : s.tierLookup g = s.bump F.depCacheCtrCount (5 * s.homeDie g) 1 := by
  simp [State.tierLookup, hwindow, h]

/-- A die's depot cache with one more entry: the oldest leaves where it is full (R248). -/
def cachedWith (xs : List Nat) (g : Nat) : List Nat := if (xs ++ [g]).length > 4194304 then (xs ++ [g]).drop 1 else xs ++ [g]

theorem mem_cachedWith (xs : List Nat) (g : Nat) : g ∈ cachedWith xs g := by
  unfold cachedWith
  split
  · cases xs with
    | nil => simp at *
    | cons x xs => simp
  · simp

theorem State.tierLookup_miss {s : State} {g : Nat} (hwindow : s.inHostWindow g = false)
    (h : g ∉ Tbl.look [] s.depot.tierCached (s.homeDie g)) (hserved : s.shareWaits g = false) :
    s.tierLookup g = (s.setDepot { s.depot with
      tierCached := Tbl.put [] s.depot.tierCached (s.homeDie g) (cachedWith (Tbl.look [] s.depot.tierCached (s.homeDie g)) g)
      }).bump F.depCacheCtrCount (5 * s.homeDie g + 1) 1 := by
  simp [State.tierLookup, hwindow, h, hserved, cachedWith]

/-- Settles O18: each event is the branch of its operation that its conditions choose. -/
theorem tierEvents : Obligations.TierEvents := by
  refine ⟨fun s g t hfirst hmay => ⟨fun hwaited hlimit => ?_, fun hwaited hlimit => ⟨?_, s.waitTurn_counted t⟩, fun hwaited hlimit => ?_⟩,
    fun s g h => ?_, fun s g hpromoting hopen => ⟨fun h => ?_, fun h => ?_⟩,
    fun s d g hd hpage => ⟨fun h => ?_, fun h => ?_, fun hwindow hserved => ?_⟩⟩
  · rw [exec_contentWriteTurn, State.turn_runs hfirst hmay hwaited hlimit]
  · rw [exec_contentWriteTurn, State.turn_waits hfirst hmay hwaited hlimit]
  · rw [exec_dirtyLimitRelease, State.releaseLimit_runs hfirst hmay hwaited hlimit]
  · rw [exec_writeBackTimer, State.startWriteBack_of_takeable h]
  · rw [exec_promotionComplete, State.promoted_owed hpromoting hopen h]
  · rw [exec_promotionComplete, State.promoted_framed hpromoting hopen rfl h]
  · rw [exec_tierEntryLookup, if_pos ⟨hd, hpage⟩, State.tierLookup_window h]
  · rw [exec_tierEntryLookup, if_pos ⟨hd, hpage⟩, State.tierLookup_waits h, hd]
  · rw [exec_tierEntryLookup, if_pos ⟨hd, hpage⟩]
    refine ⟨_, rfl, ?_⟩
    by_cases hhit : g ∈ Tbl.look [] s.depot.tierCached d.val
    · rw [State.tierLookup_hit hwindow (by rw [hd]; exact hhit), hd, if_pos hhit]
      exact ⟨(s.bump_onlyParts _ _ _).mono (by decide), by simp, by simp, State.fget_bump_same _ _ _ _ (by decide)⟩
    · rw [State.tierLookup_miss hwindow (by rw [hd]; exact hhit) hserved, hd, if_neg hhit]
      refine ⟨((s.setDepot_onlyParts _).mono (by decide)).next (State.bump_onlyParts _ _ _ _), by simp, ?_, ?_⟩
      · simpa using mem_cachedWith _ g
      · rw [State.fget_bump_same _ _ _ _ (by decide), State.setDepot_fget]
        rfl

end Sys2Proof.Machine
end

section
/-! SUPPORT. Posting a completion (R430, R433 to R436): its CQ entry, and what it leaves. -/

namespace Sys2Proof.Machine

/-! ## Packets a SCAN holds open (R217) -/

/-- The host is sent data, and nothing else happens. -/
def State.SendsData (s t : State) : Prop := ∃ ms, t = s.sent ms ∧ ∀ m ∈ ms, ∃ a bs ep, m = HostMsg.data a bs ep

theorem State.SendsData.refl (s : State) : s.SendsData s := ⟨[], s.sent_nil.symm, fun _ h => absurd h List.not_mem_nil⟩

theorem State.SendsData.trans {s t u : State} (h : s.SendsData t) (k : t.SendsData u) : s.SendsData u := by
  obtain ⟨ms, rfl, hms⟩ := h
  obtain ⟨ns, rfl, hns⟩ := k
  exact ⟨ms ++ ns, s.sent_sent ms ns, fun m hm => (List.mem_append.1 hm).elim (hms m) (hns m)⟩

theorem State.SendsData.foldl {α : Type} {f : State → α → State} (hf : ∀ (s : State) x, s.SendsData (f s x)) (l : List α) (s : State) :
    s.SendsData (l.foldl f s) := by
  induction l generalizing s with
  | nil => exact .refl s
  | cons x l ih => exact (hf s x).trans (ih _)

theorem postedWrites_data (ep : Bool) (fuel a : Nat) (bs : List Byte) : ∀ m ∈ postedWrites ep fuel a bs, ∃ a bs ep, m = HostMsg.data a bs ep :=
  fun m hm => by
    obtain ⟨a, bs, ep, rfl, -⟩ := postedWrites_small ep fuel a bs m hm
    exact ⟨a, bs, ep, rfl⟩

theorem State.sendData_sendsData (s : State) (a : Nat) (bs : List Byte) (ep : Bool) : s.SendsData (s.sendData a bs ep) :=
  ⟨_, s.sendData_eq_sent a bs ep, postedWrites_data _ _ _ _⟩

theorem State.closeChunk_sendsData (s : State) (e : List Byte) (st : Nat) (x : ScanCtx) (stopped : Bool) :
    s.SendsData (s.closeChunk e st x stopped) := by
  unfold State.closeChunk
  split
  · exact .refl s
  · exact (s.sendData_sendsData _ _ _).trans (State.sendData_sendsData _ _ _ _)

theorem State.closeScans_sendsData (s : State) (st : Nat) (mine : ScanCtx → Bool) : s.SendsData (s.closeScans st mine) :=
  .foldl (fun t x => t.closeChunk_sendsData _ st x true) _ s

/-- Of a command that holds no packet open nothing is sent. -/
theorem State.closeScans_none {s : State} {p : Nat} (st : Nat) (h : s.packetOpen p = false) :
    s.closeScans st (fun x => x.place = p) = s := by
  refine List.foldlRecOn (motive := fun t => t = s) _ _ rfl fun t ht x hx => ?_
  rw [ht]
  obtain ⟨hx, hmine⟩ := List.mem_filter.1 hx
  obtain ⟨c, hc, rfl⟩ := List.mem_map.1 hx
  have hclosed : c.2.chunk = none := by
    rcases Tbl.look_mem {} s.stations st with hempty | ⟨e, he, hst⟩
    · rw [State.stn, hempty] at hc
      exact absurd hc List.not_mem_nil
    · by_contra hopen
      refine Bool.false_ne_true (h.symm.trans (List.any_eq_true.2 ⟨e, he, List.any_eq_true.2 ⟨c, by rw [hst]; exact hc, ?_⟩⟩))
      simp only [Bool.and_eq_true] at hmine ⊢
      exact ⟨hmine, by simpa [Option.isSome_iff_ne_none] using hopen⟩
  rw [State.closeChunk, hclosed]

/-! ## A command's contexts are free again -/

theorem State.endHold_depot (s : State) (i p : Nat) : s.OnlyParts (s.endHold i p) [.depot] := by
  unfold State.endHold
  split
  · exact s.setPage_onlyParts _ _
  · exact .refl s _

theorem State.OnlyParts.foldl {α : Type} {ps : List Part} {f : State → α → State} (hf : ∀ (s : State) x, s.OnlyParts (f s x) ps)
    (l : List α) (s : State) : s.OnlyParts (l.foldl f s) ps := by
  induction l generalizing s with
  | nil => exact .refl s ps
  | cons x l ih => exact (hf s x).trans (ih _)

theorem State.endHolds_depot (s : State) (mine : Nat → Bool) : s.OnlyParts (s.endHolds mine) [.depot] :=
  .foldl (fun _ _ => .foldl (fun _ _ => State.endHold_depot _ _ _) _ _) _ s

/-- The parts that a command's contexts lie in. -/
abbrev contextParts : List Part := [.regs, .depot, .stations, .search, .scan, .ecc, .power, .tt, .cfs, .mesh, .jobs]

theorem State.forgetPlace_onlyParts (s : State) (p : Nat) : s.OnlyParts (s.forgetPlace p)
    [.depot, .search, .scan, .ecc, .power, .tt, .cfs, .mesh, .jobs] := by simp [State.forgetPlace, State.onlyParts_iff]

/-- A command that ends sends what it holds open; of the host side nothing else changes, and of the registers QUE's none. -/
theorem State.freeContexts_frame (s : State) (p : Nat) : ∃ t, s.SendsData t ∧ (s.packetOpen p = false → t = s) ∧
    t.Within (s.freeContexts p) contextParts (fun r _ => r = .stnWalk) := by
  unfold State.freeContexts
  extract_lets mine s0 rows s1 cs bs s2
  have hsent : s.SendsData s0 := by
    simp only [s0]
    split
    · exact .refl s
    · exact .foldl (fun t st => t.closeScans_sendsData st _) _ s
  have hnone (h : s.packetOpen p = false) : s0 = s := by
    simp only [s0]
    split
    · rfl
    · exact State.foldl_id _ fun st => State.closeScans_none st h
  have hfreed : s0.Within s1 contextParts (fun r _ => r = .stnWalk) := by
    refine State.Within.trans ((s0.endHolds_depot _).within _) (State.Within.foldl (fun t st => ?_) _ _)
    dsimp only
    split
    · exact .refl ..
    · exact ⟨by simp [State.onlyParts_iff], by simp [F.stnWalkBusy]⟩
  refine ⟨s0, hsent, hnone, hfreed.trans ?_⟩
  exact (((State.setSearch_onlyParts _ _).within _).trans ((State.setScans_onlyParts _ _).within _)).trans
    ((State.forgetPlace_onlyParts _ p).within _)

/-! ## The CQ entry -/

section
variable (s : State)

theorem State.cqAdvance_onlyParts (cq : Nat) : s.OnlyParts (s.cqAdvance cq) [.regs] := by
  unfold State.cqAdvance
  dsimp only
  split <;> simp [State.onlyParts_iff]

theorem State.cqAdvance_onlyRegs (cq : Nat) : s.OnlyRegs (s.cqAdvance cq) (fun r _ => r = .queCqState ∨ r = .queCqState1) := by
  unfold State.cqAdvance
  dsimp only
  split <;> simp [F.queCqStateCqTail, F.queCqStatePhase]

theorem State.cqAdvance_tail (cq : Nat) : (s.cqAdvance cq).fget F.queCqStateCqTail cq =
    (s.fget F.queCqStateCqTail cq + 1) % max 1 (s.qcfg cq).cqSize % 2 ^ F.queCqStateCqTail.width := by
  unfold State.cqAdvance
  dsimp only
  split
  · rw [State.fget_fset_of_apart _ _ _ _ (by decide), State.fget_fset_same _ _ _ _ (by decide)]
  · rw [State.fget_fset_same _ _ _ _ (by decide)]

theorem State.cqAdvance_phase (cq : Nat) : (s.cqAdvance cq).fget F.queCqStatePhase cq =
    if (s.fget F.queCqStateCqTail cq + 1) % max 1 (s.qcfg cq).cqSize = 0 then (1 - s.fget F.queCqStatePhase cq) % 2
    else s.fget F.queCqStatePhase cq := by
  unfold State.cqAdvance
  dsimp only
  split
  · rw [State.fget_fset_same _ _ _ _ (by decide), State.fget_fset_of_apart _ _ _ _ (by decide)]
    rfl
  · rw [State.fget_fset_of_apart _ _ _ _ (by decide)]

/-- A vector is raised: a message, or a pending bit. -/
theorem State.raiseMsix_host (v : Nat) : ∃ more, (s.raiseMsix v).host.outbox = s.host.outbox ++ more ∧
    (s.raiseMsix v).host.cmds = s.host.cmds ∧ ∀ m ∈ more, ∃ v a d, m = HostMsg.msix v a d := by
  unfold State.raiseMsix State.send
  split_ifs
  · exact ⟨[], by simp, rfl, by simp⟩
  · exact ⟨[], by simp, rfl, by simp⟩
  · exact ⟨[_], by simp; rfl, rfl, by simp⟩

theorem State.raiseMsix_onlyParts (v : Nat) : s.OnlyParts (s.raiseMsix v) [.host] := by
  unfold State.raiseMsix State.send
  split_ifs
  · exact .refl s _
  all_goals exact s.setHost_onlyParts _

theorem State.cqInterrupt_host (cq cls : Nat) : ∃ more, (s.cqInterrupt cq cls).host.outbox = s.host.outbox ++ more ∧
    (s.cqInterrupt cq cls).host.cmds = s.host.cmds ∧ ∀ m ∈ more, ∃ v a d, m = HostMsg.msix v a d := by
  unfold State.cqInterrupt
  dsimp only
  split_ifs
  · exact ⟨[], by simp, rfl, by simp⟩
  · exact State.raiseMsix_host _ _
  · exact ⟨[], by simp, by simp, by simp⟩

theorem State.cqInterrupt_onlyParts (cq cls : Nat) : s.OnlyParts (s.cqInterrupt cq cls) [.host] := by
  unfold State.cqInterrupt
  dsimp only
  split_ifs
  · exact .refl s _
  · exact (s.setQcfg_onlyParts _ _).trans (State.raiseMsix_onlyParts _ _)
  · exact s.setQcfg_onlyParts _ _

end

/-- A state that differs in nothing a completion reads or keeps. -/
structure State.PostsAs (s t : State) (p : Nat) : Prop where
  regs : s.OnlyRegs t (fun r _ => r ∈ [.queAdminCtl, .stnWalk])
  outbox : t.host.outbox = s.host.outbox
  stations : t.stations = s.stations
  queue : (t.cmd p).queue = (s.cmd p).queue
  entry : (t.cmd p).entry = (s.cmd p).entry
  others : ∀ k, k ≠ p → t.cmd k = s.cmd k
  addr : ∀ q, (t.qcfg q).cqAddr = (s.qcfg q).cqAddr
  size : ∀ q, (t.qcfg q).cqSize = (s.qcfg q).cqSize

/-- The registers a completion may change. -/
abbrev postRegs (r : Reg) (_ : Nat) : Prop := r ∈ [Reg.queCqState, .queCqState1, .queQState1, .queClass0, .queCtr, .queAdminCtl, .stnWalk]

theorem State.PostsAs.posted {s t u : State} {p status result : Nat} (h : s.PostsAs t p) (k : t.Posted u p status result) :
    s.Posted u p status result := by
  have hf (f : Fld) (i : Nat) (hn : f.reg ∉ [Reg.queAdminCtl, .stnWalk]) : t.fget f i = s.fget f i := h.regs.field f i hn
  have hopen : t.packetOpen p = s.packetOpen p := by rw [State.packetOpen, h.stations, State.packetOpen]
  unfold State.Posted at k ⊢
  simp only [h.queue, h.entry, h.outbox, h.addr, h.size, hopen] at k ⊢
  rw [hf F.queQStateCqId _ (by decide)] at k
  rw [hf F.queCqStateCqTail _ (by decide), hf F.queCqStatePhase _ (by decide), hf F.queQStateHead _ (by decide),
    hf F.queQStateOutstanding _ (by decide)] at k
  obtain ⟨hout, htail, hphase, houtst, hfree, hothers, hregs⟩ := k
  exact ⟨hout, htail, hphase, houtst, hfree, fun k hk => (hothers k hk).trans (h.others k hk),
    (h.regs.mono fun r i hr => by simp at hr ⊢; tauto).trans hregs⟩

/-- QUE.ADMIN_CTL may follow. -/
theorem State.Posted.next {s t u : State} {p status result : Nat} (h : s.Posted t p status result)
    (k : t.Within u [.regs] (fun r _ => r = .queAdminCtl)) : s.Posted u p status result := by
  have hhost : u.host = t.host := k.parts .host (by decide)
  have hf (f : Fld) (i : Nat) (hn : f.reg ≠ .queAdminCtl) : u.fget f i = t.fget f i := k.regs.field f i hn
  unfold State.Posted at h ⊢
  simp only [State.cmd, hhost, hf F.queCqStateCqTail _ (by decide), hf F.queCqStatePhase _ (by decide),
    hf F.queQStateOutstanding _ (by decide)] at h ⊢
  obtain ⟨hout, htail, hphase, houtst, hfree, hothers, hregs⟩ := h
  exact ⟨hout, htail, hphase, houtst, hfree, hothers, hregs.trans (k.regs.mono fun r i hr => by simp [hr])⟩

end Sys2Proof.Machine
end

section
/-! SUPPORT. A completion, decided and posted, at each of its occasions (R225, R226, R430, R433 to R435, R441). -/

namespace Sys2Proof.Machine

/-! ## The counters behind the entry -/

/-- The counters that a posted entry moves: OUTSTANDING of its queue, QUE.CLASS0 and QUE.CTR. -/
def State.countPosted (s : State) (c : Cmd) : State :=
  let s2 := s.dip F.queQStateOutstanding c.queue 1
  let s3 := if c.cls = 0 then s2.dip F.queClass0Outstanding 0 1 else s2
  if c.status = 0x3001 then s3.bump F.queCtrCount 6 1 else if c.status = 0x3002 then s3.bump F.queCtrCount 7 1 else s3

theorem State.countPosted_onlyParts (s : State) (c : Cmd) : s.OnlyParts (s.countPosted c) [.regs] := by
  unfold State.countPosted
  dsimp only
  split_ifs <;> simp [State.onlyParts_iff]

theorem State.countPosted_onlyRegs (s : State) (c : Cmd) :
    s.OnlyRegs (s.countPosted c) (fun r _ => r = .queQState1 ∨ r = .queClass0 ∨ r = .queCtr) := by
  unfold State.countPosted
  dsimp only
  split_ifs <;> simp [F.queQStateOutstanding, F.queClass0Outstanding, F.queCtrCount]

theorem State.countPosted_outstanding (s : State) (c : Cmd) : (s.countPosted c).fget F.queQStateOutstanding c.queue =
    (s.fget F.queQStateOutstanding c.queue - 1) % 2 ^ F.queQStateOutstanding.width := by
  have hrest : (s.dip F.queQStateOutstanding c.queue 1).OnlyRegs (s.countPosted c) (fun r _ => r = .queClass0 ∨ r = .queCtr) := by
    unfold State.countPosted
    dsimp only
    split_ifs <;> simp [F.queClass0Outstanding, F.queCtrCount]
  rw [hrest.field _ _ (by decide), State.fget_dip_same _ _ _ _ (by decide)]

/-- The entry of a command in the state in which its contexts are free. -/
def State.cqMessage (s : State) (c : Cmd) : HostMsg :=
  let cq := s.fget F.queQStateCqId c.queue
  .cqEntry ((s.qcfg cq).cqAddr + 16 * s.fget F.queCqStateCqTail cq)
    (cqBytes c.result (s.fget F.queQStateHead c.queue) c.queue (sqCid c.entry) c.status (s.fget F.queCqStatePhase cq))

theorem State.postEntry_eq (s0 : State) (p : Nat) : s0.postEntry p =
    let s := s0.freeContexts p
    let c := s.cmd p
    let cq := s.fget F.queQStateCqId c.queue
    (((((s.send (s.cqMessage c)).cqAdvance cq).countPosted c).setCmd p {}).cqInterrupt cq c.cls) := rfl

/-- An entry posted by a command whose contexts are free. -/
theorem State.entry_posted (s : State) (p : Nat) :
    let c := s.cmd p
    let cq := s.fget F.queQStateCqId c.queue
    let t := (((s.send (s.cqMessage c)).cqAdvance cq).countPosted c |>.setCmd p {}).cqInterrupt cq c.cls
    (∃ more, t.host.outbox = s.host.outbox ++ s.cqMessage c :: more ∧ ∀ m ∈ more, ∃ v a d, m = HostMsg.msix v a d) ∧
    t.fget F.queCqStateCqTail cq = (s.fget F.queCqStateCqTail cq + 1) % max 1 (s.qcfg cq).cqSize % 2 ^ F.queCqStateCqTail.width ∧
    t.fget F.queCqStatePhase cq = (if (s.fget F.queCqStateCqTail cq + 1) % max 1 (s.qcfg cq).cqSize = 0
      then (1 - s.fget F.queCqStatePhase cq) % 2 else s.fget F.queCqStatePhase cq) ∧
    t.fget F.queQStateOutstanding c.queue = (s.fget F.queQStateOutstanding c.queue - 1) % 2 ^ F.queQStateOutstanding.width ∧
    t.cmd p = {} ∧ (∀ k, k ≠ p → t.cmd k = s.cmd k) ∧ s.OnlyRegs t postRegs := by
  intro c cq t
  obtain ⟨u, hu⟩ : ∃ u, u = s.send (s.cqMessage c) := ⟨_, rfl⟩
  obtain ⟨v, hv⟩ : ∃ v, v = (u.cqAdvance cq).countPosted c := ⟨_, rfl⟩
  have ht : t = (v.setCmd p {}).cqInterrupt cq c.cls := by rw [hv, hu]
  have huregs (f : Fld) (i : Nat) : u.fget f i = s.fget f i := by rw [hu]; exact State.setHost_fget _ _ _ _
  have huqcfg : u.qcfg cq = s.qcfg cq := by rw [hu]; rfl
  have hvhost : v.host = { s.host with outbox := s.host.outbox ++ [s.cqMessage c] } := by
    rw [hv, show _ = (u.cqAdvance cq).host from State.countPosted_onlyParts _ c .host (by decide),
      show _ = u.host from u.cqAdvance_onlyParts cq .host (by decide), hu]
    rfl
  have htparts : v.OnlyParts t [.host] := ht ▸ (v.setCmd_onlyParts _ _).trans (State.cqInterrupt_onlyParts _ _ _)
  have htregs (f : Fld) (i : Nat) : t.fget f i = v.fget f i := htparts.fget f i
  have hcounts := State.countPosted_onlyRegs (u.cqAdvance cq) c
  obtain ⟨more, hout, hcmds, hmore⟩ := State.cqInterrupt_host (v.setCmd p {}) cq c.cls
  rw [← ht] at hout hcmds
  have hcmd (k : Nat) : t.cmd k = if k = p then {} else s.cmd k := by
    have hset : t.cmd k = (v.setCmd p {}).cmd k := by rw [State.cmd, hcmds, State.cmd]
    have hkept : v.cmd k = s.cmd k := by rw [State.cmd, hvhost, State.cmd]
    rw [hset, State.cmd_setCmd, hkept]
  refine ⟨⟨more, by rw [hout, State.setCmd_host, hvhost]; simp, hmore⟩, ?_, ?_, ?_, by rw [hcmd, if_pos rfl],
    fun k hk => by rw [hcmd, if_neg hk], ?_⟩
  · rw [htregs, hv, hcounts.field _ _ (by decide), State.cqAdvance_tail, huregs, huqcfg]
  · rw [htregs, hv, hcounts.field _ _ (by decide), State.cqAdvance_phase, huregs, huregs, huqcfg]
  · rw [htregs, hv, State.countPosted_outstanding, (u.cqAdvance_onlyRegs cq).field _ _ (by decide), huregs]
  · have hadvanced : s.OnlyRegs (u.cqAdvance cq) postRegs := by
      refine State.OnlyRegs.trans ?_ ((u.cqAdvance_onlyRegs cq).mono fun r _ h => by rcases h with rfl | rfl <;> simp [postRegs])
      rw [hu]
      exact (s.setHost_onlyParts _).regs _
    refine (hadvanced.trans (hcounts.mono fun r _ h => ?_)).trans (hv ▸ htparts.regs _)
    rcases h with rfl | rfl | rfl <;> simp [postRegs]

/-- The entry of a decided command is posted (R430, R432 to R434). -/
theorem State.postEntry_posted (s : State) (p : Nat) : s.Posted (s.postEntry p) p (s.cmd p).status (s.cmd p).result := by
  obtain ⟨_, ⟨before, rfl, hdata⟩, hnone, hfree⟩ := s.freeContexts_frame p
  rw [State.postEntry_eq]
  obtain ⟨u, hu⟩ : ∃ u, u = s.freeContexts p := ⟨_, rfl⟩
  rw [← hu] at hfree ⊢
  have hhost : u.host = (s.sent before).host := hfree.parts .host (by decide)
  have hcmd (k : Nat) : u.cmd k = s.cmd k := by rw [State.cmd, hhost]; rfl
  have hq (k : Nat) : u.qcfg k = s.qcfg k := by rw [State.qcfg, hhost]; rfl
  have hf (f : Fld) (i : Nat) (hn : f.reg ≠ .stnWalk) : u.fget f i = s.fget f i := by
    rw [hfree.regs.field f i hn]
    exact State.setHost_fget _ _ _ _
  obtain ⟨⟨more, hout, hmore⟩, htail, hphase, houtst, hgone, hothers, hregs⟩ := u.entry_posted p
  unfold State.Posted
  simp only [State.cqMessage, hcmd, hq, hf F.queQStateCqId _ (by decide), hf F.queCqStateCqTail _ (by decide),
    hf F.queCqStatePhase _ (by decide), hf F.queQStateHead _ (by decide), hf F.queQStateOutstanding _ (by decide)] at *
  refine ⟨⟨before, more, ?_, hdata, fun h => ?_, hmore⟩, htail, hphase, houtst, hgone, hothers, ?_⟩
  · rw [hout, hhost]
    rfl
  · have hsame : (s.sent before).host.outbox = s.host.outbox := by rw [hnone h]
    simpa [State.sent] using hsame
  · refine State.OnlyRegs.trans ?_ hregs
    exact ((s.setHost_onlyParts _).regs _).trans (hfree.regs.mono fun r _ h => by rw [h]; decide)

/-! ## Behind the entry -/

theorem State.adminReady_within (s : State) : s.Within s.adminReady [.regs] (fun r _ => r = .queAdminCtl) :=
  ⟨s.fset_onlyParts _ _ _, by simp [State.adminReady, F.queAdminCtlReady]⟩

theorem State.finishReset_of_ne {s : State} {q : Nat} (h : s.fget F.queQStateState q ≠ 3) : s.finishReset q = s := if_neg fun k => h k.1

theorem State.Posted.queue_state {s t : State} {p status result : Nat} (h : s.Posted t p status result) (q : Nat) :
    t.fget F.queQStateState q = s.fget F.queQStateState q := by
  obtain ⟨-, -, -, -, -, -, hregs⟩ := h
  exact hregs.field _ _ (by decide)

/-- With its queue in service a posted completion ends no reset. -/
theorem State.Posted.ended {s t : State} {p status result q : Nat} (h : s.Posted t p status result) (hq : s.fget F.queQStateState q ≠ 3) :
    s.Posted (t.finishReset q).adminReady p status result := by
  rw [State.finishReset_of_ne (by rw [h.queue_state]; exact hq)]
  exact h.next t.adminReady_within

/-! ## The decision (R435) -/

section
variable (s : State) (p : Nat)

theorem State.unwaitReset_onlyParts : s.OnlyParts (s.unwaitReset p) [.host] := by
  unfold State.unwaitReset
  dsimp only
  split_ifs
  · exact s.setQcfg_onlyParts _ _
  all_goals exact .refl s _

theorem State.unwaitReset_host : ∃ qs, (s.unwaitReset p).host = { s.host with queues := qs } ∧
    ∀ q, (Tbl.look {} qs q).cqAddr = (s.qcfg q).cqAddr ∧ (Tbl.look {} qs q).cqSize = (s.qcfg q).cqSize := by
  unfold State.unwaitReset
  dsimp only
  split_ifs
  · refine ⟨_, s.setQcfg_host _ _, fun q => ?_⟩
    rw [Tbl.look_put]
    split
    · next h => exact h ▸ ⟨rfl, rfl⟩
    · exact ⟨rfl, rfl⟩
  all_goals exact ⟨s.host.queues, rfl, fun q => ⟨rfl, rfl⟩⟩

end

/-- The state in which a command has its outcome. -/
def State.decided (s : State) (p status result : Nat) : State :=
  (s.unwaitReset p).setCmd p { (s.unwaitReset p).cmd p with decided := true, ready := false, status := status, result := result }

theorem State.decided_cmd (s : State) (p status result : Nat) : (s.decided p status result).cmd p =
    { s.cmd p with decided := true, ready := false, status := status, result := result } := by
  obtain ⟨qs, hhost, -⟩ := s.unwaitReset_host p
  rw [State.decided, State.cmd_setCmd_same, State.cmd, hhost, State.cmd]

theorem State.decided_onlyParts (s : State) (p status result : Nat) : s.OnlyParts (s.decided p status result) [.host] :=
  (s.unwaitReset_onlyParts p).trans (State.setCmd_onlyParts _ _ _)

theorem State.decided_postsAs (s : State) (p status result : Nat) : s.PostsAs (s.decided p status result) p := by
  obtain ⟨qs, hhost, hqs⟩ := s.unwaitReset_host p
  have hparts := s.decided_onlyParts p status result
  have hqcfg (q : Nat) : (s.decided p status result).qcfg q = Tbl.look {} qs q := by
    rw [State.decided, State.qcfg, State.setCmd_host, hhost]
  exact
    { regs := hparts.regs _
      outbox := by rw [State.decided, State.setCmd_host, hhost]
      stations := hparts .stations (by decide)
      queue := by rw [s.decided_cmd]
      entry := by rw [s.decided_cmd]
      others := fun k hk => by rw [State.decided, State.cmd_setCmd, if_neg hk, State.cmd, hhost, State.cmd]
      addr := fun q => by rw [hqcfg]; exact (hqs q).1
      size := fun q => by rw [hqcfg]; exact (hqs q).2 }

theorem State.decideOnly_eq (s : State) (p status result : Nat) : s.decideOnly p status result =
    let s1 := s.decided p status result
    let cq := s1.fget F.queQStateCqId (s1.cmd p).queue
    if s1.cqFull cq ∨ s1.fget F.queCqStateHeld cq ≠ 0 then
      let s2 := (s1.bump F.queCqStateHeld cq 1).bump F.queCtrCount 8 1
      s2.setHost { s2.host with held := s2.host.held ++ [⟨cq, p⟩] }
    else s1.postEntry p := rfl

/-- A decided completion whose CQ has room is posted. -/
theorem State.decideOnly_posts {s : State} {p status result : Nat} (h : s.MayPost p) :
    s.decideOnly p status result = (s.decided p status result).postEntry p := by
  obtain ⟨-, hroom, hheld, -⟩ := h
  have hf (f : Fld) (i : Nat) : (s.decided p status result).fget f i = s.fget f i := (s.decided_onlyParts p status result).fget f i
  have hfull (q : Nat) : (s.decided p status result).cqFull q = s.cqFull q := by
    rw [State.cqFull, hf, hf, (s.decided_postsAs p status result).size, State.cqFull]
  simp [State.decideOnly_eq, s.decided_cmd, hf, hfull, hroom, hheld]

theorem State.decide_posted {s : State} {p status result : Nat} (h : s.MayPost p) : s.Posted (s.decide p status result) p status result := by
  have hposted := State.postEntry_posted (s.decided p status result) p
  rw [s.decided_cmd] at hposted
  rw [State.decide, State.decideOnly_posts h]
  exact ((s.decided_postsAs p status result).posted hposted).ended h.2.2.2

theorem State.fail_posted {s : State} {p : Nat} (status : Nat) (h : s.MayPost p) : s.Posted (s.fail p status) p status 0 := by
  rw [State.fail, if_pos h.1]
  exact State.decide_posted h

/-! ## An arrival (R225, R226) -/

section
variable (s : State) (p : Nat)

theorem State.writtenAgain_onlyParts (g m : Nat) : s.OnlyParts (s.writtenAgain g m) [.depot] := by
  unfold State.writtenAgain
  split
  · exact s.setPage_onlyParts _ _
  · exact .refl s _

theorem State.foldDepot_onlyParts : s.OnlyParts s.foldDepot [.depot] := s.setDepot_onlyParts _

theorem State.settle_onlyParts : s.OnlyParts (s.settle p) [.depot] :=
  ((State.OnlyParts.foldl (fun t _ => t.writtenAgain_onlyParts _ _) _ s).trans (State.setDepot_onlyParts _ _)).trans
    (State.foldDepot_onlyParts _)

theorem State.wrote_onlyParts : s.OnlyParts (s.wrote p) [.depot] := by
  unfold State.wrote
  dsimp only
  split
  · exact (s.settle_onlyParts p).trans (State.setDepot_onlyParts _ _)
  · exact s.settle_onlyParts p

theorem State.unmapSection_onlyParts (l : Nat) : s.OnlyParts (s.unmapSection l) [.flash] := by
  simp [State.unmapSection, State.queueErase, State.setLsec, State.onlyParts_iff]

theorem State.arrive_onlyParts : s.OnlyParts (s.arrive p) [.depot, .flash] := by
  unfold State.arrive
  dsimp only
  split_ifs
  · exact .refl s _
  · exact (s.wrote_onlyParts p).mono (by decide)
  · exact (State.OnlyParts.foldl (fun t l => t.unmapSection_onlyParts l) _ s).mono (by decide)
  · exact .refl s _

end

theorem State.OnlyParts.postsAs {s t : State} {ps : List Part} (h : s.OnlyParts t ps) (p : Nat) (hh : .host ∉ ps := by decide)
    (hr : .regs ∉ ps := by decide) (hs : .stations ∉ ps := by decide) : s.PostsAs t p := by
  have hhost : t.host = s.host := h .host hh
  have hcmd (k : Nat) : t.cmd k = s.cmd k := by rw [State.cmd, hhost, State.cmd]
  have hqcfg (q : Nat) : t.qcfg q = s.qcfg q := by rw [State.qcfg, hhost, State.qcfg]
  exact ⟨h.regs _ hr, by rw [hhost], h .stations hs, by rw [hcmd], by rw [hcmd], fun k _ => hcmd k, fun q => by rw [hqcfg],
    fun q => by rw [hqcfg]⟩

theorem State.PostsAs.mayPost {s t : State} {p : Nat} (h : s.PostsAs t p) (hlive : (t.cmd p).live = (s.cmd p).live) (k : s.MayPost p) :
    t.MayPost p := by
  have hf (f : Fld) (i : Nat) (hn : f.reg ∉ [Reg.queAdminCtl, .stnWalk]) : t.fget f i = s.fget f i := h.regs.field f i hn
  unfold State.MayPost State.cqFull at k ⊢
  rwa [h.queue, hlive, h.size, hf F.queQStateCqId _ (by decide), hf F.queCqStateCqTail _ (by decide), hf F.queCqStateCqHead _ (by decide),
    hf F.queCqStateHeld _ (by decide), hf F.queQStateState _ (by decide)]

theorem State.arrival_posted {s : State} {p : Nat} (h : s.MayPost p) : s.Posted (s.arrival p) p (s.cmd p).outcome (s.cmd p).result := by
  have harrive := (s.arrive_onlyParts p).postsAs p
  have hcmd : (s.arrive p).cmd p = s.cmd p := by
    rw [State.cmd, show _ = s.host from s.arrive_onlyParts p .host (by decide), State.cmd]
  exact harrive.posted (State.decide_posted (harrive.mayPost (by rw [hcmd]) h))

/-! ## The occasions -/

theorem exec_completionArrival (p : Nat) (late : Bool) (s : State) : exec (.completionArrival p late) s =
    .next (if late then (if s.host.late > 0 then s.bump F.queCtrCount 5 1 else s) else if s.mayArrive p then s.arrival p else s) := rfl
theorem exec_unknownOpcode (q : QueueId) (s : State) : exec (.unknownOpcode q) s =
    .next (s.onEntry q (fun e => !knownOpcodes.contains (sqOpcode e)) fun p _ s => s.fail p 0x1002) := rfl
theorem exec_sqEntryUncorrectable (q : QueueId) (s : State) : exec (.sqEntryUncorrectable q) s = .next (s.takeBad q.val) := rfl
theorem exec_heldCompletionPost (cq : QueueId) (s : State) : exec (.heldCompletionPost cq) s =
    .next (match s.host.held.find? (fun h => h.cq = cq.val) with
      | none => s
      | some h =>
        if s.cqFull cq.val then s
        else ((((s.setHost { s.host with held := s.host.held.erase h }).dip F.queCqStateHeld cq.val 1).postEntry h.place).finishReset
          (s.cmd h.place).queue).adminReady) := rfl

/-- Settles O16: every occasion posts the entry and ends no reset. -/
theorem completionPosts : Obligations.CompletionPosts := by
  refine ⟨fun s p status h => State.fail_posted status h, fun s p h harrives => ⟨s.arrival p, ?_, State.arrival_posted h⟩,
    fun s s0 q p e h hop hmay => ⟨s0.fail p 0x1002, ?_, State.fail_posted _ hmay⟩, fun s q p a harb hbad htakes hplace => ?_,
    fun s cq h hheld hroom hstate => ?_⟩
  · rw [exec_completionArrival, if_neg (by decide), if_pos harrives]
  · rw [exec_unknownOpcode]
    exact congrArg _ (h.onEntry _ _ (by rw [hop]; rfl))
  · exact fun hmay => ⟨_, by simp [exec_sqEntryUncorrectable, State.takeBad, harb, hbad, htakes, hplace], State.fail_posted _ hmay⟩
  · refine ⟨_, by simp only [exec_heldCompletionPost, hheld, hroom, Bool.false_eq_true, if_false]; rfl, ?_⟩
    have hcmd : ((s.setHost { s.host with held := s.host.held.erase h }).dip F.queCqStateHeld cq.val 1).cmd h.place = s.cmd h.place := by
      simp [State.cmd]
    have hposted := State.postEntry_posted ((s.setHost { s.host with held := s.host.held.erase h }).dip F.queCqStateHeld cq.val 1) h.place
    rw [hcmd] at hposted
    refine hposted.ended ?_
    rw [State.fget_dip_of_apart _ _ _ _ (by decide), State.setHost_fget]
    exact hstate

end Sys2Proof.Machine
end

section
/-! SUPPORT. The host's writes of registers with a command of their own, and the doorbells (R428, R429). -/

namespace Sys2Proof.Machine

/-! ## A write that is heard -/

/-- The host side with another held low half. -/
def State.holdLow (s : State) (x : Option (Nat × Nat)) : State := s.setHost { s.host with heldLow := x }

theorem State.dropHeld_eq_holdLow (s : State) (off : Nat) : ∃ x, s.dropHeld off = s.holdLow x := by
  unfold State.dropHeld
  split
  · split
    · exact ⟨s.host.heldLow, rfl⟩
    · exact ⟨none, rfl⟩
  · exact ⟨s.host.heldLow, rfl⟩

@[simp] theorem State.holdLow_fget (s : State) (x : Option (Nat × Nat)) (f : Fld) (i : Nat) : (s.holdLow x).fget f i = s.fget f i :=
  s.setHost_fget ..
@[simp] theorem State.holdLow_qcfg (s : State) (x : Option (Nat × Nat)) (q : Nat) : (s.holdLow x).qcfg q = s.qcfg q := rfl
theorem State.holdLow_onlyParts (s : State) (x : Option (Nat × Nat)) : s.OnlyParts (s.holdLow x) [.host] := s.setHost_onlyParts _

theorem State.openWrite_heard {s : State} (h : s.hears = true) (off : Nat) (run : State → State) : s.openWrite off run = run (s.dropHeld off) :=
  if_pos h

/-! ## Doorbells (R429) -/

section
variable {s : State} (x : Option (Nat × Nat)) (q v : Nat)

theorem State.tailOk_holdLow : (s.holdLow x).tailOk q v = s.tailOk q v := rfl
theorem State.headOk_holdLow : (s.holdLow x).headOk q v = s.headOk q v := rfl

/-- A doorbell that is ignored counts, and an event is logged. -/
theorem State.doorbellBad_counts (s : State) : (s.doorbellBad q v).fget F.queQStateDbErrors q = (s.fget F.queQStateDbErrors q + 1) % 2 ^ 16 ∧
    s.Within (s.doorbellBad q v) [.regs, .cfs] (fun r i => r = .queQState1 ∧ i = q) := by
  refine ⟨?_, by simp [State.doorbellBad, State.event, State.onlyParts_iff], by simp [State.doorbellBad, State.event, F.queQStateDbErrors]⟩
  rw [State.doorbellBad, State.event, State.setCfs_fget, State.fget_bump_same _ _ _ _ (by decide)]
  rfl

theorem exec_sqTailDoorbell {q : QueueId} {v : Nat} (h : s.hears = true) (hv : v < 4096) :
    ∃ x, exec (.sqTailDoorbell q v) s = .next ((s.holdLow x).ringSq q.val v) := by
  rw [show exec (.sqTailDoorbell q v) s = execSqTailDoorbell q v s from rfl, execSqTailDoorbell, if_neg (by simp [h])]
  split
  · next hq =>
    obtain ⟨x, hx⟩ := s.dropHeld_eq_holdLow 0x100018
    exact ⟨x, by rw [State.openWrite_heard h, hx, hq, Nat.mod_eq_of_lt hv]⟩
  · exact ⟨s.host.heldLow, by rw [Nat.mod_eq_of_lt hv]; rfl⟩

theorem exec_cqHeadDoorbell {q : QueueId} {v : Nat} (h : s.hears = true) (hv : v < 131072) :
    ∃ x, exec (.cqHeadDoorbell q v) s = .next ((s.holdLow x).ringCq q.val v) := by
  rw [show exec (.cqHeadDoorbell q v) s = execCqHeadDoorbell q v s from rfl, execCqHeadDoorbell, if_neg (by simp [h])]
  split
  · next hq =>
    obtain ⟨x, hx⟩ := s.dropHeld_eq_holdLow 0x100020
    exact ⟨x, by rw [State.openWrite_heard h, hx, hq, Nat.mod_eq_of_lt hv]⟩
  · exact ⟨s.host.heldLow, by rw [Nat.mod_eq_of_lt hv]; rfl⟩

end

/-- Settles O19: a doorbell that is accepted writes its field and no other, and one that is not counts. -/
theorem doorbells : Obligations.Doorbells := by
  intro s q v hears
  constructor <;> intro hv
  · obtain ⟨x, hx⟩ := exec_sqTailDoorbell (q := q) hears hv
    obtain ⟨hcount, hwithin⟩ := State.doorbellBad_counts q.val v (s.holdLow x)
    refine ⟨_, hx, fun hok => ?_, fun hbad => ?_⟩
    · rw [State.ringSq, if_neg (by simp [State.tailOk_holdLow, hok])]
      refine ⟨?_, State.fget_fset_same _ _ _ _ (by decide), ?_, ?_, ?_, ?_⟩
      · rw [State.fget_fset_of_apart _ _ _ _ (by decide), State.fget_fset_same _ _ _ _ (by decide)]
        exact Nat.mod_eq_of_lt hv
      · simp [State.fget_fset_of_apart _ _ _ _ (show F.queQStateState.apart F.queQStateHead = true by decide),
          State.fget_fset_of_apart _ _ _ _ (show F.queQStateTail.apart F.queQStateHead = true by decide)]
      · simp [State.fget_fset_of_apart _ _ _ _ (show F.queQStateState.apart F.queQStateClass = true by decide),
          State.fget_fset_of_apart _ _ _ _ (show F.queQStateTail.apart F.queQStateClass = true by decide)]
      · simp [F.queQStateState, F.queQStateTail, State.holdLow]
      · simp [State.onlyParts_iff, State.holdLow]
    · rw [State.ringSq, if_pos (by simp [State.tailOk_holdLow, hbad])]
      exact ⟨by rw [hcount, State.holdLow_fget], ((s.holdLow_onlyParts x).regs _).trans hwithin.regs,
        ((s.holdLow_onlyParts x).mono (by decide)).next hwithin.parts⟩
  · obtain ⟨x, hx⟩ := exec_cqHeadDoorbell (q := q) hears hv
    obtain ⟨hcount, hwithin⟩ := State.doorbellBad_counts q.val v (s.holdLow x)
    refine ⟨_, hx, fun hok => ?_, fun hbad => ?_⟩
    · rw [State.ringCq, if_neg (by simp [State.headOk_holdLow, hok])]
      refine ⟨?_, ?_, ?_, ?_⟩
      · rw [State.fget_fset_same _ _ _ _ (by decide)]
        exact Nat.mod_eq_of_lt hv
      · rw [State.fget_fset_of_apart _ _ _ _ (by decide), State.holdLow_fget]
      · simp [F.queCqStateCqHead, State.holdLow]
      · simp [State.onlyParts_iff, State.holdLow]
    · rw [State.ringCq, if_pos (by simp [State.headOk_holdLow, hbad])]
      exact ⟨by rw [hcount, State.holdLow_fget], ((s.holdLow_onlyParts x).regs _).trans hwithin.regs,
        ((s.holdLow_onlyParts x).mono (by decide)).next hwithin.parts⟩

end Sys2Proof.Machine
end

section
/-! SUPPORT. Admin commands that pass their checks: the reports and settings (R455, R456, R527), and QUEUE_CREATE, QUEUE_RESET and
QUEUE_DELETE (R438, R457, R459). -/

namespace Sys2Proof.Machine

section
variable {s s0 : State} {p : Nat} {e : List Byte}

/-- A row of an admin command runs its part on the entry taken from Q0000. -/
theorem State.TakesNext.adminEntry (h : s.TakesNext 0 p e s0) (own : List Byte → Bool) (run : Nat → List Byte → State → State)
    (ho : own e = true) : s.onEntry 0 own (State.adminOnly run) = run p e s0 := (h.onEntry own _ ho).trans (h.admin run)

theorem State.finish_open {s : State} {p : Nat} (h : s.open p = true) (status result : Nat) : s.finish p status result =
    s.setCmd p { s.cmd p with ready := true, status := status, result := result } := if_pos h

/-! ## Reports (R455, R456, R527) -/

/-- A command sends the host a byte string and is done. -/
theorem State.report_told (h : s.open p = true) (a n : Nat) (bs : List Byte) : ∃ t msgs,
    (s.sendData a bs false).finish p 0 n = t ∧ t.host = { s.host with outbox := s.host.outbox ++ msgs, cmds := t.host.cmds } ∧
    msgs.flatMap HostMsg.placed = placedAt a bs ∧ (∀ m ∈ msgs, m.Small) ∧
    t.cmd p = { s.cmd p with ready := true, status := 0, result := n } ∧ (∀ k, k ≠ p → t.cmd k = s.cmd k) ∧ s.OnlyParts t [.host] := by
  have hopen : (s.sendData a bs false).open p = true := h
  rw [State.finish_open hopen]
  obtain ⟨hothers, hparts, hhost⟩ := (s.sendData a bs false).setCmd_frame p
    { (s.sendData a bs false).cmd p with ready := true, status := 0, result := n }
  refine ⟨_, postedWrites false bs.length a bs, rfl, ?_, postedWrites_placed _ _ _ _ (Nat.le_refl _), postedWrites_small _ _ _ _,
    State.cmd_setCmd_same .., hothers, (s.setHost_onlyParts _).trans hparts⟩
  rw [State.setCmd_host, State.sendData_eq_sent]
  rfl

theorem exec_identifyModule_taken (h : s.TakesNext 0 p e s0) (hop : sqOpcode e = 0x20) (hcns : byteField e 8 1 ≠ 1) :
    exec (.identifyModule 0) s = .next (State.identify State.identifyModule p e s0) :=
  congrArg _ (h.adminEntry _ _ (by simp [hop, hcns]))

theorem exec_identifyQueueList_taken (h : s.TakesNext 0 p e s0) (hop : sqOpcode e = 0x20) (hcns : byteField e 8 1 = 1) :
    exec (.identifyQueueList 0) s = .next (State.identify State.identifyQueues p e s0) :=
  congrArg _ (h.adminEntry _ _ (by simp [hop, hcns]))

theorem exec_logGet_taken (h : s.TakesNext 0 p e s0) (hop : sqOpcode e = 0x2A) : exec (.logGet 0) s = .next (s0.logTaken p e) :=
  congrArg _ (h.adminEntry _ _ (by simp [hop]))

theorem exec_settingGet_taken (h : s.TakesNext 0 p e s0) (hop : sqOpcode e = 0x2C) : exec (.settingGet 0) s = .next (s0.settingGetTaken p e) :=
  congrArg _ (h.adminEntry _ _ (by simp [hop]))

theorem exec_settingSet_taken (h : s.TakesNext 0 p e s0) (hop : sqOpcode e = 0x2B) : exec (.settingSet 0) s = .next (s0.settingSetTaken p e) :=
  congrArg _ (h.adminEntry _ _ (by simp [hop]))

end

/-- Settles O21: a command whose fields are in range reports, or hands over its record. -/
theorem reportsAndSettings : Obligations.ReportsAndSettings := by
  intro s s0 p e h told
  have htold (c : Instr) (a n : Nat) (bs : List Byte) (hc : exec c s = .next ((s0.sendData a bs false).finish p 0 n)) :
      told c a bs n := by
    obtain ⟨t, msgs, ht, hrest⟩ := State.report_told h.open a n bs
    exact ⟨t, msgs, by rw [hc, ht], hrest⟩
  refine ⟨fun hop hflags hz1 hz2 haddr => ⟨fun hcns => ?_, fun hcns => ?_⟩, fun hop hfields => ?_,
    fun hop hflags hz1 hz2 hknown haddr => ?_, fun hop hflags hz1 hz2 hknown hok => ?_⟩
  · refine htold _ _ _ _ ?_
    rw [exec_identifyModule_taken h hop (by omega), State.identify]
    exact congrArg _ (if_neg (by simp [hflags, hz1, hz2, haddr, hcns]))
  · refine htold _ _ _ _ ?_
    rw [exec_identifyQueueList_taken h hop hcns, State.identify]
    exact congrArg _ (if_neg (by simp [hflags, hz1, hz2, haddr, hcns]))
  · refine htold _ _ _ _ ?_
    rw [exec_logGet_taken h hop, State.logTaken]
    exact congrArg _ (if_neg (by simp [hfields]))
  · refine htold _ _ _ _ ?_
    rw [exec_settingGet_taken h hop, State.settingGetTaken]
    exact congrArg _ (if_neg (by simp [hflags, hz1, hz2, hknown, haddr]))
  · rw [exec_settingSet_taken h hop, State.settingSetTaken]
    exact congrArg _ (if_neg (by simp [hflags, hz1, hz2, hknown, hok]))

/-! ## Queues (R438, R457, R459) -/

section
variable (s : State) (q : Nat)

/-- Words of the queue's own registers. -/
abbrev queueRegs (q : Nat) (r : Reg) (i : Nat) : Prop := r ∈ [Reg.queQState, .queQState1, .queCqState, .queCqState1] ∧ i = q

/-- A queue set up is CREATED and empty, with its class and CQ (R438). -/
theorem State.setQueue_created {cls cq : Nat} (hcls : cls < 4) (hcq : cq < 1024) :
    (s.setQueue q cls cq).fget F.queQStateState q = 1 ∧ (s.setQueue q cls cq).fget F.queQStateClass q = cls ∧
    (s.setQueue q cls cq).fget F.queQStateCqId q = cq ∧ (s.setQueue q cls cq).fget F.queQStateHead q = 0 ∧
    (s.setQueue q cls cq).fget F.queQStateTail q = 0 ∧ (s.setQueue q cls cq).fget F.queQStateOutstanding q = 0 := by
  have hzero (f : Fld) (hf : f.reg = .queQState) : (s.rset .queQState q 0).fget f q = 0 := by
    rw [State.fget, hf, State.rget_rset, if_pos ⟨rfl, rfl⟩]
    simp [bitsOf]
  unfold State.setQueue
  refine ⟨?_, ?_, ?_, ?_, ?_, State.fget_fset_same _ _ _ _ (by decide)⟩
  · rw [State.fget_fset_of_apart _ _ _ _ (by decide), State.fget_fset_of_apart _ _ _ _ (by decide), State.fget_fset_of_apart _ _ _ _ (by decide),
      State.fget_fset_same _ _ _ _ (by decide)]
    rfl
  · rw [State.fget_fset_of_apart _ _ _ _ (by decide), State.fget_fset_of_apart _ _ _ _ (by decide), State.fget_fset_same _ _ _ _ (by decide)]
    exact Nat.mod_eq_of_lt hcls
  · rw [State.fget_fset_of_apart _ _ _ _ (by decide), State.fget_fset_same _ _ _ _ (by decide)]
    exact Nat.mod_eq_of_lt hcq
  all_goals
    rw [State.fget_fset_of_apart _ _ _ _ (by decide), State.fget_fset_of_apart _ _ _ _ (by decide), State.fget_fset_of_apart _ _ _ _ (by decide),
      State.fget_fset_of_apart _ _ _ _ (by decide)]
    exact hzero _ rfl

theorem State.setQueue_within (cls cq : Nat) : s.Within (s.setQueue q cls cq) [.regs] (queueRegs q) := by
  refine ⟨by simp [State.setQueue, State.onlyParts_iff], ?_⟩
  simp [State.setQueue, queueRegs, F.queQStateState, F.queQStateClass, F.queQStateCqId, F.queQStateOutstanding, State.onlyRegs_rset]

/-- A CQ set up is owned and empty, with PHASE 1 and its vector (R434). -/
theorem State.setCq_empty {vector : Nat} (hv : vector < 2048) :
    (s.setCq q vector).fget F.queCqStateOwned q = 1 ∧ (s.setCq q vector).fget F.queCqStatePhase q = 1 ∧
    (s.setCq q vector).fget F.queCqStateVector q = vector ∧ (s.setCq q vector).fget F.queCqStateCqTail q = 0 ∧
    (s.setCq q vector).fget F.queCqStateCqHead q = 0 := by
  have hzero (f : Fld) (hf : f.reg = .queCqState) : (s.rset .queCqState q 0).fget f q = 0 := by
    rw [State.fget, hf, State.rget_rset, if_pos ⟨rfl, rfl⟩]
    simp [bitsOf]
  unfold State.setCq
  refine ⟨?_, ?_, ?_, ?_, ?_⟩
  · rw [State.fget_fset_of_apart _ _ _ _ (by decide), State.fget_fset_of_apart _ _ _ _ (by decide), State.fget_fset_same _ _ _ _ (by decide)]
    rfl
  · rw [State.fget_fset_of_apart _ _ _ _ (by decide), State.fget_fset_same _ _ _ _ (by decide)]
    rfl
  · rw [State.fget_fset_same _ _ _ _ (by decide)]
    exact Nat.mod_eq_of_lt hv
  all_goals
    rw [State.fget_fset_of_apart _ _ _ _ (by decide), State.fget_fset_of_apart _ _ _ _ (by decide), State.fget_fset_of_apart _ _ _ _ (by decide),
      State.fget_rset_reg _ _ _ _ (by decide)]
    exact hzero _ rfl

theorem State.setCq_within (vector : Nat) : s.Within (s.setCq q vector) [.regs] (fun r i => (r = .queCqState ∨ r = .queCqState1) ∧ i = q) := by
  refine ⟨by simp [State.setCq, State.onlyParts_iff], ?_⟩
  simp [State.setCq, F.queCqStateOwned, F.queCqStatePhase, F.queCqStateVector, State.onlyRegs_rset]

end

section
variable {s s0 : State} {p : Nat} {e : List Byte}

theorem exec_queueCreate_taken (h : s.TakesNext 0 p e s0) (hop : sqOpcode e = 0x21) : exec (.queueCreate 0) s = .next (s0.createTaken p e) :=
  congrArg _ (h.adminEntry _ _ (by simp [hop]))
theorem exec_queueReset_taken (h : s.TakesNext 0 p e s0) (hop : sqOpcode e = 0x22) : exec (.queueReset 0) s = .next (s0.resetTaken p e) :=
  congrArg _ (h.adminEntry _ _ (by simp [hop]))
theorem exec_queueDelete_taken (h : s.TakesNext 0 p e s0) (hop : sqOpcode e = 0x23) : exec (.queueDelete 0) s = .next (s0.deleteTaken p e) :=
  congrArg _ (h.adminEntry _ _ (by simp [hop]))

end

/-- The settings that QUEUE_CREATE gives. -/
def createdCfg (e : List Byte) : QueueCfg :=
  { sqSize := qcSqSize e, defaultTimeout := byteField e 32 4, cqAddr := qcAddr e, cqSize := qcCqSize e
    irqEn := decide (qcCq e = qcQid e) && qcFlags e = 1, aggCount := byteField e 30 1, aggUs := byteField e 31 1 }

/-- What QUEUE_CREATE sets up. -/
def State.created (s : State) (e : List Byte) : State :=
  let s1 := (s.setQueue (qcQid e) (qcClass e) (qcCq e)).setQcfg (qcQid e) (createdCfg e)
  if qcCq e = qcQid e then s1.setCq (qcQid e) (qcVector e) else s1

theorem State.createTaken_passes {s : State} {e : List Byte} (p : Nat) (hfields : createFields e = true)
    (hfree : s.fget F.queQStateState (qcQid e) = 0)
    (hcq : qcCq e = qcQid e ∨ s.fget F.queQStateState (qcCq e) ≠ 0 ∧ s.ownsCq (qcCq e) = true) :
    s.createTaken p e = (s.created e).finish p 0 0 := by
  have hpass : ¬ (s.fget F.queQStateState (qcQid e) ≠ 0 ∨
      (!Decidable.decide (qcCq e = qcQid e)) = true ∧ (s.fget F.queQStateState (qcCq e) = 0 ∨ (!s.ownsCq (qcCq e)) = true)) := by
    rcases hcq with hown | ⟨hthere, howns⟩
    · simp [hfree, hown]
    · simp [hfree, hthere, howns]
  unfold State.createTaken State.created createdCfg
  rw [if_neg (by simp [hfields]), if_neg hpass]
  by_cases hown : qcCq e = qcQid e <;> simp [hown]

theorem State.created_host (s : State) (e : List Byte) :
    (s.created e).host = { s.host with queues := Tbl.put {} s.host.queues (qcQid e) (createdCfg e) } := by
  unfold State.created State.setCq State.setQueue
  split <;> simp

theorem State.created_within (s : State) (e : List Byte) : s.Within (s.created e) [.regs, .host] (queueRegs (qcQid e)) := by
  have hqueue : s.Within ((s.setQueue (qcQid e) (qcClass e) (qcCq e)).setQcfg (qcQid e) (createdCfg e)) [.regs, .host]
      (queueRegs (qcQid e)) := ((s.setQueue_within _ _ _).mono (by simp) fun _ _ h => h).trans ((State.setQcfg_onlyParts _ _ _).within _)
  unfold State.created
  split
  · refine hqueue.trans ((State.setCq_within _ _ _).mono (by simp) ?_)
    rintro r i ⟨rfl | rfl, rfl⟩ <;> simp [queueRegs]
  · exact hqueue

/-- The set-up of the CQ does not touch the queue's own words. -/
theorem State.created_queue (s : State) (e : List Byte) {f : Fld} (hf : f.reg = .queQState ∨ f.reg = .queQState1) :
    (s.created e).fget f (qcQid e) = (s.setQueue (qcQid e) (qcClass e) (qcCq e)).fget f (qcQid e) := by
  unfold State.created
  split
  · rw [(State.setCq_within _ _ _).regs.field f _ (by rcases hf with hf | hf <;> simp [hf]), State.setQcfg_fget]
  · exact State.setQcfg_fget _ _ _ _ _

theorem State.created_cq (s : State) {e : List Byte} (hown : qcCq e = qcQid e) :
    s.created e = ((s.setQueue (qcQid e) (qcClass e) (qcCq e)).setQcfg (qcQid e) (createdCfg e)).setCq (qcQid e) (qcVector e) := if_pos hown

/-- Fields in range bound the numbers they give. -/
theorem createFields_bounds {e : List Byte} (h : createFields e = true) :
    qcClass e < 4 ∧ qcCq e < 1024 ∧ (qcCq e = qcQid e → qcVector e < 2048) := by
  simp only [createFields, Bool.and_eq_true, decide_eq_true_eq] at h
  obtain ⟨⟨⟨⟨-, hcq⟩, hcls⟩, hown⟩, -⟩ := h
  refine ⟨hcls, hcq, fun heq => ?_⟩
  simp only [ownCqOk, heq, if_true, Bool.and_eq_true, decide_eq_true_eq] at hown
  exact hown.2

/-- Settles O20: QUEUE_CREATE sets up the queue and its CQ and is done; a reset or a deletion that its checks pass begins. -/
theorem queueCommandsTaken : Obligations.QueueCommandsTaken := by
  intro s s0 p e h
  refine ⟨fun hop hfields hfree hcq => ?_, fun hop hfields hreset => ?_, fun hop hfields hreset hshared => ?_⟩
  · have hhost := s0.created_host e
    have hcmd (k : Nat) : (s0.created e).cmd k = s0.cmd k := by rw [State.cmd, hhost, State.cmd]
    have hopen : (s0.created e).open p = true := by rw [State.open, hcmd]; exact h.open
    have hcfg : (s0.created e).qcfg (qcQid e) = createdCfg e := by rw [State.qcfg, hhost, Tbl.look_put_same]
    have hwithin := s0.created_within e
    obtain ⟨hcls, hcqid, hvector⟩ := createFields_bounds hfields
    obtain ⟨hstate, hclass, hid, hhead, htail, houtst⟩ := s0.setQueue_created (qcQid e) hcls hcqid
    obtain ⟨hothers, hparts, -⟩ := (s0.created e).setCmd_frame p { s0.cmd p with ready := true, status := 0, result := 0 }
    refine ⟨(s0.created e).setCmd p { s0.cmd p with ready := true, status := 0, result := 0 }, ?_, ?_, ?_, ?_, ?_, ?_, ?_, ?_, ?_, ?_,
      State.cmd_setCmd_same .., fun k hk => (hothers k hk).trans (hcmd k), ?_, hwithin.parts.next hparts⟩
    · rw [exec_queueCreate_taken h hop, State.createTaken_passes p hfields hfree hcq, State.finish_open hopen, hcmd]
    · rw [State.setCmd_fget, State.created_queue _ _ (.inl rfl), hstate]
    · rw [State.setCmd_fget, State.created_queue _ _ (.inl rfl), hclass]
    · rw [State.setCmd_fget, State.created_queue _ _ (.inl rfl), hid]
    · rw [State.setCmd_fget, State.created_queue _ _ (.inl rfl), hhead]
    · rw [State.setCmd_fget, State.created_queue _ _ (.inl rfl), htail]
    · rw [State.setCmd_fget, State.created_queue _ _ (.inr rfl), houtst]
    · exact congrArg QueueCfg.sqSize hcfg
    · exact congrArg QueueCfg.defaultTimeout hcfg
    · intro hown
      obtain ⟨howned, hphase, hvec, hcqtail, hcqhead⟩ := State.setCq_empty
        ((s0.setQueue (qcQid e) (qcClass e) (qcCq e)).setQcfg (qcQid e) (createdCfg e)) (qcQid e) (hvector hown)
      simp only [State.setCmd_fget, s0.created_cq hown]
      exact ⟨howned, hphase, hvec, hcqtail, hcqhead, by rw [← s0.created_cq hown]; exact congrArg QueueCfg.cqSize hcfg,
        by rw [← s0.created_cq hown]; exact congrArg QueueCfg.cqAddr hcfg⟩
    · exact hwithin.regs.trans (hparts.regs _)
  · rw [exec_queueReset_taken h hop, State.resetTaken, if_neg (by simp [hfields]), if_neg (by simp [hreset])]
  · rw [exec_queueDelete_taken h hop, State.deleteTaken, if_neg (by simp [hfields]), if_neg (by simp [hreset, hshared])]

end Sys2Proof.Machine
end

section
/-! SUPPORT. The admin queue's control (R439), COMMAND_TIMEOUT (R226), a late completion (R228) and CQ_AGGREGATION_TIMEOUT (R436). -/

namespace Sys2Proof.Machine

/-! ## Writes under the lock (R16, R607) -/

@[simp] theorem State.dropHeld_fget (s : State) (off : Nat) (f : Fld) (i : Nat) : (s.dropHeld off).fget f i = s.fget f i := by
  obtain ⟨x, hx⟩ := s.dropHeld_eq_holdLow off
  rw [hx, State.holdLow_fget]

@[simp] theorem State.dropHeld_rget (s : State) (off : Nat) (r : Reg) (i : Nat) : (s.dropHeld off).rget r i = s.rget r i := by
  obtain ⟨x, hx⟩ := s.dropHeld_eq_holdLow off
  rw [hx]
  exact s.setHost_rget ..

@[simp] theorem State.dropHeld_locked (s : State) (off : Nat) : (s.dropHeld off).locked = s.locked := by simp [State.locked, State.fbit]

theorem State.dropHeld_onlyParts (s : State) (off : Nat) : s.OnlyParts (s.dropHeld off) [.host] := by
  obtain ⟨x, hx⟩ := s.dropHeld_eq_holdLow off
  exact hx ▸ s.holdLow_onlyParts x

@[simp] theorem State.dropHeld_qcfg (s : State) (off q : Nat) : (s.dropHeld off).qcfg q = s.qcfg q := by
  obtain ⟨x, hx⟩ := s.dropHeld_eq_holdLow off
  rw [hx, State.holdLow_qcfg]

theorem State.Open.lockWrite {s : State} (h : s.Open) (off : Nat) (run : State → State) : s.lockWrite off run = run (s.dropHeld off) := by
  rw [State.lockWrite, State.openWrite_heard h.1, if_neg (by simp [h.2])]

theorem State.Open.woWrite {s : State} (h : s.Open) (off : Nat) (run : State → State) : s.woWrite off run = run (s.dropHeld off) := by
  rw [State.woWrite, State.openWrite_heard h.1, if_neg (by simp [h.2])]

/-! ## The admin queue (R439) -/

theorem exec_adminQueueEnable (s : State) : exec .adminQueueEnable s = .next (s.lockWrite 0x100010 State.adminEnable) := rfl
theorem exec_adminQueueDisable (s : State) : exec .adminQueueDisable s = .next (s.lockWrite 0x100010 State.adminDisable) := rfl
theorem exec_adminQueueReset (s : State) : exec .adminQueueReset s = .next (s.woWrite 0x100010 State.adminReset) := rfl

/-- The settings that the admin registers give Q0000. -/
def State.adminQcfg (s : State) : QueueCfg :=
  { sqSize := s.fget F.queAdminCfgSqSize 0, cqAddr := s.fget F.queAdminCqAddrAddr 0, cqSize := s.fget F.queAdminCfgCqSize 0
    irqEn := s.fbit F.queAdminCfgIrqEn 0, aggCount := 1 }

/-- Q0000 set up, before READY shows it. -/
def State.adminQueue (s : State) : State := ((s.setQueue 0 1 0).setQcfg 0 s.adminQcfg).setCq 0 (s.fget F.queAdminCfgVector 0)

section
variable (s : State)

theorem State.adminQueue_within : s.Within s.adminQueue [.regs, .host] (queueRegs 0) := by
  refine (((s.setQueue_within 0 1 0).mono (by simp) fun _ _ h => h).trans ((State.setQcfg_onlyParts _ _ _).within _)).trans
    ((State.setCq_within _ _ _).mono (by simp) ?_)
  rintro r i ⟨rfl | rfl, rfl⟩ <;> simp [queueRegs]

theorem State.adminQueue_field {f : Fld} (hf : f.reg = .queQState) : s.adminQueue.fget f 0 = (s.setQueue 0 1 0).fget f 0 := by
  rw [State.adminQueue, (State.setCq_within _ _ _).regs.field f _ (by simp [hf]), State.setQcfg_fget]

theorem State.adminQueue_qcfg : s.adminQueue.qcfg 0 = s.adminQcfg := by
  have hhost : s.adminQueue.host = ((s.setQueue 0 1 0).setQcfg 0 s.adminQcfg).host := (State.setCq_within _ _ _).parts .host (by decide)
  rw [State.qcfg, hhost, State.setQcfg_host, Tbl.look_put_same]

theorem State.adminReady_fget {f : Fld} (i : Nat) (hf : F.queAdminCtlReady.apart f = true) : s.adminReady.fget f i = s.fget f i :=
  State.fget_fset_of_apart s _ _ _ hf

theorem State.adminReady_ready (h : s.fget F.queQStateState 0 = 1) : s.adminReady.fget F.queAdminCtlReady 0 = 1 := by
  rw [State.adminReady, State.fget_fset_same _ _ _ _ (by decide), h]
  rfl

end

theorem State.adminEnable_created {s : State} (hserved : s.adminServed = true) (hfree : s.fget F.queQStateState 0 = 0)
    (hok : s.adminCfgOk = true) :
    s.adminEnable = (((s.fset F.queAdminCtlEnable 0 1).fset F.queAdminCtlCfgBad 0 0).adminQueue).adminReady := by
  unfold State.adminEnable
  rw [if_neg (by simp [hserved])]
  dsimp only
  rw [if_neg (by simp [hfree]), if_pos hok]
  rfl

theorem State.adminEnable_bad {s : State} (hserved : s.adminServed = true) (hfree : s.fget F.queQStateState 0 = 0)
    (hok : s.adminCfgOk = false) : s.adminEnable = (s.fset F.queAdminCtlEnable 0 1).fset F.queAdminCtlCfgBad 0 1 := by
  unfold State.adminEnable
  rw [if_neg (by simp [hserved])]
  dsimp only
  rw [if_neg (by simp [hfree]), if_neg (by simp [hok])]

theorem State.adminDisable_reset {s : State} (hserved : s.adminServed = true) (hreset : s.canReset 0 = true) :
    s.adminDisable = (s.fset F.queAdminCtlEnable 0 0).resetQueue 0 none true := by
  simp [State.adminDisable, hserved, hreset]

@[simp] theorem State.dropHeld_adminServed (s : State) (off : Nat) : (s.dropHeld off).adminServed = s.adminServed := by
  simp [State.adminServed]
@[simp] theorem State.dropHeld_canReset (s : State) (off q : Nat) : (s.dropHeld off).canReset q = s.canReset q := by simp [State.canReset]
@[simp] theorem State.dropHeld_adminCfgOk (s : State) (off : Nat) : (s.dropHeld off).adminCfgOk = s.adminCfgOk := by
  simp [State.adminCfgOk]

/-- ENABLE creates Q0000 from the admin registers. -/
theorem adminQueueEnable_creates {s : State} (h : s.Open) (hserved : s.adminServed = true) (hfree : s.fget F.queQStateState 0 = 0)
    (hok : s.adminCfgOk = true) : ∃ t, exec .adminQueueEnable s = .next t ∧
      t.fget F.queQStateState 0 = 1 ∧ t.fget F.queQStateClass 0 = 1 ∧ t.fget F.queAdminCtlEnable 0 = 1 ∧
      t.fget F.queAdminCtlReady 0 = 1 ∧ t.fget F.queAdminCtlCfgBad 0 = 0 ∧ (t.qcfg 0).sqSize = s.fget F.queAdminCfgSqSize 0 ∧
      (t.qcfg 0).cqAddr = s.fget F.queAdminCqAddrAddr 0 ∧ s.OnlyParts t [.regs, .host] := by
  obtain ⟨u, hu⟩ : ∃ u, u = ((s.dropHeld 0x100010).fset F.queAdminCtlEnable 0 1).fset F.queAdminCtlCfgBad 0 0 := ⟨_, rfl⟩
  have hwithin := u.adminQueue_within
  obtain ⟨hstate, hclass, -⟩ := u.setQueue_created 0 (show 1 < 4 by decide) (show 0 < 1024 by decide)
  have hcreated : u.adminQueue.fget F.queQStateState 0 = 1 := by rw [State.adminQueue_field _ rfl, hstate]
  have hctl (f : Fld) (hf : f.reg = .queAdminCtl) : u.adminQueue.fget f 0 = u.fget f 0 :=
    hwithin.regs.field f 0 (by simp [queueRegs, hf])
  have hqcfg : u.adminQueue.adminReady.qcfg 0 = u.adminQcfg := by
    rw [State.qcfg, State.adminReady, State.fset_host]
    exact u.adminQueue_qcfg
  refine ⟨u.adminQueue.adminReady, ?_, ?_, ?_, ?_, State.adminReady_ready _ hcreated, ?_, ?_, ?_, ?_⟩
  · rw [exec_adminQueueEnable, h.lockWrite, State.adminEnable_created (by simpa using hserved) (by simpa using hfree) (by simpa using hok), hu]
  · rw [State.adminReady_fget _ _ (by decide), hcreated]
  · rw [State.adminReady_fget _ _ (by decide), State.adminQueue_field _ rfl, hclass]
  · rw [State.adminReady_fget _ _ (by decide), hctl _ rfl, hu, State.fget_fset_of_apart _ _ _ _ (by decide),
      State.fget_fset_same _ _ _ _ (by decide)]
    rfl
  · rw [State.adminReady_fget _ _ (by decide), hctl _ rfl, hu, State.fget_fset_same _ _ _ _ (by decide)]
    rfl
  · rw [hqcfg, State.adminQcfg, hu]
    simp [State.fget_fset_reg _ _ _ _ _ _ (.inl (show F.queAdminCfgSqSize.reg ≠ F.queAdminCtlCfgBad.reg by decide)),
      State.fget_fset_reg _ _ _ _ _ _ (.inl (show F.queAdminCfgSqSize.reg ≠ F.queAdminCtlEnable.reg by decide))]
  · rw [hqcfg, State.adminQcfg, hu]
    simp [State.fget_fset_reg _ _ _ _ _ _ (.inl (show F.queAdminCqAddrAddr.reg ≠ F.queAdminCtlCfgBad.reg by decide)),
      State.fget_fset_reg _ _ _ _ _ _ (.inl (show F.queAdminCqAddrAddr.reg ≠ F.queAdminCtlEnable.reg by decide))]
  · have hfirst : s.OnlyParts u [.regs, .host] := hu ▸ (((s.dropHeld_onlyParts _).mono (by decide)).next
      (State.fset_onlyParts _ _ _ _)).next (State.fset_onlyParts _ _ _ _)
    exact (hfirst.next hwithin.parts).next (State.adminReady_within _).parts

/-- Where the configuration is out of range, CFG_BAD says so. -/
theorem adminQueueEnable_refuses {s : State} (h : s.Open) (hserved : s.adminServed = true) (hfree : s.fget F.queQStateState 0 = 0)
    (hok : s.adminCfgOk = false) : ∃ t, exec .adminQueueEnable s = .next t ∧
      t.fget F.queAdminCtlCfgBad 0 = 1 ∧ t.fget F.queQStateState 0 = 0 ∧ s.OnlyParts t [.regs, .host] := by
  refine ⟨_, by rw [exec_adminQueueEnable, h.lockWrite, State.adminEnable_bad (by simpa using hserved) (by simpa using hfree) (by simpa using hok)],
    by rw [State.fget_fset_same _ _ _ _ (by decide)]; rfl, ?_, ?_⟩
  · rw [State.fget_fset_of_apart _ _ _ _ (by decide), State.fget_fset_of_apart _ _ _ _ (by decide), State.dropHeld_fget, hfree]
  · exact (((s.dropHeld_onlyParts _).mono (by decide)).next (State.fset_onlyParts _ _ _ _)).next (State.fset_onlyParts _ _ _ _)

/-! ## Timers (R226, R436) -/

theorem exec_commandTimeout (p : Nat) (s : State) : exec (.commandTimeout p) s =
    .next (if s.expired p then s.abort p 0x3001 else s) := rfl
theorem exec_cqAggregationTimeout (cq : QueueId) (s : State) : exec (.cqAggregationTimeout cq) s =
    .next (if !(s.qcfg cq.val).irqEn ∨ (s.qcfg cq.val).sinceIrq = 0 ∨ (s.qcfg cq.val).aggUs = 0 then s
      else (s.setQcfg cq.val { s.qcfg cq.val with sinceIrq := 0 }).raiseMsix (s.fget F.queCqStateVector cq.val)) := rfl

theorem State.expired_of_due {s : State} {p us : Nat} (htime : (s.cmd p).timeout = some us)
    (hop : sqOpcode (s.cmd p).entry ∉ [0x28, 0x29]) (hdue : 700 * us ≤ cycSince (s.cyc 17) (s.cmd p).t0) : s.expired p = true := by
  simp only [List.mem_cons, List.not_mem_nil, or_false, not_or] at hop
  simp [State.expired, htime, hop, hdue]

/-- A vector raised over a masked entry or a link that is down is pending; over another it is sent. -/
theorem State.raiseMsix_cases (s : State) (v : Nat) :
    if s.msixMasked v = true ∨ s.host.link = none
    then v ∈ (s.raiseMsix v).host.msixPending ∧ (s.raiseMsix v).host.outbox = s.host.outbox
    else (s.raiseMsix v).host.outbox = s.host.outbox ++ [.msix v (bitsOf (s.msixEntry v) 0 64) (bitsOf (s.msixEntry v) 64 32)] := by
  unfold State.raiseMsix State.send
  split
  · split
    · next hpending => exact ⟨hpending, rfl⟩
    · simp
  · simp

theorem State.raiseMsix_qcfg (s : State) (v q : Nat) : (s.raiseMsix v).qcfg q = s.qcfg q := by
  unfold State.raiseMsix State.send State.qcfg
  split_ifs <;> simp

/-- Settles O22: ENABLE, its absence and RESET of the admin queue, and the three timers' effects. -/
theorem adminControlAndTimers : Obligations.AdminControlAndTimers := by
  refine ⟨fun s h hserved => ⟨adminQueueEnable_creates h hserved, adminQueueEnable_refuses h hserved, fun hreset => ?_⟩,
    fun s h hreset => ?_, fun s p us htime hop hopen hdue => ?_, fun s p hlate => ?_, fun s cq hirq hsince hagg => ?_⟩
  · rw [exec_adminQueueDisable, h.lockWrite, State.adminDisable_reset (by simpa using hserved) (by simpa using hreset)]
  · rw [exec_adminQueueReset, h.woWrite, State.adminReset, if_pos (by simpa using hreset)]
  · rw [exec_commandTimeout, if_pos (State.expired_of_due htime hop hdue), State.abort, if_neg (by simp [hopen])]
  · rw [exec_completionArrival, if_pos rfl, if_pos hlate]
    exact ⟨_, rfl, State.fget_bump_same _ _ _ _ (by decide), s.bump_onlyRegs _ _ _, s.bump_onlyParts _ _ _⟩
  · rw [exec_cqAggregationTimeout, if_neg (by simp [hirq, hsince, hagg])]
    refine ⟨_, rfl, by rw [State.raiseMsix_qcfg, State.qcfg, State.setQcfg_host, Tbl.look_put_same],
      (s.setQcfg_onlyParts _ _).trans (State.raiseMsix_onlyParts _ _), ?_⟩
    exact State.raiseMsix_cases (s.setQcfg cq.val { s.qcfg cq.val with sinceIrq := 0 }) (s.fget F.queCqStateVector cq.val)

end Sys2Proof.Machine
end

section
/-! SUPPORT. The privileged lock and its signed unlock (R607, R610, R611), the operators' keys (R614) and GLB.EVENT_CFG (R624). -/

namespace Sys2Proof.Machine

/-! ## Strings of bytes in registers, and free bytes -/

theorem State.drawBytes_onlyParts (s : State) (n : Nat) : s.OnlyParts (s.drawBytes n).2 [.freeCtr] := by
  induction n generalizing s with
  | zero => exact .refl s _
  | succ n ih => exact (s.setFreeCtr_onlyParts _).trans (ih _)

theorem State.rsetBytes_within (s : State) (r : Reg) (base : Nat) (bs : List Byte) :
    s.Within (s.rsetBytes r base bs) [.regs] (fun q _ => q = r) :=
  .foldl (fun s _ => ⟨s.rset_onlyParts _ _ _, (s.rset_onlyRegs _ _ _).mono fun _ _ h => h.1⟩) _ s

/-! ## The bits of a mask that another does not have -/

theorem clearBits_succ (w n m : Nat) :
    clearBits (w + 1) n m = clearBits w n m + if n.testBit w ∧ ¬ m.testBit w then 2 ^ w else 0 := by
  cases hn : n.testBit w <;> cases hm : m.testBit w <;> simp [clearBits, bitsSet, List.range_succ, hn, hm]

theorem clearBits_lt (w n m : Nat) : clearBits w n m < 2 ^ w := by
  induction w with
  | zero => exact Nat.one_pos
  | succ w ih =>
    rw [clearBits_succ, Nat.pow_succ]
    split <;> omega

theorem testBit_clearBits (w n m k : Nat) :
    (clearBits w n m).testBit k = true ↔ k < w ∧ n.testBit k = true ∧ m.testBit k = false := by
  induction w with
  | zero => simp [clearBits, bitsSet]
  | succ w ih =>
    have hlt := clearBits_lt w n m
    rw [clearBits_succ]
    obtain hk | rfl | hk := Nat.lt_trichotomy k w
    · split
      · rw [Nat.add_comm, Nat.testBit_two_pow_add_gt hk, ih]
        simp [hk, Nat.lt_succ_of_lt hk]
      · rw [Nat.add_zero, ih]
        simp [hk, Nat.lt_succ_of_lt hk]
    · split
      · next h => simpa [Nat.add_comm, Nat.testBit_two_pow_add_eq, Nat.testBit_lt_two_pow hlt] using h
      · next h => simpa [Nat.testBit_lt_two_pow hlt] using h
    · have hbig : clearBits (w + 1) n m < 2 ^ k := lt_of_lt_of_le (clearBits_lt _ _ _) (Nat.pow_le_pow_right (by decide) hk)
      rw [← clearBits_succ, Nat.testBit_lt_two_pow hbig]
      simp [Nat.not_lt.2 (Nat.succ_le_of_lt hk)]

theorem and_ne_zero_iff (a b : Nat) : a &&& b ≠ 0 ↔ ∃ k, a.testBit k = true ∧ b.testBit k = true := by
  refine ⟨fun h => ?_, fun ⟨k, ha, hb⟩ h => by simpa [ha, hb] using congrArg (Nat.testBit · k) h⟩
  obtain ⟨k, hk⟩ := Nat.exists_testBit_of_ne_zero h
  exact ⟨k, by simpa using hk⟩

/-! ## The lock and the unlock -/

section
variable {s : State}

theorem exec_privLockSet (s : State) : exec .privLockSet s = .next (s.openWrite 0x100 fun s => s.fset F.glbPrivLockLock 0 1) := rfl
theorem exec_unlockNewChallenge (n : Fin 8) (s : State) :
    exec (.unlockNewChallenge n) s = .next (s.unlockCtl n State.askChallenge) := rfl
theorem exec_unlockVerify (n : Fin 8) (s : State) : exec (.unlockVerify n) s = .next (s.unlockCtl n State.beginVerify) := rfl
theorem exec_unlockChallengeReady (s : State) :
    exec .unlockChallengeReady s = .next (if s.security.making then s.challengeReady else s) := rfl
theorem exec_unlockVerifyDone (s : State) : exec .unlockVerifyDone s = .next (if s.security.verifying then s.verifyDone else s) := rfl
theorem exec_unlockChallengeLapse (s : State) : exec .unlockChallengeLapse s =
    .next (if s.fbit F.glbUnlockCtlChalValid 0 ∧ !s.security.verifying then s.clearChallenge else s) := rfl

theorem State.dropHeld_security (s : State) (off : Nat) : (s.dropHeld off).security = s.security :=
  s.dropHeld_onlyParts off .security (by decide)

theorem State.unlockCtl_busy (h : s.hears = true) (hbusy : s.fget F.glbUnlockCtlBusy 0 = 1) (n : Nat) (run : State → State) :
    s.unlockCtl n run = s.dropHeld 0x300 := by
  rw [State.unlockCtl, State.openWrite_heard h, State.unlockTake, if_pos (by simpa [State.fbit] using hbusy)]

theorem State.unlockCtl_idle (h : s.hears = true) (hbusy : s.fget F.glbUnlockCtlBusy 0 = 0) (n : Nat) (run : State → State) :
    s.unlockCtl n run = run ((s.dropHeld 0x300).fset F.glbUnlockCtlSigner 0 n) := by
  rw [State.unlockCtl, State.openWrite_heard h, State.unlockTake, if_neg (by simp [State.fbit, hbusy])]

/-- The state in which a write of GLB.UNLOCK_CTL has given SIGNER its value, and nothing more. -/
theorem State.signer_taken (s : State) (n : Fin 8) : let t := (s.dropHeld 0x300).fset F.glbUnlockCtlSigner 0 n
    t.fget F.glbUnlockCtlSigner 0 = n ∧ t.fget F.glbUnlockCtlBusy 0 = s.fget F.glbUnlockCtlBusy 0 ∧ t.security = s.security ∧
      s.Within t [.regs, .host] (fun r i => r = .glbUnlockCtl ∧ i = 0) := by
  refine ⟨?_, ?_, ?_, ?_⟩
  · rw [State.fget_fset_same _ _ _ _ (by decide)]
    exact Nat.mod_eq_of_lt n.isLt
  · rw [State.fget_fset_of_apart _ _ _ _ (by decide), State.dropHeld_fget]
  · rw [State.fset_security, State.dropHeld_security]
  · exact ((s.dropHeld_onlyParts _).within _).trans ⟨(State.fset_onlyParts _ _ _ _).mono (by decide), State.fset_onlyRegs _ _ _ _⟩

/-- A NEW_CHAL during the back-off takes RESULT 5 and keeps BUSY; else it raises BUSY and starts the making. -/
theorem State.askChallenge_asks (s : State) : let t := s.askChallenge
    t.fget F.glbUnlockCtlSigner 0 = s.fget F.glbUnlockCtlSigner 0 ∧
      s.Within t [.regs, .host, .security] (fun r i => r = .glbUnlockCtl ∧ i = 0) ∧
      (s.security.backOff = true → t.fget F.glbUnlockCtlResult 0 = 5 ∧
        t.fget F.glbUnlockCtlBusy 0 = s.fget F.glbUnlockCtlBusy 0 ∧ t.security = s.security) ∧
      (s.security.backOff = false → t.fget F.glbUnlockCtlBusy 0 = 1 ∧ t.security = { s.security with making := true }) := by
  intro t
  cases hb : s.security.backOff with
  | true =>
    have ht : t = s.fset F.glbUnlockCtlResult 0 5 := if_pos hb
    rw [ht]
    refine ⟨State.fget_fset_of_apart _ _ _ _ (by decide), ⟨(s.fset_onlyParts _ _ _).mono (by decide), s.fset_onlyRegs _ _ _⟩,
      fun _ => ⟨?_, State.fget_fset_of_apart _ _ _ _ (by decide), State.fset_security _ _ _ _⟩, nofun⟩
    rw [State.fget_fset_same _ _ _ _ (by decide)]
    rfl
  | false =>
    have ht : t = (s.setSecurity { s.security with making := true }).fset F.glbUnlockCtlBusy 0 1 := if_neg (by simp [hb])
    rw [ht]
    refine ⟨by rw [State.fget_fset_of_apart _ _ _ _ (by decide), State.setSecurity_fget],
      ⟨by simp [State.onlyParts_iff], by simp [F.glbUnlockCtlBusy]⟩, nofun, fun _ => ⟨?_, by simp⟩⟩
    rw [State.fget_fset_same _ _ _ _ (by decide)]
    rfl

theorem unlockNewChallenge_asks (h : s.hears = true) (hbusy : s.fget F.glbUnlockCtlBusy 0 = 0) (n : Fin 8) :
    ∃ t, exec (.unlockNewChallenge n) s = .next t ∧ t.fget F.glbUnlockCtlSigner 0 = n ∧
      s.OnlyRegs t (fun r i => r = .glbUnlockCtl ∧ i = 0) ∧ s.OnlyParts t [.regs, .host, .security] ∧
      (s.security.backOff = true → t.fget F.glbUnlockCtlResult 0 = 5 ∧ t.fget F.glbUnlockCtlBusy 0 = 0 ∧ t.security = s.security) ∧
      (s.security.backOff = false → t.fget F.glbUnlockCtlBusy 0 = 1 ∧ t.security = { s.security with making := true }) := by
  obtain ⟨hsigner, hkept, hsec, hwithin⟩ := s.signer_taken n
  obtain ⟨hsame, hasks, hoff, hmake⟩ := ((s.dropHeld 0x300).fset F.glbUnlockCtlSigner 0 n).askChallenge_asks
  rw [hkept, hbusy, hsec] at hoff
  rw [hsec] at hmake
  exact ⟨_, by rw [exec_unlockNewChallenge, State.unlockCtl_idle h hbusy], hsame.trans hsigner, hwithin.regs.trans hasks.regs,
    (hwithin.parts.mono (by decide)).next hasks.parts, hoff, hmake⟩

theorem unlockVerify_begins (h : s.hears = true) (hbusy : s.fget F.glbUnlockCtlBusy 0 = 0) (n : Fin 8) :
    ∃ t, exec (.unlockVerify n) s = .next t ∧ t.fget F.glbUnlockCtlSigner 0 = n ∧ t.fget F.glbUnlockCtlBusy 0 = 1 ∧
      s.OnlyRegs t (fun r i => r = .glbUnlockCtl ∧ i = 0) ∧ s.OnlyParts t [.regs, .host, .security] ∧
      t.security = { s.security with verifying := true } := by
  obtain ⟨hsigner, -, hsec, hwithin⟩ := s.signer_taken n
  refine ⟨_, by rw [exec_unlockVerify, State.unlockCtl_idle h hbusy], ?_, ?_, ?_, ?_, ?_⟩
  · rw [State.beginVerify, State.fget_fset_of_apart _ _ _ _ (by decide), State.setSecurity_fget, hsigner]
  · rw [State.beginVerify, State.fget_fset_same _ _ _ _ (by decide)]
    rfl
  · exact hwithin.regs.trans (by simp [State.beginVerify, F.glbUnlockCtlBusy])
  · exact ((hwithin.parts.mono (by decide)).next (State.setSecurity_onlyParts _ _)).next (State.fset_onlyParts _ _ _ _)
  · rw [State.beginVerify, State.fset_security, State.setSecurity_security, hsec]

theorem State.challengeReady_shows (s : State) : let t := s.challengeReady
    t.fget F.glbUnlockCtlChalValid 0 = 1 ∧ t.fget F.glbUnlockCtlBusy 0 = 0 ∧ t.security = { s.security with making := false } ∧
      s.OnlyRegs t (fun r _ => r = .glbUnlockCtl ∨ r = .glbUnlockChal) ∧ s.OnlyParts t [.regs, .security, .freeCtr] := by
  have hdraw := s.drawBytes_onlyParts 32
  have hput := ((s.drawBytes 32).2.setSecurity { (s.drawBytes 32).2.security with making := false }).rsetBytes_within .glbUnlockChal 0
    (s.drawBytes 32).1
  refine ⟨?_, ?_, ?_, ?_, ?_⟩
  · rw [State.challengeReady, State.fget_fset_of_apart _ _ _ _ (by decide), State.fget_fset_same _ _ _ _ (by decide)]
    rfl
  · rw [State.challengeReady, State.fget_fset_same _ _ _ _ (by decide)]
    rfl
  · rw [State.challengeReady, State.fset_security, State.fset_security, hput.parts .security (by decide), State.setSecurity_security,
      hdraw .security (by decide)]
  · refine (((hdraw.regs _).trans ?_).next hput.regs fun _ _ h => .inr h).trans ?_
    · simp
    · simp [State.challengeReady, F.glbUnlockCtlChalValid, F.glbUnlockCtlBusy]
  · exact ((((hdraw.mono (by decide)).next (State.setSecurity_onlyParts _ _)).next hput.parts).next
      (State.fset_onlyParts _ _ _ _)).next (State.fset_onlyParts _ _ _ _)

theorem State.clearChallenge_clears (s : State) : let t := s.clearChallenge
    t.fget F.glbUnlockCtlChalValid 0 = 0 ∧ (∀ i < 4, t.rget .glbUnlockChal i = 0) ∧
      s.OnlyRegs t (fun r _ => r = .glbUnlockCtl ∨ r = .glbUnlockChal) ∧ s.OnlyParts t [.regs] := by
  refine ⟨?_, fun i hi => ?_, by simp [State.clearChallenge, F.glbUnlockCtlChalValid, State.onlyRegs_rset],
    by simp [State.clearChallenge, State.onlyParts_iff]⟩
  · rw [State.clearChallenge, State.fget_fset_same _ _ _ _ (by decide)]
    rfl
  · rw [State.clearChallenge, State.rget_fset_reg _ _ _ _ _ (by decide)]
    interval_cases i <;> simp [State.rget_rset]

/-- What R611 gives as RESULT. -/
theorem State.unlockResult_cases (s : State) :
    (s.fget F.glbUnlockCtlChalValid 0 = 0 → s.unlockResult = 4) ∧
      (s.fget F.glbUnlockCtlChalValid 0 = 1 → s.signerOk (s.fget F.glbUnlockCtlSigner 0) = false → s.unlockResult = 3) ∧
      (s.fget F.glbUnlockCtlChalValid 0 = 1 → s.signerOk (s.fget F.glbUnlockCtlSigner 0) = true →
        s.unlockResult = if s.unlockSigned (s.fget F.glbUnlockCtlSigner 0) then 1 else 2) := by
  refine ⟨fun hvalid => by simp [State.unlockResult, State.fbit, hvalid],
    fun hvalid hok => by simp [State.unlockResult, State.fbit, hvalid, hok], fun hvalid hok => ?_⟩
  cases hsigned : s.unlockSigned (s.fget F.glbUnlockCtlSigner 0) <;> simp [State.unlockResult, State.fbit, hvalid, hok, hsigned]

end

/-- Settles O29: the lock, the challenge and the verification of the signed unlock, case by case of BUSY and RESULT. -/
theorem lockAndUnlock : Obligations.LockAndUnlock := by
  intro s
  refine ⟨fun h => ⟨_, by rw [exec_privLockSet, State.openWrite_heard h], ?_, ?_, ?_⟩,
    fun n h => ⟨fun hbusy => ⟨unlockNewChallenge_asks h hbusy n, unlockVerify_begins h hbusy n⟩, fun hbusy c hc => ?_⟩,
    fun hmaking => ⟨_, by rw [exec_unlockChallengeReady, if_pos hmaking], s.challengeReady_shows⟩, fun hverify => ?_,
    fun hvalid hverify => ⟨_, by rw [exec_unlockChallengeLapse, if_pos (by simp [State.fbit, hvalid, hverify])], s.clearChallenge_clears⟩, rfl⟩
  · rw [State.fget_fset_same _ _ _ _ (by decide)]
    rfl
  · exact ((s.dropHeld_onlyParts _).regs _).trans (State.fset_onlyRegs _ _ _ _)
  · exact ((s.dropHeld_onlyParts _).mono (by decide)).next (State.fset_onlyParts _ _ _ _)
  · simp only [List.mem_cons, List.not_mem_nil, or_false] at hc
    obtain rfl | rfl := hc
    · rw [exec_unlockNewChallenge, State.unlockCtl_busy h hbusy]
    · rw [exec_unlockVerify, State.unlockCtl_busy h hbusy]
  · obtain ⟨hnone, hsigner, hsigned⟩ := s.unlockResult_cases
    exact ⟨hnone, hsigner, hsigned, by rw [exec_unlockVerifyDone, if_pos hverify, State.verifyDone]⟩

/-! ## Operators' keys and GLB.EVENT_CFG -/

theorem exec_signerKeyInstall (n : Fin 8) (s : State) : exec (.signerKeyInstall n) s = .next (s.keyCtl 1 n fun s => s.keyInstall n) := rfl
theorem exec_signerKeyRemove (n : Fin 8) (s : State) :
    exec (.signerKeyRemove n) s = .next (s.keyCtl 2 n fun s => s.keyWrite n (zeros 57)) := rfl
theorem exec_eventCfgWrite (v : Word64) (s : State) :
    exec (.eventCfgWrite v) s = .next (s.lockWrite 0x400 fun s => s.setEventCfg v.toNat) := rfl

theorem State.lockWrite_locked {s : State} (h : s.hears = true) (hl : s.locked = true) (off : Nat) (run : State → State) :
    s.lockWrite off run = (s.dropHeld off).refuseWrite off := by
  rw [State.lockWrite, State.openWrite_heard h, if_pos (by simpa using hl)]

section
variable {s : State} (h : s.Open)
include h

theorem State.Open.keyCtl_busy (hbusy : s.fget F.secKeyCtlBusy 0 = 1) (cmd n : Nat) (run : State → State) :
    s.keyCtl cmd n run = s.dropHeld 0x2000440 := by
  rw [State.keyCtl, h.lockWrite, State.keyFields, if_pos (by simpa [State.fbit] using hbusy)]

theorem State.Open.keyCtl_idle (hbusy : s.fget F.secKeyCtlBusy 0 = 0) (cmd n : Nat) (run : State → State) :
    s.keyCtl cmd n run = (((s.dropHeld 0x2000440).fset F.secKeyCtlCmd 0 cmd).fset F.secKeyCtlSigner 0 n).keyRun n run := by
  rw [State.keyCtl, h.lockWrite, State.keyFields, if_neg (by simp [State.fbit, hbusy])]

end

theorem State.rgetBytes_congr {s t : State} {r : Reg} (h : ∀ i, t.rget r i = s.rget r i) (base n : Nat) :
    t.rgetBytes r base n = s.rgetBytes r base n := by simp [State.rgetBytes, h]

/-- The install reads the stage, which a write of SEC.KEY_CTL leaves as it was. -/
theorem State.keyStage_kept (s : State) (off cmd n base k : Nat) :
    (((s.dropHeld off).fset F.secKeyCtlCmd 0 cmd).fset F.secKeyCtlSigner 0 n).rgetBytes .secKeyStage base k = s.rgetBytes .secKeyStage base k :=
  State.rgetBytes_congr (fun i => by rw [State.rget_fset_reg _ _ _ _ _ (by decide), State.rget_fset_reg _ _ _ _ _ (by decide),
    State.dropHeld_rget]) base k

/-- GLB.EVENT_CFG with a value in it, before anything is raised. -/
def State.eventCfgTaken (s : State) (v : Nat) : State :=
  ((s.fset F.glbEventCfgVector 0 v).fset F.glbEventCfgEnable 0 (bitsOf v 11 1)).fset F.glbEventCfgMask 0 (bitsOf v 32 16)

theorem State.eventCfgTaken_fields (s : State) (v : Nat) : let t := s.eventCfgTaken v
    t.fget F.glbEventCfgVector 0 = v % 2 ^ 11 ∧ t.fget F.glbEventCfgEnable 0 = bitsOf v 11 1 ∧ t.fget F.glbEventCfgMask 0 = bitsOf v 32 16 ∧
      t.rget .glbEventStatus 0 = s.rget .glbEventStatus 0 := by
  refine ⟨?_, ?_, ?_, ?_⟩
  · rw [State.eventCfgTaken, State.fget_fset_of_apart _ _ _ _ (by decide), State.fget_fset_of_apart _ _ _ _ (by decide),
      State.fget_fset_same _ _ _ _ (by decide)]
    rfl
  · rw [State.eventCfgTaken, State.fget_fset_of_apart _ _ _ _ (by decide), State.fget_fset_same _ _ _ _ (by decide)]
    exact Nat.mod_mod _ _
  · rw [State.eventCfgTaken, State.fget_fset_same _ _ _ _ (by decide)]
    exact Nat.mod_mod _ _
  · rw [State.eventCfgTaken, State.rget_fset_reg _ _ _ _ _ (by decide), State.rget_fset_reg _ _ _ _ _ (by decide),
      State.rget_fset_reg _ _ _ _ _ (by decide)]

/-- A MASK bit newly set over a status bit that is 1, with ENABLE set. -/
def State.eventDue (s : State) (v : Nat) : Prop :=
  bitsOf v 11 1 = 1 ∧ ∃ k < 16, (bitsOf v 32 16).testBit k = true ∧ (s.fget F.glbEventCfgMask 0).testBit k = false ∧
    (s.rget .glbEventStatus 0).toNat.testBit k = true

/-- The vector is raised where a newly masked event is due. -/
theorem State.setEventCfg_eq (s : State) (v : Nat) :
    (s.eventDue v → s.setEventCfg v = (s.eventCfgTaken v).raiseMsix (v % 2 ^ 11)) ∧
      (¬ s.eventDue v → s.setEventCfg v = s.eventCfgTaken v) := by
  obtain ⟨hvector, henable, hmask, hstatus⟩ := s.eventCfgTaken_fields v
  have hdue : (s.eventCfgTaken v).fbit F.glbEventCfgEnable 0 = true ∧ ((clearBits 16 ((s.eventCfgTaken v).fget F.glbEventCfgMask 0)
      (s.fget F.glbEventCfgMask 0)) &&& ((s.eventCfgTaken v).rget .glbEventStatus 0).toNat != 0) = true ↔ s.eventDue v := by
    rw [State.fbit, henable, hmask, hstatus, bne_iff_ne, and_ne_zero_iff, State.eventDue, decide_eq_true_iff]
    simp only [testBit_clearBits, and_assoc]
  rw [← hdue, ← hvector]
  exact ⟨fun h => if_pos h, fun h => if_neg h⟩

/-- Settles O30: the key commands by BUSY, signer and stage; GLB.EVENT_CFG with and without an interrupt due; both behind the lock. -/
theorem keysAndEventCfg : Obligations.KeysAndEventCfg := by
  refine fun s => ⟨fun n h => ⟨fun hbusy hn => ⟨?_, ?_⟩, fun hbusy hn => ⟨fun hok => ?_, fun hok => ?_, ?_⟩, fun hbusy c hc => ?_⟩,
    fun v h => ?_, fun h hl v n => ⟨?_, fun c hc => ?_⟩⟩
  · rw [exec_signerKeyInstall, h.keyCtl_idle hbusy, State.keyRun, if_pos hn]
  · rw [exec_signerKeyRemove, h.keyCtl_idle hbusy, State.keyRun, if_pos hn]
  · rw [exec_signerKeyInstall, h.keyCtl_idle hbusy, State.keyRun, if_neg hn, State.keyInstall, State.keyStage_kept, if_pos hok]
    rfl
  · rw [exec_signerKeyInstall, h.keyCtl_idle hbusy, State.keyRun, if_neg hn, State.keyInstall, State.keyStage_kept, if_neg (by simp [hok])]
  · rw [exec_signerKeyRemove, h.keyCtl_idle hbusy, State.keyRun, if_neg hn]
    rfl
  · simp only [List.mem_cons, List.not_mem_nil, or_false] at hc
    obtain rfl | rfl := hc
    · rw [exec_signerKeyInstall, h.keyCtl_busy hbusy]
    · rw [exec_signerKeyRemove, h.keyCtl_busy hbusy]
  · obtain ⟨hraise, hkeep⟩ := (s.dropHeld 0x400).setEventCfg_eq v.toNat
    rw [State.eventDue, State.dropHeld_fget, State.dropHeld_rget] at hraise hkeep
    rw [exec_eventCfgWrite, h.lockWrite]
    exact ⟨fun hdue => congrArg _ (hraise hdue), fun hdue => congrArg _ (hkeep hdue)⟩
  · rw [exec_eventCfgWrite, State.lockWrite_locked h hl]
  · simp only [List.mem_cons, List.not_mem_nil, or_false] at hc
    obtain rfl | rfl := hc
    · rw [exec_signerKeyInstall, State.keyCtl, State.lockWrite_locked h hl]
    · rw [exec_signerKeyRemove, State.keyCtl, State.lockWrite_locked h hl]

end Sys2Proof.Machine
end

section
/-! SUPPORT. The CXL port: its link, configuration requests (R421 to R425, R460, R634, R635), and CXL.mem (R277, R278, R426). -/

namespace Sys2Proof.Machine

section
variable {s : State}

/-! ## CXL.mem -/

theorem State.atHdm_outside (h : s.hears = true) {addr : Nat} (hx : s.hdmOffset addr = none) (run : Nat → State) :
    s.atHdm addr run = .fault .outsideHdm := by
  rw [State.atHdm, if_neg (by simp [h]), hx]

theorem State.atHdm_inside (h : s.hears = true) {addr x : Nat} (hx : s.hdmOffset addr = some x) (run : Nat → State) :
    s.atHdm addr run = .next (run x) := by
  rw [State.atHdm, if_neg (by simp [h]), hx]

theorem exec_cxlMemLoad (addr : Nat) (s : State) :
    exec (.cxlMemLoad addr) s = s.atHdm addr fun x => if x < 2 ^ 28 then s else s.hostLoad x := rfl
theorem exec_cxlMemStore (addr : Nat) (data : List Byte) (s : State) :
    exec (.cxlMemStore addr data) s = s.atHdm addr fun x => if x < 2 ^ 28 then s else s.hostStore x data := rfl
theorem exec_queueWindowLoad (addr : Nat) (s : State) :
    exec (.queueWindowLoad addr) s = s.atHdm addr fun x => if x < 2 ^ 28 then s.windowLoad x else s := rfl
theorem exec_queueWindowStore (addr : Nat) (data : List Byte) (s : State) :
    exec (.queueWindowStore addr data) s = s.atHdm addr fun x => if x < 2 ^ 28 then s.windowStore x data else s := rfl

/-- A store of the queue window places its bytes up to the end of its line, and nothing else. -/
theorem State.windowStore_stores (h : s.windowServed = true) (x : Nat) (data : List Byte) : let t := s.windowStore x data
    s.OnlyParts t [.host] ∧ t.host.outbox = s.host.outbox ++ [.storeDone] ∧
      (∀ i, i < data.length → i < 64 - x % 64 → t.host.window.get (x + i) = data.getD i 0) ∧
      (∀ a, a < x ∨ x + data.length ≤ a ∨ x / 64 * 64 + 64 ≤ a → t.host.window.get a = s.host.window.get a) := by
  have hwindow : (s.windowStore x data).host.window = s.host.window.write x (data.take (64 - x % 64)) := by
    rw [State.windowStore, if_pos h]
    rfl
  refine ⟨?_, ?_, fun i hlen hline => ?_, fun a ha => ?_⟩
  · rw [State.windowStore, if_pos h]
    exact (s.setHost_onlyParts _).trans (State.setHost_onlyParts _ _)
  · rw [State.windowStore, if_pos h]
    rfl
  · rw [hwindow, Memory.get_write, if_pos (by simp; omega), Nat.add_sub_cancel_left]
    simp [List.getD_eq_getElem?_getD, hline]
  · rw [hwindow, Memory.get_write_outside]
    simp only [List.length_take]
    omega

/-- A line of the queue window holds a bad word. -/
theorem windowBad_line (bad : List Nat) (x : Nat) :
    (bad.any fun w => x / 64 * 64 / 8 ≤ w && w < x / 64 * 64 / 8 + 8) = true ↔ ∃ w ∈ bad, w / 8 = x / 64 := by
  simp only [List.any_eq_true, Bool.and_eq_true, decide_eq_true_eq]
  exact exists_congr fun w => and_congr_right fun _ => by omega

theorem State.windowLoad_good (h : s.windowServed = true) {x : Nat} (hgood : ∀ w ∈ s.host.windowBad, w / 8 ≠ x / 64) :
    s.windowLoad x = s.send (.loadAnswer ((List.range 64).map (fun i => s.host.window.get (x / 64 * 64 + i))) false) := by
  rw [State.windowLoad, if_neg]
  · rfl
  · rw [windowBad_line]
    simpa [h] using hgood

theorem State.windowLoad_poison {x : Nat} (hbad : s.windowServed = false ∨ ∃ w ∈ s.host.windowBad, w / 8 = x / 64) :
    s.windowLoad x = s.send (.loadAnswer [] true) := by
  rw [State.windowLoad, if_pos]
  rw [windowBad_line]
  simpa using hbad

theorem State.hostLoad_good (h : s.memServed = true) {x : Nat} (hread : s.readStatus (hdmScratch (x / 64 * 64)) 64 = 0) :
    s.hostLoad x = s.send (.loadAnswer (s.depotRead (hdmScratch (x / 64 * 64)) 64) false) := by
  rw [State.hostLoad, if_neg (by simp [h, hread])]

theorem State.hostLoad_poison {x : Nat} (hbad : s.memServed = false ∨ s.readStatus (hdmScratch (x / 64 * 64)) 64 ≠ 0) :
    s.hostLoad x = s.send (.loadAnswer [] true) := by
  rw [State.hostLoad, if_pos (by simpa using hbad)]

/-- Settles O35: each of the four accesses by where its offset lies and whether the module serves it. -/
theorem hostMemoryAccess : Obligations.HostMemoryAccess := by
  refine fun s addr data h => ⟨fun hx c hc => ?_, fun x hx hlow => ⟨fun hserved => ⟨?_, fun hgood => ?_, fun hbad => ?_⟩, fun hserved => ⟨?_, ?_⟩⟩,
    fun x hx hhigh => ⟨fun hserved => ⟨fun hread => ?_, fun hread => ?_, ?_⟩, fun hserved => ⟨?_, ?_⟩⟩⟩
  · simp only [List.mem_cons, List.not_mem_nil, or_false] at hc
    obtain rfl | rfl | rfl | rfl := hc
    · rw [exec_cxlMemLoad, State.atHdm_outside h hx]
    · rw [exec_cxlMemStore, State.atHdm_outside h hx]
    · rw [exec_queueWindowLoad, State.atHdm_outside h hx]
    · rw [exec_queueWindowStore, State.atHdm_outside h hx]
  · exact ⟨_, by rw [exec_queueWindowStore, State.atHdm_inside h hx, if_pos hlow], State.windowStore_stores hserved x data⟩
  · rw [exec_queueWindowLoad, State.atHdm_inside h hx, if_pos hlow, State.windowLoad_good hserved hgood]
  · rw [exec_queueWindowLoad, State.atHdm_inside h hx, if_pos hlow, State.windowLoad_poison (.inr hbad)]
  · rw [exec_queueWindowStore, State.atHdm_inside h hx, if_pos hlow, State.windowStore, if_neg (by simp [hserved])]
  · rw [exec_queueWindowLoad, State.atHdm_inside h hx, if_pos hlow, State.windowLoad_poison (.inl hserved)]
  · rw [exec_cxlMemLoad, State.atHdm_inside h hx, if_neg (Nat.not_lt.2 hhigh), State.hostLoad_good hserved hread]
    rfl
  · rw [exec_cxlMemLoad, State.atHdm_inside h hx, if_neg (Nat.not_lt.2 hhigh), State.hostLoad_poison (.inr hread)]
  · rw [exec_cxlMemStore, State.atHdm_inside h hx, if_neg (Nat.not_lt.2 hhigh), State.hostStore, if_neg (by simp [hserved])]
    rfl
  · rw [exec_cxlMemLoad, State.atHdm_inside h hx, if_neg (Nat.not_lt.2 hhigh), State.hostLoad_poison (.inl hserved)]
  · rw [exec_cxlMemStore, State.atHdm_inside h hx, if_neg (Nat.not_lt.2 hhigh), State.hostStore, if_pos (by simp [hserved])]

/-! ## The link -/

theorem exec_linkTrained (w r : Nat) (s : State) :
    exec (.linkTrained w r) s = .next (if s.mayLink ∧ linkOk w r then s.linkUp w r else s) := rfl
theorem exec_linkDown (s : State) : exec .linkDown s = .next (if s.hears then s.linkLost else s) := rfl
theorem exec_hotReset (s : State) : exec .hotReset s = .next (if s.hears then s.linkLost else s) := rfl
theorem exec_perstAssert (s : State) : exec .perstAssert s = .next (if s.hears then s.linkLost.perstLow else s.perstLow) := rfl
theorem exec_perstDeassert (clk : Bool) (s : State) : exec (.perstDeassert clk) s =
    .next (if s.host.perst then s else s.setHost { s.host with perst := true, commonClock := clk }) := rfl
theorem exec_configRequest (ms off : Nat) (s : State) : exec (.configRequest ms off) s =
    .next (if !s.hears then s else if ms < 60 then s.send .configRetry else s.configFull (off / 4 * 4)) := rfl
theorem exec_hdmDecoderCommit (base : Nat) (s : State) : exec (.hdmDecoderCommit base) s =
    .next (if s.hears then s.setHost { s.host with hdmBase := some (base / 2 ^ 28 * 2 ^ 28) } else s) := rfl
theorem exec_globalPersistentFlush (s : State) :
    exec .globalPersistentFlush s = .next (if s.hears then s.send .gpfAck else s) := rfl

theorem State.raiseMsix_link (s : State) (v : Nat) : (s.raiseMsix v).host.link = s.host.link := by
  unfold State.raiseMsix State.send
  split_ifs <;> rfl

theorem State.raiseAll_link (l : List Nat) (s : State) : (l.foldl (fun (s : State) v => s.raiseMsix v) s).host.link = s.host.link := by
  induction l generalizing s with
  | nil => rfl
  | cons v l ih => rw [List.foldl_cons, ih, State.raiseMsix_link]

theorem State.linkUp_link (s : State) (w r : Nat) : (s.linkUp w r).host.link = some (w, r) := by
  rw [State.linkUp, State.raiseAll_link, State.setHost_host]

theorem State.linkUp_quiet (h : s.host.msixPending = []) (w r : Nat) :
    s.linkUp w r = s.setHost { s.host with link := some (w, r) } := by
  rw [State.linkUp, h, List.foldl_nil, ← h]

/-! ## Configuration requests -/

/-- What lies past the identity: the size of the HDM range at its place in the DVSEC, and else free double words. -/
theorem State.configWord_other (s : State) {o : Nat} (h0 : o ≠ 0) (h8 : o ≠ 8) (h2c : o ≠ 0x2C) :
    s.OnlyParts (s.configWord o).2 [.freeCtr] ∧
      (o = Config.dvsecAt + 0x18 → s.configWord o = ((2 ^ 28 + 2 ^ 30 * s.fget F.depHostwinSizeGib 0) / 2 ^ 32, s)) := by
  rw [State.configWord, if_neg h0, if_neg h8, if_neg h2c]
  split
  · exact ⟨.refl s _, fun _ => rfl⟩
  · next hd =>
    refine ⟨?_, fun h => absurd h hd⟩
    split <;> exact s.setFreeCtr_onlyParts _

theorem State.configFull_identity (s : State) : s.configFull 0 = s.send (.configAnswer 0x64202A5E) ∧
    s.configFull 0x2C = s.send (.configAnswer 0x64202A5E) ∧
    s.configFull 8 = s.send (.configAnswer (s.fget F.glbIdStepping 0 + 0x05021000)) := ⟨rfl, rfl, rfl⟩

theorem State.configFull_other (s : State) {o : Nat} (h0 : o ≠ 0) (h8 : o ≠ 8) (h2c : o ≠ 0x2C) :
    s.OnlyParts (s.configFull o) [.host, .freeCtr] ∧
      (s.configFull o).host = { s.host with outbox := s.host.outbox ++ [.configAnswer (s.configWord o).1] } ∧
      (o = Config.dvsecAt + 0x18 → (s.configFull o).freeCtr = s.freeCtr ∧
        (s.configWord o).1 = (2 ^ 28 + 2 ^ 30 * s.fget F.depHostwinSizeGib 0) / 2 ^ 32) := by
  obtain ⟨hparts, hdvsec⟩ := s.configWord_other h0 h8 h2c
  refine ⟨(hparts.mono (by decide)).next (State.setHost_onlyParts _ _), ?_, fun ho => ?_⟩
  · rw [State.configFull, State.send_host, hparts .host (by decide)]
  · rw [State.configFull, State.send_freeCtr, hdvsec ho]
    exact ⟨rfl, rfl⟩

/-- Settles O34: the link, its reset pin, configuration requests by their offset, the decoder and the flush. -/
theorem linkEvents : Obligations.LinkEvents := by
  refine fun s => ⟨fun w r hmay hok => ⟨_, by rw [exec_linkTrained, if_pos ⟨hmay, hok⟩], s.linkUp_link w r, fun hquiet => State.linkUp_quiet hquiet w r⟩,
    fun h => ⟨?_, ?_, ?_⟩, fun h => ⟨?_, ?_, ?_⟩, fun clk => ⟨fun hlow => ?_, fun hhigh => ?_⟩,
    fun h => ⟨fun ms off hms => ?_, fun ms off hms => ?_, fun base => ?_, ?_⟩⟩
  · rw [exec_linkDown, if_pos h]
  · rw [exec_hotReset, if_pos h]
  · rw [exec_perstAssert, if_pos h]
    rfl
  · rw [exec_linkDown, if_neg (by simp [h])]
  · rw [exec_hotReset, if_neg (by simp [h])]
  · rw [exec_perstAssert, if_neg (by simp [h])]
    rfl
  · rw [exec_perstDeassert, if_neg (by simp [hlow])]
  · rw [exec_perstDeassert, if_pos hhigh]
  · rw [exec_configRequest, if_neg (by simp [h]), if_pos hms]
  · rw [exec_configRequest, if_neg (by simp [h]), if_neg (Nat.not_lt.2 hms)]
    obtain ⟨hvendor, hsubsystem, hclass⟩ := s.configFull_identity
    refine ⟨?_, fun hoff => by rw [hoff, hclass], fun hoff => ?_⟩
    · rintro (hoff | hoff)
      · rw [hoff, hvendor]
      · rw [hoff, hsubsystem]
    · simp only [List.mem_cons, List.not_mem_nil, or_false, not_or] at hoff
      obtain ⟨hparts, hhost, hdvsec⟩ := s.configFull_other (o := off / 4 * 4) (by omega) (by omega) (by omega)
      exact ⟨_, _, rfl, hparts, hhost, hdvsec⟩
  · rw [exec_hdmDecoderCommit, if_pos h]
  · rw [exec_globalPersistentFlush, if_pos h]

end

end Sys2Proof.Machine
end

section
/-! SUPPORT. Counter control (R98, R603), the clears of the correctable-error logs (R563) and raw reads (R497, R510). -/

namespace Sys2Proof.Machine

/-! ## Runs of register words -/

/-- `n` words from `base` on, in two registers, cleared one after another, as the logs' clears do. -/
def State.clearRun (s : State) (r q : Reg) (base n : Nat) : State :=
  (List.range n).foldl (fun (s : State) e => (s.rset r (base + e) 0).rset q (base + e) 0) s

theorem State.clearStackLog_eq (s : State) (n : Nat) : s.clearStackLog n = s.clearRun .memCeLog .memCeLog1 (32 * n) 32 := rfl
theorem State.clearStationLog_eq (s : State) (st : Nat) : s.clearStationLog st = s.clearRun .stnCeLog .stnCeLog1 (16 * st) 16 := rfl

theorem State.clearRun_clears (r q : Reg) (hrq : r ≠ q) (base n : Nat) (s : State) : let t := s.clearRun r q base n
    (∀ e < n, t.rget r (base + e) = 0 ∧ t.rget q (base + e) = 0) ∧
      s.Within t [.regs] (fun x i => (x = r ∨ x = q) ∧ base ≤ i ∧ i < base + n) := by
  induction n with
  | zero => exact ⟨nofun, .refl s _ _⟩
  | succ n ih =>
    obtain ⟨hzero, hwithin⟩ := ih
    simp only [State.clearRun, List.range_succ, List.foldl_append, List.foldl_cons, List.foldl_nil] at hzero hwithin ⊢
    refine ⟨fun e he => ?_, (hwithin.mono (by simp) fun _ _ h => ⟨h.1, h.2.1, by omega⟩).trans ⟨by simp [State.onlyParts_iff], ?_⟩⟩
    · obtain hlt | rfl := Nat.lt_succ_iff_lt_or_eq.1 he
      · simpa [State.rget_rset, Nat.ne_of_lt hlt] using hzero e hlt
      · simp [State.rget_rset, hrq]
    · intro x i hx
      by_cases hi : i = base + n
      · have hr : x ≠ r ∧ x ≠ q := not_or.1 fun h => hx ⟨h, by omega, by omega⟩
        simp [State.rget_rset, hr]
      · simp [State.rget_rset, hi]

/-- The first `n` counter words of a station copied to its snapshot. -/
def State.snapRun (s : State) (st n : Nat) : State :=
  (List.range n).foldl (fun (s : State) k => s.rset .stnLrSnap (528 * st + k) (s.rget .stnLrCtr (528 * st + k))) s

theorem State.snapCounters_eq (s : State) (st : Nat) : s.snapCounters st = s.snapRun st 528 := rfl


theorem State.snapRun_copies (s : State) (st : Nat) {n : Nat} (hn : n ≤ 528) : let t := s.snapRun st n
    (∀ k < n, t.rget .stnLrSnap (528 * st + k) = s.rget .stnLrCtr (528 * st + k)) ∧
      s.Within t [.regs] (fun r i => r = .stnLrSnap ∧ i / 528 = st) := by
  induction n with
  | zero => exact ⟨nofun, .refl s _ _⟩
  | succ n ih =>
    obtain ⟨hsnap, hwithin⟩ := ih (Nat.le_of_succ_le hn)
    simp only [State.snapRun, List.range_succ, List.foldl_append, List.foldl_cons, List.foldl_nil] at hsnap hwithin ⊢
    refine ⟨fun k hk => ?_, hwithin.trans ⟨State.rset_onlyParts _ _ _ _, (State.rset_onlyRegs _ _ _ _).mono ?_⟩⟩
    · obtain hlt | rfl := Nat.lt_succ_iff_lt_or_eq.1 hk
      · rw [State.rget_rset_index _ _ _ _ (by omega)]
        exact hsnap k hlt
      · rw [State.rget_rset_same]
        exact hwithin.regs _ _ (by simp)
    · rintro r i ⟨rfl, rfl⟩
      exact ⟨rfl, by omega⟩

/-! ## The commands -/

section
variable {s : State}

theorem exec_counterSnapshot (w : CtrCtlWrite) (s : State) : exec (.counterSnapshot w) s = .next (s.ctrCtl w.station true w.both) := rfl
theorem exec_counterClear (w : CtrCtlWrite) (s : State) : exec (.counterClear w) s = .next (s.ctrCtl w.station w.both true) := rfl
theorem exec_stackCeLogClear (n : StackId) (s : State) : exec (.stackCeLogClear n) s =
    .next (if s.fbit F.memStackStateFenced n.val then s.openWrite (0x1000100 + 0x10000 * n.val) fun s => s
      else s.woWrite (0x1000100 + 0x10000 * n.val) fun s => s.clearStackLog n.val) := rfl
theorem exec_stationCeLogClear (st : StationId) (s : State) : exec (.stationCeLogClear st) s =
    .next (if s.fbit F.stnStateFenced st.val then s.openWrite (0x800F18 + 0x10000 * st.val) fun s => s
      else s.woWrite (0x800F18 + 0x10000 * st.val) fun s => s.clearStationLog st.val) := rfl
theorem exec_rawReadStart (s : State) : exec .rawReadStart s = .next (s.lockWrite 0x1408008 State.rawStart) := rfl
theorem exec_rawReadDone (ok : Bool) (data : List Byte) (s : State) : exec (.rawReadDone ok data) s = .next (s.rawEnd ok data) := rfl

theorem State.ctrCtl_open (h : s.hears = true) {st : Nat} (hf : s.fget F.stnStateFenced st = 0) (snap clear : Bool) :
    s.ctrCtl st snap clear = (s.dropHeld (0x800F00 + 0x10000 * st)).ctrDo st snap clear := by
  rw [State.ctrCtl, State.openWrite_heard h, if_neg (by simp [State.fbit, hf])]

theorem State.ctrCtl_fenced (h : s.hears = true) {st : Nat} (hf : s.fget F.stnStateFenced st = 1) (snap clear : Bool) :
    s.ctrCtl st snap clear = s.dropHeld (0x800F00 + 0x10000 * st) := by
  rw [State.ctrCtl, State.openWrite_heard h, if_pos (by simp [State.fbit, hf])]

theorem counterSnapshot_copies (h : s.hears = true) {st : StationId} (hf : s.fget F.stnStateFenced st = 0) :
    ∃ t, exec (.counterSnapshot ⟨st, false⟩) s = .next t ∧
      (∀ k < 528, t.rget .stnLrSnap (528 * st + k) = s.rget .stnLrCtr (528 * st + k)) ∧
      s.OnlyRegs t (fun r i => r = .stnLrSnap ∧ i / 528 = st.val) ∧ s.OnlyParts t [.regs, .host] := by
  have hdrop := s.dropHeld_onlyParts (0x800F00 + 0x10000 * st)
  obtain ⟨hcopy, hwithin⟩ := (s.dropHeld (0x800F00 + 0x10000 * st)).snapRun_copies st (Nat.le_refl 528)
  exact ⟨_, by rw [exec_counterSnapshot, State.ctrCtl_open h hf]; rfl, fun k hk => by rw [hcopy k hk, State.dropHeld_rget],
    (hdrop.regs _).trans hwithin.regs, (hdrop.mono (by decide)).next hwithin.parts⟩

/-- A log's clear, whatever the lock: the words of its unit read 0; with the lock clear nothing else changes. -/
theorem State.woWrite_clears (h : s.hears = true) (off : Nat) {r q : Reg} (hrq : r ≠ q) (base n : Nat) {Q : Reg → Nat → Prop}
    (hQ : ∀ x i, (x = r ∨ x = q) ∧ base ≤ i ∧ i < base + n → Q x i) :
    let t := s.woWrite off fun s => s.clearRun r q base n
    (∀ e < n, t.rget r (base + e) = 0 ∧ t.rget q (base + e) = 0) ∧
      (s.locked = false → s.OnlyRegs t Q ∧ s.OnlyParts t [.regs, .host]) := by
  intro t
  refine ⟨?_, fun hl => ?_⟩
  · have ht : t = _ := State.openWrite_heard h off _
    rw [ht]
    exact (State.clearRun_clears r q hrq base n _).1
  · have ht : t = _ := State.Open.woWrite ⟨h, hl⟩ off _
    have hwithin := (State.clearRun_clears r q hrq base n (s.dropHeld off)).2
    rw [ht]
    exact ⟨((s.dropHeld_onlyParts off).regs _).trans (hwithin.regs.mono hQ),
      ((s.dropHeld_onlyParts off).mono (by decide)).next hwithin.parts⟩

theorem stationCeLogClear_clears (h : s.hears = true) {st : StationId} (hf : s.fget F.stnStateFenced st = 0) :
    ∃ t, exec (.stationCeLogClear st) s = .next t ∧
      (∀ e < 16, t.rget .stnCeLog (16 * st + e) = 0 ∧ t.rget .stnCeLog1 (16 * st + e) = 0) ∧
      (s.locked = false → s.OnlyRegs t (fun r i => (r = .stnCeLog ∨ r = .stnCeLog1) ∧ i / 16 = st.val) ∧ s.OnlyParts t [.regs, .host]) :=
  ⟨_, by simp only [exec_stationCeLogClear, State.clearStationLog_eq]; rw [if_neg (by simp [State.fbit, hf])],
    State.woWrite_clears h _ (by decide) (16 * st.val) 16 fun _ _ hx => ⟨hx.1, by omega⟩⟩

theorem stackCeLogClear_clears (h : s.hears = true) {n : StackId} (hf : s.fget F.memStackStateFenced n = 0) :
    ∃ t, exec (.stackCeLogClear n) s = .next t ∧
      (∀ e < 32, t.rget .memCeLog (32 * n + e) = 0 ∧ t.rget .memCeLog1 (32 * n + e) = 0) ∧
      (s.locked = false → s.OnlyRegs t (fun r i => (r = .memCeLog ∨ r = .memCeLog1) ∧ i / 32 = n.val) ∧ s.OnlyParts t [.regs, .host]) :=
  ⟨_, by simp only [exec_stackCeLogClear, State.clearStackLog_eq]; rw [if_neg (by simp [State.fbit, hf])],
    State.woWrite_clears h _ (by decide) (32 * n.val) 32 fun _ _ hx => ⟨hx.1, by omega⟩⟩

/-! ## Raw reads -/

theorem State.rawStart_busy (h : s.fget F.flsRawCtlBusy 0 = 1) : s.rawStart = s := if_pos (by simp [State.fbit, h])

theorem State.rawStart_idle (h : s.fget F.flsRawCtlBusy 0 = 0) :
    let s1 := (s.fset F.flsRawCtlBusy 0 1).setFlash { s.flash with raw := some (s.rget .flsRawAddr 0).toNat }
    (s.rawInRange = false ∨ s.rawErasing = true → s.rawStart = s1) ∧
      (s.rawInRange = true → s.rawErasing = false →
        s.rawStart = (s1.bump F.flsCtrCount 0 1).suspendFor (groupOfDie s.rawDie)) := by
  intro s1
  have hidle : s.rawStart = if !s.rawInRange ∨ s.rawErasing then s1 else (s1.bump F.flsCtrCount 0 1).suspendFor (groupOfDie s.rawDie) :=
    if_neg (by simp [State.fbit, h])
  rw [hidle]
  exact ⟨fun hout => if_pos (by simpa using hout), fun hin hidle => if_neg (by simp [hin, hidle])⟩

theorem State.rawEnd_cases {w : Nat} (h : s.flash.raw = some w) (ok : Bool) (data : List Byte) :
    let a := s.rset .flsRawAddr 0 (BitVec.ofNat 64 w)
    let s1 := (s.setFlash { s.flash with raw := none }).fset F.flsRawCtlBusy 0 0
    s.rawEnd ok data = if !a.rawInRange then s1.fset F.flsRawCtlStatus 0 0x1001
      else if a.rawErasing then (s1.bump F.flsCtrCount 6 1).fset F.flsRawCtlStatus 0 0x2004
      else (s1.rsetBytes .flsRawData 0 (padTo 4096 data)).fset F.flsRawCtlStatus 0 (if ok then 0 else 0x2001) := by
  rw [State.rawEnd, h]

end

/-- Settles O33: counter control and log clears by FENCED, and raw reads by BUSY, the geometry and the block's state. -/
theorem countersAndLogs : Obligations.CountersAndLogs := by
  refine ⟨fun s st h => ⟨fun hf => ⟨counterSnapshot_copies h hf, fun snap => ?_, rfl, stationCeLogClear_clears h hf⟩,
      fun hf => ⟨fun b c hc => ?_, ?_⟩⟩,
    fun s n h => ⟨stackCeLogClear_clears h, fun hf => ?_⟩,
    fun s h => ⟨fun hbusy => ?_, fun hbusy => ?_⟩,
    fun s w ok data hraw => ⟨fun hrange => ?_, fun hrange herase => ?_, fun hrange herase => ?_⟩⟩
  · rw [exec_counterClear, State.ctrCtl_open h hf]
    rfl
  · simp only [List.mem_cons, List.not_mem_nil, or_false] at hc
    obtain rfl | rfl := hc
    · rw [exec_counterSnapshot, State.ctrCtl_fenced h hf]
    · rw [exec_counterClear, State.ctrCtl_fenced h hf]
  · rw [exec_stationCeLogClear, if_pos (by simp [State.fbit, hf]), State.openWrite_heard h]
  · rw [exec_stackCeLogClear, if_pos (by simp [State.fbit, hf]), State.openWrite_heard h]
  · rw [exec_rawReadStart, h.lockWrite, State.rawStart_busy (by simpa using hbusy)]
  · rw [exec_rawReadStart, h.lockWrite]
    obtain ⟨hsilent, hissued⟩ := State.rawStart_idle (s := s.dropHeld 0x1408008) (by simpa using hbusy)
    exact ⟨fun hout => congrArg _ (hsilent hout), fun hin hidle => congrArg _ (hissued hin hidle)⟩
  · rw [exec_rawReadDone, State.rawEnd_cases hraw, if_pos (by simp [hrange])]
  · rw [exec_rawReadDone, State.rawEnd_cases hraw, if_neg (by simp [hrange]), if_pos herase]
  · rw [exec_rawReadDone, State.rawEnd_cases hraw, if_neg (by simp [hrange]), if_neg (by simp [herase])]

end Sys2Proof.Machine
end

section
/-! SUPPORT. JOB_SIGNAL (R291, R454) and RUN (R287, R451 to R453) taken. -/

namespace Sys2Proof.Machine

/-! ## Commands that have their outcome -/

theorem State.finish_onlyParts (s : State) (p status result : Nat) : s.OnlyParts (s.finish p status result) [.host] := by
  unfold State.finish
  split
  · exact s.setHost_onlyParts _
  · exact .refl s _

theorem State.finish_cmd {s : State} {p : Nat} (h : s.open p = true) (status result : Nat) :
    (s.finish p status result).cmd p = { s.cmd p with ready := true, status := status, result := result } := by
  rw [State.finish_open h, State.cmd_setCmd_same]

/-- The commands that wait are given status 0. -/
def State.finishAll (s : State) (ps : List Nat) : State := ps.foldl (fun (s : State) p => if s.open p then s.finish p 0 0 else s) s

theorem State.finishIf_onlyParts (s : State) (p : Nat) : s.OnlyParts (if s.open p then s.finish p 0 0 else s) [.host] := by
  split
  · exact s.finish_onlyParts _ _ _
  · exact .refl s _

theorem State.finishAll_onlyParts (s : State) (ps : List Nat) : s.OnlyParts (s.finishAll ps) [.host] := by
  induction ps generalizing s with
  | nil => exact .refl s _
  | cons p ps ih => exact (s.finishIf_onlyParts p).trans (ih _)

theorem State.finishAll_concat_cmd {s : State} {p : Nat} (h : s.open p = true) (ps : List Nat) :
    (s.finishAll (ps ++ [p])).cmd p = { s.cmd p with ready := true, status := 0, result := 0 } := by
  induction ps generalizing s with
  | nil => simp [State.finishAll, h, State.finish_cmd h]
  | cons k ps ih =>
    have hstep : s.finishAll (k :: ps ++ [p]) = (if s.open k then s.finish k 0 0 else s).finishAll (ps ++ [p]) := rfl
    rw [hstep]
    by_cases hk : k = p
    · subst hk
      rw [if_pos h, ih (by simpa [State.open, State.finish_cmd h] using h), State.finish_cmd h]
    · have hother : (if s.open k then s.finish k 0 0 else s).cmd p = s.cmd p := by
        split
        · next hopen => rw [State.finish_open hopen, State.cmd_setCmd, if_neg (Ne.symm hk)]
        · rfl
      rw [ih (by rw [State.open, hother]; exact h), hother]

/-! ## JOB_SIGNAL -/

/-- The effect of a signal by its code; a code that R291 does not list is refused as HOLD's fields are. -/
def signalRun (code : Nat) : Nat → Nat → List Byte → State → State :=
  if code = 1 then State.signalUnhold else if code = 2 then State.signalEnd else if code = 3 then State.signalWeight else State.signalHold

section
variable {s s0 : State} {q : QueueId} {p : Nat} {e : List Byte}

theorem exec_jobSignal_taken (h : s.TakesNext q p e s0) (hop : sqOpcode e = 0x11) :
    let code := byteField e 9 1
    let c : Instr := if code = 1 then .jobSignalUnhold q else if code = 2 then .jobSignalEnd q
        else if code = 3 then .jobSignalWeight q else .jobSignalHold q
    exec c s = .next (State.signalled (signalRun code) p e s0) := by
  have hunhold : exec (.jobSignalUnhold q) s =
      .next (s.onEntry q (fun e => sqOpcode e = 0x11 && byteField e 9 1 = 1) (State.signalled State.signalUnhold)) := rfl
  have hend : exec (.jobSignalEnd q) s =
      .next (s.onEntry q (fun e => sqOpcode e = 0x11 && byteField e 9 1 = 2) (State.signalled State.signalEnd)) := rfl
  have hweight : exec (.jobSignalWeight q) s =
      .next (s.onEntry q (fun e => sqOpcode e = 0x11 && byteField e 9 1 = 3) (State.signalled State.signalWeight)) := rfl
  have hhold : exec (.jobSignalHold q) s = .next (s.onEntry q (fun e => sqOpcode e = 0x11 && (byteField e 9 1 = 0 || byteField e 9 1 > 3))
      (State.signalled State.signalHold)) := rfl
  intro code c
  by_cases h1 : code = 1
  · rw [show c = .jobSignalUnhold q from if_pos h1, hunhold, h.onEntry _ _ (by simpa [hop] using h1), signalRun, if_pos h1]
  · by_cases h2 : code = 2
    · rw [show c = .jobSignalEnd q by simp [c, h2], hend, h.onEntry _ _ (by simpa [hop] using h2), signalRun, if_neg h1, if_pos h2]
    · by_cases h3 : code = 3
      · rw [show c = .jobSignalWeight q by simp [c, h3], hweight, h.onEntry _ _ (by simpa [hop] using h3), signalRun, if_neg h1, if_neg h2,
          if_pos h3]
      · have hother : code = 0 ∨ 3 < code := by omega
        rw [show c = .jobSignalHold q by simp [c, h1, h2, h3], hhold, h.onEntry _ _ (by simpa [hop] using hother), signalRun, if_neg h1,
          if_neg h2, if_neg h3]

theorem State.signalled_fails (run : Nat → Nat → List Byte → State → State)
    (hbad : signalFields e = false ∨ byteField e 8 1 = 0 ∨ s.jobBound (byteField e 8 1) = false) :
    State.signalled run p e s = s.fail p 0x1001 := by
  rw [State.signalled, if_pos (by simpa using hbad)]

theorem State.signalled_runs (run : Nat → Nat → List Byte → State → State) (hfields : signalFields e = true) (hj : byteField e 8 1 ≠ 0)
    (hbound : s.jobBound (byteField e 8 1) = true) : State.signalled run p e s = run (byteField e 8 1) p e s := by
  rw [State.signalled, if_neg (by simp [hfields, hj, hbound])]

theorem State.jobSt_of_bound {j : Nat} (h : s.jobBound j = true) : s.jobSt j ≠ 6 := fun h6 => by simp [State.jobBound, h6] at h

theorem State.settleSignals_running {j : Nat} (h : s.jobSt j ≠ 6) (hrun : (s.job j).run ≠ none) : s.settleSignals j = s := by
  simp [State.settleSignals, hrun, h]

theorem State.settleSignals_idle {j : Nat} (h : s.jobSt j ≠ 6) (hrun : (s.job j).run = none) :
    s.settleSignals j = (s.finishAll (s.job j).holdWait).setJob j { s.job j with holdWait := [] } := by
  have hst : ((s.finishAll (s.job j).holdWait).setJob j { s.job j with holdWait := [] }).jobSt j = s.jobSt j := by
    rw [State.jobSt, State.setJob_fget, (s.finishAll_onlyParts _).fget]
    rfl
  rw [State.settleSignals]
  simp only [hrun, Option.isNone_none, if_true]
  exact if_neg (by rw [← hst] at h; exact h)

/-- A job with HOLD set and one more command that waits for its run to end. -/
def State.heldBy (s : State) (j p : Nat) : State :=
  (s.fset F.jobStateHold j 1).setJob j { s.job j with holdWait := (s.job j).holdWait ++ [p] }

theorem State.heldBy_facts (s : State) (j p : Nat) : let t := s.heldBy j p
    t.fget F.jobStateHold j = 1 ∧ t.jobSt j = s.jobSt j ∧ t.cmd p = s.cmd p ∧ t.open p = s.open p ∧
      t.job j = { s.job j with holdWait := (s.job j).holdWait ++ [p] } ∧ s.Within t [.regs, .jobs] (fun r i => r = .jobState ∧ i = j) := by
  refine ⟨?_, ?_, rfl, rfl, ?_, by simp [State.heldBy, State.onlyParts_iff], by simp [State.heldBy, F.jobStateHold]⟩
  · rw [State.heldBy, State.setJob_fget, State.fget_fset_same _ _ _ _ (by decide)]
    rfl
  · rw [State.jobSt, State.heldBy, State.setJob_fget, State.fget_fset_of_apart _ _ _ _ (by decide), State.jobSt]
  · rw [State.heldBy, State.job_setJob, if_pos rfl]

theorem State.signalHold_running {j : Nat} (hbound : s.jobBound j = true) {r : Run} (hrun : (s.job j).run = some r) :
    let t := State.signalHold j p e s
    t.fget F.jobStateHold j = 1 ∧ t.cmd p = s.cmd p ∧ t.job j = { s.job j with holdWait := (s.job j).holdWait ++ [p] } ∧
      s.OnlyRegs t (fun r i => r = .jobState ∧ i = j) ∧ s.OnlyParts t [.regs, .jobs] := by
  obtain ⟨hhold, hst, hcmd, -, hjob, hwithin⟩ := s.heldBy_facts j p
  have ht : State.signalHold j p e s = s.heldBy j p :=
    State.settleSignals_running (s := s.heldBy j p) (hst ▸ State.jobSt_of_bound hbound) (by rw [hjob]; simp [hrun])
  rw [ht]
  exact ⟨hhold, hcmd, hjob, hwithin.regs, hwithin.parts⟩

theorem State.signalHold_idle {j : Nat} (hbound : s.jobBound j = true) (hopen : s.open p = true) (hrun : (s.job j).run = none) :
    let t := State.signalHold j p e s
    t.fget F.jobStateHold j = 1 ∧ t.cmd p = { s.cmd p with ready := true, status := 0, result := 0 } ∧
      t.job j = { s.job j with holdWait := [] } ∧
      s.OnlyRegs t (fun r i => r = .jobState ∧ i = j) ∧ s.OnlyParts t [.regs, .jobs, .host] := by
  obtain ⟨hhold, hst, hcmd, hopens, hjob, hwithin⟩ := s.heldBy_facts j p
  have ht : State.signalHold j p e s = ((s.heldBy j p).finishAll ((s.job j).holdWait ++ [p])).setJob j { s.job j with holdWait := [] } := by
    have hsettled := State.settleSignals_idle (s := s.heldBy j p) (j := j) (hst ▸ State.jobSt_of_bound hbound) (by rw [hjob]; exact hrun)
    rw [hjob] at hsettled
    exact hsettled
  have hall := (s.heldBy j p).finishAll_onlyParts ((s.job j).holdWait ++ [p])
  rw [ht]
  refine ⟨?_, ?_, ?_, (hwithin.regs.trans (hall.regs _)).trans (by simp),
    ((hwithin.parts.mono (by decide)).next hall).next (State.setJob_onlyParts _ _ _)⟩
  · rw [State.setJob_fget, hall.fget, hhold]
  · rw [← hcmd, ← State.finishAll_concat_cmd (by rw [hopens]; exact hopen)]
    rfl
  · rw [State.job_setJob, if_pos rfl]

theorem State.signalUnhold_plain {j : Nat} (hopen : s.open p = true) (hplain : s.fget F.jobStateHold j = 0 ∨ (s.job j).run.isSome = true) :
    let t := State.signalUnhold j p e s
    t.fget F.jobStateHold j = 0 ∧ t.cmd p = { s.cmd p with ready := true, status := 0, result := 0 } ∧
      s.OnlyRegs t (fun r i => r = .jobState ∧ i = j) ∧ s.OnlyParts t [.regs, .host] := by
  have ht : State.signalUnhold j p e s = (s.fset F.jobStateHold j 0).finish p 0 0 := if_neg fun ⟨hnone, hheld⟩ => by
    obtain hclear | hrun := hplain
    · simp [State.fbit, hclear] at hheld
    · simp [Option.isNone_iff_eq_none.1 hnone] at hrun
  have hdone := (s.fset F.jobStateHold j 0).finish_onlyParts p 0 0
  rw [ht]
  refine ⟨?_, State.finish_cmd (s := s.fset F.jobStateHold j 0) hopen 0 0, (s.fset_onlyRegs _ _ _).trans (hdone.regs _),
    ((s.fset_onlyParts _ _ _).mono (by decide)).next hdone⟩
  rw [hdone.fget, State.fget_fset_same _ _ _ _ (by decide)]
  rfl

theorem State.signalWeight_stores {j : Nat} (hopen : s.open p = true) : let t := State.signalWeight j p e s
    t.fget F.jobCfgWeight j = byteField e 12 4 % 2 ^ 10 ∧ t.cmd p = { s.cmd p with ready := true, status := 0, result := 0 } ∧
      s.OnlyRegs t (fun r i => r = .jobCfg ∧ i = j) ∧ s.OnlyParts t [.regs, .host] := by
  have hdone := (s.fset F.jobCfgWeight j (byteField e 12 4)).finish_onlyParts p 0 0
  rw [State.signalWeight]
  refine ⟨?_, State.finish_cmd (s := s.fset F.jobCfgWeight j (byteField e 12 4)) hopen 0 0, (s.fset_onlyRegs _ _ _).trans (hdone.regs _),
    ((s.fset_onlyParts _ _ _).mono (by decide)).next hdone⟩
  rw [hdone.fget, State.fget_fset_same _ _ _ _ (by decide)]
  rfl

/-! ## RUN -/

theorem exec_run_taken (h : s.TakesNext q p e s0) (hop : sqOpcode e = 0x10) : exec (.run q) s = .next (State.runTaken p e s0) := by
  have hrun : exec (.run q) s = .next (s.onEntry q (fun e => sqOpcode e = 0x10) State.runTaken) := rfl
  rw [hrun, h.onEntry _ _ (by simp [hop])]

/-- A request that is no batch goes to the tail of its job's queue. -/
theorem State.requestRun_command (s : State) (j p : Nat) : let queue := (s.job j).queue ++ [(.command p, s.homeCyc j)]
    s.requestRun j (.command p) false =
      (((s.setJob j { s.job j with queue := queue }).fset F.jobStatePending j queue.length).expressReady j).refresh j := by
  simp [State.requestRun, State.placeOf]

/-- A RUN that passes the checks of every RUN. -/
structure State.RunOpen (s : State) (e : List Byte) : Prop where
  fields : runFields e = true
  takes : s.refusesRun (ruJob e) = false
  noHome : s.homeOf (ruJob e) = none

/-- A RUN with rows that passes its checks. -/
structure State.RowsOpen (s : State) (e : List Byte) : Prop extends s.RunOpen e where
  batches : s.fget F.jobBatchCfgEnabled (ruJob e) = 1
  rows : runRowsOk e = true
  kept : s.runKept e = false
  sizes : s.sizesOk (ruJob e) e = true

theorem State.runTaken_refused (hbad : runFields e = false ∨ s.refusesRun (ruJob e) = true ∨ (s.homeOf (ruJob e)).isSome = true) :
    State.runTaken p e s = s.fail p 0x1001 := by
  rw [State.runTaken, if_pos (by simpa using hbad)]

theorem State.RunOpen.taken (h : s.RunOpen e) : State.runTaken p e s =
    if !s.fbit F.jobBatchCfgEnabled (ruJob e) then
      if !runPlain e then s.fail p 0x1001
      else if s.jobTouchesMedia (ruJob e) ∧ s.mediaBusy ≠ 0 then s.fail p s.mediaBusy
      else s.requestRun (ruJob e) (.command p) false
    else if !runRowsOk e ∨ s.runKept e ∨ !s.sizesOk (ruJob e) e then s.fail p 0x1001
    else if s.runMedia (ruJob e) e ∧ s.mediaBusy ≠ 0 then s.fail p s.mediaBusy
    else
      match s.giveStaging (ruJob e) e with
      | none => s.fail p 0x4008
      | some s1 => (s1.askRows p e).joinRows p (ruJob e) e :=
  if_neg (by simp [h.fields, h.takes, h.noHome])

theorem State.RunOpen.taken_plain (h : s.RunOpen e) (hen : s.fget F.jobBatchCfgEnabled (ruJob e) = 0) :
    (runPlain e = false → State.runTaken p e s = s.fail p 0x1001) ∧
      (runPlain e = true →
        (s.jobTouchesMedia (ruJob e) = true → s.mediaBusy ≠ 0 → State.runTaken p e s = s.fail p s.mediaBusy) ∧
        ((s.jobTouchesMedia (ruJob e) = false ∨ s.mediaBusy = 0) → State.runTaken p e s = s.requestRun (ruJob e) (.command p) false)) := by
  rw [h.taken, if_pos (by simp [State.fbit, hen])]
  refine ⟨fun hplain => if_pos (by simp [hplain]), fun hplain => ⟨fun hmedia hbusy => ?_, fun hfree => ?_⟩⟩
  · rw [if_neg (by simp [hplain]), if_pos ⟨hmedia, hbusy⟩]
  · rw [if_neg (by simp [hplain]), if_neg]
    rintro ⟨hmedia, hbusy⟩
    exact hfree.elim (fun hno => by simp [hno] at hmedia) hbusy

theorem State.RunOpen.taken_badRows (h : s.RunOpen e) (hen : s.fget F.jobBatchCfgEnabled (ruJob e) = 1)
    (hbad : runRowsOk e = false ∨ s.runKept e = true ∨ s.sizesOk (ruJob e) e = false) : State.runTaken p e s = s.fail p 0x1001 := by
  rw [h.taken, if_neg (by simp [State.fbit, hen]), if_pos (by simpa using hbad)]

theorem State.RowsOpen.taken_busy (h : s.RowsOpen e) (hmedia : s.runMedia (ruJob e) e = true) (hbusy : s.mediaBusy ≠ 0) :
    State.runTaken p e s = s.fail p s.mediaBusy := by
  rw [h.taken, if_neg (by simp [State.fbit, h.batches]), if_neg (by simp [h.rows, h.kept, h.sizes]), if_pos ⟨hmedia, hbusy⟩]

theorem State.RowsOpen.taken_rows (h : s.RowsOpen e) (hfree : s.runMedia (ruJob e) e = false ∨ s.mediaBusy = 0) :
    State.runTaken p e s = match s.giveStaging (ruJob e) e with
      | none => s.fail p 0x4008
      | some s1 => (s1.askRows p e).joinRows p (ruJob e) e := by
  rw [h.taken, if_neg (by simp [State.fbit, h.batches]), if_neg (by simp [h.rows, h.kept, h.sizes]), if_neg]
  rintro ⟨hmedia, hbusy⟩
  exact hfree.elim (fun hno => by simp [hno] at hmedia) hbusy

end

/-- Settles O26: each signal by its code and the job's run; a RUN by its job's batching and its checks. -/
theorem runAndSignals : Obligations.RunAndSignals := by
  intro s s0 q p e h j fails ends
  refine ⟨fun hop => ?_, fun hop => ?_⟩
  · have hexec := exec_jobSignal_taken h hop
    refine ⟨fun hbad => hexec.trans (by rw [State.signalled_fails _ hbad]), fun hfields hj hbound => ?_⟩
    simp only [State.signalled_runs _ hfields hj hbound] at hexec
    refine ⟨fun hcode => ⟨fun r hrun => ⟨_, hexec, ?_⟩, fun hrun => ⟨_, hexec, ?_⟩⟩, fun hcode hplain => ⟨_, hexec, ?_⟩,
      fun hcode => hexec.trans ?_, fun hcode => ⟨_, hexec, ?_⟩⟩
    · rw [hcode]
      exact State.signalHold_running (e := e) hbound hrun
    · rw [hcode]
      exact State.signalHold_idle (e := e) hbound h.open hrun
    · rw [hcode]
      exact State.signalUnhold_plain (e := e) h.open hplain
    · rw [hcode]
      rfl
    · rw [hcode]
      exact State.signalWeight_stores h.open
  · have hexec := exec_run_taken h hop
    refine ⟨fun hbad => hexec.trans (by rw [State.runTaken_refused hbad]), fun hfields htakes hhome => ?_⟩
    have hopen : s0.RunOpen e := ⟨hfields, htakes, hhome⟩
    refine ⟨fun hen => ?_, fun hen => ⟨fun hbad => hexec.trans (by rw [hopen.taken_badRows hen hbad]), fun hrows hkept hsizes => ?_⟩⟩
    · obtain ⟨hnot, hplain⟩ := hopen.taken_plain (p := p) hen
      refine ⟨fun hp => hexec.trans (by rw [hnot hp]), fun hp => ⟨fun hmedia hbusy => hexec.trans (by rw [(hplain hp).1 hmedia hbusy]),
        fun hfree => hexec.trans ?_⟩⟩
      rw [(hplain hp).2 hfree, State.requestRun_command]
      rfl
    · have hrow : s0.RowsOpen e := ⟨hopen, hen, hrows, hkept, hsizes⟩
      refine ⟨fun hmedia hbusy => hexec.trans (by rw [hrow.taken_busy hmedia hbusy]),
        fun hfree => ⟨fun hnone => hexec.trans ?_, fun s1 hsome => hexec.trans ?_⟩⟩
      · rw [hrow.taken_rows hfree, show s0.giveStaging (ruJob e) e = none from hnone]
      · rw [hrow.taken_rows hfree, show s0.giveStaging (ruJob e) e = some s1 from hsome]
        rfl

end Sys2Proof.Machine
end

section
/-! SUPPORT. JOB.CTL (R283 to R285, R302, R655) and EXPRESS_SHARE (R306). -/

namespace Sys2Proof.Machine

section
variable {s : State}

theorem exec_jobBind (j : JobId) (k : SlotId) {mask : Nat} (hmask : mask < 2 ^ 32) (s : State) : exec (.jobBind j k mask) s =
    .next (s.jobCtl (ctlWord 1 j k mask) fun s => s.bind j k mask) := by
  have hexec : exec (.jobBind j k mask) s = .next (s.jobCtl (ctlWord 1 j k mask) fun s => s.bind j k (mask % 2 ^ 32)) := rfl
  rw [hexec, Nat.mod_eq_of_lt hmask]
theorem exec_jobUnbind (w : JobCtlWrite) (s : State) : exec (.jobUnbind w) s =
    .next (s.jobCtl (ctlWord 2 w.job w.slot w.mask) fun s => s.unbind w.job) := rfl
theorem exec_jobExpressOn (w : JobCtlWrite) (s : State) : exec (.jobExpressOn w) s =
    .next (s.jobCtl (ctlWord 3 w.job w.slot w.mask) fun s => s.expressOn w.job) := rfl
theorem exec_jobExpressOff (w : JobCtlWrite) (s : State) : exec (.jobExpressOff w) s =
    .next (s.jobCtl (ctlWord 4 w.job w.slot w.mask) fun s => s.expressOff w.job) := rfl
theorem exec_expressShareWrite (n : Fin 128) (s : State) :
    exec (.expressShareWrite n) s = .next (s.lockWrite 0x210210 fun s => s.shareWrite n) := rfl

theorem exec_jobCtlReservedCmd {v : Word64} (h : v.toNat % 16 = 0 ∨ 5 ≤ v.toNat % 16) (s : State) :
    exec (.jobCtlReservedCmd v) s = .next (s.jobCtl v.toNat fun s => (0x1001, s)) := by
  have hexec : exec (.jobCtlReservedCmd v) s =
      .next (if 1 ≤ v.toNat % 16 ∧ v.toNat % 16 ≤ 4 then s else s.jobCtl v.toNat fun s => (0x1001, s)) := rfl
  rw [hexec, if_neg (by omega)]

/-- While BUSY a write of JOB.CTL only sets REFUSED. -/
theorem State.Open.jobCtl_busy (h : s.Open) (hbusy : s.fget F.jobCtlStatusBusy 0 = 1) (value : Nat) (run : State → Nat × State) :
    s.jobCtl value run = (s.dropHeld 0x210200).fset F.jobCtlStatusRefused 0 1 := by
  rw [State.jobCtl, h.lockWrite, State.jobCtlTake, if_pos (by simpa [State.fbit] using hbusy)]

/-- The state in which a JOB.CTL write has been kept. -/
def State.ctlPut (s : State) (word : Nat) : State := (s.dropHeld 0x210200).rset .jobCtl 0 (BitVec.ofNat 64 word)

theorem State.Open.jobCtl_idle (h : s.Open) (hbusy : s.fget F.jobCtlStatusBusy 0 = 0) (value : Nat) (run : State → Nat × State) :
    s.jobCtl value run = let r := run (s.ctlPut (value % 2 ^ 18 + value / 2 ^ 32 % 2 ^ 32 * 2 ^ 32)); r.2.fset F.jobCtlStatusStatus 0 r.1 := by
  rw [State.jobCtl, h.lockWrite, State.jobCtlTake, if_neg (by simp [State.fbit, hbusy])]
  rfl

/-- The fields of a command's word are kept as they were written. -/
theorem ctlWord_kept {cmd mask : Nat} (hcmd : cmd ≤ 4) (j : JobId) (k : SlotId) (hmask : mask < 2 ^ 32) :
    let value := ctlWord cmd j k mask
    value % 2 ^ 18 + value / 2 ^ 32 % 2 ^ 32 * 2 ^ 32 = cmd + (16 * j.val + 4096 * k.val + 2 ^ 32 * mask) := by
  have hj : j.val < 256 := j.isLt
  have hk : k.val < 64 := k.isLt
  simp only [ctlWord]
  omega

/-- A command that answers with a status and a state posts the status in that state. -/
theorem State.Open.jobCtl_posts (h : s.Open) (hbusy : s.fget F.jobCtlStatusBusy 0 = 0) {cmd mask : Nat} (hcmd : cmd ≤ 4) (j : JobId) (k : SlotId)
    (hmask : mask < 2 ^ 32) {run : State → Nat × State} {t : State} {status : Nat}
    (hrun : run (s.ctlPut (cmd + (16 * j.val + 4096 * k.val + 2 ^ 32 * mask))) = (status, t)) :
    s.jobCtl (ctlWord cmd j k mask) run = t.fset F.jobCtlStatusStatus 0 status := by
  rw [h.jobCtl_idle hbusy, ctlWord_kept hcmd j k hmask, hrun]

/-! ## BIND -/

/-- The buffers staged in JOB.BIND_BUF. -/
def State.stagedBufs (s : State) : List (Nat × Nat) := (List.range 16).map (fun n => (s.fget F.jobBindBufBase n, s.fget F.jobBindBufLength n))

theorem State.bind_refused {j k : Nat} (mask : Nat)
    (hbad : j = 0 ∨ s.jobBound j = true ∨ (s.slotState k ≠ 4 ∧ s.slotState k ≠ 5)) : s.bind j k mask = (0x1001, s) := by
  unfold State.bind
  split
  · rfl
  · next im _ =>
    refine if_pos ?_
    obtain hj | hbound | ⟨h4, h5⟩ := hbad
    · exact .inl hj
    · exact .inr (.inl hbound)
    · exact .inr (.inr (.inl (by simp [h4, h5])))

/-- The window frames that an image's jobs set aside. -/
def Image.frames (im : Image) : Nat := if im.group 7 = [] then 0 else 3 * wnPlace (im.group 7)

theorem State.bind_binds {j k mask : Nat} {im : Image} {a : Nat} {u : State} (himg : (s.slot k).img = some im) (hj : j ≠ 0)
    (hfree : s.jobBound j = false) (hk : 1 ≤ k ∧ k ≤ 63) (hslot : s.slotState k = 4 ∨ s.slotState k = 5)
    (hbufs : ∀ n < 16, s.bufferOk (im.group 9) n (s.stagedBufs.getD n (0, 0)) = true) (hmedia : s.mediaBusy = 0)
    (halloc : s.allocScratch (paScratch (im.group 9)) = some (a, u)) (hframes : im.frames = 0 ∨ u.frameFloor im.frames = true) :
    s.bind j k mask = (0, (u.setDepot { u.depot with setAside := u.depot.setAside + im.frames }).bindTo j k im
      { bufs := s.stagedBufs.take (paBuffers (im.group 9)), scalars := s.boundScalars (im.group 9) mask,
        scratch := (a, paScratch (im.group 9)), window := im.frames }) := by
  have hall : ((List.range 16).all fun n => s.bufferOk (im.group 9) n (s.stagedBufs.getD n (0, 0))) = true := by
    simpa using hbufs
  have hfloor : ¬(im.frames ≠ 0 ∧ (!u.frameFloor im.frames) = true) := by
    rintro ⟨hsome, hlow⟩
    simp [hframes.resolve_left hsome] at hlow
  have hpass : ¬(j = 0 ∨ s.jobBound j ∨ !(Decidable.decide (1 ≤ k) && Decidable.decide (k ≤ 63) &&
      (Decidable.decide (s.slotState k = 4) || Decidable.decide (s.slotState k = 5))) ∨
      !(List.range 16).all fun n => s.bufferOk (im.group 9) n (s.stagedBufs.getD n (0, 0))) := by
    rw [hall]
    simpa [hj, hfree, hk] using Decidable.or_iff_not_imp_left.1 hslot
  unfold State.bind
  rw [himg]
  refine (if_neg hpass).trans ((if_neg fun hbusy => hbusy.2 hmedia).trans ?_)
  rw [halloc]
  exact if_neg hfloor

/-! ## UNBIND, EXPRESS_ON and EXPRESS_OFF -/

theorem State.unbind_refused {j : Nat} (hbad : j = 0 ∨ s.jobBound j = false) : s.unbind j = (0x1001, s) := if_pos (by simpa using hbad)

theorem State.unbind_ends {j : Nat} (hj : j ≠ 0) (hbound : s.jobBound j = true) (hpend : s.fget F.jobStateEndPending j = 0) :
    s.unbind j = (0, s.endOrPend j) := by
  rw [State.unbind, if_neg (by simp [hj, hbound]), if_neg (by simp [State.fbit, hpend])]

theorem State.expressOff_refused {j : Nat} (hbad : j = 0 ∨ s.jobBound j = false) : s.expressOff j = (0x1001, s) := if_pos (by simpa using hbad)

theorem State.expressOff_clears {j : Nat} (hj : j ≠ 0) (hbound : s.jobBound j = true) : s.expressOff j = (0, (s.unexpress j).expressAgain) :=
  if_neg (by simp [hj, hbound])

/-- The express jobs with one more. -/
def State.expressWith (s : State) (j : Nat) : List Nat := if s.expressJobs.contains j then s.expressJobs else s.expressJobs ++ [j]

theorem State.expressOn_eq (s : State) (j : Nat) : let u := s.setJob j { s.job j with period := s.fget F.jobCfgPeriodUs j }
    (u.expressTests (s.expressWith j) = true →
      s.expressOn j = (0, ((u.fset F.jobStateExpress j 1).showBounds).enlist j (s.isExpress j))) ∧
      (u.expressTests (s.expressWith j) = false → s.expressOn j = (0x4010, s)) :=
  ⟨fun htests => if_pos htests, fun htests => if_neg (by rw [← Bool.not_eq_true] at htests; exact htests)⟩

end

/-- Settles O23: a JOB.CTL write by its command, with BUSY and without, and EXPRESS_SHARE. -/
theorem jobControl : Obligations.JobControl := by
  intro s j h put posts
  refine ⟨fun hbusy => ⟨fun k mask hmask => ⟨⟨fun hbad => ?_, ?_⟩, ⟨fun hbad => ?_, fun hj hbound hpend => ?_⟩,
      ⟨fun htests => ?_, fun htests => ?_⟩, ⟨fun hbad => ?_, fun hj hbound => ?_⟩⟩, fun v hv => ?_⟩, fun hbusy k mask c hc => ?_, fun n => ?_⟩
  · exact (exec_jobBind j k hmask s).trans (congrArg _ (h.jobCtl_posts hbusy (by decide) j k hmask (State.bind_refused mask hbad)))
  · intro im a u1 himg hj hfree hk1 hk63 hslot hbufs hmedia halloc frames hframes
    exact (exec_jobBind j k hmask s).trans (congrArg _ (h.jobCtl_posts hbusy (by decide) j k hmask
      (State.bind_binds himg hj hfree ⟨hk1, hk63⟩ hslot hbufs hmedia halloc hframes)))
  · exact (exec_jobUnbind _ s).trans (congrArg _ (h.jobCtl_posts hbusy (by decide) j k hmask (State.unbind_refused hbad)))
  · exact (exec_jobUnbind _ s).trans (congrArg _ (h.jobCtl_posts hbusy (by decide) j k hmask (State.unbind_ends hj hbound hpend)))
  · exact (exec_jobExpressOn _ s).trans (congrArg _ (h.jobCtl_posts hbusy (by decide) j k hmask ((State.expressOn_eq _ _).1 htests)))
  · exact (exec_jobExpressOn _ s).trans (congrArg _ (h.jobCtl_posts hbusy (by decide) j k hmask ((State.expressOn_eq _ _).2 htests)))
  · exact (exec_jobExpressOff _ s).trans (congrArg _ (h.jobCtl_posts hbusy (by decide) j k hmask (State.expressOff_refused hbad)))
  · exact (exec_jobExpressOff _ s).trans (congrArg _ (h.jobCtl_posts hbusy (by decide) j k hmask (State.expressOff_clears hj hbound)))
  · have hlt : v.toNat < 2 ^ 64 := v.isLt
    refine (exec_jobCtlReservedCmd hv s).trans (congrArg _ ((h.jobCtl_idle hbusy _ _).trans ?_))
    rw [Nat.mod_eq_of_lt (a := v.toNat / 2 ^ 32) (by omega)]
    rfl
  · simp only [List.mem_cons, List.not_mem_nil, or_false] at hc
    obtain rfl | rfl | rfl | rfl | rfl := hc
    · exact congrArg Host.Outcome.next (h.jobCtl_busy hbusy (ctlWord 1 j k mask) _)
    · rw [exec_jobUnbind, h.jobCtl_busy hbusy]
    · rw [exec_jobExpressOn, h.jobCtl_busy hbusy]
    · rw [exec_jobExpressOff, h.jobCtl_busy hbusy]
    · rw [exec_jobCtlReservedCmd (.inl rfl), h.jobCtl_busy hbusy]
  · rw [exec_expressShareWrite, h.lockWrite]
    rfl

end Sys2Proof.Machine
end

section
/-! SUPPORT. Reads that change the state (R15, R97, R208), the user view (R428, R601, R605, R606) and the pushes of the mirrors (R654). -/

namespace Sys2Proof.Machine

/-! ## Pushes -/

/-- A mirror word is fresh and holds what its register reads. -/
def State.Mirrored (s : State) (off : Nat) : Prop := ∀ r i ub, mirrorSource off = some (r, i, ub) →
  off ∈ s.security.fresh ∧ Tbl.look 0 s.security.mirrors off = (s.rget r i).toNat

/-- Mirror words are pushed, and nothing else happens. -/
structure State.Pushes (s t : State) : Prop where
  parts : s.OnlyParts t [.security]
  keeps : ∀ off, s.Mirrored off → t.Mirrored off

theorem State.Pushes.refl (s : State) : s.Pushes s := ⟨State.OnlyParts.refl s _, fun _ => id⟩

theorem State.Pushes.trans {s t u : State} (h : s.Pushes t) (k : t.Pushes u) : s.Pushes u :=
  ⟨h.parts.trans k.parts, fun off hm => k.keeps off (h.keeps off hm)⟩

section
variable {α : Type} {f : State → α → State} (hf : ∀ (s : State) x, s.Pushes (f s x))
include hf

theorem State.foldl_pushes (l : List α) (s : State) : s.Pushes (l.foldl f s) := by
  induction l generalizing s with
  | nil => exact .refl s
  | cons x l ih => exact (hf s x).trans (ih _)

/-- A word that one element pushes is mirrored after all of them. -/
theorem State.foldl_mirrored {l : List α} {x : α} (hx : x ∈ l) {off : Nat} {s : State}
    (hpush : ∀ t, s.OnlyParts t [.security] → (f t x).Mirrored off) : (l.foldl f s).Mirrored off := by
  obtain ⟨before, after, rfl⟩ := List.append_of_mem hx
  rw [List.foldl_append, List.foldl_cons]
  exact (State.foldl_pushes hf after _).keeps off (hpush _ (State.foldl_pushes hf before s).parts)

end

theorem State.pushWord_security {off : Nat} {r : Reg} {i ub : Nat} (h : mirrorSource off = some (r, i, ub)) (s : State) :
    s.pushWord off = s.setSecurity { s.security with mirrors := Tbl.put 0 s.security.mirrors off (s.rget r i).toNat, fresh := if s.security.fresh.contains off then s.security.fresh else s.security.fresh ++ [off] } := by
  rw [State.pushWord, h]

theorem State.pushWord_mirrored (s : State) (off : Nat) : (s.pushWord off).Mirrored off := by
  intro r i ub h
  rw [State.pushWord_security h]
  refine ⟨?_, by rw [State.setSecurity_security, Tbl.look_put_same]; rfl⟩
  rw [State.setSecurity_security]
  dsimp only
  split
  · next hin => simpa using hin
  · simp

theorem State.pushWord_pushes (s : State) (off : Nat) : s.Pushes (s.pushWord off) := by
  refine ⟨?_, fun o hm => ?_⟩
  · unfold State.pushWord
    split
    · exact .refl s _
    · exact s.setSecurity_onlyParts _
  · by_cases ho : o = off
    · exact ho ▸ s.pushWord_mirrored off
    · intro r i ub h
      obtain ⟨hfresh, hvalue⟩ := hm r i ub h
      cases hsource : mirrorSource off with
      | none => rwa [State.pushWord, hsource, ← hvalue, eq_self_iff_true, and_true]
      | some x =>
        rw [State.pushWord_security hsource, State.setSecurity_security, Tbl.look_put_other _ _ _ ho]
        refine ⟨?_, hvalue⟩
        dsimp only
        split
        · exact hfresh
        · exact List.mem_append_left _ hfresh

theorem State.pushJob_pushes (s : State) (j : Nat) : s.Pushes (s.pushJob j) := State.foldl_pushes (fun s _ => s.pushWord_pushes _) _ s

theorem State.pushJob_mirrored (s : State) (j : Nat) {i : Nat} (hi : i < 10) : (s.pushJob j).Mirrored (jobMirror j i) :=
  State.foldl_mirrored (fun s _ => s.pushWord_pushes _) (List.mem_range.2 hi) fun t _ => t.pushWord_mirrored _

theorem State.pushStation_pushes (s : State) (st : Nat) : s.Pushes (s.pushStation st) :=
  State.foldl_pushes (fun s _ => State.foldl_pushes (fun s _ => s.pushWord_pushes _) _ s) _ s

theorem State.pushStation_mirrored (s : State) (st : Nat) {n i : Nat} (hn : n < 33) (hi : i < 16) :
    (s.pushStation st).Mirrored (laneMirror st n i) :=
  State.foldl_mirrored (fun s _ => State.foldl_pushes (fun s _ => s.pushWord_pushes _) _ s) (List.mem_range.2 hn) fun _ _ =>
    State.foldl_mirrored (fun s _ => s.pushWord_pushes _) (List.mem_range.2 hi) fun u _ => u.pushWord_mirrored _

theorem mirrorSource_laneMirror (st : StationId) {n i : Nat} (hn : n < 33) (hi : i < 16) :
    mirrorSource (laneMirror st n i) = some (.stnLrCtr, lrIdx st n i, 63) := by
  have hst : st.val < 64 := st.isLt
  have hstation : (laneMirror st n i - 0x200000) / 0x2000 = st := by unfold laneMirror; omega
  have hlane : laneMirror st n i % 0x2000 / 0x80 = n := by unfold laneMirror; omega
  have hword : laneMirror st n i % 0x80 / 8 = i := by unfold laneMirror; omega
  rw [mirrorSource, if_neg (by unfold laneMirror; omega), if_neg (by unfold laneMirror; omega), if_pos (by unfold laneMirror; omega)]
  simp only [hstation, hlane, hword, if_pos hn]

theorem mirrorSource_jobMirror {j i : Nat} (hj : j < 256) (hi : i < 10) : ∃ r k ub, mirrorSource (jobMirror j i) = some (r, k, ub) := by
  have hword : jobMirror j i % 0x100 / 8 = i := by unfold jobMirror; omega
  rw [mirrorSource, if_neg (by unfold jobMirror; omega), if_pos (by unfold jobMirror; omega)]
  simp only [hword, if_pos hi]
  split_ifs <;> exact ⟨_, _, _, rfl⟩

theorem State.ownerDie_of_parts {s t : State} (h : s.OnlyParts t [.security]) (j : Nat) : t.ownerDie j = s.ownerDie j := by
  simp only [State.ownerDie, h.fget]

theorem exec_mirrorPushStation (st : StationId) (s : State) : exec (.mirrorPushStation st) s = .next (s.pushStation st) := rfl
theorem exec_mirrorPushJob (d : DieId) (s : State) : exec (.mirrorPushJob d) s =
    .next ((List.range 256).foldl (fun (s : State) j => if s.ownerDie j = d.val then s.pushJob j else s) s) := rfl

theorem State.pushOwned_pushes (d : Nat) (s : State) (j : Nat) : s.Pushes (if s.ownerDie j = d then s.pushJob j else s) := by
  split
  · exact s.pushJob_pushes j
  · exact .refl s

theorem mirrorPushJob_pushes (s : State) (d : DieId) : ∃ t, exec (.mirrorPushJob d) s = .next t ∧ s.OnlyParts t [.security] ∧
    (∀ j < 256, s.ownerDie j = d → ∀ i < 10, ∃ r k ub, mirrorSource (jobMirror j i) = some (r, k, ub) ∧
      jobMirror j i ∈ t.security.fresh ∧ Tbl.look 0 t.security.mirrors (jobMirror j i) = (s.rget r k).toNat) := by
  have hparts := (State.foldl_pushes (State.pushOwned_pushes d.val) (List.range 256) s).parts
  refine ⟨_, exec_mirrorPushJob d s, hparts, fun j hj howner i hi => ?_⟩
  obtain ⟨r, k, ub, hsource⟩ := mirrorSource_jobMirror hj hi
  have hmirror := State.foldl_mirrored (State.pushOwned_pushes d.val) (List.mem_range.2 hj) (off := jobMirror j i) (s := s)
    fun t ht => by rw [if_pos ((State.ownerDie_of_parts ht j).trans howner)]; exact t.pushJob_mirrored j hi
  obtain ⟨hfresh, hvalue⟩ := hmirror r k ub hsource
  exact ⟨r, k, ub, hsource, hfresh, hvalue.trans (congrArg _ (hparts.regs (fun _ _ => False) (by decide) r k id))⟩

theorem mirrorPushStation_pushes (s : State) (st : StationId) : ∃ t, exec (.mirrorPushStation st) s = .next t ∧ s.OnlyParts t [.security] ∧
    (∀ n < 33, ∀ i < 16, laneMirror st n i ∈ t.security.fresh ∧
      Tbl.look 0 t.security.mirrors (laneMirror st n i) = (s.rget .stnLrCtr (lrIdx st n i)).toNat) := by
  have hparts := (s.pushStation_pushes st).parts
  refine ⟨_, exec_mirrorPushStation st s, hparts, fun n hn i hi => ?_⟩
  obtain ⟨hfresh, hvalue⟩ := s.pushStation_mirrored st hn hi _ _ _ (mirrorSource_laneMirror st hn hi)
  exact ⟨hfresh, hvalue.trans (congrArg _ (hparts.regs (fun _ _ => False) (by decide) _ _ id))⟩

/-! ## Reads of the privileged view -/

section
variable {s : State} (h : s.hears = true)
include h

theorem exec_counterLowHalfRead (off : Nat) : exec (.counterLowHalfRead off) s =
    .next (if badSize off 4 then (s.bump F.glbLockStatBadSize 0 1).answer 0
      else match regAt off with
        | none => if off = adminSqDb ∨ off = adminCqDb then s else s.answer 0
        | some (r, i) => if r.bits = 64 then s.halfRead (off / 8 * 8) (s.rget r.reg i).toNat (off % 8 = 4) else s) :=
  congrArg Host.Outcome.next (if_neg (by simp [h]))

theorem counterLowHalfRead_unassigned {off : Nat} (hoff : off % 4 = 0) (hat : regAt off = none) : exec (.counterLowHalfRead off) s =
    .next (if off = adminSqDb ∨ off = adminCqDb then s else s.answer 0) := by
  rw [exec_counterLowHalfRead h, if_neg (by simp [badSize, hoff]), hat]

theorem counterLowHalfRead_wide {off : Nat} {r : RegRow} {i : Nat} (hoff : off % 4 = 0) (hat : regAt off = some (r, i)) (hbits : r.bits = 64) :
    exec (.counterLowHalfRead off) s = .next (s.halfRead (off / 8 * 8) (s.rget r.reg i).toNat (off % 8 = 4)) := by
  rw [exec_counterLowHalfRead h, if_neg (by simp [badSize, hoff]), hat]
  exact congrArg Host.Outcome.next (if_pos hbits)

theorem clearOnRead_clears {off : Nat} {r : RegRow} {i : Nat} (hoff : off % 4 = 0) (hat : regAt off = some (r, i)) (hrc : r.bitsWith .rc ≠ 0) :
    exec (.clearOnRead off) s = .next ((s.rset r.reg i (s.rget r.reg i &&& ~~~(r.bitsWith .rc))).answer (s.rget r.reg i).toNat) := by
  have hexec : exec (.clearOnRead off) s = .next (if !s.hears ∨ off % 4 ≠ 0 then s
      else match regAt off with
        | none => s
        | some (r, i) => if r.bitsWith .rc = 0 then s
          else (s.rset r.reg i (s.rget r.reg i &&& ~~~(r.bitsWith .rc))).answer (s.rget r.reg i).toNat) := rfl
  rw [hexec, if_neg (by simp [h, hoff]), hat]
  exact congrArg Host.Outcome.next (if_neg hrc)

/-! ## Reads of the user view -/

theorem exec_mirrorRead (off size : Nat) : exec (.mirrorRead off size) s =
    .next (if isDoorbell off ∧ !badSize off size then s.answer (s.doorbellWord off) else s.userRead off size) :=
  congrArg Host.Outcome.next (if_neg (by simp [h]))

theorem mirrorRead_badSize {off size : Nat} (hbad : badSize off size = true) :
    exec (.mirrorRead off size) s = .next ((s.bump F.glbLockStatBadSize 0 1).send (.regAnswer 0)) := by
  rw [exec_mirrorRead h, if_neg (by simp [hbad]), State.userRead, if_pos hbad]
  rfl

theorem mirrorRead_sqDoorbell {q : Nat} (h0 : 0 < q) (hq : q < 1024) : exec (.mirrorRead (8 * q) 8) s =
    .next (s.send (.regAnswer (s.fget F.queQStateTail q + 2 ^ 16 * s.fget F.queQStateHead q))) := by
  have hq' : 8 * q % 0x4000 / 8 = q := by omega
  have hbell : isDoorbell (8 * q) = true := by simp [isDoorbell]; omega
  have hword : s.doorbellWord (8 * q) = s.fget F.queQStateTail q + 2 ^ 16 * s.fget F.queQStateHead q := by
    simp only [State.doorbellWord, hq']
    rw [if_neg (by omega), if_pos (by omega)]
  rw [exec_mirrorRead h, if_pos (by simp [hbell, badSize]), hword]
  rfl

theorem mirrorRead_cqDoorbell {q : Nat} (h0 : 0 < q) (hq : q < 1024) : exec (.mirrorRead (0x4000 + 8 * q) 8) s =
    .next (s.send (.regAnswer (s.fget F.queCqStateCqHead q))) := by
  have hq' : (0x4000 + 8 * q) % 0x4000 / 8 = q := by omega
  have hbell : isDoorbell (0x4000 + 8 * q) = true := by simp [isDoorbell]; omega
  have hword : s.doorbellWord (0x4000 + 8 * q) = s.fget F.queCqStateCqHead q := by
    simp only [State.doorbellWord, hq']
    rw [if_neg (by omega), if_neg (by omega)]
  rw [exec_mirrorRead h, if_pos ⟨hbell, by simp [badSize]⟩, hword]
  rfl

theorem mirrorRead_userRead {off : Nat} (hoff : off % 8 = 0) (hbell : isDoorbell off = false) :
    exec (.mirrorRead off 8) s = .next (match mirrorSource off with
      | none => s.answer 0
      | some (_, _, ub) => (s.consume off).answer (s.mirrorWord off ub)) := by
  have hword : off / 8 * 8 = off := by omega
  rw [exec_mirrorRead h, if_neg (by simp [hbell]), State.userRead, if_neg (by simp [badSize, hoff])]
  simp only [hword, if_true] <;> rfl

theorem mirrorRead_mirror {off : Nat} {r : Reg} {i ub : Nat} (hoff : off % 8 = 0) (hbell : isDoorbell off = false)
    (hsource : mirrorSource off = some (r, i, ub)) : exec (.mirrorRead off 8) s = .next ((s.consume off).answer (s.mirrorWord off ub)) := by
  rw [mirrorRead_userRead h hoff hbell, hsource]

/-! ## TMX.SAMPLE -/

theorem exec_tmxSampleRead (pushed : List (Fin 32)) : exec (.tmxSampleRead pushed) s =
    .next ((s.samplePins pushed).answer ((s.samplePins pushed).rget .tmxSample 0).toNat) := congrArg Host.Outcome.next (if_neg (by simp [h]))

theorem tmxSampleRead_pushed (n : Fin 32) : ∃ t, exec (.tmxSampleRead [n]) s = .next t ∧
    t.fget ⟨.tmxSample, n, 1⟩ 0 = (if s.host.tmo[n.val]?.getD false then 1 else 0) ∧
    t.fget F.tmxSampleUnderrun 0 = 0 ∧ s.OnlyRegs t (fun q _ => q = .tmxSample) ∧ s.OnlyParts t [.regs, .host] ∧
    t.host = { s.host with outbox := s.host.outbox ++ [.regAnswer (t.rget .tmxSample 0).toNat] } := by
  have hn : n.val < 32 := n.isLt
  have hpins : s.samplePins [n] =
      (s.fset ⟨.tmxSample, n, 1⟩ 0 (bit (s.host.tmo[n.val]?.getD false))).fset F.tmxSampleUnderrun 0 0 := rfl
  have happart : F.tmxSampleUnderrun.apart ⟨.tmxSample, n, 1⟩ = true := by simp [Fld.apart, F.tmxSampleUnderrun]; omega
  rw [exec_tmxSampleRead h, hpins]
  refine ⟨_, rfl, ?_, ?_, ?_, ?_, by simp [State.answer, State.rget]⟩
  · rw [State.answer, State.send, State.setHost_fget, State.fget_fset_of_apart _ _ _ _ happart,
      State.fget_fset_same _ _ _ _ (by simp; omega)]
    cases s.host.tmo[n.val]?.getD false <;> rfl
  · rw [State.answer, State.send, State.setHost_fget, State.fget_fset_same _ _ _ _ (by decide)]
    rfl
  · simp [State.answer, F.tmxSampleUnderrun]
  · exact (((s.fset_onlyParts _ _ _).mono (by decide)).next (State.fset_onlyParts _ _ _ _)).next (State.setHost_onlyParts _ _)

end

/-- Settles O32: the reads of the two views by offset and size, TMX.SAMPLE, and the two pushes. -/
theorem viewReads : Obligations.ViewReads := by
  refine ⟨fun s h => ⟨fun off hoff => ?_, fun off hoff hat hsq hcq => ?_, fun off hoff => ?_, fun off r i hoff hat hbits => ⟨fun hlow => ?_, fun v hhigh hlatch => ?_, fun hhigh hlatch => ?_⟩,
      fun off r i hoff hat hrc => ⟨_, clearOnRead_clears h hoff hat hrc, ?_⟩, fun off size hbad => mirrorRead_badSize h (by simpa [badSize] using hbad),
      fun q h0 hq => ⟨mirrorRead_sqDoorbell h h0 hq, mirrorRead_cqDoorbell h h0 hq⟩, fun off hoff hbell hsource => ?_,
      fun off r i ub hoff hbell hsource => ⟨fun hfresh => ?_, fun hfresh => ?_⟩, ?_, tmxSampleRead_pushed h⟩,
    mirrorPushStation_pushes, mirrorPushJob_pushes⟩
  · rw [exec_counterLowHalfRead h, if_pos (by simpa [badSize] using hoff)]
    rfl
  · rw [counterLowHalfRead_unassigned h hoff hat, if_neg (by simp [hsq, hcq])]
    rfl
  · simp only [List.mem_cons, List.not_mem_nil, or_false] at hoff
    obtain rfl | rfl := hoff
    · exact counterLowHalfRead_unassigned h (by decide) (by decide +kernel)
    · exact counterLowHalfRead_unassigned h (by decide) (by decide +kernel)
  · rw [counterLowHalfRead_wide h hoff hat hbits, State.halfRead, if_neg (by simp [hlow])]
    rfl
  · rw [counterLowHalfRead_wide h hoff hat hbits, State.halfRead, if_pos (by simp [hhigh]), hlatch]
    rfl
  · rw [counterLowHalfRead_wide h hoff hat hbits, State.halfRead, if_pos (by simp [hhigh]), hlatch]
    rfl
  · refine ⟨by simp [State.answer], rfl, by simp [State.answer, State.onlyRegs_rset], ?_⟩
    exact ((s.rset_onlyParts _ _ _).mono (by decide)).next (State.setHost_onlyParts _ _)
  · rw [mirrorRead_userRead h hoff hbell, hsource]
    rfl
  · rw [mirrorRead_mirror h hoff hbell hsource, State.consume, State.mirrorWord, if_pos (by simpa using hfresh)]
    simp [hfresh, bit, State.answer]
  · rw [mirrorRead_mirror h hoff hbell hsource, State.consume, State.mirrorWord, if_neg (by simpa using hfresh)]
    simp [hfresh, bit, State.answer, State.underrun]
  · rw [exec_tmxSampleRead h]
    rfl

end Sys2Proof.Machine
end

section
/-! SUPPORT. The mailbox (R423, R619) and the SPDM responder (R612, R613, R620 to R622). -/

namespace Sys2Proof.Machine

/-! ## The mailbox -/

section
variable {s : State}

theorem exec_doeDiscovery (h : s.hears = true) (i : Nat) : exec (.doeDiscovery i) s = .next (s.doe 0x0001 0 (discoveryBody i)) :=
  congrArg Host.Outcome.next (if_pos h)
theorem exec_cdatRead (h : s.hears = true) (i : Nat) : exec (.cdatRead i) s = .next (s.doe 0x1E98 2 (s.cdatBody i)) :=
  congrArg Host.Outcome.next (if_pos h)
theorem exec_doeOversizeRequest (n : Nat) (s : State) : exec (.doeOversizeRequest n) s =
    .next (if s.hears ∧ 65536 < n then (s.setSecurity { s.security with doeError := true }).send .doeError else s) := rfl

theorem discoveryBody_protocol {i : Nat} (hi : i < 3) :
    discoveryBody i = leBytes 2 ([0x0001, 0x0001, 0x1E98].getD i 0) ++ [BitVec.ofNat 8 i, BitVec.ofNat 8 ((i + 1) % 3)] := by
  interval_cases i <;> decide

theorem discoveryBody_none {i : Nat} (hi : 3 ≤ i) : discoveryBody i = [0xFF, 0xFF, 0, 0] := by
  have hnone : doeProtocols[i]? = none := List.getElem?_eq_none hi
  rw [discoveryBody, hnone]
  rfl

/-! ## The responder -/

theorem State.spdmRequest_wrong (h : s.answersSpdm = true) {code need len e : Nat} {req : List Byte} (hw : s.spdmWrong code need len req = some e)
    (run : State → State) : s.spdmRequest code need len req run = s.spdmError e 0 [] := by
  rw [State.spdmRequest, if_neg (by simp [h]), hw]

theorem State.spdmRequest_right (h : s.answersSpdm = true) {code need len : Nat} {req : List Byte} (hw : s.spdmWrong code need len req = none)
    (run : State → State) : s.spdmRequest code need len req run = run s := by
  rw [State.spdmRequest, if_neg (by simp [h]), hw]

theorem exec_getVersion (h : s.answersSpdm = true) (req : List Byte) : exec (.getVersion req) s =
    .next (if byteField req 1 1 = 0x84 ∧ 4 ≤ req.length then s.spdmVersion req else s.spdmError 0x01 0 []) :=
  congrArg Host.Outcome.next (if_neg (by simp [h]))
theorem exec_getCapabilities (req : List Byte) (s : State) :
    exec (.getCapabilities req) s = .next (s.spdmRequest 0xE1 1 20 req (State.spdmCapabilities req)) := rfl
theorem exec_negotiateAlgorithms (req : List Byte) (s : State) :
    exec (.negotiateAlgorithms req) s = .next (s.spdmRequest 0xE3 2 32 req (State.spdmAlgorithms req)) := rfl
theorem exec_chunkGet (req : List Byte) (s : State) : exec (.chunkGet req) s = .next (s.spdmRequest 0x86 3 6 req (State.spdmChunk req)) := rfl
theorem exec_getDigests (req : List Byte) (s : State) :
    exec (.getDigests req) s = .next (s.spdmRequest 0x81 3 4 req (State.spdmDigests req)) := rfl
theorem exec_getCertificate (req : List Byte) (s : State) :
    exec (.getCertificate req) s = .next (s.spdmRequest 0x82 3 8 req (State.spdmCertificate req)) := rfl
theorem exec_challenge (req : List Byte) (s : State) :
    exec (.challenge req) s = .next (s.spdmRequest 0x83 3 36 req (State.spdmChallenge req)) := rfl
theorem exec_getMeasurements (req : List Byte) (s : State) : exec (.getMeasurements req) s =
    .next (s.spdmRequest 0xE0 3 (if byteField req 2 1 % 2 = 1 then 37 else 4) req (State.spdmMeasurements req)) := rfl

/-! ## Messages -/

theorem versionMsg : spdmMsg 0x10 0x04 0 0 (leBytes 1 0 ++ leBytes 1 2 ++ leBytes 2 0x1200 ++ leBytes 2 0x1300) =
    [0x10, 0x04, 0, 0, 0, 2, 0x00, 0x12, 0x00, 0x13] := by decide

/-- A message whose code and parameters are single bytes. -/
theorem spdmMsg_bytes (v code p1 p2 : Nat) (body : List Byte) :
    spdmMsg v code p1 p2 body = leBytes 1 v ++ [BitVec.ofNat 8 code, BitVec.ofNat 8 p1, BitVec.ofNat 8 p2] ++ body := rfl

theorem State.spdmCapabilities_taken {req : List Byte} (hv : byteField req 0 1 = 0x12 ∨ byteField req 0 1 = 0x13) :
    let resp := leBytes 1 (byteField req 0 1) ++ [0x61, 0, 0, 0, 14, 0, 0] ++ leBytes 4 0x20016 ++ leBytes 4 4096 ++ leBytes 4 65536
    s.spdmCapabilities req = (s.setSpdm { s.spdm with measLog := [], stage := 2, version := byteField req 0 1, transfer := min 4096 (byteField req 12 4), vca := s.spdm.vca ++ req.take 20 ++ resp }).doe 0x0001 1 resp := by
  rw [State.spdmCapabilities, if_neg (by omega)]
  simp only [spdmMsg_bytes]
  rfl

theorem State.spdmCapabilities_other {req : List Byte} (h2 : byteField req 0 1 ≠ 0x12) (h3 : byteField req 0 1 ≠ 0x13) :
    s.spdmCapabilities req = s.spdmError 0x41 0 [] := if_pos ⟨h2, h3⟩

theorem State.spdmAlgorithms_eq (s : State) (req : List Byte) :
    let resp := leBytes 1 s.spdm.version ++ [0x63, 0, 0, 36, 0] ++ leBytes 1 (byteField req 6 1 % 2) ++ [0] ++ leBytes 4 1 ++
      leBytes 4 (byteField req 8 4 &&& 0x800) ++ leBytes 4 (byteField req 12 4 &&& 0x20) ++ zeros 16
    s.spdmAlgorithms req = (s.setSpdm { s.spdm with measLog := [], stage := 3, vca := s.spdm.vca ++ req.take (byteField req 4 2) ++ resp }).doe 0x0001 1 resp := by
  rw [State.spdmAlgorithms, Nat.and_one_is_mod]
  rfl

theorem State.spdmChunk_none (hl : s.spdm.large = none) (req : List Byte) : s.spdmChunk req = s.spdmError 0x04 0 [] := by
  rw [State.spdmChunk, hl]

section
variable {resp : List Byte} {h sent seq : Nat} (hl : s.spdm.large = some (resp, h, sent, seq)) {req : List Byte}
include hl

theorem State.spdmChunk_wrong (hw : byteField req 3 1 ≠ h ∨ byteField req 4 2 ≠ seq) :
    s.spdmChunk req = (s.setSpdm { s.spdm with large := none }).spdmError 0x01 0 [] := by
  rw [State.spdmChunk, hl]
  exact if_pos hw

theorem State.spdmChunk_sends (hh : byteField req 3 1 = h) (hs : byteField req 4 2 = seq) :
    let part := (resp.drop sent).take (s.spdm.transfer - (if seq = 0 then 16 else 12))
    let last : Bool := resp.length ≤ sent + part.length
    s.spdmChunk req = (s.setSpdm { s.spdm with large := if last then none else some (resp, h, sent + part.length, seq + 1) }).doe 0x0001 1
      (leBytes 1 s.spdm.version ++ [0x06] ++ leBytes 1 (if last then 1 else 0) ++ leBytes 1 h ++ leBytes 2 seq ++ [0, 0] ++
        leBytes 4 part.length ++ (if seq = 0 then leBytes 4 resp.length else []) ++ part) := by
  intro part last
  rw [State.spdmChunk, hl]
  refine (if_neg (by simp [hh, hs])).trans (congrArg _ ?_)
  simp [part, last]

end

/-- Settles O36: the mailbox's own answers, and each request of the connection by what its checks find. -/
theorem mailboxAnswers : Obligations.MailboxAnswers := by
  intro s req v sends
  refine ⟨fun h => ⟨fun i hi => ?_, fun i hi => ?_, fun i => ?_, fun n hn => ?_, fun n hn => ?_⟩, fun h => ⟨fun hcode hlen => ?_, fun hbad => ?_,
    fun hw => ⟨fun hv => ?_, fun h2 h3 => ?_⟩, fun hw => ?_, fun hw => ⟨fun hl => ?_, fun resp hd sent seq hl => ⟨fun hbad => ?_, fun hh hs => ?_⟩⟩,
    fun c hc code hw => ?_⟩⟩
  · rw [exec_doeDiscovery h, discoveryBody_protocol hi]
  · rw [exec_doeDiscovery h, discoveryBody_none hi]
  · rw [exec_cdatRead h]
    rfl
  · rw [exec_doeOversizeRequest, if_pos ⟨h, hn⟩]
  · rw [exec_doeOversizeRequest, if_neg fun hbig => Nat.not_lt.2 hn hbig.2]
  · refine (exec_getVersion h req).trans (congrArg _ ((if_pos ⟨hcode, hlen⟩).trans ?_))
    rw [State.spdmVersion, versionMsg]
  · rw [exec_getVersion h, if_neg (by omega)]
  · exact (exec_getCapabilities req s).trans (congrArg _ ((State.spdmRequest_right h hw _).trans (State.spdmCapabilities_taken hv)))
  · rw [exec_getCapabilities, State.spdmRequest_right h hw, State.spdmCapabilities_other h2 h3]
  · exact (exec_negotiateAlgorithms req s).trans (congrArg _ ((State.spdmRequest_right h hw _).trans (s.spdmAlgorithms_eq req)))
  · rw [exec_chunkGet, State.spdmRequest_right h hw, State.spdmChunk_none hl]
  · rw [exec_chunkGet, State.spdmRequest_right h hw, State.spdmChunk_wrong hl hbad]
  · exact (exec_chunkGet req s).trans (congrArg _ ((State.spdmRequest_right h hw _).trans (State.spdmChunk_sends hl hh hs)))
  · simp only [List.mem_cons, List.not_mem_nil, or_false] at hc
    obtain rfl | rfl | rfl := hc
    · rw [exec_getCapabilities, State.spdmRequest_wrong h hw]
    · rw [exec_negotiateAlgorithms, State.spdmRequest_wrong h hw]
    · rw [exec_chunkGet, State.spdmRequest_wrong h hw]

/-! ## Attestation -/

theorem State.spdmCertificate_slot0 {req : List Byte} (hslot : byteField req 2 1 % 16 = 0) : let off := byteField req 4 2
    let part := (Config.certChain.drop off).take (byteField req 6 2)
    let resp := leBytes 1 s.spdm.version ++ [0x02, 0, 0] ++ leBytes 2 part.length ++ leBytes 2 (Config.certChain.length - off - part.length) ++ part
    s.spdmCertificate req = if off < Config.certChain.length then (s.spdmLogged (req.take 8) resp).spdmSend resp else s.spdmError 0x01 0 [] := by
  intro off part resp
  have hresp : spdmMsg s.spdm.version 0x02 0 0 (leBytes 2 part.length ++ leBytes 2 (Config.certChain.length - off - part.length) ++ part) = resp := by
    simp [spdmMsg_bytes, resp]
  rw [← hresp]
  split
  · next hlt => exact if_neg (by simp [hslot]; exact hlt)
  · next hge => exact if_pos (.inr (Nat.not_lt.1 hge))

theorem State.spdmChallenge_slot0 {req : List Byte} (hslot : byteField req 2 1 % 16 = 0) : let v := s.spdm.version
    let u := (s.drawBytes 96).2
    let fresh := (s.drawBytes 96).1
    let body := leBytes 1 v ++ [0x03, 0, 1] ++ sha3_512 Config.certChain ++ fresh.take 32 ++ s.summaryHash (byteField req 3 1) (fresh.drop 32) ++
      [0, 0] ++ s.spdmContext req 36
    let signed := s.spdm.vca ++ s.spdm.certLog ++ req.take (36 + if v = 0x13 then 8 else 0) ++ body
    s.spdmChallenge req = (u.setSpdm { u.spdm with measLog := [], certLog := [] }).spdmSend
      (body ++ u.spdmSign "responder-challenge_auth signing" signed) := by
  intro v u fresh body signed
  have hbody : spdmMsg v 0x03 0 1 (chainDigest ++ fresh.take 32 ++ s.summaryHash (byteField req 3 1) (fresh.drop 32) ++ leBytes 2 0 ++
      s.spdmContext req 36) = body := by simp [spdmMsg_bytes, body, chainDigest, leBytes]
  have htake : (36 + if v = 0x13 then 8 else 0) = if v = 0x13 then 44 else 36 := by split <;> rfl
  simp only [signed]
  rw [← hbody, htake]
  exact if_neg (by simp [hslot])

/-- The body of a MEASUREMENTS response: the blocks asked for, 32 free bytes, and the requester's context from `at_` on. -/
def State.measBody (s : State) (req : List Byte) (at_ : Nat) : List Byte :=
  let op := byteField req 3 1
  let blocks := (measAsked op).flatMap s.measBlock
  leBytes 1 s.spdm.version ++ [0x60] ++ leBytes 1 (if op = 0 then measured.length else 0) ++ [0] ++ leBytes 1 (measAsked op).length ++
    leBytes 3 blocks.length ++ blocks ++ (s.drawBytes 32).1 ++ [0, 0] ++ s.spdmContext req at_

/-- The measurement log with this exchange. -/
def State.measLogged (s : State) (req : List Byte) (at_ : Nat) : List Byte :=
  s.spdm.measLog ++ req.take (at_ + if s.spdm.version = 0x13 then 8 else 0) ++ s.measBody req at_

theorem State.measBody_eq (s : State) (req : List Byte) (at_ : Nat) : let op := byteField req 3 1
    let blocks := (measAsked op).flatMap s.measBlock
    spdmMsg s.spdm.version 0x60 (if op = 0 then measured.length else 0) 0 (leBytes 1 (measAsked op).length ++ leBytes 3 blocks.length ++ blocks ++
      (s.drawBytes 32).1 ++ leBytes 2 0 ++ s.spdmContext req at_) = s.measBody req at_ := by
  simp [State.measBody, spdmMsg_bytes, leBytes]

theorem State.spdmMeasurements_signed {req : List Byte} (hsign : byteField req 2 1 % 2 = 1) : let u := (s.drawBytes 32).2
    s.spdmMeasurements req = (u.setSpdm { u.spdm with measLog := [] }).spdmSend
      (s.measBody req 37 ++ u.spdmSign "responder-measurements signing" (s.spdm.vca ++ s.measLogged req 37)) := by
  simp only [State.spdmMeasurements, hsign, State.measLogged, ← State.measBody_eq]
  simp

theorem State.spdmMeasurements_plain {req : List Byte} (hsign : byteField req 2 1 % 2 ≠ 1) : let u := (s.drawBytes 32).2
    s.spdmMeasurements req = (u.setSpdm { u.spdm with measLog := s.measLogged req 4 }).spdmSend (s.measBody req 4) := by
  simp only [State.spdmMeasurements, hsign, State.measLogged, ← State.measBody_eq]
  simp

/-- Settles O37: each attestation request that its checks pass. -/
theorem attestationAnswers : Obligations.AttestationAnswers := by
  intro s req h v context extra
  refine ⟨fun hw => ?_, fun hw => ⟨fun hslot => ?_, fun hslot => ?_⟩, fun hw => ⟨fun hslot => ?_, fun hslot => ?_⟩, fun hsign hw => ?_, fun hsign hw => ?_⟩
  · refine (exec_getDigests req s).trans (congrArg _ ((State.spdmRequest_right h hw _).trans ?_))
    have hresp : spdmMsg s.spdm.version 0x01 (if s.spdm.version = 0x13 then 1 else 0) 1 chainDigest =
        leBytes 1 v ++ [0x01] ++ leBytes 1 (if v = 0x13 then 1 else 0) ++ [1] ++ sha3_512 Config.certChain := by
      simp [spdmMsg_bytes, leBytes, chainDigest, v]
    rw [← hresp]
    rfl
  · exact (exec_getCertificate req s).trans (congrArg _ ((State.spdmRequest_right h hw _).trans (State.spdmCertificate_slot0 hslot)))
  · exact (exec_getCertificate req s).trans (congrArg _ ((State.spdmRequest_right h hw _).trans (if_pos (.inl hslot))))
  · exact (exec_challenge req s).trans (congrArg _ ((State.spdmRequest_right h hw _).trans (State.spdmChallenge_slot0 hslot)))
  · exact (exec_challenge req s).trans (congrArg _ ((State.spdmRequest_right h hw _).trans (if_pos hslot)))
  · rw [exec_getMeasurements, if_pos hsign, State.spdmRequest_right h hw]
    exact congrArg _ (State.spdmMeasurements_signed hsign)
  · rw [exec_getMeasurements, if_neg hsign, State.spdmRequest_right h hw]
    exact congrArg _ (State.spdmMeasurements_plain hsign)

end

end Sys2Proof.Machine
end

section
/-! SUPPORT. The SMBus record (R637) and the boundary-scan chain (R648, R649). -/

namespace Sys2Proof.Machine

section
variable {s : State}

/-! ## SMBus -/

theorem exec_smbusOffsetWrite (ms n : Nat) (s : State) :
    exec (.smbusOffsetWrite ms n) s = .next (s.smbusAt ms (s.setSecurity { s.security with smbus := n % 256 })) := rfl
theorem exec_smbusRead (ms n : Nat) (s : State) : exec (.smbusRead ms n) s = .next (s.smbusAt ms (s.smbusBytes n)) := rfl

theorem State.smbusAt_acknowledged (h : s.power.supply = .valid) {ms : Nat} (hms : 60 ≤ ms) (run : State) : s.smbusAt ms run = run := if_pos ⟨h, hms⟩
theorem State.smbusAt_silent {ms : Nat} (h : s.power.supply ≠ .valid ∨ ms < 60) (run : State) : s.smbusAt ms run = s.send .smbusNack :=
  if_neg fun ⟨hvalid, hms⟩ => h.elim (fun hno => hno hvalid) (Nat.not_lt.2 hms)

theorem leBytes_length (n v : Nat) : (leBytes n v).length = n := by
  induction n generalizing v with
  | zero => rfl
  | succ n ih => rw [leBytes, List.length_cons, ih]

theorem State.healthRecord_length (s : State) : s.healthRecord.length = 32 := by
  simp [State.healthRecord, leBytes_length, zeros]

/-! ## Boundary scan -/

/-- From `s` to `t` one die's chain is scanned: its instruction is in force there alone, and what is shifted out goes to the pin. -/
structure State.Scans (s t : State) (d : Nat) (y : Tap) (captured tdi : List Bool) : Prop where
  parts : s.OnlyParts t [.host, .security]
  here : t.tap d = y
  others : ∀ k, k ≠ d → t.tap k = s.tap k
  security : t.security = { s.security with taps := t.security.taps }
  host : t.host = { s.host with outbox := s.host.outbox ++ [.scanOut ((captured ++ tdi).take tdi.length)] }

theorem State.scanned_scans (s : State) (d : Nat) (y : Tap) (captured tdi : List Bool) : s.Scans (s.scanned d y captured tdi) d y captured tdi where
  parts := ((s.setSecurity_onlyParts _).mono (by decide)).next (State.setHost_onlyParts _ _)
  here := Tbl.look_put_same _ _ _ _
  others k hk := Tbl.look_put_other _ _ _ hk
  security := by simp [State.scanned, State.setTap]
  host := by simp [State.scanned, State.setTap, shiftBits]

theorem exec_idcode (h : s.tapsOn = true) (d : DieId) (pins tdi : List Bool) : exec (.idcode d pins tdi) s =
    .next (s.scanned d { s.tap d with ir := 0x01, driving := false, floating := false } ((List.range 32).map (fun i => s.idcode.testBit i)) tdi) :=
  congrArg Host.Outcome.next (if_pos h)
theorem exec_samplePreload (h : s.tapsOn = true) (d : DieId) (pins tdi : List Bool) :
    exec (.samplePreload d pins tdi) s = .next (s.sampled d 0x02 false pins tdi) := congrArg Host.Outcome.next (if_pos h)
theorem exec_extest (d : DieId) (pins tdi : List Bool) (s : State) :
    exec (.extest d pins tdi) s = .next (s.scanMode d 0x00 tdi (s.sampled d 0x00 true pins tdi)) := rfl
theorem exec_clamp (d : DieId) (pins tdi : List Bool) (s : State) : exec (.clamp d pins tdi) s =
    .next (s.scanMode d 0x04 tdi (s.scanned d { s.tap d with ir := 0x04, driving := true, floating := false } [false] tdi)) := rfl
theorem exec_highz (d : DieId) (pins tdi : List Bool) (s : State) : exec (.highz d pins tdi) s =
    .next (s.scanMode d 0x05 tdi (s.scanned d { s.tap d with ir := 0x05, driving := false, floating := true } [false] tdi)) := rfl
theorem exec_bypass (h : s.tapsOn = true) (d : DieId) {code : Nat} (hcode : code % 256 ∉ [0x00, 0x01, 0x02, 0x04, 0x05]) (tdi : List Bool) :
    exec (.bypass d code tdi) s = .next (s.bypassed d (code % 256) tdi) :=
  congrArg Host.Outcome.next (if_neg fun hno => hno.elim (fun hoff => by simp [h] at hoff) hcode)

theorem State.scanMode_high (h : s.tapsOn = true) (hen : s.power.scanEn = true) (d code : Nat) (tdi : List Bool) (run : State) :
    s.scanMode d code tdi run = run := by
  rw [State.scanMode, if_neg (by simp [h]), if_pos hen]

theorem State.scanMode_low (h : s.tapsOn = true) (hen : s.power.scanEn = false) (d code : Nat) (tdi : List Bool) (run : State) :
    s.scanMode d code tdi run = s.bypassed d code tdi := by
  rw [State.scanMode, if_neg (by simp [h]), if_neg (by simp [hen])]

end

/-- Settles O38: the SMBus record by supply and time, and the chain by its instruction and SCAN_EN. -/
theorem sidebandAccess : Obligations.SidebandAccess := by
  refine fun s => ⟨fun hvalid => ⟨fun ms n hms => ⟨?_, ?_⟩, fun d pins tdi => ?_⟩, fun ms n hno c hc => ?_, s.healthRecord_length⟩
  · rw [exec_smbusOffsetWrite, State.smbusAt_acknowledged hvalid hms]
  · rw [exec_smbusRead, State.smbusAt_acknowledged hvalid hms]
    rfl
  · intro x scans latch
    have hon : s.tapsOn = true := by simp [State.tapsOn, hvalid]
    have hscans (c : Instr) (y : Tap) (captured : List Bool) (hc : exec c s = .next (s.scanned d y captured tdi)) : scans c y captured := by
      obtain ⟨hparts, hhere, hothers, hsec, hhost⟩ := s.scanned_scans d y captured tdi
      exact ⟨_, hc, hparts, hhere, hothers, hsec, hhost⟩
    refine ⟨hscans _ _ _ (exec_idcode hon d pins tdi), hscans _ _ _ (exec_samplePreload hon d pins tdi),
      fun hen => ⟨hscans _ _ _ ?_, hscans _ _ _ ?_, hscans _ _ _ ?_⟩, fun hen c hc => hscans _ _ _ ?_,
      fun code hcode => hscans _ _ _ (exec_bypass hon d hcode tdi)⟩
    · rw [exec_extest, State.scanMode_high hon hen]
      rfl
    · rw [exec_clamp, State.scanMode_high hon hen]
    · rw [exec_highz, State.scanMode_high hon hen]
    · simp only [List.mem_cons, List.not_mem_nil, or_false] at hc
      obtain rfl | rfl | rfl := hc
      · rw [exec_extest, State.scanMode_low hon hen]
        rfl
      · rw [exec_clamp, State.scanMode_low hon hen]
        rfl
      · rw [exec_highz, State.scanMode_low hon hen]
        rfl
  · simp only [List.mem_cons, List.not_mem_nil, or_false] at hc
    obtain rfl | rfl := hc
    · rw [exec_smbusOffsetWrite, State.smbusAt_silent hno]
    · rw [exec_smbusRead, State.smbusAt_silent hno]

end Sys2Proof.Machine
end

section
/-! SUPPORT. HOLD_UP_FLUSH_DONE (R575 to R578) of a state whose link is up: the programs that the flush completes can retire a section,
which takes the last of the spare reserve and raises the event vector (R474, R508, R624). -/

namespace Sys2Proof.Machine

section
variable {s : State}

/-! ## The first section of a list, as shipped, is allocated -/

theorem State.bestFree_first {p : Nat} (ps : List Nat) (hfree : (s.sec p).st = .free) (hgood : s.fbit F.flsGroupDegraded (groupOf p) = false)
    (hnew : (s.sec p).erases = 0) : s.bestFree (p :: ps) = some p := by
  have hstays (l : List Nat) : l.foldl (fun best x => match best with
      | none => some x
      | some b => if (s.sec x).erases < (s.sec b).erases then some x else some b) (some p) = some p := by
    induction l with
    | nil => rfl
    | cons x l ih => simpa [hnew] using ih
  rw [State.bestFree, List.filter_cons_of_pos (by simp [hfree, hgood])]
  exact hstays _

theorem State.allocAmong_first {cands : State → List Nat} {p : Nat} {ps : List Nat} {u : State} (hcands : cands s = p :: ps)
    (hfree : (s.sec p).st = .free) (hgood : s.fbit F.flsGroupDegraded (groupOf p) = false) (hnew : (s.sec p).erases = 0)
    (hremap : s.remapAll p (s.sec p).badSlots = some u) (st : SecSt) (fuel : Nat) :
    s.allocAmong cands st (fuel + 1) = some (p, u.setSecSt p st) := by
  rw [State.allocAmong, hcands, State.bestFree_first ps hfree hgood hnew]
  simp only [hremap]

theorem secsOfDie_cons (d : Nat) : ∃ ps, secsOfDie d = 24 * 1368 * d :: ps :=
  ⟨(List.range 32831).map fun i => 24 * 1368 * d + (i + 1), by
    rw [secsOfDie, show 24 * 1368 = 32831 + 1 from rfl, List.range_succ_eq_map]
    simp⟩

/-- The journal rolls over to the first sections of dies 0 and 1, where both are as shipped. -/
theorem State.rollover_first {u : State} (hfree0 : (s.sec 0).st = .free) (hgood0 : s.fbit F.flsGroupDegraded 0 = false)
    (hnew0 : (s.sec 0).erases = 0) (hremap0 : s.remapAll 0 (s.sec 0).badSlots = some u) :
    let v := u.setSecSt 0 .journal
    (v.sec 32832).st = .free → v.fbit F.flsGroupDegraded 24 = false → (v.sec 32832).erases = 0 → (v.sec 32832).badSlots = [] →
      let w := ((v.setSecSt 32832 .journal).journalRaw 7 0 (leBytes 1 4)).journalRaw 7 32832 (leBytes 1 4)
      s.rollover = (w.setFlash { w.flash with oldPair := w.flash.oldPair ++ w.flash.pair, pair := [0, 32832], pairBytes := 0 }).askCheckpoint := by
  intro v hfree1 hgood1 hnew1 hslots1 w
  obtain ⟨ps, hps⟩ := secsOfDie_cons 0
  obtain ⟨qs, hqs⟩ := secsOfDie_cons 1
  have hfirst := State.allocAmong_first (s := s) (cands := fun _ => secsOfDie 0) hps hfree0 hgood0 hnew0 hremap0 .journal 63
  have hsecond := State.allocAmong_first (s := v) (cands := fun _ => secsOfDie 1) (u := v) hqs hfree1 hgood1 hnew1
    (by rw [hslots1]; rfl) .journal 63
  rw [State.rollover, hfirst]
  simp only [Nat.mul_zero]
  rw [show (u.setSecSt (24 * 1368 * 0) .journal) = v from rfl, hsecond]

/-- The journal buffers' bytes of a unit have gone to the pair. -/
def State.bufMoved (s : State) : State :=
  s.setFlash { s.flash with bufBytes := s.flash.bufBytes - 2949120, pairBytes := s.flash.pairBytes + 2949120 }

theorem State.journalDrain_rolls (hpair : s.flash.pair = []) (hbuf : 2949120 ≤ s.flash.bufBytes) (hfull : 2717908992 ≤ s.flash.pairBytes) :
    s.journalDrain = s.bufMoved.rollover := by
  have hunits : s.bufMoved.flash.pair.foldl State.journalUnit s.bufMoved = s.bufMoved := by
    rw [show s.bufMoved.flash.pair = [] from hpair, List.foldl_nil]
  have hrolls : s.journalDrain = (fun t : State => if t.flash.pairBytes ≥ 2717908992 then t.rollover else t)
      (s.bufMoved.flash.pair.foldl State.journalUnit s.bufMoved) := if_neg (Nat.not_lt.2 hbuf)
  rw [hrolls, hunits]
  exact if_pos (Nat.le_add_right_of_le hfull)

/-! ## The programs that a flush completes -/

/-- The units whose programs have begun and that no merge holds, in the order of their places. -/
def State.begun (s : State) : List (Nat × PUnit) :=
  (List.range 1024).flatMap fun u => (s.flash.units.filter fun e => e.2.programming && !e.2.merge).filter fun e => e.2.unit = u

theorem State.endPrograms_one {i : Nat} {x : PUnit} (h : s.begun = [(i, x)]) : s.endPrograms = s.unitDone i [] := by
  have hfold : s.endPrograms = s.begun.foldl (fun (s : State) e => s.unitDone e.1 []) s := rfl
  rw [hfold, h, List.foldl_cons, List.foldl_nil]

/-- A unit of a log is committed, its journal record in the buffers. -/
def State.unitJournalled (s : State) (i : Nat) : State :=
  let u := s.punit i
  ((s.setPunit i {}).putSec u.sec { s.sec u.sec with units := u.unit + 1 }).journalRaw 3 u.sec
    (leBytes 2 u.unit ++ leBytes 2 720 ++ (if u.inOrder then [] else unitOffsets u.lbas))

/-- The map follows a committed unit, and its sub-blocks are clean. -/
def State.unitMapped (s : State) (u : PUnit) : State :=
  (s.setLsec u.lsec { s.lsec u.lsec with smap := smapAfter (s.lsec u.lsec) u.sec u.unit u.inOrder u.lbas }).cleaned u.lbas

theorem State.unitCommitted_inside {i : Nat} (hunit : (s.punit i).unit ≠ 1023) :
    s.unitCommitted i = (s.unitJournalled i).journalDrain.unitMapped (s.punit i) := if_neg fun hlast => hunit hlast.2

/-- A log unit's program passes, and no write-back waits for its buffer. -/
theorem State.unitDone_log {i : Nat} (hlive : (s.punit i).live = true) (hprog : (s.punit i).programming = true)
    (hunit : (s.punit i).unit = (s.sec (s.punit i).sec).units) (hmerge : (s.punit i).merge = false)
    (hlog : (s.sec (s.punit i).sec).st ≠ .journal)
    (hquiet : (((s.bump F.flsCtrCount 14 1).bump F.flsCtrCount 9 0).unitCommitted i).flash.crowded = []) :
    s.unitDone i [] = ((s.bump F.flsCtrCount 14 1).bump F.flsCtrCount 9 0).unitCommitted i := by
  rw [State.unitDone, if_neg (by simp [hlive, hprog, hunit])]
  simp only [hmerge, hlog, List.length_nil, decide_false, if_true, Bool.false_eq_true, if_false]
  rw [State.stagingOn, hquiet]

end

/-! ## The counterexample -/

/-- A flush under way with the link up: one in-order unit in program, the journal full, the first section with a bad block, the spare
reserve at its end, and the event vector enabled for the media flag. -/
def linkedFlush : State :=
  let s := (((State.reset.fset F.pwrBootPhase 0 5).fset F.glbEventCfgEnable 0 1).fset F.glbEventCfgMask 0 65535).fset F.flsHealthReserve 0 0
  let t := (s.setPower { s.power with supply := .flushing }).setHost { s.host with link := some (16, 128), msixTable := [(0, 0)] }
  t.setFlash { t.flash with
    secs := [(0, { badSlots := [0] })]
    units := [(0, { live := true, programming := true, inOrder := true, sec := 5 })]
    pair := []
    bufBytes := 2949120
    pairBytes := 2717908992 }


/-- Its unit is committed and the buffers' unit has gone to the pair, which is full. -/
def linkedFull : State := (((linkedFlush.bump F.flsCtrCount 14 1).bump F.flsCtrCount 9 0).unitJournalled 0).bufMoved

/-- The first section is remapped by retiring another of its group, and holds the journal. -/
def linkedRemapped : State := ((linkedFull.remapSlot 0 0).getD linkedFull).setSecSt 0 .journal

/-- The journal has rolled over. -/
def linkedRolled : State :=
  let w := ((linkedRemapped.setSecSt 32832 .journal).journalRaw 7 0 (leBytes 1 4)).journalRaw 7 32832 (leBytes 1 4)
  (w.setFlash { w.flash with oldPair := w.flash.oldPair ++ w.flash.pair, pair := [0, 32832], pairBytes := 0 }).askCheckpoint

/-- The flush of `linkedFlush` once its program is done. -/
def linkedDone : State := linkedRolled.unitMapped (linkedFlush.punit 0)

theorem linkedFlush_begun : linkedFlush.begun = [(0, { live := true, programming := true, inOrder := true, sec := 5 })] := by decide +kernel

theorem linkedFull_section : (linkedFull.sec 0).st = .free ∧ linkedFull.fbit F.flsGroupDegraded 0 = false ∧ (linkedFull.sec 0).erases = 0 ∧
    (linkedFull.sec 0).badSlots = [0] ∧ (linkedFull.remapSlot 0 0).isSome = true := by decide +kernel

theorem linkedRemapped_section : (linkedRemapped.sec 32832).st = .free ∧ linkedRemapped.fbit F.flsGroupDegraded 24 = false ∧
    (linkedRemapped.sec 32832).erases = 0 ∧ (linkedRemapped.sec 32832).badSlots = [] := by decide +kernel

theorem linkedDone_sends : linkedDone.flash.crowded = [] ∧ linkedDone.host.outbox.length = 1 := by decide +kernel

theorem linkedFull_rolls : linkedFull.rollover = linkedRolled := by
  obtain ⟨hfree0, hgood0, hnew0, hslots0, hsome⟩ := linkedFull_section
  obtain ⟨hfree1, hgood1, hnew1, hslots1⟩ := linkedRemapped_section
  obtain ⟨u, hu⟩ := Option.isSome_iff_exists.1 hsome
  have hremap : linkedFull.remapAll 0 (linkedFull.sec 0).badSlots = some ((linkedFull.remapSlot 0 0).getD linkedFull) := by
    rw [hslots0, State.remapAll, hu]
    rfl
  exact State.rollover_first hfree0 hgood0 hnew0 hremap hfree1 hgood1 hnew1 hslots1

theorem linkedFlush_committed : ((linkedFlush.bump F.flsCtrCount 14 1).bump F.flsCtrCount 9 0).unitCommitted 0 = linkedDone := by
  have hunit : ((linkedFlush.bump F.flsCtrCount 14 1).bump F.flsCtrCount 9 0).punit 0 = linkedFlush.punit 0 := by
    simp only [State.punit, State.bump_flash]
  rw [State.unitCommitted_inside (by decide +kernel), State.journalDrain_rolls (by decide +kernel) (by decide +kernel) (by decide +kernel),
    ← linkedFull, linkedFull_rolls, hunit, linkedDone]

theorem linkedFlush_ends : linkedFlush.endPrograms = linkedDone := by
  rw [State.endPrograms_one linkedFlush_begun, State.unitDone_log (by decide +kernel) (by decide +kernel) (by decide +kernel)
    (by decide +kernel) (by decide +kernel) (by rw [linkedFlush_committed]; exact linkedDone_sends.1), linkedFlush_committed]

theorem exec_holdUpFlushDone {s : State} (h : s.power.supply = .flushing) : exec .holdUpFlushDone s = .next s.flushDone :=
  congrArg Host.Outcome.next (if_pos h)

/-- A flush sends the host what its programs send. -/
theorem State.flushDone_outbox {s : State} (h : s.flushes = true) : s.flushDone.host.outbox = s.endPrograms.host.outbox := by
  rw [State.flushDone, if_pos h]
  simp [State.unpowered, State.commitFlush, State.journalRaw]

/-- Refutes O39: at the end of the flush of `linkedFlush`, a state whose link is up while it flushes, the program under way fills the
journal, which rolls over to a section with a bad block; the section that gives its blocks retires, the spare reserve runs out, and
the event vector reaches the host, so that the outbox is not what it was. -/
theorem not_supplyEvents : ¬ Obligations.SupplyEvents := by
  unfold Obligations.SupplyEvents
  intro h
  obtain ⟨-, -, -, -, -, -, -, hflush, -⟩ := h linkedFlush
  obtain ⟨-, -, t, hexec, -, hhost, -⟩ := hflush (by decide +kernel)
  have ht : t = linkedFlush.flushDone := (Host.Outcome.next.inj ((exec_holdUpFlushDone (by decide +kernel)).symm.trans hexec)).symm
  have hsame : t.host.outbox = linkedFlush.host.outbox := by rw [hhost]
  have hone : t.host.outbox.length = 1 := by
    rw [ht, State.flushDone_outbox (by decide +kernel), linkedFlush_ends]
    exact linkedDone_sends.2
  rw [hsame, show linkedFlush.host.outbox = [] by decide +kernel] at hone
  exact absurd hone (by decide)

end Sys2Proof.Machine
end

section
/-! SUPPORT. Power-up (R552, R553, R567, R570, R571, R595), step by step. -/

namespace Sys2Proof.Machine

section
variable {s : State}

/-! ## PWR.BOOT -/

theorem State.setPhase_phase (s : State) {ph : Nat} (h : ph < 16) : (s.setPhase ph).fget F.pwrBootPhase 0 = ph := by
  rw [State.setPhase, State.setPower_fget, State.fget_fset_same _ _ _ _ (by decide)]
  exact Nat.mod_eq_of_lt h

theorem State.setPhase_fget (s : State) (ph i : Nat) {f : Fld} (h : F.pwrBootPhase.apart f = true) : (s.setPhase ph).fget f i = s.fget f i := by
  rw [State.setPhase, State.setPower_fget, State.fget_fset_of_apart _ _ _ _ h]

theorem State.setPhase_power (s : State) (ph : Nat) : (s.setPhase ph).power = { s.power with faultLow := ph = 6 || ph = 7 } := by
  simp [State.setPhase]

theorem State.setPhase_within (s : State) (ph : Nat) : s.Within (s.setPhase ph) [.regs, .power] (fun r _ => r = .pwrBoot) :=
  ⟨((s.fset_onlyParts _ _ _).mono (by decide)).next (State.setPower_onlyParts _ _), by simp [State.setPhase, F.pwrBootPhase]⟩

theorem State.poweringUp_of (hvalid : s.power.supply = .valid) (hscan : s.power.scanEn = false) : s.poweringUp = true := by
  simp [State.poweringUp, hvalid, hscan]

/-! ## Self-tests (R552, R553) -/

/-- A checker that failed is kept, and logged. -/
def State.checkerLogged (s : State) (i n step : Nat) : State :=
  (s.setPower { s.power with failedCheckers := s.power.failedCheckers ++ [(i, n)] }).event i 0x0803 0 (i + 256 * step) n

theorem exec_checkerSelfTest (hup : s.poweringUp = true) (hphase : s.fget F.pwrBootPhase 0 = 0) {i : IslandId} {n : Nat}
    (hstarted : s.power.started.contains i.val = true) (hnew : s.power.failedCheckers.contains (i.val, n) = false) (step : Fin 7) :
    exec (.checkerSelfTest i n (some step)) s = .next (s.checkerFails i n step) :=
  congrArg Host.Outcome.next (if_pos ⟨hup, hstarted, hphase, by rw [hnew]; rfl⟩)

theorem islandClass_station {i : Nat} (hi : i < 140) (hk : i % 35 < 16) : islandClass i = 0 := by
  rw [islandClass, if_neg (Nat.ne_of_lt hi)]
  exact if_pos hk

theorem islandClass_cache {i : Nat} (hi : i < 140) (hk : i % 35 = 16) : islandClass i = 1 := by
  rw [islandClass, if_neg (Nat.ne_of_lt hi)]
  simp [hk]

theorem islandClass_box {i : Nat} (hi : i < 140) (hk : i % 35 = 17) : islandClass i = 2 := by
  rw [islandClass, if_neg (Nat.ne_of_lt hi)]
  simp [hk]

theorem islandClass_stack {i : Nat} (hi : i < 140) (hlow : 18 ≤ i % 35) (hhigh : i % 35 < 26) : islandClass i = 3 := by
  rw [islandClass, if_neg (Nat.ne_of_lt hi)]
  simp only
  rw [if_neg (by omega), if_neg (by omega), if_neg (by omega), if_pos hhigh]

theorem islandClass_flash {i : Nat} (hi : i < 140) (hlow : 26 ≤ i % 35) (hhigh : i % 35 < 29) : islandClass i = 4 := by
  rw [islandClass, if_neg (Nat.ne_of_lt hi)]
  simp only
  rw [if_neg (by omega), if_neg (by omega), if_neg (by omega), if_neg (by omega), if_pos hhigh]

theorem islandClass_line {i : Nat} (hi : i < 140) (hlow : 29 ≤ i % 35) : islandClass i = 5 := by
  rw [islandClass, if_neg (Nat.ne_of_lt hi)]
  simp only
  rw [if_neg (by omega), if_neg (by omega), if_neg (by omega), if_neg (by omega), if_neg (by omega)]

section
variable {i n step : Nat}

theorem State.checkerFails_station (h : islandClass i = 0) :
    s.checkerFails i n step = (s.checkerLogged i n step).stationCheckerFails (16 * (i / 35) + i % 35) n := by
  rw [State.checkerFails, h]
  rfl
theorem State.checkerFails_cache (h : islandClass i = 1) : s.checkerFails i n step = (s.checkerLogged i n step).fenceBank (i / 35) n := by
  rw [State.checkerFails, h]
  rfl
theorem State.checkerFails_stack (h : islandClass i = 3) :
    s.checkerFails i n step = (s.checkerLogged i n step).fenceStack (8 * (i / 35) + i % 35 - 18) := by
  rw [State.checkerFails, h]
  rfl
theorem State.checkerFails_flash (h : islandClass i = 4) : s.checkerFails i n step =
    (List.range 16).foldl (fun (s : State) c => s.failChannel (16 * (3 * (i / 35) + i % 35 - 26) + c)) (s.checkerLogged i n step) := by
  rw [State.checkerFails, h]
  rfl
theorem State.checkerFails_line (h : islandClass i = 5) : s.checkerFails i n step =
    ((s.checkerLogged i n step).fset F.brlLineStateState (6 * (i / 35) + i % 35 - 29) 7).flag F.glbEventStatusLineFailed := by
  rw [State.checkerFails, h]
  rfl

theorem State.coreDown_cores (s : State) (d : Nat) : Tbl.look 0 (s.coreDown d).power.coresDown d = Tbl.look 0 s.power.coresDown d + 1 := by
  rw [State.coreDown, State.fset_power, State.setPower_power, Tbl.look_put_same]

/-- A die that has a core left goes on. -/
theorem State.checkerFails_core (h : islandClass i = 2) (hcores : Tbl.look 0 s.power.coresDown (i / 35) = 0) :
    s.checkerFails i n step = (s.checkerLogged i n step).coreDown (i / 35) := by
  have hone : Tbl.look 0 ((s.checkerLogged i n step).coreDown (i / 35)).power.coresDown (i / 35) = 1 := by
    rw [State.coreDown_cores]
    exact congrArg (· + 1) hcores
  rw [State.checkerFails, h]
  exact if_neg (by rw [State.checkerLogged] at hone; rw [hone]; decide)

/-- A queue window that has a decoder left goes on. -/
theorem State.checkerFails_window (h : islandClass i = 6) (hdecoders : s.ecc.windowDecoders = 0) :
    s.checkerFails i n step = (s.checkerLogged i n step).windowDecoderFails := by
  have hone : (s.checkerLogged i n step).windowDecoderFails.ecc.windowDecoders = 1 := congrArg (· + 1) hdecoders
  rw [State.checkerFails, h]
  exact if_neg (by rw [State.checkerLogged] at hone; rw [hone]; decide)

theorem State.stationCheckerFails_lane (s : State) (st : Nat) (h : n < 33) : s.stationCheckerFails st n = s.retireLane st n 4 [] none := if_pos h

theorem State.stationCheckerFails_station (s : State) (st : Nat) (hlow : 33 ≤ n) (hhigh : n < 36) :
    s.stationCheckerFails st n = s.fenceStation st 1 := by
  rw [State.stationCheckerFails, if_neg (Nat.not_lt.2 hlow), if_pos hhigh]

end

/-! ## Firmware (R567, R570) -/

theorem State.measureAll_within (s : State) : s.Within s.measureAll [.regs] (fun r _ => r = .secMeas) :=
  .foldl (fun s _ => s.rsetBytes_within _ _ _) _ s

theorem State.runFirmware_runs (s : State) {r : Nat} (hr : r < 2) (fallback : Bool) : let t := s.runFirmware r fallback
    t.fget F.pwrBootPhase 0 = 1 ∧ t.fget F.glbFwRunning 0 = r ∧ t.fget F.pwrBootFwFallback 0 = bit fallback ∧
      t.power = { s.power with faultLow := false } := by
  obtain ⟨u, hu⟩ : ∃ u, u = (s.fset F.glbFwRunning 0 r).fset F.pwrBootFwFallback 0 (bit fallback) := ⟨_, rfl⟩
  have hmeasured := (u.setPhase 1).measureAll_within
  have hrun : s.runFirmware r fallback = (u.setPhase 1).measureAll := by rw [State.runFirmware, hu]
  rw [hrun]
  refine ⟨?_, ?_, ?_, ?_⟩
  · rw [hmeasured.regs.field F.pwrBootPhase 0 (by decide), State.setPhase_phase _ (by decide)]
  · rw [hmeasured.regs.field F.glbFwRunning 0 (by decide), State.setPhase_fget _ _ _ (by decide), hu, State.fget_fset_of_apart _ _ _ _ (by decide),
      State.fget_fset_same _ _ _ _ (by decide)]
    exact Nat.mod_eq_of_lt hr
  · rw [hmeasured.regs.field F.pwrBootFwFallback 0 (by decide), State.setPhase_fget _ _ _ (by decide), hu, State.fget_fset_same _ _ _ _ (by decide)]
    cases fallback <;> rfl
  · rw [hmeasured.parts .power (by decide), State.setPhase_power, hu]
    simp

/-- The regions that boot are shown. -/
def State.bootsShown (s : State) : State := (s.fset F.glbFwAValid 0 (bit (s.boots 0))).fset F.glbFwBValid 0 (bit (s.boots 1))

theorem State.verifyFirmware_eq (s : State) : s.verifyFirmware =
    if s.boots (s.setting 0x0002 % 2) then s.bootsShown.runFirmware (s.setting 0x0002 % 2) false
    else if s.boots (1 - s.setting 0x0002 % 2) then s.bootsShown.runFirmware (1 - s.setting 0x0002 % 2) true
    else (s.bootsShown.setPhase 7).fset F.pwrBootEndCause 0 4 := rfl

theorem State.bootsShown_power (s : State) : s.bootsShown.power = s.power := by simp [State.bootsShown]

theorem State.verifyFirmware_runs (h : s.boots (s.setting 0x0002 % 2) = true ∨ s.boots (1 - s.setting 0x0002 % 2) = true) :
    let r := s.setting 0x0002 % 2
    s.verifyFirmware.fget F.pwrBootPhase 0 = 1 ∧ s.verifyFirmware.fget F.glbFwRunning 0 = (if s.boots r = true then r else 1 - r) ∧
      s.verifyFirmware.fget F.pwrBootFwFallback 0 = bit (!s.boots r) ∧ s.verifyFirmware.power = { s.power with faultLow := false } := by
  intro r
  have hr : r < 2 := Nat.mod_lt _ (by decide)
  cases hb : s.boots r with
  | true =>
    rw [State.verifyFirmware_eq, if_pos hb, ← s.bootsShown_power]
    exact s.bootsShown.runFirmware_runs hr false
  | false =>
    have hother : s.boots (1 - r) = true := h.resolve_left (by rw [hb]; decide)
    rw [State.verifyFirmware_eq, if_neg (by simpa using hb), if_pos hother, ← s.bootsShown_power]
    exact s.bootsShown.runFirmware_runs (by omega) true

theorem State.verifyFirmware_stops (h0 : s.boots 0 = false) (h1 : s.boots 1 = false) :
    s.verifyFirmware.fget F.pwrBootPhase 0 = 7 ∧ s.verifyFirmware.fget F.pwrBootEndCause 0 = 4 ∧
      s.verifyFirmware.power = { s.power with faultLow := true } := by
  have hnone (r : Nat) (hr : r < 2) : ¬ s.boots r = true := by interval_cases r <;> simp [h0, h1]
  rw [State.verifyFirmware_eq, if_neg (hnone _ (Nat.mod_lt _ (by decide))), if_neg (hnone _ (by omega))]
  refine ⟨?_, ?_, ?_⟩
  · rw [State.fget_fset_of_apart _ _ _ _ (by decide), State.setPhase_phase _ (by decide)]
  · rw [State.fget_fset_same _ _ _ _ (by decide)]
    rfl
  · rw [State.fset_power, State.setPhase_power, State.bootsShown_power]
    simp

theorem exec_firmwareBootVerify (hup : s.poweringUp = true) (hphase : s.fget F.pwrBootPhase 0 = 0) :
    exec .firmwareBootVerify s = .next s.verifyFirmware := congrArg Host.Outcome.next (if_pos ⟨hup, hphase⟩)

/-! ## The later steps -/

theorem exec_storeCompared (hup : s.poweringUp = true) (hphase : s.fget F.pwrBootPhase 0 = 1) (differs : Nat) :
    exec (.storeCompared differs) s = .next (s.storeCompared differs) := congrArg Host.Outcome.next (if_pos ⟨hup, hphase⟩)
theorem exec_mapRebuild (s : State) : exec .mapRebuild s = .next (if s.poweringUp ∧ s.fget F.pwrBootPhase 0 = 2 ∧ s.fget F.glbMaintOp 0 ≠ 1 ∧
    !s.fbit F.pwrBootSanitiseResumed 0 then s.rebuildMap else s) := rfl
theorem exec_sanitiseResume (s : State) : exec .sanitiseResume s = .next (if s.power.supply = .valid ∧ s.fget F.pwrBootPhase 0 = 2 ∧
    s.fget F.glbMaintOp 0 = 1 ∧ !s.fbit F.pwrBootSanitiseResumed 0 then s.sanResume else s) := rfl
theorem exec_baseTimetableStitch (hup : s.poweringUp = true)
    (hphase : s.fget F.pwrBootPhase 0 = 3 ∨ (s.fget F.pwrBootPhase 0 = 2 ∧ s.fget F.pwrBootSanitiseResumed 0 = 1)) :
    exec .baseTimetableStitch s = .next s.powerUpStitch.linesStart :=
  congrArg Host.Outcome.next (if_pos ⟨hup, hphase.imp_right fun h => by simp [State.fbit, h]⟩)
theorem exec_serviceEntry (hup : s.poweringUp = true) (hphase : s.fget F.pwrBootPhase 0 = 4) (ms : Nat) :
    exec (.serviceEntry ms) s = .next (s.enterService ms) := congrArg Host.Outcome.next (if_pos ⟨hup, hphase⟩)

theorem State.rebuildMap_ready (s : State) : s.rebuildMap.fget F.pwrBootPhase 0 = 3 ∧ s.rebuildMap.power.lossOpen = false := by
  rw [State.rebuildMap]
  exact ⟨State.setPhase_phase _ (by decide), by rw [State.setPhase_power, State.setPower_power]⟩

/-- Service is entered with its time. -/
theorem State.enterService_serves (hended : s.cfs.ended = none) (ms : Nat) : let t := s.enterService ms
    t.host.memoryActive = true ∧ t.fget F.pwrBootPhase 0 = 5 ∧ t.fget F.pwrBootServiceMs 0 = ms % 2 ^ F.pwrBootServiceMs.width ∧
      t.power.faultLow = false ∧ s.OnlyParts t [.regs, .host, .power] ∧ s.OnlyRegs t (fun r _ => r = .pwrBoot) := by
  obtain ⟨u, hu⟩ : ∃ u, u = s.setHost { s.host with memoryActive := true } := ⟨_, rfl⟩
  have hphase := u.setPhase_within 5
  have hserve : s.enterService ms = (u.setPhase 5).fset F.pwrBootServiceMs 0 ms := by rw [State.enterService, hended, hu]
  rw [hserve]
  refine ⟨?_, ?_, State.fget_fset_same _ _ _ _ (by decide), ?_, ?_, ?_⟩
  · rw [State.fset_host, hphase.parts .host (by decide), hu, State.setHost_host]
  · rw [State.fget_fset_of_apart _ _ _ _ (by decide), State.setPhase_phase _ (by decide)]
  · rw [State.fset_power, State.setPhase_power]
    rfl
  · rw [hu] at hphase ⊢
    exact (((s.setHost_onlyParts _).mono (by decide)).next hphase.parts).next (State.fset_onlyParts _ _ _ _)
  · refine State.OnlyRegs.trans ?_ (hphase.regs.trans (by simp [F.pwrBootServiceMs]))
    rw [hu]
    simp

/-- A module whose service has ended stops, with its cause and die. -/
theorem State.enterService_stops {cause die : Nat} (hended : s.cfs.ended = some (cause, die)) (ms : Nat) : let t := s.enterService ms
    t.fget F.pwrBootPhase 0 = 6 ∧ t.fget F.pwrBootEndCause 0 = cause % 2 ^ F.pwrBootEndCause.width ∧
      t.fget F.pwrBootEndDie 0 = die % 2 ^ F.pwrBootEndDie.width ∧ t.power = { s.power with faultLow := true } ∧ t.host = s.host := by
  have hphase := s.setPhase_within 6
  have hstop : s.enterService ms = ((s.setPhase 6).fset F.pwrBootEndCause 0 cause).fset F.pwrBootEndDie 0 die := by
    rw [State.enterService, hended]
  rw [hstop]
  refine ⟨?_, ?_, State.fget_fset_same _ _ _ _ (by decide), ?_, ?_⟩
  · rw [State.fget_fset_of_apart _ _ _ _ (by decide), State.fget_fset_of_apart _ _ _ _ (by decide), State.setPhase_phase _ (by decide)]
  · rw [State.fget_fset_of_apart _ _ _ _ (by decide), State.fget_fset_same _ _ _ _ (by decide)]
  · rw [State.fset_power, State.fset_power, State.setPhase_power]
    rfl
  · rw [State.fset_host, State.fset_host, hphase.parts .host (by decide)]

end

/-- Settles O40: each step of power-up by its phase, a failed checker by the class of its island. -/
theorem powerUpSteps : Obligations.PowerUpSteps := by
  intro s hvalid hscan
  have hup := State.poweringUp_of hvalid hscan
  refine ⟨fun hphase => ⟨fun i n step hstarted hnew => ?_, fun i n => rfl, fun hboots => ?_, fun h0 h1 => ?_⟩, fun hphase differs => ?_,
    fun hphase hres => ⟨fun hop => ⟨?_, s.rebuildMap_ready.1, s.rebuildMap_ready.2, ?_⟩, fun hop => ⟨?_, ?_⟩⟩, fun hphase => ?_,
    fun hphase ms => ⟨fun hended => ⟨_, exec_serviceEntry hup hphase ms, State.enterService_serves hended ms⟩,
      fun cause die hended => ⟨_, exec_serviceEntry hup hphase ms, State.enterService_stops hended ms⟩⟩⟩
  · have hfails := exec_checkerSelfTest hup hphase hstarted hnew step
    refine ⟨fun hi hk hn => hfails.trans ?_, fun hi hk hlow hhigh => hfails.trans ?_, fun hi hk => hfails.trans ?_,
      fun hi hlow hhigh => hfails.trans ?_, fun hi hlow hhigh => hfails.trans ?_, fun hi hlow => hfails.trans ?_,
      fun hi hk hcores => hfails.trans ?_, fun hi hdecoders => hfails.trans ?_⟩
    · rw [State.checkerFails_station (islandClass_station hi hk), State.stationCheckerFails_lane _ _ hn]
      rfl
    · rw [State.checkerFails_station (islandClass_station hi hk), State.stationCheckerFails_station _ _ hlow hhigh]
      rfl
    · rw [State.checkerFails_cache (islandClass_cache hi hk)]
      rfl
    · rw [State.checkerFails_stack (islandClass_stack hi hlow hhigh)]
      rfl
    · rw [State.checkerFails_flash (islandClass_flash hi hlow hhigh)]
      rfl
    · rw [State.checkerFails_line (islandClass_line hi hlow)]
      rfl
    · rw [State.checkerFails_core (islandClass_box hi hk) hcores]
      rfl
    · rw [State.checkerFails_window (by rw [hi]; rfl) hdecoders]
      rfl
  · exact ⟨_, exec_firmwareBootVerify hup hphase, State.verifyFirmware_runs hboots⟩
  · exact ⟨_, exec_firmwareBootVerify hup hphase, State.verifyFirmware_stops h0 h1⟩
  · rw [exec_storeCompared hup hphase]
    rfl
  · rw [exec_mapRebuild, if_pos ⟨hup, hphase, hop, by simp [State.fbit, hres]⟩]
  · rw [exec_sanitiseResume, if_neg fun h => hop h.2.2.1]
  · rw [exec_sanitiseResume, if_pos ⟨hvalid, hphase, hop, by simp [State.fbit, hres]⟩]
  · rw [exec_mapRebuild, if_neg fun h => h.2.2.1 hop]
  · exact exec_baseTimetableStitch hup hphase

end Sys2Proof.Machine
end

section
/-! SUPPORT. The hold-up bank and its strings (R572, R573), the sensors (R626), and the failures that end service or an activation
(R32, R36, R46, R590, R592, R595). -/

namespace Sys2Proof.Machine

section
variable {s : State}

/-! ## Flags -/

theorem State.flag_within (s : State) (f : Fld) : s.Within (s.flag f) [.regs, .host] (fun r i => r = f.reg ∧ i = 0) := by
  have hset : s.Within (s.fset f 0 1) [.regs, .host] (fun r i => r = f.reg ∧ i = 0) :=
    ⟨(s.fset_onlyParts _ _ _).mono (by decide), s.fset_onlyRegs _ _ _⟩
  rw [State.flag]
  split
  · exact .refl s _ _
  · simp only
    split
    · exact hset.trans ((s.fset f 0 1).raiseMsix_onlyParts _ |>.within _)
    · exact hset

theorem State.flag_set (s : State) {f : Fld} (hf : f.lsb + f.width ≤ 64) (hw : 0 < f.width) : (s.flag f).fget f 0 = 1 := by
  have hone : (s.fset f 0 1).fget f 0 = 1 := by
    rw [State.fget_fset_same _ _ _ _ hf]
    exact Nat.mod_eq_of_lt (Nat.one_lt_two_pow (by omega))
  rw [State.flag]
  split
  · next h => exact of_decide_eq_true h
  · simp only
    split
    · exact (((s.fset f 0 1).raiseMsix_onlyParts _).fget f 0).trans hone
    · exact hone

theorem State.flag_fget (s : State) {f g : Fld} (i : Nat) (h : g.reg ≠ f.reg) : (s.flag f).fget g i = s.fget g i :=
  (s.flag_within f).regs.field g i fun hr => h hr.1

/-! ## The bank (R572, R573) -/

/-- The bank's energy and the dirty limit are shown. -/
def State.energyShown (s : State) : State :=
  ((s.fset F.pwrHoldupUsableMj 0 (min 65535 (s.stringsOk.map (fun n => s.power.bank.getD n 0)).sum)).fset F.pwrHoldupStringsOk 0
    (s.stringsOk.map (fun n => 2 ^ n)).sum).fset F.pwrHoldupDirtyLimit4k 0 (dirtyLimit (s.stringsOk.map (fun n => s.power.bank.getD n 0)).sum)

theorem dirtyLimit_lt (mj : Nat) : dirtyLimit mj < 2 ^ 21 := Nat.lt_of_le_of_lt (Nat.min_le_left _ _) (by decide)

theorem State.energyShown_within (s : State) : s.Within s.energyShown [.regs] (fun r _ => r = .pwrHoldup) :=
  ⟨by simp [State.energyShown, State.onlyParts_iff],
    by simp [State.energyShown, F.pwrHoldupUsableMj, F.pwrHoldupStringsOk, F.pwrHoldupDirtyLimit4k]⟩

theorem State.energyShown_limit (s : State) :
    s.energyShown.fget F.pwrHoldupDirtyLimit4k 0 = dirtyLimit (s.stringsOk.map (fun n => s.power.bank.getD n 0)).sum := by
  rw [State.energyShown, State.fget_fset_same _ _ _ _ (by decide)]
  exact Nat.mod_eq_of_lt (dirtyLimit_lt _)

theorem State.energyShown_usable (s : State) :
    s.energyShown.fget F.pwrHoldupUsableMj 0 = min 65535 (s.stringsOk.map (fun n => s.power.bank.getD n 0)).sum := by
  rw [State.energyShown, State.fget_fset_of_apart _ _ _ _ (by decide), State.fget_fset_of_apart _ _ _ _ (by decide),
    State.fget_fset_same _ _ _ _ (by decide)]
  exact Nat.mod_eq_of_lt (Nat.lt_of_le_of_lt (Nat.min_le_left _ _) (by decide))

theorem State.stringsOk_mask_lt (s : State) : (s.stringsOk.map (fun n => 2 ^ n)).sum < 2 ^ 6 :=
  Nat.lt_of_le_of_lt ((List.filter_sublist.map _).sum_le_sum (l₂ := (List.range 6).map (fun n => 2 ^ n)) fun _ _ => Nat.zero_le _) (by decide)

theorem State.energyShown_strings (s : State) : s.energyShown.fget F.pwrHoldupStringsOk 0 = (s.stringsOk.map (fun n => 2 ^ n)).sum := by
  rw [State.energyShown, State.fget_fset_of_apart _ _ _ _ (by decide), State.fget_fset_same _ _ _ _ (by decide)]
  exact Nat.mod_eq_of_lt s.stringsOk_mask_lt

theorem State.setEnergy_eq (s : State) : s.setEnergy =
    if s.fget F.depTierLevelDirty4k 0 > s.energyShown.fget F.pwrHoldupDirtyLimit4k 0 then s.energyShown.writeBackAll else s.energyShown := by
  rw [s.energyShown_limit, ← s.energyShown_within.regs.field F.depTierLevelDirty4k 0 (by decide)]
  rfl

theorem State.stringsOk_congr {t : State} (h : ∀ n, t.fget F.pwrStringFailed n = s.fget F.pwrStringFailed n) : t.stringsOk = s.stringsOk := by
  simp [State.stringsOk, State.fbit, h]

/-- A string's energy, its tests, and the count of tests of the module. -/
def State.stringMeasured (s : State) (n mj : Nat) : State :=
  ((s.fset F.pwrStringUsableMj n (min 65535 mj)).bump F.pwrStringTests n 1).bump F.pwrCtrCount 1 1

/-- A string outside its limits is isolated, logged and flagged. -/
def State.stringIsolated (s : State) (n mj : Nat) : State :=
  (((s.stringMeasured n mj).fset F.pwrStringFailed n 1).event 17 0x0906 0 n mj).flag F.glbEventStatusStringFailed

theorem exec_stringTest (hvalid : s.power.supply = .valid) {n : StringId} (hok : s.fget F.pwrStringFailed n.val = 0) (mj : Nat) (ok : Bool) :
    exec (.stringTest n mj ok) s = .next (if ok = true then s.stringMeasured n.val mj else (s.stringIsolated n.val mj).setEnergy) :=
  congrArg Host.Outcome.next (if_pos ⟨hvalid, by simp [State.fbit, hok]⟩)

theorem State.stringMeasured_within (s : State) (n mj : Nat) :
    s.Within (s.stringMeasured n mj) [.regs] (fun r k => (r = .pwrString ∧ k = n) ∨ (r = .pwrCtr ∧ k = 1)) :=
  ⟨by simp [State.stringMeasured, State.onlyParts_iff],
    by simp [State.stringMeasured, F.pwrStringUsableMj, F.pwrStringTests, F.pwrCtrCount]⟩

theorem State.stringMeasured_fields (s : State) (n mj : Nat) : (s.stringMeasured n mj).fget F.pwrStringUsableMj n = min 65535 mj ∧
    (∀ k, (s.stringMeasured n mj).fget F.pwrStringFailed k = s.fget F.pwrStringFailed k) ∧
    (s.stringMeasured n mj).fget F.pwrCtrCount 1 = (s.fget F.pwrCtrCount 1 + 1) % 2 ^ 48 := by
  rw [State.stringMeasured]
  refine ⟨?_, fun k => ?_, ?_⟩
  · rw [State.fget_bump_of_apart _ _ _ _ (by decide), State.fget_bump_of_apart _ _ _ _ (by decide), State.fget_fset_same _ _ _ _ (by decide)]
    exact Nat.mod_eq_of_lt (Nat.lt_of_le_of_lt (Nat.min_le_left _ _) (by decide))
  · rw [State.fget_bump_of_apart _ _ _ _ (by decide), State.fget_bump_of_apart _ _ _ _ (by decide), State.fget_fset_of_apart _ _ _ _ (by decide)]
  · rw [State.fget_bump_same _ _ _ _ (by decide), State.fget_bump_of_apart _ _ _ _ (by decide), State.fget_fset_of_apart _ _ _ _ (by decide)]
    rfl

theorem State.stringIsolated_failed (s : State) (n mj k : Nat) :
    (s.stringIsolated n mj).fget F.pwrStringFailed k = if k = n then 1 else s.fget F.pwrStringFailed k := by
  have hmeasured := (s.stringMeasured_fields n mj).2.1 k
  rw [State.stringIsolated, State.flag_fget _ _ (by decide), State.event, State.setCfs_fget]
  split
  · next h => rw [h, State.fget_fset_same _ _ _ _ (by decide)]; rfl
  · next h => rw [State.fget_fset_reg _ _ _ _ _ _ (.inr h), hmeasured]

theorem State.stringIsolated_onlyParts (s : State) (n mj : Nat) : s.OnlyParts (s.stringIsolated n mj) [.regs, .host, .cfs] := by
  refine State.OnlyParts.trans (t := ((s.stringMeasured n mj).fset F.pwrStringFailed n 1).event 17 0x0906 0 n mj) ?_
    ((State.flag_within _ _).parts.mono (by decide))
  simp [State.stringMeasured, State.event, State.onlyParts_iff]

theorem State.stringIsolated_flag (s : State) (n mj : Nat) : (s.stringIsolated n mj).fget F.glbEventStatusStringFailed 0 = 1 :=
  State.flag_set _ (by decide) (by decide)

theorem State.stringIsolated_stringsOk (s : State) (n mj : Nat) : (s.stringIsolated n mj).stringsOk = s.stringsOk.filter (fun k => k ≠ n) := by
  rw [State.stringsOk, State.stringsOk, List.filter_filter]
  refine List.filter_congr fun k _ => ?_
  rw [State.fbit, State.fbit, State.stringIsolated_failed]
  by_cases h : k = n <;> simp [h]

theorem stringTest_passes (hvalid : s.power.supply = .valid) {n : StringId} (hok : s.fget F.pwrStringFailed n.val = 0) (mj : Nat) :
    ∃ t, exec (.stringTest n mj true) s = .next t ∧ s.OnlyParts t [.regs] ∧ t.fget F.pwrStringUsableMj n.val = min 65535 mj ∧
      t.fget F.pwrStringFailed n.val = 0 ∧ t.fget F.pwrCtrCount 1 = (s.fget F.pwrCtrCount 1 + 1) % 2 ^ 48 ∧
      s.OnlyRegs t (fun r k => (r = .pwrString ∧ k = n.val) ∨ (r = .pwrCtr ∧ k = 1)) := by
  obtain ⟨husable, hfailed, htests⟩ := s.stringMeasured_fields n.val mj
  have hframe := s.stringMeasured_within n.val mj
  exact ⟨_, exec_stringTest hvalid hok mj true, hframe.parts, husable, (hfailed _).trans hok, htests, hframe.regs⟩

theorem stringTest_fails (hvalid : s.power.supply = .valid) {n : StringId} (hok : s.fget F.pwrStringFailed n.val = 0) (mj : Nat) :
    ∃ t u, exec (.stringTest n mj false) s = .next t ∧ t = (if s.fget F.depTierLevelDirty4k 0 > u.fget F.pwrHoldupDirtyLimit4k 0
        then u.writeBackAll else u) ∧
      u.fget F.pwrStringFailed n.val = 1 ∧ u.fget F.glbEventStatusStringFailed 0 = 1 ∧
      n.val ∉ u.stringsOk ∧ u.fget F.pwrHoldupStringsOk 0 = ((s.stringsOk.filter (fun k => k ≠ n.val)).map (fun k => 2 ^ k)).sum ∧
      s.OnlyParts u [.regs, .host, .cfs] := by
  have hisolated := s.stringIsolated_onlyParts n.val mj
  have hframe := (s.stringIsolated n.val mj).energyShown_within
  have hdirty : (s.stringIsolated n.val mj).fget F.depTierLevelDirty4k 0 = s.fget F.depTierLevelDirty4k 0 := by
    rw [State.stringIsolated, State.flag_fget _ _ (by decide), State.event, State.setCfs_fget, State.fget_fset_of_apart _ _ _ _ (by decide),
      (s.stringMeasured_within n.val mj).regs.field F.depTierLevelDirty4k 0 (by simp [F.depTierLevelDirty4k])]
  have hstrings := State.stringsOk_congr fun k => hframe.regs.field F.pwrStringFailed k (by decide)
  refine ⟨(s.stringIsolated n.val mj).setEnergy, (s.stringIsolated n.val mj).energyShown,
    (exec_stringTest hvalid hok mj false).trans (congrArg _ (if_neg Bool.false_ne_true)), ?_, ?_, ?_, ?_, ?_, ?_⟩
  · rw [← hdirty]
    exact State.setEnergy_eq _
  · rw [hframe.regs.field F.pwrStringFailed _ (by decide), State.stringIsolated_failed, if_pos rfl]
  · rw [hframe.regs.field F.glbEventStatusStringFailed 0 (by decide), State.stringIsolated_flag]
  · rw [hstrings, State.stringIsolated_stringsOk]
    simp
  · rw [State.energyShown_strings, State.stringIsolated_stringsOk]
  · exact hisolated.trans (hframe.parts.mono (by decide))

theorem holdupEnergyMeasure_shows (hvalid : s.power.supply = .valid) (mj : List Nat) : ∃ u, u.power = { s.power with bank := mj.take 6 } ∧
    (let e := (s.stringsOk.map (fun n => (mj.take 6).getD n 0)).sum
      let lim := min 1048576 (((e - 1000) * 172000000000 - (636400000 + 134217728) * 210000) / (210000 * 4096));
      u.fget F.pwrHoldupUsableMj 0 = min 65535 e ∧ u.fget F.pwrHoldupStringsOk 0 = (s.stringsOk.map (fun n => 2 ^ n)).sum ∧
      u.fget F.pwrHoldupDirtyLimit4k 0 = lim ∧
      exec (.holdupEnergyMeasure mj) s = .next (if s.fget F.depTierLevelDirty4k 0 > lim then u.writeBackAll else u)) ∧
    s.OnlyParts u [.regs, .power] ∧ s.OnlyRegs u (fun r _ => r = .pwrHoldup) := by
  obtain ⟨b, hb⟩ : ∃ b, b = s.setPower { s.power with bank := mj.take 6 } := ⟨_, rfl⟩
  have hframe := b.energyShown_within
  have hstrings : b.stringsOk = s.stringsOk := State.stringsOk_congr fun k => by rw [hb, State.setPower_fget]
  have hbank : b.power.bank = mj.take 6 := by rw [hb, State.setPower_power]
  have hexec : exec (.holdupEnergyMeasure mj) s = .next b.setEnergy := by
    rw [hb]
    exact congrArg Host.Outcome.next (if_pos hvalid)
  have hlimit := b.energyShown_limit
  have husable := b.energyShown_usable
  have hmask := b.energyShown_strings
  have hset := b.setEnergy_eq
  rw [hstrings, hbank] at hlimit husable
  rw [hstrings] at hmask
  rw [hlimit, show b.fget F.depTierLevelDirty4k 0 = s.fget F.depTierLevelDirty4k 0 by rw [hb, State.setPower_fget]] at hset
  refine ⟨b.energyShown, ?_, ⟨husable, hmask, hlimit, hexec.trans (congrArg _ hset)⟩, ?_, ?_⟩
  · rw [hframe.parts .power (by decide), hb, State.setPower_power]
  · rw [hb] at hframe ⊢
    exact ((s.setPower_onlyParts _).mono (by decide)).next (hframe.parts)
  · refine State.OnlyRegs.trans ?_ hframe.regs
    rw [hb]
    simp

/-! ## The sensors (R626) -/

theorem unsigned_lt (w : Nat) (i : Int) : unsigned w i < 2 ^ w := by
  have h := Int.emod_lt_of_pos i (b := (2 ^ w : Nat)) (by positivity)
  have h0 := Int.emod_nonneg i (b := (2 ^ w : Nat)) (by positivity)
  rw [unsigned]
  omega

theorem State.setTemp_within (s : State) (d : Nat) (v : Int) : s.Within (s.setTemp d v) [.regs] (fun r k => r = .pwrTemp ∧ k = d) := by
  unfold State.setTemp
  simp only
  split
  · exact ⟨by simp [State.onlyParts_iff], by simp [F.pwrTempNow, F.pwrTempPeak]⟩
  · exact ⟨by simp [State.onlyParts_iff], by simp [F.pwrTempNow]⟩

/-- The die's temperature is shown, and its peak is not below that or the peak before. -/
theorem State.setTemp_fields (s : State) (d : Nat) (v : Int) : let t := s.setTemp d v
    t.fget F.pwrTempNow d = unsigned 16 v ∧ signed 16 (t.fget F.pwrTempNow d) ≤ signed 16 (t.fget F.pwrTempPeak d) ∧
      signed 16 (s.fget F.pwrTempPeak d) ≤ signed 16 (t.fget F.pwrTempPeak d) := by
  have hnow (u : State) : (u.fset F.pwrTempNow d (unsigned 16 v)).fget F.pwrTempNow d = unsigned 16 v := by
    rw [State.fget_fset_same _ _ _ _ (by decide)]
    exact Nat.mod_eq_of_lt (unsigned_lt 16 v)
  have hpeak (u : State) : (u.fset F.pwrTempNow d (unsigned 16 v)).fget F.pwrTempPeak d = u.fget F.pwrTempPeak d :=
    State.fget_fset_of_apart _ _ _ _ (by decide)
  intro t
  simp only [t, State.setTemp]
  rw [hnow, hpeak]
  split
  · next h =>
    have hset : (s.fset F.pwrTempPeak d (unsigned 16 v)).fget F.pwrTempPeak d = unsigned 16 v := by
      rw [State.fget_fset_same _ _ _ _ (by decide)]
      exact Nat.mod_eq_of_lt (unsigned_lt 16 v)
    rw [hset]
    exact ⟨rfl, le_refl _, le_of_lt h⟩
  · next h => exact ⟨rfl, not_lt.1 h, le_refl _⟩

/-- The four dies' temperatures are shown. -/
def State.tempsShown (s : State) (temps : List Int) : State :=
  (List.range 4).foldl (fun (s : State) d => s.setTemp d (temps.getD d 0)) s

/-- The couplings' temperatures and the input's voltage and power are shown. -/
def State.inputShown (s : State) (inlet outlet : Int) (mv dw : Nat) : State :=
  ((((s.fset F.pwrCoolantInlet 0 (unsigned 16 inlet)).fset F.pwrCoolantOutlet 0 (unsigned 16 outlet)).fset F.pwrInputInputMv 0
    (min 65535 mv)).fset F.pwrInputInputDw 0 (min 65535 dw)).fset F.pwrInputPeakDw 0 (max (s.fget F.pwrInputPeakDw 0) (min 65535 dw))

theorem exec_sensorUpdate (hvalid : s.power.supply = .valid) (temps : List Int) (inlet outlet : Int) (mv dw : Nat) :
    exec (.sensorUpdate temps inlet outlet mv dw) s = .next ((s.tempsShown temps).inputShown inlet outlet mv dw) := by
  obtain ⟨u, hu⟩ : ∃ u, u = s.tempsShown temps := ⟨_, rfl⟩
  have hpeak : ((u.fset F.pwrCoolantInlet 0 (unsigned 16 inlet)).fset F.pwrCoolantOutlet 0 (unsigned 16 outlet)).fget F.pwrInputPeakDw 0 =
      u.fget F.pwrInputPeakDw 0 := by
    rw [State.fget_fset_of_apart _ _ _ _ (by decide), State.fget_fset_of_apart _ _ _ _ (by decide)]
  rw [← hu, State.inputShown, ← hpeak, hu]
  exact congrArg Host.Outcome.next (if_neg (not_not.2 hvalid))

theorem State.tempsShown_within (s : State) (temps : List Int) : s.Within (s.tempsShown temps) [.regs] (fun r _ => r = .pwrTemp) :=
  .foldl (fun s d => (s.setTemp_within d _).mono (by simp) fun _ _ h => h.1) _ s

theorem State.inputShown_within (s : State) (inlet outlet : Int) (mv dw : Nat) :
    s.Within (s.inputShown inlet outlet mv dw) [.regs] (fun r _ => r ∈ [.pwrCoolant, .pwrInput]) :=
  ⟨by simp [State.inputShown, State.onlyParts_iff],
    by simp [State.inputShown, F.pwrCoolantInlet, F.pwrCoolantOutlet, F.pwrInputInputMv, F.pwrInputInputDw, F.pwrInputPeakDw]⟩

theorem State.inputShown_fields (s : State) (inlet outlet : Int) (mv dw : Nat) : let t := s.inputShown inlet outlet mv dw
    t.fget F.pwrInputInputMv 0 = min 65535 mv ∧ t.fget F.pwrInputInputDw 0 = min 65535 dw ∧
      t.fget F.pwrInputPeakDw 0 = max (s.fget F.pwrInputPeakDw 0) (min 65535 dw) := by
  have hsat (n : Nat) : min 65535 n < 2 ^ 16 := Nat.lt_of_le_of_lt (Nat.min_le_left _ _) (by decide)
  intro t
  simp only [t, State.inputShown]
  refine ⟨?_, ?_, ?_⟩
  · rw [State.fget_fset_of_apart _ _ _ _ (by decide), State.fget_fset_of_apart _ _ _ _ (by decide), State.fget_fset_same _ _ _ _ (by decide)]
    exact Nat.mod_eq_of_lt (hsat mv)
  · rw [State.fget_fset_of_apart _ _ _ _ (by decide), State.fget_fset_same _ _ _ _ (by decide)]
    exact Nat.mod_eq_of_lt (hsat dw)
  · rw [State.fget_fset_same _ _ _ _ (by decide)]
    exact Nat.mod_eq_of_lt (max_lt (s.fget_lt F.pwrInputPeakDw 0) (hsat dw))

theorem State.foldl_setTemp_other (v : Nat → Int) {d : Nat} (l : List Nat) (h : d ∉ l) (s : State) :
    (l.foldl (fun (s : State) k => s.setTemp k (v k)) s).rget .pwrTemp d = s.rget .pwrTemp d := by
  induction l generalizing s with
  | nil => rfl
  | cons k l ih =>
    obtain ⟨hk, hl⟩ := not_or.1 (mt List.mem_cons.2 h)
    rw [List.foldl_cons, ih hl, (s.setTemp_within k (v k)).regs _ _ fun hr => hk hr.2]

theorem State.tempsShown_fields (s : State) (temps : List Int) {d : Nat} (hd : d < 4) : let t := s.tempsShown temps
    t.fget F.pwrTempNow d = unsigned 16 (temps.getD d 0) ∧ signed 16 (t.fget F.pwrTempNow d) ≤ signed 16 (t.fget F.pwrTempPeak d) ∧
      signed 16 (s.fget F.pwrTempPeak d) ≤ signed 16 (t.fget F.pwrTempPeak d) := by
  obtain ⟨before, after, hsplit, hbefore, hafter⟩ : ∃ before after, List.range 4 = before ++ d :: after ∧ d ∉ before ∧ d ∉ after :=
    ⟨List.range d, List.range' (d + 1) (3 - d), by interval_cases d <;> rfl, by simp, by simp⟩
  obtain ⟨u, hu⟩ : ∃ u, u = before.foldl (fun (s : State) k => s.setTemp k (temps.getD k 0)) s := ⟨_, rfl⟩
  have hold : u.rget .pwrTemp d = s.rget .pwrTemp d := hu ▸ State.foldl_setTemp_other _ before hbefore s
  have hnew : (s.tempsShown temps).rget .pwrTemp d = (u.setTemp d (temps.getD d 0)).rget .pwrTemp d := by
    rw [State.tempsShown, hsplit, List.foldl_append, ← hu]
    exact State.foldl_setTemp_other _ after hafter _
  have hset := u.setTemp_fields d (temps.getD d 0)
  simp only [State.fget, F.pwrTempNow, F.pwrTempPeak, hold, hnew] at hset ⊢
  exact hset

/-! ## The end of service (R595) -/

theorem State.endsService_records (hnone : s.cfs.ended = none) (cause d : Nat) : (s.endsService cause d).cfs.ended = some (cause, d) := by
  rw [State.endsService, if_neg (by simp [hnone]), (State.flag_within _ _).parts .cfs (by decide), State.event, State.setCfs_cfs, State.setCfs_cfs]

theorem State.endsService_onlyParts (s : State) (cause d : Nat) : s.OnlyParts (s.endsService cause d) [.regs, .host, .cfs] := by
  rw [State.endsService]
  split
  · exact .refl s _
  · refine State.OnlyParts.trans ?_ ((State.flag_within _ _).parts.mono (by decide))
    simp [State.event, State.onlyParts_iff]

theorem State.endsService_ended (s : State) (cause d : Nat) : (s.endsService cause d).cfs.ended.isSome = true := by
  cases h : s.cfs.ended with
  | none => rw [State.endsService_records h]; rfl
  | some x => rw [State.endsService, if_pos (by rw [h]; rfl), h]; rfl

/-- The module stops in phase 6, with the cause and the first die. -/
def State.serviceEnded (s : State) (cause : Nat) (dies : List Nat) : State :=
  (((s.endsService cause (dies.headD 0)).setPhase 6).fset F.pwrBootEndCause 0 cause).fset F.pwrBootEndDie 0 (dies.headD 0)

theorem State.endService_eq (s : State) (cause : Nat) (dies : List Nat) : s.endService cause dies =
    (let v := if s.flushes then (s.serviceEnded cause dies).endFlush dies else s.serviceEnded cause dies
     (v.setHost { v.host with memoryActive := false, cmds := v.host.cmds.filter (fun e => e.2.decided) }).stopWork) := rfl

theorem State.serviceEnded_stopped (s : State) {cause : Nat} (hcause : cause < 8) {dies : List Nat} (hdie : dies.headD 0 < 4) :
    let u := s.serviceEnded cause dies
    u.fget F.pwrBootPhase 0 = 6 ∧ u.fget F.pwrBootEndCause 0 = cause ∧ u.fget F.pwrBootEndDie 0 = dies.headD 0 ∧
      u.power = { s.power with faultLow := true } ∧ u.cfs.ended.isSome = true ∧ s.OnlyParts u [.regs, .host, .cfs, .power] := by
  have hparts := s.endsService_onlyParts cause (dies.headD 0)
  have hphase := (s.endsService cause (dies.headD 0)).setPhase_within 6
  intro u
  simp only [u, State.serviceEnded]
  refine ⟨?_, ?_, ?_, ?_, ?_, ?_⟩
  · rw [State.fget_fset_of_apart _ _ _ _ (by decide), State.fget_fset_of_apart _ _ _ _ (by decide), State.setPhase_phase _ (by decide)]
  · rw [State.fget_fset_of_apart _ _ _ _ (by decide), State.fget_fset_same _ _ _ _ (by decide)]
    exact Nat.mod_eq_of_lt hcause
  · rw [State.fget_fset_same _ _ _ _ (by decide)]
    exact Nat.mod_eq_of_lt hdie
  · rw [State.fset_power, State.fset_power, State.setPhase_power, hparts .power (by decide)]
    rfl
  · rw [State.fset_cfs, State.fset_cfs, hphase.parts .cfs (by decide), State.endsService_ended]
  · exact (((hparts.mono (by decide)).trans (hphase.parts.mono (by decide))).next (State.fset_onlyParts _ _ _ _)).next
      (State.fset_onlyParts _ _ _ _)

theorem State.foldl_lineState_zero (l : List Nat) {b : Nat} (s : State) (h : b ∈ l ∨ s.fget F.brlLineStateState b = 0) :
    (l.foldl (fun (s : State) b => s.fset F.brlLineStateState b 0) s).fget F.brlLineStateState b = 0 := by
  induction l generalizing s with
  | nil => exact h.resolve_left (List.not_mem_nil)
  | cons k l ih =>
    refine ih _ ?_
    by_cases hk : b = k
    · exact .inr (by rw [hk, State.fget_fset_same _ _ _ _ (by decide)]; rfl)
    · rw [State.fget_fset_reg _ _ _ _ _ _ (.inr hk)]
      exact h.imp_left fun hb => (List.mem_cons.1 hb).resolve_left hk

theorem State.stopWork_stops (s : State) : s.stopWork.host = s.host ∧ s.stopWork.mesh.pulls = [] ∧
    ∀ b, b < 24 → s.stopWork.fget F.brlLineStateState b = 0 := by
  have hfold (t : State) : t.Within ((List.range 24).foldl (fun (s : State) b => s.fset F.brlLineStateState b 0) t) [.regs]
      (fun r _ => r = .brlLineState) := .foldl (fun s b => ⟨s.fset_onlyParts _ _ _, (s.fset_onlyRegs _ _ _).mono fun _ _ h => h.1⟩) _ t
  rw [State.stopWork]
  refine ⟨?_, by rw [State.setMesh_mesh], fun b hb => ?_⟩
  · rw [State.setMesh_host]
    exact (hfold _).parts .host (by decide)
  · rw [State.setMesh_fget]
    exact State.foldl_lineState_zero _ _ (.inl (List.mem_range.2 hb))

theorem exec_serviceEnd (hvalid : s.power.supply = .valid) {cause : Fin 16} (hlow : 1 ≤ cause.val) (hhigh : cause.val ≤ 3) (x : FailedDies) :
    exec (.serviceEnd cause x) s = .next (
      if s.fget F.pwrBootPhase 0 = 5 then s.endService cause.val (failedDies cause.val x)
      else if s.poweringUp ∧ s.fget F.pwrBootPhase 0 < 5 then s.endsService cause.val ((failedDies cause.val x).headD 0)
      else s) :=
  congrArg Host.Outcome.next (if_neg (by rw [hvalid]; simp; omega))

/-- Of what service was doing only what had been decided is left. -/
theorem State.endService_rest (s : State) (cause : Nat) (dies : List Nat) : let t := s.endService cause dies
    t.host.memoryActive = false ∧ (∀ e ∈ t.host.cmds, e.2.decided = true) ∧ t.mesh.pulls = [] ∧
      ∀ b, b < 24 → t.fget F.brlLineStateState b = 0 := by
  intro t
  simp only [t, s.endService_eq]
  obtain ⟨hhost, hpulls, hlines⟩ := State.stopWork_stops
    (let v := if s.flushes then (s.serviceEnded cause dies).endFlush dies else s.serviceEnded cause dies
     v.setHost { v.host with memoryActive := false, cmds := v.host.cmds.filter (fun e => e.2.decided) })
  refine ⟨?_, fun e he => ?_, hpulls, hlines⟩
  · rw [hhost, State.setHost_host]
  · rw [hhost, State.setHost_host] at he
    exact (List.mem_filter.1 he).2

theorem failedDies_head (cause : Nat) (x : FailedDies) : (failedDies cause x).headD 0 < 4 := by
  unfold failedDies
  split
  · exact x.die.isLt
  · decide

/-! ## Cores and activation (R32, R590, R592) -/

theorem exec_managementCoreFailure (hvalid : s.power.supply = .valid) (hphase : s.fget F.pwrBootPhase 0 = 5) (d : DieId) :
    exec (.managementCoreFailure d) s = .next (s.coreFails d.val) := congrArg Host.Outcome.next (if_pos ⟨hvalid, hphase⟩)

theorem State.coreDown_onlyParts (s : State) (d : Nat) : s.OnlyParts (s.coreDown d) [.regs, .power] := by
  simp [State.coreDown, State.onlyParts_iff]

theorem State.coreDown_pair (s : State) (d : Nat) : ((s.coreDown d).fget F.glbFwPairsOk 0).testBit d = false := by
  rw [State.coreDown, State.fget_fset_same _ _ _ _ (by decide), show F.glbFwPairsOk.width = 4 from rfl, Nat.mod_eq_of_lt (clearBits_lt 4 _ _),
    ← Bool.not_eq_true, testBit_clearBits]
  simp

theorem State.coreFails_last (hcores : Tbl.look 0 s.power.coresDown d = 1) : s.coreFails d = (s.coreDown d).endService 1 [d] :=
  if_pos (by rw [State.coreDown_cores, hcores])

theorem State.coreFails_first {d : Nat} (hcores : Tbl.look 0 s.power.coresDown d = 0) (hop : s.fget F.glbMaintOp 0 ≠ 3) :
    s.coreFails d = s.coreDown d :=
  (if_neg (by rw [State.coreDown_cores, hcores]; decide)).trans (if_neg fun h => hop h.1)

theorem State.standbyRestarts_passes (hop : s.fget F.glbMaintOp 0 = 3) (hphase : s.fget F.glbMaintPhase 0 ≤ 2) {d : Nat}
    (hnew : s.power.restarted.contains d = false) : s.standbyRestarts d true =
      let u := s.setPower { s.power with restarted := s.power.restarted ++ [d] }
      if s.power.restarted.length = 3 then u.progress 3 3 0 3 else u.progress 3 2 (s.power.restarted.length + 1) 4 := by
  rw [State.standbyRestarts, if_neg (by simp only [hop, hnew]; simp; omega), if_neg (by decide)]
  simp

theorem State.standbyRestarts_fails (hop : s.fget F.glbMaintOp 0 = 3) (hphase : s.fget F.glbMaintPhase 0 ≤ 2) {d : Nat}
    (hnew : s.power.restarted.contains d = false) : s.standbyRestarts d false = (s.coreDown d).activationFails 2 d := by
  rw [State.standbyRestarts, if_neg (by simp only [hop, hnew]; simp; omega)]
  exact if_pos rfl

section
variable {d : Nat} (hop : s.fget F.glbMaintOp 0 = 3) (hbegun : s.tt.queue.any (fun x => x.begun) = false)
include hop hbegun

theorem State.handDie_other (hphase : s.fget F.glbMaintPhase 0 = 3) (hd : d ≠ 0) (hturn : d + s.power.handed.length = 3) : s.handDie d =
    let u := s.setPower { s.power with handed := d :: s.power.handed }
    if d = 1 then u.progress 3 4 0 1 else u.progress 3 3 (s.power.handed.length + 1) 3 := by
  rw [State.handDie, if_neg (by simp [hop, hbegun])]
  exact if_pos ⟨hphase, hturn, hd⟩

theorem State.handDie_home (hphase : s.fget F.glbMaintPhase 0 = 4) (hd : d = 0) :
    s.handDie d = (s.setPower { s.power with handed := d :: s.power.handed }).clearChallenge.commitBoot := by
  rw [State.handDie, if_neg (by simp [hop, hbegun])]
  exact (if_neg (by rw [hphase]; simp)).trans (if_pos ⟨hphase, hd⟩)

end

theorem measurementRecomputeDone_due {index : Nat} {r : Recompute} (h : s.security.recompute.find? (fun r => r.index = index) = some r) :
    exec (.measurementRecomputeDone index) s =
      .next ((s.setSecurity { s.security with recompute := s.security.recompute.erase r }).putMeasure index r.value) := by
  change Host.Outcome.next _ = _
  rw [h]

theorem measurementRecomputeDone_none {index : Nat} (h : ∀ r ∈ s.security.recompute, r.index ≠ index) :
    exec (.measurementRecomputeDone index) s = .next s := by
  change Host.Outcome.next _ = _
  rw [List.find?_eq_none.2 (by simpa using h)]

end

/-- Settles O41: the bank and the sensors by what they show, and each failure by the branch that it takes. -/
theorem bankAndFailures : Obligations.BankAndFailures := by
  intro s
  refine ⟨fun hvalid => ⟨holdupEnergyMeasure_shows hvalid, fun n mj hok => ⟨stringTest_passes hvalid hok mj, stringTest_fails hvalid hok mj⟩,
    fun temps inlet outlet mv dw => ?_, fun cause d far hlow hhigh => ?_, fun hphase d => ⟨fun hcores hop => ?_, fun hcores => ?_⟩⟩,
    fun hop => ⟨fun d hphase hnew => ⟨?_, ?_⟩, fun hbegun d => ?_⟩, fun index r hfind => measurementRecomputeDone_due hfind,
    fun index hnone => measurementRecomputeDone_none hnone⟩
  · have htemps := s.tempsShown_within temps
    have hinput := (s.tempsShown temps).inputShown_within inlet outlet mv dw
    obtain ⟨hmv, hdw, hpeak⟩ := (s.tempsShown temps).inputShown_fields inlet outlet mv dw
    refine ⟨_, exec_sensorUpdate hvalid temps inlet outlet mv dw, htemps.parts.trans hinput.parts, fun d hd => ?_, hmv, hdw, ?_,
      (htemps.regs.mono (by simp)).trans (hinput.regs.mono (by simp))⟩
    · rw [hinput.regs.field F.pwrTempNow d (by decide), hinput.regs.field F.pwrTempPeak d (by decide)]
      exact s.tempsShown_fields temps hd
    · rw [hpeak, htemps.regs.field F.pwrInputPeakDw 0 (by decide)]
  · intro dies
    have hend := exec_serviceEnd hvalid hlow hhigh ⟨d, far⟩
    refine ⟨fun hphase => ?_, fun hscan hphase => ⟨hend.trans ?_, fun hnone => State.endsService_records hnone _ _⟩⟩
    · obtain ⟨hph, hcause, hdie, hpower, hended, hparts⟩ := s.serviceEnded_stopped (cause := cause.val) (by omega) (failedDies_head cause.val ⟨d, far⟩)
      rw [if_pos hphase] at hend
      exact ⟨_, _, hend, hph, hcause, hdie, hpower, hended, hparts, s.endService_eq _ _, s.endService_rest _ _⟩
    · rw [if_neg (Nat.ne_of_lt hphase), if_pos ⟨State.poweringUp_of hvalid hscan, hphase⟩]
      rfl
  · refine ⟨_, (exec_managementCoreFailure hvalid hphase d).trans (congrArg _ (State.coreFails_first hcores hop)), s.coreDown_onlyParts _,
      s.coreDown_pair _, ?_⟩
    rw [State.coreDown_cores, hcores]
  · rw [exec_managementCoreFailure hvalid hphase, State.coreFails_last hcores]
  · exact congrArg Host.Outcome.next (State.standbyRestarts_passes hop hphase hnew)
  · exact congrArg Host.Outcome.next (State.standbyRestarts_fails hop hphase hnew)
  · intro u
    exact ⟨fun hphase hd hturn => congrArg Host.Outcome.next (State.handDie_other hop hbegun hphase hd hturn),
      fun hphase hd => congrArg Host.Outcome.next (State.handDie_home hop hbegun hphase hd)⟩

end Sys2Proof.Machine
end

section
/-! SUPPORT. Commands of the module's maintenance, once taken: the stitch commands (R188, R189), the firmware commands (R587 to R590),
SANITISE and FORMAT (R580, R581, R585). -/

namespace Sys2Proof.Machine

section
variable {s s0 : State} {p : Nat} {e : List Byte}

/-! ## Commands that an activation holds back (R590) -/

theorem State.behind_waits (h : s.fget F.glbMaintOp 0 = 3) (run : Nat → List Byte → State → State) (p : Nat) (e : List Byte) :
    State.behind run p e s = s.setPower { s.power with behind := s.power.behind ++ [p] } := if_pos h

theorem State.behind_runs (h : s.fget F.glbMaintOp 0 ≠ 3) (run : Nat → List Byte → State → State) (p : Nat) (e : List Byte) :
    State.behind run p e s = run p e s := if_neg h

/-! ## STITCH and UNSTITCH (R188, R189) -/

theorem exec_stitch_taken (h : s.TakesNext 0 p e s0) (hop : sqOpcode e = 0x24) : exec (.stitch 0) s = .next (
    if !stitchFields e then (s0.lastFail (plainFail 0x1001 0) 0).fail p 0x1001
    else s0.queueStitch { by_ := .command p, slot := byteField e 21 1, replace := byteField e 22 1, mask := byteField e 24 8,
                          checkOnly := sqFlags e = 1, lib := if byteField e 20 1 = 1 then some (byteField e 8 2) else none,
                          addr := byteField e 8 8, len := byteField e 16 4 }) :=
  congrArg _ (h.adminEntry _ _ (by simp [hop]))

theorem exec_unstitch_taken (h : s.TakesNext 0 p e s0) (hop : sqOpcode e = 0x25) : exec (.unstitch 0) s = .next (
    if sqFlags e ≠ 0 ∨ byteField e 8 1 > 63 ∨ !zeroAt e 9 55 then (s0.lastFail (plainFail 0x1001 0) 0).fail p 0x1001
    else s0.queueStitch { by_ := .command p, unstitch := true, slot := byteField e 8 1 }) :=
  congrArg _ (h.adminEntry _ _ (by simp [hop]))

/-! ## FW_STAGE (R587, R588) -/

theorem exec_fwStageImage_taken (h : s.TakesNext 0 p e s0) (hop : sqOpcode e = 0x26) (h1 : byteField e 8 1 ≠ 1) (h2 : byteField e 8 1 ≠ 2) :
    exec (.fwStageImage 0) s = .next (State.stageImageTaken p e s0) := congrArg _ (h.adminEntry _ _ (by simp [hop, h1, h2]))

theorem exec_fwStageLibraryAdd_taken (h : s.TakesNext 0 p e s0) (hop : sqOpcode e = 0x26) (hkind : byteField e 8 1 = 1) :
    exec (.fwStageLibraryAdd 0) s = .next (State.behind State.libAddTaken p e s0) := congrArg _ (h.adminEntry _ _ (by simp [hop, hkind]))

theorem exec_fwStageLibraryRemove_taken (h : s.TakesNext 0 p e s0) (hop : sqOpcode e = 0x26) (hkind : byteField e 8 1 = 2) :
    exec (.fwStageLibraryRemove 0) s = .next (State.behind State.libRemoveTaken p e s0) :=
  congrArg _ (h.adminEntry _ _ (by simp [hop, hkind]))

section
variable (hfields : stageFields e = true)
include hfields

theorem State.stageImageTaken_activating (hbusy : s.fget F.glbMaintOp 0 = 3) : State.stageImageTaken p e s = s.fail p 0x5004 := by
  rw [State.stageImageTaken, if_neg (by simp [hfields]), if_pos hbusy]

theorem State.stageImageTaken_asks (hbusy : s.fget F.glbMaintOp 0 ≠ 3) (hlen : 0 < byteField e 12 4) :
    let v := s.invalidate s.otherRegion
    State.stageImageTaken p e s =
      v.setCmd p { v.cmd p with ranges := [(byteField e 16 8, byteField e 12 4)], want := byteField e 12 4, got := [] } := by
  rw [State.stageImageTaken, if_neg (by simp [hfields]), if_neg hbusy]
  exact if_neg (Nat.ne_of_gt hlen)

theorem State.libAddTaken_empty (hlen : byteField e 12 4 = 0) : State.libAddTaken p e s = s.finish p 0x4004 0 :=
  (if_neg (by simp [hfields])).trans (if_pos hlen)

theorem State.libAddTaken_asks (hlen : 0 < byteField e 12 4) : State.libAddTaken p e s =
    s.setCmd p { s.cmd p with ranges := [(byteField e 16 8, byteField e 12 4)], want := byteField e 12 4, got := [] } :=
  (if_neg (by simp [hfields])).trans (if_neg (Nat.ne_of_gt hlen))

theorem State.libRemoveTaken_removes (hbase : byteField e 10 2 ≠ Tbl.look 0 s.cfs.settings 0x0003) :
    State.libRemoveTaken p e s = s.cfsWrite (.libRemove (byteField e 10 2) (some p)) := if_neg (by simp [hfields, hbase])

end

section
variable (hfields : stageFields e = false)
include hfields

theorem State.stageImageTaken_refuses : State.stageImageTaken p e s = s.fail p 0x1001 := if_pos (by simp [hfields])
theorem State.libAddTaken_refuses : State.libAddTaken p e s = s.fail p 0x1001 := if_pos (by simp [hfields])
theorem State.libRemoveTaken_refuses : State.libRemoveTaken p e s = s.fail p 0x1001 := if_pos (by simp [hfields])

end

/-! ## FW_ACTIVATE (R589, R590) -/

theorem exec_fwActivate_taken (h : s.TakesNext 0 p e s0) (hop : sqOpcode e = 0x27) (heven : sqFlags e % 2 = 0) :
    exec (.fwActivate 0) s = .next (State.activateTaken p e s0) := congrArg _ (h.adminEntry _ _ (by simp [hop, heven]))

theorem exec_fwActivateNextBoot_taken (h : s.TakesNext 0 p e s0) (hop : sqOpcode e = 0x27) (hodd : sqFlags e % 2 = 1) :
    exec (.fwActivateNextBoot 0) s = .next (State.nextBootTaken p e s0) := congrArg _ (h.adminEntry _ _ (by simp [hop, hodd]))

theorem State.activateTaken_eq (hflags : sqFlags e = 0) (hzero : zeroAt e 8 56 = true) : State.activateTaken p e s =
    if s.activateBad then s.fail p 0x5004
    else if s.fget F.glbMaintOp 0 ≠ 0 then s.setPower { s.power with behind := s.power.behind ++ [p] }
    else s.activateStart p := if_neg (by simp [hflags, hzero])

theorem State.nextBootTaken_writes (hflags : sqFlags e = 1) (hzero : zeroAt e 8 56 = true) :
    State.nextBootTaken p e s = s.cfsWrite (.setting 0x0002 s.otherRegion (some p)) := if_neg (by simp [hflags, hzero])

/-! ## SANITISE and FORMAT (R580, R581, R585) -/

theorem exec_sanitise_taken (h : s.TakesNext 0 p e s0) (hop : sqOpcode e = 0x28) :
    exec (if byteField e 8 1 = 1 then .sanitiseOverwrite 0 else .sanitiseBlockErase 0) s = .next (State.behind State.sanitiseTaken p e s0) := by
  split
  · next haction => exact congrArg _ (h.adminEntry _ _ (by simp [hop, haction]))
  · next haction => exact congrArg _ (h.adminEntry _ _ (by simp [hop, haction]))

theorem exec_format_taken (h : s.TakesNext 0 p e s0) (hop : sqOpcode e = 0x29) :
    exec (.format 0) s = .next (State.behind State.formatTaken p e s0) := congrArg _ (h.adminEntry _ _ (by simp [hop]))

theorem State.mediaOpBusy_sanitise (hbusy : s.fget F.glbMaintOp 0 = 1) : s.mediaOpBusy = 0x5001 := if_pos hbusy
theorem State.mediaOpBusy_format (hbusy : s.fget F.glbMaintOp 0 = 2) : s.mediaOpBusy = 0x5002 := by simp [State.mediaOpBusy, hbusy]
theorem State.mediaOpBusy_none (hbusy : s.fget F.glbMaintOp 0 = 0) : s.mediaOpBusy = 0 := by simp [State.mediaOpBusy, hbusy]

theorem State.sanitiseTaken_eq (hflags : sqFlags e = 0) (haction : byteField e 8 1 ≤ 1) (hzero : zeroAt e 9 55 = true) :
    State.sanitiseTaken p e s = if s.mediaOpBusy ≠ 0 then s.fail p s.mediaOpBusy else s.sanStart (byteField e 8 1) :=
  if_neg (by simp [hflags, haction, hzero])

theorem State.formatTaken_eq (hflags : sqFlags e = 0) (hzero : zeroAt e 8 56 = true) : State.formatTaken p e s =
    if s.mediaOpBusy ≠ 0 then s.fail p s.mediaOpBusy
    else (((s.progress 2 1 0 1).clearMediaWork 0x5002).formatCommit.finish p 0 0).formatErases := if_neg (by simp [hflags, hzero])

end

/-- Settles O27: each command by the first of its checks that fails, and by what it begins. -/
theorem maintenanceTaken : Obligations.MaintenanceTaken := by
  intro s s0 p e h gives busy waits n asks
  refine ⟨fun hop => ?_, fun hop => ?_, fun hop => ⟨fun h1 h2 => ?_, fun hkind => ?_, fun hkind => ?_⟩, fun hop => ⟨?_, ?_, ?_, ?_⟩, fun hop => ?_,
    fun hop => ?_⟩
  · have htaken := exec_stitch_taken h hop
    exact ⟨fun hf => htaken.trans (congrArg _ (if_pos (by simp [hf]))), fun hf => htaken.trans (congrArg _ (if_neg (by simp [hf])))⟩
  · have htaken := exec_unstitch_taken h hop
    exact ⟨fun hf => htaken.trans (congrArg _ (if_pos (by simpa using hf))),
      fun hflags hslot hzero => htaken.trans (congrArg _ (if_neg (by simp [hflags, hslot, hzero])))⟩
  · have htaken := exec_fwStageImage_taken h hop h1 h2
    exact ⟨fun hf => htaken.trans (congrArg _ (State.stageImageTaken_refuses hf)),
      fun hf hbusy => htaken.trans (congrArg _ (State.stageImageTaken_activating hf hbusy)),
      fun hf hbusy hlen => htaken.trans (congrArg _ (State.stageImageTaken_asks hf hbusy hlen))⟩
  · have htaken := exec_fwStageLibraryAdd_taken h hop hkind
    have hruns (hbusy : busy ≠ 3) := htaken.trans (congrArg _ (State.behind_runs hbusy _ p e))
    exact ⟨fun hbusy => htaken.trans (congrArg _ (State.behind_waits hbusy _ p e)),
      fun hbusy hf => (hruns hbusy).trans (congrArg _ (State.libAddTaken_refuses hf)),
      fun hbusy hf hlen => (hruns hbusy).trans (congrArg _ (State.libAddTaken_empty hf hlen)),
      fun hbusy hf hlen => (hruns hbusy).trans (congrArg _ (State.libAddTaken_asks hf hlen))⟩
  · have htaken := exec_fwStageLibraryRemove_taken h hop hkind
    have hruns (hbusy : busy ≠ 3) := htaken.trans (congrArg _ (State.behind_runs hbusy _ p e))
    exact ⟨fun hbusy => htaken.trans (congrArg _ (State.behind_waits hbusy _ p e)),
      fun hbusy hf => (hruns hbusy).trans (congrArg _ (State.libRemoveTaken_refuses hf)),
      fun hbusy hf hbase => (hruns hbusy).trans (congrArg _ (State.libRemoveTaken_removes hf hbase))⟩
  · intro hflags hzero
    have htaken := (exec_fwActivate_taken h hop (by rw [hflags])).trans (congrArg _ (State.activateTaken_eq hflags hzero))
    exact ⟨fun hbad => htaken.trans (congrArg _ (if_pos hbad)),
      fun hgood hbusy => htaken.trans (congrArg _ ((if_neg (by simp [hgood])).trans (if_pos hbusy))),
      fun hgood hbusy => htaken.trans (congrArg _ ((if_neg (by simp [hgood])).trans (if_neg (not_not.2 hbusy))))⟩
  · exact fun heven hf => (exec_fwActivate_taken h hop heven).trans (congrArg _ (if_pos (by simpa using hf)))
  · exact fun hflags hzero => (exec_fwActivateNextBoot_taken h hop (by rw [hflags])).trans (congrArg _ (State.nextBootTaken_writes hflags hzero))
  · exact fun hodd hf => (exec_fwActivateNextBoot_taken h hop hodd).trans (congrArg _ (if_pos (by simpa using hf)))
  · intro c
    have htaken := exec_sanitise_taken h hop
    have hruns (hbusy : busy ≠ 3) := htaken.trans (congrArg _ (State.behind_runs hbusy _ p e))
    refine ⟨fun hbusy => htaken.trans (congrArg _ (State.behind_waits hbusy _ p e)),
      fun hbusy hf => (hruns hbusy).trans (congrArg _ (if_pos (by simpa using hf))), fun hbusy hflags haction hzero => ?_⟩
    have hstart := (hruns hbusy).trans (congrArg _ (State.sanitiseTaken_eq hflags haction hzero))
    refine ⟨fun hbusy => hstart.trans ?_, fun hbusy => hstart.trans ?_, fun hbusy => hstart.trans ?_⟩
    · rw [State.mediaOpBusy_sanitise hbusy, if_pos (by decide)]
    · rw [State.mediaOpBusy_format hbusy, if_pos (by decide)]
    · rw [State.mediaOpBusy_none hbusy, if_neg (by decide)]
      rfl
  · have htaken := exec_format_taken h hop
    have hruns (hbusy : busy ≠ 3) := htaken.trans (congrArg _ (State.behind_runs hbusy _ p e))
    refine ⟨fun hbusy => htaken.trans (congrArg _ (State.behind_waits hbusy _ p e)),
      fun hbusy hf => (hruns hbusy).trans (congrArg _ (if_pos (by simpa using hf))), fun hbusy hflags hzero => ?_⟩
    have hstart := (hruns hbusy).trans (congrArg _ (State.formatTaken_eq hflags hzero))
    refine ⟨fun hbusy => hstart.trans ?_, fun hbusy => hstart.trans ?_, fun hbusy => hstart.trans ?_⟩
    · rw [State.mediaOpBusy_sanitise hbusy, if_pos (by decide)]
    · rw [State.mediaOpBusy_format hbusy, if_pos (by decide)]
    · rw [State.mediaOpBusy_none hbusy, if_neg (by decide)]

end Sys2Proof.Machine
end

section
/-! SUPPORT. SPARE_ACT (R556 to R560) and FABRIC_SET (R404, R405, R411) once taken. -/

namespace Sys2Proof.Machine

section
variable {s s0 : State} {p : Nat} {e : List Byte}

/-! ## SPARE_ACT (R556 to R560) -/

section
variable (h : s.TakesNext 0 p e s0) (hop : sqOpcode e = 0x2D)
include h hop

theorem exec_spareActDramRowRepair_taken (ha : saAction e = 0) : exec (.spareActDramRowRepair 0) s = .next (State.actRepair p e s0) :=
  congrArg _ (h.adminEntry _ _ (by simp [isSpareAct, hop, ha]))
theorem exec_spareActLaneRowRetire_taken (ha : saAction e = 1) : exec (.spareActLaneRowRetire 0) s = .next (State.actRetire p e s0) :=
  congrArg _ (h.adminEntry _ _ (by simp [isSpareAct, hop, ha]))
theorem exec_spareActStationReturn_taken (ha : saAction e = 2) : exec (.spareActStationReturn 0) s = .next (State.actReturn p e s0) :=
  congrArg _ (h.adminEntry _ _ (by simp [isSpareAct, hop, ha]))
theorem exec_spareActErrorInjection_taken (ha : saAction e = 3) : exec (.spareActErrorInjection 0) s = .next (State.actInject p e s0) :=
  congrArg _ (h.adminEntry _ _ (by simp [isSpareAct, hop, ha]))

/-- A SPARE_ACT whose reserved bytes or island are wrong fails, whatever its action. -/
theorem spareAct_refuses (hfields : spareFields e = false) {a : Nat} {c : Instr}
    (hc : (a, c) ∈ [(0, Instr.spareActDramRowRepair 0), (1, .spareActLaneRowRetire 0), (2, .spareActStationReturn 0), (3, .spareActErrorInjection 0)])
    (ha : saAction e = a) : exec c s = .next (s0.fail p 0x1001) := by
  simp only [List.mem_cons, List.not_mem_nil, or_false, Prod.mk.injEq] at hc
  obtain ⟨rfl, rfl⟩ | ⟨rfl, rfl⟩ | ⟨rfl, rfl⟩ | ⟨rfl, rfl⟩ := hc
  · exact (exec_spareActDramRowRepair_taken h hop ha).trans (congrArg _ (if_pos (by simp [hfields])))
  · exact (exec_spareActLaneRowRetire_taken h hop ha).trans (congrArg _ (if_pos (by simp [hfields])))
  · exact (exec_spareActStationReturn_taken h hop ha).trans (congrArg _ (if_pos (by simp [hfields])))
  · exact (exec_spareActErrorInjection_taken h hop ha).trans (congrArg _ (if_pos (by simp [hfields])))

end

section
variable (hfields : spareFields e = true)
include hfields

theorem State.actRepair_starts (hisland : islandClass (saIsland e) = 3) (hunit : saUnit e < 32) (htarget : saTarget e < 2 ^ 22) :
    State.actRepair p e s =
      s.startRowRepair (saIsland e / 35 * 8 + (saIsland e % 35 - 18)) (saUnit e) (saTarget e) 5 (some p) :=
  if_neg (by simp only [hfields, hisland]; simp; omega)

theorem State.actRetire_starts (hisland : islandClass (saIsland e) = 0) (hunit : saUnit e < 32) :
    State.actRetire p e s = s.retireLane (stationOf (saIsland e)) (saUnit e) 5 [] (some p) :=
  if_neg (by simp only [hfields, hisland]; simp; omega)

theorem State.actInject_records (hkind : byteField e 24 1 ≤ 2) (hplace : injectable (saIsland e) (saUnit e) (byteField e 25 1) = true) :
    State.actInject p e s = (s.setEcc { s.ecc with injected := s.ecc.injected ++ [{ island := saIsland e, unit := saUnit e, word := byteField e 16 8, kind := byteField e 24 1, place := byteField e 25 1 }] }).finish p 0 0 :=
  if_neg (by simp only [hfields, hplace]; simp; omega)

section
variable (hisland : islandClass (saIsland e) = 0) (hfenced : s.fget F.stnStateFenced (stationOf (saIsland e)) = 1)
include hisland hfenced

theorem State.actReturn_refuses (hcause : s.fget F.stnStateCause (stationOf (saIsland e)) ∉ [1, 3, 4, 5]) :
    State.actReturn p e s = s.finish p 0x2006 0 :=
  (if_neg (by simp [hfields, hisland, State.fbit, hfenced])).trans (if_pos (by simpa using hcause))

theorem State.actReturn_tests (hcause : s.fget F.stnStateCause (stationOf (saIsland e)) ∈ [1, 3, 4, 5]) :
    let u := s.setFreeCtr (s.freeCtr + 1)
    State.actReturn p e s = if Config.freeBool s.freeCtr then (u.returnStation (stationOf (saIsland e))).finish p 0 0 else u.finish p 0x2006 0 :=
  (if_neg (by simp [hfields, hisland, State.fbit, hfenced])).trans (if_neg (by simpa only [List.contains_iff_mem, Bool.not_eq_true', Bool.not_eq_false] using hcause))

end
end

/-! ## FABRIC_SET (R404, R405, R411) -/

section
variable (h : s.TakesNext 0 p e s0) (hop : sqOpcode e = 0x2E)
include h hop

theorem exec_fabricSetInstall_taken (h0 : byteField e 8 1 = 0) :
    exec (.fabricSetInstall 0) s = .next (State.behind State.installTaken p e s0) := congrArg _ (h.adminEntry _ _ (by simp [hop, h0]))
theorem exec_fabricSetPull_taken (h1 : byteField e 8 1 = 1) :
    exec (.fabricSetPull 0) s = .next (State.behind State.pullTaken p e s0) := congrArg _ (h.adminEntry _ _ (by simp [hop, h1]))
theorem exec_fabricSetClear_taken (h2 : byteField e 8 1 = 2) :
    exec (.fabricSetClear 0) s = .next (State.behind State.clearTaken p e s0) := congrArg _ (h.adminEntry _ _ (by simp [hop, h2]))

/-- During an activation every FABRIC_SET waits. -/
theorem fabricSet_waits (hbusy : s0.fget F.glbMaintOp 0 = 3) {c : Instr} (hc : c ∈ [Instr.fabricSetInstall 0, .fabricSetPull 0, .fabricSetClear 0])
    (hkind : byteField e 8 1 = [Instr.fabricSetInstall 0, .fabricSetPull 0, .fabricSetClear 0].idxOf c) :
    exec c s = .next (s0.setPower { s0.power with behind := s0.power.behind ++ [p] }) := by
  simp only [List.mem_cons, List.not_mem_nil, or_false] at hc
  obtain rfl | rfl | rfl := hc
  · exact (exec_fabricSetInstall_taken h hop hkind).trans (congrArg _ (State.behind_waits hbusy _ p e))
  · exact (exec_fabricSetPull_taken h hop hkind).trans (congrArg _ (State.behind_waits hbusy _ p e))
  · exact (exec_fabricSetClear_taken h hop hkind).trans (congrArg _ (State.behind_waits hbusy _ p e))

end

theorem State.installTaken_asks (hkind : byteField e 8 1 = 0) (hflags : sqFlags e = 0) (hzero : zeroAt e 9 7 = true)
    (haddr : byteField e 16 8 % 64 = 0) (hrest : zeroAt e 28 36 = true) (hlen : 64 ≤ byteField e 24 4) : State.installTaken p e s =
      s.setCmd p { s.cmd p with ranges := [(byteField e 16 8, byteField e 24 4)], want := byteField e 24 4, got := [] } :=
  if_neg (by simp [hkind, hflags, hzero, haddr, hrest, hlen])

theorem State.installTaken_refuses (hbad : sqFlags e ≠ 0 ∨ zeroAt e 9 7 = false ∨ byteField e 16 8 % 64 ≠ 0 ∨ zeroAt e 28 36 = false ∨
    byteField e 24 4 < 64) : State.installTaken p e s = s.fail p 0x1001 := by
  refine if_pos ?_
  obtain hb | hb | hb | hb | hb := hbad <;> simp [hb]

/-- The pull that an entry asks for. -/
def pullOf (p : Nat) (e : List Byte) : Pull :=
  { place := p, peer := byteField e 9 1, addr := byteField e 16 8, dst := byteField e 24 8, len := byteField e 32 8 }

theorem State.pullTaken_eq (hflags : sqFlags e = 0) (hzero : zeroAt e 10 6 = true) (hrest : zeroAt e 40 24 = true)
    (haddr : byteField e 16 8 % 65536 = 0) (hdst : byteField e 24 8 % 65536 = 0) (hlen : byteField e 32 8 % 65536 = 0)
    (hlow : 1 ≤ byteField e 32 8) (hhigh : byteField e 32 8 ≤ 4398046511104) (hdepot : inDepot (byteField e 24 8) (byteField e 32 8) = true)
    (hkept : s.namesKept (byteField e 24 8) (byteField e 32 8) = false) (hpeer : byteField e 9 1 ≤ 254)
    (hlines : s.linesTo (byteField e 9 1) ≠ []) : State.pullTaken p e s =
      if byteField e 24 8 < userEnd ∧ s.mediaBusy ≠ 0 then s.fail p s.mediaBusy
      else if byteField e 24 8 < userEnd ∧ s.fbit F.flsHealthExhausted 0 then s.fail p 0x2003
      else (s.setMesh { s.mesh with pulls := s.mesh.pulls ++ [pullOf p e] }).pullOn (pullOf p e) :=
  if_neg (by simp [hflags, hzero, hrest, haddr, hdst, hlen, hlow, hhigh, hdepot, hkept, hpeer, hlines])

end

/-- Settles O28: each action by its checks, and each FABRIC_SET by its OP. -/
theorem spareActAndFabricTaken : Obligations.SpareActAndFabricTaken := by
  intro s s0 p e h gives fails busy i
  refine ⟨fun hop => ⟨?_, ?_, ?_, ?_, ?_⟩, fun hop => ⟨?_, ?_, ?_, ?_, ?_⟩⟩
  · exact fun ⟨a, c⟩ hc ha hfields => spareAct_refuses h hop hfields hc ha
  · exact fun ha hfields hisland hunit htarget =>
      (exec_spareActDramRowRepair_taken h hop ha).trans (congrArg _ (State.actRepair_starts hfields hisland hunit htarget))
  · exact fun ha hfields hisland hunit =>
      (exec_spareActLaneRowRetire_taken h hop ha).trans (congrArg _ (State.actRetire_starts hfields hisland hunit))
  · intro ha hfields hisland hfenced
    have htaken := exec_spareActStationReturn_taken h hop ha
    exact ⟨fun hcause => htaken.trans (congrArg _ (State.actReturn_refuses hfields hisland hfenced hcause)),
      fun hcause => htaken.trans (congrArg _ (State.actReturn_tests hfields hisland hfenced hcause))⟩
  · exact fun ha hfields hkind hplace =>
      (exec_spareActErrorInjection_taken h hop ha).trans (congrArg _ (State.actInject_records hfields hkind hplace))
  · exact fun hbusy c hc hkind => fabricSet_waits h hop hbusy hc hkind
  · exact fun hbusy hkind hflags hzero haddr hrest hlen => (exec_fabricSetInstall_taken h hop hkind).trans
      (congrArg _ ((State.behind_runs hbusy _ p e).trans (State.installTaken_asks hkind hflags hzero haddr hrest hlen)))
  · exact fun hbusy hkind hbad => (exec_fabricSetInstall_taken h hop hkind).trans
      (congrArg _ ((State.behind_runs hbusy _ p e).trans (State.installTaken_refuses hbad)))
  · intro hbusy hkind dst len peer hflags hzero hrest haddr hdst hlen hlow hhigh hdepot hkept hpeer hlines
    have htaken := (exec_fabricSetPull_taken h hop hkind).trans (congrArg _ ((State.behind_runs hbusy _ p e).trans
      (State.pullTaken_eq hflags hzero hrest haddr hdst hlen hlow hhigh hdepot hkept hpeer hlines)))
    refine ⟨fun hmedia hfull => htaken.trans (congrArg _ (if_pos ⟨hmedia, hfull⟩)),
      fun hmedia hfree hspare => htaken.trans (congrArg _ ((if_neg fun hb => hb.2 hfree).trans (if_pos ⟨hmedia, decide_eq_true hspare⟩))),
      fun hfree => htaken.trans (congrArg _ ?_)⟩
    rw [if_neg fun hb => hfree.elim (fun hdst => absurd hb.1 (Nat.not_lt.2 hdst)) fun hx => hb.2 hx.1, if_neg]
    · rfl
    · rintro ⟨hmedia, hspare⟩
      obtain hdst | ⟨-, hnone⟩ := hfree
      · exact absurd hmedia (Nat.not_lt.2 hdst)
      · simp [State.fbit, hnone] at hspare
  · exact fun hbusy hkind =>
      have hruns := (exec_fabricSetClear_taken h hop hkind).trans (congrArg _ (State.behind_runs hbusy _ p e))
      ⟨fun hbad => hruns.trans (congrArg _ (if_pos (by simpa using hbad))),
        fun hflags hzero => hruns.trans (congrArg _ (if_neg (by simp [hflags, hzero])))⟩

end Sys2Proof.Machine
end

section
/-! SUPPORT. INDEX_PUT, INDEX_DEL and SHUNT once taken (R314, R342, R350). -/

namespace Sys2Proof.Machine

section
variable {s s0 : State} {p : Nat} {e : List Byte}

theorem exec_indexPut_taken {q : QueueId} (h : s.TakesNext q p e s0) (hop : sqOpcode e = 0x0C) :
    exec (.indexPut q) s = .next (State.putTaken p e s0) := congrArg _ (h.onEntry _ _ (by simp [hop]))

theorem exec_indexDel_taken {q : QueueId} (h : s.TakesNext q p e s0) (hop : sqOpcode e = 0x0D) :
    exec (.indexDel q) s = .next (State.delTaken p e s0) := congrArg _ (h.onEntry _ _ (by simp [hop]))

theorem exec_shunt_taken (h : s.TakesNext 0 p e s0) (hop : sqOpcode e = 0x2F) :
    exec (.shunt 0) s = .next (State.behind State.shuntTaken p e s0) := congrArg _ (h.adminEntry _ _ (by simp [hop]))

/-! ## The root's checks -/

section
variable {root : Nat} (hkept : s.namesKept root 4096 = false)
include hkept

theorem State.withRoot_busy {media : Bool} (hm : media = true) (hbusy : s.mediaBusy ≠ 0) (run : Root → State → State) :
    s.withRoot root p media run = s.fail p s.mediaBusy := (if_neg (by simp [hkept])).trans (if_pos ⟨hm, hbusy⟩)

variable {media : Bool} (hmedia : media = false ∨ s.mediaBusy = 0) (hread : (s.usePage root).readStatus root 192 = 0)
include hmedia hread

theorem State.withRoot_bad (hok : ((s.usePage root).readRoot root).ok = false) (run : Root → State → State) :
    s.withRoot root p media run = (s.usePage root).fail p 0x1004 := by
  rw [State.withRoot, if_neg (by simp [hkept]), if_neg fun h => hmedia.elim (fun hm => by simp [hm] at h) h.2, if_neg (not_not.2 hread)]
  exact if_pos (by simp [hok])

theorem State.withRoot_passes (hok : ((s.usePage root).readRoot root).ok = true)
    (hin : ((s.usePage root).readRoot root).inMedia = false ∨ (s.usePage root).mediaBusy = 0) (run : Root → State → State) :
    s.withRoot root p media run = run ((s.usePage root).readRoot root) (s.usePage root) := by
  rw [State.withRoot, if_neg (by simp [hkept]), if_neg fun h => hmedia.elim (fun hm => by simp [hm] at h) h.2, if_neg (not_not.2 hread)]
  exact (if_neg (by simp [hok])).trans (if_neg fun h => hin.elim (fun hm => by simp [hm] at h) h.2)

end

/-! ## Joining the root's queue -/

theorem State.joinMutators_plain (s : State) (root p src : Nat) : s.joinMutators root p 0 src =
    (s.setSearch { s.search with mutators := s.search.mutators ++ [(root, p)] }).mutate root (s.search.mutators.length + 1) := by
  rw [State.joinMutators, if_pos rfl]
  simp

theorem State.joinMutators_asks (s : State) (root p : Nat) {want : Nat} (hwant : want ≠ 0) (src : Nat) :
    let v := s.setCmd p { s.cmd p with ranges := [(src, want)], want := want, got := [] }
    s.joinMutators root p want src =
      (v.setSearch { v.search with mutators := v.search.mutators ++ [(root, p)] }).mutate root (v.search.mutators.length + 1) := by
  rw [State.joinMutators, if_neg hwant]
  simp

/-! ## The fields of the three commands -/

/-- What an INDEX_PUT does once its root has passed. -/
def State.putRooted (p : Nat) (e : List Byte) (r : Root) (s : State) : State :=
  if ipDepot e then
    (if !inDepot (ipSrc e) (ipCount e * r.vec) ∨ s.namesKept (ipSrc e) (ipCount e * r.vec) then s.fail p 0x1001
    else s.joinMutators r.at_ p 0 0)
  else s.joinMutators r.at_ p (ipCount e * r.vec) (ipSrc e)

/-- The fields of an INDEX_PUT are in range. -/
def putFields (e : List Byte) : Bool :=
  sqFlags e = 0 && byteField e 36 1 < 2 && zeroAt e 37 27 && rootAddrOk (ipRoot e) && ipIds e % 64 = 0 &&
    1 ≤ ipCount e && ipCount e ≤ 4096 && (ipDepot e || ipSrc e % 64 = 0) && (!ipDepot e || inDepot (ipSrc e) 1)

/-- The fields of an INDEX_DEL are in range. -/
def delFields (e : List Byte) : Bool :=
  sqFlags e = 0 && zeroAt e 28 36 && rootAddrOk (ipRoot e) && byteField e 16 8 % 64 = 0 && 1 ≤ byteField e 24 4 && byteField e 24 4 ≤ 65536

/-- The fields of a SHUNT are in range. -/
def shuntFields (e : List Byte) : Bool := sqFlags e = 0 && byteField e 24 1 < 2 && zeroAt e 25 39 && rootAddrOk (ipRoot e)

theorem State.putTaken_eq : State.putTaken p e s = if !putFields e then s.fail p 0x1001
    else s.withRoot (ipRoot e) p (ipRoot e < userEnd || (ipDepot e && ipSrc e < userEnd)) (State.putRooted p e) := rfl

theorem State.delTaken_eq : State.delTaken p e s = if !delFields e then s.fail p 0x1001
    else s.withRoot (ipRoot e) p (ipRoot e < userEnd) fun r s => s.joinMutators r.at_ p (8 * byteField e 24 4) (byteField e 16 8) := rfl

theorem State.shuntTaken_eq : State.shuntTaken p e s = if !shuntFields e then s.fail p 0x1001
    else if shEffort e = 0 ∧ !s.jobBound 0 then s.fail p 0x400E
    else s.withRoot (ipRoot e) p (ipRoot e < userEnd) fun r s =>
      if (s.shuntOf r.at_).isSome then s.fail p 0x5003 else s.joinMutators r.at_ p 0 0 := rfl

theorem putFields_iff (e : List Byte) : putFields e = true ↔
    sqFlags e = 0 ∧ byteField e 36 1 < 2 ∧ zeroAt e 37 27 = true ∧ rootAddrOk (ipRoot e) = true ∧ ipIds e % 64 = 0 ∧
      1 ≤ ipCount e ∧ ipCount e ≤ 4096 ∧ (ipDepot e = true ∨ ipSrc e % 64 = 0) ∧ (ipDepot e = false ∨ inDepot (ipSrc e) 1 = true) := by
  simp only [putFields, Bool.and_eq_true, Bool.or_eq_true, decide_eq_true_eq, Bool.not_eq_true', and_assoc]

theorem delFields_iff (e : List Byte) : delFields e = true ↔
    sqFlags e = 0 ∧ zeroAt e 28 36 = true ∧ rootAddrOk (ipRoot e) = true ∧ byteField e 16 8 % 64 = 0 ∧ 1 ≤ byteField e 24 4 ∧
      byteField e 24 4 ≤ 65536 := by
  simp only [delFields, Bool.and_eq_true, decide_eq_true_eq, and_assoc]

theorem shuntFields_iff (e : List Byte) : shuntFields e = true ↔
    sqFlags e = 0 ∧ byteField e 24 1 < 2 ∧ zeroAt e 25 39 = true ∧ rootAddrOk (ipRoot e) = true := by
  simp only [shuntFields, Bool.and_eq_true, decide_eq_true_eq, and_assoc]

/-! ## What each does -/

/-- A command that is to check a root does so on the state that the entry's taking left. -/
def State.Roots (s s0 : State) (c : Instr) (p root : Nat) (media : Bool) (run : Root → State → State) : Prop :=
  exec c s = .next (s0.withRoot root p media run)

theorem State.Roots.fails {c : Instr} {root : Nat} {media : Bool} {run : Root → State → State} (h : s.Roots s0 c p root media run)
    {M : Prop} (hM : media = true ↔ M) :
    (s0.namesKept root 4096 = true → exec c s = .next (s0.fail p 0x1001)) ∧
    (s0.namesKept root 4096 = false → M → s0.mediaBusy ≠ 0 → exec c s = .next (s0.fail p s0.mediaBusy)) ∧
    (s0.namesKept root 4096 = false → (¬ M ∨ s0.mediaBusy = 0) → (s0.usePage root).readStatus root 192 = 0 →
      ((s0.usePage root).readRoot root).ok = false → exec c s = .next ((s0.usePage root).fail p 0x1004)) :=
  ⟨fun hkept => h.trans (congrArg _ (if_pos hkept)),
    fun hkept hm hbusy => h.trans (congrArg _ (State.withRoot_busy hkept (hM.2 hm) hbusy run)),
    fun hkept hm hread hok => h.trans (congrArg _ (State.withRoot_bad hkept (hm.imp_left fun hn => by simpa using mt hM.1 hn) hread hok run))⟩

theorem State.Roots.passes {c : Instr} {root : Nat} {media : Bool} {run : Root → State → State} (h : s.Roots s0 c p root media run)
    {M : Prop} (hM : media = true ↔ M)
    (hpass : s0.namesKept root 4096 = false ∧ (¬ M ∨ s0.mediaBusy = 0) ∧ (s0.usePage root).readStatus root 192 = 0 ∧
      ((s0.usePage root).readRoot root).ok = true ∧ (((s0.usePage root).readRoot root).inMedia = false ∨ (s0.usePage root).mediaBusy = 0)) :
    exec c s = .next (run ((s0.usePage root).readRoot root) (s0.usePage root)) := by
  obtain ⟨hkept, hm, hread, hok, hin⟩ := hpass
  exact h.trans (congrArg _ (State.withRoot_passes hkept (hm.imp_left fun hn => by simpa using mt hM.1 hn) hread hok hin run))

end

/-- Settles O25: the fields, then the root's checks, then the root's queue of mutating commands. -/
theorem indexCommandsTaken : Obligations.IndexCommandsTaken := by
  intro s s0 q p e h u r joins rootFails rootPasses
  refine ⟨fun hop => ?_, fun hop => ?_, fun hop hq => ?_⟩
  · intro media fields
    have htaken := (exec_indexPut_taken h hop).trans (congrArg _ State.putTaken_eq)
    have hiff : putFields e = true ↔ fields := putFields_iff e
    refine ⟨fun hf => htaken.trans (congrArg _ (if_pos (by simpa using mt hiff.1 hf))), fun hf => ?_⟩
    have hroots : s.Roots s0 (.indexPut q) p (ipRoot e) (ipRoot e < userEnd || (ipDepot e && ipSrc e < userEnd)) (State.putRooted p e) :=
      htaken.trans (congrArg _ (if_neg (by simp [hiff.2 hf])))
    have hmedia : (decide (ipRoot e < userEnd) || (ipDepot e && decide (ipSrc e < userEnd))) = true ↔ media := by simp [media]
    refine ⟨hroots.fails hmedia, fun hpass => ⟨fun hhost hvec => ?_, fun hdepot hbad => ?_, fun hdepot hin hkept => ?_⟩⟩
    all_goals refine (hroots.passes hmedia hpass).trans (congrArg _ ?_)
    · obtain ⟨-, -, -, -, -, hcount, -⟩ := hf
      have hwant : ipCount e * r.vec ≠ 0 := Nat.mul_ne_zero (Nat.ne_of_gt hcount) (Nat.ne_of_gt hvec)
      exact (if_neg (by simp [hhost])).trans (State.joinMutators_asks _ _ _ hwant _)
    · exact (if_pos hdepot).trans (if_pos (by simpa using hbad))
    · exact ((if_pos hdepot).trans (if_neg (by rw [hin]; simpa using hkept))).trans (State.joinMutators_plain _ _ _ _)
  · intro n fields
    have htaken := (exec_indexDel_taken h hop).trans (congrArg _ State.delTaken_eq)
    have hiff : delFields e = true ↔ fields := delFields_iff e
    refine ⟨fun hf => htaken.trans (congrArg _ (if_pos (by simpa using mt hiff.1 hf))), fun hf => ?_⟩
    have hroots : s.Roots s0 (.indexDel q) p (ipRoot e) (ipRoot e < userEnd) (fun r s => s.joinMutators r.at_ p (8 * byteField e 24 4) (byteField e 16 8)) :=
      htaken.trans (congrArg _ (if_neg (by simp [hiff.2 hf])))
    obtain ⟨-, -, -, -, hn, -⟩ := hf
    exact ⟨hroots.fails decide_eq_true_iff, fun hpass => (hroots.passes decide_eq_true_iff hpass).trans
      (congrArg _ (State.joinMutators_asks _ _ _ (by omega) _))⟩
  · intro fields
    obtain rfl : q = 0 := Fin.ext hq
    have htaken := exec_shunt_taken h hop
    have hiff : shuntFields e = true ↔ fields := shuntFields_iff e
    refine ⟨fun hbusy => htaken.trans (congrArg _ (State.behind_waits hbusy _ p e)), fun hbusy => ?_⟩
    have hruns := htaken.trans (congrArg _ ((State.behind_runs hbusy _ p e).trans State.shuntTaken_eq))
    refine ⟨fun hf => hruns.trans (congrArg _ (if_pos (by simpa using mt hiff.1 hf))),
      fun hf heffort hbase => hruns.trans (congrArg _ ((if_neg (by simp [hiff.2 hf])).trans (if_pos ⟨heffort, by simp [hbase]⟩))),
      fun hf hbudget => ?_⟩
    have hroots : s.Roots s0 (.shunt 0) p (ipRoot e) (ipRoot e < userEnd)
        (fun r s => if (s.shuntOf r.at_).isSome then s.fail p 0x5003 else s.joinMutators r.at_ p 0 0) :=
      hruns.trans (congrArg _ ((if_neg (by simp [hiff.2 hf])).trans
        (if_neg fun hb => hbudget.elim (fun hne => hne hb.1) fun hbound => by simp [hbound] at hb)))
    refine ⟨hroots.fails decide_eq_true_iff, fun hpass => ⟨fun hsome => ?_, fun hnone => ?_⟩⟩
    · exact (hroots.passes decide_eq_true_iff hpass).trans (congrArg _ (if_pos hsome))
    · exact (hroots.passes decide_eq_true_iff hpass).trans (congrArg _ ((if_neg (by simpa using hnone)).trans (State.joinMutators_plain _ _ _ _)))

end Sys2Proof.Machine
end

section
/-! SUPPORT. SCAN (R357, R364, R374), SEARCH (R325), EMBED (R375, R376) and INGEST (R380, R381) once taken. -/

namespace Sys2Proof.Machine

section
variable {s s0 : State} {q : QueueId} {p : Nat} {e : List Byte}

theorem exec_scan_taken (h : s.TakesNext q p e s0) (hop : sqOpcode e = 0x08) : exec (.scan q) s = .next (State.scanTaken p e s0) :=
  congrArg _ (h.onEntry _ _ (by simp [hop]))
theorem exec_search_taken (h : s.TakesNext q p e s0) (hop : sqOpcode e = 0x09) : exec (.search q) s = .next (State.searchTaken p e s0) :=
  congrArg _ (h.onEntry _ _ (by simp [hop]))
theorem exec_embed_taken (h : s.TakesNext q p e s0) (hop : sqOpcode e = 0x0A) : exec (.embed q) s = .next (State.embedTaken p e s0) :=
  congrArg _ (h.onEntry _ _ (by simp [hop]))
theorem exec_ingest_taken (h : s.TakesNext q p e s0) (hop : sqOpcode e = 0x0B) : exec (.ingest q) s = .next (State.ingestTaken p e s0) :=
  congrArg _ (h.onEntry _ _ (by simp [hop]))

/-! ## SCAN (R357, R364, R374) -/

/-- The checks after the fields, and the loading. -/
def State.scanJobbed (p : Nat) (e : List Byte) (s : State) : State :=
  if !s.scanJobOk e then s.fail p 0x1001
  else if scanNamesMedia e ∧ s.mediaBusy ≠ 0 then s.fail p s.mediaBusy
  else if scProg e = 0 then s.scanArgs p
  else if scProgDepot e then s.scanProgHere p
  else s.setCmd p { s.cmd p with ranges := [(scProg e, 16)], want := 16, got := [] }

theorem State.scanTaken_eq : State.scanTaken p e s = if !scanFields e ∨ s.scanKept e then s.fail p 0x1001
    else if scJob e = 0 ∧ !s.jobBound 0 then s.fail p 0x400E else State.scanJobbed p e s := rfl

theorem State.scanJobbed_passes (hjob : s.scanJobOk e = true) (hmedia : scanNamesMedia e = false ∨ s.mediaBusy = 0) : State.scanJobbed p e s =
    if scProg e = 0 then s.scanArgs p
    else if scProgDepot e then s.scanProgHere p
    else s.setCmd p { s.cmd p with ranges := [(scProg e, 16)], want := 16, got := [] } :=
  (if_neg (by simp [hjob])).trans (if_neg fun h => hmedia.elim (fun hm => by simp [hm] at h) h.2)

/-- A job's record that passes leaves the argument block to be asked for. -/
theorem State.scanArgs_asks (h : s.TakesNext q p e s0) (hprog : scProg e = 0) (hextent : extentOk e (s0.scanProgram p) = true)
    (hkeeps : siKeeps (spInstrs (s0.scanProgram p)) = []) (harg : scArg e ≠ 0) (hdepot : scArgDepot e = false) : s0.scanArgs p =
      s0.setCmd p { s0.cmd p with ranges := [(scArg e, argBytes (s0.scanProgram p))], want := argBytes (s0.scanProgram p), phase := 2 } := by
  have hranges : (s0.cmd p).ranges = [] := by rw [h.cmd]
  have hgot : (s0.cmd p).got = [] := by rw [h.cmd]
  rw [State.scanArgs, h.entry, if_neg fun hp => hp.1 hprog, if_neg (by simp [hextent]), if_neg fun hk => hk.1 hkeeps, if_neg harg]
  refine (if_pos (by simp [hdepot])).trans ?_
  simp [hranges, hgot, h.entry]

/-! ## SEARCH (R325) -/

theorem State.searchTaken_eq : State.searchTaken p e s = if !searchFields e ∨ !s.searchJobOk (seJob e) then s.fail p 0x1001
    else if s.namesKept (seRoot e) 4096 ∨ (seDepot e ∧ s.namesKept (seQuery e) 2048) ∨ (seFiltered e ∧ s.namesKept (seFilter e) (ceilDiv (seBits e) 8))
      then s.fail p 0x1001
    else if seJob e = 0 ∧ !s.jobBound 0 then s.fail p 0x400E
    else if 2 ≤ seWiden e ∧ skWiden (s.searchk (seJob e)) < seWiden e then s.fail p 0x1001
    else if searchNamesMedia e ∧ s.mediaBusy ≠ 0 then s.fail p s.mediaBusy
    else s.setSearch { s.search with waiting := s.joinWait p s.search.waiting } := rfl

/-! ## EMBED (R375, R376) -/

/-- An EMBED as it begins, its staging areas not yet allocated. -/
def State.embedCmd (s : State) (p : Nat) (e : List Byte) : EmbedCmd :=
  { place := p, job := emJob e, src := emSrc e, items := emItems e, itemBytes := emBytes e, outBytes := emOut e, cap := s.rowCapOf (emJob e), dst := emDst e, inDepot := emDepot e, staging := (0, 0) }

theorem State.embedTaken_eq : State.embedTaken p e s =
    if !embedFields e ∨ s.embedKept e ∨ !s.encoderOk (emJob e) (emBytes e) (emOut e) ∨ s.refusesRun (emJob e) then s.fail p 0x1001
    else if (emSrc e < userEnd ∨ (emDepot e ∧ emDst e < userEnd) ∨ s.jobTouchesMedia (emJob e)) ∧ s.mediaBusy ≠ 0 then s.fail p s.mediaBusy
    else s.startEmbed (s.embedCmd p e) fun s => s.feedEmbed p := rfl

theorem State.startEmbed_full {x : EmbedCmd} (h : s.allocScratch (x.cap * x.outBytes) = none) (go : State → State) :
    s.startEmbed x go = s.fail x.place 0x4008 := by
  rw [State.startEmbed, h]

section
variable {x : EmbedCmd} {a b : Nat} {s1 s2 : State} (ha : s.allocScratch (x.cap * x.outBytes) = some (a, s1))
  (hb : s1.allocScratch (x.cap * x.outBytes) = some (b, s2))
include ha hb

theorem State.startEmbed_embeds (hroot : x.root = none) (go : State → State) : s.startEmbed x go =
    go (s2.setScans { s2.scan with embeds := s2.scan.embeds ++ [{ x with staging := (a, b), dst := x.dst }] }) := by
  rw [State.startEmbed, ha]
  simp only [hb, hroot, Option.isNone_none, if_true]

theorem State.startEmbed_ingests {d : Nat} {s3 : State} (hroot : x.root ≠ none) (hd : s2.allocScratch (x.items * x.outBytes) = some (d, s3))
    (go : State → State) : s.startEmbed x go =
    go (s3.setScans { s3.scan with embeds := s3.scan.embeds ++ [{ x with staging := (a, b), dst := d }] }) := by
  rw [State.startEmbed, ha]
  simp only [hb, Option.isNone_iff_eq_none, hroot, if_false, hd]

end

/-! ## INGEST (R380, R381) -/

/-- An INGEST as it begins, its staging areas not yet allocated. -/
def State.ingestCmd (s : State) (p : Nat) (e : List Byte) (r : Root) : EmbedCmd :=
  { place := p, job := inJob e, src := inDst e, items := inItems e, itemBytes := inBytes e, outBytes := r.vec, cap := s.rowCapOf (inJob e), dst := 0, inDepot := true, staging := (0, 0), root := some r.at_ }

/-- What an INGEST does once its root has passed. -/
def State.ingestRooted (p : Nat) (e : List Byte) (r : Root) (s : State) : State :=
  if !s.encoderOk (inJob e) (inBytes e) r.vec ∨ s.refusesRun (inJob e) then s.fail p 0x1001
  else if s.fbit F.flsHealthExhausted 0 then s.fail p 0x2003
  else s.startEmbed (s.ingestCmd p e r) fun s => (s.setCmd p { s.cmd p with ranges := [(inSrc e, inItems e * inBytes e)] }).writeGo p

theorem State.ingestTaken_eq : State.ingestTaken p e s =
    if !ingestFields e then s.fail p 0x1001 else s.withRoot (inRoot e) p true (State.ingestRooted p e) := rfl

end

/-- Settles O24: each command by the first of its checks that fails, and by what it asks for. -/
theorem programsTaken : Obligations.ProgramsTaken := by
  intro s s0 q p e h fails joined
  refine ⟨fun hop => ?_, fun hop => ?_, fun hop => ?_, fun hop => ?_⟩
  · have htaken := (exec_scan_taken h hop).trans (congrArg _ State.scanTaken_eq)
    refine ⟨fun hbad => htaken.trans (congrArg _ (if_pos (by simpa using hbad))), fun hf hkept hjob hbase => htaken.trans (congrArg _ ?_),
      fun hf hkept hbase => ?_⟩
    · rw [if_neg (by simp [hf, hkept]), if_pos ⟨hjob, by simp [hbase]⟩]
    · have hjobbed : exec (.scan q) s = .next (State.scanJobbed p e s0) := htaken.trans (congrArg _ ((if_neg (by simp [hf, hkept])).trans
        (if_neg fun hb => hbase.elim (fun hne => hne hb.1) fun hbound => by simp [hbound] at hb)))
      refine ⟨fun hjob => hjobbed.trans (congrArg _ (if_pos (by simp [hjob]))), fun hjob => ⟨fun hbusy => hjobbed.trans (congrArg _ ?_),
        fun hmedia => ?_⟩⟩
      · exact (if_neg (by simp [hjob])).trans (if_pos hbusy)
      · have hloads := hjobbed.trans (congrArg _ (State.scanJobbed_passes hjob hmedia))
        exact ⟨fun hprog hdepot => hloads.trans (congrArg _ ((if_neg hprog).trans (if_neg (by simp [hdepot])))),
          fun hprog hdepot => hloads.trans (congrArg _ ((if_neg hprog).trans (if_pos hdepot))),
          fun hprog hextent hkeeps harg hdepot => hloads.trans (congrArg _ ((if_pos hprog).trans
            (State.scanArgs_asks h hprog hextent hkeeps harg hdepot)))⟩
  · intro kept
    have htaken := (exec_search_taken h hop).trans (congrArg _ State.searchTaken_eq)
    refine ⟨fun hbad => htaken.trans (congrArg _ ?_), fun hf hjob hkept => ?_⟩
    · by_cases hchecks : searchFields e = false ∨ s0.searchJobOk (seJob e) = false
      · exact if_pos (by simpa using hchecks)
      · have hk : kept := (or_assoc.2 hbad).resolve_left hchecks
        exact (if_neg (by simpa using hchecks)).trans (if_pos hk)
    · have hnamed := htaken.trans (congrArg _ ((if_neg (by simp [hf, hjob])).trans (if_neg hkept)))
      refine ⟨fun hj hbase => hnamed.trans (congrArg _ (if_pos ⟨hj, by simp [hbase]⟩)), fun hbase => ?_⟩
      have hbound := hnamed.trans (congrArg _ (if_neg fun hb => hbase.elim (fun hne => hne hb.1) fun hbound => by simp [hbound] at hb))
      refine ⟨fun hwiden => hbound.trans (congrArg _ (if_pos hwiden)), fun hwiden => ?_⟩
      have hbudget := hbound.trans (congrArg _ (if_neg (by omega)))
      exact ⟨fun hbusy => hbudget.trans (congrArg _ (if_pos hbusy)),
        fun hmedia => hbudget.trans (congrArg _ (if_neg fun hb => hmedia.elim (fun hm => by simp [hm] at hb) hb.2))⟩
  · intro media n
    have htaken := (exec_embed_taken h hop).trans (congrArg _ State.embedTaken_eq)
    refine ⟨fun hbad => htaken.trans (congrArg _ (if_pos (by simpa using hbad))), fun hf hkept henc hrun => ?_⟩
    have hchecked := htaken.trans (congrArg _ (if_neg (by simp [hf, hkept, henc, hrun])))
    refine ⟨fun hbusy => hchecked.trans (congrArg _ (if_pos hbusy)), fun hmedia => ?_⟩
    have hstart := hchecked.trans (congrArg _ (if_neg fun hb => hmedia.elim (fun hm => hm hb.1) hb.2))
    exact ⟨fun hfull => hstart.trans (congrArg _ (State.startEmbed_full hfull _)),
      fun a b s1 s2 ha hb => hstart.trans (congrArg _ (State.startEmbed_embeds ha hb rfl _))⟩
  · have htaken := (exec_ingest_taken h hop).trans (congrArg _ State.ingestTaken_eq)
    refine ⟨fun hbad => ?_, fun hf hkept => ?_⟩
    · by_cases hf : ingestFields e = true
      · have hkept := hbad.resolve_left (by simp [hf])
        exact htaken.trans (congrArg _ ((if_neg (by simp [hf])).trans (if_pos hkept)))
      · exact htaken.trans (congrArg _ (if_pos (by simpa using hf)))
    · intro u r n
      have hroots : s.Roots s0 (.ingest q) p (inRoot e) true (State.ingestRooted p e) := htaken.trans (congrArg _ (if_neg (by simp [hf])))
      obtain ⟨-, hbusy, hnotOk⟩ := hroots.fails (M := True) (by simp)
      refine ⟨fun hne => hbusy hkept trivial hne, fun hfree hread => ⟨fun hok => hnotOk hkept (.inr hfree) hread hok, fun hok hfree' => ?_⟩⟩
      have hrooted := hroots.passes (M := True) (by simp) ⟨hkept, .inr hfree, hread, hok, .inr hfree'⟩
      refine ⟨fun hbad => hrooted.trans (congrArg _ (if_pos (by simpa using hbad))), fun henc hrun => ?_⟩
      have hjob := hrooted.trans (congrArg _ (if_neg (by simp only [u, r] at henc hrun; simp [henc, hrun])))
      refine ⟨fun hspare => hjob.trans (congrArg _ (if_pos (decide_eq_true hspare))), fun a b d s1 s2 s3 hspare ha hb hd => ?_⟩
      exact hjob.trans (congrArg _ ((if_neg (by simp only [u] at hspare; simp [State.fbit, hspare])).trans
        (State.startEmbed_ingests (x := u.ingestCmd p e r) ha hb (by simp [State.ingestCmd]) hd _)))

end Sys2Proof.Machine
end

section
/-! SUPPORT. The configuration store's events (R512, R513, R517, R520, R521), the stitch in progress (R179, R187, R191), and the data that
comes from the host (R445, R446). -/

namespace Sys2Proof.Machine

section
variable {s : State}

/-! ## The configuration store (R512, R513, R517, R520, R521) -/

theorem exec_cfsProgramDone (b0 b1 : Option Nat) (s : State) : exec (.cfsProgramDone b0 b1) s = .next (
    if ((s.badProgram 0 b0).badProgram 1 b1).cfsDead then (s.badProgram 0 b0).badProgram 1 b1
    else ((s.badProgram 0 b0).badProgram 1 b1).commitFront.afterOps) := rfl

theorem exec_cfsEraseDone (d : CfsId) (p : Nat) (ok : Bool) (s : State) :
    exec (.cfsEraseDone d p ok) s = .next (s.sectorErased d.val p ok) := rfl

theorem State.retireSector_sinceGap (s : State) (d p : Nat) : (s.retireSector d p).cfs.sinceGap = s.cfs.sinceGap := by
  unfold State.retireSector
  split_ifs <;> simp

/-- An erase that ends is counted, and one that failed retires its sector. -/
def State.eraseCounted (s : State) (d p : Nat) (ok : Bool) : State :=
  let u := (s.setCfs { s.cfs with erasesDue := Tbl.put 0 s.cfs.erasesDue d (Tbl.look 0 s.cfs.erasesDue d - 1) }).bump F.cfsCtrCount 1 1
  if ok then u else u.retireSector d p

theorem State.eraseCounted_sinceGap (s : State) (d p : Nat) (ok : Bool) : (s.eraseCounted d p ok).cfs.sinceGap = s.cfs.sinceGap := by
  cases ok with
  | true => simp [State.eraseCounted]
  | false => simp [State.eraseCounted, State.retireSector_sinceGap]

theorem State.sectorErased_idle {d p : Nat} (h : Tbl.look 0 s.cfs.erasesDue d = 0 ∨ s.bankHeld d p = true) (ok : Bool) :
    s.sectorErased d p ok = s := if_pos h

theorem State.sectorErased_due {d p : Nat} (hdue : Tbl.look 0 s.cfs.erasesDue d ≠ 0) (hheld : s.bankHeld d p = false) {ok : Bool} {v : State}
    (hv : v = s.eraseCounted d p ok) : s.sectorErased d p ok =
      if p < 16 then v
      else if Tbl.look 0 s.cfs.sinceGap d + 1 ≥ 64 then (v.setCfs { v.cfs with sinceGap := Tbl.put 0 v.cfs.sinceGap d 1 }).gapTurn d
      else v.setCfs { v.cfs with sinceGap := Tbl.put 0 v.cfs.sinceGap d (Tbl.look 0 s.cfs.sinceGap d + 1) } := by
  have hgap : v.cfs.sinceGap = s.cfs.sinceGap := by rw [hv, State.eraseCounted_sinceGap]
  rw [← hgap, State.sectorErased]
  simp only [if_neg (not_or.2 ⟨hdue, Bool.eq_false_iff.1 hheld⟩)]
  rw [hv, State.eraseCounted]

/-- An erase of a ring sector that ends well and moves no gap leaves only its counts. -/
theorem cfsEraseDone_counts {d : CfsId} {p : Nat} (hdue : Tbl.look 0 s.cfs.erasesDue d.val ≠ 0) (hheld : s.bankHeld d.val p = false)
    (hring : 16 ≤ p) (hgap : Tbl.look 0 s.cfs.sinceGap d.val < 63) : ∃ t,
    exec (.cfsEraseDone d p true) s = .next t ∧ s.OnlyParts t [.regs, .cfs] ∧
      t.fget F.cfsCtrCount 1 = (s.fget F.cfsCtrCount 1 + 1) % 2 ^ F.cfsCtrCount.width ∧
      t.cfs = { s.cfs with
        erasesDue := Tbl.put 0 s.cfs.erasesDue d.val (Tbl.look 0 s.cfs.erasesDue d.val - 1)
        sinceGap := Tbl.put 0 s.cfs.sinceGap d.val (Tbl.look 0 s.cfs.sinceGap d.val + 1) } := by
  have hend := State.sectorErased_due hdue hheld (ok := true) rfl
  rw [if_neg (by omega), if_neg (by omega)] at hend
  refine ⟨_, (exec_cfsEraseDone d p true s).trans (congrArg _ hend), ?_, ?_, ?_⟩
  · simp [State.eraseCounted, State.onlyParts_iff]
  · rw [State.setCfs_fget]
    exact State.fget_bump_same _ _ _ _ (by decide)
  · rw [State.setCfs_cfs]
    simp [State.eraseCounted]

/-- A data read of an execute-only region returns all ones and is counted. -/
def State.xoRead (s : State) : State :=
  (s.bump F.cfsCtrCount 6 1).setCfs { (s.bump F.cfsCtrCount 6 1).cfs with readBack := some (2 ^ 64 - 1) }

theorem exec_cfsRead_data {n : Nat} (hn : n < 65536) (i : IslandId) (ok0 ok1 : Bool) : exec (.cfsRead i n false ok0 ok1) s = .next (
    if s.xoRead.cfs.xoLogged then s.xoRead else (s.xoRead.setCfs { s.xoRead.cfs with xoLogged := true }).event 17 0x0701 0 n i.val) :=
  congrArg Host.Outcome.next (if_pos ⟨rfl, hn⟩)

theorem exec_cfsRead_queued {n : Nat} {fetch : Bool} (h : fetch = true ∨ 65536 ≤ n) (i : IslandId) (ok0 ok1 : Bool) :
    exec (.cfsRead i n fetch ok0 ok1) s = .next (
      if s.fbit F.cfsDevStateFailed 0 then (s.bump F.cfsCtrCount 4 1).queueBank 1 ⟨i.val, n, fetch⟩
      else if !ok0 ∧ ok1 ∧ !s.fbit F.cfsDevStateFailed 1 then
        ((s.bump F.cfsCtrCount 4 1).bump F.cfsCtrCount 5 1).queueBank 1 ⟨i.val, n, fetch⟩
      else s.queueBank 0 ⟨i.val, n, fetch⟩) :=
  congrArg Host.Outcome.next (if_neg fun hb => h.elim (fun hf => by simp [hf] at hb) fun hn => by omega)

/-- A data read of an execute-only region is a violation, which is logged once. -/
theorem cfsRead_violates {n : Nat} (hn : n < 65536) (i : IslandId) (ok0 ok1 : Bool) : ∃ t, exec (.cfsRead i n false ok0 ok1) s = .next t ∧
    t.cfs.xoLogged = true ∧ t.cfs.bankReads = s.cfs.bankReads ∧ t.cfs.readBack = some (2 ^ 64 - 1) ∧
    (s.cfs.xoLogged = true → t = (s.bump F.cfsCtrCount 6 1).setCfs { s.cfs with readBack := some (2 ^ 64 - 1) }) ∧
    t.fget F.cfsCtrCount 6 = (s.fget F.cfsCtrCount 6 + 1) % 2 ^ F.cfsCtrCount.width := by
  have hcount := State.fget_bump_same s F.cfsCtrCount 6 1 (by decide)
  refine ⟨_, exec_cfsRead_data hn i ok0 ok1, ?_⟩
  cases hlogged : s.cfs.xoLogged with
  | true => simp [State.xoRead, hlogged, hcount]
  | false => simp [State.xoRead, State.event, hlogged, hcount]

/-! ## The stitch in progress (R179, R187, R191) -/

theorem State.stitchKick_idle (h : s.tt.queue = []) : s.stitchKick = s := by
  rw [State.stitchKick, h, State.beginNext.eq_def]
  simp [h]

section
variable {x : Stitch} {rest : List Stitch} (hq : s.tt.queue = x :: rest)
include hq

theorem State.stitchKick_begun (hbegun : x.begun = true) : s.stitchKick = s := by
  rw [State.stitchKick, hq, State.beginNext.eq_def]
  simp [hq, hbegun]

theorem State.stitchLoaded_placing (himage : x.image.isSome = true) : s.stitchLoaded = s := by
  rw [State.stitchLoaded, hq]
  exact if_pos (.inr himage)

theorem State.stitchLoaded_waits (hread : s.stitchRead x = none) : s.stitchLoaded = s := by
  rw [State.stitchLoaded, hq]
  simp only [hread, ite_self]

theorem State.stitchLoaded_checks (hbegun : x.begun = true) (himage : x.image = none) {bs : List Byte} (hread : s.stitchRead x = some bs) :
    let y := { x with got := bs }
    s.stitchLoaded = ((s.earlyChecks y).elim (s.lateChecks y) (s.stitchFails y)).stitchKick := by
  intro y
  rw [State.stitchLoaded, hq]
  refine (if_neg (by simp [hbegun, himage])).trans ?_
  simp only [hread]
  change (match s.earlyChecks y with
    | some f => (s.stitchFails y f).stitchKick
    | none => (s.lateChecks y).stitchKick) = _
  cases s.earlyChecks y with
  | none => rfl
  | some f => rfl

theorem exec_stitchImagePlaced_none (himage : x.image = none) : exec .stitchImagePlaced s = .next s := by
  change Host.Outcome.next _ = _
  rw [hq]
  simp only [himage]

theorem exec_stitchImagePlaced_some {im : Image} (himage : x.image = some im) :
    exec .stitchImagePlaced s = .next ((s.imagePlaced x im).stitchKick) := by
  change Host.Outcome.next _ = _
  rw [hq]
  simp only [himage]

end

/-! ## Data from the host (R445, R446) -/

theorem exec_hostReadCompletion {p : Nat} (hreads : s.reads p = true) (o : Fin 5) (data : List Byte) : exec (.hostReadCompletion p o data) s =
    .next (if o.val = 0 then s.pieceArrives p data else s.readFails p (readStatus o.val)) :=
  congrArg Host.Outcome.next (if_neg (by simp [hreads]))

theorem State.pieceArrives_refused {p : Nat} {data : List Byte}
    (h : data = [] ∨ 4096 < data.length ∨ (s.cmd p).want < (s.cmd p).got.length + data.length) : s.pieceArrives p data = s := if_pos h

theorem State.pieceArrives_taken {p : Nat} {data : List Byte} (hsome : data ≠ []) (hlen : data.length ≤ 4096)
    (hwant : (s.cmd p).got.length + data.length ≤ (s.cmd p).want) :
    let u := s.setCmd p { s.cmd p with got := (s.cmd p).got ++ data }
    s.pieceArrives p data = if (s.cmd p).streams then s.writeData p data
      else if (s.cmd p).want ≤ (s.cmd p).got.length + data.length then u.hostData p else u :=
  if_neg (by simp only [hsome, false_or]; omega)

end

/-- Settles O52: the store's events by whether anything is due, the stitch in progress by its image, the host's data by its outcome. -/
theorem storeStitchAndHostReads : Obligations.StoreStitchAndHostReads := by
  intro s
  refine ⟨fun b0 b1 => ⟨fun hdead => ?_, fun hdead => ?_⟩, fun hdead => ?_, fun d p ok => ?_, fun i n fetch ok0 ok1 => ?_, fun x rest hq hbegun => ?_,
    fun hq => ⟨?_, ?_⟩, fun p o data => ?_⟩
  · exact (exec_cfsProgramDone b0 b1 s).trans (congrArg _ (if_pos hdead))
  · exact (exec_cfsProgramDone b0 b1 s).trans (congrArg _ (if_neg (by simpa using hdead)))
  · exact (exec_cfsProgramDone none none s).trans (congrArg _ (if_neg (Bool.eq_false_iff.1 hdead)))
  · intro due gap
    refine ⟨fun hidle => (exec_cfsEraseDone d p ok s).trans (congrArg _ (State.sectorErased_idle hidle ok)),
      fun hdue hheld hring hgap hok => hok ▸ cfsEraseDone_counts hdue hheld hring hgap, fun hdue hheld => ?_⟩
    have hend := (exec_cfsEraseDone d p ok s).trans (congrArg _ (State.sectorErased_due hdue hheld (ok := ok) rfl))
    exact ⟨fun hlow => hend.trans (congrArg _ (if_pos hlow)),
      fun hring hgap => hend.trans (congrArg _ ((if_neg (Nat.not_lt.2 hring)).trans (if_pos (Nat.succ_le_succ hgap)))),
      fun hring hgap => hend.trans (congrArg _ ((if_neg (Nat.not_lt.2 hring)).trans (if_neg (Nat.not_le.2 (Nat.succ_lt_succ hgap)))))⟩
  · refine ⟨fun hfetch hn => hfetch ▸ cfsRead_violates hn i ok0 ok1, fun h => ?_⟩
    have hqueued := exec_cfsRead_queued h i ok0 ok1 (s := s)
    refine ⟨fun hfailed => hqueued.trans (congrArg _ (if_pos hfailed)), fun hgood => ⟨fun h0 h1 hgood1 => ?_, fun hserve => ?_⟩⟩
    · exact hqueued.trans (congrArg _ ((if_neg (by simp [hgood])).trans (if_pos (by simp [h0, h1, hgood1]))))
    · refine hqueued.trans (congrArg _ ((if_neg (by simp [hgood])).trans (if_neg ?_)))
      rintro ⟨h0, h1, hgood1⟩
      obtain hs | hs | hs := hserve
      · simp [hs] at h0
      · simp [hs] at h1
      · simp [hs] at hgood1
  · have hloaded : exec .stitchContainerLoaded s = .next s.stitchLoaded :=
      congrArg (fun t : State => Host.Outcome.next t.stitchLoaded) (State.stitchKick_begun hq hbegun)
    refine ⟨fun himage => ⟨fun hread => ?_, fun bs hread => ?_, ?_⟩, fun im himage => ⟨?_, fun k htook => ?_, fun htook => ?_⟩⟩
    · exact hloaded.trans (congrArg _ (State.stitchLoaded_waits hq hread))
    · exact hloaded.trans (congrArg _ (State.stitchLoaded_checks hq hbegun himage hread))
    · exact exec_stitchImagePlaced_none hq himage
    · exact hloaded.trans (congrArg _ (State.stitchLoaded_placing hq (by simp [himage])))
    · rw [exec_stitchImagePlaced_some hq himage, State.imagePlaced, htook]
    · intro k old u v hk hfenced
      rw [exec_stitchImagePlaced_some hq himage, State.imagePlaced, htook]
      simp only
      rw [if_neg hk, if_neg (by simpa using hfenced)]
  · exact congrArg Host.Outcome.next (by rw [State.stitchKick_idle hq, State.stitchLoaded, hq])
  · change Host.Outcome.next _ = _
    rw [hq]
  · intro c
    refine ⟨fun hreads => congrArg Host.Outcome.next (if_pos (by simp [hreads])), fun hreads => ?_⟩
    have hread := exec_hostReadCompletion hreads o data
    refine ⟨fun ho hbad => hread.trans (congrArg _ ((if_pos ho).trans (State.pieceArrives_refused hbad))), fun ho hsome hlen hwant => ?_,
      fun ho => hread.trans (congrArg _ (if_neg ho))⟩
    have htaken := hread.trans (congrArg _ ((if_pos ho).trans (State.pieceArrives_taken hsome hlen hwant)))
    exact ⟨fun hstream => htaken.trans (congrArg _ (if_pos hstream)),
      fun hstream hmore => htaken.trans (congrArg _ ((if_neg (by simpa using hstream)).trans (if_neg (Nat.not_le.2 hmore)))),
      fun hstream hall => htaken.trans (congrArg _ ((if_neg (by simpa using hstream)).trans (if_pos (Nat.le_of_eq hall.symm))))⟩

end Sys2Proof.Machine
end

section
/-! SUPPORT. A write of BRL.LINE_CTL discards the low half that the host has written of another register (R602). -/

namespace Sys2Proof.Machine

theorem State.dropHeld_other {s : State} {off o low : Nat} (hlow : s.host.heldLow = some (o, low)) (hother : o ≠ off / 8 * 8) :
    s.dropHeld off = s.setHost { s.host with heldLow := none } := by
  rw [State.dropHeld, hlow]
  exact if_neg hother

/-- RETRAIN written on a line that has not failed does no more than any accepted write. -/
theorem lineRetrainRequest_unfailed {s : State} (hopen : s.Open) {b : LineId} (hst : s.lineSt b.val ≠ 7) :
    exec (.lineRetrainRequest b) s = .next (s.dropHeld (lineCtlAt b.val)) := by
  change Host.Outcome.next (s.woWrite (lineCtlAt b.val) fun s => s.retrainLine b.val) = _
  rw [hopen.woWrite, State.retrainLine, if_pos (by simpa [State.lineSt] using hst)]

/-- The link is up, and the host has written the low half of GLB.ID's doubleword and not yet the high half. -/
def heldLowHalf : State := State.reset.setHost { State.reset.host with link := some (16, 128), heldLow := some (0, 0) }

theorem heldLowHalf_open : heldLowHalf.Open := by
  refine ⟨rfl, ?_⟩
  decide +kernel

/-- Refutes O48: in `heldLowHalf` no completion is held (HELD is empty) but the low half of another register is, which a write of RETRAIN on
a line that has not failed discards (R602), so that the state is not as it was. -/
theorem not_lineStates : ¬ Obligations.LineStates := by
  unfold Obligations.LineStates
  intro h
  obtain ⟨-, -, hretrain, -⟩ := h heldLowHalf 0
  obtain ⟨-, hsame, -⟩ := hretrain heldLowHalf_open.1 rfl
  have hst : heldLowHalf.lineSt 0 ≠ 7 := by decide +kernel
  have hexec := (lineRetrainRequest_unfailed heldLowHalf_open (b := 0) hst).symm.trans (hsame hst heldLowHalf_open.2)
  have hdropped := State.dropHeld_other (s := heldLowHalf) (off := lineCtlAt 0) (o := 0) (low := 0) rfl (by decide)
  have hnone : heldLowHalf.host.heldLow = none := by
    rw [← Host.Outcome.next.inj hexec]
    exact congrArg (fun t : State => t.host.heldLow) hdropped
  exact absurd hnone (by decide)

end Sys2Proof.Machine
end

section
/-! SUPPORT. Flits of a branch line (R389 to R395): what is sent, what is taken, and a replay. -/

namespace Sys2Proof.Machine

section
variable {s : State} {b : Nat}

/-! ## A line's record -/

@[simp] theorem State.line_setLine_same (s : State) (b : Nat) (x : Line) : (s.setLine b x).line b = x := by
  rw [State.line, State.setLine, State.setMesh_mesh, Tbl.look_put_same]

theorem State.line_setLine_other (s : State) {b k : Nat} (x : Line) (h : k ≠ b) : (s.setLine b x).line k = s.line k := by
  rw [State.line, State.setLine, State.setMesh_mesh, Tbl.look_put_other _ _ _ h]
  rfl

@[simp] theorem State.setLine_lineSt (s : State) (b k : Nat) (x : Line) : (s.setLine b x).lineSt k = s.lineSt k := by simp [State.lineSt]

theorem State.line_congr {t : State} (h : t.mesh = s.mesh) (b : Nat) : t.line b = s.line b := by rw [State.line, h, State.line]

@[simp] theorem State.lineCtr_line (s : State) (b i n k : Nat) : (s.lineCtr b i n).line k = s.line k :=
  State.line_congr (by rw [State.lineCtr, State.bump_mesh]) k

@[simp] theorem State.showLine_line (s : State) (b k : Nat) : (s.showLine b).line k = s.line k :=
  State.line_congr (by rw [State.showLine, State.fset_mesh, State.fset_mesh]) k

theorem State.lineCtr_within (s : State) (b i n : Nat) : s.Within (s.lineCtr b i n) [.regs, .mesh] (fun r _ => r ∈ [.brlLineState, .brlLineCtr]) :=
  ⟨(s.bump_onlyParts _ _ _).mono (by decide), by simp [State.lineCtr, F.brlLineCtrCount]⟩

theorem State.setLine_within (s : State) (b : Nat) (x : Line) : s.Within (s.setLine b x) [.regs, .mesh] (fun r _ => r ∈ [.brlLineState, .brlLineCtr]) :=
  (s.setLine_onlyParts b x).within _

theorem State.showLine_within (s : State) (b : Nat) : s.Within (s.showLine b) [.regs, .mesh] (fun r _ => r ∈ [.brlLineState, .brlLineCtr]) :=
  ⟨by simp [State.showLine, State.onlyParts_iff], by simp [State.showLine, F.brlLineStateDepthKib, F.brlLineStateDetouring]⟩

theorem State.showLine_fget (s : State) (b i : Nat) {f : Fld} (h1 : F.brlLineStateDepthKib.apart f = true) (h2 : F.brlLineStateDetouring.apart f = true) :
    (s.showLine b).fget f i = s.fget f i := by
  rw [State.showLine, State.fget_fset_of_apart _ _ _ _ h2, State.fget_fset_of_apart _ _ _ _ h1]

/-! ## Sending (R390 to R395) -/

/-- A channel that is held for want of credits is counted. -/
def State.heldCounted (s : State) (b : Nat) : State :=
  s.lineCtr b 12 (bit ((List.range 8).any (fun v => (s.line b).wants v && (s.line b).credits.getD v 0 = 0)))

theorem exec_flitTransmit (b : LineId) (s : State) : exec (.flitTransmit b) s = .next (s.sendFlit b.val) := rfl

theorem State.sendFlit_silent (h : s.lineSt b < 3 ∨ 5 < s.lineSt b) : s.sendFlit b = s := if_pos h

section
variable (hst : s.lineSt b ∈ [3, 4, 5])
include hst

theorem State.sendFlit_again (hagain : (s.line b).again ≠ 0) (hup : 4 ≤ s.lineSt b) :
    let l := s.line b
    let old := l.replay.getD (l.replay.length - l.again) []
    s.sendFlit b = (s.heldCounted b).setLine b { l.gave (l.flit (flSeq old) (flVc old) 1 (flBody old)) with again := l.again - 1 } :=
  (if_neg (by simp only [List.mem_cons, List.not_mem_nil, or_false] at hst; omega)).trans (if_pos ⟨hagain, hup⟩)

variable (hagain : (s.line b).again = 0 ∨ s.lineSt b = 3)
include hagain

theorem State.sendFlit_ident (hdue : (s.line b).identDue = true) : let l := s.line b
    s.sendFlit b = (s.heldCounted b).setLine b { l.gave (l.flit l.nextSeq 0 2 (s.identBody b)) with identDue := false } :=
  (if_neg (by simp only [List.mem_cons, List.not_mem_nil, or_false] at hst; omega)).trans ((if_neg (by omega)).trans (if_pos hdue))

theorem State.sendFlit_rest (hdue : (s.line b).identDue = false) {o : Option Nat}
    (ho : o = if s.lineSt b = 3 ∨ 1024 ≤ (s.line b).replay.length then none else (s.line b).pickVc (s.lineSt b = 5)) :
    s.sendFlit b = o.elim ((s.heldCounted b).setLine b ((s.line b).gave ((s.line b).flit (s.line b).nextSeq 0 0 [])))
      ((s.heldCounted b).sendPayload b) := by
  rw [State.sendFlit]
  simp only
  rw [if_neg (by simp only [List.mem_cons, List.not_mem_nil, or_false] at hst; omega), if_neg (by omega), if_neg (by simp [hdue]), ← ho]
  cases o <;> rfl

end

/-- A payload flit takes the next sequence number, joins the replay buffer and spends a credit. -/
theorem State.sendPayload_line (s : State) (b v : Nat) : let l := s.line b
    ((s.sendPayload b v).line b).nextSeq = (l.nextSeq + 1) % 4096 ∧ ((s.sendPayload b v).line b).replay.length = l.replay.length + 1 ∧
      ((s.sendPayload b v).line b).credits = l.credits.set v (l.credits.getD v 0 - 1) := by
  simp [State.sendPayload]

/-! ## Receiving (R389, R391, R392) -/

theorem exec_flitReceive (b : LineId) (f : List Byte) (spoiled : Bool) (c n : Nat) (s : State) :
    exec (.flitReceive b f spoiled c n) s = .next (s.flitArrives b.val f spoiled c n) := rfl

theorem State.flitArrives_idle (h : s.lineSt b < 3 ∨ 5 < s.lineSt b) (f : List Byte) (spoiled : Bool) (c n : Nat) :
    s.flitArrives b f spoiled c n = s := if_pos h

/-- The receiver stays aligned, and what the code corrected and could not is counted. -/
def State.flitCounted (s : State) (b c n : Nat) : State := ((s.setLine b ((s.line b).aligned 256)).lineCtr b 3 c).lineCtr b 4 n

theorem State.flitCounted_line (s : State) (b c n : Nat) : ((s.flitCounted b c n).lineCtr b 2 1).line b = (s.line b).aligned 256 := by
  simp [State.flitCounted]

theorem State.flitArrives_eq (hst : s.lineSt b ∈ [3, 4, 5]) (f : List Byte) (spoiled : Bool) (c n : Nat) : s.flitArrives b f spoiled c n =
    if spoiled ∨ !flitGood f then
      (if s.lineSt b = 3 then (s.flitCounted b c n).lineCtr b 2 1
      else ((s.flitCounted b c n).lineCtr b 2 1).setLine b ((s.line b).aligned 256).discard)
    else if s.lineSt b = 3 then s.flitCounted b c n
    else ((s.flitCounted b c n).takeFlit b f).replayCheck b := by
  rw [← s.flitCounted_line b c n]
  exact if_neg (by simp only [List.mem_cons, List.not_mem_nil, or_false] at hst; omega)

/-! ## Replays (R391) -/

theorem State.startReplay_none (h : (s.line b).replay = []) : s.startReplay b = s := if_pos h

theorem State.startReplay_some (h : (s.line b).replay ≠ []) : s.startReplay b =
    (((s.setLine b { s.line b with again := (s.line b).replay.length, stuck := (s.line b).stuck + 1, replays := ((s.line b).replays.filter (fun t => s.lineCyc b < t + 390625)) ++ [s.lineCyc b] }).lineCtr b 5 1).showLine b) :=
  if_neg h

theorem State.replayCheck_goes (h : (s.line b).stuck < 4) : s.replayCheck b = s := if_neg (Nat.not_le.2 h)

/-- A replay marks every unacknowledged flit to be sent again, and is counted. -/
theorem State.startReplay_replays (h : (s.line b).replay ≠ []) : let t := s.startReplay b
    (t.line b).again = (s.line b).replay.length ∧ (t.line b).stuck = (s.line b).stuck + 1 ∧
      t.fget F.brlLineCtrCount (13 * b + 5) = (s.fget F.brlLineCtrCount (13 * b + 5) + 1) % 2 ^ F.brlLineCtrCount.width ∧
      s.OnlyParts t [.regs, .mesh] ∧ ∀ k, k ≠ b → t.line k = s.line k := by
  intro t
  simp only [t, State.startReplay_some h]
  refine ⟨by simp, by simp, ?_, ?_, fun k hk => ?_⟩
  · rw [State.showLine_fget _ _ _ (by decide) (by decide), State.lineCtr, State.fget_bump_same _ _ _ _ (by decide), State.setLine_fget]
  · exact (((State.setLine_within _ _ _).trans (State.lineCtr_within _ _ _ _)).trans (State.showLine_within _ _)).parts
  · rw [State.showLine_line, State.lineCtr_line, State.line_setLine_other _ _ hk]

end

/-- Settles O49: the flit that a line sends by what is due, what it receives by the line's state, and a replay by what is unacknowledged. -/
theorem lineFlits : Obligations.LineFlits := by
  intro s b l st
  have hidle (hst : st ∉ [3, 4, 5]) : st < 3 ∨ 5 < st := by
    simp only [List.mem_cons, List.not_mem_nil, or_false, not_or] at hst
    omega
  refine ⟨fun hst => ?_, fun hst => ⟨?_, fun f spoiled c n => ?_⟩, fun hst f spoiled c n => ?_, fun hst => ⟨fun hnone => ?_, fun hsome hstuck => ?_⟩,
    fun hst => ?_⟩
  · intro held u
    refine ⟨fun hagain hup => (exec_flitTransmit b s).trans (congrArg _ (State.sendFlit_again hst hagain hup)), fun hagain =>
      ⟨fun hdue => (exec_flitTransmit b s).trans (congrArg _ (State.sendFlit_ident hst hagain hdue)), fun hdue => ?_⟩⟩
    have hrest (o : Option Nat) (ho : o = if st = 3 ∨ 1024 ≤ l.replay.length then none else l.pickVc (st = 5)) :=
      (exec_flitTransmit b s).trans (congrArg _ (State.sendFlit_rest hst hagain hdue ho))
    refine ⟨fun hfull => hrest none (if_pos hfull).symm, fun hserial hroom => ?_⟩
    have hpick : (if st = 3 ∨ 1024 ≤ l.replay.length then none else l.pickVc (st = 5)) = l.pickVc (st = 5) := if_neg (by omega)
    refine ⟨fun hnone => hrest none (hpick.trans hnone).symm, fun v hv => ⟨_, hrest (some v) (hpick.trans hv).symm, rfl, ?_⟩⟩
    have hline := u.sendPayload_line b.val v
    rw [show u.line b.val = l from State.lineCtr_line _ _ _ _ _] at hline
    exact hline
  · exact (exec_flitTransmit b s).trans (congrArg _ (State.sendFlit_silent (hidle hst)))
  · exact (exec_flitReceive b f spoiled c n s).trans (congrArg _ (State.flitArrives_idle (hidle hst) _ _ _ _))
  · intro u
    have harrives := (exec_flitReceive b f spoiled c n s).trans (congrArg _ (State.flitArrives_eq hst f spoiled c n))
    refine ⟨fun hbad => ?_, fun hgood hcrc => ?_⟩
    · rw [if_pos (by simpa using hbad)] at harrives
      exact ⟨fun h3 => harrives.trans (congrArg _ (if_pos h3)), fun h3 => harrives.trans (congrArg _ (if_neg h3))⟩
    · rw [if_neg (by simp [hgood, hcrc])] at harrives
      exact ⟨fun h3 => harrives.trans (congrArg _ (if_pos h3)), fun h3 => harrives.trans (congrArg _ (if_neg h3))⟩
  · have hup : st = 4 ∨ st = 5 := by simpa using hst
    have hexec : exec (.replayTimeout b) s = .next ((s.startReplay b.val).replayCheck b.val) := congrArg Host.Outcome.next (if_pos hup)
    rw [State.startReplay_none hnone] at hexec
    exact hexec
  · have hup : st = 4 ∨ st = 5 := by simpa using hst
    have hexec : exec (.replayTimeout b) s = .next ((s.startReplay b.val).replayCheck b.val) := congrArg Host.Outcome.next (if_pos hup)
    have hreplays := State.startReplay_replays hsome
    obtain ⟨hagain, hstuck', hcount, hparts, hlines⟩ := hreplays
    rw [State.replayCheck_goes (by rw [hstuck']; exact Nat.succ_lt_succ hstuck)] at hexec
    exact ⟨_, hexec, hagain, hstuck', hcount, hparts, hlines⟩
  · exact congrArg Host.Outcome.next (if_neg (by simpa using hst))

end Sys2Proof.Machine
end

section
/-! SUPPORT. The flash store's events: reads and read-around (R491 to R494), erases (R475, R484, R496), units and merges (R476 to R486),
checkpoints (R489) and the patrol (R505). -/

namespace Sys2Proof.Machine

section
variable {s : State} {i : Nat}

/-! ## Reads in the flash store's table -/

@[simp] theorem State.fread_setFread_same (s : State) (i : Nat) (x : FRead) : (s.setFread i x).fread i = x := by
  rw [State.fread, State.setFread, State.setFlash_flash, Tbl.look_put_same]

theorem State.fread_setFread_other (s : State) {i j : Nat} (x : FRead) (h : j ≠ i) : (s.setFread i x).fread j = s.fread j := by
  rw [State.fread, State.setFread, State.setFlash_flash, Tbl.look_put_other _ _ _ h]
  rfl

theorem State.fread_congr {t : State} (h : t.flash = s.flash) (i : Nat) : t.fread i = s.fread i := by rw [State.fread, h, State.fread]

theorem State.setFread_within (s : State) (i : Nat) (x : FRead) : s.Within (s.setFread i x) [.regs, .flash] (fun _ _ => False) :=
  (s.setFlash_onlyParts _).within _

theorem State.setFread_fget (s : State) (i : Nat) (x : FRead) (f : Fld) (k : Nat) : (s.setFread i x).fget f k = s.fget f k := rfl

/-! ## An erase is suspended for a read (R496) -/

/-- What suspending changes: sections, and counters other than those of the reads. -/
structure State.Suspends (s t : State) : Prop where
  parts : s.OnlyParts t [.regs, .flash]
  reads : t.flash.reads = s.flash.reads
  count : ∀ k, k ≠ 7 → k ≠ 8 → t.fget F.flsCtrCount k = s.fget F.flsCtrCount k
  credit : ∀ g, t.fget F.flsGroupRaCredit g = s.fget F.flsGroupRaCredit g

theorem State.Suspends.refl (s : State) : s.Suspends s := ⟨.refl s _, rfl, fun _ _ _ => rfl, fun _ => rfl⟩

theorem State.Suspends.trans {s t u : State} (h : s.Suspends t) (k : t.Suspends u) : s.Suspends u :=
  ⟨h.parts.trans k.parts, k.reads.trans h.reads, fun n h7 h8 => (k.count n h7 h8).trans (h.count n h7 h8),
    fun g => (k.credit g).trans (h.credit g)⟩

theorem State.setSecSt_fget (s : State) (p : Nat) (st : SecSt) (k : Nat) {f : Fld} (hfree : F.flsGroupFree.apart f = true)
    (hdata : F.flsGroupData.apart f = true) (hretired : F.flsGroupRetired.apart f = true) : (s.setSecSt p st).fget f k = s.fget f k := by
  rw [State.setSecSt, State.fget_bump_of_apart _ _ _ _ hretired, State.fget_bump_of_apart _ _ _ _ hdata, State.fget_dip_of_apart _ _ _ _ hdata,
    State.fget_bump_of_apart _ _ _ _ hfree, State.fget_dip_of_apart _ _ _ _ hfree, State.putSec, State.setFlash_fget]

theorem State.setSecSt_suspends (s : State) (p : Nat) (st : SecSt) : s.Suspends (s.setSecSt p st) where
  parts := by simp [State.setSecSt, State.putSec, State.onlyParts_iff]
  reads := by simp [State.setSecSt, State.putSec]
  count k _ _ := s.setSecSt_fget p st k (by decide) (by decide) (by decide)
  credit g := s.setSecSt_fget p st g (by decide) (by decide) (by decide)

theorem State.putSec_suspends (s : State) (p : Nat) (x : Sec) : s.Suspends (s.putSec p x) :=
  ⟨(s.setFlash_onlyParts _).mono (by decide), rfl, fun _ _ _ => rfl, fun _ => rfl⟩

theorem State.bump_suspends (s : State) {k : Nat} (hk : k = 7 ∨ k = 8) (n : Nat) : s.Suspends (s.bump F.flsCtrCount k n) where
  parts := (s.bump_onlyParts _ _ _).mono (by decide)
  reads := by rw [State.bump_flash]
  count j h7 h8 := State.fget_fset_reg _ _ _ _ _ _ (.inr (by omega))
  credit g := State.fget_bump_of_apart _ _ _ _ (by decide)

theorem State.suspend_suspends (s : State) (p : Nat) : s.Suspends (s.suspend p) := by
  rw [State.suspend]
  split
  · exact .refl s
  · exact (((s.setSecSt_suspends p .suspended).trans (State.putSec_suspends _ _ _)).trans (State.bump_suspends _ (.inl rfl) _)).trans
      (State.bump_suspends _ (.inr rfl) _)

theorem State.suspendFor_suspends (s : State) (g : Nat) : s.Suspends (s.suspendFor g) := by
  have hfold (ps : List Nat) (t : State) : t.Suspends (ps.foldl State.suspend t) := by
    induction ps generalizing t with
    | nil => exact .refl t
    | cons p ps ih => exact (t.suspend_suspends p).trans (ih _)
  exact hfold _ s

/-! ## Issuing (R491, R493) -/

theorem exec_flashReadIssue (i : Nat) (s : State) : exec (.flashReadIssue i) s = .next (s.issueRead i) := rfl

theorem flashReadIssue_issues (hlive : (s.fread i).live = true) (hnew : (s.fread i).issued = false) :
    let x := s.fread i
    let g := groupOf x.sec
    ∃ t, exec (.flashReadIssue i) s = .next t ∧ s.OnlyParts t [.regs, .flash] ∧
      t.fread i = { x with issued := true, issuedAt := s.cyc (islandOfFlash (g / 8)) } ∧
      t.fget F.flsCtrCount 0 = (s.fget F.flsCtrCount 0 + 1) % 2 ^ F.flsCtrCount.width ∧
      t.fget F.flsGroupRaCredit g = min 64000 (s.fget F.flsGroupRaCredit g + s.fget F.flsCfgRaRate 0) := by
  intro x g
  obtain ⟨u, hu⟩ : ∃ u, u = (s.setFread i { x with issued := true, issuedAt := s.cyc (islandOfFlash (g / 8)) }).bump F.flsCtrCount 0 1 := ⟨_, rfl⟩
  obtain ⟨v, hv⟩ : ∃ v, v = u.fset F.flsGroupRaCredit g (min 64000 (u.fget F.flsGroupRaCredit g + u.fget F.flsCfgRaRate 0)) := ⟨_, rfl⟩
  have hexec : s.issueRead i = v.suspendFor g := by
    rw [hv, hu]
    exact if_neg (by simp [hlive, hnew])
  have hsus := v.suspendFor_suspends g
  have hother {f : Fld} (hf : F.flsCtrCount.apart f = true) (k : Nat) : u.fget f k = s.fget f k := by
    rw [hu, State.fget_bump_of_apart _ _ _ _ hf]
    rfl
  refine ⟨_, (exec_flashReadIssue i s).trans (congrArg _ hexec), ?_, ?_, ?_, ?_⟩
  · refine State.OnlyParts.trans ?_ hsus.parts
    rw [hv, hu]
    exact (((s.setFread_within _ _).parts.next (State.bump_onlyParts _ _ _ _)).next (State.fset_onlyParts _ _ _ _))
  · have hreads : (v.suspendFor g).fread i = u.fread i := by
      rw [State.fread, hsus.reads, hv, State.fset_flash]
      rfl
    rw [hreads, hu, State.fread_congr (State.bump_flash _ _ _ _), State.fread_setFread_same]
  · rw [hsus.count 0 (by decide) (by decide), hv, State.fget_fset_of_apart _ _ _ _ (by decide), hu, State.fget_bump_same _ _ _ _ (by decide)]
    rfl
  · rw [hsus.credit, hv, State.fget_fset_same _ _ _ _ (by decide), hother (by decide), hother (by decide)]
    exact Nat.mod_eq_of_lt (Nat.lt_of_le_of_lt (Nat.min_le_left _ _) (by decide))

/-! ## A direct read's end (R491) -/

theorem exec_flashReadDone (i st : Nat) (ok : Bool) (a : Fin 3) (us ie : Nat) (s : State) :
    exec (.flashReadDone i st ok a us ie) s = .next (s.readDone i st ok a.val us ie) := rfl

theorem State.readDone_idle (h : (s.fread i).live = false ∨ (s.fread i).issued = false ∨ (s.fread i).done = true ∨
    s.erasingIn (groupOf (s.fread i).sec) ≠ []) (st : Nat) (ok : Bool) (a us ie : Nat) : s.readDone i st ok a us ie = s :=
  if_pos (by simpa using h)

theorem State.foldl_bump_fget (f : Fld) (hf : f.lsb + f.width ≤ 64) (n k : Nat) (s : State) :
    ((List.range n).foldl (fun (s : State) j => s.bump f j 1) s).fget f k = (s.fget f k + bit (k < n)) % 2 ^ f.width := by
  induction n with
  | zero => exact (Nat.mod_eq_of_lt (s.fget_lt f k)).symm
  | succ n ih =>
    rw [List.range_succ, List.foldl_append]
    by_cases hk : k = n
    · subst hk
      refine (State.fget_bump_same _ _ _ _ hf).trans ?_
      rw [ih]
      simp [bit]
    · refine (State.fget_fset_reg _ _ _ _ _ _ (.inr hk)).trans ?_
      rw [ih]
      simp only [Nat.lt_succ_iff_lt_or_eq, hk, or_false]

/-- The retry steps, the latency and the transfers that a read took again are counted. -/
def State.readCounted (s : State) (i st us ie : Nat) : State :=
  ((((List.range st).foldl (fun (s : State) j => s.bump F.flsRetryCtrCount j 1) s).bump F.flsCtrCount 1 0).bump F.flsLatHistCount
    (latBucket us) 1).bump F.flsChanIfErrors (dieOfSlot (groupOf (s.fread i).sec) (s.fread i).slot / 8) ie

theorem State.readCounted_onlyParts (s : State) (i st us ie : Nat) : s.OnlyParts (s.readCounted i st us ie) [.regs] := by
  have hretry := State.Within.foldl (ps := [.regs]) (P := fun _ _ => True) (f := fun (s : State) j => s.bump F.flsRetryCtrCount j 1)
    (fun s j => ⟨s.bump_onlyParts _ _ _, fun _ _ h => absurd trivial h⟩) (List.range st) s
  exact ((hretry.parts.next (State.bump_onlyParts _ _ _ _)).next (State.bump_onlyParts _ _ _ _)).next (State.bump_onlyParts _ _ _ _)

theorem State.readCounted_counts (s : State) (i st us ie : Nat) : let t := s.readCounted i st us ie
    t.fget F.flsCtrCount 2 = s.fget F.flsCtrCount 2 ∧
      t.fget F.flsLatHistCount (latBucket us) = (s.fget F.flsLatHistCount (latBucket us) + 1) % 2 ^ F.flsLatHistCount.width ∧
      ∀ n, t.fget F.flsRetryCtrCount n = (s.fget F.flsRetryCtrCount n + bit (n < st)) % 2 ^ F.flsRetryCtrCount.width := by
  have hretry {f : Fld} (hf : f.reg ≠ .flsRetryCtr) (k : Nat) :
      ((List.range st).foldl (fun (s : State) j => s.bump F.flsRetryCtrCount j 1) s).fget f k = s.fget f k :=
    (State.Within.foldl (ps := [.regs]) (P := fun r _ => r = .flsRetryCtr) (f := fun (s : State) j => s.bump F.flsRetryCtrCount j 1)
      (fun s j => ⟨s.bump_onlyParts _ _ _, by simp [F.flsRetryCtrCount]⟩) (List.range st) s).regs.field f k hf
  simp only [State.readCounted]
  refine ⟨?_, ?_, fun n => ?_⟩
  · rw [State.fget_bump_of_apart _ _ _ _ (by decide), State.fget_bump_of_apart _ _ _ _ (by decide)]
    exact (State.fget_fset_reg _ _ _ _ _ _ (.inr (by decide))).trans (hretry (by decide) 2)
  · rw [State.fget_bump_of_apart _ _ _ _ (by decide), State.fget_bump_same _ _ _ _ (by decide), State.fget_bump_of_apart _ _ _ _ (by decide),
      hretry (by decide)]
  · rw [State.fget_bump_of_apart _ _ _ _ (by decide), State.fget_bump_of_apart _ _ _ _ (by decide), State.fget_bump_of_apart _ _ _ _ (by decide),
      State.foldl_bump_fget _ (by decide)]

section
variable (hlive : (s.fread i).live = true) (hissued : (s.fread i).issued = true) (hopen : (s.fread i).done = false)
  (herase : s.erasingIn (groupOf (s.fread i).sec) = []) {st : Nat} (hst : st < 5)
  (hslot : (s.failedSlots (groupOf (s.fread i).sec)).contains (s.fread i).slot = false)
  (hfailed : (s.failedSlots (groupOf (s.fread i).sec)).length < 2)
include hlive hissued hopen herase hst hslot hfailed

/-- A read of a healthy die that ends before step 5 ends the read and no more. -/
theorem flashReadDone_direct (ok : Bool) {a : Fin 3} (ha : a = 0) (us ie : Nat) :
    exec (.flashReadDone i st ok a us ie) s = .next ((s.readCounted i st us ie).readEnds i ok) := by
  subst ha
  refine (exec_flashReadDone i st ok 0 us ie s).trans (congrArg _ ?_)
  rw [State.readDone]
  simp only [hslot, hfailed, decide_true, Bool.and_true, Bool.false_eq_true, if_false]
  rw [if_neg (by simp [hlive, hissued, hopen, herase]), if_neg (by omega), if_neg (by omega), Nat.min_eq_left (by omega),
    show bit (decide (st ≥ 9 ∧ ok = true)) = 0 by rw [decide_eq_false (by omega)]; rfl]
  rfl

end

/-- A reader other than a page's promotion finds the outcome in the read. -/
theorem State.readEnds_held {t : State} (hpromote : (t.fread i).why ≠ .promote) (hwindow : (t.fread i).why ≠ .window) (ok : Bool) :
    t.readEnds i ok = (t.bump F.flsCtrCount 2 (bit (!ok))).setFread i (if (t.fread i).why = .patrol ∨ (t.fread i).why = .dropped then {}
      else { t.fread i with done := true, failed := !ok, around := false, gen := t.genOf ((t.fread i).lba / 16) }) := by
  have hgen : (t.bump F.flsCtrCount 2 (bit (!ok))).genOf ((t.fread i).lba / 16) = t.genOf ((t.fread i).lba / 16) := by
    simp only [State.genOf, State.page, State.bump_depot]
  rw [State.readEnds]
  simp only [hgen]
  cases hwhy : (t.fread i).why with
  | promote => exact absurd hwhy hpromote
  | window => exact absurd hwhy hwindow
  | stream => rfl
  | patrol => rfl
  | walker => rfl
  | scan => rfl
  | dropped => rfl

/-- A page's promotion takes note of a failure in the page. -/
theorem State.readEnds_page {t : State} (h : (t.fread i).why = .promote ∨ (t.fread i).why = .window) (ok : Bool) : t.readEnds i ok =
    let u := (t.bump F.flsCtrCount 2 (bit (!ok))).setFread i {}
    let p := (t.fread i).lba / 16
    if ok then u else u.setPage p { u.page p with bad := (u.page p).bad ||| 2 ^ ((t.fread i).lba % 16) } := by
  rw [State.readEnds]
  obtain hwhy | hwhy := h
  · rw [hwhy]
  · rw [hwhy]

theorem State.readCounted_fread (s : State) (i st us ie : Nat) : (s.readCounted i st us ie).fread i = s.fread i :=
  State.fread_congr (s.readCounted_onlyParts i st us ie .flash (by decide)) i

theorem State.readCounted_held (s : State) (st us ie : Nat) (ok : Bool) (hpromote : (s.fread i).why ≠ .promote) (hwindow : (s.fread i).why ≠ .window) :
    let x := s.fread i
    let t := (s.readCounted i st us ie).readEnds i ok
    s.OnlyParts t [.regs, .flash] ∧
      t.fread i = (if x.why = .patrol ∨ x.why = .dropped then {}
        else { x with done := true, failed := !ok, around := false, gen := s.genOf (x.lba / 16) }) ∧
      t.fget F.flsCtrCount 2 = (s.fget F.flsCtrCount 2 + bit (!ok)) % 2 ^ F.flsCtrCount.width ∧
      t.fget F.flsLatHistCount (latBucket us) = (s.fget F.flsLatHistCount (latBucket us) + 1) % 2 ^ F.flsLatHistCount.width ∧
      ∀ n, n < 8 → t.fget F.flsRetryCtrCount n = (s.fget F.flsRetryCtrCount n + bit (n < st)) % 2 ^ F.flsRetryCtrCount.width := by
  have hparts := s.readCounted_onlyParts i st us ie
  obtain ⟨hcount, hlat, hretry⟩ := s.readCounted_counts i st us ie
  have hgen (p : Nat) : (s.readCounted i st us ie).genOf p = s.genOf p := by
    rw [State.genOf, State.page, hparts .depot (by decide), State.genOf, State.page]
  have hread := s.readCounted_fread i st us ie
  intro x t
  simp only [t]
  rw [State.readEnds_held (by rw [hread]; exact hpromote) (by rw [hread]; exact hwindow), hread, hgen]
  refine ⟨?_, State.fread_setFread_same _ _ _, ?_, ?_, fun n _ => ?_⟩
  · exact (((hparts.mono (by decide)).next (State.bump_onlyParts _ _ _ _)).trans (State.setFread_within _ _ _).parts)
  · rw [State.setFread_fget, State.fget_bump_same _ _ _ _ (by decide), hcount]
  · rw [State.setFread_fget, State.fget_bump_of_apart _ _ _ _ (by decide), hlat]
  · rw [State.setFread_fget, State.fget_bump_of_apart _ _ _ _ (by decide), hretry]

theorem State.readCounted_page (s : State) (st us ie : Nat) (ok : Bool) (h : (s.fread i).why = .promote ∨ (s.fread i).why = .window) :
    let x := s.fread i
    let t := (s.readCounted i st us ie).readEnds i ok
    s.OnlyParts t [.regs, .flash, .depot] ∧ t.fread i = {} ∧ (ok = true → t.depot = s.depot) ∧
      (ok = false → (t.page (x.lba / 16)).bad = (s.page (x.lba / 16)).bad ||| 2 ^ (x.lba % 16)) := by
  have hparts := s.readCounted_onlyParts i st us ie
  have hread := s.readCounted_fread i st us ie
  obtain ⟨u, hu⟩ : ∃ u, u = ((s.readCounted i st us ie).bump F.flsCtrCount 2 (bit (!ok))).setFread i {} := ⟨_, rfl⟩
  have hframe : s.OnlyParts u [.regs, .flash] :=
    hu ▸ (((hparts.mono (by decide)).next (State.bump_onlyParts _ _ _ _)).trans (State.setFread_within _ _ _).parts)
  have hpage (p : Nat) : u.page p = s.page p := by rw [State.page, hframe .depot (by decide), State.page]
  have hgone : u.fread i = {} := hu ▸ State.fread_setFread_same _ _ _
  intro x t
  have ht : t = if ok then u else u.setPage (x.lba / 16) { u.page (x.lba / 16) with bad := (u.page (x.lba / 16)).bad ||| 2 ^ (x.lba % 16) } := by
    rw [hu]
    simp only [t, x]
    rw [State.readEnds_page (by rw [hread]; exact h), hread]
  rw [ht]
  cases ok with
  | true => exact ⟨hframe.mono (by decide), hgone, fun _ => hframe .depot (by decide), fun hf => absurd hf (by decide)⟩
  | false =>
    refine ⟨(hframe.mono (by decide)).next (State.setPage_onlyParts _ _ _), hgone, fun hf => absurd hf (by decide), fun _ => ?_⟩
    simp only [Bool.false_eq_true, if_false]
    rw [State.page, State.setPage, State.setDepot_depot, Tbl.look_put_same, hpage]

/-! ## Read-around (R492 to R494) -/

theorem exec_readAroundThreshold (i : Nat) (s : State) : exec (.readAroundThreshold i) s = .next (s.readAround i) := rfl

theorem State.readAround_idle (h : (s.fread i).live = false ∨ (s.fread i).issued = false ∨ (s.fread i).crossed = true ∨ (s.fread i).done = true ∨
    s.raPassed (s.fread i) = false ∨ s.fbit F.flsCfgRaEn 0 = false ∨ s.fbit F.flsGroupDegraded (groupOf (s.fread i).sec) = true) :
    s.readAround i = s := if_pos (by simpa using h)

theorem State.readAround_crosses (h : (s.fread i).live = true ∧ (s.fread i).issued = true ∧ (s.fread i).crossed = false ∧ (s.fread i).done = false ∧
    s.raPassed (s.fread i) = true ∧ s.fbit F.flsCfgRaEn 0 = true ∧ s.fbit F.flsGroupDegraded (groupOf (s.fread i).sec) = false) :
    let x := s.fread i
    s.readAround i = if s.fget F.flsGroupRaCredit (groupOf x.sec) < 1000 then (s.bump F.flsCtrCount 5 1).setFread i { x with crossed := true }
      else ((s.dip F.flsGroupRaCredit (groupOf x.sec) 1000).bump F.flsCtrCount 3 1).setFread i { x with around := true, crossed := true } := by
  obtain ⟨hlive, hissued, hcrossed, hdone, hpassed, hen, hgood⟩ := h
  exact if_neg (by simp [hlive, hissued, hcrossed, hdone, hpassed, hen, hgood])

theorem exec_readAroundDone (i : Nat) (ok : Bool) (us : Nat) (s : State) : exec (.readAroundDone i ok us) s = .next (s.readAroundEnds i ok us) := rfl

theorem State.readAroundEnds_idle (h : (s.fread i).live = false ∨ (s.fread i).around = false ∨ (s.fread i).done = true) (ok : Bool) (us : Nat) :
    s.readAroundEnds i ok us = s := if_pos (by simpa using h)

theorem State.readAroundEnds_open (hlive : (s.fread i).live = true) (haround : (s.fread i).around = true) (hdone : (s.fread i).done = false)
    (ok : Bool) (us : Nat) : s.readAroundEnds i ok us = if !ok then s.setFread i { s.fread i with around := false }
      else ((s.bump F.flsCtrCount 4 1).bump F.flsLatHistCount (latBucket us) 1).readEnds i true := if_neg (by simp [hlive, haround, hdone])

/-! ## Sections (R475, R484, R496) -/

section
variable {p : Nat}

theorem State.eraseEnds_idle (h : (s.sec p).st ≠ .erasing) (failed : List Nat) : s.eraseEnds p failed = s := if_pos h

/-- The section is empty, its erase counted and its failed slots bad. -/
def State.erasedSec (s : State) (p : Nat) (failed : List Nat) : State :=
  let u := failed.foldl (fun s k => (s.bump F.flsCtrCount 10 1).growBad p k 1) (s.countErase p)
  u.putSec p { u.sec p with lsec := 0, inOrder := false, units := 0, relocate := false }

theorem State.eraseEnds_ends (h : (s.sec p).st = .erasing) (failed : List Nat) : s.eraseEnds p failed =
    (((if (s.erasedSec p failed).fbit F.flsGroupDegraded (groupOf p) then (s.erasedSec p failed).retireSec p 2
      else (s.erasedSec p failed).setSecSt p .free).formatErased p).retireEmptied (groupOf p)).wearLevel (groupOf p) := if_neg (not_not.2 h)

theorem exec_eraseDone (p : Nat) (failed : List Nat) (s : State) : exec (.eraseDone p failed) s =
    .next (if s.fget F.glbMaintOp 0 = 1 then s.sanErased p failed else (s.eraseEnds p failed).afterOps) := rfl

theorem exec_eraseResume (p : Nat) (s : State) :
    exec (.eraseResume p) s = .next (if (s.sec p).st = .suspended ∧ s.mayResume p then s.setSecSt p .erasing else s) := rfl

theorem exec_sectionEraseStart (p : Nat) (s : State) : exec (.sectionEraseStart p) s = .next (s.eraseStarts p) := rfl

theorem State.eraseStarts_starts (hqueued : s.flash.eraseQ.contains p = true)
    (hreads : ∀ e ∈ s.flash.reads, e.2.live = true → e.2.sec = p → e.2.done = true) :
    let u := (s.setFlash { s.flash with eraseQ := s.flash.eraseQ.filter (· != p) }).setSecSt p .erasing
    let v := u.putSec p { u.sec p with suspends := 0, units := 0 }
    s.eraseStarts p = if (s.sec p).st = .log then v.logFreed else v := by
  have hnone : s.flash.reads.any (fun e => e.2.live && e.2.sec = p && !e.2.done) = false := by
    simp only [List.any_eq_false, Bool.and_eq_true, decide_eq_true_eq, Bool.not_eq_true']
    rintro e he ⟨⟨hlive, hsec⟩, hopen⟩
    simp [hreads e he hlive hsec] at hopen
  intro u v
  rw [State.eraseStarts, if_neg (by rw [hqueued, hnone]; decide)]
  simp only [decide_eq_true_eq]
  rfl

theorem State.eraseStarts_idle (h : s.flash.eraseQ.contains p = false ∨
    ∃ e ∈ s.flash.reads, e.2.live = true ∧ e.2.sec = p ∧ e.2.done = false) : s.eraseStarts p = s := by
  refine if_pos (h.imp (fun hq => by rw [hq]; rfl) ?_)
  rintro ⟨e, he, hlive, hsec, hdone⟩
  exact List.any_eq_true.2 ⟨e, he, by simp [hlive, hsec, hdone]⟩

/-! ## The patrol (R505) -/

theorem Tbl.look_absent {α : Type} (d : α) {t : Tbl α} {k : Nat} (h : ∀ e ∈ t, e.1 ≠ k) : Tbl.look d t k = d := by
  induction t with
  | nil => rfl
  | cons e t ih =>
    rw [Tbl.look, if_neg (h e (List.mem_cons_self ..))]
    exact ih fun x hx => h x (List.mem_cons_of_mem _ hx)

theorem Tbl.firstFrom_spec {α : Type} (d : α) (f : α → Bool) (t : Tbl α) (k n : Nat) :
    (∃ j, Tbl.firstFrom d f t k n = some j ∧ f (Tbl.look d t j) = true) ∨
      (Tbl.firstFrom d f t k n = none ∧ ∀ j, k ≤ j → j < k + n → f (Tbl.look d t j) = false) := by
  induction n generalizing k with
  | zero => exact .inr ⟨rfl, fun j h1 h2 => absurd h1 (by omega)⟩
  | succ n ih =>
    rw [Tbl.firstFrom]
    by_cases hk : f (Tbl.look d t k) = true
    · exact .inl ⟨k, if_pos hk, hk⟩
    · rw [if_neg hk]
      refine (ih (k + 1)).imp_right fun ⟨hnone, hall⟩ => ⟨hnone, fun j h1 h2 => ?_⟩
      rcases Nat.eq_or_lt_of_le h1 with rfl | hlt
      · exact Bool.eq_false_iff.2 hk
      · exact hall j hlt (by omega)

/-- A table has fewer entries than one more than its length, so that the default stands at one of the first places. -/
theorem Tbl.firstFrom_default {α : Type} {d : α} {f : α → Bool} (hd : f d = true) (t : Tbl α) :
    f (Tbl.look d t ((Tbl.firstFrom d f t 0 (t.length + 1)).getD 0)) = true := by
  obtain ⟨j, hj, hf⟩ | ⟨-, hall⟩ := Tbl.firstFrom_spec d f t 0 (t.length + 1)
  · rw [hj]
    exact hf
  · have hkeys : List.range (t.length + 1) ⊆ t.map (·.1) := fun j hj => by
      by_contra hout
      have hlook : Tbl.look d t j = d := Tbl.look_absent d fun e he hje => hout (List.mem_map.2 ⟨e, he, hje⟩)
      have := hall j (Nat.zero_le _) (by simpa using hj)
      rw [hlook, hd] at this
      exact absurd this (by decide)
    have hlen := (List.nodup_range (n := t.length + 1)).subperm hkeys |>.length_le
    simp at hlen

/-- The first place that holds no read. -/
def State.freeRead (s : State) : Nat := (Tbl.firstFrom {} (fun r : FRead => !r.live) s.flash.reads 0 (s.flash.reads.length + 1)).getD 0

theorem State.freeRead_free (s : State) : (s.fread s.freeRead).live = false := by
  simpa [State.fread, State.freeRead] using Tbl.firstFrom_default (d := ({} : FRead)) (f := fun r : FRead => !r.live) rfl s.flash.reads

theorem patrolReadTimer_reads {unit : Nat}
    (h : (s.sec p).st = .data ∨ (((s.sec p).st = .log ∨ (s.sec p).st = .journal ∨ (s.sec p).st = .merging) ∧ unit < (s.sec p).units)) :
    ∃ t i, exec (.patrolReadTimer p unit) s = .next t ∧ s.OnlyParts t [.flash, .freeCtr] ∧ t.freeCtr = s.freeCtr + 1 ∧
      (s.fread i).live = false ∧ (∀ j, j ≠ i → t.fread j = s.fread j) ∧
      t.fread i = { live := true, lba := 0, why := .patrol, sec := p, slot := Config.freeNat s.freeCtr % 16 } := by
  refine ⟨(s.setFreeCtr (s.freeCtr + 1)).setFread s.freeRead
    { live := true, lba := 0, why := .patrol, sec := p, slot := Config.freeNat s.freeCtr % 16 }, s.freeRead, congrArg Host.Outcome.next (if_pos h),
    ?_, ?_, s.freeRead_free, fun j hj => ?_, State.fread_setFread_same _ _ _⟩
  · exact ((s.setFreeCtr_onlyParts _).mono (by decide)).next (State.setFlash_onlyParts _ _)
  · rw [State.setFread, State.setFlash_freeCtr, State.setFreeCtr_freeCtr]
  · rw [State.fread_setFread_other _ _ hj]
    rfl

theorem patrolReadTimer_idle {unit : Nat} (h : (s.sec p).st = .free ∨ (s.sec p).st = .erasing ∨ (s.sec p).st = .suspended ∨ (s.sec p).st = .retired) :
    exec (.patrolReadTimer p unit) s = .next s := by
  refine congrArg Host.Outcome.next (if_neg ?_)
  obtain hst | hst | hst | hst := h <;> simp [hst]

end

/-! ## Units (R476, R486) -/

theorem exec_unitStageTimeout (i : Nat) (s : State) : exec (.unitStageTimeout i) s =
    .next (if (s.punit i).live ∧ !(s.punit i).programming then (s.beginUnit i).stagingOn else s) := rfl

theorem State.beginUnit_staged (hlive : (s.punit i).live = true) (hprog : (s.punit i).programming = false) : s.beginUnit i =
    if (s.punit i).inOrder then s.beginInOrder (s.punit i).sec (s.punit i).lsec (s.punit i).unit 1024
    else s.setPunit i { s.punit i with programming := true } := if_neg (by simp [hlive, hprog])

theorem exec_unitProgramDone (i : Nat) (failed : List Nat) (s : State) : exec (.unitProgramDone i failed) s =
    .next (if s.fget F.glbMaintOp 0 = 1 then s.sanOverwritten i failed.length else s.unitDone i failed) := rfl

theorem State.unitDone_idle (h : (s.punit i).live = false ∨ (s.punit i).programming = false ∨ (s.punit i).unit ≠ (s.sec (s.punit i).sec).units)
    (failed : List Nat) : s.unitDone i failed = s := if_pos (by simpa using h)

/-- A unit's program is counted, and its failed slots. -/
def State.programCounted (s : State) (n : Nat) : State := (s.bump F.flsCtrCount 14 1).bump F.flsCtrCount 9 n

section
variable (hlive : (s.punit i).live = true) (hprog : (s.punit i).programming = true) (hnext : (s.punit i).unit = (s.sec (s.punit i).sec).units)
include hlive hprog hnext

theorem State.unitDone_passes : s.unitDone i [] = (
    let x := s.punit i
    let v := (s.programCounted 0).putSec x.sec { (s.programCounted 0).sec x.sec with units := x.unit + 1 }
    if x.merge then (if x.unit + 1 < 1024 then v.setPunit i { x with unit := x.unit + 1 } else v.setPunit i {})
    else if (s.sec x.sec).st = .journal then
      ((s.programCounted 0).setPunit i {}).putSec x.sec { (s.programCounted 0).sec x.sec with units := x.unit + 1 }
    else (s.programCounted 0).unitCommitted i).stagingOn := by
  rw [State.unitDone, if_neg (by simp [hlive, hprog, hnext])]
  simp only [if_true, decide_eq_true_eq]
  rfl

theorem State.unitDone_fails (k : Nat) (ks : List Nat) : s.unitDone i (k :: ks) = (
    let x := s.punit i
    let u := s.programCounted (k :: ks).length
    if x.merge then ((k :: ks).foldl (fun s k => s.growBad x.sec k 0) u).restartMerge x.lsec
    else if (s.sec x.sec).st = .journal then (((k :: ks).foldl (fun s k => s.growBad x.sec k 0) u).setPunit i {}).rollover
    else u.logFailed i (k :: ks)).stagingOn := by
  rw [State.unitDone, if_neg (by simp [hlive, hprog, hnext])]
  simp only [reduceCtorEq, if_false, decide_eq_true_eq]
  rfl

end

/-! ## Merges and checkpoints (R483, R489) -/

theorem exec_mergeVerifyDone (l : Nat) (s : State) : exec (.mergeVerifyDone l) s =
    .next (if s.flash.ckptDue then (s.mergeDone l).checkpointOn else s.mergeDone l) := rfl

section
variable {l : Nat}

theorem State.mergeDone_none (h : (s.lsec l).target = none) : s.mergeDone l = s := by
  rw [State.mergeDone, h]

theorem State.mergeDone_early {p : Nat} (h : (s.lsec l).target = some p) (hopen : (s.sec p).units < 1024 ∨
    ∃ e ∈ s.flash.units, e.2.sec = p ∨ (s.lsec l).folding.contains e.2.sec = true) : s.mergeDone l = s := by
  rw [State.mergeDone, h]
  exact if_pos (hopen.imp_right fun ⟨e, he, hsec⟩ => List.any_eq_true.2 ⟨e, he, by simpa using hsec⟩)

/-- What a verified merge leaves of its logical section. -/
def LSec.merged (x : LSec) (p : Nat) : LSec :=
  { x with data := some p, inOrd := x.inOrd.filter (fun q => !x.folding.contains q), smap := x.smap.filter (fun e => !x.folding.contains e.2.1), target := none, folding := [], relocating := false }

theorem State.mergeDone_commits {p : Nat} (h : (s.lsec l).target = some p) (hfull : 1024 ≤ (s.sec p).units)
    (hunits : ∀ e ∈ s.flash.units, e.2.sec ≠ p ∧ (s.lsec l).folding.contains e.2.sec = false) : s.mergeDone l =
      (((((s.setSecSt p .data).setLsec l ((s.lsec l).merged p)).bump F.flsCtrCount 11 1).bump F.flsCtrCount 16 (bit (s.lsec l).relocating)).journal
        1 p (leBytes 4 l ++ leBytes 4 ((s.lsec l).data.getD 0xFFFFFFFF) ++ leBytes 1 0)).queueErase (s.lsec l).folding := by
  have hnone : s.flash.units.any (fun e => e.2.sec = p || (s.lsec l).folding.contains e.2.sec) = false :=
    List.any_eq_false.2 fun e he => by
      obtain ⟨hsec, hfold⟩ := hunits e he
      simpa [hsec] using hfold
  rw [State.mergeDone, h]
  exact if_neg (by rw [hnone]; simpa using hfull)

end

theorem exec_checkpointTimer (s : State) : exec .checkpointTimer s = .next s.checkpointOn := rfl

theorem checkpointTimer_asks (h : s.mapsFit = true) : ∃ t, exec .checkpointTimer s = .next t ∧ s.OnlyParts t [.cfs, .flash] ∧
    t.flash.ckptDue = false ∧ t.cfs.writes = s.cfs.writes ++ [.checkpoint (s.flash.ckptNo + 1) s.flash.seq] := by
  refine ⟨_, (exec_checkpointTimer s).trans (congrArg _ ((if_pos h).trans (if_pos h))), ?_, ?_, ?_⟩
  · simp [State.eraseSectors, State.onlyParts_iff]
  · simp [State.eraseSectors]
  · simp [State.eraseSectors]

theorem State.checkpointOn_waits (h : s.mapsFit = false) (hnone : s.fullestScatter = none) :
    s.checkpointOn = s.setFlash { s.flash with ckptDue := true } := by
  rw [State.checkpointOn, if_neg (by simp [h]), hnone]

theorem State.checkpointOn_merges (h : s.mapsFit = false) {l : Nat} (hsome : s.fullestScatter = some l) :
    s.checkpointOn = (s.setFlash { s.flash with ckptDue := true }).startMerge l false := by
  rw [State.checkpointOn, if_neg (by simp [h]), hsome]

end

/-- Settles O51: each event by what its read, section, unit or merge shows. -/
theorem flashEvents : Obligations.FlashEvents := by
  intro s
  refine ⟨fun id => ?_, fun p => ?_, fun i => ?_, fun l => ?_, fun hfit => checkpointTimer_asks hfit, fun hfit => ?_⟩
  · intro x g now
    refine ⟨fun hidle => congrArg Host.Outcome.next (if_pos (by simpa using hidle)), fun hlive hnew => flashReadIssue_issues hlive hnew,
      fun st ok a us ie => ⟨?_, ?_, ?_⟩, ⟨fun hcross => ?_, fun hidle => ?_⟩, fun us => ⟨fun hlive haround hdone => ⟨?_, ?_⟩, fun ok hidle => ?_⟩⟩
    · exact fun hidle => congrArg Host.Outcome.next (State.readDone_idle hidle st ok a.val us ie)
    · intro hlive hissued hopen herase hst ha hslot hfailed hpromote hwindow
      exact ⟨_, flashReadDone_direct hlive hissued hopen herase hst hslot hfailed ok ha us ie, s.readCounted_held st us ie ok hpromote hwindow⟩
    · intro hlive hissued hopen herase hst ha hslot hfailed hwhy
      exact ⟨_, flashReadDone_direct hlive hissued hopen herase hst hslot hfailed ok ha us ie, s.readCounted_page st us ie ok hwhy⟩
    · have hexec := (exec_readAroundThreshold id s).trans (congrArg _ (State.readAround_crosses hcross))
      exact ⟨fun hlow => hexec.trans (congrArg _ (if_pos hlow)), fun hpays => hexec.trans (congrArg _ (if_neg (Nat.not_lt.2 hpays)))⟩
    · exact congrArg Host.Outcome.next (State.readAround_idle hidle)
    · exact congrArg Host.Outcome.next (State.readAroundEnds_open hlive haround hdone false us)
    · exact congrArg Host.Outcome.next (State.readAroundEnds_open hlive haround hdone true us)
    · exact congrArg Host.Outcome.next (State.readAroundEnds_idle hidle ok us)
  · intro x g
    refine ⟨fun hst hmay => (exec_eraseResume p s).trans (congrArg _ (if_pos ⟨hst, hmay⟩)), fun hno => ?_, fun failed => ⟨fun hop => ?_,
      fun hop hst => ?_, fun hop hst => ?_⟩, fun hqueued hreads => congrArg Host.Outcome.next (State.eraseStarts_starts hqueued hreads),
      fun hidle => congrArg Host.Outcome.next (State.eraseStarts_idle hidle), fun unit h => patrolReadTimer_reads h,
      fun unit h => patrolReadTimer_idle h⟩
    · exact (exec_eraseResume p s).trans (congrArg _ (if_neg fun h => hno.elim (fun hst => hst h.1) fun hmay => by simp [hmay] at h))
    · exact (exec_eraseDone p failed s).trans (congrArg _ (if_pos hop))
    · refine (exec_eraseDone p failed s).trans (congrArg _ ((if_neg hop).trans ?_))
      rw [State.eraseEnds_idle hst]
    · have hends := (exec_eraseDone p failed s).trans (congrArg _ ((if_neg hop).trans (congrArg State.afterOps (State.eraseEnds_ends hst failed))))
      intro u v
      refine ⟨fun hgood => hends.trans ?_, fun hbad => hends.trans ?_⟩
      · rw [if_neg (by rw [show s.erasedSec p failed = v from rfl, hgood]; decide)]
        rfl
      · rw [if_pos (show (s.erasedSec p failed).fbit F.flsGroupDegraded (groupOf p) = true from hbad)]
        rfl
  · intro x l u grown
    refine ⟨fun hidle => ?_, fun hlive hprog => ?_, fun failed hop => (exec_unitProgramDone i failed s).trans (congrArg _ (if_pos hop)), fun hop =>
      ⟨fun failed hidle => ?_, fun hlive hprog hnext => ?_⟩⟩
    · exact (exec_unitStageTimeout i s).trans (congrArg _ (if_neg (by
        rintro ⟨hlive, hprog⟩
        obtain h | h := hidle
        · exact absurd (h.symm.trans hlive) (by decide)
        · rw [show (s.punit i).programming = true from h] at hprog
          exact absurd hprog (by decide))))
    · have hstage := (exec_unitStageTimeout i s).trans (congrArg _ ((if_pos ⟨hlive, by rw [hprog]; rfl⟩).trans
        (congrArg State.stagingOn (State.beginUnit_staged hlive hprog))))
      exact ⟨fun hscatter => hstage.trans (congrArg (fun t : State => Host.Outcome.next t.stagingOn) (if_neg (by rw [hscatter]; decide))),
        fun hinOrder => hstage.trans (congrArg (fun t : State => Host.Outcome.next t.stagingOn) (if_pos hinOrder))⟩
    · exact (exec_unitProgramDone i failed s).trans (congrArg _ ((if_neg hop).trans (State.unitDone_idle hidle failed)))
    · have hpasses := (exec_unitProgramDone i [] s).trans (congrArg _ ((if_neg hop).trans (State.unitDone_passes hlive hprog hnext)))
      have hfails (k : Nat) (ks : List Nat) := (exec_unitProgramDone i (k :: ks) s).trans
        (congrArg _ ((if_neg hop).trans (State.unitDone_fails hlive hprog hnext k ks)))
      have goesOn {a b : State} (h : a = b) : Host.Outcome.next a.stagingOn = (.next b.stagingOn : Host.Outcome State Fault Refusal) := by rw [h]
      intro v
      refine ⟨fun hmerge => hpasses.trans (goesOn (if_pos hmerge)),
        fun hmerge hst => hpasses.trans (goesOn ((if_neg (by rw [hmerge]; decide)).trans (if_pos hst))),
        fun hmerge hst => hpasses.trans (goesOn ((if_neg (by rw [hmerge]; decide)).trans (if_neg hst))), fun k ks => ?_⟩
      exact ⟨fun hmerge => (hfails k ks).trans (goesOn (if_pos hmerge)),
        fun hmerge hst => (hfails k ks).trans (goesOn ((if_neg (by rw [hmerge]; decide)).trans (if_pos hst))),
        fun hmerge hst => (hfails k ks).trans (goesOn ((if_neg (by rw [hmerge]; decide)).trans (if_neg hst)))⟩
  · intro x after
    have hafter {t : State} (h : s.mergeDone l = t) : after t := h ▸ exec_mergeVerifyDone l s
    exact ⟨fun hnone => hafter (State.mergeDone_none hnone), fun p hsome => ⟨fun hearly => hafter (State.mergeDone_early hsome hearly),
      fun hfull hunits => hafter (State.mergeDone_commits hsome hfull hunits)⟩⟩
  · intro u
    exact ⟨fun hnone => congrArg Host.Outcome.next (State.checkpointOn_waits hfit hnone),
      fun l hsome => congrArg Host.Outcome.next (State.checkpointOn_merges hfit hsome)⟩

end Sys2Proof.Machine
end

section
/-! SUPPORT. What a station and a lane row read after their own writes. -/

namespace Sys2Proof.Machine

theorem State.stn_setStn_same (s : State) (n : Nat) (x : Station) : (s.setStn n x).stn n = x :=
  (s.stn_setStn n n x).trans (if_pos rfl)

theorem State.stn_setStn_other (s : State) {n k : Nat} (x : Station) (h : k ≠ n) : (s.setStn n x).stn k = s.stn k :=
  (s.stn_setStn n k x).trans (if_neg h)

theorem State.lane_setLane (s : State) (st n k : Nat) (x : Lane) : (s.setLane st n x).lane st k = if k = n then x else s.lane st k := by
  simp [State.setLane, State.lane, State.stn_setStn_same, Tbl.look_put]

theorem State.lane_setLane_same (s : State) (st n : Nat) (x : Lane) : (s.setLane st n x).lane st n = x :=
  (s.lane_setLane st n n x).trans (if_pos rfl)

theorem State.stn_setLane_other (s : State) {st k : Nat} (n : Nat) (x : Lane) (h : k ≠ st) : (s.setLane st n x).stn k = s.stn k :=
  s.stn_setStn_other _ h

theorem State.stn_bump (s : State) (f : Fld) (i n st : Nat) : (s.bump f i n).stn st = s.stn st := by
  rw [State.stn, s.bump_stations, ← State.stn]

theorem State.lane_bump (s : State) (f : Fld) (i n st k : Nat) : (s.bump f i n).lane st k = s.lane st k := by
  rw [State.lane, s.stn_bump, ← State.lane]

theorem State.lane_setCtx_same (s : State) (st n j : Nat) (c : LaneCtx) :
    (s.setCtx st n j c).lane st n = { s.lane st n with ctxs := Tbl.put {} (s.lane st n).ctxs j c } :=
  s.lane_setLane_same _ _ _

theorem State.balance_setBalance_same (s : State) (st j : Nat) (b : Int) : (s.setBalance st j b).balance st j = b := by
  simp [State.setBalance, State.balance, State.stn_setStn_same]

theorem State.setBalance_onlyParts (s : State) (st j : Nat) (b : Int) : s.OnlyParts (s.setBalance st j b) [.stations] :=
  s.setStn_onlyParts _ _

end Sys2Proof.Machine
end

section
/-! SUPPORT. The batcher's events, the dispatcher's visits, switches and the ends of runs (R117 to R119, R288, R289, R292 to R299). -/

namespace Sys2Proof.Machine

theorem exec_batchWaitExpiry (s : State) (j : JobId) : exec (.batchWaitExpiry j) s = .next (s.waitOver j.val) := rfl
theorem exec_batchPlaceFree (s : State) (j : JobId) : exec (.batchPlaceFree j) s = .next (s.placeFree j.val) := rfl
theorem exec_dispatcherVisit (s : State) (st : StationId) : exec (.dispatcherVisit st) s = .next (s.dispatch st.val) := rfl
theorem exec_balanceExhausted (s : State) (st : StationId) : exec (.balanceExhausted st) s = .next (s.balanceSpent st.val) := rfl
theorem exec_switchPartEnd (s : State) (st : StationId) (n : LaneRowId) :
    exec (.switchPartEnd st n) s = .next (s.partEnd st.val n.val) := rfl
theorem exec_swapEnd (s : State) (st : StationId) : exec (.swapEnd st) s = .next (s.swapEnd st.val) := rfl
theorem exec_stationEndMessage (s : State) (st : StationId) (j : JobId) :
    exec (.stationEndMessage st j) s = .next (s.endMessage st.val j.val) := rfl
theorem exec_abandonReport (s : State) (st : StationId) (j : JobId) :
    exec (.abandonReport st j) s = .next (s.abandonReport st.val j.val) := rfl

/-! The open batch's timer and a place that frees. -/

section
variable {s : State} {j : Nat} {b : Batch}

theorem State.waitOver_none (h : (s.batcher j).openB = none) : s.waitOver j = s := by
  simp only [State.waitOver, h]

theorem State.placeFree_none (h : (s.batcher j).openB = none) : s.placeFree j = s := by
  simp only [State.placeFree, h]

theorem State.waitOver_kept (h : (s.batcher j).openB = some b) (hc : b.cause ≠ none) : s.waitOver j = s := by
  simp [State.waitOver, h, Option.isSome_iff_ne_none, hc]

theorem State.placeFree_open (h : (s.batcher j).openB = some b) (hc : b.cause = none) : s.placeFree j = s := by
  simp [State.placeFree, h, hc]

theorem State.placeFree_goes (h : (s.batcher j).openB = some b) (hc : b.cause ≠ none) (hr : (s.closedBatches j).length < 2) :
    s.placeFree j = s.batches j := by
  simp [State.placeFree, h, Option.isSome_iff_ne_none, hc, hr]

theorem State.waitOver_due (h : (s.batcher j).openB = some b) (hc : b.cause = none) (hw : b.waitUs ≠ 0)
    (ht : 700 * b.waitUs ≤ cycSince (s.homeCyc j) b.openedAt) :
    s.waitOver j = if (s.closedBatches j).length < 2 then (s.closeOpen j b .timer).batches j
      else s.setBatcher j { s.batcher j with openB := some { b with cause := some .timer, dueAt := s.homeCyc j } } := by
  simp [State.waitOver, h, hc, hw, Nat.not_lt.2 ht]

end

theorem State.job_setBatcher (s : State) (j k : Nat) (b : Batcher) :
    (s.setBatcher j b).job k = if k = j then { s.job j with batcher := b } else s.job k := s.job_setJob _ _ _

theorem State.batcher_setBatcher_same (s : State) (j : Nat) (b : Batcher) : (s.setBatcher j b).batcher j = b := by
  rw [State.batcher, s.job_setBatcher, if_pos rfl]

/-! The dispatcher's visit. -/

section
variable {s : State} {st : Nat}

theorem State.dispatch_fenced (h : s.stnUp st = false) : s.dispatch st = s := if_pos (.inl (by simp [h]))

/-- The station is free for a visit. -/
def State.Visits (s : State) (st : Nat) : Prop :=
  s.stnUp st = true ∧ (s.stn st).incoming = none ∧ ((s.stn st).order.isSome = true ∨ s.busyWith st = false)

theorem State.Visits.stays {s : State} {st : Nat} (h : s.Visits st) :
    ¬ (!s.stnUp st ∨ (s.stn st).incoming.isSome ∨ ((s.stn st).order.isNone ∧ s.busyWith st)) := by
  obtain ⟨hu, hi, hb⟩ := h
  obtain hb | hb := hb <;> simp [hu, hi, hb]
  intro hn; simp [hn] at hb

theorem State.dispatch_express (h : s.Visits st) {e : Nat} (he : (s.stn st).ready.find? (fun j => s.hasWork st j) = some e) :
    s.dispatch st = s.giveStation st e := by
  rw [State.dispatch, if_neg h.stays, he]

theorem State.dispatch_circle (h : s.Visits st) (he : ∀ e ∈ (s.stn st).ready, s.hasWork st e = false) {k : Nat}
    (hk : nextInCircle (s.jobsOn st) (s.stn st).visited = some k) : s.dispatch st = s.visit st k := by
  have hf : (s.stn st).ready.find? (fun j => s.hasWork st j) = none := List.find?_eq_none.2 fun e hm => by simp [he e hm]
  rw [State.dispatch, if_neg h.stays, hf]
  simp only [hk]

theorem State.dispatch_alone (h : s.Visits st) (he : ∀ e ∈ (s.stn st).ready, s.hasWork st e = false) (hj : s.jobsOn st = []) :
    s.dispatch st = s := by
  have hf : (s.stn st).ready.find? (fun j => s.hasWork st j) = none := List.find?_eq_none.2 fun e hm => by simp [he e hm]
  rw [State.dispatch, if_neg h.stays, hf]
  simp only [hj]; rfl

theorem State.visit_works {k : Nat} (h : s.hasWork st k = true) :
    s.visit st k = (s.setBalance st k (s.balance st k + 2048 * s.fget F.jobCfgWeight k)).giveStation st k := by
  simp only [State.visit, h]; norm_num

/-- The state after a visit of a job that has no work. -/
theorem State.visit_idle {k : Nat} (h : s.hasWork st k = false) :
    s.visit st k = (s.setBalance st k 0).setStn st { (s.setBalance st k 0).stn st with visited := k } := by
  simp only [State.visit, h]; rfl

theorem State.balanceSpent_orders {k : Nat} (hk : s.carried st = some k) (he : s.isExpress k = false) (ho : (s.stn st).order = none)
    (hi : (s.stn st).incoming = none) (hw : s.hasWork st k = true) :
    s.balanceSpent st = (s.passTime st (ceilDiv (s.balance st k).toNat 32)).orderOut st .balance := by
  simp [State.balanceSpent, hk, he, ho, hi, hw]

end

/-- A job visited that has no work gets balance 0, and is the one last visited. -/
theorem State.visit_idle_leaves {s : State} {st k : Nat} (h : s.hasWork st k = false) :
    (s.visit st k).balance st k = 0 ∧ ((s.visit st k).stn st).visited = k ∧ s.OnlyParts (s.visit st k) [.stations] ∧
      ∀ x, x ≠ st → (s.visit st k).stn x = s.stn x := by
  rw [State.visit_idle h]
  refine ⟨?_, ?_, (s.setBalance_onlyParts st k 0).trans (State.setStn_onlyParts _ _ _), fun x hx => ?_⟩
  · rw [State.balance, State.stn_setStn_same]; exact s.balance_setBalance_same st k 0
  · rw [State.stn_setStn_same]
  · rw [State.stn_setStn_other _ _ hx]; exact s.stn_setStn_other _ hx

/-! The end of a lane row's part of an order. -/

section
variable {s : State} {st n k : Nat}

theorem State.partEnd_idle (h : (s.lane st n).job = none) : s.partEnd st n = s := by
  simp only [State.partEnd, h]

/-- No copy of the job is in flight on the lane row, so none of its requests gives up a slot. -/
theorem filter_job_nil {cs : List CopyRun} (h : cs.all (fun c => c.job != k) = true) : cs.filter (fun c => c.job = k) = [] := by
  refine List.filter_eq_nil_iff.2 fun c hc => ?_
  simpa using List.all_eq_true.1 h c hc

/-- A lane row carries job `k`, an order takes it out, and at most one of its passes is undecided. -/
def State.Ordered (s : State) (st n k : Nat) : Prop :=
  (s.lane st n).job = some k ∧ (s.stn st).order.isSome = true ∧ (s.lane st n).partEnded = false ∧ (s.stn st).incoming = none ∧
    ((s.lane st n).passes.filter (fun p => !p.verdict)).length ≤ 1

theorem State.Ordered.guard (h : s.Ordered st n k) :
    ¬ ((s.stn st).order.isNone ∨ (s.lane st n).partEnded ∨ ((s.lane st n).swapped ∧ (s.stn st).incoming = some k) ∨
      1 < ((s.lane st n).passes.filter (fun p => !p.verdict)).length) := by
  obtain ⟨_, ho, hp, hi, hl⟩ := h
  have ho' : (s.stn st).order.isNone = false := by cases h : (s.stn st).order <;> simp [h] at ho ⊢
  simp [ho', hp, hi]; simpa using hl

theorem State.partEnd_plain (h : s.Ordered st n k) (hu : (s.lane st n).undecided = none)
    (hc : (s.lane st n).copies.all (fun c => c.job != k) = true) :
    s.partEnd st n = s.setLane st n { s.lane st n with partEnded := true } := by
  have hj := h.1
  simp only [State.partEnd, hj]
  rw [if_neg h.guard]
  simp [hj, hu, filter_job_nil hc]

/-- A narrow pass that is cut issues again from its start. -/
theorem State.cutPass_lane {i : Nat} {p : PassRun} (hp : (s.lane st n).passes[i]? = some p) :
    ((s.cutPass st n i).lane st n).passes = (s.lane st n).passes.take i ∧
      ((s.cutPass st n i).lane st n).copies = (s.lane st n).copies := by
  simp only [State.cutPass, hp]
  rw [State.lane_bump, State.lane_setCtx_same, State.lane_setLane_same]
  exact ⟨rfl, rfl⟩

theorem State.partEnd_cuts (h : s.Ordered st n k) {i : Nat} {p : PassRun} (hu : (s.lane st n).undecided = some i)
    (hp : (s.lane st n).passes[i]? = some p) (hw : p.wide = none) (hc : (s.lane st n).copies.all (fun c => c.job != k) = true) :
    s.partEnd st n = (s.cutPass st n i).setLane st n { (s.cutPass st n i).lane st n with partEnded := true } := by
  have hj := h.1
  have hf : ((s.cutPass st n i).lane st n).copies.filter (fun c => c.job = k) = [] := by
    rw [(State.cutPass_lane hp).2]; exact filter_job_nil hc
  simp only [State.partEnd, hj]
  rw [if_neg h.guard]
  simp [hu, hp, hw, hf]

end

/-! The swap, a station's end message and its report. -/

section
variable {s : State} {st j : Nat}

theorem State.swapEnd_fenced (h : s.stnUp st = false) : s.swapEnd st = s := if_pos (.inl (by simp [h]))

theorem State.swapEnd_swaps (hu : s.stnUp st = true) (hi : (s.stn st).incoming.isSome = true) :
    s.swapEnd st = ((List.range 32).foldl (State.swapLane st) s).switchOver st
      ((List.range 32).filterMap (fun n => (s.lane st n).job)).dedup := by
  have hn : (s.stn st).incoming.isNone = false := by cases h : (s.stn st).incoming <;> simp [h] at hi ⊢
  simp [State.swapEnd, hu, hn]

theorem State.endMessage_none (h : (s.job j).run = none) : s.endMessage st j = s := by
  simp only [State.endMessage, h]

theorem State.abandonReport_none (h : (s.job j).run = none) : s.abandonReport st j = s := by
  simp only [State.abandonReport, h]

theorem State.endMessage_counts {r : Run} (hr : (s.job j).run = some r) (hs : r.started.contains st = true)
    (he : r.ended.contains st = false) (ha : r.abandoned = none) (hu : s.stnUp st = true)
    (hl : ∀ n, n < 32 → s.laneOver st j n = true) (ht : ∀ x ∈ (s.stn st).tail, x.job ≠ j) :
    s.endMessage st j =
      if r.image.stations.all (fun x => (r.ended ++ [st]).contains x)
      then (s.setJob j { s.job j with run := some { r with ended := r.ended ++ [st] } }).endRun j { r with ended := r.ended ++ [st] }
      else s.setJob j { s.job j with run := some { r with ended := r.ended ++ [st] } } := by
  have hl' : (List.range 32).all (s.laneOver st j) = true := List.all_eq_true.2 fun n hn => hl n (List.mem_range.1 hn)
  have ht' : (s.stn st).tail.all (fun t => t.job != j) = true := List.all_eq_true.2 fun x hx => by simpa using ht x hx
  simp only [State.endMessage, hr, hs, he, ha, hu, hl', ht']
  rfl

theorem State.abandonReport_counts {r : Run} {status : Nat} (hr : (s.job j).run = some r) (ha : r.abandoned = some status)
    (hi : r.image.stations.contains st = true) (hl : ∀ n, n < 33 → ∀ p ∈ (s.lane st n).passes, p.job ≠ j)
    (ht : ∀ x ∈ (s.stn st).tail, x.job ≠ j) {r1 : Run} (h1 : (((s.dropCopies st j).report j st).job j).run = some r1) :
    s.abandonReport st j =
      if r1.image.stations.all (fun x => r1.reports.contains x) then ((s.dropCopies st j).report j st).endRun j r1
      else (s.dropCopies st j).report j st := by
  have hl' : (List.range 33).all (fun n => (s.lane st n).passes.all (fun p => p.job != j)) = true :=
    List.all_eq_true.2 fun n hn => List.all_eq_true.2 fun p hp => by simpa using hl n (List.mem_range.1 hn) p hp
  have ht' : (s.stn st).tail.all (fun t => t.job != j) = true := List.all_eq_true.2 fun x hx => by simpa using ht x hx
  simp [State.abandonReport, hr, ha, List.contains_iff_mem.1 hi, hl', ht', h1]

end

theorem all_contains_of_forall {xs ys : List Nat} (h : ∀ x ∈ xs, x ∈ ys) : xs.all (fun x => ys.contains x) = true :=
  List.all_eq_true.2 fun x hx => List.contains_iff_mem.2 (h x hx)

theorem not_all_contains_of_exists {xs ys : List Nat} (h : ∃ x ∈ xs, x ∉ ys) : ¬ xs.all (fun x => ys.contains x) = true := by
  obtain ⟨x, hx, hn⟩ := h
  exact fun ha => hn (List.contains_iff_mem.1 (List.all_eq_true.1 ha x hx))

/-- Settles O42. -/
theorem dispatcherEvents : Obligations.DispatcherEvents := by
  unfold Obligations.DispatcherEvents
  intro s st j
  refine ⟨fun b hb => ⟨fun hc hw ht => ⟨fun hl => ?_, fun hl => ?_⟩, fun hc hl => ?_, fun hc => ?_, fun hc => ?_⟩, fun hb => ⟨?_, ?_⟩,
    fun hu hi hbusy => ⟨fun e he => ?_, fun he => ⟨fun k hk => ⟨fun hw => ?_, fun hw => ?_⟩, fun hj => ?_⟩⟩, fun hu => ⟨?_, ?_⟩,
    fun k hk he ho hi hw => ?_, fun n k hj ho hp hi hl => ⟨fun hu hc => ?_, fun i p hu hp' hw hc => ?_⟩, fun n hj => ?_,
    fun hu hi => ?_, fun r hr => ⟨fun hs he ha hu hl ht => ?_, fun status ha hi hl ht => ?_⟩, fun hr => ⟨?_, ?_⟩⟩
  · rw [exec_batchWaitExpiry, State.waitOver_due hb hc hw ht, if_pos hl]
  · refine ⟨_, (exec_batchWaitExpiry s j).trans (congrArg _ ((State.waitOver_due hb hc hw ht).trans (if_neg (Nat.not_lt.2 hl)))),
      s.setJob_onlyParts _ _, ?_, fun k hk => (s.job_setBatcher _ _ _).trans (if_neg hk)⟩
    rw [State.batcher_setBatcher_same]
  · rw [exec_batchPlaceFree, State.placeFree_goes hb hc hl]
  · rw [exec_batchWaitExpiry, State.waitOver_kept hb hc]
  · rw [exec_batchPlaceFree, State.placeFree_open hb hc]
  · rw [exec_batchWaitExpiry, State.waitOver_none hb]
  · rw [exec_batchPlaceFree, State.placeFree_none hb]
  · rw [exec_dispatcherVisit, State.dispatch_express ⟨hu, hi, hbusy⟩ he]
  · rw [exec_dispatcherVisit, State.dispatch_circle ⟨hu, hi, hbusy⟩ he hk, State.visit_works hw]
  · exact ⟨_, (exec_dispatcherVisit s st).trans (congrArg _ (State.dispatch_circle ⟨hu, hi, hbusy⟩ he hk)), State.visit_idle_leaves hw⟩
  · rw [exec_dispatcherVisit, State.dispatch_alone ⟨hu, hi, hbusy⟩ he hj]
  · rw [exec_dispatcherVisit, State.dispatch_fenced hu]
  · rw [exec_swapEnd, State.swapEnd_fenced hu]
  · rw [exec_balanceExhausted, State.balanceSpent_orders hk he ho hi hw]
  · exact ⟨_, (exec_switchPartEnd s st n).trans (congrArg _ (State.partEnd_plain ⟨hj, ho, hp, hi, hl⟩ hu hc)),
      s.setLane_onlyParts _ _ _, s.lane_setLane_same _ _ _, fun x hx => s.stn_setLane_other _ _ hx⟩
  · refine ⟨_, (exec_switchPartEnd s st n).trans (congrArg _ (State.partEnd_cuts ⟨hj, ho, hp, hi, hl⟩ hu hp' hw hc)), ?_⟩
    rw [State.lane_setLane_same]
    exact ⟨rfl, (State.cutPass_lane hp').1⟩
  · rw [exec_switchPartEnd, State.partEnd_idle hj]
  · rw [exec_swapEnd, State.swapEnd_swaps hu hi]
  · have e := (exec_stationEndMessage s st j).trans (congrArg _ (State.endMessage_counts hr hs he ha hu hl ht))
    exact ⟨fun h => e.trans (congrArg _ (if_pos (all_contains_of_forall h))),
      fun h => e.trans (congrArg _ (if_neg (not_all_contains_of_exists h)))⟩
  · have e := fun {r1} h1 => (exec_abandonReport s st j).trans (congrArg _ (State.abandonReport_counts hr ha hi hl ht (r1 := r1) h1))
    exact ⟨fun r1 h1 h => (e h1).trans (congrArg _ (if_pos (all_contains_of_forall h))),
      fun r1 h1 h => (e h1).trans (congrArg _ (if_neg (not_all_contains_of_exists h)))⟩
  · rw [exec_stationEndMessage, State.endMessage_none hr]
  · rw [exec_abandonReport, State.abandonReport_none hr]

end Sys2Proof.Machine
end

section
/-! SUPPORT. Stored words read, scrubbed, written back and repaired (R238, R246, R247, R541 to R558). -/

namespace Sys2Proof.Machine

/-! ## A command that may have ended meanwhile -/

theorem State.finishPlace_onlyParts (s : State) (place : Option Nat) (status result : Nat) :
    s.OnlyParts (s.finishPlace place status result) [.host] := by
  cases place with
  | none => exact .refl s _
  | some p =>
    simp only [State.finishPlace]
    split
    · exact s.finish_onlyParts _ _ _
    · exact .refl s _

theorem State.finishPlace_cmd {s : State} {p : Nat} (h : s.open p = true) (status result : Nat) :
    (s.finishPlace (some p) status result).cmd p = { s.cmd p with ready := true, status := status, result := result } :=
  (congrArg (State.cmd · p) (if_pos h)).trans (s.finish_cmd h _ _)

@[simp] theorem State.finishPlace_ecc (s : State) (place : Option Nat) (status result : Nat) :
    (s.finishPlace place status result).ecc = s.ecc := s.finishPlace_onlyParts place status result .ecc (by decide)
@[simp] theorem State.finishPlace_cfs (s : State) (place : Option Nat) (status result : Nat) :
    (s.finishPlace place status result).cfs = s.cfs := s.finishPlace_onlyParts place status result .cfs (by decide)
@[simp] theorem State.finishPlace_stations (s : State) (place : Option Nat) (status result : Nat) :
    (s.finishPlace place status result).stations = s.stations := s.finishPlace_onlyParts place status result .stations (by decide)
@[simp] theorem State.finishPlace_fget (s : State) (place : Option Nat) (status result : Nat) (f : Fld) (i : Nat) :
    (s.finishPlace place status result).fget f i = s.fget f i := (s.finishPlace_onlyParts place status result).fget f i

theorem State.lane_congr {s t : State} (h : t.stations = s.stations) (st n : Nat) : t.lane st n = s.lane st n := by
  rw [State.lane, State.stn, h, ← State.stn, ← State.lane]

theorem State.open_congr {s t : State} (h : t.host = s.host) (p : Nat) : t.open p = s.open p := by
  simp only [State.open, State.cmd, h]

theorem State.cmd_congr {s t : State} (h : t.host = s.host) (p : Nat) : t.cmd p = s.cmd p := by
  simp only [State.cmd, h]

/-! ## Reads of a stack -/

/-- The chunk at `a` can be read: it lies in the depot range, its page is resident and the home stack is in service. -/
theorem exec_stackRead {s : State} {addr fold : Nat} {errs : List (Nat × Nat × Byte)} (hd : inDepot (addr / 256 * 256) 256 = true)
    (hr : (s.page (pageOf (addr / 256 * 256))).resident = true)
    (hs : s.fget F.memStackStateInService (s.homeStack (pageOf (addr / 256 * 256))) = 1) :
    exec (.stackRead addr fold errs) s = .next (s.readChunk (s.homeStack (pageOf (addr / 256 * 256)))
      (withBits (withBits fold 27 5 (channelOf (addr / 256 * 256))) 32 8 (s.homeStack (pageOf (addr / 256 * 256))))
      (some (addr / 256 * 256)) false errs) :=
  congrArg Host.Outcome.next (if_neg (by simp [hd, hr, State.fbit, hs]))

theorem dramWord_nil : dramWord [] = .good := by decide

theorem State.setEcc_self (s : State) : s.setEcc s.ecc = s := rfl

/-- A word that is neither altered, injected nor bad before reads good, and its read changes nothing. -/
theorem State.readWord_good {s : State} {n fold a i : Nat} (hi : s.ecc.injected = []) (hb : a / 32 + i ∉ s.ecc.badWords) :
    State.readWord n fold (some a) false [] s i = s := by
  have hw : s.wordIs n fold (some a) [] i = .good := by
    simp [State.wordIs, hi, hb, wordErrs, dramWord_nil]
  have he : { s.ecc with injected := s.ecc.injected.filter (fun x => !(x.island = islandOfStack n && x.word = foldPlus fold i)) } = s.ecc := by
    rw [hi, List.filter_nil, ← hi]
  simp only [State.readWord, hw]
  rw [he, s.setEcc_self]

theorem foldl_fixed {α β : Type} {f : β → α → β} {b : β} {l : List α} (h : ∀ a ∈ l, f b a = b) : l.foldl f b = b := by
  induction l with
  | nil => rfl
  | cons a l ih =>
    rw [List.foldl_cons, h a (List.mem_cons_self ..)]
    exact ih fun x hx => h x (List.mem_cons_of_mem _ hx)

theorem State.readChunk_good {s : State} {n fold a : Nat} (hi : s.ecc.injected = []) (hb : ∀ i, i < 8 → a / 32 + i ∉ s.ecc.badWords) :
    s.readChunk n fold (some a) false [] = s :=
  foldl_fixed fun i hm => State.readWord_good hi (hb i (List.mem_range.1 hm))

/-- The report of the word `word` is being checked by a second read, which has come. -/
def State.rereadCome (s : State) (n word : Nat) : State := s.setEcc { s.ecc with rereads := s.ecc.rereads.erase (n, word) }

theorem exec_reread {s : State} {n : StackId} {word : Nat} (h : s.ecc.rereads.contains (n.val, word) = true) (again : Bool) :
    exec (.dramAddressClassReread n word again) s = .next (
      if again then ((s.rereadCome n.val word).countUe (islandOfStack n.val) word true).fenceStack n.val
      else (s.rereadCome n.val word).setEcc { (s.rereadCome n.val word).ecc with badWords := (s.rereadCome n.val word).ecc.badWords.filter (· != word) }) :=
  congrArg Host.Outcome.next (if_neg (by simp [List.contains_iff_mem.1 h]))

/-! ## Write-backs and the patrol -/

/-- The write-back `x` is done: one that a scrub found is counted. -/
def State.writtenBack (s : State) (x : Nat × Nat × Bool) (i : Nat) : State :=
  if x.2.2 then (s.setEcc { s.ecc with writeBacks := s.ecc.writeBacks.erase x }).bump F.glbEccCtrScrubFixed i 1
  else s.setEcc { s.ecc with writeBacks := s.ecc.writeBacks.erase x }

theorem exec_eccWriteBack {s : State} {i : IslandId} {word : Nat} {x : Nat × Nat × Bool}
    (h : s.ecc.writeBacks.find? (fun x => x.1 = i.val && x.2.1 = word) = some x) :
    exec (.eccWriteBack i word) s = .next (s.writtenBack x i.val) := by
  change Host.Outcome.next (match s.ecc.writeBacks.find? (fun x => x.1 = i.val && x.2.1 = word) with
    | none => _
    | some _ => _) = _
  rw [h]; rfl

theorem State.writtenBack_leaves (s : State) (x : Nat × Nat × Bool) (i : Nat) :
    (s.writtenBack x i).ecc = { s.ecc with writeBacks := s.ecc.writeBacks.erase x } ∧
      (s.writtenBack x i).fget F.glbEccCtrScrubFixed i = (s.fget F.glbEccCtrScrubFixed i + bit x.2.2) % 2 ^ F.glbEccCtrScrubFixed.width ∧
      s.OnlyParts (s.writtenBack x i) [.regs, .ecc] ∧ (x.2.2 = false → (s.writtenBack x i).regs = s.regs) := by
  cases hx : x.2.2 with
  | true =>
    simp only [State.writtenBack, hx, if_true]
    refine ⟨State.bump_ecc _ _ _ _, ?_, (s.setEcc_onlyParts _).mono (by decide) |>.next (State.bump_onlyParts _ _ _ _), by simp⟩
    rw [State.fget_bump_same _ _ _ _ (by decide), State.setEcc_fget]; rfl
  | false =>
    simp only [State.writtenBack, hx, Bool.false_eq_true, if_false]
    refine ⟨rfl, ?_, (s.setEcc_onlyParts _).mono (by decide), fun _ => rfl⟩
    rw [State.setEcc_fget]
    exact (Nat.mod_eq_of_lt (s.fget_lt _ _)).symm

/-- The next chunk of a stack has been read by its patrol. -/
def State.patrolled (s : State) (n fold : Nat) (errs : List (Nat × Nat × Byte)) : State :=
  (s.setEcc { s.ecc with scrubAt := Tbl.put 0 s.ecc.scrubAt n (s.cyc (islandOfStack n)) }).readChunk n
    (withBits (withBits fold 27 5 (s.fget F.memScrubStatChunk n % 32)) 32 8 n) none true errs

theorem exec_patrolScrubStep {s : State} {n : StackId} (he : s.fget F.memEccCfgScrubEn n.val = 1)
    (hs : s.fget F.memStackStateInService n.val = 1)
    (hd : Tbl.look 0 s.ecc.scrubAt n.val + 1000 * s.fget F.memEccCfgScrubUs n.val ≤ s.cyc (islandOfStack n.val))
    (fold : Nat) (errs : List (Nat × Nat × Byte)) : exec (.patrolScrubStep n none fold errs) s = .next (
      if s.fget F.memScrubStatChunk n.val + 1 = 402653184 then
        ((s.patrolled n.val fold errs).fset F.memScrubStatChunk n.val ((s.fget F.memScrubStatChunk n.val + 1) % 402653184)).bump
          F.memScrubStatPasses n.val 1
      else (s.patrolled n.val fold errs).fset F.memScrubStatChunk n.val ((s.fget F.memScrubStatChunk n.val + 1) % 402653184)) :=
  congrArg Host.Outcome.next (if_neg (by simp [State.fbit, he, hs, hd]))

section
variable {s : State} {n : StackId} (he : s.fget F.memEccCfgScrubEn n.val = 1) (hs : s.fget F.memStackStateInService n.val = 1)
  (hd : Tbl.look 0 s.ecc.scrubAt n.val + 1000 * s.fget F.memEccCfgScrubUs n.val ≤ s.cyc (islandOfStack n.val))
  (fold : Nat) (errs : List (Nat × Nat × Byte))
include he hs hd

theorem exec_patrolScrubStep_next (hk : s.fget F.memScrubStatChunk n.val + 1 < 402653184) : exec (.patrolScrubStep n none fold errs) s =
    .next ((s.patrolled n.val fold errs).fset F.memScrubStatChunk n.val (s.fget F.memScrubStatChunk n.val + 1)) := by
  rw [exec_patrolScrubStep he hs hd, if_neg (Nat.ne_of_lt hk), Nat.mod_eq_of_lt hk]

theorem exec_patrolScrubStep_wraps (hk : s.fget F.memScrubStatChunk n.val + 1 = 402653184) : exec (.patrolScrubStep n none fold errs) s =
    .next (((s.patrolled n.val fold errs).fset F.memScrubStatChunk n.val 0).bump F.memScrubStatPasses n.val 1) := by
  rw [exec_patrolScrubStep he hs hd, if_pos hk, hk, Nat.mod_self]

end

/-! ## Row repairs and the reserve's shares -/

/-- A spare row of the channel takes the repaired row's place. -/
def State.rowRemapped (s : State) (n : Nat) (r : RowRepair) : State :=
  ((s.setEcc { s.ecc with repairs := s.ecc.repairs.erase r, rowsUsed := Tbl.put 0 s.ecc.rowsUsed (32 * r.stack + r.channel) (Tbl.look 0 s.ecc.rowsUsed (32 * r.stack + r.channel) + 1) }).bump F.memScrubStatRemaps n 1).cfsWrite
    (.fuse (fuseWord2 1 (islandOfStack n) r.channel (Tbl.look 0 s.ecc.rowsUsed (32 * r.stack + r.channel)) r.target) (fuseWord3 r.cause))

theorem exec_dramRowRepairDone {s : State} {n : StackId} {r : RowRepair} (h : s.ecc.repairs.find? (fun r => r.stack = n.val) = some r) :
    exec (.dramRowRepairDone n) s = .next ((s.rowRemapped n.val r).finishPlace r.place 0
      (15 - Tbl.look 0 s.ecc.rowsUsed (32 * r.stack + r.channel))) := by
  change Host.Outcome.next (match s.ecc.repairs.find? (fun r => r.stack = n.val) with
    | none => _
    | some _ => _) = _
  rw [h]; rfl

theorem State.rowRemapped_host (s : State) (n : Nat) (r : RowRepair) : (s.rowRemapped n r).host = s.host := by
  simp only [State.rowRemapped, State.cfsWrite, State.setCfs_host, State.bump_host, State.setEcc_host]

theorem State.rowRemapped_repairs (s : State) (n : Nat) (r : RowRepair) :
    (s.rowRemapped n r).ecc.repairs = s.ecc.repairs.erase r ∧
      Tbl.look 0 (s.rowRemapped n r).ecc.rowsUsed (32 * r.stack + r.channel) = Tbl.look 0 s.ecc.rowsUsed (32 * r.stack + r.channel) + 1 := by
  simp [State.rowRemapped, State.cfsWrite]

theorem State.rowRemapped_writes (s : State) (n : Nat) (r : RowRepair) : (s.rowRemapped n r).cfs.writes = s.cfs.writes ++
    [.fuse (fuseWord2 1 (islandOfStack n) r.channel (Tbl.look 0 s.ecc.rowsUsed (32 * r.stack + r.channel)) r.target) (fuseWord3 r.cause)] := by
  simp [State.rowRemapped, State.cfsWrite]

theorem State.rowRemapped_onlyParts (s : State) (n : Nat) (r : RowRepair) : s.OnlyParts (s.rowRemapped n r) [.regs, .ecc, .cfs] :=
  ((s.setEcc_onlyParts _).mono (by decide)).next (State.bump_onlyParts _ _ _ _) |>.next (State.setCfs_onlyParts _ _)

theorem State.rowRemapped_remaps (s : State) (n : Nat) (r : RowRepair) : (s.rowRemapped n r).fget F.memScrubStatRemaps n =
    (s.fget F.memScrubStatRemaps n + 1) % 2 ^ F.memScrubStatRemaps.width := by
  rw [State.rowRemapped, State.cfsWrite, State.setCfs_fget, State.fget_bump_same _ _ _ _ (by decide), State.setEcc_fget]

theorem exec_mirrorTakeover (s : State) (n : StackId) : exec (.mirrorTakeover n) s = .next (
    if !s.depot.reserveDown.contains n.val ∨ s.depot.reserveLost.contains n.val then s
    else ((s.setDepot { s.depot with reserveDown := s.depot.reserveDown.filter (· != n.val) }).fset F.memStackStateMirrorActive
      (s.mirrorOf n.val) 1).sharesBack s.sharePages) := rfl

theorem exec_reserveRebuildDone {s : State} {n : StackId} (h : s.depot.reserveLost.contains n.val = true) :
    exec (.reserveRebuildDone n) s = .next ((s.setDepot { s.depot with reserveLost := s.depot.reserveLost.filter (· != n.val), reserveDown := s.depot.reserveDown.filter (· != n.val) }).sharesBack s.sharePages) :=
  congrArg Host.Outcome.next (if_neg (by simp [List.contains_iff_mem.1 h]))

/-! ## SRAM -/

theorem exec_sramScrubStep (s : State) (i : IslandId) (mem line : Nat) (errs : List (Nat × Nat)) :
    exec (.sramScrubStep i mem line errs) s = .next (if !s.power.started.contains i.val then s
      else (lineErrors errs).zipIdx.foldl (State.scrubWord i.val mem line) s) := rfl

/-- The cycles a repair of a station memory holds it count; of other memories nothing is held. -/
def State.repairHold (s : State) (i array : Nat) : State := if islandClass i = 0 then s.heldCycles (stationOf i) array else s

theorem exec_sramRepair_column {s : State} {i : IslandId} {array : Nat} (h : s.memFree i.val array = true) (target : Nat) :
    exec (.sramRepair i array true target) s = .next (
      if Tbl.look 0 s.ecc.sramCols (64 * i.val + array) ≥ 2 ∨ target ≥ 65536 then s
      else ((s.setEcc { s.ecc with sramCols := Tbl.put 0 s.ecc.sramCols (64 * i.val + array) (Tbl.look 0 s.ecc.sramCols (64 * i.val + array) + 1) }).repairHold i.val array).cfsWrite
        (.fuse (fuseWord2 3 i.val array (Tbl.look 0 s.ecc.sramCols (64 * i.val + array)) target) (fuseWord3 1))) :=
  congrArg Host.Outcome.next (if_neg (by simp [h]))

theorem exec_sramRepair_row {s : State} {i : IslandId} {array target : Nat} (h : s.memFree i.val array = true)
    {d : Nat × Nat × Nat × Nat}
    (hd : s.ecc.sramDue.find? (fun d => d.1 = i.val && d.2.1 = array && d.2.2.1 = target) = some d)
    (hr : Tbl.look 0 s.ecc.sramRows (64 * i.val + array) < 4) :
    exec (.sramRepair i array false target) s = .next (
      ((s.setEcc { s.ecc with sramRows := Tbl.put 0 s.ecc.sramRows (64 * i.val + array) (Tbl.look 0 s.ecc.sramRows (64 * i.val + array) + 1), sramDue := s.ecc.sramDue.erase d }).repairHold i.val array).cfsWrite
        (.fuse (fuseWord2 2 i.val array (Tbl.look 0 s.ecc.sramRows (64 * i.val + array)) target) (fuseWord3 d.2.2.2))) := by
  refine congrArg Host.Outcome.next ((if_neg (by simp [h])).trans ?_)
  change (match s.ecc.sramDue.find? (fun d => d.1 = i.val && d.2.1 = array && d.2.2.1 = target) with
    | none => _
    | some _ => _) = _
  rw [hd]
  exact if_neg (Nat.not_le.2 hr)

/-! ## A lane row's retirement -/

theorem exec_laneRowRetireStart_none {s : State} {st : StationId} {n : LaneRowId} (h : s.retireOf st.val n.val = none) :
    exec (.laneRowRetireStart st n) s = .next s := by
  change Host.Outcome.next (match s.retireOf st.val n.val with
    | none => _
    | some _ => _) = _
  rw [h]

theorem exec_laneRowRetireDone_none {s : State} {st : StationId} {n : LaneRowId} (h : s.retireOf st.val n.val = none) :
    exec (.laneRowRetireDone st n) s = .next s := by
  change Host.Outcome.next (match s.retireOf st.val n.val with
    | none => _
    | some _ => _) = _
  rw [h]

/-- The retirement of a lane row begins: the row is held. -/
def State.retireBegun (s : State) (st n : Nat) (r : Retire) : State :=
  (s.setEcc { s.ecc with retiring := s.ecc.retiring.map (fun x => if x = r then { x with begun := true } else x) }).setLane st n
    { s.lane st n with held := true }

theorem exec_laneRowRetireStart {s : State} {st : StationId} {n : LaneRowId} {r : Retire} (h : s.retireOf st.val n.val = some r)
    (hb : r.begun = false) (hp : (s.lane st.val n.val).passes = []) :
    exec (.laneRowRetireStart st n) s = .next (s.retireBegun st.val n.val r) := by
  change Host.Outcome.next (match s.retireOf st.val n.val with
    | none => _
    | some _ => _) = _
  rw [h]
  exact congrArg Host.Outcome.next (if_neg (by simp [hb, hp]))

theorem State.retireBegun_leaves (s : State) (st n : Nat) (r : Retire) :
    (s.retireBegun st n r).lane st n = { s.lane st n with held := true } ∧ s.OnlyParts (s.retireBegun st n r) [.ecc, .stations] ∧
      (s.retireBegun st n r).ecc.retiring = s.ecc.retiring.map (fun x => if x = r then { x with begun := true } else x) :=
  ⟨State.lane_setLane_same _ _ _ _, ((s.setEcc_onlyParts _).mono (by decide)).next (State.setLane_onlyParts _ _ _ _), by
    rw [State.retireBegun, State.setLane_ecc, State.setEcc_ecc]⟩

/-- LR32 stands in for the lane row, whose held cycles are counted. -/
def State.laneReplaced (s : State) (st n : Nat) (r : Retire) : State :=
  (((s.setLane st n ((s.lane st n).moved r.banks)).fset F.stnLrSpareReplaced st n).fset F.stnLrSpareUsed st 1).heldOver st n

/-- The lane row is retired: its retirement is over and the fuse record is on its way. -/
def State.laneRetired (s : State) (st n : Nat) (r : Retire) : State :=
  ((s.laneReplaced st n r).setEcc { (s.laneReplaced st n r).ecc with retiring := (s.laneReplaced st n r).ecc.retiring.filter (· != r) }).cfsWrite
    (.fuse (fuseWord2 4 (islandOfStation st) 0 0 n) (fuseWord3 r.cause))

theorem exec_laneRowRetireDone {s : State} {st : StationId} {n : LaneRowId} {r : Retire} (h : s.retireOf st.val n.val = some r)
    (hb : r.begun = true) :
    exec (.laneRowRetireDone st n) s = .next ((s.laneRetired st.val n.val r).finishPlace r.place 0 0) := by
  change Host.Outcome.next (match s.retireOf st.val n.val with
    | none => _
    | some _ => _) = _
  rw [h]
  exact congrArg Host.Outcome.next (if_neg (by simp [hb]))

/-- A lane row that carries no job: its held cycles are counted for nobody. -/
theorem State.heldOver_idle {s : State} {st n : Nat} (h : (s.lane st n).job = none) :
    s.heldOver st n = (s.lrAdd st n 8 512).ahead st n 512 := by
  simp only [State.heldOver, h]

section
variable {s : State} {st n : Nat} (r : Retire)

theorem State.laneReplaced_idle (h : (s.lane st n).job = none) : s.laneReplaced st n r =
    ((((s.setLane st n ((s.lane st n).moved r.banks)).fset F.stnLrSpareReplaced st n).fset F.stnLrSpareUsed st 1).lrAdd st n 8 512).ahead
      st n 512 := by
  refine State.heldOver_idle ?_
  rw [State.lane_congr (State.fset_stations ..), State.lane_congr (State.fset_stations ..), State.lane_setLane_same]
  exact h

theorem State.laneReplaced_held (h : (s.lane st n).job = none) : ((s.laneReplaced st n r).lane st n).held = false := by
  rw [State.laneReplaced_idle r h, State.ahead, State.lane_setLane_same, State.lrAdd, State.lane_congr (State.bump_stations ..),
    State.lane_congr (State.fset_stations ..), State.lane_congr (State.fset_stations ..), State.lane_setLane_same]
  rfl

theorem State.laneReplaced_parts (h : (s.lane st n).job = none) :
    (s.laneReplaced st n r).ecc = s.ecc ∧ (s.laneReplaced st n r).cfs = s.cfs ∧ (s.laneReplaced st n r).host = s.host := by
  rw [State.laneReplaced_idle r h]
  simp [State.ahead, State.lrAdd]

theorem State.laneReplaced_spare (h : (s.lane st n).job = none) : (s.laneReplaced st n r).fget F.stnLrSpareUsed st = 1 ∧
    (s.laneReplaced st n r).fget F.stnLrSpareReplaced st = n % 32 := by
  rw [State.laneReplaced_idle r h, State.ahead, State.setLane_fget, State.lrAdd, State.fget_bump_of_apart _ _ _ _ (by decide),
    State.fget_fset_same _ _ _ _ (by decide), State.setLane_fget, State.fget_bump_of_apart _ _ _ _ (by decide),
    State.fget_fset_of_apart _ _ _ _ (by decide), State.fget_fset_same _ _ _ _ (by decide)]
  exact ⟨rfl, rfl⟩

theorem State.laneReplaced_counts (h : (s.lane st n).job = none) : (s.laneReplaced st n r).fget F.stnLrCtrCount (lrIdx st n 8) =
    (s.fget F.stnLrCtrCount (lrIdx st n 8) + 512) % 2 ^ F.stnLrCtrCount.width := by
  rw [State.laneReplaced_idle r h, State.ahead, State.setLane_fget, State.lrAdd, State.fget_bump_same _ _ _ _ (by decide),
    State.fget_fset_of_apart _ _ _ _ (by decide), State.fget_fset_of_apart _ _ _ _ (by decide), State.setLane_fget]

theorem State.laneRetired_fget (f : Fld) (i : Nat) : (s.laneRetired st n r).fget f i = (s.laneReplaced st n r).fget f i := by
  rw [State.laneRetired, State.cfsWrite, State.setCfs_fget, State.setEcc_fget]

theorem State.laneRetired_lane : (s.laneRetired st n r).lane st n = (s.laneReplaced st n r).lane st n :=
  State.lane_congr (by rw [State.laneRetired, State.cfsWrite, State.setCfs_stations, State.setEcc_stations]) _ _

theorem State.laneRetired_parts (h : (s.lane st n).job = none) :
    (s.laneRetired st n r).ecc.retiring = s.ecc.retiring.filter (· != r) ∧
      (s.laneRetired st n r).cfs.writes = s.cfs.writes ++ [.fuse (fuseWord2 4 (islandOfStation st) 0 0 n) (fuseWord3 r.cause)] ∧
      (s.laneRetired st n r).host = s.host := by
  obtain ⟨hecc, hcfs, hhost⟩ := State.laneReplaced_parts r h
  simp [State.laneRetired, State.cfsWrite, hecc, hcfs, hhost]

end

/-- Settles O46. -/
theorem storedWordEvents : Obligations.StoredWordEvents := by
  unfold Obligations.StoredWordEvents
  intro s
  refine ⟨?_, fun n word h => ⟨?_, ?_⟩, fun i word x h => ?_, ?_, ?_, fun n => ⟨fun hd hl => ?_, fun hl => ⟨?_, ?_⟩, fun hd => ?_⟩,
    fun i mem line errs => ⟨fun h => ?_, fun h => ?_⟩, ?_, fun st n => ⟨fun h => ⟨?_, ?_⟩, fun r h => ⟨fun hb hp => ?_, fun hb hj => ?_⟩⟩⟩
  · intro addr fold errs a n hd hr hs
    exact ⟨exec_stackRead hd hr hs, fun hi hb => (exec_stackRead hd hr hs).trans (congrArg _ (State.readChunk_good hi hb))⟩
  · exact (exec_reread h true).trans (congrArg _ (if_pos rfl))
  · exact (exec_reread h false).trans (congrArg _ (if_neg Bool.false_ne_true))
  · exact ⟨_, exec_eccWriteBack h, s.writtenBack_leaves x i.val⟩
  · intro n fold errs he hs hd k u
    exact ⟨fun hk => exec_patrolScrubStep_next he hs hd fold errs hk, fun hk => exec_patrolScrubStep_wraps he hs hd fold errs hk⟩
  · intro n r h k used
    refine ⟨_, exec_dramRowRepairDone h, ?_, ?_, ?_, ?_, fun p hp ho => ?_, ?_⟩
    · rw [State.finishPlace_ecc]; exact (s.rowRemapped_repairs n.val r).2
    · rw [State.finishPlace_ecc]; exact (s.rowRemapped_repairs n.val r).1
    · rw [State.finishPlace_fget]; exact s.rowRemapped_remaps n.val r
    · rw [State.finishPlace_cfs]; exact s.rowRemapped_writes n.val r
    · rw [hp, State.finishPlace_cmd ((State.open_congr (s.rowRemapped_host n.val r) p).trans ho)]
      exact ⟨rfl, rfl, rfl⟩
    · exact (s.rowRemapped_onlyParts n.val r).mono (by decide) |>.next (State.finishPlace_onlyParts _ _ _ _)
  · rw [exec_mirrorTakeover, if_neg (not_or.2 ⟨by simp [List.contains_iff_mem.1 hd], by rw [hl]; decide⟩)]
  · intro lost down
    exact exec_reserveRebuildDone hl
  · rw [exec_mirrorTakeover, if_pos (.inr hl)]
  · rw [exec_mirrorTakeover, if_pos (.inl (by rw [hd]; rfl))]
  · rw [exec_sramScrubStep, if_neg (by simp [h])]
  · rw [exec_sramScrubStep, if_pos (by simp [h])]
  · intro i array target hf key hold
    refine ⟨?_, ?_⟩
    · intro cols
      exact ⟨fun hc ht => (exec_sramRepair_column hf target).trans (congrArg _ (if_neg (not_or.2 ⟨Nat.not_le.2 hc, Nat.not_le.2 ht⟩))),
        fun hc => (exec_sramRepair_column hf target).trans (congrArg _ (if_pos (.inl hc)))⟩
    · intro rows d hd hr
      exact exec_sramRepair_row hf hd hr
  · exact exec_laneRowRetireStart_none h
  · exact exec_laneRowRetireDone_none h
  · exact ⟨_, exec_laneRowRetireStart h hb hp, s.retireBegun_leaves st.val n.val r⟩
  · obtain ⟨hret, hcfs, hhost⟩ := State.laneRetired_parts r hj
    refine ⟨_, exec_laneRowRetireDone h hb, ?_, ?_, ?_, ?_, ?_, ?_, fun p hp ho => ?_⟩
    · rw [State.finishPlace_fget, State.laneRetired_fget]; exact (State.laneReplaced_spare r hj).1
    · rw [State.finishPlace_fget, State.laneRetired_fget]; exact (State.laneReplaced_spare r hj).2
    · rw [State.lane_congr (State.finishPlace_stations ..), State.laneRetired_lane]; exact State.laneReplaced_held r hj
    · rw [State.finishPlace_ecc]; exact hret
    · rw [State.finishPlace_fget, State.laneRetired_fget]; exact State.laneReplaced_counts r hj
    · rw [State.finishPlace_cfs]; exact hcfs
    · rw [hp, State.finishPlace_cmd ((State.open_congr hhost p).trans ho)]
      exact ⟨rfl, rfl⟩

end Sys2Proof.Machine
end

section
/-! SUPPORT. Streams (R259 to R264) and weight windows (R271 to R273). -/

namespace Sys2Proof.Machine

/-! ## The next page of a stream -/

theorem exec_streamFetch (s : State) (st : StationId) (place pref : Fin 8) :
    exec (.streamFetch st place pref) s = .next (s.fetchStream st.val place.val pref.val) := rfl
theorem exec_streamFetchData (s : State) (st : StationId) (place pref : Fin 8) (k : Nat) :
    exec (.streamFetchData st place pref k) s = .next (s.streamData st.val place.val pref.val k) := rfl

section
variable {s : State} {st place pref : Nat}

theorem State.fetchStream_unowned (h : s.streamOwner st place pref = none) : s.fetchStream st place pref = s := by
  rw [State.fetchStream, h]

theorem State.streamData_unowned (h : s.streamOwner st place pref = none) (k : Nat) : s.streamData st place pref k = s := by
  rw [State.streamData, h]

/-- The stream's run is in progress on a station in service, the ring has room, and no context of the prefetcher's active image goes
first. -/
structure State.Fetches (s : State) (st place pref : Nat) (im : Image) (j : Nat) (e : StreamE × Nat) : Prop where
  owner : s.streamOwner st place pref = some (im, j, e)
  up : s.stnUp st = true
  live : (s.stream st place pref).live = true
  room : (s.stream st place pref).next < (s.stream st place pref).head + e.1.depth
  turn : s.carried st = some j ∨ s.activeWants st place pref = false

/-- The stream goes past page k. -/
def State.streamPast (s : State) (st place pref : Nat) : State :=
  s.setStream st place pref { s.stream st place pref with next := (s.stream st place pref).next + 1 }

variable {im : Image} {j : Nat} {e : StreamE × Nat}

theorem State.Fetches.guard (h : s.Fetches st place pref im j e) : ¬ (!(s.stream st place pref).live ∨ !s.stnUp st ∨
    (s.stream st place pref).next ≥ (s.stream st place pref).head + e.1.depth ∨ (s.carried st ≠ some j ∧ s.activeWants st place pref)) := by
  simp only [h.live, h.up, Bool.not_true, Bool.false_eq_true, false_or]
  rintro (hr | ⟨hc, ha⟩)
  · exact absurd h.room (Nat.not_lt.2 hr)
  · exact h.turn.elim hc fun hn => Bool.false_ne_true (hn.symm.trans ha)

theorem State.fetchStream_ended (h : s.Fetches st place pref im j e) (he : inExtent e.1 (s.stream st place pref).next = false) :
    s.fetchStream st place pref = s.fset F.stnStreamStatEnded (streamIdx st pref place) 1 := by
  rw [State.fetchStream, h.owner]
  exact (if_neg h.guard).trans (if_pos (by simp [he]))

theorem State.fetchStream_outside (h : s.Fetches st place pref im j e) (he : inExtent e.1 (s.stream st place pref).next = true)
    (ho : streamOff e.1 (s.stream st place pref).next < 0 ∨
      ((s.runBuf j e.1.buf).2 : Int) < streamOff e.1 (s.stream st place pref).next + 65536) :
    s.fetchStream st place pref = (s.streamPast st place pref).skipPage st place pref (s.stream st place pref).next := by
  rw [State.fetchStream, h.owner]
  exact (if_neg h.guard).trans ((if_neg (by simp [he])).trans (if_pos ho))

/-- The page that the stream fetches next. -/
def State.fetchPage (s : State) (st place pref j : Nat) (e : StreamE) : Nat := pageOf (s.streamAddr j e (s.stream st place pref).next)

/-- The stream has gone past the page, and its tier entry has been looked up. -/
def State.lookedUp (s : State) (st place pref j : Nat) (e : StreamE) : State :=
  (s.streamPast st place pref).tierLookup (s.fetchPage st place pref j e)

theorem State.fetchStream_skips (h : s.Fetches st place pref im j e) (he : inExtent e.1 (s.stream st place pref).next = true)
    (ho : ¬ (streamOff e.1 (s.stream st place pref).next < 0 ∨
      ((s.runBuf j e.1.buf).2 : Int) < streamOff e.1 (s.stream st place pref).next + 65536))
    (hs : (s.lookedUp st place pref j e.1).skips (s.fetchPage st place pref j e.1) = true) :
    s.fetchStream st place pref = (s.lookedUp st place pref j e.1).skipPage st place pref (s.stream st place pref).next := by
  rw [State.fetchStream, h.owner]
  exact (if_neg h.guard).trans ((if_neg (by simp [he])).trans ((if_neg ho).trans (if_pos hs)))

/-- The page takes a slot of the ring and its request leaves. -/
def State.fetchSent (s : State) (im : Image) (st place pref j : Nat) (e : StreamE) : State :=
  let u := s.lookedUp st place pref j e
  let slot : RingSlot := { k := (s.stream st place pref).next, page := s.fetchPage st place pref j e, gen := 0, full := false, empty := false, fetchedAt := 0 }
  ((u.setStream st place pref { u.stream st place pref with slots := (u.stream st place pref).slots ++ [slot] }).showStream st place pref).sendFetch
    im st place (s.stream st place pref).next (s.fetchPage st place pref j e) e

theorem State.fetchStream_sends (h : s.Fetches st place pref im j e) (he : inExtent e.1 (s.stream st place pref).next = true)
    (ho : ¬ (streamOff e.1 (s.stream st place pref).next < 0 ∨
      ((s.runBuf j e.1.buf).2 : Int) < streamOff e.1 (s.stream st place pref).next + 65536))
    (hs : (s.lookedUp st place pref j e.1).skips (s.fetchPage st place pref j e.1) = false) :
    s.fetchStream st place pref =
      let v := s.fetchSent im st place pref j e.1
      let p := s.fetchPage st place pref j e.1
      if (v.page p).resident ∨ !isMediaPage p then v
      else (v.queueReads .stream (((bitsSet 16 (v.page p).mapped).map (fun i => 16 * p + i)).filter (fun b => !v.staged b))).bump
        F.depTierCtrCount 4 1 := by
  rw [State.fetchStream, h.owner]
  exact (if_neg h.guard).trans ((if_neg (by simp [he])).trans ((if_neg ho).trans (if_neg fun hk => Bool.false_ne_true (hs.symm.trans hk))))

/-! ## The data of a page -/

/-- The stream's request for page k is no longer on its way. -/
def State.fetchCome (s : State) (st place pref k : Nat) : State := s.arrived (fun x => x.req = some (fetchId st place pref k))

/-- The page of the stream's data, and the flash reads made for it, once the data has come. -/
def State.dataPage (s : State) (st place pref k j : Nat) (e : StreamE) : Nat := pageOf ((s.fetchCome st place pref k).streamAddr j e k)
def State.dataReads (s : State) (st place pref k j : Nat) (e : StreamE) : List (Nat × FRead) :=
  (s.fetchCome st place pref k).streamReads (s.dataPage st place pref k j e)

/-- The state without those flash reads. -/
def State.dataRead (s : State) (st place pref k j : Nat) (e : StreamE) : State :=
  let u := s.fetchCome st place pref k
  u.setFlash { u.flash with reads := u.flash.reads.filter (fun r => !(s.dataReads st place pref k j e).contains r) }

/-- The data of page k can be taken: its slot waits, its flash reads have ended, its share is served and no content write of it is in
progress. -/
structure State.TakesData (s : State) (st place pref k : Nat) (im : Image) (j : Nat) (e : StreamE × Nat) : Prop where
  owner : s.streamOwner st place pref = some (im, j, e)
  slot : ((s.fetchCome st place pref k).stream st place pref).slots.any (fun r => r.k = k && !r.full && !r.empty) = true
  done : ∀ r ∈ s.dataReads st place pref k j e.1, r.2.done = true
  up : (s.fetchCome st place pref k).stnUp st = true
  share : (s.fetchCome st place pref k).shareWaits (s.dataPage st place pref k j e.1) = false
  even : (s.fetchCome st place pref k).fetchGen (s.dataPage st place pref k j e.1) (s.dataReads st place pref k j e.1) % 2 = 0

variable {k : Nat}

theorem State.TakesData.guard (h : s.TakesData st place pref k im j e) :
    ¬ (!((s.fetchCome st place pref k).stream st place pref).slots.any (fun r => r.k = k && !r.full && !r.empty) ∨
      !(s.dataReads st place pref k j e.1).all (fun r => r.2.done) ∨ !(s.fetchCome st place pref k).stnUp st ∨
      (s.fetchCome st place pref k).shareWaits (s.dataPage st place pref k j e.1) ∨
      (s.fetchCome st place pref k).fetchGen (s.dataPage st place pref k j e.1) (s.dataReads st place pref k j e.1) % 2 = 1) := by
  have hd : (s.dataReads st place pref k j e.1).all (fun r => r.2.done) = true := List.all_eq_true.2 h.done
  have he := h.even
  rw [h.slot, hd, h.up, h.share]
  simp only [Bool.not_true, Bool.false_eq_true, false_or]
  omega

theorem State.streamData_fails (h : s.TakesData st place pref k im j e)
    (hf : (∃ r ∈ s.dataReads st place pref k j e.1, r.2.failed = true) ∨
      (s.dataRead st place pref k j e.1).readStatus (65536 * s.dataPage st place pref k j e.1) 65536 ≠ 0) :
    s.streamData st place pref k = (s.dataRead st place pref k j e.1).skipPage st place pref k := by
  rw [State.streamData, h.owner]
  exact (if_neg h.guard).trans (if_pos (hf.imp_left List.any_eq_true.2))

theorem State.streamData_lands (h : s.TakesData st place pref k im j e) (hf : ∀ r ∈ s.dataReads st place pref k j e.1, r.2.failed = false)
    (hr : (s.dataRead st place pref k j e.1).readStatus (65536 * s.dataPage st place pref k j e.1) 65536 = 0) :
    s.streamData st place pref k =
      let v := s.dataRead st place pref k j e.1
      let p := s.dataPage st place pref k j e.1
      let x := (s.fetchCome st place pref k).stream st place pref
      let w := v.setStream st place pref { x with slots := x.slots.map (fun r =>
        if r.k = k then { r with full := true, gen := (s.fetchCome st place pref k).fetchGen p (s.dataReads st place pref k j e.1), fetchedAt := v.cyc (islandOfStation st) } else r) }
      (w.platStore st (ringAt im st e k) (w.depotRead (65536 * p) 65536)).showStream st place pref := by
  rw [State.streamData, h.owner]
  refine (if_neg h.guard).trans (if_neg ?_)
  rintro (ha | hn)
  · obtain ⟨r, hm, hrf⟩ := List.any_eq_true.1 ha
    exact Bool.false_ne_true ((hf r hm).symm.trans hrf)
  · exact hn hr

end

/-! ## What leaves the jobs alone -/

theorem foldl_jobs {α : Type} {f : State → α → State} (h : ∀ (s : State) x, (f s x).jobs = s.jobs) (l : List α) (s : State) :
    (l.foldl f s).jobs = s.jobs := by
  induction l generalizing s with
  | nil => rfl
  | cons x l ih => exact (ih _).trans (h s x)

theorem State.job_congr {s t : State} (h : t.jobs = s.jobs) (j : Nat) : t.job j = s.job j := by
  rw [State.job, h, ← State.job]

theorem State.SameBytes.jobs {s t : State} (h : s.SameBytes t) : t.jobs = s.jobs := h.parts .jobs (by decide)

theorem State.drawBytes_jobs (s : State) (n : Nat) : (s.drawBytes n).2.jobs = s.jobs := s.drawBytes_onlyParts n .jobs (by decide)

/-- The data of an LBA goes out, in its pieces. -/
theorem sendPieces_jobs (ps : List (Nat × Nat)) (acc : State × Nat) :
    (ps.foldl (fun acc r => (acc.1.sendData r.1 (acc.1.depotRead acc.2 r.2) false, acc.2 + r.2)) acc).1.jobs = acc.1.jobs := by
  induction ps generalizing acc with
  | nil => rfl
  | cons r ps ih => exact ih _

/-- Data that cannot be read goes out as free bytes marked bad. -/
theorem sendSpoiled_jobs (ps : List (Nat × Nat)) (s : State) :
    (ps.foldl (fun s r => (s.drawBytes r.2).2.sendData r.1 (s.drawBytes r.2).1 true) s).jobs = s.jobs := by
  induction ps generalizing s with
  | nil => rfl
  | cons r ps ih => exact (ih _).trans (s.drawBytes_jobs r.2)

theorem State.sendLba_jobs (p : Nat) (s : State) (i : Nat) : (State.sendLba p s i).jobs = s.jobs := by
  simp only [State.sendLba]
  split
  · exact sendPieces_jobs _ _
  · refine (sendSpoiled_jobs _ _).trans ?_
    split <;> simp

theorem State.bridgeData_jobs (s : State) (d e sender : Nat) (class0 : Bool) (bytes : Nat) :
    (s.bridgeData d e sender class0 bytes).jobs = s.jobs := by
  unfold State.bridgeData
  split
  · rfl
  · exact foldl_jobs (fun (s : State) i =>
      show (s.bridgeOffer d e { sender := sender, class0 := class0, bytes := min 256 (bytes - 256 * i) }).jobs = s.jobs from rfl) _ _

theorem State.finish_jobs (s : State) (p status result : Nat) : (s.finish p status result).jobs = s.jobs :=
  s.finish_onlyParts p status result .jobs (by decide)

theorem State.readOut_jobs (s : State) (p : Nat) : (s.readOut p).jobs = s.jobs :=
  (State.finish_jobs _ _ _ _).trans ((foldl_jobs (fun _ _ => State.bridgeData_jobs _ _ _ _ _ _) _ _).trans
    (foldl_jobs (fun s i => State.sendLba_jobs p s i) _ _))

theorem State.readsResume_jobs (s : State) (g : Nat) : (s.readsResume g).jobs = s.jobs := by
  refine foldl_jobs (fun s p => ?_) _ _
  simp only
  split
  · split
    · exact State.readOut_jobs _ _
    · rfl
  · rfl

theorem State.frameFor_jobs (s : State) (p : Nat) : (s.frameFor p).jobs = s.jobs :=
  ((State.sameBytes_frameFor s s p).2 (State.sameBytes_refl s)).jobs

theorem State.resident_jobs (u : State) (g : Nat) : (if (u.page g).owed then u else
    ((u.setPage g { u.page g with promoting := false, resident := true }).touch g).readsResume g).jobs = u.jobs := by
  split
  · rfl
  · exact State.readsResume_jobs _ _

/-- A page that becomes resident resumes reads; no job changes. -/
theorem State.promoted_jobs (s : State) (g : Nat) : (s.promoted g).jobs = s.jobs := by
  unfold State.promoted
  split
  · rfl
  · refine (State.resident_jobs _ g).trans ?_
    split
    · exact s.frameFor_jobs g
    · rfl

/-! ## The layers of a window -/

theorem exec_windowLayerLoadStart (s : State) (j : JobId) : exec (.windowLayerLoadStart j) s = .next (s.startLayer j.val) := rfl
theorem exec_windowLayerLoaded (s : State) (j : JobId) : exec (.windowLayerLoaded j) s = .next (s.layerLoaded j.val) := rfl
theorem exec_windowLayerRelease (s : State) (j : JobId) : exec (.windowLayerRelease j) s = .next (s.releaseLayer j.val) := rfl

/-- The same layers are loading and loaded for a job, and the same one is next. -/
structure State.SameLayers (s t : State) (j : Nat) : Prop where
  next : (t.job j).nextLayer = (s.job j).nextLayer
  layers : (t.job j).layers = (s.job j).layers

theorem State.SameLayers.of_jobs {s t u : State} {j : Nat} (h : s.SameLayers t j) (k : u.jobs = t.jobs) : s.SameLayers u j :=
  ⟨by rw [State.job_congr k, h.next], by rw [State.job_congr k, h.layers]⟩

theorem State.SameLayers.foldl {α : Type} {f : State → α → State} {j : Nat} (h : ∀ (s : State) x, s.SameLayers (f s x) j) (l : List α)
    (s : State) : s.SameLayers (l.foldl f s) j := by
  induction l generalizing s with
  | nil => exact ⟨rfl, rfl⟩
  | cons x l ih => exact ⟨(ih _).next.trans (h s x).next, (ih _).layers.trans (h s x).layers⟩

/-- A page that is loaded is pinned for its job, whose layers stay. -/
theorem State.loadPage_layers (j layer : Nat) (s : State) (p : Nat) : s.SameLayers (State.loadPage j layer s p) j := by
  have hlook : (s.tierLookup p).jobs = s.jobs := ((State.sameBytes_tierLookup s s p).2 (State.sameBytes_refl s)).jobs
  let s1 := (s.tierLookup p).setDepot { (s.tierLookup p).depot with setAside := (s.tierLookup p).depot.setAside - 1 }
  have h1 : s1.job j = s.job j := State.job_congr hlook j
  let s2 := s1.setJob j { s1.job j with pinned := (s1.job j).pinned ++ [(layer, p)] }
  have h2 : s.SameLayers s2 j := by
    have hj : s2.job j = { s1.job j with pinned := (s1.job j).pinned ++ [(layer, p)] } := by
      rw [State.job_setJob, if_pos rfl]
    exact ⟨by rw [hj, h1], by rw [hj, h1]⟩
  have hframe : (s2.frameFor p).jobs = s2.jobs := s2.frameFor_jobs p
  change s.SameLayers (if (s2.page p).resident ∨ (s2.page p).promoting then _ else
    if (s2.page p).mapped = 0 then _ else _) j
  split
  · exact h2.of_jobs rfl
  · split
    · exact h2.of_jobs hframe
    · refine h2.of_jobs (Eq.trans ?_ hframe)
      exact (State.bump_jobs ..).trans ((State.sameBytes_queueReads _ _ _ _).2 (State.sameBytes_refl _)).jobs

section
variable {s : State} {j : Nat}

theorem State.startLayer_none (h : (s.job j).run = none) : s.startLayer j = s := by
  rw [State.startLayer, h]

theorem State.releaseLayer_none (h : (s.job j).run = none) : s.releaseLayer j = s := by
  rw [State.releaseLayer, h]

/-- The next layer is marked as loading. -/
def State.layerNext (s : State) (j : Nat) : State :=
  s.setJob j { s.job j with nextLayer := (s.job j).nextLayer + 1, layers := (s.job j).layers ++ [((s.job j).nextLayer, false)] }

theorem State.startLayer_loads {r : Run} (h : (s.job j).run = some r) (hw : r.image.group 7 ≠ [])
    (hn : (s.job j).nextLayer < wnLayers (r.image.group 7)) (ha : r.abandoned = none)
    (hl : ∀ e ∈ (s.job j).layers, e.2 = true ∧ e.1 % 3 ≠ (s.job j).nextLayer % 3) :
    s.startLayer j = ((s.layerNext j).layerPages j (r.image.group 7) (s.job j).nextLayer).foldl
      (State.loadPage j (s.job j).nextLayer) (s.layerNext j) := by
  rw [State.startLayer, h]
  refine if_neg ?_
  rintro (hk | hk | hk | hk)
  · exact hw hk
  · exact absurd hn (Nat.not_lt.2 hk)
  · simp [ha] at hk
  · obtain ⟨e, hm, he⟩ := List.any_eq_true.1 hk
    obtain ⟨hload, hplace⟩ := hl e hm
    simp [hload, hplace] at he

theorem State.startLayer_layers (ps : List Nat) (n : Nat) :
    ((ps.foldl (State.loadPage j n) (s.layerNext j)).job j).nextLayer = (s.job j).nextLayer + 1 ∧
      ((ps.foldl (State.loadPage j n) (s.layerNext j)).job j).layers = (s.job j).layers ++ [((s.job j).nextLayer, false)] := by
  obtain ⟨hn, hl⟩ := State.SameLayers.foldl (fun s p => State.loadPage_layers j n s p) ps (s.layerNext j)
  rw [hn, hl, State.layerNext, State.job_setJob, if_pos rfl]
  exact ⟨rfl, rfl⟩

theorem State.releaseLayer_eq {r : Run} (h : (s.job j).run = some r) : s.releaseLayer j =
    if (((s.job j).layers.filter (fun e => e.2)).map (·.1)).filter (fun n => s.layerPast j n r) = [] then s
    else s.releaseLayers j (fun l => ((((s.job j).layers.filter (fun e => e.2)).map (·.1)).filter (fun n => s.layerPast j n r)).contains l) := by
  rw [State.releaseLayer, h]

theorem State.layerLoaded_none (h : ∀ e ∈ (s.job j).layers, e.2 = true) : s.layerLoaded j = s := by
  have hf : (s.job j).layers.find? (fun e => !e.2) = none := List.find?_eq_none.2 fun e hm => by simp [h e hm]
  simp only [State.layerLoaded, hf]

/-- The pages pinned for a layer. -/
def State.layerPins (s : State) (j n : Nat) : List Nat := ((s.job j).pinned.filter (fun e => e.1 = n)).map (·.2)

theorem State.layerLoaded_eq {n : Nat} (h : (s.job j).layers.find? (fun e => !e.2) = some (n, false)) : s.layerLoaded j =
    if (s.layerPins j n).any (fun p => s.promoteOpen p) then s
    else ((s.layerPins j n).foldl (fun (s : State) p => s.promoted p) s).setJob j
      { ((s.layerPins j n).foldl (fun (s : State) p => s.promoted p) s).job j with layers := (((s.layerPins j n).foldl (fun (s : State) p => s.promoted p) s).job j).layers.map (fun e => if e.1 = n then (n, true) else e) } := by
  simp only [State.layerLoaded, h]
  rfl

theorem State.layerLoaded_waits {n : Nat} (h : (s.job j).layers.find? (fun e => !e.2) = some (n, false))
    (hp : ∃ p ∈ s.layerPins j n, s.promoteOpen p = true) : s.layerLoaded j = s :=
  (State.layerLoaded_eq h).trans (if_pos (List.any_eq_true.2 hp))

/-- Once none of its pages is still being read, the layer is loaded. -/
theorem State.layerLoaded_loaded {n : Nat} (h : (s.job j).layers.find? (fun e => !e.2) = some (n, false))
    (hp : ∀ p ∈ s.layerPins j n, s.promoteOpen p = false) : (n, true) ∈ ((s.layerLoaded j).job j).layers := by
  have hno : ¬ (s.layerPins j n).any (fun p => s.promoteOpen p) = true := fun ha => by
    obtain ⟨p, hm, ho⟩ := List.any_eq_true.1 ha
    exact Bool.false_ne_true ((hp p hm).symm.trans ho)
  rw [State.layerLoaded_eq h, if_neg hno, State.job_setJob, if_pos rfl]
  refine List.mem_map.2 ⟨(n, false), ?_, if_pos rfl⟩
  rw [State.job_congr (foldl_jobs State.promoted_jobs _ _)]
  exact List.mem_of_find?_eq_some h

end

/-- Settles O45. -/
theorem streamAndWindowEvents : Obligations.StreamAndWindowEvents := by
  unfold Obligations.StreamAndWindowEvents
  intro s
  refine ⟨fun st place pref => ⟨fun h => ⟨?_, fun k => ?_⟩, ?_⟩, fun j => ⟨fun h => ⟨?_, ?_⟩, ?_, fun h => ?_, ?_⟩⟩
  · rw [exec_streamFetch, State.fetchStream_unowned h]
  · rw [exec_streamFetchData, State.streamData_unowned h]
  · intro im j e ho hu x i
    refine ⟨fun hl hr hc => ?_, ?_⟩
    · have h : s.Fetches st.val place.val pref.val im j e := ⟨ho, hu, hl, hr, hc⟩
      refine ⟨fun he => ⟨_, (exec_streamFetch ..).trans (congrArg _ (State.fetchStream_ended h he)), ?_, ?_, ?_⟩, ?_⟩
      · rw [State.fget_fset_same _ _ _ _ (by decide)]; rfl
      · exact s.fset_onlyParts _ _ _
      · exact (s.onlyRegs_fset s _ rfl).2 (.refl s _)
      · intro he off p u
        refine ⟨fun hout => (exec_streamFetch ..).trans (congrArg _ (State.fetchStream_outside h he hout)), fun h0 h1 => ?_⟩
        have hin : ¬ (off < 0 ∨ ((s.runBuf j e.1.buf).2 : Int) < off + 65536) := by omega
        refine ⟨fun hs => (exec_streamFetch ..).trans (congrArg _ (State.fetchStream_skips h he hin hs)), ?_⟩
        intro hs y slot v
        have hsend := (exec_streamFetch s st place pref).trans (congrArg _ (State.fetchStream_sends h he hin hs))
        refine ⟨fun hp => hsend.trans (congrArg _ (if_pos (hp.imp_right (congrArg (!·))))), fun hp hm =>
          hsend.trans (congrArg _ (if_neg ?_))⟩
        rintro (hk | hk)
        · exact Bool.false_ne_true (hp.symm.trans hk)
        · exact Bool.false_ne_true ((congrArg (!·) hm).symm.trans hk)
    · intro k u x p rs v hslot hdone hup hshare heven
      have h : s.TakesData st.val place.val pref.val k im j e := ⟨ho, hslot, hdone, hup, hshare, heven⟩
      exact ⟨fun hf => (exec_streamFetchData ..).trans (congrArg _ (State.streamData_fails h hf)),
        fun hf hr => (exec_streamFetchData ..).trans (congrArg _ (State.streamData_lands h hf hr))⟩
  · rw [exec_windowLayerLoadStart, State.startLayer_none h]
  · rw [exec_windowLayerRelease, State.releaseLayer_none h]
  · intro r hr h w n
    refine ⟨fun hw hn ha hl => ?_, ?_⟩
    · exact ⟨_, (exec_windowLayerLoadStart ..).trans (congrArg _ (State.startLayer_loads hr hw hn ha hl)), rfl, State.startLayer_layers _ _⟩
    · intro gone
      exact ⟨fun hg => (exec_windowLayerRelease ..).trans (congrArg _ ((State.releaseLayer_eq hr).trans (if_pos hg))),
        fun hg => (exec_windowLayerRelease ..).trans (congrArg _ ((State.releaseLayer_eq hr).trans (if_neg hg)))⟩
  · rw [exec_windowLayerLoaded, State.layerLoaded_none h]
  · intro n h ps
    exact ⟨fun hp => (exec_windowLayerLoaded ..).trans (congrArg _ (State.layerLoaded_waits h hp)),
      fun hp => ⟨_, exec_windowLayerLoaded s j, State.layerLoaded_loaded h hp⟩⟩

end Sys2Proof.Machine
end

section
/-! SUPPORT. Copies: their issue, requests, data, confirms and completion (R251 to R257, R264 to R269). -/

namespace Sys2Proof.Machine

theorem State.lane_setLane_other (s : State) (st : Nat) {n k : Nat} (x : Lane) (h : k ≠ n) : (s.setLane st n x).lane st k = s.lane st k :=
  (s.lane_setLane st n k x).trans (if_neg h)

theorem State.ctx_setCtx_same (s : State) (st n j : Nat) (c : LaneCtx) : (s.setCtx st n j c).ctx st n j = c := by
  rw [State.ctx, State.lane_setCtx_same, Tbl.look_put_same]

theorem State.setCtx_onlyParts (s : State) (st n j : Nat) (c : LaneCtx) : s.OnlyParts (s.setCtx st n j c) [.stations] :=
  s.setLane_onlyParts _ _ _

theorem State.stn_congr {s t : State} (h : t.stations = s.stations) (st : Nat) : t.stn st = s.stn st := by
  rw [State.stn, h, ← State.stn]

theorem exec_copyIssue (s : State) (st : StationId) (n : LaneRowId) : exec (.copyIssue st n) s = .next (s.issueCopy st.val n.val) := rfl
theorem exec_copyRequestSend (s : State) (st : StationId) (n : LaneRowId) (seq : Nat) :
    exec (.copyRequestSend st n seq) s = .next (s.sendCopy st.val n.val seq) := rfl
theorem exec_copyRequestData (s : State) (st : StationId) (n : LaneRowId) (seq off : Nat) :
    exec (.copyRequestData st n seq off) s = .next (s.copyData st.val n.val seq off) := rfl
theorem exec_generationConfirm (s : State) (st : StationId) (n : LaneRowId) (seq p : Nat) :
    exec (.generationConfirm st n seq p) s = .next (s.confirm st.val n.val seq p) := rfl
theorem exec_copyComplete (s : State) (st : StationId) (n : LaneRowId) (seq : Nat) :
    exec (.copyComplete st n seq) s = .next (s.completeCopy st.val n.val seq) := rfl

/-! ## Issue -/

section
variable {s : State} {st n j : Nat} {r : Run}

theorem State.issueCopy_idle (h : s.laneRun st n = none) : s.issueCopy st n = s := by rw [State.issueCopy, h]

/-- The next descriptor of the lane row's copy program. -/
def State.copyNext (s : State) (st n j : Nat) (r : Run) : List Byte := descAt 32 (r.image.stnRec st 4 n) (s.ctx st n j).copyIdx

/-- The loops of the copy program, and their iterations now. -/
def copyLoops (st n : Nat) (r : Run) : List LoopE := loopsOf false (r.image.stnRec st 4 n)
def State.copyItersNow (s : State) (st n j : Nat) (r : Run) : List Nat := itersFor (copyLoops st n r) (s.ctx st n j).copyIters

/-- The copy that issues next, with its addresses and ceiling resolved. -/
def State.copyIssued (s : State) (st n j : Nat) (r : Run) : CopyRun :=
  let d := s.copyNext st n j r
  let i := (s.ctx st n j).copyIdx
  let ls := copyLoops st n r
  let k := (cdCeil d : Int) + steppedBy LoopE.cstep ls i (s.copyItersNow st n j r)
  { seq := (s.lane st n).seq, job := j, desc := d, len := cdLen d
    src := s.copyAt st j r.image d i ls (s.copyItersNow st n j r) false
    depot := (cdSrc d = 2 && !readsTable r.image st d) || cdSrc d = 3
    dst := s.copyAt st j r.image d i ls (s.copyItersNow st n j r) true
    ceil := ceilEff (tbCeil (r.image.group 6) k.toNat) (signed 4 (s.fget F.jobRerunCfgCeilAdj j)) }

/-- The lane row's context once the copy has taken its tokens. -/
def State.copySpent (s : State) (st n j : Nat) (r : Run) : LaneCtx :=
  let d := s.copyNext st n j r
  let c := s.ctx st n j
  let src := s.copyAt st j r.image d c.copyIdx (copyLoops st n r) (s.copyItersNow st n j r) false
  let layer := if readsWindow r.image st d then ((s.layerAt j (r.image.group 7) src (cdLen d)).map (· + 1)).getD c.layer else c.layer
  { c with tokens := c.tokens - cdTake d, layer := max c.layer layer }

/-- The program goes on to its next descriptor, or ends. -/
def LaneCtx.copyOn (c : LaneCtx) : Option (Nat × List Nat) → LaneCtx
  | some (i, it) => { c with copyIdx := i, copyIters := it }
  | none => { c with copyDone := true }

theorem LaneCtx.copyOn_tokens (c : LaneCtx) (x : Option (Nat × List Nat)) : (c.copyOn x).tokens = c.tokens := by
  cases x <;> rfl

/-- The copy joins the lane row's copies, and the context goes on. -/
def State.copyJoined (s : State) (st n j : Nat) (r : Run) : State :=
  (s.setLane st n { s.lane st n with copies := (s.lane st n).copies ++ [s.copyIssued st n j r], seq := (s.lane st n).seq + 1 }).setCtx st n j
    ((s.copySpent st n j r).copyOn (nextDesc (copyLoops st n r) (listDescs (r.image.stnRec st 4 n)) (s.ctx st n j).copyIdx (s.copyItersNow st n j r)))

theorem State.issueCopy_issues (h : s.laneRun st n = some (j, r)) (hm : s.mayIssue st n j r = true) (hd : (s.ctx st n j).copyDone = false)
    (hf : (s.ctx st n j).faulted = false) (ht : cdTake (s.copyNext st n j r) ≤ (s.ctx st n j).tokens) :
    s.issueCopy st n = s.copyJoined st n j r := by
  rw [State.issueCopy, h]
  refine (if_neg ?_).trans ?_
  · simp only [hm, hd, hf, Bool.not_true, Bool.false_eq_true, false_or]
    exact Nat.not_lt.2 ht
  · unfold State.copyJoined LaneCtx.copyOn
    rfl

theorem State.copyJoined_lane (s : State) (st n j : Nat) (r : Run) :
    ((s.copyJoined st n j r).lane st n).copies = (s.lane st n).copies ++ [s.copyIssued st n j r] ∧
      ((s.copyJoined st n j r).lane st n).seq = (s.lane st n).seq + 1 := by
  rw [State.copyJoined, State.lane_setCtx_same, State.lane_setLane_same]
  exact ⟨rfl, rfl⟩

theorem State.copyJoined_ctx (s : State) (st n j : Nat) (r : Run) : (s.copyJoined st n j r).ctx st n j = (s.copySpent st n j r).copyOn
    (nextDesc (copyLoops st n r) (listDescs (r.image.stnRec st 4 n)) (s.ctx st n j).copyIdx (s.copyItersNow st n j r)) :=
  State.ctx_setCtx_same _ _ _ _ _

theorem State.copyJoined_leaves (s : State) (st n j : Nat) (r : Run) : s.OnlyParts (s.copyJoined st n j r) [.stations] ∧
    (∀ x, x ≠ st → (s.copyJoined st n j r).stn x = s.stn x) ∧ ∀ k, k ≠ n → (s.copyJoined st n j r).lane st k = s.lane st k := by
  refine ⟨(s.setLane_onlyParts _ _ _).trans (State.setCtx_onlyParts _ _ _ _ _), fun x hx => ?_, fun k hk => ?_⟩
  · rw [State.copyJoined, State.setCtx, State.stn_setLane_other _ _ _ hx, State.stn_setLane_other _ _ _ hx]
  · rw [State.copyJoined, State.setCtx, State.lane_setLane_other _ _ _ hk, State.lane_setLane_other _ _ _ hk]

end

/-! ## Requests and their data -/

section
variable {s : State} {st n seq : Nat}

theorem State.sendCopy_none (h : (s.lane st n).copy seq = none) : s.sendCopy st n seq = s := by rw [State.sendCopy]; simp only [h]
theorem State.copyData_none (h : (s.lane st n).copy seq = none) (off : Nat) : s.copyData st n seq off = s := by
  rw [State.copyData, h]
theorem State.confirm_none (h : (s.lane st n).copy seq = none) (p : Nat) : s.confirm st n seq p = s := by rw [State.confirm, h]
theorem State.completeCopy_none (h : (s.lane st n).copy seq = none) : s.completeCopy st n seq = s := by rw [State.completeCopy, h]

variable {c : CopyRun} {q : Nat × Nat}

/-- The copy's request is counted, its slot held, and the lane row the last that sent on a route without EXPRESS. -/
def State.requestCounted (s : State) (st n : Nat) (c : CopyRun) (q : Nat × Nat) : State :=
  let u := ((s.putCopy st n (c.sendReq q) ((s.lane st n).slots + 1)).bump F.stnCopyCtrCount (5 * st + 1) 1).pulse st 33
  if s.copyExpress st c = true then u else u.setStn st { u.stn st with copyLane := n }

/-- The request reaches its source page, unless a ring slot holds it. -/
def State.reachSource (s : State) (st : Nat) (c : CopyRun) (q : Nat × Nat) : Option Nat → State
  | some p => if (s.ringSlot st c p).isSome then s else s.reachPage st c.job c.desc (c.src + q.1)
  | none => s

theorem State.reachSource_ring {p : Nat} (h : (s.ringSlot st c p).isSome = true) : s.reachSource st c q (some p) = s := if_pos h

theorem State.reachSource_page {p : Nat} (h : s.ringSlot st c p = none) :
    s.reachSource st c q (some p) = s.reachPage st c.job c.desc (c.src + q.1) := if_neg (by simp [h])

theorem State.sendCopy_sends (h : (s.lane st n).copy seq = some c) (hq : c.nextReq = some q) (hl : (s.lane st n).slots < 48)
    (hj : (s.lane st n).job = some c.job) (hu : s.stnUp st = true) (ht : s.sendTurn st n (s.copyExpress st c) = true) :
    s.sendCopy st n seq = State.goOn (islandOfStation st) ((s.requestCounted st n c q).reachSource st c q (c.reqPage q.1))
      (s.routeEntry st c (islandOfStation st) ⟨st, n, seq, q.1⟩ (s.srcPath st c q.1) []) := by
  rw [State.sendCopy]
  simp only [h, hq]
  refine (if_neg ?_).trans ?_
  · simp [hj, hu, ht, hl]
  · unfold State.reachSource State.requestCounted
    rfl

variable {im : Image}

/-- The data of a request that has gone its way is taken, or waits. -/
def State.dataServed (s : State) (st n : Nat) (im : Image) (c : CopyRun) (q : Nat × Nat) : State :=
  let page := c.reqPage q.1
  let ring : Bool := (page.bind (fun p => s.ringSlot st c p)).isSome
  let parts := pageParts (c.dst + q.1) (zeros q.2)
  let depot : Bool := cdDst c.desc = 2
  if !s.stnUp st then s
  else if depot ∧ isMediaPage (pageOf (c.dst + q.1)) ∧ s.fbit F.flsHealthExhausted 0 then s.faultCopy st n c 0x2003
  else if !ring ∧ (page.any (fun p => !s.pageReady p)) then
    (if s.planReads c.job (page.getD 0) then s else s.promote (page.getD 0))
  else if !ring ∧ page.any (s.pageAway c) then s
  else if depot ∧ parts.any (fun x => s.writeHeld (c.ident st n) (pageOf x.1)) then s
  else if depot ∧ parts.any (fun x => s.overBy (pageOf x.1) x.1 x.2.length) then
    (if c.limited then s else (s.putCopy st n { c with limited := true } (s.lane st n).slots).bump F.depTierCtrCount 5 1)
  else s.takeCopyData st n im c q

theorem State.copyData_eq (h : (s.lane st n).copy seq = some c) (hi : s.runImage c.job = some im)
    (hq : c.open_.find? (fun x => x.1 = q.1) = some q) :
    s.copyData st n seq q.1 = (s.arrived (fun e => e.req = some ⟨st, n, seq, q.1⟩)).dataServed st n im c q := by
  rw [State.copyData, h]
  simp only [Option.bind_some, hi, hq]
  rfl

theorem State.dataServed_exhausted (hu : s.stnUp st = true) (hd : cdDst c.desc = 2) (hm : isMediaPage (pageOf (c.dst + q.1)) = true)
    (he : s.fget F.flsHealthExhausted 0 = 1) : s.dataServed st n im c q = s.faultCopy st n c 0x2003 :=
  (if_neg (by simp [hu])).trans (if_pos ⟨by simp [hd], hm, by simp [State.fbit, he]⟩)

/-- The source page of the request is not there, and no ring slot holds it. -/
def State.sourceAway (s : State) (st : Nat) (c : CopyRun) (q : Nat × Nat) : Bool :=
  ((c.reqPage q.1).bind (fun p => s.ringSlot st c p)).isNone && (c.reqPage q.1).any (fun p => !s.pageReady p || s.pageAway c p)

theorem State.sourceAway_ready (h : s.sourceAway st c q = false) :
    ¬ (!((c.reqPage q.1).bind (fun p => s.ringSlot st c p)).isSome ∧ ((c.reqPage q.1).any (fun p => !s.pageReady p))) ∧
      ¬ (!((c.reqPage q.1).bind (fun p => s.ringSlot st c p)).isSome ∧ (c.reqPage q.1).any (s.pageAway c)) := by
  unfold State.sourceAway at h
  cases hb : (c.reqPage q.1).bind (fun p => s.ringSlot st c p) with
  | some x => simp
  | none =>
    rw [hb] at h
    cases hp : c.reqPage q.1 with
    | none => simp
    | some p => rw [hp] at h; simpa using h

theorem State.dataServed_taken (hu : s.stnUp st = true) (hd : cdDst c.desc ≠ 2) (ha : s.sourceAway st c q = false) :
    s.dataServed st n im c q = s.takeCopyData st n im c q := by
  obtain ⟨hready, hthere⟩ := State.sourceAway_ready ha
  have hdepot : ¬ (Decidable.decide (cdDst c.desc = 2) = true) := by simpa using hd
  exact (if_neg (by simp [hu])).trans ((if_neg fun h => hdepot h.1).trans ((if_neg hready).trans ((if_neg hthere).trans
    ((if_neg fun h => hdepot h.1).trans (if_neg fun h => hdepot h.1)))))

theorem State.dataServed_promotes {p : Nat} (hu : s.stnUp st = true) (hd : cdDst c.desc ≠ 2) (hp : c.reqPage q.1 = some p)
    (hr : (c.reqPage q.1).bind (fun p => s.ringSlot st c p) = none) (ha : s.pageReady p = false) :
    s.dataServed st n im c q = if s.planReads c.job p = true then s else s.promote p := by
  have hdepot : ¬ (Decidable.decide (cdDst c.desc = 2) = true) := by simpa using hd
  have haway : (c.reqPage q.1).any (fun p => !s.pageReady p) = true := by simp [hp, ha]
  refine (if_neg (by simp [hu])).trans ((if_neg fun h => hdepot h.1).trans ((if_pos ⟨by rw [hr]; rfl, haway⟩).trans ?_))
  rw [hp]; rfl

theorem State.dataServed_stored (hu : s.stnUp st = true) (he : s.fget F.flsHealthExhausted 0 = 0) (ha : s.sourceAway st c q = false)
    (hw : ∀ x ∈ pageParts (c.dst + q.1) (zeros q.2), s.writeHeld (c.ident st n) (pageOf x.1) = false)
    (ho : ∀ x ∈ pageParts (c.dst + q.1) (zeros q.2), s.overBy (pageOf x.1) x.1 x.2.length = false) :
    s.dataServed st n im c q = s.takeCopyData st n im c q := by
  obtain ⟨hready, hthere⟩ := State.sourceAway_ready ha
  have hspare : ¬ (s.fbit F.flsHealthExhausted 0 = true) := by simp [State.fbit, he]
  refine (if_neg (by simp [hu])).trans ((if_neg fun h => hspare h.2.2).trans ((if_neg hready).trans ((if_neg hthere).trans
    ((if_neg ?_).trans (if_neg ?_)))))
  · rintro ⟨-, hany⟩
    obtain ⟨x, hx, hh⟩ := List.any_eq_true.1 hany
    exact Bool.false_ne_true ((hw x hx).symm.trans hh)
  · rintro ⟨-, hany⟩
    obtain ⟨x, hx, hh⟩ := List.any_eq_true.1 hany
    exact Bool.false_ne_true ((ho x hx).symm.trans hh)

/-! ## Confirms and completion -/

theorem State.confirm_eq {p : Nat} {x : CopyPage} (h : (s.lane st n).copy seq = some c)
    (hx : c.pages.find? (fun x => x.page = p && !x.confirmed) = some x) (hw : c.written = true) :
    s.confirm st n seq p = if x.gen = some (s.genOf p) ∧ !x.old then
        (s.putCopy st n { c with pages := c.pages.map (fun y => if y.page = p then { y with confirmed := true } else y) }
          (s.lane st n).slots).endHold (c.ident st n) p
      else s.confirmFails st n c x := by
  rw [State.confirm, h]
  simp only [hx]
  exact if_neg (by simp [hw])

theorem State.endWrite_depot (s : State) (i p : Nat) : s.OnlyParts (s.endWrite i p) [.depot] := by
  unfold State.endWrite
  split
  · exact (s.setDepot_onlyParts _).trans (State.setDepot_onlyParts _ _)
  · exact .refl s _

/-- The holds and the writes of a copy end, before it leaves its lane row. -/
def State.copyEnded (s : State) (st n : Nat) (c : CopyRun) : State :=
  let s1 := c.pages.foldl (fun (s : State) p => s.endHold (c.ident st n) p.page) s
  ((s1.depot.pages.filter (fun e => e.2.writer = some (c.ident st n))).map (·.1)).foldl (fun (s : State) p => s.endWrite (c.ident st n) p) s1

theorem State.copyEnded_depot (s : State) (st n : Nat) (c : CopyRun) : s.OnlyParts (s.copyEnded st n c) [.depot] :=
  State.OnlyParts.trans (.foldl (fun _ _ => State.endHold_depot _ _ _) _ _) (.foldl (fun _ _ => State.endWrite_depot _ _ _) _ _)

theorem State.dropCopy_eq (s : State) (st n : Nat) (c : CopyRun) : s.dropCopy st n c = (s.copyEnded st n c).setLane st n
    { (s.copyEnded st n c).lane st n with copies := ((s.copyEnded st n c).lane st n).copies.filter (fun x => x.seq != c.seq), slots := ((s.copyEnded st n c).lane st n).slots - c.open_.length } :=
  rfl

theorem State.dropCopy_lane (s : State) (st n : Nat) (c : CopyRun) :
    ((s.dropCopy st n c).lane st n).copies = (s.lane st n).copies.filter (fun x => x.seq != c.seq) := by
  rw [State.dropCopy_eq, State.lane_setLane_same]
  exact congrArg (fun l : Lane => l.copies.filter (fun x => x.seq != c.seq))
    (State.lane_congr (s.copyEnded_depot st n c .stations (by decide)) st n)

theorem State.dropCopy_stn (s : State) {st k : Nat} (n : Nat) (c : CopyRun) (h : k ≠ st) : (s.dropCopy st n c).stn k = s.stn k := by
  rw [State.dropCopy_eq, State.stn_setLane_other _ _ _ h]
  exact State.stn_congr (s.copyEnded_depot st n c .stations (by decide)) k

theorem State.dropCopy_fget (s : State) (st n : Nat) (c : CopyRun) (f : Fld) (i : Nat) : (s.dropCopy st n c).fget f i = s.fget f i := by
  rw [State.dropCopy_eq, State.setLane_fget]
  exact (s.copyEnded_depot st n c).fget f i

/-- What a stream's new place changes: the station's streams and STN.STREAM_STAT. -/
structure State.StreamMoved (s t : State) (st : Nat) : Prop where
  lane : ∀ n, t.lane st n = s.lane st n
  stn : ∀ k, k ≠ st → t.stn k = s.stn k
  copies : ∀ i, t.fget F.stnCopyCtrCount i = s.fget F.stnCopyCtrCount i

theorem State.setStream_moved (s : State) (st place pref : Nat) (x : Stream) :
    s.StreamMoved ((s.setStream st place pref x).showStream st place pref) st := by
  have hstn : ((s.setStream st place pref x).showStream st place pref).stations = (s.setStream st place pref x).stations := by
    simp [State.showStream]
  refine ⟨fun n => ?_, fun k hk => ?_, fun i => ?_⟩
  · rw [State.lane_congr hstn, State.lane, State.setStream, State.stn_setStn_same, ← State.lane]
  · rw [State.stn_congr hstn]; exact s.stn_setStn_other _ hk
  · rw [State.showStream, State.fget_fset_of_apart _ _ _ _ (by decide), State.fget_fset_of_apart _ _ _ _ (by decide), State.setStream,
      State.setStn_fget]

theorem State.advance_moved (s : State) (st : Nat) (c : CopyRun) : s.StreamMoved (s.advance st c) st := by
  unfold State.advance
  split
  · exact ⟨fun _ => rfl, fun _ _ => rfl, fun _ => rfl⟩
  · simp only
    split
    · exact ⟨fun _ => rfl, fun _ _ => rfl, fun _ => rfl⟩
    · exact s.setStream_moved _ _ _ _

theorem State.completeCopy_completes (h : (s.lane st n).copy seq = some c) (hw : c.written = true)
    (hp : ∀ x ∈ c.pages, x.confirmed = true) (hu : s.stnUp st = true)
    (hd : ∀ e ∈ s.depot.pages, e.2.writer ≠ some (c.ident st n)) :
    s.completeCopy st n seq = ((s.dropCopy st n c).bump F.stnCopyCtrCount (5 * st) 1).advance st c := by
  have hconfirmed : c.pages.all (·.confirmed) = true := List.all_eq_true.2 hp
  have hwriter : s.depot.pages.any (fun e => e.2.writer = some (c.ident st n)) = false :=
    List.any_eq_false.2 fun e he => by simpa using hd e he
  rw [State.completeCopy, h]
  exact if_neg (by rw [hw, hconfirmed, hu, hwriter]; decide)

theorem State.completed_leaves (s : State) (st n : Nat) (c : CopyRun) :
    ((((s.dropCopy st n c).bump F.stnCopyCtrCount (5 * st) 1).advance st c).lane st n).copies =
        (s.lane st n).copies.filter (fun x => x.seq != c.seq) ∧
      (((s.dropCopy st n c).bump F.stnCopyCtrCount (5 * st) 1).advance st c).fget F.stnCopyCtrCount (5 * st) =
        (s.fget F.stnCopyCtrCount (5 * st) + 1) % 2 ^ F.stnCopyCtrCount.width ∧
      ∀ x, x ≠ st → (((s.dropCopy st n c).bump F.stnCopyCtrCount (5 * st) 1).advance st c).stn x = s.stn x := by
  have hmoved := ((s.dropCopy st n c).bump F.stnCopyCtrCount (5 * st) 1).advance_moved st c
  refine ⟨?_, ?_, fun x hx => ?_⟩
  · rw [hmoved.lane, State.lane_bump]; exact s.dropCopy_lane st n c
  · rw [hmoved.copies, State.fget_bump_same _ _ _ _ (by decide), s.dropCopy_fget]
  · rw [hmoved.stn x hx, State.stn_bump]; exact s.dropCopy_stn n c hx

end

/-- Settles O44. -/
theorem copyEvents : Obligations.CopyEvents := by
  unfold Obligations.CopyEvents
  intro s st n l
  refine ⟨fun h => ?_, ?_, fun seq h => ⟨?_, fun off => ?_, fun p => ?_, ?_⟩, fun seq c h => ⟨?_, ?_, ?_, fun hw hp hu hd => ?_⟩⟩
  · rw [exec_copyIssue, State.issueCopy_idle h]
  · intro j r h hm c body ls d iters hd hf ht
    obtain ⟨hcopies, hseq⟩ := s.copyJoined_lane st.val n.val j r
    refine ⟨_, (exec_copyIssue s st n).trans (congrArg _ (State.issueCopy_issues h hm hd hf ht)),
      ⟨_, hcopies, rfl, rfl, rfl, rfl, rfl, rfl, rfl, rfl⟩, hseq, ?_, fun hn => ?_, s.copyJoined_leaves st.val n.val j r⟩
    · rw [State.copyJoined_ctx, LaneCtx.copyOn_tokens]; rfl
    · have hnone : nextDesc (copyLoops st.val n.val r) (listDescs (r.image.stnRec st.val 4 n.val)) (s.ctx st.val n.val j).copyIdx
          (s.copyItersNow st.val n.val j r) = none := hn
      rw [State.copyJoined_ctx, hnone]; rfl
  · rw [exec_copyRequestSend, State.sendCopy_none h]
  · rw [exec_copyRequestData, State.copyData_none h]
  · rw [exec_generationConfirm, State.confirm_none h]
  · rw [exec_copyComplete, State.completeCopy_none h]
  · intro q hq hl hj hu ht u v sent
    have hsend := (exec_copyRequestSend s st n seq).trans (congrArg _ (State.sendCopy_sends h hq hl hj hu ht))
    refine ⟨fun hp => ?_, fun p hp hr => ?_, fun p hp hr => ?_⟩ <;> rw [hp] at hsend
    · exact hsend
    · exact hsend.trans (congrArg (fun w => Host.Outcome.next (State.goOn _ w _)) (State.reachSource_ring hr))
    · exact hsend.trans (congrArg (fun w => Host.Outcome.next (State.goOn _ w _)) (State.reachSource_page hr))
  · intro im q hi hq hu u page away parts hu'
    have hdata := (exec_copyRequestData s st n seq q.1).trans (congrArg _ (State.copyData_eq h hi hq))
    exact ⟨fun hd hm he => hdata.trans (congrArg _ (State.dataServed_exhausted hu' hd hm he)),
      fun hd ha => hdata.trans (congrArg _ (State.dataServed_taken hu' hd ha)),
      fun hd p hp hr ha => hdata.trans (congrArg _ (State.dataServed_promotes hu' hd hp hr ha)),
      fun _ he ha hw ho => hdata.trans (congrArg _ (State.dataServed_stored hu' he ha hw ho))⟩
  · intro p x hx hw
    have hconfirm := (exec_generationConfirm s st n seq p).trans (congrArg _ (State.confirm_eq h hx hw))
    refine ⟨fun hg ho => hconfirm.trans (congrArg _ (if_pos ⟨hg, by simp [ho]⟩)), fun hg => hconfirm.trans (congrArg _ (if_neg ?_))⟩
    rintro ⟨hsame, hyoung⟩
    exact hg.elim (fun hne => hne hsame) fun hold => by simp [hold] at hyoung
  · exact ⟨_, (exec_copyComplete s st n seq).trans (congrArg _ (State.completeCopy_completes h hw hp hu hd)), rfl,
      s.completed_leaves st.val n.val c⟩

end Sys2Proof.Machine
end

section
/-! SUPPORT. Passes of a lane row, their verdicts and spans (R48, R51, R83 to R87, R140 to R154), and the lane tail (R87, R88). -/

namespace Sys2Proof.Machine

theorem exec_passIssue (s : State) (st : StationId) (n : LaneRowId) : exec (.passIssue st n) s = .next (s.issuePass st.val n.val) := rfl
theorem exec_passVerdict (s : State) (st : StationId) (n : LaneRowId) : exec (.passVerdict st n) s = .next (s.takeVerdict st.val n.val) := rfl
theorem exec_widePassIssue (s : State) (st : StationId) (n : LaneRowId) : exec (.widePassIssue st n) s = .next (s.issueWide st.val n.val) := rfl
theorem exec_passSpanEnd (s : State) (st : StationId) (n : LaneRowId) : exec (.passSpanEnd st n) s = .next (s.spanEnd st.val n.val) := rfl
theorem exec_laneTailRow (s : State) (st : StationId) : exec (.laneTailRow st) s = .next (s.laneTail st.val) := rfl

/-! ## Front wait -/

section
variable (s : State) (st n j k : Nat)

theorem State.charge_lane (x : Nat) : (s.charge st j k).lane st x = s.lane st x := by
  simp only [State.charge, State.setBalance, State.lane, State.stn_setStn_same, State.stn_bump]

theorem State.charge_stn {x : Nat} (h : x ≠ st) : (s.charge st j k).stn x = s.stn x := by
  rw [State.charge, State.setBalance, State.stn_setStn_other _ _ h, State.stn_bump]

theorem State.charge_onlyParts : s.OnlyParts (s.charge st j k) [.regs, .stations] :=
  ((s.bump_onlyParts _ _ _).mono (by decide)).next (State.setBalance_onlyParts _ _ _ _)

/-- Front wait adds to the lane row's lag and leaves the rest of the lane row. -/
theorem State.frontWait_lane : (s.frontWait st n j k).lane st n = { s.lane st n with lag := (s.lane st n).lag + k } := by
  rw [State.frontWait, State.ahead, State.lane_setLane_same, State.charge_lane, State.lrAdd, State.lane_bump]

theorem State.frontWait_stn {x : Nat} (h : x ≠ st) : (s.frontWait st n j k).stn x = s.stn x := by
  rw [State.frontWait, State.ahead, State.stn_setLane_other _ _ _ h, State.charge_stn _ _ _ _ h, State.lrAdd, State.stn_bump]

theorem State.frontWait_onlyParts : s.OnlyParts (s.frontWait st n j k) [.regs, .stations] :=
  ((s.bump_onlyParts _ _ _).mono (by decide)).next (State.charge_onlyParts _ _ _ _) |>.next (State.setLane_onlyParts _ _ _ _)

theorem State.frontWait_counts : (s.frontWait st n j k).fget F.stnLrCtrCount (lrIdx st n 1) =
    (s.fget F.stnLrCtrCount (lrIdx st n 1) + k) % 2 ^ F.stnLrCtrCount.width := by
  rw [State.frontWait, State.ahead, State.setLane_fget, State.charge, State.setBalance, State.setStn_fget,
    State.fget_bump_of_apart _ _ _ _ (by decide), State.lrAdd, State.fget_bump_same _ _ _ _ (by decide)]

end

/-! ## Issue -/

section
variable {s : State} {st n j : Nat} {r : Run}

theorem State.issuePass_idle (h : s.laneRun st n = none) : s.issuePass st n = s := by rw [State.issuePass, h]
theorem State.issueWide_idle (h : s.laneRun st n = none) : s.issueWide st n = s := by rw [State.issueWide, h]
theorem State.takeVerdict_idle (h : s.laneRun st n = none) : s.takeVerdict st n = s := by
  rw [State.takeVerdict, h]
  cases (s.lane st n).undecided <;> rfl

/-- A pass that is not wide leaves under its verdict alone. -/
theorem State.widePassDone_narrow {i : Nat} (h : ∀ p ∈ (s.lane st n).passes, p.wide = none) : s.widePassDone st n i = s := by
  cases hp : (s.lane st n).passes[i]? with
  | none => rw [State.widePassDone, hp]
  | some p =>
    have hw : p.wide = none := h p (List.mem_of_getElem? hp)
    rw [State.widePassDone, hp]
    cases s.laneRun st n with
    | none => rfl
    | some x => exact if_pos (.inr (.inl (by rw [hw]; rfl)))

theorem State.widesDone_narrow (h : ∀ p ∈ (s.lane st n).passes, p.wide = none) : s.widesDone st n = s :=
  foldl_fixed fun _ _ => State.widePassDone_narrow h

theorem State.sidingRun_none_congr {s t : State} {j : Nat} (h : t.jobs = s.jobs) (hs : s.sidingRun j = none) : t.sidingRun j = none := by
  unfold State.sidingRun at hs ⊢
  rw [State.job_congr h]
  split at hs
  · cases hs
  · rfl

theorem State.askBlock_plain {b : Option Nat} (h : s.sidingRun j = none) : s.askBlock j b = s := by
  cases b with
  | none => rfl
  | some b => simp only [State.askBlock, h]

/-- The pass that issues next, with its descriptor and the adjustment of the moment. -/
def State.passIssued (s : State) (st n j : Nat) (r : Run) : PassRun :=
  let c := s.ctx st n j
  { job := j, desc := s.nextPass st n j r, idx := c.passIdx, iters := itersFor (loopsOf true (r.image.stnRec st 3 n)) c.passIters
    block := c.blocks.head?, ceilAdj := signed 4 (s.fget F.jobRerunCfgCeilAdj j) }

/-- The pass joins the lane row's passes after its front wait, and the context goes on. -/
def State.passJoined (s : State) (st n j : Nat) (r : Run) : State :=
  let s1 := s.frontWait st n j ((s.lane st n).feedWait (s.nextPass st n j r))
  (s1.setLane st n { s1.lane st n with passes := (s1.lane st n).passes ++ [s.passIssued st n j r], fed := false }).setCtx st n j (s.ctxAfter st n j r)

/-- The lane row's next pass may issue. -/
structure State.PassReady (s : State) (st n j : Nat) (r : Run) : Prop where
  run : s.laneRun st n = some (j, r)
  may : s.mayIssue st n j r = true
  narrow : ∀ p ∈ (s.lane st n).passes, p.wide = none
  more : (s.ctx st n j).passDone = false
  wides : (s.ctx st n j).wides = []
  undecided : ((s.lane st n).passes.filter (fun p => !p.verdict)).length ≤ 1
  groups : s.groupsOpen st n j (s.nextPass st n j r) = false
  tile : s.firstTileCopy st n j (s.nextPass st n j r) = none
  plain : s.sidingRun j = none

theorem State.issuePass_issues (h : s.PassReady st n j r) : s.issuePass st n = s.passJoined st n j r := by
  rw [State.issuePass, h.run]
  simp only [State.widesDone_narrow h.narrow]
  refine (if_neg ?_).trans ?_
  · simp [h.may, h.more, h.wides, h.undecided, h.groups, h.tile]
  · rw [State.askBlock_plain (State.sidingRun_none_congr ((s.frontWait_onlyParts st n j _) .jobs (by decide)) h.plain)]
    rfl

theorem State.passJoined_lane (s : State) (st n j : Nat) (r : Run) :
    ((s.passJoined st n j r).lane st n).passes = (s.lane st n).passes ++ [s.passIssued st n j r] := by
  simp only [State.passJoined, State.lane_setCtx_same, State.lane_setLane_same, State.frontWait_lane]

theorem State.passJoined_leaves (s : State) (st n j : Nat) (r : Run) :
    (s.passJoined st n j r).ctx st n j = s.ctxAfter st n j r ∧
      (s.passJoined st n j r).fget F.stnLrCtrCount (lrIdx st n 1) =
        (s.fget F.stnLrCtrCount (lrIdx st n 1) + (s.lane st n).feedWait (s.nextPass st n j r)) % 2 ^ F.stnLrCtrCount.width ∧
      s.OnlyParts (s.passJoined st n j r) [.regs, .stations] ∧ ∀ x, x ≠ st → (s.passJoined st n j r).stn x = s.stn x := by
  refine ⟨State.ctx_setCtx_same _ _ _ _ _, ?_, ?_, fun x hx => ?_⟩
  · rw [State.passJoined, State.setCtx, State.setLane_fget, State.setLane_fget, State.frontWait_counts]
  · exact (s.frontWait_onlyParts st n j _).next (State.setLane_onlyParts _ _ _ _) |>.next (State.setCtx_onlyParts _ _ _ _ _)
  · rw [State.passJoined, State.setCtx, State.stn_setLane_other _ _ _ hx, State.stn_setLane_other _ _ _ hx, State.frontWait_stn _ _ _ _ _ hx]

/-! ## Wide passes -/

/-- The wide pass that issues next. -/
def State.wideIssued (s : State) (j : Nat) (d : List Byte) (first m : Nat) : PassRun :=
  { job := j, desc := d, idx := 0, iters := [], wide := some (first, m), ceilAdj := signed 4 (s.fget F.jobRerunCfgCeilAdj j) }

/-- It joins the lane row's passes after its front wait. -/
def State.wideJoined (s : State) (st n j : Nat) (d : List Byte) (first m : Nat) (rest : List (List Byte × Nat × Nat)) : State :=
  let s1 := s.frontWait st n j (if first = 0 then rerunLead d else 0)
  (s1.setLane st n { s1.lane st n with passes := (s1.lane st n).passes ++ [s.wideIssued j d first m] }).setCtx st n j
    { s1.ctx st n j with wides := rest }

variable {d : List Byte} {first m : Nat} {rest : List (List Byte × Nat × Nat)}

theorem State.issueWide_issues (h : s.laneRun st n = some (j, r)) (hm : s.mayIssue st n j r = true)
    (hn : ∀ p ∈ (s.lane st n).passes, p.wide = none) (hw : (s.ctx st n j).wides = (d, first, m) :: rest)
    (hu : (s.lane st n).undecided = none) : s.issueWide st n = s.wideJoined st n j d first m rest := by
  rw [State.issueWide, h]
  simp only [hw, State.widesDone_narrow hn]
  exact if_neg (by simp [hm, hu])

theorem State.frontWait_ctx (s : State) (st n j k : Nat) : (s.frontWait st n j k).ctx st n j = s.ctx st n j := by
  rw [State.ctx, State.frontWait_lane]
  rfl

theorem State.wideJoined_leaves (s : State) (st n j : Nat) (d : List Byte) (first m : Nat) (rest : List (List Byte × Nat × Nat)) :
    ((s.wideJoined st n j d first m rest).lane st n).passes = (s.lane st n).passes ++ [s.wideIssued j d first m] ∧
      (s.wideJoined st n j d first m rest).ctx st n j = { s.ctx st n j with wides := rest } ∧
      s.OnlyParts (s.wideJoined st n j d first m rest) [.regs, .stations] := by
  refine ⟨?_, ?_, ?_⟩
  · simp only [State.wideJoined, State.lane_setCtx_same, State.lane_setLane_same, State.frontWait_lane]
  · simp only [State.wideJoined, State.ctx_setCtx_same, State.frontWait_ctx]
  · exact (s.frontWait_onlyParts st n j _).next (State.setLane_onlyParts _ _ _ _) |>.next (State.setCtx_onlyParts _ _ _ _ _)

end

/-! ## The verdict -/

section
variable {s : State} {st n j i : Nat} {r : Run} {p : PassRun}

/-- The oldest undecided pass of the lane row is narrow, of the run in progress, and all it reads is there. -/
structure State.VerdictDue (s : State) (st n j : Nat) (r : Run) (i : Nat) (p : PassRun) : Prop where
  run : s.laneRun st n = some (j, r)
  oldest : (s.lane st n).undecided = some i
  pass : (s.lane st n).passes[i]? = some p
  narrow : p.wide = none
  job : p.job = j
  up : s.stnUp st = true
  copies : s.awaitsCopy st n j p.desc = false
  depot : s.awaitsDepot j p.block = false

/-- The pass's reads, and the state with them reported and the pass's cycles counted. -/
def State.verdictReads (s : State) (st n : Nat) (r : Run) (p : PassRun) : Bool × State := s.passReadsOk st n (r.image.at_ st) p
def State.verdictTaken (s : State) (st n : Nat) (r : Run) (p : PassRun) : State :=
  ((s.verdictReads st n r p).2.chargePass st n p).drained st n

/-- The state with the pass's rows counted, on which it is judged. -/
def State.verdictRows (s : State) (st n j : Nat) (r : Run) (p : PassRun) : State :=
  ((s.verdictTaken st n r p).keepFront st n p (s.passRows st n (r.image.at_ st) p)).countRows st n j (s.passRows st n (r.image.at_ st) p).2

theorem State.takeVerdict_eq (h : s.VerdictDue st n j r i p) : s.takeVerdict st n =
    if !(s.verdictReads st n r p).1 then ((s.verdictTaken st n r p).setPass st n i { p with verdict := true }).abandonRun j 0x2001
    else ((s.verdictRows st n j r p).judge st n i j (r.image.at_ st) p (s.passRows st n (r.image.at_ st) p).2).feedNext st n := by
  rw [State.takeVerdict, h.oldest, h.run]
  simp only [h.pass]
  exact if_neg (by simp [h.narrow, h.job, h.up, h.copies, h.depot])

variable {at_ : StnImage} {rs : List RowAcc}

/-- What the rows of a pass clipped, over which its budget decides. -/
def clipTotal (rs : List RowAcc) : Nat := (rs.map (fun r => r.clips + r.early)).sum

theorem State.judge_within (h : clipTotal rs ≤ pdBudget p.desc) : s.judge st n i j at_ p rs = s.release st n i at_ p rs := if_pos h

theorem State.judge_over (h : pdBudget p.desc < clipTotal rs) : s.judge st n i j at_ p rs =
    if !pdRerun p.desc then (((s.clipAdd j 1 1).pulse st 48).clipAdd j 3 1).release st n i at_ p rs
    else if (s.ctx st n j).reruns < (s.ctx st n j).limit then ((s.clipAdd j 1 1).pulse st 48).callRerun st n i j p
    else ((((((s.clipAdd j 1 1).pulse st 48).clipAdd j 4 1).release st n i at_ p rs).recordStatus j (pdM p.desc) 0x4003).rerunRefused st n j p
      (clipTotal rs)) := if_neg (Nat.not_le.2 h)

end

/-! ## The end of a span -/

section
variable {s : State} {st n : Nat}

theorem State.spanEnd_none (h : (s.lane st n).passes = []) : s.spanEnd st n = s := by
  simp [State.spanEnd, h]

/-- The lane row without its oldest pass. -/
def State.spanLeft (s : State) (st n : Nat) (rest : List PassRun) : State :=
  s.setLane st n { s.lane st n with passes := rest, acc := if rest = [] then [] else (s.lane st n).acc }

/-- The pass of a run in progress on the station adds a token to its lane row's context. -/
def State.spanToken (s : State) (st n : Nat) (p : PassRun) (rest : List PassRun) : State :=
  let live : Bool := ((s.job p.job).run.map (fun r => r.started.contains st)).getD false
  if live ∧ p.lastPart then
    (s.spanLeft st n rest).setCtx st n p.job { (s.spanLeft st n rest).ctx st n p.job with tokens := ((s.spanLeft st n rest).ctx st n p.job).tokens + 1 }
  else s.spanLeft st n rest

/-- A pass judged, whose rows have left, ends its span. -/
def State.spanOver (s : State) (st n : Nat) (p : PassRun) (rest : List PassRun) : State :=
  if p.lastPart then (s.spanToken st n p rest).lrAdd st n 15 1 else s.spanToken st n p rest

variable {p : PassRun} {rest : List PassRun}

theorem State.spanEnd_ends (h : (s.lane st n).passes = p :: rest) (hv : p.verdict = true) (hr : p.rows = []) (hu : s.stnUp st = true) :
    s.spanEnd st n = s.spanOver st n p rest := by
  have hwide : ((s.lane st n).passes.head?.map (fun p => p.wide.isSome && !p.verdict)).getD false = false := by simp [h, hv]
  unfold State.spanEnd
  rw [if_neg (by rw [hwide]; exact Bool.false_ne_true)]
  simp only [h]
  exact if_neg (by simp [hv, hr, hu])

theorem State.spanLeft_ctx (s : State) (st n j : Nat) (rest : List PassRun) : (s.spanLeft st n rest).ctx st n j = s.ctx st n j := by
  rw [State.ctx, State.spanLeft, State.lane_setLane_same]
  rfl

/-- What the end of a span leaves of a state: everything but registers and this lane row. -/
structure State.LaneOnly (s t : State) (st n : Nat) : Prop where
  parts : s.OnlyParts t [.regs, .stations]
  stn : ∀ x, x ≠ st → t.stn x = s.stn x
  lane : ∀ k, k ≠ n → t.lane st k = s.lane st k

theorem State.LaneOnly.trans {s t u : State} {st n : Nat} (h : s.LaneOnly t st n) (k : t.LaneOnly u st n) : s.LaneOnly u st n :=
  ⟨h.parts.trans k.parts, fun x hx => (k.stn x hx).trans (h.stn x hx), fun x hx => (k.lane x hx).trans (h.lane x hx)⟩

theorem State.setLane_laneOnly (s : State) (st n : Nat) (x : Lane) : s.LaneOnly (s.setLane st n x) st n :=
  ⟨(s.setLane_onlyParts _ _ _).mono (by decide), fun _ h => s.stn_setLane_other _ _ h, fun _ h => s.lane_setLane_other _ _ h⟩

theorem State.lrAdd_laneOnly (s : State) (st n i k : Nat) : s.LaneOnly (s.lrAdd st n i k) st n :=
  ⟨(s.bump_onlyParts _ _ _).mono (by decide), fun x _ => s.stn_bump _ _ _ x, fun x _ => s.lane_bump _ _ _ st x⟩

theorem State.spanToken_laneOnly (s : State) (st n : Nat) (p : PassRun) (rest : List PassRun) : s.LaneOnly (s.spanToken st n p rest) st n := by
  simp only [State.spanToken]
  split
  · exact (s.setLane_laneOnly _ _ _).trans (State.setLane_laneOnly _ _ _ _)
  · exact s.setLane_laneOnly _ _ _

theorem State.spanOver_laneOnly (s : State) (st n : Nat) (p : PassRun) (rest : List PassRun) : s.LaneOnly (s.spanOver st n p rest) st n := by
  unfold State.spanOver
  split
  · exact (s.spanToken_laneOnly _ _ _ _).trans (State.lrAdd_laneOnly _ _ _ _ _)
  · exact s.spanToken_laneOnly _ _ _ _

theorem State.spanOver_lane (s : State) (st n : Nat) (p : PassRun) (rest : List PassRun) :
    (s.spanOver st n p rest).lane st n = (s.spanToken st n p rest).lane st n := by
  unfold State.spanOver
  split
  · exact State.lane_bump _ _ _ _ _ _
  · rfl

theorem State.spanToken_passes (s : State) (st n : Nat) (p : PassRun) (rest : List PassRun) :
    ((s.spanToken st n p rest).lane st n).passes = rest := by
  simp only [State.spanToken]
  split
  · rw [State.lane_setCtx_same, State.spanLeft, State.lane_setLane_same]
  · rw [State.spanLeft, State.lane_setLane_same]

theorem State.spanOver_tokens (hl : ∃ r, (s.job p.job).run = some r ∧ r.started.contains st = true) (hp : p.lastPart = true) :
    (s.spanOver st n p rest).ctx st n p.job = { s.ctx st n p.job with tokens := (s.ctx st n p.job).tokens + 1 } := by
  obtain ⟨r, hr, hs⟩ := hl
  have hlive : (((s.job p.job).run.map (fun r => r.started.contains st)).getD false) = true := by simpa [hr] using hs
  rw [State.ctx, State.spanOver_lane, ← State.ctx, State.spanToken, if_pos ⟨hlive, hp⟩, State.ctx_setCtx_same, State.spanLeft_ctx]

theorem State.spanToken_fget (s : State) (st n : Nat) (p : PassRun) (rest : List PassRun) (f : Fld) (i : Nat) :
    (s.spanToken st n p rest).fget f i = s.fget f i := by
  simp only [State.spanToken]
  split
  · rw [State.setCtx, State.setLane_fget, State.spanLeft, State.setLane_fget]
  · rw [State.spanLeft, State.setLane_fget]

theorem State.spanOver_counts (hp : p.lastPart = true) : (s.spanOver st n p rest).fget F.stnLrCtrCount (lrIdx st n 15) =
    (s.fget F.stnLrCtrCount (lrIdx st n 15) + 1) % 2 ^ F.stnLrCtrCount.width := by
  rw [State.spanOver, if_pos hp, State.lrAdd, State.fget_bump_same _ _ _ _ (by decide), s.spanToken_fget]

end

/-! ## The lane tail -/

section
variable {s : State} {st : Nat} {row : TailRow}

theorem State.laneTail_none (h : (s.stn st).nextTail = none) : s.laneTail st = s := by rw [State.laneTail, h]

/-- The lane tail takes the row out of its queue. -/
def State.rowTaken (s : State) (st : Nat) (row : TailRow) : State :=
  (s.setStn st { s.stn st with tail := (s.stn st).tail.erase row, tailLane := row.lane }).pulse st 44

theorem State.rowTaken_job (s : State) (st : Nat) (row : TailRow) (j : Nat) : (s.rowTaken st row).job j = s.job j := by
  refine State.job_congr ?_ j
  unfold State.rowTaken State.pulse
  split <;> rfl

theorem State.laneTail_idle (h : (s.stn st).nextTail = some row) (hr : (s.job row.job).run = none) :
    s.laneTail st = (s.rowTaken st row).feedAll st row.lane := by
  have hj : ((s.rowTaken st row).job row.job).run = none := by rw [State.rowTaken_job, hr]
  rw [State.laneTail, h]
  change State.feedAll (match ((s.rowTaken st row).job row.job).run, row.block with
    | none, _ => _
    | some _, some _ => _
    | some _, none => _) st row.lane = _
  rw [hj]
  rfl

theorem State.laneTail_siding {r : Run} {b : Nat} (h : (s.stn st).nextTail = some row) (hr : (s.job row.job).run = some r)
    (hb : row.block = some b) : s.laneTail st =
      (((s.rowTaken st row).sidingRow row b).lrAdd st row.lane 14 (row.vals.filter (isNan fp32)).length).feedAll st row.lane := by
  have hj : ((s.rowTaken st row).job row.job).run = some r := by rw [State.rowTaken_job, hr]
  rw [State.laneTail, h]
  change State.feedAll (match ((s.rowTaken st row).job row.job).run, row.block with
    | none, _ => _
    | some _, some _ => _
    | some _, none => _) st row.lane = _
  rw [hj, hb]
  rfl

/-- The byte of the platform where the run's image begins, and the read of what the row's operation takes from there. -/
def tailBase (r : Run) (st : Nat) : Nat := 64 * (r.image.at_ st).platform
def State.tailReads (s : State) (st : Nat) (row : TailRow) (r : Run) : Bool × State :=
  (s.rowTaken st row).stationRead st 33 ((tailInputs row.desc row.row).map (fun a => ((tailBase r st + a.1) / 8, ceilDiv a.2 8)))

theorem State.laneTail_plain {r : Run} (h : (s.stn st).nextTail = some row) (hr : (s.job row.job).run = some r) (hb : row.block = none) :
    s.laneTail st = (if (s.tailReads st row r).1 then (s.tailReads st row r).2.abandonRun row.job 0x2001
      else (s.tailReads st row r).2.tailRow st (tailBase r st) row).feedAll st row.lane := by
  have hj : ((s.rowTaken st row).job row.job).run = some r := by rw [State.rowTaken_job, hr]
  rw [State.laneTail, h]
  change State.feedAll (match ((s.rowTaken st row).job row.job).run, row.block with
    | none, _ => _
    | some _, some _ => _
    | some _, none => _) st row.lane = _
  rw [hj, hb]
  rfl

end

/-- Settles O43. -/
theorem passEvents : Obligations.PassEvents := by
  unfold Obligations.PassEvents
  intro s st n
  refine ⟨fun h => ⟨?_, ?_, ?_⟩, ?_, fun h => ?_, fun p rest h hv hr hu => ?_, fun h => ?_, ?_⟩
  · rw [exec_passIssue, State.issuePass_idle h]
  · rw [exec_passVerdict, State.takeVerdict_idle h]
  · rw [exec_widePassIssue, State.issueWide_idle h]
  · intro j r h l c d at_
    refine ⟨fun hm hn => ⟨fun hd hw hu hg ht hs => ?_, fun desc first m rest hw hu => ?_⟩, ?_⟩
    · have hready : s.PassReady st.val n.val j r := ⟨h, hm, hn, hd, hw, hu, hg, ht, hs⟩
      exact ⟨_, (exec_passIssue s st n).trans (congrArg _ (State.issuePass_issues hready)),
        ⟨_, s.passJoined_lane _ _ _ _, rfl, rfl, rfl, rfl, rfl, rfl⟩, s.passJoined_leaves _ _ _ _⟩
    · obtain ⟨hpasses, hctx, hparts⟩ := s.wideJoined_leaves st.val n.val j desc first m rest
      exact ⟨_, (exec_widePassIssue s st n).trans (congrArg _ (State.issueWide_issues h hm hn hw hu)),
        ⟨_, hpasses, rfl, rfl, rfl, rfl, rfl⟩, hctx, hparts⟩
    · intro i p ho hp hw hj hu hc hd ok u
      have hdue : s.VerdictDue st.val n.val j r i p := ⟨h, ho, hp, hw, hj, hu, hc, hd⟩
      have hverdict := (exec_passVerdict s st n).trans (congrArg _ (State.takeVerdict_eq hdue))
      refine ⟨fun hok => hverdict.trans (congrArg _ (if_pos (congrArg (!·) hok))), fun hok => ?_⟩
      have hjudged := hverdict.trans (congrArg Host.Outcome.next (if_neg fun hbad =>
        Bool.false_ne_true ((congrArg (!·) hok).symm.trans hbad)))
      intro rs v total w c ran
      have hran {x : State} (hx : v.judge st.val n.val i j at_ p rs.2 = x) : ran x := hx ▸ hjudged
      refine ⟨fun hb => hran (State.judge_within hb), fun hb => ⟨fun hre => ?_, fun hre hl => ?_, fun hre hl => ?_⟩⟩
      · exact hran ((State.judge_over hb).trans (if_pos (congrArg (!·) hre)))
      · exact hran ((State.judge_over hb).trans ((if_neg (by rw [hre]; decide)).trans (if_pos hl)))
      · exact hran ((State.judge_over hb).trans ((if_neg (by rw [hre]; decide)).trans (if_neg (Nat.not_lt.2 hl))))
  · rw [exec_passSpanEnd, State.spanEnd_none h]
  · obtain ⟨hparts, hstn, hlane⟩ := s.spanOver_laneOnly st.val n.val p rest
    refine ⟨_, (exec_passSpanEnd s st n).trans (congrArg _ (State.spanEnd_ends h hv hr hu)), ?_, State.spanOver_tokens,
      State.spanOver_counts, hparts, hstn, hlane⟩
    rw [State.spanOver_lane]; exact s.spanToken_passes _ _ _ _
  · rw [exec_laneTailRow, State.laneTail_none h]
  · intro row h u
    refine ⟨fun hr => (exec_laneTailRow s st).trans (congrArg _ (State.laneTail_idle h hr)), fun r hr => ⟨fun b hb =>
      (exec_laneTailRow s st).trans (congrArg _ (State.laneTail_siding h hr hb)), ?_⟩⟩
    intro hb base ok
    have hplain := (exec_laneTailRow s st).trans (congrArg _ (State.laneTail_plain h hr hb))
    exact ⟨fun hok => hplain.trans (congrArg (fun w : State => Host.Outcome.next (w.feedAll st.val row.lane)) (if_pos hok)),
      fun hok => hplain.trans (congrArg (fun w : State => Host.Outcome.next (w.feedAll st.val row.lane))
        (if_neg fun hbad => Bool.false_ne_true (hok.symm.trans hbad)))⟩

end Sys2Proof.Machine
end

section
/-! SUPPORT. Searches, mutating commands and scans get their contexts and go on (R324 to R336, R339, R343, R354 to R356). -/

namespace Sys2Proof.Machine

theorem exec_walkerContextAssign (s : State) (p : Nat) :
    exec (.walkerContextAssign p) s = .next (if s.nextSearch = some p then s.assignWalker p else s.searchData p) := rfl
theorem exec_listArrival (s : State) (st : StationId) (c : Fin 16) (i : Nat) :
    exec (.listArrival st c i) s = .next (s.listArrives st.val c.val i) := rfl
theorem exec_rerankVectorArrival (s : State) (st : StationId) (c : Fin 16) (i : Nat) :
    exec (.rerankVectorArrival st c i) s = .next (s.vectorArrives st.val c.val i) := rfl
theorem exec_indexPutResume (s : State) (p : Nat) : exec (.indexPutResume p) s = .next
    (if (sqOpcode (s.cmd p).entry = 0x0C ∨ sqOpcode (s.cmd p).entry = 0x0B) ∧ s.open p then s.mutatorData p else s) := rfl
theorem exec_scanContextAssign (s : State) (p : Nat) :
    exec (.scanContextAssign p) s = .next (if s.nextScan = some p then s.assignScan p else s.scanLoads p) := rfl
theorem exec_scanWorkUnit (s : State) (p : Nat) (st : StationId) : exec (.scanWorkUnit p st) s = .next (s.scanGoes p st.val) := rfl

theorem bool_not_true {b : Bool} (h : b = false) : (!b) = true := by rw [h]; rfl

theorem State.walker_setWalker_same (s : State) (st c : Nat) (x : Walker) : (s.setWalker st c x).walker st c = x := by
  rw [State.setWalker, State.walker, State.stn_setStn_same, Tbl.look_put_same]

theorem State.walker_congr {s t : State} (h : t.stations = s.stations) (st c : Nat) : t.walker st c = s.walker st c := by
  rw [State.walker, State.stn_congr h, ← State.walker]

/-! ## A search gets its context -/

section
variable {s : State} {p st c : Nat}

/-- The search's root page has been asked for; and, once it is there, the search waits no longer. -/
def State.rootAsked (s : State) (p : Nat) : State := s.usePage (seRoot (s.cmd p).entry)
def State.waitsNoMore (s : State) (p : Nat) : State :=
  (s.rootAsked p).setSearch { (s.rootAsked p).search with waiting := (s.rootAsked p).search.waiting.filter (· != p) }

/-- The root as its page has it, and what refuses the search. -/
def State.searchRoot (s : State) (p : Nat) : Root := (s.waitsNoMore p).readRoot (seRoot (s.cmd p).entry)
def State.searchRefused (s : State) (p : Nat) : Nat := (s.waitsNoMore p).rootStatus (seJob (s.cmd p).entry) (s.searchRoot p)

/-- The context that the search gets. -/
def State.newWalker (s : State) (p : Nat) : Walker :=
  let e := (s.cmd p).entry
  let r := s.searchRoot p
  let k := (s.waitsNoMore p).searchk (seJob e)
  { live := true, place := p, root := r.at_, idHigh := r.idHigh, sFirst := r.sFirst, sCount := r.sCount, graph := r.graph
    effort := min 4096 (if byteField e 48 4 = 0 then skEffort k else byteField e 48 4)
    width0 := if seBeam e = 0 then skBeam k else seBeam e }

/-- The station `st` has a free context `c` for the search, whose turn it is. -/
structure State.SearchTurn (s : State) (p st c : Nat) : Prop where
  next : s.nextSearch = some p
  station : s.searchStation (seJob (s.cmd p).entry) = some st
  free : s.freeWalker st = some c

/-- What the search does with its context once the root's page is there. -/
def State.searchAssigned (s : State) (p st c : Nat) : State :=
  let e := (s.cmd p).entry
  let u := s.waitsNoMore p
  let r := s.searchRoot p
  if s.searchRefused p ≠ 0 then u.finish p (s.searchRefused p) 0
  else if seDepot e ∧ !inDepot (seQuery e) r.vec then u.finish p 0x1001 0
  else
    let s1 := (u.setWalker st c (s.newWalker p)).bump F.stnWalkBusy st 1
    if !seDepot e then s1.setCmd p { s1.cmd p with ranges := [(seQuery e, r.vec)], want := r.vec, got := [] }
    else s1.startWhenReady st c

theorem State.SearchTurn.exec (h : s.SearchTurn p st c) : exec (.walkerContextAssign p) s = .next
    (if !(s.rootAsked p).pageReady (pageOf (seRoot (s.cmd p).entry)) then s.rootAsked p else s.searchAssigned p st c) := by
  rw [exec_walkerContextAssign, if_pos h.next, State.assignWalker]
  simp only [h.station, h.free]
  rfl

theorem State.SearchTurn.waits (h : s.SearchTurn p st c) (hr : (s.rootAsked p).pageReady (pageOf (seRoot (s.cmd p).entry)) = false) :
    Machine.exec (.walkerContextAssign p) s = .next (s.rootAsked p) :=
  h.exec.trans (congrArg _ (if_pos (bool_not_true hr)))

theorem State.SearchTurn.ready (h : s.SearchTurn p st c) (hr : (s.rootAsked p).pageReady (pageOf (seRoot (s.cmd p).entry)) = true) :
    Machine.exec (.walkerContextAssign p) s = .next (s.searchAssigned p st c) :=
  h.exec.trans (congrArg _ (if_neg (by rw [hr]; decide)))

/-- The context is live and the host is asked for the query. -/
def State.queryAsked (s : State) (p st c : Nat) : State :=
  let s1 := ((s.waitsNoMore p).setWalker st c (s.newWalker p)).bump F.stnWalkBusy st 1
  s1.setCmd p { s1.cmd p with ranges := [(seQuery (s.cmd p).entry, (s.searchRoot p).vec)], want := (s.searchRoot p).vec, got := [] }

theorem State.searchAssigned_host (hb : s.searchRefused p = 0) (hd : seDepot (s.cmd p).entry = false) :
    s.searchAssigned p st c = s.queryAsked p st c :=
  (if_neg fun h => h hb).trans ((if_neg fun h => Bool.false_ne_true (hd.symm.trans h.1)).trans (if_pos (bool_not_true hd)))

theorem State.queryAsked_cmd (s : State) (p st c : Nat) : ((s.queryAsked p st c).cmd p).ranges = [(seQuery (s.cmd p).entry, (s.searchRoot p).vec)] ∧
    ((s.queryAsked p st c).cmd p).want = (s.searchRoot p).vec ∧ ((s.queryAsked p st c).cmd p).got = [] := by
  rw [State.queryAsked, State.cmd_setCmd_same]
  exact ⟨rfl, rfl, rfl⟩

theorem State.queryAsked_walker (s : State) (p st c : Nat) : (s.queryAsked p st c).walker st c = s.newWalker p := by
  rw [State.queryAsked, State.walker_congr (State.setCmd_stations ..), State.walker_congr (State.bump_stations ..),
    State.walker_setWalker_same]

theorem State.queryAsked_waiting (s : State) (p st c : Nat) : p ∉ (s.queryAsked p st c).search.waiting := by
  rw [State.queryAsked, State.setCmd_search, State.bump_search, State.setWalker_search, State.waitsNoMore, State.setSearch_search]
  simp

theorem State.queryAsked_onlyParts (s : State) (p st c : Nat) :
    (s.waitsNoMore p).OnlyParts (s.queryAsked p st c) [.regs, .host, .stations] :=
  ((State.setStn_onlyParts _ _ _).mono (by decide)).next (State.bump_onlyParts _ _ _ _) |>.next (State.setHost_onlyParts _ _)

/-! ## A search that has its context; siding batches -/

theorem State.searchData_none (h : s.walkerOf p = none) : s.searchData p = s := by rw [State.searchData, h]
theorem State.searchData_has (h : s.walkerOf p = some (st, c)) : s.searchData p = s.startWhenReady st c := by rw [State.searchData, h]

theorem exec_walkerContextAssign_other (h : s.nextSearch ≠ some p) : exec (.walkerContextAssign p) s = .next (s.searchData p) :=
  congrArg Host.Outcome.next (if_neg h)

theorem exec_sidingBatchTimeout {root : Nat} {b : SidingBatch} (h : s.search.batches.find? (fun b => b.root = root) = some b) :
    exec (.sidingBatchTimeout root) s = .next (s.closeSiding b) := by
  change Host.Outcome.next (match s.search.batches.find? (fun b => b.root = root) with
    | some _ => _
    | none => _) = _
  rw [h]

theorem exec_sidingBatchTimeout_none {root : Nat} (h : ∀ b ∈ s.search.batches, b.root ≠ root) :
    exec (.sidingBatchTimeout root) s = .next s := by
  have hf : s.search.batches.find? (fun b => b.root = root) = none := List.find?_eq_none.2 fun b hb => by simpa using h b hb
  change Host.Outcome.next (match s.search.batches.find? (fun b => b.root = root) with
    | some _ => _
    | none => _) = _
  rw [hf]

/-! ## Lists and vectors that come -/

/-- The walker of a context, and the root that it walks. -/
def State.walkRoot (s : State) (st c : Nat) : Root := s.readRoot (s.walker st c).root

/-- The context is live for a search that is open, on a station in service. -/
structure State.Walks (s : State) (st c : Nat) : Prop where
  live : (s.walker st c).live = true
  open_ : s.open (s.walker st c).place = true
  up : s.stnUp st = true

theorem State.Walks.guard (h : s.Walks st c) : ¬ (!(s.walker st c).live ∨ !s.open (s.walker st c).place ∨ !s.stnUp st) := by
  simp [h.live, h.open_, h.up]

variable {i g : Nat} {x : WalkReq}

theorem State.listArrives_dead (h : (s.walker st c).live = false) : s.listArrives st c i = s := if_pos (.inl (bool_not_true h))
theorem State.vectorArrives_dead (h : (s.walker st c).live = false) : s.vectorArrives st c i = s := if_pos (.inl (bool_not_true h))

theorem State.listArrives_unasked (h : s.Walks st c) (hx : (s.walker st c).asked.find? (fun x => x.id = i) = none) :
    s.listArrives st c i = s.resumeWalker st c := by
  refine (if_neg h.guard).trans ?_
  change (match (s.walker st c).asked.find? (fun x => x.id = i) with
    | none => _
    | some _ => _) = _
  rw [hx]

theorem State.vectorArrives_unasked (h : s.Walks st c) (hx : (s.walker st c).rerank.find? (fun x => x.id = i) = none) :
    s.vectorArrives st c i = s.resumeWalker st c := by
  refine (if_neg h.guard).trans ?_
  change (match (s.walker st c).rerank.find? (fun x => x.id = i) with
    | none => _
    | some _ => _) = _
  rw [hx]

/-- The list of candidate `i` is taken, and its reads counted. -/
def State.listTaken (s : State) (st c i : Nat) : State × Nat × Bool :=
  (s.endHold (copyIdent st (64 + c) i) (pageOf ((s.walkRoot st c).listAt (s.walker st c).level i))).takeBytes
    ((s.walkRoot st c).listAt (s.walker st c).level i) (s.walkRoot st c).listBytes
def State.listCounted (s : State) (st c i : Nat) : State :=
  ((s.listTaken st c i).1.srch 4 (s.listTaken st c i).2.1).srch 8 (bit (!(s.listTaken st c i).2.2))

/-- The walker with the list. -/
def State.withList (s : State) (st c i : Nat) : Walker :=
  let w := s.walker st c
  { w with
    asked := w.asked.filter (fun z => z.id != i)
    here := w.here ++ [(i, if (s.listTaken st c i).2.2 then some ((s.listCounted st c i).readList (s.walkRoot st c) w.level i) else none)]
    flash := w.flash + (s.listTaken st c i).2.1 }

/-- The list of candidate `i` has come, served at generation `g`. -/
structure State.ListCame (s : State) (st c i : Nat) (x : WalkReq) (g : Nat) : Prop where
  walks : s.Walks st c
  asked : (s.walker st c).asked.find? (fun x => x.id = i) = some x
  came : s.cameBytes ((s.walkRoot st c).listAt (s.walker st c).level i) (s.walkRoot st c).listBytes = true
  gen : s.servedGen x ((s.walkRoot st c).listAt (s.walker st c).level i) (s.walkRoot st c).listBytes = some g

theorem State.ListCame.eq (h : s.ListCame st c i x g) : s.listArrives st c i =
    let a := (s.walkRoot st c).listAt (s.walker st c).level i
    let w := s.walker st c
    let y := s.readAgain st c x a (s.walkRoot st c).listBytes
    if g ≠ s.genOf (pageOf a) then
      y.1.setWalker st c { w with asked := w.asked.map (fun z => if z.id = i then y.2 else z) }
    else ((s.listCounted st c i).setWalker st c (s.withList st c i)).resumeWalker st c := by
  refine (if_neg h.walks.guard).trans ?_
  change (match (s.walker st c).asked.find? (fun x => x.id = i) with
    | none => _
    | some x => if !s.cameBytes ((s.walkRoot st c).listAt (s.walker st c).level i) (s.walkRoot st c).listBytes then s
      else match s.servedGen x ((s.walkRoot st c).listAt (s.walker st c).level i) (s.walkRoot st c).listBytes with
        | none => _
        | some _ => _) = _
  rw [h.asked]
  simp only [h.came, h.gen, Bool.not_true, Bool.false_eq_true, if_false]
  rfl

/-- The vector of candidate `i` is taken and counted. -/
def State.vecTaken (s : State) (st c i : Nat) : State × Nat × Bool :=
  (s.endHold (copyIdent st (64 + c) i) (pageOf ((s.walkRoot st c).vecAt i))).takeBytes ((s.walkRoot st c).vecAt i) (s.walkRoot st c).vec
def State.vecCounted (s : State) (st c i : Nat) : State :=
  if (s.vecTaken st c i).2.2 then (s.vecTaken st c i).1.srch 6 1 else (s.vecTaken st c i).1.srch 8 1

/-- The walker with the candidate's exact distance. -/
def State.withVector (s : State) (st c i : Nat) : Walker :=
  let w := s.walker st c
  let r := s.walkRoot st c
  let d := exactDist r.metric r.fmt w.query ((s.vecCounted st c i).depotRead (r.vecAt i) r.vec) r.dims
  { w with
    rerank := w.rerank.filter (fun z => z.id != i)
    flash := w.flash + (s.vecTaken st c i).2.1
    scored := if (s.vecTaken st c i).2.2 then w.scored ++ [(d, i, false)] else w.scored }

theorem State.vectorArrives_taken (h : s.Walks st c) (hx : (s.walker st c).rerank.find? (fun x => x.id = i) = some x)
    (hc : s.cameBytes ((s.walkRoot st c).vecAt i) (s.walkRoot st c).vec = true)
    (hg : s.servedGen x ((s.walkRoot st c).vecAt i) (s.walkRoot st c).vec = some g)
    (he : g = s.genOf (pageOf ((s.walkRoot st c).vecAt i))) :
    s.vectorArrives st c i = ((s.vecCounted st c i).setWalker st c (s.withVector st c i)).searchEnds st c := by
  refine (if_neg h.guard).trans ?_
  change (match (s.walker st c).rerank.find? (fun x => x.id = i) with
    | none => _
    | some x => if !s.cameBytes ((s.walkRoot st c).vecAt i) (s.walkRoot st c).vec then s
      else match s.servedGen x ((s.walkRoot st c).vecAt i) (s.walkRoot st c).vec with
        | none => _
        | some g => if g ≠ s.genOf (pageOf ((s.walkRoot st c).vecAt i)) then _ else _) = _
  rw [hx]
  simp only [hc, hg, Bool.not_true, Bool.false_eq_true, if_false]
  exact if_neg fun hne => hne he

/-! ## Mutating commands and scans -/

theorem exec_indexPutResume_closed (h : s.open p = false) : exec (.indexPutResume p) s = .next s :=
  congrArg Host.Outcome.next (if_neg fun k => Bool.false_ne_true (h.symm.trans k.2))

theorem exec_indexPutResume_open {root : Nat} (ho : sqOpcode (s.cmd p).entry = 0x0C ∨ sqOpcode (s.cmd p).entry = 0x0B)
    (h : s.open p = true) (hr : s.mutatorRoot p = some root) : exec (.indexPutResume p) s = .next
      (if s.firstMutator root = some p then s.mutate root s.search.mutators.length else s) := by
  rw [exec_indexPutResume, if_pos ⟨ho, h⟩, State.mutatorData, hr]

theorem exec_shuntPrepare {x : Shunt} (h : s.search.shunts.find? (fun x => x.place = p) = some x) :
    exec (.shuntPrepare p) s = .next (s.shuntStep x.root) := by
  change Host.Outcome.next (match s.search.shunts.find? (fun x => x.place = p) with
    | none => _
    | some _ => _) = _
  rw [h]

theorem exec_shuntPrepare_none (h : ∀ x ∈ s.search.shunts, x.place ≠ p) : exec (.shuntPrepare p) s = .next s := by
  have hf : s.search.shunts.find? (fun x => x.place = p) = none := List.find?_eq_none.2 fun x hx => by simpa using h x hx
  change Host.Outcome.next (match s.search.shunts.find? (fun x => x.place = p) with
    | none => _
    | some _ => _) = _
  rw [hf]

/-- The scan has a context on each of its stations, and waits no longer. -/
def State.scanPlaced (s : State) (p : Nat) (k : ScanCmd) : State :=
  let sts := s.scanStations (scJob (s.cmd p).entry)
  let s1 := (sts.foldl (State.openScanCtx p) s).setScan { k with stations := sts }
  s1.setScans { s1.scan with waiting := s1.scan.waiting.filter (· != p) }

theorem exec_scanContextAssign_next {k : ScanCmd} (h : s.nextScan = some p) (hk : s.scanOf p = some k) :
    exec (.scanContextAssign p) s = .next (s.scanPlaced p k) := by
  rw [exec_scanContextAssign, if_pos h, State.assignScan, hk]
  rfl

theorem State.openScanCtx_onlyParts (p : Nat) (s : State) (st : Nat) : s.OnlyParts (State.openScanCtx p s st) [.stations] := by
  unfold State.openScanCtx
  split
  · exact .refl s _
  · exact s.setStn_onlyParts _ _

theorem State.scanPlaced_leaves (s : State) (p : Nat) (k : ScanCmd) : p ∉ (s.scanPlaced p k).scan.waiting ∧
    s.OnlyParts (s.scanPlaced p k) [.stations, .scan] ∧
    (s.scanPlaced p k).stations = ((s.scanStations (scJob (s.cmd p).entry)).foldl (State.openScanCtx p) s).stations := by
  refine ⟨by simp [State.scanPlaced], ?_, rfl⟩
  exact ((State.OnlyParts.foldl (fun s st => State.openScanCtx_onlyParts p s st) _ s).mono (by decide)).trans
    (((State.setScans_onlyParts _ _).trans (State.setScans_onlyParts _ _)).mono (by decide))

theorem exec_scanContextAssign_closed (h : s.nextScan ≠ some p) (ho : s.open p = false) : exec (.scanContextAssign p) s = .next s :=
  congrArg Host.Outcome.next ((if_neg h).trans (if_pos (.inr (bool_not_true ho))))

theorem State.scanGoes_none (h : s.scanOf p = none) : s.scanGoes p st = s := by rw [State.scanGoes, h]

/-- The station's part of a scan that is open and has its contexts, with its units' pages served as far as they have come. -/
structure State.ScanOn (s : State) (p st : Nat) (k : ScanCmd) : Prop where
  scan : s.scanOf p = some k
  station : k.stations.contains st = true
  up : s.stnUp st = true
  open_ : s.open p = true
  unready : (s.cmd p).ready = false

/-- The station's reader has room for one more unit. -/
def ScanCmd.more (k : ScanCmd) (e : List Byte) (st : Nat) : Prop := k.next < scanUnits e ∧ k.inHand st < 8

theorem State.ScanOn.guard {k : ScanCmd} (h : s.ScanOn p st k) :
    ¬ (!k.stations.contains st ∨ !s.stnUp st ∨ !s.open p ∨ (s.cmd p).ready) := by
  rw [h.station, h.up, h.open_, h.unready]
  decide

theorem ScanCmd.more_iff (k : ScanCmd) (e : List Byte) (st : Nat) :
    (Decidable.decide (k.next < scanUnits e) && Decidable.decide (k.inHand st < 8)) = true ↔ k.more e st := by
  simp [ScanCmd.more]

variable {k : ScanCmd}

theorem State.ScanOn.idle (h : s.ScanOn p st k) (hu : (s.serveUnits k st).2.out.find? (fun u => u.station = st) = none) :
    s.scanGoes p st = if (Decidable.decide ((s.serveUnits k st).2.next < scanUnits (s.cmd p).entry) && Decidable.decide ((s.serveUnits k st).2.inHand st < 8)) = true
      then (s.serveUnits k st).1.takeUnit (s.serveUnits k st).2 st
      else ((s.serveUnits k st).1.closePacket (s.cmd p).entry st p false).scanEnds p := by
  rw [State.scanGoes, h.scan]
  refine (if_neg h.guard).trans ?_
  change (match (s.serveUnits k st).2.out.find? (fun u => u.station = st) with
    | some _ => _
    | none => _) = _
  rw [hu]

theorem State.ScanOn.inHand {u : UnitOut} (h : s.ScanOn p st k) (hu : (s.serveUnits k st).2.out.find? (fun u => u.station = st) = some u) :
    s.scanGoes p st = if u.pages.all (fun y => y.gen.isSome) then ((s.serveUnits k st).1.tryUnit (s.serveUnits k st).2 st u).scanEnds p
      else if (Decidable.decide ((s.serveUnits k st).2.next < scanUnits (s.cmd p).entry) && Decidable.decide ((s.serveUnits k st).2.inHand st < 8)) = true
      then (s.serveUnits k st).1.takeUnit (s.serveUnits k st).2 st
      else (s.serveUnits k st).1.setScan (s.serveUnits k st).2 := by
  rw [State.scanGoes, h.scan]
  refine (if_neg h.guard).trans ?_
  change (match (s.serveUnits k st).2.out.find? (fun u => u.station = st) with
    | some _ => _
    | none => _) = _
  rw [hu]

theorem not_all_gen {ys : List ScanPage} (h : ∃ y ∈ ys, y.gen.isSome = false) : ¬ ys.all (fun y => y.gen.isSome) = true := by
  obtain ⟨y, hy, hg⟩ := h
  exact fun ha => Bool.false_ne_true (hg.symm.trans (List.all_eq_true.1 ha y hy))

end

/-- Settles O47. -/
theorem searchAndScanEvents : Obligations.SearchAndScanEvents := by
  unfold Obligations.SearchAndScanEvents
  intro s
  refine ⟨?_, ?_, fun p hn hw => ?_, fun p st c hn hw => ?_, fun root h => exec_sidingBatchTimeout_none h, ?_,
    fun p => ⟨fun h => exec_indexPutResume_closed h, fun root ho h hr => ⟨fun hf => ?_, fun hf => ?_⟩, fun x hx => exec_shuntPrepare hx,
      fun h => exec_shuntPrepare_none h⟩,
    fun p => ⟨fun k hn hk => ?_, fun hn ho => exec_scanContextAssign_closed hn ho, fun st => ⟨fun h => ?_, ?_⟩⟩⟩
  · intro p st c hn hs hc e t u r
    have h : s.SearchTurn p st c := ⟨hn, hs, hc⟩
    refine ⟨fun hr => h.waits hr, fun hr => ⟨fun hb => ?_, fun hb hd hq => ?_, fun hb hd => ?_⟩⟩
    · exact (h.ready hr).trans (congrArg _ (if_pos hb))
    · exact (h.ready hr).trans (congrArg _ ((if_neg fun k => k hb).trans (if_pos ⟨hd, bool_not_true hq⟩)))
    · obtain ⟨hranges, hwant, hgot⟩ := s.queryAsked_cmd p st c
      refine ⟨_, (h.ready hr).trans (congrArg _ (State.searchAssigned_host hb hd)), hranges, hwant, hgot, ?_,
        s.queryAsked_waiting p st c, s.queryAsked_onlyParts p st c⟩
      rw [State.queryAsked_walker]
      exact ⟨rfl, rfl, rfl, rfl, rfl, rfl⟩
  · intro root b hb u
    exact ⟨fun hr => (exec_sidingBatchTimeout hb).trans (congrArg _ (if_neg fun k => Bool.false_ne_true (hr.symm.trans k))),
      fun hr => (exec_sidingBatchTimeout hb).trans (congrArg _ (if_pos hr))⟩
  · rw [exec_walkerContextAssign_other hn, State.searchData_none hw]
  · rw [exec_walkerContextAssign_other hn, State.searchData_has hw]
  · intro st c i w r
    refine ⟨fun hl => ⟨?_, ?_⟩, fun hl ho hu => ?_⟩
    · rw [exec_listArrival, State.listArrives_dead hl]
    · rw [exec_rerankVectorArrival, State.vectorArrives_dead hl]
    · have h : s.Walks st.val c.val := ⟨hl, ho, hu⟩
      refine ⟨fun hx => ?_, fun x g hx hc hg => ?_, fun hx => ?_, ?_⟩
      · rw [exec_listArrival, State.listArrives_unasked h hx]
      · have hcame : s.ListCame st.val c.val i x g := ⟨h, hx, hc, hg⟩
        have e := (exec_listArrival s st c i).trans (congrArg _ hcame.eq)
        exact ⟨fun hne => e.trans (congrArg _ (if_pos hne)), fun heq => e.trans (congrArg _ (if_neg fun hne => hne heq))⟩
      · rw [exec_rerankVectorArrival, State.vectorArrives_unasked h hx]
      · intro x g hx hc hg he
        exact (exec_rerankVectorArrival s st c i).trans (congrArg _ (State.vectorArrives_taken h hx hc hg he))
  · exact (exec_indexPutResume_open ho h hr).trans (congrArg _ (if_pos hf))
  · exact (exec_indexPutResume_open ho h hr).trans (congrArg _ (if_neg hf))
  · exact ⟨_, exec_scanContextAssign_next hn hk, s.scanPlaced_leaves p k⟩
  · rw [exec_scanWorkUnit, State.scanGoes_none h]
  · intro k hk hst hu ho hr x c more
    have h : s.ScanOn p st.val k := ⟨hk, hst, hu, ho, hr⟩
    refine ⟨fun hf => ?_, fun u hf => ?_⟩
    · have e := (exec_scanWorkUnit s p st).trans (congrArg _ (h.idle hf))
      exact ⟨fun hm => e.trans (congrArg _ (if_pos ((ScanCmd.more_iff _ _ _).2 hm))),
        fun hm => e.trans (congrArg _ (if_neg fun k => hm ((ScanCmd.more_iff _ _ _).1 k)))⟩
    · have e := (exec_scanWorkUnit s p st).trans (congrArg _ (h.inHand hf))
      refine ⟨fun hg => e.trans (congrArg _ (if_pos (List.all_eq_true.2 hg))), fun hg => ?_⟩
      have e' := e.trans (congrArg _ (if_neg (not_all_gen hg)))
      exact ⟨fun hm => e'.trans (congrArg _ (if_pos ((ScanCmd.more_iff _ _ _).2 hm))),
        fun hm => e'.trans (congrArg _ (if_neg fun k => hm ((ScanCmd.more_iff _ _ _).1 k)))⟩

end Sys2Proof.Machine
end

section
/-! SUPPORT. Packets that branch lines receive, and the steps of a binding (R402 to R404, R411, R415, R417, R419). -/

namespace Sys2Proof.Machine

/-! ## Packets taken in and discarded -/

section
variable {s : State} {b : Nat} {k : Packet}

theorem State.takeIn_line (s : State) (b : Nat) (k : Packet) : ((s.takeIn b k).line b).received = (s.line b).received.erase k := by
  rw [State.takeIn, State.line_setLine_same]

theorem State.discardIn_leaves (s : State) (b : Nat) (k : Packet) : s.OnlyParts (s.discardIn b k) [.regs, .mesh] ∧
    ((s.discardIn b k).line b).received = (s.line b).received.erase k ∧
    (s.discardIn b k).fget F.brlLineCtrCount (13 * b + 9) = (s.fget F.brlLineCtrCount (13 * b + 9) + 1) % 2 ^ F.brlLineCtrCount.width := by
  refine ⟨?_, ?_, ?_⟩
  · exact ((s.setMesh_onlyParts _).mono (by decide)).next (State.bump_onlyParts _ _ _ _)
  · rw [State.discardIn, State.lineCtr_line]; exact s.takeIn_line b k
  · rw [State.discardIn, State.lineCtr, State.fget_bump_same _ _ _ _ (by decide), State.takeIn, State.setLine_fget]

variable {ok : List Byte → Bool} {run : Packet → State → State}

theorem State.onPacket_none (h : s.packetOn b ok = none) : s.onPacket b ok run = s := by rw [State.onPacket, h]

theorem State.onPacket_down (h : s.packetOn b ok = some k) (hl : s.lineSt b ≠ 5) : s.onPacket b ok run = s.discardIn b k := by
  rw [State.onPacket, h]; exact if_neg hl

theorem State.onPacket_up (h : s.packetOn b ok = some k) (hl : s.lineSt b = 5) : s.onPacket b ok run = run k s := by
  rw [State.onPacket, h]; exact if_pos hl

end

/-! ## What each kind of packet does -/

/-- A DISPATCH or RETURN that this module takes for its step, or discards. -/
def State.stepPacket (take : State → List Byte → State) (b : Nat) (k : Packet) (s : State) : State :=
  if pkAbandoned k.bytes ∨ !s.isMine k.bytes ∨ s.stale k.bytes then s.discardIn b k else (take (s.takeIn b k) k.bytes).meshNext

/-- A first-hop packet with this module as its intermediate. -/
def State.passesHere (s : State) (p : List Byte) : Bool := pkType p != 5 && !s.isMine p && !pkSecond p && pkVia p = s.self

section
variable (s : State) (b : LineId)

theorem exec_dispatch : exec (.dispatch b) s = .next (s.onPacket b.val (s.endsHere 1) (State.stepPacket State.takeDispatch b.val)) := rfl
theorem exec_return : exec (.return_ b) s = .next (s.onPacket b.val (s.endsHere 2) (State.stepPacket State.takeReturn b.val)) := rfl
theorem exec_copyReq : exec (.copyReq b) s = .next (s.onPacket b.val (s.endsHere 3) fun k s =>
    if !s.isMine k.bytes then s.discardIn b.val k else s.answerReq b.val k) := rfl
theorem exec_copyData : exec (.copyData b) s = .next (s.onPacket b.val (s.endsHere 4) fun k s =>
    if !s.isMine k.bytes then s.discardIn b.val k else (s.takeIn b.val k).takeCopyPacket k.bytes) := rfl
theorem exec_packetForward : exec (.packetForward b) s = .next (s.onPacket b.val s.passesHere fun k s => s.forward b.val k) := rfl

end

/-- An event of a line that takes the first packet of a kind: with none it changes nothing, and on a line that is not UP the packet is
discarded. -/
structure TakesPacket (s : State) (b : LineId) (i : Instr) (ok : List Byte → Bool) : Prop where
  none : s.packetOn b.val ok = none → exec i s = .next s
  down : ∀ k, s.packetOn b.val ok = some k → s.lineSt b.val ≠ 5 → exec i s = .next (s.discardIn b.val k)

theorem TakesPacket.of_eq {s : State} {b : LineId} {i : Instr} {ok : List Byte → Bool} {run : Packet → State → State}
    (h : exec i s = .next (s.onPacket b.val ok run)) : TakesPacket s b i ok :=
  ⟨fun hn => h.trans (congrArg _ (State.onPacket_none hn)), fun _ hk hl => h.trans (congrArg _ (State.onPacket_down hk hl))⟩

section
variable {s : State} {b : Nat} {k : Packet} {take : State → List Byte → State}

theorem State.stepPacket_discarded (h : pkAbandoned k.bytes = true ∨ s.isMine k.bytes = false ∨ s.stale k.bytes = true) :
    State.stepPacket take b k s = s.discardIn b k := if_pos (h.imp_right (Or.imp_left bool_not_true))

theorem State.stepPacket_taken (ha : pkAbandoned k.bytes = false) (hm : s.isMine k.bytes = true) (hs : s.stale k.bytes = false) :
    State.stepPacket take b k s = (take (s.takeIn b k) k.bytes).meshNext := if_neg (by rw [ha, hm, hs]; decide)

/-! ## COPY_REQ -/

/-- The depot pages that a COPY_REQ reads. -/
def reqPages (p : List Byte) : List Nat :=
  (List.range (pageOf (pkAddr p + byteField p 24 4 - 1) - pageOf (pkAddr p) + 1)).map (pageOf (pkAddr p) + ·)

/-- A COPY_REQ's answer, with its flags and its body. -/
def State.reqAnswered (s : State) (b : Nat) (k : Packet) (e : Nat) (body : List Byte) : State :=
  (s.takeIn b k).queueOn b ((s.takeIn b k).packet 4 e (pkSrc k.bytes) 0xFF
    (leBytes 8 (pkAddr k.bytes) ++ leBytes 4 (byteField k.bytes 24 4) ++ leBytes 4 (pkTag k.bytes)) body)

theorem State.answerReq_refused (h : s.reqBad k.bytes ≠ 0) :
    s.answerReq b k = s.reqAnswered b k 8 (leBytes 2 (s.reqBad k.bytes) ++ zeros 6) := by
  have hst : (if s.reqBad k.bytes ≠ 0 then s.reqBad k.bytes else s.rangeStatus (pkAddr k.bytes) (byteField k.bytes 24 4)) = s.reqBad k.bytes :=
    if_pos h
  simp only [State.answerReq, hst]
  exact (if_neg fun hk => h hk.1).trans (if_pos h)

theorem State.answerReq_waits (h : s.reqBad k.bytes = 0) (hp : ∃ g ∈ reqPages k.bytes, s.pageReady g = false) :
    s.answerReq b k = (reqPages k.bytes).foldl (fun (s : State) g => (s.tierLookup g).promote g) s := by
  obtain ⟨g, hg, hr⟩ := hp
  have hall : (reqPages k.bytes).all s.pageReady = false := List.all_eq_false.2 ⟨g, hg, by simp [hr]⟩
  exact if_pos ⟨h, bool_not_true hall⟩

/-- A COPY_REQ whose pages are all there is answered with the status of its range, or with its bytes. -/
theorem State.answerReq_there (h : s.reqBad k.bytes = 0) (hp : ∀ g ∈ reqPages k.bytes, s.pageReady g = true) :
    s.answerReq b k =
      if s.rangeStatus (pkAddr k.bytes) (byteField k.bytes 24 4) ≠ 0 then
        s.reqAnswered b k 8 (leBytes 2 (s.rangeStatus (pkAddr k.bytes) (byteField k.bytes 24 4)) ++ zeros 6)
      else s.reqAnswered b k 0 ((s.takeIn b k).depotRead (pkAddr k.bytes) (byteField k.bytes 24 4)) := by
  have hall : (reqPages k.bytes).all s.pageReady = true := List.all_eq_true.2 hp
  have hst : (if s.reqBad k.bytes ≠ 0 then s.reqBad k.bytes else s.rangeStatus (pkAddr k.bytes) (byteField k.bytes 24 4)) =
      s.rangeStatus (pkAddr k.bytes) (byteField k.bytes 24 4) := if_neg fun hk => hk h
  simp only [State.answerReq, hst]
  refine (if_neg ?_).trans rfl
  rintro ⟨-, hk⟩
  exact Bool.false_ne_true ((congrArg (!·) hall).symm.trans hk)

/-! ## Detours -/

/-- The lines to a module that are UP. -/
def State.linesUp (s : State) (m : Nat) : List Nat := (s.linesTo m).filter (fun c => s.lineSt c = 5)

theorem State.forward_on {c : Nat} (h : (s.takeIn b k).nextLine (pkDst k.bytes) ((s.takeIn b k).linesUp (pkDst k.bytes)) = some c) :
    s.forward b k = (((s.takeIn b k).usedLine (pkDst k.bytes) c).queueOn c
      (k.bytes.set 5 (BitVec.ofNat 8 (byteField k.bytes 5 1 ||| 1)))).lineCtr c 11 1 := by
  change (match (s.takeIn b k).nextLine (pkDst k.bytes) ((s.takeIn b k).linesUp (pkDst k.bytes)) with
    | some _ => _
    | none => _) = _
  rw [h]

/-- The DETOUR_FAIL for the origin of a packet. -/
def State.failPacket (s : State) (b : Nat) (k : Packet) : List Byte :=
  (s.takeIn b k).packet 5 0 (pkSrc k.bytes) 0xFF (leBytes 1 3 ++ zeros 7 ++ leBytes 4 (pkTag k.bytes)) []

theorem option_match_getD {o : Option State} {t u : State} (h : (match o with | some x => x | none => t) = u) : o.getD t = u := by
  cases o <;> exact h

theorem State.forward_fails (h : (s.takeIn b k).nextLine (pkDst k.bytes) ((s.takeIn b k).linesUp (pkDst k.bytes)) = none) :
    s.forward b k = ((s.takeIn b k).sendTo (pkBinding k.bytes) (pkSrc k.bytes) (s.failPacket b k) []).getD (s.takeIn b k) := by
  refine Eq.symm (option_match_getD ?_)
  change _ = (match (s.takeIn b k).nextLine (pkDst k.bytes) ((s.takeIn b k).linesUp (pkDst k.bytes)) with
    | some _ => _
    | none => _)
  rw [h]
  rfl

/-- The detour's failure is counted; and the packet is no longer one that hops. -/
def State.detourCounted (s : State) (b : Nat) (k : Packet) : State := (s.takeIn b k).meshCtr 7 1
def State.unhopped (s : State) (h : Hop) : State := s.setMesh { s.mesh with hops := s.mesh.hops.filter (· != h) }

theorem exec_detourFail {b : LineId} (hk : s.packetOn b.val (ctlOp 3) = some k) :
    exec (.detourFail b) s = .next ((s.takeIn b.val k).detourFailed k.bytes).meshNext := by
  change Host.Outcome.next (match s.packetOn b.val (ctlOp 3) with
    | none => _
    | some _ => _) = _
  rw [hk]

theorem State.detourFailed_none {p : List Byte} (h : (s.meshCtr 7 1).mesh.hops.find? (fun h => h.tag = pkAbortStep p) = none) :
    s.detourFailed p = s.meshCtr 7 1 := by
  change (match (s.meshCtr 7 1).mesh.hops.find? (fun h => h.tag = pkAbortStep p) with
    | none => _
    | some _ => _) = _
  rw [h]

theorem State.detourFailed_hop {p : List Byte} {h : Hop} (hh : (s.meshCtr 7 1).mesh.hops.find? (fun h => h.tag = pkAbortStep p) = some h) :
    s.detourFailed p = if 3 ≤ (h.failed ++ [pkSrc p]).length then ((s.meshCtr 7 1).unhopped h).abortStep (pkBinding h.bytes) 0x3004 true
      else (((s.meshCtr 7 1).unhopped h).sendTo (pkBinding h.bytes) (pkDst h.bytes) h.bytes (h.failed ++ [pkSrc p])).getD
        (((s.meshCtr 7 1).unhopped h).abortStep (pkBinding h.bytes) 0x3004 true) := by
  change (match (s.meshCtr 7 1).mesh.hops.find? (fun h => h.tag = pkAbortStep p) with
    | none => _
    | some _ => _) = _
  rw [hh]
  refine if_congr Iff.rfl rfl (Eq.symm (option_match_getD ?_))
  rfl

/-! ## LINK_STATE and STEP_ABORT -/

/-- What a peer reports of its lines. -/
def linkReport (p : List Byte) : List (Nat × Bool × Nat) :=
  (List.range 24).map (fun i => (byteField p (32 + 4 * i) 1, bitOf (byteField p (33 + 4 * i) 1) 0, byteField p (34 + 4 * i) 2))

/-- The report is kept on the line. -/
def State.reportKept (s : State) (b : Nat) (k : Packet) : State :=
  (s.takeIn b k).setLine b { (s.takeIn b k).line b with report := linkReport k.bytes }

theorem exec_linkState {b : LineId} (hk : s.packetOn b.val (ctlOp 1) = some k) :
    exec (.linkState b) s = .next (s.reportKept b.val k) := by
  change Host.Outcome.next (match s.packetOn b.val (ctlOp 1) with
    | none => _
    | some _ => _) = _
  rw [hk]
  rfl

theorem State.reportKept_leaves (s : State) (b : Nat) (k : Packet) : s.OnlyParts (s.reportKept b k) [.mesh] ∧
    ((s.reportKept b k).line b).received = (s.line b).received.erase k ∧ ((s.reportKept b k).line b).report = linkReport k.bytes ∧
    ∀ x, x ≠ b → (s.reportKept b k).line x = s.line x := by
  refine ⟨(s.setMesh_onlyParts _).trans (State.setMesh_onlyParts _ _), ?_, ?_, fun x hx => ?_⟩
  · rw [State.reportKept, State.line_setLine_same]; exact s.takeIn_line b k
  · rw [State.reportKept, State.line_setLine_same]
  · rw [State.reportKept, State.line_setLine_other _ _ hx, State.takeIn, State.line_setLine_other _ _ hx]

theorem exec_linkStateTimer (s : State) : exec .linkStateTimer s = .next s.sendLinkStates := rfl

theorem State.sendLinkStates_none (h : ∀ x, x < 24 → s.lineSt x ≠ 4 ∧ s.lineSt x ≠ 5) : s.sendLinkStates = s := by
  have hnone : (List.range 24).filter (fun b => s.lineSt b = 4 || s.lineSt b = 5) = [] := by
    refine List.filter_eq_nil_iff.2 fun x hx => ?_
    obtain ⟨h4, h5⟩ := h x (List.mem_range.1 hx)
    simp [h4, h5]
  rw [State.sendLinkStates, hnone]
  rfl

/-- A STEP_ABORT that ends here: of the step in progress, of one that has ended, of a later one, or of another epoch. -/
def State.abortTaken (s : State) (b : Nat) (k : Packet) : State :=
  let p := k.bytes
  let u := s.takeIn b k
  let n := byteField p 20 1
  if pkEpoch p ≠ s.meshEpoch ∨ !s.bindings.contains n then u
  else if pkAbortStep p < s.stepNo n then u.setMesh { u.mesh with lateAborts := u.mesh.lateAborts + 1 }
  else if pkAbortStep p = s.stepNo n then (u.abortStep n 0x3004 false).meshNext
  else u

theorem exec_stepAbort {b : LineId} (hk : s.packetOn b.val (ctlOp 2) = some k) : exec (.stepAbort b) s = .next
    (if !s.isMine k.bytes ∧ pkVia k.bytes = s.self then s.forward b.val k else s.abortTaken b.val k) := by
  change Host.Outcome.next (match s.packetOn b.val (ctlOp 2) with
    | none => _
    | some _ => _) = _
  rw [hk]
  rfl

theorem State.abortTaken_other (h : pkEpoch k.bytes ≠ s.meshEpoch ∨ s.bindings.contains (byteField k.bytes 20 1) = false) :
    s.abortTaken b k = s.takeIn b k := if_pos (h.imp_right bool_not_true)

theorem State.abortTaken_step (he : pkEpoch k.bytes = s.meshEpoch) (hn : s.bindings.contains (byteField k.bytes 20 1) = true) :
    s.abortTaken b k = if pkAbortStep k.bytes < s.stepNo (byteField k.bytes 20 1) then
        (s.takeIn b k).setMesh { (s.takeIn b k).mesh with lateAborts := (s.takeIn b k).mesh.lateAborts + 1 }
      else if pkAbortStep k.bytes = s.stepNo (byteField k.bytes 20 1) then
        ((s.takeIn b k).abortStep (byteField k.bytes 20 1) 0x3004 false).meshNext
      else s.takeIn b k := by
  refine if_neg ?_
  rintro (hk | hk)
  · exact hk he
  · exact Bool.false_ne_true ((congrArg (!·) hn).symm.trans hk)

end

/-! ## A control packet that has not come; the steps' timers -/

section
variable {s : State} {b : LineId}

theorem exec_linkState_none (h : s.packetOn b.val (ctlOp 1) = none) : exec (.linkState b) s = .next s := by
  change Host.Outcome.next (match s.packetOn b.val (ctlOp 1) with
    | none => _
    | some _ => _) = _
  rw [h]

theorem exec_stepAbort_none (h : s.packetOn b.val (ctlOp 2) = none) : exec (.stepAbort b) s = .next s := by
  change Host.Outcome.next (match s.packetOn b.val (ctlOp 2) with
    | none => _
    | some _ => _) = _
  rw [h]

theorem exec_detourFail_none (h : s.packetOn b.val (ctlOp 3) = none) : exec (.detourFail b) s = .next s := by
  change Host.Outcome.next (match s.packetOn b.val (ctlOp 3) with
    | none => _
    | some _ => _) = _
  rw [h]

theorem exec_stepWaitExpiry_none {n : Fin 4} (h : s.mesh.table = none) : exec (.stepWaitExpiry n) s = .next s := by
  change Host.Outcome.next (match s.mesh.table with
    | none => _
    | some _ => _) = _
  rw [h]

theorem exec_stepWaitExpiry {n : Fin 4} {t : List Byte} (h : s.mesh.table = some t) : exec (.stepWaitExpiry n) s = .next
    (if (s.mstep n.val).running ∨ !(s.mstep n.val).waiting ∨ s.mesh.changes ≠ [] then s else (s.startWithout t n.val).meshNext) := by
  change Host.Outcome.next (match s.mesh.table with
    | none => _
    | some _ => _) = _
  rw [h]

theorem exec_stepWaitExpiry_idle {n : Fin 4} (h : s.mesh.table = none ∨ (s.mstep n.val).running = true ∨ (s.mstep n.val).waiting = false) :
    exec (.stepWaitExpiry n) s = .next s := by
  cases ht : s.mesh.table with
  | none => exact exec_stepWaitExpiry_none ht
  | some t =>
    refine (exec_stepWaitExpiry ht).trans (congrArg _ (if_pos ?_))
    obtain h | h | h := h
    · rw [ht] at h; exact absurd h (Option.some_ne_none t)
    · exact .inl h
    · exact .inr (.inl (bool_not_true h))

end

/-- Settles O50. -/
theorem meshEvents : Obligations.MeshEvents := by
  unfold Obligations.MeshEvents
  intro s b self mine
  refine ⟨?_, fun hl => ⟨?_, ?_, ?_, ?_⟩, ?_, exec_linkStateTimer s, fun h => ?_, ?_, ?_, ?_, fun n => ⟨?_, exec_stepWaitExpiry_idle, rfl⟩⟩
  · have htakes : ∀ c ∈ [(Instr.dispatch b, s.endsHere 1), (.return_ b, s.endsHere 2), (.copyReq b, s.endsHere 3),
        (.copyData b, s.endsHere 4), (.packetForward b, s.passesHere)], TakesPacket s b c.1 c.2 := by
      simp only [List.forall_mem_cons]
      exact ⟨.of_eq (exec_dispatch s b), .of_eq (exec_return s b), .of_eq (exec_copyReq s b), .of_eq (exec_copyData s b),
        .of_eq (exec_packetForward s b), fun _ h => nomatch h⟩
    exact fun c hc => ⟨(htakes c hc).none, fun k hk hl => ⟨_, (htakes c hc).down k hk hl, s.discardIn_leaves b.val k⟩⟩
  · have hstep {i : Instr} {type : Nat} {take : State → List Byte → State} {k : Packet}
        (hi : exec i s = .next (s.onPacket b.val (s.endsHere type) (State.stepPacket take b.val)))
        (hk : s.packetOn b.val (s.endsHere type) = some k) :
        (pkAbandoned k.bytes = true ∨ mine k.bytes = false ∨ s.stale k.bytes = true → exec i s = .next (s.discardIn b.val k)) ∧
        (pkAbandoned k.bytes = false → mine k.bytes = true → s.stale k.bytes = false →
          exec i s = .next ((take (s.takeIn b.val k) k.bytes).meshNext)) := by
      have e := hi.trans (congrArg _ (State.onPacket_up hk hl))
      exact ⟨fun h => e.trans (congrArg _ (State.stepPacket_discarded h)),
        fun ha hm hs => e.trans (congrArg _ (State.stepPacket_taken ha hm hs))⟩
    simp only [List.forall_mem_cons]
    exact ⟨fun k hk => hstep (exec_dispatch s b) hk, fun k hk => hstep (exec_return s b) hk, fun _ h => nomatch h⟩
  · intro k hk
    have e := (exec_copyReq s b).trans (congrArg _ (State.onPacket_up hk hl))
    refine ⟨fun hm => e.trans (congrArg _ (if_pos (bool_not_true hm))), fun hm => ?_⟩
    have e' := e.trans (congrArg Host.Outcome.next (if_neg fun hn => Bool.false_ne_true ((congrArg (!·) hm).symm.trans hn)))
    intro p a n pages u tail answered
    refine ⟨fun hr => e'.trans (congrArg _ (State.answerReq_refused hr)), fun hr hp => ⟨fun hs => ?_, fun hs => ?_⟩,
      fun hr hp => e'.trans (congrArg _ (State.answerReq_waits hr hp))⟩
    · exact e'.trans (congrArg _ ((State.answerReq_there hr hp).trans (if_pos hs)))
    · exact e'.trans (congrArg _ ((State.answerReq_there hr hp).trans (if_neg fun h => h hs)))
  · intro k hk
    have e := (exec_copyData s b).trans (congrArg _ (State.onPacket_up hk hl))
    exact ⟨fun hm => e.trans (congrArg _ (if_pos (bool_not_true hm))), fun hm => e.trans (congrArg _ (if_neg fun hn =>
      Bool.false_ne_true ((congrArg (!·) hm).symm.trans hn)))⟩
  · intro k hk u m up
    have e := (exec_packetForward s b).trans (congrArg _ (State.onPacket_up hk hl))
    exact ⟨fun c hc => e.trans (congrArg _ (State.forward_on hc)), fun hc => e.trans (congrArg _ (State.forward_fails hc))⟩
  · exact fun k hk => ⟨_, exec_linkState hk, s.reportKept_leaves b.val k⟩
  · rw [exec_linkStateTimer, State.sendLinkStates_none h]
  · intro k hk p u n
    have e := exec_stepAbort hk
    refine ⟨fun hm hv => e.trans (congrArg _ (if_pos ⟨bool_not_true hm, hv⟩)), fun hm => ?_⟩
    have e' := e.trans (congrArg Host.Outcome.next (if_neg fun hn => hm.elim
      (fun h => Bool.false_ne_true ((congrArg (!·) h).symm.trans hn.1)) (fun h => h hn.2)))
    refine ⟨fun h => e'.trans (congrArg _ (State.abortTaken_other h)), fun he hn => ?_⟩
    have e'' := e'.trans (congrArg _ (State.abortTaken_step he hn))
    exact ⟨fun h => e''.trans (congrArg _ (if_pos h)),
      fun h => e''.trans (congrArg _ ((if_neg (Nat.not_lt.2 (Nat.le_of_eq h.symm))).trans (if_pos h))),
      fun h => e''.trans (congrArg _ ((if_neg (Nat.lt_asymm h)).trans (if_neg (Nat.ne_of_gt h))))⟩
  · intro k hk u
    have e := exec_detourFail hk
    refine ⟨fun hn => e.trans (congrArg (fun x : State => Host.Outcome.next x.meshNext) (State.detourFailed_none hn)), ?_⟩
    intro h hh v failed n
    have e' := e.trans (congrArg (fun x : State => Host.Outcome.next x.meshNext) (State.detourFailed_hop hh))
    exact ⟨fun hf => e'.trans (congrArg (fun x : State => Host.Outcome.next x.meshNext) (if_pos hf)),
      fun hf => e'.trans (congrArg (fun x : State => Host.Outcome.next x.meshNext) (if_neg (Nat.not_le.2 hf)))⟩
  · simp only [List.forall_mem_cons]
    exact ⟨exec_linkState_none, exec_stepAbort_none, exec_detourFail_none, fun _ h => nomatch h⟩
  · intro t ht hr hw hc
    exact (exec_stepWaitExpiry ht).trans (congrArg _ (if_neg (by simp [hr, hw, hc])))

end Sys2Proof.Machine
end
